-- ==== Sys2Proof/Word.lean ====
section
/-! DEFINITION. The word types of the module and nothing else: bytes, registers, lines. -/

namespace Sys2Proof

/-- A byte of memory or of a structure in memory (R12: little-endian). -/
abbrev Byte := BitVec 8
/-- One thread register (R93). -/
abbrev W32 := BitVec 32
/-- A device register, a command-record word or an instruction word (R36, R133). -/
abbrev W64 := BitVec 64
/-- A 128-byte line; byte `b` is bits `8b+7 : 8b` (R225, R12). -/
abbrev Line := BitVec 1024

/-- A sparse table: key and value pairs, keys strictly rising, no entry equal to the default. -/
abbrev SMap (α : Type) := List (Nat × α)

end Sys2Proof
end

