-- ==== Sys2Proof/Syntax.lean ====
section
/-! DEFINITION. The commands of the block: one constructor per row of spec/opcode_table.json, with the operands the
rules give the row. Where a row is an instruction that the spec encodes, the operand is the 64-bit word itself. -/

namespace Sys2Proof

/-- The group that issues an instruction (R132), and what the residue checks and the register ECC find while it runs:
`fails` failed checks of step `failStep` (R125, R126), `ue` an uncorrectable error in a register or accumulator read (R127). -/
structure GRef where
  cl : Nat
  core : Nat
  slot : Nat
  failStep : Nat := 0
  fails : Nat := 0
  ue : Bool := false
  deriving DecidableEq, Repr

/-- Comparison of the vector pipes (R117 names the operation, not its predicates). -/
inductive Pred where
  | eq | ne | lt | le | gt | ge | unordered
  deriving DecidableEq, Repr

/-- Integer logic of the vector pipes (R117). -/
inductive LogicOp where
  | and | or | xor | not
  deriving DecidableEq, Repr

/-- Integer shifts of the vector pipes (R117). -/
inductive ShiftOp where
  | left | right | arith
  deriving DecidableEq, Repr

/-- The named fields of a vector instruction, whose bit layout the spec does not give: format code of R15, destination
format of a CVT, registers, rounding mode, SAT and rounding block of R118. -/
structure VArgs where
  fmt : BitVec 4
  dst : BitVec 4 := 0
  rd : BitVec 8
  ra : BitVec 8
  rb : BitVec 8 := 0
  rc : BitVec 8 := 0
  rm : BitVec 3 := 0
  sat : Bool := false
  rblk : BitVec 8 := 0
  scale : BitVec 8 := 0
  deriving DecidableEq, Repr

/-- One record of a reduction or atomic packet (R269). -/
inductive CruRecord where
  | ledger (elem : Nat) (limb0 : Nat) (limbs : List W64) (nan pinf ninf negz intOnly : Bool)
  | pair (elem : Nat) (hi lo : W64)
  | rounded (off size : Nat) (operand comparand : W64)
  deriving DecidableEq, Repr

/-- A class 0x5 packet (R268, R269): header fields, prefix, rounding block and records. -/
structure CruPacket where
  line : Nat
  fl : BitVec 4
  op : Nat
  ret : Bool := false
  rm : BitVec 3 := 0
  sat : Bool := false
  ho : Bool := false
  rsr : Option (W64 × W64 × W32) := none
  task : Nat
  /-- tag of the sender's transaction (R184) and the region attribute of the page used (R267) -/
  tag : Nat := 0
  attr : Nat := 0
  part : Nat := 0
  /-- tags of the packets that combining absorbed into it (R188) -/
  absorbed : List Nat := []
  recs : List CruRecord
  deriving DecidableEq, Repr

/-- Collective data that reaches a member, for a line of the destination (R395): finished data; elements of a partial, its own
source's or its predecessor's; or ledger records of a partial, from its staging area (R446). -/
inductive CollData where
  | final (be : BitVec 128) (data : Line)
  | part (be : BitVec 128) (data : Line)
  | records (recs : List CruRecord)
  deriving DecidableEq, Repr

/-- A Jenol Link frame as received (R306): header, sixteen cells, CRC. -/
structure Frame where
  header : BitVec 256
  cells : List (BitVec 128)
  crc : W64
  deriving DecidableEq, Repr

/-- An RC packet or message as it reaches the device (R434 to R436). -/
structure RcPacket where
  port : Nat
  half : Nat := 0
  vlan : Nat := 0
  /-- IPv6 destination, or IPv4-mapped (R430) -/
  dstIp : BitVec 128 := 0
  qpn : Nat
  psn : Nat
  va : W64 := 0
  rkey : W32 := 0
  len : Nat := 0
  data : List Byte := []
  /-- the packet ends its message, and carries an ECN mark (R436, R439) -/
  last : Bool := true
  ce : Bool := false
  deriving DecidableEq, Repr

/-- A connection-management MAD addressed to QPN 1 (R432, R433). -/
structure CmReq where
  port : Nat
  half : Nat := 0
  vlan : Nat
  /-- IPv6 destination, or IPv4-mapped (R430) -/
  dstIp : BitVec 128
  srcIp : BitVec 128
  peerQpn : Nat
  peerPsn : Nat
  mtu : Nat
  /-- reads and atomics that the peer takes at once (R433) -/
  depth : Nat := 16
  deriving DecidableEq, Repr

/-- A PTP event message (R448). -/
structure PtpMsg where
  port : Nat
  half : Nat := 0
  domain : Nat
  seqId : Nat
  overIp : Bool
  peer : BitVec 128
  deriving DecidableEq, Repr

/-- What the check bits of an array find (R252, R253): the 32-byte sector of the line that the failing word is in. -/
inductive EccResult where
  | clean
  | corrected (sector : Nat)
  | uncorrectable (sector : Nat)
  deriving DecidableEq, Repr

/-- What the read of a protected unit of memory meets (R203): the line's sector in which the unit begins, its wrong bits, and whether
what is read was written to another address. Bit `k` of a face unit is in its symbol `k / 16`; bit `k` of a stockpile burst is on DQ
pin `k % 12`. -/
structure MemFault where
  sector : Nat
  wrong : List Nat
  elsewhere : Bool
  deriving DecidableEq, Repr

/-- The on-die arrays that carry check bits of their own (R127, R163, R252, R281, R288). -/
inductive ArrayUnit where
  | clusterMem (cl bank word : Nat)
  | sliceData (sid line sector : Nat)
  | sliceTags (sid : Nat)
  | snoopFilter (sid : Nat)
  | ledgerCell (sid line elem : Nat)
  | directory (sid : Nat)
  /-- an L1 of a core, or with core 12 the cluster read cache -/
  | readOnly (cl core line : Nat)
  deriving DecidableEq, Repr

/-- The unit whose test ends (R520, R544). -/
inductive TestUnit where
  | cluster (die cl : Nat)
  | slice (die sl : Nat)
  | die (d : Nat)
  deriving DecidableEq, Repr

/-- Receiver of a WB_ACK (R293, R347, R388, R510): a departing spoil entry, an outstanding access, or a die's KEY_LOAD. -/
inductive AckTo where
  | spoil (sid line : Nat)
  | access (tag : Nat)
  | key (die : Nat)
  deriving DecidableEq, Repr

/-- One constructor per row of spec/opcode_table.json, in its order. -/
inductive Instr where
  -- matrix engine and tiles
  | mma (g : GRef) (w : W64)
  | accLoad (g : GRef) (w : W64)
  | accRelease (g : GRef) (w : W64)
  | accRound (g : GRef) (w : W64)
  | accPush (g : GRef) (w : W64)
  | accSave (g : GRef) (w : W64)
  | accRestore (g : GRef) (w : W64)
  | tld (g : GRef) (w : W64)
  | tst (g : GRef) (w : W64)
  -- vector pipes
  | add (g : GRef) (v : VArgs)
  | sub (g : GRef) (v : VArgs)
  | mul (g : GRef) (v : VArgs)
  | fma (g : GRef) (v : VArgs)
  | min (g : GRef) (v : VArgs)
  | max (g : GRef) (v : VArgs)
  | compare (g : GRef) (p : Pred) (v : VArgs)
  | logic (g : GRef) (o : LogicOp) (v : VArgs)
  | shift (g : GRef) (o : ShiftOp) (v : VArgs)
  | multiplyAdd (g : GRef) (v : VArgs)
  | div (g : GRef) (v : VArgs)
  | sqrt (g : GRef) (v : VArgs)
  | cvt (g : GRef) (v : VArgs)
  | dadd (g : GRef) (v : VArgs)
  | dsub (g : GRef) (v : VArgs)
  | dmul (g : GRef) (v : VArgs)
  | dmulf (g : GRef) (v : VArgs)
  -- special-function unit
  | rcp (g : GRef) (v : VArgs)
  | rsq (g : GRef) (v : VArgs)
  | ex2 (g : GRef) (v : VArgs)
  | lg2 (g : GRef) (v : VArgs)
  | sinpi (g : GRef) (v : VArgs)
  | cospi (g : GRef) (v : VArgs)
  | tanh (g : GRef) (v : VArgs)
  | sigm (g : GRef) (v : VArgs)
  | sfTime (g : GRef) (rd : BitVec 8)
  -- control
  | bra (g : GRef) (w : W64)
  | join (g : GRef) (w : W64)
  | barT (g : GRef) (w : W64)
  | exit (g : GRef) (w : W64)
  | yield (g : GRef) (w : W64)
  -- local store and global memory
  | ldl (g : GRef) (w : W64)
  | stl (g : GRef) (w : W64)
  | atoml (g : GRef) (w : W64)
  | ld (g : GRef) (w : W64)
  | st (g : GRef) (w : W64)
  | atom (g : GRef) (w : W64)
  | red (g : GRef) (w : W64)
  | cruClose (g : GRef) (w : W64)
  | fenceRel (g : GRef) (w : W64)
  | fenceAcq (g : GRef) (w : W64)
  | fenceComplete (g : GRef)
  | enq (g : GRef) (w : W64)
  -- queues and host commands
  | doorbell (p q : Nat) (value : W64)
  | commandFetch (p q : Nat)
  | launch (p q : Nat) (seq : W32)
  | nop (p q : Nat) (seq : W32)
  | retry (p q : Nat) (seq : W32)
  | skip (p q : Nat) (seq : W32)
  | teardown (p q : Nat) (seq : W32)
  | invTlb (p q : Nat) (seq : W32)
  | invRo (p q : Nat) (seq : W32)
  | createContext (p q : Nat) (seq : W32)
  | destroyContext (p q : Nat) (seq : W32)
  | createQueue (p q : Nat) (seq : W32)
  | destroyQueue (p q : Nat) (seq : W32)
  | registerGraph (p q : Nat) (seq : W32)
  | patchGraph (p q : Nat) (seq : W32)
  | releaseGraph (p q : Nat) (seq : W32)
  | setEventRing (p q : Nat) (seq : W32)
  | retireRows (p q : Nat) (seq : W32)
  | selfTest (p q : Nat) (seq : W32)
  | resetPartition (p q : Nat) (seq : W32)
  | imgBegin (p q : Nat) (seq : W32)
  | imgWrite (p q : Nat) (seq : W32) (programOk : Bool)
  | imgFinish (p q : Nat) (seq : W32)
  | imgCommit (p q : Nat) (seq : W32)
  | imgAbort (p q : Nat) (seq : W32)
  | commandComplete (p q : Nat) (seq : W32)
  -- tasks and scheduling
  | nodeStart (launch node : Nat)
  | timeSliceEnd (p ctx : Nat)
  | budgetOverrun (launch : Nat)
  | hostSyncPoll (task : Nat)
  | dmaDescriptor (task : Nat)
  | admissionPass
  | preload (launch node : Nat)
  | teamStart (task cl team : Nat)
  | teamDone (task team : Nat)
  | dmaDone (task : Nat)
  | collDone (task : Nat)
  | preempt (task cl : Nat)
  | resume (task cl slot : Nat)
  | discard (task cl : Nat)
  | ptPurge (p sid : Nat)
  -- DMA, collectives, windows and registers
  | dmaRd (task line : Nat) (sectors : BitVec 4)
  | dmaWr (task line : Nat) (be : BitVec 128) (data : Line)
  | coll (task line : Nat) (d : CollData)
  | enqRec (p q tag : Nat) (words : List W64)
  | rdWin (p tag line : Nat) (sectors : BitVec 4)
  | wrWin (p tag line : Nat) (be : BitVec 128) (data : Line)
  | rdReg (p tag line : Nat) (sectors : BitVec 4)
  | wrReg (p tag line : Nat) (be : BitVec 128) (data : Line)
  | registerWrite (p off : Nat) (value : W64)
  | rdRem (p tag line : Nat) (sectors : BitVec 4) (attr : Nat)
  | wrRem (p tag line : Nat) (be : BitVec 128) (data : Line)
  | flushRem (p tag base : Nat)
  | invRem (p sid tag : Nat)
  | keyLoad (die : Nat) (unwrapOk : Bool)
  -- coherence messages
  | rdS (die line : Nat) (ecc : List MemFault)
  | rdE (die line : Nat) (ecc : List MemFault)
  | upg (die line : Nat)
  | rdOnce (tag line : Nat) (ecc : List MemFault)
  | drop (die line : Nat)
  | reg (sid home : Nat)
  | snpS (die line : Nat)
  | snpI (die line : Nat)
  | snpR (die line : Nat)
  | binv (die line : Nat)
  | sackI (die line : Nat)
  | sackS (die line : Nat)
  | grantE (die line : Nat)
  | grantM (die line : Nat)
  | wbAck (dest : AckTo) (status : BitVec 4)
  | regAck (sid home : Nat)
  | dataS (die line : Nat) (data : Line) (poison : W32)
  | dataE (die line : Nat) (data : Line) (poison : W32)
  | dataM (die line : Nat) (data : Line) (poison : W32)
  | sdata (die line : Nat) (data : Line) (dirty : BitVec 4) (poison : W32)
  | dataOnce (tag line : Nat) (data : Line) (sectors : BitVec 4) (poison : W32) (status : BitVec 4)
  | wb (die line : Nat) (data : Line) (dirty : BitVec 4) (poison : W32)
  | wfwd (die line tag attr : Nat) (be : BitVec 128) (data : Line)
  | fill (sid line : Nat) (ecc : List MemFault)
  | clusterFill (cl line : Nat) (data : Line) (poison : W32)
  | spoilWriteOut (sid : Nat)
  -- crusher
  | ledgerRecords (sid : Nat) (pkt : CruPacket)
  | pairRecords (sid : Nat) (pkt : CruPacket)
  | roundedUpdate (sid : Nat) (pkt : CruPacket)
  | closeLine (sid line tag : Nat)
  | closeTask (sid task : Nat)
  | crusherAck (tag : Nat) (status : Byte)
  | lineBringBack (sid line : Nat)
  -- meshes, enables and memory upkeep
  | flitError (die node hop flit : Nat) (control : Bool)
  | roCacheEnable (cl : Nat)
  | sliceEnable (sid : Nat)
  | refresh (chan bank first rows : Nat)
  | disturbanceRefresh (chan bank row : Nat)
  | patrolScrub (pa : Nat) (wrong : List Nat) (elsewhere : Bool)
  | arrayScrub (u : ArrayUnit) (r : EccResult)
  | retrainWindow (chan : Nat) (done ok : Bool)
  | faceRecalibration (chan : Nat)
  | temperatureReadout (chan : Nat) (tenths : Int)
  -- Jenol Link
  | dataFrame (link dir octet : Nat) (f : Frame)
  | idleFrame (link dir octet : Nat) (f : Frame)
  | capFrame (link dir octet : Nat) (f : Frame)
  | widthFrame (link dir octet : Nat) (f : Frame)
  | alignFrame (link dir octet : Nat) (f : Frame)
  | recalFrame (link dir octet : Nat) (f : Frame)
  | nakRepeat (link dir : Nat)
  | frameTimeout (link : Nat)
  | lossOfSignal (link octet : Nat)
  | octetRecalibration (link octet : Nat) (ok : Bool)
  | lnkCmdRetire (link : Nat) (mask : BitVec 12)
  | lnkCmdRecal (link : Nat)
  -- Ethernet and remote memory access
  | rdmaWrite (k : RcPacket)
  | rdmaReadRequest (k : RcPacket)
  | fetchAdd (k : RcPacket) (addend : W64)
  | cmpSwap (k : RcPacket) (cmp swap : W64)
  | unsupportedOperation (k : RcPacket)
  | rdmaReadResponse (qp psn : Nat) (data : List Byte)
  | acknowledge (qp psn : Nat) (value : W64)
  | nak (qp psn : Nat) (syndrome : Nat)
  | rnrNak (qp psn : Nat) (timer : Nat)
  | ackTimeout (qp : Nat)
  | cnp (qp : Nat)
  | cnpRateIncrease (qp : Nat)
  | pfcFrame (port half : Nat) (pause resume : Byte)
  | req (m : CmReq)
  | rep (qp peerQpn peerPsn mtu depth : Nat)
  | rtu (qp : Nat)
  | rej (qp reason : Nat)
  | dreq (qp : Nat)
  | drep (qp : Nat)
  | windowReqRetry (win : Nat)
  | arp (port half vlan : Nat) (ip : W32)
  | neighborDiscovery (port half vlan : Nat) (ip : BitVec 128)
  | delayReq (m : PtpMsg)
  | pdelayReq (m : PtpMsg)
  | unmatchedFrame (port half : Nat)
  | portUp (port half : Nat) (full : Bool)
  | portDown (port half : Nat)
  -- supply and power
  | softStart (mv : Nat)
  | supplyWarning (mv : Nat)
  | warningCleared (mv : Nat)
  | coldReset (mv : Nat)
  | overvoltage (mv : Nat)
  | modResetAssert (ns : Nat)
  | modResetRelease
  | flashEnAssert
  | flashEnRelease
  | currentSample (mv ma : Nat)
  | powerCapLoop
  | pwrCapWrite (value : W64)
  | sensorSample (die node : Nat) (tenths : Int)
  | hotSensorTimeout
  | latchSensorRead (tenths : Int)
  | droopTrip (die node : Nat)
  | droopEnd (die : Nat)
  | droopLimit (die : Nat)
  | withholdSummary (p : Nat)
  | ageingMonitorRead (die : Nat) (slow : Bool)
  -- lifecycle
  | oscillatorCheck (die : Nat) (ppm : Int) (stopped : Bool)
  | watchdogExpiry (die : Nat) (faceChannel : Bool)
  | firmwareWatchdog
  | domainFatal (cause : Byte) (suspects : BitVec 9)
  | restartResume (unreadable : List Nat)
  | coldStart
  | reducedService
  | logicSelfTestDone (u : TestUnit) (pass : Bool)
  | ledgerSelfTestDone (u : TestUnit) (crusher pass : Bool)
  | fullService
  | journalProgram
  | errorSnapshot
  -- register writes with behaviour of their own
  | qdbCtlDiscard (p q : Nat)
  | qdbCtlResync (p q : Nat)
  | qdbEvtailWrite (p : Nat) (value : W64)
  | secQuoteCtlGo
  | quoteComplete
  -- late rows
  | rnrTimerExpiry (qp : Nat)
  | overvoltageCleared (mv : Nat)
  | fru3v3Removal
  | controlSegmentPoll (task : Nat) (aborted arrived : Bool)
  | controlComplexStepChange (step : Nat)
  | fecUncorrectableFrame (port half : Nat)
  deriving DecidableEq, Repr

end Sys2Proof
end

