-- ==== Sys2Proof/Decode.lean ====
section
/-! DEFINITION. Commands from bits: spec/opcode_table.json gives no row any bits (every `fields` list is empty), so no word
spells a command. -/

namespace Sys2Proof

/-- The command that the table's bits spell: none, for the table gives none. -/
def decodeTableWord (nbits w : Nat) : Option Instr :=
  match nbits, w with
  | _, _ => none

end Sys2Proof
end

