-- ==== Sys2Proof/Config.lean ====
section
/-! DEFINITION. What the spec fixes per part or leaves open: uninterpreted constants only. No proof can learn a value of
any of them. Each is named in a row of notes/assumptions/. -/

namespace Sys2Proof.Config

/-- The free value with index `n` (DESIGN CHOICE, log 3): an unstated or undefined value, one fresh index per use. -/
opaque freeWord : Nat → BitVec 64

/-- The bits a special-function unit would deliver for function `f` of an FP32 argument, before the bound of R120 is
imposed (DESIGN CHOICE, log 11). The same inputs give the same bits (R88). -/
opaque sfuBits : Nat → BitVec 32 → BitVec 32

/-- The DD128 value a pipe would deliver for operation `f`, before the bound of R119 is imposed (DESIGN CHOICE, log 11). -/
opaque ddBits : Nat → BitVec 128 → BitVec 128 → BitVec 128

/-- What a true comparison writes beside its lowest bit (DESIGN CHOICE, log 12). -/
opaque compareTrue : BitVec 32

/-- V of a pair whose sum the 640 bits of V cannot hold (DESIGN CHOICE, log 83). -/
opaque reducedV : Nat → Nat → BitVec 640

/-- SHA-512 of the named standard (R487, R512), uninterpreted (DESIGN CHOICE, log 10). -/
opaque sha512 : List (BitVec 8) → BitVec 512

/-- RSASSA-PSS verification of R487: modulus, message, signature (DESIGN CHOICE, log 10). -/
opaque rsaValid : List (BitVec 8) → List (BitVec 8) → List (BitVec 8) → Bool

/-- The Amintawald root public key of the boot ROM (R487, DESIGN CHOICE, log 10). -/
opaque rootModulus : List (BitVec 8)

/-- The identity key's signature over a quote body (R509, R512, DESIGN CHOICE, log 10). -/
opaque identitySign : BitVec 64 → List (BitVec 8) → List (BitVec 8)

/-- Length of the X.509 certificate that parses at the start of the factory area, 0 where none does (R514, DESIGN CHOICE, log 10). -/
opaque certLength : List (BitVec 8) → Nat

/-- AES-256-XTS of one sector under a key pair and a tweak (R217, DESIGN CHOICE, log 10): keys, tweak, plain text. -/
opaque aesXts : BitVec 256 → BitVec 256 → BitVec 128 → BitVec 256 → BitVec 256

/-- Which of its 64 entries a full tracker gives up for a row (R207, DESIGN CHOICE, log 104). -/
opaque trackerEvict : Nat → Nat

/-- Does the stockpile memory's accounting call for refresh management after so many activations of a bank, and what a refresh of the
bank leaves of the count (R208, DESIGN CHOICE, log 104). -/
opaque managementDue : Nat → Bool
opaque accountedAfter : Nat → Nat

/-- Refresh interval in ns that a stockpile temperature in 0.1 C requires (R200, R206, DESIGN CHOICE, log 104). -/
opaque stockInterval : Int → Nat

/-- Ticks of a compute die's oscillator while the IOD's ticks once, by die and die time (R53, DESIGN CHOICE, log 107). -/
opaque oscTicks : Nat → Nat → Nat

/-- Register of a lane's scrambler after an ALIGN frame, from the lane's number (R309, DESIGN CHOICE, log 110). -/
opaque laneSeed : Nat → BitVec 58

/-- Weights of the estimate of a partition's draw, in uW: of a matrix step by its pair of input formats, and of each cluster (R457,
DESIGN CHOICE, log 81). -/
opaque stepWeight : Nat → Nat
opaque clusterWeight : Nat

/-- Contents of the FRU EEPROM as written at manufacture (R481, DESIGN CHOICE, log 108). -/
opaque fruByte : Nat → BitVec 8

/-- Bank of a stockpile row: the spec gives no bank map (DESIGN CHOICE, log 13). -/
opaque stockBank : Nat → Nat

/-- The hash that selects the set of a line in a cluster read cache: the spec names a hash and gives none (R167; DESIGN
CHOICE, DESIGN CHOICE, log 94). -/
opaque roHash : Nat → Nat

/-- Whether a packet meets, in a router on its way, a packet that it combines with, and which of the dies it passes that router is on
(R188, R190; DESIGN CHOICE, log 99). -/
opaque meets : Nat → Bool
opaque meetsAt : Nat → Nat

end Sys2Proof.Config
end

