-- ==== Sys2Proof/Machine/Num.lean ====
section
/-! DEFINITION. Number formats, exact values and rounding: R15, R61 to R72 of 03_number_formats_accuracy. -/

namespace Sys2Proof.Num

/-- Field `hi:lo` of a word (R12). -/
def field (w hi lo : Nat) : Nat := (w >>> lo) % 2 ^ (hi - lo + 1)

/-- Two's-complement reading of the low `n` bits. -/
def signed (n w : Nat) : Int :=
  let v := w % 2 ^ n
  if v < 2 ^ (n - 1) then (v : Int) else (v : Int) - (2 ^ n : Nat)

/-- Two's-complement code of an integer in `n` bits. -/
def unsigned (n : Nat) (v : Int) : Nat := (v % ((2 ^ n : Nat) : Int)).toNat

/-- How a scalar float format spends its top codes (R61). -/
inductive Specials where
  | ieee | e4m3 | none
  deriving DecidableEq, Repr

/-- A row of the table of R61. -/
structure FloatSpec where
  ebits : Nat
  mbits : Nat
  bias : Int
  specials : Specials
  canonicalNan : Nat
  deriving DecidableEq, Repr

def fp64 : FloatSpec := ⟨11, 52, 1023, .ieee, 0x7FF8000000000000⟩
def fp32 : FloatSpec := ⟨8, 23, 127, .ieee, 0x7FC00000⟩
def fp16 : FloatSpec := ⟨5, 10, 15, .ieee, 0x7E00⟩
def bf16 : FloatSpec := ⟨8, 7, 127, .ieee, 0x7FC0⟩
def e4m3 : FloatSpec := ⟨4, 3, 7, .e4m3, 0x7F⟩
def e5m2 : FloatSpec := ⟨5, 2, 15, .ieee, 0x7E⟩
def e3m2 : FloatSpec := ⟨3, 2, 3, .none, 0⟩
def e2m1 : FloatSpec := ⟨2, 1, 1, .none, 0⟩

/-- Kind of a format code (R15). -/
inductive Kind where
  | float (f : FloatSpec)
  | mxFloat (f : FloatSpec) (emax : Int)
  | mxInt
  | int (bits : Nat)
  | dd
  | reserved
  deriving DecidableEq, Repr

/-- The table of R15. -/
def kindOf (c : BitVec 4) : Kind :=
  match c.toNat with
  | 0x0 => .float fp64
  | 0x1 => .float fp32
  | 0x2 => .float fp16
  | 0x3 => .float bf16
  | 0x4 => .float e4m3
  | 0x5 => .float e5m2
  | 0x6 => .mxFloat e4m3 8
  | 0x7 => .mxFloat e3m2 4
  | 0x8 => .mxFloat e2m1 2
  | 0x9 => .mxInt
  | 0xA => .int 32
  | 0xB => .int 16
  | 0xC => .int 8
  | 0xD => .int 4
  | 0xE => .dd
  | _ => .reserved

/-- Element width in bits (R15). -/
def elemBits (c : BitVec 4) : Nat :=
  match c.toNat with
  | 0x0 => 64 | 0x1 => 32 | 0x2 => 16 | 0x3 => 16 | 0x4 => 8 | 0x5 => 8 | 0x6 => 8 | 0x7 => 6
  | 0x8 => 4 | 0x9 => 8 | 0xA => 32 | 0xB => 16 | 0xC => 8 | 0xD => 4 | 0xE => 128 | _ => 0

def isMx (c : BitVec 4) : Bool := 6 ≤ c.toNat && c.toNat ≤ 9
/-- Class column of R15. -/
def isExact (c : BitVec 4) : Bool :=
  (2 ≤ c.toNat && c.toNat ≤ 9) || (0xB ≤ c.toNat && c.toNat ≤ 0xD)
def isPair (c : BitVec 4) : Bool := c.toNat ≤ 1
/-- INT4, INT8 and INT16: the formats that keep a ledger integer-only (R79, R109). -/
def isIntInput (c : BitVec 4) : Bool := 0xB ≤ c.toNat && c.toNat ≤ 0xD

/-- A value of a number format: `man * 2^exp` with a sign; a zero has `man = 0` (R61, R62). -/
inductive FVal where
  | nan
  | inf (neg : Bool)
  | num (neg : Bool) (man : Nat) (exp : Int)
  deriving DecidableEq, Repr

/-- An exact magnitude: it lies in `[man, man + 1) * 2^exp`, and equals `man * 2^exp` when `sticky` is false. -/
structure Exact where
  neg : Bool
  man : Nat
  exp : Int
  sticky : Bool := false
  deriving DecidableEq, Repr

/-- An exact result before rounding. -/
inductive XVal where
  | nan
  | inf (neg : Bool)
  | fin (x : Exact)
  deriving DecidableEq, Repr

def FVal.toX : FVal → XVal
  | .nan => .nan
  | .inf n => .inf n
  | .num n m e => .fin ⟨n, m, e, false⟩

def FVal.isZero : FVal → Bool
  | .num _ m _ => m == 0
  | _ => false

def FVal.neg : FVal → FVal
  | .nan => .nan
  | .inf n => .inf (!n)
  | .num n m e => .num (!n) m e

/-- Decode a scalar float code (R61). -/
def decodeFloat (f : FloatSpec) (code : Nat) : FVal :=
  let fr := code % 2 ^ f.mbits
  let e := (code >>> f.mbits) % 2 ^ f.ebits
  let s := (code >>> (f.mbits + f.ebits)) % 2 == 1
  let top := e == 2 ^ f.ebits - 1
  let ordinary : FVal :=
    if e == 0 then .num s fr (1 - f.bias - f.mbits)
    else .num s (2 ^ f.mbits + fr) ((e : Int) - f.bias - f.mbits)
  match f.specials with
  | .ieee => if top then (if fr == 0 then .inf s else .nan) else ordinary
  | .e4m3 => if top && fr == 2 ^ f.mbits - 1 then .nan else ordinary
  | .none => ordinary

/-- Code of the largest finite magnitude (R61). -/
def maxCode (f : FloatSpec) : Nat :=
  match f.specials with
  | .ieee => (2 ^ f.ebits - 1) * 2 ^ f.mbits - 1
  | .e4m3 => 2 ^ (f.ebits + f.mbits) - 2
  | .none => 2 ^ (f.ebits + f.mbits) - 1

def signBit (f : FloatSpec) (neg : Bool) : Nat := if neg then 2 ^ (f.ebits + f.mbits) else 0
def infCode (f : FloatSpec) (neg : Bool) : Nat := signBit f neg + (2 ^ f.ebits - 1) * 2 ^ f.mbits

/-- Truncated value and remainder of `x` at weight `2^q`: integer part, remainder numerator and its power of two. -/
def splitAt (x : Exact) (q : Int) : Nat × Nat × Nat :=
  let sh := x.exp - q
  if 0 ≤ sh then (x.man <<< sh.toNat, 0, 0)
  else
    let k := (-sh).toNat
    (x.man >>> k, x.man % 2 ^ k, k)

/-- Does the mode step away from the truncated value (R70, R72)? `n` is the truncated integer, `r / 2^k` the rest. -/
def roundsUp (rm : Nat) (neg sticky : Bool) (u : Nat) (n r k : Nat) : Bool :=
  let inexact := r != 0 || sticky
  match rm with
  | 0 => 2 * r > 2 ^ k || (2 * r == 2 ^ k && k != 0 && (sticky || n % 2 == 1))
  | 1 => false
  | 2 => inexact && !neg
  | 3 => inexact && neg
  | _ => u < (r * 2 ^ 32) / 2 ^ k

/-- Magnitude code of `x` with unbounded exponent, truncated, with the data the mode needs (R70). -/
def truncCode (f : FloatSpec) (x : Exact) : Nat × Nat × Nat × Nat :=
  let lead : Int := (Nat.log2 x.man : Int) + x.exp
  let low := 1 - f.bias
  let q := (if x.man == 0 || lead < low then low else lead) - f.mbits
  let (n, r, k) := splitAt x q
  let code := if x.man == 0 || lead < low then n else ((lead + f.bias).toNat <<< f.mbits) + (n - 2 ^ f.mbits)
  (code, n, r, k)

/-- R71: the result when the rounded magnitude exceeds the largest finite value. -/
def overflowCode (f : FloatSpec) (rm : Nat) (sat neg : Bool) : Nat :=
  let big := signBit f neg + maxCode f
  if sat then big
  else
    let away : Nat := match f.specials with
      | .ieee => infCode f neg
      | .e4m3 => f.canonicalNan
      | .none => big
    match rm with
    | 1 => big
    | 2 => if neg then big else away
    | 3 => if neg then away else big
    | _ => away

/-- Round an exact finite value to a float format (R70 to R72). -/
def roundFin (f : FloatSpec) (rm : Nat) (sat : Bool) (u : Nat) (x : Exact) : Nat :=
  let (code, n, r, k) := truncCode f x
  let beyond := code > maxCode f || (code == maxCode f && (r != 0 || x.sticky))
  let mode := if rm == 4 && beyond then 0 else rm
  let c := if roundsUp mode x.neg x.sticky u n r k then code + 1 else code
  if c > maxCode f then overflowCode f mode sat x.neg else signBit f x.neg + c

/-- Round any exact result; NaN is canonical (R63), an infinity stays one (R90). -/
def roundX (f : FloatSpec) (rm : Nat) (sat : Bool) (u : Nat) : XVal → Nat
  | .nan => f.canonicalNan
  | .inf neg =>
    match f.specials with
    | .ieee => infCode f neg
    | .e4m3 => if sat then signBit f neg + maxCode f else f.canonicalNan
    | .none => signBit f neg + maxCode f
  | .fin x => roundFin f rm sat u x

/-- Round to an integer of `bits` bits and saturate (R70, R71, R90). -/
def roundInt (bits : Nat) (rm : Nat) (u : Nat) : XVal → Int
  | .nan => 0
  | .inf neg => if neg then -(2 ^ (bits - 1) : Nat) else (2 ^ (bits - 1) : Nat) - 1
  | .fin x =>
    let (n, r, k) := splitAt x 0
    let m : Int := if roundsUp rm x.neg x.sticky u n r k then (n : Int) + 1 else n
    let v := if x.neg then -m else m
    let lo : Int := -(2 ^ (bits - 1) : Nat)
    let hi : Int := (2 ^ (bits - 1) : Nat) - 1
    if v < lo then lo else if hi < v then hi else v

/-- Integer value as an exact value. -/
def ofInt (v : Int) : FVal := .num (v < 0) v.natAbs 0

/-- Signed integer of a finite value at weight `2^e`, where `e` is at most the value's exponent. -/
def scaled (neg : Bool) (man : Nat) (exp e : Int) : Int :=
  let m : Int := ((man <<< (exp - e).toNat : Nat) : Int)
  if neg then -m else m

/-- Exact sum; a zero sum of operands of unlike sign is +0, or -0 under RDN. -/
def addX (rm : Nat) (a b : FVal) : XVal :=
  match a, b with
  | .nan, _ | _, .nan => .nan
  | .inf m, .inf n => if m == n then .inf m else .nan
  | .inf m, _ => .inf m
  | _, .inf n => .inf n
  | .num na ma ea, .num nb mb eb =>
    if ma == 0 && mb == 0 then
      .fin ⟨if na == nb then na else rm == 3, 0, 0, false⟩
    else
      let e := min ea eb
      let s := scaled na ma ea e + scaled nb mb eb e
      if s == 0 then .fin ⟨rm == 3, 0, 0, false⟩ else .fin ⟨s < 0, s.natAbs, e, false⟩

/-- Exact product. -/
def mulX (a b : FVal) : XVal :=
  match a, b with
  | .nan, _ | _, .nan => .nan
  | .inf m, .inf n => .inf (m != n)
  | .inf m, .num n k _ => if k == 0 then .nan else .inf (m != n)
  | .num m k _, .inf n => if k == 0 then .nan else .inf (m != n)
  | .num na ma ea, .num nb mb eb => .fin ⟨na != nb, ma * mb, ea + eb, false⟩

def XVal.toF : XVal → FVal
  | .nan => .nan
  | .inf n => .inf n
  | .fin x => .num x.neg x.man x.exp

/-- Exact `a * b + c`. -/
def fmaX (rm : Nat) (a b c : FVal) : XVal :=
  match mulX a b with
  | .nan => .nan
  | p => addX rm p.toF c

/-- Weight at which quotients and roots are cut; far below every rounding decision of R61's formats. -/
def cutExp : Int := -2400

/-- Exact quotient, cut with a sticky bit. -/
def divX (a b : FVal) : XVal :=
  match a, b with
  | .nan, _ | _, .nan => .nan
  | .inf _, .inf _ => .nan
  | .inf m, .num n _ _ => .inf (m != n)
  | .num m _ _, .inf n => .fin ⟨m != n, 0, 0, false⟩
  | .num na ma ea, .num nb mb eb =>
    if mb == 0 then (if ma == 0 then .nan else .inf (na != nb))
    else
      let top := ma <<< (ea - eb - cutExp).toNat
      .fin ⟨na != nb, top / mb, cutExp, top % mb != 0⟩

/-- Integer square root, one bit a step from bit `k`. -/
def isqrtFrom : Nat → Nat → Nat → Nat
  | 0, _, r => r
  | k + 1, n, r =>
    let t := r + 2 ^ k
    isqrtFrom k n (if t * t ≤ n then t else r)

def isqrt (n : Nat) : Nat := isqrtFrom (Nat.log2 n / 2 + 1) n 0

/-- Exact square root, cut with a sticky bit. -/
def sqrtX (a : FVal) : XVal :=
  match a with
  | .nan => .nan
  | .inf n => if n then .nan else .inf false
  | .num n m e =>
    if m == 0 then .fin ⟨n, 0, 0, false⟩
    else if n then .nan
    else
      let s := m <<< (e - 2 * cutExp).toNat
      let r := isqrt s
      .fin ⟨false, r, cutExp, r * r != s⟩

/-- Order of two values: `none` when either is NaN. Zeros of both signs are equal (R62). -/
def cmp (a b : FVal) : Option Ordering :=
  match a, b with
  | .nan, _ | _, .nan => none
  | .inf m, .inf n => some (if m == n then .eq else if m then .lt else .gt)
  | .inf m, _ => some (if m then .lt else .gt)
  | _, .inf n => some (if n then .gt else .lt)
  | .num na ma ea, .num nb mb eb =>
    let e := min ea eb
    some (compare (scaled na ma ea e) (scaled nb mb eb e))

/-- The mixing function of R72. -/
def rsrRound (z : BitVec 64) : BitVec 64 :=
  let z := z ^^^ (z >>> 31)
  let z := z * 0xBF58476D1CE4E5B9#64
  let z := z ^^^ (z >>> 29)
  let z := z * 0x94D049BB133111EB#64
  z ^^^ (z >>> 32)

/-- `rsr_bits` of R72. -/
def rsrBits (seed index : BitVec 64) (stream : BitVec 32) : Nat :=
  let z := seed ^^^ (index * 0x9E3779B97F4A7C15#64) ^^^ ((stream.setWidth 64) <<< 32)
  ((rsrRound (rsrRound (rsrRound z))) >>> 32).toNat

/-- Rounding parameters of one element: mode, SAT and the draw of R72. -/
structure Rnd where
  rm : Nat
  sat : Bool
  u : Nat := 0
  deriving DecidableEq, Repr

def rne : Rnd := ⟨0, false, 0⟩

/-- FP64 codes under round to nearest even, the arithmetic of R80. -/
def rn64 (x : XVal) : Nat := roundX fp64 0 false 0 x
def dec64 (c : Nat) : FVal := decodeFloat fp64 c
def add64 (a b : Nat) : Nat := rn64 (addX 0 (dec64 a) (dec64 b))

/-- A rounded part that is infinite or NaN: its error term is +0 (R80). -/
def notFinite64 (c : Nat) : Bool :=
  match dec64 c with
  | .num .. => false
  | _ => true

/-- Remainder of an exact value after its rounded part, itself rounded to FP64 (exact wherever R82 lets it be). -/
def errorTerm (x : FVal) (rounded : Nat) : Nat :=
  if notFinite64 rounded then 0
  else rn64 (addX 0 x (dec64 rounded).neg) % 2 ^ 64

/-- `two_prod` of R80. -/
def twoProd (a b : FVal) : Nat × Nat :=
  let p := mulX a b
  let ph := rn64 p
  (ph, errorTerm p.toF ph)

/-- `two_sum` and `fast_two_sum` of R80: the rounded sum and its exact remainder. -/
def twoSum (a b : Nat) : Nat × Nat :=
  let s := addX 0 (dec64 a) (dec64 b)
  let h := rn64 s
  (h, errorTerm s.toF h)

/-- One pass of the loop of R80 with the product already split. -/
def pairStep (hl : Nat × Nat) (ph pl : Nat) : Nat × Nat :=
  let (s, e0) := twoSum hl.1 ph
  let e := add64 e0 (add64 hl.2 pl)
  twoSum s e

/-- The exact value `hi + lo` (R69, R80), with the sign rules of R69 for zeros. -/
def pairVal (hi lo : Nat) : XVal :=
  match dec64 hi, dec64 lo with
  | .nan, _ | _, .nan => .nan
  | .inf m, .inf n => if m == n then .inf m else .nan
  | .inf m, _ => .inf m
  | _, .inf n => .inf n
  | .num na ma ea, .num nb mb eb =>
    if ma == 0 && mb == 0 then .fin ⟨na, 0, 0, false⟩
    else
      let e := min ea eb
      let s := scaled na ma ea e + scaled nb mb eb e
      if s == 0 then .fin ⟨false, 0, 0, false⟩ else .fin ⟨s < 0, s.natAbs, e, false⟩

/-- R69: the normalised DD128 of an exact value. -/
def normDD (x : XVal) : Nat × Nat :=
  let hi := rn64 x
  match dec64 hi with
  | .num _ m _ => if m == 0 then (hi, 0) else (hi, errorTerm x.toF hi)
  | _ => (hi, 0)

end Sys2Proof.Num
end

