-- ==== Sys2Proof/Machine/State.lean ====
section
/-! DEFINITION. The state of the module as plain data, its fault and refusal reasons, and the state right after reset.
Sparse tables (`SMap`) list only what differs from a default, keys rising. -/

namespace Sys2Proof.Machine

/-- Reasons a command stops the block. -/
inductive Fault where
  /-- Raised by every command that names a unit number no DK-T variant has (a die above 8, a cluster above 127, a core
  above 11, a group slot above 31, a slice above 143, a channel above 159, a bank above 63, a mesh node above 15, a sensor
  above 16, a link above 15, a direction above 1, an octet above 11, a port above 3, a half above 2, a partition above 15,
  a queue slot above 256, a snapshot slot above 3). Safe: no such unit exists to act (R7, R23). -/
  | noSuchUnit
  deriving DecidableEq, Repr

/-- Reasons a command is refused. -/
inductive Refusal where
  /-- Raised by an arm of `exec` whose command has no meaning yet. Safe: nothing can be proved of it. -/
  | notModelled (mnemonic : String)
  deriving DecidableEq, Repr

/-! ### Time, dies, meshes -/

/-- DEV_UNIT_n.STATE (R529). -/
inductive DieState where
  | absent | testing | inService | heldOut
  deriving DecidableEq, Repr

/-- Failures of one flit at one hop: the router's node, its output, the flit and the network (R183). -/
structure HopFail where
  node : Nat
  hop : Nat
  flit : Nat
  control : Bool
  fails : Nat
  deriving DecidableEq, Repr

/-- A compute die (0-7) or the IOD (8). -/
structure Die where
  state : DieState := .absent
  /-- DEV_UNIT_n.HOLD (R529) -/
  hold : Nat := 0
  logicPassed : Bool := false
  ledgerPassed : Bool := false
  clFenced : BitVec 16 := 0
  clTesting : BitVec 16 := 0
  slFenced : BitVec 16 := 0
  /-- die time counter (R52) and whether its oscillator runs (R55) -/
  time : W64 := 0
  /-- ticks in which the die's meters added tokens (R48, R49) -/
  metered : Nat := 0
  oscOk : Bool := true
  keyed : Bool := false
  /-- MESH_ERR and MESH_COMBINE (R193) -/
  lastNode : Nat := 0
  lastNetCtl : Bool := false
  ctlRetry : Nat := 0
  bulkRetry : Nat := 0
  combined : Nat := 0
  /-- flits that failed at a hop and are sent again (R183) -/
  hops : List HopFail := []
  /-- sources of the issue fraction in 64ths (R455 to R460, R463, R467) -/
  fLoop : Nat := 64
  fTherm : Nat := 64
  thermLimiting : Bool := false
  /-- die time + 1 of the latest thermal step, 0 none (R460) -/
  thermAt : Nat := 0
  /-- junction sensors 0-15 (0-7 on the IOD) and the stack sensor 16, in 0.1 C (R466); unlisted: 25.0 C -/
  temps : SMap Int := []
  voff : Nat := 0
  episodes : Nat := 0
  withholding : Bool := false
  withholdStart : W64 := 0
  trippedNodes : BitVec 16 := 0
  /-- port time + 1 since which f is below 64, 0 when it is not, and the lowest f since (R465) -/
  fSince : Nat := 0
  fLow : Nat := 64
  /-- partitions that drew above their share when the loop lowered the die, while it is below 64 (R421, R475) -/
  fOver : List Nat := []
  /-- IOD times at which the die was recorded under R302 (R536) -/
  suspects : List Nat := []
  /-- HOLD cause with which the die is held out at the next warm restart, 0 none (R55, R213) -/
  holdNext : Nat := 0
  /-- it passes through testing after a warm restart (R536) -/
  retest : Bool := false
  deriving DecidableEq, Repr

/-! ### Clusters, teams and groups -/

/-- A ledger element (R75). -/
structure Ledger where
  v : BitVec 640 := 0
  nan : Bool := false
  pinf : Bool := false
  ninf : Bool := false
  negz : Bool := false
  deriving DecidableEq, Repr

/-- Form of an accumulator or of an open line (R99, R262). -/
inductive AccForm where
  | empty | ledger | pair | reduced
  deriving DecidableEq, Repr

/-- One element: the ledger, or `(hi, lo)` with the flags of R75 (R99). -/
structure Elem where
  led : Ledger := {}
  hi : Nat := 0
  lo : Nat := 0
  deriving DecidableEq, Repr

/-- An accumulator tile; element `(i, j)` has key `16 i + j` (R98, R99, R109). -/
structure Acc where
  form : AccForm := .empty
  intOnly : Bool := false
  int32Made : Bool := false
  elems : SMap Elem := []
  deriving DecidableEq, Repr

/-- What a path is doing (R146). -/
inductive PathState where
  | live | atJoin | atBarrier (b : Nat) | arriving (b : Nat)
  deriving DecidableEq, Repr

/-- A path of a group: PC, threads, and the ids of the convergence entries it belongs to, innermost first (R143 to R148). -/
structure Path where
  pc : Nat
  mask : W32
  st : PathState := .live
  entries : List Nat := []
  deriving DecidableEq, Repr

/-- A convergence entry (R144). -/
structure ConvEntry where
  id : Nat
  joinPc : Nat
  deriving DecidableEq, Repr

/-- Why and where a group is parked (R157, R158). -/
structure Park where
  code : Byte
  pc : Nat
  addr : Nat
  word : W64
  mask : W32
  number : Nat
  barriers : W32
  /-- an asynchronous failure resumes at the point reached (R345) -/
  async : Bool := false
  deriving DecidableEq, Repr

/-- A fence in progress (R340 to R343). -/
structure Fence where
  /-- tags it waits for, and flushes or INV_REM answers outstanding -/
  waits : List Nat
  /-- set when the fence belongs to a BAR_T (R344) -/
  forBarrier : Bool := false
  deriving DecidableEq, Repr

/-- A resident group. -/
structure Group where
  part : Nat
  ctx : Nat
  task : Nat
  team : Nat
  index : Nat
  regGrant : Nat
  accGrant : Nat
  /-- thread register `r` of lane `l` has key `256 l + r` (R93) -/
  regs : SMap W32 := []
  accs : SMap Acc := []
  /-- rotation order, active path first (R146) -/
  paths : List Path := []
  entries : List ConvEntry := []
  nextEntry : Nat := 0
  turn : Nat := 0
  /-- issue steps the group has taken -/
  steps : Nat := 0
  exited : W32 := 0
  park : Option Park := none
  fence : Option Fence := none
  /-- lines contributed to without HO since the last release fence, as (slice, line) keys (R278) -/
  contrib : List Nat := []
  /-- remote windows written since the last system release (R352) -/
  windows : List Nat := []
  /-- interrupted MMA: word and next step (R129) -/
  mmaStep : Option (W64 × Nat) := none
  /-- bytes of an accumulator image that arrived from outside memory for an ACC.RESTORE, by offset; key 2^20 + k marks line
  part k as arrived -/
  image : SMap Nat := []
  lastTime : W64 := 0
  /-- a team of a gang node waits until all its teams are placed (R376) -/
  held : Bool := false
  deriving DecidableEq, Repr

/-- What an outstanding access is (R142, R335, R336, R277). -/
inductive AccKind where
  | load | store | atomRet | update | flush | inv
  deriving DecidableEq, Repr

/-- One piece of a pending load: byte offset in the line, length, lane and first register (R332). -/
structure Piece where
  off : Nat
  len : Nat
  lane : Nat
  reg : Nat
  /-- byte within the register, for an element of a transposing tile load (R100) -/
  sub : Option Nat := none
  /-- virtual address, from which the load is translated again when it is reissued (R128, R156, R159) -/
  va : Nat := 0
  deriving DecidableEq, Repr

/-- An outstanding access of a group: one per instruction and line. `instr` groups those of one instruction (R336). -/
structure Access where
  tag : Nat
  instr : Nat
  gid : Nat
  kind : AccKind
  /-- physical line, region attribute, faulting address and PC for a late failure (R345) -/
  line : Nat
  attr : Nat
  va : Nat
  pc : Nat
  word : W64
  pieces : List Piece := []
  be : BitVec 128 := 0
  data : Line := 0
  /-- how far the write must travel: 0 own cluster bank, 1 own die, 2 package, 3 peer (R341) -/
  scope : Nat := 0
  update : Option CruPacket := none
  /-- code with which the access failed, 0 while it has not (R345) -/
  failed : Nat := 0
  /-- line of a load that has arrived while other lines of the instruction have not: no register is written before all have
  (R157) -/
  got : Option Line := none
  /-- time of its die's counter when it was sent (R301) -/
  since : Nat := 0
  deriving DecidableEq, Repr

/-- A resident team (R132, R136, R168). -/
structure Team where
  task : Nat
  team : Nat
  core : Nat
  groups : Nat
  regGrant : Nat
  accGrant : Nat
  lsBase : Nat
  lsSize : Nat
  slots : List Nat
  deriving DecidableEq, Repr

/-- A cached leaf translation (R156). -/
structure TlbEntry where
  ctx : Nat
  part : Nat
  vpage : Nat
  pages : Nat
  pa : Nat
  attr : Nat
  x : Bool
  w : Bool
  deriving DecidableEq, Repr

/-- A cached table-pointer entry: the table of level `level + 1` for the virtual addresses that share `index`, the bits above
those that level `level` leaves to the table (R156). -/
structure PtrEntry where
  ctx : Nat
  part : Nat
  level : Nat
  index : Nat
  table : Nat
  deriving DecidableEq, Repr

/-- A saved team: its team record, its groups and its local store bytes (R414). -/
structure Snapshot where
  task : Nat
  order : Nat
  teams : List (Team × List (Nat × Group) × List Host.Cell)
  deriving DecidableEq, Repr

/-- A line of a read-only cache (R248). -/
structure RoLine where
  core : Nat
  line : Nat
  data : Line
  deriving DecidableEq, Repr

/-- A core's token meter and its latest matrix steps (R48, R456). -/
structure Meter where
  /-- token count at which the meter, gaining 20 in each tick counted, would be full -/
  full : Nat := 0
  /-- number of the core's latest step -/
  step : Nat := 0
  /-- numbers of its latest matrix steps, at most 64 -/
  matrix : List Nat := []
  deriving DecidableEq, Repr

structure Cluster where
  ls : Nat := 0
  lsByLaunch : Bool := false
  /-- a self-test chose L, and the configured size has not come back (R164, R545) -/
  lsTest : Bool := false
  roEnabled : Bool := false
  roInvalid : Bool := false
  /-- L1 lines by core, and read-cache lines with core 12 -/
  ro : List RoLine := []
  tlb : List TlbEntry := []
  ptrs : List PtrEntry := []
  /-- lines whose reads are outstanding at the mesh port, with the tag of each request (R235) -/
  reads : List (Nat × Nat) := []
  teams : List Team := []
  snaps : SMap (Option Snapshot) := []
  /-- uncorrectable words: bank and die time (R532) -/
  bankErrs : List (Nat × Nat) := []
  meters : SMap Meter := []
  /-- matrix steps by pair of input formats since the power loop last ran (R457) -/
  activity : SMap Nat := []
  deriving DecidableEq, Repr

/-! ### Slices, homes and crushers -/

/-- State of a copy in a proxy, or `home` for a home copy (R286, R287). -/
inductive CohState where
  | s | e | m | home
  deriving DecidableEq, Repr

/-- A tag with its data, held as the line it represents (R225, R229). -/
structure CLine where
  line : Nat
  st : CohState
  /-- code of the layout it is held in (R226), and the sector slots of its set that hold it -/
  cmp : Nat := 0
  slots : List Nat := []
  valid : BitVec 4
  dirty : BitVec 4
  data : Line
  /-- origin code per sector, 0 none: byte j for sector j (R229, R253) -/
  poison : W32 := 0
  pins : Nat := 0
  /-- held for an operation in progress (R230) -/
  hold : Bool := false
  /-- remote copy and its partition (R251) -/
  remote : Option Nat := none
  /-- lines of its set used since, holding at 15 -/
  age : BitVec 4 := 15
  deriving DecidableEq, Repr

/-- A spoil-buffer entry (R238). -/
structure Spoil where
  line : Nat
  data : Line
  valid : BitVec 4
  dirty : BitVec 4
  poison : W32 := 0
  departing : Bool := false
  deriving DecidableEq, Repr

/-- A miss entry (R236). -/
structure Miss where
  line : Nat
  cores : BitVec 16 := 0
  readCaches : BitVec 16 := 0
  dies : BitVec 8 := 0
  others : List Nat := []
  /-- tags of stores that merge when the line arrives (R232) -/
  stores : List Nat := []
  /-- the request has left: RD_S, RD_E, UPG, or the read of memory; and the die's time then (R301) -/
  sent : Bool := false
  since : Nat := 0
  deriving DecidableEq, Repr

/-- A snoop-filter entry (R288). -/
structure Filter where
  line : Nat
  mask : BitVec 8
  owner : Bool
  pinned : Bool := false
  /-- a transaction on the line, or a fill that will grant it, is in progress -/
  busy : Bool := false
  /-- place in the order of allocation (R289) -/
  order : Nat := 0
  deriving DecidableEq, Repr

/-- A request a home agent serves (R295). -/
inductive HomeReq where
  | rdS (die : Nat)
  | rdE (die : Nat)
  | upg (die : Nat)
  | rdOnce (tag : Nat)
  | wfwd (die tag attr : Nat) (be : BitVec 128) (data : Line)
  | update (pkt : CruPacket)
  /-- a core of the home die misses (R231), or writes at the home (R295) -/
  | homeRead
  | homeWrite (tag : Nat)
  | evict (forLine : Nat)
  deriving DecidableEq, Repr

/-- A transaction in progress on a line (R294). -/
structure Txn where
  line : Nat
  req : HomeReq
  awaiting : BitVec 8
  /-- the entry's data buffer: what SDATA or WB brought, its dirty sectors and poison (R299) -/
  data : Option (Line × BitVec 4 × W32) := none
  /-- what an SDATA carries that a holder has sent and that has not arrived -/
  sent : Option (Line × BitVec 4 × W32) := none
  /-- an IOD agent's write has taken the line's data home meanwhile: what SDATA brings is older -/
  settled : Bool := false
  /-- the home die's time when the snoop was sent (R301) -/
  since : Nat := 0
  deriving DecidableEq, Repr

structure Slice where
  enabled : Bool := false
  invalidated : Bool := false
  /-- being emptied before it is disabled for a fence or a test (R291) -/
  draining : Bool := false
  awaitReg : List Nat := []
  /-- tags in the order of their latest use, the least recent first -/
  lines : List CLine := []
  spoil : List Spoil := []
  miss : List Miss := []
  filter : List Filter := []
  txns : List Txn := []
  /-- requests that wait at the home, by line, in order of arrival (R294) -/
  waiting : List (Nat × HomeReq) := []
  /-- accesses of the die's cores that wait at the slice input (R230, R236, R240, R241) -/
  stalled : List Nat := []
  /-- filter entries allocated so far -/
  allocated : Nat := 0
  setErrs : List (Nat × Nat) := []
  deriving DecidableEq, Repr

/-- An open line in a crusher's directory (R262, R263). -/
structure OpenLine where
  line : Nat
  task : Nat
  part : Nat
  form : AccForm
  fl : BitVec 4
  rm : BitVec 3
  sat : Bool
  rsr : Option (W64 × W64 × W32)
  ho : Bool
  attr : Nat
  spilled : Bool := false
  intOnly : Bool := false
  elems : SMap Elem := []
  poison : W32 := 0
  used : Nat := 0
  /-- contributions and closes that wait for a spilled line, in order of arrival (R273) -/
  waiting : List CruPacket := []
  closing : Bool := false
  /-- the die's time since which a bring-back is awaited (R301) -/
  since : Nat := 0
  /-- physical address of the line's spill block (R272) -/
  block : Nat := 0
  /-- the dirty state carried from the data store (R263) and the value the line keeps if it is discarded (R280) -/
  dirtyBefore : BitVec 4 := 0
  before : Line := 0
  poisonBefore : W32 := 0
  deriving DecidableEq, Repr

/-- A declared range as the crushers hold it: its first line, lines and FL, and the address of its first line's spill block
(R271, R272). -/
structure CruRange where
  task : Nat
  first : Nat
  lines : Nat
  fl : BitVec 4
  spill : Nat
  deriving DecidableEq, Repr

structure Crusher where
  lines : List OpenLine := []
  ranges : List CruRange := []
  useCtr : Nat := 0
  /-- tasks whose CLOSE-TASK has arrived and waits for spilled lines (R279) -/
  closing : List Nat := []
  deriving DecidableEq, Repr

/-! ### Front end -/

/-- A fetched command, and from its acceptance on its record in the recovery journal (R366, R371, R473, R537). -/
structure Cmd where
  seq : W32
  words : List W64
  accepted : Bool := false
  /-- place in the partition-wide order of acceptance, port time and energy then (R371, R365, R473) -/
  order : Nat := 0
  acceptTime : W64 := 0
  energyAt : Nat := 0
  version : Nat := 0
  /-- completed, with its code, port time, energy and the part of the interval shared with other launches (R365, R473) -/
  done : Bool := false
  code : Byte := 0
  doneAt : W64 := 0
  energyEnd : Nat := 0
  shared : Nat := 0
  /-- replay count of the journal record, and the flags of completion byte 5 (R537, R365) -/
  replays : Nat := 0
  reduced : Bool := false
  replayed : Bool := false
  revoked : Bool := false
  /-- code that a warm restart gives the command, 0 none: a parked group, a collective across devices (R538) -/
  fate : Byte := 0
  deriving DecidableEq, Repr

/-- A queue slot (R35, R356 to R365). -/
structure Queue where
  declared : Bool := false
  devenq : Bool := false
  fpr : Bool := false
  bound : Bool := false
  /-- DESTROY_QUEUE runs, and the tasks that were open when its phase 2 began (R389, R391) -/
  destroying : Bool := false
  openTasks : Nat := 0
  ctx : Nat := 0
  logsz : Nat := 0
  base : Nat := 0
  cmplBase : Nat := 0
  tail : W32 := 0
  head : W32 := 0
  stopped : Bool := false
  errSeq : W32 := 0
  errIndex : BitVec 16 := 0
  errCause : Byte := 0
  lastSeq : W32 := 0
  qcmp : W64 := 0
  /-- expected sequence number; none: the next fetched record decides (R362 RESYNC) -/
  expect : Option W32 := none
  cmds : List Cmd := []
  /-- a revocation to be shown in bit 42 at the next write of QCMP (R417) -/
  revokeMark : Bool := false
  deriving DecidableEq, Repr

/-- A context (R374). -/
structure Ctx where
  root : Nat
  constBase : Nat
  constSlots : Nat
  constVa : Nat
  parkBase : Nat
  parkEntries : Nat
  slotsUsed : List Nat := []
  nextPark : Nat := 1
  deriving DecidableEq, Repr

/-- A registered graph: descriptor bytes of each live version (R381 to R385). -/
structure Graph where
  ctx : Nat
  current : Nat := 1
  released : Bool := false
  /-- live versions: number, descriptor, bytes claimed in the graph store -/
  versions : List (Nat × List Byte × Nat) := []
  /-- address at which a version's ledger-spill areas begin (R272) -/
  spillAt : SMap Nat := []
  deriving DecidableEq, Repr

/-- Progress of a node of a launch. -/
inductive NodeState where
  | idle | running (task : Nat) | done
  deriving DecidableEq, Repr

/-- An accepted LAUNCH that has not completed (R371 to R375, R407, R408). -/
structure Launch where
  id : Nat
  part : Nat
  q : Nat
  seq : W32
  order : Nat
  handle : Nat
  version : Nat
  ctx : Nat
  step : W32
  ls : Nat
  args : List Byte
  constSlot : Option Nat := none
  nodes : SMap NodeState := []
  started : Bool := false
  acceptTime : W64 := 0
  startTime : W64 := 0
  /-- IOD ticks that the meter of R408 leaves out: host-sync waits and withheld tokens -/
  excluded : Nat := 0
  demoted : Bool := false
  failed : Byte := 0
  scopeOne : Bool := false
  /-- which of the graph's concurrent launches it is: its ledger-spill areas (R272, R381) -/
  area : Nat := 0
  deriving DecidableEq, Repr

/-- A DMA descriptor in progress: source, destination, length and bytes not yet written (R379). -/
structure DescRun where
  src : Nat
  dst : Nat
  len : Nat
  left : Nat
  deriving DecidableEq, Repr

/-- State of a task (R410 to R414). -/
inductive TaskState where
  | preloaded | running | preempted | closing | done
  deriving DecidableEq, Repr

/-- A started or preloaded node: compute, DMA, collective or host-sync (R379). -/
structure Task where
  tag : Nat
  launch : Nat
  node : Nat
  part : Nat
  ctx : Nat
  kind : Nat
  st : TaskState := .preloaded
  teams : Nat := 0
  placed : List (Nat × Nat) := []
  startedTeams : List Nat := []
  arrived : List Nat := []
  /-- crushers whose CLOSE-TASK acknowledgement is awaited (R279) -/
  closes : List Nat := []
  descIndex : Nat := 0
  descBusy : List DescRun := []
  /-- remote-device windows written and not yet flushed (R348) -/
  windows : List Nat := []
  pinned : Bool := false
  /-- pins of the task that wait to be established: line and slice (R246) -/
  pinLeft : List (Nat × Nat) := []
  fault : Byte := 0
  /-- a gang's teams and the clusters the plan gives them (R376, R411) -/
  plan : List (Nat × Nat) := []
  startTime : W64 := 0
  /-- lines that the engine read from a remote-device window for itself: descriptors, host-sync words -/
  inbox : List (Nat × Line) := []
  /-- IOD time since which it waits for placement (R412) -/
  waitSince : W64 := 0
  deriving DecidableEq, Repr

/-- One partition's run-time state. -/
structure Part where
  queues : SMap Queue := []
  ctxs : SMap (Option Ctx) := []
  graphs : SMap (Option Graph) := []
  order : Nat := 0
  /-- event ring (R392 to R394) -/
  ringSet : Bool := false
  ringQp : Nat := 0
  ringLogn : Nat := 0
  ringVa : W64 := 0
  ringKey : W32 := 0
  evHead : W32 := 0
  evTail : W32 := 0
  evLost : W32 := 0
  evHeld : List (List Byte) := []
  evNumber : Nat := 0
  resetting : Bool := false
  /-- start times of the slices of contexts that run, and overruns (R412, R413) -/
  slices : SMap Nat := []
  overruns : SMap Nat := []
  overrunSince : SMap Nat := []
  /-- episodes not yet summarised: start, end, dies, lowest f, count (R465) -/
  wStart : W64 := 0
  wEnd : W64 := 0
  wDies : BitVec 9 := 0
  /-- ns withheld by fault code -/
  wBy : SMap Nat := []
  wLow : Nat := 64
  wCount : Nat := 0
  deriving DecidableEq, Repr

/-! ### Links, ports, queue pairs -/

/-- One direction of a link as its receiver and sender see it (R310 to R312). -/
structure LinkDir where
  sendSeq : BitVec 12 := 0
  recvSeq : BitVec 12 := 0
  unacked : Nat := 0
  nak : Option (BitVec 12 × Nat) := none
  /-- per channel: cumulative credit counter, cells sent, open packet's cells still to come -/
  credit : SMap (BitVec 16) := []
  freed : SMap (BitVec 16) := []
  openCells : SMap Nat := []
  scramblerSeeded : Bool := false
  deriving DecidableEq, Repr

/-- A link block (R329). -/
structure Link where
  octIns : BitVec 12 := 0
  octRet : BitVec 12 := 0
  rate : Nat := 0
  st : Nat := 0
  cause : Nat := 0
  degrades : Nat := 0
  recals : Nat := 0
  replays : Nat := 0
  crcErr : Nat := 0
  cwA : List W64 := []
  cwB : List W64 := []
  fwd : LinkDir := {}
  bwd : LinkDir := {}
  /-- CRC failures by octet and IOD time, for the 100 us count of R324 -/
  octCrc : List (Nat × Nat) := []
  recalPass : List Nat := []
  postponed : Bool := false
  deriving DecidableEq, Repr

/-- A port or half (R428). State: 0 down, 1 full rate, 2 resolved to 400 Gb/s (R449). -/
structure Port where
  st : Nat := 0
  paused : Byte := 0
  /-- MADs accepted in the second that began at a port time (R432) -/
  mads : Nat := 0
  madSince : Nat := 0
  deriving DecidableEq, Repr

/-- State of a queue pair (R431, R432, R441). -/
inductive QpState where
  | free | reqSent | repSent | ready | error
  deriving DecidableEq, Repr

/-- A request the device has outstanding on a window QP (R443). -/
structure QpReq where
  psn : Nat
  /-- 0 read, 1 write, 2 fetch-add, 3 compare-swap, 4 flush -/
  kind : Nat
  tag : Nat
  part : Nat
  line : Nat
  remote : Nat
  /-- R_Key of the request (R392, R442) -/
  key : W32 := 0
  sectors : BitVec 4 := 0
  copy : Bool := false
  /-- bytes, data to write or operands, the piece of an ATOM that takes the answer, and whether it has left (R440, R433) -/
  len : Nat := 0
  data : List Byte := []
  piece : Nat := 0
  sent : Bool := false
  /-- tags of the accesses whose misses merged with this read (R443, R236) -/
  joined : List Nat := []
  deriving DecidableEq, Repr

structure Qp where
  st : QpState := .free
  port : Nat := 0
  half : Nat := 0
  peerIp : BitVec 128 := 0
  peerQpn : Nat := 0
  mtu : Nat := 4096
  /-- reads and atomics that may be outstanding at the peer (R433) -/
  depth : Nat := 16
  expectPsn : Nat := 0
  msn : Nat := 0
  /-- results of the latest atomic operations, by PSN, for requests that are repeated (R433) -/
  answers : List (Nat × Nat) := []
  nextPsn : Nat := 0
  sendq : List QpReq := []
  retries : Nat := 0
  rnrWait : Bool := false
  /-- send rate in Mb/s (R439), and port times of the last halving, the last CNP received and the last CNP sent -/
  rate : Nat := 800000
  lastCut : Option W64 := none
  lastCnp : Option W64 := none
  lastCnpSent : Option W64 := none
  /-- port time of the last increase of the rate (R439) -/
  lastRaise : Option W64 := none
  window : Option Nat := none
  deriving DecidableEq, Repr

/-! ### Memory upkeep -/

/-- A channel: face channel `16 d + c`, stockpile channel `128 + s` (R194, R198). -/
structure Chan where
  trained : Bool := false
  failed : Bool := false
  retrainFailed : Bool := false
  /-- per-bank refreshes, and rows refreshed for a disturbing neighbour as (bank, row) counts, key `bank * 2^24 + row`
  (R206, R207) -/
  refreshes : SMap Nat := []
  extraRefreshes : SMap Nat := []
  /-- activations that the controller's trackers hold, by the same key (R207) -/
  activations : SMap Nat := []
  /-- open row + 1 of each bank, 0 none (R197) -/
  openRow : SMap Nat := []
  /-- a stockpile bank's activations as the memory accounts them, and refresh management commands sent to it (R208) -/
  accounted : SMap Nat := []
  managed : SMap Nat := []
  selfRefresh : Bool := false
  windows : Nat := 0
  temp : Int := 250
  /-- refresh interval that the latest temperature asks for, 0 while none has been read (R200, R206) -/
  interval : Nat := 0
  tempAtTrain : Int := 250
  /-- IOD time of the last full retrain, and whether one is in progress or due (R201) -/
  trainedAt : Nat := 0
  retraining : Bool := false
  retrainDue : Bool := false
  deriving DecidableEq, Repr

/-- A retired row (R212, R213). -/
structure Retired where
  chan : Nat
  bank : Nat
  row : Nat
  /-- physical base of the range it takes (R194, R199) -/
  base : Nat
  inForce : Bool
  deriving DecidableEq, Repr

/-! ### Configuration image (R484 to R494) -/

structure PartCfg where
  isDefined : Bool := false
  secure : Bool := false
  lc : Bool := false
  weight : Nat := 0
  slice : Nat := 0
  qc : Nat := 0
  qi : Nat := 0
  share : Nat := 0
  qpFirst : Nat := 0
  qpCount : Nat := 0
  rkey : W32 := 0
  qkLogsz : Nat := 0
  qkBase : Nat := 0
  qkCmpl : Nat := 0
  storeBase : Nat := 0
  storeLen : Nat := 0
  spillBase : Nat := 0
  spillLen : Nat := 0
  overBase : Nat := 0
  overLen : Nat := 0
  deriving DecidableEq, Repr

structure QueueCfg where
  part : Nat
  q : Nat
  devenq : Bool
  fpr : Bool
  deriving DecidableEq, Repr

structure RegionCfg where
  base : Nat
  len : Nat
  part : Nat
  secure : Bool
  deriving DecidableEq, Repr

structure AddrCfg where
  part : Nat
  port : Nat
  half : Nat
  vlan : Nat
  pcp : Nat
  dscp : Nat
  v4 : Option W32
  v6 : Option (BitVec 128)
  deriving DecidableEq, Repr

structure ResvCfg where
  kind : Nat
  part : Nat
  ctx : Nat
  n : Nat
  mask : BitVec 128
  p : Nat
  d : Nat
  c : Nat
  bw : List (Nat × Nat)
  deriving DecidableEq, Repr

structure WindowCfg where
  base : Nat
  size : Nat
  part : Nat
  port : Nat
  half : Nat
  qp : Nat
  peerIp : BitVec 128
  remote : Nat
  rkey : W32
  deriving DecidableEq, Repr

structure GroupCfg where
  index : Nat
  members : Nat
  rank : Nat
  member : Nat
  window : Nat
  offset : Nat
  staging : Nat
  deriving DecidableEq, Repr

/-- The tables of the image in force (R488 to R494); what acts only outside the block is stored and no more (DESIGN CHOICE, log 76). -/
structure Image where
  version : Nat := 0
  svn : Nat := 0
  fwSvn : Nat := 0
  raise : Bool := false
  paced : Bool := true
  split : BitVec 4 := 0
  kr : BitVec 4 := 0
  lossless : Byte := 0
  cap : Nat := 3400
  parts : SMap PartCfg := []
  /-- per cluster `16 d + c`: owner + 1 (0 unassigned) and L -/
  clusters : SMap (Nat × Nat) := []
  queues : List QueueCfg := []
  regions : List RegionCfg := []
  addrs : List AddrCfg := []
  resvs : List ResvCfg := []
  windows : List WindowCfg := []
  groups : List GroupCfg := []
  digest : BitVec 512 := 0
  ownerDigest : BitVec 512 := 0
  deriving DecidableEq, Repr

/-- Slot states (R500). -/
inductive SlotState where
  | empty | pending | trial | good | bad
  deriving DecidableEq, Repr

/-- A journal record (R505, R506): type, key fields and payload. -/
structure JRec where
  type : Nat
  key : List Nat
  payload : List Nat
  deriving DecidableEq, Repr

structure Flash where
  bytes : List Host.Cell := []
  slotSeq : Nat := 0
  slotRecs : List (List Byte) × List (List Byte) := ([], [])
  pref : Nat := 0
  stA : SlotState := .empty
  stB : SlotState := .empty
  trials : Nat := 0
  /-- governing journal records, and those that wait to be programmed (R505 to R507) -/
  journal : List JRec := []
  waiting : List JRec := []
  /-- journal sectors in use, oldest first, with the keys of the records in each; erase counts by sector (R505, R507) -/
  sectors : List (Nat × List (Nat × List Nat)) := []
  erases : SMap Nat := []
  suspended : Bool := false
  updOpen : Bool := false
  updLen : Nat := 0
  updWritten : Nat := 0
  deriving DecidableEq, Repr

/-! ### Supply and lifecycle -/

/-- What the module as a whole is doing (R450, R468, R480, R482, R516, R524). -/
inductive Stage where
  | off | held | cold | running
  deriving DecidableEq, Repr

structure Power where
  stage : Stage := .off
  inputMv : Nat := 0
  inputMa : Nat := 0
  /-- energy in uJ with its remainder in pJ, and the input power of the last 1 ms in uW samples (R472, R476) -/
  energy : Nat := 0
  energyPj : Nat := 0
  samples : List Nat := []
  warning : Bool := false
  overvolted : Bool := false
  coldCause : Nat := 0
  /-- the IOD array self-test of this cold start has failed (R518) -/
  arrayFailed : Bool := false
  alertPin : Bool := false
  tripPin : Bool := false
  /-- thermal-trip latch: die and node (R468) -/
  latch : Option (Nat × Nat) := none
  latchTemp : Int := 250
  resetLow : Bool := false
  flashEnLow : Bool := false
  fru3v3 : Bool := true
  /-- the pins GA2 to GA0 (R481) -/
  ga : BitVec 3 := 0
  capReg : Nat := 0
  age : Bool := false
  hot : Bool := false
  ccStep : Nat := 0
  deriving DecidableEq, Repr

/-- DEV_RESTART_INFO and the sequence in progress (R527, R534, R541). -/
structure Restart where
  /-- the domain-fatal condition as an agent raised it, with cause and dies (R302) -/
  fatal : Bool := false
  fatalCause : Nat := 0
  fatalDies : BitVec 9 := 0
  active : Bool := false
  attempt : Nat := 0
  cause : Nat := 0
  suspect : BitVec 9 := 0
  /-- dies held out at this restart, and those held out before it -/
  held : BitVec 9 := 0
  heldBefore : BitVec 9 := 0
  durationMs : Nat := 0
  /-- IOD time and port time of detection (R527, R542) -/
  since : W64 := 0
  detected : W64 := 0
  prevState : Nat := 0
  deriving DecidableEq, Repr

structure Dev where
  /-- DEV_STATUS fields (R524) -/
  cold : Nat := 0
  recov : Bool := false
  stock : Bool := false
  ledger : Bool := false
  st : Nat := 0
  gen : W64 := 0
  /-- CFG_STATUS fields (R513) -/
  mode : Nat := 0
  slot : Nat := 0
  bootFault : Byte := 0
  /-- effective set (R320) -/
  fmt : BitVec 16 := 0
  errRetry : W64 := 0
  errCe : W64 := 0
  errUe : W64 := 0
  errRet : W64 := 0
  portDrops : SMap W32 := []
  portFec : SMap W32 := []
  /-- DEV_TEST (R528) -/
  testBusy : Bool := false
  testScope : Nat := 0
  testDie : Nat := 0
  testCl : Nat := 0
  testResult : Nat := 0
  testFailCl : BitVec 16 := 0
  testFailDie : BitVec 9 := 0
  /-- clusters that failed in the test in progress -/
  testFailed : List Nat := []
  testCmd : Option (Nat × W32) := none
  /-- STATE to return to after a whole-device test (R545) -/
  testPrev : Nat := 0
  testLeft : List Nat := []
  iodCrusherFailed : Bool := false
  cruSpills : SMap Nat := []
  cruCe : SMap Nat := []
  cruUe : SMap Nat := []
  deriving DecidableEq, Repr

structure Sec where
  nonce : SMap W64 := []
  busy : Bool := false
  done : Bool := false
  count : W32 := 0
  taken : List W64 := []
  quote : List Byte := []
  idReady : Bool := false
  ownFloor : Nat := 0
  fwFloor : Nat := 0
  certLen : Nat := 0
  /-- the memory keys K1 and K2; 0 while there is no pair (R219, R510) -/
  key1 : BitVec 256 := 0
  key2 : BitVec 256 := 0
  deriving DecidableEq, Repr

/-- An admitted reservation: index in the table, and the reservations revoked at the last pass (R402, R417). -/
structure Admission where
  admitted : List Nat := []
  passDue : Bool := false
  /-- release bookkeeping: by context that a deadline entry names, IOD time + 1 of the first task start of its previous launch (R407) -/
  lastStart : SMap Nat := []
  deriving DecidableEq, Repr

/-- What an agent sends (R292, R293, R346, R395, R425, R434 to R448, R475): messages on the meshes, frames on the
links and ports, levels of pins, posted event entries. (DESIGN CHOICE, log 78) -/
inductive Out where
  | coh (name : String) (die line : Nat)
  | cohData (name : String) (die line : Nat) (data : Line) (sectors : BitVec 4) (poison : W32) (cmp : Nat)
  | snoop (name : String) (mask : BitVec 8) (line : Nat)
  | fill (name : String) (agent : Nat) (dies : BitVec 9) (nodes : BitVec 16) (line : Nat) (data : Line) (sectors : BitVec 4) (poison : W32) (cmp : Nat)
  | memRead (sid line : Nat)
  | memWrite (sid line : Nat)
  | unc (name : String) (tag line : Nat)
  | ack (dest : AckTo) (status : Nat)
  | cru (sid : Nat) (pkt : CruPacket)
  /-- the packet that goes on in a router for two of a line (R188) -/
  | merged (sid : Nat) (pkt : CruPacket)
  | dma (name : String) (task line : Nat) (be : BitVec 128) (data : Line)
  /-- ledger records of a partial, to the successor's staging area through a window (R445, R446) -/
  | staged (task window line : Nat) (recs : List CruRecord)
  | cruAck (tag : Nat) (code : Nat)
  | front (name : String) (tag target : Nat)
  /-- a multicast without data: agent, masks and the task it names (R184, R279) -/
  | multi (name : String) (agent : Nat) (dies : BitVec 9) (nodes : BitVec 16) (task : Nat)
  | enqStatus (tag status : Nat)
  | linkNak (link dir : Nat) (seq : Nat)
  | linkWidth (link : Nat) (octets : BitVec 12)
  | rc (qp : Nat) (name : String) (psn : Nat) (data : List Byte)
  | rdma (qp : Nat) (name : String) (psn addr : Nat) (key : W32) (len : Nat) (data : List Byte)
  | cm (port half : Nat) (name : String) (qp value : Nat)
  | net (port half : Nat) (name : String) (value : Nat)
  | ptp (port half : Nat) (name : String) (clock sec ns : Nat)
  | event (part : Nat) (entry : List Byte)
  | pin (name : String) (low : Bool)
  | complete (p q : Nat) (entry : List Byte)
  deriving DecidableEq, Repr

/-- The module. -/
structure State where
  /-- commands that wait, oldest first -/
  pending : List Instr := []
  out : List Out := []
  free : Nat := 0
  nextTag : Nat := 0
  nextTask : Nat := 0
  nextLaunch : Nat := 0
  portTime : W64 := 0
  portPhase : Nat := 0
  /-- 1 DK-T8, 2 DK-T4, 3 DK-T2 (R526 VARIANT; DESIGN CHOICE, log 6) -/
  variant : Nat := 1
  serial : W64 := 0
  baseMac : Nat := 0
  /-- capability words each die presented at cold start (R314, R536) -/
  dieWords : SMap (List W64) := []
  mem : List Host.Cell := []
  poison : SMap Byte := []
  retired : List Retired := []
  /-- correctable errors of memory: unit, key of its row, IOD time (R213) -/
  ceHistory : List (Nat × Nat × Nat) := []
  chans : SMap Chan := []
  dies : SMap Die := []
  clusters : SMap Cluster := []
  groups : SMap (Option Group) := []
  accs : List Access := []
  slices : SMap Slice := []
  crushers : SMap Crusher := []
  links : SMap Link := []
  parts : SMap Part := []
  launches : List Launch := []
  tasks : List Task := []
  admission : Admission := {}
  /-- port time up to which shared run time has been accounted (R473) -/
  shareAt : W64 := 0
  ports : SMap Port := []
  qps : SMap Qp := []
  image : Image := {}
  flash : Flash := {}
  power : Power := {}
  restart : Restart := {}
  dev : Dev := {}
  sec : Sec := {}
  deriving DecidableEq, Repr

/-- The module right after reset: no input, every register at its reset value, nothing listed in any table. The values
that the spec does not give are those of the log rows INVENTORY.md names. (DESIGN CHOICE, log 7) -/
def State.reset : State := {}

end Sys2Proof.Machine
end

