-- ==== Sys2Proof/WellFormed.lean ====
section
/-! DEFINITION. Which commands name units that some DK-T variant has (R2, R7, R21 to R24, R132, R428): the numbers of dies,
clusters, cores, group slots, slices, links, ports, partitions and queue slots. -/

namespace Sys2Proof

/-- Compute dies 0 to 7 and the IOD as 8 (R21). -/
def dieOk (d : Nat) : Bool := decide (d < 9)
/-- A compute die, the only sender or target of the coherence messages (R287). -/
def computeDieOk (d : Nat) : Bool := decide (d < 8)
/-- Clusters `16 d + c` (R23). -/
def clusterOk (c : Nat) : Bool := decide (c < 128)
def coreOk (c : Nat) : Bool := decide (c < 12)
/-- Thirty-two group slots a core (R132). -/
def groupSlotOk (n : Nat) : Bool := decide (n < 32)
/-- Slices `16 d + n`, the IOD as die 8 (R220). -/
def sliceOk (i : Nat) : Bool := decide (i < 144)
/-- Face channels `16 d + c`, stockpile channels `128 + s` (R194, R198). -/
def chanOk (c : Nat) : Bool := decide (c < 160)
def bankOk (b : Nat) : Bool := decide (b < 64)
def nodeOk (n : Nat) : Bool := decide (n < 16)
/-- Junction sensors 0 to 15 and the stack sensor as 16 (R466). -/
def sensorOk (n : Nat) : Bool := decide (n < 17)
/-- Link blocks (R329). -/
def linkOk (i : Nat) : Bool := decide (i < 16)
def dirOk (d : Nat) : Bool := decide (d < 2)
def octetOk (o : Nat) : Bool := decide (o < 12)
def portOk (p : Nat) : Bool := decide (p < 4)
/-- A port as a whole (0) or its halves a and b (R428). -/
def halfOk (h : Nat) : Bool := decide (h < 3)
def partOk (p : Nat) : Bool := decide (p < 16)
/-- Queue slots: 0 is QK, 1 to 256 are QU0 to QU255 (R35, R356). -/
def slotOk (q : Nat) : Bool := decide (q < 257)
/-- Snapshot slots of a cluster (R397). -/
def snapOk (n : Nat) : Bool := decide (n < 4)

def GRef.ok (g : GRef) : Bool := clusterOk g.cl && coreOk g.core && groupSlotOk g.slot
def RcPacket.ok (k : RcPacket) : Bool := portOk k.port && halfOk k.half
def CmReq.ok (m : CmReq) : Bool := portOk m.port && halfOk m.half
def PtpMsg.ok (m : PtpMsg) : Bool := portOk m.port && halfOk m.half

def TestUnit.ok : TestUnit → Bool
  | .cluster d c => computeDieOk d && decide (c < 16)
  | .slice d n => dieOk d && decide (n < 16)
  | .die d => dieOk d

def ArrayUnit.ok : ArrayUnit → Bool
  | .clusterMem c _ _ => clusterOk c
  | .sliceData i _ _ => sliceOk i
  | .sliceTags i => sliceOk i
  | .snoopFilter i => sliceOk i
  | .ledgerCell i _ _ => sliceOk i
  | .directory i => sliceOk i
  | .readOnly c core _ => clusterOk c && decide (core ≤ 12)

def AckTo.ok : AckTo → Bool
  | .spoil sid _ => sliceOk sid
  | .key d => dieOk d
  | .access _ => true

/-- A command is well formed when every unit it names exists in some variant. -/
def Instr.wf : Instr → Bool
  | .mma g _ => g.ok
  | .accLoad g _ => g.ok
  | .accRelease g _ => g.ok
  | .accRound g _ => g.ok
  | .accPush g _ => g.ok
  | .accSave g _ => g.ok
  | .accRestore g _ => g.ok
  | .tld g _ => g.ok
  | .tst g _ => g.ok
  | .add g _ => g.ok
  | .sub g _ => g.ok
  | .mul g _ => g.ok
  | .fma g _ => g.ok
  | .min g _ => g.ok
  | .max g _ => g.ok
  | .compare g _ _ => g.ok
  | .logic g _ _ => g.ok
  | .shift g _ _ => g.ok
  | .multiplyAdd g _ => g.ok
  | .div g _ => g.ok
  | .sqrt g _ => g.ok
  | .cvt g _ => g.ok
  | .dadd g _ => g.ok
  | .dsub g _ => g.ok
  | .dmul g _ => g.ok
  | .dmulf g _ => g.ok
  | .rcp g _ => g.ok
  | .rsq g _ => g.ok
  | .ex2 g _ => g.ok
  | .lg2 g _ => g.ok
  | .sinpi g _ => g.ok
  | .cospi g _ => g.ok
  | .tanh g _ => g.ok
  | .sigm g _ => g.ok
  | .sfTime g _ => g.ok
  | .bra g _ => g.ok
  | .join g _ => g.ok
  | .barT g _ => g.ok
  | .exit g _ => g.ok
  | .yield g _ => g.ok
  | .ldl g _ => g.ok
  | .stl g _ => g.ok
  | .atoml g _ => g.ok
  | .ld g _ => g.ok
  | .st g _ => g.ok
  | .atom g _ => g.ok
  | .red g _ => g.ok
  | .cruClose g _ => g.ok
  | .fenceRel g _ => g.ok
  | .fenceAcq g _ => g.ok
  | .fenceComplete g => g.ok
  | .enq g _ => g.ok
  | .doorbell p q _ => partOk p && slotOk q
  | .commandFetch p q => partOk p && slotOk q
  | .launch p q _ => partOk p && slotOk q
  | .nop p q _ => partOk p && slotOk q
  | .retry p q _ => partOk p && slotOk q
  | .skip p q _ => partOk p && slotOk q
  | .teardown p q _ => partOk p && slotOk q
  | .invTlb p q _ => partOk p && slotOk q
  | .invRo p q _ => partOk p && slotOk q
  | .createContext p q _ => partOk p && slotOk q
  | .destroyContext p q _ => partOk p && slotOk q
  | .createQueue p q _ => partOk p && slotOk q
  | .destroyQueue p q _ => partOk p && slotOk q
  | .registerGraph p q _ => partOk p && slotOk q
  | .patchGraph p q _ => partOk p && slotOk q
  | .releaseGraph p q _ => partOk p && slotOk q
  | .setEventRing p q _ => partOk p && slotOk q
  | .retireRows p q _ => partOk p && slotOk q
  | .selfTest p q _ => partOk p && slotOk q
  | .resetPartition p q _ => partOk p && slotOk q
  | .imgBegin p q _ => partOk p && slotOk q
  | .imgWrite p q _ _ => partOk p && slotOk q
  | .imgFinish p q _ => partOk p && slotOk q
  | .imgCommit p q _ => partOk p && slotOk q
  | .imgAbort p q _ => partOk p && slotOk q
  | .commandComplete p q _ => partOk p && slotOk q
  | .nodeStart _ _ => true
  | .timeSliceEnd p _ => partOk p
  | .budgetOverrun _ => true
  | .hostSyncPoll _ => true
  | .dmaDescriptor _ => true
  | .admissionPass => true
  | .preload _ _ => true
  | .teamStart _ cl _ => clusterOk cl
  | .teamDone _ _ => true
  | .dmaDone _ => true
  | .collDone _ => true
  | .preempt _ cl => clusterOk cl
  | .resume _ cl slot => clusterOk cl && snapOk slot
  | .discard _ cl => clusterOk cl
  | .ptPurge p sid => partOk p && sliceOk sid
  | .dmaRd _ _ _ => true
  | .dmaWr _ _ _ _ => true
  | .coll _ _ _ => true
  | .enqRec p q _ _ => partOk p && slotOk q
  | .rdWin p _ _ _ => partOk p
  | .wrWin p _ _ _ _ => partOk p
  | .rdReg p _ _ _ => partOk p
  | .wrReg p _ _ _ _ => partOk p
  | .registerWrite p _ _ => partOk p
  | .rdRem p _ _ _ _ => partOk p
  | .wrRem p _ _ _ _ => partOk p
  | .flushRem p _ _ => partOk p
  | .invRem p sid _ => partOk p && sliceOk sid
  | .keyLoad die _ => dieOk die
  | .rdS die _ _ => computeDieOk die
  | .rdE die _ _ => computeDieOk die
  | .upg die _ => computeDieOk die
  | .rdOnce _ _ _ => true
  | .drop die _ => computeDieOk die
  | .reg sid home => sliceOk sid && sliceOk home
  | .snpS die _ => computeDieOk die
  | .snpI die _ => computeDieOk die
  | .snpR die _ => computeDieOk die
  | .binv die _ => computeDieOk die
  | .sackI die _ => computeDieOk die
  | .sackS die _ => computeDieOk die
  | .grantE die _ => computeDieOk die
  | .grantM die _ => computeDieOk die
  | .wbAck dest _ => dest.ok
  | .regAck sid home => sliceOk sid && sliceOk home
  | .dataS die _ _ _ => computeDieOk die
  | .dataE die _ _ _ => computeDieOk die
  | .dataM die _ _ _ => computeDieOk die
  | .sdata die _ _ _ _ => computeDieOk die
  | .dataOnce _ _ _ _ _ _ => true
  | .wb die _ _ _ _ => computeDieOk die
  | .wfwd die _ _ _ _ _ => computeDieOk die
  | .fill sid _ _ => sliceOk sid
  | .clusterFill cl _ _ _ => clusterOk cl
  | .spoilWriteOut sid => sliceOk sid
  | .ledgerRecords sid _ => sliceOk sid
  | .pairRecords sid _ => sliceOk sid
  | .roundedUpdate sid _ => sliceOk sid
  | .closeLine sid _ _ => sliceOk sid
  | .closeTask sid _ => sliceOk sid
  | .crusherAck _ _ => true
  | .lineBringBack sid _ => sliceOk sid
  | .flitError die node _ _ _ => dieOk die && nodeOk node
  | .roCacheEnable cl => clusterOk cl
  | .sliceEnable sid => sliceOk sid
  | .refresh chan bank _ _ => chanOk chan && bankOk bank
  | .disturbanceRefresh chan bank _ => chanOk chan && bankOk bank
  | .patrolScrub _ _ _ => true
  | .arrayScrub u _ => u.ok
  | .retrainWindow chan _ _ => chanOk chan
  | .faceRecalibration chan => chanOk chan
  | .temperatureReadout chan _ => chanOk chan
  | .dataFrame link dir octet _ => linkOk link && dirOk dir && octetOk octet
  | .idleFrame link dir octet _ => linkOk link && dirOk dir && octetOk octet
  | .capFrame link dir octet _ => linkOk link && dirOk dir && octetOk octet
  | .widthFrame link dir octet _ => linkOk link && dirOk dir && octetOk octet
  | .alignFrame link dir octet _ => linkOk link && dirOk dir && octetOk octet
  | .recalFrame link dir octet _ => linkOk link && dirOk dir && octetOk octet
  | .nakRepeat link dir => linkOk link && dirOk dir
  | .frameTimeout link => linkOk link
  | .lossOfSignal link octet => linkOk link && octetOk octet
  | .octetRecalibration link octet _ => linkOk link && octetOk octet
  | .lnkCmdRetire link _ => linkOk link
  | .lnkCmdRecal link => linkOk link
  | .rdmaWrite k => k.ok
  | .rdmaReadRequest k => k.ok
  | .fetchAdd k _ => k.ok
  | .cmpSwap k _ _ => k.ok
  | .unsupportedOperation k => k.ok
  | .rdmaReadResponse _ _ _ => true
  | .acknowledge _ _ _ => true
  | .nak _ _ _ => true
  | .rnrNak _ _ _ => true
  | .ackTimeout _ => true
  | .cnp _ => true
  | .cnpRateIncrease _ => true
  | .pfcFrame port half _ _ => portOk port && halfOk half
  | .req m => m.ok
  | .rep _ _ _ _ _ => true
  | .rtu _ => true
  | .rej _ _ => true
  | .dreq _ => true
  | .drep _ => true
  | .windowReqRetry _ => true
  | .arp port half _ _ => portOk port && halfOk half
  | .neighborDiscovery port half _ _ => portOk port && halfOk half
  | .delayReq m => m.ok
  | .pdelayReq m => m.ok
  | .unmatchedFrame port half => portOk port && halfOk half
  | .portUp port half _ => portOk port && halfOk half
  | .portDown port half => portOk port && halfOk half
  | .softStart _ => true
  | .supplyWarning _ => true
  | .warningCleared _ => true
  | .coldReset _ => true
  | .overvoltage _ => true
  | .modResetAssert _ => true
  | .modResetRelease => true
  | .flashEnAssert => true
  | .flashEnRelease => true
  | .currentSample _ _ => true
  | .powerCapLoop => true
  | .pwrCapWrite _ => true
  | .sensorSample die node _ => dieOk die && sensorOk node
  | .hotSensorTimeout => true
  | .latchSensorRead _ => true
  | .droopTrip die node => dieOk die && nodeOk node
  | .droopEnd die => dieOk die
  | .droopLimit die => dieOk die
  | .withholdSummary p => partOk p
  | .ageingMonitorRead die _ => dieOk die
  | .oscillatorCheck die _ _ => dieOk die
  | .watchdogExpiry die _ => dieOk die
  | .firmwareWatchdog => true
  | .domainFatal _ _ => true
  | .restartResume _ => true
  | .coldStart => true
  | .reducedService => true
  | .logicSelfTestDone u _ => u.ok
  | .ledgerSelfTestDone u _ _ => u.ok
  | .fullService => true
  | .journalProgram => true
  | .errorSnapshot => true
  | .qdbCtlDiscard p q => partOk p && slotOk q
  | .qdbCtlResync p q => partOk p && slotOk q
  | .qdbEvtailWrite p _ => partOk p
  | .secQuoteCtlGo => true
  | .quoteComplete => true
  | .rnrTimerExpiry _ => true
  | .overvoltageCleared _ => true
  | .fru3v3Removal => true
  | .controlSegmentPoll _ _ _ => true
  | .controlComplexStepChange _ => true
  | .fecUncorrectableFrame port half => portOk port && halfOk half

end Sys2Proof
end

