-- ==== Sys2Proof/Machine/Store.lean ====
section
/-! DEFINITION. Sparse tables, bytes of memory, and the small updates of the parts of the state. -/

namespace Sys2Proof.Machine

variable {α : Type}

/-- Value at a key, `d` where the table lists none. -/
def look (d : α) : SMap α → Nat → α
  | [], _ => d
  | (k', v) :: m, k => if k' = k then v else look d m k

/-- Take a key out of a table. -/
def unlist : SMap α → Nat → SMap α
  | [], _ => []
  | (k', v) :: m, k => if k' = k then unlist m k else (k', v) :: unlist m k

/-- List a key in its place. -/
def enlist : SMap α → Nat → α → SMap α
  | [], k, v => [(k, v)]
  | (k', v') :: m, k, v => if k < k' then (k, v) :: (k', v') :: m else (k', v') :: enlist m k v

/-- Put `v` at a key; a value equal to the default is not listed. -/
def put [DecidableEq α] (d : α) (m : SMap α) (k : Nat) (v : α) : SMap α :=
  if v = d then unlist m k else enlist (unlist m k) k v

/-- Keys strictly rise above `lo`, and no entry equals the default. -/
def wfFrom [DecidableEq α] (d : α) : Nat → SMap α → Bool
  | _, [] => true
  | lo, (k, v) :: m => decide (lo ≤ k) && decide (v ≠ d) && wfFrom d (k + 1) m

/-- The canonical form of a sparse table. -/
def wfMap [DecidableEq α] (d : α) (m : SMap α) : Bool := wfFrom d 0 m

/-- Canonical form of memory: addresses strictly rising, no listed byte equal to what an unlisted address reads as. -/
def Memory.wf (m : List Host.Cell) : Bool := wfMap (α := Byte) 0 m

/-- What an address that memory does not list reads as (DESIGN CHOICE, log 2). -/
def unlistedByte : Byte := 0

def readByte (m : List Host.Cell) (a : Nat) : Byte := look unlistedByte m a
def writeByte (m : List Host.Cell) (a : Nat) (b : Byte) : List Host.Cell := put unlistedByte m a b

/-- Little-endian value of `n` bytes from `a` (R12). -/
def readLE (m : List Host.Cell) (a : Nat) : Nat → Nat
  | 0 => 0
  | n + 1 => (readByte m a).toNat + 256 * readLE m (a + 1) n

def writeLE (m : List Host.Cell) (a : Nat) : Nat → Nat → List Host.Cell
  | 0, _ => m
  | n + 1, v => writeLE (writeByte m a (BitVec.ofNat 8 v)) (a + 1) n (v / 256)

def writeBytes (m : List Host.Cell) (a : Nat) : List Byte → List Host.Cell
  | [] => m
  | b :: bs => writeBytes (writeByte m a b) (a + 1) bs

def readBytes (m : List Host.Cell) (a : Nat) : Nat → List Byte
  | 0 => []
  | n + 1 => readByte m a :: readBytes m (a + 1) n

/-- Byte list as a little-endian number, and back. -/
def leNat : List Byte → Nat
  | [] => 0
  | b :: bs => b.toNat + 256 * leNat bs

def leBytes : Nat → Nat → List Byte
  | 0, _ => []
  | n + 1, v => BitVec.ofNat 8 v :: leBytes n (v / 256)

/-- Bytes in network order, the most significant first: the header fields of RoCEv2 (R12). -/
def beBytes (n v : Nat) : List Byte := (leBytes n v).reverse
def beNat (l : List Byte) : Nat := l.foldl (fun n b => 256 * n + b.toNat) 0

/-- Bytes of `l` from offset `o`, `n` of them, zero past the end. -/
def slice (l : List Byte) (o n : Nat) : List Byte :=
  let t := (l.drop o).take n
  t ++ List.replicate (n - t.length) 0

def fieldAt (l : List Byte) (o n : Nat) : Nat := leNat (slice l o n)
def byteAt (l : List Byte) (o : Nat) : Nat := (l.getD o 0).toNat

/-! ### Lines -/

def lineByte (d : Line) (b : Nat) : Byte := d.extractLsb' (8 * b) 8
def lineOf (bytes : List Byte) : Line := BitVec.ofNat 1024 (leNat (slice bytes 0 128))
def lineBytes (d : Line) : List Byte := leBytes 128 d.toNat

/-- All-ones in every byte whose enable bit is set. -/
def beMask : Nat → Nat → Nat
  | 0, _ => 0
  | n + 1, be => (if be % 2 = 1 then 255 else 0) + 256 * beMask n (be / 2)

/-- `new` where byte-enable `be` is set, `old` elsewhere. -/
def mergeLine (be : BitVec 128) (new old : Line) : Line :=
  let m : Line := BitVec.ofNat 1024 (beMask 128 be.toNat)
  (new &&& m) ||| (old &&& ~~~m)

/-- Byte enables of the sectors of a mask. -/
def sectorBe (s : BitVec 4) : BitVec 128 :=
  BitVec.ofNat 128 (((List.range 4).map fun j => if s.getLsbD j then (2 ^ 32 - 1) * 2 ^ (32 * j) else 0).sum)

/-- Sectors that a byte-enable mask touches, and those it covers wholly. -/
def sectorsTouched (be : BitVec 128) : BitVec 4 :=
  BitVec.ofNat 4 (((List.range 4).map fun j =>
    if (be.extractLsb' (32 * j) 32) ≠ 0 then 2 ^ j else 0).sum)
def sectorsWhole (be : BitVec 128) : BitVec 4 :=
  BitVec.ofNat 4 (((List.range 4).map fun j =>
    if (be.extractLsb' (32 * j) 32) = BitVec.allOnes 32 then 2 ^ j else 0).sum)

def memLine (m : List Host.Cell) (line : Nat) : Line := BitVec.ofNat 1024 (readLE m (128 * line) 128)

/-- Write the bytes of a line that `be` enables. -/
def putLineBytes (m : List Host.Cell) (a : Nat) (be v : Nat) : Nat → List Host.Cell
  | 0 => m
  | n + 1 =>
    putLineBytes (if be % 2 = 1 then writeByte m a (BitVec.ofNat 8 v) else m) (a + 1) (be / 2) (v / 256) n

def memPutLine (m : List Host.Cell) (line : Nat) (be : BitVec 128) (d : Line) : List Host.Cell :=
  putLineBytes m (128 * line) be.toNat d.toNat 128

/-! ### Lists used as small tables -/

/-- Replace the first element that satisfies `p`; append `new` when there is none. -/
def upsert (p : α → Bool) (new : α) : List α → List α
  | [] => [new]
  | a :: as => if p a then new :: as else a :: upsert p new as

/-- Apply `f` to every element that satisfies `p`. -/
def modWhere (p : α → Bool) (f : α → α) (l : List α) : List α := l.map fun a => if p a then f a else a

def dropWhere (p : α → Bool) (l : List α) : List α := l.filter fun a => !p a

/-! ### Parts of the state -/

def emit (s : State) (o : Out) : State := { s with out := s.out ++ [o] }
def emits (s : State) (os : List Out) : State := { s with out := s.out ++ os }

/-- A fresh free value (DESIGN CHOICE, log 3). -/
def freeVal (s : State) : W64 × State := (Config.freeWord s.free, { s with free := s.free + 1 })

def die (s : State) (d : Nat) : Die := look {} s.dies d
def setDie (s : State) (d : Nat) (v : Die) : State := { s with dies := put {} s.dies d v }
def modDie (s : State) (d : Nat) (f : Die → Die) : State := setDie s d (f (die s d))

def cluster (s : State) (c : Nat) : Cluster := look {} s.clusters c
def setCluster (s : State) (c : Nat) (v : Cluster) : State := { s with clusters := put {} s.clusters c v }
def modCluster (s : State) (c : Nat) (f : Cluster → Cluster) : State := setCluster s c (f (cluster s c))

def group (s : State) (g : Nat) : Option Group := look none s.groups g
def setGroup (s : State) (g : Nat) (v : Option Group) : State := { s with groups := put none s.groups g v }
def modGroup (s : State) (g : Nat) (f : Group → Group) : State := setGroup s g ((group s g).map f)

def sliceOf (s : State) (i : Nat) : Slice := look {} s.slices i
def setSlice (s : State) (i : Nat) (v : Slice) : State := { s with slices := put {} s.slices i v }
def modSlice (s : State) (i : Nat) (f : Slice → Slice) : State := setSlice s i (f (sliceOf s i))

def crusher (s : State) (i : Nat) : Crusher := look {} s.crushers i
def setCrusher (s : State) (i : Nat) (v : Crusher) : State := { s with crushers := put {} s.crushers i v }
def modCrusher (s : State) (i : Nat) (f : Crusher → Crusher) : State := setCrusher s i (f (crusher s i))

def link (s : State) (i : Nat) : Link := look {} s.links i
def setLink (s : State) (i : Nat) (v : Link) : State := { s with links := put {} s.links i v }
def modLink (s : State) (i : Nat) (f : Link → Link) : State := setLink s i (f (link s i))

def part (s : State) (p : Nat) : Part := look {} s.parts p
def setPart (s : State) (p : Nat) (v : Part) : State := { s with parts := put {} s.parts p v }
def modPart (s : State) (p : Nat) (f : Part → Part) : State := setPart s p (f (part s p))

def queue (s : State) (p q : Nat) : Queue := look {} (part s p).queues q
def setQueue (s : State) (p q : Nat) (v : Queue) : State :=
  modPart s p fun r => { r with queues := put {} r.queues q v }
def modQueue (s : State) (p q : Nat) (f : Queue → Queue) : State := setQueue s p q (f (queue s p q))

def ctxOf (s : State) (p c : Nat) : Option Ctx := look none (part s p).ctxs c
def setCtx (s : State) (p c : Nat) (v : Option Ctx) : State :=
  modPart s p fun r => { r with ctxs := put none r.ctxs c v }

def graphOf (s : State) (p h : Nat) : Option Graph := look none (part s p).graphs h
def setGraph (s : State) (p h : Nat) (v : Option Graph) : State :=
  modPart s p fun r => { r with graphs := put none r.graphs h v }

def chan (s : State) (i : Nat) : Chan := look {} s.chans i
def setChan (s : State) (i : Nat) (v : Chan) : State := { s with chans := put {} s.chans i v }
def modChan (s : State) (i : Nat) (f : Chan → Chan) : State := setChan s i (f (chan s i))

/-- Port `n`, half `h` (0 whole, 1 a, 2 b). -/
def port (s : State) (n h : Nat) : Port := look {} s.ports (4 * n + h)
def setPort (s : State) (n h : Nat) (v : Port) : State := { s with ports := put {} s.ports (4 * n + h) v }
def modPort (s : State) (n h : Nat) (f : Port → Port) : State := setPort s n h (f (port s n h))

def qp (s : State) (i : Nat) : Qp := look {} s.qps i
def setQp (s : State) (i : Nat) (v : Qp) : State := { s with qps := put {} s.qps i v }
def modQp (s : State) (i : Nat) (f : Qp → Qp) : State := setQp s i (f (qp s i))

def partCfg (s : State) (p : Nat) : PartCfg := look {} s.image.parts p

/-- The outcome of a command that names the units `ok` vouches for. (DESIGN CHOICE, log 1) -/
def onUnit (ok : Bool) (s : State) : Host.Outcome State Fault Refusal :=
  if ok then .next s else .fault .noSuchUnit

/-- A counter that holds at its largest value (R193, R283, R329, R530). -/
def bump (max n : Nat) : Nat := if n < max then n + 1 else max

end Sys2Proof.Machine
end

