-- ==== Sys2Proof/Machine/Addr.lean ====
section
/-! DEFINITION. The ring, the physical address map, the interleaving hashes, homes, sets and routes, and the latency and
rate formulas: R2 to R5, R21 to R32, R42, R160, R174, R175, R180 to R182, R187, R192, R194, R221 to R223, R234, R305. -/

namespace Sys2Proof.Machine
open Sys2Proof.Num

/-- Compute dies of a variant code (R2): 1 DK-T8, 2 DK-T4, 3 DK-T2. -/
def dieCount (variant : Nat) : Nat :=
  match variant with
  | 1 => 8
  | 2 => 4
  | _ => 2

def clusterCount (variant : Nat) : Nat := 16 * dieCount variant
def coreCount (variant : Nat) : Nat := 12 * clusterCount variant

/-- Link index of the ring link between two dies, if they are neighbours (R3, R21, R22, R329). -/
def ringLink (variant a b : Nat) : Option Nat :=
  let n := dieCount variant
  if a = b then none
  else if n = 2 then some 8
  else if b = (a + 1) % n then some (8 + a)
  else if a = (b + 1) % n then some (8 + b)
  else none

/-- Ends of a link: the die of end A, and end B (8 is the IOD) (R329). -/
def linkEnds (variant i : Nat) : Option (Nat × Nat) :=
  let n := dieCount variant
  if i < 8 then (if i < n then some (i, 8) else none)
  else if n = 2 then (if i = 8 then some (0, 1) else none)
  else if i - 8 < n then some (i - 8, (i - 8 + 1) % n) else none

/-- Octets a link has (R303): 12 die to IOD, 4 ring. -/
def linkOctets (i : Nat) : Nat := if i < 8 then 12 else 4
/-- Least octets a link keeps (R326). -/
def linkMinOctets (i : Nat) : Nat := if i < 8 then 2 else 1

/-! ### Physical address map (R25) -/

def faceSpan : Nat := 0x2000000000
def faceSize : Nat := 0x1400000000
def saveBase : Nat := 0x13D0000000
def stockBase : Nat := 0x010000000000
def stockSize : Nat := 0x8000000000
def winBase : Nat := 0x018000000000
def winStride : Nat := 0x800000
def regBase : Nat := 0x01C000000000
def remBase : Nat := 0x020000000000
def remEnd : Nat := 0x040000000000

/-- What a physical address names (R25, R31). -/
inductive Target where
  | face (die off : Nat)
  | stock (off : Nat)
  | window (cl off : Nat)
  | register (off : Nat)
  | remote
  | hole
  deriving DecidableEq, Repr

/-- R25: the populated ranges of a variant. -/
def target (variant pa : Nat) : Target :=
  if pa < stockBase then
    let d := pa / faceSpan
    let off := pa % faceSpan
    if d < dieCount variant && off < faceSize then .face d off else .hole
  else if pa < stockBase + stockSize then .stock (pa - stockBase)
  else if pa < winBase then .hole
  else if pa < regBase then
    let c := (pa - winBase) / winStride
    let off := (pa - winBase) % winStride
    if c < clusterCount variant && off < 0x600000 then .window c off else .hole
  else if pa < remBase then .register (pa - regBase)
  else if pa < remEnd then .remote
  else .hole

/-- Row of the table of R25 that an address lies in, for the crossing rules of R38, R242, R357. -/
def mapRow (variant pa : Nat) : Nat :=
  match target variant pa with
  | .face d _ => 1 + d
  | .stock _ => 20
  | .window c _ => 100 + c
  | .register _ => 21
  | .remote => 22
  | .hole => 0

/-- A range that is populated and stays in one row of R25. -/
def oneRow (variant base len : Nat) : Bool :=
  let r := mapRow variant base
  r ≠ 0 && (len = 0 || mapRow variant (base + len - 1) = r)

def windowAddr (cl off : Nat) : Nat := winBase + cl * winStride + off

/-! ### Interleaving (R28, R29) -/

def xors (l : List Nat) : Nat := l.foldl Nat.xor 0

def faceChan (off : Nat) : Nat := xors [field off 11 8, field off 15 12, field off 19 16, field off 23 20]
def faceChanAddr (off : Nat) : Nat := (off >>> 12) * 256 + off % 256
def stockChan (off : Nat) : Nat := xors [field off 12 8, field off 17 13, field off 22 18, field off 27 23]
def stockChanAddr (off : Nat) : Nat := (off >>> 13) * 256 + off % 256

/-- Channel number of this model (`16 d + c`, or `128 + s`) and the address within it. -/
def chanOf (variant pa : Nat) : Option (Nat × Nat) :=
  match target variant pa with
  | .face d off => some (16 * d + faceChan off, faceChanAddr off)
  | .stock off => some (128 + stockChan off, stockChanAddr off)
  | _ => none

/-- Bank and row of a face channel address (R194); the stockpile bank map is not given (DESIGN CHOICE, log 13). -/
def bankRow (ch a : Nat) : Nat × Nat :=
  if ch < 128 then (Nat.xor (field a 15 10) (field a 21 16), a >>> 16) else (Config.stockBank a, a >>> 11)

/-- The aligned physical range that a retired row takes (R212): base and size, from any address in it. -/
def rowRange (variant pa : Nat) : Nat × Nat :=
  match target variant pa with
  | .stock _ => (pa / 0x10000 * 0x10000, 0x10000)
  | _ => (pa / 0x4000 * 0x4000, 0x4000)

/-! ### Homes and sets (R221 to R223) -/

/-- Slice number: `16 d + n`, with the IOD as die 8. -/
def homeSlice (variant pa : Nat) : Option Nat :=
  match target variant pa with
  | .face d off => some (16 * d + faceChan off)
  | .stock off => some (128 + stockChan off / 2)
  | .remote => some (128 + Nat.xor (field pa 10 7) (field pa 14 11))
  | _ => none

/-- The slice a core of die `d` uses for a line (R223). -/
def coreSlice (variant d pa : Nat) : Option Nat :=
  match target variant pa with
  | .remote => homeSlice variant pa
  | _ => (homeSlice variant pa).map fun h => 16 * d + h % 16

/-- Is the line foreign to the die (R223)? -/
def foreign (variant d pa : Nat) : Bool :=
  match homeSlice variant pa, target variant pa with
  | _, .remote => false
  | some h, _ => h / 16 ≠ d
  | none, _ => false

/-- Set of a line in its home slice (R222). -/
def homeSet (variant pa : Nat) : Nat :=
  match target variant pa with
  | .face _ off =>
    let l := faceChanAddr off >>> 7
    xors [field l 11 0, field l 23 12, field l 25 24]
  | .stock off =>
    let m := (stockChanAddr off >>> 7) * 2 + stockChan off % 2
    xors [field m 12 0, field m 25 13, field m 27 26]
  | _ => xors [field pa 23 11, field pa 36 24, field pa 49 37]

/-- Set of a line in a slice: a proxy takes the low 12 bits of an IOD set (R223). -/
def setIn (variant sid pa : Nat) : Nat := if sid < 128 then homeSet variant pa % 4096 else homeSet variant pa

/-- Bank and byte of a cluster-memory offset (R160). -/
def bankOf (off : Nat) : Nat × Nat := (Nat.xor (field off 10 6) (field off 15 11), (off >>> 11) * 64 + off % 64)

/-! ### Routes (R24, R174, R175, R187) -/

def col (n : Nat) : Nat := n % 4
def row (n : Nat) : Nat := n / 4

/-- Nodes from `a` towards `b` along one axis, `a` excluded; `k` bounds the hops. -/
def walkAxis (step : Nat → Nat) (stop : Nat → Bool) : Nat → Nat → List Nat
  | 0, _ => []
  | k + 1, n => if stop n then [] else step n :: walkAxis step stop k (step n)

/-- Dimension-order route, both ends included (R174): along the row first, then along the column. -/
def route (a b : Nat) : List Nat :=
  let h := walkAxis (fun n => if col n < col b then n + 1 else n - 1) (fun n => col n = col b) 4 a
  let m := h.getLastD a
  let v := walkAxis (fun n => if row n < row b then n + 4 else n - 4) (fun n => row n = row b) 4 m
  a :: (h ++ v)

def routers (a b : Nat) : Nat := (route a b).length

/-- Edge ports of R174. -/
def iodEdge (n : Nat) : Nat := 4 * row n + (if col n ≤ 1 then 0 else 3)
def ringPrevEdge (n : Nat) : Nat := Nat.min (col n) 2
def ringNextEdge (n : Nat) : Nat := 12 + Nat.max (col n) 1

/-- Node of the IOD mesh at which traffic of CDd attaches for an IOD agent at node `n` (R187). -/
def iodAttach (d n : Nat) : Nat := if row n ≤ 1 then d else d + 8

/-- Ethernet ports, front end and control complex on the IOD mesh (R175). -/
def ethNode (p : Nat) : Nat := [0, 3, 12, 15].getD p 0
def frontEndNode : Nat := 5
def controlComplexNode : Nat := 10

/-- Edge ports that a packet from die `a` to compute die `b` uses: out of `a` from node `n`, into `b` for node `m`
(R174, R22); `ring` says whether the ring link between them is in service. -/
def edgePorts (variant a b n m : Nat) (ring : Bool) : Nat × Nat :=
  match ringLink variant a b with
  | some _ =>
    if ring then
      -- on the DK-T2 the one ring link joins CD0's port toward its successor to CD1's toward its predecessor (R3)
      if (if variant = 3 then a == 0 else b == (a + 1) % dieCount variant) then (ringNextEdge n, ringPrevEdge m) else (ringPrevEdge n, ringNextEdge m)
    else (iodEdge n, iodEdge m)
  | none => (iodEdge n, iodEdge m)

/-! ### Latencies and rates -/

/-- Bound of a router in steps by virtual channel (R180): bulk VC0 and the control mesh 20, bulk VC1 to VC3 80. -/
def routerBound (control : Bool) (vc : Nat) : Nat := if control || vc = 0 then 20 else 80

/-- Steps of a die-link crossing at the paced floor: 48 ns (R181). -/
def crossingSteps : Nat := 96
def switchSteps : Nat := 100

/-- End-to-end bound of R182: routers, crossings, switch passages, flits and hop retries. -/
def pathBound (control : Bool) (vc nRouters crossings switches flits retries : Nat) : Nat :=
  nRouters * routerBound control vc + crossings * crossingSteps + switches * switchSteps + (flits - 1) + 4 * retries

/-- Collection time of R192. -/
def collectBound (flits dmax : Nat) (vc0 : Bool) : Nat :=
  let b := if vc0 then 32 else 64
  (flits * 64 + b - 1) / b + dmax

/-- Bound between nodes of two compute dies over bulk VC1 to VC3 (R182). -/
def dieToDieBound (variant a b n m flits : Nat) (ring : Bool) : Nat :=
  if a = b then pathBound false 1 (routers n m) 0 0 flits 0
  else
    let (x, y) := edgePorts variant a b n m ring
    let direct := ring && (ringLink variant a b).isSome
    pathBound false 1 (routers n x + routers y m) (if direct then 1 else 2) (if direct then 0 else 1) flits 0

/-- Steps of an uncontended load (R234): slice on the core's die, and cluster read cache and L1. -/
def sliceHitSteps (r : Nat) : Nat := 32 + 4 * r
def l1HitSteps : Nat := 20
def readCacheHitSteps : Nat := 26

/-- Step floor at a core supply in mV and a junction temperature in C, in 1/1200 of 10 M steps/s: the exact linear interpolation between
the points of R42. -/
def stepFloor (mv temp : Nat) : Nat :=
  let pts := [[245, 220, 200], [265, 240, 218], [285, 260, 236]]
  let t := Nat.max 25 (Nat.min 105 temp)
  let v := Nat.max 700 (Nat.min 740 mv)
  let at' := fun (i j : Nat) => (pts.getD i []).getD j 0
  let i := if v < 720 then 0 else 1
  let (j, t0, dt) := if t < 85 then (0, 25, 60) else (1, 85, 20)
  let low := at' i j * (dt - (t - t0)) + at' i (j + 1) * (t - t0)
  let high := at' (i + 1) j * (dt - (t - t0)) + at' (i + 1) (j + 1) * (t - t0)
  (low * (20 - (v - (700 + 20 * i))) + high * (v - (700 + 20 * i))) * (60 / dt)

/-- MACs per step and core by the wider input width (R95, R116). -/
def macsPerStep (bits : Nat) : Nat :=
  match bits with
  | 4 => 4096
  | 6 | 8 => 2048
  | 16 => 1024
  | 32 => 256
  | _ => 128

/-- Peak rate of R5 in operations per second, for a step rate in steps per second. -/
def peakRate (variant bits stepRate : Nat) : Nat := coreCount variant * macsPerStep bits * 2 * stepRate

/-- Cell rate of a link in bytes per second (R305): `w` octets at `gbps` per lane, 256 of 296 bytes. -/
def cellRate (w gbps : Nat) : Nat := gbps * 1000000000 / 8 * 8 * w * 256 / 296

end Sys2Proof.Machine
end

