-- ==== Sys2Proof/Machine/Cache.lean ====
section
/-! DEFINITION. Lines in slices: compression, sets, replacement, the spoil buffer and the coherent view of a line: R220 to
R241, R252, R253 of 08_unified_cache. -/

namespace Sys2Proof.Machine
open Sys2Proof.Num

/-! ### Compression (R226, R227) -/

/-- Word `i` of width `w` bytes of a line. -/
def lineWord (d : Line) (w i : Nat) : Nat := (d.toNat >>> (8 * w * i)) % 2 ^ (8 * w)

/-- Every word is base + a sign-extended delta of `k` bytes, modulo the word size. -/
def deltasFit (d : Line) (w k : Nat) : Bool :=
  let base := lineWord d w 0
  (List.range (128 / w)).all fun i =>
    let delta := (lineWord d w i + 2 ^ (8 * w) - base) % 2 ^ (8 * w)
    unsigned (8 * w) (signed (8 * k) delta) == delta

/-- Sector slots of a compression code. -/
def cmpSlots (cmp : Nat) : Nat :=
  match cmp with
  | 0 => 4 | 1 => 0 | 2 => 1 | 3 => 1 | 4 => 2 | 5 => 2 | 6 => 3 | 7 => 3 | _ => 4

/-- Can the code's layout represent the line? -/
def cmpFits (d : Line) (cmp : Nat) : Bool :=
  match cmp with
  | 0 => true
  | 1 => d == 0
  | 2 => (List.range 16).all fun i => lineWord d 8 i == lineWord d 8 0
  | 3 => deltasFit d 8 1
  | 4 => deltasFit d 8 2
  | 5 => deltasFit d 4 1
  | 6 => deltasFit d 4 2
  | 7 => deltasFit d 8 4
  | _ => false

/-- Code with the fewest slots, the lowest among equals (R227). -/
def cmpOf (d : Line) : Nat := (([1, 2, 3, 4, 5, 6, 7].find? fun c => cmpFits d c).getD 0)

/-- Bytes of the layout of a code, in its occupied sectors (R226). -/
def cmpLayout (d : Line) (cmp : Nat) : List Byte :=
  let deltas := fun (w k : Nat) =>
    let base := lineWord d w 0
    leBytes w base ++ (((List.range (128 / w)).map fun i =>
      leBytes k ((lineWord d w i + 2 ^ (8 * w) - base) % 2 ^ (8 * w))).flatten)
  let raw := match cmp with
    | 0 => lineBytes d
    | 1 => []
    | 2 => leBytes 8 (lineWord d 8 0)
    | 3 => deltas 8 1
    | 4 => deltas 8 2
    | 5 => deltas 4 1
    | 6 => deltas 4 2
    | _ => deltas 8 4
  slice raw 0 (32 * cmpSlots cmp)

/-- The line that a layout represents: what decompression delivers (R225, R228). -/
def cmpExpand (cmp : Nat) (l : List Byte) : Line :=
  let undelta := fun (w k : Nat) =>
    let base := fieldAt l 0 w
    lineOf (((List.range (128 / w)).map fun i =>
      leBytes w ((base + unsigned (8 * w) (signed (8 * k) (fieldAt l (w + k * i) k))) % 2 ^ (8 * w))).flatten)
  match cmp with
  | 0 => lineOf l
  | 1 => 0
  | 2 => lineOf ((List.replicate 16 (slice l 0 8)).flatten)
  | 3 => undelta 8 1
  | 4 => undelta 8 2
  | 5 => undelta 4 1
  | 6 => undelta 4 2
  | _ => undelta 8 4

/-- Flits of a whole-line packet between slices (R228). -/
def cmpFlits (cmp : Nat) : Nat := if 1 ≤ cmp && cmp ≤ 5 then 1 else 2

/-! ### Poison per sector -/

def poisonAt (p : W32) (j : Nat) : Byte := p.extractLsb' (8 * j) 8
def setPoison (p : W32) (j : Nat) (o : Byte) : W32 :=
  BitVec.ofNat 32 (((List.range 4).map fun i =>
    (if i = j then o.toNat else (poisonAt p i).toNat) * 2 ^ (8 * i)).sum)

/-- Poison of `new` in the sectors of `mask`, of `old` elsewhere. -/
def mergePoison (mask : BitVec 4) (new old : W32) : W32 :=
  BitVec.ofNat 32 (((List.range 4).map fun i =>
    (if mask.getLsbD i then poisonAt new i else poisonAt old i).toNat * 2 ^ (8 * i)).sum)

/-- A write that covers a whole sector clears its mark; a partial one leaves it (R253). -/
def writePoison (be : BitVec 128) (p : W32) : W32 := mergePoison (sectorsWhole be) 0 p

/-- First poison origin among the sectors of a mask. -/
def poisonIn (mask : BitVec 4) (p : W32) : Byte :=
  ((List.range 4).foldl (fun a j => if a = 0 && mask.getLsbD j then poisonAt p j else a) 0)

def memPoison (s : State) (line : Nat) : W32 :=
  BitVec.ofNat 32 (((List.range 4).map fun j => (look 0 s.poison (4 * line + j)).toNat * 2 ^ (8 * j)).sum)

def setMemPoison (s : State) (line : Nat) (p : W32) : State :=
  { s with poison := (List.range 4).foldl (fun m j => put 0 m (4 * line + j) (poisonAt p j)) s.poison }

/-! ### What the controllers do for an access (R202 to R208) -/

/-- Key of a row of a channel. -/
def rowKey (bank row : Nat) : Nat := bank * 2 ^ 24 + row

/-- A bank's tracker of 64 rows counts an activation; a full tracker gives an entry up for a new row (R207, R208; DESIGN CHOICE for
which one, DESIGN CHOICE, log 104). -/
def tracked (m : SMap Nat) (bank row : Nat) : SMap Nat :=
  let k := rowKey bank row
  let mine := m.filter fun (x, _) => x / 2 ^ 24 == bank
  if 0 < look 0 m k || mine.length < 64 then put 0 m k (look 0 m k + 1)
  else put 0 (unlist m (mine.getD (Config.trackerEvict k % 64) (0, 0)).1) k 1

/-- A row of a bank is opened: the trackers count it, and a stockpile controller sends a refresh management command where the
memory's own accounting calls for one (R208; DESIGN CHOICE for when that is, DESIGN CHOICE, log 104). -/
def opened (c : Chan) (ch bank row : Nat) : Chan :=
  let c := { c with openRow := put 0 c.openRow bank (row + 1), activations := tracked c.activations bank row }
  if ch < 128 then c
  else
    let n := look 0 c.accounted bank + 1
    if Config.managementDue n then
      { c with accounted := put 0 c.accounted bank 0, managed := put 0 c.managed bank (look 0 c.managed bank + 1) }
    else { c with accounted := put 0 c.accounted bank n }

/-- The controller opens the row of an address, unless it is open (R197). A row stays open until its bank needs another or is
refreshed. (DESIGN CHOICE, log 74) -/
def activate (s : State) (pa : Nat) : State :=
  match chanOf s.variant pa with
  | none => s
  | some (ch, a) =>
    let (bank, row) := bankRow ch a
    if look 0 (chan s ch).openRow bank = row + 1 then s else modChan s ch fun c => opened c ch bank row

/-- Is sector `j` in a protected unit of which a write covers every sector (R203)? A unit of face memory is a pair of sectors. -/
def unitCovered (line : Nat) (whole : BitVec 4) (j : Nat) : Bool :=
  if 128 * line < stockBase then whole.getLsbD (j / 2 * 2) && whole.getLsbD (j / 2 * 2 + 1) else whole.getLsbD j

/-- Marks of a line in memory once the sectors of `whole` are written with marks `p`: a poisoned unit stays so until a write covers
all of it (R204). -/
def memMarks (s : State) (line : Nat) (whole : BitVec 4) (p : W32) : W32 :=
  let old := memPoison s line
  BitVec.ofNat 32 (((List.range 4).map fun j =>
    (if !whole.getLsbD j || (poisonAt p j = 0 && !unitCovered line whole j) then poisonAt old j else poisonAt p j).toNat * 2 ^ (8 * j)).sum)

/-- A write of a controller: the bytes of `be`, with the marks of the sectors of `whole` (R202, R204). -/
def memStore (s : State) (line : Nat) (be : BitVec 128) (whole : BitVec 4) (d : Line) (p : W32) : State :=
  let s := activate s (128 * line)
  setMemPoison { s with mem := memPutLine s.mem line be d } line (memMarks s line whole p)

/-- Store the sectors of `mask` of a line, with their poison, in memory. -/
def memStoreLine (s : State) (line : Nat) (mask : BitVec 4) (d : Line) (p : W32) : State := memStore s line (sectorBe mask) mask d p

/-- Store enabled bytes of a line in memory. -/
def memStoreBytes (s : State) (line : Nat) (be : BitVec 128) (d : Line) (p : W32) : State := memStore s line be (sectorsWhole be) d p

/-! ### Messages with data (R228) -/

/-- Mask of the sectors a layout occupies, counted from sector 0. -/
def cmpSectors (cmp : Nat) : BitVec 4 := BitVec.ofNat 4 (2 ^ cmpSlots cmp - 1)

/-- Data for a core, a cluster read cache or an agent that is no slice: always RAW. -/
def sendRaw (s : State) (name : String) (dest line : Nat) (v : Line) (sectors : BitVec 4) (p : W32) : State :=
  emit s (.cohData name dest line v sectors p 0)

/-- Data between two slices: a whole line goes in its layout, part of one RAW. -/
def sendData (s : State) (name : String) (dest line : Nat) (v : Line) (sectors : BitVec 4) (p : W32) : State :=
  if sectors = 0xF#4 then emit s (.cohData name dest line v (cmpSectors (cmpOf v)) p (cmpOf v)) else sendRaw s name dest line v sectors p

/-! ### Tags of a slice -/

def findLine (sl : Slice) (line : Nat) : Option CLine := sl.lines.find? fun c => c.line == line
def findSpoil (sl : Slice) (line : Nat) : Option Spoil := sl.spoil.find? fun c => c.line == line
def findMiss (sl : Slice) (line : Nat) : Option Miss := sl.miss.find? fun c => c.line == line
def findFilter (sl : Slice) (line : Nat) : Option Filter := sl.filter.find? fun c => c.line == line
def findTxn (sl : Slice) (line : Nat) : Option Txn := sl.txns.find? fun c => c.line == line

/-- The same tag: a line, or a remote copy of the same partition (R251). -/
def sameTag (a b : CLine) : Bool := a.line == b.line && a.remote == b.remote

/-- A line that may not be evicted: pinned, or held for an operation in progress (R230). -/
def isKept (c : CLine) : Bool := c.pins != 0 || c.hold

/-- Sector slots a tag keeps: those of its layout; four while it is pinned (R243), or held, so that no operation in progress runs
short of slots (R294; DESIGN CHOICE, log 91). -/
def lineSlots (c : CLine) : Nat := if isKept c then 4 else cmpSlots c.cmp

/-- The layout that the content asks for; a compressed line is wholly clean or wholly dirty (R225, R227). -/
def layout (c : CLine) : CLine :=
  let cmp := if c.valid = 0xF#4 then cmpOf c.data else 0
  { c with cmp, dirty := if cmp ≠ 0 && c.dirty ≠ 0 then 0xF else c.dirty }

def inSet (variant sid set : Nat) (c : CLine) : Bool := setIn variant sid (128 * c.line) == set

/-- Slots and tags in use in a set. -/
def setUse (variant sid set : Nat) (ls : List CLine) : Nat × Nat :=
  let l := ls.filter (inSet variant sid set)
  ((l.map lineSlots).sum, l.length)

/-- Give a line its slots: those it has, then free ones of the set, the lowest first. -/
def grantSlots (variant sid : Nat) (c : CLine) (ls : List CLine) : CLine :=
  let set := setIn variant sid (128 * c.line)
  let free := (List.range 64).filter fun n => !c.slots.contains n && !ls.any fun x => inSet variant sid set x && x.slots.contains n
  { c with slots := (c.slots ++ free).take (lineSlots c) }

/-- A line is used: it becomes the most recent, and the lines of its set used since its last use grow older by one (R229, R230). -/
def useLine (variant sid : Nat) (c : CLine) (ls : List CLine) : List CLine :=
  let set := setIn variant sid (128 * c.line)
  ((ls.filter fun x => !sameTag c x).map fun x => if inSet variant sid set x && x.age < c.age then { x with age := x.age + 1 } else x)
    ++ [{ c with age := 0 }]

/-- The eviction victim of a set: the least recently used that may be evicted (R230). -/
def victim (variant sid set : Nat) (ls : List CLine) : Option CLine :=
  ls.find? fun c => inSet variant sid set c && !isKept c

def isForeignIn (s : State) (sid line : Nat) : Bool :=
  sid < 128 && foreign s.variant (sid / 16) (128 * line)

/-- Drop a tag (evict): a dirty line enters the spoil buffer, a clean foreign line sends DROP (R238, R295). -/
def evictLine (s : State) (sid : Nat) (c : CLine) : State :=
  let s := modSlice s sid fun sl => { sl with lines := dropWhere (sameTag c) sl.lines }
  if c.remote.isSome then s
  else if c.dirty ≠ 0 then
    modSlice s sid fun sl => { sl with spoil := sl.spoil ++ [{ line := c.line, data := c.data, valid := c.valid, dirty := c.dirty, poison := c.poison }] }
  else if isForeignIn s sid c.line && c.valid ≠ 0 then emit s (.coh "DROP" (sid / 16) c.line)
  else s

/-- Make room in a set for `slots` slots and one tag; `none` when the spoil buffer is full or nothing more can be evicted
(R230, R241). -/
def makeRoom (sid set slots : Nat) : Nat → State → Option State
  | 0, _ => none
  | k + 1, s =>
    let sl := sliceOf s sid
    let (u, t) := setUse s.variant sid set sl.lines
    if u + slots ≤ 64 && t + 1 ≤ 32 then some s
    else
      match victim s.variant sid set sl.lines with
      | none => none
      | some c => if c.dirty ≠ 0 && 64 ≤ sl.spoil.length then none else makeRoom sid set slots k (evictLine s sid c)

/-- Place a line in a slice in the layout its content asks for, in place of its older tag, whose pins, hold and slots it keeps
(R227, R237, R247); `none` when the slice is disabled and holds no tag of the line (R250), or room cannot be made yet (R241). -/
def placeLine (s : State) (sid : Nat) (c : CLine) : Option State :=
  let sl := sliceOf s sid
  let c := match sl.lines.find? (sameTag c) with
    | some o => layout { c with pins := o.pins, hold := o.hold || c.hold, slots := o.slots, age := o.age }
    | none => layout c
  let s0 := modSlice s sid fun sl => { sl with lines := dropWhere (sameTag c) sl.lines }
  if !sl.enabled && !sl.lines.any (sameTag c) then none
  else
    match makeRoom sid (setIn s.variant sid (128 * c.line)) (lineSlots c) 33 s0 with
    | none => none
    | some s1 => some (modSlice s1 sid fun sl =>
        { sl with lines := useLine s.variant sid (grantSlots s.variant sid c sl.lines) sl.lines })

/-- Mark a line as just used. -/
def touchLine (s : State) (sid line : Nat) : State :=
  modSlice s sid fun sl =>
    match findLine sl line with
    | some c => { sl with lines := useLine s.variant sid c sl.lines }
    | none => sl

/-- Change fields of a line other than its content. -/
def setLine (s : State) (sid : Nat) (c : CLine) : State :=
  modSlice s sid fun sl => { sl with lines := modWhere (fun x => x.line == c.line) (fun _ => c) sl.lines }

/-- Remove a copy's data; a tag that is pinned or held stays with its slots (R247, R230). -/
def loseLine (s : State) (sid line : Nat) : State :=
  modSlice s sid fun sl =>
    { sl with lines := (sl.lines.filter fun c => c.line != line || isKept c).map fun c =>
        if c.line == line then { c with valid := 0, dirty := 0, poison := 0, cmp := 0, st := .s } else c }

/-! ### Holding a line (R230, R294) -/

/-- Lines of a set that cannot be evicted. -/
def keptIn (variant sid set : Nat) (ls : List CLine) : Nat := (ls.filter fun c => inSet variant sid set c && isKept c).length

/-- Hold a line's tag and its slots, allocating the tag where it is absent; `none` where twelve lines of the set, 48 slots, are
kept already, or room cannot be made: the request waits (R230, R243). -/
def holdLine (s : State) (sid line : Nat) : Option State :=
  let sl := sliceOf s sid
  let full := decide (12 ≤ keptIn s.variant sid (setIn s.variant sid (128 * line)) sl.lines)
  match findLine sl line with
  | some c => if full && !isKept c then none else placeLine s sid { c with hold := true }
  | none => if full then none else placeLine s sid { line, st := .s, valid := 0, dirty := 0, data := 0, hold := true }

/-- The operation is over: a tag without data goes unless it is pinned, and a line keeps the slots of its layout. -/
def releaseLine (s : State) (sid line : Nat) : State :=
  let free := fun (c : CLine) => { c with hold := false, slots := c.slots.take (lineSlots { c with hold := false }) }
  modSlice s sid fun sl =>
    { sl with lines := (modWhere (fun c => c.line == line) free sl.lines).filter fun c => !(c.line == line && c.valid == 0 && c.pins == 0) }

/-! ### Write-outs of the spoil buffer (R239) -/

/-- Write out the oldest entry that has not left: to memory from a home slice, which frees it, to the home from a proxy. -/
def writeSpoilOut (s : State) (i : Nat) : State :=
  match (sliceOf s i).spoil.find? fun e => !e.departing with
  | none => s
  | some e =>
    if isForeignIn s i e.line then
      let s := modSlice s i fun sl => { sl with spoil := modWhere (fun x => x == e) (fun x => { x with departing := true }) sl.spoil }
      sendData s "WB" (i / 16) e.line e.data e.dirty e.poison
    else
      let s := memStoreLine s e.line e.dirty e.data e.poison
      emit (modSlice s i fun sl => { sl with spoil := sl.spoil.erase e }) (.memWrite i e.line)

/-- Write out until an entry is free; at most `k` write-outs. -/
def drainSpoil (i : Nat) : Nat → State → State
  | 0, s => s
  | k + 1, s => if (sliceOf s i).spoil.length < 64 then s else drainSpoil i k (writeSpoilOut s i)

/-! ### The coherent view of a line -/

/-- Overlay sectors of `mask`. -/
def overlay (base : Line × W32) (mask : BitVec 4) (d : Line) (p : W32) : Line × W32 :=
  (mergeLine (sectorBe mask) d base.1, mergePoison mask p base.2)

def overlaySlice (sl : Slice) (line : Nat) (base : Line × W32) : Line × W32 :=
  let b := match findSpoil sl line with
    | some e => overlay base e.dirty e.data e.poison
    | none => base
  match findLine sl line with
  | some c => overlay b c.valid c.data c.poison
  | none => b

/-- Proxy slices of a line: the slice of the home's index on every compute die but the home's (R223). -/
def proxies (variant line : Nat) : List Nat :=
  match homeSlice variant (128 * line) with
  | some h => ((List.range (dieCount variant)).filter fun d => d != h / 16).map fun d => 16 * d + h % 16
  | none => []

/-- What an answer to a snoop carries that has arrived, or that is under way (R299). -/
def txnData (t : Txn) : Option (Line × BitVec 4 × W32) :=
  match t.data with
  | some x => some x
  | none => if t.settled then none else t.sent

def overlayTxn (sl : Slice) (line : Nat) (base : Line × W32) : Line × W32 :=
  match (findTxn sl line).bind txnData with
  | some (d, m, p) => overlay base m d p
  | none => base

/-- The value every observer agrees on (R339): memory, overlaid by the home's spoil buffer and copy, by what a snoop of the line
has brought, then by the copies of the proxies (only an owner's differs). -/
def viewLine (s : State) (line : Nat) : Line × W32 :=
  let base := (memLine s.mem line, memPoison s line)
  match homeSlice s.variant (128 * line) with
  | none => base
  | some h =>
    let b := overlayTxn (sliceOf s h) line (overlaySlice (sliceOf s h) line base)
    (proxies s.variant line).foldl (fun b p => overlaySlice (sliceOf s p) line b) b

/-- Is any copy dirty relative to memory? -/
def viewDirty (s : State) (line : Nat) : BitVec 4 :=
  let of := fun (i : Nat) =>
    let sl := sliceOf s i
    ((findLine sl line).map (·.dirty)).getD 0 ||| ((findSpoil sl line).map (·.dirty)).getD 0
  match homeSlice s.variant (128 * line) with
  | none => 0
  | some h =>
    let held := (((findTxn (sliceOf s h) line).bind txnData).map fun (_, m, _) => m).getD 0
    (proxies s.variant line).foldl (fun m p => m ||| of p) (of h ||| held)

end Sys2Proof.Machine
end

