-- ==== Sys2Proof/Machine/Access.lean ====
section
/-! DEFINITION. The checks of a physical access at its target: R25, R26, R32, R34, R36, R212, R491, R495, R496. -/

namespace Sys2Proof.Machine

/-- A register page (R34). -/
inductive Page where
  | partition (p : Nat)
  | device | power | link | config | security | crusher | mesh
  deriving DecidableEq, Repr

/-- The page at an offset of the register region, and the offset within it (R34). -/
def pageAt (off : Nat) : Option (Page × Nat) :=
  let n := off / 0x10000
  let o := off % 0x10000
  if n < 16 then some (.partition n, o)
  else
    match n with
    | 0x10 => some (.device, o)
    | 0x11 => some (.power, o)
    | 0x12 => some (.link, o)
    | 0x13 => some (.config, o)
    | 0x14 => some (.security, o)
    | 0x15 => some (.crusher, o)
    | 0x16 => some (.mesh, o)
    | _ => none

/-- Local-store size of a cluster, in bytes (R164). -/
def localStore (s : State) (c : Nat) : Nat := (cluster s c).ls * 0x100000

/-- The window of the image that an address lies in (R442). -/
def windowAt (s : State) (pa : Nat) : Option WindowCfg :=
  s.image.windows.find? fun w => decide (w.base ≤ pa) && decide (pa < w.base + w.size)

def windowIndex (s : State) (pa : Nat) : Option Nat :=
  s.image.windows.findIdx? fun w => decide (w.base ≤ pa) && decide (pa < w.base + w.size)

/-- Partition that owns a cluster, if any (R490). -/
def clusterOwner (s : State) (c : Nat) : Option Nat :=
  match (look (0, 0) s.image.clusters c).1 with
  | 0 => none
  | n + 1 => some n

/-- Check 1 of R26. -/
def populated (s : State) (pa : Nat) : Bool :=
  match target s.variant pa with
  | .face _ _ => true
  | .stock _ => true
  | .window c off => decide (off < localStore s c)
  | .register off =>
    match pageAt off with
    | some (.partition p, _) => (partCfg s p).isDefined
    | some _ => true
    | none => false
  | .remote => (windowAt s pa).isSome
  | .hole => false

def regionHas (r : RegionCfg) (pa : Nat) : Bool := decide (r.base ≤ pa) && decide (pa < r.base + r.len)

/-- Check 2 of R26, by the grants of R491 and R34. -/
def granted (s : State) (p pa : Nat) (write : Bool) : Bool :=
  match target s.variant pa with
  | .face _ _ => s.image.regions.any fun r => r.part == p && regionHas r pa
  | .stock _ => s.image.regions.any fun r => r.part == p && regionHas r pa
  | .window c _ => clusterOwner s c == some p
  | .register off =>
    match pageAt off with
    | some (.partition q, _) => p == q || p == 0
    | some (.device, _) => p == 0 || !write
    | some _ => p == 0
    | none => false
  | .remote => ((windowAt s pa).map fun w => w.part == p).getD false
  | .hole => false

/-- Is the thing at the address in the secure world (R495)? -/
def secureAt (s : State) (pa : Nat) : Bool :=
  match target s.variant pa with
  | .face _ _ => s.image.regions.any fun r => r.secure && regionHas r pa
  | .stock _ => s.image.regions.any fun r => r.secure && regionHas r pa
  | .window c _ => ((clusterOwner s c).map fun p => (partCfg s p).secure).getD false
  | .register off =>
    match pageAt off with
    | some (.partition q, _) => (partCfg s q).secure
    | some (.device, _) => false
    | _ => true
  | .remote => ((windowAt s pa).map fun w => (partCfg s w.part).secure).getD false
  | .hole => false

/-- Check 3 of R26 (R496). -/
def worldOk (s : State) (p pa : Nat) : Bool := (partCfg s p).secure || !secureAt s pa

/-- A die whose memory, slices and links serve accesses: in service, or testing its clusters (R529, R536). -/
def dieServes (s : State) (d : Nat) : Bool :=
  (die s d).state == .inService || (die s d).state == .testing

/-- A cluster in service: its die is, and it is neither fenced nor under test (R529). -/
def clusterServes (s : State) (c : Nat) : Bool :=
  let u := die s (c / 16)
  u.state == .inService && !u.clFenced.getLsbD (c % 16) && !u.clTesting.getLsbD (c % 16)

/-- Does an address lie in a range whose retirement is in force (R212)? -/
def rowRetired (s : State) (pa : Nat) : Bool :=
  s.retired.any fun x => x.inForce && x.base == (rowRange s.variant pa).1

/-- Check 4 of R26 (R27, R212, R213). -/
def inService (s : State) (pa : Nat) : Bool :=
  match target s.variant pa with
  | .face d _ => dieServes s d && !rowRetired s pa
  | .stock _ => s.dev.stock && !rowRetired s pa
  | .window c _ => clusterServes s c
  | .register _ => true
  | .remote => true
  | .hole => false

/-- The checks of R26 in order: the first that fails gives the code. `shape` says whether an access to the register
region has the shape of R36. -/
def accessCheck (s : State) (p pa : Nat) (write shape : Bool) : Option Nat :=
  if !populated s pa then some 0x1C
  else if !granted s p pa write then some 0x1D
  else if !worldOk s p pa then some 0x1E
  else if !inService s pa then some 0x1F
  else
    match target s.variant pa with
    | .register _ => if shape then none else some 0x1B
    | _ => none

/-- R36: whole 8-byte registers on an 8-byte boundary. -/
def regShape (pa len : Nat) : Bool := pa % 8 == 0 && len % 8 == 0 && len != 0

/-- Every byte of a range lies in regions of the partition, in one row of R25 (checks of R357, R367 check 8). -/
def inRegions (s : State) (p base len : Nat) : Bool :=
  oneRow s.variant base len &&
  (match target s.variant base with
   | .face _ _ => true
   | .stock _ => true
   | _ => false) &&
  -- regions are multiples of 64 KiB, so one test per 64 KiB page decides (R491)
  ((List.range ((base % 0x10000 + len + 0xFFFF) / 0x10000)).all fun i =>
    s.image.regions.any fun r => r.part == p && regionHas r (base / 0x10000 * 0x10000 + i * 0x10000))

end Sys2Proof.Machine
end

