-- ==== Sys2Proof/Machine/Ledger.lean ====
section
/-! DEFINITION. Ledgers, pairs and accumulator elements: R73 to R84 of 03_number_formats_accuracy, R99 of
04_matrix_vector_engines. -/

namespace Sys2Proof.Machine
open Sys2Proof.Num

/-- Weight of the least significant bit of V (R75). -/
def ledgerExp : Int := -320

/-- `man * 2^exp` in units of 2^-320, as V holds it (R75); places below 2^-320, which no product reaches, are dropped. -/
def toV (neg : Bool) (man : Nat) (exp : Int) : BitVec 640 :=
  if exp < ledgerExp then BitVec.ofInt 640 (scaled neg (man >>> (ledgerExp - exp).toNat) ledgerExp ledgerExp)
  else BitVec.ofInt 640 (scaled neg man exp ledgerExp)

/-- The ledger that an incoming value starts (R75). -/
def ledgerOf : FVal → Ledger
  | .nan => { nan := true }
  | .inf n => { pinf := !n, ninf := n }
  | .num n m e => { v := toV n m e, negz := m == 0 && n }

/-- Add one term, a value that is not a product over the range limit (R75, R77). -/
def ledgerTerm (l : Ledger) : FVal → Ledger
  | .nan => { l with nan := true, negz := false }
  | .inf n => { l with pinf := l.pinf || !n, ninf := l.ninf || n, negz := false }
  | .num n m e => { l with v := l.v + toV n m e, negz := l.negz && m == 0 && n }

/-- Is `man * 2^exp` at least 2^255 (R76)? -/
def overrange (man : Nat) (exp : Int) : Bool := man != 0 && (255 : Int) ≤ (Nat.log2 man : Int) + exp

/-- Add one product (R75 to R77). -/
def ledgerProduct (l : Ledger) (a b : FVal) : Ledger :=
  match mulX a b with
  | .nan => { l with nan := true, negz := false }
  | .inf n => { l with pinf := l.pinf || !n, ninf := l.ninf || n, negz := false }
  | .fin x => if overrange x.man x.exp then ledgerTerm l (.inf x.neg) else ledgerTerm l (.num x.neg x.man x.exp)

/-- Sum of two ledgers, as routers and crushers combine ledger-form contributions (R85, R189). -/
def ledgerMerge (a b : Ledger) : Ledger :=
  { v := a.v + b.v, nan := a.nan || b.nan, pinf := a.pinf || b.pinf, ninf := a.ninf || b.ninf, negz := a.negz && b.negz }

/-- V as an exact value, with the zero sign of R78. -/
def ledgerX (l : Ledger) (rm : Nat) : XVal :=
  let i := l.v.toInt
  if i = 0 then .fin ⟨l.negz || rm == 3, 0, 0, false⟩ else .fin ⟨i < 0, i.natAbs, ledgerExp, false⟩

/-- R77: the special value the flags force, if any. -/
def flagX (l : Ledger) : Option XVal :=
  if l.nan || (l.pinf && l.ninf) then some .nan
  else if l.pinf then some (.inf false)
  else if l.ninf then some (.inf true)
  else none

/-- Code of an exact value in an output format of R107; an infinity saturates under SAT (R77). -/
def outCode (fo : BitVec 4) (r : Rnd) (x : XVal) : Nat :=
  match kindOf fo with
  | .float f =>
    match x with
    | .inf n => if r.sat then signBit f n + maxCode f else roundX f r.rm r.sat r.u x
    | _ => roundX f r.rm r.sat r.u x
  | .int b => unsigned b (roundInt b 0 0 x)
  | .dd => let (h, l) := normDD x; h + 2 ^ 64 * l
  | _ => 0

/-- Round a ledger to an output format (R77 to R79). -/
def roundLedger (fo : BitVec 4) (r : Rnd) (l : Ledger) : Nat :=
  match flagX l with
  | some x => outCode fo r x
  | none => outCode fo r (ledgerX l r.rm)

/-- Round `hi + lo` (R80). -/
def roundPair (fo : BitVec 4) (r : Rnd) (hi lo : Nat) : Nat :=
  match kindOf fo with
  | .float f => roundX f r.rm r.sat r.u (pairVal hi lo)
  | _ => outCode fo r (pairVal hi lo)

/-- The value of a REDUCED element: its flags first (R84 keeps R76 and R77), then `hi + lo`; a zero takes the sign of
R78 (DEDUCED, log 16). -/
def reducedX (e : Elem) (rm : Nat) : XVal :=
  match flagX e.led with
  | some x => x
  | none =>
    match pairVal e.hi e.lo with
    | .fin x => if x.man = 0 then .fin ⟨e.led.negz || rm == 3, 0, 0, false⟩ else .fin x
    | y => y

/-- Element created by INIT or ACC.LOAD (R99, R106). -/
def elemOf (form : AccForm) (v : FVal) (dd : Option (Nat × Nat)) : Elem :=
  match form with
  | .ledger => { led := ledgerOf v }
  | .pair =>
    match dd with
    | some (h, l) => { hi := h, lo := l }
    | none => { hi := rn64 v.toX, lo := 0 }
  | .reduced =>
    let flags := { ledgerOf v with v := 0 }
    match v with
    | .num .. => { led := flags, hi := rn64 v.toX, lo := 0 }
    | _ => { led := flags }
  | .empty => {}

/-- Accumulate one product in the element's form (R73, R80, R84). A LEDGER accumulator that ACC.RESTORE brings in while the
ledger self-test has not passed keeps its form (R99): its ledger takes the product, and no mark is set. (DEDUCED, log 82) -/
def elemProduct (form : AccForm) (e : Elem) (a b : FVal) : Elem :=
  match form with
  | .ledger => { e with led := ledgerProduct e.led a b }
  | .pair =>
    let (ph, pl) := twoProd a b
    let (h, l) := pairStep (e.hi, e.lo) ph pl
    { e with hi := h, lo := l }
  | .reduced =>
    let flags := { ledgerProduct e.led a b with v := 0 }
    match mulX a b with
    | .fin x =>
      if overrange x.man x.exp then { e with led := flags }
      else
        let (ph, pl) := twoProd a b
        let (h, l) := pairStep (e.hi, e.lo) ph pl
        { led := flags, hi := h, lo := l }
    | _ => { e with led := flags }
  | .empty => e

/-- Round one element of an accumulator (R107). -/
def elemRound (form : AccForm) (fo : BitVec 4) (r : Rnd) (e : Elem) : Nat :=
  match form with
  | .ledger => roundLedger fo r e.led
  | .pair => roundPair fo r e.hi e.lo
  | .reduced => outCode fo r (reducedX e r.rm)
  | .empty => 0

/-- Add a pair contribution by the loop body of R80 (R264). -/
def elemPair (e : Elem) (ch cl : Nat) : Elem :=
  let (h, l) := pairStep (e.hi, e.lo) ch cl
  { e with hi := h, lo := l }

/-- Add a ledger-form contribution to a ledger or reduced element (R264, R84). -/
def elemLedger (form : AccForm) (e : Elem) (c : Ledger) : Elem :=
  match form with
  | .reduced =>
    let flags := { ledgerMerge e.led c with v := 0 }
    let x := ledgerX c 0
    let ph := rn64 x
    let (h, l) := pairStep (e.hi, e.lo) ph (errorTerm x.toF ph)
    { led := flags, hi := h, lo := l }
  | _ => { e with led := ledgerMerge e.led c }

/-- Smallest limb range that holds V: first limb and limbs (R269). -/
def limbAt (v : BitVec 640) (i : Nat) : W64 := v.extractLsb' (64 * i) 64

def lowLimb (v : BitVec 640) : Nat → Nat → Nat
  | 0, i => i
  | n + 1, i => if limbAt v i = 0 then lowLimb v n (i + 1) else i

/-- Value of `n` limbs from limb `l`, sign-extended (R269). -/
def limbsValue (limbs : List W64) (l : Nat) : BitVec 640 :=
  let n := limbs.length
  let raw := (limbs.zipIdx.map fun (w, i) => w.toNat * 2 ^ (64 * i)).sum
  if n = 0 then 0 else BitVec.ofInt 640 (signed (64 * n) raw * (2 ^ (64 * l) : Nat))

/-- Fewest limbs from `l` whose sign-extended value is `v` (R269: the smallest N). -/
def limbCount (v : BitVec 640) (l : Nat) : Nat → Nat → Nat
  | 0, n => n
  | k + 1, n =>
    if limbsValue ((List.range n).map fun i => limbAt v (l + i)) l = v then n else limbCount v l k (n + 1)

/-- The ledger record of an element (R269). -/
def ledgerRecord (idx : Nat) (l : Ledger) (intOnly : Bool) : CruRecord :=
  if l.v = 0 then .ledger idx 0 [] l.nan l.pinf l.ninf l.negz intOnly
  else
    let lo := lowLimb l.v 9 0
    let n := limbCount l.v lo 10 1
    .ledger idx lo ((List.range n).map fun i => limbAt l.v (lo + i)) l.nan l.pinf l.ninf l.negz intOnly

/-- The ledger a record carries (R269). -/
def recordLedger : CruRecord → Ledger
  | .ledger _ l limbs nan pinf ninf negz _ => { v := limbsValue limbs l, nan, pinf, ninf, negz }
  | _ => {}

/-! ### Images of elements (R111) -/

def flagByte (l : Ledger) : Byte :=
  BitVec.ofNat 8 ((if l.nan then 1 else 0) + (if l.pinf then 2 else 0) + (if l.ninf then 4 else 0) + (if l.negz then 8 else 0))

def formCode : AccForm → Nat
  | .empty => 0
  | .ledger => 1
  | .pair => 2
  | .reduced => 3

/-- The image of an element; a ledger's bytes 0 to 80 are also what its cell holds (R262). -/
def elemImage (f : AccForm) (e : Elem) : List Byte :=
  match f with
  | .ledger => leBytes 80 e.led.v.toNat ++ flagByte e.led :: slice [] 0 15
  | .pair => leBytes 8 e.hi ++ leBytes 8 e.lo
  | .reduced => leBytes 8 e.hi ++ leBytes 8 e.lo ++ flagByte e.led :: slice [] 0 15
  | .empty => []

/-- Bytes of an element image by form code. -/
def elemSize (code : Nat) : Nat :=
  match code with
  | 1 => 96
  | 2 => 16
  | 3 => 32
  | _ => 0

def flagsOf (b : Nat) (v : BitVec 640) : Ledger :=
  { v, nan := b % 2 = 1, pinf := b / 2 % 2 = 1, ninf := b / 4 % 2 = 1, negz := b / 8 % 2 = 1 }

/-- Element of an image, `none` where a reserved byte is not zero. -/
def imageElem (code : Nat) (b : List Byte) : Option Elem :=
  match code with
  | 1 => if 16 ≤ byteAt b 80 || fieldAt b 81 15 ≠ 0 then none
         else some { led := flagsOf (byteAt b 80) (BitVec.ofNat 640 (fieldAt b 0 80)) }
  | 2 => some { hi := fieldAt b 0 8, lo := fieldAt b 8 8 }
  | _ => if 16 ≤ byteAt b 16 || fieldAt b 17 15 ≠ 0 then none
         else some { led := flagsOf (byteAt b 16) 0, hi := fieldAt b 0 8, lo := fieldAt b 8 8 }

end Sys2Proof.Machine
end

