-- ==== Sys2Proof/Machine/Convert.lean ====
section
/-! DEFINITION. Element codes, conversions and block quantisation: R64 to R69, R89 to R91. -/

namespace Sys2Proof.Machine
open Sys2Proof.Num

/-- Value of a scale code of E8M0 applied to a value (R65): NaN for 0xFF. -/
def scaleVal (scale : Nat) : FVal → FVal
  | .num n m e => if scale = 255 then .nan else .num n m (e + scale - 127)
  | v => if scale = 255 then .nan else v

/-- Value of an element code; MX elements take the block's scale (R61, R64 to R66, R69). -/
def elemVal (fmt : BitVec 4) (code scale : Nat) : FVal :=
  match kindOf fmt with
  | .float f => decodeFloat f code
  | .mxFloat f _ => scaleVal scale (decodeFloat f code)
  | .mxInt =>
    let k := signed 8 code
    scaleVal scale (.num (k < 0) k.natAbs (-6))
  | .int b => ofInt (signed b code)
  | .dd => (pairVal (code % 2 ^ 64) (code >>> 64)).toF
  | .reserved => .nan

/-- Round an exact value to a non-MX format (rules E, R and S of R89, with R90). -/
def toFormat (fmt : BitVec 4) (r : Rnd) (x : XVal) : Nat :=
  match kindOf fmt with
  | .float f => roundX f r.rm r.sat r.u x
  | .int b => unsigned b (roundInt b r.rm r.u x)
  | .dd => let (h, l) := normDD x; h + 2 ^ 64 * l
  | _ => 0

/-- Floor of the base-2 logarithm of the largest magnitude of a block, `none` when all are zero (R91). -/
def amaxLog : List FVal → Option Int
  | [] => none
  | .num _ m e :: vs =>
    let rest := amaxLog vs
    if m = 0 then rest
    else
      let l : Int := (Nat.log2 m : Int) + e
      some (match rest with | none => l | some r => if r < l then l else r)
  | _ :: vs => amaxLog vs

def isNanV : FVal → Bool
  | .nan => true
  | _ => false
def isInfV : FVal → Bool
  | .inf _ => true
  | _ => false

/-- Scale code of a block (R91). -/
def blockScale (emax : Int) (sat : Bool) (vs : List FVal) : Nat :=
  if vs.any isNanV then 255
  else if vs.any isInfV then (if sat then 254 else 255)
  else
    match amaxLog vs with
    | none => 0
    | some l =>
      let c := l - emax + 127
      if c < 0 then 0 else if 254 < c then 254 else c.toNat

/-- One element of a quantised block (R91): `v / scale`, rounded, always saturating; MXINT8 writes -127 to 127 (R66). -/
def blockElem (fmt : BitVec 4) (r : Rnd) (scale : Nat) (v : FVal) : Nat :=
  if scale = 255 then 0
  else
    match kindOf fmt with
    | .mxFloat f _ =>
      match v with
      | .nan => 0
      | .inf n => signBit f n + maxCode f
      | .num n m e => roundFin f r.rm true r.u ⟨n, m, e - scale + 127, false⟩
    | .mxInt =>
      match v with
      | .nan => 0
      | .inf n => unsigned 8 (if n then -127 else 127)
      | .num n m e =>
        let i := roundInt 8 r.rm r.u (.fin ⟨n, m, e - scale + 127 + 6, false⟩)
        unsigned 8 (if i < -127 then -127 else i)
    | _ => 0

/-- Quantise a block of 32 values: scale code and element codes, with each element's draw (R91). -/
def quantise (fmt : BitVec 4) (rm : Nat) (sat : Bool) (draw : Nat → Nat) (vs : List FVal) : Nat × List Nat :=
  let emax : Int := match kindOf fmt with
    | .mxFloat _ e => e
    | _ => 0
  let sc := blockScale emax sat vs
  (sc, vs.zipIdx.map fun (v, i) => blockElem fmt ⟨rm, sat, draw i⟩ sc v)

/-- R89 as one function over scalars: value of a source code carried to a destination format other than MX. A NaN comes
out canonical (R63) and a DD128 normalised (R69), also where source and destination agree. -/
def convert (src dst : BitVec 4) (r : Rnd) (code scale : Nat) : Nat :=
  match kindOf src with
  | .dd => toFormat dst r (pairVal (code % 2 ^ 64) (code >>> 64))
  | _ => toFormat dst r (elemVal src code scale).toX

/-- MXFP6 packing of R67: element `k` of a row of bytes read as one number. -/
def rowElem (w row k : Nat) : Nat := (row >>> (w * k)) % 2 ^ w

end Sys2Proof.Machine
end

