-- ==== Sys2Proof/Machine/Crusher.lean ====
section
/-! DEFINITION. The crusher of a slice: opening, contributing to, closing, spilling and discarding lines, and the integer and
rounded operations: R257 to R282 of 09_crusher_updates_reductions, R171 of 06. -/

namespace Sys2Proof.Machine
open Sys2Proof.Num

/-! ### Stores at the home -/

/-- Place a home copy at once. A full spoil buffer is written out first; where no tag or slots can be had even so, or in a
disabled slice, the dirty sectors go to memory (R230, R250; DESIGN CHOICE, log 20). -/
def putHome (s : State) (h : Nat) (c : CLine) : State :=
  let room := if (sliceOf s h).enabled then drainSpoil h 64 s else s
  match (placeLine s h c).orElse fun _ => placeLine room h c with
  | some s' => s'
  | none =>
    memStoreLine (modSlice room h fun sl => { sl with lines := dropWhere (fun x => x.line == c.line && !isKept x) sl.lines })
      c.line c.dirty c.data c.poison

/-- The sectors of `mask` from memory, under what a copy holds. -/
def withMemory (s : State) (line : Nat) (valid : BitVec 4) (d : Line) (p : W32) : Line × W32 :=
  overlay (memLine s.mem line, memPoison s line) valid d p

/-- A write performed at the home slice when no proxy holds the line: R231, R232, R240. `attr` is the region attribute. -/
def homeStore (s : State) (h line : Nat) (be : BitVec 128) (d : Line) (p : W32) (attr : Nat) : State :=
  let touched := sectorsTouched be
  let merge := fun (b : Line × W32) => (mergeLine be d b.1, mergePoison (sectorsWhole be) p b.2)
  let toMem := fun (s : State) => memStoreBytes s line be d p
  match findSpoil (sliceOf s h) line with
  | some e =>
    let (v, q) := merge (withMemory s line e.valid e.data e.poison)
    let upd := fun (x : Spoil) => { x with data := v, valid := x.valid ||| touched, dirty := x.dirty ||| touched, poison := q }
    modSlice s h fun sl => { sl with spoil := modWhere (fun x => x.line == line) upd sl.spoil }
  | none =>
    match (findLine (sliceOf s h) line).filter fun c => c.valid ≠ 0 with
    | some c =>
      let (v, q) := merge (withMemory s line c.valid c.data c.poison)
      let through := attr == 1 || (attr == 3 && c.pins ≠ 0)
      let c' := { c with data := v, poison := q, valid := c.valid ||| touched,
                         dirty := if through then c.dirty else c.dirty ||| touched }
      let s := if through then toMem s else s
      putHome s h c'
    | none =>
      if attr = 0 && (sliceOf s h).enabled then
        let (v, q) := merge (memLine s.mem line, memPoison s line)
        putHome s h { line, st := .home, valid := touched, dirty := touched, data := v, poison := q }
      else toMem s

/-! ### Lines -/

def elemsPerLine (fl : BitVec 4) : Nat := 1024 / elemBits fl

/-- Cells a line takes (R262). -/
def cellsOf (form : AccForm) (fl : BitVec 4) : Nat :=
  match form with
  | .pair => elemsPerLine fl / 8
  | _ => elemsPerLine fl

/-- A line format of R262. -/
def isLineFormat (fl : BitVec 4) : Bool := [0, 1, 2, 3, 0xA, 0xE].contains fl.toNat

/-- Cells of a spill block: those of the form that takes the most (R262, R272). -/
def mostCells (fl : BitVec 4) : Nat :=
  match fl.toNat with
  | 0 | 0xE => cellsOf .pair fl
  | _ => elemsPerLine fl

def cellsUsed (c : Crusher) : Nat :=
  ((c.lines.filter fun l => !l.spilled).map fun l => cellsOf l.form l.fl).sum

def openAt (c : Crusher) (line : Nat) : Option OpenLine := c.lines.find? fun l => l.line == line

/-- The declared range of a task that a line lies in, with the same FL (R271). -/
def rangeOf (c : Crusher) (task line : Nat) (fl : BitVec 4) : Option CruRange :=
  c.ranges.find? fun r => r.task == task && decide (r.first ≤ line) && decide (line < r.first + r.lines) && r.fl == fl

def declared (c : Crusher) (task line : Nat) (fl : BitVec 4) : Bool := (rangeOf c task line fl).isSome

/-- Address of the spill block of a line: the area base of the task and the line's place in its ranges (R272). -/
def blockOf (c : Crusher) (task line : Nat) (fl : BitVec 4) : Nat :=
  match rangeOf c task line fl with
  | some r => r.spill + (line - r.first) * (128 * mostCells fl)
  | none => 0

/-- The resident line that was least recently updated and is not closing (R273). -/
def spillVictim (c : Crusher) : Option OpenLine :=
  (c.lines.filter fun l => !l.spilled && !l.closing).foldl
    (fun best l => match best with
      | none => some l
      | some b => if l.used < b.used then some l else some b) none

/-- Bytes of the cells of a line: a cell for each ledger element, eight pairs in a cell (R262). -/
def cellBytes (form : AccForm) (fl : BitVec 4) (m : SMap Elem) : List Byte :=
  (List.range (elemsPerLine fl)).flatMap fun i =>
    let b := elemImage form (look {} m i)
    if form = .pair then b else slice b 0 128

/-- Bytes of a cell store that hold one element. -/
def cellStep (form : AccForm) : Nat := if form = .pair then 16 else 128

/-- The elements that the bytes of cells hold. -/
def cellElems (form : AccForm) (fl : BitVec 4) (b : List Byte) : SMap Elem :=
  (List.range (elemsPerLine fl)).foldl (fun m i =>
    put {} m i ((imageElem (formCode form) (slice b (cellStep form * i) (elemSize (formCode form)))).getD {})) []

/-- Sector of a line that holds an element. -/
def elemSector (fl : BitVec 4) (e : Nat) : Nat := e * elemBits fl / 256

/-- Write the cells of a resident line to its spill block in face memory, and free them (R273). -/
def spillLine (s : State) (h : Nat) (v : OpenLine) : State :=
  let b := cellBytes v.form v.fl v.elems
  let s := { s with mem := writeBytes s.mem v.block b,
                    poison := (List.range (b.length / 32)).foldl (fun m j => put 0 m (v.block / 32 + j) 0) s.poison }
  let s := modCrusher s h fun c =>
    { c with lines := modWhere (fun l => l.line == v.line) (fun l => { l with spilled := true, elems := [] }) c.lines }
  { s with dev := { s.dev with cruSpills := put 0 s.dev.cruSpills (h / 16) (bump 0xFFFFFFFF (look 0 s.dev.cruSpills (h / 16))) } }

/-- Spill until `need` cells are free (R273). (DESIGN CHOICE, log 38) -/
def spillFor (h need : Nat) : Nat → State → State
  | 0, s => s
  | k + 1, s =>
    let c := crusher s h
    if cellsUsed c + need ≤ 4096 then s
    else
      match spillVictim c with
      | none => s
      | some v => spillFor h need k (spillLine s h v)

/-- Poison of a line whose cells come back: an element whose cell lies in a poisoned sector of memory poisons its own sector
(R281, R203, R254). -/
def cellPoison (s : State) (l : OpenLine) : W32 :=
  (List.range (elemsPerLine l.fl)).foldl (fun q i =>
    let o := look 0 s.poison ((l.block + cellStep l.form * i) / 32)
    let n := elemSize (formCode l.form)
    let o := (List.range ((n + 31) / 32)).foldl (fun o j => if o = 0 then look 0 s.poison ((l.block + cellStep l.form * i) / 32 + j) else o) o
    if o = 0 then q else setPoison q (elemSector l.fl i) o) l.poison

/-- Bring a spilled line back, bit-identical, another line spilling if it must; what waited for it takes its turn before later
requests of the line (R273, R277). -/
def backLine (s : State) (h line : Nat) : State :=
  match openAt (crusher s h) line with
  | none => s
  | some l =>
    if !l.spilled then s
    else
      let s := spillFor h (cellsOf l.form l.fl) 4096 s
      let elems := cellElems l.form l.fl (readBytes s.mem l.block (cellStep l.form * elemsPerLine l.fl))
      let back := { l with spilled := false, elems, poison := cellPoison s l, waiting := [], used := (crusher s h).useCtr }
      let s := modCrusher s h fun c =>
        { c with useCtr := c.useCtr + 1, lines := modWhere (fun x => x.line == line) (fun _ => back) c.lines }
      modSlice s h fun sl => { sl with waiting := (l.waiting.map fun k => (line, HomeReq.update k)) ++ sl.waiting }

/-- Code of element `i` of a line. -/
def lineElem (d : Line) (fl : BitVec 4) (i : Nat) : Nat := (d.toNat >>> (elemBits fl * i)) % 2 ^ elemBits fl

/-- Ledgers or pairs set exactly to the present values (R263). -/
def openElems (form : AccForm) (fl : BitVec 4) (d : Line) : SMap Elem :=
  (List.range (elemsPerLine fl)).foldl (fun m i =>
    let code := lineElem d fl i
    let dd := if elemBits fl = 128 then some (code % 2 ^ 64, code >>> 64) else none
    put {} m i (elemOf form (elemVal fl code 0) dd)) []

/-- The line form a ledger packet opens: a reduced line while R84 is in force. -/
def ledgerForm (s : State) : AccForm := if s.dev.ledger then .ledger else .reduced

/-- Present value of a line that no proxy holds: spoil buffer, data store, memory, in that order (R263). -/
def homeValue (s : State) (h line : Nat) : Line × W32 × BitVec 4 :=
  match findSpoil (sliceOf s h) line with
  | some e => let (v, q) := withMemory s line e.valid e.data e.poison; (v, q, e.dirty)
  | none =>
    match findLine (sliceOf s h) line with
    | some c => let (v, q) := withMemory s line c.valid c.data c.poison; (v, q, c.dirty)
    | none => (memLine s.mem line, memPoison s line, 0)

/-- The controller opens the row of a line that the home must read from memory. -/
def touchMemory (s : State) (h line : Nat) : State :=
  let whole := ((findLine (sliceOf s h) line).map fun c => c.valid == 0xF#4).getD false
  if whole then s else activate s (128 * line)

/-- Free the home's tag and slots, and a spoil entry; a pinned tag stays without data (R247, R263). -/
def freeHome (s : State) (h line : Nat) : State :=
  modSlice (loseLine s h line) h fun sl => { sl with spoil := dropWhere (fun e => e.line == line) sl.spoil }

/-- Open a line for a contribution, with exclusive ownership already obtained (R263). -/
def openLine (s : State) (h : Nat) (k : CruPacket) (form : AccForm) : State :=
  let (v, q, dirty) := homeValue s h k.line
  let s := spillFor h (cellsOf form k.fl) 4096 (freeHome (touchMemory s h k.line) h k.line)
  let new : OpenLine :=
    { line := k.line, task := k.task, part := k.part, form, fl := k.fl, rm := k.rm, sat := k.sat, rsr := k.rsr, ho := k.ho,
      attr := k.attr, intOnly := k.fl == 0xA#4, elems := openElems form k.fl v, poison := q, dirtyBefore := dirty,
      before := v, poisonBefore := q, block := blockOf (crusher s h) k.task k.line k.fl }
  modCrusher s h fun c => { c with useCtr := c.useCtr + 1, lines := c.lines ++ [{ new with used := c.useCtr }] }

/-- Rounding draw of element `e` of a line: the packet's index base is that of the line's first element (R266, R269). -/
def lineDraw (l : OpenLine) (e : Nat) : Nat :=
  match l.rsr with
  | some (seed, base, stream) => if l.rm = 4 then rsrBits seed (base + BitVec.ofNat 64 e) stream else 0
  | none => 0

/-- The rounded line (R77 to R80, R267). -/
def closedValue (l : OpenLine) : Line :=
  BitVec.ofNat 1024 (((List.range (elemsPerLine l.fl)).map fun i =>
    elemRound l.form l.fl ⟨l.rm.toNat, l.sat, lineDraw l i⟩ (look {} l.elems i) <<< (elemBits l.fl * i)).sum)

/-- Close an open line: write it to the slice and free its cells; a spilled line is brought back first (R267, R274). -/
def closeOpen (s : State) (h line : Nat) : State :=
  let s := backLine s h line
  match openAt (crusher s h) line with
  | none => s
  | some l =>
    let s := modCrusher s h fun c => { c with lines := dropWhere (fun x => x.line == line) c.lines }
    let s := if l.dirtyBefore ≠ 0 && l.attr ≠ 0 then
        memStoreLine s line l.dirtyBefore l.before l.poisonBefore else s
    homeStore s h line (BitVec.allOnes 128) (closedValue l) l.poison l.attr

/-- Discard a line without closing it: it keeps the value it held (R280, R282). -/
def discardOpen (s : State) (h line : Nat) : State :=
  match openAt (crusher s h) line with
  | none => s
  | some l =>
    let s := modCrusher s h fun c => { c with lines := dropWhere (fun x => x.line == line) c.lines }
    if l.dirtyBefore ≠ 0 then
      putHome s h { line, st := .home, valid := l.dirtyBefore, dirty := l.dirtyBefore, data := l.before, poison := l.poisonBefore }
    else s

/-- Apply the records of a packet to an open line's elements (R264). -/
def applyRecord (l : OpenLine) (r : CruRecord) : OpenLine :=
  match r with
  | .ledger e _ _ _ _ _ _ intOnly =>
    { l with elems := put {} l.elems e (elemLedger l.form (look {} l.elems e) (recordLedger r)), intOnly := l.intOnly && intOnly }
  | .pair e hi lo => { l with elems := put {} l.elems e (elemPair (look {} l.elems e) hi.toNat lo.toNat) }
  | .rounded .. => l

/-- Contribute a packet to the line it has open (R264). -/
def contribute (s : State) (h : Nat) (k : CruPacket) : State :=
  modCrusher s h fun c =>
    { c with useCtr := c.useCtr + 1,
             lines := modWhere (fun l => l.line == k.line)
               (fun l => { k.recs.foldl applyRecord l with used := c.useCtr }) c.lines }

/-! ### Integer and rounded operations (R171, R259, R260) -/

/-- Old and new value of an integer operation on `n` bytes (R259). -/
def intOp (n op old operand comparand : Nat) : Nat :=
  let m := 2 ^ (8 * n)
  let a := old % m
  let b := operand % m
  match op with
  | 0 => (a + b) % m
  | 1 => if signed (8 * n) b < signed (8 * n) a then b else a
  | 2 => if signed (8 * n) a < signed (8 * n) b then b else a
  | 3 => a &&& b
  | 4 => a ||| b
  | 5 => a ^^^ b
  | 6 => b
  | 7 => if a = comparand % m then b else a
  | 8 => if b < a then b else a
  | 9 => if a < b then b else a
  | _ => a

/-- Floating MIN and MAX of R260: -0 below +0, NaN gives the canonical NaN. -/
def floatMinMax (f : FloatSpec) (wantMax : Bool) (a b : Nat) : Nat :=
  let va := decodeFloat f a
  let vb := decodeFloat f b
  match cmp va vb with
  | none => f.canonicalNan
  | some .eq =>
    -- equal values differ at most in the sign of zero
    let nega := decide (2 ^ (f.ebits + f.mbits) ≤ a)
    if nega == wantMax then b else a
  | some .lt => if wantMax then b else a
  | some .gt => if wantMax then a else b

/-- One rounded record on the bytes of a line: the new line and the old value. FORMAT decides between integer and
floating MIN and MAX (R260, R268). -/
def roundedRecord (op : Nat) (fl : BitVec 4) (d : Line) (off size operand comparand : Nat) : Line × Nat :=
  let old := (d.toNat >>> (8 * off)) % 2 ^ (8 * size)
  let new :=
    match kindOf fl with
    | .float f => if op = 1 || op = 2 then floatMinMax f (op == 2) old (operand % 2 ^ (8 * size)) else intOp size op old operand comparand
    | _ => intOp size op old operand comparand
  let be : BitVec 128 := BitVec.ofNat 128 ((2 ^ size - 1) * 2 ^ off)
  (mergeLine be (BitVec.ofNat 1024 (new * 2 ^ (8 * off))) d, old)

def recBe : CruRecord → BitVec 128
  | .rounded off size _ _ => BitVec.ofNat 128 ((2 ^ size - 1) * 2 ^ off)
  | _ => 0

/-- All records of a rounded packet, in order: the new line and the old values (R334). -/
def roundedRecords (op : Nat) (fl : BitVec 4) : List CruRecord → Line → Line × List Nat
  | [], d => (d, [])
  | .rounded off size a b :: rs, d =>
    let (d', old) := roundedRecord op fl d off size a.toNat b.toNat
    let (d'', olds) := roundedRecords op fl rs d'
    (d'', old :: olds)
  | _ :: rs, d => roundedRecords op fl rs d

/-! ### Forms of a reduction (R260) -/

/-- How a RED updates its line (R260). -/
inductive RedForm where
  | ledger | pair | rounded | illegal
  deriving DecidableEq, Repr

/-- The table of R260. -/
def redForm (op : Nat) (fs fl : BitVec 4) : RedForm :=
  let s := fs.toNat
  let l := fl.toNat
  match op with
  | 0 =>
    if [2, 3, 4, 5].contains s && [1, 2, 3].contains l then .ledger
    else if [0xB, 0xC, 0xD].contains s && [0xA, 1, 2, 3].contains l then .ledger
    else if [0, 1, 0xE].contains s && [0, 1, 0xE].contains l then .pair
    else if s = 0xA && l = 0xA then .rounded
    else .illegal
  | 1 | 2 => if s = l && [0, 1, 2, 3, 0xA].contains l then .rounded else .illegal
  | 3 | 4 | 5 => if s = 0xA && l = 0xA then .rounded else .illegal
  | _ => .illegal

/-- The record of one thread's contribution (R260, R269). -/
def redRecord (form : RedForm) (fs fl : BitVec 4) (off code : Nat) : CruRecord :=
  let idx := off / (elemBits fl / 8)
  match form with
  | .ledger => ledgerRecord idx (ledgerOf (elemVal fs code 0)) (isIntInput fs)
  | .pair =>
    if fs = 0xE then .pair idx (BitVec.ofNat 64 code) (BitVec.ofNat 64 (code >>> 64))
    else .pair idx (BitVec.ofNat 64 (rn64 (elemVal fs code 0).toX)) 0
  | _ => .rounded off (elemBits fl / 8) (BitVec.ofNat 64 code) 0

/-- Bytes of a record (R269). -/
def recBytes : CruRecord → Nat
  | .ledger _ _ limbs _ _ _ _ _ => 8 + 8 * limbs.length
  | _ => 24

/-- Bytes of a packet's payload: prefix, rounding block and records (R269). -/
def payloadBytes (k : CruPacket) : Nat := 8 + (if k.rsr.isSome then 24 else 0) + (k.recs.map recBytes).sum

/-! ### Combining of packets on their way (R188 to R190, R270) -/

def isLedgerRec : CruRecord → Bool
  | .ledger .. => true
  | _ => false
def isRoundedRec : CruRecord → Bool
  | .rounded .. => true
  | _ => false

/-- Operations whose packets combine, with the same prefix where they are ledger ADDs (R270). -/
def mayCombine (a b : CruPacket) : Bool :=
  a.line == b.line && a.op == b.op && a.fl == b.fl && !a.ret && !b.ret && !a.recs.isEmpty && !b.recs.isEmpty &&
    if a.recs.all isLedgerRec && b.recs.all isLedgerRec then
      a.op == 0 && a.rm == b.rm && a.sat == b.sat && a.ho == b.ho && a.task == b.task && a.rsr == b.rsr
    else a.recs.all isRoundedRec && b.recs.all isRoundedRec && [0, 1, 2, 3, 4, 5, 8, 9].contains a.op && (a.fl == 0xA#4 || a.fl == 0xF#4)

/-- Two records of the same element, or of the same offset and size, as one: ledger contributions are added exactly, operands are merged
by the operation (R189, R270). -/
def mergeRecord (op : Nat) : CruRecord → CruRecord → Option CruRecord
  | .ledger e l x n p m z i, .ledger e' l' x' n' p' m' z' i' =>
    if e = e' then
      some (ledgerRecord e (ledgerMerge (recordLedger (.ledger e l x n p m z i)) (recordLedger (.ledger e' l' x' n' p' m' z' i'))) (i && i'))
    else none
  | .rounded o n a _, .rounded o' n' b _ =>
    if o = o' && n = n' then some (.rounded o n (BitVec.ofNat 64 (intOp n op a.toNat b.toNat 0)) 0) else none
  | _, _ => none

/-- Add a record to those of the leading packet. -/
def addRecord (op : Nat) (r : CruRecord) : List CruRecord → List CruRecord
  | [] => [r]
  | x :: xs =>
    match mergeRecord op x r with
    | some y => y :: xs
    | none => x :: addRecord op r xs

/-- The combined packet: the leading one with the records of the other, if it fits in 4 flits (R188). -/
def combinePackets (lead k : CruPacket) : Option CruPacket :=
  let c := { lead with recs := k.recs.foldl (fun l r => addRecord lead.op r l) lead.recs, absorbed := lead.absorbed ++ k.tag :: k.absorbed }
  if mayCombine lead k && decide (payloadBytes c ≤ 256) then some c else none

end Sys2Proof.Machine
end

