-- ==== Sys2Proof/Machine/Coherent.lean ====
section
/-! DEFINITION. Reads and writes of memory by the IOD agents and by tile transfers, each a whole coherent access in one step
(DESIGN CHOICE, log 20): R224, R231, R274, R295, R333, R339, and the plain accesses of cluster windows (R160, R162). -/

namespace Sys2Proof.Machine

/-- A crusher that holds the line open closes it before the access (R274). -/
def settle (s : State) (line : Nat) : State :=
  match homeSlice s.variant (128 * line) with
  | none => s
  | some h => closeOpen s h line

/-- The value of a line as every observer sees it, with its poison (R339, R274). -/
def coherentRead (s : State) (line : Nat) : Line × W32 := viewLine (settle s line) line

/-- What the read of a line by an IOD agent leaves: an open line closed (R274), and, unless the attribute is UC, a clean whole copy at
the home, where no proxy owns the line and no operation on it is in progress (R224, R231, R240, R295). Without `evict` only a free
tag and free slots are taken (R300). -/
def agentRead (s : State) (line attr : Nat) (evict : Bool) : State :=
  match target s.variant (128 * line), homeSlice s.variant (128 * line) with
  | .remote, _ => s
  | _, none => s
  | _, some h =>
    let s := touchMemory (settle s line) h line
    let sl := sliceOf s h
    let owned := ((findFilter sl line).map (·.owner)).getD false
    if attr = 3 || owned || !sl.enabled || (findTxn sl line).isSome || (findMiss sl line).isSome || (findSpoil sl line).isSome then s
    else
      let (v, q) := viewLine s line
      let old := findLine sl line
      let c := layout { line, st := .home, valid := 0xF, dirty := (old.map (·.dirty)).getD 0, data := v, poison := q }
      let (u, t) := setUse s.variant h (setIn s.variant h (128 * line)) sl.lines
      if old.isSome || evict || (u + lineSlots c ≤ 64 && t + 1 ≤ 32) then (placeLine s h c).getD s else s

/-- The reads of `n` bytes by an IOD agent. -/
def agentReads (s : State) (pa n attr : Nat) (evict : Bool) : State :=
  match target s.variant pa with
  | .window _ _ => s
  | _ => (List.range ((pa % 128 + n + 127) / 128)).foldl (fun s i => agentRead s (pa / 128 + i) attr evict) s

/-- Bytes at a physical address: memory lines coherently, cluster memory directly. -/
def readPhys (s : State) (pa n : Nat) : List Byte :=
  match target s.variant pa with
  | .window _ _ => readBytes s.mem pa n
  | _ =>
    (List.range ((pa % 128 + n + 127) / 128)).foldl (fun acc i =>
      let a := (pa / 128 + i) * 128
      let lo := Nat.max pa a
      let hi := Nat.min (pa + n) (a + 128)
      acc ++ ((lineBytes (coherentRead s (pa / 128 + i)).1).drop (lo - a)).take (hi - lo)) []

def readPhysLE (s : State) (pa n : Nat) : Nat := leNat (readPhys s pa n)

/-- Key of the mark of an uncorrectable 64-bit word of cluster memory (R163), beside the sector keys of memory. -/
def wordMark (pa : Nat) : Nat := 2 ^ 48 + pa / 8

/-- First poison origin that a read of `n` bytes meets (R254): marks of memory lines, and cluster words that are
uncorrectable (R163). -/
def poisonPhys (s : State) (pa n : Nat) : Byte :=
  match target s.variant pa with
  | .window _ _ => ((List.range ((pa % 8 + n + 7) / 8)).foldl
      (fun o j => if o = 0 then look 0 s.poison (wordMark (pa + 8 * j)) else o) 0)
  | _ =>
    (List.range ((pa % 32 + n + 31) / 32)).foldl (fun o j =>
      if o = 0 then poisonAt (coherentRead s ((pa / 32 + j) / 4)).2 ((pa / 32 + j) % 4) else o) 0

/-- Drop every proxy's copy of a line and its filter entry, keeping tags that are pinned or held, and entries that are pinned or
busy (R247, R288). A transaction in progress takes nothing more from its holders: what they held is home (R294). -/
def dropProxies (s : State) (line : Nat) : State :=
  let s := (proxies s.variant line).foldl (fun s p =>
    modSlice (loseLine s p line) p fun sl => { sl with spoil := dropWhere (fun e => e.line == line) sl.spoil }) s
  match homeSlice s.variant (128 * line) with
  | none => s
  | some h => modSlice s h fun sl =>
      { sl with filter := (sl.filter.filter fun f => f.line != line || f.pinned || f.busy).map fun f =>
                  if f.line == line then { f with mask := 0, owner := false } else f,
                txns := modWhere (fun t => t.line == line) (fun t => { t with data := none, sent := none, settled := true }) sl.txns }

/-- A write at the home that takes the line from every holder (R224, R295); `attr` is 0 WB, 1 WT, 2 WA, 3 UC. -/
def coherentWrite (s : State) (line : Nat) (be : BitVec 128) (d : Line) (p : W32) (attr : Nat) : State :=
  let s := settle s line
  match homeSlice s.variant (128 * line) with
  | none => memStoreBytes s line be d p
  | some h =>
    let dirty := viewDirty s line
    let (v, q) := viewLine s line
    let s := dropProxies s line
    -- what the holders had dirty comes home first
    let s := if dirty = 0 then s else homeStore s h line (sectorBe dirty) v q 0
    homeStore s h line be d p attr

/-- Write bytes at a physical address. -/
def writePhys (s : State) (pa : Nat) (bs : List Byte) (attr : Nat) : State :=
  match target s.variant pa with
  | .window _ _ =>
    let s := { s with mem := writeBytes s.mem pa bs }
    -- a write that covers a whole 64-bit word leaves no old bits in it (R163)
    { s with poison := (List.range ((pa % 8 + bs.length + 7) / 8)).foldl (fun m j =>
        let a := (pa / 8 + j) * 8
        if pa ≤ a && a + 8 ≤ pa + bs.length then put 0 m (wordMark a) 0 else m) s.poison }
  | _ =>
    (List.range ((pa % 128 + bs.length + 127) / 128)).foldl (fun s i =>
      let a := (pa / 128 + i) * 128
      let lo := Nat.max pa a
      let hi := Nat.min (pa + bs.length) (a + 128)
      let part := (bs.drop (lo - pa)).take (hi - lo)
      coherentWrite s (pa / 128 + i) (BitVec.ofNat 128 ((2 ^ (hi - lo) - 1) * 2 ^ (lo - a)))
        (BitVec.ofNat 1024 (leNat part * 2 ^ (8 * (lo - a)))) 0 attr) s

/-- Mark one 32-byte sector poisoned wherever the home holds it (R204, R253). -/
def poisonSector (s : State) (sec : Nat) (o : Byte) : State :=
  let line := sec / 4
  let s := settle s line
  let s := { s with poison := put 0 s.poison sec o }
  match homeSlice s.variant (128 * line) with
  | none => s
  | some h =>
    let s := if viewDirty s line = 0 then s else
      let (v, q) := viewLine s line
      homeStore (dropProxies s line) h line (sectorBe (viewDirty s line)) v q 0
    let mark := fun (q : W32) => setPoison q (sec % 4) o
    modSlice (dropProxies s line) h fun sl =>
      { sl with lines := modWhere (fun c => c.line == line) (fun c => { c with poison := mark c.poison }) sl.lines,
                spoil := modWhere (fun c => c.line == line) (fun c => { c with poison := mark c.poison }) sl.spoil }

end Sys2Proof.Machine
end

