-- ==== Sys2Proof/Machine/Ops.lean ====
section
/-! DEFINITION. Operations that every family shares: error counters, the domain-fatal condition, requests on queue pairs,
events (R392 to R394), the rotation of paths (R146), and parking a group, which is this block's one way to take a fault
(R157 to R159), with the return from it. -/

namespace Sys2Proof.Machine

/-! ### Error records (R530) -/

def countUe (s : State) : State := { s with dev := { s.dev with errUe := BitVec.ofNat 64 (bump (2 ^ 64 - 1) s.dev.errUe.toNat) } }
def countCe (s : State) : State := { s with dev := { s.dev with errCe := BitVec.ofNat 64 (bump (2 ^ 64 - 1) s.dev.errCe.toNat) } }
def countRetry (s : State) : State :=
  { s with dev := { s.dev with errRetry := BitVec.ofNat 64 (bump (2 ^ 64 - 1) s.dev.errRetry.toNat) } }
def countRet (s : State) : State := { s with dev := { s.dev with errRet := BitVec.ofNat 64 (bump (2 ^ 64 - 1) s.dev.errRet.toNat) } }

def bit8 (d : Nat) : BitVec 8 := BitVec.ofNat 8 (2 ^ d)
def bit9 (d : Nat) : BitVec 9 := BitVec.ofNat 9 (2 ^ d)
def bit16 (d : Nat) : BitVec 16 := BitVec.ofNat 16 (2 ^ d)
def bit32 (d : Nat) : W32 := BitVec.ofNat 32 (2 ^ d)

/-- An agent has failed: the domain-fatal condition is raised with the dies recorded under R302, and the home agents stop starting
transactions (R301, R302). -/
def raiseFatal (s : State) (cause : Nat) (dies : BitVec 9) : State :=
  { s with restart := { s.restart with fatal := true, fatalCause := if s.restart.fatal then s.restart.fatalCause else cause,
                                       fatalDies := s.restart.fatalDies ||| dies } }

/-! ### Queue pairs as requester (R433, R443) -/

/-- Response packets of a read, and packets of a write, of `len` bytes (each PSN is one packet). -/
def packets (mtu len : Nat) : Nat := if len = 0 then 1 else (len + mtu - 1) / mtu

/-- A request that counts toward the initiator depth (R433): reads, flushes and atomics. -/
def isReadLike (r : QpReq) : Bool := r.kind != 1

def requestName (kind : Nat) : String :=
  match kind with
  | 1 => "RDMA_WRITE"
  | 2 => "FETCH_ADD"
  | 3 => "CMP_SWAP"
  | _ => "RDMA_READ_REQUEST"

/-- Requests that leave, in order, until one must wait: at most `depth` reads and atomics are outstanding at the peer (R433). -/
def leaving (depth : Nat) : List QpReq → Nat → List QpReq
  | [], _ => []
  | r :: rs, n =>
    if r.sent then r :: leaving depth rs (if isReadLike r then n + 1 else n)
    else if isReadLike r && depth ≤ n then r :: rs
    else { r with sent := true } :: leaving depth rs (if isReadLike r then n + 1 else n)

/-- Partition of a queue-pair index (R431). -/
def qpPart (s : State) (q : Nat) : Option Nat :=
  (List.range 16).find? fun p => let c := partCfg s p; c.isDefined && decide (c.qpFirst ≤ q) && decide (q < c.qpFirst + c.qpCount)

/-- Priority of a partition's packets on a port or half (R430). -/
def pcpOf (s : State) (p n h : Nat) : Nat :=
  ((s.image.addrs.find? fun a => a.part == p && a.port == n && a.half == h).map (·.pcp)).getD 0

/-- PFC pauses the queue pair's priority at its port (R438). -/
def qpPaused (s : State) (q : Nat) (x : Qp) : Bool :=
  (port s x.port x.half).paused.getLsbD (pcpOf s ((qpPart s q).getD 0) x.port x.half)

/-- May the device start transmissions on the queue pair: it is ready, its port is up and does not pause it, its RNR wait is over, and
no warm restart runs (R433, R438, R440, R441)? -/
def maySend (s : State) (q : Nat) (x : Qp) : Bool :=
  x.st == .ready && !x.rnrWait && !s.restart.active && (port s x.port x.half).st != 0 && !qpPaused s q x

/-- Send what may leave on a queue pair. -/
def pumpQp (s : State) (q : Nat) : State :=
  let x := qp s q
  if !maySend s q x then s
  else
    let l := leaving x.depth x.sendq 0
    let fresh := (x.sendq.zip l).filterMap fun (a, b) => if !a.sent && b.sent then some b else none
    emits (setQp s q { x with sendq := l }) (fresh.map fun r => .rdma q (requestName r.kind) r.psn r.remote r.key r.len r.data)

/-- Put a request on a queue pair: it takes the next PSNs, and leaves as soon as it may. -/
def postRequest (s : State) (q : Nat) (r : QpReq) : State :=
  let x := qp s q
  pumpQp (setQp s q { x with sendq := x.sendq ++ [{ r with psn := x.nextPsn }],
                             nextPsn := (x.nextPsn + packets x.mtu r.len) % 2 ^ 24 }) q

/-! ### Events (R392 to R394) -/

/-- An event entry before posting: type, fault code, slot, sequence number and bytes 24 to 63 (R393). -/
def event (ty code q : Nat) (seq : W32) (spec : List Byte) : List Byte :=
  [BitVec.ofNat 8 ty, BitVec.ofNat 8 code] ++ leBytes 2 q ++ leBytes 4 seq.toNat ++ slice [] 0 16 ++ slice spec 0 40

/-- No queue slot (R393). -/
def noSlot : Nat := 0xFFFF

/-- The entry with the fields that posting sets: port time, restart generation, event number (R393). -/
def stamped (s : State) (num : Nat) (e : List Byte) : List Byte :=
  e.take 8 ++ leBytes 8 s.portTime.toNat ++ leBytes 2 s.dev.gen.toNat ++ [0, 0] ++ leBytes 4 num ++ e.drop 24

def ringFull (r : Part) : Bool := decide (2 ^ r.ringLogn ≤ (r.evHead - r.evTail).toNat)

/-- The ring takes no entry: it is full, or its queue pair is not ready (R392, R394). (DESIGN CHOICE, log 109) -/
def ringBlocked (s : State) (r : Part) : Bool := ringFull r || (qp s r.ringQp).st != .ready

/-- Write one entry to the ring in host memory (R392). -/
def deliverEvent (s : State) (p : Nat) (e : List Byte) : State :=
  let r := part s p
  let n := r.evNumber + 1
  let bytes := stamped s n e
  let s := setPart s p { r with evNumber := n, evHead := r.evHead + 1 }
  let addr := r.ringVa.toNat + 64 * (r.evHead.toNat % 2 ^ r.ringLogn)
  let s := postRequest s r.ringQp
    { psn := 0, kind := 1, tag := 0, part := p, line := 0, remote := addr, key := r.ringKey, len := 64, data := bytes }
  emit s (.event p bytes)

/-- Hold an event, or count it as lost beyond 64 (R394). -/
def holdEvent (s : State) (p : Nat) (e : List Byte) : State :=
  modPart s p fun r =>
    if r.evHeld.length < 64 then { r with evHeld := r.evHeld ++ [e] }
    else { r with evLost := BitVec.ofNat 32 (bump 0xFFFFFFFF r.evLost.toNat) }

/-- Post an event to a partition: at once, or held while the ring takes none or a warm restart runs; without a ring, not
at all (R392, R394). -/
def postEvent (s : State) (p : Nat) (e : List Byte) : State :=
  let r := part s p
  if !r.ringSet then s
  else if s.restart.active || !r.evHeld.isEmpty || ringBlocked s r then holdEvent s p e
  else deliverEvent s p e

def postEvents (s : State) (ps : List Nat) (e : List Byte) : State := ps.foldl (fun s p => postEvent s p e) s

/-- Post held events while the ring has room (R394). -/
def releaseEvents (p : Nat) : Nat → State → State
  | 0, s => s
  | k + 1, s =>
    match (part s p).evHeld with
    | [] => s
    | e :: es =>
      if ringBlocked s (part s p) then s
      else releaseEvents p k (deliverEvent (modPart s p fun r => { r with evHeld := es }) p e)

/-! ### Paths of a group (R143 to R148) -/

def groupId (cl core slot : Nat) : Nat := (cl * 12 + core) * 32 + slot
def gidCluster (g : Nat) : Nat := g / 32 / 12
def gidDie (g : Nat) : Nat := gidCluster g / 16
def gidOf (g : GRef) : Nat := groupId g.cl g.core g.slot

def isLive (p : Path) : Bool := p.st == .live && p.mask != 0

/-- The active path: the first live one in the rotation (R146). -/
def activePath (g : Group) : Option Path := g.paths.find? isLive

def liveCount (g : Group) : Nat := (g.paths.filter isLive).length

/-- Q of R146 for `n` live paths. -/
def turnLimit (n : Nat) : Nat := 63 / (n - 1)

/-- The rotation from its next live path on: the paths before that one take their places behind (R146). -/
def rotate (ps : List Path) : List Path :=
  if ps.any isLive then ps.dropWhile (fun p => !isLive p) ++ ps.takeWhile fun p => !isLive p else ps

/-- The active path leaves the active role and goes to the end of the rotation; the next live path is the first (R146). -/
def passTurn (g : Group) : Group :=
  match activePath g with
  | none => g
  | some p => { g with paths := rotate (g.paths.erase p) ++ [p], turn := 0 }

/-- The turn of the active path ends, when another path is live; a parked group has no live path (R146). -/
def endTurn (g : Group) : Group := if g.park.isNone && 2 ≤ liveCount g then passTurn g else g

/-- The turn of the path of a lane ends, if it is the active one: a CAS of it failed (R146). -/
def endTurnOf (g : Group) (lane : Nat) : Group :=
  if ((activePath g).map fun p => p.mask.getLsbD lane).getD false then endTurn g else g

/-- Account one issue step of the active path (R146). -/
def countTurn (g : Group) : Group :=
  let n := liveCount g
  let g := { g with turn := g.turn + 1, steps := g.steps + 1 }
  if n ≤ 1 then g else if turnLimit n ≤ g.turn then passTurn g else g

/-- Replace the active path. -/
def setActive (g : Group) (p : Path) : Group :=
  match activePath g with
  | none => g
  | some a => { g with paths := g.paths.map fun x => if x == a then p else x }

/-- The next instruction of the active path (R133). -/
def advance (g : Group) : Group :=
  match activePath g with
  | none => g
  | some p => countTurn (setActive g { p with pc := p.pc + 8 })

/-! ### Launches and contexts -/

def launchOf (s : State) (id : Nat) : Option Launch := s.launches.find? fun l => l.id == id
def taskOf (s : State) (tag : Nat) : Option Task := s.tasks.find? fun t => t.tag == tag
def modTask (s : State) (tag : Nat) (f : Task → Task) : State :=
  { s with tasks := modWhere (fun t => t.tag == tag) f s.tasks }
def modLaunch (s : State) (id : Nat) (f : Launch → Launch) : State :=
  { s with launches := modWhere (fun l => l.id == id) f s.launches }
def launchOfTask (s : State) (tag : Nat) : Option Launch := (taskOf s tag).bind fun t => launchOf s t.launch

/-! ### Parking: how this block takes a fault (R157, R158) -/

/-- The 64-byte park record (R158). -/
def parkRecord (s : State) (gid : Nat) (g : Group) (k : Park) : List Byte :=
  let l := launchOfTask s g.task
  let live := g.paths.foldl (fun m p => m ||| p.mask) 0
  let addr := if k.code.toNat / 16 = 1 || k.code.toNat / 16 = 3 then k.addr else 0
  [0x01, k.code, BitVec.ofNat 8 g.index, BitVec.ofNat 8 g.paths.length] ++ leBytes 4 g.team ++ leBytes 4 k.mask.toNat
    ++ leBytes 4 live.toNat ++ leBytes 8 k.pc ++ leBytes 8 addr ++ leBytes 8 k.word.toNat
    ++ leBytes 4 ((l.map (·.seq.toNat)).getD 0) ++ leBytes 4 ((l.map (·.handle)).getD 0)
    ++ [BitVec.ofNat 8 (gidDie gid), BitVec.ofNat 8 (gidCluster gid % 16), BitVec.ofNat 8 (gid / 32 % 12), BitVec.ofNat 8 (gid % 32)]
    ++ leBytes 4 k.number ++ leBytes 4 k.barriers.toNat ++ leBytes 4 0

/-- A write of an IOD agent for a partition, line by line: a line that fails a check of R26 is not written (R26; DESIGN CHOICE for
what the agent then does, DESIGN CHOICE, log 97). -/
def agentWrite (s : State) (p pa : Nat) (bs : List Byte) : State :=
  (List.range ((pa % 128 + bs.length + 127) / 128)).foldl (fun s i =>
    let a := (pa / 128 + i) * 128
    let lo := Nat.max pa a
    let part := (bs.drop (lo - pa)).take (Nat.min (pa + bs.length) (a + 128) - lo)
    if (accessCheck s p a true true).isNone then writePhys s lo part 0 else s) s

/-- First free entry of a context's park area (R158). -/
def freeEntry (s : State) (c : Ctx) : Option Nat :=
  (List.range c.parkEntries).find? fun i => readPhysLE s (c.parkBase + 64 * i) 1 == 0

/-- Set the record with a park number in a context's park area to free (R159). -/
def clearRecord (s : State) (p : Nat) (c : Ctx) (number : Nat) : State :=
  match (List.range c.parkEntries).find? fun i =>
      readPhysLE s (c.parkBase + 64 * i) 1 == 1 && readPhysLE s (c.parkBase + 64 * i + 52) 4 == number with
  | some i => agentWrite s p (c.parkBase + 64 * i) [0]
  | none => s

/-- Park a group: it keeps its slot, registers, accumulators and paths; the record goes to the park area and the event to
the partition (R157, R158). A group that is parked already stays as it is. -/
def parkGroup (s : State) (gid : Nat) (k : Park) : State :=
  match group s gid with
  | none => s
  | some g =>
    if g.park.isSome then s
    else
      match ctxOf s g.part g.ctx with
      | none => setGroup s gid (some { g with park := some k })
      | some c =>
        let k := { k with number := c.nextPark }
        let rec' := parkRecord s gid g k
        let s := setGroup s gid (some { g with park := some k })
        let s := setCtx s g.part g.ctx (some { c with nextPark := c.nextPark + 1 })
        let s := match freeEntry s c with
          | some i => agentWrite s g.part (c.parkBase + 64 * i) rec'
          | none => s
        let l := launchOfTask s g.task
        postEvent s g.part (event 1 k.code.toNat ((l.map (·.q)).getD noSlot) ((l.map (·.seq)).getD 0) (rec'.take 40))

/-- Park at the active path's instruction. -/
def parkAt (s : State) (gid : Nat) (p : Path) (code addr : Nat) (word : W64) (mask : W32) : State :=
  parkGroup s gid { code := BitVec.ofNat 8 code, pc := p.pc, addr, word, mask, number := 0, barriers := 0 }

end Sys2Proof.Machine
end

