-- ==== Sys2Proof/Machine/Memory.lean ====
section
/-! DEFINITION. Errors of memory, retirement of rows, journal records that wait, and the fencing of units: R203 to R205, R212
to R214, R506, R507, R532, R533, R542. -/

namespace Sys2Proof.Machine

/-- 24 h in the 10 ns ticks of a die counter (R52). -/
def dayTicks : Nat := 8640000000000

/-- A journal record waits to be programmed; at most 1,024 wait (R507). -/
def addJournal (s : State) (r : JRec) : State :=
  if s.flash.waiting.length < 1024 then { s with flash := { s.flash with waiting := s.flash.waiting ++ [r] } } else s

/-- Every defined partition. -/
def definedParts (s : State) : List Nat := (List.range 16).filter fun p => (partCfg s p).isDefined

/-- PT0, and the partitions with a region that overlaps a range (R214). -/
def partsOver (s : State) (base size : Nat) : List Nat :=
  0 :: ((List.range 16).filter fun p => p ≠ 0 &&
    s.image.regions.any fun r => r.part == p && decide (r.base < base + size) && decide (base < r.base + r.len))

/-- Bytes 24 to 63 of an event of type 3; the spec names the fields and not their places (DESIGN CHOICE, log 21). -/
def retireSpec (ch bank row : Nat) : List Byte :=
  [BitVec.ofNat 8 (if ch < 128 then ch / 16 else 8), BitVec.ofNat 8 (if ch < 128 then ch % 16 else ch - 128)]
    ++ leBytes 2 bank ++ leBytes 4 row

/-- Take a failed stockpile channel out: all of stockpile memory goes with it (R213). -/
def failStock (s : State) (ch : Nat) : State :=
  let s := modChan s ch fun c => { c with failed := true }
  { s with dev := { s.dev with stock := false }, admission := { s.admission with passDue := true } }

/-- The entry of a retired row. -/
def isRow (ch bank row : Nat) (x : Retired) : Bool := x.chan == ch && x.bank == bank && x.row == row

/-- A range goes out of service: where it lies in a partition's region, reservations are admitted anew (R214). -/
def loseRange (s : State) (base size : Nat) : State :=
  if s.image.regions.any fun r => decide (r.base < base + size) && decide (base < r.base + r.len) then
    { s with admission := { s.admission with passDue := true } }
  else s

/-- A pending retirement comes into force (R213). -/
def forceRow (s : State) (x : Retired) : State :=
  let rows := modWhere (isRow x.chan x.bank x.row) (fun y => { y with inForce := true }) s.retired
  loseRange (addJournal { s with retired := rows } { type := 1, key := [x.chan, x.bank, x.row], payload := [x.base, 1] })
    x.base (rowRange s.variant x.base).2

/-- Every pending retirement comes into force (R213). -/
def forceRows (s : State) : State := (s.retired.filter fun x => !x.inForce).foldl forceRow s

/-- A channel or die with too many retired rows: the die is held out from the next cold start, the channel has failed (R213; DESIGN CHOICE
that pending retirements count, DESIGN CHOICE, log 103). -/
def judgeRows (s : State) (ch : Nat) : State :=
  if 128 ≤ ch then (if 2048 < (s.retired.filter fun x => x.chan == ch).length then failStock s ch else s)
  else if 1024 < (s.retired.filter fun x => x.chan / 16 == ch / 16).length then addJournal s { type := 4, key := [ch / 16], payload := [1] }
  else s

/-- Retire the row that holds a physical address, at once or as pending (R213, R214). -/
def retireRow (s : State) (pa : Nat) (inForce : Bool) : State :=
  match chanOf s.variant pa with
  | none => s
  | some (ch, a) =>
    let (bank, row) := bankRow ch a
    let (base, size) := rowRange s.variant pa
    match s.retired.find? (isRow ch bank row) with
    | some x => if x.inForce || !inForce then s else forceRow s x
    | none =>
      let s := countRet { s with retired := s.retired ++ [{ chan := ch, bank, row, base, inForce }] }
      let s := addJournal s { type := 1, key := [ch, bank, row], payload := [base, if inForce then 1 else 0] }
      let s := postEvents s (partsOver s base size) (event 3 0 noSlot 0 (retireSpec ch bank row))
      judgeRows (if inForce then loseRange s base size else s) ch

/-! ### Codes of memory (R203, R204) -/

/-- What the code of a unit makes of an error. -/
inductive Verdict where
  | none | corrected | detected
  /-- more than the code is said to correct or detect -/
  | unstated
  deriving DecidableEq, Repr

/-- The limits of R203. -/
def verdict (isFace : Bool) (f : MemFault) : Verdict :=
  let bits := f.wrong.eraseDups
  if f.elsewhere then .detected
  else if bits.isEmpty then .none
  else if isFace then
    let symbols := (bits.map (· / 16)).eraseDups.length
    if symbols = 1 then .corrected else if symbols ≤ 3 then .detected else .unstated
  else if bits.length ≤ 2 then .corrected
  else if bits.length ≤ 4 || (bits.map (· % 12)).eraseDups.length = 1 then .detected
  else .unstated

/-- An uncorrectable error poisons the unit and retires its row at once (R204, R213). -/
def ueUnit (s : State) (pa : Nat) : State :=
  let unit := if pa < stockBase then pa / 64 else pa / 32
  let o : Byte := if pa < stockBase then 0x31 else 0x32
  let s := if pa < stockBase then { s with poison := put 0 (put 0 s.poison (2 * unit) o) (2 * unit + 1) o }
           else { s with poison := put 0 s.poison unit o }
  retireRow (countUe s) pa true

/-- A corrected error; one that recurs in its unit within 24 h, or in a third unit of its row, retires the row as pending (R204, R213). -/
def ceUnit (s : State) (pa : Nat) : State :=
  match chanOf s.variant pa with
  | none => s
  | some (ch, a) =>
    let unit := if pa < stockBase then pa / 64 else pa / 32
    let here := ch * 2 ^ 40 + rowKey (bankRow ch a).1 (bankRow ch a).2
    let now := (die s 8).time.toNat
    let recent := s.ceHistory.filter fun (_, _, t) => decide (now < t + dayTicks)
    let units := (unit :: ((recent.filter fun (_, r, _) => r == here).map fun (u, _, _) => u)).eraseDups
    let s := countCe { s with ceHistory := recent ++ [(unit, here, now)] }
    if (recent.any fun (u, _, _) => u == unit) || 3 ≤ units.length then retireRow s pa false else s

/-- Data that a read delivers wrong and unnoticed: nothing is known of it. -/
def garbled (s : State) (pa : Nat) : Nat → State
  | 0 => s
  | n + 1 => let (v, s) := freeVal s; garbled { s with mem := writeLE s.mem pa 8 v.toNat } (pa + 8) n

/-- What the read of a protected unit finds; beyond the limits of its code the outcome is a free value (R203; DESIGN CHOICE, log 105). -/
def memEcc (s : State) (pa : Nat) (f : MemFault) : State :=
  match target s.variant pa with
  | .face _ _ | .stock _ =>
    let isFace := decide (pa < stockBase)
    match verdict isFace f with
    | .none => s
    | .corrected => ceUnit s pa
    | .detected => ueUnit s pa
    | .unstated =>
      let (v, s) := freeVal s
      if v.getLsbD 0 then ueUnit s pa
      else
        let s := if isFace then garbled s (pa / 64 * 64) 8 else garbled s (pa / 32 * 32) 4
        if v.getLsbD 1 then ceUnit s pa else s
  | _ => s

/-- The controller reads a line, with what it meets there (R203, R207). -/
def readMem (s : State) (line : Nat) (fs : List MemFault) : State :=
  fs.foldl (fun s f => memEcc s (128 * line + 32 * (f.sector % 4)) f) (activate s (128 * line))

/-! ### Encryption (R217 to R219, R510) -/

/-- What the cells of a sector of memory hold: in a secure range the AES-256-XTS ciphertext, under the pair of keys, of what its
controller delivers, with the address shifted right by 5 as tweak; elsewhere plain text (R217, R218; DESIGN CHOICE to list memory as
its controllers deliver it, DESIGN CHOICE, log 102). -/
def storedSector (s : State) (sector : Nat) : BitVec 256 :=
  let plain := BitVec.ofNat 256 (readLE s.mem (32 * sector) 32)
  if secureAt s (32 * sector) then Config.aesXts s.sec.key1 s.sec.key2 (BitVec.ofNat 128 sector) plain else plain

/-- A pair of keys from the entropy source: two free values that differ (R219, R510). -/
def generateKeys (s : State) : State :=
  let w := fun (i : Nat) => (Config.freeWord (s.free + i)).toNat * 2 ^ (64 * (i % 4))
  let k1 : BitVec 256 := BitVec.ofNat 256 (w 0 + w 1 + w 2 + w 3)
  -- any distance but 0
  let k2 := k1 + BitVec.ofNat 256 (1 + (w 4 + w 5 + w 6 + w 7) % (2 ^ 256 - 1))
  { s with free := s.free + 8, sec := { s.sec with key1 := k1, key2 := k2 } }

/-! ### Fencing (R532, R533) -/

/-- Bytes 24 to 28 of an event of type 12 (R542). -/
def fenceSpec (kind d unit cause state : Nat) : List Byte := [kind, d, unit, cause, state].map (BitVec.ofNat 8)

/-- Fence or return a cluster: caches disabled while fenced, invalidated for their enable afterwards (R250), the event to PT0 and its owner, an admission pass. -/
def setClusterFence (s : State) (c : Nat) (fenced : Bool) (cause : Nat) : State :=
  let m := bit16 (c % 16)
  let s := modDie s (c / 16) fun u => { u with clFenced := if fenced then u.clFenced ||| m else u.clFenced &&& ~~~m }
  let s := modCluster s c fun x => { x with roEnabled := if fenced then false else x.roEnabled, roInvalid := !fenced, ro := [] }
  let s := { s with admission := { s.admission with passDue := true } }
  -- the contexts on a fenced cluster are pre-empted, saved and migrated (R126, R533)
  let s := if fenced then emits s ((((cluster s c).teams.map (·.task)).eraseDups).map fun t => .front "PREEMPT" t c) else s
  let ps := match clusterOwner s c with
    | some p => if p = 0 then [0] else [0, p]
    | none => [0]
  postEvents s ps (event 12 0 noSlot 0 (fenceSpec 1 (c / 16) (c % 16) cause (if fenced then 0 else 1)))

/-- Bit of a slice in DEV_UNIT_n. -/
def setSliceFence (s : State) (i : Nat) (fenced : Bool) (cause : Nat) : State :=
  let m := bit16 (i % 16)
  let s := modDie s (i / 16) fun u => { u with slFenced := if fenced then u.slFenced ||| m else u.slFenced &&& ~~~m }
  let s := { s with admission := { s.admission with passDue := true } }
  postEvents s (0 :: (definedParts s).filter (· ≠ 0)) (event 12 0 noSlot 0 (fenceSpec 2 (i / 16) (i % 16) cause (if fenced then 0 else 1)))

/-- Hold a die out of service, or return it (R529, R532). -/
def setDieHeld (s : State) (d : Nat) (held : Bool) (cause : Nat) : State :=
  let s := modDie s d fun u =>
    if held then { u with state := .heldOut, hold := cause, keyed := false } else { u with state := .inService, hold := 0 }
  let s := { s with admission := { s.admission with passDue := true } }
  postEvents s (0 :: (definedParts s).filter (· ≠ 0)) (event 12 0 noSlot 0 (fenceSpec 3 d 0 cause (if held then 0 else 1)))

/-- Homes whose lines a slice can proxy: the slices of its index on the other in-service compute dies and on the IOD (R291). -/
def homesOf (s : State) (sid : Nat) : List Nat :=
  if 128 ≤ sid then []
  else (((List.range (dieCount s.variant)).filter fun d => d != sid / 16 && dieServes s d).map fun d => 16 * d + sid % 16) ++ [128 + sid % 16]

/-- REG goes to each home (R291). -/
def sendReg (s : State) (sid : Nat) : State :=
  emits (modSlice s sid fun sl => { sl with awaitReg := homesOf s sid }) ((homesOf s sid).map fun h => .front "REG" sid h)

/-- A slice holds nothing that must leave before it is disabled: no line, no spoil entry, no miss. -/
def emptied (sl : Slice) : Bool := sl.lines.isEmpty && sl.spoil.isEmpty && sl.miss.isEmpty

/-- Dirty lines enter the spoil buffer, from which they are written out, while it has room; clean ones go. A line held for an
operation in progress stays until it ends. -/
def drainLine (i : Nat) (s : State) (c : CLine) : State :=
  if c.hold || (c.dirty ≠ 0 && 64 ≤ (sliceOf s i).spoil.length) then s else evictLine s i c

/-- What a slice that is being disabled does whenever something leaves it (R291): it goes on emptying itself, and then sends
REG. -/
def drainStep (s : State) (i : Nat) : State :=
  if !(sliceOf s i).draining then s
  else
    let s := (sliceOf s i).lines.foldl (drainLine i) s
    if emptied (sliceOf s i) then sendReg (modSlice s i fun sl => { sl with draining := false }) i else s

/-- Begin to disable a slice at run time (R291): it allocates nothing any more, its pins go (R250), and its lines leave it: dirty
foreign lines as WB, its own to memory. (DESIGN CHOICE for its own lines, DESIGN CHOICE, log 96) -/
def drainSlice (s : State) (i : Nat) : State :=
  let sl := sliceOf s i
  if !sl.enabled then s
  else
    let unpinned := (sl.lines.map fun c => { c with pins := 0 }).filter fun c => c.valid ≠ 0 || c.hold
    drainStep (modSlice s i fun sl => { sl with enabled := false, invalidated := false, draining := true, lines := unpinned }) i

/-- A slice is disabled: nothing is left in it and the WB_ACKs have come. -/
def isDown (s : State) (i : Nat) : Bool := !(sliceOf s i).enabled && !(sliceOf s i).draining

/-- A persistent compute error fences the cluster (R126, R532). -/
def persistentError (s : State) (c : Nat) : State := setClusterFence s c true 11

end Sys2Proof.Machine
end

