-- ==== Sys2Proof/Machine/Operands.lean ====
section
/-! DEFINITION. Operand forms: fields of instruction words (R105, R108, R112, R143, R168, R258, R331, R387), thread registers
and blocks (R93, R107, R119, R169), operand tiles (R94, R96), result tiles (R97) and addresses of threads (R332). -/

namespace Sys2Proof.Machine
open Sys2Proof.Num

/-! ### Instruction words -/

/-- Bits `hi:lo` of an instruction word. -/
def bits (w : W64) (hi lo : Nat) : Nat := field w.toNat hi lo

/-- Bits of a word that lie outside the named fields, given as (hi, lo) pairs. -/
def reservedBits (w : W64) (fields : List (Nat × Nat)) : Nat :=
  fields.foldl (fun v (hi, lo) => v - (field v hi lo) * 2 ^ lo) w.toNat

/-- The opcode, in bits 7:0 (R105). -/
def opcode (w : W64) : Nat := bits w 7 0

/-! ### Thread registers (R93) -/

def readReg (g : Group) (lane r : Nat) : W32 := look 0 g.regs (256 * lane + r)
def writeReg (g : Group) (lane r : Nat) (v : W32) : Group := { g with regs := put 0 g.regs (256 * lane + r) v }

/-- Lanes of a path. -/
def lanes (m : W32) : List Nat := (List.range 32).filter fun l => m.getLsbD l

/-- Value of `n` consecutive registers of a lane, the lowest first. -/
def readBlock (g : Group) (lane r : Nat) : Nat → Nat
  | 0 => 0
  | n + 1 => (readReg g lane r).toNat + 2 ^ 32 * readBlock g lane (r + 1) n

def writeBlock (g : Group) (lane r : Nat) : Nat → Nat → Group
  | 0, _ => g
  | n + 1, v => writeBlock (writeReg g lane r (BitVec.ofNat 32 v)) lane (r + 1) n (v / 2 ^ 32)

/-- Write one value per lane of a mask. -/
def writeLanes (g : Group) (m : W32) (r n : Nat) (f : Nat → Nat) : Group :=
  (lanes m).foldl (fun g l => writeBlock g l r n (f l)) g

/-- Registers `r` to `r + n - 1` lie in the group's grant (R93). -/
def inGrant (g : Group) (r n : Nat) : Bool := decide (r + n ≤ g.regGrant)

/-- Registers that an access of `size` bytes takes, and the register number with its low bits cleared (R169). -/
def regsOf (size : Nat) : Nat := if size ≤ 4 then 1 else size / 4
def alignReg (size r : Nat) : Nat := r / regsOf size * regsOf size

/-- The rounding block of R107: seed, index base, stride and stream, from thread 0. -/
structure RsrBlock where
  seed : W64
  base : W64
  stride : W32
  stream : W32
  deriving DecidableEq, Repr

def rsrBlock (g : Group) (rb : Nat) : RsrBlock :=
  { seed := BitVec.ofNat 64 (readBlock g 0 rb 2), base := BitVec.ofNat 64 (readBlock g 0 (rb + 2) 2),
    stride := readReg g 0 (rb + 4), stream := readReg g 0 (rb + 5) }

/-- The draw of R72 for element index `base + off`. -/
def rsrDraw (b : RsrBlock) (off : Nat) : Nat := rsrBits b.seed (b.base + BitVec.ofNat 64 off) b.stream

/-! ### Operand tiles (R94, R96) -/

/-- Row `i` of operand tile `t`, 64 bytes as one number: lower half in thread 2i, upper half in thread 2i + 1. -/
def tileRow (g : Group) (t i : Nat) : Nat :=
  readBlock g (2 * i) (8 * t) 8 + 2 ^ 256 * readBlock g (2 * i + 1) (8 * t) 8

def writeTileRow (g : Group) (t i v : Nat) : Group :=
  writeBlock (writeBlock g (2 * i) (8 * t) 8 v) (2 * i + 1) (8 * t) 8 (v / 2 ^ 256)

/-- Elements of a format in a full operand tile row (R95). -/
def tileK (fmt : BitVec 4) : Nat := if fmt = 7 then 64 else 512 / elemBits fmt

/-- K per matrix step (R95), by element width. -/
def stepK (fmt : BitVec 4) : Nat :=
  match elemBits fmt with
  | 4 => 16
  | 6 | 8 => 8
  | 16 => 4
  | _ => 1

/-- Steps of a full tile (R95, R103). -/
def tileSteps (fmt : BitVec 4) : Nat := tileK fmt / stepK fmt

/-- Value of element `k` of row `i` of an operand; MX elements take the scale that register `sreg` of thread 2i holds for
their block (R65, R96). -/
def tileElem (g : Group) (fmt : BitVec 4) (t sreg i k : Nat) : FVal :=
  let code := rowElem (elemBits fmt) (tileRow g t i) k
  let scale := if isMx fmt then field (readReg g (2 * i) sreg).toNat (8 * (k / 32) + 7) (8 * (k / 32)) else 127
  elemVal fmt code scale

/-! ### Result tiles (R97) -/

/-- Bytes of an element of a result tile, 0 where the format has none. -/
def resultBytes (fmt : BitVec 4) : Nat :=
  match fmt.toNat with
  | 2 | 3 => 2
  | 1 | 0xA => 4
  | 0 => 8
  | 0xE => 16
  | _ => 0

/-- Code of element `(i, j)` of a result tile based at register `r`. -/
def resultElem (g : Group) (fmt : BitVec 4) (r i j : Nat) : Nat :=
  let e := resultBytes fmt
  let blk := readBlock g (2 * i + j / 8) r (2 * e)
  (blk >>> (8 * e * (j % 8))) % 2 ^ (8 * e)

/-- Write a result tile from its codes. -/
def writeResult (g : Group) (fmt : BitVec 4) (r : Nat) (f : Nat → Nat → Nat) : Group :=
  let e := resultBytes fmt
  (List.range 32).foldl (fun g lane =>
    let i := lane / 2
    let v := ((List.range 8).map fun x => f i (8 * (lane % 2) + x) % 2 ^ (8 * e) * 2 ^ (8 * e * x)).sum
    writeBlock g lane r (2 * e) v) g

/-- Row `i` of a result tile as bytes: 16e of them (R100). -/
def resultRow (g : Group) (fmt : BitVec 4) (r i : Nat) : List Byte :=
  let e := resultBytes fmt
  leBytes (8 * e) (readBlock g (2 * i) r (2 * e)) ++ leBytes (8 * e) (readBlock g (2 * i + 1) r (2 * e))

/-! ### Addresses -/

/-- Virtual address of a thread from a register pair and a 24-bit signed offset (R332). -/
def threadAddr (g : Group) (lane ra off : Nat) : Nat :=
  ((readBlock g lane ra 2 : Int) + signed 24 off) % (2 ^ 64 : Nat) |>.toNat

/-- Base and signed row stride of a tile access, from thread 0 (R100). -/
def tileBase (g : Group) (ra : Nat) : Nat := readBlock g 0 ra 2
def tileStride (g : Group) (rs : Nat) : Int := signed 32 (readReg g 0 rs).toNat
def rowAddr (base : Nat) (stride : Int) (i : Nat) : Nat := ((base : Int) + i * stride) % (2 ^ 64 : Nat) |>.toNat

/-! ### Outstanding accesses (R142, R335, R336) -/

def accessOf (s : State) (tag : Nat) : Option Access := s.accs.find? fun a => a.tag == tag
def dropAccess (s : State) (tag : Nat) : State := { s with accs := dropWhere (fun a => a.tag == tag) s.accs }

/-- An access fails: it stays recorded, and its group is parked at the instruction boundary (R345). -/
def failAccess (s : State) (tag code : Nat) : State :=
  match accessOf s tag with
  | none => s
  | some a =>
    let s := { s with accs := modWhere (fun x => x.tag == tag) (fun x => { x with failed := code }) s.accs }
    let mask := a.pieces.foldl (fun m p => m ||| bit32 (p.lane % 32)) 0
    -- an ACC.RESTORE has not advanced its path: a part of its image faults at the instruction itself
    parkGroup s a.gid { code := BitVec.ofNat 8 code, pc := a.pc, addr := a.va, word := a.word, mask, number := 0, barriers := 0,
                        async := !a.pieces.any fun p => p.lane == 32 }

/-- Put `len` bytes at byte `sub` of a register, the others kept: the elements of a transposing tile load (R100). -/
def writePart (g : Group) (lane r sub len v : Nat) : Group :=
  let old := (readReg g lane r).toNat
  let cur := (old >>> (8 * sub)) % 2 ^ (8 * len)
  writeReg g lane r (BitVec.ofNat 32 (old - cur * 2 ^ (8 * sub) + v * 2 ^ (8 * sub)))

/-- Write the data of the pieces of an access to their registers. Bytes above the access size in a register are not given
(DESIGN CHOICE, log 22): one free value a lane. -/
def writePieces (s : State) (gid : Nat) (d : Line) : List Piece → State
  | [] => s
  | p :: ps =>
    let v := (d.toNat >>> (8 * p.off)) % 2 ^ (8 * p.len)
    let s :=
      -- lane 32: a part of an accumulator image at offset `reg` (R111)
      if p.lane = 32 then modGroup s gid fun g => { g with image := put 0 (put 0 g.image p.reg v) (2 ^ 20 + p.reg) 1 } else
      match p.sub with
      | some b => modGroup s gid fun g => writePart g p.lane p.reg b p.len v
      | none =>
      if p.len < 4 then
        let (f, s) := freeVal s
        modGroup s gid fun g => writeReg g p.lane p.reg (BitVec.ofNat 32 (v + f.toNat * 2 ^ (8 * p.len)))
      else modGroup s gid fun g => writeBlock g p.lane p.reg (p.len / 4) v
    writePieces s gid d ps

/-- Write the old values that an atomic operation returns, one per piece (R334). -/
def writeOlds (s : State) (gid : Nat) : List Piece → List Nat → State
  | p :: ps, o :: os => writeOlds (modGroup s gid fun g => writeBlock g p.lane p.reg (p.len / 4) o) gid ps os
  | _, _ => s

/-- Sectors that the pieces of an access touch. -/
def pieceSectors (ps : List Piece) : BitVec 4 :=
  ps.foldl (fun m p => m ||| BitVec.ofNat 4 (2 ^ (p.off / 32))) 0

/-- The load accesses of one instruction. -/
def loadMates (s : State) (gid instr : Nat) : List Access :=
  s.accs.filter fun x => x.gid == gid && x.instr == instr && x.kind == .load

/-- A load receives a line: poison in a sector it touches parks the group (R254). The registers are written when every line of
the instruction has arrived, so that one that fails has no effect (R157). -/
def finishLoad (s : State) (a : Access) (d : Line) (poison : W32) : State :=
  let o := poisonIn (pieceSectors a.pieces) poison
  if o ≠ 0 then failAccess s a.tag o.toNat
  else
    let s := { s with accs := modWhere (fun x => x.tag == a.tag) (fun x => { x with got := some d }) s.accs }
    let l := loadMates s a.gid a.instr
    if l.all fun x => x.got.isSome then
      l.foldl (fun s x => dropAccess (writePieces s x.gid (x.got.getD 0) x.pieces) x.tag) s
    else s

/-- Some register `r` to `r + n - 1` of the group has a write pending in some lane: the scoreboard is kept for the group as
a whole (R141). -/
def regsBusy (s : State) (gid r n : Nat) : Bool :=
  s.accs.any fun a => a.gid == gid && (a.kind == .load || a.kind == .atomRet) &&
    a.pieces.any fun p => p.lane != 32 && decide (p.reg < r + n) && decide (r < p.reg + regsOf p.len)

/-- Memory reads a group has outstanding, one per instruction (R142). -/
def readsOut (s : State) (gid : Nat) : Nat :=
  ((s.accs.filter fun a => a.gid == gid && (a.kind == .load || a.kind == .atomRet)).map (·.instr)).eraseDups.length

/-- Writes and updates a group has outstanding, one per instruction (R277, R336). -/
def writesOut (s : State) (gid : Nat) : Nat :=
  ((s.accs.filter fun a => a.gid == gid && (a.kind == .store || a.kind == .update)).map (·.instr)).eraseDups.length

/-- Physical 64-byte segments of an outstanding write: stores, and the packets of ATOM, RED, CRU.CLOSE and ACC.PUSH (R335). -/
def segsOfWrite (a : Access) : List Nat :=
  match a.kind with
  | .store => ((if a.be.extractLsb' 0 64 ≠ 0 then [2 * a.line] else []) ++ (if a.be.extractLsb' 64 64 ≠ 0 then [2 * a.line + 1] else []))
  | .update | .atomRet => if a.update.isSome then [2 * a.line, 2 * a.line + 1] else []
  | _ => []

/-- Does a later access go to the same agent on the same virtual channel as an outstanding write, and so leave at once
(R335)? Stores of one attribute reach one slice; all packets reach one crusher. -/
def sameWay (a : Access) (kind : AccKind) (attr : Nat) : Bool :=
  match kind with
  | .store => a.kind == .store && a.attr == attr
  | .update | .atomRet => a.update.isSome
  | _ => false

/-- A segment of an outstanding write of the group that holds back a later access of a kind and attribute (R335). -/
def segBusy (s : State) (gid : Nat) (kind : AccKind) (attr seg : Nat) : Bool :=
  s.accs.any fun a => a.gid == gid && (segsOfWrite a).contains seg && !sameWay a kind attr

end Sys2Proof.Machine
end

