-- ==== Sys2Proof/Machine/Home.lean ====
section
/-! DEFINITION. The home agent of a slice: its snoop filter, its transactions and what ends them (R287 to R296, R299), the
updates of the crusher that need exclusive ownership (R263, R274), and the fills of miss entries (R236, R237). -/

namespace Sys2Proof.Machine

/-! ### Snoop filter (R288, R289) -/

/-- Set the entry of a line; an empty mask frees an entry that is neither pinned nor busy. -/
def setFilter (s : State) (h line : Nat) (mask : BitVec 8) (owner : Bool) : State :=
  modSlice s h fun sl =>
    match findFilter sl line with
    | some f =>
      if mask = 0 && !f.pinned && !f.busy then { sl with filter := dropWhere (fun x => x.line == line) sl.filter }
      else { sl with filter := modWhere (fun x => x.line == line) (fun x => { x with mask, owner }) sl.filter }
    | none =>
      if mask = 0 then sl
      else { sl with filter := sl.filter ++ [{ line, mask, owner, order := sl.allocated }], allocated := sl.allocated + 1 }

/-- The entry of a line becomes busy, allocated where it is absent and a grant needs it (R288, R294). -/
def reserveFilter (s : State) (h line : Nat) (grant : Bool) : State :=
  modSlice s h fun sl =>
    match findFilter sl line with
    | some _ => { sl with filter := modWhere (fun x => x.line == line) (fun x => { x with busy := true }) sl.filter }
    | none =>
      if !grant then sl
      else { sl with filter := sl.filter ++ [{ line, mask := 0, owner := false, busy := true, order := sl.allocated }], allocated := sl.allocated + 1 }

/-- The operation on the line is over: an empty entry that is not pinned is free. -/
def freeFilter (s : State) (h line : Nat) : State :=
  modSlice s h fun sl =>
    { sl with filter := (modWhere (fun x => x.line == line) (fun x => { x with busy := false }) sl.filter).filter fun x =>
        !(x.line == line && x.mask == 0 && !x.pinned) }

def filterMask (sl : Slice) (line : Nat) : BitVec 8 := ((findFilter sl line).map (·.mask)).getD 0
def filterOwned (sl : Slice) (line : Nat) : Bool := ((findFilter sl line).map (·.owner)).getD false

/-- Entries of the filter set that a line indexes: 16 of them (R288). -/
def filterSet (variant h line : Nat) (sl : Slice) : List Filter :=
  sl.filter.filter fun f => setIn variant h (128 * f.line) == setIn variant h (128 * line)

def filterRoom (s : State) (h line : Nat) : Bool :=
  let sl := sliceOf s h
  (findFilter sl line).isSome || decide ((filterSet s.variant h line sl).length < 16)

/-- The entry that R289 back-invalidates: earliest allocated, neither pinned nor busy. -/
def filterVictim (s : State) (h line : Nat) : Option Filter :=
  let sl := sliceOf s h
  ((filterSet s.variant h line sl).filter fun f => !f.pinned && !f.busy && (findTxn sl f.line).isNone).foldl
    (fun best f => match best with
      | none => some f
      | some b => if f.order < b.order then some f else some b) none

/-! ### Values at the home -/

/-- What the home has or memory holds, under the dirty sectors an answer brought (R295, R299). -/
def homeData (s : State) (h line : Nat) (buf : Option (Line × BitVec 4 × W32)) : Line × W32 × BitVec 4 :=
  let (v, q, dirty) := homeValue s h line
  match buf with
  | some (d, m, p) => (mergeLine (sectorBe m) d v, mergePoison m p q, dirty ||| m)
  | none => (v, q, dirty)

/-- Keep at the home the dirty sectors an answer brought. -/
def keepDirty (s : State) (h line : Nat) (buf : Option (Line × BitVec 4 × W32)) : State :=
  match buf with
  | some (d, m, p) => if m = 0 then s else homeStore s h line (sectorBe m) d p 0
  | none => s

/-! ### Crusher updates (R264, R274) -/

/-- Is the packet a rounded-form operation? -/
def isRounded (k : CruPacket) : Bool :=
  match k.recs with
  | .rounded .. :: _ => true
  | [] => true
  | _ => false

/-- Line form of an ADD packet. -/
def packetForm (s : State) (k : CruPacket) : AccForm :=
  match k.recs with
  | .pair .. :: _ => .pair
  | _ => ledgerForm s

/-- Does the open line accept the packet: ledger records into a ledger or reduced line, pair records into a pair line, the
same FL (R274, R84)? -/
def sameForm (l : OpenLine) (k : CruPacket) : Bool :=
  l.fl == k.fl && (match k.recs with
    | .pair .. :: _ => l.form == .pair
    | _ => l.form == .ledger || l.form == .reduced)

/-- The crusher acknowledges a packet to each agent whose packet is in it (R277; DESIGN CHOICE for absorbed ones, DESIGN CHOICE, log 99). -/
def ackUpdate (s : State) (k : CruPacket) (code : Nat) : State := emits s ((k.tag :: k.absorbed).map fun t => .cruAck t code)

/-- Mark a command of the launch whose task used a reduced line: QCMP bit 40 at its completion (R84). -/
def markReduced (s : State) (task : Nat) : State :=
  match launchOfTask s task with
  | none => s
  | some l => modQueue s l.part l.q fun x =>
      { x with cmds := modWhere (fun c => c.seq == l.seq) (fun c => { c with reduced := true }) x.cmds }

/-- A CAS whose comparison failed in a thread ends the turn of that thread's path, if it is the active one (R146, R259). -/
def casEnds (g : Group) (k : CruPacket) (ps : List Piece) (olds : List Nat) : Group :=
  let failed := (k.recs.zip (ps.zip olds)).find? fun (r, p, o) =>
    match r with
    | .rounded _ size _ b => k.op == 7 && o != b.toNat % 2 ^ (8 * size) && ((activePath g).map fun q => q.mask.getLsbD p.lane).getD false
    | _ => false
  match failed with
  | some (_, p, _) => endTurnOf g p.lane
  | none => g

/-- Perform a rounded-form update with the line owned by the home (R259, R274): RET gives the old values to the group that
waits, else the crusher acknowledges. -/
def applyRounded (s : State) (h : Nat) (k : CruPacket) : State :=
  let (v, q, _) := homeValue s h k.line
  let be := k.recs.foldl (fun m r => m ||| recBe r) 0
  let (v', olds) := roundedRecords k.op k.fl k.recs v
  -- a sector that was poisoned stays so: the result is computed from it (R254)
  let s := homeStore s h k.line be v' q k.attr
  match accessOf s k.tag with
  | none => if k.ret then s else ackUpdate s k 0
  | some a =>
    let ends := fun (s : State) => modGroup s a.gid fun g => casEnds g k a.pieces olds
    if k.ret then
      let o := poisonIn (sectorsTouched be) q
      if o ≠ 0 then failAccess s k.tag o.toNat else dropAccess (ends (writeOlds s a.gid a.pieces olds)) k.tag
    else ackUpdate (ends s) k 0

/-- Open the line and add (R263, R264). -/
def applyAdd (s : State) (h : Nat) (k : CruPacket) : State :=
  let form := packetForm s k
  let s := contribute (openLine s h k form) h k
  let s := if form = .reduced then markReduced s k.task else s
  ackUpdate s k 0

/-- Does the close of a packet apply to an open line? CRU.CLOSE closes any line it names; a fence closes a line its task
opened without HO (R267, R278). -/
def closes (k : CruPacket) (l : OpenLine) : Bool := k.ho || (l.task == k.task && !l.ho)

/-- Is the packet a CLOSE-LINE (R268)? -/
def isClose (k : CruPacket) : Bool := k.op == 0xC

/-- An update whose line no proxy holds, by the collision rules of R274; a close of a line that is not open has no effect.
Ranges are checked when the packet arrives (R271). -/
def applyUpdate (s : State) (h : Nat) (k : CruPacket) : State :=
  match openAt (crusher s h) k.line with
  | none => if isClose k then ackUpdate s k 0 else if isRounded k then applyRounded s h k else applyAdd s h k
  | some l =>
    if isClose k then ackUpdate (if closes k l then closeOpen s h k.line else s) k 0
    else if isRounded k then applyRounded (closeOpen s h k.line) h k
    else if l.task = k.task then
      if sameForm l k then
        let s := contribute s h k
        let s := if l.form = .reduced then markReduced s k.task else s
        ackUpdate s k 0
      else ackUpdate s k 0x65
    else applyAdd (closeOpen s h k.line) h k

/-! ### Fills (R236, R237) -/

/-- Destination agents of a multicast fill (R184, R237). -/
def agentMemory : Nat := 0
def agentCores : Nat := 1
def agentSlice : Nat := 2

/-- Send the line to the requesters of a miss entry: one multicast for each mask that is not empty, to the proxies, the core groups
and the read caches, and a unicast to each other requester (R237). At a proxy the die mask is empty. -/
def sendFills (s : State) (i : Nat) (m : Miss) (v : Line) (p : W32) : State :=
  let here : BitVec 9 := bit9 (i / 16)
  let s := if m.dies = 0 then s
    else emit s (.fill "DATA_S" agentSlice (m.dies.setWidth 9) (bit16 (i % 16)) m.line v (cmpSectors (cmpOf v)) p (cmpOf v))
  let s := if m.cores = 0 then s else emit s (.fill "CLUSTER_FILL" agentCores here m.cores m.line v 0xF p 0)
  let s := if m.readCaches = 0 then s else emit s (.fill "CLUSTER_FILL" agentMemory here m.readCaches m.line v 0xF p 0)
  m.others.foldl (fun s t => sendRaw s "DATA_ONCE" t m.line v 0xF p) s

def dropMiss (s : State) (i line : Nat) : State :=
  modSlice s i fun sl => { sl with miss := dropWhere (fun m => m.line == line) sl.miss }

/-- No operation on the line is in progress any more: its tag and its filter entry are free (R230, R288). -/
def releaseHome (s : State) (h line : Nat) : State :=
  let sl := sliceOf s h
  if (findTxn sl line).isSome || (findMiss sl line).isSome then s else freeFilter (releaseLine s h line) h line

/-- A whole valid home copy, dirty in `dirty`. -/
def wholeHome (s : State) (h line : Nat) (v : Line) (q : W32) (dirty : BitVec 4) : State :=
  putHome s h { line, st := .home, valid := 0xF, dirty, data := v, poison := q }

/-- Keep the line whole at the home, with what an answer brought; not while a spoil entry stands, which keeps the data (R231,
R240). -/
def keepWhole (s : State) (h line : Nat) (buf : Option (Line × BitVec 4 × W32)) : State :=
  let (v, q, dirty) := homeData s h line buf
  let sl := sliceOf s h
  if sl.enabled && (findSpoil sl line).isNone then wholeHome s h line v q dirty else keepDirty s h line buf

/-- Data for a miss entry of a home slice: place the line, send the fills, close the entry (R237). -/
def homeFill (s : State) (h line : Nat) (buf : Option (Line × BitVec 4 × W32)) : State :=
  match findMiss (sliceOf s h) line with
  | none => s
  | some m =>
    let (v, q, _) := homeData s h line buf
    let s := sendFills (dropMiss (keepWhole s h line buf) h line) h m v q
    let s := if m.dies = 0 then s else setFilter s h line (filterMask (sliceOf s h) line ||| m.dies) false
    releaseHome s h line

/-! ### Serving requests (R294, R295) -/

/-- The dies to snoop, and with what (R295). Holders exclude the requester. -/
def snoopsFor (sl : Slice) (line : Nat) (r : HomeReq) : BitVec 8 × String :=
  let m := filterMask sl line
  let o := filterOwned sl line
  match r with
  | .rdS d => if o then (m &&& ~~~bit8 d, "SNP_S") else (0, "")
  | .rdE d => (m &&& ~~~bit8 d, "SNP_I")
  | .upg d => (m &&& ~~~bit8 d, "SNP_I")
  | .rdOnce _ => if o then (m, "SNP_R") else (0, "")
  | .wfwd d _ _ _ _ => (m &&& ~~~bit8 d, "SNP_I")
  | .update k => if isClose k then (0, "") else (m, "SNP_I")
  | .homeRead => if o then (m, "SNP_S") else (0, "")
  | .homeWrite _ => (m, "SNP_I")
  | .evict _ => (m, "BINV")

/-- Does the request end in a grant, which needs a filter entry (R289)? -/
def isGrant : HomeReq → Bool
  | .rdS _ => true
  | .rdE _ => true
  | .upg _ => true
  | _ => false

/-- Requests that may proceed while the home fetches the line for a core of its own die: they join its entry (R236). -/
def joinsMiss : HomeReq → Bool
  | .rdS _ => true
  | .rdOnce _ => true
  | .homeRead => true
  | .evict _ => true
  | _ => false

def grantOwner (s : State) (h line d : Nat) (buf : Option (Line × BitVec 4 × W32)) : State :=
  let (v, q, dirty) := homeData s h line buf
  let s := setFilter (freeHome s h line) h line (bit8 d) true
  sendData s (if dirty ≠ 0 then "DATA_M" else "DATA_E") d line v 0xF q

/-- A request joins the line's miss entry (R236). -/
def joinHome (s : State) (h line : Nat) (f : Miss → Miss) : State :=
  modSlice s h fun sl => { sl with miss := modWhere (fun m => m.line == line) f sl.miss }

/-- The outcome of a request once its answers are in (R295). -/
def finishReq (s : State) (h line : Nat) (r : HomeReq) (buf : Option (Line × BitVec 4 × W32)) : State :=
  let sl := sliceOf s h
  let fetching := (findMiss sl line).isSome && buf.isNone
  match r with
  | .rdS d =>
    if fetching then joinHome s h line fun m => { m with dies := m.dies ||| bit8 d }
    else
      let (v, q, _) := homeData s h line buf
      sendData (setFilter (keepWhole s h line buf) h line (filterMask sl line ||| bit8 d) false) "DATA_S" d line v 0xF q
  | .rdE d => grantOwner s h line d buf
  | .upg d =>
    if filterMask sl line &&& bit8 d ≠ 0 && !filterOwned sl line then
      let (_, _, dirty) := homeData s h line buf
      let s := setFilter (freeHome s h line) h line (bit8 d) true
      emit s (.coh (if dirty ≠ 0 then "GRANT_M" else "GRANT_E") d line)
    else grantOwner s h line d buf
  | .rdOnce tag =>
    if fetching then joinHome s h line fun m => { m with others := m.others ++ [tag] }
    else
      let (v, q, _) := homeData s h line buf
      -- the spoil entry that may have answered SNP_R is gone: its data goes to memory (R296; DESIGN CHOICE, log 93)
      let s := match buf with
        | some (d, m, p) => memStoreLine s line m d p
        | none => s
      sendRaw s "DATA_ONCE" tag line v 0xF q
  | .wfwd d tag attr be data =>
    let s := homeStore (keepDirty s h line buf) h line be data 0 attr
    emit (setFilter s h line (filterMask sl line &&& bit8 d) (filterOwned sl line)) (.ack (.access tag) 0)
  | .update k => applyUpdate (keepDirty s h line buf) h k
  | .homeRead => homeFill s h line buf
  | .homeWrite tag =>
    match accessOf s tag with
    | none => keepDirty s h line buf
    | some a => dropAccess (homeStore (keepDirty s h line buf) h line a.be a.data 0 a.attr) tag
  | .evict _ => setFilter (keepDirty s h line buf) h line 0 false

/-- Does a request need the line's tag and slots at the home: its data, or that of an open line or of an owner, is placed there
(R231, R294, R295)? A spoil entry takes the data instead (R240). -/
def needsTag (s : State) (h line : Nat) (r : HomeReq) : Bool :=
  let sl := sliceOf s h
  let hit := ((findLine sl line).map fun c => c.valid != 0).getD false
  let open' := openAt (crusher s h) line
  let wants :=
    match r with
    | .rdS _ => true
    | .homeRead => true
    | .homeWrite tag => hit || ((accessOf s tag).map fun a => a.attr == 0).getD false
    | .wfwd .. => hit
    | .update k => isRounded k && !isClose k && (hit || k.attr == 0)
    | .evict _ => filterOwned sl line
    | _ => false
  -- an owner's data comes home, except where it goes on to a new owner
  let home := match r with
    | .rdE _ => false
    | .upg _ => false
    | .rdOnce _ => false
    | _ => filterOwned sl line
  let closing := match r with
    | .update k => (open'.map fun l => isClose k || isRounded k || l.task != k.task).getD false
    | _ => open'.isSome
  sl.enabled && (findSpoil sl line).isNone && (wants || home || closing)

/-- Start a request, or `none` when it must wait (R294): an earlier transaction on the line, no transaction entry, no filter
entry, no tag or slots, a spilled crusher line, a fetch in progress that it cannot join, or the loss of the domain (R302).
(DESIGN CHOICE, log 39) -/
def startReq (s : State) (h line : Nat) (r : HomeReq) : Option State :=
  let sl := sliceOf s h
  let spilled := ((openAt (crusher s h) line).map (·.spilled)).getD false
  let miss := findMiss sl line
  let othersFull := match r with
    | .rdOnce _ => (miss.map fun m => decide (8 ≤ m.others.length)).getD false
    | _ => false
  if s.restart.fatal || (findTxn sl line).isSome || 64 ≤ sl.txns.length || spilled || (miss.isSome && !joinsMiss r) || othersFull then none
  else if isGrant r && !filterRoom s h line then none
  else
    match if needsTag s h line r then holdLine s h line else some s with
    | none => none
    | some s =>
      -- a reducing line closes first (R295); an update meets it in the crusher
      let s := match r with
        | .update _ => s
        | _ => closeOpen s h line
      let s := reserveFilter s h line (isGrant r)
      let sl := sliceOf s h
      let (mask, name) := snoopsFor sl line r
      if mask = 0 then
        match r with
        | .homeRead =>
          -- nothing to snoop: the line comes from the home copy, or memory is read (R236)
          if (((findLine sl line).map (·.valid)).getD 0) = 0xF#4 then some (homeFill s h line none)
          else some (emit (joinHome s h line fun m => { m with sent := true, since := (die s (h / 16)).time.toNat }) (.memRead h line))
        | _ => some (releaseHome (finishReq s h line r none) h line)
      else
        some (emit (modSlice s h fun sl => { sl with txns := sl.txns ++ [{ line, req := r, awaiting := mask, since := (die s (h / 16)).time.toNat }] }) (.snoop name mask line))

/-- A full filter set loses its victim to a request that needs an entry (R289). -/
def makeEntry (s : State) (h line : Nat) : State :=
  if filterRoom s h line then s
  else
    match filterVictim s h line with
    | none => s
    | some f => (startReq s h f.line (.evict line)).getD s

/-- A request that the home has accepted starts, or waits behind earlier ones for its line. -/
def homeTake (s : State) (h line : Nat) (r : HomeReq) : State :=
  let wait := fun (s : State) => modSlice s h fun sl => { sl with waiting := sl.waiting ++ [(line, r)] }
  if (sliceOf s h).waiting.any fun (l, _) => l == line then wait s
  else
    match startReq s h line r with
    | some s' => s'
    | none => if isGrant r then makeEntry (wait s) h line else wait s

/-- Serve the waiting requests again, in their order of arrival. -/
def serveWaiting (s : State) (h : Nat) : State :=
  let w := (sliceOf s h).waiting
  w.foldl (fun s (l, r) => homeTake s h l r) (modSlice s h fun sl => { sl with waiting := [] })

/-- A miss entry whose fetch fails: it closes, and the accesses it was opened for fail with the code. -/
def failMiss (s : State) (i line code : Nat) : State :=
  match findMiss (sliceOf s i) line with
  | none => s
  | some m =>
    let s := releaseLine (dropMiss s i line) i line
    let mine := (s.accs.filter fun a => a.line == line && a.failed == 0 && gidDie a.gid == i / 16 && (a.kind == .load && a.got.isNone || m.stores.contains a.tag)).map (·.tag)
    let s := { s with clusters := s.clusters.map fun (c, x) => (c, if c / 16 = i / 16 then { x with reads := x.reads.filter fun (l, _) => l ≠ line } else x) }
    mine.foldl (fun s t => failAccess s t code) s

/-- The code of R26 that a request meets on its arrival at the home, by the partition that makes it where the request names one
(R26, R27). -/
def arrivalCode (s : State) (line : Nat) (r : HomeReq) : Option Nat :=
  let ofPart := fun (p : Option Nat) (write : Bool) =>
    match p with
    | some p => accessCheck s p (128 * line) write true
    | none => if inService s (128 * line) then none else some 0x1F
  let ofTag := fun (t : Nat) => (accessOf s t).bind fun a => (group s a.gid).map (·.part)
  match r with
  | .rdOnce tag => ofPart (ofTag tag) false
  | .wfwd _ tag _ _ _ => ofPart (ofTag tag) true
  | .homeWrite tag => ofPart (ofTag tag) true
  | .update k => if isClose k then none else ofPart (some k.part) true
  | .evict _ => none
  | _ => ofPart none false

/-- The answer of a home that an access reaches after its memory went out of service: the accessing groups fault with the code. The
answers of RD_S, RD_E and UPG have no status of their own, so their accesses take it in this step (R27; DESIGN CHOICE, log 92). -/
def refuseReq (s : State) (h line : Nat) (r : HomeReq) (code : Nat) : State :=
  let proxy := fun (d : Nat) => failMiss s (16 * d + h % 16) line code
  match r with
  | .rdS d => proxy d
  | .rdE d => proxy d
  | .upg d => proxy d
  | .rdOnce tag => emit s (.front "DATA_ONCE_STATUS" tag (code - 0x10))
  | .wfwd _ tag _ _ _ => emit s (.ack (.access tag) (code - 0x10))
  | .update k => ackUpdate s k code
  | .homeRead => failMiss s h line code
  | .homeWrite tag => failAccess s tag code
  | .evict _ => s

/-- A request arrives at the home: it is checked (R26, R27), then it starts or waits. -/
def homeArrive (s : State) (h line : Nat) (r : HomeReq) : State :=
  match arrivalCode s line r with
  | some c => refuseReq s h line r c
  | none => homeTake s h line r

/-- End a transaction with its outcome, then serve what waited (R294). -/
def endTxn (s : State) (h : Nat) (t : Txn) : State :=
  let s := modSlice s h fun sl => { sl with txns := dropWhere (fun x => x.line == t.line) sl.txns }
  serveWaiting (releaseHome (finishReq s h t.line t.req t.data) h t.line) h

/-- State that a snoop leaves a copy in (R293): S after SNP_S, unchanged after SNP_R, else I. -/
inductive Leaves where
  | invalid | shared | same
  deriving DecidableEq, Repr

def leavesOf : HomeReq → Leaves
  | .rdS _ => .shared
  | .homeRead => .shared
  | .rdOnce _ => .same
  | _ => .invalid

/-- An answer of die `d` to a snoop (R294, R296): what it brought, and the state of its copy after it. -/
def snoopAnswer (s : State) (h line d : Nat) (data : Option (Line × BitVec 4 × W32)) (left : Leaves) : State :=
  let sl := sliceOf s h
  match findTxn sl line with
  | none => s
  | some t =>
    if !t.awaiting.getLsbD d then s
    else
      -- the first of WB and SDATA supplies the data (R296)
      let held := match t.data with
        | some x => some x
        | none => if t.settled then none else data
      let t := { t with awaiting := t.awaiting &&& ~~~bit8 d, data := held, sent := none }
      let m := filterMask sl line
      let s := match left with
        | .invalid => setFilter s h line (m &&& ~~~bit8 d) false
        | .shared => setFilter s h line m false
        | .same => s
      if t.awaiting = 0 then endTxn s h t
      else modSlice s h fun sl => { sl with txns := modWhere (fun x => x.line == line) (fun _ => t) sl.txns }

end Sys2Proof.Machine
end

