-- ==== Sys2Proof/Machine/Slices.lean ====
section
/-! DEFINITION. A slice as the cores of its die reach it, and as a proxy of lines homed elsewhere: R223, R231, R232, R235 to
R240, R248, R286, R293, R295 to R297. -/

namespace Sys2Proof.Machine

/-! ### Miss entries (R236) -/

def modMiss (s : State) (i line : Nat) (f : Miss → Miss) : State :=
  modSlice s i fun sl => { sl with miss := modWhere (fun m => m.line == line) f sl.miss }

/-- The bit of a cluster's node in a miss entry. -/
def nodeBit (cl : Nat) : BitVec 16 := bit16 (cl % 16)

/-- Send the request of a miss entry towards the home: RD_S, RD_E or UPG from a proxy (R295). -/
def sendRequest (s : State) (i line : Nat) : State :=
  let sl := sliceOf s i
  match findMiss sl line with
  | none => s
  | some m =>
    let held := ((findLine sl line).map fun c => c.valid ≠ 0 && c.st == .s).getD false
    let name := if m.stores.isEmpty then "RD_S" else if held then "UPG" else "RD_E"
    emit (modMiss s i line fun m => { m with sent := true, since := (die s (i / 16)).time.toNat }) (.coh name (i / 16) line)

/-- Open or join a miss entry; a new one holds the line's tag and sends its request. `none` where the request must wait: 256 entries
are in use, a spoil entry of the line stands, or no tag can be held (R230, R236, R296). -/
def joinMiss (s : State) (i h line : Nat) (add : Miss → Miss) : Option State :=
  let sl := sliceOf s i
  match findMiss sl line with
  | some _ => some (modMiss s i line add)
  | none =>
    let opened := fun (s : State) => modSlice s i fun sl => { sl with miss := sl.miss ++ [add { line }] }
    if (findSpoil sl line).isSome || 256 ≤ sl.miss.length then none
    else if i = h then some (homeArrive (opened s) h line .homeRead)
    else (holdLine s i line).map fun s => sendRequest (opened s) i line

/-- An access waits at the slice input. -/
def stall (s : State) (i tag : Nat) : State := modSlice s i fun sl => { sl with stalled := sl.stalled ++ [tag] }

/-- An earlier access to the line waits at the slice input. -/
def stalledLine (s : State) (i line : Nat) : Bool :=
  (sliceOf s i).stalled.any fun t => ((accessOf s t).map fun a => a.line == line).getD false

/-! ### Read-only caches (R167, R248) -/

/-- Sets and ways: an L1 has 128 sets of 8; the read cache has 16 ways in what the local store leaves (R164, R167, R248). -/
def roSets (x : Cluster) (core : Nat) : Nat := if core < 12 then 128 else (6 - x.ls) * 512
def roWays (core : Nat) : Nat := if core < 12 then 8 else 16

/-- Set of a line: the low bits of its number in an L1 (DESIGN CHOICE, log 94), a hash in the read cache (R167). -/
def roSet (x : Cluster) (core line : Nat) : Nat := (if core < 12 then line else Config.roHash line) % roSets x core

/-- The ways of a set other than the line's own; with every way taken the line held longest goes (DESIGN CHOICE, log 23). -/
def roRoom (x : Cluster) (core line : Nat) : List RoLine :=
  let rest := dropWhere (fun r => r.core == core && r.line == line) x.ro
  if (rest.filter fun r => r.core == core).length < roWays core then rest
  else
    let same := fun (r : RoLine) => r.core == core && roSet x core r.line == roSet x core line
    if (rest.filter same).length < roWays core then rest
    else
      match rest.find? same with
      | some old => rest.erase old
      | none => rest

/-- Fill a read-only cache, unless it is disabled or has no sets (R250, R167). -/
def roFill (x : Cluster) (core line : Nat) (d : Line) : Cluster :=
  if !x.roEnabled || roSets x core = 0 then x else { x with ro := roRoom x core line ++ [{ core, line, data := d }] }

/-- L1, then the cluster read cache when L is below 6 MiB (R248). -/
def roLookup (x : Cluster) (core line : Nat) : Option Line :=
  match x.ro.find? fun r => r.core == core && r.line == line with
  | some r => some r.data
  | none => if x.ls < 6 then (x.ro.find? fun r => r.core == 12 && r.line == line).map (·.data) else none

/-- Both caches take a line read through an RO page (R235). -/
def roFillBoth (s : State) (cl core line : Nat) (d : Line) : State :=
  modCluster s cl fun x => roFill (roFill x core line d) 12 line d

def invalidateRo (s : State) (cl : Nat) : State := modCluster s cl fun x => { x with ro := [] }

/-! ### Loads (R231, R240) -/

/-- Core of a group. -/
def gidCore (g : Nat) : Nat := g / 32 % 12

/-- Deliver a line to a load. -/
def deliver (s : State) (a : Access) (d : Line) (p : W32) : State :=
  let s := if a.attr = 4 && p = 0 then roFillBoth s (gidCluster a.gid) (gidCore a.gid) a.line d else s
  finishLoad s a d p

/-- Loads of a cluster that wait for a line. -/
def attached (s : State) (cl line : Nat) : List Access :=
  s.accs.filter fun a => gidCluster a.gid == cl && a.kind == .load && a.line == line && a.failed == 0 && a.got.isNone

/-- The answer to a cluster's read of a line: every load attached to it is served that touches sectors carried only; `again` takes
the others, whose read is made anew (R235). -/
def answerCluster (s : State) (cl line : Nat) (d : Line) (sectors : BitVec 4) (p : W32) (again : State → Nat → State) : State :=
  let s := modCluster s cl fun x => { x with reads := x.reads.filter fun (l, _) => l ≠ line }
  (attached s cl line).foldl (fun s a => if pieceSectors a.pieces &&& ~~~sectors = 0 then deliver s a d p else again s a.tag) s

/-- A cluster has a read of the line outstanding (R235). -/
def readOut (s : State) (cl line : Nat) : Bool := (cluster s cl).reads.any fun (l, _) => l == line

/-- The slice holds the line, or a miss entry of it. -/
def hasLine (sl : Slice) (line : Nat) : Bool :=
  ((findLine sl line).map fun c => c.valid != 0).getD false || (findSpoil sl line).isSome || (findMiss sl line).isSome

/-- The load of one line of memory at the slice that R223 selects; the cluster's read of the line is outstanding. -/
def loadAtSlice (s : State) (a : Access) (i h : Nat) : State :=
  let cl := gidCluster a.gid
  let sl := sliceOf s i
  let need := pieceSectors a.pieces
  let answer := fun (s : State) (d : Line) (valid : BitVec 4) (p : W32) =>
    answerCluster s cl a.line d valid p fun s t => stall (modCluster s cl fun x => { x with reads := x.reads ++ [(a.line, t)] }) i t
  let once := fun (s : State) => emit s (.unc "RD_ONCE" a.tag a.line)
  -- a disabled slice allocates nothing, and serves what it has not yet written out (R250, R291)
  if !sl.enabled && !hasLine sl a.line then once s
  -- the line's tag is busy at its home (R294)
  else if i = h && (findTxn sl a.line).isSome then stall s i a.tag
  else
    match findSpoil sl a.line with
    | some e => if need &&& ~~~e.valid = 0 then answer s e.data e.valid e.poison else stall s i a.tag
    | none =>
      match (findLine sl a.line).filter fun c => need &&& ~~~c.valid = 0 with
      | some c =>
        -- a pinned line serves every attribute (R247)
        if a.attr = 3 && c.pins = 0 then once s else answer (touchLine s i a.line) c.data c.valid c.poison
      | none =>
        if a.attr = 3 then once s
        else
          -- an RO line is filled through the read cache where the cluster has one (R236)
          let add := fun (m : Miss) =>
            if a.attr = 4 && (cluster s cl).ls < 6 then { m with readCaches := m.readCaches ||| nodeBit cl }
            else { m with cores := m.cores ||| nodeBit cl }
          (joinMiss s i h a.line add).getD (stall s i a.tag)

/-- Name of the uncached read and write messages of a target (R346). -/
def uncName (variant pa : Nat) (write : Bool) : String :=
  match target variant pa with
  | .window _ _ => if write then "WR_WIN" else "RD_WIN"
  | .register _ => if write then "WR_REG" else "RD_REG"
  | _ => if write then "WR_REM" else "RD_REM"

/-- Send a cluster's read of a line: to the slice, or as an uncached read to the target (R221, R346). -/
def sendRead (s : State) (a : Access) : State :=
  let s := modCluster s (gidCluster a.gid) fun x => { x with reads := x.reads ++ [(a.line, a.tag)] }
  match target s.variant (128 * a.line) with
  | .face _ _ | .stock _ =>
    match coreSlice s.variant (gidDie a.gid) (128 * a.line), homeSlice s.variant (128 * a.line) with
    | some i, some h => loadAtSlice s a i h
    | _, _ => s
  | _ => emit s (.unc (uncName s.variant (128 * a.line) false) a.tag a.line)

/-- Perform one load access: from a read-only cache, attached to a read of the line that is outstanding, or by a read of its own
(R235, R248). -/
def performLoad (s : State) (tag : Nat) : State :=
  match accessOf s tag with
  | none => s
  | some a =>
    match if a.attr = 4 then roLookup (cluster s (gidCluster a.gid)) (gidCore a.gid) a.line else none with
    | some d => finishLoad s a d 0
    | none => if readOut s (gidCluster a.gid) a.line then s else sendRead s a

/-! ### Stores (R231, R232, R240) -/

/-- Merge a store into a copy, in the layout its new content asks for; `none` while no room can be made for a longer one (R227,
R241). -/
def mergeCopy (s : State) (i : Nat) (a : Access) (f : CLine → CLine) : Option State :=
  match findLine (sliceOf s i) a.line with
  | none => some s
  | some c => placeLine s i (f { c with data := mergeLine a.be a.data c.data, poison := writePoison a.be c.poison })

/-- A store into a copy in E or M, which enters M (R286). -/
def writeCopy (s : State) (i : Nat) (a : Access) : Option State :=
  mergeCopy s i a fun c => { c with st := .m, valid := c.valid ||| sectorsTouched a.be, dirty := c.dirty ||| sectorsTouched a.be }

/-- Merge a store into a spoil entry that is not departing (R240). -/
def writeSpoil (s : State) (i : Nat) (a : Access) : State :=
  let upd := fun (e : Spoil) => { e with data := mergeLine a.be a.data e.data, poison := writePoison a.be e.poison,
                                         valid := e.valid ||| sectorsTouched a.be, dirty := e.dirty ||| sectorsTouched a.be }
  modSlice s i fun sl => { sl with spoil := modWhere (fun e => e.line == a.line && !e.departing) upd sl.spoil }

def forwardWrite (s : State) (a : Access) : State := emit s (.unc "WFWD" a.tag a.line)

def storeAtSlice (s : State) (a : Access) (i h : Nat) : State :=
  if i = h then homeArrive s h a.line (.homeWrite a.tag)
  else
    let sl := sliceOf s i
    let wait := stall s i a.tag
    let join := (joinMiss s i h a.line fun m => { m with stores := m.stores ++ [a.tag] }).getD wait
    -- a write-through or uncached write of a copy also goes to the home (R231, R247, R295)
    let through := fun (o : Option State) => (o.map fun s => forwardWrite s a).getD wait
    if !sl.enabled && !hasLine sl a.line then forwardWrite s a
    else if stalledLine s i a.line then wait
    else
      match findSpoil sl a.line with
      -- a store that meets a departing entry proceeds as a miss once it is freed (R240)
      | some e => if e.departing then wait else dropAccess (writeSpoil s i a) a.tag
      | none =>
        match (findLine sl a.line).filter fun c => c.valid ≠ 0 with
        | some c =>
          match c.st with
          | .s => if a.attr = 1 || a.attr = 3 then through (mergeCopy s i a fun c => c) else join
          | _ =>
            if (a.attr = 1 || a.attr = 3) && c.pins ≠ 0 then through (mergeCopy s i a fun c => c)
            else ((writeCopy s i a).map fun s => dropAccess s a.tag).getD wait
        | none =>
          if a.attr = 0 then join
          -- a fill under way would lack the bytes of a forwarded write
          else if (findMiss sl a.line).isSome then wait
          else forwardWrite s a

/-- Perform one store access: at a slice, or as an uncached write at its target. -/
def performStore (s : State) (tag : Nat) : State :=
  match accessOf s tag with
  | none => s
  | some a =>
    match target s.variant (128 * a.line) with
    | .face _ _ | .stock _ =>
      match coreSlice s.variant (gidDie a.gid) (128 * a.line), homeSlice s.variant (128 * a.line) with
      | some i, some h => storeAtSlice s a i h
      | _, _ => s
    | _ => emit s (.unc (uncName s.variant (128 * a.line) true) tag a.line)

/-! ### Answers that reach a proxy (R293, R295) -/

/-- The proxy slice of a die for a line (R223). -/
def proxyOf (s : State) (d line : Nat) : Option Nat :=
  (homeSlice s.variant (128 * line)).map fun h => 16 * d + h % 16

/-- Perform the stores that waited for write permission; the line is held, so it has the slots for any layout. -/
def serveStores (s : State) (i : Nat) (tags : List Nat) : State :=
  tags.foldl (fun s t =>
    match accessOf s t with
    | some a => dropAccess ((writeCopy s i a).getD s) t
    | none => s) s

/-- A copy that arrives at a slice which is disabled is given back: DROP, or WB with what is dirty (R291). -/
def giveBack (s : State) (i line : Nat) (st : CohState) (d : Line) (p : W32) : State :=
  if st = .m then
    sendData (modSlice s i fun sl => { sl with spoil := sl.spoil ++ [{ line, data := d, valid := 0xF, dirty := 0xF, poison := p, departing := true }] })
      "WB" (i / 16) line d 0xF p
  else emit s (.coh "DROP" (i / 16) line)

/-- A grant or a fill in state `st`: the line is placed, then the miss entry's loads and stores are served; a fill in S with
stores waiting asks for the upgrade (R237, R295). -/
def proxyFill (s : State) (i line : Nat) (st : CohState) (d : Line) (p : W32) : State :=
  let c : CLine := { line, st, valid := 0xF, dirty := if st = .m then 0xF else 0, data := d, poison := p }
  let m := (findMiss (sliceOf s i) line).getD { line }
  if !(sliceOf s i).enabled then
    let s := giveBack (sendFills (dropMiss s i line) i m d p) i line st d p
    m.stores.foldl (fun s t => ((accessOf s t).map fun a => forwardWrite s a).getD s) s
  else
    let s := sendFills ((placeLine s i c).getD s) i m d p
    if st = .s && !m.stores.isEmpty then
      sendRequest (modMiss s i line fun m => { m with cores := 0, readCaches := 0, others := [] }) i line
    else releaseLine (serveStores (dropMiss s i line) i m.stores) i line

/-- GRANT_E or GRANT_M: the S copy becomes writable; a miss entry's stores are performed (R293). -/
def proxyGrant (s : State) (i line : Nat) (dirty : Bool) : State :=
  match (findLine (sliceOf s i) line).filter fun c => c.valid ≠ 0 with
  | none => s
  | some c =>
    let s := setLine s i { c with st := if dirty then .m else .e, dirty := if dirty then 0xF else 0 }
    match findMiss (sliceOf s i) line with
    | none => s
    | some m => releaseLine (serveStores (dropMiss s i line) i m.stores) i line

/-! ### What waits at a slice -/

/-- Try an access that waits at the slice input again. -/
def retryAccess (s : State) (i tag : Nat) : State :=
  match accessOf s tag with
  | none => s
  | some a =>
    match homeSlice s.variant (128 * a.line) with
    | none => s
    | some h => if a.kind = .load then loadAtSlice s a i h else storeAtSlice s a i h

/-- Something was freed at a slice: what waits at its home agent and at its input is tried again, in order of arrival (R230, R236,
R240, R241, R294). -/
def wake (s : State) (i : Nat) : State :=
  let s := serveWaiting (drainStep s i) i
  (sliceOf s i).stalled.foldl (fun s t => retryAccess s i t) (modSlice s i fun sl => { sl with stalled := [] })

/-! ### Snoops at a proxy (R293, R296, R297) -/

/-- SDATA leaves a holder: until it arrives the home's transaction knows of it (R299). -/
def sendSdata (s : State) (d line : Nat) (v : Line) (dirty : BitVec 4) (p : W32) : State :=
  let s := match homeSlice s.variant (128 * line) with
    | some h => modSlice s h fun sl => { sl with txns := modWhere (fun t => t.line == line) (fun t => { t with sent := some (v, dirty, p) }) sl.txns }
    | none => s
  sendData s "SDATA" d line v dirty p

/-- A spoil entry answers a snoop with SDATA; one that is not departing is removed without a write-out (R296). -/
def snoopSpoil (s : State) (i d line : Nat) (e : Spoil) : State :=
  let s := if e.departing then s else
    modSlice s i fun sl => { sl with spoil := dropWhere (fun x => x.line == line && !x.departing) sl.spoil }
  sendSdata s d line e.data e.dirty e.poison

/-- Answer a snoop that invalidates: SNP_I and BINV. -/
def snoopInvalidate (s : State) (i d line : Nat) : State :=
  let sl := sliceOf s i
  match findSpoil sl line with
  | some e => snoopSpoil s i d line e
  | none =>
    match (findLine sl line).filter fun c => c.valid ≠ 0 with
    | none => emit s (.coh "SACK_I" d line)
    | some c =>
      let s := loseLine s i line
      if c.dirty ≠ 0 then sendSdata s d line c.data c.dirty c.poison else emit s (.coh "SACK_I" d line)

/-- Answer SNP_S: the owner keeps the line in S, clean. -/
def snoopShare (s : State) (i d line : Nat) : State :=
  let sl := sliceOf s i
  match findSpoil sl line with
  | some e => snoopSpoil s i d line e
  | none =>
    match (findLine sl line).filter fun c => c.valid ≠ 0 with
    | none => emit s (.coh "SACK_I" d line)
    | some c =>
      let s := setLine s i { c with st := .s, dirty := 0 }
      if c.dirty ≠ 0 then sendSdata s d line c.data c.dirty c.poison else emit s (.coh "SACK_S" d line)

/-- Answer SNP_R: the data, with the state unchanged. -/
def snoopRead (s : State) (i d line : Nat) : State :=
  let sl := sliceOf s i
  match findSpoil sl line with
  | some e => snoopSpoil s i d line e
  | none =>
    match (findLine sl line).filter fun c => c.valid ≠ 0 with
    | none => emit s (.coh "SACK_I" d line)
    | some c => sendSdata s d line c.data c.dirty c.poison

/-- A read, write or update answered with a status other than 0 fails with the code R347 forms. -/
def statusCode (uncached : Bool) (st : Nat) : Nat := if uncached then 0x10 + st else 0x90 + st

end Sys2Proof.Machine
end

