-- ==== Sys2Proof/Machine/Tick.lean ====
section
/-! DEFINITION. What passes with time when no command waits (DESIGN CHOICE, log 5): the counters of R52, R56 and R59. -/

namespace Sys2Proof.Machine

/-- Port reference in 0.1 ns steps of 10 ns: a cycle of 6.4 ns advances the count by 64 (R56, R448). -/
def tickPort (s : State) : State :=
  let ph := s.portPhase + 100
  { s with portTime := s.portTime + BitVec.ofNat 64 (ph / 64 * 64), portPhase := ph % 64 }

/-- Ticks of a die's oscillator in 10 ns of the IOD's: one, more or fewer where the two drift apart; no mechanism aligns them (R52, R53;
DESIGN CHOICE, log 107). -/
def oscTicks (d : Nat) (u : Die) : Nat := if d = 8 then 1 else Config.oscTicks d u.time.toNat

/-- A die's counter, while its oscillator runs; tokens withheld after a droop are not made up (R49, R52, R55). -/
def tickDie (d : Nat) (u : Die) : Die :=
  if !u.oscOk then u
  else { u with time := u.time + BitVec.ofNat 64 (oscTicks d u), metered := if u.withholding then u.metered else u.metered + oscTicks d u }

/-- 10 ns pass on the dies of the variant and the IOD (R52). -/
def tickDies (s : State) : State :=
  (List.range 9).foldl (fun s d => if d = 8 || d < dieCount s.variant then modDie s d (tickDie d) else s) s

/-- An empty queue lets 10 ns pass while the module has power and is out of reset (DESIGN CHOICE, log 5). -/
def tick (s : State) : State := if s.power.stage = .running || s.power.stage = .cold then tickDies (tickPort s) else s

end Sys2Proof.Machine
end

