-- ==== Sys2Proof/Machine/Meter.lean ====
section
/-! DEFINITION. The token meters of the cores, the spacing of matrix steps and the activity of clusters: R39, R48, R49, R115, R456,
R457. -/

namespace Sys2Proof.Machine

/-- f in force on a compute die: the smallest of what the loop, the supply warning, the temperatures and droop set (R460, R467). -/
def issueFraction (s : State) (d : Nat) : Nat :=
  Nat.min (Nat.min (die s d).fLoop (die s d).fTherm) (if s.power.hot then 16 else 64)

def meterOf (s : State) (gid : Nat) : Meter := look {} (cluster s (gidCluster gid)).meters (gidCore gid)
def modMeter (s : State) (gid : Nat) (f : Meter → Meter) : State :=
  modCluster s (gidCluster gid) fun x => { x with meters := put {} x.meters (gidCore gid) (f (look {} x.meters (gidCore gid))) }

/-- Issue tokens that a core's meter holds: 20 more for each tick that its meter counts, 40 at most (R48). -/
def tokens (s : State) (gid : Nat) : Nat := 40 - ((meterOf s gid).full - 20 * (die s (gidDie gid)).metered)

/-- The core may issue: unpaced, or with a token (R48). -/
def hasToken (s : State) (gid : Nat) : Bool := !s.image.paced || decide (0 < tokens s gid)

/-- A step of the core that issues: it uses a token in paced mode (R48). The two instructions of a step are not told apart from those of
two steps. (DESIGN CHOICE, log 106) -/
def takeToken (s : State) (gid : Nat) : State :=
  let u := die s (gidDie gid)
  modMeter s gid fun m =>
    { m with step := Nat.max (m.step + 1) (20 * u.time.toNat),
             full := if s.image.paced then Nat.max m.full (20 * u.metered) + 1 else m.full }

/-- The group's instruction has issued: its turn has advanced, or it has left. -/
def hasIssued (s r : State) (gid : Nat) : Bool := (group s gid).map (·.steps) != (group r gid).map (·.steps)

/-- What an issued instruction costs the core, `r` being the state it leaves: a token, and, where that was the last, a wait of a tick
for more (R48; DESIGN CHOICE, log 106). -/
def paid (s : State) (gid : Nat) (r : State) : State :=
  if hasIssued s r gid then
    let t := takeToken r gid
    if hasToken t gid then t else tick t
  else r

/-- Step numbers of the core's latest matrix steps once `n` more are issued from step `now` on: one at a time, at most `f` of any 64
consecutive steps (R115, R456). -/
def spaced (f now : Nat) : Nat → List Nat → List Nat
  | 0, l => l
  | n + 1, l =>
    let next := Nat.max now ((l.getLast?.map (· + 1)).getD 0)
    let k := if f ≤ l.length then Nat.max next (l.getD (l.length - f) 0 + 64) else next
    spaced f now n ((l ++ [k]).drop (l.length - 63))

/-- An MMA issues `n` matrix steps on its core, of the input formats `fa` and `fb`: their places, and what power control counts (R456,
R457). -/
def matrixIssue (s : State) (gid fa fb n : Nat) : State :=
  let now := Nat.max ((meterOf s gid).step + 1) (20 * (die s (gidDie gid)).time.toNat)
  let s := modMeter s gid fun m => { m with matrix := spaced (issueFraction s (gidDie gid)) now n m.matrix }
  modCluster s (gidCluster gid) fun x =>
    { x with activity := put 0 x.activity (16 * fa + fb) (look 0 x.activity (16 * fa + fb) + n) }

end Sys2Proof.Machine
end

