-- ==== Sys2Proof/Machine/Issue.lean ====
section
/-! DEFINITION. Translation (R153 to R156), and what every instruction of a group has in common: residency, the fetch check of
R133 and R155, the order of faults of R548, readiness (R141, R142, R336, R340), register ECC (R127), and the path's next
instruction (R146). -/

namespace Sys2Proof.Machine
open Sys2Proof.Num

/-! ### Translation -/

/-- Why an address is translated (R155). -/
inductive Use where
  | fetch | load | store
  deriving DecidableEq, Repr

inductive Xlate where
  | ok (pa attr : Nat) (e : TlbEntry) (ptrs : List PtrEntry)
  | fault (code : Nat)
  deriving DecidableEq, Repr

/-- The last checks of R155, at the leaf, and the store to an RO page of R231. -/
def permFault (e : TlbEntry) (u : Use) : Option Nat :=
  match u with
  | .fetch => if e.x then none else some 0x16
  | .store => if e.w && e.attr ≠ 4 then none else some 0x15
  | .load => none

/-- Checks 0x12 to 0x17 of one entry at a level (R153 to R155). -/
def entryFault (level e va : Nat) : Option Nat :=
  let leaf := e / 2 % 2 = 1
  let attr := field e 8 6
  if e % 2 = 0 then some 0x11
  else if field e 63 50 ≠ 0 || field e 11 9 ≠ 0 || field e 3 3 ≠ 0 || (level ≠ 4 && field e 2 2 ≠ 0) || (!leaf && field e 11 2 ≠ 0) then
    some 0x12
  else if (leaf && level ≤ 2) || (!leaf && level = 4) then some 0x13
  else if !leaf then none
  else if (level = 3 && field e 20 12 ≠ 0) || (level = 4 && field e 2 2 = 1 && field e 15 12 ≠ field va 15 12) then some 0x14
  else if 5 ≤ attr || (field e 5 5 = 1 && attr ≠ 4) then some 0x17
  else none

/-- The leaf entry as a translation unit caches it. -/
def leafEntry (part ctx level e va : Nat) : TlbEntry :=
  let pages := if level = 3 then 512 else 1
  { ctx, part, vpage := va / 4096 / pages * pages, pages, pa := field e 49 12 * 4096, attr := field e 8 6,
    x := field e 5 5 = 1, w := field e 4 4 = 1 }

def entryPa (e : TlbEntry) (va : Nat) : Nat := e.pa + (va - e.vpage * 4096)

/-- The virtual-address bits that a table-pointer entry of a level is selected by. -/
def ptrIndex (level va : Nat) : Nat := va >>> (48 - 9 * level)

/-- A cached table pointer (R156). -/
def ptrFind (s : State) (cl part ctx level va : Nat) : Option PtrEntry :=
  (cluster s cl).ptrs.find? fun e => e.part == part && e.ctx == ctx && e.level == level && e.index == ptrIndex level va

/-- Walk from `level` down, `k` levels at most, reading 8-byte entries that are not cached; `ps` are the pointers read (R153,
R155, R156). -/
def walk (s : State) (cl part ctx va : Nat) (u : Use) : Nat → Nat → Nat → List PtrEntry → Xlate
  | 0, _, _, _ => .fault 0x13
  | k + 1, level, table, ps =>
    match ptrFind s cl part ctx level va with
    | some e => walk s cl part ctx va u k (level + 1) e.table ps
    | none =>
    let ea := table + 8 * field va (47 - 9 * (level - 1)) (39 - 9 * (level - 1))
    match accessCheck s part ea false (regShape ea 8) with
    | some _ => .fault 0x19
    | none =>
      if poisonPhys s ea 8 ≠ 0 then .fault 0x1A
      else
        let e := readPhysLE s ea 8
        match entryFault level e va with
        | some c => .fault c
        | none =>
          if e / 2 % 2 = 1 then
            let t := leafEntry part ctx level e va
            match permFault t u with
            | some c => .fault c
            | none => .ok (entryPa t va) t.attr t ps
          else walk s cl part ctx va u k (level + 1) (field e 49 12 * 4096)
            (ps ++ [{ ctx, part, level, index := ptrIndex level va, table := field e 49 12 * 4096 }])

def tlbFind (s : State) (cl part ctx va : Nat) : Option TlbEntry :=
  (cluster s cl).tlb.find? fun e =>
    e.part == part && e.ctx == ctx && decide (e.vpage ≤ va / 4096) && decide (va / 4096 < e.vpage + e.pages)

/-- Translate an address of a group's context: 0x18, the cached leaf, else the walk (R155, R156). -/
def xlate (s : State) (cl part ctx va : Nat) (u : Use) : Xlate :=
  if 2 ^ 48 ≤ va then .fault 0x18
  else
    match tlbFind s cl part ctx va with
    | some e =>
      match permFault e u with
      | some c => .fault c
      | none => .ok (entryPa e va) e.attr e []
    | none =>
      match ctxOf s part ctx with
      | some c => walk s cl part ctx va u 4 1 c.root []
      | none => .fault 0x11

/-- Cache a leaf (R156). -/
def tlbAdd (s : State) (cl : Nat) (e : TlbEntry) : State :=
  modCluster s cl fun x => if x.tlb.contains e then x else { x with tlb := x.tlb ++ [e] }

/-- Cache a table pointer (R156). -/
def ptrAdd (s : State) (cl : Nat) (e : PtrEntry) : State :=
  modCluster s cl fun x => if x.ptrs.contains e then x else { x with ptrs := x.ptrs ++ [e] }

/-! ### Issue -/

/-- The first rule broken, in the order of R548. -/
def firstFault : List (Bool × Nat) → Option Nat
  | [] => none
  | (bad, c) :: l => if bad then some c else firstFault l

/-- The fetch of the next instruction: translation with X, and the checks of R26 (R133, R155). -/
def fetchFault (s : State) (gid : Nat) (g : Group) (p : Path) : Option Nat :=
  match xlate s (gidCluster gid) g.part g.ctx p.pc .fetch with
  | .fault c => some c
  | .ok pa _ _ _ => accessCheck s g.part pa false (regShape pa 8)

/-- What the fetch and the issue leave behind: the core's meter has paid (R48), the translation is cached, and the line of the instruction fills the L1 and the read cache
(R156, R248). The line is read in one step. (DESIGN CHOICE, log 14) -/
def fetched (s : State) (gid : Nat) (g : Group) (p : Path) (r : State) : State :=
  let cl := gidCluster gid
  let r := paid s gid r
  match xlate s cl g.part g.ctx p.pc .fetch with
  | .fault _ => r
  | .ok pa _ e ps =>
    let r := ps.foldl (fun r x => ptrAdd r cl x) (tlbAdd r cl e)
    let (d, q) := viewLine s (pa / 128)
    if !(cluster s cl).roEnabled || q ≠ 0 || (roLookup (cluster s cl) (gidCore gid) (pa / 128)).isSome then r
    else roFillBoth r cl (gidCore gid) (pa / 128) d

/-- The cluster's fence bit (R529, R532). -/
def fencedCluster (s : State) (cl : Nat) : Bool := (die s (cl / 16)).clFenced.getLsbD (cl % 16)

/-- A group that may issue: resident, not parked, with a live path, on a core with a token that no droop withholds, and on a cluster that
is not fenced: contexts on a fenced cluster are saved and go on elsewhere (R48, R126, R146, R157, R463, R533; DEDUCED, log 88). -/
def issuing (s : State) (gid : Nat) : Option (Group × Path) :=
  match group s gid with
  | none => none
  | some g => if g.park.isSome || g.held || (die s (gidDie gid)).withholding || !hasToken s gid || fencedCluster s (gidCluster gid) then none else (activePath g).map fun p => (g, p)

/-- Start an instruction of the active path: its fetch may fault, with no word to record (DESIGN CHOICE, log 86); then `k`
decides, and the fetch leaves its translation and its line cached. (DESIGN CHOICE, log 14) -/
def withIssue (s : State) (gid : Nat) (k : Group → Path → State) : State :=
  match issuing s gid with
  | none => s
  | some (g, p) =>
    match fetchFault s gid g p with
    | some c => parkAt s gid p c p.pc 0 p.mask
    | none => fetched s gid g p (k g p)

/-- An instruction that is not ready does not issue; the active role passes to the next live path when that one has a ready
instruction (R146). The next path's instruction is not named by the command, so whether it is ready is a free value.
(DESIGN CHOICE, log 17) -/
def notReady (s : State) (gid : Nat) : State :=
  if 2 ≤ ((group s gid).map liveCount).getD 0 then
    let (z, s) := freeVal s
    if z.getLsbD 0 then modGroup s gid passTurn else s
  else s

/-- The common shape of an instruction: readiness, faults in the order of R548, register ECC, then its effect. `mask26` names the
threads whose addresses are misaligned. -/
def issue (s : State) (r : GRef) (w : W64) (faults : Group → Path → List (Bool × Nat)) (ready : Group → Path → Bool)
    (act : Group → Path → State) (mask26 : Group → Path → W32 := fun _ p => p.mask) : State :=
  withIssue s (gidOf r) fun g p =>
    if !ready g p then notReady s (gidOf r)
    else
      match firstFault (faults g p) with
      | some c => parkAt s (gidOf r) p c 0 w (if c = 0x26 then mask26 g p else p.mask)
      | none => if r.ue then parkAt (countUe s) (gidOf r) p 0x35 0 w p.mask else act g p

/-- A vector or special-function instruction, or one matrix step, under the residue check: one failure or two are recomputed
and counted; the third is persistent: the group is parked with 0x27 and the cluster fenced (R124 to R126). -/
def residue (s : State) (r : GRef) (p : Path) (w : W64) (fails : Nat) (ok : State → State) : State :=
  if 3 ≤ fails then persistentError (parkAt s (gidOf r) p 0x27 0 w p.mask) r.cl
  else ok (if fails = 0 then s else countRetry s)

/-- Write back the group after an instruction, with the path advanced. -/
def retire (s : State) (gid : Nat) (g : Group) : State := setGroup s gid (some (advance g))

/-- Every named register block is free of pending writes (R141). -/
def blocksFree (s : State) (gid : Nat) (bs : List (Nat × Nat)) : Bool := bs.all fun (r, n) => !regsBusy s gid r n

/-- No fence holds back the group's memory instructions (R340). -/
def fenceFree (g : Group) : Bool := g.fence.isNone

/-! ### Formats and rounding modes (R16, R70, R92) -/

/-- The format is in the package's effective capability set (R16, R320). -/
def inSet16 (s : State) (f : BitVec 4) : Bool := s.dev.fmt.getLsbD f.toNat

/-- Faults 0x61 to 0x63 of format fields, field by field in ascending bit position (R548, DEDUCED, log 35); `inputs` are matrix-input operand
fields (R16, R92). -/
def formatFaults (s : State) (fs : List (BitVec 4 × Bool)) : List (Bool × Nat) :=
  fs.flatMap fun (f, input) => [(f == 0xF#4, 0x61), (input && (f == 0xA#4 || f == 0xE#4), 0x62), (!inSet16 s f, 0x63)]

/-- A reserved rounding mode (R70). -/
def badMode (rm : Nat) : Bool := 5 ≤ rm

end Sys2Proof.Machine
end

