-- ==== Sys2Proof/Machine/Descr.lean ====
section
/-! DEFINITION. Stored graphs: the fields of a descriptor, when it is well formed, its claims and its longest path: R377 to R380,
R384, R405 of 13 and 14, R134 and R135 of 05, R242 to R245 of 08, R272 of 09, R290 of 10. -/

namespace Sys2Proof.Machine

/-- Every byte of a list is zero. -/
def allZero (l : List Byte) : Bool := l.all (· == 0)
def zeroAt (d : List Byte) (o n : Nat) : Bool := allZero (slice d o n)

/-! ### Header (R377) -/

def gTotal (d : List Byte) : Nat := fieldAt d 4 4
def gNodes (d : List Byte) : Nat := fieldAt d 8 2
def gEdges (d : List Byte) : Nat := fieldAt d 10 2
def gNodeOff (d : List Byte) : Nat := fieldAt d 12 4
def gEdgeOff (d : List Byte) : Nat := fieldAt d 16 4
def gLedgeOff (d : List Byte) : Nat := fieldAt d 20 4
def gLedges (d : List Byte) : Nat := byteAt d 24
def gRanges (d : List Byte) : Nat := byteAt d 25
def gLaunches (d : List Byte) : Nat := byteAt d 26
def gRangeOff (d : List Byte) : Nat := fieldAt d 28 4
def gBound (d : List Byte) : Nat := fieldAt d 32 8

/-- The header's own ranges and alignments, and its tables within the total length (R377, R380). -/
def headerOk (d : List Byte) (len : Nat) : Bool :=
  decide (64 ≤ len) && fieldAt d 0 4 == 1 && decide (64 ≤ gTotal d) && decide (gTotal d ≤ len)
    && decide (1 ≤ gNodes d) && decide (gNodes d ≤ 4096) && decide (gEdges d ≤ 16384)
    && gNodeOff d % 64 == 0 && gEdgeOff d % 4 == 0 && gLedgeOff d % 16 == 0 && gRangeOff d % 16 == 0
    && decide (gLedges d ≤ 32) && decide (1 ≤ gLaunches d) && decide (gLaunches d ≤ 16) && byteAt d 27 == 0 && zeroAt d 40 24
    && decide (gNodeOff d + 64 * gNodes d ≤ gTotal d) && decide (gEdgeOff d + 4 * gEdges d ≤ gTotal d)
    && decide (gLedgeOff d + 16 * gLedges d ≤ gTotal d) && decide (gRangeOff d + 16 * gRanges d ≤ gTotal d)

/-! ### Nodes (R379) -/

def gNode (d : List Byte) (i : Nat) : List Byte := slice d (gNodeOff d + 64 * i) 64
def allNodes (d : List Byte) : List (List Byte) := (List.range (gNodes d)).map (gNode d)
def nKind (n : List Byte) : Nat := byteAt n 0
def nGang (n : List Byte) : Bool := byteAt n 1 % 2 == 1
def nG (n : List Byte) : Nat := byteAt n 4
/-- Registers a thread (R134: in multiples of 8). -/
def nRegs (n : List Byte) : Nat := 8 * byteAt n 5
def nAccs (n : List Byte) : Nat := byteAt n 6
/-- Local store of a team in bytes. -/
def nStore (n : List Byte) : Nat := 4096 * fieldAt n 8 2
def nRangeFirst (n : List Byte) : Nat := byteAt n 10
def nRangeCount (n : List Byte) : Nat := byteAt n 11
def nLedgeMask (n : List Byte) : Nat := fieldAt n 12 4
def nPc (n : List Byte) : Nat := fieldAt n 16 8
def nTeams (n : List Byte) : Nat := fieldAt n 24 4
def nDies (n : List Byte) : Nat := byteAt n 28
def nBound (n : List Byte) : Nat := fieldAt n 48 8
/-- DMA: descriptors, list base, destination attribute. -/
def nDescs (n : List Byte) : Nat := fieldAt n 4 4
def nBase (n : List Byte) : Nat := fieldAt n 8 8
def nAttr (n : List Byte) : Nat := byteAt n 16
/-- Collective: operation, format, reduce operation, scope, source, destination, count, dies, remote group. -/
def nOp (n : List Byte) : Nat := byteAt n 4
def nFmt (n : List Byte) : Nat := byteAt n 5
def nRed (n : List Byte) : Nat := byteAt n 6
def nScope (n : List Byte) : Nat := byteAt n 7
def nSrc (n : List Byte) : Nat := fieldAt n 8 8
def nDst (n : List Byte) : Nat := fieldAt n 16 8
def nCount (n : List Byte) : Nat := fieldAt n 24 8
def nColDies (n : List Byte) : Nat := byteAt n 32
def nRemote (n : List Byte) : Nat := fieldAt n 36 4
/-- Host-sync: mode, whether the batch step is added, word, value. -/
def nMode (n : List Byte) : Nat := byteAt n 4
def nAddStep (n : List Byte) : Bool := byteAt n 5 % 2 == 1
def nValue (n : List Byte) : Nat := fieldAt n 16 8

/-- Fields of a node within their ranges and reserved bytes zero (R379, R380). The ranges of G, g, a and s have a code of
their own (R382). -/
def nodeOk (d n : List Byte) : Bool :=
  match nKind n with
  | 0 =>
    decide (byteAt n 1 ≤ 1) && zeroAt n 2 2 && byteAt n 7 == 0 && decide (nRangeCount n ≤ 8)
      && decide (nRangeCount n = 0 ∨ nRangeFirst n + nRangeCount n ≤ gRanges d) && decide (nLedgeMask n < 2 ^ gLedges d)
      && decide (nPc n < 2 ^ 48) && nPc n % 8 == 0 && decide (1 ≤ nTeams n) && (!nGang n || decide (nTeams n ≤ 512))
      && zeroAt n 29 3 && fieldAt n 32 8 % 128 == 0 && fieldAt n 40 8 % 128 == 0 && zeroAt n 56 8
  | 1 =>
    zeroAt n 1 3 && decide (1 ≤ nDescs n) && decide (nDescs n ≤ 65536) && nBase n % 32 == 0 && decide (nBase n < 2 ^ 50)
      && decide (nAttr n ≤ 3) && zeroAt n 17 31 && zeroAt n 56 8
  | 2 =>
    zeroAt n 1 3 && decide (nOp n ≤ 3) && decide (nFmt n ≤ 0xF) && decide (nRed n ≤ 2) && decide (nScope n ≤ 1) && decide (nSrc n < 2 ^ 50)
      && decide (nDst n < 2 ^ 50) && zeroAt n 33 3 && zeroAt n 40 8 && zeroAt n 56 8
  | 3 =>
    zeroAt n 1 3 && decide (nMode n ≤ 2) && decide (byteAt n 5 ≤ 1) && zeroAt n 6 2 && nBase n % 8 == 0
      && decide (nBase n < 2 ^ 50) && zeroAt n 24 24 && zeroAt n 56 8
  | _ => false

/-! ### Edges, ledges, ranges (R378) -/

def gEdge (d : List Byte) (i : Nat) : Nat := fieldAt d (gEdgeOff d + 4 * i) 4
def edgeSrc (e : Nat) : Nat := e % 4096
def edgeDst (e : Nat) : Nat := e / 65536 % 4096
def edgesOf (d : List Byte) : List (Nat × Nat) := (List.range (gEdges d)).map fun i => (edgeSrc (gEdge d i), edgeDst (gEdge d i))
def edgeOk (d : List Byte) (e : Nat) : Bool :=
  e / 4096 % 16 == 0 && e / 2 ^ 28 == 0 && decide (edgeSrc e < gNodes d) && decide (edgeDst e < gNodes d)

/-- Nodes left after removing, `k` times, every node that no remaining node leads to. -/
def peel (edges : List (Nat × Nat)) : Nat → List Nat → List Nat
  | 0, ns => ns
  | k + 1, ns =>
    let rest := ns.filter fun v => edges.any fun (u, w) => w == v && ns.contains u
    if rest.length = ns.length then ns else peel edges k rest

def acyclic (d : List Byte) : Bool := (peel (edgesOf d) (gNodes d) (List.range (gNodes d))).isEmpty

/-- A ledge or range entry: base, lines, byte 12, and the 16 bytes. -/
def gLedge (d : List Byte) (i : Nat) : List Byte := slice d (gLedgeOff d + 16 * i) 16
def gRange (d : List Byte) (i : Nat) : List Byte := slice d (gRangeOff d + 16 * i) 16
def entBase (e : List Byte) : Nat := fieldAt e 0 8
def entLines (e : List Byte) : Nat := fieldAt e 8 4
def entByte (e : List Byte) : Nat := byteAt e 12
def entOk (e : List Byte) : Bool := entBase e % 128 == 0 && zeroAt e 13 3

def ledgeEntries (d : List Byte) : List (List Byte) := (List.range (gLedges d)).map (gLedge d)
def rangeEntries (d : List Byte) : List (List Byte) := (List.range (gRanges d)).map (gRange d)

/-- R380 but for the regions: a failure gives 0x4A. -/
def descrOk (d : List Byte) (len : Nat) : Bool :=
  headerOk d len && (allNodes d).all (nodeOk d) && ((List.range (gEdges d)).all fun i => edgeOk d (gEdge d i)) && acyclic d
    && decide (((allNodes d).filter fun n => nKind n == 0 && nGang n).length ≤ 3)
    && ((ledgeEntries d).all entOk)
    && ((rangeEntries d).all fun e => entOk e && decide (entByte e < 16) && isLineFormat (BitVec.ofNat 4 (entByte e)))

/-- Ledges and reduction ranges within the partition's regions and one row: 0x48 (R242, R271, R380). -/
def rangesIn (s : State) (p : Nat) (d : List Byte) : Bool :=
  (ledgeEntries d ++ rangeEntries d).all fun e => inRegions s p (entBase e) (128 * entLines e)

/-! ### Placement (R134, R135) -/

/-- R134's ranges of G, g and a, and a team that fits on an empty core. -/
def claimsOk (n : List Byte) : Bool :=
  decide (1 ≤ nG n) && decide (nG n ≤ 32) && decide (8 ≤ nRegs n) && decide (nRegs n ≤ 256) && [0, 1, 2, 4].contains (nAccs n)
    && decide (nAccs n * nG n ≤ 4) && decide (nRegs n * nG n ≤ 2048)

/-- T of R135. -/
def teamsPerCore (n : List Byte) : Nat :=
  let t := Nat.min 16 (Nat.min (32 / nG n) (2048 / (nRegs n * nG n)))
  if nAccs n = 0 then t else Nat.min t (4 / (nAccs n * nG n))

/-- Teams of a node that an empty cluster with local store `l` bytes holds (R135). -/
def teamsPerCluster (n : List Byte) (l : Nat) : Nat :=
  let t := 12 * teamsPerCore n
  if nStore n = 0 then t else Nat.min t (l / nStore n)

def dieAllowed (n : List Byte) (cl : Nat) : Bool := nDies n == 0 || (nDies n).testBit (cl / 16)

/-- Clusters of a partition that a node may use, among those `ok` admits. -/
def nodeClusters (s : State) (p : Nat) (n : List Byte) (ok : Nat → Bool) : List Nat :=
  (List.range (clusterCount s.variant)).filter fun c => clusterOwner s c == some p && dieAllowed n c && ok c

/-- Code that refuses a compute node: 0x51 or 0x52, by the configured local stores of the partition's clusters (R382). -/
def nodeFault (s : State) (p : Nat) (ok : Nat → Bool) (n : List Byte) : Nat :=
  if nKind n ≠ 0 then 0
  else if !claimsOk n then 0x51
  else
    let cl := nodeClusters s p n ok
    let room := cl.map fun c => teamsPerCluster n (localStore s c)
    if cl.isEmpty then 0x51
    else if room.all (· == 0) then 0x52
    else if nGang n && decide (room.sum < nTeams n) then 0x51
    else 0

/-- First code other than 0. -/
def firstCode : List Nat → Nat
  | [] => 0
  | c :: cs => if c = 0 then firstCode cs else c

/-- Codes 0x61 to 0x63 of stored format codes (R16, R92, R381): a collective's operand format. -/
def formatCode (s : State) (n : List Byte) : Nat :=
  if nKind n ≠ 2 then 0
  else (firstFault (formatFaults s [(BitVec.ofNat 4 (nFmt n), false)])).getD 0

/-! ### Claims -/

def nodeRanges (d n : List Byte) : List (List Byte) :=
  if nKind n ≠ 0 then [] else (List.range (nRangeCount n)).map fun i => gRange d (nRangeFirst n + i)

/-- Ledger-spill area of a range: a block for each of its lines (R272). -/
def rangeClaim (e : List Byte) : Nat := entLines e * (128 * mostCells (BitVec.ofNat 4 (entByte e)))

/-- Lines that a collective's ADD contributes to: its destination, with its format (DEDUCED, log 31). -/
def collRange (n : List Byte) : Option (Nat × Nat × BitVec 4) :=
  let fl : BitVec 4 := BitVec.ofNat 4 (nFmt n)
  if nKind n = 2 && nRed n = 0 && nOp n ≤ 1 && isLineFormat fl then
    some (nDst n / 128, (nDst n % 128 + nCount n * Num.elemBits fl / 8 + 127) / 128, fl)
  else none

/-- Ledger-spill areas of a node. -/
def nodeClaim (d n : List Byte) : Nat :=
  ((nodeRanges d n).map rangeClaim).sum + ((collRange n).map fun (_, lines, fl) => lines * (128 * mostCells fl)).getD 0

/-- Ledger-spill areas of one launch of the graph, those of its nodes one after another. -/
def launchClaim (d : List Byte) : Nat := ((allNodes d).map (nodeClaim d)).sum

/-- The ledger-spill claim of a registration: the areas of its concurrent launches (R272, R381). -/
def spillClaim (d : List Byte) : Nat := gLaunches d * launchClaim d

/-- Ledges that some compute node names (R245). -/
def usedLedges (d : List Byte) : List (List Byte) :=
  ((List.range (gLedges d)).filter fun i => (allNodes d).any fun n => nKind n == 0 && (nLedgeMask n).testBit i).map (gLedge d)

/-- Slices in which a line of a ledge is pinned (R242): the home where its die's bit is set, always for a stockpile line; the
proxies of the other dies of the mask. -/
def pinSlices (s : State) (mask line : Nat) : List Nat :=
  match homeSlice s.variant (128 * line) with
  | none => []
  | some h =>
    (if 128 ≤ h || mask.testBit (h / 16) then [h] else [])
      ++ ((List.range (dieCount s.variant)).filter fun d => mask.testBit d && d ≠ h / 16).map fun d => 16 * d + h % 16

def ledgeLines (e : List Byte) : List Nat := (List.range (entLines e)).map fun i => entBase e / 128 + i

/-- Pins of a descriptor: slice, set and line, each once (R245). -/
def pinSites (s : State) (d : List Byte) : List (Nat × Nat × Nat) :=
  ((usedLedges d).flatMap fun e => (ledgeLines e).flatMap fun l =>
    (pinSlices s (entByte e) l).map fun i => (i, setIn s.variant i (128 * l), l)).eraseDups

/-- Filter sets that the proxy pins of a descriptor touch: home slice, set, line (R290). -/
def filterSites (s : State) (d : List Byte) : List (Nat × Nat × Nat) :=
  ((usedLedges d).flatMap fun e => (ledgeLines e).filterMap fun l =>
    match homeSlice s.variant (128 * l) with
    | none => none
    | some h => if (pinSlices s (entByte e) l).any (· ≠ h) then some (h, setIn s.variant h (128 * l), l) else none).eraseDups

/-- Live descriptors of a partition. -/
def liveDescrs (s : State) (p : Nat) : List (List Byte) :=
  (part s p).graphs.flatMap fun (_, g) =>
    match g with
    | some g => g.versions.map fun (_, d, _) => d
    | none => []

def countAt (l : List (Nat × Nat × Nat)) (x : Nat × Nat × Nat) : Nat := (l.filter fun y => y.1 == x.1 && y.2.1 == x.2.1).length

/-- Would the pins of `new` beside the live descriptors pass a quota or a filter set's limit (R245, R290)? -/
def pinsFit (s : State) (p : Nat) (new : List Byte) : Bool :=
  let mine := pinSites s new
  let all := mine ++ (liveDescrs s p).flatMap (pinSites s)
  let c := partCfg s p
  let quota := fun (i : Nat) => if i < 128 then c.qc else c.qi
  let filt := (filterSites s new ++ ((List.range 16).flatMap fun q => (liveDescrs s q).flatMap (filterSites s))).eraseDups
  (mine.all fun x => decide (countAt all x ≤ quota x.1)) && ((filterSites s new).all fun x => decide (countAt filt x ≤ 8))

/-! ### Longest path (R405) -/

/-- Node start cost (R410). -/
def startCost : Nat := 1000

/-- One relaxation of the longest path ending at each node. -/
def relax (d : List Byte) (edges : List (Nat × Nat)) (dist : List Nat) : List Nat :=
  (List.range (gNodes d)).map fun v =>
    nBound (gNode d v) + startCost + (edges.foldl (fun m (u, w) => if w = v then Nat.max m (dist.getD u 0) else m) 0)

def relaxN (d : List Byte) (edges : List (Nat × Nat)) : Nat → List Nat → List Nat
  | 0, l => l
  | k + 1, l => relaxN d edges k (relax d edges l)

def longestPath (d : List Byte) : Nat :=
  (relaxN d (edgesOf d) (gNodes d) (List.replicate (gNodes d) 0)).foldl Nat.max 0

end Sys2Proof.Machine
end

