-- ==== Sys2Proof/Machine/Admit.lean ====
section
/-! DEFINITION. Reservations: resources, response bounds, the admission pass and what a revocation does: R399 to R408, R416 to R418,
R426 of 14_partitions_scheduling. -/

namespace Sys2Proof.Machine

def isDeadline (r : ResvCfg) : Bool := r.kind == 1
def isShare (r : ResvCfg) : Bool := r.kind == 2

/-! ### Capacities (R400) -/

def popc12 (m : BitVec 12) : Nat := ((List.range 12).filter fun i => m.getLsbD i).length

/-- Octets of a link in service, and the rate of a lane. -/
def linkWidth (l : Link) : Nat := popc12 (l.octIns &&& ~~~l.octRet)
def linkServes (l : Link) : Bool := l.st == 2 || l.st == 3
def laneRate (l : Link) : Nat := if l.rate = 2 then 112 else if l.rate = 1 then 56 else 0

/-- Admissible capacity in GB/s: 90% of the peak at the present width and state. -/
def capacity (s : State) (code : Nat) : Nat :=
  let lk := fun (i : Nat) => let l := link s i; if linkServes l then cellRate (linkWidth l) (laneRate l) * 9 / 10 / 1000000000 else 0
  if code < 0x10 then lk (code % 8)
  else if code < 0x20 then lk (8 + code % 8)
  else if code < 0x28 then (if dieServes s (code - 0x20) then 7372 else 0)
  else if code = 0x28 then (if s.dev.stock then 982 else 0)
  else if code < 0x38 then
    let n := code % 4
    let up := fun (h : Nat) => (port s n h).st
    if s.image.split.getLsbD n then 45 * (((List.range 2).filter fun h => up (h + 1) ≠ 0).length)
    else if up 0 = 1 then 90 else if up 0 = 2 then 45 else 0
  else 0

/-- Resource pairs a reservation uses (R493). -/
def usedPairs (r : ResvCfg) : List (Nat × Nat) := (if isShare r then r.bw.take 1 else r.bw).filter fun (c, _) => c ≠ 0xFF

/-- Amount admitted on a resource. -/
def admittedOn (rs : List ResvCfg) (code : Nat) : Nat :=
  ((rs.flatMap usedPairs).filter fun (c, _) => c == code).foldl (fun n (_, a) => n + a) 0

/-! ### Response bound (R403) -/

def saveBound : Nat := 50000

/-- Longest non-pre-emptible interval of the work of a partition's other contexts, `extra` counted as registered (R403). -/
def blocking (s : State) (p ctx : Nat) (extra : List (Nat × List Byte)) : Nat :=
  let regs := (part s p).graphs.flatMap fun (_, g) =>
    match g with
    | some g => g.versions.map fun (_, d, _) => (g.ctx, d)
    | none => []
  let nodes := ((regs ++ extra).filter fun (c, _) => c ≠ ctx).flatMap fun (_, d) => allNodes d
  if nodes.any fun n => nKind n == 1 then 12000
  else if nodes.any fun n => nKind n == 2 && nScope n == 0 then 1200
  else 24

def overlaps (a b : ResvCfg) : Bool := (a.mask &&& b.mask) != 0

/-- One value of the iteration. -/
def bound1 (hs : List ResvCfg) (base r : Nat) : Nat :=
  base + (hs.map fun h => (if h.p = 0 then 0 else (r + h.p - 1) / h.p) * (h.c + 2 * saveBound)).sum

/-- Iterate until the value repeats or passes `d`. -/
def boundIter (hs : List ResvCfg) (base d : Nat) : Nat → Nat → Nat
  | 0, r => r
  | k + 1, r =>
    let r' := bound1 hs base r
    if r' = r || d < r' then r' else boundIter hs base d k r'

/-- R_r. Every change of the value adds one period of some h, so the fuel is never used up below D. -/
def responseBound (s : State) (hs : List ResvCfg) (r : ResvCfg) (extra : List (Nat × List Byte)) : Nat :=
  let base := r.c + blocking s r.part r.ctx extra + saveBound
  let fuel := (hs.map fun h => if h.p = 0 then 0 else r.d / h.p + 2).sum + 2
  boundIter hs base r.d fuel base

/-! ### Conditions (R402, R404) -/

/-- A failed condition: its number in R426, the resource, and the amounts needed and available. -/
structure Failed where
  cond : Nat
  code : Nat := 0
  need : Nat := 0
  avail : Nat := 0
  deriving DecidableEq, Repr

def maskClusters (m : BitVec 128) : List Nat := (List.range 128).filter fun c => m.getLsbD c

def bandwidthFails (s : State) (rs : List ResvCfg) (r : ResvCfg) : Option Failed :=
  (usedPairs r).findSome? fun (c, _) =>
    let need := admittedOn (rs ++ [r]) c
    let cap := capacity s c
    if cap < need then some { cond := 2, code := c, need, avail := cap } else none

/-- The condition of a reservation that fails, given those admitted before it. (DESIGN CHOICE, log 113) -/
def failing (s : State) (rs : List ResvCfg) (r : ResvCfg) (extra : List (Nat × List Byte)) : Option Failed :=
  if isShare r then bandwidthFails s rs r
  else
    let ins := ((maskClusters r.mask).filter (clusterServes s)).length
    let ds := rs.filter isDeadline
    if ins < r.n then some { cond := 1, need := r.n, avail := ins }
    else if (maskClusters r.mask).any fun c => decide (3 ≤ (ds.filter fun h => h.mask.getLsbD c).length) then
      some { cond := 4, need := 4, avail := 3 }
    else
      match bandwidthFails s rs r with
      | some f => some f
      | none =>
        let b := responseBound s (ds.filter fun h => overlaps h r) r extra
        if r.d < b then some { cond := 3, need := b / 2000, avail := r.d / 2000 } else none

/-- The indices to take, deadline reservations first, each kind in configuration order (R402). -/
def passOrder (s : State) : List Nat :=
  let idx := (List.range s.image.resvs.length).filter fun i => ((s.image.resvs[i]?).map isDeadline).getD false
  let sh := (List.range s.image.resvs.length).filter fun i => ((s.image.resvs[i]?).map isShare).getD false
  idx ++ sh

def resvsAt (s : State) (l : List Nat) : List ResvCfg := l.filterMap fun i => s.image.resvs[i]?

/-- The reservations that a pass admits, from an empty record. -/
def admitFrom (s : State) (extra : List (Nat × List Byte)) : List Nat → List Nat → List Nat
  | [], acc => acc
  | i :: is, acc =>
    match (s.image.resvs[i]? : Option ResvCfg) with
    | none => admitFrom s extra is acc
    | some r => admitFrom s extra is (if (failing s (resvsAt s acc) r extra).isNone then acc ++ [i] else acc)

def admits (s : State) : List Nat := admitFrom s [] (passOrder s) []

/-- Would every admitted deadline reservation of a partition still meet R402 with a new descriptor in a context (R403)? -/
def keepsAdmitted (s : State) (p ctx : Nat) (d : List Byte) : Bool :=
  let before := fun (i : Nat) => resvsAt s (s.admission.admitted.takeWhile (· ≠ i))
  s.admission.admitted.all fun i =>
    match s.image.resvs[i]? with
    | some r => !isDeadline r || r.part ≠ p || (failing s (before i) r [(ctx, d)]).isNone
    | none => true

/-! ### Revocation (R417, R418, R426) -/

/-- Cause of a revocation (R426): what fails by itself names the unit; otherwise an earlier reservation displaced it. -/
def revokeCause (s : State) (r : ResvCfg) (f : Failed) : Nat :=
  match failing s [] r [] with
  | none => 6
  | some f' =>
    if f'.cond = 1 then
      (if (maskClusters r.mask).any fun c => (die s (c / 16)).state ≠ .inService then 2 else 1)
    else if f.cond = 2 then
      if f.code < 0x20 then 3 else if f.code < 0x28 then 2 else if f.code = 0x28 then 4 else 5
    else 6

/-- Bytes 24 to 39 of an event of type 4. -/
def resvSpec (i : Nat) (again : Bool) (r : ResvCfg) (cause : Nat) (f : Failed) : List Byte :=
  [i, if again then 1 else 0, if isShare r then 1 else 0, cause, f.cond, f.code, 0, 0].map (BitVec.ofNat 8)
    ++ leBytes 4 f.need ++ leBytes 4 f.avail

def resvEvent (s : State) (r : ResvCfg) (spec : List Byte) : State :=
  postEvents s (if r.part = 0 then [0] else [r.part, 0]) (event 4 0 noSlot 0 spec)

/-- Bit 42 at the next write of every bound queue of a partition (R417). -/
def markQueues (s : State) (p : Nat) : State :=
  modPart s p fun r => { r with queues := r.queues.map fun (q, x) => (q, if x.bound then { x with revokeMark := true } else x) }

/-- Launches that run while a reservation is revoked carry bit 2 in their completion records (R417). -/
def markLaunches (s : State) (r : ResvCfg) : State :=
  (s.launches.filter fun l => l.started && l.part == r.part && (isShare r || l.ctx == r.ctx)).foldl (fun s l =>
    modQueue s l.part l.q fun x =>
      { x with cmds := modWhere (fun c => c.accepted && c.seq == l.seq) (fun c => { c with revoked := true }) x.cmds }) s

/-- Reservations of the table that are not admitted. -/
def revokedNow (s : State) : List ResvCfg :=
  resvsAt s ((passOrder s).filter fun i => !s.admission.admitted.contains i)

/-- The pass: every reservation anew; what was admitted and is not now is revoked, what was not and is now is re-admitted.
The first pass of a cold start re-admits nothing (R402, R417, R418). -/
def runPass (s : State) (first : Bool) : State :=
  let old := s.admission.admitted
  let new := admits s
  let s := { s with admission := { s.admission with admitted := new, passDue := false } }
  let s := (passOrder s).foldl (fun s i =>
    match s.image.resvs[i]? with
    | none => s
    | some r =>
      if old.contains i && !new.contains i then
        let f := (failing s (resvsAt s (new.filter (· ≠ i))) r []).getD { cond := 0 }
        markQueues (resvEvent s r (resvSpec i false r (revokeCause s r f) f)) r.part
      else if !first && !old.contains i && new.contains i then
        resvEvent s r (resvSpec i true r 0 { cond := 0 })
      else s) s
  (revokedNow s).foldl markLaunches s

/-- The admitted deadline reservation that names a context (R399, R409). -/
def deadlineOf (s : State) (p ctx : Nat) : Option (Nat × ResvCfg) :=
  s.admission.admitted.findSome? fun i =>
    match s.image.resvs[i]? with
    | some r => if isDeadline r && r.part == p && r.ctx == ctx then some (i, r) else none
    | none => none

/-- The deadline entry of the table that names a context, admitted or not (R405). -/
def deadlineEntry (s : State) (p ctx : Nat) : Option ResvCfg :=
  s.image.resvs.find? fun r => isDeadline r && r.part == p && r.ctx == ctx

/-- A partition's reservations are released at its reset (R423 phase 7). -/
def releaseResvs (s : State) (p : Nat) : State :=
  let mine := s.admission.admitted.filter fun i => ((s.image.resvs[i]?).map fun r => r.part == p).getD false
  let s := { s with admission := { s.admission with admitted := s.admission.admitted.filter fun i => !mine.contains i } }
  mine.foldl (fun s i =>
    match s.image.resvs[i]? with
    | some r => markQueues (resvEvent s r (resvSpec i false r 7 { cond := 0 })) p
    | none => s) s

end Sys2Proof.Machine
end

