-- ==== Sys2Proof/Machine/Reach.lean ====
section
/-! DEFINITION. How an instruction reaches global memory: its references are translated and checked, then become one access
per line (R153 to R157, R235, R236, R332 to R336, R341, R345). -/

namespace Sys2Proof.Machine
open Sys2Proof.Num

/-- One reference of an instruction: bytes at a virtual address, for a lane; a load names the register and byte it fills, a
store the value. -/
structure Ref where
  va : Nat
  len : Nat
  lane : Nat
  reg : Nat := 0
  sub : Option Nat := none
  val : Nat := 0
  deriving DecidableEq, Repr

/-- A reference translated: physical address, region attribute, and the code of R26 at its target, if a check fails. -/
structure Hit where
  ref : Ref
  pa : Nat
  attr : Nat
  leaf : TlbEntry
  ptrs : List PtrEntry := []
  late : Option Nat
  deriving DecidableEq, Repr

def hitOf (s : State) (cl : Nat) (g : Group) (u : Use) (r : Ref) : Except Nat Hit :=
  match xlate s cl g.part g.ctx r.va u with
  | .fault c => .error c
  | .ok pa attr e ps =>
    .ok { ref := r, pa, attr, leaf := e, ptrs := ps, late := accessCheck s g.part pa (u == .store) (regShape pa r.len) }

/-- Code of a reference, with or without the checks of R26. -/
def refCode (checks : Bool) (h : Except Nat Hit) : Option Nat :=
  match h with
  | .error c => some c
  | .ok h => if checks then h.late else none

/-- First fault among the references: its code and address, and the lanes that meet the same code. -/
def refFault (checks : Bool) (l : List (Ref × Except Nat Hit)) : Option (Nat × Nat × W32) :=
  match l.findSome? fun (r, h) => (refCode checks h).map fun c => (c, r.va) with
  | none => none
  | some (c, va) =>
    some (c, va, l.foldl (fun m (r, h) => if refCode checks h == some c then m ||| bit32 (r.lane % 32) else m) 0)

def hitsOf (l : List (Ref × Except Nat Hit)) : List Hit :=
  l.filterMap fun (_, h) =>
    match h with
    | .ok h => some h
    | .error _ => none

/-- Keep the leaves and table pointers that were used (R156). -/
def cacheLeaves (s : State) (cl : Nat) (hs : List Hit) : State :=
  let s := (hs.map (·.leaf)).eraseDups.foldl (fun s e => tlbAdd s cl e) s
  (hs.flatMap (·.ptrs)).eraseDups.foldl (fun s e => ptrAdd s cl e) s

/-- The piece of a reference in its line; `reg` is the first register it fills. -/
def hitPiece (h : Hit) (reg : Nat) : Piece :=
  { off := h.pa % 128, len := h.ref.len, lane := h.ref.lane, reg, sub := h.ref.sub, va := h.ref.va }

def linesOf (hs : List Hit) : List Nat := (hs.map fun h => h.pa / 128).eraseDups

/-- Each line of the references with each attribute through whose pages it is accessed (R231). -/
def partsOf (hs : List Hit) : List (Nat × Nat) := (hs.map fun h => (h.pa / 128, h.attr)).eraseDups

def inPart (p : Nat × Nat) (h : Hit) : Bool := h.pa / 128 == p.1 && h.attr == p.2

/-- The fence column of R341 that waits for a store. -/
def storeScope (s : State) (cl pa attr : Nat) : Nat :=
  match target s.variant pa with
  | .window c _ => if c = cl then 0 else if c / 16 = cl / 16 then 1 else 2
  | .register _ => 2
  | .remote => 3
  | _ => if attr = 0 then 1 else 2

/-- The load access of one line through one attribute (R231, R332). -/
def loadAccess (tag instr gid pc : Nat) (w : W64) (part : Nat × Nat) (hs : List Hit) : Access :=
  let here := hs.filter (inPart part)
  { tag, instr, gid, kind := .load, line := part.1, attr := part.2, va := (here.head?.map (·.ref.va)).getD 0, pc, word := w,
    pieces := here.map fun h => hitPiece h h.ref.reg }

/-- Bytes and byte enables that references store in a line through an attribute; a later lane's byte wins, whatever its own
attribute (R334). -/
def storeBytes (part : Nat × Nat) (hs : List Hit) : BitVec 128 × Line :=
  (hs.filter fun h => h.pa / 128 == part.1).foldl (fun (be, d) h =>
    let m : BitVec 128 := BitVec.ofNat 128 ((2 ^ h.ref.len - 1) * 2 ^ (h.pa % 128))
    if h.attr == part.2 then
      (be ||| m, mergeLine m (BitVec.ofNat 1024 (h.ref.val % 2 ^ (8 * h.ref.len) * 2 ^ (8 * (h.pa % 128)))) d)
    else (be &&& ~~~m, d)) (0, 0)

/-- The store access of one line through one attribute (R231, R332, R341). -/
def storeAccess (s : State) (tag instr gid pc : Nat) (w : W64) (part : Nat × Nat) (hs : List Hit) : Access :=
  let here := hs.filter (inPart part)
  let (be, data) := storeBytes part hs
  { tag, instr, gid, kind := .store, line := part.1, attr := part.2, va := (here.head?.map (·.ref.va)).getD 0, pc, word := w, be, data,
    pieces := here.map fun h => hitPiece h 0, scope := storeScope s (gidCluster gid) (128 * part.1) part.2,
    failed := (here.findSome? (·.late)).getD 0 }

/-- Record one access per line and attribute, tags rising. -/
def recordAccesses (s : State) (mk : Nat → Nat × Nat → Access) (parts : List (Nat × Nat)) : State :=
  let base := s.nextTag
  let sent := fun (a : Access) => { a with since := (die s (gidDie a.gid)).time.toNat }
  { s with accs := s.accs ++ parts.zipIdx.map (fun (l, i) => sent (mk (base + i) l)), nextTag := base + parts.length }

def newTags (base n : Nat) : List Nat := (List.range n).map (base + ·)

/-- Reissue the loads of an instruction in full, from their virtual addresses (R128, R159): what had arrived is dropped, and a
fence that awaits the old accesses awaits the new ones. A fault of the translation parks the group again (R155). -/
def reissueLoads (s : State) (gid instr : Nat) : State :=
  let l := loadMates s gid instr
  match group s gid, l.head? with
  | some g, some a =>
    let refs : List Ref := l.flatMap fun x => x.pieces.map fun p => { va := p.va, len := p.len, lane := p.lane, reg := p.reg, sub := p.sub }
    let hs := refs.map fun r => (r, hitOf s (gidCluster gid) g .load r)
    match refFault true hs with
    | some (c, _, _) => failAccess s a.tag c
    | none =>
      let hs := hitsOf hs
      let old := l.map (·.tag)
      let tags := (List.range (partsOf hs).length).map (s.nextTag + ·)
      let s := { s with accs := s.accs.filter fun x => !old.contains x.tag }
      let s := recordAccesses (cacheLeaves s (gidCluster gid) hs) (fun t n => loadAccess t instr gid a.pc a.word n hs) (partsOf hs)
      let follow := fun (f : Fence) =>
        if f.waits.any fun t => old.contains t then { f with waits := f.waits.filter (fun t => !old.contains t) ++ tags } else f
      let s := modGroup s gid fun g => { g with fence := g.fence.map follow }
      tags.foldl (fun s t => performLoad s t) s
  | _, _ => s

/-- Send the loads of an instruction. -/
def sendLoads (s : State) (gid pc : Nat) (w : W64) (hs : List Hit) : State :=
  let lines := partsOf hs
  let base := s.nextTag
  let s := recordAccesses (cacheLeaves s (gidCluster gid) hs) (fun t l => loadAccess t base gid pc w l hs) lines
  (newTags base lines.length).foldl (fun s t => performLoad s t) s

/-- A remote-device window that a store writes is remembered for the flush of R352. -/
def noteWindows (s : State) (gid : Nat) (lines : List Nat) : State :=
  let ws := lines.filterMap fun l =>
    match target s.variant (128 * l) with
    | .remote => windowIndex s (128 * l)
    | _ => none
  if ws.isEmpty then s else modGroup s gid fun g => { g with windows := (g.windows ++ ws).eraseDups }

/-- Send the stores of an instruction; a line whose check of R26 fails is answered with its code (R345). -/
def sendStores (s : State) (gid pc : Nat) (w : W64) (hs : List Hit) : State :=
  let lines := partsOf hs
  let base := s.nextTag
  let s := recordAccesses (cacheLeaves s (gidCluster gid) hs) (fun t l => storeAccess s t base gid pc w l hs) lines
  (newTags base lines.length).foldl (fun s t =>
    match accessOf s t with
    | some a => if a.failed ≠ 0 then failAccess s t a.failed else performStore s t
    | none => s) (noteWindows s gid (linesOf hs))

/-! ### Room (R142, R235, R336) -/

/-- Would a load of the line add no read to the cluster's mesh port: a read-only cache holds it, or a read of it is outstanding? -/
def readsNothing (s : State) (cl core attr line : Nat) : Bool :=
  (attr == 4 && (roLookup (cluster s cl) core line).isSome) || readOut s cl line

/-- Room for the reads of new lines among the 64 that the cluster's mesh port tracks. -/
def readRoom (s : State) (cl core : Nat) (hs : List Hit) : Bool :=
  let new := ((hs.filter fun h => !readsNothing s cl core h.attr (h.pa / 128)).map fun h => h.pa / 128).eraseDups
  decide ((cluster s cl).reads.length + new.length ≤ 64)

/-- No reference touches a segment of an outstanding write of the group (R335). -/
def segsFree (s : State) (gid : Nat) (kind : AccKind) (hs : List Hit) : Bool :=
  hs.all fun h => !segBusy s gid kind h.attr (h.pa / 64) && !segBusy s gid kind h.attr ((h.pa + h.ref.len - 1) / 64)

def canRead (s : State) (gid : Nat) : Bool := decide (readsOut s gid < 16)
def canWrite (s : State) (gid : Nat) : Bool := decide (writesOut s gid < 64)

/-- Issue the loads of an instruction whose own checks have passed: translation and R26 faults are precise (R157). -/
def doLoads (s : State) (r : GRef) (g : Group) (p : Path) (w : W64) (refs : List Ref) : State :=
  let gid := gidOf r
  let l := refs.map fun x => (x, hitOf s r.cl g .load x)
  match refFault true l with
  | some (c, va, m) => parkAt s gid p c va w m
  | none =>
    let hs := hitsOf l
    if segsFree s gid .load hs && readRoom s r.cl r.core hs then sendLoads (retire s gid g) gid p.pc w hs else notReady s gid

/-- Issue the stores of an instruction. `precise` tells a store whose checks of R26 are made before any of it is performed
from one whose answers come later (R345). -/
def doStores (s : State) (r : GRef) (g : Group) (p : Path) (w : W64) (precise : Bool) (refs : List Ref) : State :=
  let gid := gidOf r
  let l := refs.map fun x => (x, hitOf s r.cl g .store x)
  match refFault precise l with
  | some (c, va, m) => parkAt s gid p c va w m
  | none =>
    let hs := hitsOf l
    if segsFree s gid .store hs then sendStores (retire s gid g) gid p.pc w hs else notReady s gid

/-! ### Crusher packets (R257, R268 to R271, R277) -/

/-- Codes of a reduction's target beside memory (R257): cluster windows and registers. Remote devices answer themselves (R443). -/
def updateTarget (s : State) (pa : Nat) : Option Nat :=
  match target s.variant pa with
  | .window _ _ => some 0x65
  | .register _ => some 0x1B
  | _ => none

/-- The access of a packet. -/
def updateAccess (tag instr gid pc : Nat) (w : W64) (va : Nat) (k : CruPacket) (ps : List Piece) (code : Nat) : Access :=
  { tag, instr, gid, kind := if k.ret then .atomRet else .update, line := k.line, attr := k.attr, va, pc, word := w,
    pieces := ps, update := some { k with tag }, failed := code }

/-- The latest packet for a line that is on its way to the crusher of a slice, its sender still without an answer. -/
def onItsWay (s : State) (h line : Nat) : Option CruPacket :=
  match s.out.reverse.findSome? fun o => match o with
    | .cru i k => if k.line = line then some (i, k) else none
    | .merged i k => if k.line = line then some (i, k) else none
    | _ => none with
  | some (i, k) => if i = h && (accessOf s k.tag).isSome then some k else none
  | none => none

/-- Dies whose routers a packet may pass: its source's, its destination's, and the IOD with its switch (R22). -/
def passedDies (s : State) (k : CruPacket) (h : Nat) : List Nat :=
  let src := match accessOf s k.tag with
    | some a => if 2 ^ 40 ≤ a.gid then 8 else gidDie a.gid
    | none => 8
  if src = h / 16 then [src] else [src, h / 16, 8]

/-- A packet leaves for a crusher. Whether a router finds it behind a packet that it combines with, and where, is open: one packet then
goes on for both, and is counted (R188 to R190, R193; DESIGN CHOICE, log 99). -/
def sendCru (s : State) (h : Nat) (k : CruPacket) : State :=
  let plain := emit s (.cru h k)
  match target s.variant (128 * k.line) with
  | .remote => plain
  | _ =>
    match (onItsWay s h k.line).bind fun lead => combinePackets lead k with
    | none => plain
    | some c =>
      let n := s.free
      let s := { plain with free := n + 1 }
      if Config.meets n then
        let ds := passedDies s k h
        modDie (emit s (.merged h c)) (ds.getD (Config.meetsAt n % ds.length) 8) fun u => { u with combined := u.combined + 1 }
      else s

/-- Send the packet of an access to its home's crusher. -/
def sendUpdate (s : State) (tag : Nat) : State :=
  match accessOf s tag with
  | none => s
  | some a =>
    match a.update, homeSlice s.variant (128 * a.line) with
    | some k, some h => sendCru s h k
    | _, _ => s

/-- Send the packets of one instruction, each with its address, pieces and the code of a check of R26 that fails at its
target; lines contributed to are remembered for the release fences (R278). -/
def sendPackets (s : State) (gid pc : Nat) (w : W64) (ks : List (Nat × CruPacket × List Piece × Nat)) : State :=
  let base := s.nextTag
  let s := { s with accs := s.accs ++ ks.zipIdx.map (fun ((va, k, ps, c), i) => updateAccess (base + i) base gid pc w va k ps c),
                    nextTag := base + ks.length }
  let lines := ks.filterMap fun (_, k, _, _) => if k.op = 0 && !isRounded k then some k.line else none
  let s := if lines.isEmpty then s else modGroup s gid fun g => { g with contrib := (g.contrib ++ lines).eraseDups }
  (newTags base ks.length).foldl (fun s t =>
    match accessOf s t with
    | some a => if a.failed ≠ 0 then failAccess s t a.failed else sendUpdate s t
    | none => s) s

/-- Cut records into packets of at most `room` bytes after the prefix (R269). -/
def cutRecords (room : Nat) : List CruRecord → Nat → List CruRecord → List (List CruRecord)
  | [], _, cur => if cur.isEmpty then [] else [cur]
  | r :: rs, used, cur =>
    if used + recBytes r ≤ room then cutRecords room rs (used + recBytes r) (cur ++ [r])
    else cur :: cutRecords room rs (recBytes r) [r]

/-- Each packet's records with the pieces that stand at their places. -/
def withPieces : List Piece → List (List CruRecord) → List (List CruRecord × List Piece)
  | _, [] => []
  | ps, rs :: rest => (rs, ps.take rs.length) :: withPieces (ps.drop rs.length) rest

/-- Lines that a range of virtual addresses touches, cut at the lines: address and length of each part. -/
def cutAtLines (va n : Nat) : List (Nat × Nat) :=
  (List.range ((va % 128 + n + 127) / 128)).map fun i =>
    let a := (va / 128 + i) * 128
    let lo := Nat.max va a
    (lo, Nat.min (va + n) (a + 128) - lo)

end Sys2Proof.Machine
end

