-- ==== Sys2Proof/Machine/Fence.lean ====
section
/-! DEFINITION. Fences, joins, barriers and exits as the convergence scoreboard and the load/store unit keep them: R145, R148 to
R151, R278, R340 to R345, R348, R352. -/

namespace Sys2Proof.Machine

/-! ### Fences (R340 to R343, R278, R352) -/

/-- Does a release fence of a scope wait for an access (R341, R342)? Loads, atomics and updates always; stores by column. -/
def relWaits (scope : Nat) (a : Access) : Bool :=
  match a.kind with
  | .store => decide (a.scope ≤ scope)
  | _ => true

def acqWaits (a : Access) : Bool := a.kind == .load || a.kind == .atomRet

/-- Lines that a release fence closes (R278). -/
def fenceLines (s : State) (gid : Nat) (g : Group) (scope : Nat) : List Nat :=
  match scope with
  | 0 => []
  | 1 => g.contrib.filter fun l => ((homeSlice s.variant (128 * l)).map (· / 16)) == some (gidDie gid)
  | _ => g.contrib

/-- The CLOSE-LINE packet of a fence (`ho` clear: it closes only a line its task opened without HO) or of CRU.CLOSE. -/
def closePacket (line task part : Nat) (force : Bool) : CruPacket :=
  { line, fl := 0, op := 0xC, ho := force, task, part, recs := [] }

/-- Send one message per entry, each with an access record of its own that the fence awaits. -/
def fenceMessages (s : State) (gid : Nat) (kind : AccKind) (name : String) (targets : List Nat) : State :=
  targets.foldl (fun s l =>
    let t := s.nextTag
    emit { s with accs := s.accs ++ [{ tag := t, instr := t, gid, kind, line := l, attr := 0, va := 0, pc := 0, word := 0 }], nextTag := t + 1 }
      (.unc name t l)) s

/-- Start a fence of a group: it sends its closes, flushes or invalidations, then awaits what R341 to R343 name. -/
def startFence (s : State) (gid : Nat) (release : Bool) (scope : Nat) (forBarrier : Bool) : State :=
  match group s gid with
  | none => s
  | some g =>
    let s :=
      if release then
        let s := sendPackets s gid 0 0 ((fenceLines s gid g scope).map fun l => (0, closePacket l g.task g.part false, [], 0))
        let s := modGroup s gid fun g => { g with contrib := [] }
        if scope = 3 then
          fenceMessages (modGroup s gid fun g => { g with windows := [] }) gid .flush "FLUSH_REM"
            (g.windows.map fun w => ((s.image.windows[w]?).map fun c => c.base / 128).getD 0)
        else s
      else if scope = 3 then fenceMessages s gid .inv "INV_REM" ((List.range 16).map (128 + ·))
      else s
    let mine := s.accs.filter fun a => a.gid == gid
    let waits := (mine.filter fun a => if release then relWaits scope a else acqWaits a || a.kind == .inv).map (·.tag)
    modGroup s gid fun g => { g with fence := some { waits, forBarrier } }

/-- Nothing that the fence awaits is outstanding. -/
def fenceDone (s : State) (f : Fence) : Bool := f.waits.all fun t => (accessOf s t).isNone

/-! ### Joins (R145) -/

/-- An issue step after which the active path leaves the active role and goes to the end of the rotation, changed by `f`. -/
def leaveTurn (g : Group) (f : Path → Path) : Group :=
  match activePath g with
  | none => g
  | some p => { g with paths := rotate (g.paths.erase p) ++ [f p], turn := 0, steps := g.steps + 1 }

def joinPcOf (g : Group) (id : Nat) : Option Nat := (g.entries.find? fun e => e.id == id).map (·.joinPc)

/-- Is the path waiting at the JOIN of an entry? -/
def waitsAt (id : Nat) (p : Path) : Bool := p.st == .atJoin && p.entries.head? == some id

/-- Merge the paths that `sel` picks into the place of the earliest, changed by `f`. The merged path belongs to the entries of
all of them, those of the earliest first. (DEDUCED, log 26) -/
def mergePaths (g : Group) (sel : Path → Bool) (f : Path → Path) : Group :=
  match g.paths.find? sel with
  | none => g
  | some first =>
    let them := g.paths.filter sel
    let merged := f { first with mask := them.foldl (fun m p => m ||| p.mask) 0,
                                 entries := (them.flatMap (·.entries)).eraseDups }
    { g with paths := (g.paths.map fun p => if p == first then merged else p).filter fun p => p == merged || !sel p }

/-- Close every entry whose paths all wait at its JOIN (R145); `k` bounds the entries. -/
def closeJoins : Nat → Group → Group
  | 0, g => g
  | k + 1, g =>
    match g.entries.find? fun e =>
        let mine := g.paths.filter fun p => p.entries.contains e.id
        !mine.isEmpty && mine.all (waitsAt e.id) with
    | none => { g with entries := g.entries.filter fun e => g.paths.any fun p => p.entries.contains e.id }
    | some e =>
      let g := mergePaths g (waitsAt e.id) fun p =>
        { p with st := .live, pc := p.pc + 8, entries := p.entries.filter (· != e.id) }
      closeJoins k { g with entries := g.entries.filter fun x => x.id != e.id }

/-! ### Team barriers (R149 to R151) -/

/-- Group slots of the team a group belongs to. -/
def teamGroups (s : State) (gid : Nat) : List Nat :=
  match group s gid with
  | none => []
  | some g =>
    (((cluster s (gidCluster gid)).teams.find? fun t => t.task == g.task && t.team == g.team).map fun t =>
      t.slots.map fun n => gid / 32 * 32 + n).getD [gid]

def popcount (m : W32) : Nat := ((List.range 32).filter fun i => m.getLsbD i).length

def barrierOf : PathState → Option Nat
  | .atBarrier b => some b
  | .arriving b => some b
  | _ => none

def isWaiting (p : Path) : Bool := p.st != .live

/-- Threads of a group at a barrier, and threads that have not exited. -/
def arrivedAt (g : Group) (b : Nat) : Nat := ((g.paths.filter fun p => p.st == .atBarrier b).map fun p => popcount p.mask).sum
def threadsLeft (g : Group) : Nat := (g.paths.map fun p => popcount p.mask).sum

/-- Release a group's paths at barrier `b`: those at one PC merge (R148). (DEDUCED, log 26) -/
def releaseAt (b : Nat) : Nat → Group → Group
  | 0, g => g
  | k + 1, g =>
    match g.paths.find? fun p => p.st == .atBarrier b with
    | none => g
    | some p =>
      releaseAt b k (mergePaths g (fun q => q.st == .atBarrier b && q.pc == p.pc) fun q => { q with st := .live, pc := q.pc + 8 })

/-- The FENCE.CL.ACQ of the paths that a barrier releases: it waits where loads of the group are outstanding (R343, R344). -/
def acquireReleased (s : State) (gid : Nat) : State :=
  let f := startFence s gid false 0 false
  if ((group s gid).bind (·.fence)).isNone && (((group f gid).bind (·.fence)).map fun x => !x.waits.isEmpty).getD false then f else s

/-- Complete the barriers at which every remaining thread of the team has arrived (R149). -/
def completeBarriers (s : State) (gid : Nat) : State :=
  let gs := teamGroups s gid
  (List.range 16).foldl (fun s b =>
    let all := gs.filterMap fun i => group s i
    let here := (all.map fun g => arrivedAt g b).sum
    if here ≠ 0 && here = (all.map threadsLeft).sum then
      gs.foldl (fun s i =>
        if ((group s i).map fun g => arrivedAt g b).getD 0 = 0 then s
        else acquireReleased (modGroup s i (releaseAt b 32)) i) s
    else s) s

/-- Barriers involved, with bit 16 for a JOIN (R158). -/
def barrierMask (g : Group) : W32 :=
  g.paths.foldl (fun m p =>
    match barrierOf p.st with
    | some b => m ||| bit32 (b % 16)
    | none => if p.st == .atJoin then m ||| bit32 16 else m) 0

/-- The BAR.T at which a path waits (R143). -/
def barWord (p : Path) : W64 := BitVec.ofNat 64 (0x03 + 256 * ((barrierOf p.st).getD 0 % 16))

/-- Park a group whose paths wait for different things: PC and word of the earliest path at a team barrier, and the waiting
threads (R158). R158 gives mask and PC for 0x71; a record of 0x72 has the same, and 0 for a group whose threads have all exited.
(DEDUCED, log 87) -/
def parkBarrier (s : State) (gid code : Nat) : State :=
  match group s gid with
  | none => s
  | some g =>
    let at' := g.paths.find? fun p => (barrierOf p.st).isSome
    parkGroup s gid { code := BitVec.ofNat 8 code, pc := (at'.map (·.pc)).getD 0, addr := 0, word := (at'.map barWord).getD 0,
                      mask := g.paths.foldl (fun m p => m ||| p.mask) 0, number := 0, barriers := barrierMask g }

/-- R150: every path waits, one of them at a team barrier, and not all at the same barrier. -/
def diverged (g : Group) : Bool :=
  !g.paths.isEmpty && g.paths.all isWaiting && (g.paths.any fun p => (barrierOf p.st).isSome) &&
    ((g.paths.map fun p => barrierOf p.st).eraseDups.length != 1)

/-- R151: every thread of the team waits at a team barrier, and not all at one. -/
def teamSplit (s : State) (gid : Nat) : Bool :=
  let ps := ((teamGroups s gid).filterMap fun i => group s i).flatMap (·.paths)
  !ps.isEmpty && (ps.all fun p => match p.st with | .atBarrier _ => true | _ => false) &&
    (ps.map (·.st)).eraseDups.length != 1

/-- What the scoreboard does after paths of a group stopped, arrived or exited (R145, R149 to R151). Every group of a split team is
parked, one whose threads have all exited too. (DEDUCED, log 87) -/
def scoreboard (s : State) (gid : Nat) : State :=
  let s := completeBarriers (modGroup s gid (closeJoins 16)) gid
  let s := if ((group s gid).map diverged).getD false then parkBarrier s gid 0x71 else s
  if teamSplit s gid then (teamGroups s gid).foldl (fun s i => parkBarrier s i 0x72) s else s

/-- The fence of a BAR.T has completed: its arrival counts (R344). -/
def arrive (s : State) (gid : Nat) : State :=
  scoreboard (modGroup s gid fun g =>
    { g with fence := none, paths := g.paths.map fun p =>
        match p.st with
        | .arriving b => { p with st := .atBarrier b }
        | _ => p }) gid

/-- Complete a fence whose awaited accesses are all acknowledged (R342, R343); a parked group's fence waits (R345). -/
def completeFence (s : State) (gid : Nat) : State :=
  match group s gid with
  | none => s
  | some g =>
    match g.fence with
    | none => s
    | some f =>
      if g.park.isSome || !fenceDone s f then s
      else if f.forBarrier then arrive s gid
      else setGroup s gid (some { g with fence := none })

/-- Complete at once a fence that awaits nothing: the arrival of a BAR.T, the exit of a group. -/
def completeIfIdle (s : State) (gid : Nat) : State :=
  match (group s gid).bind (·.fence) with
  | some f => if f.waits.isEmpty then completeFence s gid else s
  | none => s

end Sys2Proof.Machine
end

