-- ==== Sys2Proof/Machine/Flags.lean ====
section
/-! DEFINITION. Flag and status computations: QCMP and its sticky bits, completion records, and the fields of the status
registers: R362, R363, R365, R394 of 13, R473 of 16, R526 of 18. -/

namespace Sys2Proof.Machine

/-- A field of a register value. -/
def fld (v lo : Nat) : Nat := v * 2 ^ lo
def flag (b : Bool) (i : Nat) : Nat := if b then 2 ^ i else 0

/-- Sum of `2 ^ i` over the indices below `n` that satisfy `p`. -/
def maskOf (n : Nat) (p : Nat → Bool) : Nat := ((List.range n).map fun i => flag (p i) i).sum

/-! ### QCMP (R363) -/

def qcmpSeq (q : W64) : Nat := q.toNat % 2 ^ 32
def qcmpCode (q : W64) : Nat := q.toNat / 2 ^ 32 % 256
def qcmpSticky (q : W64) : Nat := q.toNat / 2 ^ 40 % 16

/-- The value written when a command with sequence number `seq` is counted: its code if it failed, the sticky bits joined with
`bits`, and the restart generation. -/
def qcmpAdvance (old : W64) (seq : W32) (code : Byte) (marks gen : Nat) : W64 :=
  BitVec.ofNat 64 (seq.toNat + fld (if code = 0 then qcmpCode old else code.toNat) 32
    + fld ((BitVec.ofNat 4 (qcmpSticky old) ||| BitVec.ofNat 4 marks).toNat) 40 + fld (gen % 2 ^ 16) 48)

/-- Marks of a command: bit 0 reduced precision (40), bit 1 replayed (41), bit 2 revoked (42) (R84, R538, R417). -/
def cmdMarks (c : Cmd) (revoke : Bool) : Nat := flag c.reduced 0 + flag c.replayed 1 + flag revoke 2

/-- QCMP before the first command completes (R363). -/
def qcmpFirst (first : W32) (gen : Nat) : W64 := BitVec.ofNat 64 ((first - 1).toNat + fld (gen % 2 ^ 16) 48)

/-- QCMP after a destroy: bit 43 and the tasks that had started and had not completed (R391). -/
def qcmpDestroyed (old : W64) (tasks : Nat) (revoke : Bool) (gen : Nat) : W64 :=
  BitVec.ofNat 64 (tasks % 2 ^ 32 + fld (qcmpCode old) 32
    + fld ((BitVec.ofNat 4 (qcmpSticky old) ||| BitVec.ofNat 4 (8 + flag revoke 2)).toNat) 40 + fld (gen % 2 ^ 16) 48)

/-- QCMP of QK after a partition reset (R424). -/
def qcmpReset (gen : Nat) : W64 := BitVec.ofNat 64 (0xFFFFFFFF + fld 8 40 + fld (gen % 2 ^ 16) 48)

/-- The write of R539 changes only bits 63:48. -/
def qcmpGen (old : W64) (gen : Nat) : W64 := BitVec.ofNat 64 (old.toNat % 2 ^ 48 + fld (gen % 2 ^ 16) 48)

/-! ### Completion record (R365, R473) -/

/-- Fraction of an interval, times 2^32; a whole interval reads 0xFFFF_FFFF. -/
def sharedFraction (shared len : Nat) : Nat :=
  if len = 0 then 0 else Nat.min 0xFFFFFFFF (shared * 2 ^ 32 / len)

def completionRecord (c : Cmd) (gen : Nat) : List Byte :=
  leBytes 4 c.seq.toNat ++ [c.code, BitVec.ofNat 8 (flag c.reduced 0 + flag c.replayed 1 + flag c.revoked 2)]
    ++ leBytes 2 gen ++ leBytes 8 c.acceptTime.toNat ++ leBytes 8 c.doneAt.toNat
    ++ leBytes 8 (c.energyEnd - c.energyAt)
    ++ leBytes 4 (sharedFraction c.shared (c.doneAt - c.acceptTime).toNat) ++ leBytes 4 c.version ++ slice [] 0 24

/-! ### Queue registers (R362) -/

/-- Is a declared queue held because full precision is required (R360)? -/
def isHeld (s : State) (q : Queue) : Bool := q.fpr && !s.dev.ledger

def queueState (q : Queue) : Nat := if !q.declared then 0 else if !q.bound then 1 else if q.destroying then 3 else 2

def qdbState (s : State) (q : Queue) : Nat :=
  if !q.declared then 0
  else (if q.bound then fld q.ctx 16 else 0) + flag q.devenq 7 + flag q.fpr 6 + flag (isHeld s q) 4 + flag (q.bound && q.stopped) 3 + queueState q

def qdbErr (q : Queue) : Nat := fld q.errSeq.toNat 32 + fld q.errIndex.toNat 16 + q.errCause.toNat

def qdbRing (q : Queue) : Nat := fld q.logsz 60 + q.base % 2 ^ 50 / 4096 * 4096

/-- Register of a queue slot at a slot offset. -/
def queueReg (s : State) (q : Queue) (off : Nat) : Nat :=
  let ro := fun (v : Nat) => if q.bound then v else 0
  match off with
  | 0x00 => q.qcmp.toNat
  | 0x08 => ro q.tail.toNat
  | 0x10 => ro q.head.toNat
  | 0x18 => ro (qdbRing q)
  | 0x20 => qdbState s q
  | 0x28 => ro (qdbErr q)
  | 0x30 => q.lastSeq.toNat
  | _ => 0

/-! ### Event-ring registers (R394) -/

def qdbEvstat (r : Part) : Nat := fld r.evLost.toNat 32 + flag (r.evLost != 0) 7 + r.evHeld.length % 128

/-! ### Service state (R524) -/

/-- Full service (R524 STATE = 2): the normal service of R164. -/
def fullServiceNow (s : State) : Bool := s.dev.st == 2

end Sys2Proof.Machine
end

