-- ==== Sys2Proof/Machine/Pins.lean ====
section
/-! DEFINITION. What the front end sets up for a task before it starts, and takes down after it: pins, reduction ranges, constant
blocks (R246, R247, R271, R290, R386). -/

namespace Sys2Proof.Machine

/-! ### Pins (R246, R290) -/

/-- Some proxy slice pins the line. -/
def proxyPinned (s : State) (line : Nat) : Bool :=
  (proxies s.variant line).any fun i => ((findLine (sliceOf s i) line).map fun c => c.pins != 0).getD false

/-- Keep the home's filter entry pinned exactly while a proxy pins the line (R290); `none` while the filter set has no entry to give,
whose victim is asked to leave (R289). -/
def syncFilter (s : State) (line : Nat) : Option State :=
  match homeSlice s.variant (128 * line) with
  | none => some s
  | some h =>
    let want := proxyPinned s line
    let mark := fun (sl : Slice) => { sl with filter := modWhere (fun x => x.line == line) (fun x => { x with pinned := want }) sl.filter }
    match findFilter (sliceOf s h) line with
    | some f => if want then some (modSlice s h mark) else some (if f.busy then modSlice s h mark else freeFilter (modSlice s h mark) h line)
    | none =>
      if !want then some s
      else if !filterRoom s h line then none
      else some (modSlice s h fun sl =>
        { sl with filter := sl.filter ++ [{ line, mask := 0, owner := false, pinned := true, order := sl.allocated }], allocated := sl.allocated + 1 })

/-- Ask for a pinned line that is not present (R246). -/
def fetchPin (s : State) (line i : Nat) : State :=
  let h := (homeSlice s.variant (128 * line)).getD i
  let sl := sliceOf s i
  if ((findLine sl line).map fun c => c.valid != 0xF#4).getD false && (findMiss sl line).isNone then
    (joinMiss s i h line fun m => m).getD s
  else s

/-- Count a pin of a line in a slice: the tag is allocated with its slots where it is absent, and the line fetched; a disabled slice
takes its pins when it is enabled (R246, R250). `none` while no tag, slots or filter entry can be had: the pin waits. -/
def pinLine (s : State) (line i : Nat) : Option State :=
  let h := (homeSlice s.variant (128 * line)).getD i
  let sl := sliceOf s i
  let full := decide (12 ≤ keptIn s.variant i (setIn s.variant i (128 * line)) sl.lines)
  let placed :=
    match findLine sl line with
    | some c => if full && !isKept c then none else placeLine (setLine s i { c with pins := c.pins + 1 }) i c
    | none =>
      if full then none
      else placeLine s i { line, st := if i = h then .home else .s, valid := 0, dirty := 0, data := 0, pins := 1 }
  if !sl.enabled then some s
  else (placed.bind fun s => if i = h then some s else syncFilter s line).map fun s => fetchPin s line i

/-- Take one pin away; a tag with neither pins nor data goes (R246). -/
def unpinLine (s : State) (line i : Nat) : State :=
  let less := fun (c : CLine) => { c with pins := c.pins - 1 }
  let s := modSlice s i fun sl =>
    { sl with lines := (modWhere (fun c => c.line == line && c.pins != 0) less sl.lines).map fun c =>
                if c.line == line then { c with slots := c.slots.take (lineSlots c) } else c }
  let s := if ((findLine (sliceOf s i) line).map fun c => c.hold).getD false then s else releaseLine s i line
  (syncFilter s line).getD s

/-- The pins of a node: slice and line of every ledge it names (R242, R246). -/
def nodePins (s : State) (d n : List Byte) : List (Nat × Nat) :=
  if nKind n ≠ 0 then []
  else
    (((List.range (gLedges d)).filter fun i => (nLedgeMask n).testBit i).map (gLedge d)).flatMap fun e =>
      (ledgeLines e).flatMap fun l => (pinSlices s (entByte e) l).map fun i => (l, i)

/-- Establish pins; those that must wait are left. -/
def pinAll : List (Nat × Nat) → State → State × List (Nat × Nat)
  | [], s => (s, [])
  | (l, i) :: ps, s =>
    match pinLine s l i with
    | some s => pinAll ps s
    | none =>
      let h := (homeSlice s.variant (128 * l)).getD i
      let (s, left) := pinAll ps (if i = h then s else makeEntry s h l)
      (s, (l, i) :: left)

def unpinAll (s : State) (ps : List (Nat × Nat)) : State := ps.foldl (fun s (l, i) => unpinLine s l i) s

/-- Is a pinned line there: present in its slice, or open in its crusher (R246, R263)? A disabled slice holds none. -/
def pinThere (s : State) (line i : Nat) : Bool :=
  !(sliceOf s i).enabled || ((findLine (sliceOf s i) line).map fun c => c.valid == 0xF#4).getD false || (openAt (crusher s i) line).isSome

/-! ### Reduction ranges (R271) -/

/-- Declared ranges of a node as the crushers hold them; their spill blocks follow one another from `base` (R271, R272). -/
def rangesFrom (tag : Nat) : List (List Byte) → Nat → List CruRange
  | [], _ => []
  | e :: es, base =>
    { task := tag, first := entBase e / 128, lines := entLines e, fl := BitVec.ofNat 4 (entByte e), spill := base } :: rangesFrom tag es (base + rangeClaim e)

/-- The ranges of a node: those of a compute node, or the destination of a collective's ADD (R271; DEDUCED, log 31). -/
def rangesOf (d n : List Byte) (tag base : Nat) : List CruRange :=
  rangesFrom tag (nodeRanges d n) base ++
    ((collRange n).map fun (first, lines, fl) => { task := tag, first, lines, fl, spill := base : CruRange }).toList

/-- Base of the ledger-spill area of a node of a launch (R272). -/
def areaBase (d : List Byte) (at' area node : Nat) : Nat :=
  at' + area * launchClaim d + ((List.range node).map fun j => nodeClaim d (gNode d j)).sum

def allSlices (variant : Nat) : List Nat :=
  ((List.range 144).filter fun i => decide (i < 16 * dieCount variant) || decide (128 ≤ i))

/-- The front end loads a task's ranges into every crusher (R271). -/
def loadRanges (s : State) (rs : List CruRange) : State :=
  if rs.isEmpty then s
  else (allSlices s.variant).foldl (fun s i => modCrusher s i fun c => { c with ranges := c.ranges ++ rs }) s

def dropRanges (s : State) (tag : Nat) : State :=
  (allSlices s.variant).foldl (fun s i =>
    if (crusher s i).ranges.any fun r => r.task == tag then
      modCrusher s i fun c => { c with ranges := c.ranges.filter fun r => r.task ≠ tag }
    else s) s

/-! ### Constant blocks (R379, R386) -/

/-- Lines of the constant blocks of a node: base in bits 49:7, length in KiB in bits 63:50. -/
def constLines (n : List Byte) : List Nat :=
  [fieldAt n 32 8, fieldAt n 40 8].flatMap fun v =>
    (List.range (8 * (v / 2 ^ 50))).map fun i => v % 2 ^ 50 / 128 + i

/-- Fetch the constant blocks into their home slices and the proxy slices of the placement dies; preload never changes a
result (R386). -/
def fetchConsts (s : State) (n : List Byte) : State :=
  (constLines n).foldl (fun s l =>
    match target s.variant (128 * l), homeSlice s.variant (128 * l) with
    | .remote, _ => s
    | _, none => s
    | _, some h =>
      let at' := h :: ((List.range (dieCount s.variant)).filter fun d => (nDies n).testBit d && d ≠ h / 16).map fun d => 16 * d + h % 16
      at'.foldl (fun s i =>
        let sl := sliceOf s i
        if !sl.enabled || ((findLine sl l).map fun c => c.valid == 0xF#4).getD false then s else (joinMiss s i h l fun m => m).getD s) s) s

end Sys2Proof.Machine
end

