-- ==== Sys2Proof/Machine/Front.lean ====
section
/-! DEFINITION. The front end's shared operations: stopping a queue, completing a command, ending tasks and launches, discarding
work, and the registered versions of graphs: R359, R364, R372, R373, R385, R389 to R391 of 13, R279, R280, R407, R408, R473. -/

namespace Sys2Proof.Machine

/-! ### Shared run time (R473) -/

def findCmd (x : Queue) (seq : W32) : Option Cmd := x.cmds.find? fun c => c.seq == seq
def modCmd (s : State) (p q : Nat) (seq : W32) (f : Cmd → Cmd) : State :=
  modQueue s p q fun x => { x with cmds := modWhere (fun c => c.seq == seq) f x.cmds }

/-- Add the time since the last account to every unfinished command beside which another launch ran. -/
def accountShared (s : State) : State :=
  let dt := (s.portTime - s.shareAt).toNat
  let run := s.launches.filter (·.started)
  let s := { s with shareAt := s.portTime }
  if dt = 0 || run.isEmpty then s
  else
    { s with parts := s.parts.map fun (p, r) => (p, { r with queues := r.queues.map fun (q, x) => (q, { x with cmds := x.cmds.map fun c =>
        if c.accepted && !c.done && (run.any fun l => !(l.part == p && l.q == q && l.seq == c.seq)) then { c with shared := c.shared + dt } else c }) }) }

/-! ### Queues -/

/-- Index of a queue slot in the events of R393. -/
def slotOf (q : Nat) : Nat := q

/-- Stop a queue: its error record and the event of type 2, whatever the cause (R358, R359, R373). -/
def stopQueue (s : State) (p q cause : Nat) (seq : W32) (index : Nat) : State :=
  let s := modQueue s p q fun x =>
    { x with stopped := true, errCause := BitVec.ofNat 8 cause, errSeq := seq, errIndex := BitVec.ofNat 16 index }
  postEvent s p (event 2 0 (slotOf q) seq (leBytes 8 (qdbErr (queue s p q))))

/-- A command ends with a code; it counts in sequence order when COMMAND_COMPLETE reaches it (R363, R364). -/
def finishCmd (s : State) (p q : Nat) (seq : W32) (code : Nat) : State :=
  let s := accountShared s
  modCmd s p q seq fun c =>
    if c.done then c else { c with done := true, code := BitVec.ofNat 8 code, doneAt := s.portTime, energyEnd := s.power.energy }

/-! ### Versions (R383 to R385) -/

def descrOf (s : State) (p h v : Nat) : Option (List Byte) :=
  (graphOf s p h).bind fun g => (g.versions.find? fun (n, _, _) => n == v).map fun (_, d, _) => d

/-- Free the versions that are neither current nor captured; a released graph without versions is gone. -/
def freeVersions (s : State) (p h : Nat) : State :=
  match graphOf s p h with
  | none => s
  | some g =>
    let live := g.versions.filter fun (v, _, _) =>
      (!g.released && v == g.current) || s.launches.any fun l => l.part == p && l.handle == h && l.version == v
    setGraph s p h (if live.isEmpty then none else some { g with versions := live })

def launchNode (s : State) (l : Launch) (i : Nat) : List Byte :=
  ((descrOf s l.part l.handle l.version).map fun d => gNode d i).getD []
def launchDescr (s : State) (l : Launch) : List Byte := (descrOf s l.part l.handle l.version).getD []

/-! ### Discarding a task's work (R280, R389, R414, R425) -/

/-- Accesses of a group that is gone keep this group number until they are performed (R389 phase 3). -/
def orphanGid : Nat := 2 ^ 20

/-- Loads and ATOMs of a group vanish with it; its writes stay and drain. -/
def orphan (s : State) (gid : Nat) : State :=
  { s with accs := (s.accs.filter fun a => a.gid != gid || a.kind == .store || a.kind == .update).map fun a =>
      if a.gid == gid then { a with gid := orphanGid } else a }

/-- Remove a group: its park record becomes free (R389). -/
def dropGroup (s : State) (gid : Nat) : State :=
  match group s gid with
  | none => s
  | some g =>
    let s := match g.park, ctxOf s g.part g.ctx with
      | some k, some c => clearRecord s g.part c k.number
      | _, _ => s
    setGroup (orphan s gid) gid none

def teamGids (cl : Nat) (t : Team) : List Nat := t.slots.map fun n => groupId cl t.core n

/-! ### The size of the local store (R164, R165) -/

/-- Configured local-store size of a cluster in MiB (R490); 0 under the recovery configuration, which assigns no cluster and gives
no size (DESIGN CHOICE, log 55). -/
def configuredL (s : State) (cl : Nat) : Nat := (look (0, 0) s.image.clusters cl).2

/-- Does a range of physical addresses meet the cluster's window? -/
def meetsWindow (cl lo n : Nat) : Bool := decide (windowAddr cl 0 < lo + n) && decide (lo < windowAddr cl 0 + 0x1000000)

/-- A window access to the cluster is in progress: an access that is outstanding, or a transfer of an engine (R165). -/
def windowBusy (s : State) (cl : Nat) : Bool :=
  (s.accs.any fun a => match target s.variant (128 * a.line) with
    | .window c _ => c == cl
    | _ => false)
  || s.tasks.any fun t => t.descBusy.any fun d => meetsWindow cl d.src d.len || meetsWindow cl d.dst d.len

/-- L may change (R165). -/
def mayChangeL (s : State) (cl : Nat) : Bool := (cluster s cl).teams.isEmpty && !windowBusy s cl

/-- Change L: the read-only caches are invalidated (R165, R249). -/
def changeL (s : State) (cl l : Nat) (byLaunch : Bool) : State :=
  modCluster s cl fun x => { x with ls := l, lsByLaunch := byLaunch, lsTest := false, ro := [] }

/-- L returns to its configured size at the first moment that R165 permits: in normal service, or after a test that chose it
(R164, R545). -/
def returnL (s : State) (cl : Nat) : State :=
  let away := (cluster s cl).ls ≠ configuredL s cl || (cluster s cl).lsByLaunch
  if away && (fullServiceNow s || (cluster s cl).lsTest) && !(die s (cl / 16)).clTesting.getLsbD (cl % 16) && mayChangeL s cl then
    changeL s cl (configuredL s cl) false
  else s

/-- A window access to a line has ended. -/
def returnAt (s : State) (line : Nat) : State :=
  match target s.variant (128 * line) with
  | .window c _ => returnL s c
  | _ => s

def allClusters (variant : Nat) : List Nat := List.range (clusterCount variant)

/-- Every cluster returns to its configured size that may. -/
def returnAllL (s : State) : State := (allClusters s.variant).foldl returnL s

/-- Remove the teams of a task, or of every task in `sel`, from a cluster without saving them. -/
def dropTeams (s : State) (cl : Nat) (sel : Nat → Bool) : State :=
  let mine := (cluster s cl).teams.filter fun t => sel t.task
  let s := mine.foldl (fun s t => (teamGids cl t).foldl dropGroup s) s
  returnL (modCluster s cl fun x => { x with teams := x.teams.filter fun t => !sel t.task }) cl

/-- Park records of a snapshot's groups become free. -/
def freeSnapRecords (s : State) (x : Snapshot) : State :=
  (x.teams.flatMap fun (_, gs, _) => gs).foldl (fun s (_, g) =>
    match g.park, ctxOf s g.part g.ctx with
    | some k, some c => clearRecord s g.part c k.number
    | _, _ => s) s

def dropSnaps (s : State) (sel : Nat → Bool) : State :=
  s.clusters.foldl (fun s (c, x) =>
    x.snaps.foldl (fun s (n, v) =>
      match v with
      | some sn => if sel sn.task then modCluster (freeSnapRecords s sn) c fun y => { y with snaps := put none y.snaps n none } else s
      | none => s) s) s

/-- Updates of tasks that are gone are not performed: those that wait at a spilled line or at the home agent go, and a transaction
begun for one ends without it (R280). -/
def dropUpdates (s : State) (i : Nat) (sel : CruPacket → Bool) : State :=
  let s := modCrusher s i fun c => { c with lines := c.lines.map fun l => { l with waiting := dropWhere sel l.waiting } }
  let gone := fun (r : HomeReq) => match r with
    | .update k => sel k
    | _ => false
  modSlice s i fun sl =>
    { sl with waiting := dropWhere (fun (_, r) => gone r) sl.waiting,
              txns := sl.txns.map fun t => if gone t.req then { t with req := .evict t.line } else t }

/-- Open crusher lines of a task are discarded, and its ranges go (R280). -/
def dropLines (s : State) (sel : Nat → Bool) : State :=
  (allSlices s.variant).foldl (fun s i =>
    let mine := (crusher s i).lines.filter fun l => sel l.task
    let s := dropUpdates (mine.foldl (fun s l => discardOpen s i l.line) s) i fun k => sel k.task
    if mine.isEmpty && !((crusher s i).closing.any sel) then s
    else wake (modCrusher s i fun c => { c with closing := c.closing.filter fun t => !sel t }) i) s

/-- Pins that a task has established. -/
def taskPins (s : State) (t : Task) : List (Nat × Nat) :=
  if !t.pinned then []
  else
    match launchOf s t.launch with
    | some l => let d := launchDescr s l; (nodePins s d (gNode d t.node)).filter fun p => !t.pinLeft.contains p
    | none => []

/-- Release what a task holds beside its teams (R246, R271, R386). -/
def releaseTask (s : State) (t : Task) : State :=
  dropRanges (unpinAll s (taskPins s t)) t.tag

/-- Discard tasks: teams, snapshots, transfers, open lines, pins (R389 phases 2 to 4). A collective that had started sends
"aborted" to its peers (R389, R447). -/
def discardTasks (s : State) (sel : Task → Bool) : State :=
  let ts := s.tasks.filter sel
  let is := fun (n : Nat) => ts.any fun t => t.tag == n
  let s := (allClusters s.variant).foldl (fun s c => if (cluster s c).teams.any fun t => is t.task then dropTeams s c is else s) s
  let s := dropLines (dropSnaps s is) is
  let s := ts.foldl (fun s t => if t.kind == 2 && t.st != .preloaded then emit s (.front "ABORTED" t.tag t.part) else s) s
  let s := ts.foldl releaseTask s
  { s with tasks := s.tasks.filter fun t => !sel t }

/-- Had the task started and not completed (R391)? -/
def taskOpen (t : Task) : Bool := t.st != .preloaded && t.st != .done

/-! ### Ends of launches and tasks (R372, R279, R375, R407) -/

def freeSlot (s : State) (l : Launch) : State :=
  match l.constSlot, ctxOf s l.part l.ctx with
  | some n, some c => setCtx s l.part l.ctx (some { c with slotsUsed := c.slotsUsed.filter (· ≠ n) })
  | _, _ => s

/-- A launch leaves: constant slot, captured version and preloads are released. -/
def dropLaunch (s : State) (l : Launch) : State :=
  let s := discardTasks s fun t => t.launch == l.id
  let s := accountShared (freeSlot s l)
  freeVersions { s with launches := s.launches.filter fun x => x.id != l.id } l.part l.handle

def nodeStates (s : State) (l : Launch) : List NodeState :=
  (List.range (gNodes (launchDescr s l))).map fun i => look .idle l.nodes i

/-- Complete the launch when every node has, or when one failed and no task runs any more (R372). -/
def settleLaunch (s : State) (id : Nat) : State :=
  match launchOf s id with
  | none => s
  | some l =>
    let ns := nodeStates s l
    let busy := s.tasks.any fun t => t.launch == id && taskOpen t
    if ns.all (· == .done) || (l.failed ≠ 0 && !busy) then
      finishCmd (dropLaunch s l) l.part l.q l.seq l.failed.toNat
    else s

/-- A task has completed: its node is done (R279, R348, R372). -/
def taskDone (s : State) (tag : Nat) : State :=
  match taskOf s tag with
  | none => s
  | some t =>
    let s := releaseTask s t
    let s := { s with tasks := s.tasks.filter fun x => x.tag != tag }
    let s := modLaunch s t.launch fun l =>
      { l with nodes := put .idle l.nodes t.node .done, failed := if l.failed = 0 then t.fault else l.failed }
    settleLaunch s t.launch

/-- A task fails with a code: its launch starts no further node (R372). -/
def failTask (s : State) (tag code : Nat) : State :=
  match taskOf s tag with
  | none => s
  | some t =>
    let c : Byte := BitVec.ofNat 8 code
    modLaunch (modTask s tag fun x => { x with fault := if x.fault = 0 then c else x.fault }) t.launch fun l =>
      { l with failed := if l.failed = 0 then c else l.failed }

/-- In-service slices that a CLOSE-TASK reaches (R279). -/
def servingSlices (s : State) : List Nat :=
  (allSlices s.variant).filter fun i => decide (128 ≤ i) || dieServes s (i / 16)

/-- After the last arrival the front end sends CLOSE-TASK: one multicast to the crushers of those slices (R279). -/
def closeTask (s : State) (tag : Nat) : State :=
  let l := servingSlices s
  let dies := BitVec.ofNat 9 (maskOf 9 fun d => d == 8 || l.contains (16 * d))
  emit (modTask s tag fun t => { t with st := .closing, closes := l }) (.multi "CLOSE_TASK" 3 dies 0xFFFF tag)

/-- A crusher has acknowledged the CLOSE-TASK; the last one completes the task (R279). -/
def closeAcked (s : State) (sid tag : Nat) : State :=
  let s := modTask s tag fun t => { t with closes := t.closes.filter (· ≠ sid) }
  match taskOf s tag with
  | some t => if t.st == .closing && t.closes.isEmpty then taskDone s tag else s
  | none => s

/-! ### Metering (R408) -/

/-- Withdraw a launch's commands: fail every accepted command of a queue that has not completed (R373, R424). -/
def failQueue (s : State) (p q code : Nat) : State :=
  ((queue s p q).cmds.filter fun c => c.accepted && !c.done).foldl (fun s c => finishCmd s p q c.seq code) s

/-- Launches of a queue end with it. -/
def dropLaunches (s : State) (sel : Launch → Bool) : State :=
  (s.launches.filter sel).foldl dropLaunch s

/-- Queues of a partition, by slot. -/
def slotsOf (s : State) (p : Nat) : List Nat := ((part s p).queues.map fun (q, _) => q)

/-- Phases 1 to 4 of a destroy: fetch stops, the launches and their work go (R389); the tasks that were open are counted (R391). -/
def destroyQueue (s : State) (p q : Nat) : State :=
  let mine := fun (t : Task) => ((launchOf s t.launch).map fun l => l.part == p && l.q == q).getD false
  let open' := (s.tasks.filter fun t => mine t && taskOpen t).length
  let s := discardTasks s mine
  let s := dropLaunches s fun l => l.part == p && l.q == q
  modQueue s p q fun x => { x with destroying := true, openTasks := open', cmds := [] }

/-- Phase 5 of R389: the slot is unbound, and QCMP shows what R391 gives it. -/
def endDestroy (s : State) (p q : Nat) : State :=
  modQueue s p q fun x =>
    if x.destroying then
      { declared := x.declared, devenq := x.devenq, fpr := x.fpr, lastSeq := x.lastSeq,
        qcmp := qcmpDestroyed x.qcmp x.openTasks x.revokeMark s.dev.gen.toNat }
    else x

/-- TEARDOWN of a context (R373): its tasks are discarded; the accepted commands of its queues complete with the code; the
queues stop with cause 0. Records not yet fetched stay in their rings. -/
def teardown (s : State) (p ctx code : Nat) : State :=
  let qs := (slotsOf s p).filter fun q => let x := queue s p q; x.bound && q ≠ 0 && x.ctx == ctx
  let s := discardTasks s fun t => t.part == p && t.ctx == ctx
  -- a launch of the context from QK fails too: the command that launched the task (R159)
  let s := (s.launches.filter fun l => l.part == p && l.ctx == ctx).foldl (fun s l =>
    finishCmd (dropLaunch s l) p l.q l.seq code) s
  qs.foldl (fun s q => stopQueue (failQueue s p q code) p q 0 (queue s p q).lastSeq 0) s

end Sys2Proof.Machine
end

