-- ==== Sys2Proof/Machine/Teams.lean ====
section
/-! DEFINITION. Placing, starting, saving and restoring teams: R128 to R130, R132 to R136, R164 to R168, R376, R397, R409 to R414. -/

namespace Sys2Proof.Machine

/-! ### Room for a team (R134 to R136, R164, R168) -/

/-- Claims of a team of a node. -/
structure Claims where
  groups : Nat
  regs : Nat
  accs : Nat
  store : Nat
  deriving DecidableEq, Repr

def claimsOf (n : List Byte) : Claims := { groups := nG n, regs := nRegs n, accs := nAccs n, store := nStore n }
def teamClaims (t : Team) : Claims := { groups := t.groups, regs := t.regGrant, accs := t.accGrant, store := t.lsSize }

def coreTeams (s : State) (cl core : Nat) : List Team := (cluster s cl).teams.filter fun t => t.core == core

/-- Free group slots of a core. -/
def freeSlots (s : State) (cl core : Nat) : List Nat :=
  let used := (coreTeams s cl core).flatMap (·.slots)
  (List.range 32).filter fun n => !used.contains n

/-- The combined claims stay within the core (R135). -/
def fitsCore (s : State) (cl core : Nat) (k : Claims) : Bool :=
  let ts := coreTeams s cl core
  decide (k.groups ≤ (freeSlots s cl core).length) && decide (ts.length < 16)
    && decide ((ts.map fun t => 32 * t.groups * t.regGrant).sum + 32 * k.groups * k.regs ≤ 65536)
    && decide ((ts.map fun t => t.accGrant * t.groups).sum + k.accs * k.groups ≤ 4)

/-- The core with the most free group slots, the lowest-numbered on a tie (R136). -/
def chooseCore (s : State) (cl : Nat) (k : Claims) : Option Nat :=
  ((List.range 12).filter fun c => fitsCore s cl c k).foldl
    (fun best c => match best with
      | none => some c
      | some b => if (freeSlots s cl b).length < (freeSlots s cl c).length then some c else some b) none

/-- Lowest free range of the local store below `l` bytes (R168; DESIGN CHOICE, log 27). -/
def storeGap (ts : List Team) (size l : Nat) : Option Nat :=
  if size = 0 then some 0
  else
    let busy := ts.filter fun t => t.lsSize ≠ 0
    let starts := 0 :: busy.map fun t => t.lsBase + t.lsSize
    (starts.filter fun a => decide (a + size ≤ l) && busy.all fun t => decide (a + size ≤ t.lsBase) || decide (t.lsBase + t.lsSize ≤ a)).foldl
      (fun best a => match best with
        | none => some a
        | some b => if a < b then some a else some b) none

/-- Local-store size that a launch wants of a cluster (R164). -/
def wantedL (s : State) (l : Launch) (cl : Nat) : Nat := if fullServiceNow s || l.ls = 0 then configuredL s cl else l.ls

/-- Where a team fits on a cluster: core and local-store base, and whether L must change. -/
def teamRoom (s : State) (l : Launch) (k : Claims) (cl : Nat) : Option (Nat × Nat) :=
  let want := wantedL s l cl
  if (cluster s cl).ls ≠ want && !mayChangeL s cl then none
  else
    match chooseCore s cl k, storeGap (cluster s cl).teams k.store (want * 0x100000) with
    | some c, some b => some (c, b)
    | _, _ => none

/-! ### Which clusters a task may use (R410) -/

/-- The admitted deadline reservation that a launch still has (R408, R409). -/
def launchResv (s : State) (l : Launch) : Option (Nat × ResvCfg) := if l.demoted then none else deadlineOf s l.part l.ctx

def eligible (s : State) (l : Launch) (n : List Byte) (cl : Nat) : Bool :=
  decide (cl < clusterCount s.variant) && clusterServes s cl && clusterOwner s cl == some l.part &&
    (match launchResv s l with
     | some (_, r) => r.mask.getLsbD cl
     | none => dieAllowed n cl)

/-! ### Start of a team (R376) -/

def constVaOf (s : State) (l : Launch) : Nat :=
  ((ctxOf s l.part l.ctx).map fun c => c.constVa + 4096 * (l.constSlot.getD 0)).getD 0

/-- Registers r0 to r7 at a group's start. -/
def startRegs (cl core team index va teams node : Nat) : List (Nat × W32) :=
  [(0, BitVec.ofNat 32 team), (1, BitVec.ofNat 32 index), (2, BitVec.ofNat 32 va), (3, BitVec.ofNat 32 (va / 2 ^ 32)),
   (4, BitVec.ofNat 32 (cl % 16 + 16 * (cl / 16) + 256 * core)), (5, BitVec.ofNat 32 teams), (6, BitVec.ofNat 32 node)]

def startGroup (s : State) (l : Launch) (t : Task) (n : List Byte) (cl core team index : Nat) : Group :=
  let g : Group := { part := l.part, ctx := l.ctx, task := t.tag, team, index, regGrant := nRegs n, accGrant := nAccs n,
                     paths := [{ pc := nPc n, mask := BitVec.allOnes 32 }], held := nGang n }
  let rs := startRegs cl core team index (constVaOf s l) (nTeams n) t.node
  (List.range 32).foldl (fun g lane => rs.foldl (fun g (r, v) => writeReg g lane r v) g) g

/-- Put a team on a cluster: its slots, its local store and its groups; a task new to the cluster invalidates the read-only
caches (R249). -/
def placeTeam (s : State) (l : Launch) (t : Task) (n : List Byte) (cl team core base : Nat) : State :=
  let want := wantedL s l cl
  let s := if (cluster s cl).ls ≠ want then changeL s cl want (!fullServiceNow s && l.ls ≠ 0) else s
  let s := if (cluster s cl).teams.any fun x => x.task == t.tag then s else invalidateRo s cl
  let slots := (freeSlots s cl core).take (nG n)
  let rec' : Team := { task := t.tag, team, core, groups := nG n, regGrant := nRegs n, accGrant := nAccs n, lsBase := base,
                       lsSize := nStore n, slots }
  let s := modCluster s cl fun x => { x with teams := x.teams ++ [rec'] }
  let s := slots.zipIdx.foldl (fun s (n', i) => setGroup s (groupId cl core n') (some (startGroup s l t n cl core team i))) s
  modTask s t.tag fun x => { x with startedTeams := x.startedTeams ++ [team], placed := x.placed ++ [(team, cl)] }

/-- The groups of a gang node go once all its teams are placed (R376). -/
def releaseGang (s : State) (tag : Nat) : State :=
  (allClusters s.variant).foldl (fun s c =>
    ((cluster s c).teams.filter fun t => t.task == tag).foldl (fun s t =>
      (teamGids c t).foldl (fun s g => modGroup s g fun x => { x with held := false }) s) s) s

/-! ### Saving and restoring (R128 to R130, R414) -/

/-- Group number under which the accesses of a saved group are kept. -/
def savedGid (task team index : Nat) : Nat := 2 ^ 24 + (task * 2 ^ 32 + team) * 32 + index

/-- Stores, updates, ATOMs and ENQs complete before their group is saved (R128); one that has failed waits for its replay. -/
def maySave (s : State) (gid : Nat) : Bool :=
  !(s.accs.any fun a => a.gid == gid && a.failed == 0 && (a.kind == .atomRet || a.kind == .store || a.kind == .update))

/-- Move a group's accesses to another group number; loads take fresh tags, so that answers to the abandoned ones are not
taken for those of the reissued ones (R128). -/
def moveAccesses (s : State) (gid new : Nat) : State :=
  let loads := (s.accs.filter fun a => a.gid == gid && a.kind == .load).map (·.tag)
  let fresh := fun (t : Nat) => match loads.findIdx? (· == t) with
    | some i => s.nextTag + i
    | none => t
  let s := { s with accs := s.accs.map (fun a => if a.gid == gid then { a with gid := new, tag := fresh a.tag } else a),
                    nextTag := s.nextTag + loads.length }
  -- the fence of the group, where it stood or where it now stands, awaits the fresh tags
  let follow := fun (g : Group) => { g with fence := g.fence.map fun f => { f with waits := f.waits.map fresh } }
  modGroup (modGroup s gid follow) new follow

/-- Bytes of a team's local store, by offset. -/
def storeCells (s : State) (cl : Nat) (t : Team) : List Host.Cell :=
  let base := windowAddr cl t.lsBase
  (s.mem.filter fun (a, _) => decide (base ≤ a) && decide (a < base + t.lsSize)).map fun (a, b) => (a - base, b)

/-- Write cells back at another base; unlisted bytes are zero. -/
def restoreCells (s : State) (cl : Nat) (t : Team) (cells : List Host.Cell) : State :=
  let base := windowAddr cl t.lsBase
  let cleared := s.mem.filter fun (a, _) => !(decide (base ≤ a) && decide (a < base + t.lsSize))
  { s with mem := cells.foldl (fun m (o, b) => writeByte m (base + o) b) cleared }

/-- Loads are abandoned, with what has arrived of them (R128); an ACC.RESTORE, which has not advanced, starts afresh. -/
def abandonLoads (s : State) (gid : Nat) : State :=
  let image := fun (a : Access) => a.gid == gid && a.pieces.any fun p => p.lane == 32
  modGroup { s with accs := modWhere (fun a => a.gid == gid && a.kind == .load) (fun a => { a with got := none }) (dropWhere image s.accs) }
    gid fun g => { g with image := [] }

/-- Save one team (R414). (DESIGN CHOICE, log 112) -/
def saveTeam (s : State) (cl : Nat) (t : Team) : State × (Team × List (Nat × Group) × List Host.Cell) :=
  let gids := teamGids cl t
  let s := gids.foldl (fun s g =>
    match group s g with
    | some x => moveAccesses (abandonLoads s g) g (savedGid x.task x.team x.index)
    | none => s) s
  let gs := gids.filterMap fun g => (group s g).map fun x => (x.index, x)
  let cells := storeCells s cl t
  let s := gids.foldl (fun s g => setGroup s g none) s
  (returnL (modCluster s cl fun x => { x with teams := x.teams.filter (· != t) }) cl, (t, gs, cells))

def saveTeams (cl : Nat) : List Team → State → State × List (Team × List (Nat × Group) × List Host.Cell)
  | [], s => (s, [])
  | t :: ts, s =>
    let (s, a) := saveTeam s cl t
    let (s, l) := saveTeams cl ts s
    (s, a :: l)

def snapUsed (x : Cluster) (n : Nat) : Bool := (look none x.snaps n).isSome

/-- A snapshot slot for a save: a free one, or the oldest one's after it has moved to the overflow save region, whose places
are numbered from 4 (R397, R414). -/
def snapSlot (x : Cluster) : Nat × Cluster :=
  match (List.range 4).find? fun n => !snapUsed x n with
  | some n => (n, x)
  | none =>
    let oldest := (x.snaps.filter fun (n, _) => decide (n < 4)).foldl (fun best (n, v) =>
      match best, v with
      | none, some sn => some (n, sn)
      | some (m, b), some sn => if sn.order < b.order then some (n, sn) else some (m, b)
      | b, none => b) (none : Option (Nat × Snapshot))
    match oldest with
    | none => (0, x)
    | some (n, sn) =>
      let next := x.snaps.foldl (fun m (k, _) => Nat.max m (k + 1)) 4
      (n, { x with snaps := put none (put none x.snaps n none) next (some sn) })

/-- Save the teams of a task on a cluster into a snapshot slot (R414). -/
def preemptOn (s : State) (tag cl : Nat) : State :=
  let mine := (cluster s cl).teams.filter fun t => t.task == tag
  if mine.isEmpty || !((mine.flatMap (teamGids cl)).all (maySave s)) then s
  else
    let (s, l) := saveTeams cl mine s
    let (n, x) := snapSlot (cluster s cl)
    let order := x.snaps.foldl (fun m (_, v) => Nat.max m ((v.map (·.order + 1)).getD 0)) 0
    let s := setCluster s cl { x with snaps := put none x.snaps n (some { task := tag, order, teams := l }) }
    modTask s tag fun t =>
      let left := t.placed.filter fun (_, c) => c ≠ cl
      { t with placed := left, st := if left.isEmpty then .preempted else t.st }

/-- Where the snapshot of a task that a RESUME names lies: the cluster's own slot first, then another's, then the overflow
region. -/
def findSnap (s : State) (tag cl slot : Nat) : Option (Nat × Nat × Snapshot) :=
  let mine := s.clusters.flatMap fun (c, x) => x.snaps.filterMap fun (n, v) =>
    match v with
    | some sn => if sn.task == tag then some (c, n, sn) else none
    | none => none
  match mine.find? fun (c, n, _) => c == cl && n == slot with
  | some x => some x
  | none =>
    match mine.find? fun (_, n, _) => n == slot with
    | some x => some x
    | none => mine.find? fun (_, n, _) => decide (4 ≤ n)

/-- Send an access again that failed and was given leave to try again; a load reissues with its whole instruction. -/
def resend (s : State) (a : Access) : State :=
  let s := { s with accs := modWhere (fun x => x.tag == a.tag) (fun x => { x with failed := 0 }) s.accs }
  match a.kind with
  | .load => if (accessOf s a.tag).isSome then reissueLoads s a.gid a.instr else s
  | .store => performStore s a.tag
  | .update => sendUpdate s a.tag
  | .atomRet => sendUpdate s a.tag
  | .flush => emit s (.unc "FLUSH_REM" a.tag a.line)
  | .inv => emit s (.unc "INV_REM" a.tag a.line)

/-- Put a saved team back: registers, accumulators, paths and MMA progress as saved, on whatever core (R130). -/
def restoreTeam (s : State) (cl core base : Nat) (x : Team × List (Nat × Group) × List Host.Cell) : State :=
  let (t, gs, cells) := x
  let slots := (freeSlots s cl core).take t.groups
  let t' := { t with core, lsBase := base, slots }
  let s := restoreCells (modCluster s cl fun c => { c with teams := c.teams ++ [t'] }) cl t' cells
  let s := gs.foldl (fun s (i, g) =>
    let gid := groupId cl core (slots.getD i 0)
    moveAccesses (setGroup s gid (some g)) (savedGid g.task g.team g.index) gid) s
  gs.foldl (fun s (i, g) =>
    let gid := groupId cl core (slots.getD i 0)
    let loads := ((s.accs.filter fun a => a.gid == gid && a.kind == .load).map (·.instr)).eraseDups
    -- the loads of a failed instruction wait for the replay of a parked group
    let s := (loads.filter fun i => g.park.isNone || (loadMates s gid i).all fun a => a.failed == 0).foldl (fun s i => reissueLoads s gid i) s
    (s.accs.filter fun a => a.gid == gid && a.kind != .load && a.failed ≠ 0 && g.park.isNone).foldl resend s) s

/-- Restore as many saved teams as the list holds; `none` when one does not fit. -/
def restoreAll (l : Launch) (cl : Nat) : List (Team × List (Nat × Group) × List Host.Cell) → State → Option State
  | [], s => some s
  | x :: xs, s =>
    match teamRoom s l (teamClaims x.1) cl with
    | none => none
    | some (core, base) => restoreAll l cl xs (restoreTeam s cl core base x)

/-- A context's slice begins when its tasks start or resume (R412). -/
def beginSlice (s : State) (p ctx : Nat) : State :=
  modPart s p fun r => if (r.slices.any fun (c, _) => c == ctx) then r else { r with slices := put 0 r.slices ctx ((die s 8).time.toNat + 1) }

/-! ### Purge (R423, R425) -/

/-- Zero the cluster memory of a cluster, its error marks included (R166, R423). -/
def zeroCluster (s : State) (cl : Nat) : State :=
  let base := windowAddr cl 0
  let here := fun (a : Nat) => decide (base ≤ a) && decide (a < base + winStride)
  { s with mem := s.mem.filter fun (a, _) => !here a,
           poison := s.poison.filter fun (k, _) => !(decide (2 ^ 48 ≤ k) && here ((k - 2 ^ 48) * 8)) }

/-- Discard a partition's translations, read-only lines and snapshots at a cluster. -/
def purgeCluster (s : State) (p cl : Nat) : State :=
  let owned := clusterOwner s cl == some p
  modCluster s cl fun x =>
    { x with tlb := x.tlb.filter fun e => e.part ≠ p, ptrs := x.ptrs.filter fun e => e.part ≠ p, ro := if owned then [] else x.ro, snaps := if owned then [] else x.snaps }

/-- Discard a partition's open lines, pins and remote copies at a slice. -/
def purgeSlice (s : State) (p sid : Nat) : State :=
  let s := ((crusher s sid).lines.filter fun l => l.part == p).foldl (fun s l => discardOpen s sid l.line) s
  let s := dropUpdates s sid fun k => k.part == p
  -- pins are given up once, for every slice
  let s := (s.tasks.filter fun t => t.part == p).foldl (fun s t =>
    modTask (unpinAll s (taskPins s t)) t.tag fun x => { x with pinned := false }) s
  modSlice s sid fun sl => { sl with lines := sl.lines.filter fun c => c.remote ≠ some p }

end Sys2Proof.Machine
end

