-- ==== Sys2Proof/Machine/Wire.lean ====
section
/-! DEFINITION. Requests on the queue pairs of remote-device windows and what their answers do: R251, R346, R347, R352, R353, and
R441 to R444 of 15_ethernet_rdma. -/

namespace Sys2Proof.Machine

/-! ### Whether a window can be reached (R444, R449) -/

/-- Status of an access that fails at once: 0xE the port or half is down, 0xC the queue pair is not ready (DESIGN CHOICE, log 28). -/
def windowStatus (s : State) (w : WindowCfg) : Option Nat :=
  if (port s w.port w.half).st = 0 then some 0xE
  else if (qp s w.qp).st ≠ .ready then some 0xC
  else none

/-- Peer address of a window address (R443). -/
def remoteAddr (w : WindowCfg) (pa : Nat) : Nat := w.remote + (pa - w.base)

/-- Maximal runs of set bits among the low `n` of `be`, as (first, length) pairs from bit `i`. -/
def runsFrom : Nat → Nat → Nat → Nat → List (Nat × Nat)
  | 0, i, _, len => if len = 0 then [] else [(i - len, len)]
  | n + 1, i, be, len =>
    if be % 2 = 1 then runsFrom n (i + 1) (be / 2) (len + 1)
    else if len = 0 then runsFrom n (i + 1) (be / 2) 0
    else (i - len, len) :: runsFrom n (i + 1) (be / 2) 0

def runs (n be : Nat) : List (Nat × Nat) := runsFrom n 0 be 0

/-! ### Answers to the accessors (R347) -/

/-- DATA_ONCE with the sectors read, RAW: it goes to no slice (R228, R293, R347). -/
def answerRead (s : State) (tag line : Nat) (v : Line) (sectors : BitVec 4) (p : W32) : State :=
  sendRaw s "DATA_ONCE" tag line v sectors p

/-- DATA_ONCE that carries a status other than 0. -/
def refuseRead (s : State) (tag status : Nat) : State := emit s (.front "DATA_ONCE_STATUS" tag status)

def answerWrite (s : State) (tag status : Nat) : State := emit s (.ack (.access tag) status)

/-! ### Copies in the IOD slices (R251) -/

/-- The slice that serves a remote line (R221). -/
def remoteSlice (s : State) (line : Nat) : Nat := (homeSlice s.variant (128 * line)).getD 128

def copyOf (s : State) (p line : Nat) : Option CLine :=
  (sliceOf s (remoteSlice s line)).lines.find? fun c => c.line == line && c.remote == some p

def dropCopy (s : State) (p line : Nat) : State :=
  modSlice s (remoteSlice s line) fun sl =>
    { sl with lines := dropWhere (fun c => c.line == line && c.remote == some p) sl.lines }

/-- Place a copy for a partition: only in an enabled slice, and where its set keeps at most 8 tags of remote copies. -/
def placeCopy (s : State) (p line : Nat) (v : Line) : State :=
  let i := remoteSlice s line
  let sl := sliceOf s i
  let set := setIn s.variant i (128 * line)
  let here := sl.lines.filter fun c => c.remote.isSome && inSet s.variant i set c
  if !sl.enabled || (copyOf s p line).isSome || 8 ≤ here.length then s
  else (placeLine s i { line, st := .home, valid := 0xF, dirty := 0, data := v, remote := some p }).getD s

/-- Every copy of a partition in one slice is invalidated; a read under way no longer leaves a copy (R251, R353). -/
def dropCopies (s : State) (p i : Nat) : State :=
  let s := modSlice s i fun sl => { sl with lines := dropWhere (fun c => c.remote == some p) sl.lines }
  let stale := fun (r : QpReq) => r.part == p && r.copy && remoteSlice s r.line == i
  s.image.windows.foldl (fun s w =>
    if w.part = p then modQp s w.qp fun x => { x with sendq := modWhere stale (fun r => { r with copy := false }) x.sendq }
    else s) s

/-! ### Requests (R443) -/

/-- RDMA READ of the named sectors, one request for each run of neighbours. -/
def windowRead (s : State) (w : WindowCfg) (p tag line : Nat) (sectors : BitVec 4) (copy : Bool) : State :=
  (runs 4 sectors.toNat).foldl (fun s (i, n) =>
    postRequest s w.qp { psn := 0, kind := 0, tag, part := p, line, remote := remoteAddr w (128 * line + 32 * i), key := w.rkey, sectors, copy,
                         len := 32 * n, piece := 32 * i }) s

/-- One RDMA WRITE for each maximal run of enabled bytes (R443). -/
def windowWrite (s : State) (w : WindowCfg) (p tag line : Nat) (be : BitVec 128) (d : Line) : State :=
  (runs 128 be.toNat).foldl (fun s (i, n) =>
    postRequest s w.qp { psn := 0, kind := 1, tag, part := p, line, remote := remoteAddr w (128 * line + i), key := w.rkey, len := n,
                         data := ((lineBytes d).drop i).take n }) s

/-- ATOMIC FETCH_ADD or CMP_SWAP for each record of an ATOM; the operands are header fields, in network byte order (R12, R443). -/
def windowAtomics (s : State) (w : WindowCfg) (k : CruPacket) : State :=
  k.recs.zipIdx.foldl (fun s (r, i) =>
    match r with
    | .rounded off _ a b =>
      postRequest s w.qp { psn := 0, kind := if k.op = 0 then 2 else 3, tag := k.tag, part := k.part, line := k.line,
                           remote := remoteAddr w (128 * k.line + off), key := w.rkey, len := 8,
                           data := beBytes 8 a.toNat ++ beBytes 8 b.toNat, piece := i }
    | _ => s) s

/-- An update that reaches a remote-device window: an ATOM of 8 bytes with ADD or CAS goes to the peer, anything else is
answered with status 0xF (R443). -/
def windowUpdate (s : State) (k : CruPacket) : State :=
  match windowAt s (128 * k.line) with
  | none => s
  | some w =>
    let atomic := k.fl == 0xF#4 && (k.op = 0 || k.op = 7) && !k.recs.isEmpty
    if !atomic then emit s (.cruAck k.tag 0x9F)
    else
      match windowStatus s w with
      | some st => emit s (.cruAck k.tag (0x90 + st))
      | none => windowAtomics s w k

/-! ### Messages at an IOD slice (R346) -/

/-- RD_REM: a copy, a read under way for the same line, or a request to the peer (R251, R353, R443). -/
def readRemote (s : State) (p tag line : Nat) (sectors : BitVec 4) (attr : Nat) : State :=
  match windowAt s (128 * line) with
  | none => refuseRead s tag 0xC
  | some w =>
    let cached := attr = 0 || attr = 4
    match if cached then copyOf s p line else none with
    | some c => answerRead s tag line c.data sectors 0
    | none =>
      match windowStatus s w with
      | some st => refuseRead s tag st
      | none =>
        let same := fun (r : QpReq) => r.kind == 0 && r.copy && r.line == line && r.part == p
        if cached && (qp s w.qp).sendq.any same then
          modQp s w.qp fun x => { x with sendq := modWhere same (fun r => { r with joined := r.joined ++ [tag] }) x.sendq }
        else windowRead s w p tag line (if cached then 0xF else sectors) cached

/-- WR_REM: the partition's copy is invalidated, then the write is forwarded (R251, R443). -/
def writeRemote (s : State) (p tag line : Nat) (be : BitVec 128) (d : Line) : State :=
  match windowAt s (128 * line) with
  | none => answerWrite s tag 0xC
  | some w =>
    let s := dropCopy s p line
    match windowStatus s w with
    | some st => answerWrite s tag st
    | none => if be = 0 then answerWrite s tag 0 else windowWrite s w p tag line be d

/-- FLUSH_REM: a zero-length RDMA READ of the remote base (R352). -/
def flushRemote (s : State) (p tag base : Nat) : State :=
  match windowAt s (128 * base) with
  | none => answerWrite s tag 0xC
  | some w =>
    match windowStatus s w with
    | some st => answerWrite s tag st
    | none => postRequest s w.qp { psn := 0, kind := 4, tag, part := p, line := base, remote := w.remote, key := w.rkey }

/-! ### Answers from the peer -/

/-- Is a request of the access still outstanding? -/
def tagOpen (s : State) (q tag : Nat) : Bool := (qp s q).sendq.any fun r => r.tag == tag

/-- A request failed: its access is answered with a status of R449; the other requests of the access are withdrawn. -/
def failRequest (s : State) (q : Nat) (r : QpReq) (status : Nat) : State :=
  let s := modQp s q fun x => { x with sendq := dropWhere (fun y => y.tag == r.tag) x.sendq }
  if (s.image.windows.any fun w => w.qp == q) then
    match r.kind with
    | 0 => (r.tag :: r.joined).foldl (fun s t => refuseRead s t status) s
    | 2 => emit s (.cruAck r.tag (0x90 + status))
    | 3 => emit s (.cruAck r.tag (0x90 + status))
    | _ => answerWrite s r.tag status
  else s

/-- Put received bytes at their place in a 128-byte line buffer. -/
def putBytes (buf : List Byte) (off : Nat) (d : List Byte) : List Byte :=
  let b := slice buf 0 128
  b.take off ++ d ++ b.drop (off + d.length)

/-- Did the comparison of a CMP_SWAP fail: the peer's old value is not the comparand of the request (R146)? -/
def swapFailed (r : QpReq) (old : Nat) : Bool := r.kind == 3 && old != beNat (r.data.drop 8)

/-- A request is answered with success; it has left the queue already. -/
def completeRequest (s : State) (q : Nat) (r : QpReq) (d : List Byte) : State :=
  match r.kind with
  | 0 =>
    let buf := putBytes r.data r.piece (slice d 0 r.len)
    if tagOpen s q r.tag then
      modQp s q fun x => { x with sendq := modWhere (fun y => y.tag == r.tag) (fun y => { y with data := buf }) x.sendq }
    else
      let v := lineOf buf
      let s := if r.copy then placeCopy s r.part r.line v else s
      (r.tag :: r.joined).foldl (fun s t => answerRead s t r.line v r.sectors 0) s
  | 4 => answerWrite s r.tag 0
  | 1 => if (s.image.windows.any fun w => w.qp == q) && !tagOpen s q r.tag then answerWrite s r.tag 0 else s
  | _ =>
    -- the answer of an ATOM: the old value, then the acknowledgement (R443)
    match accessOf s r.tag with
    | none => if tagOpen s q r.tag then s else emit s (.cruAck r.tag 0)
    | some a =>
      let s := match a.pieces[r.piece]? with
        | some pc => modGroup s a.gid fun g =>
            let g := if a.kind = .atomRet then writeBlock g pc.lane pc.reg (pc.len / 4) (leNat (slice d 0 8)) else g
            if swapFailed r (leNat (slice d 0 8)) then endTurnOf g pc.lane else g
        | none => s
      if tagOpen s q r.tag then s
      else if a.kind = .atomRet then dropAccess s r.tag
      else emit s (.cruAck r.tag 0)

end Sys2Proof.Machine
end

