-- ==== Sys2Proof/Machine/Dma.lean ====
section
/-! DEFINITION. The DMA and collective engines: descriptors in progress, the messages they send and what the answers do: R379, R389,
R395, R254, R348. -/

namespace Sys2Proof.Machine

/-- Group number of the accesses that an engine makes for a task. -/
def engineGid (task : Nat) : Nat := 2 ^ 40 + task
def isEngine (gid : Nat) : Bool := decide (2 ^ 40 ≤ gid)
def engineTask (gid : Nat) : Nat := gid - 2 ^ 40

def modDescs (s : State) (tag : Nat) (f : List DescRun → List DescRun) : State :=
  modTask s tag fun t => { t with descBusy := f t.descBusy }

/-- An engine's access fails: its task fails, and its transfers end (R379). -/
def engineFail (s : State) (tag code : Nat) : State := returnAllL (modDescs (failTask s tag code) tag fun _ => [])

/-- Byte range [lo, hi) of the part of a descriptor that a source line and its sectors carry. -/
def srcPart (d : DescRun) (line : Nat) (sectors : BitVec 4) : List (Nat × Nat) :=
  (runs 4 sectors.toNat).filterMap fun (i, n) =>
    let lo := Nat.max d.src (128 * line + 32 * i)
    let hi := Nat.min (d.src + d.len) (128 * line + 32 * (i + n))
    if lo < hi then some (lo, hi) else none

/-- The writes of one part: destination address and bytes, cut at the lines. -/
def writesOf (d : DescRun) (line : Nat) (v : Line) (part : Nat × Nat) : List (Nat × BitVec 128 × Line) :=
  let (lo, hi) := part
  let dst := d.dst + (lo - d.src)
  (cutAtLines dst (hi - lo)).map fun (a, n) =>
    let bytes := ((lineBytes v).drop (d.src + (a - d.dst) - 128 * line)).take n
    (a / 128, BitVec.ofNat 128 ((2 ^ n - 1) * 2 ^ (a % 128)), BitVec.ofNat 1024 (leNat bytes * 2 ^ (8 * (a % 128))))

/-- Mark the destination sectors of a range as poisoned, where the task may write them (R26, R254): sectors of memory, and words of
cluster memory. -/
def poisonDest (s : State) (p pa n : Nat) (o : Byte) : State :=
  (List.range ((pa % 32 + n + 31) / 32)).foldl (fun s j =>
    let a := (pa / 32 + j) * 32
    if (accessCheck s p a true true).isSome then s
    else
      match target s.variant a with
      | .window _ _ => { s with poison := (List.range 4).foldl (fun m k => put 0 m (wordMark (a + 8 * k)) o) s.poison }
      | .face _ _ | .stock _ => poisonSector s (a / 32) o
      | _ => s) s

/-- Data of a source line reaches the engine: it sends the DMA_WR messages; poisoned source sectors poison their destination,
and the task fails with the origin's code (R254). -/
def engineData (s : State) (tag line : Nat) (v : Line) (sectors : BitVec 4) (q : W32) : State :=
  match taskOf s tag with
  | none => s
  | some t =>
    match t.descBusy.find? fun d => !(srcPart d line sectors).isEmpty with
    | none => s
    | some d =>
      let parts := srcPart d line sectors
      let o := poisonIn sectors q
      if o ≠ 0 then
        let bad := BitVec.ofNat 4 (((List.range 4).filter fun j => sectors.getLsbD j && poisonAt q j ≠ 0).map (2 ^ ·)).sum
        engineFail ((srcPart d line bad).foldl (fun s (lo, hi) => poisonDest s t.part (d.dst + (lo - d.src)) (hi - lo) o) s) tag o.toNat
      else
        emits s ((parts.flatMap (writesOf d line v)).map fun (l, be, x) => .dma "DMA_WR" tag l be x)

/-- Number of enabled bytes. -/
def beCount (be : BitVec 128) : Nat := ((runs 128 be.toNat).map fun (_, n) => n).sum

/-- Bytes of a line were written for a task: its descriptor has so many fewer to write (R379). -/
def engineWrote (s : State) (tag line : Nat) (be : BitVec 128) : State :=
  let covers := fun (d : DescRun) => (runs 128 be.toNat).all fun (i, n) =>
    decide (d.dst ≤ 128 * line + i) && decide (128 * line + i + n ≤ d.dst + d.len)
  (modDescs s tag fun l =>
    match l.find? covers with
    | none => l
    | some d => (l.map fun x => if x == d then { x with left := x.left - beCount be } else x).filter fun x => x.left ≠ 0) |> returnAllL

/-- An access record of an engine. -/
def engineAccess (s : State) (tag line : Nat) (kind : AccKind) (be : BitVec 128) : State :=
  let a : Access := { tag := s.nextTag, instr := s.nextTag, gid := engineGid tag, kind, line, attr := 3, va := 0, pc := 0, word := 0, be }
  { s with accs := s.accs ++ [a], nextTag := s.nextTag + 1 }

/-- Read a line of a remote-device window for the engine itself: a descriptor or a host-sync word. -/
def engineFetch (s : State) (tag p line : Nat) : State :=
  let t := s.nextTag
  let s := engineAccess s tag line .load 0
  readRemote { s with accs := modWhere (fun a => a.tag == t) (fun a => { a with pc := 1 }) s.accs } p t line 0xF 3

/-- Accesses of the engine that are outstanding for a task. -/
def engineBusy (s : State) (tag : Nat) : Bool := s.accs.any fun a => a.gid == engineGid tag

/-- The answer to an engine's access: data of a read, or the acknowledgement of a write or flush; a status other than 0 fails
the task. -/
def engineAnswer (s : State) (a : Access) (code : Nat) (data : Option (Line × BitVec 4 × W32)) : State :=
  let s := dropAccess s a.tag
  let tag := engineTask a.gid
  if code ≠ 0 then engineFail s tag code
  else
    match data with
    | some (v, sec, q) =>
      if a.pc = 1 then
        let o := poisonIn sec q
        if o ≠ 0 then engineFail s tag o.toNat else modTask s tag fun t => { t with inbox := t.inbox ++ [(a.line, v)] }
      else engineData s tag a.line v sec q
    | none => if a.kind = .store then engineWrote s tag a.line a.be else s

/-- Flush the windows that a task wrote (R348, R352). -/
def flushWindows (s : State) (tag : Nat) : State :=
  match taskOf s tag with
  | none => s
  | some t =>
    t.windows.foldl (fun s w =>
      match s.image.windows[w]? with
      | none => s
      | some c =>
        let n := s.nextTag
        flushRemote (engineAccess s tag (c.base / 128) .flush 0) t.part n (c.base / 128)) (modTask s tag fun t => { t with windows := [] })

/-- Write bytes of a line of a remote-device window for a task. -/
def engineWrite (s : State) (t : Task) (line : Nat) (be : BitVec 128) (d : Line) : State :=
  let n := s.nextTag
  let s := match windowIndex s (128 * line) with
    | some w => modTask s t.tag fun t => if t.windows.contains w then t else { t with windows := t.windows ++ [w] }
    | none => s
  writeRemote (engineAccess s t.tag line .store be) t.part n line be d

/-! ### Collectives (R257, R379, R395, R445, R446) -/

/-- Send records of one line to its home's crusher for a task, each packet an access of the engine that the crusher acknowledges
(R257, R269, R271). -/
def enginePackets (s : State) (t : Task) (line op : Nat) (fl : BitVec 4) (recs : List CruRecord) : State :=
  match homeSlice s.variant (128 * line) with
  | none => s
  | some h =>
    (cutRecords 248 recs 0 []).foldl (fun s rs =>
      let k : CruPacket := { line, fl, op, task := t.tag, tag := s.nextTag, part := t.part, recs := rs }
      let a : Access := { tag := s.nextTag, instr := s.nextTag, gid := engineGid t.tag, kind := .update, line, attr := 0, va := 0, pc := 0,
                          word := 0, update := some k }
      sendCru { s with accs := s.accs ++ [a], nextTag := s.nextTag + 1 } h k) s

/-- Records of the elements of a format that lie wholly in the enabled bytes (R260, R269). -/
def elemRecords (form : RedForm) (fmt : BitVec 4) (be : BitVec 128) (d : Line) : List CruRecord :=
  let size := Num.elemBits fmt / 8
  (List.range (elemsPerLine fmt)).filterMap fun i =>
    let all := (List.range size).all fun j => be.getLsbD (size * i + j)
    if all then some (redRecord form fmt fmt (size * i) (lineElem d fmt i)) else none

/-- Combine a member's own elements into a partial: `partial op own`, in the collective's format under RNE (R446; DESIGN CHOICE,
DESIGN CHOICE, log 98). -/
def ringCombine (form : RedForm) (op : Nat) (fmt : BitVec 4) (be : BitVec 128) (p own : Line) : Line :=
  let recs := elemRecords form fmt be own
  if form = .pair then
    let l : OpenLine := { line := 0, task := 0, part := 0, form := .pair, fl := fmt, rm := 0, sat := false, rsr := none, ho := false, attr := 0,
                          elems := openElems .pair fmt p }
    mergeLine be (closedValue (recs.foldl applyRecord l)) p
  else (roundedRecords op fmt recs p).1

/-- The image's entry of a collective's remote group (R445). -/
def remoteGroup (s : State) (n : List Byte) : Option GroupCfg :=
  s.image.groups.find? fun g => g.index == nRemote n && g.member == (g.rank + 1) % g.members

/-- A member's own elements for the enabled bytes of a destination line. -/
def ownElems (s : State) (n : List Byte) (line : Nat) (be : BitVec 128) : Line :=
  (runs 128 be.toNat).foldl (fun d (i, k) =>
    mergeLine (BitVec.ofNat 128 ((2 ^ k - 1) * 2 ^ i)) (BitVec.ofNat 1024 (leNat (readPhys s (nSrc n + (128 * line + i - nDst n)) k) * 2 ^ (8 * i))) d) 0

/-- How the collective reduces its elements, if it does (R260, R379). -/
def collForm (n : List Byte) : RedForm := if 2 ≤ nOp n then .illegal else redForm (nRed n) (BitVec.ofNat 4 (nFmt n)) (BitVec.ofNat 4 (nFmt n))

/-- Cut the transfers of tasks at their next 4 KiB destination boundary (R379, R389): what had not been written stays so. -/
def cutTransfers (s : State) (sel : Task → Bool) : State :=
  returnAllL { s with tasks := s.tasks.map fun t => if sel t then { t with descBusy := [] } else t }

end Sys2Proof.Machine
end

