-- ==== Sys2Proof/Machine/Coherence.lean ====
section
/-! DEFINITION. The coherence messages and the fills, as their receivers take them: R236 to R239, R289, R291, R293, R295 to
R297, R347, R510 of 08_unified_cache, 10_coherence, 12_memory_ordering and 17_configuration_security. -/

namespace Sys2Proof.Machine

/-! ### At the home -/

/-- A request of a compute die arrives at the line's home. Where the home holds no whole copy memory is read, and `r` is what
its check bits find (R204). -/
def requestAtHome (s : State) (line : Nat) (r : List MemFault) (q : HomeReq) : State :=
  match homeSlice s.variant (128 * line) with
  | none => s
  | some h =>
    let held := decide (((findLine (sliceOf s h) line).map (·.valid)).getD 0 = 0xF#4)
    homeArrive (if held then s else readMem s line r) h line q

/-- RD_S (R295). -/
def execRdS (d line : Nat) (ecc : List MemFault) (s : State) : Host.Outcome State Fault Refusal :=
  onUnit (computeDieOk d) (requestAtHome s line ecc (.rdS d))

/-- RD_E (R295). -/
def execRdE (d line : Nat) (ecc : List MemFault) (s : State) : Host.Outcome State Fault Refusal :=
  onUnit (computeDieOk d) (requestAtHome s line ecc (.rdE d))

/-- UPG (R295). -/
def execUpg (d line : Nat) (s : State) : Host.Outcome State Fault Refusal :=
  onUnit (computeDieOk d) (requestAtHome s line [] (.upg d))

/-- RD_ONCE (R295). -/
def execRdOnce (tag line : Nat) (ecc : List MemFault) (s : State) : Host.Outcome State Fault Refusal :=
  onUnit true (requestAtHome s line ecc (.rdOnce tag))

/-- Clear a die's bit; an owner's entry ends with it (R295). -/
def clearBit (s : State) (h line d : Nat) : State :=
  let sl := sliceOf s h
  setFilter s h line (filterMask sl line &&& ~~~bit8 d) (filterOwned sl line && filterMask sl line &&& ~~~bit8 d ≠ 0)

/-- DROP: the sender's bit is cleared; a die that the filter does not list is ignored (R295, R296). -/
def execDrop (d line : Nat) (s : State) : Host.Outcome State Fault Refusal :=
  onUnit (computeDieOk d)
    (match homeSlice s.variant (128 * line) with
     | none => s
     | some h => if (filterMask (sliceOf s h) line).getLsbD d then clearBit s h line d else s)

/-- REG: the home clears the die's bit in every entry and frees the empty ones that are not pinned (R291). -/
def execReg (sid home : Nat) (s : State) : Host.Outcome State Fault Refusal :=
  onUnit (sliceOk sid && sliceOk home)
    (if 128 ≤ sid || sid % 16 ≠ home % 16 || sid / 16 = home / 16 then s
     else
       let m := bit8 (sid / 16)
       let clear := fun (l : List Filter) =>
         (l.map fun f => { f with mask := f.mask &&& ~~~m }).filter fun f => f.mask ≠ 0 || f.pinned || f.busy
       emit (modSlice s home fun sl => { sl with filter := clear sl.filter }) (.coh "REG_ACK" sid home))

/-- The state a snoop of the line's transaction leaves a copy in. -/
def asked (s : State) (h line : Nat) : Leaves :=
  ((findTxn (sliceOf s h) line).map fun t => leavesOf t.req).getD .invalid

def answerAt (s : State) (line d : Nat) (data : Option (Line × BitVec 4 × W32)) (left : Option Leaves) : State :=
  match homeSlice s.variant (128 * line) with
  | none => s
  | some h => wake (snoopAnswer s h line d data (left.getD (asked s h line))) h

/-- SACK_I (R293). -/
def execSackI (d line : Nat) (s : State) : Host.Outcome State Fault Refusal :=
  onUnit (computeDieOk d) (answerAt s line d none (some .invalid))

/-- SACK_S (R293). -/
def execSackS (d line : Nat) (s : State) : Host.Outcome State Fault Refusal :=
  onUnit (computeDieOk d) (answerAt s line d none (some .shared))

/-- SDATA: the copy takes the state the snoop asked for (R293, R296). -/
def execSdata (d line : Nat) (data : Line) (dirty : BitVec 4) (poison : W32) (s : State) : Host.Outcome State Fault Refusal :=
  onUnit (computeDieOk d) (answerAt s line d (some (data, dirty, poison)) none)

/-- WB: it never waits for its line's turn. The home takes the sectors; a transaction in progress finds them there, and discards an
SDATA that comes after (R295, R296, R298). -/
def execWb (d line : Nat) (data : Line) (dirty : BitVec 4) (poison : W32) (s : State) : Host.Outcome State Fault Refusal :=
  onUnit (computeDieOk d)
    (match homeSlice s.variant (128 * line) with
     | none => s
     | some h =>
       let listed := (filterMask (sliceOf s h) line).getLsbD d
       let s :=
         if !listed then s
         else
           let first := ((findTxn (sliceOf s h) line).map fun t => t.data.isNone).getD true
           let s := if first then homeStore s h line (sectorBe dirty) data poison 0 else s
           let taken := fun (t : Txn) => if first then { t with sent := none, settled := true } else t
           clearBit (modSlice s h fun sl => { sl with txns := modWhere (fun x => x.line == line) taken sl.txns }) h line d
       emit s (.ack (.spoil (16 * d + h % 16) line) 0))

/-- WFWD (R231, R295). -/
def execWfwd (d line tag attr : Nat) (be : BitVec 128) (data : Line) (s : State) : Host.Outcome State Fault Refusal :=
  onUnit (computeDieOk d) (requestAtHome s line [] (.wfwd d tag attr be data))

/-! ### At a proxy -/

def atProxy (s : State) (d line : Nat) (f : Nat → State) : State :=
  match proxyOf s d line with
  | none => s
  | some i => wake (f i) i

/-- SNP_S (R295, R296). -/
def execSnpS (d line : Nat) (s : State) : Host.Outcome State Fault Refusal :=
  onUnit (computeDieOk d) (atProxy s d line fun i => snoopShare s i d line)

/-- SNP_I (R295, R296). -/
def execSnpI (d line : Nat) (s : State) : Host.Outcome State Fault Refusal :=
  onUnit (computeDieOk d) (atProxy s d line fun i => snoopInvalidate s i d line)

/-- SNP_R (R295). -/
def execSnpR (d line : Nat) (s : State) : Host.Outcome State Fault Refusal :=
  onUnit (computeDieOk d) (atProxy s d line fun i => snoopRead s i d line)

/-- BINV, answered as SNP_I; a pinned copy is never removed by it (R247, R289). -/
def execBinv (d line : Nat) (s : State) : Host.Outcome State Fault Refusal :=
  onUnit (computeDieOk d)
    (atProxy s d line fun i =>
      if ((findLine (sliceOf s i) line).map fun c => c.pins != 0 && c.valid != 0).getD false then
        emit s (.coh "SACK_S" d line)
      else snoopInvalidate s i d line)

/-- DATA_S (R293). -/
def execDataS (d line : Nat) (data : Line) (poison : W32) (s : State) : Host.Outcome State Fault Refusal :=
  onUnit (computeDieOk d) (atProxy s d line fun i => proxyFill s i line .s data poison)

/-- DATA_E (R293). -/
def execDataE (d line : Nat) (data : Line) (poison : W32) (s : State) : Host.Outcome State Fault Refusal :=
  onUnit (computeDieOk d) (atProxy s d line fun i => proxyFill s i line .e data poison)

/-- DATA_M (R293). -/
def execDataM (d line : Nat) (data : Line) (poison : W32) (s : State) : Host.Outcome State Fault Refusal :=
  onUnit (computeDieOk d) (atProxy s d line fun i => proxyFill s i line .m data poison)

/-- GRANT_E (R293). -/
def execGrantE (d line : Nat) (s : State) : Host.Outcome State Fault Refusal :=
  onUnit (computeDieOk d) (atProxy s d line fun i => proxyGrant s i line false)

/-- GRANT_M (R293). -/
def execGrantM (d line : Nat) (s : State) : Host.Outcome State Fault Refusal :=
  onUnit (computeDieOk d) (atProxy s d line fun i => proxyGrant s i line true)

/-- REG_ACK: one registration the slice awaited is complete (R291). -/
def execRegAck (sid home : Nat) (s : State) : Host.Outcome State Fault Refusal :=
  onUnit (sliceOk sid && sliceOk home) (modSlice s sid fun sl => { sl with awaitReg := sl.awaitReg.filter (· ≠ home) })

/-! ### Acknowledgements and answers to accesses -/

/-- A window or register access, whose statuses report class 0x10 (R347). -/
def isUncached (s : State) (a : Access) : Bool :=
  match target s.variant (128 * a.line) with
  | .remote => false
  | _ => true

/-- Free a departing entry and let what waited for it proceed (R239, R241, R296). -/
def ackSpoil (s : State) (sid line : Nat) : State :=
  wake (modSlice s sid fun sl => { sl with spoil := dropWhere (fun e => e.line == line && e.departing) sl.spoil }) sid

/-- The answer to an access: an ENQ takes its status (R388); a failure parks the group (R345). -/
def ackAccess (s : State) (tag : Nat) (st : BitVec 4) : State :=
  match accessOf s tag with
  | none => s
  | some a =>
    if isEngine a.gid then engineAnswer s a (if st = 0 then 0 else statusCode (isUncached s a) st.toNat) none
    else if a.kind = .atomRet then
      dropAccess (modGroup s a.gid fun g => a.pieces.foldl (fun g p => writeReg g p.lane p.reg (st.setWidth 32)) g) tag
    else if st = 0 then returnAt (dropAccess s tag) a.line
    else failAccess s tag (statusCode (isUncached s a) st.toNat)

/-- WB_ACK (R293, R347, R388, R510). A die whose unwrap failed is held out of service (R510). -/
def execWbAck (dest : AckTo) (status : BitVec 4) (s : State) : Host.Outcome State Fault Refusal :=
  onUnit dest.ok
    (match dest with
     | .spoil sid line => ackSpoil s sid line
     | .access tag => ackAccess s tag status
     | .key d => if status = 0xF#4 then setDieHeld s d true 3 else s)

/-- The cluster whose outstanding read of a line a tag names (R235). -/
def readerOf (s : State) (tag line : Nat) : Option Nat :=
  (s.clusters.find? fun (_, x) => x.reads.contains (line, tag)).map (·.1)

/-- A read of a cluster is answered with a status other than 0: every load attached to it fails (R347). -/
def failReads (s : State) (cl line : Nat) (status : Nat) : State :=
  let s := modCluster s cl fun x => { x with reads := x.reads.filter fun (l, _) => l ≠ line }
  (attached s cl line).foldl (fun s a => failAccess s a.tag (statusCode (isUncached s a) status)) s

/-- DATA_ONCE: the answer to RD_ONCE or to an uncached read. It serves every load of the cluster that waits for the line; one that
touches other sectors than those carried is read anew (R235, R293, R347). -/
def execDataOnce (tag line : Nat) (data : Line) (sectors : BitVec 4) (poison : W32) (status : BitVec 4) (s : State) :
    Host.Outcome State Fault Refusal :=
  onUnit true
    (match readerOf s tag line with
     | some cl =>
       returnAt (if status ≠ 0 then failReads s cl line status.toNat else answerCluster s cl line data sectors poison performLoad) line
     | none =>
       match accessOf s tag with
       | none => s
       | some a =>
         if a.kind ≠ .load || a.line ≠ line || !isEngine a.gid then s
         else engineAnswer s a (if status = 0 then 0 else statusCode (isUncached s a) status.toNat) (some (data, sectors, poison)))

/-! ### Fills and write-outs -/

/-- FILL: memory's data arrives for a miss entry of the home; the line is placed, then the fills leave (R237). -/
def execFill (sid line : Nat) (ecc : List MemFault) (s : State) : Host.Outcome State Fault Refusal :=
  onUnit (sliceOk sid)
    (if homeSlice s.variant (128 * line) ≠ some sid then s
     else
       match findMiss (sliceOf s sid) line with
       | none => s
       | some m =>
         if !m.sent || (findTxn (sliceOf s sid) line).isSome then s
         else wake (homeFill (readMem s line ecc) sid line none) sid)

/-- CLUSTER_FILL: every attached load is served, and the read-only caches of the requesters are filled (R235). -/
def execClusterFill (cl line : Nat) (data : Line) (poison : W32) (s : State) : Host.Outcome State Fault Refusal :=
  onUnit (clusterOk cl) (answerCluster s cl line data 0xF poison performLoad)

/-- SPOIL_WRITE_OUT (R239). -/
def execSpoilWriteOut (sid : Nat) (s : State) : Host.Outcome State Fault Refusal :=
  onUnit (sliceOk sid) (wake (writeSpoilOut s sid) sid)

end Sys2Proof.Machine
end

