-- ==== Sys2Proof/Machine/Check.lean ====
section
/-! DEFINITION. Command records: their fields, the ten checks of R367 and what each opcode adds to them: R366 to R370, R382,
R422, R502, R503, R544. -/

namespace Sys2Proof.Machine
open Sys2Proof.Num

/-! ### Fields (R366, R370) -/

/-- Bits `hi:lo` of word `i`. -/
def cw (c : Cmd) (i hi lo : Nat) : Nat := field (c.words.getD i 0).toNat hi lo
def cOp (c : Cmd) : Nat := cw c 0 7 0
def cRecords (c : Cmd) : Nat := cw c 0 11 8 + 1
def cFB (c : Cmd) : Bool := cw c 0 12 12 == 1
def cFA (c : Cmd) : Bool := cw c 0 13 13 == 1
def cWCMP (c : Cmd) : Bool := cw c 0 14 14 == 1
/-- Bytes from byte 24 on: the argument bytes of a LAUNCH. -/
def cArgs (c : Cmd) (n : Nat) : List Byte := slice ((c.words.drop 3).flatMap fun w => leBytes 8 w.toNat) 0 n
/-- Payload bytes of records 2 onward. -/
def cPayload (c : Cmd) (n : Nat) : List Byte := slice ((c.words.drop 8).flatMap fun w => leBytes 8 w.toNat) 0 n

/-- Records that the argument byte count of a LAUNCH needs (R367 check 4). -/
def argRecords (n : Nat) : Nat := if n ≤ 40 then 1 else 1 + (n - 40 + 63) / 64

def userOps : List Nat := [0x01, 0x02, 0x03, 0x04, 0x05]
def kernelOps : List Nat := [0x80, 0x81, 0x82, 0x83, 0x84, 0x85, 0x86, 0x87, 0x88, 0x89, 0x8A, 0x8B]
def pt0Ops : List Nat := [0x88, 0x89, 0x8A, 0x8B]

/-- Opcode defined (R369); the recovery configuration knows NOP and IMAGE_UPDATE only (R502). -/
def opDefined (s : State) (op : Nat) : Bool :=
  if s.dev.recov then op == 0x02 || op == 0x8B else userOps.contains op || kernelOps.contains op

/-- All-ones in bits `hi:lo`. -/
def ones (hi lo : Nat) : Nat := (2 ^ (hi + 1 - lo) - 1) * 2 ^ lo

/-- Bits that words 1 to 7 of an opcode may set (R370, R422, R503, R544). -/
def allowedBits (c : Cmd) : List Nat :=
  match cOp c with
  | 0x01 => [ones 63 0, ones 9 0 + ones 18 16, ones 63 0, ones 63 0, ones 63 0, ones 63 0, ones 63 0]
  | 0x03 => [ones 33 0, ones 15 0]
  | 0x04 => [ones 15 0, ones 47 12, ones 35 0]
  | 0x80 => [ones 15 0, ones 49 12, ones 49 12 + ones 63 56, ones 47 12, ones 49 6, ones 31 0]
  | 0x81 => [ones 15 0]
  | 0x82 => [ones 8 0 + ones 63 16, ones 3 0 + ones 49 12, ones 49 6]
  | 0x83 => [ones 8 0]
  | 0x84 => [ones 47 0, ones 49 6, ones 19 0]
  | 0x85 => [ones 31 0, ones 49 7]
  | 0x86 => [ones 31 0]
  | 0x87 => [ones 31 0 + ones 63 63, ones 63 0, ones 31 0]
  | 0x89 => [ones 1 0 + ones 7 4 + ones 11 8 + ones 16 16]
  | 0x8A => [ones 3 0]
  | 0x8B =>
    match cw c 1 2 0 with
    | 0 => [ones 2 0, ones 26 0]
    | 1 => [ones 2 0, ones 26 0, ones 24 0, ones 49 0]
    | _ => [ones 2 0]
  | _ => []

def reservedOk (c : Cmd) : Bool :=
  cw c 0 15 15 == 0 && ((List.range 7).all fun i =>
    let v := (c.words.getD (i + 1) 0).toNat
    v &&& (allowedBits c).getD i 0 == v)

/-- Ranges of check 5. -/
def rangesOk (c : Cmd) : Bool :=
  match cOp c with
  | 0x03 => decide (cw c 1 33 32 ≤ 2) && decide (cw c 2 15 0 ≤ 1023)
  | 0x04 => decide (cw c 1 15 0 ≤ 1023)
  | 0x80 => decide (cw c 1 15 0 ≤ 1023) && decide (1 ≤ cw c 3 63 56) && decide (cw c 3 63 56 ≤ 64)
  | 0x81 => decide (cw c 1 15 0 ≤ 1023)
  | 0x82 => decide (cw c 1 8 0 ≤ 256) && decide (cw c 1 31 16 ≤ 1023) && decide (cw c 2 3 0 ≤ 10)
  | 0x83 => decide (1 ≤ cw c 1 8 0) && decide (cw c 1 8 0 ≤ 256)
  | 0x84 => decide (cw c 1 31 0 ≠ 0) && decide (cw c 1 47 32 ≤ 1023)
  | 0x87 => decide (4 ≤ cw c 1 31 24) && decide (cw c 1 31 24 ≤ 16) && cw c 2 5 0 == 0
  | 0x89 => decide (cw c 1 1 0 ≤ 2) && (decide (cw c 1 7 4 < 8) || (cw c 1 7 4 == 8 && cw c 1 1 0 == 1))
  | 0x8B =>
    match cw c 1 2 0 with
    | 0 => decide (cw c 2 26 0 ≤ 96 * 2 ^ 20)
    | 1 => decide (cw c 3 24 0 ≤ 16 * 2 ^ 20)
    | _ => decide (cw c 1 2 0 ≤ 4)
  | _ => true

/-- Record count and payload length (check 4). -/
def countOk (c : Cmd) : Bool :=
  match cOp c with
  | 0x01 => decide (cw c 2 9 0 ≤ 1000) && cRecords c == argRecords (cw c 2 9 0)
  | 0x8B =>
    if cw c 1 2 0 = 1 && cw c 4 49 0 = 0 then cRecords c == 1 + (cw c 3 24 0 + 63) / 64 else cRecords c == 1
  | _ => cRecords c == 1

/-- Handle registered and not released (check 6). -/
def handleOk (s : State) (p : Nat) (c : Cmd) : Bool :=
  match cOp c with
  | 0x01 | 0x85 | 0x86 => ((graphOf s p (cw c 1 31 0)).map fun g => !g.released).getD false
  | _ => true

def qpnBase : Nat := 0x10000

/-- Contexts, queue slots and queue pairs that the command names (check 7, R370). -/
def namesOk (s : State) (p q : Nat) (c : Cmd) : Bool :=
  let ctx := fun (n : Nat) => (ctxOf s p n).isSome
  let cfg := partCfg s p
  match cOp c with
  | 0x01 => q == 0 || ((graphOf s p (cw c 1 31 0)).map fun g => g.ctx == (queue s p q).ctx).getD false
  | 0x03 => ctx (cw c 2 15 0)
  | 0x04 => ctx (cw c 1 15 0) && (q == 0 || cw c 1 15 0 == (queue s p q).ctx)
  | 0x81 => ctx (cw c 1 15 0)
  | 0x82 => cw c 1 8 0 != 0 && (queue s p (cw c 1 8 0)).declared && ctx (cw c 1 31 16)
  | 0x83 => (queue s p (cw c 1 8 0)).declared
  | 0x84 => ctx (cw c 1 47 32)
  | 0x87 => decide (qpnBase + cfg.qpFirst ≤ cw c 1 23 0) && decide (cw c 1 23 0 < qpnBase + cfg.qpFirst + cfg.qpCount)
  | _ => true

/-- Physical operands: alignment, regions, one row (check 8, R357). -/
def operandsOk (s : State) (p : Nat) (c : Cmd) : Bool :=
  let w := fun (i hi lo : Nat) => cw c i hi lo * 2 ^ lo
  match cOp c with
  | 0x80 =>
    inRegions s p (w 2 49 12) 4096 && inRegions s p (w 3 49 12) (4096 * cw c 3 63 56) && inRegions s p (w 5 49 6) (64 * cw c 6 31 0)
  | 0x82 =>
    let n := 2 ^ (cw c 2 3 0 + 6)
    w 2 49 12 % (64 * n) == 0 && inRegions s p (w 2 49 12) (64 * n) && (w 3 49 6 == 0 || inRegions s p (w 3 49 6) (64 * n))
  | 0x84 => inRegions s p (w 2 49 6) (cw c 3 19 0)
  | 0x85 => inRegions s p (w 2 49 7) 128
  | 0x8B => cw c 1 2 0 != 1 || cw c 4 49 0 == 0 || inRegions s p (cw c 4 49 0) (cw c 3 24 0)
  | _ => true

/-- LS of LAUNCH (check 9). -/
def lsOk (s : State) (c : Cmd) : Bool :=
  cOp c != 0x01 || (if fullServiceNow s then cw c 2 18 16 == 0 else decide (cw c 2 18 16 ≤ 6))

/-- Lines of a physical range that may be read now (R367, R26: a retired range faults with 0x1F at the access). -/
def rangeReadable (s : State) (p base len : Nat) : Bool :=
  (List.range ((base % 128 + len + 127) / 128)).all fun i => (accessCheck s p ((base / 128 + i) * 128) false true).isNone

/-- Patch block: its count, and the entries (R384). -/
def patchCount (s : State) (base : Nat) : Nat := readPhysLE s base 4
def patchEntry (s : State) (base i : Nat) : List Byte := readPhys s (base + 128 + 128 * i) 128

/-- A patch block against the version it changes: count, reserved bytes, nodes that keep their kind and GANG bit (R384). -/
def patchOk (s : State) (base : Nat) (d : List Byte) : Bool :=
  let m := patchCount s base
  decide (1 ≤ m) && decide (m ≤ 4096) && allZero (readPhys s (base + 4) 124) &&
    (List.range m).all fun i =>
      let e := patchEntry s base i
      let n := fieldAt e 0 2
      let new := slice e 64 64
      zeroAt e 2 62 && decide (n < gNodes d) && byteAt new 0 == byteAt (gNode d n) 0 && byteAt new 1 == byteAt (gNode d n) 1

/-- Replace 64 bytes of a descriptor. -/
def setNode (d : List Byte) (i : Nat) (n : List Byte) : List Byte :=
  let o := gNodeOff d + 64 * i
  d.take o ++ n ++ d.drop (o + 64)

def applyPatch (s : State) (base : Nat) (d : List Byte) : List Byte :=
  (List.range (patchCount s base)).foldl (fun d i => let e := patchEntry s base i; setNode d (fieldAt e 0 2) (slice e 64 64)) d

/-- Check 10: the stored descriptor or patch block (R379 to R384). -/
def storedOk (s : State) (p : Nat) (c : Cmd) : Nat :=
  match cOp c with
  | 0x84 =>
    let base := cw c 2 49 6 * 64
    let len := cw c 3 19 0
    if !rangeReadable s p base len then 0x1F
    else
      let d := readPhys s base len
      if !descrOk d len then 0x4A else if !rangesIn s p d then 0x48 else 0
  | 0x85 =>
    let base := cw c 2 49 7 * 128
    match (graphOf s p (cw c 1 31 0)).bind fun g => descrOf s p (cw c 1 31 0) g.current with
    | none => 0x46
    | some d =>
      if !rangeReadable s p base 128 then 0x1F
      else if !inRegions s p base (128 + 128 * Nat.min 4096 (patchCount s base)) then 0x48
      else if !patchOk s base d then 0x4A
      else
        let d' := applyPatch s base d
        if !descrOk d' d'.length then 0x4A else if !rangesIn s p d' then 0x48 else 0
  | _ => 0

/-- R367: the code of the first check that fails, 0 when all pass. -/
def checkCmd (s : State) (p q : Nat) (c : Cmd) : Nat :=
  let op := cOp c
  if !opDefined s op then 0x41
  else if 0x80 ≤ op && q ≠ 0 then 0x42
  else if pt0Ops.contains op && p ≠ 0 then 0x43
  else if !countOk c then 0x44
  else if !reservedOk c || !rangesOk c then 0x45
  else if !handleOk s p c then 0x46
  else if !namesOk s p q c then 0x47
  else if !operandsOk s p c then 0x48
  else if !lsOk s c then 0x49
  else storedOk s p c

/-- Commands that no row of the table names: they can only fail a check (R369, R370, R503). -/
def rowless (s : State) (c : Cmd) : Bool :=
  !opDefined s (cOp c) || (cOp c == 0x03 && cw c 1 33 32 == 3) || (cOp c == 0x8B && decide (4 < cw c 1 2 0))

/-! ### Acceptance and turn (R371, R537) -/

/-- Uncommitted records of a partition's journal. -/
def uncommitted (s : State) (p : Nat) : Nat :=
  ((part s p).queues.map fun (_, x) => (x.cmds.filter fun c => c.accepted && !c.done).length).sum

/-- Is the command the next of its queue to be accepted, and may the front end accept? -/
def mayAccept (s : State) (p q : Nat) (c : Cmd) : Bool :=
  let x := queue s p q
  !s.restart.active && x.bound && !x.destroying && !(part s p).resetting && decide (uncommitted s p < 8192)
    && ((x.cmds.find? fun e => !e.accepted && !e.done) == some c)

def acceptCmd (s : State) (p q : Nat) (seq : W32) : State :=
  let s := accountShared s
  let n := (part s p).order
  modCmd (modPart s p fun r => { r with order := n + 1 }) p q seq fun c =>
    { c with accepted := true, order := n, acceptTime := s.portTime, energyAt := s.power.energy }

/-- Complete a command that fails a check (R364). -/
def refuseCmd (s : State) (p q : Nat) (seq : W32) (code : Nat) : State :=
  finishCmd (modCmd s p q seq fun c => { c with acceptTime := s.portTime, energyAt := s.power.energy }) p q seq code

def isLaunchOrNop (c : Cmd) : Bool := cOp c == 0x01 || cOp c == 0x02

/-- The fence bits of a command and of those before it in its queue (R371). -/
def fencesMet (x : Queue) (c : Cmd) : Bool :=
  let before := x.cmds.takeWhile fun e => e.seq != c.seq
  (!cFB c || before.all (·.done)) && before.all fun e => !cFA e || e.done

/-- The self-test that runs has taken effect already. -/
def isTesting (s : State) (p q : Nat) (c : Cmd) : Bool := p == 0 && s.dev.testCmd == some (q, c.seq)

/-- Commands other than LAUNCH and NOP take effect in the order of acceptance (R371). -/
def inTurn (s : State) (p : Nat) (c : Cmd) : Bool :=
  (part s p).queues.all fun (q, x) => x.cmds.all fun e =>
    !(e.accepted && !e.done && !isLaunchOrNop e && decide (e.order < c.order) && !isTesting s p q e)

def ready (s : State) (p q : Nat) (c : Cmd) : Bool := fencesMet (queue s p q) c && (isLaunchOrNop c || inTurn s p c)

/-- One command of an opcode: checked and accepted when its turn has come, and carried out as soon as its fences and the
order allow. `mine` tells the row apart where an opcode has several; `extra` gives a refusal of its own. -/
def runCmd (s : State) (p q : Nat) (seq : W32) (op : Nat) (mine : Cmd → Bool) (extra : State → Cmd → Nat)
    (effect : State → Cmd → State) : State :=
  match findCmd (queue s p q) seq with
  | none => s
  | some c =>
    if cOp c ≠ op || !mine c || c.done || isTesting s p q c then s
    else
      let go := fun (s : State) =>
        match findCmd (queue s p q) seq with
        | none => s
        | some c =>
          if !ready s p q c then s
          else
            let code := extra s c
            if code ≠ 0 then finishCmd s p q seq code else effect s c
      if c.accepted then go s
      else if !mayAccept s p q c then s
      else
        let code := checkCmd s p q c
        if code ≠ 0 then refuseCmd s p q seq code else go (acceptCmd s p q seq)

end Sys2Proof.Machine
end

