-- ==== Sys2Proof/Machine/Commands.lean ====
section
/-! DEFINITION. Doorbells, fetching, and the commands of the queues with their completion: R356 to R374, R381 to R385, R389 to R392 of
13_queues_commands_graphs, R159 of 05, R422 to R424 of 14. -/

namespace Sys2Proof.Machine

/-! ### Doorbell and fetch (R358 to R360, R366) -/

def ringSize (x : Queue) : Nat := 2 ^ (x.logsz + 6)

/-- A write of QDB_TAIL (R358). -/
def ringTail (s : State) (p q : Nat) (tail : W32) : State :=
  let x := queue s p q
  if !x.declared || !x.bound || x.devenq then s
  else if ringSize x < (tail - x.head).toNat then stopQueue s p q 2 0 0
  else modQueue s p q fun x => { x with tail }

/-- DOORBELL: a write of QDB_TAIL reaches the front end (R395). -/
def execDoorbell (p q : Nat) (value : W64) (s : State) : Host.Outcome State Fault Refusal :=
  onUnit (partOk p && slotOk q) (if !(partCfg s p).isDefined then s else ringTail s p q (value.setWidth 32))

/-- Address of the record with a count (R357). -/
def recordAddr (x : Queue) (count : W32) : Nat := x.base + 64 * (count.toNat % ringSize x)

/-- A record of the ring, or `none` where a check of R26 fails or it is poisoned. -/
def readRecord (s : State) (p : Nat) (a : Nat) : Option (List W64) :=
  if (accessCheck s p a false true).isSome || poisonPhys s a 64 ≠ 0 then none
  else some ((List.range 8).map fun i => BitVec.ofNat 64 (readPhysLE s (a + 8 * i) 8))

/-- The records of one command. -/
def readRecords (s : State) (p : Nat) (x : Queue) : Nat → W32 → Option (List W64)
  | 0, _ => some []
  | n + 1, c =>
    match readRecord s p (recordAddr x c), readRecords s p x n (c + 1) with
    | some a, some b => some (a ++ b)
    | _, _ => none

/-- May the front end fetch from the queue (R358 to R360)? -/
def mayFetch (s : State) (p : Nat) (x : Queue) : Bool :=
  x.declared && x.bound && !x.destroying && !x.stopped && !isHeld s x && !(part s p).resetting && !s.restart.active
    && decide (1 ≤ s.dev.st) && decide (s.dev.st ≤ 2) && (x.cmds.find? fun c => !c.accepted && !c.done).isNone

/-- Fetch the command at HEAD: all of its records lie below TAIL, and its sequence number is the expected one. -/
def fetchCmd (s : State) (p q : Nat) : State :=
  let x := queue s p q
  let avail := (x.tail - x.head).toNat
  if !mayFetch s p x || avail = 0 then s
  else
    let idx := x.head.toNat % ringSize x
    match readRecord s p (recordAddr x x.head) with
    | none => stopQueue s p q 3 0 idx
    | some w =>
      let first : Cmd := { seq := BitVec.ofNat 32 ((w.getD 0 0).toNat >>> 32), words := w }
      if avail < cRecords first then s
      else
        match readRecords s p x (cRecords first) x.head with
        | none => stopQueue s p q 3 first.seq idx
        | some ws =>
          if x.expect.any (· != first.seq) then stopQueue s p q 1 first.seq idx
          else
            let c := { first with words := ws }
            let s := (List.range (cRecords c)).foldl (fun s i => agentReads s (recordAddr x (x.head + BitVec.ofNat 32 i)) 64 0 true) s
            let s := modQueue s p q fun x =>
              { x with head := x.head + BitVec.ofNat 32 (cRecords c), expect := some (c.seq + 1), cmds := x.cmds ++ [c] }
            if rowless s c then refuseCmd s p q c.seq (checkCmd s p q c) else s

/-- COMMAND_FETCH (R358, R359, R366). -/
def execCommandFetch (p q : Nat) (s : State) : Host.Outcome State Fault Refusal :=
  onUnit (partOk p && slotOk q) (fetchCmd s p q)

/-! ### LAUNCH and NOP (R371 to R375, R383, R416) -/

/-- Every compute node can be placed on the partition's in-service clusters (R416). (DEDUCED, log 44) -/
def placeable (s : State) (p : Nat) (d : List Byte) : Bool :=
  (allNodes d).all fun n => nodeFault s p (clusterServes s) n == 0

/-- The lowest of the graph's ledger-spill areas that no concurrent launch has (R272, R381). -/
def launchArea (s : State) (p h v : Nat) : Nat :=
  ((List.range 256).find? fun n => !s.launches.any fun l => l.part == p && l.handle == h && l.version == v && l.area == n).getD 0

/-- A LAUNCH that passes its checks: it captures the current version (R383). -/
def acceptLaunch (s : State) (p q : Nat) (c : Cmd) : State :=
  let h := cw c 1 31 0
  match graphOf s p h with
  | none => s
  | some g =>
    let s := modCmd s p q c.seq fun x => { x with version := g.current }
    let l : Launch :=
      { id := s.nextLaunch, part := p, q, seq := c.seq, order := c.order, handle := h, version := g.current, ctx := g.ctx,
        step := BitVec.ofNat 32 (cw c 1 63 32), ls := cw c 2 18 16, args := cArgs c (cw c 2 9 0), acceptTime := (die s 8).time,
        area := launchArea s p h g.current }
    { s with launches := s.launches ++ [l], nextLaunch := s.nextLaunch + 1 }

/-- LAUNCH. -/
def execLaunch (p q : Nat) (seq : W32) (s : State) : Host.Outcome State Fault Refusal :=
  onUnit (partOk p && slotOk q)
    (match findCmd (queue s p q) seq with
     | none => s
     | some c =>
       if cOp c ≠ 0x01 || c.done || c.accepted || !mayAccept s p q c then s
       else
         let code := checkCmd s p q c
         if code ≠ 0 then refuseCmd s p q seq code
         else
           let d := ((graphOf s p (cw c 1 31 0)).bind fun g => descrOf s p (cw c 1 31 0) g.current).getD []
           if !placeable s p d then refuseCmd s p q seq 0x5C
           else
             let s := acceptCmd s p q seq
             acceptLaunch s p q ((findCmd (queue s p q) seq).getD c))

/-- NOP: it completes when the commands that its fence bits make it wait for have completed (R371). -/
def execNop (p q : Nat) (seq : W32) (s : State) : Host.Outcome State Fault Refusal :=
  onUnit (partOk p && slotOk q) (runCmd s p q seq 0x02 (fun _ => true) (fun _ _ => 0) fun s c => finishCmd s p q c.seq 0)

/-! ### REPLAY (R159, R345) -/

/-- A parked group of a context with a park number: resident, or saved in a snapshot. -/
def parkedAt (s : State) (p ctx number : Nat) : Option Nat :=
  (s.groups.find? fun (_, g) =>
    match g with
    | some g => g.part == p && g.ctx == ctx && (g.park.map (·.number)) == some number
    | none => false).map (·.1)

def isParked (p ctx number : Nat) (g : Group) : Bool := g.part == p && g.ctx == ctx && (g.park.map (·.number)) == some number

/-- Is a saved group parked with the number? -/
def savedParked (s : State) (p ctx number : Nat) : Option Group :=
  s.clusters.findSome? fun (_, x) => x.snaps.findSome? fun (_, v) =>
    v.bind fun sn => sn.teams.findSome? fun (_, gs, _) => (gs.find? fun (_, g) => isParked p ctx number g).map (·.2)

/-- Change the saved group parked with the number. -/
def modSaved (s : State) (p ctx number : Nat) (f : Group → Group) : State :=
  let onGroup := fun (i, g) => (i, if isParked p ctx number g then f g else g)
  let onSnap := fun (sn : Snapshot) => { sn with teams := sn.teams.map fun (t, gs, m) => (t, gs.map onGroup, m) }
  { s with clusters := s.clusters.map fun (c, x) => (c, { x with snaps := x.snaps.map fun (n, v) => (n, v.map onSnap) }) }

/-- A group leaves the parked state to issue the instruction again; for 0x71 and 0x72 every waiting path does (R159). -/
def retryGroup (g : Group) : Group :=
  match g.park with
  | none => g
  | some k =>
    let g := { g with park := none }
    if k.code = 0x71#8 || k.code = 0x72#8 then
      { g with paths := g.paths.map fun p => { p with st := .live },
               fence := g.fence.filter fun f => !f.forBarrier }
    else g

/-- A group resumes after the instruction; for 0x71 and 0x72 each waiting path continues after its BAR.T or JOIN (R159). A
failure that arrived later leaves the group at the point it had reached (R345). A path that waits at a JOIN leaves its innermost
entry. (DEDUCED, log 90) -/
def skipGroup (g : Group) : Group :=
  match g.park with
  | none => g
  | some k =>
    let g := { g with park := none }
    if k.code = 0x71#8 || k.code = 0x72#8 then
      { g with paths := g.paths.map fun p =>
                 match p.st with
                 | .live => p
                 | .atJoin => { p with st := .live, pc := p.pc + 8, entries := p.entries.drop 1 }
                 | _ => { p with st := .live, pc := p.pc + 8 },
               fence := g.fence.filter fun f => !f.forBarrier }
    else if k.async then g
    else { g with mmaStep := none, image := [], paths := g.paths.map fun p =>
             if isLive p && p.pc == k.pc && p.mask &&& k.mask != 0 then { p with pc := p.pc + 8 } else p }

/-- Failed accesses of a group. -/
def failedOf (s : State) (gid : Nat) : List Access := s.accs.filter fun a => a.gid == gid && a.failed ≠ 0

/-- Give up the failed accesses of a group: a load's whole instruction, whose registers keep their values, and the parts of an
accumulator image (R159, R345). -/
def dropFailed (s : State) (gid : Nat) : State :=
  let instrs := ((failedOf s gid).filter fun a => a.kind == .load).map (·.instr)
  { s with accs := s.accs.filter fun a => !(a.gid == gid && (a.failed != 0 || (a.kind == .load && instrs.contains a.instr))) }

/-- The parts of an accumulator image that a group has asked for are dropped: its ACC.RESTORE issues afresh. -/
def dropImage (s : State) (gid : Nat) : State :=
  modGroup { s with accs := s.accs.filter fun a => !(a.gid == gid && a.pieces.any fun p => p.lane == 32) } gid
    fun g => { g with image := [] }

/-- Bring a parked group back with `f`; `again` sends its failed accesses once more, else they are dropped (R345). -/
def resumeGroup (s : State) (p ctx number : Nat) (f : Group → Group) (again : Bool) : State :=
  let s := match ctxOf s p ctx with
    | some c => clearRecord s p c number
    | none => s
  match parkedAt s p ctx number with
  | some gid =>
    let s := if (failedOf s gid).any (fun a => a.pieces.any fun x => x.lane == 32) then dropImage s gid else s
    let failed := failedOf s gid
    let s := modGroup s gid f
    if again then failed.foldl resend s else dropFailed s gid
  | none =>
    match savedParked s p ctx number with
    | some g =>
      let s := modSaved s p ctx number f
      if again then s else dropFailed s (savedGid g.task g.team g.index)
    | none => s

/-- 0x57 where no group of the context is parked with the number (R159, R368). -/
def replayFault (s : State) (p : Nat) (c : Cmd) : Nat :=
  let ctx := cw c 2 15 0
  let n := cw c 1 31 0
  if (parkedAt s p ctx n).isSome || (savedParked s p ctx n).isSome then 0 else 0x57

def isAction (a : Nat) (c : Cmd) : Bool := cw c 1 33 32 == a

/-- REPLAY with action RETRY. -/
def execRetry (p q : Nat) (seq : W32) (s : State) : Host.Outcome State Fault Refusal :=
  onUnit (partOk p && slotOk q) (runCmd s p q seq 0x03 (isAction 0) (fun s c => replayFault s p c) fun s c =>
    finishCmd (resumeGroup s p (cw c 2 15 0) (cw c 1 31 0) retryGroup true) p q c.seq 0)

/-- REPLAY with action SKIP. -/
def execSkip (p q : Nat) (seq : W32) (s : State) : Host.Outcome State Fault Refusal :=
  onUnit (partOk p && slotOk q) (runCmd s p q seq 0x03 (isAction 1) (fun s c => replayFault s p c) fun s c =>
    finishCmd (resumeGroup s p (cw c 2 15 0) (cw c 1 31 0) skipGroup false) p q c.seq 0)

/-- Fault code of a parked group. -/
def parkCode (s : State) (p ctx number : Nat) : Nat :=
  let g := match parkedAt s p ctx number with
    | some gid => group s gid
    | none => savedParked s p ctx number
  ((g.bind (·.park)).map (·.code.toNat)).getD 0

/-- REPLAY with action TEARDOWN (R159, R373). (DEDUCED, log 41) -/
def execTeardown (p q : Nat) (seq : W32) (s : State) : Host.Outcome State Fault Refusal :=
  onUnit (partOk p && slotOk q) (runCmd s p q seq 0x03 (isAction 2) (fun s c => replayFault s p c) fun s c =>
    let ctx := cw c 2 15 0
    finishCmd (teardown s p ctx (parkCode s p ctx (cw c 1 31 0))) p q c.seq 0)

/-! ### Translations and read-only caches (R156, R249, R370) -/

/-- INV_TLB (R156). -/
def execInvTlb (p q : Nat) (seq : W32) (s : State) : Host.Outcome State Fault Refusal :=
  onUnit (partOk p && slotOk q) (runCmd s p q seq 0x04 (fun _ => true) (fun _ _ => 0) fun s c =>
    let ctx := cw c 1 15 0
    let first := cw c 2 47 12
    let n := cw c 3 35 0
    let meets := fun (page pages : Nat) => n == 0 || (decide (page < first + n) && decide (first < page + pages))
    let hit := fun (e : TlbEntry) => e.part == p && e.ctx == ctx && meets e.vpage e.pages
    -- a table pointer of level l covers 2^(36 - 9 l) pages
    let ptrHit := fun (e : PtrEntry) => e.part == p && e.ctx == ctx && meets (e.index * 2 ^ (36 - 9 * e.level)) (2 ^ (36 - 9 * e.level))
    let forget := fun (x : Cluster) => { x with tlb := dropWhere hit x.tlb, ptrs := dropWhere ptrHit x.ptrs }
    finishCmd { s with clusters := s.clusters.map fun (i, x) => (i, forget x) } p q c.seq 0)

/-- INV_RO: every cluster that holds a team of the partition (R249, R370). -/
def execInvRo (p q : Nat) (seq : W32) (s : State) : Host.Outcome State Fault Refusal :=
  onUnit (partOk p && slotOk q) (runCmd s p q seq 0x05 (fun _ => true) (fun _ _ => 0) fun s c =>
    let held := fun (x : Cluster) => x.teams.any fun t => ((taskOf s t.task).map fun k => k.part == p).getD false
    finishCmd { s with clusters := s.clusters.map fun (i, x) => (i, if held x then { x with ro := [] } else x) } p q c.seq 0)

/-! ### Contexts and queues (R356, R374, R389 to R391) -/

/-- CREATE_CONTEXT. -/
def execCreateContext (p q : Nat) (seq : W32) (s : State) : Host.Outcome State Fault Refusal :=
  onUnit (partOk p && slotOk q) (runCmd s p q seq 0x80 (fun _ => true)
    (fun s c => if (ctxOf s p (cw c 1 15 0)).isSome then 0x59 else 0) fun s c =>
    finishCmd (setCtx s p (cw c 1 15 0) (some
      { root := cw c 2 49 12 * 4096, constBase := cw c 3 49 12 * 4096, constSlots := cw c 3 63 56, constVa := cw c 4 47 12 * 4096,
        parkBase := cw c 5 49 6 * 64, parkEntries := cw c 6 31 0 })) p q c.seq 0)

/-- A context in use: a bound queue or a registered graph (R370). -/
def ctxBusy (s : State) (p ctx : Nat) : Bool :=
  ((part s p).queues.any fun (q, x) => q != 0 && x.bound && x.ctx == ctx)
    || (part s p).graphs.any fun (_, g) => (g.map fun g => g.ctx == ctx).getD false

/-- DESTROY_CONTEXT; its cached translations go with the address space (DEDUCED, log 29). -/
def execDestroyContext (p q : Nat) (seq : W32) (s : State) : Host.Outcome State Fault Refusal :=
  onUnit (partOk p && slotOk q) (runCmd s p q seq 0x81 (fun _ => true)
    (fun s c => if ctxBusy s p (cw c 1 15 0) then 0x59 else 0) fun s c =>
    let ctx := cw c 1 15 0
    let s := setCtx s p ctx none
    let forget := fun (x : Cluster) =>
      { x with tlb := dropWhere (fun e => e.part == p && e.ctx == ctx) x.tlb, ptrs := dropWhere (fun e => e.part == p && e.ctx == ctx) x.ptrs }
    finishCmd { s with clusters := s.clusters.map fun (i, x) => (i, forget x) } p q c.seq 0)

/-- CREATE_QUEUE: the slot is bound to its ring, its first sequence number set (R359, R363, R391). -/
def execCreateQueue (p q : Nat) (seq : W32) (s : State) : Host.Outcome State Fault Refusal :=
  onUnit (partOk p && slotOk q) (runCmd s p q seq 0x82 (fun _ => true)
    (fun s c => if (queue s p (cw c 1 8 0)).bound then 0x59 else 0) fun s c =>
    let n := cw c 1 8 0
    let first : W32 := BitVec.ofNat 32 (cw c 1 63 32)
    let x := queue s p n
    finishCmd (setQueue s p n
      { declared := x.declared, devenq := x.devenq, fpr := x.fpr, bound := true, ctx := cw c 1 31 16, logsz := cw c 2 3 0,
        base := cw c 2 49 12 * 4096, cmplBase := cw c 3 49 6 * 64, expect := some first,
        qcmp := qcmpFirst first s.dev.gen.toNat }) p q c.seq 0)

/-- DESTROY_QUEUE, phases 1 to 4: an unbound slot is left as it is (R370, R389). (DESIGN CHOICE, log 43) -/
def execDestroyQueue (p q : Nat) (seq : W32) (s : State) : Host.Outcome State Fault Refusal :=
  onUnit (partOk p && slotOk q) (runCmd s p q seq 0x83 (fun _ => true)
    (fun s c => if (queue s p (cw c 1 8 0)).destroying then 0x59 else 0) fun s c =>
    let n := cw c 1 8 0
    finishCmd (if (queue s p n).bound then destroyQueue s p n else s) p q c.seq 0)

/-! ### Graphs (R377 to R385, R403, R405) -/

/-- Bytes of the graph store and of the spill region that a partition's live versions claim. -/
def storeClaimed (s : State) (p : Nat) : Nat :=
  ((part s p).graphs.map fun (_, g) => (g.map fun g => (g.versions.map fun (_, _, n) => n).sum).getD 0).sum
def spillClaimed (s : State) (p : Nat) : Nat := ((liveDescrs s p).map spillClaim).sum

/-- The ledger-spill areas that a partition's live versions have: base and length (R272). -/
def spillAreas (s : State) (p : Nat) : List (Nat × Nat) :=
  (part s p).graphs.flatMap fun (_, g) =>
    ((g.map fun g => g.versions.map fun (v, d, _) => (look 0 g.spillAt v, spillClaim d)).getD []).filter fun (_, n) => n ≠ 0

/-- Where the areas of a new version begin: the lowest place of the partition's region where they fit (DESIGN CHOICE, log 95). -/
def spillPlace (s : State) (p n : Nat) : Nat :=
  let c := partCfg s p
  let used := spillAreas s p
  let free := fun (a : Nat) => decide (a + n ≤ c.spillBase + c.spillLen) && used.all fun (b, m) => decide (a + n ≤ b) || decide (b + m ≤ a)
  ((c.spillBase :: used.map fun (b, m) => b + m).filter free).foldl (fun best a => if best = 0 || a < best then a else best) 0

/-- Park entries that a context needs (R158). -/
def parkNeed (s : State) (p : Nat) : Nat :=
  384 * ((List.range (clusterCount s.variant)).filter fun c => clusterOwner s c == some p).length

/-- What the loader refuses a graph or version for, in the order of R381; 0 admits it. `claim` is its claim on the store. (DEDUCED, log 40) -/
def loaderCode (s : State) (p ctx claim : Nat) (d : List Byte) : Nat :=
  firstCode [
    firstCode ((allNodes d).map (nodeFault s p fun _ => true)),
    firstCode ((allNodes d).map (formatCode s)),
    if pinsFit s p d then 0 else 0x53,
    if spillClaimed s p + spillClaim d ≤ (partCfg s p).spillLen then 0 else 0x54,
    if ((ctxOf s p ctx).map fun c => decide (parkNeed s p ≤ c.parkEntries)).getD false then 0 else 0x56,
    if storeClaimed s p + claim ≤ (partCfg s p).storeLen then 0 else 0x58,
    if longestPath d ≤ gBound d then 0 else 0x5A,
    if ((deadlineEntry s p ctx).map fun r => decide (gBound d ≤ r.c)).getD true && keepsAdmitted s p ctx d then 0 else 0x5B]

/-- REGISTER_GRAPH: the descriptor is copied into the store and admitted whole, or refused whole (R381). -/
def execRegisterGraph (p q : Nat) (seq : W32) (s : State) : Host.Outcome State Fault Refusal :=
  onUnit (partOk p && slotOk q) (runCmd s p q seq 0x84 (fun _ => true)
    (fun s c =>
      let d := (readPhys s (cw c 2 49 6 * 64) (cw c 3 19 0))
      let d := d.take (gTotal d)
      if (graphOf s p (cw c 1 31 0)).isSome then 0x59 else loaderCode s p (cw c 1 47 32) d.length d) fun s c =>
    let d := (readPhys s (cw c 2 49 6 * 64) (cw c 3 19 0))
    let d := d.take (gTotal d)
    let s := agentReads s (cw c 2 49 6 * 64) (cw c 3 19 0) 0 true
    finishCmd (setGraph s p (cw c 1 31 0) (some { ctx := cw c 1 47 32, versions := [(1, d, d.length)], spillAt := [(1, spillPlace s p (spillClaim d))] })) p q c.seq 0)

/-- PATCH_GRAPH: version v + 1 becomes current if the loader admits it (R384). -/
def execPatchGraph (p q : Nat) (seq : W32) (s : State) : Host.Outcome State Fault Refusal :=
  let patched := fun (s : State) (c : Cmd) =>
    (graphOf s p (cw c 1 31 0)).bind fun g => (descrOf s p (cw c 1 31 0) g.current).map fun d =>
      (g, applyPatch s (cw c 2 49 7 * 128) d, 64 * ((List.range (patchCount s (cw c 2 49 7 * 128))).map fun i =>
        fieldAt (patchEntry s (cw c 2 49 7 * 128) i) 0 2).eraseDups.length)
  onUnit (partOk p && slotOk q) (runCmd s p q seq 0x85 (fun _ => true)
    (fun s c =>
      match patched s c with
      | none => 0x46
      | some (g, d, n) => if 4 ≤ g.versions.length then 0x58 else loaderCode s p g.ctx n d) fun s c =>
    match patched s c with
    | none => s
    | some (g, d, n) =>
      let v := g.versions.foldl (fun m (v, _, _) => Nat.max m v) g.current + 1
      let s := agentReads s (cw c 2 49 7 * 128) (128 + 128 * patchCount s (cw c 2 49 7 * 128)) 0 true
      let s := setGraph s p (cw c 1 31 0) (some { g with current := v, versions := g.versions ++ [(v, d, n)],
                                                                   spillAt := put 0 g.spillAt v (spillPlace s p (spillClaim d)) })
      finishCmd (freeVersions s p (cw c 1 31 0)) p q c.seq 0)

/-- RELEASE_GRAPH (R385). -/
def execReleaseGraph (p q : Nat) (seq : W32) (s : State) : Host.Outcome State Fault Refusal :=
  onUnit (partOk p && slotOk q) (runCmd s p q seq 0x86 (fun _ => true) (fun _ _ => 0) fun s c =>
    let h := cw c 1 31 0
    finishCmd (freeVersions (setGraph s p h ((graphOf s p h).map fun g => { g with released := true })) p h) p q c.seq 0)

/-! ### Event ring and rows (R392, R213) -/

/-- SET_EVENT_RING: a new ring starts empty; DISABLE ends the posting of events (R392, DEDUCED, log 30). -/
def execSetEventRing (p q : Nat) (seq : W32) (s : State) : Host.Outcome State Fault Refusal :=
  onUnit (partOk p && slotOk q) (runCmd s p q seq 0x87 (fun _ => true) (fun _ _ => 0) fun s c =>
    let s := modPart s p fun r =>
      if cw c 1 63 63 = 1 then { r with ringSet := false, evHeld := [] }
      else { r with ringSet := true, ringQp := cw c 1 23 0 - qpnBase, ringLogn := cw c 1 31 24, ringVa := c.words.getD 2 0,
                    ringKey := BitVec.ofNat 32 (cw c 3 31 0), evHead := 0, evTail := 0, evLost := 0 }
    finishCmd s p q c.seq 0)

/-- RETIRE_ROWS: every pending retirement comes into force (R213). -/
def execRetireRows (p q : Nat) (seq : W32) (s : State) : Host.Outcome State Fault Refusal :=
  onUnit (partOk p && slotOk q) (runCmd s p q seq 0x88 (fun _ => true) (fun _ _ => 0) fun s c =>
    finishCmd (forceRows s) p q c.seq 0)

/-! ### Completion (R363 to R365) -/

/-- The completion record of a command that asks for one, where its queue has a completion area (R365). -/
def writeRecord (s : State) (p q : Nat) (c : Cmd) : State :=
  let x := queue s p q
  if !cWCMP c || x.cmplBase = 0 then s
  else
    let bytes := completionRecord c s.dev.gen.toNat
    let s := agentWrite s p (x.cmplBase + 64 * (c.seq.toNat % ringSize x)) bytes
    emit s (.complete p q bytes)

/-- COMMAND_COMPLETE: the oldest command of the queue has completed: its record, then QCMP (R363 to R365, R350); with a
DESTROY_QUEUE ends its phase 5 (R389). -/
def execCommandComplete (p q : Nat) (seq : W32) (s : State) : Host.Outcome State Fault Refusal :=
  onUnit (partOk p && slotOk q)
    (let x := queue s p q
     match x.cmds with
     | [] => s
     | c :: rest =>
       if c.seq ≠ seq || !c.done || s.restart.active then s
       else
         let s := if q = 0 && cOp c = 0x83 && c.code = 0 then endDestroy s p (cw c 1 8 0) else s
         let s := writeRecord s p q c
         modQueue s p q fun x =>
           { x with qcmp := qcmpAdvance x.qcmp c.seq c.code (cmdMarks c x.revokeMark) s.dev.gen.toNat, revokeMark := false,
                    lastSeq := c.seq, cmds := rest })

/-! ### RESET_PARTITION (R422 to R424) -/

/-- The queue slots of a partition as the image declares them, QK bound to its ring (R356). -/
def qkQueue (cfg : PartCfg) (fpr : Bool) (qcmp : W64) : Queue :=
  { declared := true, fpr, bound := true, logsz := cfg.qkLogsz, base := cfg.qkBase, cmplBase := cfg.qkCmpl, expect := some 0, qcmp }

/-- Accepted commands of a partition that have not completed. -/
def openCmds (s : State) (p : Nat) : List (Nat × Cmd) :=
  (part s p).queues.flatMap fun (q, x) => (x.cmds.filter fun c => c.accepted && !c.done).map fun c => (q, c)

/-- Phases 1 to 8 of R423, other partitions undisturbed. -/
def resetPart (s : State) (p : Nat) : State :=
  let failed := openCmds s p
  let tasks := (s.tasks.filter fun t => t.part == p && taskOpen t).length
  let openOf := fun (q : Nat) => (s.tasks.filter fun t => taskOpen t &&
    ((launchOf s t.launch).map fun l => l.part == p && l.q == q).getD false).length
  let counts := (slotsOf s p).map fun q => (q, openOf q)
  let s := discardTasks s fun t => t.part == p
  -- the launches leave; every command fails with 0x5E, those with WCMP leave a record
  let s := dropLaunches s fun l => l.part == p
  let s := failed.foldl (fun s (q, c) => finishCmd s p q c.seq 0x5E) s
  let s := failed.foldl (fun s (q, c) => writeRecord s p q ((findCmd (queue s p q) c.seq).getD c)) s
  let s := (allSlices s.variant).foldl (fun s i => purgeSlice s p i) s
  let mine := (allClusters s.variant).filter fun c => clusterOwner s c == some p
  let s := (allClusters s.variant).foldl (fun s c => purgeCluster s p c) s
  let s := mine.foldl zeroCluster s
  let gen := s.dev.gen.toNat
  let s := counts.foldl (fun s (q, n) =>
    modQueue s p q fun x =>
      if q = 0 then qkQueue (partCfg s p) x.fpr (qcmpReset gen)
      else if x.bound then
        { declared := x.declared, devenq := x.devenq, fpr := x.fpr, lastSeq := x.lastSeq, qcmp := qcmpDestroyed x.qcmp n x.revokeMark gen }
      else x) s
  let s := modPart s p fun r => { r with ctxs := [], graphs := [], slices := [], overruns := [], overrunSince := [] }
  let s := releaseResvs s p
  let s := if s.dev.st = 2 then runPass s false else s
  let spec := [BitVec.ofNat 8 p, 0, 0, 0] ++ leBytes 4 tasks ++ leBytes 4 failed.length
  postEvents s (if p = 0 then [0] else [p, 0]) (event 5 0 noSlot 0 spec)

/-- RESET_PARTITION. -/
def execResetPartition (p q : Nat) (seq : W32) (s : State) : Host.Outcome State Fault Refusal :=
  onUnit (partOk p && slotOk q) (runCmd s p q seq 0x8A (fun _ => true)
    (fun s c =>
      let t := cw c 1 3 0
      if t = 0 || !(partCfg s t).isDefined || (part s t).resetting then 0x5D else 0) fun s c =>
    finishCmd (resetPart s (cw c 1 3 0)) p q c.seq 0)

end Sys2Proof.Machine
end

