-- ==== Sys2Proof/Machine/Matrix.lean ====
section
/-! DEFINITION. The matrix engine and the tile instructions: R93 to R112, R123 to R131, R142, R548 of
04_matrix_vector_engines. A matrix or tile instruction acts on the registers of all 32 threads, whichever path issues it. -/

namespace Sys2Proof.Machine
open Sys2Proof.Num

def accOf (g : Group) (n : Nat) : Acc := look {} g.accs n
def setAcc (g : Group) (n : Nat) (a : Acc) : Group := { g with accs := put {} g.accs n a }

/-- Checks 0x21 to 0x24 that matrix and tile instructions share: opcode, reserved bits, register blocks, accumulator. -/
def wordFaults (g : Group) (w : W64) (op : Nat) (fields : List (Nat × Nat)) (blocks : List (Nat × Nat)) (acc : Option Nat) :
    List (Bool × Nat) :=
  [(opcode w != op, 0x21), (reservedBits w ((7, 0) :: fields) != 0, 0x22), (blocks.any fun (r, n) => !inGrant g r n, 0x23),
   ((acc.map fun a => decide (g.accGrant ≤ a)).getD false, 0x24)]

/-! ### MMA (R101 to R105) -/

structure MmaWord where
  fa : BitVec 4
  fb : BitVec 4
  at' : Nat
  init : Bool
  ta : Nat
  tb : Nat
  sa : Nat
  sb : Nat
  ksteps : Nat
  koff : Nat
  deriving DecidableEq, Repr

/-- Fields of R105. -/
def mmaWord (w : W64) : MmaWord :=
  { fa := BitVec.ofNat 4 (bits w 11 8), fb := BitVec.ofNat 4 (bits w 15 12), at' := bits w 17 16, init := bits w 19 19 = 1,
    ta := bits w 24 20, tb := bits w 29 25, sa := bits w 37 30, sb := bits w 45 38, ksteps := bits w 49 46 + 1,
    koff := bits w 51 50 }

def mmaFields : List (Nat × Nat) := [(11, 8), (15, 12), (17, 16), (19, 19), (24, 20), (29, 25), (37, 30), (45, 38), (49, 46), (51, 50)]

/-- The wider of the two input formats decides depth and steps (R102). -/
def wider (m : MmaWord) : BitVec 4 := if elemBits m.fa < elemBits m.fb then m.fb else m.fa

/-- Offsets oA and oB of R102. -/
def offsets (m : MmaWord) : Nat × Nat :=
  let o := m.koff * tileK (wider m)
  if elemBits m.fa < elemBits m.fb then (o, 0) else if elemBits m.fb < elemBits m.fa then (0, o) else (0, 0)

/-- 0x28 of R102 and R103: the offset or the depth leaves the operand tile. -/
def depthBad (m : MmaWord) : Bool :=
  let k := tileK (wider m)
  let narrow := Nat.max (tileK m.fa) (tileK m.fb)
  (if elemBits m.fa = elemBits m.fb then m.koff != 0 else decide (narrow < (m.koff + 1) * k)) ||
    decide (k / stepK (wider m) < m.ksteps)

/-- Both exact, or both the same pair format (R74, R83). -/
def comboOk (m : MmaWord) : Bool := (isExact m.fa && isExact m.fb) || (isPair m.fa && m.fa == m.fb)

/-- The accumulator form an MMA needs (R99). -/
def formOk (m : MmaWord) (f : AccForm) : Bool :=
  if isPair m.fa then f == .pair else f == .ledger || f == .reduced

/-- Registers that an MMA reads: both tiles, and the scale register of an MX operand; SA and SB are ignored otherwise (R105). -/
def mmaSources (m : MmaWord) : List (Nat × Nat) :=
  [(8 * m.ta, 8), (8 * m.tb, 8)] ++ (if isMx m.fa then [(m.sa, 1)] else []) ++ (if isMx m.fb then [(m.sb, 1)] else [])

/-- The step at which this issue of the word starts: an interrupted MMA resumes (R129, R130). -/
def startStep (g : Group) (w : W64) : Nat :=
  match g.mmaStep with
  | some (v, n) => if v = w then n else 0
  | none => 0

def mmaFaults (s : State) (g : Group) (w : W64) : List (Bool × Nat) :=
  let m := mmaWord w
  let a := accOf g m.at'
  wordFaults g w 0x40 mmaFields (mmaSources m) (some m.at') ++
    formatFaults s [(m.fa, true), (m.fb, true)] ++
    [(!comboOk m || (isExact m.fa && !m.init && a.int32Made && !(isIntInput m.fa && isIntInput m.fb)), 0x65),
     (depthBad m, 0x28), ((isMx m.fa || isMx m.fb) && m.ksteps * stepK (wider m) % 32 != 0, 0x66),
     (!m.init && !formOk m a.form, 0x25)]

/-- Steps of the instruction: an FP64 step computes half the columns (R104). -/
def mmaSteps (m : MmaWord) : Nat := if m.fa = 0 then 2 * m.ksteps else m.ksteps

/-- The step that takes the product of index `k` and column `j` (R95, R104). -/
def stepOf (m : MmaWord) (k j : Nat) : Nat := if m.fa = 0 then 2 * k + j / 8 else k / stepK (wider m)

/-- The accumulator an MMA with INIT creates (R99, R101, R109). -/
def freshAcc (s : State) (m : MmaWord) : Acc :=
  { form := if isPair m.fa then .pair else ledgerForm s, intOnly := isExact m.fa, int32Made := false }

/-- Steps `t0` to `t1 - 1` of an MMA on an accumulator, products in ascending k (R101, R104). -/
def mmaRange (g : Group) (m : MmaWord) (a : Acc) (t0 t1 : Nat) : Acc :=
  let (oa, ob) := offsets m
  let elems := (List.range 256).foldl (fun es n =>
    let i := n / 16
    let j := n % 16
    let ks := (List.range (m.ksteps * stepK (wider m))).filter fun k => decide (t0 ≤ stepOf m k j) && decide (stepOf m k j < t1)
    put {} es n (ks.foldl (fun e k =>
      elemProduct a.form e (tileElem g m.fa m.ta m.sa i (k + oa)) (tileElem g m.fb m.tb m.sb j (k + ob))) (look {} es n))) a.elems
  { a with elems, intOnly := a.intOnly && isIntInput m.fa && isIntInput m.fb }

/-- The accumulator at step `t1`, started at `t0` (INIT creates it at step 0). -/
def mmaResult (s : State) (g : Group) (m : MmaWord) (t0 t1 : Nat) : Acc :=
  mmaRange g m (if m.init && t0 = 0 then freshAcc s m else accOf g m.at') t0 t1

/-- The command of the task is marked when a REDUCED accumulator takes part (R84, R99). -/
def markForm (s : State) (task : Nat) (f : AccForm) : State := if f = .reduced then markReduced s task else s

/-- MMA. A step that fails its check three times leaves the accumulator at the last committed step (R126). -/
def execMma (g : GRef) (w : W64) (s : State) : Host.Outcome State Fault Refusal :=
  let m := mmaWord w
  onUnit g.ok (issue s g w (fun x _ => mmaFaults s x w)
    (fun _ _ => blocksFree s (gidOf g) (mmaSources m))
    fun x p =>
      let t0 := startStep x w
      let last := mmaSteps m
      if 3 ≤ g.fails then
        let t := Nat.min (Nat.max t0 g.failStep) (last - 1)
        let x' := if t = t0 then x else setAcc x m.at' (mmaResult s x m t0 t)
        let s := setGroup (matrixIssue s (gidOf g) m.fa.toNat m.fb.toNat (t - t0)) (gidOf g) (some { x' with mmaStep := some (w, t) })
        persistentError (parkAt s (gidOf g) p 0x27 0 w p.mask) g.cl
      else
        let a := mmaResult s x m t0 last
        let s := if g.fails = 0 then s else countRetry s
        markForm (retire (matrixIssue s (gidOf g) m.fa.toNat m.fb.toNat (last - t0)) (gidOf g) { setAcc x m.at' a with mmaStep := none }) x.task a.form)

/-! ### Accumulators (R106 to R112) -/

/-- Legal incoming formats of ACC.LOAD (R106). -/
def loadFormatOk (form : Nat) (fi : BitVec 4) : Bool :=
  if form = 1 then [0xA, 1, 2, 3].contains fi.toNat else [0, 1, 0xE].contains fi.toNat

/-- ACC.LOAD (R106, R109). -/
def execAccLoad (g : GRef) (w : W64) (s : State) : Host.Outcome State Fault Refusal :=
  let fi := BitVec.ofNat 4 (bits w 11 8)
  let n := bits w 17 16
  let form := bits w 20 19
  let rs := bits w 31 24
  let e := resultBytes fi
  onUnit g.ok (issue s g w
    (fun x _ => [(opcode w != 0x41, 0x21), (reservedBits w [(7, 0), (11, 8), (17, 16), (20, 19), (31, 24)] != 0 || (form != 1 && form != 2), 0x22),
        (!inGrant x rs (Nat.max 1 (2 * e)), 0x23), (decide (x.accGrant ≤ n), 0x24), (e != 0 && rs % (2 * e) != 0, 0x26)] ++
      formatFaults s [(fi, false)] ++ [(!loadFormatOk form fi, 0x65)])
    (fun _ _ => blocksFree s (gidOf g) [(rs, Nat.max 1 (2 * e))])
    fun x _ =>
      let f := if form = 1 then ledgerForm s else .pair
      let isInt := form == 1 && fi == 0xA#4
      let elems := (List.range 256).foldl (fun es k =>
        let c := resultElem x fi rs (k / 16) (k % 16)
        let dd := if fi = 0xE then some (c % 2 ^ 64, c >>> 64) else none
        put {} es k (elemOf f (elemVal fi c 0) dd)) []
      retire s (gidOf g) (setAcc x n { form := f, intOnly := isInt, int32Made := isInt, elems }))

/-- ACC.RELEASE (R106). -/
def execAccRelease (g : GRef) (w : W64) (s : State) : Host.Outcome State Fault Refusal :=
  onUnit g.ok (issue s g w (fun x _ => wordFaults x w 0x43 [(17, 16)] [] (some (bits w 17 16))) (fun _ _ => true)
    fun x _ => retire s (gidOf g) (setAcc x (bits w 17 16) {}))

/-- Formats that an accumulator of a form may be rounded to or pushed as (R107, R110). -/
def outFormatOk (a : Acc) (fo : BitVec 4) : Bool :=
  match a.form with
  | .pair => [0, 1, 0xE].contains fo.toNat
  | .empty => [0, 1, 2, 3, 0xA, 0xE].contains fo.toNat
  | _ => [1, 2, 3].contains fo.toNat || (fo == 0xA#4 && a.intOnly)

/-- Does the rounding use RM (R70, R107)? -/
def roundsUnder (a : Acc) (fo : BitVec 4) : Bool := !(fo == 0xA#4 || (fo == 0xE#4 && (a.form == .pair || a.form == .empty)))

/-- ACC.ROUND (R107, R108). -/
def execAccRound (g : GRef) (w : W64) (s : State) : Host.Outcome State Fault Refusal :=
  let fo := BitVec.ofNat 4 (bits w 11 8)
  let n := bits w 17 16
  let rm := bits w 21 19
  let rd := bits w 31 24
  let rb := bits w 39 32
  let e := resultBytes fo
  let blk := fun (x : Group) => if rm = 4 && roundsUnder (accOf x n) fo then [(rb, 6)] else []
  onUnit g.ok (issue s g w
    (fun x _ =>
      let a := accOf x n
      wordFaults x w 0x44 [(11, 8), (17, 16), (21, 19), (22, 22), (23, 23), (31, 24), (39, 32)] ((rd, Nat.max 1 (2 * e)) :: blk x) (some n) ++
        [(e != 0 && rd % (2 * e) != 0, 0x26)] ++ formatFaults s [(fo, false)] ++
        [(roundsUnder a fo && badMode rm, 0x64), (!outFormatOk a fo, 0x65), (a.form == .empty, 0x25)])
    (fun x _ => blocksFree s (gidOf g) ((rd, Nat.max 1 (2 * e)) :: blk x))
    fun x _ =>
      let a := accOf x n
      let b := rsrBlock x rb
      let code := fun i j =>
        let u := if rm = 4 && roundsUnder a fo then rsrDraw b (i * b.stride.toNat + j) else 0
        elemRound a.form fo ⟨rm, bits w 22 22 = 1, u⟩ (look {} a.elems (16 * i + j))
      let x := writeResult x fo rd code
      let x := if bits w 23 23 = 1 then x else setAcc x n {}
      markForm (retire s (gidOf g) x) x.task a.form)

/-! ### ACC.PUSH (R110) -/

/-- V of the value `hi + lo` of a REDUCED element; a value that V cannot hold, which only an accumulator image can bring in,
has no stated V. (DESIGN CHOICE, log 83) -/
def pairV (hi lo : Nat) (x : Exact) : BitVec 640 :=
  if x.man != 0 && (319 : Int) ≤ (Nat.log2 x.man : Int) + x.exp then Config.reducedV hi lo else toV x.neg x.man x.exp

/-- The record of an element, at its place in the line. -/
def pushRecord (a : Acc) (idx : Nat) (e : Elem) : CruRecord :=
  match a.form with
  | .pair => .pair idx (BitVec.ofNat 64 e.hi) (BitVec.ofNat 64 e.lo)
  | .reduced =>
    -- a REDUCED element travels in ledger form: its flags and the value hi + lo (R84, R110)
    let v := match pairVal e.hi e.lo with
      | .fin x => pairV e.hi e.lo x
      | _ => 0
    let l := match pairVal e.hi e.lo with
      | .fin _ => { e.led with v }
      | .inf n => { e.led with v, pinf := e.led.pinf || !n, ninf := e.led.ninf || n }
      | .nan => { e.led with v, nan := true }
    ledgerRecord idx l a.intOnly
  | _ => ledgerRecord idx e.led a.intOnly

/-- Packets of a push: for every line the records of its elements, cut at 256 bytes of payload. -/
def pushPackets (a : Acc) (fl : BitVec 4) (task part : Nat) (els : List (Hit × Elem)) : List (Nat × CruPacket × List Piece × Nat) :=
  let lines := (els.map fun (h, _) => h.pa / 128).eraseDups
  lines.flatMap fun l =>
    let here := els.filter fun (h, _) => h.pa / 128 == l
    let recs := here.map fun (h, e) => pushRecord a (h.pa % 128 / (elemBits fl / 8)) e
    let attr := (here.head?.map fun (h, _) => h.attr).getD 0
    let va := (here.head?.map fun (h, _) => h.ref.va).getD 0
    (withPieces (here.map fun (h, _) => hitPiece h 0) (cutRecords 248 recs 0 [])).map fun (rs, ps) =>
      (va, { line := l, fl, op := 0, task, attr, part, recs := rs }, ps, 0)

/-- ACC.PUSH. -/
def execAccPush (g : GRef) (w : W64) (s : State) : Host.Outcome State Fault Refusal :=
  let fl := BitVec.ofNat 4 (bits w 11 8)
  let n := bits w 17 16
  let ra := bits w 31 24
  let rs := bits w 39 32
  let gid := gidOf g
  onUnit g.ok (issue s g w
    (fun x _ =>
      let a := accOf x n
      wordFaults x w 0x45 [(11, 8), (17, 16), (23, 23), (31, 24), (39, 32)] [(ra, 2), (rs, 1)] (some n) ++
        [(tileBase x ra % 16 != 0 || tileStride x rs % 16 != 0, 0x26)] ++ formatFaults s [(fl, false)] ++
        [(!outFormatOk a fl, 0x65), (a.form == .empty, 0x25)])
    (fun x _ => fenceFree x && canWrite s gid && blocksFree s gid [(ra, 2), (rs, 1)])
    fun x p =>
      let a := accOf x n
      let size := elemBits fl / 8
      let refs : List Ref := (List.range 256).map fun k =>
        { va := rowAddr (tileBase x ra) (tileStride x rs) (k / 16) + k % 16 * size, len := size, lane := 2 * (k / 16) + k % 16 / 8 }
      let l := refs.map fun r => (r, match hitOf s g.cl x .store r with
        | .ok h => match updateTarget s h.pa with
          | some c => .error (h.late.getD c)
          | none => .ok h
        | .error c => .error c)
      match refFault true l with
      | some (c, va, m) => parkAt s gid p c va w m
      | none =>
        let hs := hitsOf l
        if !segsFree s gid .update hs then notReady s gid
        else
          let els := hs.zipIdx.map fun (h, k) => (h, look {} a.elems k)
          let x' := if bits w 23 23 = 1 then x else setAcc x n {}
          let s := cacheLeaves (retire s gid x') g.cl hs
          markForm (sendPackets s gid p.pc w (pushPackets a fl x.task x.part els)) x.task a.form)

/-! ### Accumulator images (R111) -/

/-- The image of an accumulator. -/
def accImage (a : Acc) : List Byte :=
  BitVec.ofNat 8 (formCode a.form) :: BitVec.ofNat 8 ((if a.intOnly then 1 else 0) + (if a.int32Made then 2 else 0)) :: slice [] 0 62
    ++ (List.range (if a.form = .empty then 0 else 256)).flatMap fun k => elemImage a.form (look {} a.elems k)

/-- Bytes of an image whose header begins with a form code. -/
def imageSize (code : Nat) : Nat := 64 + 256 * elemSize code

/-- The accumulator that a whole image records, `none` for 0x22. -/
def accFromImage (b : List Byte) : Option Acc :=
  let code := byteAt b 0
  if 4 ≤ code || 4 ≤ byteAt b 1 || fieldAt b 2 62 ≠ 0 then none
  else
    let n := elemSize code
    let start : Option (SMap Elem) := some []
    let es := (List.range (if n = 0 then 0 else 256)).foldl (fun m k =>
      match m, imageElem code (slice b (64 + n * k) n) with
      | some m, some e => some (put {} m k e)
      | _, _ => none) start
    es.map fun elems =>
      { form := match code with
          | 1 => .ledger
          | 2 => .pair
          | 3 => .reduced
          | _ => .empty,
        intOnly := byteAt b 1 % 2 = 1, int32Made := byteAt b 1 / 2 % 2 = 1, elems }

def imageRefs (va : Nat) (bytes : List Byte) : List Ref :=
  (cutAtLines va bytes.length).map fun (a, n) => { va := a, len := n, lane := 0, val := fieldAt bytes (a - va) n }

/-- ACC.SAVE (R111). -/
def execAccSave (g : GRef) (w : W64) (s : State) : Host.Outcome State Fault Refusal :=
  let n := bits w 17 16
  let ra := bits w 31 24
  onUnit g.ok (issue s g w
    (fun x _ => wordFaults x w 0x46 [(17, 16), (23, 23), (31, 24)] [(ra, 2)] (some n) ++ [(tileBase x ra % 64 != 0, 0x26)])
    (fun x _ => fenceFree x && canWrite s (gidOf g) && blocksFree s (gidOf g) [(ra, 2)])
    fun x p =>
      let va := tileBase x ra
      let x' := if bits w 23 23 = 1 then x else setAcc x n {}
      doStores s g x' p w true (imageRefs va (accImage (accOf x n))))

/-- Is the target outside memory and cluster memory, so that a message must fetch it (R346)? -/
def isOutside (s : State) (pa : Nat) : Bool :=
  match target s.variant pa with
  | .register _ => true
  | .remote => true
  | _ => false

/-- What reading an image finds: its bytes so far, the parts to be fetched by message, or a fault with its address. -/
inductive ImageRead where
  | fault (code va : Nat)
  | got (bytes : List Byte) (hits missing : List Hit)
  deriving DecidableEq, Repr

/-- The first `n` bytes of the image at `va`: memory in one step (DESIGN CHOICE, log 20), parts elsewhere from what has arrived. -/
def readImage (s : State) (cl : Nat) (g : Group) (va n : Nat) : ImageRead :=
  (cutAtLines va n).foldl (fun acc (a, len) =>
    match acc with
    | .fault c v => .fault c v
    | .got bs hs ms =>
      match hitOf s cl g .load { va := a, len, lane := 32, reg := a - va } with
      | .error c => .fault c a
      | .ok h =>
        match h.late with
        | some c => .fault c a
        | none =>
          if isOutside s h.pa then
            (if look 0 g.image (2 ^ 20 + (a - va)) = 1 then .got (bs ++ leBytes len (look 0 g.image (a - va))) (hs ++ [h]) ms
             else .got (bs ++ List.replicate len 0) (hs ++ [h]) (ms ++ [h]))
          else
            let o := poisonPhys s h.pa len
            if o ≠ 0 then .fault o.toNat a else .got (bs ++ readPhys s h.pa len) (hs ++ [h]) ms) (.got [] [] [])

/-- Parts of the group's image that are on their way. -/
def imageBusy (s : State) (gid : Nat) : Bool := s.accs.any fun a => a.gid == gid && a.pieces.any fun p => p.lane == 32

/-- ACC.RESTORE (R111). The header is read, then the whole image; parts outside memory are fetched first, and the instruction
issues when they have arrived. -/
def execAccRestore (g : GRef) (w : W64) (s : State) : Host.Outcome State Fault Refusal :=
  let n := bits w 17 16
  let ra := bits w 31 24
  let gid := gidOf g
  onUnit g.ok (issue s g w
    (fun x _ => wordFaults x w 0x47 [(17, 16), (31, 24)] [(ra, 2)] (some n) ++ [(tileBase x ra % 64 != 0, 0x26)])
    (fun x _ => fenceFree x && canRead s gid && blocksFree s gid [(ra, 2)] && !imageBusy s gid)
    fun x p =>
      let va := tileBase x ra
      let fetch := fun (hs ms : List Hit) (go : State) =>
        if !segsFree s gid .load hs then notReady s gid else if ms.isEmpty then go else sendLoads s gid p.pc w ms
      match readImage s g.cl x va 64 with
      | .fault c a => parkAt s gid p c a w p.mask
      | .got head hs ms =>
        fetch hs ms
          (match readImage s g.cl x va (imageSize (byteAt head 0)) with
           | .fault c a => parkAt s gid p c a w p.mask
           | .got b hs ms =>
             fetch hs ms
               (match accFromImage b with
                | none => parkAt s gid p 0x22 0 w p.mask
                | some a => cacheLeaves (retire s gid { setAcc x n a with image := [] }) g.cl hs)))

/-! ### Tile loads and stores (R100) -/

/-- References of a TLD: rows of 64 bytes in 16-byte parts, or with TRANS one element each. -/
def tldRefs (fmt : BitVec 4) (trans : Bool) (t base : Nat) (stride : Int) : List Ref :=
  if trans then
    let e := elemBits fmt / 8
    (List.range (tileK fmt)).flatMap fun k => (List.range 16).map fun i =>
      let b := k * e
      { va := rowAddr base stride k + i * e, len := e, lane := 2 * i + b / 32, reg := 8 * t + b % 32 / 4,
        sub := if e < 4 then some (b % 4) else none }
  else
    (List.range 64).map fun n =>
      let i := n / 4
      let b := n % 4 * 16
      { va := rowAddr base stride i + b, len := 16, lane := 2 * i + b / 32, reg := 8 * t + b % 32 / 4 }

/-- TLD. -/
def execTld (g : GRef) (w : W64) (s : State) : Host.Outcome State Fault Refusal :=
  let fmt := BitVec.ofNat 4 (bits w 11 8)
  let trans := bits w 19 19 = 1
  let t := bits w 24 20
  let ra := bits w 39 32
  let rs := bits w 47 40
  let gid := gidOf g
  onUnit g.ok (issue s g w
    (fun x _ => wordFaults x w 0x48 [(11, 8), (19, 19), (24, 20), (39, 32), (47, 40)] [(8 * t, 8), (ra, 2), (rs, 1)] none ++
      [(tileBase x ra % 16 != 0 || tileStride x rs % 16 != 0, 0x26), (trans && (elemBits fmt == 4 || elemBits fmt == 6), 0x29)] ++
      formatFaults s [(fmt, true)])
    (fun x _ => fenceFree x && canRead s gid && blocksFree s gid [(8 * t, 8), (ra, 2), (rs, 1)])
    fun x p => doLoads s g x p w (tldRefs fmt trans t (tileBase x ra) (tileStride x rs)))

/-- References of a TST: rows of 16e bytes in 16-byte parts. -/
def tstRefs (g : Group) (fmt : BitVec 4) (rd base : Nat) (stride : Int) : List Ref :=
  (List.range 16).flatMap fun i =>
    let bytes := resultRow g fmt rd i
    (List.range (resultBytes fmt)).map fun q =>
      { va := rowAddr base stride i + 16 * q, len := 16, lane := 2 * i + 16 * q / (8 * resultBytes fmt), val := fieldAt bytes (16 * q) 16 }

/-- TST. -/
def execTst (g : GRef) (w : W64) (s : State) : Host.Outcome State Fault Refusal :=
  let fmt := BitVec.ofNat 4 (bits w 11 8)
  let rd := bits w 31 24
  let ra := bits w 39 32
  let rs := bits w 47 40
  let e := resultBytes fmt
  let gid := gidOf g
  onUnit g.ok (issue s g w
    (fun x _ => wordFaults x w 0x49 [(11, 8), (31, 24), (39, 32), (47, 40)] [(rd, Nat.max 1 (2 * e)), (ra, 2), (rs, 1)] none ++
      [((e != 0 && rd % (2 * e) != 0) || tileBase x ra % 16 != 0 || tileStride x rs % 16 != 0, 0x26)] ++
      formatFaults s [(fmt, false)] ++ [(e == 0, 0x65)])
    (fun x _ => fenceFree x && canWrite s gid && blocksFree s gid [(rd, Nat.max 1 (2 * e)), (ra, 2), (rs, 1)])
    fun x p => doStores s g x p w true (tstRefs x fmt rd (tileBase x ra) (tileStride x rs)))

end Sys2Proof.Machine
end

