-- ==== Sys2Proof/Machine/Control.lean ====
section
/-! DEFINITION. The control instructions: R143 to R151, R344, R348 of 05_thread_groups_issue and 12_memory_ordering. -/

namespace Sys2Proof.Machine
open Sys2Proof.Num

/-- A PC is 48 bits (R133): PC plus a signed count of instructions. (DESIGN CHOICE, log 36) -/
def pcPlus (pc : Nat) (n : Int) : Nat := (((pc : Int) + 8 * n) % (2 ^ 48 : Nat)).toNat

structure BraWord where
  rc : Nat
  alw : Bool
  neg : Bool
  target : Int
  join : Int
  deriving DecidableEq, Repr

/-- Fields of R143. -/
def braWord (w : W64) : BraWord :=
  { rc := bits w 15 8, alw := bits w 16 16 = 1, neg := bits w 17 17 = 1, target := signed 24 (bits w 41 18),
    join := signed 16 (bits w 57 42) }

/-- Threads of a mask that take the branch. -/
def takenMask (g : Group) (b : BraWord) (m : W32) : W32 :=
  (lanes m).foldl (fun t l => if b.alw || ((readReg g l b.rc == 0) == b.neg) then t ||| bit32 l else t) 0

/-- Must a split open an entry: a join offset, other than the innermost entry's join (R144)? -/
def opensEntry (g : Group) (b : BraWord) (p : Path) : Bool :=
  b.join != 0 && (p.entries.head?.bind fun id => joinPcOf g id) != some (pcPlus p.pc b.join)

/-- A split: the threads that fall through keep the place, the others form a new path at the end (R144). The active path has not
taken the branch, so a backward target does not end its turn. (DEDUCED, log 89) -/
def split (g : Group) (b : BraWord) (p : Path) (taken : W32) : Group :=
  let es := if opensEntry g b p then g.nextEntry :: p.entries else p.entries
  let entries := if opensEntry g b p then g.entries ++ [{ id := g.nextEntry, joinPc := pcPlus p.pc b.join }] else g.entries
  let x := setActive g { p with pc := p.pc + 8, mask := p.mask &&& ~~~taken, entries := es }
  countTurn { x with paths := x.paths ++ [{ pc := pcPlus p.pc b.target, mask := taken, entries := es }], entries,
                     nextEntry := if opensEntry g b p then g.nextEntry + 1 else g.nextEntry }

/-- BRA. -/
def execBra (g : GRef) (w : W64) (s : State) : Host.Outcome State Fault Refusal :=
  let b := braWord w
  onUnit g.ok (issue s g w
    (fun x p =>
      let t := takenMask x b p.mask
      wordFaults x w 0x01 [(15, 8), (16, 16), (17, 17), (41, 18), (57, 42)] (if b.alw then [] else [(b.rc, 1)]) none ++
        [(t != 0 && t != p.mask && opensEntry x b p && decide (16 ≤ x.entries.length), 0x74)])
    (fun _ _ => b.alw || blocksFree s (gidOf g) [(b.rc, 1)])
    fun x p =>
      let t := takenMask x b p.mask
      let x' :=
        if t = 0 then advance x
        else if t = p.mask then
          let y := countTurn (setActive x { p with pc := pcPlus p.pc b.target })
          -- a backward branch ends the turn, unless Q has just ended it
          if b.target ≤ 0 && (activePath y).map (·.mask) == some p.mask then endTurn y else y
        else split x b p t
      setGroup s (gidOf g) (some x'))

/-- JOIN (R145). -/
def execJoin (g : GRef) (w : W64) (s : State) : Host.Outcome State Fault Refusal :=
  let gid := gidOf g
  onUnit g.ok (issue s g w
    (fun x p =>
      let inner := p.entries.head?.bind fun id => joinPcOf x id
      wordFaults x w 0x02 [] [] none ++
        [(inner != some p.pc && p.entries.any fun id => joinPcOf x id == some p.pc, 0x73)])
    (fun _ _ => true)
    fun x p =>
      if (p.entries.head?.bind fun id => joinPcOf x id) = some p.pc then
        scoreboard (setGroup s gid (some (leaveTurn x fun q => { q with st := .atJoin }))) gid
      else retire s gid x)

/-- BAR.T: the path waits; its arrival counts when its release fence has completed (R149, R344). -/
def execBarT (g : GRef) (w : W64) (s : State) : Host.Outcome State Fault Refusal :=
  let gid := gidOf g
  onUnit g.ok (issue s g w (fun x _ => wordFaults x w 0x03 [(11, 8)] [] none) (fun x _ => fenceFree x)
    fun x _ =>
      completeIfIdle (startFence (setGroup s gid (some (leaveTurn x fun q => { q with st := .arriving (bits w 11 8) })))
        gid true 0 true) gid)

/-- EXIT: the path's threads exit; the exit of the group's last path performs a FENCE.SYS.REL (R348). -/
def execExit (g : GRef) (w : W64) (s : State) : Host.Outcome State Fault Refusal :=
  let gid := gidOf g
  onUnit g.ok (issue s g w (fun x _ => wordFaults x w 0x04 [] [] none) (fun x _ => fenceFree x || decide (2 ≤ x.paths.length))
    fun x p =>
      let x' := { x with paths := rotate (x.paths.erase p), exited := x.exited ||| p.mask, turn := 0, steps := x.steps + 1 }
      let s := scoreboard (setGroup s gid (some x')) gid
      if x'.paths.isEmpty then completeIfIdle (startFence s gid true 3 false) gid else s)

/-- YIELD (R146). -/
def execYield (g : GRef) (w : W64) (s : State) : Host.Outcome State Fault Refusal :=
  onUnit g.ok (issue s g w (fun x _ => wordFaults x w 0x05 [] [] none) (fun _ _ => true)
    fun x p =>
      let y := countTurn (setActive x { p with pc := p.pc + 8 })
      setGroup s (gidOf g) (some (if (activePath y).map (·.mask) == some p.mask then endTurn y else y)))

end Sys2Proof.Machine
end

