-- ==== Sys2Proof/Machine/Header.lean ====
section
/-! DEFINITION. The packets of the meshes and links as bits: channels and classes (R177, R292), the header (R184), the operations
within the classes (R268, R293, R346, R395, R425), the payload of crusher packets (R269), and the copies of a multicast (R185 to
R187, R22). -/

namespace Sys2Proof.Machine
open Sys2Proof.Num

/-! ### Channels (R177, R292) -/

/-- Network and virtual channel. Channels are numbered as in R307: bulk VC0 to VC3 are 0 to 3, control VC0 and VC1 are 4 and 5. -/
structure Channel where
  control : Bool
  vc : Nat
  deriving DecidableEq, Repr

def Channel.index (c : Channel) : Nat := if c.control then 4 + c.vc else c.vc

def bulk (n : Nat) : Channel := ⟨false, n⟩
def ctl (n : Nat) : Channel := ⟨true, n⟩

/-- Channel of a message class; classes 0xD to 0xF are reserved (R292). -/
def classChannel (c : Nat) : Option Channel :=
  match c with
  | 0x0 => some (ctl 1)
  | 0x1 => some (bulk 3)
  | 0x2 => some (ctl 0)
  | 0x3 => some (bulk 1)
  | 0x4 => some (bulk 2)
  | 0x5 => some (bulk 2)
  | 0x6 => some (ctl 1)
  | 0x7 => some (bulk 2)
  | 0x8 => some (bulk 2)
  | 0x9 => some (ctl 1)
  | 0xA => some (ctl 0)
  | 0xB => some (bulk 0)
  | 0xC => some (ctl 1)
  | _ => none

/-- Most flits of a packet on a channel (R177). -/
def mostFlits (c : Channel) : Nat := if !c.control && c.vc = 2 then 4 else 2

/-! ### The header (R184) -/

/-- Where a packet goes: one agent, or the named agent at every node of a mask on every die of a mask. -/
inductive Dest where
  | unicast (die node : BitVec 4)
  | multicast (dies : BitVec 9) (nodes : BitVec 16)
  deriving DecidableEq, Repr

structure Header where
  tag : BitVec 16
  srcDie : BitVec 4
  srcNode : BitVec 4
  /-- flits, minus one -/
  len : BitVec 2
  vc : BitVec 2
  cls : BitVec 4
  dest : Dest
  agent : BitVec 3
  op : Byte
  /-- also the status of an acknowledgement (R347) -/
  format : BitVec 4
  sector : BitVec 4
  line : BitVec 43
  deriving DecidableEq, Repr

def isMulticast : Dest → Bool
  | .multicast _ _ => true
  | .unicast _ _ => false

/-- Bits 27:0 of word 0 with MC. -/
def destBits : Dest → Nat
  | .unicast d n => d.toNat * 2 ^ 24 + n.toNat * 2 ^ 20
  | .multicast ds ns => 2 ^ 31 + ds.toNat * 2 ^ 16 + ns.toNat

/-- Word 0 and word 1. -/
def headerWord0 (h : Header) : Nat :=
  h.tag.toNat * 2 ^ 48 + h.srcDie.toNat * 2 ^ 44 + h.srcNode.toNat * 2 ^ 40 + h.len.toNat * 2 ^ 38 + h.vc.toNat * 2 ^ 36 + h.cls.toNat * 2 ^ 32
    + h.agent.toNat * 2 ^ 28 + destBits h.dest

def headerWord1 (h : Header) : Nat :=
  h.op.toNat * 2 ^ 56 + h.format.toNat * 2 ^ 52 + h.sector.toNat * 2 ^ 48 + h.line.toNat

/-- The 128 bits of the header, word 0 in bytes 0 to 7 (R308). -/
def encodeHeader (h : Header) : BitVec 128 := BitVec.ofNat 128 (headerWord0 h + 2 ^ 64 * headerWord1 h)

/-- Field of the header's 128 bits. -/
def hbits (w : BitVec 128) (lo n : Nat) : BitVec n := w.extractLsb' lo n

def decodeDest (w : BitVec 128) : Dest :=
  if w.getLsbD 31 then .multicast (hbits w 16 9) (hbits w 0 16) else .unicast (hbits w 24 4) (hbits w 20 4)

def decodeHeader (w : BitVec 128) : Header :=
  { tag := hbits w 48 16, srcDie := hbits w 44 4, srcNode := hbits w 40 4, len := hbits w 38 2, vc := hbits w 36 2, cls := hbits w 32 4,
    dest := decodeDest w, agent := hbits w 28 3, op := hbits w 120 8, format := hbits w 116 4, sector := hbits w 112 4, line := hbits w 64 43 }

/-- Every reserved bit is zero, and the class, the agent and the channel are ones that R184 and R292 give. -/
def packetFine (control : Bool) (w : BitVec 128) : Bool :=
  let h := decodeHeader w
  hbits w 107 5 == 0#5 && (w.getLsbD 31 || hbits w 0 20 == 0#20) && (!w.getLsbD 31 || hbits w 25 3 == 0#3) && decide (h.agent.toNat ≤ 5)
    && decide (h.srcDie.toNat ≤ 8) && classChannel h.cls.toNat == some ⟨control, h.vc.toNat⟩

/-- A multicast on bulk VC0 or on the control mesh: a protocol error of the sending agent (R185). -/
def multicastError (ch : Nat) (w : BitVec 128) : Bool := w.getLsbD 31 && (ch == 0 || decide (4 ≤ ch))

/-! ### Operations (R293, R346, R395, R425) -/

/-- Class and OP bits 63:59 of a message. -/
def opTable : List (String × Nat × Nat) :=
  [("RD_S", 0, 1), ("RD_E", 0, 2), ("UPG", 0, 3), ("RD_ONCE", 0, 4), ("DROP", 0, 5), ("REG", 0, 6),
   ("SNP_S", 1, 1), ("SNP_I", 1, 2), ("SNP_R", 1, 3), ("BINV", 1, 4),
   ("SACK_I", 2, 1), ("SACK_S", 2, 2), ("GRANT_E", 2, 3), ("GRANT_M", 2, 4), ("WB_ACK", 2, 5), ("REG_ACK", 2, 6),
   ("DATA_S", 3, 1), ("DATA_E", 3, 2), ("DATA_M", 3, 3), ("SDATA", 3, 4), ("DATA_ONCE", 3, 5), ("CLUSTER_FILL", 3, 5),
   ("WB", 4, 1), ("WFWD", 4, 2)]
  ++ [("RD_WIN", 6, 1), ("RD_REG", 6, 2), ("RD_REM", 6, 3), ("WR_WIN", 7, 1), ("WR_REG", 7, 2), ("WR_REM", 7, 3), ("KEY_LOAD", 7, 8),
      ("FLUSH_REM", 0xC, 1), ("INV_REM", 0xC, 2)]
  ++ [("DMA_RD", 8, 1), ("DMA_WR", 8, 2), ("COLL", 8, 3), ("ENQ_REC", 8, 4), ("DOORBELL", 9, 1), ("PRELOAD", 9, 2), ("TEAM_START", 9, 3),
      ("TEAM_DONE", 0xA, 1), ("DMA_DONE", 0xA, 2), ("COLL_DONE", 0xA, 3),
      ("PREEMPT", 9, 4), ("RESUME", 9, 5), ("DISCARD", 9, 6), ("PT_PURGE", 9, 7)]

def opOf (name : String) : Option (Nat × Nat) := (opTable.find? fun (n, _) => n == name).map (·.2)

/-- OP of a message: the operation in bits 63:59, CMP in bits 58:56 of whole-line data (R293, R228). -/
def opByte (op cmp : Nat) : Byte := BitVec.ofNat 8 (8 * op + cmp)

/-- Payload form of a crusher packet (R268). -/
def formOf (k : CruPacket) : Nat :=
  match k.recs with
  | .ledger .. :: _ => 1
  | .pair .. :: _ => 2
  | _ => 0

/-- OP of a crusher packet (R268). -/
def cruOp (k : CruPacket) : Byte := BitVec.ofNat 8 (16 * k.op + 4 * formOf k + (if k.ret then 2 else 0))

/-- An OP of class 0x5 that R268 does not reserve. -/
def cruOpFine (b : Byte) : Bool :=
  let op := b.toNat / 16
  (decide (op ≤ 9) || op == 0xC || op == 0xD) && b.toNat / 4 % 4 != 3 && b.toNat % 2 == 0

/-! ### Payloads (R269) -/

/-- The 8-byte prefix. -/
def prefixBytes (k : CruPacket) : List Byte :=
  leBytes 8 (k.rm.toNat + (if k.sat then 8 else 0) + (if k.ho then 16 else 0) + (if k.rsr.isSome then 32 else 0) + k.task % 2 ^ 16 * 2 ^ 16)

def rsrBytes (k : CruPacket) : List Byte :=
  match k.rsr with
  | some (seed, base, stream) => leBytes 8 seed.toNat ++ leBytes 8 base.toNat ++ leBytes 4 stream.toNat ++ leBytes 4 0
  | none => []

/-- One record. -/
def recordBytes : CruRecord → List Byte
  | .ledger e l limbs nan pinf ninf negz intOnly =>
    let flag := fun (b : Bool) (n : Nat) => if b then n else 0
    [BitVec.ofNat 8 e, BitVec.ofNat 8 (l + 16 * limbs.length),
     BitVec.ofNat 8 (flag nan 1 + flag pinf 2 + flag ninf 4 + flag negz 8 + flag intOnly 16)] ++ leBytes 5 0
      ++ limbs.flatMap fun w => leBytes 8 w.toNat
  | .pair e hi lo => BitVec.ofNat 8 e :: leBytes 7 0 ++ leBytes 8 hi.toNat ++ leBytes 8 lo.toNat
  | .rounded off size a b => [BitVec.ofNat 8 off, BitVec.ofNat 8 size] ++ leBytes 6 0 ++ leBytes 8 a.toNat ++ leBytes 8 b.toNat

/-- The payload of a packet: prefix, rounding block, records. -/
def packetBytes (k : CruPacket) : List Byte := prefixBytes k ++ rsrBytes k ++ k.recs.flatMap recordBytes

/-- A record of a payload form read from the front of the bytes, with the bytes it takes. -/
def readRecordAt (form : Nat) (b : List Byte) : Option (CruRecord × Nat) :=
  match form with
  | 0 => if b.length < 24 then none
         else some (.rounded (byteAt b 0) (byteAt b 1) (BitVec.ofNat 64 (fieldAt b 8 8)) (BitVec.ofNat 64 (fieldAt b 16 8)), 24)
  | 1 =>
    let n := byteAt b 1 / 16
    let f := byteAt b 2
    if b.length < 8 + 8 * n then none
    else some (.ledger (byteAt b 0) (byteAt b 1 % 16) ((List.range n).map fun i => BitVec.ofNat 64 (fieldAt b (8 + 8 * i) 8))
      (f.testBit 0) (f.testBit 1) (f.testBit 2) (f.testBit 3) (f.testBit 4), 8 + 8 * n)
  | 2 => if b.length < 24 then none
         else some (.pair (byteAt b 0) (BitVec.ofNat 64 (fieldAt b 8 8)) (BitVec.ofNat 64 (fieldAt b 16 8)), 24)
  | _ => none

/-- Records up to the end of the payload; at most `k`. -/
def readRecordsAt (form : Nat) : Nat → List Byte → Option (List CruRecord)
  | 0, b => if b.isEmpty then some [] else none
  | k + 1, b =>
    if b.isEmpty then some []
    else
      match readRecordAt form b with
      | none => none
      | some (r, n) => (readRecordsAt form k (b.drop n)).map (r :: ·)

/-- A crusher packet from its header and payload; `none` where they form none (R268, R269). -/
def packetOf (h : Header) (b : List Byte) : Option CruPacket :=
  let p := fieldAt b 0 8
  let rsr := p.testBit 5
  let body := b.drop (if rsr then 32 else 8)
  if h.cls ≠ 5 || !cruOpFine h.op || b.length < 8 || b.length > 256 then none
  else (readRecordsAt (h.op.toNat / 4 % 4) 16 body).map fun recs =>
    { line := h.line.toNat, fl := h.format, op := h.op.toNat / 16, ret := h.op.toNat.testBit 1, rm := BitVec.ofNat 3 (p % 8), sat := p.testBit 3,
      ho := p.testBit 4,
      rsr := if rsr then some (BitVec.ofNat 64 (fieldAt b 8 8), BitVec.ofNat 64 (fieldAt b 16 8), BitVec.ofNat 32 (fieldAt b 24 4)) else none,
      task := p / 2 ^ 16 % 2 ^ 16, tag := h.tag.toNat, recs }

/-! ### Headers of the messages that agents send -/

/-- Flits of a bulk packet with so many payload bytes (64 B a flit). -/
def flitsOf (bytes : Nat) : Nat := Nat.max 1 ((bytes + 63) / 64)

/-- Payload bytes of a message with the sectors named, behind a 16-byte prefix of byte enables where it has one. -/
def dataBytes (name : String) (sectors : BitVec 4) : Nat :=
  32 * ((List.range 4).filter fun j => sectors.getLsbD j).length + (if name == "WFWD" || name.startsWith "WR_" || name == "DMA_WR" || name == "COLL" then 16 else 0)

/-- Agents of R184. -/
def agentCrusher : Nat := 3
def agentEdge : Nat := 5

/-- A place on a mesh: die and node. -/
def placeOf (sid : Nat) : BitVec 4 × BitVec 4 := (BitVec.ofNat 4 (sid / 16), BitVec.ofNat 4 (sid % 16))

/-- A header with the class, channel and operation that a message's name gives. -/
def namedHeader (name : String) (tag src : Nat) (dest : Dest) (agent flits cmp line : Nat) (format sector : BitVec 4) : Option Header :=
  match opOf name with
  | none => none
  | some (c, op) =>
    (classChannel c).map fun ch =>
      { tag := BitVec.ofNat 16 tag, srcDie := (placeOf src).1, srcNode := (placeOf src).2, len := BitVec.ofNat 2 (flits - 1), vc := BitVec.ofNat 2 ch.vc,
        cls := BitVec.ofNat 4 c, dest, agent := BitVec.ofNat 3 agent, op := opByte op cmp, format, sector, line := BitVec.ofNat 43 line }

def toPlace (sid : Nat) : Dest := .unicast (placeOf sid).1 (placeOf sid).2

/-- A message without payload on the control mesh: its header fills two flits of 8 bytes. -/
def ctlHeader (name : String) (tag src dst agent line : Nat) (format sector : BitVec 4) : Option Header :=
  namedHeader name tag src (toPlace dst) agent 2 0 line format sector

/-- The place of the front end (R175). -/
def frontPlace : Nat := 128 + frontEndNode

/-- Place and agent that an uncached access to a line reaches (R346). -/
def uncDest (s : State) (line : Nat) : Nat × Nat :=
  match target s.variant (128 * line) with
  | .window c _ => (c, agentMemory)
  | .register _ => (frontPlace, agentEdge)
  | _ => ((homeSlice s.variant (128 * line)).getD frontPlace, agentSlice)

/-- Place of the agent whose transaction a tag names: the cluster of a group, or the IOD for an engine. -/
def tagPlace (s : State) (tag : Nat) : Nat :=
  match accessOf s tag with
  | some a => if 2 ^ 40 ≤ a.gid then frontPlace else gidCluster a.gid
  | none => ((s.clusters.find? fun (_, x) => x.reads.any fun (_, t) => t == tag).map (·.1)).getD frontPlace

/-- The edge agent of the port that serves the window of a line (R346). -/
def portPlace (s : State) (line : Nat) : Nat := 128 + ethNode (((windowAt s (128 * line)).map (·.port)).getD 0)

/-- Header of a message that travels on the meshes, `none` for one that does not, or whose operation the spec does not code: reads and
writes of a slice's own memory, crusher acknowledgements (R268). (DESIGN CHOICE for the fields the spec leaves open, DESIGN CHOICE, log 100) -/
def headerOf (s : State) (o : Out) : Option Header :=
  let home := fun (line : Nat) => (homeSlice s.variant (128 * line)).getD 0
  let proxy := fun (d line : Nat) => 16 * d + home line % 16
  match o with
  | .coh name d line =>
    if name == "REG_ACK" then ctlHeader name 0 line d agentSlice 0 0 0
    else if name == "GRANT_E" || name == "GRANT_M" then ctlHeader name 0 (home line) (proxy d line) agentSlice line 0 0
    else ctlHeader name 0 (proxy d line) (home line) agentSlice line 0 0
  | .cohData name d line _ sectors _ code =>
    let flits := if code = 0 then flitsOf (dataBytes name sectors) else cmpFlits code
    if name == "ENQ_REC" then namedHeader name line (tagPlace s line) (toPlace frontPlace) agentEdge 1 0 0 0 0
    else if name == "DATA_ONCE" then namedHeader name d (home line) (toPlace (tagPlace s d)) agentCores flits code line 0 sectors
    else if name == "WB" || name == "SDATA" then namedHeader name 0 (proxy d line) (toPlace (home line)) agentSlice flits code line 0 sectors
    else namedHeader name 0 (home line) (toPlace (proxy d line)) agentSlice flits code line 0 sectors
  | .snoop name mask line =>
    namedHeader name 0 (home line) (.multicast (mask.setWidth 9) (bit16 (home line % 16))) agentSlice 1 0 line 0 0
  | .fill name agent dies nodes line _ sectors _ code =>
    let src := if agent = agentSlice then home line
      else 16 * (((List.range 9).find? fun d => dies.getLsbD d).getD 0) + home line % 16
    namedHeader name 0 src (.multicast dies nodes) agent (if code = 0 then flitsOf (dataBytes name sectors) else cmpFlits code) code line 0 sectors
  | .unc name tag line =>
    let need := ((accessOf s tag).map fun a => if a.be = 0 then pieceSectors a.pieces else sectorsTouched a.be).getD 0
    let (dst, agent) :=
      if name == "INV_REM" then (line, agentSlice) else if name == "FLUSH_REM" then (portPlace s line, agentEdge) else uncDest s line
    let flits := if name == "WFWD" || name.startsWith "WR_" then flitsOf (dataBytes name need) else 2
    namedHeader name tag (tagPlace s tag) (toPlace dst) agent flits 0 (if name == "INV_REM" then 0 else line) 0 need
  | .ack to' st =>
    match to' with
    | .spoil sid line => ctlHeader "WB_ACK" 0 (home line) sid agentSlice line (BitVec.ofNat 4 st) 0
    | .access tag =>
      let line := ((accessOf s tag).map (·.line)).getD 0
      ctlHeader "WB_ACK" tag (uncDest s line).1 (tagPlace s tag) agentCores line (BitVec.ofNat 4 st) 0
    | .key d => ctlHeader "WB_ACK" 0 (16 * d) frontPlace agentEdge 0 (BitVec.ofNat 4 st) 0
  | .cru sid k | .merged sid k =>
    some { tag := BitVec.ofNat 16 k.tag, srcDie := (placeOf (tagPlace s k.tag)).1, srcNode := (placeOf (tagPlace s k.tag)).2,
           len := BitVec.ofNat 2 (flitsOf (packetBytes k).length - 1), vc := 2, cls := 5, dest := toPlace sid, agent := BitVec.ofNat 3 agentCrusher,
           op := cruOp k, format := k.fl, sector := 0, line := BitVec.ofNat 43 k.line }
  | .multi name agent dies nodes task =>
    -- CLOSE-TASK: operation 0xD; the prefix carries the task tag (R268, R279)
    if name == "CLOSE_TASK" then
      some { tag := 0, srcDie := 8, srcNode := BitVec.ofNat 4 frontEndNode, len := 0, vc := 2, cls := 5, dest := .multicast dies nodes,
             agent := BitVec.ofNat 3 agent, op := 0xD0, format := 0, sector := 0, line := 0 }
    else namedHeader name 0 frontPlace (.multicast dies nodes) agent 2 0 task 0 0
  | .dma name task line be _ =>
    namedHeader name task frontPlace (toPlace (uncDest s line).1) (uncDest s line).2
      (if name == "DMA_RD" then 1 else flitsOf (dataBytes name (sectorsTouched be))) 0 line 0 (sectorsTouched be)
  | .front name tag dst =>
    if name == "REG" then ctlHeader name 0 tag dst agentSlice 0 0 0
    else if name == "KEY_LOAD" then namedHeader name 0 frontPlace (toPlace (16 * tag)) agentEdge 2 0 0 0 0
    else if name == "PREEMPT" || name == "TEAM_START" then ctlHeader name 0 frontPlace dst agentCores tag 0 0
    else none
  | _ => none

/-! ### Copies of a multicast (R185 to R187, R22) -/

/-- Places that a multicast delivers to, once each: a die that is absent or out of service drops out (R185). -/
def deliveries (s : State) (dies : BitVec 9) (nodes : BitVec 16) : List (Nat × Nat) :=
  ((List.range 9).filter fun d => dies.getLsbD d && (d == 8 || (decide (d < dieCount s.variant) && dieServes s d))).flatMap fun d =>
    ((List.range 16).filter fun n => nodes.getLsbD n).map fun n => (d, n)

/-- Hops of a route as pairs of neighbouring nodes. -/
def hopsOf (l : List Nat) : List (Nat × Nat) := l.zip (l.drop 1)

/-- Dimension-order replication: every hop that lies on the route to at least one destination carries one copy (R186). -/
def meshCopies (src : Nat) (dests : List Nat) : List (Nat × Nat) := (dests.flatMap fun n => hopsOf (route src n)).eraseDups

/-- What one packet does on its way: a copy over a hop of a die's mesh, a copy from a die into the switch or the IOD, a copy from there
into a die. -/
inductive Copy where
  | hop (die a b : Nat)
  | leave (die node : Nat)
  | enter (die node : Nat)
  deriving DecidableEq, Repr

/-- Lowest node of a mask. -/
def lowestNode (nodes : BitVec 16) : Nat := ((List.range 16).find? fun n => nodes.getLsbD n).getD 0

def maskNodes (nodes : BitVec 16) : List Nat := (List.range 16).filter fun n => nodes.getLsbD n

/-- The copies into the compute dies other than the source's: through the IOD edge port of the lowest node of the mask, replicated
onwards from there (R186). -/
def copiesInto (nodes : BitVec 16) (d : Nat) : List Copy :=
  let e := iodEdge (lowestNode nodes)
  .enter d e :: ((meshCopies e (maskNodes nodes)).map fun (a, b) => .hop d a b)

/-- All copies of a multicast from a node of a compute die (R186, R22): one copy leaves through the source node's IOD edge port,
whatever the dies, neighbours on the ring included. -/
def copiesFromDie (src node : Nat) (dies : List Nat) (nodes : BitVec 16) : List Copy :=
  let others := dies.filter (· ≠ src)
  let e := iodEdge node
  let own := (if dies.contains src then maskNodes nodes else []) ++ (if others.isEmpty then [] else [e])
  let iod := if others.contains 8 then
      (meshCopies (iodAttach src (lowestNode nodes)) (maskNodes nodes)).map fun (a, b) => Copy.hop 8 a b
    else []
  ((meshCopies node own).map fun (a, b) => Copy.hop src a b) ++ (if others.isEmpty then [] else [.leave src e]) ++ iod
    ++ (others.filter (· ≠ 8)).flatMap (copiesInto nodes)

/-- All copies of a multicast from an IOD agent (R187): within the IOD mesh to its nodes and to each die's attachment in the source's
half. -/
def copiesFromIod (node : Nat) (dies : List Nat) (nodes : BitVec 16) : List Copy :=
  let out := dies.filter (· ≠ 8)
  let own := (if dies.contains 8 then maskNodes nodes else []) ++ out.map fun d => iodAttach d node
  ((meshCopies node own).map fun (a, b) => Copy.hop 8 a b) ++ (out.map fun d => .leave 8 (iodAttach d node)) ++ out.flatMap (copiesInto nodes)

/-- The copies of a multicast over the dies that serve. -/
def copiesOf (s : State) (h : Header) : List Copy :=
  match h.dest with
  | .unicast _ _ => []
  | .multicast ds ns =>
    let dies := ((deliveries s ds ns).map (·.1)).eraseDups
    if h.srcDie = 8 then copiesFromIod h.srcNode.toNat dies ns else copiesFromDie h.srcDie.toNat h.srcNode.toNat dies ns

end Sys2Proof.Machine
end

