-- ==== Sys2Proof/Machine/Link.lean ====
section
/-! DEFINITION. Jenol Link: capability words, negotiation, frames as a receiver takes them, retry, width changes, recalibration
and the loss of a link: R303 to R330. -/

namespace Sys2Proof.Machine
open Sys2Proof.Num

/-! ### Frame fields (R307) -/

def fBits (f : Frame) (hi lo : Nat) : Nat := field f.header.toNat hi lo
def fType (f : Frame) : Nat := fBits f 67 64
def fSeq (f : Frame) : Nat := fBits f 79 68
def fAck (f : Frame) : Nat := fBits f 91 80
def fNak (f : Frame) : Bool := fBits f 92 92 == 1
/-- Cumulative credit counter of channel `c` (R307, R312). -/
def fCredit (f : Frame) (c : Nat) : BitVec 16 := BitVec.ofNat 16 (fBits f (127 + 16 * c) (112 + 16 * c))
/-- Cell descriptor `n` (R308). -/
def fSlot (f : Frame) (n : Nat) : Nat := fBits f (4 * n + 3) (4 * n)

/-- CRC-64 of R309, one bit at a time from bit 0 of byte 0 upward; the register is shifted towards bit 0, so that the result is
stored little-endian as it stands (DEDUCED, log 32). -/
def crcBits : Nat → Nat → Nat → Nat
  | 0, _, c => c
  | n + 1, v, c =>
    if Nat.xor (c % 2) (v % 2) = 1 then crcBits n (v / 2) (Nat.xor (c / 2) 0xC96C5795D7870F42) else crcBits n (v / 2) (c / 2)

/-- Bytes 0 to 287 of a frame as one number. -/
def frameBits (f : Frame) : Nat := f.header.toNat + f.cells.foldr (fun c n => c.toNat + 2 ^ 128 * n) 0 * 2 ^ 256

def frameCrc (f : Frame) : Nat := 2 ^ 64 - 1 - crcBits 2304 (frameBits f) (2 ^ 64 - 1)

def crcOk (f : Frame) : Bool := f.cells.length == 16 && frameCrc f == f.crc.toNat

/-! ### Frames on the lanes (R306, R309) -/

/-- Byte `b` of a frame as sent: header, cells, CRC. -/
def frameByte (f : Frame) (b : Nat) : Byte := BitVec.ofNat 8 ((frameBits f + f.crc.toNat * 2 ^ 2304) / 2 ^ (8 * b))

/-- The 37 bytes of a frame that lane `n` of its octet carries: byte b goes to lane b mod 8. -/
def laneBytes (f : Frame) (n : Nat) : List Byte := (List.range 37).map fun k => frameByte f (8 * k + n)

/-- One bit of the sequence 1 + x^39 + x^58; bit k of the register is the bit k + 1 places back. -/
def scramblerNext (r : BitVec 58) : BitVec 58 := (r <<< 1) ||| (if r.getLsbD 38 != r.getLsbD 57 then 1 else 0)

/-- `n` bits of a lane scrambled additively from register `r`, and the register after them. -/
def scrambleBits : Nat → Nat → BitVec 58 → Nat × BitVec 58
  | 0, _, r => (0, r)
  | n + 1, v, r =>
    let r := scramblerNext r
    let (rest, last) := scrambleBits n (v / 2) r
    (Nat.xor (v % 2) (r.toNat % 2) + 2 * rest, last)

/-- What lane `n` sends of a frame, and its scrambler afterwards: an ALIGN frame goes as it is and seeds the scrambler from the lane's
number (DESIGN CHOICE, log 110). -/
def laneSends (f : Frame) (n : Nat) (r : BitVec 58) : Nat × BitVec 58 :=
  let v := leNat (laneBytes f n)
  if fType f = 4 then (v, Config.laneSeed n) else scrambleBits 296 v r

/-- The cells of an ALIGN frame hold the byte 0x4A throughout. -/
def alignCells (f : Frame) : Bool := (List.range 256).all fun k => frameByte f (32 + k) == 0x4A

/-! ### Directions -/

/-- Direction 0 is from end A to end B. -/
def linkDir (l : Link) (d : Nat) : LinkDir := if d = 0 then l.fwd else l.bwd
def setDir (l : Link) (d : Nat) (v : LinkDir) : Link := if d = 0 then { l with fwd := v } else { l with bwd := v }
def modDir (s : State) (i d : Nat) (f : LinkDir → LinkDir) : State := modLink s i fun l => setDir l d (f (linkDir l d))

/-- Octets in service (R329 OCT_INS). -/
def inUse (l : Link) (o : Nat) : Bool := l.octIns.getLsbD o

/-! ### Width, loss (R324 to R328) -/

/-- Bytes 24 to 31 of an event of type 7 (R393). -/
def linkSpec (i : Nat) (l : Link) : List Byte :=
  [BitVec.ofNat 8 i, 0] ++ leBytes 2 l.octIns.toNat ++ leBytes 2 l.octRet.toNat
    ++ [BitVec.ofNat 8 (8 * popc12 l.octIns), BitVec.ofNat 8 l.cause]

/-- Dies at the two ends. -/
def endDies (variant i : Nat) : BitVec 9 :=
  match linkEnds variant i with
  | some (a, b) => bit9 a ||| bit9 b
  | none => 0

/-- The loss of a link is the loss of the coherent agents at its ends (R301, R328). -/
def loseLink (s : State) (i : Nat) : State :=
  if !linkServes (link s i) then s
  else raiseFatal (modLink s i fun l => { l with st := 5 }) 4 (endDies s.variant i)

/-- Retire one octet (R324 to R326). A command does not go below the least width; any other cause loses the link. (DEDUCED, log 46) -/
def retireOctet (s : State) (i k : Nat) (command : Bool) : State :=
  let l := link s i
  if !linkServes l || !inUse l k then s
  else if popc12 l.octIns ≤ linkMinOctets i then (if command then s else loseLink s i)
  else
    let m : BitVec 12 := BitVec.ofNat 12 (2 ^ k)
    let l := { l with octIns := l.octIns &&& ~~~m, octRet := l.octRet ||| m, degrades := bump 0xFFFF l.degrades, st := 3,
                      recalPass := l.recalPass.filter (· ≠ k), postponed := !(l.recalPass.filter (· ≠ k)).isEmpty }
    let s := emit (setLink s i l) (.linkWidth i l.octIns)
    let s := postEvent s 0 (event 7 0 noSlot 0 (linkSpec i l))
    { s with admission := { s.admission with passDue := true } }

/-! ### Capability words (R314 to R321) -/

def wordBits (l : List W64) (i hi lo : Nat) : Nat := field (l.getD i 0).toNat hi lo

/-- Least initial credits in cells, by channel (R313). -/
def leastCredits (ring : Bool) : List Nat := if ring then [512, 2048, 2048, 1024, 512, 512] else [1024, 8192, 8192, 2048, 1024, 1024]

/-- CW3 advertises at least the credits of R313 (R318). -/
def creditsOk (ring : Bool) (w : List W64) : Bool :=
  (List.range 6).all fun c => decide ((leastCredits ring).getD c 0 ≤ 16 * wordBits w 3 (10 * c + 9) (10 * c))

/-- Every mandatory bit of R315 and R316 is set, and every reserved bit of the four words is zero. -/
def wordsOk (iod : Bool) (w : List W64) : Bool :=
  w.length == 4
    && wordBits w 0 23 20 == (if iod then 1 else 0) && wordBits w 0 19 16 == 1 && wordBits w 0 12 12 == 1
    && wordBits w 0 11 8 == 1 && wordBits w 0 7 6 == 0 && wordBits w 0 5 0 == 63
    && wordBits w 1 63 29 == 0 && wordBits w 1 28 24 == 31 && decide (10 ≤ wordBits w 1 23 16) && wordBits w 1 15 15 == 0
    && (if iod then wordBits w 1 14 0 == 0x7FFF else [0, 1, 2, 3, 10, 12, 14].all fun f => wordBits w 1 f f == 1)
    && wordBits w 2 63 52 == 0 && wordBits w 2 43 28 == 0 && wordBits w 2 7 2 == 0 && wordBits w 3 63 60 == 0

/-- The PORT that an end presents contradicts the die's number (R317, R321). (DEDUCED, log 48) -/
def portWrong (w : List W64) (d : Nat) : Bool := wordBits w 2 51 48 != d && wordBits w 2 51 48 != 0xF

/-- Rate code of R329 for the AND of both RATE fields (R319). -/
def rateOf (a b : List W64) : Nat :=
  let r := wordBits a 2 1 0 &&& wordBits b 2 1 0
  if r.testBit 1 then 2 else if r.testBit 0 then 1 else 0

def octetMask (i : Nat) : BitVec 12 := BitVec.ofNat 12 (2 ^ linkOctets i - 1)

/-- Initial credits of CW3, in cells (R318). -/
def credits (w : List W64) : SMap (BitVec 16) :=
  (List.range 6).foldl (fun m c => put 0 m c (BitVec.ofNat 16 (16 * wordBits w 3 (10 * c + 9) (10 * c)))) []

/-- A direction as traffic starts: sequence number 0, the receiver's credits (R312, R323). -/
def freshDir (receiver : List W64) (seeded : Bool) : LinkDir :=
  { credit := credits receiver, freed := credits receiver, scramblerSeeded := seeded }

/-- A die is held out by what its words say (R321): cause 3 capability, 4 link training, 10 numbering. -/
def holdByLink (s : State) (d cause : Nat) : State :=
  if d = 8 || (die s d).state = .heldOut then s else setDieHeld s d true cause

/-- A link does not form: held out, with its cause. -/
def linkHeld (s : State) (i cause : Nat) : State :=
  modLink s i fun l => { l with st := 4, cause, octIns := 0, rate := 0 }

/-- At a warm restart: the die presents other capabilities than at cold start, CW2 with the state of its octets apart, or lacks a
format of the effective set in force (R536). -/
def wordsChanged (s : State) (d : Nat) (w : List W64) : Bool :=
  let old := look [] s.dieWords d
  s.restart.active && !old.isEmpty && ([0, 1, 3].any fun i => old.getD i 0 != w.getD i 0)

/-- Both ends have presented their words: the link settles its rate, octets and credits, or is held out (R319, R321). -/
def negotiate (s : State) (i : Nat) : State :=
  let l := link s i
  match linkEnds s.variant i with
  | none => s
  | some (a, b) =>
    let ring := decide (8 ≤ i)
    let octs := BitVec.ofNat 12 (wordBits l.cwA 2 27 16) &&& BitVec.ofNat 12 (wordBits l.cwB 2 27 16) &&& octetMask i &&& ~~~l.octRet
    -- fewer credits than R313 asks for make the words invalid (DEDUCED, log 101)
    if !wordsOk false l.cwA || !creditsOk ring l.cwA || (!ring && wordsChanged s a l.cwA) then holdByLink (linkHeld s i 1) a 3
    else if !wordsOk (!ring) l.cwB || !creditsOk ring l.cwB then holdByLink (linkHeld s i 2) b 3
    else if ring && portWrong l.cwA a then holdByLink (linkHeld s i 5) a 10
    else if ring && portWrong l.cwB b then holdByLink (linkHeld s i 5) b 10
    else if rateOf l.cwA l.cwB = 0 then (if ring then linkHeld s i 4 else holdByLink (linkHeld s i 4) a 4)
    else if popc12 octs < linkMinOctets i then (if ring then linkHeld s i 3 else holdByLink (linkHeld s i 3) a 4)
    else
      -- an octet that failed the lane test counts as retired (the example of R329)
      setLink s i { l with octIns := octs, octRet := octetMask i &&& ~~~octs, rate := rateOf l.cwA l.cwB, st := if octs = octetMask i then 2 else 3, cause := 0,
                           fwd := freshDir l.cwB l.fwd.scramblerSeeded, bwd := freshDir l.cwA l.bwd.scramblerSeeded }

/-- CW0 to CW3 from the cells that hold capability words (R308, R314). -/
def frameWords (f : Frame) : List W64 :=
  (((List.range 16).filter fun n => fSlot f n == 0xB).flatMap fun n =>
    let c := f.cells.getD n 0
    [c.setWidth 64, (c >>> 64).setWidth 64]).take 4

/-- Words presented by the sending end; the link is negotiated once both ends' words are known. -/
def presentWords (s : State) (i dir : Nat) (w : List W64) : State :=
  let s := modLink s i fun l => if dir = 0 then { l with cwA := w } else { l with cwB := w }
  let l := link s i
  if l.cwA.isEmpty || l.cwB.isEmpty then s else negotiate s i

/-! ### Receipt (R309 to R312) -/

/-- Request a replay of direction `dir` from the expected frame, unless a request is outstanding already (R310). -/
def requestReplay (s : State) (i dir : Nat) : State :=
  let d := linkDir (link s i) dir
  match d.nak with
  | some _ => s
  | none => emit (modDir s i dir fun d => { d with nak := some (d.recvSeq, 1) }) (.linkNak i dir d.recvSeq.toNat)

/-- A frame fails its CRC: it is counted, a DATA frame that it may have been is asked for again, and the octet is retired at the
sixteenth failure within 100 us (R310, R324). (DEDUCED, log 45) -/
def crcFailure (s : State) (i dir o : Nat) : State :=
  let now := (die s 8).time.toNat
  let recent := ((link s i).octCrc.filter fun (_, t) => decide (now < t + 10000)) ++ [(o, now)]
  let s := modLink s i fun l => { l with crcErr := bump 0xFFFF l.crcErr, octCrc := recent }
  if !linkServes (link s i) then s
  else
    let s := requestReplay s i dir
    if 16 ≤ (recent.filter fun (k, _) => k == o).length then
      retireOctet (modLink s i fun l => { l with octCrc := l.octCrc.filter fun (k, _) => k ≠ o }) i o false
    else s

/-- The other direction's sender takes ACK, NAK and CREDIT (R310, R312). -/
def takeAck (s : State) (i dir : Nat) (f : Frame) : State :=
  let s := if fNak f then modLink s i fun l => { l with replays := bump 0xFFFF l.replays } else s
  modDir s i (1 - dir) fun d =>
    let next := if fNak f then fAck f else fAck f + 1
    let open' := (d.sendSeq.toNat + 4096 - next % 4096) % 4096
    { d with unacked := if open' ≤ d.unacked then open' else d.unacked,
             credit := (List.range 6).foldl (fun m c => put 0 m c (fCredit f c)) d.credit }

/-- Channel of a cell descriptor: bulk VC0 to VC3 are 0 to 3, control VC0 and VC1 are 4 and 5. -/
def slotChannel (v : Nat) : Nat := if v ≤ 4 then v - 1 else v - 5

/-- Cells that a control message occupies, from its header (R308). -/
def controlCells (h : Header) : Nat := (8 * (h.len.toNat + 1) + 15) / 16

/-- One cell of a frame that is delivered. The outcome of a protocol error is its cause under R527: 4, the loss of the link, for a
reserved descriptor or a payload cell without a packet (R308, R328); 6 for a multicast on bulk VC0 or on the control mesh (R185).
(DEDUCED, log 47) -/
def takeCell (d : LinkDir) (v : Nat) (c : BitVec 128) : Except Nat LinkDir :=
  if v = 0 then .ok d
  else if 0xA < v then .error 4
  else
    let ch := slotChannel v
    let d := { d with freed := put 0 d.freed ch (look 0 d.freed ch + 1) }
    let n := look 0 d.openCells ch
    let h := decodeHeader c
    if v ≤ 4 then
      if multicastError ch c then .error 6 else .ok { d with openCells := put 0 d.openCells ch (4 * (h.len.toNat + 1)) }
    else if v ≤ 8 then
      if n = 0 then .error 4 else .ok { d with openCells := put 0 d.openCells ch (n - 1) }
    -- the first cell of a control message holds its header
    else if n = 0 then
      if multicastError ch c then .error 6 else .ok { d with openCells := put 0 d.openCells ch (controlCells h - 1) }
    else .ok { d with openCells := put 0 d.openCells ch (n - 1) }

def takeCells (f : Frame) : List Nat → LinkDir → Except Nat LinkDir
  | [], d => .ok d
  | n :: ns, d =>
    match takeCell d (fSlot f n) (f.cells.getD n 0) with
    | .error c => .error c
    | .ok d => takeCells f ns d

/-- Cells of channel `ch` for which a frame's descriptors ask credit: each cell as it goes, and all of a bulk packet's with its header
(R308, R312). -/
def cellsAsked (f : Frame) (ch : Nat) : Nat :=
  ((List.range 16).foldl (fun (need, n) k =>
    let v := fSlot f k
    if v = 0 || 0xA < v || slotChannel v ≠ ch then (need, n)
    else if v ≤ 4 then (Nat.max need (n + 1 + 4 * ((decodeHeader (f.cells.getD k 0)).len.toNat + 1)), n + 1)
    else (Nat.max need (n + 1), n + 1)) ((0, 0) : Nat × Nat)).1

/-- The sender has the credit for the frame in sequence: no channel goes beyond the counter that it saw last (R312). -/
def creditAllows (l : Link) (dir : Nat) (f : Frame) : Bool :=
  let d := linkDir l dir
  let first := credits (if dir = 0 then l.cwB else l.cwA)
  (List.range 6).all fun c => decide (cellsAsked f c ≤ (look 0 d.credit c + look 0 first c - look 0 d.freed c).toNat)

/-- A sender sends a new DATA frame: fewer than 1,024 are unacknowledged, and the credits allow it (R310, R312). -/
def senderMay (l : Link) (dir : Nat) (f : Frame) : Bool :=
  let d := linkDir l dir
  let seq : BitVec 12 := BitVec.ofNat 12 (fSeq f)
  let new := (seq + 1 - d.sendSeq).toNat
  (new = 0 || decide (2048 ≤ new) || decide (d.unacked + new ≤ 1024)) && (seq != d.recvSeq || creditAllows l dir f)

/-- A DATA frame with a good CRC, that its sender may send: delivered in order, dropped as a duplicate, or a replay requested (R310). -/
def takeData (s : State) (i dir : Nat) (f : Frame) : State :=
  if !senderMay (link s i) dir f then s else
  let d := linkDir (link s i) dir
  let seq : BitVec 12 := BitVec.ofNat 12 (fSeq f)
  let ahead := (seq - d.recvSeq).toNat
  -- what the sender has sent so far
  let new := (seq + 1 - d.sendSeq).toNat
  let d := if ahead < 2048 && new < 2048 then { d with sendSeq := seq + 1, unacked := d.unacked + new } else d
  let s := modDir s i dir fun _ => d
  if ahead = 0 then
    match takeCells f (List.range 16) { d with recvSeq := d.recvSeq + 1, nak := none } with
    | .error c => if c = 4 then loseLink s i else raiseFatal s c 0
    | .ok d => modDir s i dir fun _ => d
  else if ahead < 2048 then requestReplay s i dir
  else s

/-- Octet of the link, of an existing link. -/
def octetExists (s : State) (i o : Nat) : Bool := (linkEnds s.variant i).isSome && decide (o < linkOctets i)

/-- A frame of type `ty` reaches its receiver on an octet; `k` is what the type does on an active link. -/
def takeFrame (s : State) (i dir o ty : Nat) (f : Frame) (k : State → State) : State :=
  let l := link s i
  if !octetExists s i o || !(linkServes l || l.st == 1) || (linkServes l && !inUse l o) then s
  else if !crcOk f then crcFailure s i dir o
  else if !linkServes l then
    -- training: words in CAP frames, lane seeds in ALIGN frames (R314, R323, R309)
    if ty = 2 && fType f = 2 then presentWords s i dir (frameWords f)
    else if ty = 4 && fType f = 4 then modDir s i dir fun d => { d with scramblerSeeded := true }
    else s
  -- a reserved type loses the link (R328)
  else if 6 ≤ fType f then loseLink s i
  else if fType f ≠ ty then s
  else k (takeAck s i dir f)

def onLink (i dir o : Nat) (s : State) : Host.Outcome State Fault Refusal := onUnit (linkOk i && dirOk dir && octetOk o) s

/-! ### The rows -/

/-- DATA_FRAME (R310). -/
def execDataFrame (i dir o : Nat) (f : Frame) (s : State) : Host.Outcome State Fault Refusal :=
  onLink i dir o (takeFrame s i dir o 0 f fun s => takeData s i dir f)

/-- IDLE_FRAME (R307). -/
def execIdleFrame (i dir o : Nat) (f : Frame) (s : State) : Host.Outcome State Fault Refusal :=
  onLink i dir o (takeFrame s i dir o 1 f fun s => s)

/-- CAP_FRAME: words while the link trains; on an active link it is the loss of the link (R314, R328). -/
def execCapFrame (i dir o : Nat) (f : Frame) (s : State) : Host.Outcome State Fault Refusal :=
  onLink i dir o (takeFrame s i dir o 2 f fun s => loseLink s i)

/-- Octets that a WIDTH frame's CW2 no longer lists are out of service at both ends (R324). -/
def takeWidth (s : State) (i : Nat) (f : Frame) : State :=
  let w := frameWords f
  if w.length < 3 then s
  else
    let good := BitVec.ofNat 12 (wordBits w 2 27 16)
    let gone := (List.range (linkOctets i)).filter fun k => inUse (link s i) k && !good.getLsbD k
    let s := gone.foldl (fun s k => retireOctet s i k false) s
    modLink s i fun l => { l with postponed := false }

/-- WIDTH_FRAME (R324, R325). -/
def execWidthFrame (i dir o : Nat) (f : Frame) (s : State) : Host.Outcome State Fault Refusal :=
  onLink i dir o (takeFrame s i dir o 3 f fun s => takeWidth s i f)

/-- ALIGN_FRAME: the lanes' scramblers are seeded again (R309). -/
def execAlignFrame (i dir o : Nat) (f : Frame) (s : State) : Host.Outcome State Fault Refusal :=
  onLink i dir o (takeFrame s i dir o 4 f fun s => modDir s i dir fun d => { d with scramblerSeeded := true })

/-- RECAL_FRAME: it carries ACK and CREDIT (R307). -/
def execRecalFrame (i dir o : Nat) (f : Frame) (s : State) : Host.Outcome State Fault Refusal :=
  onLink i dir o (takeFrame s i dir o 5 f fun s => s)

/-- NAK_REPEAT: the request goes out again; the eighth for one frame loses the link (R310, R311). -/
def execNakRepeat (i dir : Nat) (s : State) : Host.Outcome State Fault Refusal :=
  onUnit (linkOk i && dirOk dir)
    (if !linkServes (link s i) then s
     else
       match (linkDir (link s i) dir).nak with
       | none => s
       | some (seq, n) =>
         let s := emit (modDir s i dir fun d => { d with nak := some (seq, n + 1) }) (.linkNak i dir seq.toNat)
         if 8 ≤ n + 1 then loseLink s i else s)

/-- FRAME_TIMEOUT: no frame has passed its CRC for 500 ns (R328). -/
def execFrameTimeout (i : Nat) (s : State) : Host.Outcome State Fault Refusal := onUnit (linkOk i) (loseLink s i)

/-- LOSS_OF_SIGNAL (R324). -/
def execLossOfSignal (i o : Nat) (s : State) : Host.Outcome State Fault Refusal :=
  onUnit (linkOk i && octetOk o) (retireOctet s i o false)

/-- OCTET_RECALIBRATION: one octet's pass ends; a failed check retires it. A retirement goes first (R325, R327). -/
def execOctetRecalibration (i o : Nat) (ok : Bool) (s : State) : Host.Outcome State Fault Refusal :=
  onUnit (linkOk i && octetOk o)
    (let l := link s i
     if !linkServes l || !inUse l o || l.postponed || s.restart.active then s
     else
       let s := setLink s i { l with recals := bump 0xFFFF l.recals, recalPass := l.recalPass.filter (· ≠ o) }
       if ok then s else retireOctet s i o false)

/-- Retire the octets of a mask in turn (R324, R326). -/
def retireMask (s : State) (i : Nat) (m : BitVec 12) : State :=
  ((List.range 12).filter fun k => m.getLsbD k).foldl (fun s k => retireOctet s i k true) s

/-- Recalibrate every octet in service in turn (R327). -/
def startRecal (s : State) (i : Nat) : State :=
  if !linkServes (link s i) then s
  else modLink s i fun l => { l with recalPass := (List.range 12).filter (inUse l) }

/-- LNK_CMD_RETIRE (R324, R329). -/
def execLnkCmdRetire (i : Nat) (m : BitVec 12) (s : State) : Host.Outcome State Fault Refusal := onUnit (linkOk i) (retireMask s i m)

/-- LNK_CMD_RECAL (R327, R329). -/
def execLnkCmdRecal (i : Nat) (s : State) : Host.Outcome State Fault Refusal := onUnit (linkOk i) (startRecal s i)

/-! ### Registers (R329) -/

/-- A register of a link's block. -/
def linkReg (s : State) (i off : Nat) : W64 :=
  let l := link s i
  if (linkEnds s.variant i).isNone then 0
  else
    match off with
    | 0x00 => BitVec.ofNat 64 (l.octIns.toNat * 2 ^ 40 + l.octRet.toNat * 2 ^ 28 + 8 * popc12 l.octIns * 2 ^ 16
        + l.rate * 2 ^ 12 + l.st * 2 ^ 8 + l.cause)
    | 0x08 => BitVec.ofNat 64 (l.degrades * 2 ^ 48 + l.recals * 2 ^ 32 + l.replays * 2 ^ 16 + l.crcErr)
    | 0x20 => l.cwA.getD 0 0
    | 0x28 => l.cwA.getD 1 0
    | 0x30 => l.cwA.getD 2 0
    | 0x38 => l.cwA.getD 3 0
    | 0x40 => l.cwB.getD 0 0
    | 0x48 => l.cwB.getD 1 0
    | 0x50 => l.cwB.getD 2 0
    | 0x58 => l.cwB.getD 3 0
    | _ => 0

end Sys2Proof.Machine
end

