-- ==== Sys2Proof/Machine/Registers.lean ====
section
/-! DEFINITION. The register region: what every register reads as and what a write does: R34 to R36, R193, R283, R329, R362, R394,
R476, R513, R514, R523 to R530. -/

namespace Sys2Proof.Machine

/-! ### Device page (R523 to R530) -/

def present (s : State) (d : Nat) : Bool := d == 8 || decide (d < dieCount s.variant)

def stateCode : DieState → Nat
  | .absent => 0
  | .testing => 1
  | .inService => 2
  | .heldOut => 3

def devStatus (s : State) : Nat :=
  fld s.dev.cold 52 + flag s.dev.recov 7 + flag s.dev.stock 6 + flag (decide (s.dev.st ≠ 0) && s.image.paced) 5
    + flag s.dev.ledger 4 + s.dev.st

/-- The effective set has been formed (R320, R526). -/
def capFormed (s : State) : Bool := s.dev.fmt != 0

def devCap0 (s : State) : Nat := if capFormed s then fld 1 36 + fld 1 32 + fld 31 24 + fld 10 16 + s.dev.fmt.toNat else 0

def clustersIn (s : State) : Nat := ((allClusters s.variant).filter (clusterServes s)).length

def devCap1 (s : State) : Nat :=
  if !capFormed s then 0
  else
    fld (maskOf 8 fun d => decide (d < dieCount s.variant)) 48 + fld (maskOf 8 fun d => (die s d).state == .inService) 40
      + fld s.variant 32 + fld (clustersIn s) 16 + maskOf 16 fun p => (partCfg s p).isDefined

/-- Face memory of in-service dies outside the save area and the retired ranges, in MiB. -/
def faceMib (s : State) : Nat :=
  let dies := (List.range (dieCount s.variant)).filter fun d => (die s d).state == .inService
  let gone := fun (d : Nat) => (s.retired.filter fun x => x.inForce && decide (x.base / faceSpan = d) &&
    decide (x.base < stockBase) && decide (x.base % faceSpan < saveBase)).length
  (dies.map fun d => saveBase - 0x4000 * gone d).sum / 0x100000

def devCap2 (s : State) : Nat := if capFormed s then fld (if s.dev.stock then 512 else 0) 32 + faceMib s else 0

/-- Four bits of a port in DEV_CAP3 (R526). -/
def portCap (s : State) (n : Nat) : Nat :=
  if s.image.split.getLsbD n then
    let a := (port s n 1).st ≠ 0
    let b := (port s n 2).st ≠ 0
    if a && b then 3 else if a then 4 else if b then 5 else 0
  else (port s n 0).st

def devCap3 (s : State) : Nat := ((List.range 4).map fun n => fld (portCap s n) (4 * n)).sum

def restartInfo (s : State) : Nat :=
  let r := s.restart
  fld (Nat.min 0xFFFF r.durationMs) 48 + fld r.held.toNat 32 + fld r.suspect.toNat 16 + fld r.attempt 8 + r.cause

def devTest (s : State) : Nat :=
  let d := s.dev
  fld d.testFailCl.toNat 48 + fld d.testFailDie.toNat 32 + fld d.testScope 4 + flag d.testBusy 2 + d.testResult

def devUnit (s : State) (d : Nat) : Nat :=
  let u := die s d
  let iod := decide (d = 8)
  fld u.slFenced.toNat 48 + (if iod then 0 else fld u.clFenced.toNat 32)
    + (if iod then 0 else fld (maskOf 16 fun c => clusterServes s (16 * d + c)) 16) + fld u.hold 8 + stateCode u.state

def deviceReg (s : State) (off : Nat) : Nat :=
  match off with
  | 0x000 => devStatus s
  | 0x008 => s.dev.gen.toNat
  | 0x010 => devCap0 s
  | 0x018 => devCap1 s
  | 0x020 => devCap2 s
  | 0x028 => devCap3 s
  | 0x040 => restartInfo s
  | 0x048 => devTest s
  | 0x080 => s.dev.errRetry.toNat
  | 0x088 => s.dev.errCe.toNat
  | 0x090 => s.dev.errUe.toNat
  | 0x098 => s.dev.errRet.toNat
  | _ =>
    if 0xA0 ≤ off && off < 0xC0 then
      let n := (off - 0xA0) / 8
      fld (look 0 s.dev.portDrops n).toNat 32 + (look 0 s.dev.portFec n).toNat
    else if 0x100 ≤ off && off < 0x148 then devUnit s ((off - 0x100) / 8)
    else 0

/-! ### Power page (R476) -/

/-- Module cap in force (R458). -/
def capInForce (s : State) : Nat :=
  let c := s.image.cap
  let c := if s.power.capReg = 0 then c else Nat.min c (Nat.max 1500 s.power.capReg)
  if s.power.warning then Nat.min c 1500 else c

/-- Sensors of a die: 0 to 15 and the stack sensor 16; the IOD has 8 (R466). -/
def sensorCount (d : Nat) : Nat := if d = 8 then 8 else 17

def dieTemps (s : State) (d : Nat) : List Int := (List.range (sensorCount d)).map fun n => look 250 (die s d).temps n

/-- Hottest reading of a list in C, 0 for readings below 0 C. -/
def hottest (l : List Int) : Nat := (l.foldl max 0 / 10).toNat

def dieMax (s : State) (d : Nat) : Nat := if present s d && s.power.stage != .off then hottest (dieTemps s d) else 0
def moduleMax (s : State) : Nat := ((List.range 9).map (dieMax s)).foldl Nat.max 0

/-- Some sensor reads above 105 C. -/
def overHot (s : State) : Bool := (List.range 9).any fun d => present s d && (dieTemps s d).any fun t => decide (1050 < t)

def powerStatus (s : State) : Nat :=
  fld (capInForce s) 24 + fld (Nat.min 255 (moduleMax s)) 8 + flag s.power.age 4 + flag (overHot s) 3
    + flag ((List.range (dieCount s.variant)).any fun d => decide (issueFraction s d < 64)) 2 + flag s.power.warning 1

def meanWatts (l : List Nat) : Nat := if l.isEmpty then 0 else l.sum / l.length / 1000000

def powerReg (s : State) (off : Nat) : Nat :=
  match off with
  | 0x000 => powerStatus s
  | 0x008 => fld (meanWatts s.power.samples) 32 + fld (Nat.min 0xFFFF (s.power.inputMa / 10)) 16 + Nat.min 0xFFFF s.power.inputMv
  | 0x010 => s.power.energy % 2 ^ 64
  | 0x018 => s.power.capReg
  | _ =>
    if 0x100 ≤ off && off < 0x148 then
      let d := (off - 0x100) / 8
      if !present s d then 0
      else
        fld (die s d).episodes 48 + fld (Nat.min 255 (dieMax s d)) 32 + fld (die s d).voff 16
          + fld (if d = 8 then s.power.ccStep else issueFraction s d) 8
    else 0

/-! ### Configuration and security pages (R513, R514) -/

def slotCode : SlotState → Nat
  | .empty => 0
  | .pending => 1
  | .trial => 2
  | .good => 3
  | .bad => 4

/-- Sectors worn out are skipped (R507). -/
def wornAt : Nat := 100000
def journalSectors : Nat := 960
def maxErase (f : Flash) : Nat := f.erases.foldl (fun m (_, n) => Nat.max m n) 0

/-- Erased sectors of the journal ring that may still be used. -/
def freeSectors (f : Flash) : Nat :=
  journalSectors - f.sectors.length - (f.erases.filter fun (_, n) => decide (wornAt ≤ n)).length

def configReg (s : State) (off : Nat) : Nat :=
  let f := s.flash
  match off with
  | 0x000 => fld s.image.version 32 + fld s.image.fwSvn 24 + fld s.image.svn 16 + fld s.dev.mode 10 + fld s.dev.slot 8 + s.dev.bootFault.toNat
  | 0x008 => flag f.updOpen 16 + fld f.pref 12 + fld f.trials 8 + fld (slotCode f.stB) 4 + slotCode f.stA
  | 0x010 => fld f.updLen 32 + f.updWritten
  | 0x018 => fld f.journal.length 32 + fld (Nat.min 0xFFFF (maxErase f)) 16 + freeSectors f
  | _ => 0

/-- A byte of the flash; an erased one reads 0xFF (PRESUMED, log 9). -/
def flashByte (s : State) (a : Nat) : Byte := look 0xFF s.flash.bytes a
def flashBytes (s : State) (a n : Nat) : List Byte := (List.range n).map fun i => flashByte s (a + i)

def securityReg (s : State) (off : Nat) : Nat :=
  if off < 0x40 then (look 0 s.sec.nonce (off / 8)).toNat
  else if off = 0x40 then fld s.sec.count.toNat 32 + flag s.sec.done 2 + flag s.sec.busy 1
  else if off = 0x48 then
    fld s.sec.certLen 48 + fld (maskOf 9 fun d => (die s d).keyed) 32 + fld s.sec.ownFloor 16 + fld s.sec.fwFloor 8 + flag s.sec.idReady 1
  else if 0x1000 ≤ off && off < 0x1400 then fieldAt s.sec.quote (off - 0x1000) 8
  else if 0x2000 ≤ off && off < 0x4000 then
    fieldAt (flashBytes s 0 (Nat.min 0x2000 s.sec.certLen)) (off - 0x2000) 8
  else 0

/-! ### Crusher and mesh pages (R193, R283) -/

/-- Die of a 4 KiB block. -/
def blockDie (off : Nat) : Nat := off / 0x1000

def crusherReg (s : State) (d o : Nat) : Nat :=
  if o < 0x80 then
    let ls := (crusher s (16 * d + o / 8)).lines
    let here := ls.filter fun l => !l.spilled
    fld (Nat.min 0x1FFF (ls.length - here.length)) 32 + fld (cellsUsed (crusher s (16 * d + o / 8))) 16 + here.length
  else if o = 0x100 then
    fld (look 0 s.dev.cruSpills d) 32 + fld (look 0 s.dev.cruCe d) 16 + look 0 s.dev.cruUe d
  else 0

/-- LS shows the size in force, also under a self-test; 0 while the cluster is out of service or fenced (R193, R545). -/
def showsL (s : State) (c : Nat) : Bool :=
  let u := die s (c / 16)
  !u.clFenced.getLsbD (c % 16) && (u.state == .inService || (u.state == .testing && u.clTesting.getLsbD (c % 16)))

def meshReg (s : State) (d o : Nat) : Nat :=
  let u := die s d
  if o = 0 then fld u.lastNode 52 + flag u.lastNetCtl 51 + fld u.ctlRetry 16 + u.bulkRetry
  else if o = 8 then u.combined
  else if 0x100 ≤ o && o < 0x180 && d < 8 then
    let c := 16 * d + (o - 0x100) / 8
    if (die s d).state = .absent then 0 else flag (cluster s c).lsByLaunch 7 + (if showsL s c then (cluster s c).ls else 0)
  else 0

/-! ### Partition page (R35, R362, R394) -/

def partReg (s : State) (p o : Nat) : Nat :=
  if o = 0 then devStatus s
  else if o = 8 then s.dev.gen.toNat
  else if 0x1000 ≤ o && o < 0x5040 then
    let x := queue s p ((o - 0x1000) / 0x40)
    if x.declared then queueReg s x (o % 0x40) else 0
  else if o = 0x8000 then (part s p).evHead.toNat
  else if o = 0x8008 then (part s p).evTail.toNat
  else if o = 0x8010 then qdbEvstat (part s p)
  else 0

/-! ### Reads -/

/-- The register at an 8-byte aligned offset of the register region. (DEDUCED, log 80) -/
def regRead (s : State) (off : Nat) : W64 :=
  BitVec.ofNat 64 (match pageAt off with
    | some (.partition p, o) => partReg s p o
    | some (.device, o) => deviceReg s o
    | some (.power, o) => powerReg s o
    | some (.link, o) => if o < 0x1000 then (linkReg s (o / 0x100) (o % 0x100)).toNat else 0
    | some (.config, o) => configReg s o
    | some (.security, o) => securityReg s o
    | some (.crusher, o) => if o < 0x9000 && present s (blockDie o) then crusherReg s (blockDie o) (o % 0x1000) else 0
    | some (.mesh, o) => if o < 0x9000 && present s (blockDie o) then meshReg s (blockDie o) (o % 0x1000) else 0
    | none => 0)

/-- Registers of a 128-byte line of the region. -/
def regLine (s : State) (line : Nat) : Line :=
  lineOf ((List.range 16).flatMap fun i => leBytes 8 (regRead s (128 * line - regBase + 8 * i)).toNat)

/-! ### Writes with an effect -/

/-- The module runs: it has started and holds its state. (DEDUCED, log 19) -/
def alive (s : State) : Bool := s.power.stage == .running

/-- QDB_CTL.DISCARD (R362). -/
def ctlDiscard (s : State) (p q : Nat) : State :=
  modQueue s p q fun x =>
    if x.declared && x.bound then { x with head := x.tail, stopped := false, errSeq := 0, errIndex := 0, errCause := 0 } else x

/-- QDB_CTL.RESYNC: the record at HEAD is read for its sequence number; a read that fails stops the queue again (R359, R362). -/
def ctlResync (s : State) (p q : Nat) : State :=
  let x := queue s p q
  if !(x.declared && x.bound) then s
  else
    let clear := fun (e : Option W32) => fun (x : Queue) =>
      { x with expect := e, stopped := false, errSeq := 0, errIndex := 0, errCause := 0 }
    if x.head = x.tail then modQueue s p q (clear none)
    else
      match readRecord s p (recordAddr x x.head) with
      | some w => modQueue s p q (clear (some (BitVec.ofNat 32 ((w.getD 0 0).toNat >>> 32))))
      | none => stopQueue s p q 3 0 (x.head.toNat % ringSize x)

/-- QDB_EVTAIL: entries are consumed and held events are posted (R394). -/
def writeEvTail (s : State) (p : Nat) (v : W32) : State :=
  let s := modPart s p fun r => { r with evTail := v }
  if s.restart.active then s else releaseEvents p 64 s

/-- SEC_QUOTE_CTL.GO (R511). -/
def quoteGo (s : State) : State :=
  if s.sec.busy || s.restart.active then s
  else { s with sec := { s.sec with busy := true, done := false, taken := (List.range 8).map fun i => look 0 s.sec.nonce i } }

/-- PWR_CAP.CAP (R476). -/
def writeCap (s : State) (v : W64) : State := { s with power := { s.power with capReg := v.toNat % 2 ^ 16 } }

/-- A write of one register; reserved offsets and read-only registers ignore it (R35, R36). -/
def regWrite (s : State) (off : Nat) (v : W64) : State :=
  match pageAt off with
  | some (.partition p, o) =>
    if 0x1000 ≤ o && o < 0x5040 then
      let q := (o - 0x1000) / 0x40
      match o % 0x40 with
      | 0x08 => ringTail s p q (v.setWidth 32)
      | 0x38 =>
        let s := if v.getLsbD 1 then ctlDiscard s p q else s
        if v.getLsbD 0 then ctlResync s p q else s
      | _ => s
    else if o = 0x8008 then writeEvTail s p (v.setWidth 32)
    else s
  | some (.power, o) => if o = 0x018 then writeCap s v else s
  | some (.link, o) =>
    if o < 0x1000 && o % 0x100 = 0x10 then
      let s := retireMask s (o / 0x100) (v.extractLsb' 16 12)
      if v.getLsbD 0 then startRecal s (o / 0x100) else s
    else s
  | some (.security, o) =>
    if o < 0x40 then { s with sec := { s.sec with nonce := put 0 s.sec.nonce (o / 8) v } }
    else if o = 0x40 then (if v.getLsbD 0 then quoteGo s else s)
    else s
  | _ => s

/-- Whole 8-byte registers of a line that a byte-enable mask names, in ascending order (R36). -/
def regWriteLine (s : State) (line : Nat) (be : BitVec 128) (d : Line) : State :=
  (List.range 16).foldl (fun s i =>
    if be.extractLsb' (8 * i) 8 = 0xFF#8 then regWrite s (128 * line - regBase + 8 * i) (d.extractLsb' (64 * i) 64) else s) s

/-- Every enabled byte belongs to a whole register (R36). -/
def regBeOk (be : BitVec 128) : Bool :=
  (List.range 16).all fun i => be.extractLsb' (8 * i) 8 == 0xFF#8 || be.extractLsb' (8 * i) 8 == 0#8

/-! ### Reads and writes of the IOD agents outside remote-device windows -/

def isRegister (s : State) (pa : Nat) : Bool :=
  match target s.variant pa with
  | .register _ => true
  | _ => false

def isRemote (s : State) (pa : Nat) : Bool :=
  match target s.variant pa with
  | .remote => true
  | _ => false

/-- `n` bytes at a physical address, 8-byte registers in ascending order (R36). -/
def readAny (s : State) (pa n : Nat) : List Byte :=
  if isRegister s pa then (List.range (n / 8)).flatMap fun i => leBytes 8 (regRead s (pa - regBase + 8 * i)).toNat else readPhys s pa n

/-- Write bytes at a physical address. -/
def writeAny (s : State) (pa : Nat) (bs : List Byte) (attr : Nat) : State :=
  if isRegister s pa then
    (List.range (bs.length / 8)).foldl (fun s i => regWrite s (pa - regBase + 8 * i) (BitVec.ofNat 64 (fieldAt bs (8 * i) 8))) s
  else writePhys s pa bs attr

/-- Poison that a read meets; registers carry none. -/
def poisonAny (s : State) (pa n : Nat) : Byte := if isRegister s pa then 0 else poisonPhys s pa n

/-! ### The rows -/

/-- REGISTER_WRITE: a partition writes a register (R34, R36, R37). -/
def execRegisterWrite (p off : Nat) (v : W64) (s : State) : Host.Outcome State Fault Refusal :=
  onUnit (partOk p)
    (if !alive s || (accessCheck s p (regBase + off) true (regShape (regBase + off) 8)).isSome then s else regWrite s off v)

/-- QDB_CTL_DISCARD (R362). -/
def execQdbCtlDiscard (p q : Nat) (s : State) : Host.Outcome State Fault Refusal :=
  onUnit (partOk p && slotOk q) (if alive s && (partCfg s p).isDefined then ctlDiscard s p q else s)

/-- QDB_CTL_RESYNC (R362). -/
def execQdbCtlResync (p q : Nat) (s : State) : Host.Outcome State Fault Refusal :=
  onUnit (partOk p && slotOk q) (if alive s && (partCfg s p).isDefined then ctlResync s p q else s)

/-- QDB_EVTAIL_WRITE (R394). -/
def execQdbEvtailWrite (p : Nat) (v : W64) (s : State) : Host.Outcome State Fault Refusal :=
  onUnit (partOk p) (if alive s && (partCfg s p).isDefined then writeEvTail s p (v.setWidth 32) else s)

/-- SEC_QUOTE_CTL_GO (R511). -/
def execSecQuoteCtlGo (s : State) : Host.Outcome State Fault Refusal := onUnit true (if alive s then quoteGo s else s)

/-- PWR_CAP_WRITE (R458, R476). -/
def execPwrCapWrite (v : W64) (s : State) : Host.Outcome State Fault Refusal := onUnit true (if alive s then writeCap s v else s)

end Sys2Proof.Machine
end

