-- ==== Sys2Proof/Machine/Image.lean ====
section
/-! DEFINITION. The configuration image: its layout, its tables, its verification and the consistency checks: R484 to R499, R25, R357,
R396, R399, R428, R442 to R445. -/

namespace Sys2Proof.Machine
open Sys2Proof.Num

/-! ### Layout (R483 to R485) -/

/-- Flash address of slot A (0) or B (1). -/
def slotBase (n : Nat) : Nat := if n = 0 then 0x400000 else 0x6400000
def slotSize : Nat := 96 * 2 ^ 20

def imgBytes (s : State) (slot off n : Nat) : List Byte := flashBytes s (slotBase slot + off) n
def imgField (s : State) (slot off n : Nat) : Nat := leNat (imgBytes s slot off n)

/-- A directory entry. -/
structure Section where
  type : Nat
  off : Nat
  len : Nat
  count : Nat
  size : Nat
  deriving DecidableEq, Repr

def imgLen (s : State) (slot : Nat) : Nat := imgField s slot 12 4
def sectionAt (s : State) (slot i : Nat) : Section :=
  let e := imgBytes s slot (256 + 32 * i) 32
  { type := fieldAt e 0 2, off := fieldAt e 4 4, len := fieldAt e 8 4, count := fieldAt e 12 4, size := fieldAt e 16 2 }
def sections (s : State) (slot : Nat) : List Section := (List.range (imgField s slot 23 1)).map (sectionAt s slot)

/-- Fewest and most entries, and entry size, of a section type; FIRMWARE's one entry fills the section. -/
def sectionRule (ty : Nat) : Option (Nat × Nat × Nat) :=
  match ty with
  | 0x01 => some (1, 1, 1536)
  | 0x02 => some (1, 1, 0)
  | 0x10 => some (1, 1, 64)
  | 0x11 => some (16, 16, 128)
  | 0x12 => some (128, 128, 4)
  | 0x13 => some (0, 4112, 4)
  | 0x14 => some (0, 1024, 32)
  | 0x15 => some (0, 128, 64)
  | 0x16 => some (0, 64, 64)
  | 0x17 => some (0, 256, 64)
  | 0x18 => some (0, 4096, 32)
  | _ => none

def sectionOk (l : Nat) (x : Section) : Bool :=
  x.off % 4096 == 0 && decide (4096 ≤ x.off) && decide (x.off + x.len ≤ l) &&
    (match sectionRule x.type with
     | none => false
     | some (lo, hi, size) =>
       decide (lo ≤ x.count) && decide (x.count ≤ hi) &&
         (if size = 0 then decide (576 ≤ x.len) else x.size == size && decide (x.count * size ≤ x.len)))

def disjoint (a b : Section) : Bool := decide (a.off + a.len ≤ b.off) || decide (b.off + b.len ≤ a.off)

/-- Sections that neither overlap nor repeat a type. -/
def sectionsApart : List Section → Bool
  | [] => true
  | x :: xs => (xs.all fun y => disjoint x y && x.type != y.type) && sectionsApart xs

def magicBytes : List Byte := [0x44, 0x52, 0x4C, 0x4B, 0x54, 0x4E, 0x47, 0x52]

/-- Step 1 of R497. -/
def headerFine (s : State) (slot : Nat) : Bool :=
  imgBytes s slot 0 8 == magicBytes && imgField s slot 8 4 == 1 &&
    (let l := imgLen s slot
     let n := imgField s slot 23 1
     l % 4096 == 0 && decide (l + 512 ≤ slotSize) && decide (1 ≤ n) && decide (n ≤ 64) && decide (256 + 32 * n ≤ l) &&
       (let xs := sections s slot
        xs.all (sectionOk l) && sectionsApart xs && [0x01, 0x02, 0x10, 0x11, 0x12].all fun t => xs.any fun x => x.type == t))

/-- Bytes of a section, and its entries. -/
def sectionBytes (s : State) (slot ty : Nat) : List Byte :=
  match (sections s slot).find? fun x => x.type == ty with
  | some x => imgBytes s slot x.off x.len
  | none => []
def entriesOf (s : State) (slot ty : Nat) : List (List Byte) :=
  match (sections s slot).find? fun x => x.type == ty with
  | some x => (List.range x.count).map fun i => imgBytes s slot (x.off + x.size * i) x.size
  | none => []

/-! ### Tables (R488 to R494) -/

/-- Bytes outside the named (offset, length) fields are zero. -/
def reservedZero (e : List Byte) (named : List (Nat × Nat)) : Bool :=
  e.zipIdx.all fun (b, i) => b == 0 || named.any fun (o, n) => decide (o ≤ i) && decide (i < o + n)

def u16 (e : List Byte) (o : Nat) : Nat := fieldAt e o 2
def u32 (e : List Byte) (o : Nat) : Nat := fieldAt e o 4
def u64 (e : List Byte) (o : Nat) : Nat := fieldAt e o 8

def partOf (e : List Byte) : PartCfg :=
  { isDefined := (byteAt e 0).testBit 0, secure := (byteAt e 0).testBit 1, lc := (byteAt e 0).testBit 2, weight := byteAt e 1,
    slice := u16 e 2, qc := byteAt e 4, qi := byteAt e 5, share := u16 e 6, qpFirst := u32 e 8, qpCount := u32 e 12,
    rkey := BitVec.ofNat 32 (u32 e 16), qkLogsz := byteAt e 20, qkBase := u64 e 24, qkCmpl := u64 e 32, storeBase := u64 e 40,
    storeLen := u64 e 48, spillBase := u64 e 56, spillLen := u64 e 64, overBase := u64 e 72, overLen := u64 e 80 }

def partReserved (e : List Byte) : Bool :=
  if (byteAt e 0).testBit 0 then decide (byteAt e 0 < 8) && reservedZero e [(0, 21), (24, 64)] else allZero e

def queueOf (e : List Byte) : QueueCfg :=
  { part := byteAt e 0, q := u16 e 2 % 512, devenq := (u16 e 2).testBit 14, fpr := (u16 e 2).testBit 15 }
def queueReserved (e : List Byte) : Bool := byteAt e 1 == 0 && field (u16 e 2) 13 9 == 0

def regionOf (e : List Byte) : RegionCfg :=
  { base := u64 e 0, len := u64 e 8, part := byteAt e 16, secure := (byteAt e 17).testBit 0 }
def regionReserved (e : List Byte) : Bool := decide (byteAt e 17 ≤ 1) && reservedZero e [(0, 18)]

def portField (b : Nat) : Nat × Nat := (b % 4, b / 4 % 4)

def addrOf (e : List Byte) : AddrCfg :=
  { part := byteAt e 0, port := (portField (byteAt e 1)).1, half := (portField (byteAt e 1)).2, vlan := u16 e 2, pcp := byteAt e 4 % 8,
    dscp := byteAt e 5 % 64, v4 := if (byteAt e 6).testBit 0 then some (BitVec.ofNat 32 (beNat (slice e 8 4))) else none,
    v6 := if (byteAt e 6).testBit 1 then some (BitVec.ofNat 128 (beNat (slice e 16 16))) else none }
def addrReserved (e : List Byte) : Bool :=
  decide (byteAt e 1 < 16) && decide (byteAt e 4 < 8) && decide (byteAt e 5 < 64) && decide (byteAt e 6 < 4)
    && reservedZero e [(0, 7), (8, 4), (16, 16)]

def resvOf (e : List Byte) : ResvCfg :=
  { kind := byteAt e 0, part := byteAt e 1, ctx := u16 e 2, n := byteAt e 4, mask := BitVec.ofNat 128 (fieldAt e 8 16), p := u32 e 24,
    d := u32 e 28, c := u32 e 32, bw := (List.range 4).map fun i => (byteAt e (36 + 4 * i), u16 e (38 + 4 * i)) }
def resvReserved (e : List Byte) : Bool :=
  byteAt e 0 == 0 || reservedZero e [(0, 5), (8, 28), (36, 1), (38, 3), (42, 3), (46, 3), (50, 2)]

def windowOf (e : List Byte) : WindowCfg :=
  { base := u64 e 0, size := u64 e 8, part := byteAt e 16, port := (portField (byteAt e 17)).1, half := (portField (byteAt e 17)).2,
    qp := u32 e 20, peerIp := BitVec.ofNat 128 (beNat (slice e 24 16)), remote := u64 e 40, rkey := BitVec.ofNat 32 (u32 e 48) }
def windowReserved (e : List Byte) : Bool := decide (byteAt e 17 < 16) && reservedZero e [(0, 18), (20, 32)]

def groupOf (e : List Byte) : GroupCfg :=
  { index := u32 e 0, members := byteAt e 4, rank := byteAt e 5, member := byteAt e 6, window := u16 e 8, offset := u64 e 16,
    staging := u64 e 24 }
def groupReserved (e : List Byte) : Bool := reservedZero e [(0, 7), (8, 2), (16, 16)]

/-- The firmware section: code length, and its signature's place. -/
def firmware (s : State) (slot : Nat) : List Byte := sectionBytes s slot 0x02
def ownerCert (s : State) (slot : Nat) : List Byte := sectionBytes s slot 0x01
def ownerModulus (s : State) (slot : Nat) : List Byte := slice (ownerCert s slot) 24 512

/-- The tables of an image (R488 to R494) with the digests of R512. (DEDUCED, log 50) -/
def parseImage (s : State) (slot : Nat) : Image :=
  let dev := (entriesOf s slot 0x10).headD []
  let mode := byteAt dev 1
  let split := (List.range 4).filter fun n => mode.testBit (2 * n)
  let kr := (List.range 4).filter fun n => mode.testBit (2 * n + 1)
  { version := imgField s slot 16 4, svn := imgField s slot 20 1, fwSvn := byteAt (firmware s slot) 8,
    raise := (imgField s slot 21 1).testBit 0, paced := (byteAt dev 0).testBit 0,
    split := BitVec.ofNat 4 ((split.map fun n => 2 ^ n).sum), kr := BitVec.ofNat 4 ((kr.map fun n => 2 ^ n).sum),
    lossless := BitVec.ofNat 8 (byteAt dev 2), cap := u16 dev 4,
    parts := (entriesOf s slot 0x11).zipIdx.foldl (fun m (e, p) => put {} m p (partOf e)) [],
    clusters := (entriesOf s slot 0x12).zipIdx.foldl (fun m (e, c) =>
      put (0, 0) m c (if byteAt e 0 = 0xFF then (0, byteAt e 1) else (byteAt e 0 + 1, byteAt e 1))) [],
    queues := (entriesOf s slot 0x13).map queueOf, regions := (entriesOf s slot 0x14).map regionOf,
    addrs := (entriesOf s slot 0x15).map addrOf, resvs := (entriesOf s slot 0x16).map resvOf,
    windows := (entriesOf s slot 0x17).map windowOf, groups := (entriesOf s slot 0x18).map groupOf,
    digest := Config.sha512 (imgBytes s slot 0 (imgLen s slot + 512)), ownerDigest := Config.sha512 (ownerModulus s slot) }

/-- Step 7 of R497: reserved bytes of every table entry are zero. -/
def tablesReserved (s : State) (slot : Nat) : Bool :=
  let dev := (entriesOf s slot 0x10).headD []
  let cert := ownerCert s slot
  decide (byteAt dev 0 ≤ 1) && reservedZero dev [(0, 3), (4, 2)]
    && reservedZero (slice cert 0 1536) [(0, 4), (8, 8), (24, 516), (1024, 512)]
    && reservedZero (slice (firmware s slot) 0 64) [(0, 9), (16, 4)]
    && (entriesOf s slot 0x11).all partReserved
    && ((entriesOf s slot 0x12).all fun e => zeroAt e 2 2)
    && (entriesOf s slot 0x13).all queueReserved && (entriesOf s slot 0x14).all regionReserved
    && (entriesOf s slot 0x15).all addrReserved && (entriesOf s slot 0x16).all resvReserved
    && (entriesOf s slot 0x17).all windowReserved && (entriesOf s slot 0x18).all groupReserved

/-! ### Consistency (R498) -/

/-- All pairs of a list satisfy a symmetric relation. -/
def pairwiseB {α : Type} (r : α → α → Bool) : List α → Bool
  | [] => true
  | x :: xs => xs.all (r x) && pairwiseB r xs

/-- A port or half that exists under the modes of the image (R428). -/
def portNamed (i : Image) (n h : Nat) : Bool := decide (n < 4) && (if i.split.getLsbD n then h == 1 || h == 2 else h == 0)

def defined (i : Image) (p : Nat) : Bool := decide (p < 16) && (look {} i.parts p).isDefined

/-- A region lies in the face memory of one present die below the save area, or in stockpile memory (R491). -/
def regionFine (variant : Nat) (r : RegionCfg) : Bool :=
  r.base % 0x10000 == 0 && r.len % 0x10000 == 0 &&
    (match target variant r.base with
     | .face _ off => decide (off + r.len ≤ saveBase)
     | .stock off => decide (off + r.len ≤ stockSize)
     | _ => false)

/-- The state in which the tables would be in force: what `inRegions` and the admission pass look at. -/
def withImage (s : State) (i : Image) : State := { s with image := i }

/-- Full service on the variant: every die, link, channel and port up (R498). -/
def fullState (s : State) (i : Image) : State :=
  let s := { s with image := i, parts := [], admission := {}, retired := [], dev := { s.dev with stock := true, st := 2 } }
  let s := (List.range 9).foldl (fun s d =>
    if present s d then setDie s d { die s d with state := .inService, clFenced := 0, clTesting := 0, slFenced := 0 } else s) s
  let s := (List.range 16).foldl (fun s k =>
    if (linkEnds s.variant k).isSome then
      setLink s k { link s k with st := 2, rate := 2, octIns := octetMask k, octRet := 0 } else s) s
  (List.range 4).foldl (fun s n =>
    if i.split.getLsbD n then modPort (modPort s n 1 fun x => { x with st := 1 }) n 2 fun x => { x with st := 1 }
    else modPort s n 0 fun x => { x with st := 1 }) s

/-- A resource code that exists on the variant (R400). -/
def resourceOk (variant code : Nat) : Bool :=
  let n := dieCount variant
  if code < 0x10 then decide (code % 8 < n)
  else if code < 0x20 then (linkEnds variant (8 + code % 8)).isSome
  else if code < 0x28 then decide (code - 0x20 < n)
  else if code = 0x28 then true
  else decide (0x30 ≤ code) && decide (code < 0x38)

def powerOfTwo (n : Nat) : Bool := n != 0 && 2 ^ Nat.log2 n == n

def windowFine (i : Image) (w : WindowCfg) : Bool :=
  let p := look {} i.parts w.part
  powerOfTwo w.size && decide (2 ^ 30 ≤ w.size) && w.base % w.size == 0 && decide (remBase ≤ w.base) && decide (w.base + w.size ≤ remEnd)
    && decide (p.qpFirst ≤ w.qp) && decide (w.qp < p.qpFirst + p.qpCount) && portNamed i w.port w.half

def rangesApart (a b : Nat × Nat) : Bool := a.2 == 0 || b.2 == 0 || decide (a.1 + a.2 ≤ b.1) || decide (b.1 + b.2 ≤ a.1)

/-- The areas of a partition lie where R357 and R396 require them. -/
def areasFine (s : State) (i : Image) (p : Nat) (c : PartCfg) : Bool :=
  let s := withImage s i
  let ring := 64 * 2 ^ (c.qkLogsz + 6)
  let face := fun (b : Nat) => decide (b < stockBase)
  let area := fun (b l : Nat) => l % 0x10000 == 0 && (l == 0 || (face b && inRegions s p b l))
  decide (c.qkLogsz ≤ 10) && c.qkBase % ring == 0 && inRegions s p c.qkBase ring
    && (c.qkCmpl == 0 || inRegions s p c.qkCmpl ring)
    && area c.storeBase c.storeLen && area c.spillBase c.spillLen && area c.overBase c.overLen

def stagingSize : Nat := 8 * 2 ^ 20

/-- R498, but for the admission pass. -/
def tablesFine (s : State) (i : Image) : Bool :=
  let ps := (List.range 16).map fun p => (p, look {} i.parts p)
  let live := ps.filter fun (_, c) => c.isDefined
  let secure := fun (p : Nat) => (look {} i.parts p).secure
  let owner := fun (c : Nat) => (look (0, 0) i.clusters c).1
  defined i 0 && secure 0
    && (i.clusters.all fun (_, (o, l)) => o == 0 || (defined i (o - 1) && decide (1 ≤ l) && decide (l ≤ 6)))
    && (i.queues.all fun q => defined i q.part && decide (q.q ≤ 256) && !(q.q == 0 && q.devenq))
    && (i.regions.all fun r => defined i r.part && (secure r.part || !r.secure) && regionFine s.variant r)
    && (i.addrs.all fun a => defined i a.part && portNamed i a.port a.half && decide (1 ≤ a.vlan) && decide (a.vlan ≤ 4094))
    && (i.windows.all fun w => defined i w.part && windowFine i w)
    && (i.resvs.all fun r => r.kind == 0 || defined i r.part)
    && pairwiseB (fun a b => a.part == b.part || a.secure == b.secure || decide (a.base + a.len ≤ b.base)
        || decide (b.base + b.len ≤ a.base)) i.regions
    && (i.clusters.all fun (c, _) => owner c == 0 || decide (c < clusterCount s.variant))
    && (live.all fun (_, c) => decide (c.qpFirst + c.qpCount ≤ 65536))
    && pairwiseB rangesApart (live.map fun (_, c) => (c.qpFirst, c.qpCount))
    && pairwiseB (fun a b => a.part == b.part || a.port != b.port || a.vlan != b.vlan) i.addrs
    && decide ((live.map fun (_, c) => c.qc).sum ≤ 8) && decide ((live.map fun (_, c) => c.qi).sum ≤ 8)
    && decide ((live.map fun (_, c) => c.share).sum ≤ 2 ^ 16)
    && (live.all fun (p, c) => decide (1 ≤ c.weight) && decide (1 ≤ c.slice) && decide (c.slice ≤ 1000) && areasFine s i p c)
    && (i.groups.all fun g => match i.windows[g.window]? with
        | some w => decide (2 ≤ g.members) && decide (g.members ≤ 64) && inRegions (withImage s i) w.part g.staging stagingSize
            && decide (g.offset + stagingSize ≤ w.size)
        | none => false)
    && (i.resvs.all fun r => decide (r.kind ≤ 2) && (r.kind != 1 || ((look {} i.parts r.part).lc && decide (r.d ≤ r.p) && decide (r.ctx ≤ 1023)
        && (maskClusters r.mask).all fun c => owner c == r.part + 1)))
    && (i.resvs.all fun r => r.kind == 0 || (usedPairs r).all fun (c, _) => resourceOk s.variant c)
    && pairwiseB (fun a b => a.kind != 1 || b.kind != 1 || a.part != b.part || a.ctx != b.ctx) i.resvs
    && pairwiseB rangesApart (i.windows.map fun w => (w.base, w.size))
    && decide (((List.range 8).filter fun k => i.lossless.getLsbD k).length ≤ 4) && decide (1500 ≤ i.cap) && decide (i.cap ≤ 3400)

/-- R498: the tables, and an admission pass in full service that revokes nothing. -/
def imageFine (s : State) (i : Image) : Bool :=
  tablesFine s i && (let f := fullState s i; (admits f).length == (passOrder f).length)

/-! ### Verification (R497) -/

/-- Code of the first step of R497 that fails, 0 when the slot verifies. -/
def verifySlot (s : State) (slot : Nat) : Nat :=
  if !headerFine s slot then 0xA3
  else
    let scope := fun (v : Nat) => v == 0 || v == s.serial.toNat
    let tgt := imgField s slot 22 1
    if !(tgt = 0 || tgt = s.variant) || !scope (imgField s slot 24 8) then 0xA4
    else
      let c := ownerCert s slot
      if u32 c 0 ≠ 1 || !Config.rsaValid Config.rootModulus (slice c 0 1024) (slice c 1024 512) || u32 c 536 ≠ 65537 then 0xA1
      else if !scope (u64 c 8) then 0xA4
      else
        let l := imgLen s slot
        if !Config.rsaValid (ownerModulus s slot) (imgBytes s slot 0 l) (imgBytes s slot l 512) then 0xA1
        else if imgField s slot 20 1 < s.sec.ownFloor then 0xA2
        else
          let f := firmware s slot
          let n := u32 f 16
          if u32 f 0 ≠ 1 || decide (f.length < 64 + n + 512) || !Config.rsaValid Config.rootModulus (slice f 0 (64 + n)) (slice f (64 + n) 512) then 0xA1
          else if byteAt f 8 < s.sec.fwFloor then 0xA2
          else if !tablesReserved s slot then 0xA3
          else if !imageFine s (parseImage s slot) then 0xA3
          else 0

end Sys2Proof.Machine
end

