-- ==== Sys2Proof/Machine/LocalStore.lean ====
section
/-! DEFINITION. The local-space instructions and the atomic operations of the banks: R163, R168 to R172, R257, R334 of
06_cluster_memory_meshes, 09_crusher_updates_reductions and 12_memory_ordering. -/

namespace Sys2Proof.Machine
open Sys2Proof.Num

/-- Base and size of the local store of a group's team (R168). -/
def teamStore (s : State) (gid : Nat) (g : Group) : Nat × Nat :=
  (((cluster s (gidCluster gid)).teams.find? fun t => t.task == g.task && t.team == g.team).map fun t => (t.lsBase, t.lsSize)).getD (0, 0)

/-- Offset e of a lane (R169). -/
def localOffset (g : Group) (lane ro off size : Nat) : Nat := ((readReg g lane ro).toNat + off) % 2 ^ 24 / size * size

/-- Physical address of a lane's access, none when it is out of range (R170). -/
def localAddr (s : State) (gid : Nat) (g : Group) (lane ro off size : Nat) : Option Nat :=
  let (base, len) := teamStore s gid g
  let e := localOffset g lane ro off size
  if len < e + size then none else some (windowAddr (gidCluster gid) (base + e))

def sizeOf (w : W64) : Nat := 2 ^ bits w 10 8

/-- First uncorrectable word among the addresses that lanes read: origin and address (R163). -/
def localPoison (s : State) (size : Nat) (addrs : List (Nat × Option Nat)) : Option (Nat × Nat × W32) :=
  addrs.findSome? fun (l, a) => a.bind fun a => if poisonPhys s a size = 0 then none else some ((poisonPhys s a size).toNat, l, bit32 l)

/-- LDL. -/
def execLdl (g : GRef) (w : W64) (s : State) : Host.Outcome State Fault Refusal :=
  let size := sizeOf w
  let rd := alignReg size (bits w 23 16)
  let ro := bits w 31 24
  let n := regsOf size
  let gid := gidOf g
  onUnit g.ok (issue s g w
    (fun x _ => [(opcode w != 0x50, 0x21), (reservedBits w [(7, 0), (10, 8), (23, 16), (31, 24), (55, 32)] != 0 || decide (4 < bits w 10 8), 0x22),
      (!inGrant x rd n || !inGrant x ro 1, 0x23)])
    (fun x _ => fenceFree x && blocksFree s gid [(rd, n), (ro, 1)])
    fun x p =>
      let addrs := (lanes p.mask).map fun l => (l, localAddr s gid x l ro (bits w 55 32) size)
      match localPoison s size addrs with
      | some (c, _, m) => parkAt s gid p c 0 w m
      | none =>
        -- an out-of-range lane reads zero (R170); register bits above the access are not given (DESIGN CHOICE, log 22)
        let (s, y) := addrs.foldl (fun (s, y) (l, a) =>
          match a with
          | none => (s, writeBlock y l rd n 0)
          | some a =>
            let v := readLE s.mem a size
            if size < 4 then
              let (f, s) := freeVal s
              (s, writeReg y l rd (BitVec.ofNat 32 (v + f.toNat * 2 ^ (8 * size))))
            else (s, writeBlock y l rd n v)) (s, x)
        retire s gid y)

/-- STL: an out-of-range lane writes nothing (R170); the highest lane's byte stands (R334). -/
def execStl (g : GRef) (w : W64) (s : State) : Host.Outcome State Fault Refusal :=
  let size := sizeOf w
  let rs := alignReg size (bits w 23 16)
  let ro := bits w 31 24
  let n := regsOf size
  let gid := gidOf g
  onUnit g.ok (issue s g w
    (fun x _ => [(opcode w != 0x51, 0x21), (reservedBits w [(7, 0), (10, 8), (23, 16), (31, 24), (55, 32)] != 0 || decide (4 < bits w 10 8), 0x22),
      (!inGrant x rs n || !inGrant x ro 1, 0x23)])
    (fun x _ => fenceFree x && blocksFree s gid [(rs, n), (ro, 1)])
    fun x p =>
      (lanes p.mask).foldl (fun s l =>
        match localAddr s gid x l ro (bits w 55 32) size with
        | none => s
        | some a => writePhys s a (leBytes size (readBlock x l rs n)) 0) (retire s gid x))

/-- One atomic operation of a bank: the state after it and the old value (R171). -/
def bankAtomic (s : State) (a size op operand comparand : Nat) : State × Nat :=
  let old := readLE s.mem a size
  (writePhys s a (leBytes size (intOp size op old operand comparand)) 0, old)

/-- Did the comparison of a CAS fail in a lane (R146)? -/
def casFailed (op size old comparand : Nat) : Bool := op == 7 && old != comparand % 2 ^ (8 * size)

/-- ATOML: lanes in ascending order (R334); a failed CAS ends the turn (R146, R171). -/
def execAtoml (g : GRef) (w : W64) (s : State) : Host.Outcome State Fault Refusal :=
  let sz := bits w 10 8
  let size := 2 ^ sz
  let op := bits w 15 12
  let n := regsOf size
  let rd := alignReg size (bits w 23 16)
  let ro := bits w 31 24
  let rs := alignReg size (bits w 39 32)
  let rc := alignReg size (bits w 47 40)
  let gid := gidOf g
  let cmp := if op = 7 then [(rc, n)] else []
  onUnit g.ok (issue s g w
    (fun x _ => [(opcode w != 0x52, 0x21),
      (reservedBits w [(7, 0), (10, 8), (15, 12), (23, 16), (31, 24), (39, 32), (47, 40)] != 0 || (sz != 2 && sz != 3) || decide (7 < op), 0x22),
      (([(rd, n), (ro, 1), (rs, n)] ++ cmp).any fun (r, k) => !inGrant x r k, 0x23)])
    (fun x _ => fenceFree x && blocksFree s gid ([(rd, n), (ro, 1), (rs, n)] ++ cmp))
    fun x p =>
      let addrs := (lanes p.mask).map fun l => (l, localAddr s gid x l ro 0 size)
      match localPoison s size addrs with
      | some (c, _, m) => parkAt s gid p c 0 w m
      | none =>
        let (s, y, failed) := addrs.foldl (fun (s, y, failed) (l, a) =>
          match a with
          | none => (s, writeBlock y l rd n 0, failed)
          | some a =>
            let cv := readBlock x l rc n
            let (s, old) := bankAtomic s a size op (readBlock x l rs n) cv
            (s, writeBlock y l rd n old, failed || casFailed op size old cv)) (s, x, false)
        let z := advance y
        setGroup s gid (some (if failed && (activePath z).map (·.mask) == some p.mask then endTurn z else z)))

end Sys2Proof.Machine
end

