-- ==== Sys2Proof/Machine/Ethernet.lean ====
section
/-! DEFINITION. The Ethernet ports: RDMA as responder and requester, connection management, flow and congestion control, address
resolution, timestamps and the state of the ports: R428 to R449 of 15_ethernet_rdma, R37 of 01. -/

namespace Sys2Proof.Machine

/-! ### Ports and addresses (R428 to R430) -/

def portUpNow (s : State) (n h : Nat) : Bool := (port s n h).st != 0

/-- A frame is dropped and counted (R429, R530). (DEDUCED, log 75) -/
def dropFrame (s : State) (n : Nat) : State :=
  let c := look 0 s.dev.portDrops n
  { s with dev := { s.dev with portDrops := put 0 s.dev.portDrops n (BitVec.ofNat 32 (bump 0xFFFFFFFF c.toNat)) } }

/-- An IPv4 address as an IPv4-mapped IPv6 address. -/
def mapped (ip : W32) : BitVec 128 := BitVec.ofNat 128 (0xFFFF * 2 ^ 32 + ip.toNat)

/-- The address entry that a destination belongs to (R430). -/
def addrFor (s : State) (n h vlan : Nat) (dst : BitVec 128) : Option AddrCfg :=
  s.image.addrs.find? fun a => a.port == n && a.half == h && a.vlan == vlan && (a.v6 == some dst || (a.v4.map mapped) == some dst)

/-- A port takes frames. -/
def portTakes (s : State) (n h : Nat) : Bool := alive s && portUpNow s n h

/-! ### Responder (R431, R434 to R437, R440) -/

def psnSpace : Nat := 2 ^ 24
def psnAhead (a b : Nat) : Nat := (a + psnSpace - b % psnSpace) % psnSpace

/-- The queue pair of a packet: served, of the partition that owns the packet's port, VLAN and destination address, and bound to the
port (R430, R431). -/
def qpOf (s : State) (k : RcPacket) : Option Nat :=
  if k.qpn < 0x10000 || 0x20000 ≤ k.qpn then none
  else
    let i := k.qpn - 0x10000
    let x := qp s i
    match qpPart s i with
    | none => none
    | some p =>
      if ((addrFor s k.port k.half k.vlan k.dstIp).map fun a => a.part == p).getD false && x.port = k.port && x.half = k.half && x.st != .free then some i
      else none

def nakSequence : Nat := 0
def nakInvalid : Nat := 1
def nakAccess : Nat := 2
def nakOperational : Nat := 3

def sendNak (s : State) (q psn code : Nat) : State := emit s (.rc q "NAK" psn [BitVec.ofNat 8 code])

/-- 50 us of port time. -/
def cnpGap : Nat := 500000

/-- A packet marked CE is answered by a CNP, at most one per queue pair every 50 us (R439). -/
def notifyCe (s : State) (q : Nat) (ce : Bool) : State :=
  let x := qp s q
  let free := match x.lastCnpSent with
    | none => true
    | some t => decide (t.toNat + cnpGap ≤ s.portTime.toNat)
  if ce && free then emit (setQp s q { x with lastCnpSent := some s.portTime }) (.rc q "CNP" 0 []) else s

/-- Every line of a range passes R26, at a target that R434 names; a register access has the shape of R36. -/
def rangeServed (s : State) (p va len : Nat) (write : Bool) : Bool :=
  (List.range ((va % 128 + len + 127) / 128)).all fun i =>
    let a := Nat.max va ((va / 128 + i) * 128)
    !isRemote s a && (accessCheck s p a write (regShape va len)).isNone

/-- R435: upper address bits, R_Key, and the checks of R26. -/
def requestFine (s : State) (p : Nat) (k : RcPacket) (len : Nat) (write : Bool) : Bool :=
  decide (k.va.toNat < 2 ^ 50) && k.rkey == (partCfg s p).rkey && rangeServed s p k.va.toNat len write

/-- A request reaches a ready queue pair: dropped, held off by RNR NAK during a warm restart, out of sequence, repeated, or served by
`serve`; `again` serves a repeated request (R431, R436, R440). (PRESUMED, log 67) -/
def takeRequest (s : State) (k : RcPacket) (serve again : State → Nat → Nat → State) : State :=
  if !portTakes s k.port k.half then s
  else
    match qpOf s k with
    | none => dropFrame s k.port
    | some q =>
      let p := (qpPart s q).getD 0
      -- the queue pair of a window serves only the window (R442)
      if (qp s q).st ≠ .ready || (qp s q).window.isSome then s
      else if s.restart.active then emit s (.rc q "RNR_NAK" k.psn [0])
      else
        let s := notifyCe s q k.ce
        let ahead := psnAhead k.psn (qp s q).expectPsn
        if ahead = 0 then serve s q p
        else if ahead < psnSpace / 2 then sendNak s q k.psn nakSequence
        else again s q p

/-- The request is served: the next PSN is expected, and a message that ends is counted. -/
def passRequest (s : State) (q n : Nat) (last : Bool) : State :=
  modQp s q fun x => { x with expectPsn := (x.expectPsn + n) % psnSpace, msn := if last then (x.msn + 1) % psnSpace else x.msn }

def sendAck (s : State) (q psn : Nat) : State := emit s (.rc q "ACKNOWLEDGE" psn [])

/-- RDMA_WRITE: performed under R435, acknowledged when the message ends (R436). -/
def execRdmaWrite (k : RcPacket) (s : State) : Host.Outcome State Fault Refusal :=
  onUnit k.ok (takeRequest s k
    (fun s q p =>
      if !requestFine s p k k.data.length true then sendNak s q k.psn nakAccess
      else
        let s := passRequest (writeAny s k.va.toNat k.data 0) q 1 k.last
        if k.last then sendAck s q k.psn else s)
    fun s q _ => sendAck s q k.psn)

/-- Response packets of a read from packet `i` on, `c` of them; data that is poisoned ends them with a NAK (R435). -/
def respond (q psn va len mtu : Nat) : Nat → Nat → State → State
  | 0, _, s => s
  | c + 1, i, s =>
    let n := Nat.min mtu (len - mtu * i)
    let at' := (psn + i) % psnSpace
    if poisonAny s (va + mtu * i) n ≠ 0 then sendNak s q at' nakOperational
    -- up to 4 KiB a read takes only a free tag and free slots at the home (R300)
    else respond q psn va len mtu c (i + 1) (emit (agentReads s (va + mtu * i) n 0 (decide (4096 < len))) (.rc q "RDMA_READ_RESPONSE" at' (readAny s (va + mtu * i) n)))

def answerReads (s : State) (q : Nat) (k : RcPacket) : State :=
  let mtu := (qp s q).mtu
  respond q k.psn k.va.toNat k.len mtu (packets mtu k.len) 0 s

/-- RDMA_READ_REQUEST (R434, R435, R437); a repeated one is answered again. -/
def execRdmaReadRequest (k : RcPacket) (s : State) : Host.Outcome State Fault Refusal :=
  let serve := fun (s : State) (q p : Nat) (again : Bool) =>
    if !requestFine s p k k.len false then sendNak s q k.psn nakAccess
    else if again || poisonAny s k.va.toNat k.len ≠ 0 then answerReads s q k
    else passRequest (answerReads s q k) q (packets (qp s q).mtu k.len) true
  onUnit k.ok (takeRequest s k (fun s q p => serve s q p false) fun s q p => serve s q p true)

/-- An atomic operation of 8 bytes at its target: the old value, or the NAK of R434 or R435. (PRESUMED, log 68) (DEDUCED, log 71) -/
def serveAtomic (s : State) (q p : Nat) (k : RcPacket) (op operand comparand : Nat) : State :=
  let va := k.va.toNat
  if isRegister s va || va % 8 ≠ 0 then sendNak s q k.psn nakInvalid
  else if !requestFine s p k 8 true then sendNak s q k.psn nakAccess
  else if poisonAny s va 8 ≠ 0 then sendNak s q k.psn nakOperational
  else
    let old := readPhysLE s va 8
    let s := passRequest (writePhys s va (leBytes 8 (intOp 8 op old operand comparand)) 0) q 1 true
    emit (modQp s q fun x => { x with answers := ((k.psn, old) :: x.answers).take 16 }) (.rc q "ATOMIC_ACKNOWLEDGE" k.psn (beBytes 8 old))

/-- A repeated atomic operation is answered with its first result. -/
def repeatAtomic (s : State) (q : Nat) (k : RcPacket) : State :=
  match (qp s q).answers.find? fun (n, _) => n == k.psn with
  | some (_, old) => emit s (.rc q "ATOMIC_ACKNOWLEDGE" k.psn (beBytes 8 old))
  | none => s

/-- FETCH_ADD: as ATOM with OP ADD (R257, R434). -/
def execFetchAdd (k : RcPacket) (addend : W64) (s : State) : Host.Outcome State Fault Refusal :=
  onUnit k.ok (takeRequest s k (fun s q p => serveAtomic s q p k 0 addend.toNat 0) fun s q _ => repeatAtomic s q k)

/-- CMP_SWAP: as ATOM with OP CAS (R257, R434). -/
def execCmpSwap (k : RcPacket) (cmp swap : W64) (s : State) : Host.Outcome State Fault Refusal :=
  onUnit k.ok (takeRequest s k (fun s q p => serveAtomic s q p k 7 swap.toNat cmp.toNat) fun s q _ => repeatAtomic s q k)

/-- UNSUPPORTED_OPERATION: NAK invalid request, with no effect (R434). -/
def execUnsupportedOperation (k : RcPacket) (s : State) : Host.Outcome State Fault Refusal :=
  let answer := fun (s : State) (q _ : Nat) => sendNak s q k.psn nakInvalid
  onUnit k.ok (takeRequest s k answer answer)

/-! ### Requester (R433, R440, R441, R444, R449) -/

/-- Bytes 24 to 31 of an event of type 11. -/
def qpSpec (s : State) (q state code : Nat) : List Byte :=
  leBytes 4 (0x10000 + q) ++ [BitVec.ofNat 8 state, BitVec.ofNat 8 code] ++ leBytes 2 ((qp s q).window.getD 0xFFFF)

def qpEvent (s : State) (q state code : Nat) : State :=
  match qpPart s q with
  | some p => postEvent s p (event 11 code noSlot 0 (qpSpec s q state code))
  | none => s

/-- A queue pair of the device's range that is in use. -/
def qpLive (s : State) (q : Nat) : Bool := alive s && decide (q < 65536) && (qp s q).st == .ready

/-- The requests acknowledged by everything up to a PSN: writes at the front of the queue that end at or before it. -/
def ackWrites (q psn : Nat) : Nat → State → State
  | 0, s => s
  | c + 1, s =>
    let x := qp s q
    match x.sendq with
    | r :: rest =>
      let last := (r.psn + packets x.mtu r.len - 1) % psnSpace
      if r.sent && r.kind == 1 && decide (psnAhead psn last < psnSpace / 2) then
        ackWrites q psn c (completeRequest (setQp s q { x with sendq := rest, retries := 0 }) q r [])
      else s
    | [] => s

def ackBefore (s : State) (q psn : Nat) : State := ackWrites q psn (qp s q).sendq.length s

/-- The front request, if it is the one answered, is complete with its data. -/
def completeFront (s : State) (q psn : Nat) (is : Nat → Bool) (d : List Byte) : State :=
  let x := qp s q
  match x.sendq with
  | r :: rest =>
    if r.sent && is r.kind && r.psn == psn then completeRequest (setQp s q { x with sendq := rest, retries := 0 }) q r d else s
  | [] => s

/-- RDMA_READ_RESPONSE: it answers the read, and acknowledges the writes before it. -/
def execRdmaReadResponse (q psn : Nat) (data : List Byte) (s : State) : Host.Outcome State Fault Refusal :=
  onUnit true
    (if !qpLive s q then s
     else pumpQp (completeFront (ackBefore s q psn) q psn (fun k => k == 0 || k == 4) data) q)

/-- ACKNOWLEDGE: writes up to the PSN have ended; the answer of an atomic operation carries the old value. -/
def execAcknowledge (q psn : Nat) (value : W64) (s : State) : Host.Outcome State Fault Refusal :=
  onUnit true
    (if !qpLive s q then s
     else pumpQp (completeFront (ackBefore s q psn) q psn (fun k => k == 2 || k == 3) (leBytes 8 value.toNat)) q)

/-- The queue pair enters the error state: everything outstanding ends with a status (R441, R444). -/
def qpError (s : State) (q status : Nat) : State :=
  let rs := (qp s q).sendq
  let s := modQp s q fun x => { x with st := .error }
  let s := rs.foldl (fun s r => if tagOpen s q r.tag then failRequest s q r status else s) s
  let s := modQp s q fun x => { x with sendq := [], retries := 0, rnrWait := false }
  qpEvent s q 1 (0x90 + status)

/-- Requests go out again from the first that is not answered; beyond 7 retries the queue pair fails (R433, R441). (PRESUMED, log 69) -/
def retryQp (s : State) (q : Nat) : State :=
  let x := qp s q
  if x.retries = 7 then qpError s q 0xB
  else pumpQp (setQp s q { x with retries := x.retries + 1, sendq := x.sendq.map fun r => { r with sent := false } }) q

/-- Status of R449 for a NAK syndrome. -/
def nakStatus (syndrome : Nat) : Option Nat :=
  if syndrome = nakInvalid then some 9 else if syndrome = nakAccess then some 8 else if syndrome = nakOperational then some 0xA else none

/-- NAK: a sequence error sends the requests again; any other fails the request with the status of R449. -/
def execNak (q psn syndrome : Nat) (s : State) : Host.Outcome State Fault Refusal :=
  onUnit true
    (if !qpLive s q then s
     else
       let s := ackBefore s q ((psn + psnSpace - 1) % psnSpace)
       if syndrome = nakSequence then retryQp s q
       else
         match nakStatus syndrome, (qp s q).sendq with
         | some st, r :: _ => if r.sent && r.psn = psn then pumpQp (failRequest s q r st) q else s
         | _, _ => s)

/-- RNR_NAK: the device waits, and tries without limit (R433). -/
def execRnrNak (q psn _timer : Nat) (s : State) : Host.Outcome State Fault Refusal :=
  onUnit true
    (if !qpLive s q then s
     else
       let s := ackBefore s q ((psn + psnSpace - 1) % psnSpace)
       modQp s q fun x => { x with rnrWait := !x.sendq.isEmpty, sendq := x.sendq.map fun r => { r with sent := false } })

/-- RNR_TIMER_EXPIRY: what waited is sent again. -/
def execRnrTimerExpiry (q : Nat) (s : State) : Host.Outcome State Fault Refusal :=
  onUnit true (if !qpLive s q || !(qp s q).rnrWait then s else pumpQp (modQp s q fun x => { x with rnrWait := false }) q)

/-- ACK_TIMEOUT: nothing has answered for 16.8 ms (R433, R441). -/
def execAckTimeout (q : Nat) (s : State) : Host.Outcome State Fault Refusal :=
  onUnit true
    (let x := qp s q
     -- what was sent once may wait for its port to go out again: the timer keeps running (R441)
     if !qpLive s q || s.restart.active || x.sendq.isEmpty || !(x.sendq.any (·.sent) || (x.retries != 0 && !x.rnrWait)) then s else retryQp s q)

/-! ### Congestion and flow control (R438, R439) -/

/-- Rate of a port or half in Mb/s (R428). -/
def portRate (s : State) (n h : Nat) : Nat := if h = 0 && (port s n h).st = 1 then 800000 else 400000

/-- CNP: the send rate is halved, at most once every 50 us, down to 1 Gb/s. -/
def execCnp (q : Nat) (s : State) : Host.Outcome State Fault Refusal :=
  onUnit true
    (if !qpLive s q then s
     else
       let x := qp s q
       let free := match x.lastCut with
         | none => true
         | some t => decide (t.toNat + cnpGap ≤ s.portTime.toNat)
       setQp s q { x with lastCnp := some s.portTime, rate := if free then Nat.max 1000 (x.rate / 2) else x.rate,
                          lastCut := if free then some s.portTime else x.lastCut })

/-- CNP_RATE_INCREASE: 55 us have passed without a CNP, and since the last increase. -/
def execCnpRateIncrease (q : Nat) (s : State) : Host.Outcome State Fault Refusal :=
  onUnit true
    (if !qpLive s q then s
     else
       let x := qp s q
       let full := portRate s x.port x.half
       let past := fun (t : Option W64) => match t with
         | none => true
         | some t => decide (t.toNat + 550000 ≤ s.portTime.toNat)
       if past x.lastCnp && past x.lastRaise then
         setQp s q { x with rate := Nat.min full (x.rate + full * 5 / 100), lastRaise := some s.portTime }
       else s)

/-- Queue pairs bound to a port or half. -/
def qpsOn (s : State) (n h : Nat) : List Nat := (s.qps.filter fun (_, x) => x.port == n && x.half == h).map (·.1)

/-- PFC_FRAME: lossless priorities stop or go on. (DEDUCED, log 114) -/
def execPfcFrame (n h : Nat) (pause resume : Byte) (s : State) : Host.Outcome State Fault Refusal :=
  onUnit (portOk n && halfOk h)
    (if !portTakes s n h then s
     else
       let s := modPort s n h fun x => { x with paused := (x.paused ||| (pause &&& s.image.lossless)) &&& ~~~resume }
       (qpsOn s n h).foldl pumpQp s)

/-! ### Connection management (R432, R433, R441, R442) -/

def secondUnits : Nat := 10000000000

/-- Take one MAD on a port: at most 10,000 a second (R432); none during a warm restart (DEDUCED, log 34). -/
def takeMad (s : State) (n : Nat) (f : State → State) : State :=
  let x := port s n 0
  let now := s.portTime.toNat
  if s.restart.active then s
  else if x.madSince + secondUnits ≤ now then f (setPort s n 0 { x with mads := 1, madSince := now })
  else if 10000 ≤ x.mads then s
  else f (setPort s n 0 { x with mads := x.mads + 1 })

/-- The queue pairs of windows are not given to peers (R442). (DEDUCED, log 73) -/
def isWindowQp (s : State) (q : Nat) : Bool := s.image.windows.any fun w => w.qp == q

/-- Lowest free index of a partition's range: one that is unused, or whose queue pair is in error (R432, R441). (DEDUCED, log 70) -/
def freeQp (s : State) (p : Nat) : Option Nat :=
  let c := partCfg s p
  ((List.range c.qpCount).map fun i => c.qpFirst + i).find? fun q =>
    !isWindowQp s q && ((qp s q).st == .free || (qp s q).st == .error)

def settleMtu (offer : Nat) : Nat := Nat.min offer 4096
def settleDepth (offer : Nat) : Nat := Nat.min offer 16

/-- A fresh queue pair; its own starting PSN is the device's choice (DESIGN CHOICE, log 3). -/
def freshQp (s : State) (st : QpState) (n h : Nat) (w : Option Nat) : Qp × State :=
  let (v, s) := freeVal s
  ({ st, port := n, half := h, nextPsn := v.toNat % psnSpace, rate := portRate s n h, window := w }, s)

/-- REQ: the lowest free queue pair of the partition answers REP, or REJ with reason 1. -/
def execReq (m : CmReq) (s : State) : Host.Outcome State Fault Refusal :=
  onUnit m.ok
    (if !portTakes s m.port m.half then s
     else
       match addrFor s m.port m.half m.vlan m.dstIp with
       | none => dropFrame s m.port
       | some a => takeMad s m.port fun s =>
         match freeQp s a.part with
         | none => emit s (.cm m.port m.half "REJ" 0 1)
         | some q =>
           let (x, s) := freshQp s .repSent m.port m.half none
           let x := { x with peerIp := m.srcIp, peerQpn := m.peerQpn, expectPsn := m.peerPsn % psnSpace, mtu := settleMtu m.mtu, depth := settleDepth m.depth }
           emit (setQp s q x) (.cm m.port m.half "REP" q x.nextPsn))

/-- A connection message about a queue pair in one of the states `is`. -/
def cmFor (s : State) (q : Nat) (is : QpState → Bool) (f : State → State) : State :=
  let x := qp s q
  if !portTakes s x.port x.half || 65536 ≤ q || !is x.st then s else takeMad s x.port f

/-- REP: the window's queue pair is ready, and RTU goes out (R442). -/
def execRep (q peerQpn peerPsn mtu depth : Nat) (s : State) : Host.Outcome State Fault Refusal :=
  onUnit true (cmFor s q (· == .reqSent) fun s =>
    let s := modQp s q fun x => { x with st := .ready, peerQpn, expectPsn := peerPsn % psnSpace, mtu := settleMtu mtu,
                                         depth := settleDepth depth }
    qpEvent (emit s (.cm (qp s q).port (qp s q).half "RTU" q 0)) q 0 0)

/-- A queue pair is ready: the events that a ring on it holds are posted (R394; DESIGN CHOICE, log 109). -/
def ringReady (s : State) (q : Nat) : State :=
  match qpPart s q with
  | some p => if (part s p).ringSet && (part s p).ringQp == q && !s.restart.active then releaseEvents p 64 s else s
  | none => s

/-- RTU: the queue pair is ready (R432). -/
def execRtu (q : Nat) (s : State) : Host.Outcome State Fault Refusal :=
  onUnit true (cmFor s q (· == .repSent) fun s => qpEvent (ringReady (modQp s q fun x => { x with st := .ready }) q) q 0 0)

/-- REJ: the attempt ends; the next one comes after 100 ms (R442). -/
def execRej (q _reason : Nat) (s : State) : Host.Outcome State Fault Refusal :=
  onUnit true (cmFor s q (· == .reqSent) fun s => modQp s q fun x => { x with st := .free })

/-- DREQ: the queue pair moves to the error state, and DREP answers (R441). (DEDUCED, log 72) -/
def execDreq (q : Nat) (s : State) : Host.Outcome State Fault Refusal :=
  onUnit true (cmFor s q (fun st => st == .ready || st == .repSent) fun s =>
    let s := emit s (.cm (qp s q).port (qp s q).half "DREP" q 0)
    qpError s q 0xC)

/-- DREP: the device sends no DREQ, so the answer to one changes no queue pair (R432). -/
def execDrep (q : Nat) (s : State) : Host.Outcome State Fault Refusal := onUnit true (cmFor s q (fun _ => true) fun s => s)

/-- WINDOW_REQ_RETRY: every 100 ms until the window's queue pair is ready (R442). -/
def execWindowReqRetry (win : Nat) (s : State) : Host.Outcome State Fault Refusal :=
  onUnit true
    (match s.image.windows[win]? with
     | none => s
     | some w =>
       if !portTakes s w.port w.half || s.restart.active || (qp s w.qp).st == .ready then s
       else
         let (x, s) := freshQp s .reqSent w.port w.half (some win)
         emit (setQp s w.qp { x with peerIp := w.peerIp }) (.cm w.port w.half "REQ" w.qp x.nextPsn))

/-! ### Address resolution and other frames (R429) -/

/-- ARP, for an IPv4 address of R430. -/
def execArp (n h vlan : Nat) (ip : W32) (s : State) : Host.Outcome State Fault Refusal :=
  onUnit (portOk n && halfOk h)
    (if !portTakes s n h then s
     else if (addrFor s n h vlan (mapped ip)).isSome then emit s (.net n h "ARP_REPLY" ip.toNat)
     else dropFrame s n)

/-- NEIGHBOR_DISCOVERY, for an IPv6 address of R430. -/
def execNeighborDiscovery (n h vlan : Nat) (ip : BitVec 128) (s : State) : Host.Outcome State Fault Refusal :=
  onUnit (portOk n && halfOk h)
    (if !portTakes s n h then s
     else if s.image.addrs.any fun a => a.port == n && a.half == h && a.vlan == vlan && a.v6 == some ip then
       emit s (.net n h "NEIGHBOR_ADVERTISEMENT" ip.toNat)
     else dropFrame s n)

/-- UNMATCHED_FRAME (R429, R430). -/
def execUnmatchedFrame (n h : Nat) (s : State) : Host.Outcome State Fault Refusal :=
  onUnit (portOk n && halfOk h) (if portTakes s n h then dropFrame s n else s)

/-- FEC_UNCORRECTABLE_FRAME (R530). -/
def execFecUncorrectableFrame (n h : Nat) (s : State) : Host.Outcome State Fault Refusal :=
  onUnit (portOk n && halfOk h)
    (if !portTakes s n h then s
     else
       let c := look 0 s.dev.portFec n
       { s with dev := { s.dev with portFec := put 0 s.dev.portFec n (BitVec.ofNat 32 (bump 0xFFFFFFFF c.toNat)) } })

/-! ### Timestamps (R448) -/

/-- A raw counter value as seconds and nanoseconds. -/
def stampOf (t : W64) : Nat × Nat := (t.toNat / secondUnits, t.toNat % secondUnits / 10)

/-- The EUI-64 of a MAC address. (PRESUMED, log 111) -/
def eui64 (mac : Nat) : Nat := mac / 2 ^ 24 * 2 ^ 40 + 0xFFFE * 2 ^ 24 + mac % 2 ^ 24

/-- Port n and its half a use the base address + 2n, half b the next (R508). -/
def clockIdentity (s : State) (n h : Nat) : Nat := eui64 (s.baseMac + 2 * n + if h = 2 then 1 else 0)

def sendStamp (s : State) (m : PtpMsg) (name : String) : State :=
  emit s (.ptp m.port m.half name (clockIdentity s m.port m.half) (stampOf s.portTime).1 (stampOf s.portTime).2)

/-- DELAY_REQ is answered by Delay_Resp with the time of receipt. -/
def execDelayReq (m : PtpMsg) (s : State) : Host.Outcome State Fault Refusal :=
  onUnit m.ok (if portTakes s m.port m.half then sendStamp s m "DELAY_RESP" else s)

/-- PDELAY_REQ is answered in two steps: the time of receipt, then that of the answer. -/
def execPdelayReq (m : PtpMsg) (s : State) : Host.Outcome State Fault Refusal :=
  onUnit m.ok
    (if portTakes s m.port m.half then sendStamp (sendStamp s m "PDELAY_RESP") m "PDELAY_RESP_FOLLOW_UP" else s)

/-! ### State of a port (R428, R441, R449) -/

/-- PT0 and the partitions with an address on the port. -/
def portWatchers (s : State) (n h : Nat) : List Nat :=
  0 :: ((List.range 16).filter fun p => p != 0 && s.image.addrs.any fun a => a.part == p && a.port == n && a.half == h)

/-- The port takes a state: its event, and a pass (R416, R449). -/
def portChange (s : State) (n h st : Nat) : State :=
  let s := modPort s n h fun x => { x with st, paused := 0 }
  let shown := if st = 0 then 0 else if portRate s n h = 800000 then 1 else 2
  let s := postEvents s (portWatchers s n h) (event 10 0 noSlot 0 ([n, h, shown].map (BitVec.ofNat 8)))
  { s with admission := { s.admission with passDue := true } }

/-- PORT_UP: at the full rate of the mode, or a whole port resolved to 400 Gb/s. -/
def execPortUp (n h : Nat) (full : Bool) (s : State) : Host.Outcome State Fault Refusal :=
  onUnit (portOk n && halfOk h)
    (if !alive s || !portNamed s.image n h then s
     else
       let s := portChange s n h (if full || h ≠ 0 then 1 else 2)
       (qpsOn s n h).foldl pumpQp s)

/-- PORT_DOWN: its queue pairs keep their state (R441). -/
def execPortDown (n h : Nat) (s : State) : Host.Outcome State Fault Refusal :=
  onUnit (portOk n && halfOk h) (if !alive s || !portUpNow s n h then s else portChange s n h 0)

end Sys2Proof.Machine
end

