-- ==== Sys2Proof/Machine/Global.lean ====
section
/-! DEFINITION. Global loads and stores, atomic operations, reductions, fences and device-side enqueue as a group issues them:
R257 to R261, R266, R268, R269, R277 of 09, R331 to R345 of 12, R387, R388 of 13. -/

namespace Sys2Proof.Machine
open Sys2Proof.Num

/-- Lanes of a path whose address is not aligned to `size` (R332). -/
def misaligned (addr : Nat → Nat) (size : Nat) (m : W32) : W32 :=
  (lanes m).foldl (fun t l => if addr l % size = 0 then t else t ||| bit32 l) 0

/-! ### LD and ST (R331, R332) -/

def ldFields : List (Nat × Nat) := [(7, 0), (10, 8), (23, 16), (31, 24), (55, 32)]

/-- Checks of LD and ST. -/
def ldFaults (w : W64) (op : Nat) (g : Group) (p : Path) : List (Bool × Nat) :=
  let size := sizeOf w
  [(opcode w != op, 0x21), (reservedBits w ldFields != 0 || decide (4 < bits w 10 8), 0x22),
   (!inGrant g (alignReg size (bits w 23 16)) (regsOf size) || !inGrant g (bits w 31 24) 2, 0x23),
   (misaligned (fun l => threadAddr g l (bits w 31 24) (bits w 55 32)) size p.mask != 0, 0x26)]

def ldMask (w : W64) (g : Group) (p : Path) : W32 :=
  misaligned (fun l => threadAddr g l (bits w 31 24) (bits w 55 32)) (sizeOf w) p.mask

/-- LD. -/
def execLd (g : GRef) (w : W64) (s : State) : Host.Outcome State Fault Refusal :=
  let size := sizeOf w
  let rd := alignReg size (bits w 23 16)
  let gid := gidOf g
  onUnit g.ok (issue s g w (ldFaults w 0x54)
    (fun x _ => fenceFree x && canRead s gid && blocksFree s gid [(rd, regsOf size), (bits w 31 24, 2)])
    (fun x p => doLoads s g x p w ((lanes p.mask).map fun l =>
      { va := threadAddr x l (bits w 31 24) (bits w 55 32), len := size, lane := l, reg := rd }))
    (ldMask w))

/-- ST. -/
def execSt (g : GRef) (w : W64) (s : State) : Host.Outcome State Fault Refusal :=
  let size := sizeOf w
  let rs := alignReg size (bits w 23 16)
  let gid := gidOf g
  onUnit g.ok (issue s g w (ldFaults w 0x55)
    (fun x _ => fenceFree x && canWrite s gid && blocksFree s gid [(rs, regsOf size), (bits w 31 24, 2)])
    (fun x p => doStores s g x p w false ((lanes p.mask).map fun l =>
      { va := threadAddr x l (bits w 31 24) (bits w 55 32), len := size, lane := l, val := readBlock x l rs (regsOf size) }))
    (ldMask w))

/-! ### Updates -/

/-- Codes that stop an update whole, in the order of its references: translation, then targets that never take it. `other`
decides for cluster windows and registers; checks of R26 join when the instruction returns a value (R157, R345). -/
def updateHits (s : State) (cl : Nat) (g : Group) (precise : Bool) (other : Nat → Option Nat) (refs : List Ref) :
    List (Ref × Except Nat Hit) :=
  refs.map fun r => (r, match hitOf s cl g .store r with
    | .error c => .error c
    | .ok h =>
      match h.late with
      | some c => if precise then .error c else .ok h
      | none =>
        match other h.pa with
        | some c => .error c
        | none => .ok h)

def isWindow (s : State) (pa : Nat) : Bool :=
  match target s.variant pa with
  | .window _ _ => true
  | _ => false

/-- Packets of an update: per line, its records cut to payload size, with the pieces that receive old values (R269, R334). A
remote device takes one operation a request (R443). -/
def linePackets (s : State) (hs : List (Hit × CruRecord)) (mk : Nat → Nat → Nat → List CruRecord → CruPacket) (reg : Nat) :
    List (Nat × CruPacket × List Piece × Nat) :=
  let lines := (hs.map fun (h, _) => h.pa / 128).eraseDups
  lines.flatMap fun l =>
    let here := hs.filter fun (h, _) => h.pa / 128 == l
    let attr := (here.head?.map fun (h, _) => h.attr).getD 0
    let va := (here.head?.map fun (h, _) => h.ref.va).getD 0
    let code := (here.findSome? fun (h, _) => h.late).getD 0
    let room := match target s.variant (128 * l) with
      | .remote => 24
      | _ => 216
    (withPieces (here.map fun (h, _) => hitPiece h reg) (cutRecords room (here.map (·.2)) 0 [])).map fun (rs, ps) =>
      (va, mk l attr va rs, ps, code)

/-- Perform the lanes of a rounded operation at a cluster bank, in ascending order (R257, R334). -/
def bankUpdates (s : State) (gid : Nat) (op size : Nat) (rd : Option Nat) (hs : List (Hit × CruRecord)) : State :=
  hs.foldl (fun s (h, r) =>
    match r with
    | .rounded _ _ a b =>
      let (s, old) := bankAtomic s h.pa size op a.toNat b.toNat
      modGroup s gid fun g =>
        let g := match rd with
          | some rd => writeBlock g h.ref.lane rd (size / 4) old
          | none => g
        if casFailed op size old b.toNat then endTurnOf g h.ref.lane else g
    | _ => s) s

/-- Fields of ATOM (R258). -/
def atomFields : List (Nat × Nat) := [(7, 0), (10, 8), (15, 12), (23, 16), (31, 24), (39, 32), (47, 40), (48, 48)]

def atomRegs (w : W64) : List (Nat × Nat) :=
  let size := sizeOf w
  let n := regsOf size
  (if bits w 48 48 = 1 then [] else [(alignReg size (bits w 23 16), n)]) ++ [(bits w 31 24, 2), (alignReg size (bits w 39 32), n)] ++
    (if bits w 15 12 = 7 then [(alignReg size (bits w 47 40), n)] else [])

/-- ATOM (R257 to R259). -/
def execAtom (g : GRef) (w : W64) (s : State) : Host.Outcome State Fault Refusal :=
  let sz := bits w 10 8
  let size := sizeOf w
  let n := regsOf size
  let op := bits w 15 12
  let noRet := bits w 48 48 = 1
  let rd := alignReg size (bits w 23 16)
  let rs := alignReg size (bits w 39 32)
  let rc := alignReg size (bits w 47 40)
  let gid := gidOf g
  let bad := fun (x : Group) (p : Path) => misaligned (fun l => readBlock x l (bits w 31 24) 2) size p.mask
  onUnit g.ok (issue s g w
    (fun x p => [(opcode w != 0x58, 0x21), (reservedBits w atomFields != 0 || (sz != 2 && sz != 3) || decide (9 < op), 0x22),
      ((atomRegs w).any fun (r, k) => !inGrant x r k, 0x23), (bad x p != 0, 0x26)])
    (fun x _ => fenceFree x && (if noRet then canWrite s gid else canRead s gid) && blocksFree s gid (atomRegs w))
    (fun x p =>
      let refs : List Ref := (lanes p.mask).map fun l => { va := readBlock x l (bits w 31 24) 2, len := size, lane := l }
      let l := updateHits s g.cl x (!noRet) (fun pa => (updateTarget s pa).filter (· ≠ 0x65)) refs
      match refFault false l with
      | some (c, va, m) => parkAt s gid p c va w m
      | none =>
        let hs := hitsOf l
        if !segsFree s gid .update hs then notReady s gid
        else
          let rec' := hs.map fun h => (h, CruRecord.rounded (h.pa % 128) size (BitVec.ofNat 64 (readBlock x h.ref.lane rs n))
            (if op = 7 then BitVec.ofNat 64 (readBlock x h.ref.lane rc n) else 0))
          let (near, far) := rec'.partition fun (h, _) => isWindow s h.pa && h.late.isNone
          let s := cacheLeaves (retire s gid x) g.cl hs
          let s := bankUpdates s gid op size (if noRet then none else some rd) near
          sendPackets s gid p.pc w (linePackets s far (fun line attr _ recs =>
            { line, fl := if sz = 2 then 0xA else 0xF, op, ret := !noRet, task := x.task, attr, part := x.part, recs }) rd))
    bad)

/-- Does the close round under RM (R70, R79, R267)? -/
def redRounds (form : RedForm) (fl : BitVec 4) : Bool :=
  match form with
  | .ledger => fl != 0xA#4
  | .pair => fl != 0xE#4
  | _ => false

def redFields : List (Nat × Nat) := [(7, 0), (11, 8), (15, 12), (19, 16), (22, 20), (23, 23), (31, 24), (39, 32), (47, 40), (48, 48)]

/-- RED (R257, R258, R260, R266). -/
def execRed (g : GRef) (w : W64) (s : State) : Host.Outcome State Fault Refusal :=
  let fl := BitVec.ofNat 4 (bits w 11 8)
  let fs := BitVec.ofNat 4 (bits w 19 16)
  let op := bits w 15 12
  let rm := bits w 22 20
  let form := redForm op fs fl
  let n := Nat.max 1 (elemBits fs / 32)
  let rs := bits w 31 24 / n * n
  let ra := bits w 39 32
  let rb := bits w 47 40
  let size := elemBits fl / 8
  let rsr := rm = 4 && redRounds form fl
  let regs := [(rs, n), (ra, 2)] ++ (if rsr then [(rb, 6)] else [])
  let gid := gidOf g
  let bad := fun (x : Group) (p : Path) => if size = 0 then 0 else misaligned (fun l => readBlock x l ra 2) size p.mask
  onUnit g.ok (issue s g w
    (fun x p => [(opcode w != 0x59, 0x21), (reservedBits w redFields != 0, 0x22), (regs.any fun (r, k) => !inGrant x r k, 0x23),
      (bad x p != 0, 0x26)] ++ formatFaults s [(fl, false), (fs, false)] ++
      [(redRounds form fl && badMode rm, 0x64), (form == .illegal, 0x65)])
    (fun x _ => fenceFree x && canWrite s gid && blocksFree s gid regs)
    (fun x p =>
      let refs : List Ref := (lanes p.mask).map fun l => { va := readBlock x l ra 2, len := size, lane := l }
      let l := updateHits s g.cl x false (fun pa => (updateTarget s pa).filter fun c =>
        !(c == 0x65 && form == .rounded && fs == 0xA#4)) refs
      match refFault false l with
      | some (c, va, m) => parkAt s gid p c va w m
      | none =>
        let hs := hitsOf l
        if !segsFree s gid .update hs then notReady s gid
        else
          let b := rsrBlock x rb
          let recs := hs.map fun h => (h, redRecord form fs fl (h.pa % 128) (readBlock x h.ref.lane rs n % 2 ^ elemBits fs))
          let (near, far) := recs.partition fun (h, _) => isWindow s h.pa && h.late.isNone
          let s := cacheLeaves (retire s gid x) g.cl hs
          let s := bankUpdates s gid op size none near
          sendPackets s gid p.pc w (linePackets s far (fun line attr va recs =>
            { line, fl, op, rm := BitVec.ofNat 3 rm, sat := bits w 23 23 = 1, ho := bits w 48 48 = 1,
              -- the block's base counts from the first element of the line (DEDUCED, log 18)
              rsr := if rsr then some (b.seed, b.base + BitVec.ofNat 64 (va / 128 * 128 / size), b.stream) else none,
              task := x.task, attr, part := x.part, recs }) 0))
    bad)

/-- CRU.CLOSE (R257, R258, R261): one close for each line; no effect on a cluster window. (DEDUCED, log 37) -/
def execCruClose (g : GRef) (w : W64) (s : State) : Host.Outcome State Fault Refusal :=
  let ra := bits w 39 32
  let gid := gidOf g
  onUnit g.ok (issue s g w (fun x _ => wordFaults x w 0x5A [(39, 32)] [(ra, 2)] none)
    (fun x _ => fenceFree x && canWrite s gid && blocksFree s gid [(ra, 2)])
    fun x p =>
      let refs : List Ref := (lanes p.mask).map fun l => { va := readBlock x l ra 2, len := 1, lane := l }
      let l := updateHits s g.cl x false (fun pa => (updateTarget s pa).filter (· ≠ 0x65)) refs
      match refFault false l with
      | some (c, va, m) => parkAt s gid p c va w m
      | none =>
        let hs := hitsOf l
        let far := hs.filter fun h => !(isWindow s h.pa && h.late.isNone)
        let s := cacheLeaves (retire s gid x) g.cl hs
        sendPackets s gid p.pc w ((linesOf far).map fun line =>
          let here := far.filter fun h => h.pa / 128 == line
          ((here.head?.map (·.ref.va)).getD 0, closePacket line x.task x.part true, here.map fun h => hitPiece h 0,
            (here.findSome? (·.late)).getD 0)))

/-! ### Fences (R331, R340) -/

/-- Checks of FENCE; the kind must be the command's. -/
def fenceFaults (w : W64) (kind : Nat) (g : Group) : List (Bool × Nat) :=
  (opcode w != 0x5C || bits w 10 10 != kind, 0x21) :: wordFaults g w 0x5C [(9, 8), (10, 10)] [] none

/-- FENCE with KIND REL. -/
def execFenceRel (g : GRef) (w : W64) (s : State) : Host.Outcome State Fault Refusal :=
  let gid := gidOf g
  onUnit g.ok (issue s g w (fun x _ => fenceFaults w 1 x) (fun x _ => fenceFree x)
    fun x _ => startFence (retire s gid x) gid true (bits w 9 8) false)

/-- FENCE with KIND ACQ. -/
def execFenceAcq (g : GRef) (w : W64) (s : State) : Host.Outcome State Fault Refusal :=
  let gid := gidOf g
  onUnit g.ok (issue s g w (fun x _ => fenceFaults w 0 x) (fun x _ => fenceFree x)
    fun x _ => startFence (retire s gid x) gid false (bits w 9 8) false)

/-- The group's fence completes, if nothing it awaits is outstanding (R342 to R345). -/
def execFenceComplete (g : GRef) (s : State) : Host.Outcome State Fault Refusal :=
  onUnit g.ok (completeFence s (gidOf g))

/-! ### ENQ (R387, R388) -/

/-- ENQ: the record of thread 0 travels to the front end; RD waits for the status in every lane. -/
def execEnq (g : GRef) (w : W64) (s : State) : Host.Outcome State Fault Refusal :=
  let rs := bits w 15 8
  let rd := bits w 23 16
  let gid := gidOf g
  onUnit g.ok (issue s g w
    (fun x _ => wordFaults x w 0x5E [(15, 8), (23, 16), (32, 24)] [(rs, 16), (rd, 1)] none ++ [(rs % 16 != 0, 0x26)])
    (fun _ _ => canRead s gid && blocksFree s gid [(rs, 16), (rd, 1)])
    fun x p =>
      let t := s.nextTag
      let rec' := readBlock x 0 rs 16
      let s := retire s gid x
      let a : Access := { tag := t, instr := t, gid, kind := .atomRet, line := 0, attr := 0, va := 0, pc := p.pc, word := w,
                          pieces := (List.range 32).map fun l => { off := 0, len := 4, lane := l, reg := rd } }
      emit { s with accs := s.accs ++ [a], nextTag := t + 1 } (.cohData "ENQ_REC" (bits w 32 24) t (BitVec.ofNat 1024 rec') 0 0 0))

end Sys2Proof.Machine
end

