-- ==== Sys2Proof/Machine/Packets.lean ====
section
/-! DEFINITION. The commands of the crushers: the packets of R268 and R269 as they reach a crusher agent, the closes, the
acknowledgements and the bring-back of spilled lines (R262 to R281, R443). -/

namespace Sys2Proof.Machine

/-! ### Checks of a packet -/

/-- Does the packet reach the crusher of its home slice (R221, R268)? -/
def reaches (s : State) (sid line : Nat) : Bool := homeSlice s.variant (128 * line) == some sid

def isRemoteLine (s : State) (line : Nat) : Bool :=
  match target s.variant (128 * line) with
  | .remote => true
  | _ => false

/-- A ledger record whose limbs pass the top of V (R269). -/
def badRecord : CruRecord → Bool
  | .ledger _ l limbs _ _ _ _ _ => decide (10 < l + limbs.length)
  | _ => false

def recsOk (f : CruRecord → Bool) (k : CruPacket) : Bool := !k.recs.isEmpty && k.recs.all f

/-- A packet that breaks the rules of R269 is a protocol error of its sender: a record passes the top of V, or the payload 256 B. -/
def badPacket (k : CruPacket) : Bool := k.recs.any badRecord || decide (256 < payloadBytes k)

def isPairRec : CruRecord → Bool
  | .pair .. => true
  | _ => false

/-- Something waits for the line to be brought back (R273). -/
def awaitsBack (l : OpenLine) : Bool := l.spilled && (l.closing || !l.waiting.isEmpty)

/-- A packet waits at a spilled line until the line is back (R273). -/
def waitSpilled (s : State) (sid : Nat) (k : CruPacket) : State :=
  let now := (die s (sid / 16)).time.toNat
  modCrusher s sid fun c =>
    { c with lines := modWhere (fun l => l.line == k.line) (fun l => { l with waiting := l.waiting ++ [k], since := if awaitsBack l then l.since else now }) c.lines }

/-- A packet meets the line's state at its home: open, spilled, or to be owned first (R263, R273, R274). -/
def admitUpdate (s : State) (sid : Nat) (k : CruPacket) : State :=
  match openAt (crusher s sid) k.line with
  | some l => if l.spilled then waitSpilled s sid k else applyUpdate s sid k
  | none => homeArrive s sid k.line (.update k)

/-- An ADD in ledger or pair form: the declared ranges are checked before any collision rule (R271). -/
def addPacket (s : State) (sid : Nat) (k : CruPacket) : State :=
  if isRemoteLine s k.line then windowUpdate s k
  else if !declared (crusher s sid) k.task k.line k.fl then ackUpdate s k 0x55
  else admitUpdate s sid k

/-- LEDGER_RECORDS (R264, R269, R271, R274). (DESIGN CHOICE, log 15) -/
def execLedgerRecords (sid : Nat) (k : CruPacket) (s : State) : Host.Outcome State Fault Refusal :=
  onUnit (sliceOk sid)
    (if !reaches s sid k.line || !recsOk isLedgerRec k then s
     -- the loss of the domain (R269, R301)
     else if badPacket k then raiseFatal s 6 0
     else addPacket s sid k)

/-- PAIR_RECORDS (R264, R269, R271, R274). -/
def execPairRecords (sid : Nat) (k : CruPacket) (s : State) : Host.Outcome State Fault Refusal :=
  onUnit (sliceOk sid)
    (if !reaches s sid k.line || !recsOk isPairRec k then s
     else if badPacket k then raiseFatal s 6 0
     else addPacket s sid k)

/-- ROUNDED_UPDATE (R259, R260, R274, R443). -/
def execRoundedUpdate (sid : Nat) (k : CruPacket) (s : State) : Host.Outcome State Fault Refusal :=
  onUnit (sliceOk sid)
    (if !reaches s sid k.line || !recsOk isRoundedRec k then s
     else if badPacket k then raiseFatal s 6 0
     else if isRemoteLine s k.line then windowUpdate s k
     else admitUpdate s sid k)

/-! ### Closes (R267, R274, R278, R279) -/

/-- CLOSE_LINE: the close of a fence or of CRU.CLOSE, named by the tag of its sender's transaction. It takes its turn behind what
waits for the line (R277). -/
def execCloseLine (sid line tag : Nat) (s : State) : Host.Outcome State Fault Refusal :=
  onUnit (sliceOk sid)
    (if !reaches s sid line then s
     else
       match (accessOf s tag).bind (·.update) with
       | none => s
       | some k =>
         if !isClose k || k.line ≠ line then s
         else if isRemoteLine s line then emit s (.cruAck tag 0x9F)
         else wake (admitUpdate s sid k) sid)

/-- The crusher has closed every line of the task: its acknowledgement reaches the front end, and its ranges go (R279, R271). -/
def closedTask (s : State) (sid tag : Nat) : State :=
  let s := modCrusher s sid fun c => { c with closing := c.closing.filter (· ≠ tag), ranges := c.ranges.filter fun r => r.task ≠ tag }
  closeAcked s sid tag

/-- Close the resident lines of a task whose CLOSE-TASK has arrived; with the last of its lines the crusher acknowledges (R279). -/
def closeLines (s : State) (sid tag : Nat) : State :=
  let mine := (crusher s sid).lines.filter fun l => l.task == tag
  let s := mine.foldl (fun s l => if l.spilled then s else closeOpen s sid l.line) s
  if (crusher s sid).lines.any fun l => l.task == tag then s else closedTask s sid tag

/-- CLOSE_TASK: every resident line of the task closes; the spilled ones close as they are brought back (R279). -/
def execCloseTask (sid tag : Nat) (s : State) : Host.Outcome State Fault Refusal :=
  onUnit (sliceOk sid)
    (if !((taskOf s tag).map fun t => t.closes.contains sid).getD false then s
     else
       let now := (die s (sid / 16)).time.toNat
       let arrive := fun (c : Crusher) => { c with closing := if c.closing.contains tag then c.closing else c.closing ++ [tag],
                                                   lines := modWhere (fun l => l.task == tag) (fun l => { l with closing := true, since := if awaitsBack l then l.since else now }) c.lines }
       wake (closeLines (modCrusher s sid arrive) sid tag) sid)

/-! ### Acknowledgements (R277) -/

/-- Codes of the reserved classes 0xB to 0xE are issued by no agent (R18). -/
def isIssued (status : Byte) : Bool := decide (status.toNat / 16 < 0xB) || decide (status.toNat / 16 = 0xF)

/-- CRUSHER_ACK: the update is performed, or refused with the code: its group is parked, or the task of an engine fails (R271, R277,
R345). -/
def execCrusherAck (tag : Nat) (status : Byte) (s : State) : Host.Outcome State Fault Refusal :=
  onUnit true
    (match accessOf s tag with
     | none => s
     | some a =>
       if a.update.isNone || !isIssued status then s
       else if isEngine a.gid then engineAnswer s a status.toNat none
       else if status = 0 then dropAccess s tag
       else failAccess s tag status.toNat)

/-! ### Bring-back (R273) -/

/-- LINE_BRING_BACK: the cells return bit-identical, another line spilling if it must; what waited is then done in order, and a line
whose task is closing closes. -/
def execLineBringBack (sid line : Nat) (s : State) : Host.Outcome State Fault Refusal :=
  onUnit (sliceOk sid)
    (let s := wake (backLine s sid line) sid
     (crusher s sid).closing.foldl (fun s t => closeLines s sid t) s)

end Sys2Proof.Machine
end

