-- ==== Sys2Proof/Machine/Schedule.lean ====
section
/-! DEFINITION. Starting, placing, slicing, saving and ending the tasks of launches: R371 to R376, R379, R386 of 13 and R402 to R425
of 14. -/

namespace Sys2Proof.Machine
open Sys2Proof.Num

/-- IOD time in 10 ns ticks, and steps at the paced floor in a tick (R407, R408). -/
def iodNow (s : State) : Nat := (die s 8).time.toNat
def stepsPerTick : Nat := 20

/-- The front end starts tasks (R302, R534, R545). -/
def mayStart (s : State) : Bool := !s.restart.fatal && !s.restart.active && (s.dev.st == 1 || s.dev.st == 2)

/-! ### Rank (R409) -/

/-- Rank of a launch's tasks: the index of its deadline reservation, best effort last. -/
def rankOf (s : State) (l : Launch) : Nat := ((launchResv s l).map (·.1)).getD 1000

def taskRank (s : State) (t : Task) : Nat := ((launchOf s t.launch).map (rankOf s)).getD 1000

/-- Key of R409: rank, acceptance order, node. -/
def orderKey (s : State) (t : Task) : Nat × Nat × Nat :=
  match launchOf s t.launch with
  | some l => (rankOf s l, l.order, t.node)
  | none => (1000, 0, t.node)

def keyLt (a b : Nat × Nat × Nat) : Bool :=
  decide (a.1 < b.1) || (a.1 == b.1 && (decide (a.2.1 < b.2.1) || (a.2.1 == b.2.1 && decide (a.2.2 < b.2.2))))

/-! ### Start of a launch (R371, R374, R375, R407) -/

/-- Key of a launch's context: partition and number. -/
def ctxKey (l : Launch) : Nat := 0x10000 * l.part + l.ctx

/-- IOD time from which a launch may start: its acceptance, and P after the first task of the previous launch (R407). -/
def releaseTime (s : State) (l : Launch) : Nat :=
  match launchResv s l with
  | none => l.acceptTime.toNat
  | some (_, r) =>
    match look 0 s.admission.lastStart (ctxKey l) with
    | 0 => l.acceptTime.toNat
    | t + 1 => Nat.max l.acceptTime.toNat (t + (r.p + stepsPerTick - 1) / stepsPerTick)

/-- Earlier launches that a launch must let start, or complete, before it (R371, R407). -/
def earlierBlock (s : State) (l : Launch) : Bool :=
  s.launches.any fun e => e.part == l.part && decide (e.order < l.order) &&
    ((e.q == l.q && !e.started) || ((launchResv s l).isSome && e.ctx == l.ctx))

/-- A free constant slot of the launch's context. -/
def constSlotFor (s : State) (l : Launch) : Option Nat :=
  (ctxOf s l.part l.ctx).bind fun c => (List.range c.constSlots).find? fun n => !c.slotsUsed.contains n

/-- Its command's fence bits are met, and its queue is not held (R371, R360). -/
def launchFences (s : State) (l : Launch) : Bool :=
  let x := queue s l.part l.q
  !isHeld s x && (match findCmd x l.seq with
    | some c => fencesMet x c
    | none => true)

/-- Bytes 0 to 1,023 of the constant slot (R375). -/
def constHead (l : Launch) : List Byte :=
  leBytes 4 l.handle ++ leBytes 4 l.version ++ leBytes 4 l.seq.toNat ++ leBytes 4 l.step.toNat ++ leBytes 2 l.args.length
    ++ slice [] 0 6 ++ slice l.args 0 1000

/-- Physical base of a launch's constant slot. -/
def constBaseOf (s : State) (l : Launch) : Nat :=
  ((ctxOf s l.part l.ctx).map fun c => c.constBase + 4096 * l.constSlot.getD 0).getD 0

/-- May the launch start now? -/
def launchReady (s : State) (l : Launch) : Bool :=
  !earlierBlock s l && launchFences s l && decide (releaseTime s l ≤ iodNow s) && (constSlotFor s l).isSome

/-- The launch starts: its slot is written, its partition's remote copies go (R251, R374, R375). -/
def startLaunch (s : State) (l : Launch) : State :=
  match constSlotFor s l with
  | none => s
  | some n =>
    let s := accountShared s
    let s := setCtx s l.part l.ctx ((ctxOf s l.part l.ctx).map fun c => { c with slotsUsed := c.slotsUsed ++ [n] })
    let l' := { l with constSlot := some n, started := true, startTime := (die s 8).time }
    let s := modLaunch s l.id fun _ => l'
    -- the entry may be revoked now and admitted when the next launch of the context starts
    let s := if (deadlineEntry s l.part l.ctx).isSome then
        { s with admission := { s.admission with lastStart := put 0 s.admission.lastStart (ctxKey l) (iodNow s + 1) } }
      else s
    let s := agentWrite s l.part (constBaseOf s l') (constHead l')
    let s := (List.range 16).foldl (fun s k => dropCopies s l.part (128 + k)) s
    (revokedNow s).foldl markLaunches s

/-! ### Nodes -/

/-- Predecessors of a node. -/
def preds (d : List Byte) (i : Nat) : List Nat := ((edgesOf d).filter fun (_, v) => v == i).map (·.1)

def nodeState (l : Launch) (i : Nat) : NodeState := look .idle l.nodes i

def predsDone (d : List Byte) (l : Launch) (i : Nat) : Bool := (preds d i).all fun u => nodeState l u == .done

/-- Index of a node among the graph's gang nodes, for its team table (R375). -/
def gangIndex (d : List Byte) (i : Nat) : Nat :=
  ((List.range i).filter fun j => nKind (gNode d j) == 0 && nGang (gNode d j)).length

/-- A task of a node with what it holds before it starts: pins, ranges, constant blocks (R386). (DESIGN CHOICE, log 4) -/
def makeTask (s : State) (l : Launch) (node : Nat) : State × Task :=
  let d := launchDescr s l
  let n := gNode d node
  let t : Task := { tag := s.nextTask, launch := l.id, node, part := l.part, ctx := l.ctx, kind := nKind n,
                    teams := if nKind n = 0 then nTeams n else 0, pinned := true }
  let s := { s with tasks := s.tasks ++ [t], nextTask := s.nextTask + 1 }
  let (s, left) := pinAll (nodePins s d n) s
  let t := { t with pinLeft := left }
  let s := modTask s t.tag fun _ => t
  let at' := look 0 ((graphOf s l.part l.handle).map (·.spillAt)).toList.flatten l.version
  let s := loadRanges s (rangesOf d n t.tag (areaBase d at' l.area node))
  (if nKind n = 0 then fetchConsts s n else s, t)

/-- The pins of a task that is about to start: those that had to wait are tried again, and so are the fetches of lines that are not
there. The task starts once all are established (R246). -/
def settlePins (s : State) (t : Task) : State × Bool :=
  let (s, left) := pinAll t.pinLeft s
  let s := modTask s t.tag fun x => { x with pinLeft := left }
  let ps := ((taskOf s t.tag).map (taskPins s)).getD []
  let s := ps.foldl (fun s (l, i) => fetchPin s l i) s
  (s, left.isEmpty && ps.all fun (l, i) => pinThere s l i)

def taskAt (s : State) (l : Launch) (node : Nat) : Option Task := s.tasks.find? fun t => t.launch == l.id && t.node == node

/-- PRELOAD (R386): at most two tasks a partition; it never changes a result. -/
def execPreload (launch node : Nat) (s : State) : Host.Outcome State Fault Refusal :=
  onUnit true
    (match launchOf s launch with
     | none => s
     | some l =>
       let d := launchDescr s l
       let mine := s.tasks.filter fun t => t.part == l.part && t.st == .preloaded
       if !mayStart s || l.failed ≠ 0 || gNodes d ≤ node || nodeState l node ≠ .idle || !predsDone d l node
           || (taskAt s l node).isSome || 2 ≤ mine.length then s
       else emit (makeTask s l node).1 (.front "PRELOAD" s.nextTask node))

/-! ### Placement (R410, R411) -/

/-- Clusters where a team of a node fits now, lowest first. -/
def fittingClusters (s : State) (l : Launch) (n : List Byte) : List Nat :=
  (allClusters s.variant).filter fun c => eligible s l n c && (teamRoom s l (claimsOf n) c).isSome

/-- Teams that a task has still to place. -/
def unplaced (t : Task) : Nat := t.teams - t.startedTeams.length

/-- A gang waits for its place on the cluster: no other team takes it (R376). -/
def gangWaits (s : State) (cl tag : Nat) : Bool :=
  s.tasks.any fun t => t.tag != tag && t.plan.any fun (team, c) => c == cl && !t.startedTeams.contains team

/-- A gang's teams placed one after the other on a copy of the state; the clusters they take, or `none` (R376). -/
def planGang (l : Launch) (t : Task) (n : List Byte) : List Nat → State → List (Nat × Nat) → Option (List (Nat × Nat))
  | [], _, acc => some acc
  | team :: rest, s, acc =>
    match (fittingClusters s l n).find? fun c => !gangWaits s c t.tag with
    | none => none
    | some c =>
      match teamRoom s l (claimsOf n) c with
      | none => none
      | some (core, base) => planGang l t n rest (placeTeam s l t n c team core base) (acc ++ [(team, c)])

/-- The task to pre-empt on a cluster for work of a rank: the lowest-ranked there, the most recently started first (R411). -/
def victimOn (s : State) (cl rank : Nat) : Option Task :=
  let here := s.tasks.filter fun t => ((cluster s cl).teams.any fun x => x.task == t.tag) && decide (rank < taskRank s t)
  here.foldl (fun best t => match best with
    | none => some t
    | some b =>
      if decide (taskRank s b < taskRank s t) || (taskRank s b == taskRank s t && decide (b.startTime.toNat ≤ t.startTime.toNat)) then some t
      else some b) none

/-- Ask clusters to save the tasks that hold what a task of a rank needs (R411). -/
def askPreempt (s : State) (rank : Nat) (cls : List Nat) : State :=
  match cls.findSome? fun c => (victimOn s c rank).map fun t => (t, c) with
  | some (t, c) => emit s (.front "PREEMPT" t.tag c)
  | none => s

/-- Write a gang node's team table (R375). -/
def writeTable (s : State) (l : Launch) (d : List Byte) (node : Nat) (plan : List (Nat × Nat)) : State :=
  let entry := fun (t : Nat) => ((plan.find? fun (k, _) => k == t).map (·.2)).getD 0
  agentWrite s l.part (constBaseOf s l + 1024 + 1024 * gangIndex d node) ((List.range 512).flatMap fun t => leBytes 2 (entry t))

/-- The node's task runs from now on. -/
def runTask (s : State) (l : Launch) (t : Task) (plan : List (Nat × Nat)) : State :=
  let s := modTask s t.tag fun t => { t with st := .running, startTime := (die s 8).time, waitSince := (die s 8).time, plan }
  modLaunch s l.id fun l => { l with nodes := put .idle l.nodes t.node (.running t.tag) }

/-- A ready node of a started launch. -/
def startNode (s : State) (l : Launch) (node : Nat) : State :=
  let d := launchDescr s l
  let n := gNode d node
  if nKind n = 0 && nodeFault s l.part (clusterServes s) n ≠ 0 then
    settleLaunch (modLaunch s l.id fun l => { l with failed := 0x5C }) l.id
  else
    let (s', t) := match taskAt s l node with
      | some t => (s, t)
      | none => makeTask s l node
    let (s', pinned) := settlePins s' t
    if !pinned then s'
    else if nKind n = 0 && nGang n then
      match planGang l t n (List.range (nTeams n)) s' [] with
      | none => askPreempt s' (rankOf s l) ((allClusters s.variant).filter (eligible s l n))
      | some plan =>
        let s := beginSlice (runTask (writeTable s' l d node plan) l t plan) l.part l.ctx
        plan.foldl (fun s (_, c) => emit s (.front "TEAM_START" t.tag c)) s
    else if nKind n = 0 then
      let s := beginSlice (runTask s' l t []) l.part l.ctx
      if (fittingClusters s l n).isEmpty then askPreempt s (rankOf s l) ((allClusters s.variant).filter (eligible s l n)) else s
    else
      let s := runTask s' l t []
      if nKind n = 2 && nScope n = 1 then modLaunch s l.id fun l => { l with scopeOne := true } else s

/-- NODE_START: the launch starts with its first node; a node starts once its predecessors have completed (R371, R372, R407, R410). -/
def execNodeStart (launch node : Nat) (s : State) : Host.Outcome State Fault Refusal :=
  onUnit true
    (match launchOf s launch with
     | none => s
     | some l =>
       let d := launchDescr s l
       if !mayStart s || l.failed ≠ 0 || gNodes d ≤ node || nodeState l node ≠ .idle || !predsDone d l node then s
       else if !l.started then
         (if !launchReady s l then s
          else
            let s := startLaunch s l
            startNode s ((launchOf s launch).getD l) node)
       else if isHeld s (queue s l.part l.q) then s
       else startNode s l node)

/-- Another task comes first for the cluster in the order of R409. -/
def goesFirst (s : State) (t : Task) (cl : Nat) : Bool :=
  s.tasks.any fun e => e.tag != t.tag && e.part == t.part && e.kind == 0 && e.st == .running && e.plan.isEmpty && unplaced e != 0
    && keyLt (orderKey s e) (orderKey s t)
    && (match launchOf s e.launch with
        | none => false
        | some l => let n := launchNode s l e.node; eligible s l n cl && (teamRoom s l (claimsOf n) cl).isSome)

/-- TEAM_START: the cluster places and starts a team; without room a lower-ranked task is asked to make it (R376, R410, R411). -/
def execTeamStart (task cl team : Nat) (s : State) : Host.Outcome State Fault Refusal :=
  onUnit (clusterOk cl)
    (match taskOf s task with
     | none => s
     | some t =>
       match launchOf s t.launch with
       | none => s
       | some l =>
         let n := launchNode s l t.node
         let gang := !t.plan.isEmpty
         if !mayStart s || t.kind ≠ 0 || t.st ≠ .running || t.teams ≤ team || t.startedTeams.contains team || !eligible s l n cl
             || (gang && !t.plan.contains (team, cl)) || (!gang && (gangWaits s cl task || goesFirst s t cl)) then s
         else
           match teamRoom s l (claimsOf n) cl with
           | none => askPreempt s (rankOf s l) [cl]
           | some (core, base) =>
             let s := placeTeam s l t n cl team core base
             if gang && (taskOf s task).map unplaced == some 0 then releaseGang (modTask s task fun t => { t with plan := [] }) task else s)

/-! ### Ends (R136, R191, R279, R348) -/

/-- Every thread of the group has exited, its exit fence has completed and nothing of it is outstanding. -/
def groupOver (s : State) (gid : Nat) : Bool :=
  match group s gid with
  | none => true
  | some g => g.paths.isEmpty && g.fence.isNone && g.park.isNone && !(s.accs.any fun a => a.gid == gid)

/-- TEAM_DONE: a team's arrival; its slots and its local store are free, and the last arrival sends CLOSE-TASK. -/
def execTeamDone (task team : Nat) (s : State) : Host.Outcome State Fault Refusal :=
  onUnit true
    (match taskOf s task with
     | none => s
     | some t =>
       match t.placed.find? fun (k, _) => k == team with
       | none => s
       | some (_, cl) =>
         match (cluster s cl).teams.find? fun x => x.task == task && x.team == team with
         | none => s
         | some x =>
           let gids := teamGids cl x
           if t.st ≠ .running || t.arrived.contains team || !gids.all (groupOver s) then s
           else
             let s := gids.foldl (fun s g => setGroup s g none) s
             let s := returnL (modCluster s cl fun c => { c with teams := c.teams.filter (· != x) }) cl
             let s := modTask s task fun t => { t with arrived := t.arrived ++ [team], placed := t.placed.filter fun (k, _) => k ≠ team }
             if ((taskOf s task).map fun t => t.arrived.length == t.teams).getD false then closeTask s task else s)

/-! ### Waits on the host and on peers (R379, R447) -/

/-- The value of a host-sync node: its field, with the batch step number where bit 0 asks for it, modulo 2^64. (DEDUCED, log 52) -/
def syncValue (l : Launch) (n : List Byte) : Nat := (nValue n + (if nAddStep n then l.step.toNat else 0)) % 2 ^ 64

/-- The wait has ended: its time is not metered (R407, R408). -/
def endSync (s : State) (l : Launch) (t : Task) : State :=
  taskDone (modLaunch s l.id fun l => { l with excluded := l.excluded + (iodNow s - t.startTime.toNat) }) t.tag

/-- Does the word end the wait (unsigned comparison)? -/
def syncMet (n : List Byte) (word value : Nat) : Bool := if nMode n = 0 then decide (value ≤ word) else word == value

/-- A word in a remote-device window: it is fetched and compared when it has arrived; a write is flushed before the task ends. -/
def pollRemote (s : State) (l : Launch) (t : Task) (n : List Byte) : State :=
  let a := nBase n
  let v := syncValue l n
  if t.fault ≠ 0 then taskDone s t.tag
  else if engineBusy s t.tag then s
  else if nMode n = 2 then
    (if !t.windows.isEmpty then flushWindows s t.tag
     else if !t.inbox.isEmpty then endSync s l t
     else engineWrite (modTask s t.tag fun t => { t with inbox := [(0, 0)] }) t (a / 128)
       (BitVec.ofNat 128 (255 * 2 ^ (a % 128))) (BitVec.ofNat 1024 (v * 2 ^ (8 * (a % 128)))))
  else
    match t.inbox with
    | (_, d) :: _ =>
      if syncMet n (fieldAt (lineBytes d) (a % 128) 8) v then endSync s l t
      else engineFetch (modTask s t.tag fun t => { t with inbox := [] }) t.tag t.part (a / 128)
    | [] => engineFetch s t.tag t.part (a / 128)

/-- HOST_SYNC_POLL: the word is compared, or written in mode 2; an access that fails ends the task with its code. -/
def execHostSyncPoll (task : Nat) (s : State) : Host.Outcome State Fault Refusal :=
  onUnit true
    (match taskOf s task with
     | none => s
     | some t =>
       match launchOf s t.launch with
       | none => s
       | some l =>
         let n := launchNode s l t.node
         let a := nBase n
         let write := nMode n == 2
         if t.kind ≠ 3 || t.st ≠ .running || s.restart.active then s
         else
           match accessCheck s t.part a write (regShape a 8) with
           | some c => taskDone (failTask s task c) task
           | none =>
             if isRemote s a then pollRemote s l t n
             else if write then endSync (writeAny s a (leBytes 8 (syncValue l n)) 0) l t
             else
               let o := poisonAny s a 8
               if o ≠ 0 then taskDone (failTask s task o.toNat) task
               else
                 let met := syncMet n (leNat (readAny s a 8)) (syncValue l n)
                 let s := agentReads s a 8 0 true
                 if met then endSync s l t else s)

/-- CONTROL_SEGMENT_POLL: an "aborted" segment fails the collective with 0x9D, whatever else has arrived (R447). -/
def execControlSegmentPoll (task : Nat) (aborted arrived : Bool) (s : State) : Host.Outcome State Fault Refusal :=
  onUnit true
    (match taskOf s task with
     | none => s
     | some t =>
       let scope := ((launchOf s t.launch).map fun l => nScope (launchNode s l t.node)).getD 0
       if t.kind ≠ 2 || scope ≠ 1 || t.st ≠ .running || t.fault ≠ 0 then s
       else if aborted then failTask s task 0x9D
       else if arrived then emit s (.front "COLL_PROCEED" task t.part)
       else s)

/-! ### Time slices, budgets, passes (R402, R408, R412, R413) -/

/-- Run time of a launch in IOD ticks without the time R408 leaves out. (DEDUCED, log 53) -/
def metered (s : State) (l : Launch) : Nat :=
  let waits := (s.tasks.filter fun t => t.launch == l.id && t.kind == 3 && t.st == .running).map fun t => iodNow s - t.startTime.toNat
  iodNow s - l.startTime.toNat - l.excluded - waits.foldl Nat.max 0

/-- BUDGET_OVERRUN (R408): past C + S the launch ranks as best effort, and the event of type 9 is posted (R426). -/
def execBudgetOverrun (launch : Nat) (s : State) : Host.Outcome State Fault Refusal :=
  onUnit true
    (match launchOf s launch with
     | none => s
     | some l =>
       match launchResv s l with
       | none => s
       | some (i, r) =>
         let steps := stepsPerTick * metered s l
         if !l.started || steps ≤ r.c + saveBound then s
         else
           let s := modLaunch s launch fun l => { l with demoted := true }
           postEvent s l.part (event 9 0 l.q l.seq ([BitVec.ofNat 8 i, 0, 0, 0] ++ leBytes 4 l.seq.toNat ++ leBytes 8 steps)))

/-- ADMISSION_PASS (R402, R416): there is none before full service (R519). (DEDUCED, log 77) -/
def execAdmissionPass (s : State) : Host.Outcome State Fault Refusal :=
  onUnit true (if s.dev.st = 2 && !s.restart.active then runPass s false else s)

/-- A task that waits for placement. -/
def waiting (t : Task) : Bool := t.kind == 0 && ((t.st == .running && unplaced t != 0) || t.st == .preempted)

/-- Contexts of a partition whose tasks hold clusters, with the start of their slices, of one rank. -/
def slicesOfRank (s : State) (p rank : Nat) : List (Nat × Nat) :=
  (part s p).slices.filter fun (c, _) =>
    s.tasks.any fun t => t.part == p && t.ctx == c && !t.placed.isEmpty && taskRank s t == rank

/-- Ticks of the slice of a context: Q, less the overrun of the one before (R412, R413). -/
def sliceTicks (s : State) (p ctx : Nat) : Nat := 10000 * (partCfg s p).slice - Nat.min 600 (look 0 (part s p).overruns ctx)

/-- More snapshot slots of a cluster are free than deadline reservations overlap it (R414). -/
def slotsAllow (s : State) (cl : Nat) : Bool :=
  let free := ((List.range 4).filter fun n => !snapUsed (cluster s cl) n).length
  decide (((resvsAt s s.admission.admitted).filter fun r => isDeadline r && r.mask.getLsbD cl).length < free)

/-- Tasks that have waited their slice for placement beside a context of their rank (R412). -/
def waitersFor (s : State) (p ctx rank : Nat) : List Task :=
  s.tasks.filter fun t => t.part == p && t.ctx != ctx && waiting t && taskRank s t == rank
    && decide (t.waitSince.toNat + 10000 * (partCfg s p).slice ≤ iodNow s)

/-- The slice of a context ends: its tasks on the clusters that the waiting tasks need are to be saved. -/
def endSlice (s : State) (p ctx : Nat) (ws : List Task) : State :=
  let needs := fun (c : Nat) => ws.any fun w => ((launchOf s w.launch).map fun l => eligible s l (launchNode s l w.node) c).getD false
  let held := (s.tasks.filter fun t => t.part == p && t.ctx == ctx).flatMap fun t => (t.placed.map (·.2)).eraseDups.map fun c => (t.tag, c)
  let go := held.filter fun (_, c) => needs c && slotsAllow s c
  if go.isEmpty then s
  else
    let late := match look 0 (part s p).overrunSince ctx with
      | 0 => 0
      | t + 1 => iodNow s - t
    let s := modPart s p fun r =>
      { r with slices := put 0 r.slices ctx 0, overrunSince := put 0 r.overrunSince ctx 0, overruns := put 0 r.overruns ctx late }
    emits s (go.map fun (t, c) => .front "PREEMPT" t c)

/-- TIME_SLICE_END: the context of the rank whose slice began earliest gives way; inside an indivisible item the end waits, and the
overrun is taken from the context's next slice (R412, R413). -/
def execTimeSliceEnd (p ctx : Nat) (s : State) : Host.Outcome State Fault Refusal :=
  onUnit (partOk p)
    (match look 0 (part s p).slices ctx with
     | 0 => s
     | t + 1 =>
       let rank := ((s.tasks.find? fun x => x.part == p && x.ctx == ctx && !x.placed.isEmpty).map (taskRank s)).getD 1000
       let earliest := (slicesOfRank s p rank).all fun (_, u) => decide (t + 1 ≤ u)
       let ws := waitersFor s p ctx rank
       let inItem := s.tasks.any fun x => x.part == p && x.ctx == ctx && !x.descBusy.isEmpty
       if !mayStart s || iodNow s < t + sliceTicks s p ctx || !earliest || ws.isEmpty then s
       else if inItem then
         modPart s p fun r => if look 0 r.overrunSince ctx = 0 then { r with overrunSince := put 0 r.overrunSince ctx (iodNow s + 1) } else r
       else endSlice s p ctx ws)

/-! ### Saving, restoring, discarding, purging (R411, R414, R425) -/

/-- The clusters answer with WB_ACK when the effect is complete (R425). -/
def ackFront (s : State) (task cl : Nat) : State := emit s (.front "WB_ACK" task cl)

/-- A gang is saved whole: its groups elsewhere issue nothing until every team is back (R376, R411). -/
def holdGang (s : State) (tag : Nat) : State :=
  (allClusters s.variant).foldl (fun s c =>
    ((cluster s c).teams.filter fun t => t.task == tag).foldl (fun s t =>
      (teamGids c t).foldl (fun s g => modGroup s g fun x => { x with held := true }) s) s) s

def isGangTask (s : State) (t : Task) : Bool := ((launchOf s t.launch).map fun l => nGang (launchNode s l t.node)).getD false

/-- Save a running task's teams on a cluster, once no ATOM or ENQ of theirs is in flight (R128, R414). -/
def preemptCluster (s : State) (t : Task) (cl : Nat) : State :=
  let gang := isGangTask s t
  let s := preemptOn (if gang then holdGang s t.tag else s) t.tag cl
  if (cluster s cl).teams.any fun x => x.task == t.tag then s
  else
    let s := ackFront (modTask s t.tag fun t => { t with waitSince := (die s 8).time }) t.tag cl
    if gang then emits s (((t.placed.map (·.2)).eraseDups.filter (· ≠ cl)).map fun c => .front "PREEMPT" t.tag c) else s

/-- PREEMPT (R414). -/
def execPreempt (task cl : Nat) (s : State) : Host.Outcome State Fault Refusal :=
  onUnit (clusterOk cl)
    (match taskOf s task with
     | none => s
     | some t => if t.st ≠ .running || !((cluster s cl).teams.any fun x => x.task == task) then s else preemptCluster s t cl)

/-- Snapshots of a task that remain. -/
def hasSnaps (s : State) (tag : Nat) : Bool :=
  s.clusters.any fun (_, x) => x.snaps.any fun (_, v) => (v.map fun sn => sn.task == tag).getD false

/-- Every team of the task that has started and not arrived is on a cluster. -/
def allBack (s : State) (tag : Nat) : Bool := !hasSnaps s tag

/-- RESUME (R411, R414): the saved teams of one cluster return, on this cluster, if they all fit. -/
def execResume (task cl slot : Nat) (s : State) : Host.Outcome State Fault Refusal :=
  onUnit (clusterOk cl && snapOk slot)
    (match taskOf s task, findSnap s task cl slot with
     | some t, some (c0, n0, sn) =>
       match launchOf s t.launch with
       | none => s
       | some l =>
         if !mayStart s || !eligible s l (launchNode s l t.node) cl || goesFirst s t cl then s
         else
           let fresh := !((cluster s cl).teams.any fun x => x.task == task)
           let want := wantedL s l cl
           let s0 := if (cluster s cl).ls ≠ want && mayChangeL s cl then changeL s cl want (!fullServiceNow s && l.ls ≠ 0) else s
           -- the read-only caches are invalidated before the team's loads leave again (R249)
           match restoreAll l cl sn.teams (if fresh then invalidateRo s0 cl else s0) with
           | none => askPreempt s (rankOf s l) [cl]
           | some s =>
             let s := modCluster s c0 fun x => { x with snaps := put none x.snaps n0 none }
             let s := modTask s task fun t =>
               { t with placed := t.placed ++ sn.teams.map fun (x, _, _) => (x.team, cl), st := .running }
             let s := if allBack s task then releaseGang s task else s
             ackFront (beginSlice s t.part t.ctx) task cl
     | _, _ => s)

/-- Does a tag select a task (R425: 0xFFFF is every task)? -/
def tagIs (tag t : Nat) : Bool := tag == 0xFFFF || tag == t

/-- DISCARD (R425): the task's teams leave the cluster without being saved. (DESIGN CHOICE, log 42) -/
def execDiscard (task cl : Nat) (s : State) : Host.Outcome State Fault Refusal :=
  onUnit (clusterOk cl)
    (let s := dropTeams s cl (tagIs task)
     let s := { s with tasks := s.tasks.map fun t => if tagIs task t.tag then { t with placed := t.placed.filter fun (_, c) => c ≠ cl } else t }
     ackFront s task cl)

/-- PT_PURGE (R423 phase 4, R425): a slice, its crusher and a translation unit give up a partition's state. -/
def execPtPurge (p sid : Nat) (s : State) : Host.Outcome State Fault Refusal :=
  onUnit (partOk p && sliceOk sid)
    (let s := purgeSlice s p sid
     ackFront (if sid < 128 then purgeCluster s p sid else s) p sid)

end Sys2Proof.Machine
end

