-- ==== Sys2Proof/Machine/Update.lean ====
section
/-! DEFINITION. Slot control and selection, the authenticated update, the journal, the error snapshot and the quote: R500 to R507, R511,
R512 of 17_configuration_security, R530 of 18. -/

namespace Sys2Proof.Machine

/-! ### Slot control (R500) -/

def slotState (s : State) (n : Nat) : SlotState := if n = 0 then s.flash.stA else s.flash.stB
def setSlotState (f : Flash) (n : Nat) (st : SlotState) : Flash := if n = 0 then { f with stA := st } else { f with stB := st }

/-- CRC-32 of IEEE 802.3 over `n` bits of `v`, the register shifted towards bit 0, before its complement. -/
def crc32Bits : Nat → Nat → Nat → Nat
  | 0, _, c => c
  | n + 1, v, c => crc32Bits n (v / 2) (if Nat.xor (c % 2) (v % 2) = 1 then Nat.xor (c / 2) 0xEDB88320 else c / 2)

def crc32 (l : List Byte) : Nat := 2 ^ 32 - 1 - crc32Bits (8 * l.length) (leNat l) (2 ^ 32 - 1)

/-- The 64-byte record of the fields as they stand; the bytes that R500 does not name are zero. (DESIGN CHOICE, log 51) -/
def slotRecord (f : Flash) : List Byte :=
  let body := leBytes 4 0x534C4F54 ++ leBytes 4 f.slotSeq ++ [f.pref, slotCode f.stA, slotCode f.stB, f.trials].map (BitVec.ofNat 8) ++ slice [] 0 48
  body ++ leBytes 4 (crc32 body)

/-- Records of a copy after one more; a full sector is erased just before (1,024 records of 64 bytes). -/
def oneMore (l : List (List Byte)) (r : List Byte) : List (List Byte) := if l.length = 1024 then [r] else l ++ [r]

/-- Write a slot-control record with the fields as `g` makes them: the copies take records in turn. -/
def writeSlotRecord (s : State) (g : Flash → Flash) : State :=
  let f := g s.flash
  let f := { f with slotSeq := f.slotSeq + 1 }
  let (a, b) := f.slotRecs
  { s with flash := { f with slotRecs := if f.slotSeq % 2 = 1 then (oneMore a (slotRecord f), b) else (a, oneMore b (slotRecord f)) } }

def markSlot (s : State) (n : Nat) (st : SlotState) : State := writeSlotRecord s fun f => setSlotState f n st

/-! ### Slot selection (R501, R502) -/

/-- A slot runs: its tables are in force, in mode 0 committed or 1 trial. -/
def runSlot (s : State) (n mode : Nat) : State :=
  { s with image := parseImage s n, dev := { s.dev with slot := n, mode, recov := false } }

/-- The IPv6 link-local address formed from a MAC address. -/
def linkLocal (mac : Nat) : BitVec 128 :=
  let hi := Nat.xor (mac / 2 ^ 24) 0x020000
  BitVec.ofNat 128 (0xFE80 * 2 ^ 112 + hi * 2 ^ 40 + 0xFFFE * 2 ^ 24 + mac % 2 ^ 24)

/-- R502: the recovery configuration of the boot ROM. (DESIGN CHOICE, log 55) -/
def recoveryImage (s : State) : Image :=
  { parts := [(0, { isDefined := true, secure := true, qpCount := 16, qkBase := stockBase })],
    regions := [{ base := stockBase, len := stockSize, part := 0, secure := true }],
    addrs := [{ part := 0, port := 0, half := 0, vlan := 1, pcp := 0, dscp := 0, v4 := none, v6 := some (linkLocal s.baseMac) }] }

def runRecovery (s : State) : State :=
  { s with image := recoveryImage s, dev := { s.dev with slot := 0, mode := 2, recov := true } }

/-- A slot fails verification: it becomes bad, and its code shows in BOOTFAULT. -/
def slotFails (s : State) (n code : Nat) : State :=
  let s := markSlot s n .bad
  { s with dev := { s.dev with bootFault := BitVec.ofNat 8 code } }

/-- Step 1 for one slot. -/
def tryTrial (s : State) (n : Nat) : State × Bool :=
  let s := writeSlotRecord s fun f => { setSlotState f n .trial with trials := f.trials - 1 }
  let code := verifySlot s n
  if code = 0 then (runSlot s n 1, true) else (slotFails s n code, false)

/-- Step 3 for one slot. -/
def tryGood (s : State) (n : Nat) : State × Bool :=
  if slotState s n ≠ .good then (s, false)
  else
    let code := verifySlot s n
    if code = 0 then (runSlot s n 0, true) else (slotFails s n code, false)

/-- R501. -/
def selectSlot (s : State) : State :=
  let s := { s with dev := { s.dev with bootFault := 0 } }
  let due := [0, 1].filter fun n => slotState s n == .pending || (slotState s n == .trial && s.flash.trials != 0)
  let spent := [0, 1].filter fun n => slotState s n == .trial && s.flash.trials == 0
  let (s, up) := match due with
    | n :: _ => tryTrial s n
    | [] => (s, false)
  let s := spent.foldl (fun s n => markSlot s n .bad) s
  if up then s
  else
    let (s, up) := tryGood s s.flash.pref
    if up then s
    else
      let (s, up) := tryGood s (1 - s.flash.pref)
      if up then s else runRecovery s

/-! ### The update (R503, R504) -/

/-- The slot that an update writes. -/
def updateSlot (s : State) : Nat := if s.dev.mode = 2 then 0 else 1 - s.dev.slot

def closeUpdate (s : State) : State := { s with flash := { s.flash with updOpen := false } }

def isUpdate (op : Nat) (c : Cmd) : Bool := cw c 1 2 0 == op

/-- While the supply warning suspends the flash, an operation waits (R504). -/
def flashReady (s : State) (f : State → State) : State := if s.flash.suspended then s else f s

/-- 0xA5 without an open update. -/
def needsOpen (s : State) : Nat := if s.flash.updOpen then 0 else 0xA5

/-- BEGIN: the target slot is marked empty; its bytes go as writes reach their sectors. -/
def execImgBegin (p q : Nat) (seq : W32) (s : State) : Host.Outcome State Fault Refusal :=
  onUnit (partOk p && slotOk q) (runCmd s p q seq 0x8B (isUpdate 0)
    (fun s _ => if s.flash.updOpen then 0xA5 else 0) fun s c =>
    flashReady s fun s =>
      let s := markSlot s (updateSlot s) .empty
      finishCmd { s with flash := { s.flash with updOpen := true, updLen := cw c 2 26 0, updWritten := 0 } } p q c.seq 0)

/-- Erase the 64 KiB sectors of a slot that a WRITE is the first to reach, then program the bytes. -/
def programBytes (s : State) (slot off : Nat) (bs : List Byte) : State :=
  let lo := slotBase slot + (off + 0xFFFF) / 0x10000 * 0x10000
  let hi := slotBase slot + (off + bs.length + 0xFFFF) / 0x10000 * 0x10000
  let kept := s.flash.bytes.filter fun (a, _) => !(decide (lo ≤ a) && decide (a < hi))
  let bytes := bs.zipIdx.foldl (fun m (b, i) => put 0xFF m (slotBase slot + off + i) b) kept
  { s with flash := { s.flash with bytes } }

/-- Bytes of a WRITE: from its source, or carried in the records. -/
def writeSource (s : State) (c : Cmd) : List Byte :=
  let n := cw c 3 24 0
  if cw c 4 49 0 = 0 then cPayload c n else readPhys s (cw c 4 49 0) n

/-- The source of a WRITE can be read. -/
def sourceFine (s : State) (p : Nat) (c : Cmd) : Bool :=
  cw c 4 49 0 == 0 || rangeReadable s p (cw c 4 49 0) (cw c 3 24 0)

/-- WRITE: in order and within the length; a program error marks the slot bad and closes the update. -/
def execImgWrite (p q : Nat) (seq : W32) (programOk : Bool) (s : State) : Host.Outcome State Fault Refusal :=
  onUnit (partOk p && slotOk q) (runCmd s p q seq 0x8B (isUpdate 1)
    (fun s c =>
      if !s.flash.updOpen || cw c 2 26 0 ≠ s.flash.updWritten || s.flash.updLen < cw c 2 26 0 + cw c 3 24 0 then 0xA5
      else if !sourceFine s p c then 0x1F else 0) fun s c =>
    flashReady s fun s =>
      if programOk then
        let bytes := writeSource s c
        let s := if cw c 4 49 0 = 0 then s else agentReads s (cw c 4 49 0) (cw c 3 24 0) 0 true
        let s := programBytes s (updateSlot s) (cw c 2 26 0) bytes
        finishCmd { s with flash := { s.flash with updWritten := s.flash.updWritten + cw c 3 24 0 } } p q c.seq 0
      else finishCmd (closeUpdate (markSlot s (updateSlot s) .bad)) p q c.seq 0xA6)

/-- FINISH: the slot is verified and becomes pending with 3 trials, or bad with the code of R497. (DEDUCED, log 54) -/
def execImgFinish (p q : Nat) (seq : W32) (s : State) : Host.Outcome State Fault Refusal :=
  onUnit (partOk p && slotOk q) (runCmd s p q seq 0x8B (isUpdate 2)
    (fun s _ => if !s.flash.updOpen || s.flash.updWritten ≠ s.flash.updLen then 0xA5 else 0) fun s c =>
    flashReady s fun s =>
      let n := updateSlot s
      let code := verifySlot s n
      let s := closeUpdate s
      if code = 0 then finishCmd (writeSlotRecord s fun f => { setSlotState f n .pending with trials := 3 }) p q c.seq 0
      else finishCmd (markSlot s n .bad) p q c.seq code)

/-- The running trial slot becomes good and preferred; with bit 0 of header byte 21 the fuse floors rise (R501). -/
def commitSlot (s : State) : State :=
  let n := s.dev.slot
  let s := writeSlotRecord s fun f => { setSlotState f n .good with pref := n, trials := 0 }
  let s := { s with dev := { s.dev with mode := 0 } }
  if s.image.raise then
    { s with sec := { s.sec with ownFloor := Nat.max s.sec.ownFloor s.image.svn, fwFloor := Nat.max s.sec.fwFloor s.image.fwSvn } }
  else s

/-- COMMIT: no effect unless the running slot is in trial. -/
def execImgCommit (p q : Nat) (seq : W32) (s : State) : Host.Outcome State Fault Refusal :=
  onUnit (partOk p && slotOk q) (runCmd s p q seq 0x8B (isUpdate 3) (fun _ _ => 0) fun s c =>
    if s.dev.mode ≠ 1 || slotState s s.dev.slot ≠ .trial then finishCmd s p q c.seq 0
    else flashReady s fun s => finishCmd (commitSlot s) p q c.seq 0)

/-- ABORT. -/
def execImgAbort (p q : Nat) (seq : W32) (s : State) : Host.Outcome State Fault Refusal :=
  onUnit (partOk p && slotOk q) (runCmd s p q seq 0x8B (isUpdate 4) (fun s _ => needsOpen s) fun s c =>
    flashReady s fun s => finishCmd (closeUpdate (markSlot s (updateSlot s) .empty)) p q c.seq 0)

/-! ### Journal (R505 to R507) -/

def recordsPerSector : Nat := 1023
def recKey (r : JRec) : Nat × List Nat := (r.type, r.key)

/-- Next erased sector after the head, in ring order, that is not worn out. -/
def nextSector (f : Flash) : Option Nat :=
  let head := (f.sectors.getLast?.map (·.1)).getD (journalSectors - 1)
  ((List.range journalSectors).map fun i => (head + 1 + i) % journalSectors).find? fun n =>
    !(f.sectors.any fun (m, _) => m == n) && decide (look 0 f.erases n < wornAt)

/-- Program one record at the head. -/
def appendKey (f : Flash) (k : Nat × List Nat) : Flash :=
  let openNew := fun (f : Flash) => match nextSector f with
    | some n => { f with sectors := f.sectors ++ [(n, [k])] }
    | none => f
  match f.sectors.getLast? with
  | some (n, ks) => if ks.length < recordsPerSector then { f with sectors := f.sectors.dropLast ++ [(n, ks ++ [k])] } else openNew f
  | none => openNew f

/-- Copy the governing records of the tail sector to the head, then erase the tail. (DESIGN CHOICE, log 51) -/
def compact (f : Flash) : Flash :=
  match f.sectors with
  | (n, ks) :: (x :: rest) =>
    let live := ks.eraseDups.filter fun k => !((x :: rest).any fun (_, l) => l.contains k)
    let f := live.foldl appendKey f
    { f with sectors := f.sectors.drop 1, erases := put 0 f.erases n (look 0 f.erases n + 1) }
  | _ => f

/-- Program a record: it governs its key from now on. -/
def programRecord (f : Flash) (r : JRec) : Flash :=
  let f := appendKey { f with journal := upsert (fun x => recKey x == recKey r) r f.journal } (recKey r)
  if freeSectors f < 16 then compact f else f

/-- JOURNAL_PROGRAM: the oldest waiting record is programmed, unless the flash is suspended (R451, R507). -/
def execJournalProgram (s : State) : Host.Outcome State Fault Refusal :=
  onUnit true
    (match s.flash.waiting with
     | [] => s
     | r :: rs => flashReady s fun s => { s with flash := programRecord { s.flash with waiting := rs } r })

/-- A journal record of type 5 (R530). -/
def snapshotRecord (s : State) : JRec :=
  let ports := ((List.range 4).map fun n => (look 0 s.dev.portDrops n).toNat + (look 0 s.dev.portFec n).toNat).sum
  { type := 5, key := [], payload := [s.dev.errRetry.toNat, s.dev.errCe.toNat, s.dev.errUe.toNat, s.dev.errRet.toNat, ports, s.dev.gen.toNat] }

/-- ERROR_SNAPSHOT: every 24 h of IOD time (R530). -/
def execErrorSnapshot (s : State) : Host.Outcome State Fault Refusal :=
  onUnit true (if alive s && !s.restart.active then addJournal s (snapshotRecord s) else s)

/-! ### Quote (R511, R512) -/

def cw0Of (s : State) (d : Nat) : Nat := (((look [] s.dieWords d).getD 0 0 : W64)).toNat

/-- Bytes 336 to 399: the partitions. -/
def quoteParts (s : State) : List Byte :=
  (List.range 16).flatMap fun p =>
    let c := partCfg s p
    let n := ((allClusters s.variant).filter fun k => clusterOwner s k == some p && clusterServes s k).length
    [BitVec.ofNat 8 (flag c.isDefined 0 + flag c.secure 1 + flag c.lc 2), 0] ++ leBytes 2 n

/-- The 512-byte body. -/
def quoteBody (s : State) : List Byte :=
  let digest := fun (d : BitVec 512) => if s.dev.recov then slice [] 0 64 else leBytes 64 d.toNat
  leBytes 4 1 ++ leBytes 4 512 ++ (List.range 8).flatMap (fun i => leBytes 8 (s.sec.taken.getD i 0).toNat)
    ++ digest s.image.digest ++ digest s.image.ownerDigest ++ leBytes 8 s.serial.toNat
    ++ [s.dev.slot, s.dev.mode, s.image.svn, s.sec.ownFloor, s.image.fwSvn, s.sec.fwFloor].map (BitVec.ofNat 8)
    ++ leBytes 2 s.dev.gen.toNat ++ [BitVec.ofNat 8 (flag s.image.paced 0)] ++ slice [] 0 7
    ++ leBytes 8 (devCap0 s) ++ leBytes 8 (devCap1 s) ++ leBytes 8 (devCap2 s) ++ leBytes 8 (devCap3 s)
    ++ (List.range 9).flatMap (fun d => leBytes 8 (if present s d then cw0Of s d else 0))
    ++ leBytes 8 (maskOf 8 fun d => (die s d).state == .inService) ++ quoteParts s ++ leBytes 8 s.portTime.toNat ++ slice [] 0 104

/-- QUOTE_COMPLETE: the quote is written, DONE set and BUSY cleared (R511, R512). -/
def execQuoteComplete (s : State) : Host.Outcome State Fault Refusal :=
  onUnit true
    (if !alive s || !s.sec.busy || s.restart.active then s
     else
       let body := quoteBody s
       let quote := body ++ slice (Config.identitySign s.serial body) 0 512
       { s with sec := { s.sec with quote, done := true, busy := false, count := s.sec.count + 1 } })

end Sys2Proof.Machine
end

