-- ==== Sys2Proof/Machine/Upkeep.lean ====
section
/-! DEFINITION. Hop retries, the enables of slices and read-only caches, and the background activities of memory and arrays: R183, R193 of
06, R200 to R209, R213 of 07, R250 to R253 of 08, R281, R291, R546. -/

namespace Sys2Proof.Machine
open Sys2Proof.Num

/-- Background activities run while the device runs and no warm restart does (R546). -/
def upkeep (s : State) : Bool := alive s && !s.restart.active

/-! ### Meshes (R183, R193) -/

/-- A failure of this flit at this hop. -/
def sameFlit (node hop flit : Nat) (control : Bool) (h : HopFail) : Bool :=
  h.node == node && h.hop == hop && h.flit == flit && h.control == control

/-- Failures of a flit at a hop so far. -/
def hopFails (u : Die) (node hop flit : Nat) (control : Bool) : Nat :=
  ((u.hops.find? (sameFlit node hop flit control)).map (·.fails)).getD 0

/-- FLIT_ERROR: the router at a node sends a flit again over one of its hops, or on the flit's third failure there the hop has failed, and
its die is held out at the warm restart that follows (R183). (DEDUCED, log 56) (DESIGN CHOICE, log 33) -/
def execFlitError (d node hop flit : Nat) (control : Bool) (s : State) : Host.Outcome State Fault Refusal :=
  onUnit (dieOk d && Sys2Proof.nodeOk node)
    (let u := die s d
     if !alive s || u.state = .absent then s
     else
       let n := hopFails u node hop flit control + 1
       let rest := u.hops.filter fun h => !sameFlit node hop flit control h
       if 3 ≤ n then raiseFatal (setDie s d { u with hops := rest, holdNext := 7 }) 5 0
       else
         setDie s d { u with hops := rest ++ [{ node, hop, flit, control, fails := n }], lastNode := node, lastNetCtl := control,
                             ctlRetry := if control then bump 0xFFFF u.ctlRetry else u.ctlRetry,
                             bulkRetry := if control then u.bulkRetry else bump 0xFFFF u.bulkRetry })

/-! ### Enables (R250, R291) -/

/-- A logic self-test runs on the die (R250, R516, R536). -/
def logicTesting (s : State) (d : Nat) : Bool := (die s d).state == .testing && !(die s d).logicPassed

/-- RO_CACHE_ENABLE: fills are enabled if the caches were invalidated since they were disabled. -/
def execRoCacheEnable (cl : Nat) (s : State) : Host.Outcome State Fault Refusal :=
  onUnit (clusterOk cl)
    (let u := die s (cl / 16)
     if !alive s || !dieServes s (cl / 16) || logicTesting s (cl / 16) || !(cluster s cl).roInvalid || u.clFenced.getLsbD (cl % 16) || u.clTesting.getLsbD (cl % 16) then s
     else modCluster s cl fun x => { x with roEnabled := true })

/-- Step 1 of R250 for a slice: every tag, the spoil buffer, the miss entries and the ledger store go; then REG to its homes. -/
def invalidateSlice (s : State) (sid : Nat) : State :=
  let s := (crusher s sid).lines.foldl (fun s l => discardOpen s sid l.line) s
  sendReg (modSlice s sid fun sl => { sl with lines := [], spoil := [], miss := [], draining := false, invalidated := true }) sid

/-- Establish again the pins that tasks have in a slice (R246, R250); one that must wait is left to the task. -/
def repin (s : State) (sid : Nat) : State :=
  s.tasks.foldl (fun s t =>
    let (s, left) := pinAll ((taskPins s t).filter fun (_, i) => i = sid) s
    modTask s t.tag fun x => { x with pinLeft := x.pinLeft ++ left }) s

/-- SLICE_ENABLE: allocation is enabled once the slice is invalidated and registered. -/
def execSliceEnable (sid : Nat) (s : State) : Host.Outcome State Fault Refusal :=
  onUnit (sliceOk sid)
    (let sl := sliceOf s sid
     if !alive s || !dieServes s (sid / 16) || sl.enabled || !sl.invalidated || !sl.awaitReg.isEmpty || logicTesting s (sid / 16) || (die s (sid / 16)).slFenced.getLsbD (sid % 16) then s
     else repin (modSlice s sid fun sl => { sl with enabled := true }) sid)

/-! ### Refresh (R206 to R208) -/

/-- The channel's memory is reached and not in self refresh. -/
def chanRuns (s : State) (ch : Nat) : Bool :=
  upkeep s && !(chan s ch).selfRefresh && (if ch < 128 then dieServes s (ch / 16) else s.dev.stock)

/-- Refresh interval of a channel's rows in ns: the face memory's by its die's hottest sensor, the stockpile's as the latest readout
requires (R206). -/
def refreshInterval (s : State) (ch : Nat) : Nat :=
  if ch < 128 then (if (dieTemps s (ch / 16)).any fun t => decide (850 < t) then 16000000 else 32000000) else (chan s ch).interval

/-- A refresh of rows of a bank: the bank's row is closed, and the counts of the rows begin again (R206, R207). -/
def refreshed (c : Chan) (interval bank first rows : Nat) : Chan :=
  { c with refreshes := put 0 c.refreshes bank (look 0 c.refreshes bank + 1), openRow := put 0 c.openRow bank 0, interval,
           accounted := put 0 c.accounted bank (if look 0 c.accounted bank = 0 then 0 else Config.accountedAfter (look 0 c.accounted bank)),
           activations := c.activations.filter fun (k, _) => !(decide (rowKey bank first ≤ k) && decide (k < rowKey bank (first + rows))) }

/-- REFRESH: rows of one bank are refreshed; the contents stay. -/
def execRefresh (ch bank first rows : Nat) (s : State) : Host.Outcome State Fault Refusal :=
  onUnit (chanOk ch && bankOk bank)
    (if chanRuns s ch then modChan s ch fun c => refreshed c (refreshInterval s ch) bank first rows else s)

/-- Rows of a bank of a face channel; those that addresses within a stockpile channel number (R194, R198). -/
def rowCount (ch : Nat) : Nat := if ch < 128 then 81920 else 2 ^ 23

/-- The two rows on each side of a row. -/
def neighbours (ch row : Nat) : List Nat :=
  ([row - 2, row - 1].filter fun r => decide (r < row) && decide (row ≤ r + 2)).eraseDups
    ++ ([row + 1, row + 2].filter fun r => decide (r < rowCount ch))

/-- Activations of a row that its tracker has counted. -/
def activationsOf (s : State) (ch bank row : Nat) : Nat := look 0 (chan s ch).activations (rowKey bank row)

/-- DISTURBANCE_REFRESH: a row has reached 1,024 activations, the rows beside it are refreshed and its count is reset (R207, R208). -/
def execDisturbanceRefresh (ch bank row : Nat) (s : State) : Host.Outcome State Fault Refusal :=
  onUnit (chanOk ch && bankOk bank)
    (if !chanRuns s ch || activationsOf s ch bank row < 1024 then s
     else modChan s ch fun c =>
       { c with extraRefreshes := (neighbours ch row).foldl (fun m r => put 0 m (rowKey bank r) (look 0 m (rowKey bank r) + 1)) c.extraRefreshes,
                activations := put 0 c.activations (rowKey bank row) 0 })

/-! ### Scrubs (R209, R252, R253, R281, R546) -/

/-- PATROL_SCRUB: one protected unit is read, corrected or poisoned. -/
def execPatrolScrub (pa : Nat) (wrong : List Nat) (elsewhere : Bool) (s : State) : Host.Outcome State Fault Refusal :=
  onUnit true
    (match chanOf s.variant pa with
     | none => s
     | some (ch, _) => if chanRuns s ch then memEcc (activate s pa) pa { sector := 0, wrong, elsewhere } else s)

/-- A second event of one key within 24 h (R532). -/
def twiceInDay (l : List (Nat × Nat)) (k now : Nat) : Bool := l.any fun (x, t) => x == k && decide (now < t + dayTicks)

/-- Address of a 64-bit word of a cluster-memory bank: the inverse of the bank map of R160. -/
def bankWord (cl bank word : Nat) : Nat :=
  let hi := word / 8 % 3072
  windowAddr cl (hi * 2048 + Nat.xor bank (hi % 32) % 32 * 64 + word % 8 * 8)

/-- An uncorrectable word of cluster memory (R163); the second of one bank within 24 h fences the cluster (R532). -/
def clusterMemError (s : State) (cl bank word : Nat) : State :=
  let now := (die s (cl / 16)).time.toNat
  let again := twiceInDay (cluster s cl).bankErrs bank now
  let s := countUe { s with poison := put 0 s.poison (wordMark (bankWord cl bank word)) 0x34 }
  let s := modCluster s cl fun x => { x with bankErrs := x.bankErrs ++ [(bank, now)] }
  if again then setClusterFence s cl true 12 else s

/-- An uncorrectable word of a slice's data store or spoil buffer: a clean line goes, a dirty one is poisoned (R253); the second in
one set within 24 h fences the slice (R532). -/
def sliceDataError (s : State) (sid line sector : Nat) : State :=
  let now := (die s (sid / 16)).time.toNat
  let set := setIn s.variant sid (128 * line)
  let again := twiceInDay (sliceOf s sid).setErrs set now
  let s := countUe (modSlice s sid fun sl => { sl with setErrs := sl.setErrs ++ [(set, now)] })
  let j := sector % 4
  let s := match findLine (sliceOf s sid) line with
    | some c => if c.dirty = 0 then loseLine s sid line else setLine s sid { c with poison := setPoison c.poison j 0x33 }
    | none =>
      modSlice s sid fun sl =>
        { sl with spoil := modWhere (fun e => e.line == line) (fun e => { e with poison := setPoison e.poison j 0x33 }) sl.spoil }
  if again then setSliceFence (drainSlice s sid) sid true 13 else s

/-- An uncorrectable word of a ledger store poisons the element's sector (R281, R283). -/
def ledgerError (s : State) (sid line e : Nat) : State :=
  let d := sid / 16
  let s := countUe { s with dev := { s.dev with cruUe := put 0 s.dev.cruUe d (bump 0xFFFF (look 0 s.dev.cruUe d)) } }
  modCrusher s sid fun c =>
    let mark := fun (l : OpenLine) => { l with poison := setPoison l.poison (elemSector l.fl e) 0x36 }
    { c with lines := modWhere (fun l => l.line == line && !l.spilled) mark c.lines }

/-- An uncorrectable error of each array. -/
def arrayError (s : State) : ArrayUnit → State
  | .clusterMem cl bank word => clusterMemError s cl bank word
  | .sliceData sid line sector => sliceDataError s sid line sector
  | .sliceTags _ => raiseFatal (countUe s) 1 0
  | .snoopFilter _ => raiseFatal (countUe s) 2 0
  | .ledgerCell sid line e => ledgerError s sid line e
  | .directory _ => raiseFatal (countUe s) 3 0
  -- parity: the line goes, and the next load of it fetches it again (R252)
  | .readOnly cl core line => countUe (modCluster s cl fun x => { x with ro := x.ro.filter fun r => !(r.core == core && r.line == line) })

/-- A corrected error is counted; the crusher page counts those of cells too (R252, R283). Parity corrects nothing. -/
def arrayCorrected (s : State) : ArrayUnit → State
  | .ledgerCell sid _ _ =>
    let d := sid / 16
    countCe { s with dev := { s.dev with cruCe := put 0 s.dev.cruCe d (bump 0xFFFF (look 0 s.dev.cruCe d)) } }
  | .readOnly .. => s
  | _ => countCe s

/-- Die of an array. -/
def arrayDie : ArrayUnit → Nat
  | .clusterMem c _ _ => c / 16
  | .sliceData i _ _ => i / 16
  | .sliceTags i => i / 16
  | .snoopFilter i => i / 16
  | .ledgerCell i _ _ => i / 16
  | .directory i => i / 16
  | .readOnly c _ _ => c / 16

/-- ARRAY_SCRUB. -/
def execArrayScrub (u : ArrayUnit) (r : EccResult) (s : State) : Host.Outcome State Fault Refusal :=
  onUnit u.ok
    (if !upkeep s || !dieServes s (arrayDie u) then s
     else
       match r with
       | .clean => s
       | .corrected _ => arrayCorrected s u
       | .uncorrectable _ => arrayError s u)

/-! ### Timing of the channels (R200, R201, R213) -/

/-- The first training of a channel, during cold start: one that fails it has failed (R201, R213). -/
def firstTraining (s : State) (ch : Nat) (ok : Bool) : State := modChan s ch fun c => { c with trained := ok, failed := !ok }

/-- 2 s in the 10 ns ticks of the IOD's counter. -/
def retrainTicks : Nat := 200000000

/-- A full retrain is due: after self refresh, after one that failed, when the temperature has moved by 10 C, and every 2 s (R201, R216). -/
def fullDue (c : Chan) (now : Nat) : Bool :=
  c.selfRefresh || c.retrainFailed || c.retrainDue || decide (c.trainedAt + retrainTicks ≤ now)

/-- A full retrain has succeeded. -/
def retrained (c : Chan) (now : Nat) : Chan :=
  { c with windows := 0, retraining := false, retrainFailed := false, retrainDue := false, tempAtTrain := c.temp, trainedAt := now, selfRefresh := false }

/-- RETRAIN_WINDOW: a window passes. It begins a full retrain where one is due; `done` ends the one in progress, and a second failure in a
row fails the channel. In a warm restart it brings the channel out of self refresh (R216). -/
def execRetrainWindow (ch : Nat) (done ok : Bool) (s : State) : Host.Outcome State Fault Refusal :=
  onUnit (chanOk ch)
    (if ch < 128 then s
     else if s.power.stage = .cold then (if done then firstTraining s ch ok else s)
     else if !alive s || s.restart.active != (chan s ch).selfRefresh || !(chan s ch).trained || (chan s ch).failed then s
     else
       let now := (die s 8).time.toNat
       let full := (chan s ch).retraining || fullDue (chan s ch) now
       let s := modChan s ch fun c => { c with windows := c.windows + 1, retraining := full }
       if !done || !full then s
       else if ok then modChan s ch fun c => retrained c now
       else if (chan s ch).retrainFailed then failStock s ch
       else modChan s ch fun c => { c with windows := 0, retraining := false, retrainFailed := true })

/-- FACE_RECALIBRATION: a window in which the channel accepts no access. -/
def execFaceRecalibration (ch : Nat) (s : State) : Host.Outcome State Fault Refusal :=
  onUnit (chanOk ch)
    (if ch < 128 && chanRuns s ch then modChan s ch fun c => { c with windows := c.windows + 1 } else s)

/-- TEMPERATURE_READOUT: the refresh interval that the temperature requires; a move of 10 C since the last full retrain asks for one. -/
def execTemperatureReadout (ch : Nat) (tenths : Int) (s : State) : Host.Outcome State Fault Refusal :=
  onUnit (chanOk ch)
    (if ch < 128 || !(s.power.stage == .cold || alive s) || (chan s ch).selfRefresh then s
     else modChan s ch fun c =>
       { c with temp := tenths, interval := Config.stockInterval tenths,
                retrainDue := c.retrainDue || (c.trained && decide (100 ≤ (tenths - c.tempAtTrain).natAbs)) })

/-! ### Self refresh across a warm restart (R200, R216) -/

/-- Every channel's memory enters self refresh: no row stays open. -/
def enterSelfRefresh (s : State) : State :=
  (List.range 160).foldl (fun s ch =>
    if ch < 16 * dieCount s.variant || 128 ≤ ch then modChan s ch fun c => { c with selfRefresh := true, openRow := [], retraining := false } else s) s

/-- The face memory of a die leaves self refresh. -/
def leaveSelfRefresh (s : State) (d : Nat) : State :=
  (List.range 16).foldl (fun s k => modChan s (16 * d + k) fun c => { c with selfRefresh := false }) s

/-- Stockpile memory is ready to serve: it is out, or each of its channels has left self refresh and retrained. -/
def stockReady (s : State) : Bool := !s.dev.stock || (List.range 32).all fun k => !(chan s (128 + k)).selfRefresh

end Sys2Proof.Machine
end

