-- ==== Sys2Proof/Machine/SelfTest.lean ====
section
/-! DEFINITION. The logic and ledger self-tests, at cold start, after a warm restart and on request: R520 to R522, R528, R529, R532, R536,
R544, R545. -/

namespace Sys2Proof.Machine

/-! ### Units of a requested test

`testLeft` holds `2 u` for the logic test and `2 u + 1` for the ledger test of unit `u`: a die 0 to 8, or 16 for the one cluster. -/

def clusterUnit : Nat := 16

/-- A die that is absent or held out is not tested (R544). -/
def notTested (s : State) (d : Nat) : Bool := !present s d || (die s d).state == .heldOut || (die s d).state == .absent

def inServiceDies (s : State) : List Nat := (List.range 9).filter fun d => present s d && (die s d).state == .inService

/-- Clusters that a test occupies. -/
def testClusters (s : State) (scope d cl : Nat) : List Nat :=
  match scope with
  | 0 => [16 * d + cl]
  | 1 => if d = 8 then [] else (List.range 16).map fun c => 16 * d + c
  | _ => (inServiceDies s).flatMap fun d => if d = 8 then [] else (List.range 16).map fun c => 16 * d + c

/-- Pre-empt every task on the clusters (R411, R414, R545). -/
def vacate (s : State) (cs : List Nat) : State :=
  cs.foldl (fun s c =>
    (((cluster s c).teams.map (·.task)).eraseDups).foldl (fun s tag =>
      match taskOf s tag with
      | some t => preemptCluster s t c
      | none => s) s) s

/-- No team is left on the clusters. -/
def vacant (s : State) (cs : List Nat) : Bool := cs.all fun c => (cluster s c).teams.isEmpty

/-- An LC partition holds an admitted reservation (R544). -/
def lcAdmitted (s : State) : Bool := (resvsAt s s.admission.admitted).any fun r => (partCfg s r.part).lc

def markTesting (s : State) (cs : List Nat) (on : Bool) : State :=
  cs.foldl (fun s c => modDie s (c / 16) fun u =>
    { u with clTesting := if on then u.clTesting ||| bit16 (c % 16) else u.clTesting &&& ~~~bit16 (c % 16) }) s

/-- Slices of a die. -/
def dieSlices (d : Nat) : List Nat := (List.range 16).map fun n => 16 * d + n

/-- The units, with their tests. -/
def testUnits (s : State) (scope d : Nat) (ledger : Bool) : List Nat :=
  let both := fun (u : Nat) => if ledger then [2 * u, 2 * u + 1] else [2 * u]
  match scope with
  | 0 => both clusterUnit
  | 1 => both d
  | _ => (inServiceDies s).flatMap fun d => [2 * d, 2 * d + 1]

/-- Dies whose slices a test disables: the one it names, or all in service. -/
def testDies (s : State) (scope d : Nat) : List Nat :=
  match scope with
  | 0 => []
  | 1 => [d]
  | _ => inServiceDies s

/-- Slices that a test disables (R545). -/
def testSlices (s : State) (scope d : Nat) : List Nat := (testDies s scope d).flatMap dieSlices

/-- The test may begin: no team and no window access is left on its clusters, and its slices are disabled (R165, R291, R545). -/
def mayTest (s : State) (scope d : Nat) (cs : List Nat) : Bool :=
  cs.all (mayChangeL s) && (testSlices s scope d).all (isDown s)

/-- The test begins: L = 6 MiB of the test's own choice, read-only caches disabled (R164, R250, R545). -/
def beginTest (s : State) (q : Nat) (seq : W32) (scope d cl : Nat) (ledger : Bool) (cs : List Nat) : State :=
  let off := fun (s : State) (c : Nat) => modCluster s c fun x => { x with ro := [], roEnabled := false, roInvalid := false }
  let sixMiB := fun (x : Cluster) => { x with ls := 6, lsByLaunch := true, lsTest := true }
  let s := cs.foldl (fun s c => off (if scope = 2 then s else modCluster s c sixMiB) c) s
  let left := testUnits s scope d ledger
  let s := if scope = 1 then modDie s d fun u => { u with state := .testing } else s
  { s with dev := { s.dev with testBusy := true, testScope := scope, testDie := d, testCl := cl, testResult := 0,
                               testFailCl := 0, testFailDie := 0, testFailed := [], testCmd := some (q, seq), testLeft := left },
           admission := { s.admission with passDue := true } }

/-- SELF_TEST: refused beside another test; not run on a unit that is out; else the unit is drained, then tested (R544, R545). (DEDUCED, log 58) -/
def execSelfTest (p q : Nat) (seq : W32) (s : State) : Host.Outcome State Fault Refusal :=
  onUnit (partOk p && slotOk q) (runCmd s p q seq 0x89 (fun _ => true)
    (fun s c => if s.dev.testBusy || (cw c 1 1 0 == 2 && lcAdmitted s) then 0x59 else 0) fun s c =>
    let scope := cw c 1 1 0
    let d := cw c 1 7 4
    let cl := cw c 1 11 8
    if scope ≠ 2 && notTested s d then
      finishCmd { s with dev := { s.dev with testScope := scope, testResult := 3, testFailCl := 0, testFailDie := 0 } } p q c.seq 0
    else
      let cs := testClusters s scope d cl
      let s := if scope = 2 && s.dev.st ≠ 4 then { s with dev := { s.dev with testPrev := s.dev.st, st := 4 } } else s
      let s := vacate (if scope = 2 then s else markTesting s cs true) cs
      let s := (testSlices s scope d).foldl drainSlice s
      if mayTest s scope d cs then beginTest s q c.seq scope d cl (scope = 2 || cw c 1 16 16 == 1) cs else s)

/-! ### The end of a requested test -/

/-- A cluster returns from a test: its configured L, its caches invalidated for their enable, and its fence gone if it passed. (DESIGN CHOICE, log 59) -/
def returnCluster (s : State) (c : Nat) (passed : Bool) : State :=
  let s := modCluster (returnL (markTesting s [c] false) c) c fun x => { x with roInvalid := true }
  if passed && (die s (c / 16)).clFenced.getLsbD (c % 16) then setClusterFence s c false 7 else s

/-- A slice returns from a test: invalidated and registering, its fence gone if the die passed. -/
def returnSlice (s : State) (i : Nat) (passed : Bool) : State :=
  let s := if passed && (die s (i / 16)).slFenced.getLsbD (i % 16) then setSliceFence s i false 7 else s
  invalidateSlice s i

/-- Every part of the requested test has ended: DEV_TEST is written, and the command completes with 0x00 (R528, R545). -/
def endTest (s : State) : State :=
  let d := s.dev
  let failed := !d.testFailed.isEmpty || d.testFailDie != 0
  let s := { s with dev := { s.dev with testBusy := false, testResult := if failed then 2 else 1, testCmd := none, testLeft := [],
                                        st := if d.testScope = 2 then d.testPrev else d.st },
                    admission := { s.admission with passDue := true } }
  let back := fun (s : State) (d : Nat) => modDie s d fun u => if u.state == .testing then { u with state := .inService } else u
  let dies := testDies s d.testScope d.testDie
  let okCl := fun (c : Nat) => !d.testFailed.contains c && !d.testFailDie.getLsbD (c / 16)
  let s := (testClusters s d.testScope d.testDie d.testCl).foldl (fun s c => returnCluster s c (okCl c)) s
  let s := dies.foldl (fun s n => (dieSlices n).foldl (fun s i => returnSlice s i (!d.testFailDie.getLsbD n)) (back s n)) s
  match d.testCmd with
  | some (q, seq) => finishCmd s 0 q seq 0
  | none => s

/-- A warm restart abandons a test (R541). -/
def abandonTest (s : State) : State :=
  if !s.dev.testBusy then s
  else
    let s := markTesting s (testClusters s s.dev.testScope s.dev.testDie s.dev.testCl) false
    { s with dev := { s.dev with testBusy := false, testCmd := none, testLeft := [] } }

/-- Index of a tested unit in `testLeft`, if the requested test has it. -/
def testIndex (s : State) (u : TestUnit) : Option Nat :=
  match u with
  | .cluster d c => if s.dev.testScope = 0 && s.dev.testDie = d && s.dev.testCl = c then some clusterUnit else none
  | .die d => if s.dev.testScope = 2 || (s.dev.testScope = 1 && s.dev.testDie = d) then some d else none
  | .slice _ _ => none

/-- Die of a tested unit. -/
def unitDie : TestUnit → Nat
  | .cluster d _ => d
  | .slice d _ => d
  | .die d => d

/-- Does the requested test reach into the unit? -/
def underTest (s : State) (u : TestUnit) : Bool :=
  s.dev.testBusy && (match u with
    | .cluster d c => s.dev.testScope = 2 || (s.dev.testDie = d && (s.dev.testScope = 1 || s.dev.testCl = c))
    | _ => s.dev.testScope = 2 || (s.dev.testScope = 1 && s.dev.testDie = unitDie u))

/-- What a unit's failure does: a cluster is fenced, a slice's parts or a die hold the die, an IOD slice is fenced (R521, R532). (DEDUCED, log 57) -/
def failUnit (s : State) (u : TestUnit) (cause : Nat) : State :=
  match u with
  | .cluster d c => setClusterFence s (16 * d + c) true cause
  | .slice d n => if d = 8 then setSliceFence (drainSlice s (16 * d + n)) (16 * d + n) true cause else setDieHeld s d true cause
  | .die d => if d = 8 then s else setDieHeld s d true cause

/-- Record a failure in DEV_TEST (R528). -/
def noteFailure (s : State) (u : TestUnit) : State :=
  match u with
  | .cluster d c => { s with dev := { s.dev with testFailCl := if s.dev.testScope = 2 then s.dev.testFailCl else s.dev.testFailCl ||| bit16 c,
                                                 testFailed := s.dev.testFailed ++ [16 * d + c] } }
  | _ => { s with dev := { s.dev with testFailDie := s.dev.testFailDie ||| bit9 (unitDie u) } }

/-- One part of a requested test has ended. -/
def testPart (s : State) (u : TestUnit) (half cause : Nat) (pass : Bool) : State :=
  match testIndex s u with
  | none => if pass then s else failUnit (noteFailure s u) u cause
  | some k =>
    -- the ledger test follows the logic test
    if !s.dev.testLeft.contains (2 * k + half) || (half = 1 && s.dev.testLeft.contains (2 * k)) then s
    else
      let s := if pass then s else failUnit (noteFailure s u) u cause
      let s := { s with dev := { s.dev with testLeft := s.dev.testLeft.filter fun n => n ≠ 2 * k + half && (pass || n / 2 ≠ k) } }
      if s.dev.testLeft.isEmpty then endTest s else s

/-! ### Cold start and warm restart (R520, R521, R536) -/

/-- LEDGER is set once every die in service and the IOD's crushers have passed (R521). -/
def settleLedger (s : State) : State :=
  let up := (List.range 9).filter fun d => present s d && dieServes s d
  if !s.dev.iodCrusherFailed && up.contains 8 && (up.all fun d => (die s d).ledgerPassed) then { s with dev := { s.dev with ledger := true } } else s

/-- A die that has passed what it must takes teams: after a warm restart both tests, at cold start the logic test (R519, R536). -/
def enterService (s : State) (d : Nat) : State :=
  let u := die s d
  if u.state == .testing && u.logicPassed && (!u.retest || u.ledgerPassed) then
    { setDie s d { u with state := .inService, retest := false } with admission := { s.admission with passDue := true } }
  else s

/-- A die runs its start-up tests. -/
def starting (s : State) (d : Nat) : Bool := (die s d).state == .testing || !(die s d).ledgerPassed

/-- LOGIC_SELF_TEST_DONE (R520); on the IOD in cold start, its array self-test (R516 step 2, R518). -/
def execLogicSelfTestDone (u : TestUnit) (pass : Bool) (s : State) : Host.Outcome State Fault Refusal :=
  onUnit u.ok
    (if s.power.stage = .cold && u = .die 8 then { s with power := { s.power with arrayFailed := s.power.arrayFailed || !pass } }
     else if !(s.power.stage = .cold || s.power.stage = .running) || notTested s (unitDie u) then s
     else if underTest s u then testPart s u 0 7 pass
     else if (die s (unitDie u)).state ≠ .testing then s
     -- without the unit, every die that is left may have passed
     else if !pass then settleLedger (failUnit s u 7)
     else
       match u with
       | .die d => enterService (modDie (leaveSelfRefresh s d) d fun u => { u with logicPassed := true }) d
       | _ => s)

/-- The end of a die's or engine's ledger test outside a requested test. -/
def ledgerPart (s : State) (u : TestUnit) (crusher pass : Bool) : State :=
  let d := unitDie u
  if !pass && crusher && d = 8 then { s with dev := { s.dev with iodCrusherFailed := true } }
  else
    match u with
    | .die d =>
      if !pass && crusher then failUnit s u 8
      else if (die s d).logicPassed || d = 8 then enterService (modDie s d fun u => { u with ledgerPassed := true }) d
      else s
    | _ => if pass then s else failUnit s u 8

/-- LEDGER_SELF_TEST_DONE (R521). -/
def execLedgerSelfTestDone (u : TestUnit) (crusher pass : Bool) (s : State) : Host.Outcome State Fault Refusal :=
  onUnit u.ok
    (if !(s.power.stage = .cold || s.power.stage = .running) || notTested s (unitDie u) then s
     else if underTest s u then testPart s u 1 8 pass
     else if !starting s (unitDie u) then s
     else settleLedger (ledgerPart s u crusher pass))

end Sys2Proof.Machine
end

