-- ==== Sys2Proof/Machine/Supply.lean ====
section
/-! DEFINITION. The 56 V input, the resets, the power and thermal limits, droop, ageing and the reports of withheld issue: R450 to R475,
R480, R482 of 16_supply_power_module. -/

namespace Sys2Proof.Machine

/-! ### Power off, reset and start (R450, R454, R468, R480, R482) -/

/-- What survives a cold reset: the flash, the fuses, the pins and the thermal-trip latch; the sensors keep reading (R454). -/
def coldReset (s : State) (stage : Stage) : State :=
  let f := s.flash
  let p := s.power
  { pending := s.pending, out := s.out, free := s.free, nextTag := s.nextTag, nextTask := s.nextTask, nextLaunch := s.nextLaunch,
    variant := s.variant, serial := s.serial, baseMac := s.baseMac,
    dies := s.dies.foldl (fun m (d, u) => put {} m d { temps := u.temps }) [],
    flash := { f with waiting := [], suspended := false, updOpen := false, updLen := 0, updWritten := 0 },
    power := { stage, inputMv := p.inputMv, overvolted := p.overvolted, warning := p.warning && stage != .off,
               alertPin := p.alertPin && stage != .off, tripPin := p.tripPin, latch := p.latch, latchTemp := p.latchTemp, coldCause := p.coldCause,
               resetLow := p.resetLow, flashEnLow := p.flashEnLow, fru3v3 := p.fru3v3, ga := p.ga },
    sec := { ownFloor := s.sec.ownFloor, fwFloor := s.sec.fwFloor } }

/-- Step 1 of cold start lets the sequence go on: the latch is clear, and every sensor reads -5 C or more (R467, R468). -/
def sensorsAllow (s : State) : Bool :=
  s.power.latch.isNone && (List.range 9).all fun d => !present s d || (dieTemps s d).all fun t => decide (-50 ≤ t)

/-- Step 3: the links of the variant train, once the sensors allow (R323, R516). -/
def trainLinks (s : State) : State :=
  if s.power.stage ≠ .cold || !sensorsAllow s then s
  else (List.range 16).foldl (fun s i =>
    if (linkEnds s.variant i).isSome then modLink s i fun l => { l with st := if l.st = 0 then 1 else l.st } else s) s

/-- Cold start begins, unless a pin holds the device in reset; a thermal trip remains its cause (R516, R524). -/
def beginCold (s : State) (cause : Nat) : State :=
  let stage := if s.power.resetLow || s.power.flashEnLow then .held else .cold
  let s := coldReset s stage
  trainLinks { s with power := { s.power with coldCause := if s.power.latch.isSome then 4 else cause } }

def startMv : Nat := 49500
def resetMv : Nat := 44000
def warnMv : Nat := 48000
def clearMv : Nat := 49000
def overMv : Nat := 61000
def overClearMv : Nat := 59500

/-- The input is in range for a start (DESIGN CHOICE, log 8). -/
def inputInRange (s : State) : Bool := decide (startMv ≤ s.power.inputMv) && decide (s.power.inputMv < overMv) && !s.power.overvolted

def setInput (s : State) (mv : Nat) : State := { s with power := { s.power with inputMv := mv } }

/-- SOFT_START: the input rises through 49.5 V from below. -/
def execSoftStart (mv : Nat) (s : State) : Host.Outcome State Fault Refusal :=
  onUnit true
    (if mv < startMv || overMv ≤ mv || s.power.overvolted || startMv ≤ s.power.inputMv then s
     else
       let s := setInput s mv
       if s.power.stage = .off then beginCold s s.power.coldCause
       else if s.power.stage = .held && !s.power.resetLow && !s.power.flashEnLow then beginCold s 1
       else s)

/-- COLD_RESET: the input falls through 44.0 V. -/
def execColdReset (mv : Nat) (s : State) : Host.Outcome State Fault Refusal :=
  onUnit true
    (if resetMv < mv then s
     else
       let s := setInput s mv
       if s.power.stage = .off then s
       else
         let s := coldReset s .off
         { s with power := { s.power with coldCause := 2 } })

/-- OVERVOLTAGE: the input rises through 61.0 V. A module that is off already stays off until the input has fallen again. -/
def execOvervoltage (mv : Nat) (s : State) : Host.Outcome State Fault Refusal :=
  onUnit true
    (if mv < overMv then s
     else if s.power.stage = .off then { setInput s mv with power := { (setInput s mv).power with overvolted := true } }
     else
       let s := coldReset (setInput s mv) .off
       { s with power := { s.power with coldCause := 3, overvolted := true } })

/-- OVERVOLTAGE_CLEARED: the input falls below 59.5 V, and the module starts again; a thermal trip still keeps it off. -/
def execOvervoltageCleared (mv : Nat) (s : State) : Host.Outcome State Fault Refusal :=
  onUnit true
    (if !s.power.overvolted || overClearMv ≤ mv then s
     else
       let s := setInput s mv
       let s := { s with power := { s.power with overvolted := false } }
       if mv < startMv || s.power.latch.isSome then s else beginCold s 3)

/-- The device is held in reset while a pin is low; a latched module leaves its off state by it (R468, R480). -/
def holdReset (s : State) : State :=
  if s.power.stage ≠ .off || (s.power.latch.isSome && inputInRange s) then coldReset s .held else s

/-- MOD_RESET_ASSERT: low for 10 us or more resets, below 1 us is ignored, between the two either may happen (R480). -/
def execModResetAssert (ns : Nat) (s : State) : Host.Outcome State Fault Refusal :=
  onUnit true
    (let act := fun (s : State) => holdReset { s with power := { s.power with resetLow := true } }
     if 10000 ≤ ns then act s
     else if ns < 1000 then s
     else
       let (v, s) := freeVal s
       if v.getLsbD 0 then act s else s)

/-- MOD_RESET_RELEASE: cold start with the input in range (R480). -/
def execModResetRelease (s : State) : Host.Outcome State Fault Refusal :=
  onUnit true
    (let low := s.power.resetLow
     let s := { s with power := { s.power with resetLow := false } }
     if low && s.power.stage = .held && !s.power.flashEnLow && inputInRange s then beginCold s 1 else s)

/-- FLASH_EN_ASSERT: the device is in cold reset, the flash belongs to the header (R482). -/
def execFlashEnAssert (s : State) : Host.Outcome State Fault Refusal :=
  onUnit true
    (let s := { s with power := { s.power with flashEnLow := true } }
     if s.power.stage = .off then s else coldReset s .held)

/-- FLASH_EN_RELEASE: a cold start (R482). -/
def execFlashEnRelease (s : State) : Host.Outcome State Fault Refusal :=
  onUnit true
    (let low := s.power.flashEnLow
     let s := { s with power := { s.power with flashEnLow := false } }
     if low && s.power.stage = .held && !s.power.resetLow then beginCold s 6 else s)

/-! ### Events of type 8 (R475) -/

/-- Bytes 24 to 63. -/
def powerSpec (state : Nat) (dies : BitVec 9) (measured : Nat) : List Byte :=
  [BitVec.ofNat 8 state] ++ leBytes 2 dies.toNat ++ [0] ++ leBytes 4 measured

/-- PT0 and every defined partition. (DEDUCED, log 61) -/
def everyPart (s : State) : List Nat := 0 :: (definedParts s).filter (· ≠ 0)

def powerEvent (s : State) (ps : List Nat) (code state : Nat) (dies : BitVec 9) (measured : Nat) : State :=
  postEvents s ps (event 8 code noSlot 0 (powerSpec state dies measured))

/-- A temperature in 0.1 C as the 32 bits of the event. -/
def tempBits (t : Int) : Nat := (t % 2 ^ 32).toNat

/-! ### Reporting withheld issue (R465) -/

def msUnits : Nat := 10000000

/-- The partitions that own a cluster of a die. (DEDUCED, log 60) -/
def diePartitions (s : State) (d : Nat) : List Nat :=
  (((List.range 16).filterMap fun c => clusterOwner s (16 * d + c))).eraseDups

/-- The code that withheld the most time; the lowest of equals. -/
def worstCode (m : SMap Nat) : Nat :=
  (m.foldl (fun (best : Nat × Nat) (c, n) => if best.2 < n then (c, n) else best) (0x82, 0)).1

/-- Post a partition's summary, if it has an episode. -/
def postSummary (s : State) (p : Nat) : State :=
  let r := part s p
  if r.wCount = 0 then s
  else
    let spec := [2] ++ leBytes 2 r.wDies.toNat ++ [BitVec.ofNat 8 r.wLow] ++ leBytes 4 0 ++ leBytes 8 r.wStart.toNat ++ leBytes 8 r.wEnd.toNat
      ++ leBytes 8 ((r.wBy.map (·.2)).sum) ++ leBytes 4 r.wCount
    let code := worstCode r.wBy
    postEvent (modPart s p fun r => { r with wStart := 0, wEnd := 0, wDies := 0, wBy := [], wLow := 64, wCount := 0 }) p
      (event 8 code noSlot 0 spec)

/-- An episode, or its part up to now, joins a partition's summary; a summary whose last episode ended more than 1 ms before is
posted first. -/
def addEpisode (s : State) (p d code start low : Nat) : State :=
  let r := part s p
  let s := if r.wCount ≠ 0 && decide (r.wEnd.toNat + msUnits < start) then postSummary s p else s
  modPart s p fun r =>
    { r with wStart := if r.wCount = 0 then BitVec.ofNat 64 start else r.wStart, wEnd := s.portTime, wDies := r.wDies ||| bit9 d,
             wBy := put 0 r.wBy code (look 0 r.wBy code + (s.portTime.toNat - start) / 10), wLow := Nat.min r.wLow low, wCount := r.wCount + 1 }

/-- What limits f on a die (R449, R475). -/
def limitCode (s : State) (d : Nat) : Nat :=
  if s.power.hot then 0x85 else if (die s d).fTherm < (die s d).fLoop then 0x84 else if s.power.warning then 0x81 else 0x82

/-- Its code for a partition: 0x83 where the loop lowered the die while the partition drew above its share (R421, R475). -/
def codeFor (s : State) (d code p : Nat) : Nat := if code = 0x82 && (die s d).fOver.contains p then 0x83 else code

def addEpisodes (s : State) (d code start low : Nat) : State :=
  (diePartitions s d).foldl (fun s p => addEpisode s p d (codeFor s d code p) start low) s

/-- Account the limiting of a die after its f may have changed: an episode begins when f falls below 64 and ends when it is 64
again. -/
def accountF (s : State) (code d : Nat) : State :=
  let u := die s d
  let f := issueFraction s d
  if u.fSince = 0 then
    if f = 64 then s
    else setDie s d { u with fSince := s.portTime.toNat + 1, fLow := f, episodes := bump 0xFFFF u.episodes }
  else if f = 64 then
    modDie (addEpisodes (setDie s d { u with fSince := 0, fLow := 64 }) d code (u.fSince - 1) u.fLow) d fun u => { u with fOver := [] }
  else setDie s d { u with fLow := Nat.min u.fLow f }

/-- Change the sources of f, then account it on every compute die. -/
def limitDies (s : State) (g : State → State) : State :=
  let ds := List.range (dieCount s.variant)
  let codes := ds.map fun d => (d, limitCode s d)
  codes.foldl (fun s (d, c) => accountF s c d) (g s)

/-- Set what the loop holds on every compute die. (DEDUCED, log 64) -/
def setLoop (s : State) (g : Nat → Nat) : State :=
  (List.range (dieCount s.variant)).foldl (fun s d => modDie s d fun u => { u with fLoop := g u.fLoop }) s

/-- WITHHOLD_SUMMARY: 1 ms after the last episode, or while limiting continues, with the time up to now. -/
def execWithholdSummary (p : Nat) (s : State) : Host.Outcome State Fault Refusal :=
  onUnit (partOk p)
    (if !alive s then s
     else
       let open' := (List.range (dieCount s.variant)).filter fun d => (die s d).fSince != 0 && (diePartitions s d).contains p
       if open'.isEmpty then
         let r := part s p
         if decide (s.portTime.toNat < r.wEnd.toNat + msUnits) then s else postSummary s p
       else
         let s := open'.foldl (fun s d =>
           let u := die s d
           setDie (addEpisodes s d (limitCode s d) (u.fSince - 1) u.fLow) d { u with fSince := s.portTime.toNat + 1, fLow := issueFraction s d }) s
         postSummary s p)

/-! ### Supply warning (R451, R452) -/

/-- The module has power and is not held in reset. -/
def powered (s : State) : Bool := s.power.stage == .cold || s.power.stage == .running

/-- SUPPLY_WARNING: the input falls through 48.0 V. -/
def execSupplyWarning (mv : Nat) (s : State) : Host.Outcome State Fault Refusal :=
  onUnit true
    (if s.power.stage = .off || s.power.warning || warnMv < mv || mv ≤ resetMv then s
     else
       let s := emit (setInput s mv) (.pin "PWR_ALERT#" true)
       let s := limitDies s fun s =>
         setLoop { s with power := { s.power with warning := true, alertPin := true }, flash := { s.flash with suspended := true } } fun _ => 4
       powerEvent s (everyPart s) 0x81 0 0 mv)

/-- WARNING_CLEARED: the input rises through 49.0 V while the warning is in force. -/
def execWarningCleared (mv : Nat) (s : State) : Host.Outcome State Fault Refusal :=
  onUnit true
    (if s.power.stage = .off || !s.power.warning || mv < clearMv then s
     else
       let s := emit (setInput s mv) (.pin "PWR_ALERT#" false)
       let s := { s with power := { s.power with warning := false, alertPin := false }, flash := { s.flash with suspended := false } }
       powerEvent s (everyPart s) 0x81 1 0 mv)

/-! ### Samples and the cap (R458, R459, R472) -/

/-- CURRENT_SAMPLE: input power, energy, and the limit of 72 A. -/
def execCurrentSample (mv ma : Nat) (s : State) : Host.Outcome State Fault Refusal :=
  onUnit true
    (if !powered s then s
     else
       let pj := s.power.energyPj + mv * ma
       let s := { s with power := { s.power with
         inputMv := mv, inputMa := ma, energy := s.power.energy + pj / 1000000, energyPj := pj % 1000000,
         samples := (mv * ma :: s.power.samples).take 1000 } }
       if 72000 < ma then limitDies s fun s => setLoop s fun f => Nat.min f 16 else s)

/-- Mean input power of the last 100 us, in uW (R458). -/
def loopMean (s : State) : Nat := let l := s.power.samples.take 100; if l.isEmpty then 0 else l.sum / l.length

/-- Estimate of a partition's draw since the loop last ran, in uW: the matrix steps that its clusters issued, weighted by input format,
and a base share for each cluster (R457; DESIGN CHOICE for the interval, DESIGN CHOICE, log 81). -/
def drawOf (s : State) (p : Nat) : Nat :=
  (((List.range (clusterCount s.variant)).filter fun c => clusterOwner s c == some p).map fun c =>
    Config.clusterWeight + ((cluster s c).activity.map fun (k, n) => n * Config.stepWeight k).sum).sum

/-- The partition draws above its power share of the module's input power (R421, R457; DESIGN CHOICE, log 81). -/
def overShare (s : State) (p : Nat) : Bool := decide ((partCfg s p).share * loopMean s < drawOf s p * 2 ^ 16)

/-- Place of a cluster in the order of R421; 4 is a cluster of no partition. -/
def capRank (s : State) (c : Nat) : Nat :=
  match clusterOwner s c with
  | none => 4
  | some p => if overShare s p then 1 else if (partCfg s p).lc then 3 else 2

def dieRank (s : State) (d : Nat) : Nat := ((List.range 16).map fun c => capRank s (16 * d + c)).foldl Nat.min 4

/-- The dies that R421 selects first, of those whose f can be lowered. -/
def capDies (s : State) : List Nat :=
  let can := (List.range (dieCount s.variant)).filter fun d => decide (4 < (die s d).fLoop)
  can.filter fun d => can.all fun e => decide (dieRank s d ≤ dieRank s e)

/-- The counts of matrix steps begin again. -/
def clearActivity (s : State) : State := { s with clusters := s.clusters.map fun (c, x) => (c, { x with activity := [] }) }

/-- POWER_CAP_LOOP: one step down on the dies that R421 selects above the cap, one step up below 95% of it (R458). -/
def execPowerCapLoop (s : State) : Host.Outcome State Fault Refusal :=
  onUnit true
    (if !powered s then s
     else
       let cap := capInForce s * 1000000
       let mean := loopMean s
       let lower := fun (s : State) => (capDies s).foldl (fun s d => modDie s d fun u =>
         { u with fLoop := u.fLoop - 1, fOver := (u.fOver ++ (diePartitions s d).filter (overShare s)).eraseDups }) s
       clearActivity
         (if cap < mean then limitDies s lower
          else if 100 * mean < 95 * cap then limitDies s fun s => setLoop s fun f => Nat.min 64 (f + 1)
          else s))

/-! ### FRU EEPROM (R468, R480, R481) -/

/-- What the EEPROM answers to a read at an I2C address: 8 KiB as written at manufacture, while it has its supply. Nothing writes it,
and the device never drives the bus. -/
def fruRead (s : State) (addr off : Nat) : Option Byte :=
  if s.power.fru3v3 && addr == 0x50 + s.power.ga.toNat && decide (off < 8192) then some (Config.fruByte off) else none

/-! ### Temperature (R460, R466 to R468) -/

/-- 115 C: the latch, THERM_TRIP#, and every converter off. -/
def thermalTrip (s : State) (d n : Nat) : State :=
  let s := emit { s with power := { s.power with latch := some (d, n), tripPin := true } } (.pin "THERM_TRIP#" true)
  let s := coldReset s .off
  { s with power := { s.power with coldCause := 4 } }

/-- One step of thermal limiting of a compute die, at most every 10 us (R460). (DESIGN CHOICE, log 63) -/
def thermalStep (s : State) (d : Nat) : State :=
  let u := die s d
  let ts := dieTemps s d
  let hot := ts.any fun t => decide (1000 ≤ t)
  let cool := ts.all fun t => decide (t < 970)
  let due := u.thermAt = 0 || decide (u.thermAt + 999 ≤ u.time.toNat)
  let most := ts.foldl max 0
  if hot && due then
    let s := limitDies s fun s => setDie s d { u with fTherm := Nat.max 4 (u.fTherm - 1), thermLimiting := true, thermAt := u.time.toNat + 1 }
    if u.thermLimiting then s else powerEvent s (everyPart s) 0x84 0 (bit9 d) (tempBits most)
  else if cool && due && u.fTherm < 64 then
    let f := u.fTherm + 1
    let s := limitDies s fun s => setDie s d { u with fTherm := f, thermLimiting := f != 64, thermAt := u.time.toNat + 1 }
    if f = 64 then powerEvent s (everyPart s) 0x84 1 (bit9 d) (tempBits most) else s
  else s

/-- Dies with a sensor above 105 C, and the hottest reading. -/
def hotDies (s : State) : BitVec 9 := BitVec.ofNat 9 (maskOf 9 fun d => present s d && (dieTemps s d).any fun t => decide (1050 < t))
def hottestReading (s : State) : Int := ((List.range 9).flatMap fun d => if present s d then dieTemps s d else []).foldl max 0

/-- The limit above 105 C ends once every sensor reads below 100 C (R467). -/
def endHot (s : State) : State :=
  if !s.power.hot || ((List.range 9).any fun d => present s d && (dieTemps s d).any fun t => decide (1000 ≤ t)) then s
  else
    let s := limitDies s fun s => { s with power := { s.power with hot := false } }
    powerEvent s (everyPart s) 0x85 1 0 (tempBits (hottestReading s))

/-- SENSOR_SAMPLE (R460, R467). -/
def execSensorSample (d n : Nat) (t : Int) (s : State) : Host.Outcome State Fault Refusal :=
  onUnit (dieOk d && sensorOk n)
    (if !powered s || !present s d || sensorCount d ≤ n then s
     else
       let s := modDie s d fun u => { u with temps := put 250 u.temps n t }
       if 1150 ≤ t then thermalTrip s d n
       else endHot (if d = 8 then trainLinks s else thermalStep (trainLinks s) d))

/-- HOT_SENSOR_TIMEOUT: a sensor has been above 105 C for 1 ms (R467). -/
def execHotSensorTimeout (s : State) : Host.Outcome State Fault Refusal :=
  onUnit true
    (if !powered s || s.power.hot || !overHot s then s
     else
       let s := limitDies s fun s => { s with power := { s.power with hot := true } }
       powerEvent s (everyPart s) 0x85 0 (hotDies s) (tempBits (hottestReading s)))

/-- Every sensor but one reads below a limit. -/
def othersBelow (s : State) (d n : Nat) (limit : Int) : Bool :=
  (List.range 9).all fun e => !present s e || (dieTemps s e).zipIdx.all fun (t, k) => (e == d && k == n) || decide (t < limit)

/-- LATCH_SENSOR_READ: the sensor that tripped reads `t`. Once every sensor reads below 90 C the latch is cleared, its journal record
written, and the cold start goes on (R468). (DEDUCED, log 79) -/
def execLatchSensorRead (t : Int) (s : State) : Host.Outcome State Fault Refusal :=
  onUnit true
    (match s.power.latch with
     | none => s
     | some (d, n) =>
       if s.power.stage ≠ .cold then s
       else
         let s := { s with power := { s.power with latchTemp := t } }
         if decide (900 ≤ t) || !othersBelow s d n 900 then s
         else
           let s := addJournal s { type := 3, key := [d, n], payload := [tempBits t, s.portTime.toNat] }
           let s := emit { s with power := { s.power with latch := none, tripPin := false } } (.pin "THERM_TRIP#" false)
           trainLinks { s with power := { s.power with coldCause := 4 } })

/-- FRU_3V3_REMOVAL: the latch is lost and THERM_TRIP# released (R468). -/
def execFru3v3Removal (s : State) : Host.Outcome State Fault Refusal :=
  onUnit true (emit { s with power := { s.power with fru3v3 := false, latch := none, tripPin := false } } (.pin "THERM_TRIP#" false))

/-! ### Droop (R463, R464) -/

/-- Launches with a team on a die are not charged for ticks of withheld tokens (R407, R408, R420). -/
def excludeTime (s : State) (d ticks : Nat) : State :=
  let tags := ((List.range 16).flatMap fun c => (cluster s (16 * d + c)).teams.map (·.task)).eraseDups
  let ids := ((s.tasks.filter fun t => tags.contains t.tag).map (·.launch)).eraseDups
  ids.foldl (fun s id => modLaunch s id fun l => { l with excluded := l.excluded + ticks }) s

/-- DROOP_TRIP: a compute die withholds every issue token; on the IOD only clocks are stretched. (DEDUCED, log 62) -/
def execDroopTrip (d n : Nat) (s : State) : Host.Outcome State Fault Refusal :=
  onUnit (dieOk d && Sys2Proof.nodeOk n)
    (if !powered s || d = 8 || !present s d then s
     else modDie s d fun u =>
       if u.withholding then { u with trippedNodes := u.trippedNodes ||| bit16 n }
       else { u with withholding := true, withholdStart := s.portTime, trippedNodes := bit16 n, episodes := bump 0xFFFF u.episodes })

/-- Withholding ends: the time withheld is reported and is not metered. -/
def endDroop (s : State) (d : Nat) : State :=
  let u := die s d
  let start := u.withholdStart.toNat
  let s := setDie s d { u with withholding := false, trippedNodes := 0 }
  addEpisodes (excludeTime s d ((s.portTime.toNat - start) / 100)) d 0x86 start (issueFraction s d)

/-- DROOP_END: every detector reads above setpoint - 15 mV. -/
def execDroopEnd (d : Nat) (s : State) : Host.Outcome State Fault Refusal :=
  onUnit (dieOk d) (if (die s d).withholding then endDroop s d else s)

/-- DROOP_LIMIT: at 2 us withholding ends and f is set to 16/64. -/
def execDroopLimit (d : Nat) (s : State) : Host.Outcome State Fault Refusal :=
  onUnit (dieOk d)
    (if (die s d).withholding then limitDies (endDroop s d) fun s => modDie s d fun u => { u with fLoop := Nat.min u.fLoop 16 } else s)

/-! ### Ageing and the control complex (R461, R470, R471) -/

/-- The die's exhausted offset is recorded already. -/
def ageRecorded (s : State) (d : Nat) : Bool :=
  (s.flash.journal ++ s.flash.waiting).any fun r => r.type == 4 && r.key == [d]

/-- AGEING_MONITOR_READ: 5 mV more, or beyond 20 mV the die will be held out from the next cold start. -/
def execAgeingMonitorRead (d : Nat) (slow : Bool) (s : State) : Host.Outcome State Fault Refusal :=
  onUnit (dieOk d)
    (if !alive s || s.restart.active || !present s d || !slow then s
     else
       let u := die s d
       if u.voff < 20 then addJournal (setDie s d { u with voff := u.voff + 5 }) { type := 2, key := [d], payload := [u.voff + 5] }
       else if ageRecorded s d then s
       else
         let s := { s with power := { s.power with age := true } }
         let s := powerEvent s [0] 0x87 0 (bit9 d) u.voff
         addJournal s { type := 4, key := [d], payload := [2] })

/-- CONTROL_COMPLEX_STEP_CHANGE (R461, R476). -/
def execControlComplexStepChange (n : Nat) (s : State) : Host.Outcome State Fault Refusal :=
  onUnit true (if powered s && n < 5 then { s with power := { s.power with ccStep := n } } else s)

end Sys2Proof.Machine
end

