-- ==== Sys2Proof/Machine/Lifecycle.lean ====
section
/-! DEFINITION. Cold start, reduced and full service, the detection of a failed agent, and the warm restart: R516 to R522, R527, R534 to
R542 of 18_startup_restart_recovery, R55, R213, R215, R216, R256, R282, R301, R302. -/

namespace Sys2Proof.Machine
open Sys2Proof.Num

/-! ### What cold start and warm restart share -/

def computeDies (s : State) : List Nat := List.range (dieCount s.variant)

/-- Training has ended: a link that did not form is held out, and a die without its link to the IOD with it (R321, R323, R328). -/
def endTraining (s : State) : State :=
  let s := (List.range 16).foldl (fun s i => if (link s i).st = 1 then linkHeld s i 4 else s) s
  (computeDies s).foldl (fun s d => if linkServes (link s d) || (die s d).state == .heldOut then s else holdByLink s d 4) s

/-- Words of a die, from its link to the IOD; the IOD's from any link. -/
def presentedWords (s : State) (d : Nat) : List W64 :=
  if d = 8 then (((computeDies s).find? fun k => linkServes (link s k)).map fun k => (link s k).cwB).getD []
  else (link s d).cwA

def dieFmt (s : State) (d : Nat) : Nat := wordBits (look [] s.dieWords d) 1 14 0

/-- The effective set over the dies that serve, the IOD included (R320). -/
def formSet (s : State) : State :=
  let ds := (List.range 9).filter fun d => d == 8 || dieServes s d
  { s with dev := { s.dev with fmt := BitVec.ofNat 16 (ds.foldl (fun m d => m &&& dieFmt s d) 0x7FFF) } }

/-- Send KEY_LOAD to every die that serves (R510). -/
def sendKeys (s : State) : State :=
  let ds := (computeDies s).filter (dieServes s)
  let s := modDie s 8 fun u => { u with keyed := true }
  emits (ds.foldl (fun s d => modDie s d fun u => { u with keyed := false }) s) (ds.map fun d => .front "KEY_LOAD" d 0)

/-- Slices and read-only caches are disabled; step 1 of R250 then invalidates and registers those of the dies that serve and that
are not fenced, and the enables of R250 bring them back. -/
def resetCaches (s : State) : State :=
  let s := (allSlices s.variant).foldl (fun s i =>
    let s := modSlice s i fun sl => { setErrs := sl.setErrs }
    if dieServes s (i / 16) && !(die s (i / 16)).slFenced.getLsbD (i % 16) then invalidateSlice s i else s) s
  (allClusters s.variant).foldl (fun s c =>
    let u := die s (c / 16)
    modCluster s c fun x =>
      { x with ro := [], roInvalid := dieServes s (c / 16) && !u.clFenced.getLsbD (c % 16), roEnabled := false }) s

/-- Every slice and read-only cache that may serve has been enabled (R516 step 10, R534 phase 4). -/
def cachesOn (s : State) : Bool :=
  ((allSlices s.variant).all fun i => !dieServes s (i / 16) || (die s (i / 16)).slFenced.getLsbD (i % 16) || (sliceOf s i).enabled)
  && (allClusters s.variant).all fun c => !dieServes s (c / 16) || (die s (c / 16)).clFenced.getLsbD (c % 16) || (cluster s c).roEnabled

/-! ### Cold start (R516 to R518) -/

/-- Apply a governing journal record (R506, R517): a pending retirement comes into force (R213). -/
def applyJournalRecord (s : State) (r : JRec) : State :=
  match r.type with
  | 1 =>
    let row : Retired := { chan := r.key.getD 0 0, bank := r.key.getD 1 0, row := r.key.getD 2 0, base := r.payload.getD 0 0, inForce := true }
    let s := { s with retired := upsert (isRow row.chan row.bank row.row) row s.retired }
    if r.payload.getD 1 0 = 1 then s else addJournal s { r with payload := [row.base, 1] }
  | 2 => modDie s (r.key.getD 0 0) fun u => { u with voff := r.payload.getD 0 0 }
  | 4 => if r.key.getD 0 0 < 8 then modDie s (r.key.getD 0 0) fun u => { u with state := .heldOut, hold := r.payload.getD 0 0 } else s
  | _ => s

def applyJournal (s : State) : State := s.flash.journal.foldl applyJournalRecord s

/-- Stockpile memory serves: no channel failed training, and none has more than 2,048 retired rows (R213). -/
def stockServes (s : State) : Bool :=
  (List.range 32).all fun k => !(chan s (128 + k)).failed && decide ((s.retired.filter fun x => x.chan == 128 + k).length ≤ 2048)

/-- Channels that reported no failure are trained. -/
def trainStock (s : State) : State :=
  let s := (List.range 32).foldl (fun s k => modChan s (128 + k) fun c => { c with trained := !c.failed, tempAtTrain := c.temp }) s
  { s with dev := { s.dev with stock := stockServes s } }

/-- Dies whose link formed are under test, and the IOD serves (R516 steps 3 and 6). -/
def startDies (s : State) : State :=
  let s := (computeDies s).foldl (fun s d =>
    if (die s d).state == .heldOut then s else modDie s d fun u => { u with state := .testing }) s
  let s := modDie s 8 fun u => { u with state := .inService, logicPassed := true }
  (8 :: computeDies s).foldl (fun s d => { s with dieWords := put [] s.dieWords d (presentedWords s d) }) s

/-- QK of each defined partition is bound; the user slots are declared (R356, R359, R363). -/
def applyQueues (s : State) : State :=
  let fprOf := fun (p : Nat) => s.image.queues.any fun q => q.part == p && q.q == 0 && q.fpr
  let s := (definedParts s).foldl (fun s p => setQueue s p 0 (qkQueue (partCfg s p) (fprOf p) (qcmpFirst 0 0))) s
  (s.image.queues.filter fun q => q.q != 0).foldl (fun s q =>
    setQueue s q.part q.q { declared := true, devenq := q.devenq, fpr := q.fpr }) s

/-- Each cluster takes its configured local-store size (R164). -/
def applyClusters (s : State) : State :=
  (allClusters s.variant).foldl (fun s c => modCluster s c fun x => { x with ls := configuredL s c }) s

/-- Steps 2 to 11 of R516, once training has ended. (DESIGN CHOICE, log 65) -/
def coldStart (s : State) : State :=
  let s := startDies (endTraining (applyJournal s))
  let s := applyClusters (applyQueues (selectSlot (trainStock s)))
  let s := sendKeys (formSet (generateKeys s))
  -- face, stockpile and cluster memory are zeroed (R166, R215)
  let s := resetCaches { s with mem := [], poison := [], crushers := [] }
  { s with power := { s.power with stage := .running },
           dev := { s.dev with cold := s.power.coldCause, st := 0, gen := 0 },
           sec := { s.sec with idReady := true, certLen := Config.certLength (flashBytes s 0 0x10000) } }

/-- R518: the IOD array self-test failed, the IOD's words lack a mandatory bit, or no die's link to the IOD trains: the module stays in
cold start. -/
def startBlocked (s : State) : Bool :=
  s.power.arrayFailed || ((computeDies s).any fun d => (link s d).cause == 2) || (computeDies s).all fun d => !linkServes (link s d)

/-- COLD_START. -/
def execColdStart (s : State) : Host.Outcome State Fault Refusal :=
  onUnit true (if s.power.stage ≠ .cold || !sensorsAllow s || startBlocked s then s else coldStart s)

/-- Every present compute die has been tested or is held out (R516 step 12). -/
def diesTested (s : State) : Bool :=
  (computeDies s).all fun d => (die s d).state == .inService || (die s d).state == .heldOut

/-- REDUCED_SERVICE (R519). -/
def execReducedService (s : State) : Host.Outcome State Fault Refusal :=
  onUnit true (if alive s && s.dev.st = 0 && diesTested s && cachesOn s then { s with dev := { s.dev with st := 1 } } else s)

/-- FULL_SERVICE (R522): the first admission pass. -/
def execFullService (s : State) : Host.Outcome State Fault Refusal :=
  onUnit true
    (if alive s && s.dev.st = 1 && (s.dev.ledger || s.dev.iodCrusherFailed) && diesTested s then
       runPass (returnAllL { s with dev := { s.dev with st := 2 } }) true
     else s)

/-! ### Detection (R55, R213, R301, R527) -/

/-- OSCILLATOR_CHECK: beyond 0.5% it is retrimmed, beyond 5% or stopped its die is lost and held out at the restart (R55). -/
def execOscillatorCheck (d : Nat) (ppm : Int) (stopped : Bool) (s : State) : Host.Outcome State Fault Refusal :=
  onUnit (dieOk d)
    (if !upkeep s || !dieServes s d || !(stopped || decide (50000 < ppm.natAbs)) then s
     else raiseFatal (modDie s d fun u => { u with oscOk := !stopped, holdNext := if d = 8 then 0 else 5 }) 8 0)

/-- 1 ms in the 10 ns ticks of a die's counter. -/
def watchdogTicks : Nat := 100000

/-- What is timed since `since` by the counter of die `own` has waited 1 ms (R54, R301). -/
def overdue (s : State) (own since : Nat) : Bool := decide (since + watchdogTicks ≤ (die s own).time.toNat)

/-- Die whose answer a miss entry awaits: the home's, or for a home the die of the memory, which is its own. -/
def missFrom (s : State) (line : Nat) : Nat := ((homeSlice s.variant (128 * line)).getD 128) / 16

/-- Dies whose answer an outstanding core read awaits: that of its slice and that of its home, the cluster's, or the IOD for a register;
none for a remote-device window, whose accesses have no watchdog (R301). -/
def readFrom (s : State) (a : Access) : List Nat :=
  match target s.variant (128 * a.line) with
  | .window c _ => [c / 16]
  | .register _ => [8]
  | .remote => []
  | .hole => []
  | _ => [gidDie a.gid, missFrom s a.line]

/-- A watchdog of slice `i` that awaits die `d` has run out: of a transaction, a miss entry or a bring-back (R301). -/
def sliceOverdue (s : State) (i d : Nat) : Bool :=
  (sliceOf s i).txns.any (fun t => t.awaiting.getLsbD d && overdue s (i / 16) t.since)
    || (sliceOf s i).miss.any (fun m => m.sent && !isRemoteLine s m.line && missFrom s m.line == d && overdue s (i / 16) m.since)
    || (i / 16 == d && (crusher s i).lines.any fun l => awaitsBack l && overdue s d l.since)

/-- Some watchdog that awaits an answer of die `d` has run out. -/
def watchdogOut (s : State) (d : Nat) : Bool :=
  (List.range 144).any (fun i => sliceOverdue s i d)
    || s.accs.any fun a => a.kind == .load && !isEngine a.gid && (readFrom s a).contains d && overdue s (gidDie a.gid) a.since

/-- WATCHDOG_EXPIRY: an answer of the die has not come within 1 ms, and the die is recorded; a dead face channel holds it out at the
restart (R301, R302, R213). -/
def execWatchdogExpiry (d : Nat) (face : Bool) (s : State) : Host.Outcome State Fault Refusal :=
  onUnit (dieOk d)
    (if !alive s || !dieServes s d || !watchdogOut s d then s
     else raiseFatal (modDie s d fun u => if face && d ≠ 8 then { u with holdNext := 6 } else u) 7 (bit9 d))

/-- FIRMWARE_WATCHDOG (R527). -/
def execFirmwareWatchdog (s : State) : Host.Outcome State Fault Refusal :=
  onUnit true (if alive s then raiseFatal s 9 0 else s)

/-! ### Warm restart, phases 1 to 4 (R534 to R536) -/

/-- Phase 2: every open line is discarded (R282). -/
def discardAllOpen (s : State) : State :=
  (allSlices s.variant).foldl (fun s i => (crusher s i).lines.foldl (fun s l => discardOpen s i l.line) s) s

/-- A die's lines can reach a home: the home serves, and the links between them do (R256, R22). -/
def reachesHome (s : State) (d h : Nat) : Bool :=
  dieServes s h &&
    (if h = 8 then linkServes (link s d)
     else ((ringLink s.variant d h).map fun i => linkServes (link s i)).getD false || (linkServes (link s d) && linkServes (link s h)))

/-- Dirty data of a slice: lines, then spoil-buffer entries that have not left. -/
def dirtyOf (sl : Slice) : List (Nat × BitVec 4 × Line × W32) :=
  (sl.lines.filter fun c => c.dirty != 0).map (fun c => (c.line, c.dirty, c.data, c.poison))
    ++ (sl.spoil.filter fun e => !e.departing).map fun e => (e.line, e.dirty, e.data, e.poison)

/-- Phase 2: proxies write to the homes they can reach, then homes to memory (R256). -/
def writeOut (s : State) : State :=
  let proxy := (List.range 128).filter fun i => i / 16 < dieCount s.variant
  let s := proxy.foldl (fun s i =>
    (dirtyOf (sliceOf s i)).foldl (fun s (l, m, v, q) =>
      match homeSlice s.variant (128 * l) with
      | some h => if isForeignIn s i l && reachesHome s (i / 16) (h / 16) then homeStore s h l (sectorBe m) v q 0 else s
      | none => s) s) s
  (allSlices s.variant).foldl (fun s i =>
    (dirtyOf (sliceOf s i)).foldl (fun s (l, m, v, q) => if isForeignIn s i l then s else memStoreLine s l m v q) s) s

/-- A launch's groups: one of them is parked, resident or saved. -/
def hasParked (s : State) (id : Nat) : Bool :=
  let of := fun (g : Group) => g.park.isSome && ((taskOf s g.task).map fun t => t.launch == id).getD false
  (s.groups.any fun (_, g) => (g.map of).getD false)
    || s.clusters.any fun (_, x) => x.snaps.any fun (_, v) =>
      (v.map fun sn => sn.teams.any fun (_, gs, _) => gs.any fun (_, g) => of g).getD false

/-- What the journal knows of each LAUNCH at detection (R538). -/
def markFates (s : State) : State :=
  s.launches.foldl (fun s l =>
    let fate : Byte := if hasParked s l.id then 0xF1 else if l.scopeOne then 0xF2 else 0
    if fate = 0 then s else modCmd s l.part l.q l.seq fun c => if c.fate = 0 then { c with fate } else c) s

/-- A launch as it was accepted (R538: every node runs from the start). -/
def freshLaunch (l : Launch) : Launch :=
  { l with constSlot := none, nodes := [], started := false, startTime := 0, excluded := 0, demoted := false, failed := 0, scopeOne := false }

/-- Phase 3: what the reset of the dies and of the IOD logic loses (R535). Clusters come back with their configured L and LAUNCH 0,
whatever service the restart found. (DESIGN CHOICE, log 55) -/
def loseRunning (s : State) : State :=
  let inWindow := fun (a : Nat) => decide (winBase ≤ a) && decide (a < regBase)
  { s with
    groups := [], accs := [], tasks := [], crushers := [], launches := s.launches.map freshLaunch,
    mem := s.mem.filter fun (a, _) => !inWindow a,
    poison := s.poison.filter fun (k, _) => decide (k < 2 ^ 48),
    clusters := s.clusters.map fun (c, x) => (c, { ls := configuredL s c, bankErrs := x.bankErrs }),
    slices := s.slices.map fun (i, sl) => (i, { setErrs := sl.setErrs }),
    admission := { s.admission with lastStart := [] },
    qps := s.qps.map fun (i, x) => (i, { x with sendq := x.sendq.map fun r => { r with copy := false } }),
    parts := s.parts.map fun (p, r) =>
      (p, { r with slices := [], overruns := [], overrunSince := [], resetting := false,
                   ctxs := r.ctxs.map fun (k, c) => (k, c.map fun c => { c with slotsUsed := [] }) }),
    dies := s.dies.map fun (d, u) => (d, { u with withholding := false, trippedNodes := 0, hops := [] }) }

/-- Phase 4: links train again; those held out stay so (R323). -/
def retrainLinks (s : State) : State :=
  (List.range 16).foldl (fun s i =>
    let l := link s i
    if linkServes l || l.st = 5 then setLink s i { l with st := 1, cwA := [], cwB := [], fwd := {}, bwd := {}, recalPass := [], postponed := false }
    else s) s

/-- Times at which a die was a suspect within the last 24 h. -/
def recentSuspect (s : State) (d : Nat) : List Nat := (die s d).suspects.filter fun t => decide (iodNow s < t + dayTicks)

/-- Phase 4 for one die: held out at once, or tested as a suspect (R55, R213, R536). -/
def judgeDie (s : State) (dies : BitVec 9) (d : Nat) : State :=
  let u := die s d
  if u.state == .heldOut || u.state == .absent then s
  else if u.holdNext ≠ 0 then setDieHeld (setDie s d { u with holdNext := 0 }) d true u.holdNext
  else if dies.getLsbD d then
    let recent := recentSuspect s d
    let s := setDie s d { u with suspects := recent ++ [iodNow s] }
    if recent.isEmpty then modDie s d fun u => { u with state := .testing, retest := true, logicPassed := false, ledgerPassed := false }
    else setDieHeld s d true 9
  -- a die that stays in service has its face memory back
  else leaveSelfRefresh s d

/-- Phase 1: the generation, STATE, and what a restart abandons (R504, R511, R525, R534, R541). -/
def contain (s : State) (cause attempt : Nat) (dies : BitVec 9) : State :=
  let first := !s.restart.active
  let prev := if s.dev.testBusy && s.dev.testScope = 2 then s.dev.testPrev else s.dev.st
  let s := abandonTest s
  let heldNow := BitVec.ofNat 9 (maskOf 9 fun d => (die s d).state == .heldOut)
  let s := if s.flash.updOpen then closeUpdate (markSlot s (updateSlot s) .empty) else s
  { s with
    restart := { fatal := false, fatalCause := 0, fatalDies := 0, active := true, attempt, cause,
                 suspect := if first then dies else s.restart.suspect ||| dies,
                 held := if first then 0 else s.restart.held, heldBefore := if first then heldNow else s.restart.heldBefore,
                 durationMs := s.restart.durationMs, since := if first then (die s 8).time else s.restart.since,
                 detected := if first then s.portTime else s.restart.detected, prevState := if first then prev else s.restart.prevState },
    dev := { s.dev with gen := s.dev.gen + 1, st := 3 },
    sec := { s.sec with busy := false, done := if s.sec.busy then false else s.sec.done } }

/-- Phases 1 to 4 of one attempt. -/
def restartAttempt (s : State) (cause attempt : Nat) (dies : BitVec 9) : State :=
  let s := markFates (contain s cause attempt dies)
  let s := loseRunning (enterSelfRefresh (writeOut (discardAllOpen s)))
  let s := retrainLinks (forceRows s)
  let s := (computeDies s).foldl (fun s d => judgeDie s dies d) s
  resetCaches (sendKeys (formSet s))

/-- DOMAIN_FATAL: the condition raised by a failed agent, or named by the command, starts or repeats the sequence; a third attempt, or
the IOD a suspect again, ends it in a cold start (R302, R534, R536, R541). -/
def execDomainFatal (cause : Byte) (suspects : BitVec 9) (s : State) : Host.Outcome State Fault Refusal :=
  onUnit true
    (let r := s.restart
     let c := if r.fatal then r.fatalCause else cause.toNat
     let dies := if r.fatal then r.fatalDies ||| suspects else suspects
     if !alive s || c = 0 || 9 < c then s
     else
       let attempt := if r.active then r.attempt + 1 else 1
       if 3 ≤ attempt || (r.active && r.suspect.getLsbD 8 && dies.getLsbD 8) then beginCold s 5
       else restartAttempt s c attempt dies)

/-! ### Warm restart, phase 5 (R534, R538, R539, R542) -/

/-- Number by which an unreadable journal record is named: its partition's number beside its place in the order of acceptance. (DESIGN CHOICE, log 66) -/
def recordNumber (p : Nat) (c : Cmd) : Nat := 16 * c.order + p

/-- The uncommitted commands of a partition, in order of acceptance. -/
def uncommittedCmds (s : State) (p : Nat) : List (Nat × Cmd) := (openCmds s p).mergeSort fun a b => decide (a.2.order ≤ b.2.order)

/-- Code with which a command fails under R538, 0 when it is replayed or executed again. -/
def disposal (unreadable : List Nat) (p : Nat) (c : Cmd) : Nat :=
  if unreadable.contains (recordNumber p c) then 0xF4
  else if cOp c = 0x01 then (if c.fate ≠ 0 then c.fate.toNat else if c.replays = 1 then 0xF3 else 0)
  else if cOp c = 0x8B then 0xA5
  else 0

/-- The launch of a command. -/
def launchOfCmd (s : State) (p q : Nat) (seq : W32) : Option Launch := s.launches.find? fun l => l.part == p && l.q == q && l.seq == seq

/-- Dispose of one command. -/
def dispose (unreadable : List Nat) (p : Nat) (s : State) (qc : Nat × Cmd) : State :=
  let (q, c) := qc
  let code := disposal unreadable p c
  if code = 0 then
    let s := modCmd s p q c.seq fun c => { c with replayed := true, replays := if cOp c = 0x01 then c.replays + 1 else c.replays }
    match launchOfCmd s p q c.seq with
    | some l => modLaunch s l.id fun l => { l with acceptTime := (die s 8).time }
    | none => s
  else
    match launchOfCmd s p q c.seq with
    | some l =>
      let s := if code = 0xF2 then emit s (.front "ABORTED" l.handle p) else s
      finishCmd (dropLaunch s l) p q c.seq code
    | none => finishCmd s p q c.seq code

/-- QCMP of every bound queue shows the new generation (R539). -/
def writeGenerations (s : State) : State :=
  { s with parts := s.parts.map fun (p, r) =>
      (p, { r with queues := r.queues.map fun (q, x) => (q, if x.bound then { x with qcmp := qcmpGen x.qcmp s.dev.gen.toNat } else x) }) }

/-- Bytes 24 to 63 of an event of type 6. -/
def restartSpec (s : State) (again failed : Nat) : List Byte :=
  let r := s.restart
  leBytes 8 r.detected.toNat ++ leBytes 8 s.portTime.toNat ++ [BitVec.ofNat 8 r.cause, BitVec.ofNat 8 r.attempt] ++ leBytes 2 r.held.toNat
    ++ leBytes 4 again ++ leBytes 4 failed

/-- The event of type 6 goes first, then the held events (R392, R542). -/
def releaseAfter (s : State) (p : Nat) (e : List Byte) : State :=
  if !(part s p).ringSet then s
  else
    let s := modPart s p fun r =>
      { r with evHeld := (e :: r.evHeld).take 64,
               evLost := if r.evHeld.length < 64 then r.evLost else BitVec.ofNat 32 (bump 0xFFFFFFFF r.evLost.toNat) }
    releaseEvents p 64 s

/-- Dies held out at this restart. -/
def heldAtRestart (s : State) : BitVec 9 :=
  BitVec.ofNat 9 (maskOf 9 fun d => (die s d).state == .heldOut && !s.restart.heldBefore.getLsbD d)

/-- Phase 5. -/
def resumeService (s : State) (unreadable : List Nat) : State :=
  let s := endTraining s
  let s := { s with restart := { s.restart with held := heldAtRestart s } }
  let s := formSet s
  let s := if s.restart.prevState = 2 then runPass s false else s
  let s := writeGenerations s
  let todo := (definedParts s).map fun p => (p, uncommittedCmds s p)
  let s := todo.foldl (fun s (p, l) => l.foldl (dispose unreadable p) s) s
  let ms := (iodNow s - s.restart.since.toNat) / 100000
  let s := { s with restart := { s.restart with active := false, durationMs := Nat.min 0xFFFF ms },
                    dev := { s.dev with st := s.restart.prevState } }
  let s := todo.foldl (fun s (p, l) =>
    let codes := l.map fun (_, c) => disposal unreadable p c
    let again := (codes.filter (· = 0)).length
    let failed := (codes.filter fun c => decide (0xF0 ≤ c)).length
    releaseAfter s p (event 6 0 noSlot 0 (restartSpec s again failed))) s
  let s := s.qps.foldl (fun s (i, _) => pumpQp s i) s
  addJournal s (snapshotRecord s)

/-- Every suspect die has had its logic self-test. -/
def suspectsTested (s : State) : Bool := (computeDies s).all fun d => (die s d).state != .testing || (die s d).logicPassed

/-- RESTART_RESUME: phase 5, once the suspects are tested, stockpile memory has retrained, the caches are enabled and no agent has failed again. -/
def execRestartResume (unreadable : List Nat) (s : State) : Host.Outcome State Fault Refusal :=
  onUnit true (if !alive s || !s.restart.active || s.restart.fatal || !suspectsTested s || !stockReady s || !cachesOn s then s else resumeService s unreadable)

end Sys2Proof.Machine
end

