-- ==== Sys2Proof/Machine/Transfers.lean ====
section
/-! DEFINITION. What DMA and collective engines move, enqueued records, and the accesses of windows, registers and remote devices at
their targets: R343, R346, R347, R352, R379, R387, R388, R395, R443, R510. -/

namespace Sys2Proof.Machine
open Sys2Proof.Num

/-! ### A line at its target -/

/-- First code of R26 that an access to a line meets. -/
def lineCheck (s : State) (p line : Nat) (write shape : Bool) : Option Nat := accessCheck s p (128 * line) write shape

/-- Poison of a line of cluster memory by sector, from its uncorrectable words (R163). -/
def windowPoison (s : State) (line : Nat) : W32 :=
  (List.range 4).foldl (fun q j => setPoison q j (poisonPhys s (128 * line + 32 * j) 32)) 0

/-- Read a line at its target outside remote-device windows, through an attribute: a crusher that holds it open closes it first, and
the home keeps it under the attribute (R224, R274). -/
def readLine (s : State) (line attr : Nat) : State × Line × W32 :=
  match target s.variant (128 * line) with
  | .window _ _ => (s, lineOf (readBytes s.mem (128 * line) 128), windowPoison s line)
  | .register _ => (s, regLine s line, 0)
  | _ =>
    let (v, q) := coherentRead s line
    (agentRead s line attr true, v, q)

/-- Write the enabled bytes of a line at its target outside remote-device windows. -/
def writeLine (s : State) (line : Nat) (be : BitVec 128) (d : Line) (attr : Nat) : State :=
  match target s.variant (128 * line) with
  | .window _ _ =>
    (runs 128 be.toNat).foldl (fun s (i, n) => writePhys s (128 * line + i) (((lineBytes d).drop i).take n) 0) s
  | .register _ => regWriteLine s line be d
  | _ => coherentWrite s line be d 0 attr

/-! ### DMA (R379, R395) -/

/-- A descriptor: source, destination, length and byte 20. -/
def descFields (b : List Byte) : Nat × Nat × Nat × Nat := (fieldAt b 0 8, fieldAt b 8 8, fieldAt b 16 4, byteAt b 20)

def descriptorOk (b : List Byte) : Bool :=
  let (_, _, len, f) := descFields b
  decide (1 ≤ len) && decide (len ≤ 262144) && decide (f ≤ 1) && zeroAt b 21 11

/-- Start a descriptor whose bytes are read: DMA_RD for each source line. -/
def startDescriptor (s : State) (t : Task) (b : List Byte) : State :=
  if !descriptorOk b then engineFail s t.tag 0x4A
  else
    let (src, dst, len, f) := descFields b
    if f = 1 && !t.descBusy.isEmpty then s
    else
      let s := modTask s t.tag fun t => { t with descIndex := t.descIndex + 1, inbox := [], descBusy := t.descBusy ++ [{ src, dst, len, left := len }] }
      emits s ((List.range ((src % 128 + len + 127) / 128)).map fun i =>
        let line := src / 128 + i
        let lo := Nat.max src (128 * line)
        let hi := Nat.min (src + len) (128 * line + 128)
        .dma "DMA_RD" t.tag line (BitVec.ofNat 128 ((2 ^ (hi - lo) - 1) * 2 ^ (lo - 128 * line))) 0)

/-- A DMA task that runs and has not failed. -/
def dmaRuns (s : State) (t : Task) : Bool := t.kind == 1 && t.st == .running && t.fault == 0 && !s.restart.active

/-- DMA_DESCRIPTOR: the engine reads and starts its next descriptor (R379). -/
def execDmaDescriptor (task : Nat) (s : State) : Host.Outcome State Fault Refusal :=
  onUnit true
    (match taskOf s task with
     | none => s
     | some t =>
       match launchOf s t.launch with
       | none => s
       | some l =>
         let n := launchNode s l t.node
         let a := nBase n + 32 * t.descIndex
         if !dmaRuns s t || s.dev.st = 4 || nDescs n ≤ t.descIndex then s
         else
           match accessCheck s t.part a false true with
           | some c => engineFail s task c
           | none =>
             if isRemote s a then
               match t.inbox.find? fun (l, _) => l == a / 128 with
               | some (_, d) => startDescriptor s t (slice (lineBytes d) (a % 128) 32)
               | none => if engineBusy s task then s else engineFetch s task t.part (a / 128)
             else
               let o := poisonAny s a 32
               if o ≠ 0 then engineFail s task o.toNat else startDescriptor (agentReads s a 32 0 true) t (readAny s a 32))

/-- DMA_RD: the sectors are read at the target and reach the engine (R379, R254). -/
def execDmaRd (task line : Nat) (sectors : BitVec 4) (s : State) : Host.Outcome State Fault Refusal :=
  onUnit true
    (match taskOf s task with
     | none => s
     | some t =>
       if !dmaRuns s t || !(t.descBusy.any fun d => !(srcPart d line sectors).isEmpty) then s
       else
         match lineCheck s t.part line false true with
         | some c => engineFail s task c
         | none =>
           if isRemote s (128 * line) then
             let n := s.nextTag
             readRemote (engineAccess s task line .load 0) t.part n line sectors 3
           else
             let (s, v, q) := readLine s line (((launchOf s t.launch).map fun l => nAttr (launchNode s l t.node)).getD 0)
             engineData s task line v sectors q)

/-- A write of an engine, checked under R26 where it is used. -/
def engineStore (s : State) (t : Task) (line : Nat) (be : BitVec 128) (d : Line) (attr : Nat) : State :=
  match lineCheck s t.part line true (regBeOk be) with
  | some c => engineFail s t.tag c
  | none =>
    if isRemote s (128 * line) then engineWrite s t line be d
    else engineWrote (writeLine s line be d attr) t.tag line be

/-- DMA_WR: the enabled bytes are written at the target with the node's attribute (R379). -/
def execDmaWr (task line : Nat) (be : BitVec 128) (data : Line) (s : State) : Host.Outcome State Fault Refusal :=
  onUnit true
    (match taskOf s task with
     | none => s
     | some t =>
       let inDesc := fun (d : DescRun) => (runs 128 be.toNat).all fun (i, n) =>
         decide (d.dst ≤ 128 * line + i) && decide (128 * line + i + n ≤ d.dst + d.len)
       if !dmaRuns s t || !(t.descBusy.any inDesc) then s
       else engineStore s t line be data (((launchOf s t.launch).map fun l => nAttr (launchNode s l t.node)).getD 0))

/-- A partial reaches a member (R379, R446): an exact-class ADD, and every reduction within the package, goes to the crushers as
packets; across devices an exact-class partial also goes on as ledger records, and the others combine in ring order from rank 0. -/
def collPart (s : State) (t : Task) (n : List Byte) (line : Nat) (be : BitVec 128) (d : Line) : State :=
  let form := collForm n
  let fmt := BitVec.ofNat 4 (nFmt n)
  match form, remoteGroup s n with
  | .illegal, _ => engineStore s t line be d 0
  | .ledger, g =>
    let recs := elemRecords form fmt be d
    let s := enginePackets s t line (nRed n) fmt recs
    match g with
    | some g => if nScope n = 1 then emit s (.staged t.tag g.window line recs) else s
    | none => s
  | _, some g =>
    if nScope n = 0 then enginePackets s t line (nRed n) fmt (elemRecords form fmt be d)
    else
      let v := if g.rank = 0 then d else ringCombine form (nRed n) fmt be d (ownElems s n line be)
      let s := emit s (.dma "COLL" t.tag line be v)
      if g.rank + 1 = g.members then engineStore s t line be v 0 else s
  | _, none => enginePackets s t line (nRed n) fmt (elemRecords form fmt be d)

/-- COLL: collective data reaches a member and is written there, or is reduced (R395). -/
def execColl (task line : Nat) (d : CollData) (s : State) : Host.Outcome State Fault Refusal :=
  onUnit true
    (match taskOf s task with
     | none => s
     | some t =>
       let n := ((launchOf s t.launch).map fun l => launchNode s l t.node).getD []
       if t.kind ≠ 2 || t.st ≠ .running || t.fault ≠ 0 || s.restart.active then s
       else
         match d with
         | .final be v => engineStore s t line be v 0
         | .part be v =>
           match lineCheck s t.part line true (regBeOk be) with
           | some c => engineFail s task c
           | none => collPart s t n line be v
         | .records recs =>
           match lineCheck s t.part line true false with
           | some c => engineFail s task c
           | none => if collForm n = .ledger then enginePackets s t line 0 (BitVec.ofNat 4 (nFmt n)) recs else s)

/-- The arrival of an engine's task: every write acknowledged and every window flushed; a failed task is done as it stands
(R348, R372). -/
def engineArrive (s : State) (t : Task) (finished : Bool) : State :=
  if t.st ≠ .running || engineBusy s t.tag then s
  else if t.fault ≠ 0 then taskDone s t.tag
  else if !finished || !t.descBusy.isEmpty then s
  else if !t.windows.isEmpty then flushWindows s t.tag
  else closeTask s t.tag

/-- DMA_DONE (R348, R395). -/
def execDmaDone (task : Nat) (s : State) : Host.Outcome State Fault Refusal :=
  onUnit true
    (match taskOf s task with
     | none => s
     | some t =>
       let n := ((launchOf s t.launch).map fun l => nDescs (launchNode s l t.node)).getD 0
       if t.kind ≠ 1 then s else engineArrive s t (decide (n ≤ t.descIndex)))

/-- COLL_DONE (R348, R395). -/
def execCollDone (task : Nat) (s : State) : Host.Outcome State Fault Refusal :=
  onUnit true
    (match taskOf s task with
     | none => s
     | some t => if t.kind ≠ 2 then s else engineArrive s t true)

/-! ### ENQ_REC (R387, R388) -/

/-- An active DEVENQ queue. -/
def enqActive (x : Queue) : Bool := x.declared && x.devenq && x.bound && !x.destroying

/-- The record must be a single-record LAUNCH or NOP that passes R367. -/
def enqRecordOk (s : State) (p q : Nat) (c : Cmd) : Bool :=
  c.words.length == 8 && (cOp c == 0x01 || cOp c == 0x02) && cRecords c == 1 && checkCmd s p q c == 0

/-- Sequence number that the device gives the record at the tail (R359, R387). (DEDUCED, log 49) -/
def enqSeq (x : Queue) : W32 := x.expect.getD (x.lastSeq + 1) + (x.tail - x.head)

/-- Status of R388, in its order: 2, 3, 1. -/
def enqStatus (s : State) (p q : Nat) (c : Cmd) : Nat :=
  let x := queue s p q
  if !enqActive x then 2
  else if !enqRecordOk s p q c then 3
  else if ringSize x ≤ (x.tail - x.head).toNat then 1
  else 0

/-- ENQ_REC: the record is written at the tail, which advances; WB_ACK brings the status. -/
def execEnqRec (p q tag : Nat) (words : List W64) (s : State) : Host.Outcome State Fault Refusal :=
  onUnit (partOk p && slotOk q)
    (if s.restart.active then s
     else
       let x := queue s p q
       let seq := enqSeq x
       let w0 := words.getD 0 0 &&& 0xFFFFFFFF#64 ||| (seq.setWidth 64 <<< 32)
       let ws := w0 :: words.drop 1
       let st := enqStatus s p q { seq, words := ws }
       let s :=
         if st ≠ 0 then s
         else
           let s := agentWrite s p (recordAddr x x.tail) (ws.flatMap fun w => leBytes 8 w.toNat)
           modQueue s p q fun x => { x with tail := x.tail + 1 }
       answerWrite s tag st)

/-! ### Windows and registers (R346, R347) -/

/-- Status 0xB to 0xF of a code of R26. -/
def codeStatus (c : Nat) : Nat := c - 0x10

/-- The line lies in the cluster windows. -/
def isWindowLine (s : State) (line : Nat) : Bool :=
  match target s.variant (128 * line) with
  | .window _ _ => true
  | _ => false

/-- A read at its target. -/
def readAt (s : State) (p tag line : Nat) (sectors : BitVec 4) : State :=
  match lineCheck s p line false true with
  | some c => refuseRead s tag (codeStatus c)
  | none =>
    let (s, v, q) := readLine s line 3
    answerRead s tag line v sectors q

/-- A write at its target. -/
def writeAt (s : State) (p tag line : Nat) (be : BitVec 128) (d : Line) : State :=
  match lineCheck s p line true (regBeOk be) with
  | some c => answerWrite s tag (codeStatus c)
  | none => answerWrite (writeLine s line be d 0) tag 0

/-- RD_WIN (R162, R163). -/
def execRdWin (p tag line : Nat) (sectors : BitVec 4) (s : State) : Host.Outcome State Fault Refusal :=
  onUnit (partOk p) (if isWindowLine s line then readAt s p tag line sectors else s)

/-- WR_WIN. -/
def execWrWin (p tag line : Nat) (be : BitVec 128) (data : Line) (s : State) : Host.Outcome State Fault Refusal :=
  onUnit (partOk p) (if isWindowLine s line then writeAt s p tag line be data else s)

/-- RD_REG: every register of the sectors is read, without side effects. -/
def execRdReg (p tag line : Nat) (sectors : BitVec 4) (s : State) : Host.Outcome State Fault Refusal :=
  onUnit (partOk p) (if isRegister s (128 * line) then readAt s p tag line sectors else s)

/-- WR_REG: the enabled bytes must form whole 8-byte registers (R36). -/
def execWrReg (p tag line : Nat) (be : BitVec 128) (data : Line) (s : State) : Host.Outcome State Fault Refusal :=
  onUnit (partOk p) (if isRegister s (128 * line) then writeAt s p tag line be data else s)

/-! ### Remote devices (R251, R343, R352, R443) -/

/-- RD_REM. -/
def execRdRem (p tag line : Nat) (sectors : BitVec 4) (attr : Nat) (s : State) : Host.Outcome State Fault Refusal :=
  onUnit (partOk p) (if isRemote s (128 * line) then readRemote s p tag line sectors attr else s)

/-- WR_REM. -/
def execWrRem (p tag line : Nat) (be : BitVec 128) (data : Line) (s : State) : Host.Outcome State Fault Refusal :=
  onUnit (partOk p) (if isRemote s (128 * line) then writeRemote s p tag line be data else s)

/-- FLUSH_REM. -/
def execFlushRem (p tag base : Nat) (s : State) : Host.Outcome State Fault Refusal :=
  onUnit (partOk p) (if isRemote s (128 * base) then flushRemote s p tag base else s)

/-- INV_REM: an IOD slice invalidates the partition's copies and answers (R343). -/
def execInvRem (p sid tag : Nat) (s : State) : Host.Outcome State Fault Refusal :=
  onUnit (partOk p && sliceOk sid) (if 128 ≤ sid then answerWrite (dropCopies s p sid) tag 0 else s)

/-! ### KEY_LOAD (R510) -/

/-- KEY_LOAD: the die installs the keys, or answers 0xF when the unwrap fails its integrity check. -/
def execKeyLoad (d : Nat) (unwrapOk : Bool) (s : State) : Host.Outcome State Fault Refusal :=
  onUnit (dieOk d)
    (if dieCount s.variant ≤ d || s.power.stage == .off || s.power.stage == .held || (die s d).state == .heldOut then s
     else emit (modDie s d fun u => { u with keyed := unwrapOk }) (.ack (.key d) (if unwrapOk then 0 else 0xF)))

end Sys2Proof.Machine
end

