-- ==== Sys2Proof/Machine/SpecialFn.lean ====
section
/-! DEFINITION. The special functions of R120 and R121 and the DD128 operations of R119: the exact function to 512
fractional bits, and the bound within which the delivered bits are free (DESIGN CHOICE, log 11). -/

namespace Sys2Proof.Machine
open Sys2Proof.Num

/-- Fractional bits of the fixed-point numbers of this file. -/
def fx : Nat := 512
def one : Int := ((2 ^ fx : Nat) : Int)

/-- ln 2 and pi, scaled by 2^512 and cut. -/
def ln2Fx : Int := 9293584264128987901384440660653081117630633404975079641076009770578364573633075645167623918067512986930843040596952636663673675798576024949780480621393957
def piFx : Int := 42121870893450636219446821484559388105255997313489254605594685088103805782276098919793885372247726346443771296916333485327292916625599161542353774203832599

def mulFx (a b : Int) : Int := (a * b) / one

/-- Fixed-point value of a finite number. -/
def toFx (neg : Bool) (man : Nat) (exp : Int) : Int :=
  let sh := exp + fx
  let m : Int := if 0 ≤ sh then ((man <<< sh.toNat : Nat) : Int) else ((man >>> (-sh).toNat : Nat) : Int)
  if neg then -m else m

/-- Sum of `t + t*y/k + ...` for `n` terms from index `k`: the exponential series. -/
def expSeries (y : Int) : Nat → Nat → Int → Int
  | 0, _, _ => 0
  | n + 1, k, t => t + expSeries y n (k + 1) (mulFx t y / (k : Int))

/-- e^y for y in [0, 1). -/
def expFx (y : Int) : Int := expSeries y 110 1 one

/-- 2^y: integer part and the value of the fractional power. -/
def exp2Parts (y : Int) : Int × Int := (y / one, expFx (mulFx (y % one) ln2Fx))

/-- 2^y as a fixed-point number, for y below 200; zero far below the smallest subnormal. -/
def exp2Fx (y : Int) : Int :=
  let (n, f) := exp2Parts y
  if 200 < n then one * (2 ^ 200 : Nat) else if n < -400 then 0
  else if 0 ≤ n then f * ((2 ^ n.toNat : Nat) : Int) else f / ((2 ^ (-n).toNat : Nat) : Int)

/-- Fractional bits of log2 of `m` in [1, 2), one squaring a bit. -/
def log2Bits : Nat → Int → Int → Int → Int
  | 0, _, _, acc => acc
  | n + 1, m, w, acc =>
    let m2 := mulFx m m
    if 2 * one ≤ m2 then log2Bits n (m2 / 2) (w / 2) (acc + w) else log2Bits n m2 (w / 2) acc

/-- log2 of a positive finite number. -/
def log2Fx (man : Nat) (exp : Int) : Int :=
  let l := Nat.log2 man
  let m := (((man <<< fx) >>> l : Nat) : Int)
  ((l : Int) + exp) * one + log2Bits 180 m (one / 2) 0

/-- Alternating series of sine and cosine: next terms from index `k`. -/
def altSeries (y2 : Int) : Nat → Nat → Int → Int
  | 0, _, _ => 0
  | n + 1, k, t => t + altSeries y2 n (k + 2) (-(mulFx t y2) / ((k * (k + 1) : Nat) : Int))

/-- sin(pi f) and cos(pi f) for f in [0, 1/2]. -/
def sinPiFx (f : Int) : Int := let y := mulFx f piFx; altSeries (mulFx y y) 70 2 y
def cosPiFx (f : Int) : Int := let y := mulFx f piFx; altSeries (mulFx y y) 70 1 one

/-- sin(pi x), exact argument reduction modulo 2. -/
def sinPi (x : Int) : Int :=
  let r := x % (2 * one)
  let (neg, r) := if one ≤ r then (true, r - one) else (false, r)
  let r := if one / 2 < r then one - r else r
  let v := sinPiFx r
  if neg then -v else v

def cosPi (x : Int) : Int := sinPi (x + one / 2)

/-- log2 e. -/
def log2eFx : Int := one * one / ln2Fx

/-- e^y for any y that FP32 results can tell apart. -/
def expE (y : Int) : Int := exp2Fx (mulFx y log2eFx)

/-- The functions of R120. -/
inductive SfFn where
  | rcp | rsq | ex2 | lg2 | sinpi | cospi | tanh | sigm
  deriving DecidableEq, Repr

def SfFn.index : SfFn → Nat
  | .rcp => 0 | .rsq => 1 | .ex2 => 2 | .lg2 => 3 | .sinpi => 4 | .cospi => 5 | .tanh => 6 | .sigm => 7

/-- Exponent of the last place of an FP32 result of magnitude `y` (fixed point). -/
def ulpExp (y : Int) : Int :=
  let l : Int := (Nat.log2 y.natAbs : Int) - fx
  (if y = 0 || l < -126 then (-126 : Int) else l) - 23

/-- Largest distance from the exact value that R120 allows, in fixed point. -/
def sfBound (f : SfFn) (x y : Int) : Int :=
  let ulps : Int := match f with
    | .rcp => 1 | .tanh => 3 | .sigm => 3 | _ => 2
  if f = .lg2 && one / 2 ≤ x && x ≤ 2 * one then one / (2 ^ 22 : Nat)
  else ulps * (one / (2 ^ (-(ulpExp y)).toNat : Nat)) * (if 0 < ulpExp y then (2 ^ (ulpExp y).toNat : Nat) else 1)

/-- The exact function at a finite, non-special argument. -/
def sfExact (f : SfFn) (neg : Bool) (man : Nat) (exp : Int) : Int :=
  let x := toFx neg man exp
  match f with
  | .rcp => let v := ((((1 : Nat) <<< (2 * fx)) / (man <<< (exp + fx).toNat) : Nat) : Int); if neg then -v else v
  | .rsq => ((isqrt (((1 : Nat) <<< (3 * fx)) / (man <<< (exp + fx).toNat)) : Nat) : Int)
  | .ex2 => exp2Fx x
  | .lg2 => log2Fx man exp
  | .sinpi => sinPi x
  | .cospi => cosPi x
  | .tanh =>
    if 40 * one < x then one else if x < -40 * one then -one
    else let e := expE (2 * x); (e - one) * one / (e + one)
  | .sigm => if x < -300 * one then 0 else if 300 * one < x then one else one * one / (one + expE (-x))

/-- Is the result fixed exactly by R120: powers of two of RCP, integers of EX2, multiples of one half of SINPI, COSPI? -/
def sfIsExact (f : SfFn) (neg : Bool) (man : Nat) (exp : Int) : Bool :=
  match f with
  | .rcp => man == 2 ^ Nat.log2 man
  | .ex2 => (toFx neg man exp) % one == 0
  | .sinpi | .cospi => (toFx neg man exp) % (one / 2) == 0
  | _ => false

/-- The bits that the unit would deliver; a NaN among them comes out canonical (R63, R121). -/
def sfFree (f : SfFn) (arg : BitVec 32) : Nat :=
  match decodeFloat fp32 (Config.sfuBits f.index arg).toNat with
  | .nan => fp32.canonicalNan
  | _ => (Config.sfuBits f.index arg).toNat

/-- FP32 result of a special function (R120, R121). Special arguments the spec states have the value it states; at the
others, and inside the bound, the delivered bits are free. -/
def sfResult (f : SfFn) (arg : BitVec 32) : Nat :=
  let free := sfFree f arg
  match decodeFloat fp32 arg.toNat with
  | .nan => fp32.canonicalNan
  | .inf n =>
    match f with
    | .ex2 => if n then 0 else free
    | .sinpi | .cospi => fp32.canonicalNan
    | .rsq | .lg2 => if n then fp32.canonicalNan else free
    | _ => free
  | .num n m e =>
    if m = 0 && f = .rcp then infCode fp32 n
    else if m = 0 && f = .rsq then (if n then free else infCode fp32 false)
    else if m = 0 && f = .lg2 then infCode fp32 true
    else if n && (f = .rsq || f = .lg2) then fp32.canonicalNan
    else
      let y := sfExact f n m e
      let nearest := roundFin fp32 0 false 0 ⟨y < 0, y.natAbs, -(fx : Int), false⟩
      if sfIsExact f n m e then
        (if y = 0 then free / 2 ^ 31 % 2 * 2 ^ 31 else nearest)
      else
        match decodeFloat fp32 free with
        | .num fn fm fe =>
          if (toFx fn fm fe - y).natAbs ≤ (sfBound f (toFx n m e) y).natAbs then free else nearest
        | _ => nearest

/-- R121: FP16 and BF16 arguments compute in FP32 and round once under RNE. -/
def sfFormat (f : SfFn) (fmt : BitVec 4) (code : Nat) : Nat :=
  match fmt.toNat with
  | 1 => sfResult f (BitVec.ofNat 32 code)
  | _ =>
    let wide := toFormat 1 rne (elemVal fmt code 0).toX
    toFormat fmt rne (decodeFloat fp32 (sfResult f (BitVec.ofNat 32 wide))).toX

/-- The DD128 operations of R119. -/
inductive DdFn where
  | add | sub | mul | mulf
  deriving DecidableEq, Repr

def DdFn.index : DdFn → Nat
  | .add => 0 | .sub => 1 | .mul => 2 | .mulf => 3

def magAt (x : FVal) (e : Int) : Nat :=
  match x with
  | .num _ m ex => m <<< (ex - e).toNat
  | _ => 0

/-- Weight at which distances between DD128 values are compared: below every product of two DD128 parts. -/
def ddFloor : Int := -4400

/-- Does the candidate lie within the bound of R119 of the exact value? -/
def ddWithin (f : DdFn) (a b x c : FVal) : Bool :=
  match x, c with
  | .num nx mx ex, .num nc mc ec =>
    let dist := (scaled nx mx ex ddFloor - scaled nc mc ec ddFloor).natAbs
    let scale := match f with
      | .add | .sub => magAt a ddFloor + magAt b ddFloor
      | _ => magAt x ddFloor
    let k := match f with
      | .mul => 103
      | _ => 104
    dist * 2 ^ k ≤ scale
  | _, _ => false

/-- Result of a DD128 operation (R119): a normalised DD128 within the bound, free inside it; special values follow R69. -/
def ddResult (f : DdFn) (a b : BitVec 128) : Nat :=
  let va := (pairVal (a.toNat % 2 ^ 64) (a.toNat >>> 64)).toF
  let vb := match f with
    | .mulf => dec64 (b.toNat % 2 ^ 64)
    | _ => (pairVal (b.toNat % 2 ^ 64) (b.toNat >>> 64)).toF
  let x := match f with
    | .add => addX 0 va vb
    | .sub => addX 0 va vb.neg
    | _ => mulX va vb
  let (h, l) := normDD x
  let nearest := h + 2 ^ 64 * l
  let cand := (Config.ddBits f.index a b).toNat
  let ch := cand % 2 ^ 64
  let cl := cand >>> 64
  let cv := pairVal ch cl
  if notFinite64 h then nearest
  else if normDD cv == (ch, cl) && ddWithin f va vb x.toF cv.toF then cand
  else nearest

end Sys2Proof.Machine
end

