-- ==== Sys2Proof/Machine/Vector.lean ====
section
/-! DEFINITION. The vector pipes and the special-function unit: R117 to R122, R124 of 04_matrix_vector_engines, R88 to R91 of
03_number_formats_accuracy. The spec gives these instructions no encoding, so their fields are named and the park record's word
is 0 (DESIGN CHOICE, log 24). -/

namespace Sys2Proof.Machine
open Sys2Proof.Num

/-! ### Lanes and elements (R117 to R119) -/

/-- Two 16-bit elements lie in a lane's register; every other format has one element a lane. -/
def isPacked (f : BitVec 4) : Bool := elemBits f == 16
def halves (f : BitVec 4) : Nat := if isPacked f then 2 else 1

/-- Registers of an operand of a format, and its base with the low bits cleared (R119; DESIGN CHOICE, log 24). -/
def vecRegs (f : BitVec 4) : Nat := Nat.max 1 (elemBits f / 32)
def vecBase (f : BitVec 4) (r : BitVec 8) : Nat := r.toNat / vecRegs f * vecRegs f

/-- Code of element `h` of a lane's operand. -/
def laneElem (g : Group) (f : BitVec 4) (r : BitVec 8) (lane h : Nat) : Nat :=
  (readBlock g lane (vecBase f r) (vecRegs f) >>> (elemBits f * h)) % 2 ^ elemBits f

/-- Position of an element for the draw of R72: the lane, or 2 x lane + h for packed operands (R118). -/
def elemPos (f : BitVec 4) (lane h : Nat) : Nat := if isPacked f then 2 * lane + h else lane

/-- Rounding of an element at a position (R118). -/
def vecRnd (g : Group) (v : VArgs) (pos : Nat) : Rnd :=
  { rm := v.rm.toNat, sat := v.sat, u := if v.rm = 4 then rsrDraw (rsrBlock g v.rblk.toNat) pos else 0 }

/-- A value in the low `w` bits of a register whose other bits are not given (DESIGN CHOICE, log 22). -/
def lowBits (s : State) (w v : Nat) : Nat × State :=
  if 32 ≤ w then (v, s)
  else
    let (f, s) := freeVal s
    (v + f.toNat % 2 ^ (32 - w) * 2 ^ w, s)

/-- Compute one value for every lane of a mask and write it to `n` registers from `r`. -/
def perLane (s : State) (g : Group) (m : W32) (r n : Nat) (f : State → Nat → Nat × State) : State × Group :=
  (lanes m).foldl (fun (s, x) l =>
    let (v, s) := f s l
    (s, writeBlock x l r n v)) (s, g)

/-- The value of a lane from its elements, all in one format. -/
def perElem (f : BitVec 4) (op : State → Nat → Nat × State) (s : State) : Nat × State :=
  let (a, s) := op s 0
  if isPacked f then
    let (b, s) := op s 1
    (a % 2 ^ 16 + 2 ^ 16 * b, s)
  else (a, s)

/-! ### The common shape of a vector instruction -/

/-- Does the residue check or the parity of R124 cover the instruction? If not, no failure can be reported for it. -/
def checkedFails (covered : Bool) (g : GRef) : Nat := if covered then g.fails else 0

/-- Issue a vector instruction: formats, register blocks and rounding mode are checked in the order of R548; the residue check
follows (R124 to R126). `legal` says that R117 or R121 has the operation in these formats; for another format the group is
parked with 0x21. (DESIGN CHOICE, log 85) -/
def vecIssue (s : State) (g : GRef) (v : VArgs) (legal covered rounds : Bool) (fmts : List (BitVec 4)) (srcs : List (Nat × Nat))
    (dsts : List (Nat × Nat)) (act : State → Group → Path → State × Group) : State :=
  let blk := if rounds && v.rm = 4 then [(v.rblk.toNat, 6)] else []
  let regs := srcs ++ dsts ++ blk
  issue s g 0
    (fun x _ => [(!legal && !fmts.any (· == 0xF#4), 0x21), (regs.any fun (r, n) => !inGrant x r n, 0x23)] ++
      formatFaults s (fmts.map fun f => (f, false)) ++ [(rounds && badMode v.rm.toNat, 0x64)])
    (fun _ _ => blocksFree s (gidOf g) regs)
    fun x p => residue s g p 0 (checkedFails covered g) fun s =>
      let (s, x) := act s x p
      retire s (gidOf g) x

/-- Integer operations on codes: width, then operands a, b and c. -/
abbrev IntFn := Nat → Nat → Nat → Nat → Nat
/-- Floating operations: rounding mode, then operands a, b and c. -/
abbrev FloatFn := Nat → FVal → FVal → FVal → XVal

/-- An arithmetic instruction: the exact float result rounded once (R88), or the integer operation. -/
def arith (s : State) (g : GRef) (v : VArgs) (fmts : List Nat) (covered : Bool) (nsrc : Nat) (ff : FloatFn) (fi : IntFn) : State :=
  let f := v.fmt
  let src := (List.range nsrc).map fun i => (vecBase f ([v.ra, v.rb, v.rc].getD i 0), vecRegs f)
  let isFloat := decide (f.toNat ≤ 3)
  vecIssue s g v (fmts.contains f.toNat) covered isFloat [f] src [(vecBase f v.rd, vecRegs f)] fun s x p =>
    perLane s x p.mask (vecBase f v.rd) (vecRegs f) fun s l =>
      perElem f (fun s h =>
        let a := laneElem x f v.ra l h
        let b := if nsrc < 2 then 0 else laneElem x f v.rb l h
        let c := if nsrc < 3 then 0 else laneElem x f v.rc l h
        (match kindOf f with
         | .float spec =>
           let r := vecRnd x v (elemPos f l h)
           roundX spec r.rm r.sat r.u (ff r.rm (decodeFloat spec a) (decodeFloat spec b) (decodeFloat spec c))
         | _ => fi (elemBits f) a b c % 2 ^ elemBits f, s)) s

/-- Formats of the floating rows of R117 with the integer ones. -/
def floatsInts : List Nat := [0, 1, 2, 3, 0xA, 0xB]

/-- R124 checks floating sums and products and the INT32 product; other integer operations are not checked. -/
def isFloatFmt (f : BitVec 4) : Bool := decide (f.toNat ≤ 3)

/-- ADD. -/
def execAdd (g : GRef) (v : VArgs) (s : State) : Host.Outcome State Fault Refusal :=
  onUnit g.ok (arith s g v floatsInts (isFloatFmt v.fmt) 2 (fun rm a b _ => addX rm a b) fun _ a b _ => a + b)

/-- SUB. -/
def execSub (g : GRef) (v : VArgs) (s : State) : Host.Outcome State Fault Refusal :=
  onUnit g.ok (arith s g v floatsInts (isFloatFmt v.fmt) 2 (fun rm a b _ => addX rm a b.neg) fun n a b _ => a + 2 ^ n - b)

/-- MUL; the INT32 product is its low 32 bits. -/
def execMul (g : GRef) (v : VArgs) (s : State) : Host.Outcome State Fault Refusal :=
  onUnit g.ok (arith s g v [0, 1, 2, 3, 0xA] true 2 (fun _ a b _ => mulX a b) fun _ a b _ => a * b)

/-- FMA. -/
def execFma (g : GRef) (v : VArgs) (s : State) : Host.Outcome State Fault Refusal :=
  onUnit g.ok (arith s g v [0, 1, 2, 3] true 3 (fun rm a b c => fmaX rm a b c) fun _ a _ _ => a)

/-- Multiply-add giving the low 32 bits. -/
def execMultiplyAdd (g : GRef) (v : VArgs) (s : State) : Host.Outcome State Fault Refusal :=
  onUnit g.ok (arith s g v [0xA] true 3 (fun rm a b c => fmaX rm a b c) fun _ a b c => a * b + c)

/-- DIV. -/
def execDiv (g : GRef) (v : VArgs) (s : State) : Host.Outcome State Fault Refusal :=
  onUnit g.ok (arith s g v [0, 1, 2, 3] true 2 (fun _ a b _ => divX a b) fun _ a _ _ => a)

/-- SQRT. -/
def execSqrt (g : GRef) (v : VArgs) (s : State) : Host.Outcome State Fault Refusal :=
  onUnit g.ok (arith s g v [0, 1, 2, 3] true 1 (fun _ a _ _ => sqrtX a) fun _ a _ _ => a)

/-! ### MIN, MAX, compare, logic, shift -/

/-- A free code of a float format, canonical if it is a NaN (R63; DESIGN CHOICE, log 25). -/
def freeCode (s : State) (spec : FloatSpec) (w : Nat) : Nat × State :=
  let (f, s) := freeVal s
  let c := f.toNat % 2 ^ w
  (match decodeFloat spec c with
   | .nan => spec.canonicalNan
   | _ => c, s)

/-- MIN or MAX of two codes. The spec states no result for a NaN operand, nor which of two zeros of unlike sign is the smaller:
those results are free (DESIGN CHOICE, log 25). -/
def minMaxElem (s : State) (f : BitVec 4) (wantMax : Bool) (a b : Nat) : Nat × State :=
  match kindOf f with
  | .float spec =>
    match cmp (decodeFloat spec a) (decodeFloat spec b) with
    | none => freeCode s spec (elemBits f)
    | some .eq =>
      if a = b then (a, s)
      else
        let (z, s) := freeVal s
        (if z.toNat % 2 = 1 then a else b, s)
    | some .lt => (if wantMax then b else a, s)
    | some .gt => (if wantMax then a else b, s)
  | _ =>
    let n := elemBits f
    let less := decide (signed n a < signed n b)
    (if less == wantMax then b else a, s)

/-- MIN and MAX round nothing. -/
def minMax (s : State) (g : GRef) (v : VArgs) (wantMax : Bool) : State :=
  let f := v.fmt
  vecIssue s g v (floatsInts.contains f.toNat) false false [f] [(vecBase f v.ra, vecRegs f), (vecBase f v.rb, vecRegs f)]
    [(vecBase f v.rd, vecRegs f)] fun s x p =>
    perLane s x p.mask (vecBase f v.rd) (vecRegs f) fun s l =>
      perElem f (fun s h => minMaxElem s f wantMax (laneElem x f v.ra l h) (laneElem x f v.rb l h)) s

/-- MIN. -/
def execMin (g : GRef) (v : VArgs) (s : State) : Host.Outcome State Fault Refusal := onUnit g.ok (minMax s g v false)

/-- MAX. -/
def execMax (g : GRef) (v : VArgs) (s : State) : Host.Outcome State Fault Refusal := onUnit g.ok (minMax s g v true)

/-- Order of two element codes, none when unordered. -/
def elemOrder (f : BitVec 4) (a b : Nat) : Option Ordering :=
  match kindOf f with
  | .float spec => cmp (decodeFloat spec a) (decodeFloat spec b)
  | _ => some (compare (signed (elemBits f) a) (signed (elemBits f) b))

def holds (p : Pred) (o : Option Ordering) : Bool :=
  match p with
  | .eq => o == some .eq
  | .ne => o != some .eq
  | .lt => o == some .lt
  | .le => o == some .lt || o == some .eq
  | .gt => o == some .gt
  | .ge => o == some .gt || o == some .eq
  | .unordered => o == none

/-- What a comparison writes for an element: not zero when it holds, else zero (R143 tests for zero; DESIGN CHOICE, log 12). -/
def truth (w : Nat) (b : Bool) : Nat := if b then (Config.compareTrue ||| 1).toNat % 2 ^ w else 0

/-- Compare: one register a lane, each half for its own element when packed. -/
def execCompare (g : GRef) (p : Pred) (v : VArgs) (s : State) : Host.Outcome State Fault Refusal :=
  let f := v.fmt
  onUnit g.ok (vecIssue s g v (floatsInts.contains f.toNat) false false [f]
    [(vecBase f v.ra, vecRegs f), (vecBase f v.rb, vecRegs f)] [(v.rd.toNat, 1)] fun s x q =>
    perLane s x q.mask v.rd.toNat 1 fun s l =>
      perElem f (fun s h =>
        (truth (if isPacked f then 16 else 32) (holds p (elemOrder f (laneElem x f v.ra l h) (laneElem x f v.rb l h))), s)) s)

def logicFn (o : LogicOp) (n a b : Nat) : Nat :=
  match o with
  | .and => a &&& b
  | .or => a ||| b
  | .xor => a ^^^ b
  | .not => 2 ^ n - 1 - a

/-- Logic on INT32 and packed INT16. -/
def execLogic (g : GRef) (o : LogicOp) (v : VArgs) (s : State) : Host.Outcome State Fault Refusal :=
  onUnit g.ok (arith s g v [0xA, 0xB] false (if o = .not then 1 else 2) (fun _ a _ _ => a.toX) fun n a b _ => logicFn o n a b)

/-- Shift by fewer places than the width. -/
def shiftFn (o : ShiftOp) (n a k : Nat) : Nat :=
  match o with
  | .left => a <<< k
  | .right => a >>> k
  | .arith => unsigned n (signed n a / ((2 ^ k : Nat) : Int))

/-- Shift on INT32 and packed INT16. The spec states no result for an amount of the width or more: it is free (DESIGN CHOICE, log 25). -/
def execShift (g : GRef) (o : ShiftOp) (v : VArgs) (s : State) : Host.Outcome State Fault Refusal :=
  let f := v.fmt
  let n := elemBits f
  onUnit g.ok (vecIssue s g v ([0xA, 0xB].contains f.toNat) false false [f] [(v.ra.toNat, 1), (v.rb.toNat, 1)] [(v.rd.toNat, 1)]
    fun s x p => perLane s x p.mask v.rd.toNat 1 fun s l =>
      perElem f (fun s h =>
        let k := laneElem x f v.rb l h
        if k < n then (shiftFn o n (laneElem x f v.ra l h) k % 2 ^ n, s)
        else
          let (z, s) := freeVal s
          (z.toNat % 2 ^ n, s)) s)

/-! ### CVT (R89 to R91, R117, R118) -/

/-- Destinations to which every finite value of the source is exact: the E entries and the identity of R89. -/
def exactTo (src : BitVec 4) : List Nat :=
  match src.toNat with
  | 0 => [0, 0xE]
  | 1 => [0, 1, 0xE]
  | 2 => [0, 1, 2, 0xE]
  | 3 => [0, 1, 3, 0xE]
  | 4 => [0, 1, 2, 3, 4, 0xE]
  | 5 => [0, 1, 2, 3, 5, 0xE]
  | 6 | 7 | 8 | 9 => [0, 0xE]
  | 0xA => [0, 0xA, 0xE]
  | 0xB => [0, 1, 0xA, 0xB, 0xE]
  | 0xC => [0, 1, 2, 3, 0xA, 0xB, 0xC, 0xE]
  | 0xD => [0, 1, 2, 3, 4, 5, 0xA, 0xB, 0xC, 0xD, 0xE]
  | _ => [0xE]

/-- Does the conversion round (R89)? -/
def cvtRounds (src dst : BitVec 4) : Bool := !(exactTo src).contains dst.toNat

/-- Source element `h` of a lane: packed only between two 16-bit formats, else one element in the low bits (DESIGN CHOICE, log 24). -/
def cvtElem (g : Group) (v : VArgs) (lane h : Nat) : Nat := laneElem g v.fmt v.ra lane h

def isPackedCvt (v : VArgs) : Bool := isPacked v.fmt && isPacked v.dst

/-- Scale code of an MX source: low byte of the lane's scale register (DESIGN CHOICE, log 24). -/
def cvtScale (g : Group) (v : VArgs) (lane : Nat) : Nat := if isMx v.fmt then (readReg g lane v.scale.toNat).toNat % 256 else 127

/-- Conversion to a format other than MX: position counts packed elements only when both formats are packed. -/
def cvtLane (v : VArgs) (g : Group) (s : State) (l : Nat) : Nat × State :=
  let one := fun (h pos : Nat) => convert v.fmt v.dst (vecRnd g v pos) (cvtElem g v l h) (cvtScale g v l)
  if isPackedCvt v then (one 0 (2 * l) % 2 ^ 16 + 2 ^ 16 * one 1 (2 * l + 1), s)
  else if 32 ≤ elemBits v.dst then (one 0 l, s)
  else lowBits s (elemBits v.dst) (one 0 l)

/-- The values of the 32 lanes, one block (R118). -/
def cvtVals (v : VArgs) (g : Group) : List FVal := (List.range 32).map fun l => elemVal v.fmt (cvtElem g v l 0) (cvtScale g v l)

/-- Conversion of the 32 lanes to an MX format: scale code and element codes (R91). -/
def cvtBlock (v : VArgs) (g : Group) : Nat × List Nat :=
  quantise v.dst v.rm.toNat v.sat (fun i => (vecRnd g v i).u) (cvtVals v g)

/-- An MX block carried to its own format (R89): each lane keeps scale and element. A NaN makes the scale 0xFF and the elements
zero (R90, R91), and MXINT8 code -128 is written as -127 (R66). (DEDUCED, log 84) -/
def mxSame (v : VArgs) (g : Group) (lane : Nat) : Nat × Nat :=
  let c := cvtElem g v lane 0
  if (cvtVals v g).any isNanV then (255, 0)
  else (cvtScale g v lane, if kindOf v.fmt = .mxInt && c = 0x80 then 0x81 else c)

/-- CVT. R124 covers products and sums only, so no check of a conversion can fail. A block's scale code goes to the low byte
of the scale register of every active lane, its elements to the low bits of their own lanes. (DESIGN CHOICE, log 84) -/
def execCvt (g : GRef) (v : VArgs) (s : State) : Host.Outcome State Fault Refusal :=
  let n := Nat.max 1 (elemBits v.dst / 32)
  let rd := v.rd.toNat / n * n
  let sc := if isMx v.fmt then [(v.scale.toNat, 1)] else []
  let scd := if isMx v.dst then [(v.scale.toNat, 1)] else []
  -- an identity between equal MX formats needs no blocking (R89)
  let toMx := isMx v.dst && v.fmt != v.dst
  onUnit g.ok (vecIssue s g v true false (if isMx v.dst then toMx else cvtRounds v.fmt v.dst) [v.fmt, v.dst]
    ((vecBase v.fmt v.ra, vecRegs v.fmt) :: sc) ((rd, n) :: scd) fun s x p =>
    if toMx then
      let (scale, es) := cvtBlock v x
      let (s, y) := perLane s x p.mask rd 1 fun s l => lowBits s (elemBits v.dst) (es.getD l 0)
      perLane s y p.mask v.scale.toNat 1 fun s _ => lowBits s 8 scale
    else if isMx v.dst then
      let (s, y) := perLane s x p.mask rd 1 fun s l => lowBits s (elemBits v.dst) (mxSame v x l).2
      perLane s y p.mask v.scale.toNat 1 fun s l => lowBits s 8 (mxSame v x l).1
    else perLane s x p.mask rd n fun s l => cvtLane v x s l)

/-! ### DD128 (R119) -/

/-- A DD128 instruction; `b` of DMULF is an FP64 register pair. -/
def ddIssue (s : State) (g : GRef) (v : VArgs) (f : DdFn) : State :=
  let fb : BitVec 4 := if f = .mulf then 0 else 0xE
  vecIssue s g v (v.fmt == 0xE#4) true false [v.fmt] [(vecBase 0xE v.ra, 4), (vecBase fb v.rb, vecRegs fb)] [(vecBase 0xE v.rd, 4)]
    fun s x p => perLane s x p.mask (vecBase 0xE v.rd) 4 fun s l =>
      (ddResult f (BitVec.ofNat 128 (laneElem x 0xE v.ra l 0)) (BitVec.ofNat 128 (laneElem x fb v.rb l 0)), s)

/-- DADD. -/
def execDadd (g : GRef) (v : VArgs) (s : State) : Host.Outcome State Fault Refusal := onUnit g.ok (ddIssue s g v .add)

/-- DSUB. -/
def execDsub (g : GRef) (v : VArgs) (s : State) : Host.Outcome State Fault Refusal := onUnit g.ok (ddIssue s g v .sub)

/-- DMUL. -/
def execDmul (g : GRef) (v : VArgs) (s : State) : Host.Outcome State Fault Refusal := onUnit g.ok (ddIssue s g v .mul)

/-- DMULF. -/
def execDmulf (g : GRef) (v : VArgs) (s : State) : Host.Outcome State Fault Refusal := onUnit g.ok (ddIssue s g v .mulf)

/-! ### Special-function unit (R120 to R122) -/

/-- A special function of FP32, FP16 or BF16 arguments. The unit has parity in place of the residue check (R124). -/
def sfIssue (s : State) (g : GRef) (v : VArgs) (f : SfFn) : State :=
  vecIssue s g v ([1, 2, 3].contains v.fmt.toNat) true false [v.fmt] [(v.ra.toNat, 1)] [(v.rd.toNat, 1)] fun s x p =>
    perLane s x p.mask v.rd.toNat 1 fun s l => perElem v.fmt (fun s h => (sfFormat f v.fmt (laneElem x v.fmt v.ra l h), s)) s

/-- RCP. -/
def execRcp (g : GRef) (v : VArgs) (s : State) : Host.Outcome State Fault Refusal := onUnit g.ok (sfIssue s g v .rcp)

/-- RSQ. -/
def execRsq (g : GRef) (v : VArgs) (s : State) : Host.Outcome State Fault Refusal := onUnit g.ok (sfIssue s g v .rsq)

/-- EX2. -/
def execEx2 (g : GRef) (v : VArgs) (s : State) : Host.Outcome State Fault Refusal := onUnit g.ok (sfIssue s g v .ex2)

/-- LG2. -/
def execLg2 (g : GRef) (v : VArgs) (s : State) : Host.Outcome State Fault Refusal := onUnit g.ok (sfIssue s g v .lg2)

/-- SINPI. -/
def execSinpi (g : GRef) (v : VArgs) (s : State) : Host.Outcome State Fault Refusal := onUnit g.ok (sfIssue s g v .sinpi)

/-- COSPI. -/
def execCospi (g : GRef) (v : VArgs) (s : State) : Host.Outcome State Fault Refusal := onUnit g.ok (sfIssue s g v .cospi)

/-- TANH. -/
def execTanh (g : GRef) (v : VArgs) (s : State) : Host.Outcome State Fault Refusal := onUnit g.ok (sfIssue s g v .tanh)

/-- SIGM. -/
def execSigm (g : GRef) (v : VArgs) (s : State) : Host.Outcome State Fault Refusal := onUnit g.ok (sfIssue s g v .sigm)

/-- SF.TIME: the die's counter in every lane, never less than the group saw before (R122). -/
def execSfTime (g : GRef) (rd : BitVec 8) (s : State) : Host.Outcome State Fault Refusal :=
  let r := rd.toNat / 2 * 2
  onUnit g.ok (issue s g 0 (fun x _ => [(!inGrant x r 2, 0x23)]) (fun _ _ => blocksFree s (gidOf g) [(r, 2)])
    fun x _ =>
      let now := (die s (g.cl / 16)).time
      let t := if x.lastTime.toNat ≤ now.toNat then now else x.lastTime
      retire s (gidOf g) { writeLanes x (BitVec.allOnes 32) r 2 (fun _ => t.toNat) with lastTime := t })

end Sys2Proof.Machine
end

