-- ==== Sys2Proof/Machine/Dispatch.lean ====
section
/-! DEFINITION. The dispatch of the commands to their meanings: one arm per constructor of Instr. -/

namespace Sys2Proof.Machine

/-- The effect of a command on everything but the queue. -/
def exec (i : Instr) (s : State) : Host.Outcome State Fault Refusal :=
  match i with
  | .mma g w => Sys2Proof.Machine.execMma g w s
  | .accLoad g w => Sys2Proof.Machine.execAccLoad g w s
  | .accRelease g w => Sys2Proof.Machine.execAccRelease g w s
  | .accRound g w => Sys2Proof.Machine.execAccRound g w s
  | .accPush g w => Sys2Proof.Machine.execAccPush g w s
  | .accSave g w => Sys2Proof.Machine.execAccSave g w s
  | .accRestore g w => Sys2Proof.Machine.execAccRestore g w s
  | .tld g w => Sys2Proof.Machine.execTld g w s
  | .tst g w => Sys2Proof.Machine.execTst g w s
  | .add g v => Sys2Proof.Machine.execAdd g v s
  | .sub g v => Sys2Proof.Machine.execSub g v s
  | .mul g v => Sys2Proof.Machine.execMul g v s
  | .fma g v => Sys2Proof.Machine.execFma g v s
  | .min g v => Sys2Proof.Machine.execMin g v s
  | .max g v => Sys2Proof.Machine.execMax g v s
  | .compare g p v => Sys2Proof.Machine.execCompare g p v s
  | .logic g o v => Sys2Proof.Machine.execLogic g o v s
  | .shift g o v => Sys2Proof.Machine.execShift g o v s
  | .multiplyAdd g v => Sys2Proof.Machine.execMultiplyAdd g v s
  | .div g v => Sys2Proof.Machine.execDiv g v s
  | .sqrt g v => Sys2Proof.Machine.execSqrt g v s
  | .cvt g v => Sys2Proof.Machine.execCvt g v s
  | .dadd g v => Sys2Proof.Machine.execDadd g v s
  | .dsub g v => Sys2Proof.Machine.execDsub g v s
  | .dmul g v => Sys2Proof.Machine.execDmul g v s
  | .dmulf g v => Sys2Proof.Machine.execDmulf g v s
  | .rcp g v => Sys2Proof.Machine.execRcp g v s
  | .rsq g v => Sys2Proof.Machine.execRsq g v s
  | .ex2 g v => Sys2Proof.Machine.execEx2 g v s
  | .lg2 g v => Sys2Proof.Machine.execLg2 g v s
  | .sinpi g v => Sys2Proof.Machine.execSinpi g v s
  | .cospi g v => Sys2Proof.Machine.execCospi g v s
  | .tanh g v => Sys2Proof.Machine.execTanh g v s
  | .sigm g v => Sys2Proof.Machine.execSigm g v s
  | .sfTime g rd => Sys2Proof.Machine.execSfTime g rd s
  | .bra g w => Sys2Proof.Machine.execBra g w s
  | .join g w => Sys2Proof.Machine.execJoin g w s
  | .barT g w => Sys2Proof.Machine.execBarT g w s
  | .exit g w => Sys2Proof.Machine.execExit g w s
  | .yield g w => Sys2Proof.Machine.execYield g w s
  | .ldl g w => Sys2Proof.Machine.execLdl g w s
  | .stl g w => Sys2Proof.Machine.execStl g w s
  | .atoml g w => Sys2Proof.Machine.execAtoml g w s
  | .ld g w => Sys2Proof.Machine.execLd g w s
  | .st g w => Sys2Proof.Machine.execSt g w s
  | .atom g w => Sys2Proof.Machine.execAtom g w s
  | .red g w => Sys2Proof.Machine.execRed g w s
  | .cruClose g w => Sys2Proof.Machine.execCruClose g w s
  | .fenceRel g w => Sys2Proof.Machine.execFenceRel g w s
  | .fenceAcq g w => Sys2Proof.Machine.execFenceAcq g w s
  | .fenceComplete g => Sys2Proof.Machine.execFenceComplete g s
  | .enq g w => Sys2Proof.Machine.execEnq g w s
  | .doorbell p q value => Sys2Proof.Machine.execDoorbell p q value s
  | .commandFetch p q => Sys2Proof.Machine.execCommandFetch p q s
  | .launch p q seq => Sys2Proof.Machine.execLaunch p q seq s
  | .nop p q seq => Sys2Proof.Machine.execNop p q seq s
  | .retry p q seq => Sys2Proof.Machine.execRetry p q seq s
  | .skip p q seq => Sys2Proof.Machine.execSkip p q seq s
  | .teardown p q seq => Sys2Proof.Machine.execTeardown p q seq s
  | .invTlb p q seq => Sys2Proof.Machine.execInvTlb p q seq s
  | .invRo p q seq => Sys2Proof.Machine.execInvRo p q seq s
  | .createContext p q seq => Sys2Proof.Machine.execCreateContext p q seq s
  | .destroyContext p q seq => Sys2Proof.Machine.execDestroyContext p q seq s
  | .createQueue p q seq => Sys2Proof.Machine.execCreateQueue p q seq s
  | .destroyQueue p q seq => Sys2Proof.Machine.execDestroyQueue p q seq s
  | .registerGraph p q seq => Sys2Proof.Machine.execRegisterGraph p q seq s
  | .patchGraph p q seq => Sys2Proof.Machine.execPatchGraph p q seq s
  | .releaseGraph p q seq => Sys2Proof.Machine.execReleaseGraph p q seq s
  | .setEventRing p q seq => Sys2Proof.Machine.execSetEventRing p q seq s
  | .retireRows p q seq => Sys2Proof.Machine.execRetireRows p q seq s
  | .selfTest p q seq => Sys2Proof.Machine.execSelfTest p q seq s
  | .resetPartition p q seq => Sys2Proof.Machine.execResetPartition p q seq s
  | .imgBegin p q seq => Sys2Proof.Machine.execImgBegin p q seq s
  | .imgWrite p q seq programOk => Sys2Proof.Machine.execImgWrite p q seq programOk s
  | .imgFinish p q seq => Sys2Proof.Machine.execImgFinish p q seq s
  | .imgCommit p q seq => Sys2Proof.Machine.execImgCommit p q seq s
  | .imgAbort p q seq => Sys2Proof.Machine.execImgAbort p q seq s
  | .commandComplete p q seq => Sys2Proof.Machine.execCommandComplete p q seq s
  | .nodeStart launch node => Sys2Proof.Machine.execNodeStart launch node s
  | .timeSliceEnd p ctx => Sys2Proof.Machine.execTimeSliceEnd p ctx s
  | .budgetOverrun launch => Sys2Proof.Machine.execBudgetOverrun launch s
  | .hostSyncPoll task => Sys2Proof.Machine.execHostSyncPoll task s
  | .dmaDescriptor task => Sys2Proof.Machine.execDmaDescriptor task s
  | .admissionPass => Sys2Proof.Machine.execAdmissionPass s
  | .preload launch node => Sys2Proof.Machine.execPreload launch node s
  | .teamStart task cl team => Sys2Proof.Machine.execTeamStart task cl team s
  | .teamDone task team => Sys2Proof.Machine.execTeamDone task team s
  | .dmaDone task => Sys2Proof.Machine.execDmaDone task s
  | .collDone task => Sys2Proof.Machine.execCollDone task s
  | .preempt task cl => Sys2Proof.Machine.execPreempt task cl s
  | .resume task cl slot => Sys2Proof.Machine.execResume task cl slot s
  | .discard task cl => Sys2Proof.Machine.execDiscard task cl s
  | .ptPurge p sid => Sys2Proof.Machine.execPtPurge p sid s
  | .dmaRd task line sectors => Sys2Proof.Machine.execDmaRd task line sectors s
  | .dmaWr task line be data => Sys2Proof.Machine.execDmaWr task line be data s
  | .coll task line d => Sys2Proof.Machine.execColl task line d s
  | .enqRec p q tag words => Sys2Proof.Machine.execEnqRec p q tag words s
  | .rdWin p tag line sectors => Sys2Proof.Machine.execRdWin p tag line sectors s
  | .wrWin p tag line be data => Sys2Proof.Machine.execWrWin p tag line be data s
  | .rdReg p tag line sectors => Sys2Proof.Machine.execRdReg p tag line sectors s
  | .wrReg p tag line be data => Sys2Proof.Machine.execWrReg p tag line be data s
  | .registerWrite p off value => Sys2Proof.Machine.execRegisterWrite p off value s
  | .rdRem p tag line sectors attr => Sys2Proof.Machine.execRdRem p tag line sectors attr s
  | .wrRem p tag line be data => Sys2Proof.Machine.execWrRem p tag line be data s
  | .flushRem p tag base => Sys2Proof.Machine.execFlushRem p tag base s
  | .invRem p sid tag => Sys2Proof.Machine.execInvRem p sid tag s
  | .keyLoad die unwrapOk => Sys2Proof.Machine.execKeyLoad die unwrapOk s
  | .rdS die line ecc => Sys2Proof.Machine.execRdS die line ecc s
  | .rdE die line ecc => Sys2Proof.Machine.execRdE die line ecc s
  | .upg die line => Sys2Proof.Machine.execUpg die line s
  | .rdOnce tag line ecc => Sys2Proof.Machine.execRdOnce tag line ecc s
  | .drop die line => Sys2Proof.Machine.execDrop die line s
  | .reg sid home => Sys2Proof.Machine.execReg sid home s
  | .snpS die line => Sys2Proof.Machine.execSnpS die line s
  | .snpI die line => Sys2Proof.Machine.execSnpI die line s
  | .snpR die line => Sys2Proof.Machine.execSnpR die line s
  | .binv die line => Sys2Proof.Machine.execBinv die line s
  | .sackI die line => Sys2Proof.Machine.execSackI die line s
  | .sackS die line => Sys2Proof.Machine.execSackS die line s
  | .grantE die line => Sys2Proof.Machine.execGrantE die line s
  | .grantM die line => Sys2Proof.Machine.execGrantM die line s
  | .wbAck dest status => Sys2Proof.Machine.execWbAck dest status s
  | .regAck sid home => Sys2Proof.Machine.execRegAck sid home s
  | .dataS die line data poison => Sys2Proof.Machine.execDataS die line data poison s
  | .dataE die line data poison => Sys2Proof.Machine.execDataE die line data poison s
  | .dataM die line data poison => Sys2Proof.Machine.execDataM die line data poison s
  | .sdata die line data dirty poison => Sys2Proof.Machine.execSdata die line data dirty poison s
  | .dataOnce tag line data sectors poison status => Sys2Proof.Machine.execDataOnce tag line data sectors poison status s
  | .wb die line data dirty poison => Sys2Proof.Machine.execWb die line data dirty poison s
  | .wfwd die line tag attr be data => Sys2Proof.Machine.execWfwd die line tag attr be data s
  | .fill sid line ecc => Sys2Proof.Machine.execFill sid line ecc s
  | .clusterFill cl line data poison => Sys2Proof.Machine.execClusterFill cl line data poison s
  | .spoilWriteOut sid => Sys2Proof.Machine.execSpoilWriteOut sid s
  | .ledgerRecords sid pkt => Sys2Proof.Machine.execLedgerRecords sid pkt s
  | .pairRecords sid pkt => Sys2Proof.Machine.execPairRecords sid pkt s
  | .roundedUpdate sid pkt => Sys2Proof.Machine.execRoundedUpdate sid pkt s
  | .closeLine sid line tag => Sys2Proof.Machine.execCloseLine sid line tag s
  | .closeTask sid task => Sys2Proof.Machine.execCloseTask sid task s
  | .crusherAck tag status => Sys2Proof.Machine.execCrusherAck tag status s
  | .lineBringBack sid line => Sys2Proof.Machine.execLineBringBack sid line s
  | .flitError die node hop flit control => Sys2Proof.Machine.execFlitError die node hop flit control s
  | .roCacheEnable cl => Sys2Proof.Machine.execRoCacheEnable cl s
  | .sliceEnable sid => Sys2Proof.Machine.execSliceEnable sid s
  | .refresh chan bank first rows => Sys2Proof.Machine.execRefresh chan bank first rows s
  | .disturbanceRefresh chan bank row => Sys2Proof.Machine.execDisturbanceRefresh chan bank row s
  | .patrolScrub pa wrong elsewhere => Sys2Proof.Machine.execPatrolScrub pa wrong elsewhere s
  | .arrayScrub u r => Sys2Proof.Machine.execArrayScrub u r s
  | .retrainWindow chan done ok => Sys2Proof.Machine.execRetrainWindow chan done ok s
  | .faceRecalibration chan => Sys2Proof.Machine.execFaceRecalibration chan s
  | .temperatureReadout chan tenths => Sys2Proof.Machine.execTemperatureReadout chan tenths s
  | .dataFrame link dir octet f => Sys2Proof.Machine.execDataFrame link dir octet f s
  | .idleFrame link dir octet f => Sys2Proof.Machine.execIdleFrame link dir octet f s
  | .capFrame link dir octet f => Sys2Proof.Machine.execCapFrame link dir octet f s
  | .widthFrame link dir octet f => Sys2Proof.Machine.execWidthFrame link dir octet f s
  | .alignFrame link dir octet f => Sys2Proof.Machine.execAlignFrame link dir octet f s
  | .recalFrame link dir octet f => Sys2Proof.Machine.execRecalFrame link dir octet f s
  | .nakRepeat link dir => Sys2Proof.Machine.execNakRepeat link dir s
  | .frameTimeout link => Sys2Proof.Machine.execFrameTimeout link s
  | .lossOfSignal link octet => Sys2Proof.Machine.execLossOfSignal link octet s
  | .octetRecalibration link octet ok => Sys2Proof.Machine.execOctetRecalibration link octet ok s
  | .lnkCmdRetire link mask => Sys2Proof.Machine.execLnkCmdRetire link mask s
  | .lnkCmdRecal link => Sys2Proof.Machine.execLnkCmdRecal link s
  | .rdmaWrite k => Sys2Proof.Machine.execRdmaWrite k s
  | .rdmaReadRequest k => Sys2Proof.Machine.execRdmaReadRequest k s
  | .fetchAdd k addend => Sys2Proof.Machine.execFetchAdd k addend s
  | .cmpSwap k cmp swap => Sys2Proof.Machine.execCmpSwap k cmp swap s
  | .unsupportedOperation k => Sys2Proof.Machine.execUnsupportedOperation k s
  | .rdmaReadResponse qp psn data => Sys2Proof.Machine.execRdmaReadResponse qp psn data s
  | .acknowledge qp psn value => Sys2Proof.Machine.execAcknowledge qp psn value s
  | .nak qp psn syndrome => Sys2Proof.Machine.execNak qp psn syndrome s
  | .rnrNak qp psn timer => Sys2Proof.Machine.execRnrNak qp psn timer s
  | .ackTimeout qp => Sys2Proof.Machine.execAckTimeout qp s
  | .cnp qp => Sys2Proof.Machine.execCnp qp s
  | .cnpRateIncrease qp => Sys2Proof.Machine.execCnpRateIncrease qp s
  | .pfcFrame port half pause resume => Sys2Proof.Machine.execPfcFrame port half pause resume s
  | .req m => Sys2Proof.Machine.execReq m s
  | .rep qp peerQpn peerPsn mtu depth => Sys2Proof.Machine.execRep qp peerQpn peerPsn mtu depth s
  | .rtu qp => Sys2Proof.Machine.execRtu qp s
  | .rej qp reason => Sys2Proof.Machine.execRej qp reason s
  | .dreq qp => Sys2Proof.Machine.execDreq qp s
  | .drep qp => Sys2Proof.Machine.execDrep qp s
  | .windowReqRetry win => Sys2Proof.Machine.execWindowReqRetry win s
  | .arp port half vlan ip => Sys2Proof.Machine.execArp port half vlan ip s
  | .neighborDiscovery port half vlan ip => Sys2Proof.Machine.execNeighborDiscovery port half vlan ip s
  | .delayReq m => Sys2Proof.Machine.execDelayReq m s
  | .pdelayReq m => Sys2Proof.Machine.execPdelayReq m s
  | .unmatchedFrame port half => Sys2Proof.Machine.execUnmatchedFrame port half s
  | .portUp port half full => Sys2Proof.Machine.execPortUp port half full s
  | .portDown port half => Sys2Proof.Machine.execPortDown port half s
  | .softStart mv => Sys2Proof.Machine.execSoftStart mv s
  | .supplyWarning mv => Sys2Proof.Machine.execSupplyWarning mv s
  | .warningCleared mv => Sys2Proof.Machine.execWarningCleared mv s
  | .coldReset mv => Sys2Proof.Machine.execColdReset mv s
  | .overvoltage mv => Sys2Proof.Machine.execOvervoltage mv s
  | .modResetAssert ns => Sys2Proof.Machine.execModResetAssert ns s
  | .modResetRelease => Sys2Proof.Machine.execModResetRelease s
  | .flashEnAssert => Sys2Proof.Machine.execFlashEnAssert s
  | .flashEnRelease => Sys2Proof.Machine.execFlashEnRelease s
  | .currentSample mv ma => Sys2Proof.Machine.execCurrentSample mv ma s
  | .powerCapLoop => Sys2Proof.Machine.execPowerCapLoop s
  | .pwrCapWrite value => Sys2Proof.Machine.execPwrCapWrite value s
  | .sensorSample die node tenths => Sys2Proof.Machine.execSensorSample die node tenths s
  | .hotSensorTimeout => Sys2Proof.Machine.execHotSensorTimeout s
  | .latchSensorRead tenths => Sys2Proof.Machine.execLatchSensorRead tenths s
  | .droopTrip die node => Sys2Proof.Machine.execDroopTrip die node s
  | .droopEnd die => Sys2Proof.Machine.execDroopEnd die s
  | .droopLimit die => Sys2Proof.Machine.execDroopLimit die s
  | .withholdSummary p => Sys2Proof.Machine.execWithholdSummary p s
  | .ageingMonitorRead die slow => Sys2Proof.Machine.execAgeingMonitorRead die slow s
  | .oscillatorCheck die ppm stopped => Sys2Proof.Machine.execOscillatorCheck die ppm stopped s
  | .watchdogExpiry die faceChannel => Sys2Proof.Machine.execWatchdogExpiry die faceChannel s
  | .firmwareWatchdog => Sys2Proof.Machine.execFirmwareWatchdog s
  | .domainFatal cause suspects => Sys2Proof.Machine.execDomainFatal cause suspects s
  | .restartResume unreadable => Sys2Proof.Machine.execRestartResume unreadable s
  | .coldStart => Sys2Proof.Machine.execColdStart s
  | .reducedService => Sys2Proof.Machine.execReducedService s
  | .logicSelfTestDone u pass => Sys2Proof.Machine.execLogicSelfTestDone u pass s
  | .ledgerSelfTestDone u crusher pass => Sys2Proof.Machine.execLedgerSelfTestDone u crusher pass s
  | .fullService => Sys2Proof.Machine.execFullService s
  | .journalProgram => Sys2Proof.Machine.execJournalProgram s
  | .errorSnapshot => Sys2Proof.Machine.execErrorSnapshot s
  | .qdbCtlDiscard p q => Sys2Proof.Machine.execQdbCtlDiscard p q s
  | .qdbCtlResync p q => Sys2Proof.Machine.execQdbCtlResync p q s
  | .qdbEvtailWrite p value => Sys2Proof.Machine.execQdbEvtailWrite p value s
  | .secQuoteCtlGo => Sys2Proof.Machine.execSecQuoteCtlGo s
  | .quoteComplete => Sys2Proof.Machine.execQuoteComplete s
  | .rnrTimerExpiry qp => Sys2Proof.Machine.execRnrTimerExpiry qp s
  | .overvoltageCleared mv => Sys2Proof.Machine.execOvervoltageCleared mv s
  | .fru3v3Removal => Sys2Proof.Machine.execFru3v3Removal s
  | .controlSegmentPoll task aborted arrived => Sys2Proof.Machine.execControlSegmentPoll task aborted arrived s
  | .controlComplexStepChange step => Sys2Proof.Machine.execControlComplexStepChange step s
  | .fecUncorrectableFrame port half => Sys2Proof.Machine.execFecUncorrectableFrame port half s

end Sys2Proof.Machine
end

