-- ==== Sys2Proof/Safety.lean ====
section
/-! DEFINITION. What counts as a safe step and a safe state, and the readiness of a group's instruction, in the terms the
statements use. -/

namespace Sys2Proof.Machine
open Sys2Proof.Num

/-- The step answers a next state. -/
def Completes (s : State) : Prop := ∃ t, step s = .next t

/-- The group `g` can issue: its group `x` is resident, not parked and not held, `p` is its active path, its next instruction can
be fetched, and no uncorrectable error stands in what it reads (R127, R133, R146, R155, R157). -/
structure MayIssue (s : State) (g : GRef) (x : Group) (p : Path) : Prop where
  unit : g.ok = true
  active : issuing s (gidOf g) = some (x, p)
  fetch : fetchFault s (gidOf g) x p = none
  ecc : g.ue = false

/-- The named register blocks lie in the grant and no write to them is pending (R93, R141). -/
def RegsFree (s : State) (g : GRef) (x : Group) (l : List (Nat × Nat)) : Prop :=
  ∀ e ∈ l, e.1 + e.2 ≤ x.regGrant ∧ regsBusy s (gidOf g) e.1 e.2 = false

/-- State after the recomputations that a residue or parity check asked for, before the third failure (R125, R530). -/
def retried (covered : Bool) (g : GRef) (s : State) : State := if covered && g.fails != 0 then countRetry s else s

/-- Source blocks of a vector instruction of format `f` with `n` operands (R117, R119). -/
def vecSources (v : VArgs) (f : BitVec 4) (n : Nat) : List (Nat × Nat) :=
  (List.range n).map fun i => (vecBase f ([v.ra, v.rb, v.rc].getD i 0), vecRegs f)

/-- The group after a vector instruction: only registers `rd` to `rd + n - 1` of the lanes of `m` may differ, and the path has
advanced. -/
def VecDone (x y : Group) (m : W32) (rd n : Nat) : Prop :=
  y = { x with regs := y.regs } ∧
    ∀ l r, l < 32 → r < 256 → ¬(m.getLsbD l = true ∧ rd ≤ r ∧ r < rd + n) → readReg y l r = readReg x l r

/-- An element of a vector result: a float result rounded once from its exact value (R88, R118), or an integer result. -/
def vecElem (x : Group) (v : VArgs) (l h : Nat) (ff : FloatFn) (fi : IntFn) : Nat :=
  let a := laneElem x v.fmt v.ra l h
  let b := laneElem x v.fmt v.rb l h
  let c := laneElem x v.fmt v.rc l h
  match kindOf v.fmt with
  | .float spec =>
    let r := vecRnd x v (elemPos v.fmt l h)
    roundX spec r.rm r.sat r.u (ff r.rm (decodeFloat spec a) (decodeFloat spec b) (decodeFloat spec c))
  | _ => fi (elemBits v.fmt) a b c

/-- A vector instruction `c` with `n` operands in the formats `fmts` computes `val` for element `h` of lane `l`: for every group
that may issue it, with its registers free, a legal rounding mode and no persistent error, it answers the next state in which the
result blocks of the path's threads hold the values; every other register, and every other part of the module but for
what the fetch and the issue leave (`fetched`), is as before. -/
def VecOp (c : GRef → VArgs → Instr) (fmts : List Nat) (covered : BitVec 4 → Bool) (n : Nat)
    (val : Group → VArgs → Nat → Nat → Nat) : Prop :=
  ∀ (g : GRef) (v : VArgs) (s : State) (x : Group) (p : Path), MayIssue s g x p → (covered v.fmt = true → g.fails < 3) →
    v.fmt.toNat ∈ fmts → inSet16 s v.fmt = true →
    RegsFree s g x (vecSources v v.fmt n ++ [(vecBase v.fmt v.rd, vecRegs v.fmt)]) →
    (v.fmt.toNat ≤ 3 → v.rm.toNat < 5 ∧ (v.rm = 4 → RegsFree s g x [(v.rblk.toNat, 6)])) →
    ∃ y, exec (c g v) s = .next (fetched s (gidOf g) x p (setGroup (retried (covered v.fmt) g s) (gidOf g) (some (advance y)))) ∧
      VecDone x y p.mask (vecBase v.fmt v.rd) (vecRegs v.fmt) ∧
      ∀ l h, l < 32 → p.mask.getLsbD l = true → h < halves v.fmt →
        laneElem y v.fmt v.rd l h = val x v l h % 2 ^ elemBits v.fmt

/-- A vector instruction `c` with two operands puts into its destination `dst`, in elements of `w` bits, values that satisfy `P`;
beside them only the counter of free values may have moved, and what the fetch and the issue leave. -/
def VecChoice (c : GRef → VArgs → Instr) (fmts : List Nat) (dst : VArgs → Nat × Nat) (w : VArgs → Nat)
    (P : Group → VArgs → Nat → Nat → Nat → Prop) : Prop :=
  ∀ (g : GRef) (v : VArgs) (s : State) (x : Group) (p : Path), MayIssue s g x p → v.fmt.toNat ∈ fmts → inSet16 s v.fmt = true →
    RegsFree s g x (vecSources v v.fmt 2 ++ [dst v]) →
    ∃ y k, exec (c g v) s = .next (fetched s (gidOf g) x p (setGroup { s with free := k } (gidOf g) (some (advance y)))) ∧
      VecDone x y p.mask (dst v).1 (dst v).2 ∧
      ∀ l h, l < 32 → p.mask.getLsbD l = true → h < halves v.fmt →
        P x v l h ((readBlock y l (dst v).1 (dst v).2 >>> (w v * h)) % 2 ^ w v)

/-- `r` is the smaller, or with `big` the larger, of two element codes: the canonical NaN or any number when an operand is a NaN,
either of two equal values. -/
def ExtremeOf (f : BitVec 4) (a b : Nat) (big : Bool) (r : Nat) : Prop :=
  match elemOrder f a b with
  | none => ∀ spec, kindOf f = .float spec → decodeFloat spec r = .nan → r = spec.canonicalNan
  | some .lt => r = if big then b else a
  | some .gt => r = if big then a else b
  | some .eq => r = a ∨ r = b

/-- Does a CVT round (R89)? One between equal MX formats does not. -/
def cvtMayRound (v : VArgs) : Bool := if isMx v.dst then v.fmt != v.dst else cvtRounds v.fmt v.dst

/-- `c` is the DD128 operation `f`, its second operand in format `fb`: for every group that may issue it with its registers free, in
a partition that may use DD128, it answers the next state in which each thread of the path holds the result (R119), and nothing
else differs but for what the fetch and the issue leave. -/
def DdOp (c : GRef → VArgs → Instr) (f : DdFn) (fb : BitVec 4) : Prop :=
  ∀ (g : GRef) (v : VArgs) (s : State) (x : Group) (p : Path), MayIssue s g x p → g.fails < 3 → v.fmt = 0xE → inSet16 s 0xE = true →
    RegsFree s g x [(vecBase 0xE v.ra, 4), (vecBase fb v.rb, vecRegs fb), (vecBase 0xE v.rd, 4)] →
    ∃ y, exec (c g v) s = .next (fetched s (gidOf g) x p (setGroup (retried true g s) (gidOf g) (some (advance y)))) ∧
      VecDone x y p.mask (vecBase 0xE v.rd) 4 ∧
      ∀ l, l < 32 → p.mask.getLsbD l = true →
        laneElem y 0xE v.rd l 0 = ddResult f (BitVec.ofNat 128 (laneElem x 0xE v.ra l 0))
          (BitVec.ofNat 128 (laneElem x fb v.rb l 0)) % 2 ^ 128

/-- `c` is the special function `f`: for every group that may issue it with its registers free, on FP32, FP16 or BF16 in the
package's set, it answers the next state in which each element of each thread of the path holds the function's result in its
argument's format (R120, R121), and nothing else differs but for what the fetch and the issue leave. -/
def SfOp (c : GRef → VArgs → Instr) (f : SfFn) : Prop :=
  ∀ (g : GRef) (v : VArgs) (s : State) (x : Group) (p : Path), MayIssue s g x p → g.fails < 3 →
    v.fmt.toNat ∈ [1, 2, 3] → inSet16 s v.fmt = true → RegsFree s g x [(v.ra.toNat, 1), (v.rd.toNat, 1)] →
    ∃ y, exec (c g v) s = .next (fetched s (gidOf g) x p (setGroup (retried true g s) (gidOf g) (some (advance y)))) ∧
      VecDone x y p.mask v.rd.toNat 1 ∧
      ∀ l h, l < 32 → p.mask.getLsbD l = true → h < halves v.fmt →
        laneElem y v.fmt v.rd l h = sfFormat f v.fmt (laneElem x v.fmt v.ra l h) % 2 ^ elemBits v.fmt

/-- `t` is what a persistent error of the group's instruction leaves (R126): the group is parked with 0x27, with its registers,
accumulators and paths as before, and the cluster is fenced. -/
def ParkedByCheck (g : GRef) (x : Group) (t : State) : Prop :=
  (∃ y, group t (gidOf g) = some y ∧ y.regs = x.regs ∧ y.accs = x.accs ∧ y.paths = x.paths ∧ y.park.map (·.code) = some 0x27) ∧
    (die t (g.cl / 16)).clFenced.getLsbD (g.cl % 16) = true

/-- The instruction `c` in the formats `fmts`, on the registers `regs`, ends in a persistent error when its check fails a third
time (R125, R126); with `rounds` it has a rounding mode. -/
def VecParks (c : GRef → VArgs → Instr) (fmts : List Nat) (rounds : Bool) (regs : VArgs → List (Nat × Nat)) : Prop :=
  ∀ (g : GRef) (v : VArgs) (s : State) (x : Group) (p : Path), MayIssue s g x p → 3 ≤ g.fails → v.fmt.toNat ∈ fmts →
    inSet16 s v.fmt = true → RegsFree s g x (regs v) →
    (rounds = true → v.rm.toNat < 5 ∧ (v.rm = 4 → RegsFree s g x [(v.rblk.toNat, 6)])) →
    ∃ t, exec (c g v) s = .next t ∧ ParkedByCheck g x t

/-- Destination block of a CVT (R117, R119). -/
def cvtRegs (v : VArgs) : Nat := Nat.max 1 (elemBits v.dst / 32)
def cvtBase (v : VArgs) : Nat := v.rd.toNat / cvtRegs v * cvtRegs v

/-! ### Words of instructions -/

/-- A word keeps the rules that matrix, tile and control instructions share: opcode, reserved bits, register blocks in the grant
(`blocks`), accumulator in the grant (R93, R98, R105, R143). -/
def WordOk (x : Group) (w : W64) (op : Nat) (fields blocks : List (Nat × Nat)) (acc : Option Nat) : Prop :=
  opcode w = op ∧ reservedBits w ((7, 0) :: fields) = 0 ∧ (∀ e ∈ blocks, e.1 + e.2 ≤ x.regGrant) ∧ ∀ a ∈ acc, a < x.accGrant

/-- Formats that the partition may use; a matrix input is neither INT32 nor DD128 (R16, R92). -/
def FormatsOk (s : State) (input : Bool) (fs : List (BitVec 4)) : Prop :=
  ∀ f ∈ fs, f ≠ 0xF ∧ inSet16 s f = true ∧ (input = true → f ≠ 0xA ∧ f ≠ 0xE)

/-- No write to the blocks is pending (R141). -/
def BlocksFree (s : State) (g : GRef) (l : List (Nat × Nat)) : Prop := ∀ e ∈ l, regsBusy s (gidOf g) e.1 e.2 = false

/-- Every reference of a list is translated, and passes the checks of R26 where `checks` asks for them (R155, R157). -/
def RefsOk (s : State) (g : GRef) (x : Group) (u : Use) (checks : Bool) (refs : List Ref) : Prop :=
  ∀ r ∈ refs, ∃ h, hitOf s g.cl x u r = .ok h ∧ (checks = true → h.late = none)

/-- The translated references. -/
def hitsFor (s : State) (g : GRef) (x : Group) (u : Use) (refs : List Ref) : List Hit :=
  hitsOf (refs.map fun r => (r, hitOf s g.cl x u r))

/-- The load stands alone: it has not arrived or failed, no other access of its cluster is for its line, and none of its instruction is
for another line (R157, R235). -/
structure LoadAlone (s : State) (a : Access) : Prop where
  load : a.kind = .load
  fresh : a.failed = 0 ∧ a.got = none
  once : s.accs.filter (fun b => b.tag == a.tag) = [a]
  line : ∀ b ∈ s.accs, b ≠ a → gidCluster b.gid = gidCluster a.gid → b.line ≠ a.line
  instr : ∀ b ∈ s.accs, b ≠ a → b.gid = a.gid → b.instr ≠ a.instr

/-- Whole registers of the lanes, one piece for each lane. -/
def WholePieces (a : Access) : Prop :=
  (∀ q ∈ a.pieces, q.lane < 32 ∧ q.sub = none ∧ q.len ∈ [4, 8, 16] ∧ q.reg + q.len / 4 ≤ 256) ∧ (a.pieces.map (·.lane)).Nodup

/-- The load is over: each thread's registers hold its bytes of the line, the other registers and the rest of the group are as before,
and the access is gone (R332). -/
def LoadDone (x : Group) (a : Access) (d : Line) (t : State) : Prop :=
  ∃ y, group t a.gid = some y ∧ accessOf t a.tag = none ∧ y = { x with regs := y.regs } ∧
    (∀ q ∈ a.pieces, readBlock y q.lane q.reg (q.len / 4) = (d.toNat >>> (8 * q.off)) % 2 ^ (8 * q.len)) ∧
    ∀ l r, l < 32 → r < 256 → (∀ q ∈ a.pieces, ¬(l = q.lane ∧ q.reg ≤ r ∧ r < q.reg + q.len / 4)) → readReg y l r = readReg x l r

/-! ### Commands of the queues -/

/-- A command of a queue whose turn has come: accepted, not completed, its fence bits met, the order of R371 kept. -/
structure HasTurn (s : State) (p q : Nat) (seq : W32) (op : Nat) (c : Cmd) : Prop where
  unit : (partOk p && slotOk q) = true
  here : findCmd (queue s p q) seq = some c
  opcode : cOp c = op
  accepted : c.accepted = true
  unfinished : c.done = false
  idle : isTesting s p q c = false
  turn : ready s p q c = true

/-- The rows that are commands of queue records, but for LAUNCH: opcode, and the row within the opcode (R369, R370). -/
def commandRows : List ((Nat → Nat → W32 → Instr) × Nat × (Cmd → Bool)) :=
  [(.nop, 0x02, fun _ => true), (.retry, 0x03, isAction 0), (.skip, 0x03, isAction 1), (.teardown, 0x03, isAction 2),
   (.invTlb, 0x04, fun _ => true), (.invRo, 0x05, fun _ => true), (.createContext, 0x80, fun _ => true),
   (.destroyContext, 0x81, fun _ => true), (.createQueue, 0x82, fun _ => true), (.destroyQueue, 0x83, fun _ => true),
   (.registerGraph, 0x84, fun _ => true), (.patchGraph, 0x85, fun _ => true), (.releaseGraph, 0x86, fun _ => true),
   (.setEventRing, 0x87, fun _ => true), (.retireRows, 0x88, fun _ => true), (.selfTest, 0x89, fun _ => true),
   (.resetPartition, 0x8A, fun _ => true), (.imgBegin, 0x8B, isUpdate 0), (fun p q n => .imgWrite p q n true, 0x8B, isUpdate 1),
   (fun p q n => .imgWrite p q n false, 0x8B, isUpdate 1), (.imgFinish, 0x8B, isUpdate 2), (.imgCommit, 0x8B, isUpdate 3),
   (.imgAbort, 0x8B, isUpdate 4)]

/-! ### Lines at their home -/

/-- The home can take up a request of the line at once: nothing of the line is in progress there, and neither its transactions nor
the filter's set is full (R289, R294, R302). -/
structure HomeIdle (s : State) (h line : Nat) : Prop where
  serving : s.restart.fatal = false
  first : ∀ e ∈ (sliceOf s h).waiting, e.1 ≠ line
  txn : findTxn (sliceOf s h) line = none
  entries : (sliceOf s h).txns.length < 64
  miss : findMiss (sliceOf s h) line = none
  closed : openAt (crusher s h) line = none
  room : filterRoom s h line = true
  own : ((sliceOf s h).lines.filter fun c => c.line == line).length ≤ 1 ∧ ∀ c ∈ (sliceOf s h).lines, c.line = line → c.remote = none

/-- What a request leaves of the home before it is carried out: where it needs the line's tag and slots, they are held (R230, R294). -/
def Takes (s : State) (h line : Nat) (r : HomeReq) (u : State) : Prop :=
  if needsTag s h line r then holdLine s h line = some u else u = s

/-- The home as a request of a compute die finds it: memory is read, with what `f` says it meets there, where no whole copy is held
(R204). -/
def atHome (s : State) (h line : Nat) (f : List MemFault) : State :=
  if ((findLine (sliceOf s h) line).map (·.valid)).getD 0 = 0xF then s else readMem s line f

/-- Nothing waits at the slice, and it is not being disabled (R291, R294). -/
structure Quiet (s : State) (i : Nat) : Prop where
  waiting : (sliceOf s i).waiting = []
  stalled : (sliceOf s i).stalled = []
  draining : (sliceOf s i).draining = false

/-- The home has at most one tag of the line, whose clean sectors are those of memory, neither pinned nor held. -/
def HomeAgrees (s : State) (h line : Nat) : Prop :=
  ((sliceOf s h).lines.filter fun c => c.line == line).length ≤ 1 ∧ ∀ c ∈ (sliceOf s h).lines, c.line = line →
    c.remote = none ∧ c.pins = 0 ∧ c.hold = false ∧
    mergeLine (sectorBe (c.valid &&& ~~~c.dirty)) c.data (memLine s.mem line) = memLine s.mem line

/-- The value of a line at its home. -/
def valueAt (s : State) (h line : Nat) : Line := (homeValue s h line).1

/-- A fill or grant `c` with data reaches the proxy slice `i` of die `d`: in an enabled slice with room the line is placed in state `st`,
the requesters of its miss entry get it, the stores that waited are performed, and a fill in S with stores waiting asks for the upgrade
(R237, R241, R293, R295); a disabled slice gives the copy back (R291). -/
def FillTaken (s : State) (d line i : Nat) (v : Line) (q : W32) (c : Instr) (st : CohState) : Prop :=
  Quiet s i → (∀ x ∈ (sliceOf s i).lines, x.line = line → x.remote = none) → ∃ t, exec c s = .next t ∧
    (∀ u, (sliceOf s i).enabled = true →
      placeLine s i { line, st, valid := 0xF, dirty := if st = .m then 0xF else 0, data := v, poison := q } = some u →
      (((findMiss (sliceOf s i) line).map (·.stores)).getD [] = [] → findMiss (sliceOf t i) line = none ∧
        ∃ x, findLine (sliceOf t i) line = some x ∧ x.st = st ∧ x.valid = 0xF ∧ (x.dirty ≠ 0 ↔ st = .m) ∧ x.data = v ∧ x.poison = q) ∧
      (findMiss (sliceOf s i) line = none → t.out = u.out) ∧
      ∀ m, findMiss (sliceOf s i) line = some m →
        (m.cores ≠ 0 → Out.fill "CLUSTER_FILL" agentCores (bit9 (i / 16)) m.cores line v 0xF q 0 ∈ t.out) ∧
        (m.readCaches ≠ 0 → Out.fill "CLUSTER_FILL" agentMemory (bit9 (i / 16)) m.readCaches line v 0xF q 0 ∈ t.out) ∧
        (m.stores ≠ [] → st ≠ .s → findMiss (sliceOf t i) line = none ∧ ∀ n ∈ m.stores, accessOf t n = none) ∧
        (m.stores ≠ [] → st = .s → t.out.getLast? = some (.coh "UPG" d line) ∧
          ∃ k, findMiss (sliceOf t i) line = some k ∧ k.stores = m.stores ∧ k.cores = 0 ∧ k.readCaches = 0)) ∧
    ((sliceOf s i).enabled = false → findMiss (sliceOf s i) line = none →
      t.out = s.out ++ [if st = .m then .cohData "WB" d line v (cmpSectors (cmpOf v)) q (cmpOf v) else .coh "DROP" d line])

/-- A grant `c` without data reaches the proxy slice `i`: its copy becomes writable, in E or M, and the stores that waited are performed
(R293). -/
def GrantTaken (s : State) (line i : Nat) (c : Instr) (st : CohState) (dirty : BitVec 4) : Prop :=
  Quiet s i → ∃ t, exec c s = .next t ∧
    (∀ x, findLine (sliceOf s i) line = some x → x.valid ≠ 0 →
      findMiss (sliceOf t i) line = none ∧
      (∀ m, findMiss (sliceOf s i) line = some m → ∀ n ∈ m.stores, accessOf t n = none) ∧
      (findMiss (sliceOf s i) line = none → t.out = s.out ∧ t.mem = s.mem ∧
        findLine (sliceOf t i) line = some { x with st, dirty })) ∧
    (findLine (sliceOf s i) line = none → t.out = s.out ∧ t.mem = s.mem ∧ sliceOf t i = sliceOf s i)

/-- An answer `c` to a snoop reaches the home, with what it brings and the state it leaves the copy in: one that nothing awaits changes
nothing; it counts as its sender's answer, the first data is kept, a copy that is gone leaves the filter; the last answer ends the
transaction, here an RD_ONCE, which is answered with what the home and the first data hold (R293 to R296, R299). -/
def AnswerTaken (s : State) (d line h : Nat) (c : Instr) (data : Option (Line × BitVec 4 × W32)) (left : Leaves) : Prop :=
  Quiet s h → ∃ t, exec c s = .next t ∧
    ((∀ x, findTxn (sliceOf s h) line = some x → x.awaiting.getLsbD d = false) →
      t.out = s.out ∧ t.mem = s.mem ∧ sliceOf t h = sliceOf s h) ∧
    ∀ x b, findTxn (sliceOf s h) line = some x → x.awaiting.getLsbD d = true →
      b = (x.data.orElse fun _ => if x.settled then none else data) →
      (x.awaiting &&& ~~~bit8 d ≠ 0 → t.out = s.out ∧ t.mem = s.mem ∧
        findTxn (sliceOf t h) line = some { x with awaiting := x.awaiting &&& ~~~bit8 d, data := b, sent := none } ∧
        filterMask (sliceOf t h) line =
          (if left = .invalid then filterMask (sliceOf s h) line &&& ~~~bit8 d else filterMask (sliceOf s h) line) ∧
        (left ≠ .same → filterOwned (sliceOf t h) line = false)) ∧
      (x.awaiting &&& ~~~bit8 d = 0 → findMiss (sliceOf s h) line = none → ∀ tag, x.req = .rdOnce tag →
        findTxn (sliceOf t h) line = none ∧ t.out = s.out ++ [.cohData "DATA_ONCE" tag line (homeData s h line b).1 0xF
          (homeData s h line b).2.1 0])

/-! ### Packets at a crusher -/

/-- The acknowledgements of a packet: its own, and those of the packets that it absorbed on the way (R188, R277). -/
def acksOf (k : CruPacket) (code : Nat) : List Out := (k.tag :: k.absorbed).map fun n => .cruAck n code

/-- A packet `c` in ledger or pair form reaches the crusher of its line. For a window it goes to the window (R443). Outside the declared
ranges it is refused with 0x55 (R271). At a spilled line it waits (R273). Into a line that its task has open in the same form every record
is added to its element; into one of another form nothing is, and it is answered 0x65; a line that another task has open is closed first
(R264, R274). At a line that is not open it meets the checks of R26 and the home's holders (R263); where no die holds the line it is
opened with its present value in `form`, and the records are added. -/
def PacketAdded (s : State) (sid : Nat) (k : CruPacket) (c : Instr) (form : AccForm) : Prop :=
  (isRemoteLine s k.line = true → exec c s = .next (windowUpdate s k)) ∧
  (isRemoteLine s k.line = false → declared (crusher s sid) k.task k.line k.fl = false → exec c s = .next (emits s (acksOf k 0x55))) ∧
  (isRemoteLine s k.line = false → declared (crusher s sid) k.task k.line k.fl = true →
    (∀ l, openAt (crusher s sid) k.line = some l → l.spilled = true → ∃ t x, exec c s = .next t ∧ t.out = s.out ∧ t.mem = s.mem ∧
      openAt (crusher t sid) k.line = some x ∧ x.waiting = l.waiting ++ [k] ∧ x.elems = l.elems ∧ x.spilled = true) ∧
    (∀ l, openAt (crusher s sid) k.line = some l → l.spilled = false → l.task = k.task →
      (sameForm l k = false → exec c s = .next (emits s (acksOf k 0x65))) ∧
      (sameForm l k = true → ∃ t, exec c s = .next t ∧ t.out = s.out ++ acksOf k 0 ∧ t.mem = s.mem ∧ t.slices = s.slices ∧
        openAt (crusher t sid) k.line = some { k.recs.foldl applyRecord l with used := (crusher s sid).useCtr })) ∧
    (∀ l, openAt (crusher s sid) k.line = some l → l.spilled = false → l.task ≠ k.task →
      exec c s = .next (applyAdd (closeOpen s sid k.line) sid k)) ∧
    (∀ e, openAt (crusher s sid) k.line = none → arrivalCode s k.line (.update k) = some e → exec c s = .next (emits s (acksOf k e))) ∧
    (HomeIdle s sid k.line → arrivalCode s k.line (.update k) = none → ∀ m, m = filterMask (sliceOf s sid) k.line →
      (m ≠ 0 → ∀ w, Takes s sid k.line (.update k) w → ∃ t x, exec c s = .next t ∧ t.out = w.out ++ [.snoop "SNP_I" m k.line] ∧
        findTxn (sliceOf t sid) k.line = some x ∧ x.req = .update k ∧ x.awaiting = m) ∧
      (m = 0 → filterOwned (sliceOf s sid) k.line = false → ∃ t l o, exec c s = .next t ∧ t.out = o ++ acksOf k 0 ∧
        openAt (crusher t sid) k.line = some l ∧ l.task = k.task ∧ l.form = form ∧ l.fl = k.fl ∧ l.spilled = false ∧
        l.before = valueAt s sid k.line ∧
        l.elems = k.recs.foldl (fun m x => match x with
          | .ledger e _ _ _ _ _ _ _ => put {} m e (elemLedger form (look {} m e) (recordLedger x))
          | .pair e hi lo => put {} m e (elemPair (look {} m e) hi.toNat lo.toNat)
          | .rounded .. => m) (openElems form k.fl (valueAt s sid k.line)))))

/-! ### Frames of Jenol Link -/

/-- A frame `c` that fails its CRC on an octet in service: it is counted, the octet stays, and a replay of the direction is asked for,
once (R310, R324). -/
def FrameLost (s : State) (i dir : Nat) (l : Link) (c : Instr) : Prop :=
  ∃ t, exec c s = .next t ∧ (link t i).crcErr = bump 0xFFFF l.crcErr ∧ (link t i).octIns = l.octIns ∧
    (linkDir (link t i) dir).recvSeq = (linkDir l dir).recvSeq ∧
    (linkDir (link t i) dir).nak = some ((linkDir l dir).nak.getD ((linkDir l dir).recvSeq, 1))

/-- Octet `o` leaves service by `c`: the link goes on with the others, PT0 and both ends learn it, and reservations are admitted anew
(R324 to R326). -/
def OctetRetired (s : State) (i o : Nat) (l : Link) (c : Instr) : Prop :=
  ∃ t m, exec c s = .next t ∧ m = BitVec.ofNat 12 (2 ^ o) ∧ (link t i).octIns = l.octIns &&& ~~~m ∧ (link t i).octRet = l.octRet ||| m ∧
    (link t i).st = 3 ∧ (link t i).degrades = bump 0xFFFF l.degrades ∧ Out.linkWidth i (l.octIns &&& ~~~m) ∈ t.out ∧
    t.admission.passDue = true

/-! ### Requests of peers -/

/-- A request packet reaches a ready queue pair `q` of partition `p` that is not a window's, outside a warm restart (R430, R431, R440). -/
structure Arrives (s : State) (k : RcPacket) (q p : Nat) : Prop where
  unit : k.ok = true
  takes : portTakes s k.port k.half = true
  found : qpOf s k = some q
  owner : qpPart s q = some p
  ready : (qp s q).st = .ready
  own : (qp s q).window = none
  calm : s.restart.active = false

/-- An atomic request `c` of a peer at an address that it may access acts once: the eight bytes become `new old`, the answer carries the old
value in network byte order, and the next PSN is expected (R12, R434 to R436). -/
def AtomicServed (s u : State) (k : RcPacket) (q p : Nat) (c : Instr) (new : Nat → Nat) : Prop :=
  requestFine u p k 8 true = true → isRegister u k.va.toNat = false → k.va.toNat % 8 = 0 → poisonAny u k.va.toNat 8 = 0 →
    ∀ old w, old = readPhysLE u k.va.toNat 8 → w = writePhys u k.va.toNat (leBytes 8 (new old)) 0 → ∃ t, exec c s = .next t ∧
      t.out.getLast? = some (.rc q "ATOMIC_ACKNOWLEDGE" k.psn (beBytes 8 old)) ∧ (qp t q).expectPsn = (k.psn + 1) % psnSpace ∧
      t.mem = w.mem ∧ t.slices = w.slices

end Sys2Proof.Machine
end

