-- ==== Sys2Proof/Certificates/Slice0/Obligations.lean ====
section
/-! DEFINITION. The statements about the module. -/

open Sys2Proof Sys2Proof.Machine Sys2Proof.Num


/-! ### The queue of commands, time, reset and invariants -/

/-- A step with a command at the front of the queue is exec of that command with the queue's rest; with an empty queue 10 ns pass (log 5). -/
def Obligations.QueueFrontRuns : Prop :=
  (∀ (s : State) (c : Instr) (cs : List Instr), step { s with pending := c :: cs } = exec c { s with pending := cs }) ∧
    ∀ s : State, s.pending = [] → step s = .next (tick s)

/-- A tick while the module has power and is not held in reset: the counter of every die of the variant whose oscillator runs goes on, the
IOD's by one and a compute die's by its own oscillator's ticks, whose number is free (log 107), the meters that gain tokens with it
unless they are withheld, the port time by whole periods of 6.4 ns, and nothing else changes; otherwise nothing changes (R49, R52,
R53, R56, R59; log 5).

The model's own choices enter through logs 5 and 107. -/
def Obligations.TickCountsTime : Prop :=
  ∀ s : State, (s.power.stage ≠ .running → s.power.stage ≠ .cold → tick s = s) ∧
    (s.power.stage = .running ∨ s.power.stage = .cold →
      (∀ d, d < 9 → die (tick s) d = if (d < dieCount s.variant ∨ d = 8) ∧ (die s d).oscOk = true
        then { die s d with
          time := (die s d).time + BitVec.ofNat 64 (if d = 8 then 1 else Config.oscTicks d (die s d).time.toNat),
          metered := (die s d).metered + if (die s d).withholding = true then 0
            else if d = 8 then 1 else Config.oscTicks d (die s d).time.toNat }
        else die s d) ∧
      (s.portPhase < 64 → (tick s).portPhase < 64 ∧
        (tick s).portTime.toNat + (tick s).portPhase ≡ s.portTime.toNat + s.portPhase + 100 [MOD 2 ^ 64]) ∧
      tick s = { s with dies := (tick s).dies, portTime := (tick s).portTime, portPhase := (tick s).portPhase })

/-- Right after reset the module has no power, nothing runs, the queues, buffers and lists are empty, memory lists nothing, the status
registers read as after a cold reset, and the state is in its canonical form (R450, R454, R524).

The model's own choices enter through logs 2 to 9. -/
def Obligations.ResetIsOff : Prop :=
  State.reset.power.stage = .off ∧ State.reset.pending = [] ∧ State.reset.out = [] ∧ State.reset.mem = [] ∧ Memory.wf State.reset.mem = true ∧
    State.reset.groups = [] ∧ State.reset.accs = [] ∧ State.reset.tasks = [] ∧ State.reset.launches = [] ∧
    State.reset.dev.st = 0 ∧ State.reset.dev.gen = 0 ∧ State.reset.restart.active = false ∧ State.reset.power.latch = none ∧
    State.reset.sec.ownFloor = 0 ∧ State.reset.sec.fwFloor = 0 ∧ State.reset.portTime = 0 ∧ (∀ d, (die State.reset d).time = 0)

/-- Every step keeps memory and the other sparse tables of bytes in their canonical form: addresses rise, and no entry equals what an
unlisted address reads as.

The model's own choices enter through log 2. -/
def Obligations.StepKeepsMemoryCanonical : Prop :=
  ∀ s t : State, Memory.wf s.mem = true → step s = .next t → Memory.wf t.mem = true

/-- No step changes what manufacture fixes (the variant, the serial number, the base MAC address), takes anything back that has been
sent, or adds a command to the queue: it takes the one at its front. -/
def Obligations.StepKeepsIdentity : Prop :=
  ∀ s t : State, step s = .next t → t.variant = s.variant ∧ t.serial = s.serial ∧ t.baseMac = s.baseMac ∧ s.out <+: t.out ∧
    t.pending = s.pending.tail

/-- A command that names only units that exist is carried out, in every state; one that names a unit that no variant has is turned away
by name, and the step ends there.

The model's own choices enter through log 1. -/
def Obligations.OnlyUnknownUnitsStop : Prop :=
  ∀ (c : Instr) (s : State), (c.wf = true → ∃ t, exec c s = .next t) ∧ (c.wf = false → exec c s = .fault .noSuchUnit)

/-! ### Vector pipes and special functions (R117 to R126) -/

/-- What the issue of an instruction of a group leaves beside its effect `r`: nothing, but that its cluster caches the translation of
the fetch, the line fetched may fill the L1 and the read cache, the core's meter has paid in paced mode, and in that mode a tick passes
when the meter's last token is used (R48, R156, R248; logs 14 and 106).

ADD, SUB, MUL, FMA, multiply-add, DIV, SQRT and integer logic of every format R117 gives them: each element of each thread of
the path is the exact result rounded once, or the integer result; every other register and the rest of the module stay, but for what the issue leaves.
COMPLETES: add, sub, mul, fma, multiplyAdd, div, sqrt and logic, in the formats named, for every group that may issue them with their
registers free and a legal rounding mode.

The model's own choices enter through logs 24 and 106. -/
def Obligations.VectorArithmetic : Prop :=
  (∀ (s r : State) (gid : Nat) (x : Group) (p : Path), let t := fetched s gid x p r
     t = { r with clusters := t.clusters, dies := t.dies, portTime := t.portTime, portPhase := t.portPhase } ∧
       (∀ c, cluster t c = if c = gidCluster gid then
           { cluster r c with tlb := (cluster t c).tlb, ptrs := (cluster t c).ptrs, ro := (cluster t c).ro, meters := (cluster t c).meters }
         else cluster r c) ∧
       (∀ d, die t d = { die r d with time := (die t d).time, metered := (die t d).metered }) ∧
       (r.image.paced = false → t.dies = r.dies ∧ t.portTime = r.portTime ∧ t.portPhase = r.portPhase)) ∧
  (VecOp Instr.add [0, 1, 2, 3, 0xA, 0xB] (fun f => decide (f.toNat ≤ 3)) 2
       (fun x v l h => vecElem x v l h (fun rm a b _ => addX rm a b) fun _ a b _ => a + b) ∧
     VecOp Instr.sub [0, 1, 2, 3, 0xA, 0xB] (fun f => decide (f.toNat ≤ 3)) 2
       (fun x v l h => vecElem x v l h (fun rm a b _ => addX rm a b.neg) fun n a b _ => a + 2 ^ n - b) ∧
     VecOp Instr.mul [0, 1, 2, 3, 0xA] (fun _ => true) 2
       (fun x v l h => vecElem x v l h (fun _ a b _ => mulX a b) fun _ a b _ => a * b) ∧
     VecOp Instr.fma [0, 1, 2, 3] (fun _ => true) 3
       (fun x v l h => vecElem x v l h (fun rm a b c => fmaX rm a b c) fun _ a _ _ => a) ∧
     VecOp Instr.multiplyAdd [0xA] (fun _ => true) 3
       (fun x v l h => laneElem x v.fmt v.ra l h * laneElem x v.fmt v.rb l h + laneElem x v.fmt v.rc l h) ∧
     VecOp Instr.div [0, 1, 2, 3] (fun _ => true) 2
       (fun x v l h => vecElem x v l h (fun _ a b _ => divX a b) fun _ a _ _ => a) ∧
     VecOp Instr.sqrt [0, 1, 2, 3] (fun _ => true) 1
       (fun x v l h => vecElem x v l h (fun _ a _ _ => sqrtX a) fun _ a _ _ => a) ∧
     VecOp (fun g v => Instr.logic g .and v) [0xA, 0xB] (fun _ => false) 2
       (fun x v l h => laneElem x v.fmt v.ra l h &&& laneElem x v.fmt v.rb l h) ∧
     VecOp (fun g v => Instr.logic g .or v) [0xA, 0xB] (fun _ => false) 2
       (fun x v l h => laneElem x v.fmt v.ra l h ||| laneElem x v.fmt v.rb l h) ∧
     VecOp (fun g v => Instr.logic g .xor v) [0xA, 0xB] (fun _ => false) 2
       (fun x v l h => laneElem x v.fmt v.ra l h ^^^ laneElem x v.fmt v.rb l h) ∧
     VecOp (fun g v => Instr.logic g .not v) [0xA, 0xB] (fun _ => false) 1
       (fun x v l h => 2 ^ elemBits v.fmt - 1 - laneElem x v.fmt v.ra l h))

/-- MIN, MAX, compare and shift: the smaller or larger element, the truth of the comparison, the shifted element. Where the spec
states no result (a NaN operand, zeros of unlike sign, an amount of the width or more) the value is free (log 25, log 12).
COMPLETES: min, max, compare and shift, for every group that may issue them with their registers free.

The model's own choices enter through log 24. -/
def Obligations.VectorSelect : Prop :=
  VecChoice Instr.min [0, 1, 2, 3, 0xA, 0xB] (fun v => (vecBase v.fmt v.rd, vecRegs v.fmt)) (fun v => elemBits v.fmt)
      (fun x v l h r => ExtremeOf v.fmt (laneElem x v.fmt v.ra l h) (laneElem x v.fmt v.rb l h) false r) ∧
    VecChoice Instr.max [0, 1, 2, 3, 0xA, 0xB] (fun v => (vecBase v.fmt v.rd, vecRegs v.fmt)) (fun v => elemBits v.fmt)
      (fun x v l h r => ExtremeOf v.fmt (laneElem x v.fmt v.ra l h) (laneElem x v.fmt v.rb l h) true r) ∧
    (∀ q, VecChoice (fun g v => Instr.compare g q v) [0, 1, 2, 3, 0xA, 0xB] (fun v => (v.rd.toNat, 1))
      (fun v => if isPacked v.fmt then 16 else 32)
      (fun x v l h r => (r ≠ 0) ↔ holds q (elemOrder v.fmt (laneElem x v.fmt v.ra l h) (laneElem x v.fmt v.rb l h)) = true)) ∧
    (∀ o, VecChoice (fun g v => Instr.shift g o v) [0xA, 0xB] (fun v => (v.rd.toNat, 1)) (fun v => elemBits v.fmt)
      (fun x v l h r => laneElem x v.fmt v.rb l h < elemBits v.fmt →
        r = (match o with
          | .left => laneElem x v.fmt v.ra l h * 2 ^ laneElem x v.fmt v.rb l h
          | .right => laneElem x v.fmt v.ra l h / 2 ^ laneElem x v.fmt v.rb l h
          | .arith => unsigned (elemBits v.fmt)
              (signed (elemBits v.fmt) (laneElem x v.fmt v.ra l h) / ((2 ^ laneElem x v.fmt v.rb l h : Nat) : Int))) % 2 ^ elemBits v.fmt))

/-- CVT between any two formats: every element is converted with one rounding (R89, R90); a destination in an MX format takes the
32 lanes as one block, with its scale code in the scale register (R91, R118), and where source and destination are the same MX format
each lane keeps its scale and element but for NaNs and the code −128 (R66, R90; log 84). No check covers it (R124). COMPLETES: cvt, for
every group that may issue it with its registers free and its two formats in the package's set.

The model's own choices enter through logs 22 and 24. -/
def Obligations.VectorConvert : Prop :=
  ∀ (g : GRef) (v : VArgs) (s : State) (x : Group) (p : Path), MayIssue s g x p →
    v.fmt ≠ 0xF → v.dst ≠ 0xF → inSet16 s v.fmt = true → inSet16 s v.dst = true →
    (cvtMayRound v = true → v.rm.toNat < 5 ∧ (v.rm = 4 → RegsFree s g x [(v.rblk.toNat, 6)])) →
    RegsFree s g x [(vecBase v.fmt v.ra, vecRegs v.fmt), (cvtBase v, cvtRegs v)] →
    (isMx v.fmt = true ∨ isMx v.dst = true → RegsFree s g x [(v.scale.toNat, 1)]) →
    ∃ y k, exec (.cvt g v) s = .next (fetched s (gidOf g) x p (setGroup { s with free := k } (gidOf g) (some (advance y)))) ∧
      y = { x with regs := y.regs } ∧
      (∀ l r, l < 32 → r < 256 → (p.mask.getLsbD l = true → ¬(cvtBase v ≤ r ∧ r < cvtBase v + cvtRegs v) ∧
          ¬(isMx v.dst = true ∧ r = v.scale.toNat)) → readReg y l r = readReg x l r) ∧
      ∀ l, l < 32 → p.mask.getLsbD l = true →
        (isMx v.dst = false → ∀ h, h < (if isPackedCvt v then 2 else 1) →
          (readBlock y l (cvtBase v) (cvtRegs v) >>> (elemBits v.dst * h)) % 2 ^ elemBits v.dst
            = convert v.fmt v.dst (vecRnd x v (if isPackedCvt v then 2 * l + h else l)) (laneElem x v.fmt v.ra l h) (cvtScale x v l)
              % 2 ^ elemBits v.dst) ∧
        (isMx v.dst = true → ∀ sc el,
          (sc, el) = (if v.fmt = v.dst then mxSame v x l else ((cvtBlock v x).1, (cvtBlock v x).2.getD l 0)) →
          (v.scale ≠ v.rd → readBlock y l (cvtBase v) 1 % 2 ^ elemBits v.dst = el % 2 ^ elemBits v.dst) ∧
            readBlock y l v.scale.toNat 1 % 2 ^ 8 = sc % 2 ^ 8)

/-- DADD, DSUB, DMUL and DMULF: every thread of the path receives the DD128 result, which depends on the operands alone (R119;
inside the bound the value is free, log 11). COMPLETES: dadd, dsub, dmul and dmulf, exec of each answers the next state that this result
gives, for every group that may issue it, with its registers free and DD128 in the package's set.

The special functions: every element of every thread of the path receives the function's result in the format of its argument
(R120, R121; inside the bound the value is free, log 11). COMPLETES: rcp, rsq, ex2, lg2, sinpi, cospi, tanh and sigm, exec of each
answers the next state that this result gives, for every group that may issue it, on FP32, FP16 or BF16 in the package's set, with its
registers free.

SF.TIME: all 32 lanes receive the die's time counter in a register pair, and never less than the group has seen (R122).
COMPLETES: sfTime, exec answers the next state that this result gives, for every group that may issue it, with the pair free. -/
def Obligations.FunctionUnits : Prop :=
  (DdOp Instr.dadd .add 0xE ∧ DdOp Instr.dsub .sub 0xE ∧ DdOp Instr.dmul .mul 0xE ∧ DdOp Instr.dmulf .mulf 0) ∧
  (SfOp Instr.rcp .rcp ∧ SfOp Instr.rsq .rsq ∧ SfOp Instr.ex2 .ex2 ∧ SfOp Instr.lg2 .lg2 ∧ SfOp Instr.sinpi .sinpi ∧
     SfOp Instr.cospi .cospi ∧ SfOp Instr.tanh .tanh ∧ SfOp Instr.sigm .sigm) ∧
  (∀ (g : GRef) (rd : BitVec 8) (s : State) (x : Group) (p : Path), MayIssue s g x p → RegsFree s g x [(rd.toNat / 2 * 2, 2)] →
     ∃ y t, exec (.sfTime g rd) s = .next (fetched s (gidOf g) x p (setGroup s (gidOf g) (some (advance y)))) ∧
       t.toNat = Nat.max x.lastTime.toNat (die s (g.cl / 16)).time.toNat ∧
       y = { x with regs := y.regs, lastTime := t } ∧
       (∀ l, l < 32 → readBlock y l (rd.toNat / 2 * 2) 2 = t.toNat) ∧
       ∀ l r, l < 32 → r < 256 → ¬(rd.toNat / 2 * 2 ≤ r ∧ r < rd.toNat / 2 * 2 + 2) → readReg y l r = readReg x l r)

/-- A check that fails a third time parks the group with 0x27, leaves its registers, accumulators and paths, and fences the cluster
(R126): floating sums and products, the INT32 product, DD128 and the special functions (R124); an MMA stops at the step that failed,
with the accumulator as its completed steps left it, and the word and that step are kept for a RETRY (R126, R129). -/
def Obligations.PersistentErrorParks : Prop :=
  (∀ c ∈ [Instr.add, Instr.sub], VecParks c [0, 1, 2, 3] true fun v => vecSources v v.fmt 2 ++ [(vecBase v.fmt v.rd, vecRegs v.fmt)]) ∧
    (∀ c ∈ [Instr.mul, Instr.div],
      VecParks c [0, 1, 2, 3] true fun v => vecSources v v.fmt 2 ++ [(vecBase v.fmt v.rd, vecRegs v.fmt)]) ∧
    VecParks Instr.mul [0xA] false (fun v => vecSources v v.fmt 2 ++ [(vecBase v.fmt v.rd, vecRegs v.fmt)]) ∧
    VecParks Instr.fma [0, 1, 2, 3] true (fun v => vecSources v v.fmt 3 ++ [(vecBase v.fmt v.rd, vecRegs v.fmt)]) ∧
    VecParks Instr.multiplyAdd [0xA] false (fun v => vecSources v v.fmt 3 ++ [(vecBase v.fmt v.rd, vecRegs v.fmt)]) ∧
    VecParks Instr.sqrt [0, 1, 2, 3] true (fun v => vecSources v v.fmt 1 ++ [(vecBase v.fmt v.rd, vecRegs v.fmt)]) ∧
    (∀ c ∈ [Instr.dadd, Instr.dsub, Instr.dmul],
      VecParks c [0xE] false fun v => [(vecBase 0xE v.ra, 4), (vecBase 0xE v.rb, 4), (vecBase 0xE v.rd, 4)]) ∧
    VecParks Instr.dmulf [0xE] false (fun v => [(vecBase 0xE v.ra, 4), (vecBase 0 v.rb, 2), (vecBase 0xE v.rd, 4)]) ∧
    (∀ c ∈ [Instr.rcp, Instr.rsq, Instr.ex2, Instr.lg2, Instr.sinpi, Instr.cospi, Instr.tanh, Instr.sigm],
      VecParks c [1, 2, 3] false fun v => [(v.ra.toNat, 1), (v.rd.toNat, 1)]) ∧
    ∀ (g : GRef) (w : W64) (s : State) (x : Group) (p : Path), MayIssue s g x p → 3 ≤ g.fails → firstFault (mmaFaults s x w) = none →
      BlocksFree s g (mmaSources (mmaWord w)) →
      ∃ t y n, exec (.mma g w) s = .next t ∧ group t (gidOf g) = some y ∧ y.park.map (·.code) = some 0x27 ∧
        (die t (g.cl / 16)).clFenced.getLsbD (g.cl % 16) = true ∧ y.mmaStep = some (w, n) ∧ n < mmaSteps (mmaWord w) ∧
        startStep x w ≤ n ∧ y.regs = x.regs ∧ y.paths = x.paths ∧
        ∀ i j, i < 16 → j < 16 → look {} (accOf y (mmaWord w).at').elems (16 * i + j) =
          look {} (if n = startStep x w then accOf x (mmaWord w).at' else mmaResult s x (mmaWord w) (startStep x w) n).elems (16 * i + j)

/-! ### Matrix engine, accumulators and tiles (R93 to R112) -/

/-- MMA: every element of the accumulator receives the products of its row and column from the first step that is still to do, k
ascending, each added by the rules of its form; INIT starts from an empty accumulator. Nothing else of the group or the module
changes, but for the retry counter, the counts of matrix steps that power control and the meters keep (R456, R457) and, with a REDUCED
accumulator, the mark on the command (R84, R99, R101 to R104, R125, R129). Registers that the word names but does not use, SA and SB of
formats other than MX, may have writes pending (R105, R141). COMPLETES: mma, for every group that may issue it with a word that breaks no rule
and its sources free. -/
def Obligations.MmaAccumulates : Prop :=
  ∀ (g : GRef) (w : W64) (s : State) (x : Group) (p : Path), MayIssue s g x p → g.fails < 3 → firstFault (mmaFaults s x w) = none →
    BlocksFree s g (mmaSources (mmaWord w)) →
    let m := mmaWord w
    let t0 := startStep x w
    let a0 := if m.init = true ∧ t0 = 0 then freshAcc s m else accOf x m.at'
    ∃ a, exec (.mma g w) s = .next (fetched s (gidOf g) x p (markForm (setGroup
          (matrixIssue (if g.fails = 0 then s else countRetry s) (gidOf g) m.fa.toNat m.fb.toNat (mmaSteps m - t0)) (gidOf g)
          (some (advance { setAcc x m.at' a with mmaStep := none }))) x.task a.form)) ∧
      (∀ u n, let v := matrixIssue u (gidOf g) m.fa.toNat m.fb.toNat n
        v = { u with clusters := v.clusters } ∧ (∀ c, c ≠ g.cl → cluster v c = cluster u c) ∧
          cluster v g.cl = { cluster u g.cl with
            meters := (cluster v g.cl).meters
            activity := put 0 (cluster u g.cl).activity (16 * m.fa.toNat + m.fb.toNat)
              (look 0 (cluster u g.cl).activity (16 * m.fa.toNat + m.fb.toNat) + n) }) ∧
      a.form = a0.form ∧ a.int32Made = a0.int32Made ∧ a.intOnly = (a0.intOnly && isIntInput m.fa && isIntInput m.fb) ∧
      ∀ i j, i < 16 → j < 16 → look {} a.elems (16 * i + j) =
        ((List.range (m.ksteps * stepK (wider m))).filter fun k => decide (t0 ≤ stepOf m k j)).foldl
          (fun e k => elemProduct a0.form e (tileElem x m.fa m.ta m.sa i (k + (offsets m).1))
            (tileElem x m.fb m.tb m.sb j (k + (offsets m).2))) (look {} a0.elems (16 * i + j))

/-- ACC.LOAD fills an accumulator from a result tile, element by element, ACC.RELEASE empties one, and ACC.ROUND writes every
element, rounded, to a result tile and empties the accumulator unless KEEP is set; no other register, accumulator or part of the
module changes (R99, R106 to R109). COMPLETES: accLoad, accRelease and accRound, for every group that may issue them with a word that breaks no
rule and their registers free.

The model's own choices enter through log 16. -/
def Obligations.AccumulatorLoadRoundRelease : Prop :=
  ∀ (g : GRef) (w : W64) (s : State) (x : Group) (p : Path), MayIssue s g x p →
    (∀ (fm : BitVec 4) (e : Nat), fm = BitVec.ofNat 4 (bits w 11 8) → e = resultBytes fm →
      opcode w = 0x41 → reservedBits w [(7, 0), (11, 8), (17, 16), (20, 19), (31, 24)] = 0 → bits w 20 19 ∈ [1, 2] →
      loadFormatOk (bits w 20 19) fm = true → FormatsOk s false [fm] → bits w 31 24 % (2 * e) = 0 →
      bits w 31 24 + 2 * e ≤ x.regGrant → bits w 17 16 < x.accGrant → BlocksFree s g [(bits w 31 24, 2 * e)] →
      ∃ a, exec (.accLoad g w) s = .next (fetched s (gidOf g) x p (setGroup s (gidOf g) (some (advance (setAcc x (bits w 17 16) a))))) ∧
        a.form = (if bits w 20 19 = 1 then ledgerForm s else .pair) ∧ a.intOnly = (bits w 20 19 == 1 && fm == 0xA#4) ∧
        a.int32Made = a.intOnly ∧
        ∀ i j, i < 16 → j < 16 → look {} a.elems (16 * i + j) =
          elemOf a.form (elemVal fm (resultElem x fm (bits w 31 24) i j) 0)
            (if fm = 0xE then some (resultElem x fm (bits w 31 24) i j % 2 ^ 64, resultElem x fm (bits w 31 24) i j >>> 64) else none)) ∧
    (WordOk x w 0x43 [(17, 16)] [] (some (bits w 17 16)) →
      exec (.accRelease g w) s = .next (fetched s (gidOf g) x p (setGroup s (gidOf g) (some (advance (setAcc x (bits w 17 16) {})))))) ∧
    (∀ (fo : BitVec 4) (e : Nat) (a : Acc) (u : Bool), fo = BitVec.ofNat 4 (bits w 11 8) → e = resultBytes fo →
      a = accOf x (bits w 17 16) → u = (decide (bits w 21 19 = 4) && roundsUnder a fo) →
      WordOk x w 0x44 [(11, 8), (17, 16), (21, 19), (22, 22), (23, 23), (31, 24), (39, 32)]
        ((bits w 31 24, 2 * e) :: if u then [(bits w 39 32, 6)] else []) (some (bits w 17 16)) →
      0 < e → bits w 31 24 % (2 * e) = 0 → FormatsOk s false [fo] → (roundsUnder a fo = true → bits w 21 19 < 5) →
      outFormatOk a fo = true → a.form ≠ .empty →
      BlocksFree s g ((bits w 31 24, 2 * e) :: if u then [(bits w 39 32, 6)] else []) →
      ∃ y, exec (.accRound g w) s = .next (fetched s (gidOf g) x p (markForm (setGroup s (gidOf g) (some (advance y))) x.task a.form)) ∧
        y = { x with regs := y.regs, accs := if bits w 23 23 = 1 then x.accs else put {} x.accs (bits w 17 16) {} } ∧
        (∀ i j, i < 16 → j < 16 → resultElem y fo (bits w 31 24) i j =
          elemRound a.form fo ⟨bits w 21 19, decide (bits w 22 22 = 1),
              if u then rsrDraw (rsrBlock x (bits w 39 32)) (i * (rsrBlock x (bits w 39 32)).stride.toNat + j) else 0⟩
            (look {} a.elems (16 * i + j)) % 2 ^ (8 * e)) ∧
        ∀ l r, l < 32 → r < 256 → ¬(bits w 31 24 ≤ r ∧ r < bits w 31 24 + 2 * e) → readReg y l r = readReg x l r)

/-- When V is zero at rounding and no special value was met, the result is −0 if the negative-zero flag is set or the mode is RDN,
and +0 otherwise, in every floating output format; an integer result is 0 (R78). -/
def Obligations.ZeroSignOfRounding : Prop :=
  ∀ (fo : BitVec 4) (r : Rnd) (l : Ledger), fo.toNat ∈ [1, 2, 3, 0xA] → flagX l = none → l.v = 0 →
    roundLedger fo r l =
      match kindOf fo with
      | .float spec => if l.negz = true ∨ r.rm = 3 then signBit spec true else 0
      | _ => 0

/-- The image that ACC.SAVE writes is the one that ACC.RESTORE reads: an accumulator of any form comes back with its form, its
flags and all 256 elements (R111).

The header of a message and its OP decode to what they were encoded from: no field is dropped (R184, R268, R292, R293).

The model's own choices enter through log 100. -/
def Obligations.AccumulatorImageRoundTrip : Prop :=
  (∀ a : Acc, (∀ k, k < 256 → let e := look {} a.elems k
       match a.form with
       | .empty => e = {}
       | .ledger => e.hi = 0 ∧ e.lo = 0
       | .pair => e.led = {} ∧ e.hi < 2 ^ 64 ∧ e.lo < 2 ^ 64
       | .reduced => e.led.v = 0 ∧ e.hi < 2 ^ 64 ∧ e.lo < 2 ^ 64) →
     (accImage a).length = imageSize (formCode a.form) ∧
     ∃ b, accFromImage (accImage a) = some b ∧ b.form = a.form ∧ b.intOnly = a.intOnly ∧ b.int32Made = a.int32Made ∧
       ∀ k, k < 256 → look {} b.elems k = look {} a.elems k) ∧
  ((∀ h : Header, decodeHeader (encodeHeader h) = h) ∧
   ∀ (c : Nat) (ch : Channel), classChannel c = some ch → ∀ c' ch', classChannel c' = some ch' → ch.index = ch'.index → ch = ch')

/-- ACC.PUSH sends one ledger or pair record for every element to the crusher of its line, from the addresses
`base + i * stride + j * size` (R110, R269), and ACC.SAVE stores the image of an accumulator (R111); both empty the accumulator
unless KEEP is set. ACC.RESTORE of a whole image in memory makes it the accumulator. COMPLETES: accPush, accSave and accRestore, for every group that may issue them
with a word that breaks no rule, aligned references that are translated, and room for the accesses.

The model's own choices enter through log 20. -/
def Obligations.AccumulatorPushSaveRestore : Prop :=
  ∀ (g : GRef) (w : W64) (s : State) (x : Group) (p : Path), MayIssue s g x p → x.fence = none →
    (∀ (fl : BitVec 4) (ra rs size : Nat) (a : Acc) (refs : List Ref), fl = BitVec.ofNat 4 (bits w 11 8) → ra = bits w 31 24 →
      rs = bits w 39 32 → size = elemBits fl / 8 → a = accOf x (bits w 17 16) →
      refs = (List.range 256).map (fun k =>
        { va := rowAddr (tileBase x ra) (tileStride x rs) (k / 16) + k % 16 * size, len := size, lane := 2 * (k / 16) + k % 16 / 8 }) →
      WordOk x w 0x45 [(11, 8), (17, 16), (23, 23), (31, 24), (39, 32)] [(ra, 2), (rs, 1)] (some (bits w 17 16)) →
      tileBase x ra % 16 = 0 → tileStride x rs % 16 = 0 → FormatsOk s false [fl] → outFormatOk a fl = true → a.form ≠ .empty →
      writesOut s (gidOf g) < 64 → BlocksFree s g [(ra, 2), (rs, 1)] → RefsOk s g x .store true refs →
      (∀ h ∈ hitsFor s g x .store refs, updateTarget s h.pa = none) → segsFree s (gidOf g) .update (hitsFor s g x .store refs) = true →
      exec (.accPush g w) s = .next (fetched s (gidOf g) x p (markForm (sendPackets (cacheLeaves (setGroup s (gidOf g)
          (some (advance (if bits w 23 23 = 1 then x else setAcc x (bits w 17 16) {})))) g.cl (hitsFor s g x .store refs)) (gidOf g) p.pc w
        (pushPackets a fl x.task x.part ((hitsFor s g x .store refs).zipIdx.map fun (h, k) => (h, look {} a.elems k)))) x.task a.form))) ∧
    (∀ (ra : Nat) (refs : List Ref), ra = bits w 31 24 → refs = imageRefs (tileBase x ra) (accImage (accOf x (bits w 17 16))) →
      WordOk x w 0x46 [(17, 16), (23, 23), (31, 24)] [(ra, 2)] (some (bits w 17 16)) → tileBase x ra % 64 = 0 →
      writesOut s (gidOf g) < 64 → BlocksFree s g [(ra, 2)] → RefsOk s g x .store true refs →
      segsFree s (gidOf g) .store (hitsFor s g x .store refs) = true →
      exec (.accSave g w) s = .next (fetched s (gidOf g) x p (sendStores (setGroup s (gidOf g)
          (some (advance (if bits w 23 23 = 1 then x else setAcc x (bits w 17 16) {})))) (gidOf g) p.pc w (hitsFor s g x .store refs)))) ∧
    (∀ (ra : Nat) (head b : List Byte) (hs hb : List Hit) (a : Acc), ra = bits w 31 24 →
      WordOk x w 0x47 [(17, 16), (31, 24)] [(ra, 2)] (some (bits w 17 16)) → tileBase x ra % 64 = 0 → readsOut s (gidOf g) < 16 →
      BlocksFree s g [(ra, 2)] → imageBusy s (gidOf g) = false → readImage s g.cl x (tileBase x ra) 64 = .got head hs [] →
      readImage s g.cl x (tileBase x ra) (imageSize (byteAt head 0)) = .got b hb [] → segsFree s (gidOf g) .load hs = true →
      segsFree s (gidOf g) .load hb = true → accFromImage b = some a →
      exec (.accRestore g w) s = .next (fetched s (gidOf g) x p (cacheLeaves (setGroup s (gidOf g)
        (some (advance { setAcc x (bits w 17 16) a with image := [] }))) g.cl hb)))

/-- TLD sends the loads of a tile's rows, or with TRANS of its elements, and TST stores the rows of a result tile, from
`base + i * stride` (R100); the group goes on and its other state is as before. COMPLETES: tld and tst, for every group that may issue them
with a word that breaks no rule, aligned references that are translated, and room for the accesses.

The model's own choices enter through log 4. -/
def Obligations.TileLoadStore : Prop :=
  ∀ (g : GRef) (w : W64) (s : State) (x : Group) (p : Path) (f : BitVec 4) (ra rs : Nat), MayIssue s g x p → x.fence = none →
    f = BitVec.ofNat 4 (bits w 11 8) → ra = bits w 39 32 → rs = bits w 47 40 → tileBase x ra % 16 = 0 → tileStride x rs % 16 = 0 →
    (∀ (t : Nat) (refs : List Ref), t = bits w 24 20 → refs = tldRefs f (bits w 19 19 = 1) t (tileBase x ra) (tileStride x rs) →
      WordOk x w 0x48 [(11, 8), (19, 19), (24, 20), (39, 32), (47, 40)] [(8 * t, 8), (ra, 2), (rs, 1)] none →
      FormatsOk s true [f] → (bits w 19 19 = 1 → elemBits f ≠ 4 ∧ elemBits f ≠ 6) → readsOut s (gidOf g) < 16 →
      BlocksFree s g [(8 * t, 8), (ra, 2), (rs, 1)] → RefsOk s g x .load true refs →
      segsFree s (gidOf g) .load (hitsFor s g x .load refs) = true → readRoom s g.cl g.core (hitsFor s g x .load refs) = true →
      exec (.tld g w) s = .next (fetched s (gidOf g) x p (sendLoads (setGroup s (gidOf g) (some (advance x))) (gidOf g) p.pc w (hitsFor s g x .load refs)))) ∧
    (∀ (rd e : Nat) (refs : List Ref), rd = bits w 31 24 → e = resultBytes f →
      refs = tstRefs x f rd (tileBase x ra) (tileStride x rs) →
      WordOk x w 0x49 [(11, 8), (31, 24), (39, 32), (47, 40)] [(rd, 2 * e), (ra, 2), (rs, 1)] none → 0 < e → rd % (2 * e) = 0 →
      FormatsOk s false [f] → writesOut s (gidOf g) < 64 → BlocksFree s g [(rd, 2 * e), (ra, 2), (rs, 1)] → RefsOk s g x .store true refs →
      segsFree s (gidOf g) .store (hitsFor s g x .store refs) = true →
      exec (.tst g w) s = .next (fetched s (gidOf g) x p (sendStores (setGroup s (gidOf g) (some (advance x))) (gidOf g) p.pc w (hitsFor s g x .store refs))))

/-! ### Control (R143 to R151) -/

/-- BRA: when no thread of the path takes it the path goes to the next instruction, when all take it to the target, and otherwise
the threads that fall through keep the path and the others form a new one, inside a new convergence entry where the word names a join
that is not the innermost entry's. Only paths, entries and the turn change, and the step is counted (R143, R144). COMPLETES: bra, for every
group that may issue it with a word that breaks no rule, its condition free and an entry left where it opens one.

YIELD: the path goes to its next instruction, and the next live path of the rotation becomes the active one (R146). COMPLETES: yield, for every
group of two live paths or more that may issue it.

The model's own choices enter through log 36. -/
def Obligations.BranchAndYield : Prop :=
  (∀ (g : GRef) (w : W64) (s : State) (x : Group) (p : Path) (b : BraWord) (t : W32), MayIssue s g x p → b = braWord w →
     t = takenMask x b p.mask →
     WordOk x w 0x01 [(15, 8), (16, 16), (17, 17), (41, 18), (57, 42)] (if b.alw then [] else [(b.rc, 1)]) none →
     (b.alw = false → BlocksFree s g [(b.rc, 1)]) → (opensEntry x b p = true → x.entries.length < 16) →
     (∀ l, l < 32 → t.getLsbD l = (p.mask.getLsbD l && (b.alw || ((readReg x l b.rc == 0) == b.neg)))) ∧
     ∃ y, exec (.bra g w) s = .next (fetched s (gidOf g) x p (setGroup s (gidOf g) (some y))) ∧
       y = { x with paths := y.paths, turn := y.turn, steps := x.steps + 1, entries := y.entries, nextEntry := y.nextEntry } ∧
       (t = 0 ∨ t = p.mask → y.entries = x.entries ∧ y.nextEntry = x.nextEntry ∧
         ∀ q, q ∈ y.paths ↔ q = { p with pc := if t = 0 then p.pc + 8 else pcPlus p.pc b.target } ∨ (q ∈ x.paths ∧ q ≠ p)) ∧
       (t ≠ 0 → t ≠ p.mask → ∃ es, es = (if opensEntry x b p then x.nextEntry :: p.entries else p.entries) ∧
         y.entries = (if opensEntry x b p then x.entries ++ [{ id := x.nextEntry, joinPc := pcPlus p.pc b.join }] else x.entries) ∧
         ∀ q, q ∈ y.paths ↔ q = { p with pc := p.pc + 8, mask := p.mask &&& ~~~t, entries := es } ∨
           q = { pc := pcPlus p.pc b.target, mask := t, entries := es } ∨ (q ∈ x.paths ∧ q ≠ p))) ∧
  (∀ (g : GRef) (w : W64) (s : State) (x : Group) (p q : Path) (l : List Path), MayIssue s g x p → WordOk x w 0x05 [] [] none →
     x.paths.filter isLive = p :: q :: l → q.mask ≠ p.mask →
     ∃ y, exec (.yield g w) s = .next (fetched s (gidOf g) x p (setGroup s (gidOf g) (some y))) ∧ y = { x with paths := y.paths, turn := 0, steps := x.steps + 1 } ∧
       activePath y = some q ∧ ∀ z, z ∈ y.paths ↔ z = { p with pc := p.pc + 8 } ∨ (z ∈ x.paths ∧ z ≠ p))

/-- JOIN at the join of the innermost entry makes the path wait there, BAR.T makes it wait for its barrier behind a release fence of
cluster scope, EXIT ends the path's threads and the last one starts a system release fence; a JOIN anywhere else is the next
instruction (R145, R149, R344, R348). COMPLETES: join, barT and exit, for every group that may issue them with a word that breaks no rule and,
where a fence follows, none in progress.

The scoreboard rule of JOIN: when every path that belongs to a convergence entry waits at its JOIN, the paths become one, with the
threads of all of them, after the JOIN (R145), and the other paths stay. -/
def Obligations.JoinBarrierExit : Prop :=
  (∀ (g : GRef) (w : W64) (s : State) (x : Group) (p : Path), MayIssue s g x p →
     (WordOk x w 0x02 [] [] none →
       ((p.entries.head?.bind fun id => joinPcOf x id) = some p.pc →
         exec (.join g w) s = .next (fetched s (gidOf g) x p (scoreboard (setGroup s (gidOf g)
           (some { x with paths := rotate (x.paths.erase p) ++ [{ p with st := .atJoin }], turn := 0, steps := x.steps + 1 })) (gidOf g)))) ∧
       ((∀ id ∈ p.entries, joinPcOf x id ≠ some p.pc) →
         exec (.join g w) s = .next (fetched s (gidOf g) x p (setGroup s (gidOf g) (some (advance x)))))) ∧
     (WordOk x w 0x03 [(11, 8)] [] none → x.fence = none →
       exec (.barT g w) s = .next (fetched s (gidOf g) x p (completeIfIdle (startFence (setGroup s (gidOf g)
         (some { x with paths := rotate (x.paths.erase p) ++ [{ p with st := .arriving (bits w 11 8) }], turn := 0, steps := x.steps + 1 })) (gidOf g) true 0 true)
         (gidOf g)))) ∧
     (WordOk x w 0x04 [] [] none → ∀ y, y = { x with paths := rotate (x.paths.erase p), exited := x.exited ||| p.mask, turn := 0, steps := x.steps + 1 } →
       (2 ≤ x.paths.length → exec (.exit g w) s = .next (fetched s (gidOf g) x p (scoreboard (setGroup s (gidOf g) (some y)) (gidOf g)))) ∧
       (x.paths = [p] → x.fence = none → exec (.exit g w) s =
         .next (fetched s (gidOf g) x p (completeIfIdle (startFence (scoreboard (setGroup s (gidOf g) (some y)) (gidOf g)) (gidOf g) true 3 false) (gidOf g)))))) ∧
  (∀ (x : Group) (e : ConvEntry) (k : Nat), x.entries.find? (fun e =>
       let mine := x.paths.filter fun p => p.entries.contains e.id
       !mine.isEmpty && mine.all (waitsAt e.id)) = some e →
     ∃ m y, closeJoins (k + 1) x = closeJoins k y ∧ m.st = .live ∧ e.id ∉ m.entries ∧
       (∀ l, l < 32 → (m.mask.getLsbD l = true ↔ ∃ p ∈ x.paths, e.id ∈ p.entries ∧ p.mask.getLsbD l = true)) ∧
       (∃ p ∈ x.paths, e.id ∈ p.entries ∧ m.pc = p.pc + 8) ∧
       (∀ q, q ∈ y.paths ↔ q = m ∨ (q ∈ x.paths ∧ waitsAt e.id q = false)) ∧ y.entries = x.entries.filter (fun z => z.id != e.id) ∧
       y = { x with paths := y.paths, entries := y.entries })

/-- R151: when every thread of a team that has not exited waits at a team barrier, and not all at the same one, every group of the
team that has not already faulted is parked with 0x72; the group at which this is found may instead have faulted under R150. -/
def Obligations.TeamSplitParks : Prop :=
  ∀ (s : State) (gid : Nat), gid ∈ teamGroups s gid → (teamGroups s gid).Nodup →
    (∀ i ∈ teamGroups s gid, ∃ x, group s i = some x ∧
      ∀ p ∈ x.paths, p.mask ≠ 0 ∧ ∃ b, b < 16 ∧ p.st = .atBarrier b) →
    (∃ i ∈ teamGroups s gid, ∃ x, group s i = some x ∧ ∃ p ∈ x.paths, ∃ j ∈ teamGroups s gid, ∃ y, group s j = some y ∧
      ∃ q ∈ y.paths, p.st ≠ q.st) →
    ∀ i ∈ teamGroups s gid, ∀ x, group s i = some x → x.park = none →
      ∃ y k, group (scoreboard s gid) i = some y ∧ y.park = some k ∧
        (k.code = 0x72 ∨ (i = gid ∧ diverged x = true ∧ k.code = 0x71))

/-! ### Memory instructions (R163 to R171, R257 to R261, R331 to R345, R387) -/

/-- LDL: each thread of the path receives the bytes at its offset in the team's local store, zero where the access is out of range;
bits above the access are free (log 22). STL: each byte of memory holds what the highest thread that stores to it gives, and every
other byte of memory, every register and the rest of the module are as before, but for the marks of bad words it overwrites. COMPLETES:
ldl and stl, for every group that may issue them with a word that breaks no rule and its registers free.

ATOML: the threads' operations are performed one at a time, lowest thread first; each thread receives the value that its own
operation found, zero where it is out of range. A failed CAS may end the path's turn (R146, R171, R334). COMPLETES: atoml, for every group
that may issue it with a word that breaks no rule and its registers free. -/
def Obligations.LocalMemory : Prop :=
  (∀ (g : GRef) (w : W64) (s : State) (x : Group) (p : Path) (size n r ro off : Nat), MayIssue s g x p → x.fence = none →
     size = 2 ^ bits w 10 8 → n = regsOf size → r = alignReg size (bits w 23 16) → ro = bits w 31 24 → off = bits w 55 32 →
     reservedBits w [(7, 0), (10, 8), (23, 16), (31, 24), (55, 32)] = 0 → bits w 10 8 ≤ 4 → r + n ≤ x.regGrant → ro + 1 ≤ x.regGrant →
     BlocksFree s g [(r, n), (ro, 1)] → r + n ≤ 256 →
     (opcode w = 0x50 → (∀ l ∈ lanes p.mask, ∀ a ∈ localAddr s (gidOf g) x l ro off size, poisonPhys s a size = 0) →
       ∃ y k, exec (.ldl g w) s = .next (fetched s (gidOf g) x p (setGroup { s with free := k } (gidOf g) (some (advance y)))) ∧ VecDone x y p.mask r n ∧
         ∀ l, l < 32 → p.mask.getLsbD l = true →
           match localAddr s (gidOf g) x l ro off size with
           | none => readBlock y l r n = 0
           | some a => readBlock y l r n % 2 ^ (8 * size) = readLE s.mem a size) ∧
     (opcode w = 0x51 → g.cl < clusterCount s.variant → (teamStore s (gidOf g) x).1 + (teamStore s (gidOf g) x).2 ≤ 0x600000 →
       ∃ m q, exec (.stl g w) s = .next (fetched s (gidOf g) x p { setGroup s (gidOf g) (some (advance x)) with mem := m, poison := q }) ∧
         ∀ a, readByte m a =
           match (lanes p.mask).reverse.find? fun l =>
               match localAddr s (gidOf g) x l ro off size with
               | none => false
               | some b => decide (b ≤ a) && decide (a < b + size) with
           | none => readByte s.mem a
           | some l =>
             match localAddr s (gidOf g) x l ro off size with
             | none => readByte s.mem a
             | some b => BitVec.ofNat 8 (readBlock x l r n >>> (8 * (a - b))))) ∧
  (∀ (g : GRef) (w : W64) (s : State) (x : Group) (p : Path) (size n rd ro rs rc op : Nat), MayIssue s g x p → x.fence = none →
     size = 2 ^ bits w 10 8 → bits w 10 8 ∈ [2, 3] → n = regsOf size → rd = alignReg size (bits w 23 16) → ro = bits w 31 24 →
     rs = alignReg size (bits w 39 32) → rc = alignReg size (bits w 47 40) → op = bits w 15 12 → op ≤ 7 → opcode w = 0x52 →
     reservedBits w [(7, 0), (10, 8), (15, 12), (23, 16), (31, 24), (39, 32), (47, 40)] = 0 → rd + n ≤ 256 →
     (∀ e ∈ [(rd, n), (ro, 1), (rs, n)] ++ (if op = 7 then [(rc, n)] else []), e.1 + e.2 ≤ x.regGrant) →
     BlocksFree s g ([(rd, n), (ro, 1), (rs, n)] ++ (if op = 7 then [(rc, n)] else [])) →
     (∀ l ∈ lanes p.mask, ∀ a ∈ localAddr s (gidOf g) x l ro 0 size, poisonPhys s a size = 0) →
     let one := fun (s' : State) (l : Nat) =>
       match localAddr s (gidOf g) x l ro 0 size with
       | none => s'
       | some a => (bankAtomic s' a size op (readBlock x l rs n) (readBlock x l rc n)).1
     ∃ y z, exec (.atoml g w) s = .next (fetched s (gidOf g) x p (setGroup ((lanes p.mask).foldl one s) (gidOf g) (some z))) ∧ VecDone x y p.mask rd n ∧
       (z = advance y ∨ (op = 7 ∧ z = endTurn (advance y))) ∧
       ∀ l, l < 32 → p.mask.getLsbD l = true →
         match localAddr s (gidOf g) x l ro 0 size with
         | none => readBlock y l rd n = 0
         | some a => readBlock y l rd n = readLE (((lanes p.mask).filter (· < l)).foldl one s).mem a size)

/-- An access of local space is out of range when its offset and size exceed the team's allocation: LDL and ATOML then give zero, STL and
ATOML write no byte for that thread, no fault is raised, and no byte outside the team's own allocation, and no read cache, is ever
touched (R170): the read caches are as the fetch of the instruction leaves them. -/
def Obligations.LocalOutOfRange : Prop :=
  (∀ (s : State) (gid : Nat) (x : Group) (l ro off size : Nat),
    (localAddr s gid x l ro off size = none ↔ (teamStore s gid x).2 < localOffset x l ro off size + size) ∧
    ∀ a ∈ localAddr s gid x l ro off size, windowAddr (gidCluster gid) (teamStore s gid x).1 ≤ a ∧
      a + size ≤ windowAddr (gidCluster gid) ((teamStore s gid x).1 + (teamStore s gid x).2)) ∧
  ∀ (g : GRef) (w : W64) (s t : State) (x : Group) (p : Path) (size n r ro off : Nat), MayIssue s g x p → x.fence = none →
    size = 2 ^ bits w 10 8 → n = regsOf size → r = alignReg size (bits w 23 16) → ro = bits w 31 24 → r + n ≤ 256 →
    g.cl < clusterCount s.variant → (teamStore s (gidOf g) x).1 + (teamStore s (gidOf g) x).2 ≤ 0x600000 →
    (∀ l ∈ lanes p.mask, ∀ a ∈ localAddr s (gidOf g) x l ro off size, poisonPhys s a size = 0) →
    (off = bits w 55 32 ∧ bits w 10 8 ≤ 4 ∧ reservedBits w [(7, 0), (10, 8), (23, 16), (31, 24), (55, 32)] = 0 ∧
        (∀ e ∈ [(r, n), (ro, 1)], e.1 + e.2 ≤ x.regGrant) ∧ BlocksFree s g [(r, n), (ro, 1)] ∧
        ((opcode w = 0x50 ∧ exec (.ldl g w) s = .next t) ∨ (opcode w = 0x51 ∧ exec (.stl g w) s = .next t)) ∨
      off = 0 ∧ bits w 10 8 ∈ [2, 3] ∧ bits w 15 12 ≤ 7 ∧
        reservedBits w [(7, 0), (10, 8), (15, 12), (23, 16), (31, 24), (39, 32), (47, 40)] = 0 ∧
        (∀ e ∈ [(r, n), (ro, 1), (alignReg size (bits w 39 32), n)] ++
          (if bits w 15 12 = 7 then [(alignReg size (bits w 47 40), n)] else []), e.1 + e.2 ≤ x.regGrant) ∧
        BlocksFree s g ([(r, n), (ro, 1), (alignReg size (bits w 39 32), n)] ++
          (if bits w 15 12 = 7 then [(alignReg size (bits w 47 40), n)] else [])) ∧
        opcode w = 0x52 ∧ exec (.atoml g w) s = .next t) →
    ∃ y, group t (gidOf g) = some y ∧ y.park = none ∧
      (∀ c, (cluster t c).ro = (cluster (fetched s (gidOf g) x p s) c).ro) ∧
      (opcode w ≠ 0x51 → ∀ l, l < 32 → p.mask.getLsbD l = true → localAddr s (gidOf g) x l ro off size = none → readBlock y l r n = 0) ∧
      ∀ a, readByte t.mem a ≠ readByte s.mem a → opcode w ≠ 0x50 ∧
        ∃ l ∈ lanes p.mask, ∃ b ∈ localAddr s (gidOf g) x l ro off size, b ≤ a ∧ a < b + size

/-- LD and ST: the threads' addresses are the register pair plus the offset, modulo 2^64; each is translated, and one access per line
is sent. The group goes to its next instruction (R331, R332, R335). COMPLETES: ld and st, for every group that may issue them with a
word that breaks no rule, aligned addresses that are translated, and room for the accesses.

A load access whose line its slice holds, with every sector it needs clean, fills its registers at once: each thread's register
receives its bytes of the line, other registers stay, and the access is gone. A store access to a line that the slice owns merges its
bytes, makes the copy modified and dirty, in the layout that its content asks for, and is gone (R225, R227, R231, R240, R286, R332).

The model's own choices enter through logs 4, 17 and 22. -/
def Obligations.LoadsAndStores : Prop :=
  (∀ (g : GRef) (w : W64) (s : State) (x : Group) (p : Path) (size r ra off : Nat), MayIssue s g x p → x.fence = none →
     size = 2 ^ bits w 10 8 → r = alignReg size (bits w 23 16) → ra = bits w 31 24 → off = bits w 55 32 →
     reservedBits w ldFields = 0 → bits w 10 8 ≤ 4 → r + regsOf size ≤ x.regGrant → ra + 2 ≤ x.regGrant →
     BlocksFree s g [(r, regsOf size), (ra, 2)] → (∀ l ∈ lanes p.mask, threadAddr x l ra off % size = 0) →
     (∀ refs, refs = (lanes p.mask).map (fun l => ({ va := threadAddr x l ra off, len := size, lane := l, reg := r } : Ref)) →
       opcode w = 0x54 → readsOut s (gidOf g) < 16 → RefsOk s g x .load true refs →
       segsFree s (gidOf g) .load (hitsFor s g x .load refs) = true → readRoom s g.cl g.core (hitsFor s g x .load refs) = true →
       exec (.ld g w) s = .next (fetched s (gidOf g) x p (sendLoads (setGroup s (gidOf g) (some (advance x))) (gidOf g) p.pc w (hitsFor s g x .load refs)))) ∧
     (∀ refs, refs = (lanes p.mask).map (fun l =>
         ({ va := threadAddr x l ra off, len := size, lane := l, val := readBlock x l r (regsOf size) } : Ref)) →
       opcode w = 0x55 → writesOut s (gidOf g) < 64 → RefsOk s g x .store false refs →
       segsFree s (gidOf g) .store (hitsFor s g x .store refs) = true →
       exec (.st g w) s = .next (fetched s (gidOf g) x p (sendStores (setGroup s (gidOf g) (some (advance x))) (gidOf g) p.pc w (hitsFor s g x .store refs))))) ∧
  (∀ (s : State) (a : Access) (x : Group) (i h : Nat) (c : CLine), accessOf s a.tag = some a → group s a.gid = some x →
     coreSlice s.variant (gidDie a.gid) (128 * a.line) = some i → homeSlice s.variant (128 * a.line) = some h → i ≠ h →
     (∃ d o, target s.variant (128 * a.line) = .face d o ∨ target s.variant (128 * a.line) = .stock o) →
     (sliceOf s i).enabled = true → findSpoil (sliceOf s i) a.line = none → findLine (sliceOf s i) a.line = some c → c.poison = 0 →
     (LoadAlone s a → readOut s (gidCluster a.gid) a.line = false → WholePieces a → a.attr < 3 → pieceSectors a.pieces &&& ~~~c.valid = 0 →
       LoadDone x a c.data (performLoad s a.tag) ∧ (performLoad s a.tag).mem = s.mem) ∧
     (a.attr < 3 → (a.attr = 1 → c.pins = 0) → c.valid = 0xF → c.st = .e ∨ c.st = .m → stalledLine s i a.line = false →
       (∀ z ∈ (sliceOf s i).lines, z.line = a.line → z.remote = c.remote) →
       (∀ u, u = setUse s.variant i (setIn s.variant i (128 * a.line)) ((sliceOf s i).lines.filter fun z => z.line != a.line) →
         u.1 + 4 ≤ 64 ∧ u.2 + 1 ≤ 32) →
       ∃ d m, findLine (sliceOf (performStore s a.tag) i) a.line = some d ∧ d.data = mergeLine a.be a.data c.data ∧ d.st = .m ∧
         d.valid = 0xF ∧ d.cmp = cmpOf d.data ∧ m = c.dirty ||| sectorsTouched a.be ∧ d.dirty = (if d.cmp = 0 ∨ m = 0 then m else 0xF) ∧
         accessOf (performStore s a.tag) a.tag = none ∧ (performStore s a.tag).mem = s.mem))

/-- ATOM, RED and CRU.CLOSE: operations on a cluster's own memory are performed at its banks, thread by thread; the others leave as
packets to the crusher of their line, with the operands that R258 to R261 name. The group goes to its next instruction. COMPLETES: atom,
red and cruClose, for every group that may issue them with a word that breaks no rule, aligned addresses that are translated, and
room for the packets.

The model's own choices enter through logs 4, 18 and 37. -/
def Obligations.UpdatesLeave : Prop :=
  ∀ (g : GRef) (w : W64) (s : State) (x : Group) (p : Path), MayIssue s g x p → x.fence = none →
    (∀ (size n op rd : Nat) (refs : List Ref) (near far : List (Hit × CruRecord)) (rec' : Hit → Hit × CruRecord) (t : State),
      size = 2 ^ bits w 10 8 → bits w 10 8 ∈ [2, 3] → n = regsOf size → op = bits w 15 12 → op ≤ 9 →
      rd = alignReg size (bits w 23 16) → opcode w = 0x58 → reservedBits w atomFields = 0 →
      (∀ e ∈ atomRegs w, e.1 + e.2 ≤ x.regGrant) → BlocksFree s g (atomRegs w) →
      (∀ l ∈ lanes p.mask, readBlock x l (bits w 31 24) 2 % size = 0) →
      (if bits w 48 48 = 1 then writesOut s (gidOf g) < 64 else readsOut s (gidOf g) < 16) →
      refs = (lanes p.mask).map (fun l => { va := readBlock x l (bits w 31 24) 2, len := size, lane := l }) →
      RefsOk s g x .store true refs → (∀ h ∈ hitsFor s g x .store refs, updateTarget s h.pa = none ∨ updateTarget s h.pa = some 0x65) →
      segsFree s (gidOf g) .update (hitsFor s g x .store refs) = true →
      rec' = (fun h => (h, .rounded (h.pa % 128) size (BitVec.ofNat 64 (readBlock x h.ref.lane (alignReg size (bits w 39 32)) n))
        (if op = 7 then BitVec.ofNat 64 (readBlock x h.ref.lane (alignReg size (bits w 47 40)) n) else 0))) →
      near = ((hitsFor s g x .store refs).filter fun h => isWindow s h.pa).map rec' →
      far = ((hitsFor s g x .store refs).filter fun h => !isWindow s h.pa).map rec' →
      t = bankUpdates (cacheLeaves (setGroup s (gidOf g) (some (advance x))) g.cl (hitsFor s g x .store refs)) (gidOf g) op size
        (if bits w 48 48 = 1 then none else some rd) near →
      exec (.atom g w) s = .next (fetched s (gidOf g) x p (sendPackets t (gidOf g) p.pc w (linePackets t far (fun line attr _ recs =>
        { line, fl := if bits w 10 8 = 2 then 0xA else 0xF, op, ret := decide (bits w 48 48 ≠ 1), task := x.task, attr, part := x.part,
          recs }) rd)))) ∧
    (∀ (fl fs : BitVec 4) (op rm n rs size : Nat) (form : RedForm) (rsr : Bool) (regs : List (Nat × Nat)) (refs : List Ref)
      (near far : List (Hit × CruRecord)) (rec' : Hit → Hit × CruRecord) (t : State),
      fl = BitVec.ofNat 4 (bits w 11 8) → fs = BitVec.ofNat 4 (bits w 19 16) → op = bits w 15 12 → rm = bits w 22 20 →
      form = redForm op fs fl → form ≠ .illegal → n = Nat.max 1 (elemBits fs / 32) → rs = bits w 31 24 / n * n →
      size = elemBits fl / 8 → rsr = (decide (rm = 4) && redRounds form fl) →
      regs = [(rs, n), (bits w 39 32, 2)] ++ (if rsr then [(bits w 47 40, 6)] else []) →
      opcode w = 0x59 → reservedBits w redFields = 0 → (∀ e ∈ regs, e.1 + e.2 ≤ x.regGrant) → BlocksFree s g regs →
      (∀ l ∈ lanes p.mask, readBlock x l (bits w 39 32) 2 % size = 0) → FormatsOk s false [fl, fs] → (redRounds form fl = true → rm < 5) →
      writesOut s (gidOf g) < 64 →
      refs = (lanes p.mask).map (fun l => { va := readBlock x l (bits w 39 32) 2, len := size, lane := l }) →
      RefsOk s g x .store true refs → (∀ h ∈ hitsFor s g x .store refs, updateTarget s h.pa = none ∨
        (updateTarget s h.pa = some 0x65 ∧ form = .rounded ∧ fs = 0xA)) →
      segsFree s (gidOf g) .update (hitsFor s g x .store refs) = true →
      rec' = (fun h => (h, redRecord form fs fl (h.pa % 128) (readBlock x h.ref.lane rs n % 2 ^ elemBits fs))) →
      near = ((hitsFor s g x .store refs).filter fun h => isWindow s h.pa).map rec' →
      far = ((hitsFor s g x .store refs).filter fun h => !isWindow s h.pa).map rec' →
      t = bankUpdates (cacheLeaves (setGroup s (gidOf g) (some (advance x))) g.cl (hitsFor s g x .store refs)) (gidOf g) op size none near →
      exec (.red g w) s = .next (fetched s (gidOf g) x p (sendPackets t (gidOf g) p.pc w (linePackets t far (fun line attr va recs =>
        { line, fl, op, rm := BitVec.ofNat 3 rm, sat := decide (bits w 23 23 = 1), ho := decide (bits w 48 48 = 1),
          rsr := if rsr then some ((rsrBlock x (bits w 47 40)).seed, (rsrBlock x (bits w 47 40)).base + BitVec.ofNat 64 (va / 128 * 128 / size),
            (rsrBlock x (bits w 47 40)).stream) else none,
          task := x.task, attr, part := x.part, recs }) 0)))) ∧
    (∀ (refs : List Ref) (far : List Hit), WordOk x w 0x5A [(39, 32)] [(bits w 39 32, 2)] none → BlocksFree s g [(bits w 39 32, 2)] →
      writesOut s (gidOf g) < 64 → refs = (lanes p.mask).map (fun l => { va := readBlock x l (bits w 39 32) 2, len := 1, lane := l }) →
      RefsOk s g x .store true refs → (∀ h ∈ hitsFor s g x .store refs, updateTarget s h.pa = none ∨ updateTarget s h.pa = some 0x65) →
      segsFree s (gidOf g) .update (hitsFor s g x .store refs) = true →
      far = ((hitsFor s g x .store refs).filter fun h => !isWindow s h.pa) →
      exec (.cruClose g w) s = .next (fetched s (gidOf g) x p (sendPackets (cacheLeaves (setGroup s (gidOf g) (some (advance x))) g.cl (hitsFor s g x .store refs))
        (gidOf g) p.pc w ((linesOf far).map fun line =>
          (((far.filter fun h => h.pa / 128 == line).head?.map (·.ref.va)).getD 0, closePacket line x.task x.part true,
            (far.filter fun h => h.pa / 128 == line).map (fun h => hitPiece h 0), 0)))))

/-- FENCE: a release fence of scope 0 to 2 of a group without open contributions waits for every load, atomic and update of the group
and for the stores that its scope covers; an acquire fence of scope 0 to 2 for its loads and atomics. The group goes on; it is held at
its next memory instruction until the fence completes (R340 to R343). At system scope, and with contributions, the fence also sends
flushes, invalidations or closes (R278, R352). COMPLETES: fenceRel and fenceAcq, for every group that may issue them without a fence in
progress.

A fence completes when nothing that it awaits is outstanding and the group is not parked: the group is then free, or the paths that
arrived at a team barrier behind it count as arrived. Until then the command changes nothing (R342 to R345). COMPLETES: fenceComplete, in
every state in which the group awaits nothing more.

The model's own choices enter through log 4. -/
def Obligations.FencesWaitAndComplete : Prop :=
  (∀ (g : GRef) (w : W64) (s : State) (x : Group) (p : Path) (scope : Nat), MayIssue s g x p → x.fence = none → scope = bits w 9 8 →
     (WordOk x w 0x5C [(9, 8), (10, 10)] [] none → bits w 10 10 = 1 →
       exec (.fenceRel g w) s = .next (fetched s (gidOf g) x p (startFence (setGroup s (gidOf g) (some (advance x))) (gidOf g) true scope false)) ∧
       (x.contrib = [] → scope < 3 → exec (.fenceRel g w) s = .next (fetched s (gidOf g) x p (setGroup s (gidOf g) (some { advance x with
         contrib := [], fence := some { waits := ((s.accs.filter fun a => a.gid == gidOf g && relWaits scope a).map (·.tag)) } }))))) ∧
     (WordOk x w 0x5C [(9, 8), (10, 10)] [] none → bits w 10 10 = 0 →
       exec (.fenceAcq g w) s = .next (fetched s (gidOf g) x p (startFence (setGroup s (gidOf g) (some (advance x))) (gidOf g) false scope false)) ∧
       (scope < 3 → exec (.fenceAcq g w) s = .next (fetched s (gidOf g) x p (setGroup s (gidOf g) (some { advance x with
         fence := some { waits := ((s.accs.filter fun a => a.gid == gidOf g && (acqWaits a || a.kind == .inv)).map (·.tag)) } })))))) ∧
  (∀ (g : GRef) (s : State) (x : Group) (f : Fence), g.ok = true → group s (gidOf g) = some x → x.fence = some f →
     exec (.fenceComplete g) s = .next (
       if x.park = none ∧ ∀ t ∈ f.waits, accessOf s t = none then
         (if f.forBarrier then arrive s (gidOf g) else setGroup s (gidOf g) (some { x with fence := none }))
       else s))

/-- ENQ sends the 128 bytes of thread 0's sixteen registers to the front end under a new tag; the group goes on, and its result
register waits for the status in all 32 threads (R387). COMPLETES: enq, for every group that may issue it with a word that breaks no rule
and its registers free.

ENQ_REC: a record that passes is written at the tail of its ring with the sequence number that the device gives it, the tail goes
on, and the answer is 0; one that does not is answered 2 for a queue that is not active, 3 for a record that may not be enqueued, 1 for
a full ring, in that order, and writes nothing (R387, R388; log 97). COMPLETES: enqRec, for every record.

The model's own choices enter through logs 49 and 97. -/
def Obligations.EnqueuedRecords : Prop :=
  (∀ (g : GRef) (w : W64) (s : State) (x : Group) (p : Path) (rs rd : Nat), MayIssue s g x p → rs = bits w 15 8 → rd = bits w 23 16 →
     WordOk x w 0x5E [(15, 8), (23, 16), (32, 24)] [(rs, 16), (rd, 1)] none → rs % 16 = 0 → readsOut s (gidOf g) < 16 →
     BlocksFree s g [(rs, 16), (rd, 1)] →
     ∀ a : Access, a = { tag := s.nextTag, instr := s.nextTag, gid := gidOf g, kind := .atomRet, line := 0, attr := 0, va := 0, pc := p.pc,
                         word := w, pieces := (List.range 32).map fun l => { off := 0, len := 4, lane := l, reg := rd } } →
     exec (.enq g w) s = .next (fetched s (gidOf g) x p { setGroup s (gidOf g) (some (advance x)) with
       accs := s.accs ++ [a], nextTag := s.nextTag + 1,
       out := s.out ++ [.cohData "ENQ_REC" (bits w 32 24) s.nextTag (BitVec.ofNat 1024 (readBlock x 0 rs 16)) 0 0 0] })) ∧
  (∀ (s : State) (p q tag : Nat) (words : List W64) (x : Queue) (c : Cmd), (partOk p && slotOk q) = true → s.restart.active = false →
     x = queue s p q → c = { seq := enqSeq x, words := ((words.getD 0 0 &&& 0xFFFFFFFF#64) ||| ((enqSeq x).setWidth 64 <<< 32)) :: words.drop 1 } →
     (enqActive x = false → exec (.enqRec p q tag words) s = .next (emit s (.ack (.access tag) 2))) ∧
     (enqActive x = true → enqRecordOk s p q c = false → exec (.enqRec p q tag words) s = .next (emit s (.ack (.access tag) 3))) ∧
     (enqActive x = true → enqRecordOk s p q c = true → ringSize x ≤ (x.tail - x.head).toNat →
       exec (.enqRec p q tag words) s = .next (emit s (.ack (.access tag) 1))) ∧
     (enqActive x = true → enqRecordOk s p q c = true → (x.tail - x.head).toNat < ringSize x → ∃ t,
       exec (.enqRec p q tag words) s = .next (emit t (.ack (.access tag) 0)) ∧ queue t p q = { x with tail := x.tail + 1 } ∧
       t = setQueue (agentWrite s p (recordAddr x x.tail) (c.words.flatMap fun w => leBytes 8 w.toNat)) p q { x with tail := x.tail + 1 }))

/-! ### Queues and commands (R356 to R374, R381 to R392, R412, R422 to R424, R500 to R504, R544) -/

/-- A doorbell sets the tail of a bound queue that is not for device-side enqueue, and a tail more than the ring ahead of the head
stops the queue with cause 2 (R358); on any other slot it has no effect. COMPLETES: doorbell.

COMMAND_FETCH takes the command at the head of the ring when all its records lie below the tail: the head moves past it and the
next sequence number is expected; a record that cannot be read stops the queue with cause 3, a wrong sequence number with cause 1; a
queue that may not fetch stays as it is (R357 to R360, R366). The front end's reads of the ring leave what an IOD agent's read does.
COMPLETES: commandFetch. -/
def Obligations.QueuesFetch : Prop :=
  (∀ (s : State) (p q : Nat) (v : W64) (x : Queue), (partOk p && slotOk q) = true → x = queue s p q →
     let can := (partCfg s p).isDefined && x.declared && x.bound && !x.devenq
     let ahead := (v.setWidth 32 - x.head).toNat
     (can = true → ahead ≤ ringSize x → exec (.doorbell p q v) s = .next (setQueue s p q { x with tail := v.setWidth 32 })) ∧
     (can = true → ringSize x < ahead → ∃ t, exec (.doorbell p q v) s = .next t ∧
       queue t p q = { x with stopped := true, errCause := 2, errSeq := 0, errIndex := 0 }) ∧
     (can = false → exec (.doorbell p q v) s = .next s)) ∧
  (∀ (s : State) (p q : Nat) (x : Queue), (partOk p && slotOk q) = true → x = queue s p q →
     (mayFetch s p x = false → exec (.commandFetch p q) s = .next s) ∧
     (mayFetch s p x = true → x.tail = x.head → exec (.commandFetch p q) s = .next s) ∧
     (mayFetch s p x = true → x.tail ≠ x.head →
       (readRecord s p (recordAddr x x.head) = none → ∃ t, exec (.commandFetch p q) s = .next t ∧
         queue t p q = { x with stopped := true, errCause := 3, errSeq := 0, errIndex := BitVec.ofNat 16 (x.head.toNat % ringSize x) }) ∧
       ∀ (w ws : List W64) (f c : Cmd), readRecord s p (recordAddr x x.head) = some w →
         f = { seq := BitVec.ofNat 32 ((w.getD 0 0).toNat >>> 32), words := w } → c = { f with words := ws } →
         cRecords f ≤ (x.tail - x.head).toNat → readRecords s p x (cRecords f) x.head = some ws →
         ((∃ e, x.expect = some e ∧ e ≠ f.seq) → ∃ t, exec (.commandFetch p q) s = .next t ∧
           queue t p q = { x with stopped := true, errCause := 1, errSeq := f.seq, errIndex := BitVec.ofNat 16 (x.head.toNat % ringSize x) }) ∧
         ((∀ e ∈ x.expect, e = f.seq) → ∀ r t, r = (List.range (cRecords c)).foldl (fun r i => agentReads r (recordAddr x (x.head + BitVec.ofNat 32 i)) 64 0 true) s →
           t = setQueue r p q
             { x with head := x.head + BitVec.ofNat 32 (cRecords c), expect := some (f.seq + 1), cmds := x.cmds ++ [c] } →
           exec (.commandFetch p q) s = .next (if rowless s c then refuseCmd t p q f.seq (checkCmd t p q c) else t))))

/-- A command that the front end may accept is checked in the order of R367. One that fails a check completes at once with the code of
the first; one that passes is accepted, and then has its turn as any accepted command (R364, R367, R371).

COMMAND_COMPLETE of the oldest command, once it is done: it leaves the queue and QCMP takes its sequence number, its code if it
failed, its marks, which stay, and the restart generation; a younger command, or one that is not done, changes nothing (R363). With
a DESTROY_QUEUE the destroyed slot is then unbound, and its QCMP says how many tasks were open (R389, R391). COMPLETES: commandComplete, for
the oldest command of a queue, done.

The model's own choices enter through log 17. -/
def Obligations.CommandsCheckedAndCompleted : Prop :=
  (∀ r ∈ commandRows, ∀ (s : State) (p q : Nat) (seq : W32) (c : Cmd), (partOk p && slotOk q) = true →
     findCmd (queue s p q) seq = some c → cOp c = r.2.1 → r.2.2 c = true → c.done = false → c.accepted = false →
     isTesting s p q c = false → mayAccept s p q c = true →
     (checkCmd s p q c ≠ 0 → exec (r.1 p q seq) s = .next (refuseCmd s p q seq (checkCmd s p q c))) ∧
     (checkCmd s p q c = 0 → exec (r.1 p q seq) s = exec (r.1 p q seq) (acceptCmd s p q seq))) ∧
  (∀ (s : State) (p q : Nat) (c : Cmd) (rest : List Cmd), (partOk p && slotOk q) = true → (queue s p q).cmds = c :: rest →
     (c.done = false ∨ s.restart.active = true → exec (.commandComplete p q c.seq) s = .next s) ∧
     (∀ n, n ≠ c.seq → exec (.commandComplete p q n) s = .next s) ∧
     (c.done = true → s.restart.active = false → ∃ t, exec (.commandComplete p q c.seq) s = .next t ∧
       (q ≠ 0 ∨ cOp c ≠ 0x83 ∨ c.code ≠ 0 → queue t p q = { queue s p q with
         qcmp := qcmpAdvance (queue s p q).qcmp c.seq c.code (cmdMarks c (queue s p q).revokeMark) s.dev.gen.toNat, revokeMark := false,
         lastSeq := c.seq, cmds := rest }) ∧
       (q = 0 → cOp c = 0x83 → c.code = 0 → ∀ n, n = cw c 1 8 0 → n ≠ 0 → (queue s p n).destroying = true →
         (queue t p n).bound = false ∧ (queue t p n).destroying = false ∧ (queue t p n).cmds = [] ∧
         (queue t p n).declared = (queue s p n).declared ∧ qcmpSeq (queue t p n).qcmp = (queue s p n).openTasks % 2 ^ 32 ∧
         (queue t p n).qcmp.getLsbD 43 = true) ∧
       (cWCMP c = true → (queue s p q).cmplBase ≠ 0 → (Out.complete p q (completionRecord c s.dev.gen.toNat)) ∈ t.out)))

/-- A command that fails a check of R367 completes at once and counts as a failed command in sequence order: it is done with its code
while the other commands stay, the queue does not stop, and when it is the oldest its sequence number and its code go to QCMP; the
queue then continues with the next command (R364). -/
def Obligations.RefusedCommandCounts : Prop :=
  ∀ r ∈ (Instr.launch, 0x01, fun (_ : Cmd) => true) :: commandRows, ∀ (s : State) (p q : Nat) (seq : W32) (c : Cmd) (code : Nat),
    (partOk p && slotOk q) = true → findCmd (queue s p q) seq = some c → cOp c = r.2.1 → r.2.2 c = true → c.done = false →
    c.accepted = false → isTesting s p q c = false → mayAccept s p q c = true → code = checkCmd s p q c → code ≠ 0 →
    ∃ t, exec (r.1 p q seq) s = .next t ∧
      (∃ d, findCmd (queue t p q) seq = some d ∧ d.done = true ∧ d.code.toNat = code ∧ d.accepted = false ∧ d.words = c.words) ∧
      { queue t p q with cmds := [] } = { queue s p q with cmds := [] } ∧
      (queue t p q).cmds.map (·.seq) = (queue s p q).cmds.map (·.seq) ∧
      (∀ e ∈ (queue s p q).cmds, e.seq ≠ seq → ∃ f ∈ (queue t p q).cmds, f.seq = e.seq ∧ f.done = e.done ∧ f.accepted = e.accepted) ∧
      ∀ (u v : State) (d : Cmd) (rest : List Cmd), (queue u p q).cmds = d :: rest → d.done = true → d.seq = seq → d.code.toNat = code →
        u.restart.active = false → exec (.commandComplete p q seq) u = .next v →
        (queue v p q).cmds = rest ∧ (queue v p q).lastSeq = seq ∧ (queue v p q).stopped = (queue u p q).stopped ∧
          qcmpSeq (queue v p q).qcmp = seq.toNat ∧ qcmpCode (queue v p q).qcmp = code

/-- LAUNCH: the next command of its queue to be accepted, when it passes its checks and every node can be placed, is accepted and
becomes a launch of the graph's current version with its step counter, local-store size and argument bytes; nothing starts yet (R371,
R383, R416). One that fails a check completes with its code, one that cannot be placed with 0x5C. COMPLETES: launch, for a LAUNCH next in
its queue that passes its checks and can be placed.

The model's own choices enter through log 44. -/
def Obligations.LaunchAccepted : Prop :=
  ∀ (s : State) (p q : Nat) (seq : W32) (c : Cmd) (x : Graph), (partOk p && slotOk q) = true → findCmd (queue s p q) seq = some c →
    cOp c = 0x01 → c.done = false → c.accepted = false → mayAccept s p q c = true →
    (checkCmd s p q c ≠ 0 → exec (.launch p q seq) s = .next (refuseCmd s p q seq (checkCmd s p q c))) ∧
    (checkCmd s p q c = 0 → graphOf s p (cw c 1 31 0) = some x →
      (placeable s p ((descrOf s p (cw c 1 31 0) x.current).getD []) = false →
        exec (.launch p q seq) s = .next (refuseCmd s p q seq 0x5C)) ∧
      (placeable s p ((descrOf s p (cw c 1 31 0) x.current).getD []) = true → ∃ t l d, exec (.launch p q seq) s = .next t ∧
        t.launches = s.launches ++ [l] ∧ t.nextLaunch = s.nextLaunch + 1 ∧ t.tasks = s.tasks ∧ t.mem = s.mem ∧ l.id = s.nextLaunch ∧
        l.part = p ∧ l.q = q ∧ l.seq = seq ∧ l.order = (part s p).order ∧ l.handle = cw c 1 31 0 ∧ l.version = x.current ∧ l.ctx = x.ctx ∧
        l.step.toNat = cw c 1 63 32 ∧ l.ls = cw c 2 18 16 ∧ l.args = cArgs c (cw c 2 9 0) ∧ l.nodes = [] ∧ l.started = false ∧
        findCmd (queue t p q) seq = some d ∧ d.accepted = true ∧ d.done = false ∧ d.version = x.current ∧
        (part t p).order = (part s p).order + 1))

/-- REPLAY: RETRY brings the parked group back at the instruction at which it was parked, SKIP after it, where the path that faulted goes
on by one instruction; both free its park record. COMPLETES: retry and skip, for a command whose turn has come and a resident group
parked with its number, and teardown, where a group is parked with its number. TEARDOWN discards every task of the context and stops its queues. A number that no group is parked with gives 0x57 (R159, R345, R373).

The model's own choices enter through log 41. -/
def Obligations.ReplayParkedGroup : Prop :=
  ∀ (s : State) (p q : Nat) (seq : W32) (c : Cmd) (ctx n : Nat), HasTurn s p q seq 0x03 c → ctx = cw c 2 15 0 → n = cw c 1 31 0 →
    (replayFault s p c = 0x57 →
      (cw c 1 33 32 = 0 → exec (.retry p q seq) s = .next (finishCmd s p q seq 0x57)) ∧
      (cw c 1 33 32 = 1 → exec (.skip p q seq) s = .next (finishCmd s p q seq 0x57)) ∧
      (cw c 1 33 32 = 2 → exec (.teardown p q seq) s = .next (finishCmd s p q seq 0x57))) ∧
    (∀ (gid : Nat) (x : Group) (k : Park), parkedAt s p ctx n = some gid → group s gid = some x → x.park = some k → failedOf s gid = [] →
      ∀ (d : Ctx) (u : State), ctxOf s p ctx = some d → u = clearRecord s p d n →
      (cw c 1 33 32 = 0 → ∃ y, exec (.retry p q seq) s = .next (finishCmd (setGroup u gid (some y)) p q seq 0) ∧ y.park = none ∧
        y.regs = x.regs ∧ y.accs = x.accs ∧
        (k.code ≠ 0x71 → k.code ≠ 0x72 → y = { x with park := none }) ∧
        (k.code = 0x71 ∨ k.code = 0x72 → y.paths = x.paths.map fun z => { z with st := .live })) ∧
      (cw c 1 33 32 = 1 → ∃ y, exec (.skip p q seq) s = .next (finishCmd (setGroup u gid (some y)) p q seq 0) ∧ y.park = none ∧
        y.regs = x.regs ∧ y.accs = x.accs ∧
        (k.code ≠ 0x71 → k.code ≠ 0x72 → k.async = true → y = { x with park := none }) ∧
        (k.code ≠ 0x71 → k.code ≠ 0x72 → k.async = false → y = { x with park := none, mmaStep := none, image := [], paths := y.paths } ∧
          y.paths = x.paths.map fun z => if z.st = .live ∧ z.mask ≠ 0 ∧ z.pc = k.pc ∧ z.mask &&& k.mask ≠ 0 then { z with pc := z.pc + 8 } else z))) ∧
    (cw c 1 33 32 = 2 → replayFault s p c = 0 → ∃ t, exec (.teardown p q seq) s = .next t ∧
      t = finishCmd (teardown s p ctx (parkCode s p ctx n)) p q seq 0 ∧
      (∀ k ∈ t.tasks, k ∈ s.tasks ∧ ¬(k.part = p ∧ k.ctx = ctx)) ∧
      ∀ m ∈ slotsOf s p, m ≠ 0 → (queue s p m).bound = true → (queue s p m).ctx = ctx → (queue t p m).stopped = true)

/-- NOP completes; INV_TLB drops the translations of its context and pages from every cluster, INV_RO the read-only lines of every
cluster that holds a team of the partition; nothing else changes (R156, R249, R371). INV_TLB drops the cached table pointers of its
context too that cover one of its pages. COMPLETES: nop, invTlb and invRo, for a command whose turn has come.

SET_EVENT_RING starts an empty ring at the address, key and queue pair that it names, or disables events; RETIRE_ROWS puts every
pending retirement into force, and where one's range lies in a region the admission pass is due (R392, R213, R214; log 30). COMPLETES:
setEventRing and retireRows, for a command whose turn has come. -/
def Obligations.SetupCommands : Prop :=
  (∀ (s : State) (p q : Nat) (seq : W32) (c : Cmd),
     (HasTurn s p q seq 0x02 c → exec (.nop p q seq) s = .next (finishCmd s p q seq 0)) ∧
     (HasTurn s p q seq 0x04 c → ∃ m, exec (.invTlb p q seq) s = .next (finishCmd { s with clusters := m } p q seq 0) ∧
       ∀ k x, (k, x) ∈ s.clusters → ∃ y, (k, y) ∈ m ∧ { y with tlb := [], ptrs := [] } = { x with tlb := [], ptrs := [] } ∧
         (∀ e, e ∈ y.tlb ↔ e ∈ x.tlb ∧ ¬(e.part = p ∧ e.ctx = cw c 1 15 0 ∧ (cw c 3 35 0 = 0 ∨
           (e.vpage < cw c 2 47 12 + cw c 3 35 0 ∧ cw c 2 47 12 < e.vpage + e.pages)))) ∧
         ∀ e, e ∈ y.ptrs ↔ e ∈ x.ptrs ∧ ¬(e.part = p ∧ e.ctx = cw c 1 15 0 ∧ (cw c 3 35 0 = 0 ∨
           (e.index * 2 ^ (36 - 9 * e.level) < cw c 2 47 12 + cw c 3 35 0 ∧
             cw c 2 47 12 < e.index * 2 ^ (36 - 9 * e.level) + 2 ^ (36 - 9 * e.level))))) ∧
     (HasTurn s p q seq 0x05 c → ∃ m, exec (.invRo p q seq) s = .next (finishCmd { s with clusters := m } p q seq 0) ∧
       ∀ k x, (k, x) ∈ s.clusters → ∃ y, (k, y) ∈ m ∧ { y with ro := [] } = { x with ro := [] } ∧
         y.ro = if x.teams.any (fun t => ((taskOf s t.task).map fun k => k.part == p).getD false) then [] else x.ro)) ∧
  (∀ (s : State) (p q : Nat) (seq : W32) (c : Cmd),
     (HasTurn s p q seq 0x87 c →
       (cw c 1 63 63 = 1 → exec (.setEventRing p q seq) s =
         .next (finishCmd (setPart s p { part s p with ringSet := false, evHeld := [] }) p q seq 0)) ∧
       (cw c 1 63 63 = 0 → exec (.setEventRing p q seq) s = .next (finishCmd (setPart s p { part s p with
         ringSet := true, ringQp := cw c 1 23 0 - 0x10000, ringLogn := cw c 1 31 24, ringVa := c.words.getD 2 0,
         ringKey := BitVec.ofNat 32 (cw c 3 31 0), evHead := 0, evTail := 0, evLost := 0 }) p q seq 0))) ∧
     (HasTurn s p q seq 0x88 c → ∃ u, exec (.retireRows p q seq) s = .next (finishCmd u p q seq 0) ∧
       u.retired = s.retired.map (fun r => { r with inForce := true }) ∧
       u = { s with retired := u.retired, flash := { s.flash with waiting := u.flash.waiting }, admission := { s.admission with
         passDue := s.admission.passDue || s.retired.any fun r => !r.inForce && s.image.regions.any fun z =>
           decide (z.base < r.base + (rowRange s.variant r.base).2) && decide (r.base < z.base + z.len) } } ∧
       s.flash.waiting <+: u.flash.waiting))

/-- CREATE_CONTEXT makes a context that does not exist, DESTROY_CONTEXT drops one that no queue or graph uses, with its cached
translations, CREATE_QUEUE binds a slot to its ring and sets its first sequence number and QCMP, DESTROY_QUEUE takes phases 1 to 4 of
R389; a name that is in use gives 0x59 (R359, R363, R370, R374, R389 to R391; log 29). COMPLETES: createContext, destroyContext,
createQueue and destroyQueue, for a command whose turn has come.

REGISTER_GRAPH copies an admitted descriptor into the store under its handle as version 1, PATCH_GRAPH adds the next version and
makes it current, RELEASE_GRAPH releases the handle; a version stays while a launch has captured it (R381 to R385). What the loader
refuses, it refuses whole. A version's ledger-spill areas get a place of their own (R272; log 95), and the front end's reads leave what an
IOD agent's read does. COMPLETES: registerGraph, patchGraph and releaseGraph, for a command whose turn has come.

The model's own choices enter through logs 40 and 43. -/
def Obligations.ContextsQueuesGraphs : Prop :=
  (∀ (s : State) (p q : Nat) (seq : W32) (c : Cmd),
     (HasTurn s p q seq 0x80 c →
       (ctxOf s p (cw c 1 15 0) ≠ none → exec (.createContext p q seq) s = .next (finishCmd s p q seq 0x59)) ∧
       (ctxOf s p (cw c 1 15 0) = none → exec (.createContext p q seq) s = .next (finishCmd (setCtx s p (cw c 1 15 0) (some
         { root := cw c 2 49 12 * 4096, constBase := cw c 3 49 12 * 4096, constSlots := cw c 3 63 56, constVa := cw c 4 47 12 * 4096,
           parkBase := cw c 5 49 6 * 64, parkEntries := cw c 6 31 0, slotsUsed := [], nextPark := 1 })) p q seq 0))) ∧
     (HasTurn s p q seq 0x81 c →
       (ctxBusy s p (cw c 1 15 0) = true → exec (.destroyContext p q seq) s = .next (finishCmd s p q seq 0x59)) ∧
       (ctxBusy s p (cw c 1 15 0) = false → ∃ t, exec (.destroyContext p q seq) s = .next t ∧ ctxOf t p (cw c 1 15 0) = none ∧
         (∀ k, k ≠ cw c 1 15 0 → ctxOf t p k = ctxOf s p k) ∧ t.mem = s.mem ∧ t.groups = s.groups ∧
         ∀ k x, (k, x) ∈ t.clusters → (∀ e ∈ x.tlb, ¬(e.part = p ∧ e.ctx = cw c 1 15 0)) ∧
           ∀ e ∈ x.ptrs, ¬(e.part = p ∧ e.ctx = cw c 1 15 0))) ∧
     (HasTurn s p q seq 0x82 c → ∀ n, n = cw c 1 8 0 → n ≠ q →
       ((queue s p n).bound = true → exec (.createQueue p q seq) s = .next (finishCmd s p q seq 0x59)) ∧
       ((queue s p n).bound = false → ∃ t, exec (.createQueue p q seq) s = .next t ∧
         queue t p n = { declared := (queue s p n).declared, devenq := (queue s p n).devenq, fpr := (queue s p n).fpr, bound := true,
                         ctx := cw c 1 31 16, logsz := cw c 2 3 0, base := cw c 2 49 12 * 4096, cmplBase := cw c 3 49 6 * 64,
                         expect := some (BitVec.ofNat 32 (cw c 1 63 32)),
                         qcmp := qcmpFirst (BitVec.ofNat 32 (cw c 1 63 32)) s.dev.gen.toNat } ∧
         (queue t p n).stopped = false ∧ (queue t p n).head = 0 ∧ (queue t p n).tail = 0 ∧
         qcmpSeq (queue t p n).qcmp = (cw c 1 63 32 + 2 ^ 32 - 1) % 2 ^ 32)) ∧
     (HasTurn s p q seq 0x83 c → ∀ n, n = cw c 1 8 0 → n ≠ q →
       ((queue s p n).destroying = true → exec (.destroyQueue p q seq) s = .next (finishCmd s p q seq 0x59)) ∧
       ((queue s p n).destroying = false → (queue s p n).bound = false →
         exec (.destroyQueue p q seq) s = .next (finishCmd s p q seq 0)) ∧
       ((queue s p n).destroying = false → (queue s p n).bound = true → ∃ t, exec (.destroyQueue p q seq) s = .next t ∧
         (queue t p n).destroying = true ∧ (queue t p n).cmds = [] ∧ (∀ l ∈ t.launches, l ∈ s.launches ∧ ¬(l.part = p ∧ l.q = n)) ∧
         ∀ k ∈ t.tasks, k ∈ s.tasks ∧ ∀ l, launchOf s k.launch = some l → ¬(l.part = p ∧ l.q = n)))) ∧
  (∀ (s : State) (p q : Nat) (seq : W32) (c : Cmd) (h : Nat), h = cw c 1 31 0 →
     (HasTurn s p q seq 0x84 c → ∀ d, d = (readPhys s (cw c 2 49 6 * 64) (cw c 3 19 0)).take
         (gTotal (readPhys s (cw c 2 49 6 * 64) (cw c 3 19 0))) →
       (graphOf s p h ≠ none → exec (.registerGraph p q seq) s = .next (finishCmd s p q seq 0x59)) ∧
       (graphOf s p h = none → loaderCode s p (cw c 1 47 32) d.length d ≠ 0 →
         exec (.registerGraph p q seq) s = .next (finishCmd s p q seq (loaderCode s p (cw c 1 47 32) d.length d))) ∧
       (graphOf s p h = none → loaderCode s p (cw c 1 47 32) d.length d = 0 →
         exec (.registerGraph p q seq) s = .next (finishCmd (setGraph (agentReads s (cw c 2 49 6 * 64) (cw c 3 19 0) 0 true) p h
           (some { ctx := cw c 1 47 32, current := 1, released := false, versions := [(1, d, d.length)],
                   spillAt := [(1, spillPlace s p (spillClaim d))] })) p q seq 0))) ∧
     (HasTurn s p q seq 0x85 c → ∀ g d b, graphOf s p h = some g → descrOf s p h g.current = some d → b = cw c 2 49 7 * 128 →
       g.versions.length < 4 → (∀ e ∈ g.versions, e.1 ≤ g.current) →
       ∀ n, n = 64 * ((List.range (patchCount s b)).map fun i => fieldAt (patchEntry s b i) 0 2).eraseDups.length →
       loaderCode s p g.ctx n (applyPatch s b d) = 0 →
       exec (.patchGraph p q seq) s = .next (finishCmd (freeVersions (setGraph (agentReads s b (128 + 128 * patchCount s b) 0 true) p h
         (some { g with
           current := g.current + 1, versions := g.versions ++ [(g.current + 1, applyPatch s b d, n)],
           spillAt := put 0 g.spillAt (g.current + 1) (spillPlace s p (spillClaim (applyPatch s b d))) })) p h) p q seq 0)) ∧
     (HasTurn s p q seq 0x86 c → ∀ g, graphOf s p h = some g → ∃ t, exec (.releaseGraph p q seq) s = .next t ∧
       (∀ l ∈ s.launches, l ∈ t.launches) ∧
       ∀ v d n, (v, d, n) ∈ g.versions → ((s.launches.any fun l => l.part == p && l.handle == h && l.version == v) = true ↔
         ∃ x, graphOf t p h = some x ∧ x.released = true ∧ (v, d, n) ∈ x.versions)))

/-- RESET_PARTITION carries its target in bits 3:0 of word 1, and every other bit is reserved; it is refused with 0x5D when the target is
PT0, is not defined, or is being reset; else it resets the partition and completes (R422, R423). COMPLETES: resetPartition, for a command
whose turn has come. -/
def Obligations.ResetPartitionRefused : Prop :=
  ∀ (s : State) (p q : Nat) (seq : W32) (c : Cmd), cOp c = 0x8A →
    (allowedBits c = [ones 3 0] ∧ (reservedOk c = true → (c.words.getD 1 0).toNat < 16 ∧ ∀ i, 2 ≤ i → i < 8 → c.words.getD i 0 = 0)) ∧
    (HasTurn s p q seq 0x8A c → ∀ k, k = (c.words.getD 1 0).toNat % 16 →
      (exec (.resetPartition p q seq) s = .next (if k = 0 ∨ (partCfg s k).isDefined = false ∨ (part s k).resetting = true
        then finishCmd s p q seq 0x5D else finishCmd (resetPart s k) p q seq 0)))

/-- The reset of a partition ends every task and launch it has, its contexts, graphs and teams, and leaves those of the other partitions
(R423, R424); the partition's own queue starts again, its other queues are unbound.

DISCARD takes a task's teams, or with tag 0xFFFF every task's, off a cluster without saving them, and PT_PURGE takes a partition's
remote copies and open lines from a slice and its translations from a cluster; both answer (R423, R425). COMPLETES: discard and ptPurge.

The model's own choices enter through log 42. -/
def Obligations.TakenDown : Prop :=
  (∀ (s t : State) (k : Nat), t = resetPart s k →
     (∀ x ∈ t.tasks, x ∈ s.tasks ∧ x.part ≠ k) ∧ (∀ l ∈ t.launches, l ∈ s.launches ∧ l.part ≠ k) ∧
     (∀ n, ctxOf t k n = none) ∧ (∀ h, graphOf t k h = none) ∧
     (∀ n ∈ slotsOf s k, n ≠ 0 → (queue t k n).bound = false) ∧
     (0 ∈ slotsOf s k → (queue t k 0).bound = true ∧ (queue t k 0).cmds = [] ∧ (queue t k 0).head = 0 ∧ (queue t k 0).tail = 0 ∧
       (queue t k 0).expect = some 0)) ∧
  ((∀ (s : State) (task cl : Nat), clusterOk cl = true → ∃ t, exec (.discard task cl) s = .next t ∧
     (∀ x ∈ (cluster t cl).teams, x ∈ (cluster s cl).teams ∧ tagIs task x.task = false) ∧
     (∀ k ∈ t.tasks, tagIs task k.tag = true → ∀ e ∈ k.placed, e.2 ≠ cl) ∧ Out.front "WB_ACK" task cl ∈ t.out) ∧
   (∀ (s : State) (p sid : Nat), partOk p = true → sliceOk sid = true → ∃ t, exec (.ptPurge p sid) s = .next t ∧
     (∀ c ∈ (sliceOf t sid).lines, c.remote ≠ some p) ∧ (∀ l ∈ (crusher t sid).lines, l.part ≠ p) ∧
     (sid < 128 → (∀ e ∈ (cluster t sid).tlb, e.part ≠ p) ∧ ∀ e ∈ (cluster t sid).ptrs, e.part ≠ p) ∧
     (∀ k ∈ t.tasks, k.part = p → k.pinned = false) ∧ Out.front "WB_ACK" p sid ∈ t.out))

/-- SELF_TEST beside another test, or of the whole device while an LC reservation is admitted, gives 0x59; one of a unit that is out of
service completes with result 3; else the clusters of its scope are vacated and the slices drained, and when no team, no window access
and no line is left the test begins, with the read-only caches off and L = 6 MiB for a cluster or die (R165, R250, R544, R545). COMPLETES:
selfTest, for a command whose turn has come.

The model's own choices enter through log 58. -/
def Obligations.SelfTestStarts : Prop :=
  ∀ (s : State) (p q : Nat) (seq : W32) (c : Cmd) (scope d : Nat) (cs : List Nat), HasTurn s p q seq 0x89 c → scope = cw c 1 1 0 →
    scope < 3 → d = cw c 1 7 4 → cs = testClusters s scope d (cw c 1 11 8) →
    (s.dev.testBusy = true ∨ (scope = 2 ∧ lcAdmitted s = true) → exec (.selfTest p q seq) s = .next (finishCmd s p q seq 0x59)) ∧
    (s.dev.testBusy = false → scope < 2 → notTested s d = true → exec (.selfTest p q seq) s = .next (finishCmd { s with
      dev := { s.dev with testScope := scope, testResult := 3, testFailCl := 0, testFailDie := 0 } } p q seq 0)) ∧
    (s.dev.testBusy = false → (scope = 2 → lcAdmitted s = false) → (scope < 2 → notTested s d = false) →
      ∀ s1 s2 t, s1 = (if scope = 2 ∧ s.dev.st ≠ 4 then { s with dev := { s.dev with testPrev := s.dev.st, st := 4 } } else s) →
      s2 = vacate (if scope = 2 then s1 else markTesting s1 cs true) cs → t = (testSlices s2 scope d).foldl drainSlice s2 →
      (mayTest t scope d cs = false → exec (.selfTest p q seq) s = .next t) ∧
      (mayTest t scope d cs = true → ∃ u, exec (.selfTest p q seq) s = .next u ∧ u.dev.testBusy = true ∧ u.dev.testCmd = some (q, seq) ∧
        u.dev.testScope = scope ∧ u.dev.testDie = d ∧ u.dev.testResult = 0 ∧ u.admission.passDue = true ∧ u.dev.st = t.dev.st ∧
        u.mem = t.mem ∧ ∀ k ∈ cs, (cluster u k).ro = [] ∧ (cluster u k).roEnabled = false ∧ (scope < 2 → (cluster u k).ls = 6)))

/-- The authenticated update: BEGIN opens an update of the slot that does not run and empties it, WRITE programs its bytes in order,
FINISH verifies the slot and makes it pending with three trials or bad, COMMIT makes the running trial slot good and preferred and
raises the floors if the image asks for it, ABORT empties the slot. Out of order each gives 0xA5; while the supply warning suspends the
flash nothing happens (R500, R501, R503, R504). COMPLETES: imgBegin, imgWrite, imgFinish, imgCommit and imgAbort, for a command whose
turn has come, out of a suspension.

The model's own choices enter through logs 50 and 54. -/
def Obligations.ImageUpdate : Prop :=
  ∀ (s : State) (p q : Nat) (seq : W32) (c : Cmd) (n : Nat), HasTurn s p q seq 0x8B c → n = updateSlot s → n < 2 →
    (cw c 1 2 0 = 0 → s.flash.updOpen = true → exec (.imgBegin p q seq) s = .next (finishCmd s p q seq 0xA5)) ∧
    (cw c 1 2 0 = 0 → s.flash.updOpen = false → s.flash.suspended = false → ∃ t, exec (.imgBegin p q seq) s = .next t ∧
      t.flash.updOpen = true ∧ t.flash.updLen = cw c 2 26 0 ∧ t.flash.updWritten = 0 ∧ slotState t n = .empty ∧
      slotState t (1 - n) = slotState s (1 - n) ∧ t.flash.bytes = s.flash.bytes) ∧
    (cw c 1 2 0 = 1 → (s.flash.updOpen = false ∨ cw c 2 26 0 ≠ s.flash.updWritten ∨ s.flash.updLen < cw c 2 26 0 + cw c 3 24 0) →
      ∀ ok, exec (.imgWrite p q seq ok) s = .next (finishCmd s p q seq 0xA5)) ∧
    (cw c 1 2 0 = 1 → s.flash.updOpen = true → cw c 2 26 0 = s.flash.updWritten → cw c 2 26 0 + cw c 3 24 0 ≤ s.flash.updLen →
      sourceFine s p c = true → s.flash.suspended = false →
      (∃ t, exec (.imgWrite p q seq true) s = .next t ∧ t.flash.updWritten = s.flash.updWritten + cw c 3 24 0 ∧
        (∀ i, i < (writeSource s c).length → look 0xFF t.flash.bytes (slotBase n + cw c 2 26 0 + i) = (writeSource s c).getD i 0) ∧
        ∀ a, ¬(slotBase n + cw c 2 26 0 ≤ a ∧ a < slotBase n + (cw c 2 26 0 + (writeSource s c).length + 0xFFFF) / 0x10000 * 0x10000) →
          look 0xFF t.flash.bytes a = look 0xFF s.flash.bytes a) ∧
      (∃ t, exec (.imgWrite p q seq false) s = .next t ∧ t.flash.updOpen = false ∧ slotState t n = .bad ∧ t.flash.bytes = s.flash.bytes)) ∧
    (cw c 1 2 0 = 2 → s.flash.updOpen = true → s.flash.updWritten = s.flash.updLen → s.flash.suspended = false →
      ∃ t, exec (.imgFinish p q seq) s = .next t ∧ t.flash.updOpen = false ∧ t.flash.bytes = s.flash.bytes ∧
        slotState t (1 - n) = slotState s (1 - n) ∧
        (if verifySlot s n = 0 then slotState t n = .pending ∧ t.flash.trials = 3 else slotState t n = .bad)) ∧
    (cw c 1 2 0 = 3 → s.dev.slot < 2 →
      (s.dev.mode ≠ 1 ∨ slotState s s.dev.slot ≠ .trial → exec (.imgCommit p q seq) s = .next (finishCmd s p q seq 0)) ∧
      (s.dev.mode = 1 → slotState s s.dev.slot = .trial → s.flash.suspended = false → ∃ t, exec (.imgCommit p q seq) s = .next t ∧
        slotState t s.dev.slot = .good ∧ t.flash.pref = s.dev.slot ∧ t.dev.mode = 0 ∧
        t.sec.ownFloor = (if s.image.raise then Nat.max s.sec.ownFloor s.image.svn else s.sec.ownFloor) ∧
        t.sec.fwFloor = (if s.image.raise then Nat.max s.sec.fwFloor s.image.fwSvn else s.sec.fwFloor))) ∧
    (cw c 1 2 0 = 4 →
      (s.flash.updOpen = false → exec (.imgAbort p q seq) s = .next (finishCmd s p q seq 0xA5)) ∧
      (s.flash.updOpen = true → s.flash.suspended = false → ∃ t, exec (.imgAbort p q seq) s = .next t ∧ t.flash.updOpen = false ∧
        slotState t n = .empty ∧ slotState t (1 - n) = slotState s (1 - n)))

/-! ### Tasks and scheduling (R371 to R379, R386, R402 to R425, R447) -/

/-- NODE_START of a node whose predecessors have completed, in a launch that has started: the node's task runs, as a preloaded one if
there is one, once the pins of the node are established; a gang starts only when all its teams have a place, and then each of those
clusters is told (R246, R372, R376, R379, R410). While a pin must wait the task stands preloaded. COMPLETES: nodeStart, for such a node.

The first node of a launch starts the launch: it takes the lowest free constant slot of its context, whose head is written, and its
partition's remote copies are dropped; until it is ready the command changes nothing (R251, R371, R374, R375, R407). COMPLETES: nodeStart, for the first node of a launch.

PRELOAD makes the task of a node before its turn, at most two a partition; the node itself stays as it is (R386). COMPLETES: preload.

The model's own choices enter through logs 4 and 27. -/
def Obligations.NodesStart : Prop :=
  (∀ (s : State) (l : Launch) (node : Nat) (n : List Byte), launchOf s l.id = some l → mayStart s = true → l.failed = 0 → l.started = true →
     n = launchNode s l node → node < gNodes (launchDescr s l) → nodeState l node = .idle → predsDone (launchDescr s l) l node = true →
     isHeld s (queue s l.part l.q) = false → taskAt s l node = none → (∀ k ∈ s.tasks, k.tag < s.nextTask) →
     (nKind n = 0 → nodeFault s l.part (clusterServes s) n = 0) →
     ∀ r0 k0 r ok, (r0, k0) = makeTask s l node → settlePins r0 k0 = (r, ok) →
     (ok = false → exec (.nodeStart l.id node) s = .next r ∧ ∃ k ∈ r.tasks, k.tag = s.nextTask ∧ k.st = .preloaded) ∧
     (ok = true → nKind n ≠ 0 ∨ nGang n = false → ∃ t k m, exec (.nodeStart l.id node) s = .next t ∧ k ∈ t.tasks ∧ k.tag = s.nextTask ∧
       k.launch = l.id ∧ k.node = node ∧ k.part = l.part ∧ k.ctx = l.ctx ∧ k.kind = nKind n ∧ k.st = .running ∧ k.pinned = true ∧
       k.teams = (if nKind n = 0 then nTeams n else 0) ∧ launchOf t l.id = some m ∧ nodeState m node = .running s.nextTask) ∧
     (ok = true → nKind n = 0 → nGang n = true →
       (∀ plan, planGang l k0 n (List.range (nTeams n)) r [] = some plan → ∃ t m, exec (.nodeStart l.id node) s = .next t ∧
         launchOf t l.id = some m ∧ nodeState m node = .running s.nextTask ∧
         ∀ e ∈ plan, Out.front "TEAM_START" s.nextTask e.2 ∈ t.out) ∧
       (planGang l k0 n (List.range (nTeams n)) r [] = none → ∃ t m, exec (.nodeStart l.id node) s = .next t ∧
         launchOf t l.id = some m ∧ nodeState m node = .idle))) ∧
  (∀ (s : State) (l : Launch) (node n : Nat), launchOf s l.id = some l → mayStart s = true → l.failed = 0 → l.started = false →
     node < gNodes (launchDescr s l) → nodeState l node = .idle → predsDone (launchDescr s l) l node = true →
     (launchReady s l = false → exec (.nodeStart l.id node) s = .next s) ∧
     (launchReady s l = true → constSlotFor s l = some n → ∃ m, launchOf (startLaunch s l) l.id = some m ∧
       m = { l with constSlot := some n, started := true, startTime := (die s 8).time } ∧
       exec (.nodeStart l.id node) s = .next (startNode (startLaunch s l) m node) ∧
       ∃ c d, ctxOf s l.part l.ctx = some c ∧ ctxOf (startLaunch s l) l.part l.ctx = some d ∧ n ∉ c.slotsUsed ∧ d.slotsUsed = c.slotsUsed ++ [n])) ∧
  (∀ (s : State) (l : Launch) (node : Nat), launchOf s l.id = some l → mayStart s = true → l.failed = 0 →
     node < gNodes (launchDescr s l) → nodeState l node = .idle → predsDone (launchDescr s l) l node = true →
     (∀ k ∈ s.tasks, k.tag < s.nextTask) →
     (taskAt s l node ≠ none ∨ 2 ≤ (s.tasks.filter fun t => t.part == l.part && t.st == .preloaded).length →
       exec (.preload l.id node) s = .next s) ∧
     (taskAt s l node = none → (s.tasks.filter fun t => t.part == l.part && t.st == .preloaded).length < 2 → ∃ t k,
       exec (.preload l.id node) s = .next t ∧ t.tasks = s.tasks ++ [k] ∧ k.tag = s.nextTask ∧ k.launch = l.id ∧ k.node = node ∧
       k.st = .preloaded ∧ k.pinned = true ∧ t.launches = s.launches ∧
       ((∀ q ∈ (nodePins s (launchDescr s l) (launchNode s l node)).map (·.1) ++ constLines (launchNode s l node),
         inService s (128 * q) = true) → t.groups = s.groups) ∧
       Out.front "PRELOAD" s.nextTask node ∈ t.out))

/-- TEAM_START: a team of a running node goes to a core of the cluster that has room: its groups stand at the node's entry point with
all 32 threads, r0 to r6 as R376 gives them and every other register zero, and its local store at the base chosen (R134 to R136, R168,
R376, R410). A second start of the team changes nothing. COMPLETES: teamStart, where the team has room.

TEAM_DONE: when every group of a team is over, its groups and its team leave the cluster and the team counts as arrived; the last
arrival sends CLOSE-TASK, one multicast to the crushers of the IOD and of every die that serves (R136, R185, R279, R348). COMPLETES:
teamDone.

The model's own choices enter through log 27. -/
def Obligations.TeamsStartAndEnd : Prop :=
  (∀ (s : State) (t : Task) (l : Launch) (n : List Byte) (cl team core base : Nat), clusterOk cl = true → taskOf s t.tag = some t →
     launchOf s t.launch = some l → n = launchNode s l t.node → mayStart s = true → t.kind = 0 → t.st = .running → team < t.teams →
     (team ∈ t.startedTeams → exec (.teamStart t.tag cl team) s = .next s) ∧
     (team ∉ t.startedTeams → t.plan = [] → eligible s l n cl = true → gangWaits s cl t.tag = false → goesFirst s t cl = false →
       teamRoom s l (claimsOf n) cl = some (core, base) → nGang n = false → ∃ u x, exec (.teamStart t.tag cl team) s = .next u ∧
         x ∈ (cluster u cl).teams ∧ x.task = t.tag ∧ x.team = team ∧ x.core = core ∧ x.lsBase = base ∧ x.lsSize = nStore n ∧
         x.slots = (freeSlots s cl core).take (nG n) ∧ x.slots.length = nG n ∧
         (∃ k, taskOf u t.tag = some k ∧ k.startedTeams = t.startedTeams ++ [team] ∧ k.placed = t.placed ++ [(team, cl)]) ∧
         ∀ i slot, x.slots[i]? = some slot → ∃ g, group u (groupId cl core slot) = some g ∧ g.part = l.part ∧ g.ctx = l.ctx ∧ g.task = t.tag ∧
           g.team = team ∧ g.index = i ∧ g.regGrant = nRegs n ∧ g.accGrant = nAccs n ∧ g.paths = [{ pc := nPc n, mask := BitVec.allOnes 32 }] ∧
           g.accs = [] ∧ g.park = none ∧ g.held = false ∧
           ∀ lane r, lane < 32 → r < 256 → readReg g lane r =
             ((startRegs cl core team i (constVaOf s l) (nTeams n) t.node).find? fun e => e.1 == r).elim 0 (·.2))) ∧
  (∀ (s : State) (t : Task) (x : Team) (team cl : Nat), taskOf s t.tag = some t → t.st = .running →
     (t.placed.find? fun e => e.1 == team) = some (team, cl) →
     ((cluster s cl).teams.find? fun x => x.task == t.tag && x.team == team) = some x → team ∉ t.arrived →
     ((∃ g ∈ teamGids cl x, groupOver s g = false) → exec (.teamDone t.tag team) s = .next s) ∧
     ((∀ g ∈ teamGids cl x, groupOver s g = true) → ∃ u k, exec (.teamDone t.tag team) s = .next u ∧
       (∀ g ∈ teamGids cl x, group u g = none) ∧ (∀ g, g ∉ teamGids cl x → group u g = group s g) ∧ x ∉ (cluster u cl).teams ∧
       taskOf u t.tag = some k ∧ k.arrived = t.arrived ++ [team] ∧ k.placed = (t.placed.filter fun e => e.1 ≠ team) ∧
       (t.arrived.length + 1 ≠ t.teams → k.st = .running ∧ u.out = s.out) ∧
       (t.arrived.length + 1 = t.teams → k.st = .closing ∧ k.closes = servingSlices s ∧
         ∃ m : BitVec 9, u.out = s.out ++ [.multi "CLOSE_TASK" 3 m 0xFFFF t.tag] ∧
           ∀ d, d < 9 → (m.getLsbD d = true ↔ d = 8 ∨ (d < dieCount s.variant ∧ dieServes s d = true)))))

/-- PREEMPT saves a task's teams of a cluster, and RESUME brings them back as they were: after a save and a return to the cluster each
group has the registers, accumulators, paths and progress that it had, whichever core it is on (R128 to R130, R411, R414). COMPLETES: preempt
and resume. -/
def Obligations.PreemptResumeRestores : Prop :=
  (∀ (s : State) (t : Task) (cl : Nat), clusterOk cl = true → taskOf s t.tag = some t → t.st = .running → isGangTask s t = false →
    ((cluster s cl).teams.any fun x => x.task == t.tag) = true →
    (∀ x ∈ (cluster s cl).teams, x.task = t.tag → ∀ g ∈ teamGids cl x, maySave s g = true) →
    ∃ u, exec (.preempt t.tag cl) s = .next u ∧ (∀ x ∈ (cluster u cl).teams, x.task ≠ t.tag) ∧ Out.front "WB_ACK" t.tag cl ∈ u.out ∧
      ∃ n sn, look none (cluster u cl).snaps n = some sn ∧ sn.task = t.tag ∧
        sn.teams.map (·.1) = (cluster s cl).teams.filter fun x => x.task == t.tag) ∧
  (∀ (s : State) (t : Task) (l : Launch) (cl slot c0 n0 : Nat) (x : Team) (gs : List (Nat × Group)) (cells : List Host.Cell) (sn : Snapshot),
    clusterOk cl = true → snapOk slot = true → taskOf s t.tag = some t → launchOf s t.launch = some l → mayStart s = true →
    findSnap s t.tag cl slot = some (c0, n0, sn) → sn.teams = [(x, gs, cells)] → eligible s l (launchNode s l t.node) cl = true →
    goesFirst s t cl = false → (cluster s cl).ls = wantedL s l cl → teamRoom s l (teamClaims x) cl ≠ none → s.accs = [] →
    x.groups = gs.length → (∀ (i : Nat) (e : Nat × Group), gs[i]? = some e → e.1 = i) →
    ∃ (u : State) (core : Nat) (slots : List Nat), exec (.resume t.tag cl slot) s = .next u ∧ slots.length = gs.length ∧ Out.front "WB_ACK" t.tag cl ∈ u.out ∧
      ∀ (i : Nat) (e : Nat × Group) (n : Nat), gs[i]? = some e → slots[i]? = some n → ∃ g, group u (groupId cl core n) = some g ∧
        g.regs = e.2.regs ∧ g.accs = e.2.accs ∧ g.paths = e.2.paths ∧ g.entries = e.2.entries ∧ g.mmaStep = e.2.mmaStep ∧
        g.park = e.2.park ∧ g.exited = e.2.exited)

/-- HOST_SYNC_POLL: a wait ends when the word in memory meets its value, and changes nothing before; mode 2 writes the value; a failed
access ends the task with its code. CONTROL_SEGMENT_POLL: an aborted segment fails the collective with 0x9D, whatever else has arrived
(R379, R447). COMPLETES: hostSyncPoll and controlSegmentPoll.

BUDGET_OVERRUN: a launch under a deadline reservation that has run longer than C + S ranks as best effort from then on, and its
partition is told. ADMISSION_PASS in full service admits every reservation anew, in the order of R402, each that meets its conditions
beside those admitted before it; before full service nothing happens (R402, R408, R426). COMPLETES: budgetOverrun and admissionPass.

TIME_SLICE_END: when the slice of a context has run out, began earliest of its rank, and a task of that rank has waited a slice, the
clusters that the waiting tasks need are asked to save the context's tasks and its slice ends; inside an indivisible transfer the end
waits and the time is noted (R412, R413). COMPLETES: timeSliceEnd.

The model's own choices enter through logs 52, 53 and 77. -/
def Obligations.WaitsAndScheduling : Prop :=
  ((∀ (s : State) (t : Task) (l : Launch) (n : List Byte), taskOf s t.tag = some t → launchOf s t.launch = some l → n = launchNode s l t.node →
     t.kind = 3 → t.st = .running → s.restart.active = false →
     (∀ c, accessCheck s t.part (nBase n) (nMode n == 2) (regShape (nBase n) 8) = some c →
       exec (.hostSyncPoll t.tag) s = .next (taskDone (failTask s t.tag c) t.tag)) ∧
     (accessCheck s t.part (nBase n) (nMode n == 2) (regShape (nBase n) 8) = none → isRemote s (nBase n) = false →
       (nMode n = 2 → exec (.hostSyncPoll t.tag) s = .next (endSync (writeAny s (nBase n) (leBytes 8 (syncValue l n)) 0) l t)) ∧
       (nMode n ≠ 2 → poisonAny s (nBase n) 8 = 0 → exec (.hostSyncPoll t.tag) s = .next (
         if (if nMode n = 0 then syncValue l n ≤ leNat (readAny s (nBase n) 8) else leNat (readAny s (nBase n) 8) = syncValue l n)
         then endSync (agentReads s (nBase n) 8 0 true) l t else agentReads s (nBase n) 8 0 true)))) ∧
   (∀ (s : State) (t : Task) (l : Launch), taskOf s t.tag = some t → launchOf s t.launch = some l → t.kind = 2 →
     nScope (launchNode s l t.node) = 1 → t.st = .running → t.fault = 0 →
     (∀ a, exec (.controlSegmentPoll t.tag true a) s = .next (failTask s t.tag 0x9D)) ∧
     exec (.controlSegmentPoll t.tag false true) s = .next (emit s (.front "COLL_PROCEED" t.tag t.part)) ∧
     exec (.controlSegmentPoll t.tag false false) s = .next s)) ∧
  ((∀ (s : State) (l : Launch) (i : Nat) (r : ResvCfg), launchOf s l.id = some l → launchResv s l = some (i, r) → l.started = true →
     (r.c + saveBound < stepsPerTick * metered s l → ∃ t m, exec (.budgetOverrun l.id) s = .next t ∧ launchOf t l.id = some m ∧
       m.demoted = true ∧ launchResv t m = none ∧ rankOf t m = 1000) ∧
     (stepsPerTick * metered s l ≤ r.c + saveBound → exec (.budgetOverrun l.id) s = .next s)) ∧
   (∀ s : State, (s.dev.st ≠ 2 → exec .admissionPass s = .next s) ∧
     (s.dev.st = 2 → s.restart.active = false → ∃ t, exec .admissionPass s = .next t ∧ t.admission.admitted = admits s ∧
       t.admission.passDue = false ∧ t.tasks = s.tasks ∧ t.launches = s.launches))) ∧
  (∀ (s : State) (p ctx t0 rank : Nat) (ws : List Task), partOk p = true → look 0 (part s p).slices ctx = t0 + 1 →
     rank = ((s.tasks.find? fun x => x.part == p && x.ctx == ctx && !x.placed.isEmpty).map (taskRank s)).getD 1000 →
     ws = waitersFor s p ctx rank →
     (iodNow s < t0 + sliceTicks s p ctx ∨ ws = [] → exec (.timeSliceEnd p ctx) s = .next s) ∧
     (mayStart s = true → t0 + sliceTicks s p ctx ≤ iodNow s → ws ≠ [] → (∀ e ∈ slicesOfRank s p rank, t0 + 1 ≤ e.2) →
       ((s.tasks.any fun x => x.part == p && x.ctx == ctx && !x.descBusy.isEmpty) = false →
         exec (.timeSliceEnd p ctx) s = .next (endSlice s p ctx ws)) ∧
       ((s.tasks.any fun x => x.part == p && x.ctx == ctx && !x.descBusy.isEmpty) = true → ∃ t, exec (.timeSliceEnd p ctx) s = .next t ∧
         t.tasks = s.tasks ∧ t.out = s.out ∧ look 0 (part t p).overrunSince ctx ≠ 0)))

/-! ### DMA, collectives, windows and registers (R36, R251, R254, R346 to R353, R362, R379, R394, R395, R442 to R444, R476, R511) -/

/-- DMA_DESCRIPTOR: the engine reads its next descriptor and asks for each line of its source; a malformed one fails the task with 0x4A,
one that it may not read with the code of R26, and one with the wait bit is not started while another is in progress (R379). COMPLETES:
dmaDescriptor, for every descriptor that the engine may read outside remote windows, and for a refused one.

DMA_RD reads its line at the target and sends one DMA_WR for each destination line of what its descriptor covers; DMA_WR writes the
enabled bytes at their target, and the descriptor has so many bytes fewer to go. COLL writes finished data the same way; a partial of a
reduction within the device goes to the crushers, one record for each enabled element; across devices an exact-class partial also goes
on as ledger records, and the others are combined in ring order from rank 0, the last member writing the value; ledger records that
arrive go to the crushers. An access that R26 refuses fails the task with its code (R254, R379, R395, R446; log 98). COMPLETES: dmaRd,
dmaWr and coll, outside remote windows, and where R26 refuses them.

DMA_DONE and COLL_DONE: an engine's task arrives when it has nothing outstanding: a failed one is done as it stands; one that wrote
remote windows flushes them first; else CLOSE-TASK goes to the crushers, as one multicast (R185, R348, R372). COMPLETES: dmaDone and
collDone, for every running task.

The model's own choices enter through logs 20 and 98. -/
def Obligations.EnginesRun : Prop :=
  (∀ (s : State) (t : Task) (l : Launch) (n b : List Byte) (a : Nat), taskOf s t.tag = some t → launchOf s t.launch = some l →
     n = launchNode s l t.node → a = nBase n + 32 * t.descIndex → dmaRuns s t = true → s.dev.st ≠ 4 → t.descIndex < nDescs n →
     b = readAny s a 32 →
     (∀ c, accessCheck s t.part a false true = some c → exec (.dmaDescriptor t.tag) s = .next (engineFail s t.tag c)) ∧
     ∀ r, r = agentReads s a 32 0 true → accessCheck s t.part a false true = none → isRemote s a = false →
       (poisonAny s a 32 ≠ 0 → exec (.dmaDescriptor t.tag) s = .next (engineFail s t.tag (poisonAny s a 32).toNat)) ∧
       (poisonAny s a 32 = 0 → descriptorOk b = false → exec (.dmaDescriptor t.tag) s = .next (engineFail r t.tag 0x4A)) ∧
       (poisonAny s a 32 = 0 → descriptorOk b = true → byteAt b 20 = 1 → t.descBusy ≠ [] → exec (.dmaDescriptor t.tag) s = .next r) ∧
       (poisonAny s a 32 = 0 → descriptorOk b = true → byteAt b 20 ≠ 1 ∨ t.descBusy = [] → ∀ src len d, src = fieldAt b 0 8 →
         len = fieldAt b 16 4 → d = { src, dst := fieldAt b 8 8, len, left := len : DescRun } →
         exec (.dmaDescriptor t.tag) s = .next (emits
           (modTask r t.tag fun k => { k with descIndex := k.descIndex + 1, inbox := [], descBusy := k.descBusy ++ [d] })
           ((List.range ((src % 128 + len + 127) / 128)).map fun i =>
             Out.dma "DMA_RD" t.tag (src / 128 + i) (BitVec.ofNat 128 ((2 ^ (Nat.min (src + len) (128 * (src / 128 + i) + 128) -
               Nat.max src (128 * (src / 128 + i))) - 1) * 2 ^ (Nat.max src (128 * (src / 128 + i)) - 128 * (src / 128 + i)))) 0)))) ∧
  ((∀ (s : State) (t : Task) (d : DescRun) (l : Launch) (line : Nat) (sectors : BitVec 4), taskOf s t.tag = some t → dmaRuns s t = true →
     launchOf s t.launch = some l → (t.descBusy.find? fun d => !(srcPart d line sectors).isEmpty) = some d →
     (∀ c, lineCheck s t.part line false true = some c → exec (.dmaRd t.tag line sectors) s = .next (engineFail s t.tag c)) ∧
     ∀ r, r = readLine s line (nAttr (launchNode s l t.node)) → lineCheck s t.part line false true = none → isRemote s (128 * line) = false →
       (poisonIn sectors r.2.2 = 0 → exec (.dmaRd t.tag line sectors) s = .next (emits r.1
         (((srcPart d line sectors).flatMap (writesOf d line r.2.1)).map fun e => .dma "DMA_WR" t.tag e.1 e.2.1 e.2.2))) ∧
       (poisonIn sectors r.2.2 ≠ 0 → ∃ u, exec (.dmaRd t.tag line sectors) s = .next (engineFail u t.tag (poisonIn sectors r.2.2).toNat))) ∧
   (∀ (s : State) (t : Task) (d : DescRun) (l : Launch) (line : Nat) (be : BitVec 128) (data : Line), taskOf s t.tag = some t →
     dmaRuns s t = true → launchOf s t.launch = some l →
     d ∈ t.descBusy → (∀ e ∈ runs 128 be.toNat, d.dst ≤ 128 * line + e.1 ∧ 128 * line + e.1 + e.2 ≤ d.dst + d.len) →
     (∀ c, lineCheck s t.part line true (regBeOk be) = some c → exec (.dmaWr t.tag line be data) s = .next (engineFail s t.tag c)) ∧
     (lineCheck s t.part line true (regBeOk be) = none → isRemote s (128 * line) = false →
       exec (.dmaWr t.tag line be data) s =
         .next (engineWrote (writeLine s line be data (nAttr (launchNode s l t.node))) t.tag line be))) ∧
   (∀ (s : State) (t : Task) (l : Launch) (n : List Byte) (fmt : BitVec 4) (line : Nat) (be : BitVec 128) (data : Line) (recs : List CruRecord),
     taskOf s t.tag = some t → launchOf s t.launch = some l → n = launchNode s l t.node → fmt = BitVec.ofNat 4 (nFmt n) →
     t.kind = 2 → t.st = .running → t.fault = 0 → s.restart.active = false →
     (∀ c, lineCheck s t.part line true (regBeOk be) = some c →
       exec (.coll t.tag line (.final be data)) s = .next (engineFail s t.tag c) ∧
       exec (.coll t.tag line (.part be data)) s = .next (engineFail s t.tag c)) ∧
     (lineCheck s t.part line true (regBeOk be) = none → isRemote s (128 * line) = false →
       exec (.coll t.tag line (.final be data)) s = .next (engineWrote (writeLine s line be data 0) t.tag line be)) ∧
     (lineCheck s t.part line true (regBeOk be) = none →
       (collForm n ≠ .illegal → remoteGroup s n = none ∨ nScope n = 0 → exec (.coll t.tag line (.part be data)) s =
         .next (enginePackets s t line (nRed n) fmt (elemRecords (collForm n) fmt be data))) ∧
       (∀ g, remoteGroup s n = some g → nScope n = 1 →
         (collForm n = .ledger → exec (.coll t.tag line (.part be data)) s =
           .next (emit (enginePackets s t line (nRed n) fmt (elemRecords .ledger fmt be data))
             (.staged t.tag g.window line (elemRecords .ledger fmt be data)))) ∧
         (collForm n = .pair ∨ collForm n = .rounded → ∀ v u,
           v = (if g.rank = 0 then data else ringCombine (collForm n) (nRed n) fmt be data (ownElems s n line be)) →
           u = emit s (.dma "COLL" t.tag line be v) →
           exec (.coll t.tag line (.part be data)) s = .next (if g.rank + 1 = g.members then engineStore u t line be v 0 else u)))) ∧
     (∀ c, lineCheck s t.part line true false = some c → exec (.coll t.tag line (.records recs)) s = .next (engineFail s t.tag c)) ∧
     (lineCheck s t.part line true false = none → collForm n = .ledger →
       exec (.coll t.tag line (.records recs)) s = .next (enginePackets s t line 0 fmt recs)))) ∧
  (∀ (s : State) (t : Task) (l : Launch), taskOf s t.tag = some t → launchOf s t.launch = some l → t.st = .running →
     ∀ (r : State → Prop), (∀ u, r u ↔ ∃ k, taskOf u t.tag = some k ∧ k.st = .closing ∧ k.closes = servingSlices s ∧
         ∃ m : BitVec 9, u.out = s.out ++ [.multi "CLOSE_TASK" 3 m 0xFFFF t.tag] ∧
           ∀ d, d < 9 → (m.getLsbD d = true ↔ d = 8 ∨ (d < dieCount s.variant ∧ dieServes s d = true))) →
     (t.kind = 1 →
       (engineBusy s t.tag = true → exec (.dmaDone t.tag) s = .next s) ∧
       (engineBusy s t.tag = false → t.fault ≠ 0 → exec (.dmaDone t.tag) s = .next (taskDone s t.tag)) ∧
       (engineBusy s t.tag = false → t.fault = 0 → nDescs (launchNode s l t.node) ≤ t.descIndex → t.descBusy = [] →
         (t.windows ≠ [] → exec (.dmaDone t.tag) s = .next (flushWindows s t.tag)) ∧
         (t.windows = [] → ∃ u, exec (.dmaDone t.tag) s = .next u ∧ r u))) ∧
     (t.kind = 2 →
       (engineBusy s t.tag = true → exec (.collDone t.tag) s = .next s) ∧
       (engineBusy s t.tag = false → t.fault ≠ 0 → exec (.collDone t.tag) s = .next (taskDone s t.tag)) ∧
       (engineBusy s t.tag = false → t.fault = 0 → t.descBusy = [] →
         (t.windows ≠ [] → exec (.collDone t.tag) s = .next (flushWindows s t.tag)) ∧
         (t.windows = [] → ∃ u, exec (.collDone t.tag) s = .next u ∧ r u))))

/-- RD_WIN, WR_WIN, RD_REG and WR_REG act at their target: a read that R26 refuses is answered with the status of its code and one that
passes with the line; a write likewise, and it is acknowledged with status 0. A window line reads as cluster memory, with the marks of its
uncorrectable words (R36, R162, R163, R346, R347). COMPLETES: rdWin, wrWin, rdReg and wrReg, for every line of their region.

A register write of a live module reaches the register: QDB_CTL, QDB_EVTAIL, PWR_CAP and SEC_QUOTE_CTL have their effects.
COMPLETES: registerWrite, pwrCapWrite, qdbCtlDiscard, qdbCtlResync, qdbEvtailWrite and secQuoteCtlGo, for a live module.

The model's own choices enter through log 80. -/
def Obligations.WindowsAndRegisters : Prop :=
  (∀ (s : State) (p tag line : Nat) (sectors : BitVec 4) (be : BitVec 128) (data : Line), partOk p = true →
     (isWindowLine s line = true →
       (∀ c, lineCheck s p line false true = some c →
         exec (.rdWin p tag line sectors) s = .next (emit s (.front "DATA_ONCE_STATUS" tag (c - 0x10)))) ∧
       (lineCheck s p line false true = none → exec (.rdWin p tag line sectors) s =
         .next (sendRaw s "DATA_ONCE" tag line (lineOf (readBytes s.mem (128 * line) 128)) sectors (windowPoison s line))) ∧
       (∀ c, lineCheck s p line true (regBeOk be) = some c →
         exec (.wrWin p tag line be data) s = .next (emit s (.ack (.access tag) (c - 0x10)))) ∧
       (lineCheck s p line true (regBeOk be) = none →
         exec (.wrWin p tag line be data) s = .next (emit (writeLine s line be data 0) (.ack (.access tag) 0))) ∧
       ∀ a, readByte (writeLine s line be data 0).mem a =
         if 128 * line ≤ a ∧ a < 128 * line + 128 ∧ be.getLsbD (a - 128 * line) = true then data.extractLsb' (8 * (a - 128 * line)) 8
         else readByte s.mem a) ∧
     (isRegister s (128 * line) = true →
       (∀ c, lineCheck s p line false true = some c →
         exec (.rdReg p tag line sectors) s = .next (emit s (.front "DATA_ONCE_STATUS" tag (c - 0x10)))) ∧
       (lineCheck s p line false true = none →
         exec (.rdReg p tag line sectors) s = .next (sendRaw s "DATA_ONCE" tag line (regLine s line) sectors 0)) ∧
       (∀ c, lineCheck s p line true (regBeOk be) = some c →
         exec (.wrReg p tag line be data) s = .next (emit s (.ack (.access tag) (c - 0x10)))) ∧
       (lineCheck s p line true (regBeOk be) = none →
         exec (.wrReg p tag line be data) s = .next (emit (regWriteLine s line be data) (.ack (.access tag) 0))))) ∧
  (∀ (s : State) (p q : Nat) (v : W64), (partOk p && slotOk q) = true → s.power.stage = .running → (partCfg s p).isDefined = true →
     ∀ x, x = queue s p q → x.declared = true → x.bound = true →
     exec (.qdbCtlDiscard p q) s = .next (setQueue s p q
       { x with head := x.tail, stopped := false, errSeq := 0, errIndex := 0, errCause := 0 }) ∧
     (x.head = x.tail → exec (.qdbCtlResync p q) s = .next (setQueue s p q
       { x with expect := none, stopped := false, errSeq := 0, errIndex := 0, errCause := 0 })) ∧
     (∀ w, x.head ≠ x.tail → readRecord s p (recordAddr x x.head) = some w → exec (.qdbCtlResync p q) s = .next (setQueue s p q
       { x with expect := some (BitVec.ofNat 32 ((w.getD 0 0).toNat >>> 32)), stopped := false, errSeq := 0, errIndex := 0, errCause := 0 })) ∧
     ((part s p).evHeld = [] → exec (.qdbEvtailWrite p v) s = .next (setPart s p { part s p with evTail := v.setWidth 32 })) ∧
     exec (.pwrCapWrite v) s = .next { s with power := { s.power with capReg := v.toNat % 65536 } } ∧
     (s.sec.busy = false → s.restart.active = false → exec .secQuoteCtlGo s = .next { s with
       sec := { s.sec with busy := true, done := false, taken := (List.range 8).map fun i => look 0 s.sec.nonce i } }) ∧
     (∀ i, i < 8 → accessCheck s 0 (regBase + 0x140000 + 8 * i) true true = none →
       exec (.registerWrite 0 (0x140000 + 8 * i) v) s = .next { s with sec := { s.sec with nonce := put 0 s.sec.nonce i v } }))

/-- RD_REM is served from the partition's copy, joins a read of the line that is under way for a copy, or asks the peer; WR_REM drops the
copy and sends one write for each run of enabled bytes; FLUSH_REM sends a zero-length read. Without a window the answer is 0xC, with its
port down 0xE, with its queue pair not ready 0xC (R251, R352, R353, R443, R444; log 28). COMPLETES: rdRem, wrRem and flushRem, for every
line of the region.

INV_REM: an IOD slice drops every copy of the partition and answers; a read that is under way leaves no copy there, and other copies
stay (R343). COMPLETES: invRem. -/
def Obligations.RemoteDevices : Prop :=
  (∀ (s : State) (p tag line attr : Nat) (sectors : BitVec 4) (be : BitVec 128) (data : Line), partOk p = true →
     isRemote s (128 * line) = true →
     (windowAt s (128 * line) = none →
       exec (.rdRem p tag line sectors attr) s = .next (emit s (.front "DATA_ONCE_STATUS" tag 0xC)) ∧
       exec (.wrRem p tag line be data) s = .next (emit s (.ack (.access tag) 0xC)) ∧
       exec (.flushRem p tag line) s = .next (emit s (.ack (.access tag) 0xC))) ∧
     ∀ w, windowAt s (128 * line) = some w →
       (∀ c, attr ∈ [0, 4] → copyOf s p line = some c → exec (.rdRem p tag line sectors attr) s =
         .next (emit s (.cohData "DATA_ONCE" tag line c.data sectors 0 0))) ∧
       (∀ st, windowStatus s w = some st →
         ((attr ∈ [0, 4] → copyOf s p line = none) → exec (.rdRem p tag line sectors attr) s = .next (emit s (.front "DATA_ONCE_STATUS" tag st))) ∧
         exec (.wrRem p tag line be data) s = .next (emit (dropCopy s p line) (.ack (.access tag) st)) ∧
         exec (.flushRem p tag line) s = .next (emit s (.ack (.access tag) st))) ∧
       (windowStatus s w = none →
         (attr ∉ [0, 4] → exec (.rdRem p tag line sectors attr) s = .next (windowRead s w p tag line sectors false)) ∧
         (attr ∈ [0, 4] → copyOf s p line = none → ∀ same : QpReq → Bool,
           (∀ r, same r = (r.kind == 0 && r.copy && r.line == line && r.part == p)) →
           ((qp s w.qp).sendq.any same = false →
             exec (.rdRem p tag line sectors attr) s = .next (windowRead s w p tag line 0xF true)) ∧
           ((qp s w.qp).sendq.any same = true → exec (.rdRem p tag line sectors attr) s = .next (modQp s w.qp fun x =>
             { x with sendq := x.sendq.map fun r => if same r then { r with joined := r.joined ++ [tag] } else r }))) ∧
         (be ≠ 0 → exec (.wrRem p tag line be data) s = .next (windowWrite (dropCopy s p line) w p tag line be data)) ∧
         (be = 0 → exec (.wrRem p tag line be data) s = .next (emit (dropCopy s p line) (.ack (.access tag) 0))) ∧
         exec (.flushRem p tag line) s = .next (postRequest s w.qp
           { psn := 0, kind := 4, tag, part := p, line, remote := w.remote, key := w.rkey }))) ∧
  (∀ (s : State) (p sid tag : Nat), partOk p = true → sliceOk sid = true → 128 ≤ sid → ∃ t, exec (.invRem p sid tag) s = .next t ∧
     (∀ c, c ∈ (sliceOf t sid).lines ↔ c ∈ (sliceOf s sid).lines ∧ c.remote ≠ some p) ∧ (∀ i, i ≠ sid → sliceOf t i = sliceOf s i) ∧
     (∀ q, ∀ r ∈ (qp t q).sendq, ∃ r' ∈ (qp s q).sendq, r = r' ∨ (r = { r' with copy := false } ∧ r'.part = p)) ∧
     (∀ w ∈ s.image.windows, w.part = p → ∀ r ∈ (qp t w.qp).sendq, r.part = p → remoteSlice s r.line = sid → r.copy = false) ∧
     t.out = s.out ++ [.ack (.access tag) 0] ∧ t.mem = s.mem)

/-! ### Coherence and crushers (R231 to R297, R347, R443, R510) -/

/-- A request of a die, or a write forwarded from it, at a home that can take it up: one to memory that is out of service, or that its
partition may not access, is refused with the code of R26. While another die holds the line in a state that the request does not allow,
the home snoops exactly the holders and records the transaction; else RD_S gets the line in S, RD_E and UPG make the sender the owner (UPG
without data when its S copy stands) and free the home's copy, RD_ONCE gets the value, and WFWD's bytes are merged. Memory is read, and its
check bits acted on, where the home has no whole copy (R26, R27, R204, R288, R289, R294, R295). COMPLETES: rdS, rdE, rdOnce, upg and wfwd,
for every line with a home.

The model's own choices enter through logs 39, 92 and 93. -/
def Obligations.HomeServesRequests : Prop :=
  (∀ (s u : State) (d tag line h : Nat) (ecc : List MemFault) (m : BitVec 8) (o : Bool) (v : Line) (q : W32) (dirty : BitVec 4),
    computeDieOk d = true → homeSlice s.variant (128 * line) = some h → u = atHome s h line ecc → HomeIdle u h line →
    m = filterMask (sliceOf u h) line → o = filterOwned (sliceOf u h) line → homeValue u h line = (v, q, dirty) →
    (∀ c, arrivalCode u line (.rdS d) = some c → exec (.rdS d line ecc) s = .next (refuseReq u h line (.rdS d) c)) ∧
    (∀ c, arrivalCode u line (.rdOnce tag) = some c →
      exec (.rdOnce tag line ecc) s = .next (emit u (.front "DATA_ONCE_STATUS" tag (c - 0x10)))) ∧
    (arrivalCode u line (.rdS d) = none → ∀ w, Takes u h line (.rdS d) w →
      (o = true → m &&& ~~~bit8 d ≠ 0 → ∃ t x, exec (.rdS d line ecc) s = .next t ∧
        t.out = w.out ++ [.snoop "SNP_S" (m &&& ~~~bit8 d) line] ∧ findTxn (sliceOf t h) line = some x ∧
        x.awaiting = m &&& ~~~bit8 d ∧ x.data = none ∧ t.mem = u.mem) ∧
      (o = false ∨ m &&& ~~~bit8 d = 0 → ∃ t, exec (.rdS d line ecc) s = .next t ∧
        t.out.getLast? = some (.cohData "DATA_S" d line v (cmpSectors (cmpOf v)) q (cmpOf v)) ∧
        filterMask (sliceOf t h) line = m ||| bit8 d ∧ filterOwned (sliceOf t h) line = false)) ∧
    (arrivalCode u line (.rdE d) = none →
      (m &&& ~~~bit8 d ≠ 0 → ∀ w, Takes u h line (.rdE d) w → ∃ t x, exec (.rdE d line ecc) s = .next t ∧
        t.out = w.out ++ [.snoop "SNP_I" (m &&& ~~~bit8 d) line] ∧ findTxn (sliceOf t h) line = some x ∧
        x.awaiting = m &&& ~~~bit8 d ∧ x.data = none ∧ t.mem = u.mem) ∧
      (m &&& ~~~bit8 d = 0 → ∃ t, exec (.rdE d line ecc) s = .next t ∧
        t.out = u.out ++ [.cohData (if dirty ≠ 0 then "DATA_M" else "DATA_E") d line v (cmpSectors (cmpOf v)) q (cmpOf v)] ∧
        filterMask (sliceOf t h) line = bit8 d ∧ filterOwned (sliceOf t h) line = true ∧
        (∀ c, findLine (sliceOf t h) line = some c → c.valid = 0) ∧ findSpoil (sliceOf t h) line = none)) ∧
    (arrivalCode u line (.rdOnce tag) = none →
      (o = true → m ≠ 0 → ∀ w, Takes u h line (.rdOnce tag) w → ∃ t x, exec (.rdOnce tag line ecc) s = .next t ∧
        t.out = w.out ++ [.snoop "SNP_R" m line] ∧ findTxn (sliceOf t h) line = some x ∧ x.awaiting = m ∧ x.data = none ∧ t.mem = u.mem) ∧
      (o = false ∨ m = 0 → ∃ t, exec (.rdOnce tag line ecc) s = .next t ∧
        t.out = u.out ++ [.cohData "DATA_ONCE" tag line v 0xF q 0] ∧ filterMask (sliceOf t h) line = m ∧ t.mem = u.mem ∧
        valueAt t h line = v))) ∧
  ∀ (s u : State) (d tag attr line h : Nat) (be : BitVec 128) (data v : Line) (m : BitVec 8) (o : Bool) (q : W32) (dirty : BitVec 4),
    computeDieOk d = true → homeSlice s.variant (128 * line) = some h → u = atHome s h line [] → HomeIdle u h line →
    m = filterMask (sliceOf u h) line → o = filterOwned (sliceOf u h) line → homeValue u h line = (v, q, dirty) →
    (∀ c, arrivalCode u line (.wfwd d tag attr be data) = some c →
      exec (.wfwd d line tag attr be data) s = .next (emit u (.ack (.access tag) (c - 0x10)))) ∧
    (arrivalCode u line (.upg d) = none →
      (m &&& ~~~bit8 d ≠ 0 → ∀ w, Takes u h line (.upg d) w → ∃ t x, exec (.upg d line) s = .next t ∧
        t.out = w.out ++ [.snoop "SNP_I" (m &&& ~~~bit8 d) line] ∧ findTxn (sliceOf t h) line = some x ∧
        x.awaiting = m &&& ~~~bit8 d ∧ t.mem = u.mem) ∧
      (m &&& ~~~bit8 d = 0 → ∃ t, exec (.upg d line) s = .next t ∧ filterMask (sliceOf t h) line = bit8 d ∧
        filterOwned (sliceOf t h) line = true ∧ t.out = u.out ++ [if m &&& bit8 d ≠ 0 ∧ o = false
          then .coh (if dirty ≠ 0 then "GRANT_M" else "GRANT_E") d line
          else .cohData (if dirty ≠ 0 then "DATA_M" else "DATA_E") d line v (cmpSectors (cmpOf v)) q (cmpOf v)])) ∧
    (arrivalCode u line (.wfwd d tag attr be data) = none → ∀ w, Takes u h line (.wfwd d tag attr be data) w →
      (m &&& ~~~bit8 d ≠ 0 → ∃ t x, exec (.wfwd d line tag attr be data) s = .next t ∧
        t.out = w.out ++ [.snoop "SNP_I" (m &&& ~~~bit8 d) line] ∧ findTxn (sliceOf t h) line = some x ∧
        x.awaiting = m &&& ~~~bit8 d ∧ t.mem = u.mem) ∧
      (m &&& ~~~bit8 d = 0 → ∃ t, exec (.wfwd d line tag attr be data) s = .next t ∧ t.out.getLast? = some (.ack (.access tag) 0) ∧
        filterMask (sliceOf t h) line = m &&& bit8 d ∧ (HomeAgrees u h line → valueAt t h line = mergeLine be data v)))

/-- A snoop at a proxy: without a copy it answers SACK_I; with one, SNP_I and BINV take it, SNP_S leaves it clean in S, SNP_R leaves it
as it is; dirty data goes back with the answer, and a copy that waits in the spoil buffer answers with its data and leaves the buffer
unless it is departing. BINV never takes a pinned copy (R247, R289, R293, R295, R296). COMPLETES: snpS, snpI, snpR and binv, for every
line with a home.

Data and grants at a proxy: DATA_S, DATA_E and DATA_M place the line in that state, the requesters of its miss entry get it, the
stores that waited are performed, and a fill in S with stores waiting asks for the upgrade; a disabled slice gives the copy back. GRANT_E
and GRANT_M make the copy writable and perform the stores that waited (R237, R241, R291, R293, R295). COMPLETES: dataS, dataE, dataM,
grantE and grantM, for every line with a home.

The model's own choices enter through logs 91 and 96. -/
def Obligations.ProxyMessages : Prop :=
  (∀ (s : State) (d line i : Nat), computeDieOk d = true → proxyOf s d line = some i → Quiet s i →
     (findSpoil (sliceOf s i) line = none → (∀ c, findLine (sliceOf s i) line = some c → c.valid = 0) → ∀ (none' : State → Prop),
       (∀ t, none' t ↔ t.out = s.out ++ [.coh "SACK_I" d line] ∧ t.mem = s.mem ∧ sliceOf t i = sliceOf s i) →
       (∃ t, exec (.snpS d line) s = .next t ∧ none' t) ∧ (∃ t, exec (.snpI d line) s = .next t ∧ none' t) ∧
       (∃ t, exec (.snpR d line) s = .next t ∧ none' t) ∧ (∃ t, exec (.binv d line) s = .next t ∧ none' t)) ∧
     (∀ c, findSpoil (sliceOf s i) line = none → findLine (sliceOf s i) line = some c → c.valid ≠ 0 → ∀ (o : Out → List Out),
       (∀ x, o x = (if c.dirty ≠ 0 then (sendData s "SDATA" d line c.data c.dirty c.poison).out else s.out ++ [x])) →
       (∃ t, exec (.snpI d line) s = .next t ∧ (∀ x, findLine (sliceOf t i) line = some x → x.valid = 0) ∧ t.mem = s.mem ∧
         t.out = o (.coh "SACK_I" d line)) ∧
       (c.pins = 0 → ∃ t, exec (.binv d line) s = .next t ∧ (∀ x, findLine (sliceOf t i) line = some x → x.valid = 0) ∧ t.mem = s.mem ∧
         t.out = o (.coh "SACK_I" d line)) ∧
       (c.pins ≠ 0 → ∃ t, exec (.binv d line) s = .next t ∧ sliceOf t i = sliceOf s i ∧ t.mem = s.mem ∧
         t.out = s.out ++ [.coh "SACK_S" d line]) ∧
       (∃ t, exec (.snpS d line) s = .next t ∧ findLine (sliceOf t i) line = some { c with st := .s, dirty := 0 } ∧ t.mem = s.mem ∧
         t.out = o (.coh "SACK_S" d line)) ∧
       (∃ t, exec (.snpR d line) s = .next t ∧ findLine (sliceOf t i) line = some c ∧ t.mem = s.mem ∧
         t.out = (sendData s "SDATA" d line c.data c.dirty c.poison).out)) ∧
     (∀ e, findSpoil (sliceOf s i) line = some e → ∀ (held : State → Prop),
       (∀ t, held t ↔ t.out = (sendData s "SDATA" d line e.data e.dirty e.poison).out ∧ t.mem = s.mem ∧
         (e.departing = true → (sliceOf t i).spoil = (sliceOf s i).spoil) ∧
         (e.departing = false → ∀ x ∈ (sliceOf t i).spoil, x.line = line → x.departing = true)) →
       (∃ t, exec (.snpS d line) s = .next t ∧ held t) ∧ (∃ t, exec (.snpI d line) s = .next t ∧ held t) ∧
       (∃ t, exec (.snpR d line) s = .next t ∧ held t) ∧
       (findLine (sliceOf s i) line = none → ∃ t, exec (.binv d line) s = .next t ∧ held t))) ∧
  (∀ (s : State) (d line i : Nat) (v : Line) (q : W32), computeDieOk d = true → proxyOf s d line = some i →
     FillTaken s d line i v q (.dataS d line v q) .s ∧
     FillTaken s d line i v q (.dataE d line v q) .e ∧
     FillTaken s d line i v q (.dataM d line v q) .m ∧
     GrantTaken s line i (.grantE d line) .e 0 ∧
     GrantTaken s line i (.grantM d line) .m 0xF)

/-- Answers and notices at the home: SACK_I, SACK_S and SDATA count as the answer of their sender, and the last one ends the
transaction; WB gives its data to the home, a transaction in progress finds them there, and it is acknowledged; DROP clears the sender's
bit, REG its bit in every entry of the filter, and REG_ACK ends a registration. An answer that nothing awaits changes nothing (R291, R293
to R296, R298, R299). COMPLETES: sackI, sackS, sdata, wb, drop, reg and regAck, for every line with a home and every pair of slices. -/
def Obligations.HomeTakesAnswers : Prop :=
  (∀ (s : State) (d line h : Nat) (data : Line) (dirty : BitVec 4) (poison : W32), computeDieOk d = true →
    homeSlice s.variant (128 * line) = some h →
    AnswerTaken s d line h (.sackI d line) none .invalid ∧
    AnswerTaken s d line h (.sackS d line) none .shared ∧
    AnswerTaken s d line h (.sdata d line data dirty poison) (some (data, dirty, poison)) (asked s h line)) ∧
  (∀ (s : State) (d line h : Nat) (data : Line) (dirty : BitVec 4) (poison : W32), computeDieOk d = true →
    homeSlice s.variant (128 * line) = some h → ∃ t, exec (.wb d line data dirty poison) s = .next t ∧
      t.out.getLast? = some (.ack (.spoil (16 * d + h % 16) line) 0) ∧
      (filterMask (sliceOf t h) line).getLsbD d = false ∧
      ((filterMask (sliceOf s h) line).getLsbD d = true → HomeAgrees s h line →
        (findTxn (sliceOf s h) line = none → valueAt t h line = mergeLine (sectorBe dirty) data (valueAt s h line)) ∧
        ∀ x, findTxn (sliceOf s h) line = some x → x.data = none →
          valueAt t h line = mergeLine (sectorBe dirty) data (valueAt s h line) ∧
          findTxn (sliceOf t h) line = some { x with sent := none, settled := true })) ∧
  (∀ (s : State) (d line h : Nat), computeDieOk d = true → homeSlice s.variant (128 * line) = some h →
    ((filterMask (sliceOf s h) line).getLsbD d = false → exec (.drop d line) s = .next s) ∧
    ((filterMask (sliceOf s h) line).getLsbD d = true → ∃ t, exec (.drop d line) s = .next t ∧
      filterMask (sliceOf t h) line = filterMask (sliceOf s h) line &&& ~~~bit8 d ∧ t.out = s.out ∧ t.mem = s.mem)) ∧
  ∀ (s : State) (sid home : Nat), sliceOk sid = true → sliceOk home = true →
    (sid < 128 → sid % 16 = home % 16 → sid / 16 ≠ home / 16 → ∃ t, exec (.reg sid home) s = .next t ∧
      (∀ f ∈ (sliceOf t home).filter, f.mask &&& bit8 (sid / 16) = 0) ∧ t.out = s.out ++ [.coh "REG_ACK" sid home]) ∧
    ∃ t, exec (.regAck sid home) s = .next t ∧ home ∉ (sliceOf t sid).awaitReg ∧ (sliceOf t sid).lines = (sliceOf s sid).lines ∧
      t.out = s.out

/-- Answers to accesses: DATA_ONCE with status 0 and CLUSTER_FILL fill the registers of the load that waits and end it; WB_ACK with
status 0 ends the write or update that waits, gives an ENQ its status, and frees a departing spoil entry; a status of another access parks
the group with the code of R347; the acknowledgement of keys that do not unwrap holds the die out (R235, R293, R345, R347, R388, R510).
FILL places memory's line and sends the fills, and SPOIL_WRITE_OUT writes the oldest entry out (R236, R237, R239). COMPLETES: dataOnce,
clusterFill, wbAck, fill and spoilWriteOut. -/
def Obligations.AnswersServeAccesses : Prop :=
  (∀ (s : State) (a : Access) (x : Group) (data : Line) (sectors : BitVec 4) (p : W32), accessOf s a.tag = some a → group s a.gid = some x →
    LoadAlone s a → WholePieces a → a.attr < 4 →
    (readerOf s a.tag a.line = some (gidCluster a.gid) → pieceSectors a.pieces &&& ~~~sectors = 0 → poisonIn (pieceSectors a.pieces) p = 0 →
      ∃ t, exec (.dataOnce a.tag a.line data sectors p 0) s = .next t ∧ LoadDone x a data t ∧ t.out = s.out) ∧
    (∀ st : BitVec 4, st ≠ 0 → readerOf s a.tag a.line = some (gidCluster a.gid) → ∃ u, exec (.dataOnce a.tag a.line data sectors p st) s =
      .next (returnAt (failAccess u a.tag ((if isUncached s a then 0x10 else 0x90) + st.toNat)) a.line) ∧
      u.accs = s.accs ∧ u.groups = s.groups) ∧
    (clusterOk (gidCluster a.gid) = true → poisonIn (pieceSectors a.pieces) p = 0 →
      ∃ t, exec (.clusterFill (gidCluster a.gid) a.line data p) s = .next t ∧ LoadDone x a data t ∧ t.out = s.out ∧ t.mem = s.mem ∧
        readOut t (gidCluster a.gid) a.line = false)) ∧
  (∀ (s : State) (a : Access) (st : BitVec 4), accessOf s a.tag = some a → isEngine a.gid = false →
    (a.kind ≠ .atomRet → exec (.wbAck (.access a.tag) 0) s = .next (returnAt (dropAccess s a.tag) a.line)) ∧
    (a.kind ≠ .atomRet → st ≠ 0 → exec (.wbAck (.access a.tag) st) s =
      .next (failAccess s a.tag ((if isUncached s a then 0x10 else 0x90) + st.toNat))) ∧
    (a.kind = .atomRet → exec (.wbAck (.access a.tag) st) s = .next (dropAccess (modGroup s a.gid fun g =>
      a.pieces.foldl (fun g p => writeReg g p.lane p.reg (st.setWidth 32)) g) a.tag))) ∧
  (∀ (s : State) (sid line : Nat), sliceOk sid = true → Quiet s sid → ∃ t,
    exec (.wbAck (.spoil sid line) 0) s = .next t ∧ t.out = s.out ∧
    ∀ e, e ∈ (sliceOf t sid).spoil ↔ e ∈ (sliceOf s sid).spoil ∧ ¬(e.line = line ∧ e.departing = true)) ∧
  (∀ (s : State) (d : Nat), dieOk d = true → ∃ t, exec (.wbAck (.key d) 0xF) s = .next t ∧ (die t d).state = .heldOut ∧
    (die t d).hold = 3 ∧ (die t d).keyed = false) ∧
  (∀ (s u : State) (sid line : Nat) (ecc : List MemFault) (m : Miss) (v : Line) (q : W32) (dirty : BitVec 4), sliceOk sid = true →
    homeSlice s.variant (128 * line) = some sid → findMiss (sliceOf s sid) line = some m → m.sent = true →
    findTxn (sliceOf s sid) line = none → u = readMem s line ecc → Quiet u sid → findMiss (sliceOf u sid) line = some m →
    homeValue u sid line = (v, q, dirty) → ∃ t, exec (.fill sid line ecc) s = .next t ∧ findMiss (sliceOf t sid) line = none ∧
      (m.cores ≠ 0 → Out.fill "CLUSTER_FILL" agentCores (bit9 (sid / 16)) m.cores line v 0xF q 0 ∈ t.out) ∧
      (m.readCaches ≠ 0 → Out.fill "CLUSTER_FILL" agentMemory (bit9 (sid / 16)) m.readCaches line v 0xF q 0 ∈ t.out) ∧
      (m.dies ≠ 0 → Out.fill "DATA_S" agentSlice (m.dies.setWidth 9) (bit16 (sid % 16)) line v (cmpSectors (cmpOf v)) q (cmpOf v) ∈ t.out ∧
        filterMask (sliceOf t sid) line = filterMask (sliceOf u sid) line ||| m.dies) ∧
      ∀ n ∈ m.others, Out.cohData "DATA_ONCE" n line v 0xF q 0 ∈ t.out) ∧
  ∀ (s : State) (sid : Nat) (e : Spoil), sliceOk sid = true → (sliceOf s sid).spoil.find? (fun e => !e.departing) = some e → Quiet s sid →
    (isForeignIn s sid e.line = false → ∃ t, exec (.spoilWriteOut sid) s = .next t ∧
      t.out = s.out ++ [.memWrite sid e.line] ∧ memLine t.mem e.line = mergeLine (sectorBe e.dirty) e.data (memLine s.mem e.line) ∧
      (sliceOf t sid).spoil = (sliceOf s sid).spoil.erase e) ∧
    (isForeignIn s sid e.line = true → ∃ t, exec (.spoilWriteOut sid) s = .next t ∧ t.mem = s.mem ∧
      t.out = (sendData s "WB" (sid / 16) e.line e.data e.dirty e.poison).out ∧ { e with departing := true } ∈ (sliceOf t sid).spoil)

/-- An ADD packet in ledger or pair form at the crusher of its line (see `PacketAdded`): refused outside the declared ranges, added to a
line that its task has open, added to a line opened with its present value. A packet that passes the top of V or 256 bytes is a protocol
error, which ends the domain (R263, R264, R269, R271, R274, R443). COMPLETES: ledgerRecords and pairRecords, for every packet with
records of its form.

An integer or rounded operation at a line that no die holds: the records act in order on the line's value, each on its own bytes;
without a return the crusher acknowledges, with one the access that waits has its old values and ends (R259, R260,
R274). COMPLETES: roundedUpdate, for every packet with rounded records.

Two packets that meet on their way, and that may combine, leave as one that carries the tags of both and acts as both in turn: two
ledger records of one element become the record of their exact sum, and two integer operations on the same bytes one operation (R188,
R189, R270; log 99).

The model's own choices enter through logs 38 and 99. -/
def Obligations.CrusherUpdates : Prop :=
  (∀ (s : State) (sid : Nat) (k : CruPacket), sliceOk sid = true → homeSlice s.variant (128 * k.line) = some sid → k.recs ≠ [] →
     (k.recs.all isLedgerRec = true → badPacket k = true → exec (.ledgerRecords sid k) s = .next (raiseFatal s 6 0)) ∧
     (k.recs.all isPairRec = true → badPacket k = true → exec (.pairRecords sid k) s = .next (raiseFatal s 6 0)) ∧
     (k.recs.all isLedgerRec = true → badPacket k = false → k.op ≠ 0xC → PacketAdded s sid k (.ledgerRecords sid k) (ledgerForm s)) ∧
     (k.recs.all isPairRec = true → badPacket k = false → k.op ≠ 0xC → PacketAdded s sid k (.pairRecords sid k) .pair)) ∧
  (∀ (s w : State) (sid : Nat) (k : CruPacket) (v : Line) (be : BitVec 128), sliceOk sid = true →
     homeSlice s.variant (128 * k.line) = some sid → k.recs ≠ [] → k.recs.all isRoundedRec = true → badPacket k = false → k.op ≠ 0xC →
     v = valueAt s sid k.line → be = k.recs.foldl (fun m r => m ||| recBe r) 0 →
     (isRemoteLine s k.line = true → exec (.roundedUpdate sid k) s = .next (windowUpdate s k)) ∧
     (isRemoteLine s k.line = false → HomeIdle s sid k.line →
       (∀ e, arrivalCode s k.line (.update k) = some e → exec (.roundedUpdate sid k) s = .next (emits s (acksOf k e))) ∧
       (arrivalCode s k.line (.update k) = none → filterMask (sliceOf s sid) k.line = 0 → Takes s sid k.line (.update k) w →
         (k.ret = false → ∃ t o, exec (.roundedUpdate sid k) s = .next t ∧ t.out = o ++ acksOf k 0 ∧
           (HomeAgrees s sid k.line → valueAt t sid k.line = mergeLine be (roundedRecords k.op k.fl k.recs v).1 v)) ∧
         (∀ a, k.ret = true → accessOf s k.tag = some a → poisonIn (sectorsTouched be) (homeValue s sid k.line).2.1 = 0 →
           ∃ t, exec (.roundedUpdate sid k) s = .next t ∧ accessOf t k.tag = none ∧
             (HomeAgrees s sid k.line → valueAt t sid k.line = mergeLine be (roundedRecords k.op k.fl k.recs v).1 v) ∧
             (k.op ≠ 7 → group t a.gid = group (writeOlds s a.gid a.pieces (roundedRecords k.op k.fl k.recs v).2) a.gid))))) ∧
  (∀ (lead k : CruPacket), mayCombine lead k = true →
     (∀ e l x n p m z i l' x' n' p' m' z' i', lead.recs = [.ledger e l x n p m z i] → k.recs = [.ledger e l' x' n' p' m' z' i'] →
       ∃ c r, combinePackets lead k = some c ∧ c.absorbed = lead.absorbed ++ k.tag :: k.absorbed ∧ c.recs = [r] ∧
         ∀ E : Elem, elemLedger .ledger E (recordLedger r) = elemLedger .ledger (elemLedger .ledger E
           (recordLedger (.ledger e l x n p m z i))) (recordLedger (.ledger e l' x' n' p' m' z' i'))) ∧
     (∀ o n a a' x x', lead.recs = [.rounded o n a x] → k.recs = [.rounded o n a' x'] → n ∈ [4, 8] → o + n ≤ 128 →
       ∃ c, combinePackets lead k = some c ∧ c.absorbed = lead.absorbed ++ k.tag :: k.absorbed ∧
         ∀ d, (roundedRecords c.op c.fl c.recs d).1 = (roundedRecords k.op k.fl k.recs (roundedRecords lead.op lead.fl lead.recs d).1).1))

/-- Closes and acknowledgements: a line closes by being rounded into its slice, once for each element, and the closer is acknowledged;
a line that the close does not name stays open; at a spilled one the close waits (R267, R273, R278). CLOSE_TASK closes every resident line
of its task, and with the last one the crusher's acknowledgement reaches the front end (R279). CRUSHER_ACK ends the update, parks its group,
or fails the engine's task; a code of a class that no agent issues does nothing (R18, R277, R345). COMPLETES: closeLine, closeTask and
crusherAck.

A line whose cells the crusher writes to its spill block comes back with every element as it was, in the same form, and waits no
longer (R272, R273). LINE_BRING_BACK at a line that is resident changes nothing of it. COMPLETES: lineBringBack.

The model's own choices enter through logs 38 and 95. -/
def Obligations.CrusherClosesLines : Prop :=
  ((∀ (s : State) (sid line tag : Nat) (a : Access) (k : CruPacket), sliceOk sid = true → homeSlice s.variant (128 * line) = some sid →
     accessOf s tag = some a → a.update = some k → k.op = 0xC → k.line = line → k.tag = tag → k.absorbed = [] →
     (isRemoteLine s line = true → exec (.closeLine sid line tag) s = .next (emit s (.cruAck tag 0x9F))) ∧
     (isRemoteLine s line = false → Quiet s sid →
       (HomeIdle s sid line → filterOwned (sliceOf s sid) line = false → ∃ t, exec (.closeLine sid line tag) s = .next t ∧
         t.out = s.out ++ [.cruAck tag 0] ∧ t.mem = s.mem) ∧
       ∀ l, openAt (crusher s sid) line = some l →
         (l.spilled = true → ∃ t x, exec (.closeLine sid line tag) s = .next t ∧
           openAt (crusher t sid) line = some x ∧ x.waiting = l.waiting ++ [k] ∧ x.elems = l.elems ∧ t.out = s.out ∧ t.mem = s.mem) ∧
         (closes k l = false → l.spilled = false → ∃ t, exec (.closeLine sid line tag) s = .next t ∧
           openAt (crusher t sid) line = some l ∧ t.out = s.out ++ [.cruAck tag 0] ∧ t.mem = s.mem) ∧
         (closes k l = true → l.spilled = false → ∃ t o, exec (.closeLine sid line tag) s = .next t ∧
           openAt (crusher t sid) line = none ∧ t.out = o ++ [.cruAck tag 0] ∧
           ((∀ c ∈ (sliceOf s sid).lines, c.line ≠ line) → valueAt t sid line = closedValue l)))) ∧
   (∀ (s : State) (sid : Nat) (x : Task), sliceOk sid = true → taskOf s x.tag = some x → x.st = .closing →
     (sid ∉ x.closes → exec (.closeTask sid x.tag) s = .next s) ∧
     (sid ∈ x.closes → (∀ l ∈ (crusher s sid).lines, l.task = x.tag → l.spilled = false) →
       ∃ u, (∀ l ∈ (crusher u sid).lines, l.task ≠ x.tag) ∧ (∀ r ∈ (crusher u sid).ranges, r.task ≠ x.tag) ∧
         x.tag ∉ (crusher u sid).closing ∧ taskOf u x.tag = some { x with closes := x.closes.filter (· ≠ sid) } ∧
         exec (.closeTask sid x.tag) s = .next (wake (if (x.closes.filter (· ≠ sid)).isEmpty then taskDone u x.tag else u) sid)) ∧
     (sid ∈ x.closes → Quiet s sid → (∃ l ∈ (crusher s sid).lines, l.task = x.tag ∧ l.spilled = true) →
       ∃ t, exec (.closeTask sid x.tag) s = .next t ∧ taskOf t x.tag = some x ∧ x.tag ∈ (crusher t sid).closing ∧
         ∀ l ∈ (crusher t sid).lines, l.task = x.tag → l.spilled = true ∧ l.closing = true)) ∧
   ∀ (s : State) (a : Access) (st : Byte), accessOf s a.tag = some a → a.update ≠ none →
     (isIssued st = true → isEngine a.gid = false →
       exec (.crusherAck a.tag st) s = .next (if st = 0 then dropAccess s a.tag else failAccess s a.tag st.toNat)) ∧
     (isIssued st = true → isEngine a.gid = true → st ≠ 0 →
       exec (.crusherAck a.tag st) s = .next (engineFail (dropAccess s a.tag) (engineTask a.gid) st.toNat)) ∧
     (isIssued st = false → exec (.crusherAck a.tag st) s = .next s)) ∧
  (∀ (s u : State) (sid : Nat) (l : OpenLine), sliceOk sid = true → openAt (crusher s sid) l.line = some l → l.spilled = false →
     l.waiting = [] → Quiet s sid → (crusher s sid).closing = [] →
     (∃ t, exec (.lineBringBack sid l.line) s = .next t ∧ crusher t sid = crusher s sid ∧ t.out = s.out ∧ t.mem = s.mem) ∧
     (u = spillLine s sid l → isLineFormat l.fl = true → cellsUsed (crusher s sid) ≤ 4096 →
       (∀ i < elemsPerLine l.fl, (elemImage l.form (look {} l.elems i)).length = elemSize (formCode l.form) ∧
         imageElem (formCode l.form) (elemImage l.form (look {} l.elems i)) = some (look {} l.elems i)) →
       (∃ x, openAt (crusher u sid) l.line = some x ∧ x.spilled = true ∧ x.elems = []) ∧
       ∃ t x, exec (.lineBringBack sid l.line) u = .next t ∧ openAt (crusher t sid) l.line = some x ∧ t.out = u.out ∧ t.mem = u.mem ∧
         x = { l with elems := x.elems, poison := x.poison, used := x.used } ∧
         ∀ i < elemsPerLine l.fl, look {} x.elems i = look {} l.elems i))

/-! ### Upkeep, links, ports (R183, R200 to R214, R250 to R253, R281, R303 to R330, R428 to R449, R546) -/

/-- The activities of meshes, slices and memory channels: a failed hop of a flit is retried and counted, and the third failure of that
flit there ends the domain (R183); caches and slices are enabled only when invalidated, registered, not fenced and under no logic test
(R250, R291); a refresh leaves the contents, closes its bank's row and begins the counts of its rows again, and a row of 1,024 activations
has the two rows on each side refreshed and its count reset (R206 to R208); a patrol read that meets an error beyond the code of its unit
poisons the whole unit (R203, R204, R209); an array error is counted, one of the tags, the filter or the directory ends the domain, and
one of a read-only cache takes its line (R252, R281, R302); a stockpile channel asks for a full retrain after 10 C, and fails at the second
failed one in a row (R201, R213). COMPLETES: flitError, roCacheEnable, sliceEnable, refresh, disturbanceRefresh, patrolScrub, arrayScrub,
retrainWindow, temperatureReadout and faceRecalibration.

What the codes of memory make of an error (R203): a face unit corrects one wrong symbol and detects three; a stockpile unit corrects
two wrong bits and detects four, or any of one pin; data from another address is detected.

A multicast of an agent of a compute die: one copy leaves its die, whatever other dies it names, and one enters each of them, at the
edge port that the lowest node of the mask gives (R22, R185, R186).

The model's own choices enter through logs 33, 56, 74, 104 and 105. -/
def Obligations.UpkeepActs : Prop :=
  ((∀ (s : State) (d node hop flit n : Nat) (control : Bool), dieOk d = true → Sys2Proof.nodeOk node = true → alive s = true →
     (die s d).state ≠ .absent → n = hopFails (die s d) node hop flit control + 1 → ∃ t,
     exec (.flitError d node hop flit control) s = .next t ∧
       (n < 3 → t.restart = s.restart ∧ hopFails (die t d) node hop flit control = n ∧
         (∀ a b c e, (a, b, c, e) ≠ (node, hop, flit, control) → hopFails (die t d) a b c e = hopFails (die s d) a b c e) ∧
         (die t d).ctlRetry = (if control then bump 0xFFFF (die s d).ctlRetry else (die s d).ctlRetry) ∧
         (die t d).bulkRetry = (if control then (die s d).bulkRetry else bump 0xFFFF (die s d).bulkRetry)) ∧
       (3 ≤ n → t.restart.fatal = true ∧ (die t d).holdNext = 7)) ∧
   (∀ (s : State) (cl : Nat), clusterOk cl = true → alive s = true → dieServes s (cl / 16) = true → logicTesting s (cl / 16) = false →
     (cluster s cl).roInvalid = true →
     (die s (cl / 16)).clFenced.getLsbD (cl % 16) = false → (die s (cl / 16)).clTesting.getLsbD (cl % 16) = false →
     exec (.roCacheEnable cl) s = .next (modCluster s cl fun x => { x with roEnabled := true })) ∧
   (∀ (s : State) (sid : Nat), sliceOk sid = true → alive s = true → dieServes s (sid / 16) = true → (sliceOf s sid).enabled = false →
     ((sliceOf s sid).invalidated = true → (sliceOf s sid).awaitReg = [] → logicTesting s (sid / 16) = false →
       (die s (sid / 16)).slFenced.getLsbD (sid % 16) = false →
       ∃ t, exec (.sliceEnable sid) s = .next t ∧ (sliceOf t sid).enabled = true ∧
         (s.tasks = [] → t = modSlice s sid fun sl => { sl with enabled := true })) ∧
     ((sliceOf s sid).invalidated = false ∨ (sliceOf s sid).awaitReg ≠ [] ∨ (die s (sid / 16)).slFenced.getLsbD (sid % 16) = true →
       exec (.sliceEnable sid) s = .next s)) ∧
   (∀ (s : State) (ch bank row rows : Nat), chanOk ch = true → bankOk bank = true → chanRuns s ch = true →
     (∃ t, exec (.refresh ch bank row rows) s = .next t ∧ look 0 (chan t ch).refreshes bank = look 0 (chan s ch).refreshes bank + 1 ∧
       look 0 (chan t ch).openRow bank = 0 ∧ (chan t ch).interval = refreshInterval s ch ∧
       (∀ r, r < 2 ^ 24 → activationsOf t ch bank r = if row ≤ r ∧ r < row + rows then 0 else activationsOf s ch bank r) ∧
       t.mem = s.mem ∧ t.poison = s.poison) ∧
     (row < rowCount ch → 1024 ≤ activationsOf s ch bank row → ∃ t, exec (.disturbanceRefresh ch bank row) s = .next t ∧
       t.mem = s.mem ∧ t.poison = s.poison ∧ activationsOf t ch bank row = 0 ∧
       ∀ r, r < 2 ^ 24 → look 0 (chan t ch).extraRefreshes (rowKey bank r) = look 0 (chan s ch).extraRefreshes (rowKey bank r) +
         if r ≠ row ∧ r < rowCount ch ∧ row ≤ r + 2 ∧ r ≤ row + 2 then 1 else 0) ∧
     (activationsOf s ch bank row < 1024 → exec (.disturbanceRefresh ch bank row) s = .next s)) ∧
   (∀ (s : State) (pa ch a : Nat) (wrong : List Nat) (elsewhere : Bool) (f : MemFault), chanOf s.variant pa = some (ch, a) →
     chanRuns s ch = true → (∃ d o, target s.variant pa = .face d o ∨ target s.variant pa = .stock o) → f = { sector := 0, wrong, elsewhere } →
     (verdict (decide (pa < stockBase)) f = .none → exec (.patrolScrub pa wrong elsewhere) s = .next (activate s pa)) ∧
     (verdict (decide (pa < stockBase)) f = .corrected → ∃ t, exec (.patrolScrub pa wrong elsewhere) s = .next t ∧ t.mem = s.mem ∧
       t.poison = s.poison ∧ t.dev.errCe = BitVec.ofNat 64 (bump (2 ^ 64 - 1) s.dev.errCe.toNat)) ∧
     (verdict (decide (pa < stockBase)) f = .detected → ∃ t, exec (.patrolScrub pa wrong elsewhere) s = .next t ∧ t.mem = s.mem ∧
       t.dev.errUe = BitVec.ofNat 64 (bump (2 ^ 64 - 1) s.dev.errUe.toNat) ∧
       ∀ k, look 0 t.poison k = if pa < stockBase then (if k / 2 = pa / 64 then 0x31 else look 0 s.poison k)
         else if k = pa / 32 then 0x32 else look 0 s.poison k)) ∧
   (∀ (s : State) (u : ArrayUnit) (j : Nat), u.ok = true → upkeep s = true → dieServes s (arrayDie u) = true →
     exec (.arrayScrub u .clean) s = .next s ∧
     ((∀ cl core line, u ≠ .readOnly cl core line) → ∃ t, exec (.arrayScrub u (.corrected j)) s = .next t ∧
       t.dev.errCe = BitVec.ofNat 64 (bump (2 ^ 64 - 1) s.dev.errCe.toNat) ∧
       t.mem = s.mem ∧ t.slices = s.slices ∧ t.crushers = s.crushers) ∧
     ∃ t, exec (.arrayScrub u (.uncorrectable j)) s = .next t ∧
       (∀ i, u = .sliceTags i ∨ u = .snoopFilter i ∨ u = .directory i → t.restart.fatal = true) ∧
       (∀ cl bank word, u = .clusterMem cl bank word → look 0 t.poison (wordMark (bankWord cl bank word)) = 0x34) ∧
       (∀ cl core line, u = .readOnly cl core line → ∀ r, r ∈ (cluster t cl).ro ↔ r ∈ (cluster s cl).ro ∧ ¬(r.core = core ∧ r.line = line)) ∧
       (∀ i line e l, u = .ledgerCell i line e → openAt (crusher s i) line = some l → l.spilled = false →
         ∃ x, openAt (crusher t i) line = some x ∧ x.elems = l.elems ∧ x.poison = setPoison l.poison (elemSector l.fl e) 0x36)) ∧
   ∀ (s : State) (ch : Nat) (done ok full : Bool) (tenths : Int) (c : Chan), chanOk ch = true → c = chan s ch →
     (128 ≤ ch → s.power.stage = .cold → done = true → ∃ t, exec (.retrainWindow ch done ok) s = .next t ∧
       (chan t ch).trained = ok ∧ (chan t ch).failed = !ok) ∧
     (128 ≤ ch → s.power.stage ≠ .cold → alive s = true → s.restart.active = c.selfRefresh → c.trained = true → c.failed = false →
       full = (c.retraining || fullDue c (die s 8).time.toNat) → ∃ t, exec (.retrainWindow ch done ok) s = .next t ∧
       (done = false ∨ full = false → chan t ch = { c with windows := c.windows + 1, retraining := full } ∧ t.dev.stock = s.dev.stock) ∧
       (done = true → full = true → ok = true → (chan t ch).retrainDue = false ∧ (chan t ch).retrainFailed = false ∧
         (chan t ch).selfRefresh = false ∧ (chan t ch).tempAtTrain = c.temp ∧ (chan t ch).trainedAt = (die s 8).time.toNat) ∧
       (done = true → full = true → ok = false → c.retrainFailed = false → (chan t ch).retrainFailed = true ∧ t.dev.stock = s.dev.stock) ∧
       (done = true → full = true → ok = false → c.retrainFailed = true → (chan t ch).failed = true ∧ t.dev.stock = false)) ∧
     (128 ≤ ch → s.power.stage = .cold ∨ alive s = true → c.selfRefresh = false → ∃ t, exec (.temperatureReadout ch tenths) s = .next t ∧
       (chan t ch).temp = tenths ∧
       ((chan t ch).retrainDue = true ↔ c.retrainDue = true ∨ (c.trained = true ∧ 100 ≤ (tenths - c.tempAtTrain).natAbs))) ∧
     (ch < 128 → chanRuns s ch = true → exec (.faceRecalibration ch) s =
       .next (modChan s ch fun c => { c with windows := c.windows + 1 }))) ∧
  (∀ (f : MemFault), (f.elsewhere = true → verdict true f = .detected ∧ verdict false f = .detected) ∧
     (f.elsewhere = false → f.wrong = [] → verdict true f = .none ∧ verdict false f = .none) ∧
     (f.elsewhere = false → f.wrong ≠ [] →
       ((∃ k, ∀ b ∈ f.wrong, b / 16 = k) → verdict true f = .corrected) ∧
       ((∃ a b c, ∀ x ∈ f.wrong, x / 16 ∈ [a, b, c]) → verdict true f ∈ [Verdict.corrected, .detected]) ∧
       ((∃ a b, ∀ x ∈ f.wrong, x ∈ [a, b]) → verdict false f = .corrected) ∧
       ((∃ a b c d, ∀ x ∈ f.wrong, x ∈ [a, b, c, d]) ∨ (∃ k, ∀ x ∈ f.wrong, x % 12 = k) → verdict false f ∈ [Verdict.corrected, .detected]))) ∧
  (∀ (src node d : Nat) (dies : List Nat) (nodes : BitVec 16), dies.Nodup → src ≠ 8 →
     (copiesFromDie src node dies nodes).count (.leave src (iodEdge node)) = (if ∃ x ∈ dies, x ≠ src then 1 else 0) ∧
     (d ≠ 8 → d ≠ src → (copiesFromDie src node dies nodes).count (.enter d (iodEdge (lowestNode nodes))) = if d ∈ dies then 1 else 0))

/-- Frames on an active link: one that fails its CRC is counted and a replay is asked for, once; a DATA frame in sequence is delivered,
one before it is dropped, one after it asks for a replay; a reserved cell descriptor or a payload cell without a packet loses the link, and
a multicast on bulk VC0 or control ends the domain with cause 6; IDLE and RECAL give their acknowledgement and credits alone; WIDTH takes
the octets it no longer lists out of service; a DATA frame that its sender may not send, beyond 1,024 unacknowledged ones or beyond its
credits, is none; ALIGN seeds the scramblers; a CAP frame is the loss of the link, and gives the sender's
words while the link trains (R185, R307, R309, R310, R312, R314, R324, R328). COMPLETES: dataFrame, idleFrame, capFrame, widthFrame,
alignFrame and recalFrame, for every octet in service of a link that serves.

Retry, width and loss: NAK_REPEAT sends the request again, and the eighth loses the link; the loss of a link ends the domain, with
both its ends suspect; an octet is retired by loss of signal, by a failed recalibration or by command while more than the least width
is left, and at the least width a command changes nothing and any other cause loses the link; LNK_CMD_RECAL recalibrates the octets in
service in turn (R301, R302, R311, R324 to R328). COMPLETES: nakRepeat, frameTimeout, lnkCmdRecal, octetRecalibration, lossOfSignal and
lnkCmdRetire, on a link that serves.

A link forms when both ends have presented their words: fewer credits than the table, or words that break a rule, hold the end's die
out; else the link has the octets that both ends find good, the faster rate of both, and each direction the credits of its receiver (R313,
R315 to R319, R321; log 101).

The model's own choices enter through logs 32, 45, 46, 47 and 101. -/
def Obligations.JenolLinkWorks : Prop :=
  (∀ (s : State) (i dir o : Nat) (f : Frame) (l : Link), (linkOk i && dirOk dir && octetOk o) = true → octetExists s i o = true →
     l = link s i →
     (linkServes l = true → inUse l o = true → crcOk f = false →
       ((l.octCrc.filter fun e => e.1 == o && decide ((die s 8).time.toNat < e.2 + 10000)).length + 1 < 16) →
       FrameLost s i dir l (.dataFrame i dir o f) ∧ FrameLost s i dir l (.idleFrame i dir o f) ∧ FrameLost s i dir l (.capFrame i dir o f) ∧
       FrameLost s i dir l (.widthFrame i dir o f) ∧ FrameLost s i dir l (.alignFrame i dir o f) ∧
       FrameLost s i dir l (.recalFrame i dir o f)) ∧
     (linkServes l = true → inUse l o = true → crcOk f = true → ∀ u, u = takeAck s i dir f →
       (fType f = 1 → exec (.idleFrame i dir o f) s = .next u) ∧ (fType f = 5 → exec (.recalFrame i dir o f) s = .next u) ∧
       (fType f = 0 → senderMay (link u i) dir f = false → exec (.dataFrame i dir o f) s = .next u) ∧
       (fType f = 0 → senderMay (link u i) dir f = true → ∀ d a, d = linkDir (link u i) dir → a = (BitVec.ofNat 12 (fSeq f) - d.recvSeq).toNat → ∃ t e, exec (.dataFrame i dir o f) s = .next t ∧ e.freed = d.freed ∧ e.openCells = d.openCells ∧ e.recvSeq = d.recvSeq + 1 ∧
         e.nak = none ∧
         (a = 0 → (∀ x, takeCells f (List.range 16) e = .ok x →
             (linkDir (link t i) dir).recvSeq = d.recvSeq + 1 ∧ (linkDir (link t i) dir).nak = none ∧
             (linkDir (link t i) dir).freed = x.freed ∧ t.restart = s.restart) ∧
           (takeCells f (List.range 16) e = .error 4 → (link t i).st = 5 ∧ t.restart.fatal = true) ∧
           (takeCells f (List.range 16) e = .error 6 → t.restart.fatal = true ∧ (s.restart.fatal = false → t.restart.fatalCause = 6))) ∧
         (0 < a → a < 2048 → (linkDir (link t i) dir).recvSeq = d.recvSeq ∧
           (linkDir (link t i) dir).nak = some (d.nak.getD (d.recvSeq, 1))) ∧
         (2048 ≤ a → (linkDir (link t i) dir).recvSeq = d.recvSeq ∧ (linkDir (link t i) dir).nak = d.nak ∧ t.out = s.out)) ∧
       (fType f = 2 → ∃ t, exec (.capFrame i dir o f) s = .next t ∧ (link t i).st = 5 ∧ t.restart.fatal = true) ∧
       (fType f = 3 → ∀ w g, w = frameWords f → 3 ≤ w.length → g = BitVec.ofNat 12 (wordBits w 2 27 16) →
         linkMinOctets i ≤ popc12 (l.octIns &&& g) → ∃ t, exec (.widthFrame i dir o f) s = .next t ∧ (link t i).postponed = false ∧
           ∀ k, k < linkOctets i → inUse (link t i) k = (inUse l k && g.getLsbD k)) ∧
       (fType f = 4 → ∃ t, exec (.alignFrame i dir o f) s = .next t ∧ (linkDir (link t i) dir).scramblerSeeded = true ∧
         (link t i).octIns = l.octIns)) ∧
     (l.st = 1 → crcOk f = true → fType f = 2 →
       exec (.capFrame i dir o f) s = .next (presentWords s i dir (frameWords f)))) ∧
  (∀ (s : State) (i dir o : Nat) (l : Link), linkOk i = true → dirOk dir = true → octetOk o = true → l = link s i → linkServes l = true →
     (∀ n k, (linkDir l dir).nak = some (n, k) → ∃ t, exec (.nakRepeat i dir) s = .next t ∧
       (k + 1 < 8 → (linkDir (link t i) dir).nak = some (n, k + 1) ∧ t.out = s.out ++ [.linkNak i dir n.toNat] ∧ t.restart = s.restart) ∧
       (8 ≤ k + 1 → (link t i).st = 5 ∧ t.restart.fatal = true)) ∧
     (∃ t, exec (.frameTimeout i) s = .next t ∧ (link t i).st = 5 ∧ t.restart.fatal = true ∧
       t.restart.fatalDies = s.restart.fatalDies ||| endDies s.variant i) ∧
     (∃ t, exec (.lnkCmdRecal i) s = .next t ∧ (∀ k, k ∈ (link t i).recalPass ↔ k < 12 ∧ inUse l k = true) ∧ (link t i).octIns = l.octIns) ∧
     (inUse l o = true → l.postponed = false → s.restart.active = false → ∃ t, exec (.octetRecalibration i o true) s = .next t ∧
       (link t i).recals = bump 0xFFFF l.recals ∧ o ∉ (link t i).recalPass ∧ (link t i).octIns = l.octIns) ∧
     (inUse l o = true → linkMinOctets i < popc12 l.octIns →
       OctetRetired s i o l (.lossOfSignal i o) ∧ OctetRetired s i o l (.lnkCmdRetire i (BitVec.ofNat 12 (2 ^ o))) ∧
       (l.postponed = false → s.restart.active = false → OctetRetired s i o l (.octetRecalibration i o false))) ∧
     (inUse l o = true → popc12 l.octIns ≤ linkMinOctets i →
       exec (.lnkCmdRetire i (BitVec.ofNat 12 (2 ^ o))) s = .next s ∧
       ∃ t, exec (.lossOfSignal i o) s = .next t ∧ (link t i).st = 5 ∧ t.restart.fatal = true)) ∧
  (∀ (s t : State) (i a b : Nat) (w : List W64) (l : Link) (ring : Bool) (m : BitVec 12), linkEnds s.variant i = some (a, b) →
     l = link s i → w ≠ [] → l.cwB ≠ [] → ring = decide (8 ≤ i) → t = presentWords s i 0 w →
     m = BitVec.ofNat 12 (wordBits w 2 27 16) &&& BitVec.ofNat 12 (wordBits l.cwB 2 27 16) &&& octetMask i &&& ~~~l.octRet →
     (creditsOk ring w = true → ∀ c, c < 6 → (leastCredits ring).getD c 0 ≤ (look 0 (credits w) c).toNat) ∧
     (wordsOk false w = false ∨ creditsOk ring w = false → (link t i).st = 4 ∧ (link t i).cause = 1 ∧ (link t i).octIns = 0 ∧
       (a ≠ 8 → (die t a).state = .heldOut)) ∧
     (wordsOk false w = true → creditsOk ring w = true → wordsOk (!ring) l.cwB = true → creditsOk ring l.cwB = true →
       (ring = true → portWrong w a = false ∧ portWrong l.cwB b = false) → (ring = false → wordsChanged s a w = false) →
       rateOf w l.cwB ≠ 0 → linkMinOctets i ≤ popc12 m →
       (link t i).octIns = m ∧ (link t i).rate = rateOf w l.cwB ∧ (link t i).st = (if m = octetMask i then 2 else 3) ∧
       (link t i).fwd.credit = credits l.cwB ∧ (link t i).bwd.credit = credits w ∧ (link t i).fwd.recvSeq = 0))

/-- Requests of peers: a write that passes R435 is performed and acknowledged at the end of its message, a read is answered packet by
packet, FETCH_ADD and CMP_SWAP act once on eight bytes and answer the old value; one that does not pass gets NAK remote access error, and
an operation that is not supported NAK invalid request. A packet ahead of its turn gets NAK sequence error, a repeated write its
acknowledgement. A packet for no queue pair is dropped and counted; during a warm restart the answer is RNR NAK (R431, R434 to R437,
R439, R440). COMPLETES: rdmaWrite, rdmaReadRequest, fetchAdd and cmpSwap, for every request in sequence that the checks pass, and
unsupportedOperation, whose effect is the NAK.

The model's own choices enter through logs 67, 68 and 71. -/
def Obligations.ResponderServes : Prop :=
  (∀ (s u : State) (k : RcPacket) (q p : Nat) (x y : W64), Arrives s k q p → u = notifyCe s q k.ce →
    (k.psn = (qp s q).expectPsn → k.psn < psnSpace →
      (∀ n, n = nakAccess →
        (requestFine u p k k.data.length true = false → exec (.rdmaWrite k) s = .next (sendNak u q k.psn n)) ∧
        (requestFine u p k k.len false = false → exec (.rdmaReadRequest k) s = .next (sendNak u q k.psn n)) ∧
        (isRegister u k.va.toNat = false → k.va.toNat % 8 = 0 → requestFine u p k 8 true = false →
          exec (.fetchAdd k x) s = .next (sendNak u q k.psn n) ∧ exec (.cmpSwap k x y) s = .next (sendNak u q k.psn n))) ∧
      (requestFine u p k k.data.length true = true → ∃ t, exec (.rdmaWrite k) s = .next t ∧
        t = (if k.last then sendAck else fun z _ _ => z) (passRequest (writeAny u k.va.toNat k.data 0) q 1 k.last) q k.psn ∧
        (qp t q).expectPsn = (k.psn + 1) % psnSpace) ∧
      (requestFine u p k k.len false = true → poisonAny u k.va.toNat k.len = 0 →
        exec (.rdmaReadRequest k) s = .next (passRequest (answerReads u q k) q (packets (qp u q).mtu k.len) true)) ∧
      AtomicServed s u k q p (.fetchAdd k x) (fun old => (old + x.toNat) % 2 ^ 64) ∧
      AtomicServed s u k q p (.cmpSwap k x y) (fun old => if old = x.toNat then y.toNat else old)) ∧
    exec (.unsupportedOperation k) s = .next (if psnAhead k.psn (qp s q).expectPsn ≠ 0 ∧ psnAhead k.psn (qp s q).expectPsn < psnSpace / 2
      then sendNak u q k.psn nakSequence else sendNak u q k.psn nakInvalid) ∧
    (0 < psnAhead k.psn (qp s q).expectPsn → psnAhead k.psn (qp s q).expectPsn < psnSpace / 2 →
      ∀ r ∈ [Instr.rdmaWrite k, .rdmaReadRequest k, .fetchAdd k x, .cmpSwap k x y], exec r s = .next (sendNak u q k.psn nakSequence)) ∧
    (psnSpace / 2 ≤ psnAhead k.psn (qp s q).expectPsn → exec (.rdmaWrite k) s = .next (sendAck u q k.psn))) ∧
  ∀ (s : State) (k : RcPacket) (x y : W64), k.ok = true → portTakes s k.port k.half = true →
    ∀ r ∈ [Instr.rdmaWrite k, .rdmaReadRequest k, .fetchAdd k x, .cmpSwap k x y, .unsupportedOperation k],
      (qpOf s k = none → exec r s = .next (dropFrame s k.port)) ∧
      (∀ q, qpOf s k = some q → (qp s q).st = .ready → (qp s q).window = none → s.restart.active = true →
        exec r s = .next (emit s (.rc q "RNR_NAK" k.psn [0])))

/-- Answers to the device's own requests, here to the one request of a queue pair: a read response serves the read that waits, an
acknowledgement ends the write, ATOMIC_ACKNOWLEDGE the atomic operation; NAK sequence error and the acknowledgement timeout send the
requests again, at the eighth time the queue pair fails with 0xB; another NAK fails the request with the status of R449; RNR NAK makes
the queue pair wait until its timer ends; CNP halves the rate at most once in 50 us, and 55 us without one raise it by 5% (R433, R439,
R441, R443, R444, R449). COMPLETES: rdmaReadResponse, acknowledge, nak, ackTimeout, rnrNak, rnrTimerExpiry, cnp and cnpRateIncrease, on a
ready queue pair.

The model's own choices enter through log 69. -/
def Obligations.RequesterHandlesAnswers : Prop :=
  ∀ (s : State) (q : Nat) (x : Qp) (r : QpReq), qpLive s q = true → x = qp s q →
    (x.sendq = [r] → r.sent = true → r.joined = [] → s.image.windows.any (fun w => w.qp == q) = true →
      (∀ data v, r.kind = 0 → r.copy = false → v = lineOf (putBytes r.data r.piece (slice data 0 r.len)) →
        ∃ t, exec (.rdmaReadResponse q r.psn data) s = .next t ∧ (qp t q).sendq = [] ∧ (qp t q).retries = 0 ∧
          t.out = (sendRaw s "DATA_ONCE" r.tag r.line v r.sectors 0).out) ∧
      (∀ value, r.kind = 1 → packets x.mtu r.len = 1 → r.psn < psnSpace → ∃ t, exec (.acknowledge q r.psn value) s = .next t ∧
        (qp t q).sendq = [] ∧ t.out = s.out ++ [.ack (.access r.tag) 0]) ∧
      (∀ (value : W64) a pc, r.kind = 2 → accessOf s r.tag = some a → a.kind = .atomRet → a.pieces[r.piece]? = some pc →
        ∃ t, exec (.acknowledge q r.psn value) s = .next t ∧ (qp t q).sendq = [] ∧ accessOf t r.tag = none ∧
          ∀ g, group s a.gid = some g → group t a.gid = some (writeBlock g pc.lane pc.reg (pc.len / 4) value.toNat)) ∧
      (∀ syn st, nakStatus syn = some st → r.kind = 0 → r.psn < psnSpace → ∃ t, exec (.nak q r.psn syn) s = .next t ∧
        (qp t q).sendq = [] ∧ t.out = s.out ++ [.front "DATA_ONCE_STATUS" r.tag st])) ∧
    (x.sendq = [r] → r.sent = true → r.kind = 0 →
      (s.restart.active = false → ∀ u, u = pumpQp (setQp s q { x with retries := x.retries + 1, sendq := [{ r with sent := false }] }) q →
        (x.retries < 7 → exec (.nak q r.psn nakSequence) s = .next u ∧ exec (.ackTimeout q) s = .next u) ∧
        (x.retries = 7 → (∃ t, exec (.nak q r.psn nakSequence) s = .next t ∧ (qp t q).st = .error ∧ (qp t q).sendq = []) ∧
          ∃ t, exec (.ackTimeout q) s = .next t ∧ (qp t q).st = .error ∧ (qp t q).sendq = [])) ∧
      (∀ timer, ∃ t, exec (.rnrNak q r.psn timer) s = .next t ∧ (qp t q).rnrWait = true ∧ (qp t q).sendq = [{ r with sent := false }] ∧
        t.out = s.out)) ∧
    (x.rnrWait = true → exec (.rnrTimerExpiry q) s = .next (pumpQp (setQp s q { x with rnrWait := false }) q)) ∧
    (∃ t, exec (.cnp q) s = .next t ∧ (qp t q).lastCnp = some s.portTime ∧
      (x.lastCut = none → (qp t q).rate = Nat.max 1000 (x.rate / 2)) ∧
      (∀ c, x.lastCut = some c → (qp t q).rate = if c.toNat + 500000 ≤ s.portTime.toNat then Nat.max 1000 (x.rate / 2) else x.rate)) ∧
    (∃ t, exec (.cnpRateIncrease q) s = .next t ∧
      ((∀ c, x.lastCnp = some c ∨ x.lastRaise = some c → c.toNat + 550000 ≤ s.portTime.toNat) →
        (qp t q).rate = Nat.min (portRate s x.port x.half) (x.rate + portRate s x.port x.half * 5 / 100)) ∧
      (∀ c, x.lastCnp = some c ∨ x.lastRaise = some c → s.portTime.toNat < c.toNat + 550000 → (qp t q).rate = x.rate))

/-- Connections and queue pairs: REQ for an address of the device takes the lowest free queue pair of the partition, which answers REP,
or is answered REJ with reason 1; RTU and REP make a queue pair ready, REJ frees it, DREQ puts it into the error state and is answered
DREP; a window without a ready queue pair sends REQ again (R432, R441, R442). COMPLETES: req, rep, rtu, rej, dreq, drep and
windowReqRetry, on a port that takes frames.

Ports: address resolution answers for the device's own addresses and drops the rest, counted; Delay_Req and Pdelay_Req are answered
with the port time; frames that match nothing and frames that the FEC cannot correct are counted; a pause frame pauses the lossless
priorities it names; a port that goes down or up changes its state, and an admission pass is due (R428 to R430, R438, R441, R448, R449).
COMPLETES: arp, neighborDiscovery, unmatchedFrame, fecUncorrectableFrame, pfcFrame, delayReq, pdelayReq, portUp and portDown.

The model's own choices enter through logs 3, 70, 72, 73, 75, 109 and 111. -/
def Obligations.ConnectionsAndPorts : Prop :=
  ((∀ (s : State) (m : CmReq) (a : AddrCfg), m.ok = true → portTakes s m.port m.half = true → s.restart.active = false →
     (port s m.port 0).mads < 10000 → addrFor s m.port m.half m.vlan m.dstIp = some a →
     (freeQp s a.part = none → ∃ t, exec (.req m) s = .next t ∧ t.out = s.out ++ [.cm m.port m.half "REJ" 0 1] ∧ t.qps = s.qps) ∧
     ∀ q, freeQp s a.part = some q → ∃ t, exec (.req m) s = .next t ∧ (qp t q).st = .repSent ∧ (qp t q).port = m.port ∧
       (qp t q).half = m.half ∧ (qp t q).peerQpn = m.peerQpn ∧ (qp t q).expectPsn = m.peerPsn % psnSpace ∧
       (qp t q).mtu = Nat.min m.mtu 4096 ∧ (qp t q).depth = Nat.min m.depth 16 ∧ t.out = s.out ++ [.cm m.port m.half "REP" q (qp t q).nextPsn]) ∧
   (∀ (s : State) (m : CmReq), m.ok = true → portTakes s m.port m.half = true → addrFor s m.port m.half m.vlan m.dstIp = none →
     exec (.req m) s = .next (dropFrame s m.port)) ∧
   (∀ (s : State) (q qpn psn mtu depth reason : Nat) (x : Qp), x = qp s q → portTakes s x.port x.half = true → q < 65536 →
     s.restart.active = false → (port s x.port 0).mads < 10000 →
     (x.st = .repSent → ∃ t, exec (.rtu q) s = .next t ∧ (qp t q).st = .ready ∧ (qp t q).expectPsn = x.expectPsn) ∧
     (x.st = .reqSent → (∃ t, exec (.rep q qpn psn mtu depth) s = .next t ∧
         (qp t q).st = .ready ∧ (qp t q).peerQpn = qpn ∧ (qp t q).expectPsn = psn % psnSpace ∧ (qp t q).mtu = Nat.min mtu 4096 ∧
         (qp t q).depth = Nat.min depth 16 ∧
         Out.cm x.port x.half "RTU" q 0 ∈ t.out) ∧
       ∃ t, exec (.rej q reason) s = .next t ∧ qp t q = { x with st := .free } ∧ t.out = s.out) ∧
     (x.st = .ready ∨ x.st = .repSent → ∃ t, exec (.dreq q) s = .next t ∧ (qp t q).st = .error ∧ (qp t q).sendq = [] ∧
       Out.cm x.port x.half "DREP" q 0 ∈ t.out) ∧
     ∃ t, exec (.drep q) s = .next t ∧ t.qps = s.qps ∧ t.out = s.out) ∧
   ∀ (s : State) (i : Nat) (w : WindowCfg), s.image.windows[i]? = some w → portTakes s w.port w.half = true → s.restart.active = false →
     ((qp s w.qp).st = .ready → exec (.windowReqRetry i) s = .next s) ∧
     ((qp s w.qp).st ≠ .ready → ∃ t, exec (.windowReqRetry i) s = .next t ∧ (qp t w.qp).st = .reqSent ∧ (qp t w.qp).window = some i ∧
       t.out = s.out ++ [.cm w.port w.half "REQ" w.qp (qp t w.qp).nextPsn])) ∧
  ((∀ (s : State) (n h vlan : Nat) (ip4 : W32) (ip6 : BitVec 128), (portOk n && halfOk h) = true → portTakes s n h = true →
     exec (.arp n h vlan ip4) s = .next (if (addrFor s n h vlan (mapped ip4)).isSome then emit s (.net n h "ARP_REPLY" ip4.toNat)
       else dropFrame s n) ∧
     exec (.neighborDiscovery n h vlan ip6) s = .next (if s.image.addrs.any (fun a => a.port == n && a.half == h && a.vlan == vlan &&
       a.v6 == some ip6) then emit s (.net n h "NEIGHBOR_ADVERTISEMENT" ip6.toNat) else dropFrame s n) ∧
     (∃ t, exec (.unmatchedFrame n h) s = .next t ∧
       look 0 t.dev.portDrops n = BitVec.ofNat 32 (bump 0xFFFFFFFF (look 0 s.dev.portDrops n).toNat) ∧ t.out = s.out) ∧
     (∃ t, exec (.fecUncorrectableFrame n h) s = .next t ∧
       look 0 t.dev.portFec n = BitVec.ofNat 32 (bump 0xFFFFFFFF (look 0 s.dev.portFec n).toNat) ∧ t.out = s.out) ∧
     (∀ pause resume : Byte, ∃ t, exec (.pfcFrame n h pause resume) s = .next t ∧
       (port t n h).paused = ((port s n h).paused ||| (pause &&& s.image.lossless)) &&& ~~~resume)) ∧
   (∀ (s : State) (m : PtpMsg) (k a b : Nat), m.ok = true → portTakes s m.port m.half = true →
     k = eui64 (s.baseMac + 2 * m.port + if m.half = 2 then 1 else 0) → a = s.portTime.toNat / 10000000000 →
     b = s.portTime.toNat % 10000000000 / 10 →
     exec (.delayReq m) s = .next (emit s (.ptp m.port m.half "DELAY_RESP" k a b)) ∧
     exec (.pdelayReq m) s = .next (emit (emit s (.ptp m.port m.half "PDELAY_RESP" k a b)) (.ptp m.port m.half "PDELAY_RESP_FOLLOW_UP" k a b))) ∧
   ∀ (s : State) (n h : Nat), (portOk n && halfOk h) = true → alive s = true →
     (portNamed s.image n h = true → ∀ full, ∃ t, exec (.portUp n h full) s = .next t ∧
       (port t n h).st = (if full = true ∨ h ≠ 0 then 1 else 2) ∧ t.admission.passDue = true) ∧
     ((port s n h).st ≠ 0 → ∃ t, exec (.portDown n h) s = .next t ∧ (port t n h).st = 0 ∧ (port t n h).paused = 0 ∧
       t.admission.passDue = true) ∧
     ((port s n h).st = 0 → exec (.portDown n h) s = .next s))

/-! ### Power and lifecycle (R450 to R482, R505 to R545) -/

/-- The input and the reset pins: below 44.0 V, above 61.0 V and while MOD_RESET# or FLASH_EN# is low the module is off or held in
reset, and keeps only its flash, its fuses, its floors and the thermal-trip latch; the input rising through 49.5 V, the end of an
overvoltage and the release of a pin begin a cold start with its cause. A low level of MOD_RESET# below 1 us is ignored, and between 1
and 10 us it may reset or not. The FRU EEPROM answers at its address while it has its supply, and not after (R450, R454, R468, R480 to
R482; logs 3, 8, 108). COMPLETES: softStart, coldReset, overvoltage, overvoltageCleared, modResetAssert, modResetRelease, flashEnAssert,
flashEnRelease and fru3v3Removal, for the levels and stages stated here.

The model's own choices enter through logs 3, 8 and 108. -/
def Obligations.SupplyAndResets : Prop :=
  let keeps := fun (s t : State) => t.mem = [] ∧ t.groups = [] ∧ t.flash.bytes = s.flash.bytes ∧ t.flash.journal = s.flash.journal ∧
    t.sec.ownFloor = s.sec.ownFloor ∧ t.sec.fwFloor = s.sec.fwFloor ∧ t.variant = s.variant ∧ t.serial = s.serial ∧
    t.power.latch = s.power.latch
  ∀ (s : State) (mv ns : Nat),
    (startMv ≤ mv → s.power.overvolted = false → s.power.inputMv < startMv → s.power.stage = .off → s.power.resetLow = false →
      s.power.flashEnLow = false → ∃ t, exec (.softStart mv) s = .next t ∧ keeps s t ∧ t.power.stage = .cold ∧ t.power.inputMv = mv) ∧
    (mv ≤ resetMv → s.power.stage ≠ .off → ∃ t, exec (.coldReset mv) s = .next t ∧ keeps s t ∧ t.power.stage = .off ∧ t.power.coldCause = 2) ∧
    (overMv ≤ mv → s.power.stage ≠ .off → ∃ t, exec (.overvoltage mv) s = .next t ∧ keeps s t ∧ t.power.stage = .off ∧
      t.power.overvolted = true ∧ t.power.coldCause = 3) ∧
    (s.power.overvolted = true → startMv ≤ mv → mv < overClearMv → s.power.latch = none → s.power.resetLow = false →
      s.power.flashEnLow = false → ∃ t, exec (.overvoltageCleared mv) s = .next t ∧ keeps s t ∧ t.power.stage = .cold ∧
        t.power.overvolted = false ∧ t.power.coldCause = 3) ∧
    (10000 ≤ ns → s.power.stage ≠ .off → ∃ t, exec (.modResetAssert ns) s = .next t ∧ keeps s t ∧ t.power.stage = .held ∧
      t.power.resetLow = true) ∧
    (ns < 1000 → exec (.modResetAssert ns) s = .next s) ∧
    (1000 ≤ ns → ns < 10000 → s.power.stage ≠ .off → ∃ t, exec (.modResetAssert ns) s = .next t ∧
      (t.power = s.power ∧ t.mem = s.mem ∨ t.power.stage = .held ∧ keeps s t)) ∧
    (s.power.resetLow = true → s.power.stage = .held → s.power.flashEnLow = false → inputInRange s = true → s.power.latch = none →
      ∃ t, exec .modResetRelease s = .next t ∧ keeps s t ∧ t.power.stage = .cold ∧ t.power.resetLow = false ∧ t.power.coldCause = 1) ∧
    (s.power.stage ≠ .off → ∃ t, exec .flashEnAssert s = .next t ∧ keeps s t ∧ t.power.stage = .held ∧ t.power.flashEnLow = true) ∧
    (s.power.flashEnLow = true → s.power.stage = .held → s.power.resetLow = false → s.power.latch = none →
      ∃ t, exec .flashEnRelease s = .next t ∧ keeps s t ∧ t.power.stage = .cold ∧ t.power.flashEnLow = false ∧ t.power.coldCause = 6) ∧
    (∀ off, off < 8192 → s.power.fru3v3 = true → fruRead s (0x50 + s.power.ga.toNat) off = some (Config.fruByte off)) ∧
    ∃ t, exec .fru3v3Removal s = .next t ∧ t.power.latch = none ∧ t.power.tripPin = false ∧ t.power.fru3v3 = false ∧ t.mem = s.mem ∧
      t.flash = s.flash ∧ ∀ a off, fruRead t a off = none

/-- The supply warning sets f to 4/64 on every die, lowers the cap to 1,500 W at most, suspends the flash and asserts PWR_ALERT#; its
end takes that back. A sample above 72 A brings f to 16/64 at most, and samples add up the energy. While the mean of the last samples is
above the cap, the loop lowers f by one step on the dies that R421 puts first (partitions above their share, then BE, then LC) of those
where it can fall, and below 95% of the cap it raises it by one step; droop withholding marks a die, and at its limit brings f to 16/64;
the ageing trim raises a die's offset by 5 mV up to 20 mV and records it (R421, R451, R452, R456 to R459, R461, R463, R465, R470 to
R472). COMPLETES: supplyWarning, warningCleared, currentSample, powerCapLoop, droopTrip, droopEnd, droopLimit, withholdSummary,
ageingMonitorRead and controlComplexStepChange, for the states stated here.

Temperature: a reading of 100 C or more lowers the die's f by one step at a time to 4/64, one of 115 C sets the latch with its die
and node and turns the converters off; a sensor above 105 C for 1 ms limits every die to 16/64; while the latch is set cold start waits,
and once every sensor reads below 90 C the latch is cleared, its journal record waits to be written, and the start goes on (R460, R466 to R468). COMPLETES:
sensorSample, hotSensorTimeout and latchSensorRead, for the readings stated here.

The model's own choices enter through logs 60, 63, 64 and 81. -/
def Obligations.PowerAndTemperature : Prop :=
  (∀ (s : State) (mv ma : Nat),
     (s.power.stage ≠ .off → s.power.warning = false → resetMv < mv → mv ≤ warnMv → ∃ t, exec (.supplyWarning mv) s = .next t ∧
       t.power.warning = true ∧ t.power.alertPin = true ∧ t.flash.suspended = true ∧ capInForce t ≤ 1500 ∧
       Out.pin "PWR_ALERT#" true ∈ t.out ∧ ∀ d, d < dieCount s.variant → (die t d).fLoop = 4 ∧ issueFraction t d ≤ 4) ∧
     (s.power.stage ≠ .off → s.power.warning = true → clearMv ≤ mv → ∃ t, exec (.warningCleared mv) s = .next t ∧
       t.power.warning = false ∧ t.power.alertPin = false ∧ t.flash.suspended = false ∧ Out.pin "PWR_ALERT#" false ∈ t.out ∧
       t.image.cap = s.image.cap ∧ t.power.capReg = s.power.capReg ∧ t.dies = s.dies) ∧
     (powered s = true → ∃ t, exec (.currentSample mv ma) s = .next t ∧ t.power.inputMv = mv ∧ t.power.inputMa = ma ∧
       1000000 * t.power.energy + t.power.energyPj = 1000000 * s.power.energy + s.power.energyPj + mv * ma ∧
       (ma ≤ 72000 → t.dies = s.dies) ∧ (72000 < ma → ∀ d, d < dieCount s.variant → (die t d).fLoop = Nat.min (die s d).fLoop 16)) ∧
     (powered s = true → ∃ t, exec .powerCapLoop s = .next t ∧ (∀ c, (cluster t c).activity = []) ∧
       (capInForce s * 1000000 < loopMean s → ∀ d, d < dieCount s.variant →
         (4 < (die s d).fLoop → (∀ e, e < dieCount s.variant → 4 < (die s e).fLoop → dieRank s d ≤ dieRank s e) →
           (die t d).fLoop = (die s d).fLoop - 1) ∧
         ((die s d).fLoop ≤ 4 ∨ (∃ e, e < dieCount s.variant ∧ 4 < (die s e).fLoop ∧ dieRank s e < dieRank s d) →
           (die t d).fLoop = (die s d).fLoop)) ∧
       (loopMean s ≤ capInForce s * 1000000 → 95 * (capInForce s * 1000000) ≤ 100 * loopMean s → t = clearActivity s) ∧
       (100 * loopMean s < 95 * (capInForce s * 1000000) → ∀ d, d < dieCount s.variant → (die t d).fLoop = Nat.min 64 ((die s d).fLoop + 1))) ∧
     (∀ d n, dieOk d = true → Sys2Proof.nodeOk n = true → d ≠ 8 → powered s = true → present s d = true → ∃ t,
       exec (.droopTrip d n) s = .next t ∧ (die t d).withholding = true ∧
       (die t d).trippedNodes = (if (die s d).withholding then (die s d).trippedNodes ||| bit16 n else bit16 n) ∧
       ((die s d).withholding = false → (die t d).withholdStart = s.portTime)) ∧
     (∀ d, dieOk d = true → d < dieCount s.variant → (die s d).withholding = true →
       (∃ t, exec (.droopEnd d) s = .next t ∧ (die t d).withholding = false ∧ (die t d).fLoop = (die s d).fLoop) ∧
       ∃ t, exec (.droopLimit d) s = .next t ∧ (die t d).withholding = false ∧ (die t d).fLoop = Nat.min (die s d).fLoop 16) ∧
     (∀ p, partOk p = true → alive s = true → (∀ d, d < dieCount s.variant → (die s d).fSince = 0) →
       (s.portTime.toNat < (part s p).wEnd.toNat + msUnits → exec (.withholdSummary p) s = .next s) ∧
       ((part s p).wEnd.toNat + msUnits ≤ s.portTime.toNat → ∃ t, exec (.withholdSummary p) s = .next t ∧ (part t p).wCount = 0)) ∧
     (∀ d, dieOk d = true → alive s = true → s.restart.active = false → present s d = true → ∃ t, exec (.ageingMonitorRead d true) s = .next t ∧
       ((die s d).voff < 20 → (die t d).voff = (die s d).voff + 5 ∧ (s.flash.waiting.length < 1024 →
         t.flash.waiting = s.flash.waiting ++ [{ type := 2, key := [d], payload := [(die s d).voff + 5] }])) ∧
       (20 ≤ (die s d).voff → (die t d).voff = (die s d).voff ∧ (ageRecorded s d = false → t.power.age = true))) ∧
     ∀ n, n < 5 → powered s = true → exec (.controlComplexStepChange n) s = .next { s with power := { s.power with ccStep := n } }) ∧
  ((∀ (s : State) (d n : Nat) (v : Int), (dieOk d && sensorOk n) = true → powered s = true → present s d = true → n < sensorCount d →
     (1150 ≤ v → ∃ t, exec (.sensorSample d n v) s = .next t ∧ t.power.stage = .off ∧ t.power.latch = some (d, n) ∧ t.power.tripPin = true ∧
       t.power.coldCause = 4 ∧ Out.pin "THERM_TRIP#" true ∈ t.out ∧ t.mem = [] ∧ t.flash.journal = s.flash.journal) ∧
     (v < 1150 → ∃ t, exec (.sensorSample d n v) s = .next t ∧ look 250 (die t d).temps n = v ∧ t.mem = s.mem ∧
       (1000 ≤ v → d ≠ 8 → (die s d).thermAt = 0 ∨ (die s d).thermAt + 999 ≤ (die s d).time.toNat →
         (die t d).fTherm = Nat.max 4 ((die s d).fTherm - 1) ∧ (die t d).thermLimiting = true))) ∧
   (∀ s : State, powered s = true → s.power.hot = false → overHot s = true → ∃ t, exec .hotSensorTimeout s = .next t ∧ t.power.hot = true ∧
     ∀ d, d < dieCount s.variant → issueFraction t d ≤ 16) ∧
   ∀ (s : State) (v : Int) (d n : Nat), s.power.latch = some (d, n) → s.power.stage = .cold →
     (900 ≤ v → exec (.latchSensorRead v) s = .next { s with power := { s.power with latchTemp := v } }) ∧
     (othersBelow s d n 900 = false → exec (.latchSensorRead v) s = .next { s with power := { s.power with latchTemp := v } }) ∧
     (v < 900 → othersBelow s d n 900 = true → ∃ t, exec (.latchSensorRead v) s = .next t ∧ t.power.latch = none ∧
       t.power.tripPin = false ∧ t.power.coldCause = 4 ∧ Out.pin "THERM_TRIP#" false ∈ t.out ∧ (s.flash.waiting.length < 1024 →
         ∃ r, t.flash.waiting = s.flash.waiting ++ [r] ∧ r.type = 3 ∧ r.key = [d, n])))

/-- Cold start zeroes memory, generates a pair of keys, invalidates the slices of the dies that serve, whose enables follow, and leads to
DEV_STATUS.ST 0; reduced service follows when every die has been tested or is held out and the caches are enabled, full service when the
ledger test has set LEDGER or found a crusher of the IOD bad, and then the first admission pass is made. While a sensor is too cold, the
latch is set, or no link trains, the module stays in cold start (R215, R219, R250, R467, R516 to R522; log 65). COMPLETES: coldStart,
reducedService and fullService, for every state in which the step is due.

Self-tests at start-up: a die that passes its logic test takes teams, one that fails it is held out with cause 7; a cluster that
fails is fenced; a die that passes the ledger test keeps that, one whose crusher fails it is held out with cause 8. The last part of a
requested test ends it with its result and returns the die (R519 to R521, R528, R532, R545; log 57). COMPLETES: logicSelfTestDone and
ledgerSelfTestDone, for the dies and clusters under test.

The model's own choices enter through log 65. -/
def Obligations.StartAndSelfTests : Prop :=
  (∀ s : State,
     (s.power.stage = .cold → sensorsAllow s = true → startBlocked s = false → ∃ t, exec .coldStart s = .next t ∧
       t.power.stage = .running ∧ t.mem = [] ∧ t.poison = [] ∧ t.dev.st = 0 ∧ t.dev.gen = 0 ∧ t.sec.idReady = true ∧
       t.sec.key1 ≠ t.sec.key2 ∧ ∀ i ∈ allSlices s.variant, (sliceOf t i).enabled = false ∧ (sliceOf t i).lines = [] ∧
         (sliceOf t i).invalidated = (dieServes t (i / 16) && !(die t (i / 16)).slFenced.getLsbD (i % 16))) ∧
     (s.power.stage ≠ .cold ∨ sensorsAllow s = false ∨ startBlocked s = true → exec .coldStart s = .next s) ∧
     (alive s = true → s.dev.st = 0 → diesTested s = true → cachesOn s = true →
       exec .reducedService s = .next { s with dev := { s.dev with st := 1 } }) ∧
     (s.dev.st ≠ 0 ∨ diesTested s = false ∨ cachesOn s = false → exec .reducedService s = .next s) ∧
     (alive s = true → s.dev.st = 1 → s.dev.ledger = true ∨ s.dev.iodCrusherFailed = true → diesTested s = true →
       ∃ t, exec .fullService s = .next t ∧ t.dev.st = 2 ∧
         t.admission.admitted = admits (returnAllL { s with dev := { s.dev with st := 2 } }) ∧ t.admission.passDue = false)) ∧
  (∀ (s : State) (d : Nat), s.power.stage = .running → d < 8 → notTested s d = false → (TestUnit.die d).ok = true →
     (s.dev.testBusy = false → (die s d).state = .testing →
       (∃ t, exec (.logicSelfTestDone (.die d) true) s = .next t ∧ (die t d).logicPassed = true ∧
         ((die s d).retest = false → (die t d).state = .inService) ∧ ((die s d).retest = true → (die s d).ledgerPassed = false →
           (die t d).state = .testing)) ∧
       (∃ t, exec (.logicSelfTestDone (.die d) false) s = .next t ∧ (die t d).state = .heldOut ∧ (die t d).hold = 7) ∧
       (∀ c, c < 16 → (TestUnit.cluster d c).ok = true → ∃ t, exec (.logicSelfTestDone (.cluster d c) false) s = .next t ∧
         (die t d).clFenced.getLsbD c = true ∧ (die t d).state = .testing) ∧
       ((die s d).logicPassed = true → ∃ t, exec (.ledgerSelfTestDone (.die d) false true) s = .next t ∧ (die t d).ledgerPassed = true ∧
         (die t d).state = .inService) ∧
       ∃ t, exec (.ledgerSelfTestDone (.die d) true false) s = .next t ∧ (die t d).state = .heldOut ∧ (die t d).hold = 8) ∧
     (s.dev.testBusy = true → s.dev.testScope = 1 → s.dev.testDie = d → s.dev.testLeft = [2 * d] → s.dev.testFailCl = 0 →
       s.dev.testFailed = [] → s.dev.testFailDie = 0 → ∃ t, exec (.logicSelfTestDone (.die d) true) s = .next t ∧ t.dev.testBusy = false ∧ t.dev.testResult = 1 ∧
         t.dev.testLeft = [] ∧ t.admission.passDue = true ∧
         ((die s d).state = .testing → (die t d).state = .inService)))

/-- Detection and the warm restart: a lost oscillator, a watchdog or a firmware watchdog raises the domain-fatal condition; the sequence
then counts a generation, enters ST 3, discards the groups, accesses, tasks and open lines and keeps the launches, fresh, and the keys; a
third attempt, or the IOD a suspect again, ends in a cold start. When the suspects have been tested, stockpile memory has retrained and
the caches are enabled, it resumes in the state before it, and a command of a record that cannot be read fails with 0xF4 (R55, R219, R301,
R302, R525, R527, R534 to R541; log 66). COMPLETES: oscillatorCheck, watchdogExpiry, firmwareWatchdog, domainFatal and restartResume, for
the states in which each has its effect.

The model's own choices enter through log 66. -/
def Obligations.WarmRestart : Prop :=
  (∀ (s : State) (d : Nat), dieOk d = true → alive s = true → dieServes s d = true →
    (∀ ppm stopped, upkeep s = true → stopped = true ∨ 50000 < Int.natAbs ppm → ∃ t, exec (.oscillatorCheck d ppm stopped) s = .next t ∧
      t.restart.fatal = true ∧ (s.restart.fatal = false → t.restart.fatalCause = 8) ∧ (d ≠ 8 → (die t d).holdNext = 5) ∧
      (die t d).oscOk = !stopped) ∧
    (∀ face, watchdogOut s d = true → ∃ t, exec (.watchdogExpiry d face) s = .next t ∧ t.restart.fatal = true ∧ t.restart.fatalDies = s.restart.fatalDies ||| bit9 d ∧
      (s.restart.fatal = false → t.restart.fatalCause = 7) ∧ (face = true → d ≠ 8 → (die t d).holdNext = 6)) ∧
    ∃ t, exec .firmwareWatchdog s = .next t ∧ t.restart.fatal = true ∧ (s.restart.fatal = false → t.restart.fatalCause = 9)) ∧
  (∀ (s : State) (cause : Byte) (suspects : BitVec 9), alive s = true → s.restart.fatal = false → 1 ≤ cause.toNat → cause.toNat ≤ 9 →
    (s.restart.active = false → ∃ t, exec (.domainFatal cause suspects) s = .next t ∧ t.restart.active = true ∧ t.restart.attempt = 1 ∧
      t.restart.cause = cause.toNat ∧ t.restart.suspect = suspects ∧ t.restart.prevState = (if s.dev.testBusy = true ∧ s.dev.testScope = 2
        then s.dev.testPrev else s.dev.st) ∧ t.dev.gen = s.dev.gen + 1 ∧ t.dev.st = 3 ∧ t.groups = [] ∧ t.accs = [] ∧ t.tasks = [] ∧
      t.crushers = [] ∧ t.sec.key1 = s.sec.key1 ∧ t.sec.key2 = s.sec.key2 ∧ t.launches.map (·.id) = s.launches.map (·.id) ∧ (∀ l ∈ t.launches, l.started = false ∧ l.nodes = [])) ∧
    (s.restart.active = true → s.restart.attempt = 1 → s.restart.suspect.getLsbD 8 = false ∨ suspects.getLsbD 8 = false →
      ∃ t, exec (.domainFatal cause suspects) s = .next t ∧ t.restart.active = true ∧ t.restart.attempt = 2 ∧
        t.restart.prevState = s.restart.prevState ∧ t.restart.suspect = s.restart.suspect ||| suspects ∧ t.dev.gen = s.dev.gen + 1 ∧ t.dev.st = 3) ∧
    (s.restart.active = true → 2 ≤ s.restart.attempt ∨ (s.restart.suspect.getLsbD 8 = true ∧ suspects.getLsbD 8 = true) → s.power.resetLow = false → s.power.flashEnLow = false → ∃ t,
      exec (.domainFatal cause suspects) s = .next t ∧ t.power.stage = .cold ∧ t.mem = [] ∧
      (s.power.latch = none → t.power.coldCause = 5))) ∧
  ∀ (s : State) (unreadable : List Nat), alive s = true → s.restart.active = true → s.restart.fatal = false →
    (suspectsTested s = true → stockReady s = true → cachesOn s = true → ∃ t, exec (.restartResume unreadable) s = .next t ∧ t.restart.active = false ∧
      t.dev.st = s.restart.prevState ∧ t.dev.gen = s.dev.gen) ∧
    (suspectsTested s = false ∨ stockReady s = false ∨ cachesOn s = false → exec (.restartResume unreadable) s = .next s) ∧
    ∀ p c, disposal unreadable p c = (if recordNumber p c ∈ unreadable then 0xF4 else if cOp c = 0x01 then
      (if c.fate ≠ 0 then c.fate.toNat else if c.replays = 1 then 0xF3 else 0) else if cOp c = 0x8B then 0xA5 else 0)

/-- Keys, journal and quote: a die takes the keys if they unwrap and answers, unless it is held out (R510); JOURNAL_PROGRAM programs the
oldest record that waits, unless the flash is suspended, and ERROR_SNAPSHOT adds the record of the error counters (R507, R530);
QUOTE_COMPLETE writes the quote, sets DONE, clears BUSY and counts (R511, R512; log 10). COMPLETES: keyLoad, journalProgram,
errorSnapshot and quoteComplete, for the states stated here.

The model's own choices enter through log 10. -/
def Obligations.KeysJournalQuote : Prop :=
  (∀ (s : State) (d : Nat) (ok : Bool), d < dieCount s.variant → dieOk d = true → s.power.stage = .cold ∨ s.power.stage = .running →
    ((die s d).state ≠ .heldOut → exec (.keyLoad d ok) s = .next (emit (modDie s d fun u => { u with keyed := ok })
      (.ack (.key d) (if ok then 0 else 0xF)))) ∧
    ((die s d).state = .heldOut → exec (.keyLoad d ok) s = .next s)) ∧
  (∀ (s : State) (r : JRec) (rs : List JRec), s.flash.waiting = r :: rs →
    (s.flash.suspended = true → exec .journalProgram s = .next s) ∧
    (s.flash.suspended = false → ∃ t, exec .journalProgram s = .next t ∧ t.flash.waiting = rs ∧ r ∈ t.flash.journal ∧
      t.flash.bytes = s.flash.bytes)) ∧
  (∀ s : State, alive s = true → s.restart.active = false → s.flash.waiting.length < 1024 → exec .errorSnapshot s = .next { s with
    flash := { s.flash with waiting := s.flash.waiting ++ [snapshotRecord s] } }) ∧
  ∀ s : State, alive s = true → s.sec.busy = true → s.restart.active = false → ∃ t, exec .quoteComplete s = .next t ∧
    t.sec.done = true ∧ t.sec.busy = false ∧ t.sec.count = s.sec.count + 1 ∧ t.sec.quote.take (quoteBody s).length = quoteBody s ∧
    t.mem = s.mem ∧ t.out = s.out
end

