-- ==== Sys2Proof/Laws/State.lean ====
section
/-! SUPPORT. What each update of one part of the state leaves: every other field of `State`, by `rfl`. -/

namespace Sys2Proof.Machine

variable (s : State)

/-! ### emit -/

@[simp] theorem emit_pending (o : Out) : (emit s o).pending = s.pending := rfl
@[simp] theorem emit_free (o : Out) : (emit s o).free = s.free := rfl
@[simp] theorem emit_nextTag (o : Out) : (emit s o).nextTag = s.nextTag := rfl
@[simp] theorem emit_nextTask (o : Out) : (emit s o).nextTask = s.nextTask := rfl
@[simp] theorem emit_nextLaunch (o : Out) : (emit s o).nextLaunch = s.nextLaunch := rfl
@[simp] theorem emit_portTime (o : Out) : (emit s o).portTime = s.portTime := rfl
@[simp] theorem emit_portPhase (o : Out) : (emit s o).portPhase = s.portPhase := rfl
@[simp] theorem emit_variant (o : Out) : (emit s o).variant = s.variant := rfl
@[simp] theorem emit_serial (o : Out) : (emit s o).serial = s.serial := rfl
@[simp] theorem emit_baseMac (o : Out) : (emit s o).baseMac = s.baseMac := rfl
@[simp] theorem emit_dieWords (o : Out) : (emit s o).dieWords = s.dieWords := rfl
@[simp] theorem emit_mem (o : Out) : (emit s o).mem = s.mem := rfl
@[simp] theorem emit_poison (o : Out) : (emit s o).poison = s.poison := rfl
@[simp] theorem emit_retired (o : Out) : (emit s o).retired = s.retired := rfl
@[simp] theorem emit_ceHistory (o : Out) : (emit s o).ceHistory = s.ceHistory := rfl
@[simp] theorem emit_chans (o : Out) : (emit s o).chans = s.chans := rfl
@[simp] theorem emit_dies (o : Out) : (emit s o).dies = s.dies := rfl
@[simp] theorem emit_clusters (o : Out) : (emit s o).clusters = s.clusters := rfl
@[simp] theorem emit_groups (o : Out) : (emit s o).groups = s.groups := rfl
@[simp] theorem emit_accs (o : Out) : (emit s o).accs = s.accs := rfl
@[simp] theorem emit_slices (o : Out) : (emit s o).slices = s.slices := rfl
@[simp] theorem emit_crushers (o : Out) : (emit s o).crushers = s.crushers := rfl
@[simp] theorem emit_links (o : Out) : (emit s o).links = s.links := rfl
@[simp] theorem emit_parts (o : Out) : (emit s o).parts = s.parts := rfl
@[simp] theorem emit_launches (o : Out) : (emit s o).launches = s.launches := rfl
@[simp] theorem emit_tasks (o : Out) : (emit s o).tasks = s.tasks := rfl
@[simp] theorem emit_admission (o : Out) : (emit s o).admission = s.admission := rfl
@[simp] theorem emit_shareAt (o : Out) : (emit s o).shareAt = s.shareAt := rfl
@[simp] theorem emit_ports (o : Out) : (emit s o).ports = s.ports := rfl
@[simp] theorem emit_qps (o : Out) : (emit s o).qps = s.qps := rfl
@[simp] theorem emit_image (o : Out) : (emit s o).image = s.image := rfl
@[simp] theorem emit_flash (o : Out) : (emit s o).flash = s.flash := rfl
@[simp] theorem emit_power (o : Out) : (emit s o).power = s.power := rfl
@[simp] theorem emit_restart (o : Out) : (emit s o).restart = s.restart := rfl
@[simp] theorem emit_dev (o : Out) : (emit s o).dev = s.dev := rfl
@[simp] theorem emit_sec (o : Out) : (emit s o).sec = s.sec := rfl

/-! ### emits -/

@[simp] theorem emits_pending (os : List Out) : (emits s os).pending = s.pending := rfl
@[simp] theorem emits_free (os : List Out) : (emits s os).free = s.free := rfl
@[simp] theorem emits_nextTag (os : List Out) : (emits s os).nextTag = s.nextTag := rfl
@[simp] theorem emits_nextTask (os : List Out) : (emits s os).nextTask = s.nextTask := rfl
@[simp] theorem emits_nextLaunch (os : List Out) : (emits s os).nextLaunch = s.nextLaunch := rfl
@[simp] theorem emits_portTime (os : List Out) : (emits s os).portTime = s.portTime := rfl
@[simp] theorem emits_portPhase (os : List Out) : (emits s os).portPhase = s.portPhase := rfl
@[simp] theorem emits_variant (os : List Out) : (emits s os).variant = s.variant := rfl
@[simp] theorem emits_serial (os : List Out) : (emits s os).serial = s.serial := rfl
@[simp] theorem emits_baseMac (os : List Out) : (emits s os).baseMac = s.baseMac := rfl
@[simp] theorem emits_dieWords (os : List Out) : (emits s os).dieWords = s.dieWords := rfl
@[simp] theorem emits_mem (os : List Out) : (emits s os).mem = s.mem := rfl
@[simp] theorem emits_poison (os : List Out) : (emits s os).poison = s.poison := rfl
@[simp] theorem emits_retired (os : List Out) : (emits s os).retired = s.retired := rfl
@[simp] theorem emits_ceHistory (os : List Out) : (emits s os).ceHistory = s.ceHistory := rfl
@[simp] theorem emits_chans (os : List Out) : (emits s os).chans = s.chans := rfl
@[simp] theorem emits_dies (os : List Out) : (emits s os).dies = s.dies := rfl
@[simp] theorem emits_clusters (os : List Out) : (emits s os).clusters = s.clusters := rfl
@[simp] theorem emits_groups (os : List Out) : (emits s os).groups = s.groups := rfl
@[simp] theorem emits_accs (os : List Out) : (emits s os).accs = s.accs := rfl
@[simp] theorem emits_slices (os : List Out) : (emits s os).slices = s.slices := rfl
@[simp] theorem emits_crushers (os : List Out) : (emits s os).crushers = s.crushers := rfl
@[simp] theorem emits_links (os : List Out) : (emits s os).links = s.links := rfl
@[simp] theorem emits_parts (os : List Out) : (emits s os).parts = s.parts := rfl
@[simp] theorem emits_launches (os : List Out) : (emits s os).launches = s.launches := rfl
@[simp] theorem emits_tasks (os : List Out) : (emits s os).tasks = s.tasks := rfl
@[simp] theorem emits_admission (os : List Out) : (emits s os).admission = s.admission := rfl
@[simp] theorem emits_shareAt (os : List Out) : (emits s os).shareAt = s.shareAt := rfl
@[simp] theorem emits_ports (os : List Out) : (emits s os).ports = s.ports := rfl
@[simp] theorem emits_qps (os : List Out) : (emits s os).qps = s.qps := rfl
@[simp] theorem emits_image (os : List Out) : (emits s os).image = s.image := rfl
@[simp] theorem emits_flash (os : List Out) : (emits s os).flash = s.flash := rfl
@[simp] theorem emits_power (os : List Out) : (emits s os).power = s.power := rfl
@[simp] theorem emits_restart (os : List Out) : (emits s os).restart = s.restart := rfl
@[simp] theorem emits_dev (os : List Out) : (emits s os).dev = s.dev := rfl
@[simp] theorem emits_sec (os : List Out) : (emits s os).sec = s.sec := rfl

/-! ### setDie -/

@[simp] theorem setDie_pending (d : Nat) (v : Die) : (setDie s d v).pending = s.pending := rfl
@[simp] theorem setDie_out (d : Nat) (v : Die) : (setDie s d v).out = s.out := rfl
@[simp] theorem setDie_free (d : Nat) (v : Die) : (setDie s d v).free = s.free := rfl
@[simp] theorem setDie_nextTag (d : Nat) (v : Die) : (setDie s d v).nextTag = s.nextTag := rfl
@[simp] theorem setDie_nextTask (d : Nat) (v : Die) : (setDie s d v).nextTask = s.nextTask := rfl
@[simp] theorem setDie_nextLaunch (d : Nat) (v : Die) : (setDie s d v).nextLaunch = s.nextLaunch := rfl
@[simp] theorem setDie_portTime (d : Nat) (v : Die) : (setDie s d v).portTime = s.portTime := rfl
@[simp] theorem setDie_portPhase (d : Nat) (v : Die) : (setDie s d v).portPhase = s.portPhase := rfl
@[simp] theorem setDie_variant (d : Nat) (v : Die) : (setDie s d v).variant = s.variant := rfl
@[simp] theorem setDie_serial (d : Nat) (v : Die) : (setDie s d v).serial = s.serial := rfl
@[simp] theorem setDie_baseMac (d : Nat) (v : Die) : (setDie s d v).baseMac = s.baseMac := rfl
@[simp] theorem setDie_dieWords (d : Nat) (v : Die) : (setDie s d v).dieWords = s.dieWords := rfl
@[simp] theorem setDie_mem (d : Nat) (v : Die) : (setDie s d v).mem = s.mem := rfl
@[simp] theorem setDie_poison (d : Nat) (v : Die) : (setDie s d v).poison = s.poison := rfl
@[simp] theorem setDie_retired (d : Nat) (v : Die) : (setDie s d v).retired = s.retired := rfl
@[simp] theorem setDie_ceHistory (d : Nat) (v : Die) : (setDie s d v).ceHistory = s.ceHistory := rfl
@[simp] theorem setDie_chans (d : Nat) (v : Die) : (setDie s d v).chans = s.chans := rfl
@[simp] theorem setDie_clusters (d : Nat) (v : Die) : (setDie s d v).clusters = s.clusters := rfl
@[simp] theorem setDie_groups (d : Nat) (v : Die) : (setDie s d v).groups = s.groups := rfl
@[simp] theorem setDie_accs (d : Nat) (v : Die) : (setDie s d v).accs = s.accs := rfl
@[simp] theorem setDie_slices (d : Nat) (v : Die) : (setDie s d v).slices = s.slices := rfl
@[simp] theorem setDie_crushers (d : Nat) (v : Die) : (setDie s d v).crushers = s.crushers := rfl
@[simp] theorem setDie_links (d : Nat) (v : Die) : (setDie s d v).links = s.links := rfl
@[simp] theorem setDie_parts (d : Nat) (v : Die) : (setDie s d v).parts = s.parts := rfl
@[simp] theorem setDie_launches (d : Nat) (v : Die) : (setDie s d v).launches = s.launches := rfl
@[simp] theorem setDie_tasks (d : Nat) (v : Die) : (setDie s d v).tasks = s.tasks := rfl
@[simp] theorem setDie_admission (d : Nat) (v : Die) : (setDie s d v).admission = s.admission := rfl
@[simp] theorem setDie_shareAt (d : Nat) (v : Die) : (setDie s d v).shareAt = s.shareAt := rfl
@[simp] theorem setDie_ports (d : Nat) (v : Die) : (setDie s d v).ports = s.ports := rfl
@[simp] theorem setDie_qps (d : Nat) (v : Die) : (setDie s d v).qps = s.qps := rfl
@[simp] theorem setDie_image (d : Nat) (v : Die) : (setDie s d v).image = s.image := rfl
@[simp] theorem setDie_flash (d : Nat) (v : Die) : (setDie s d v).flash = s.flash := rfl
@[simp] theorem setDie_power (d : Nat) (v : Die) : (setDie s d v).power = s.power := rfl
@[simp] theorem setDie_restart (d : Nat) (v : Die) : (setDie s d v).restart = s.restart := rfl
@[simp] theorem setDie_dev (d : Nat) (v : Die) : (setDie s d v).dev = s.dev := rfl
@[simp] theorem setDie_sec (d : Nat) (v : Die) : (setDie s d v).sec = s.sec := rfl

/-! ### setCluster -/

@[simp] theorem setCluster_pending (c : Nat) (v : Cluster) : (setCluster s c v).pending = s.pending := rfl
@[simp] theorem setCluster_out (c : Nat) (v : Cluster) : (setCluster s c v).out = s.out := rfl
@[simp] theorem setCluster_free (c : Nat) (v : Cluster) : (setCluster s c v).free = s.free := rfl
@[simp] theorem setCluster_nextTag (c : Nat) (v : Cluster) : (setCluster s c v).nextTag = s.nextTag := rfl
@[simp] theorem setCluster_nextTask (c : Nat) (v : Cluster) : (setCluster s c v).nextTask = s.nextTask := rfl
@[simp] theorem setCluster_nextLaunch (c : Nat) (v : Cluster) : (setCluster s c v).nextLaunch = s.nextLaunch := rfl
@[simp] theorem setCluster_portTime (c : Nat) (v : Cluster) : (setCluster s c v).portTime = s.portTime := rfl
@[simp] theorem setCluster_portPhase (c : Nat) (v : Cluster) : (setCluster s c v).portPhase = s.portPhase := rfl
@[simp] theorem setCluster_variant (c : Nat) (v : Cluster) : (setCluster s c v).variant = s.variant := rfl
@[simp] theorem setCluster_serial (c : Nat) (v : Cluster) : (setCluster s c v).serial = s.serial := rfl
@[simp] theorem setCluster_baseMac (c : Nat) (v : Cluster) : (setCluster s c v).baseMac = s.baseMac := rfl
@[simp] theorem setCluster_dieWords (c : Nat) (v : Cluster) : (setCluster s c v).dieWords = s.dieWords := rfl
@[simp] theorem setCluster_mem (c : Nat) (v : Cluster) : (setCluster s c v).mem = s.mem := rfl
@[simp] theorem setCluster_poison (c : Nat) (v : Cluster) : (setCluster s c v).poison = s.poison := rfl
@[simp] theorem setCluster_retired (c : Nat) (v : Cluster) : (setCluster s c v).retired = s.retired := rfl
@[simp] theorem setCluster_ceHistory (c : Nat) (v : Cluster) : (setCluster s c v).ceHistory = s.ceHistory := rfl
@[simp] theorem setCluster_chans (c : Nat) (v : Cluster) : (setCluster s c v).chans = s.chans := rfl
@[simp] theorem setCluster_dies (c : Nat) (v : Cluster) : (setCluster s c v).dies = s.dies := rfl
@[simp] theorem setCluster_groups (c : Nat) (v : Cluster) : (setCluster s c v).groups = s.groups := rfl
@[simp] theorem setCluster_accs (c : Nat) (v : Cluster) : (setCluster s c v).accs = s.accs := rfl
@[simp] theorem setCluster_slices (c : Nat) (v : Cluster) : (setCluster s c v).slices = s.slices := rfl
@[simp] theorem setCluster_crushers (c : Nat) (v : Cluster) : (setCluster s c v).crushers = s.crushers := rfl
@[simp] theorem setCluster_links (c : Nat) (v : Cluster) : (setCluster s c v).links = s.links := rfl
@[simp] theorem setCluster_parts (c : Nat) (v : Cluster) : (setCluster s c v).parts = s.parts := rfl
@[simp] theorem setCluster_launches (c : Nat) (v : Cluster) : (setCluster s c v).launches = s.launches := rfl
@[simp] theorem setCluster_tasks (c : Nat) (v : Cluster) : (setCluster s c v).tasks = s.tasks := rfl
@[simp] theorem setCluster_admission (c : Nat) (v : Cluster) : (setCluster s c v).admission = s.admission := rfl
@[simp] theorem setCluster_shareAt (c : Nat) (v : Cluster) : (setCluster s c v).shareAt = s.shareAt := rfl
@[simp] theorem setCluster_ports (c : Nat) (v : Cluster) : (setCluster s c v).ports = s.ports := rfl
@[simp] theorem setCluster_qps (c : Nat) (v : Cluster) : (setCluster s c v).qps = s.qps := rfl
@[simp] theorem setCluster_image (c : Nat) (v : Cluster) : (setCluster s c v).image = s.image := rfl
@[simp] theorem setCluster_flash (c : Nat) (v : Cluster) : (setCluster s c v).flash = s.flash := rfl
@[simp] theorem setCluster_power (c : Nat) (v : Cluster) : (setCluster s c v).power = s.power := rfl
@[simp] theorem setCluster_restart (c : Nat) (v : Cluster) : (setCluster s c v).restart = s.restart := rfl
@[simp] theorem setCluster_dev (c : Nat) (v : Cluster) : (setCluster s c v).dev = s.dev := rfl
@[simp] theorem setCluster_sec (c : Nat) (v : Cluster) : (setCluster s c v).sec = s.sec := rfl

/-! ### setGroup -/

@[simp] theorem setGroup_pending (g : Nat) (v : Option Group) : (setGroup s g v).pending = s.pending := rfl
@[simp] theorem setGroup_out (g : Nat) (v : Option Group) : (setGroup s g v).out = s.out := rfl
@[simp] theorem setGroup_free (g : Nat) (v : Option Group) : (setGroup s g v).free = s.free := rfl
@[simp] theorem setGroup_nextTag (g : Nat) (v : Option Group) : (setGroup s g v).nextTag = s.nextTag := rfl
@[simp] theorem setGroup_nextTask (g : Nat) (v : Option Group) : (setGroup s g v).nextTask = s.nextTask := rfl
@[simp] theorem setGroup_nextLaunch (g : Nat) (v : Option Group) : (setGroup s g v).nextLaunch = s.nextLaunch := rfl
@[simp] theorem setGroup_portTime (g : Nat) (v : Option Group) : (setGroup s g v).portTime = s.portTime := rfl
@[simp] theorem setGroup_portPhase (g : Nat) (v : Option Group) : (setGroup s g v).portPhase = s.portPhase := rfl
@[simp] theorem setGroup_variant (g : Nat) (v : Option Group) : (setGroup s g v).variant = s.variant := rfl
@[simp] theorem setGroup_serial (g : Nat) (v : Option Group) : (setGroup s g v).serial = s.serial := rfl
@[simp] theorem setGroup_baseMac (g : Nat) (v : Option Group) : (setGroup s g v).baseMac = s.baseMac := rfl
@[simp] theorem setGroup_dieWords (g : Nat) (v : Option Group) : (setGroup s g v).dieWords = s.dieWords := rfl
@[simp] theorem setGroup_mem (g : Nat) (v : Option Group) : (setGroup s g v).mem = s.mem := rfl
@[simp] theorem setGroup_poison (g : Nat) (v : Option Group) : (setGroup s g v).poison = s.poison := rfl
@[simp] theorem setGroup_retired (g : Nat) (v : Option Group) : (setGroup s g v).retired = s.retired := rfl
@[simp] theorem setGroup_ceHistory (g : Nat) (v : Option Group) : (setGroup s g v).ceHistory = s.ceHistory := rfl
@[simp] theorem setGroup_chans (g : Nat) (v : Option Group) : (setGroup s g v).chans = s.chans := rfl
@[simp] theorem setGroup_dies (g : Nat) (v : Option Group) : (setGroup s g v).dies = s.dies := rfl
@[simp] theorem setGroup_clusters (g : Nat) (v : Option Group) : (setGroup s g v).clusters = s.clusters := rfl
@[simp] theorem setGroup_accs (g : Nat) (v : Option Group) : (setGroup s g v).accs = s.accs := rfl
@[simp] theorem setGroup_slices (g : Nat) (v : Option Group) : (setGroup s g v).slices = s.slices := rfl
@[simp] theorem setGroup_crushers (g : Nat) (v : Option Group) : (setGroup s g v).crushers = s.crushers := rfl
@[simp] theorem setGroup_links (g : Nat) (v : Option Group) : (setGroup s g v).links = s.links := rfl
@[simp] theorem setGroup_parts (g : Nat) (v : Option Group) : (setGroup s g v).parts = s.parts := rfl
@[simp] theorem setGroup_launches (g : Nat) (v : Option Group) : (setGroup s g v).launches = s.launches := rfl
@[simp] theorem setGroup_tasks (g : Nat) (v : Option Group) : (setGroup s g v).tasks = s.tasks := rfl
@[simp] theorem setGroup_admission (g : Nat) (v : Option Group) : (setGroup s g v).admission = s.admission := rfl
@[simp] theorem setGroup_shareAt (g : Nat) (v : Option Group) : (setGroup s g v).shareAt = s.shareAt := rfl
@[simp] theorem setGroup_ports (g : Nat) (v : Option Group) : (setGroup s g v).ports = s.ports := rfl
@[simp] theorem setGroup_qps (g : Nat) (v : Option Group) : (setGroup s g v).qps = s.qps := rfl
@[simp] theorem setGroup_image (g : Nat) (v : Option Group) : (setGroup s g v).image = s.image := rfl
@[simp] theorem setGroup_flash (g : Nat) (v : Option Group) : (setGroup s g v).flash = s.flash := rfl
@[simp] theorem setGroup_power (g : Nat) (v : Option Group) : (setGroup s g v).power = s.power := rfl
@[simp] theorem setGroup_restart (g : Nat) (v : Option Group) : (setGroup s g v).restart = s.restart := rfl
@[simp] theorem setGroup_dev (g : Nat) (v : Option Group) : (setGroup s g v).dev = s.dev := rfl
@[simp] theorem setGroup_sec (g : Nat) (v : Option Group) : (setGroup s g v).sec = s.sec := rfl

/-! ### setSlice -/

@[simp] theorem setSlice_pending (i : Nat) (v : Slice) : (setSlice s i v).pending = s.pending := rfl
@[simp] theorem setSlice_out (i : Nat) (v : Slice) : (setSlice s i v).out = s.out := rfl
@[simp] theorem setSlice_free (i : Nat) (v : Slice) : (setSlice s i v).free = s.free := rfl
@[simp] theorem setSlice_nextTag (i : Nat) (v : Slice) : (setSlice s i v).nextTag = s.nextTag := rfl
@[simp] theorem setSlice_nextTask (i : Nat) (v : Slice) : (setSlice s i v).nextTask = s.nextTask := rfl
@[simp] theorem setSlice_nextLaunch (i : Nat) (v : Slice) : (setSlice s i v).nextLaunch = s.nextLaunch := rfl
@[simp] theorem setSlice_portTime (i : Nat) (v : Slice) : (setSlice s i v).portTime = s.portTime := rfl
@[simp] theorem setSlice_portPhase (i : Nat) (v : Slice) : (setSlice s i v).portPhase = s.portPhase := rfl
@[simp] theorem setSlice_variant (i : Nat) (v : Slice) : (setSlice s i v).variant = s.variant := rfl
@[simp] theorem setSlice_serial (i : Nat) (v : Slice) : (setSlice s i v).serial = s.serial := rfl
@[simp] theorem setSlice_baseMac (i : Nat) (v : Slice) : (setSlice s i v).baseMac = s.baseMac := rfl
@[simp] theorem setSlice_dieWords (i : Nat) (v : Slice) : (setSlice s i v).dieWords = s.dieWords := rfl
@[simp] theorem setSlice_mem (i : Nat) (v : Slice) : (setSlice s i v).mem = s.mem := rfl
@[simp] theorem setSlice_poison (i : Nat) (v : Slice) : (setSlice s i v).poison = s.poison := rfl
@[simp] theorem setSlice_retired (i : Nat) (v : Slice) : (setSlice s i v).retired = s.retired := rfl
@[simp] theorem setSlice_ceHistory (i : Nat) (v : Slice) : (setSlice s i v).ceHistory = s.ceHistory := rfl
@[simp] theorem setSlice_chans (i : Nat) (v : Slice) : (setSlice s i v).chans = s.chans := rfl
@[simp] theorem setSlice_dies (i : Nat) (v : Slice) : (setSlice s i v).dies = s.dies := rfl
@[simp] theorem setSlice_clusters (i : Nat) (v : Slice) : (setSlice s i v).clusters = s.clusters := rfl
@[simp] theorem setSlice_groups (i : Nat) (v : Slice) : (setSlice s i v).groups = s.groups := rfl
@[simp] theorem setSlice_accs (i : Nat) (v : Slice) : (setSlice s i v).accs = s.accs := rfl
@[simp] theorem setSlice_crushers (i : Nat) (v : Slice) : (setSlice s i v).crushers = s.crushers := rfl
@[simp] theorem setSlice_links (i : Nat) (v : Slice) : (setSlice s i v).links = s.links := rfl
@[simp] theorem setSlice_parts (i : Nat) (v : Slice) : (setSlice s i v).parts = s.parts := rfl
@[simp] theorem setSlice_launches (i : Nat) (v : Slice) : (setSlice s i v).launches = s.launches := rfl
@[simp] theorem setSlice_tasks (i : Nat) (v : Slice) : (setSlice s i v).tasks = s.tasks := rfl
@[simp] theorem setSlice_admission (i : Nat) (v : Slice) : (setSlice s i v).admission = s.admission := rfl
@[simp] theorem setSlice_shareAt (i : Nat) (v : Slice) : (setSlice s i v).shareAt = s.shareAt := rfl
@[simp] theorem setSlice_ports (i : Nat) (v : Slice) : (setSlice s i v).ports = s.ports := rfl
@[simp] theorem setSlice_qps (i : Nat) (v : Slice) : (setSlice s i v).qps = s.qps := rfl
@[simp] theorem setSlice_image (i : Nat) (v : Slice) : (setSlice s i v).image = s.image := rfl
@[simp] theorem setSlice_flash (i : Nat) (v : Slice) : (setSlice s i v).flash = s.flash := rfl
@[simp] theorem setSlice_power (i : Nat) (v : Slice) : (setSlice s i v).power = s.power := rfl
@[simp] theorem setSlice_restart (i : Nat) (v : Slice) : (setSlice s i v).restart = s.restart := rfl
@[simp] theorem setSlice_dev (i : Nat) (v : Slice) : (setSlice s i v).dev = s.dev := rfl
@[simp] theorem setSlice_sec (i : Nat) (v : Slice) : (setSlice s i v).sec = s.sec := rfl

/-! ### setCrusher -/

@[simp] theorem setCrusher_pending (i : Nat) (v : Crusher) : (setCrusher s i v).pending = s.pending := rfl
@[simp] theorem setCrusher_out (i : Nat) (v : Crusher) : (setCrusher s i v).out = s.out := rfl
@[simp] theorem setCrusher_free (i : Nat) (v : Crusher) : (setCrusher s i v).free = s.free := rfl
@[simp] theorem setCrusher_nextTag (i : Nat) (v : Crusher) : (setCrusher s i v).nextTag = s.nextTag := rfl
@[simp] theorem setCrusher_nextTask (i : Nat) (v : Crusher) : (setCrusher s i v).nextTask = s.nextTask := rfl
@[simp] theorem setCrusher_nextLaunch (i : Nat) (v : Crusher) : (setCrusher s i v).nextLaunch = s.nextLaunch := rfl
@[simp] theorem setCrusher_portTime (i : Nat) (v : Crusher) : (setCrusher s i v).portTime = s.portTime := rfl
@[simp] theorem setCrusher_portPhase (i : Nat) (v : Crusher) : (setCrusher s i v).portPhase = s.portPhase := rfl
@[simp] theorem setCrusher_variant (i : Nat) (v : Crusher) : (setCrusher s i v).variant = s.variant := rfl
@[simp] theorem setCrusher_serial (i : Nat) (v : Crusher) : (setCrusher s i v).serial = s.serial := rfl
@[simp] theorem setCrusher_baseMac (i : Nat) (v : Crusher) : (setCrusher s i v).baseMac = s.baseMac := rfl
@[simp] theorem setCrusher_dieWords (i : Nat) (v : Crusher) : (setCrusher s i v).dieWords = s.dieWords := rfl
@[simp] theorem setCrusher_mem (i : Nat) (v : Crusher) : (setCrusher s i v).mem = s.mem := rfl
@[simp] theorem setCrusher_poison (i : Nat) (v : Crusher) : (setCrusher s i v).poison = s.poison := rfl
@[simp] theorem setCrusher_retired (i : Nat) (v : Crusher) : (setCrusher s i v).retired = s.retired := rfl
@[simp] theorem setCrusher_ceHistory (i : Nat) (v : Crusher) : (setCrusher s i v).ceHistory = s.ceHistory := rfl
@[simp] theorem setCrusher_chans (i : Nat) (v : Crusher) : (setCrusher s i v).chans = s.chans := rfl
@[simp] theorem setCrusher_dies (i : Nat) (v : Crusher) : (setCrusher s i v).dies = s.dies := rfl
@[simp] theorem setCrusher_clusters (i : Nat) (v : Crusher) : (setCrusher s i v).clusters = s.clusters := rfl
@[simp] theorem setCrusher_groups (i : Nat) (v : Crusher) : (setCrusher s i v).groups = s.groups := rfl
@[simp] theorem setCrusher_accs (i : Nat) (v : Crusher) : (setCrusher s i v).accs = s.accs := rfl
@[simp] theorem setCrusher_slices (i : Nat) (v : Crusher) : (setCrusher s i v).slices = s.slices := rfl
@[simp] theorem setCrusher_links (i : Nat) (v : Crusher) : (setCrusher s i v).links = s.links := rfl
@[simp] theorem setCrusher_parts (i : Nat) (v : Crusher) : (setCrusher s i v).parts = s.parts := rfl
@[simp] theorem setCrusher_launches (i : Nat) (v : Crusher) : (setCrusher s i v).launches = s.launches := rfl
@[simp] theorem setCrusher_tasks (i : Nat) (v : Crusher) : (setCrusher s i v).tasks = s.tasks := rfl
@[simp] theorem setCrusher_admission (i : Nat) (v : Crusher) : (setCrusher s i v).admission = s.admission := rfl
@[simp] theorem setCrusher_shareAt (i : Nat) (v : Crusher) : (setCrusher s i v).shareAt = s.shareAt := rfl
@[simp] theorem setCrusher_ports (i : Nat) (v : Crusher) : (setCrusher s i v).ports = s.ports := rfl
@[simp] theorem setCrusher_qps (i : Nat) (v : Crusher) : (setCrusher s i v).qps = s.qps := rfl
@[simp] theorem setCrusher_image (i : Nat) (v : Crusher) : (setCrusher s i v).image = s.image := rfl
@[simp] theorem setCrusher_flash (i : Nat) (v : Crusher) : (setCrusher s i v).flash = s.flash := rfl
@[simp] theorem setCrusher_power (i : Nat) (v : Crusher) : (setCrusher s i v).power = s.power := rfl
@[simp] theorem setCrusher_restart (i : Nat) (v : Crusher) : (setCrusher s i v).restart = s.restart := rfl
@[simp] theorem setCrusher_dev (i : Nat) (v : Crusher) : (setCrusher s i v).dev = s.dev := rfl
@[simp] theorem setCrusher_sec (i : Nat) (v : Crusher) : (setCrusher s i v).sec = s.sec := rfl

/-! ### setLink -/

@[simp] theorem setLink_pending (i : Nat) (v : Link) : (setLink s i v).pending = s.pending := rfl
@[simp] theorem setLink_out (i : Nat) (v : Link) : (setLink s i v).out = s.out := rfl
@[simp] theorem setLink_free (i : Nat) (v : Link) : (setLink s i v).free = s.free := rfl
@[simp] theorem setLink_nextTag (i : Nat) (v : Link) : (setLink s i v).nextTag = s.nextTag := rfl
@[simp] theorem setLink_nextTask (i : Nat) (v : Link) : (setLink s i v).nextTask = s.nextTask := rfl
@[simp] theorem setLink_nextLaunch (i : Nat) (v : Link) : (setLink s i v).nextLaunch = s.nextLaunch := rfl
@[simp] theorem setLink_portTime (i : Nat) (v : Link) : (setLink s i v).portTime = s.portTime := rfl
@[simp] theorem setLink_portPhase (i : Nat) (v : Link) : (setLink s i v).portPhase = s.portPhase := rfl
@[simp] theorem setLink_variant (i : Nat) (v : Link) : (setLink s i v).variant = s.variant := rfl
@[simp] theorem setLink_serial (i : Nat) (v : Link) : (setLink s i v).serial = s.serial := rfl
@[simp] theorem setLink_baseMac (i : Nat) (v : Link) : (setLink s i v).baseMac = s.baseMac := rfl
@[simp] theorem setLink_dieWords (i : Nat) (v : Link) : (setLink s i v).dieWords = s.dieWords := rfl
@[simp] theorem setLink_mem (i : Nat) (v : Link) : (setLink s i v).mem = s.mem := rfl
@[simp] theorem setLink_poison (i : Nat) (v : Link) : (setLink s i v).poison = s.poison := rfl
@[simp] theorem setLink_retired (i : Nat) (v : Link) : (setLink s i v).retired = s.retired := rfl
@[simp] theorem setLink_ceHistory (i : Nat) (v : Link) : (setLink s i v).ceHistory = s.ceHistory := rfl
@[simp] theorem setLink_chans (i : Nat) (v : Link) : (setLink s i v).chans = s.chans := rfl
@[simp] theorem setLink_dies (i : Nat) (v : Link) : (setLink s i v).dies = s.dies := rfl
@[simp] theorem setLink_clusters (i : Nat) (v : Link) : (setLink s i v).clusters = s.clusters := rfl
@[simp] theorem setLink_groups (i : Nat) (v : Link) : (setLink s i v).groups = s.groups := rfl
@[simp] theorem setLink_accs (i : Nat) (v : Link) : (setLink s i v).accs = s.accs := rfl
@[simp] theorem setLink_slices (i : Nat) (v : Link) : (setLink s i v).slices = s.slices := rfl
@[simp] theorem setLink_crushers (i : Nat) (v : Link) : (setLink s i v).crushers = s.crushers := rfl
@[simp] theorem setLink_parts (i : Nat) (v : Link) : (setLink s i v).parts = s.parts := rfl
@[simp] theorem setLink_launches (i : Nat) (v : Link) : (setLink s i v).launches = s.launches := rfl
@[simp] theorem setLink_tasks (i : Nat) (v : Link) : (setLink s i v).tasks = s.tasks := rfl
@[simp] theorem setLink_admission (i : Nat) (v : Link) : (setLink s i v).admission = s.admission := rfl
@[simp] theorem setLink_shareAt (i : Nat) (v : Link) : (setLink s i v).shareAt = s.shareAt := rfl
@[simp] theorem setLink_ports (i : Nat) (v : Link) : (setLink s i v).ports = s.ports := rfl
@[simp] theorem setLink_qps (i : Nat) (v : Link) : (setLink s i v).qps = s.qps := rfl
@[simp] theorem setLink_image (i : Nat) (v : Link) : (setLink s i v).image = s.image := rfl
@[simp] theorem setLink_flash (i : Nat) (v : Link) : (setLink s i v).flash = s.flash := rfl
@[simp] theorem setLink_power (i : Nat) (v : Link) : (setLink s i v).power = s.power := rfl
@[simp] theorem setLink_restart (i : Nat) (v : Link) : (setLink s i v).restart = s.restart := rfl
@[simp] theorem setLink_dev (i : Nat) (v : Link) : (setLink s i v).dev = s.dev := rfl
@[simp] theorem setLink_sec (i : Nat) (v : Link) : (setLink s i v).sec = s.sec := rfl

/-! ### setPart -/

@[simp] theorem setPart_pending (p : Nat) (v : Part) : (setPart s p v).pending = s.pending := rfl
@[simp] theorem setPart_out (p : Nat) (v : Part) : (setPart s p v).out = s.out := rfl
@[simp] theorem setPart_free (p : Nat) (v : Part) : (setPart s p v).free = s.free := rfl
@[simp] theorem setPart_nextTag (p : Nat) (v : Part) : (setPart s p v).nextTag = s.nextTag := rfl
@[simp] theorem setPart_nextTask (p : Nat) (v : Part) : (setPart s p v).nextTask = s.nextTask := rfl
@[simp] theorem setPart_nextLaunch (p : Nat) (v : Part) : (setPart s p v).nextLaunch = s.nextLaunch := rfl
@[simp] theorem setPart_portTime (p : Nat) (v : Part) : (setPart s p v).portTime = s.portTime := rfl
@[simp] theorem setPart_portPhase (p : Nat) (v : Part) : (setPart s p v).portPhase = s.portPhase := rfl
@[simp] theorem setPart_variant (p : Nat) (v : Part) : (setPart s p v).variant = s.variant := rfl
@[simp] theorem setPart_serial (p : Nat) (v : Part) : (setPart s p v).serial = s.serial := rfl
@[simp] theorem setPart_baseMac (p : Nat) (v : Part) : (setPart s p v).baseMac = s.baseMac := rfl
@[simp] theorem setPart_dieWords (p : Nat) (v : Part) : (setPart s p v).dieWords = s.dieWords := rfl
@[simp] theorem setPart_mem (p : Nat) (v : Part) : (setPart s p v).mem = s.mem := rfl
@[simp] theorem setPart_poison (p : Nat) (v : Part) : (setPart s p v).poison = s.poison := rfl
@[simp] theorem setPart_retired (p : Nat) (v : Part) : (setPart s p v).retired = s.retired := rfl
@[simp] theorem setPart_ceHistory (p : Nat) (v : Part) : (setPart s p v).ceHistory = s.ceHistory := rfl
@[simp] theorem setPart_chans (p : Nat) (v : Part) : (setPart s p v).chans = s.chans := rfl
@[simp] theorem setPart_dies (p : Nat) (v : Part) : (setPart s p v).dies = s.dies := rfl
@[simp] theorem setPart_clusters (p : Nat) (v : Part) : (setPart s p v).clusters = s.clusters := rfl
@[simp] theorem setPart_groups (p : Nat) (v : Part) : (setPart s p v).groups = s.groups := rfl
@[simp] theorem setPart_accs (p : Nat) (v : Part) : (setPart s p v).accs = s.accs := rfl
@[simp] theorem setPart_slices (p : Nat) (v : Part) : (setPart s p v).slices = s.slices := rfl
@[simp] theorem setPart_crushers (p : Nat) (v : Part) : (setPart s p v).crushers = s.crushers := rfl
@[simp] theorem setPart_links (p : Nat) (v : Part) : (setPart s p v).links = s.links := rfl
@[simp] theorem setPart_launches (p : Nat) (v : Part) : (setPart s p v).launches = s.launches := rfl
@[simp] theorem setPart_tasks (p : Nat) (v : Part) : (setPart s p v).tasks = s.tasks := rfl
@[simp] theorem setPart_admission (p : Nat) (v : Part) : (setPart s p v).admission = s.admission := rfl
@[simp] theorem setPart_shareAt (p : Nat) (v : Part) : (setPart s p v).shareAt = s.shareAt := rfl
@[simp] theorem setPart_ports (p : Nat) (v : Part) : (setPart s p v).ports = s.ports := rfl
@[simp] theorem setPart_qps (p : Nat) (v : Part) : (setPart s p v).qps = s.qps := rfl
@[simp] theorem setPart_image (p : Nat) (v : Part) : (setPart s p v).image = s.image := rfl
@[simp] theorem setPart_flash (p : Nat) (v : Part) : (setPart s p v).flash = s.flash := rfl
@[simp] theorem setPart_power (p : Nat) (v : Part) : (setPart s p v).power = s.power := rfl
@[simp] theorem setPart_restart (p : Nat) (v : Part) : (setPart s p v).restart = s.restart := rfl
@[simp] theorem setPart_dev (p : Nat) (v : Part) : (setPart s p v).dev = s.dev := rfl
@[simp] theorem setPart_sec (p : Nat) (v : Part) : (setPart s p v).sec = s.sec := rfl

/-! ### setChan -/

@[simp] theorem setChan_pending (i : Nat) (v : Chan) : (setChan s i v).pending = s.pending := rfl
@[simp] theorem setChan_out (i : Nat) (v : Chan) : (setChan s i v).out = s.out := rfl
@[simp] theorem setChan_free (i : Nat) (v : Chan) : (setChan s i v).free = s.free := rfl
@[simp] theorem setChan_nextTag (i : Nat) (v : Chan) : (setChan s i v).nextTag = s.nextTag := rfl
@[simp] theorem setChan_nextTask (i : Nat) (v : Chan) : (setChan s i v).nextTask = s.nextTask := rfl
@[simp] theorem setChan_nextLaunch (i : Nat) (v : Chan) : (setChan s i v).nextLaunch = s.nextLaunch := rfl
@[simp] theorem setChan_portTime (i : Nat) (v : Chan) : (setChan s i v).portTime = s.portTime := rfl
@[simp] theorem setChan_portPhase (i : Nat) (v : Chan) : (setChan s i v).portPhase = s.portPhase := rfl
@[simp] theorem setChan_variant (i : Nat) (v : Chan) : (setChan s i v).variant = s.variant := rfl
@[simp] theorem setChan_serial (i : Nat) (v : Chan) : (setChan s i v).serial = s.serial := rfl
@[simp] theorem setChan_baseMac (i : Nat) (v : Chan) : (setChan s i v).baseMac = s.baseMac := rfl
@[simp] theorem setChan_dieWords (i : Nat) (v : Chan) : (setChan s i v).dieWords = s.dieWords := rfl
@[simp] theorem setChan_mem (i : Nat) (v : Chan) : (setChan s i v).mem = s.mem := rfl
@[simp] theorem setChan_poison (i : Nat) (v : Chan) : (setChan s i v).poison = s.poison := rfl
@[simp] theorem setChan_retired (i : Nat) (v : Chan) : (setChan s i v).retired = s.retired := rfl
@[simp] theorem setChan_ceHistory (i : Nat) (v : Chan) : (setChan s i v).ceHistory = s.ceHistory := rfl
@[simp] theorem setChan_dies (i : Nat) (v : Chan) : (setChan s i v).dies = s.dies := rfl
@[simp] theorem setChan_clusters (i : Nat) (v : Chan) : (setChan s i v).clusters = s.clusters := rfl
@[simp] theorem setChan_groups (i : Nat) (v : Chan) : (setChan s i v).groups = s.groups := rfl
@[simp] theorem setChan_accs (i : Nat) (v : Chan) : (setChan s i v).accs = s.accs := rfl
@[simp] theorem setChan_slices (i : Nat) (v : Chan) : (setChan s i v).slices = s.slices := rfl
@[simp] theorem setChan_crushers (i : Nat) (v : Chan) : (setChan s i v).crushers = s.crushers := rfl
@[simp] theorem setChan_links (i : Nat) (v : Chan) : (setChan s i v).links = s.links := rfl
@[simp] theorem setChan_parts (i : Nat) (v : Chan) : (setChan s i v).parts = s.parts := rfl
@[simp] theorem setChan_launches (i : Nat) (v : Chan) : (setChan s i v).launches = s.launches := rfl
@[simp] theorem setChan_tasks (i : Nat) (v : Chan) : (setChan s i v).tasks = s.tasks := rfl
@[simp] theorem setChan_admission (i : Nat) (v : Chan) : (setChan s i v).admission = s.admission := rfl
@[simp] theorem setChan_shareAt (i : Nat) (v : Chan) : (setChan s i v).shareAt = s.shareAt := rfl
@[simp] theorem setChan_ports (i : Nat) (v : Chan) : (setChan s i v).ports = s.ports := rfl
@[simp] theorem setChan_qps (i : Nat) (v : Chan) : (setChan s i v).qps = s.qps := rfl
@[simp] theorem setChan_image (i : Nat) (v : Chan) : (setChan s i v).image = s.image := rfl
@[simp] theorem setChan_flash (i : Nat) (v : Chan) : (setChan s i v).flash = s.flash := rfl
@[simp] theorem setChan_power (i : Nat) (v : Chan) : (setChan s i v).power = s.power := rfl
@[simp] theorem setChan_restart (i : Nat) (v : Chan) : (setChan s i v).restart = s.restart := rfl
@[simp] theorem setChan_dev (i : Nat) (v : Chan) : (setChan s i v).dev = s.dev := rfl
@[simp] theorem setChan_sec (i : Nat) (v : Chan) : (setChan s i v).sec = s.sec := rfl

/-! ### setPort -/

@[simp] theorem setPort_pending (n h : Nat) (v : Port) : (setPort s n h v).pending = s.pending := rfl
@[simp] theorem setPort_out (n h : Nat) (v : Port) : (setPort s n h v).out = s.out := rfl
@[simp] theorem setPort_free (n h : Nat) (v : Port) : (setPort s n h v).free = s.free := rfl
@[simp] theorem setPort_nextTag (n h : Nat) (v : Port) : (setPort s n h v).nextTag = s.nextTag := rfl
@[simp] theorem setPort_nextTask (n h : Nat) (v : Port) : (setPort s n h v).nextTask = s.nextTask := rfl
@[simp] theorem setPort_nextLaunch (n h : Nat) (v : Port) : (setPort s n h v).nextLaunch = s.nextLaunch := rfl
@[simp] theorem setPort_portTime (n h : Nat) (v : Port) : (setPort s n h v).portTime = s.portTime := rfl
@[simp] theorem setPort_portPhase (n h : Nat) (v : Port) : (setPort s n h v).portPhase = s.portPhase := rfl
@[simp] theorem setPort_variant (n h : Nat) (v : Port) : (setPort s n h v).variant = s.variant := rfl
@[simp] theorem setPort_serial (n h : Nat) (v : Port) : (setPort s n h v).serial = s.serial := rfl
@[simp] theorem setPort_baseMac (n h : Nat) (v : Port) : (setPort s n h v).baseMac = s.baseMac := rfl
@[simp] theorem setPort_dieWords (n h : Nat) (v : Port) : (setPort s n h v).dieWords = s.dieWords := rfl
@[simp] theorem setPort_mem (n h : Nat) (v : Port) : (setPort s n h v).mem = s.mem := rfl
@[simp] theorem setPort_poison (n h : Nat) (v : Port) : (setPort s n h v).poison = s.poison := rfl
@[simp] theorem setPort_retired (n h : Nat) (v : Port) : (setPort s n h v).retired = s.retired := rfl
@[simp] theorem setPort_ceHistory (n h : Nat) (v : Port) : (setPort s n h v).ceHistory = s.ceHistory := rfl
@[simp] theorem setPort_chans (n h : Nat) (v : Port) : (setPort s n h v).chans = s.chans := rfl
@[simp] theorem setPort_dies (n h : Nat) (v : Port) : (setPort s n h v).dies = s.dies := rfl
@[simp] theorem setPort_clusters (n h : Nat) (v : Port) : (setPort s n h v).clusters = s.clusters := rfl
@[simp] theorem setPort_groups (n h : Nat) (v : Port) : (setPort s n h v).groups = s.groups := rfl
@[simp] theorem setPort_accs (n h : Nat) (v : Port) : (setPort s n h v).accs = s.accs := rfl
@[simp] theorem setPort_slices (n h : Nat) (v : Port) : (setPort s n h v).slices = s.slices := rfl
@[simp] theorem setPort_crushers (n h : Nat) (v : Port) : (setPort s n h v).crushers = s.crushers := rfl
@[simp] theorem setPort_links (n h : Nat) (v : Port) : (setPort s n h v).links = s.links := rfl
@[simp] theorem setPort_parts (n h : Nat) (v : Port) : (setPort s n h v).parts = s.parts := rfl
@[simp] theorem setPort_launches (n h : Nat) (v : Port) : (setPort s n h v).launches = s.launches := rfl
@[simp] theorem setPort_tasks (n h : Nat) (v : Port) : (setPort s n h v).tasks = s.tasks := rfl
@[simp] theorem setPort_admission (n h : Nat) (v : Port) : (setPort s n h v).admission = s.admission := rfl
@[simp] theorem setPort_shareAt (n h : Nat) (v : Port) : (setPort s n h v).shareAt = s.shareAt := rfl
@[simp] theorem setPort_qps (n h : Nat) (v : Port) : (setPort s n h v).qps = s.qps := rfl
@[simp] theorem setPort_image (n h : Nat) (v : Port) : (setPort s n h v).image = s.image := rfl
@[simp] theorem setPort_flash (n h : Nat) (v : Port) : (setPort s n h v).flash = s.flash := rfl
@[simp] theorem setPort_power (n h : Nat) (v : Port) : (setPort s n h v).power = s.power := rfl
@[simp] theorem setPort_restart (n h : Nat) (v : Port) : (setPort s n h v).restart = s.restart := rfl
@[simp] theorem setPort_dev (n h : Nat) (v : Port) : (setPort s n h v).dev = s.dev := rfl
@[simp] theorem setPort_sec (n h : Nat) (v : Port) : (setPort s n h v).sec = s.sec := rfl

/-! ### setQp -/

@[simp] theorem setQp_pending (i : Nat) (v : Qp) : (setQp s i v).pending = s.pending := rfl
@[simp] theorem setQp_out (i : Nat) (v : Qp) : (setQp s i v).out = s.out := rfl
@[simp] theorem setQp_free (i : Nat) (v : Qp) : (setQp s i v).free = s.free := rfl
@[simp] theorem setQp_nextTag (i : Nat) (v : Qp) : (setQp s i v).nextTag = s.nextTag := rfl
@[simp] theorem setQp_nextTask (i : Nat) (v : Qp) : (setQp s i v).nextTask = s.nextTask := rfl
@[simp] theorem setQp_nextLaunch (i : Nat) (v : Qp) : (setQp s i v).nextLaunch = s.nextLaunch := rfl
@[simp] theorem setQp_portTime (i : Nat) (v : Qp) : (setQp s i v).portTime = s.portTime := rfl
@[simp] theorem setQp_portPhase (i : Nat) (v : Qp) : (setQp s i v).portPhase = s.portPhase := rfl
@[simp] theorem setQp_variant (i : Nat) (v : Qp) : (setQp s i v).variant = s.variant := rfl
@[simp] theorem setQp_serial (i : Nat) (v : Qp) : (setQp s i v).serial = s.serial := rfl
@[simp] theorem setQp_baseMac (i : Nat) (v : Qp) : (setQp s i v).baseMac = s.baseMac := rfl
@[simp] theorem setQp_dieWords (i : Nat) (v : Qp) : (setQp s i v).dieWords = s.dieWords := rfl
@[simp] theorem setQp_mem (i : Nat) (v : Qp) : (setQp s i v).mem = s.mem := rfl
@[simp] theorem setQp_poison (i : Nat) (v : Qp) : (setQp s i v).poison = s.poison := rfl
@[simp] theorem setQp_retired (i : Nat) (v : Qp) : (setQp s i v).retired = s.retired := rfl
@[simp] theorem setQp_ceHistory (i : Nat) (v : Qp) : (setQp s i v).ceHistory = s.ceHistory := rfl
@[simp] theorem setQp_chans (i : Nat) (v : Qp) : (setQp s i v).chans = s.chans := rfl
@[simp] theorem setQp_dies (i : Nat) (v : Qp) : (setQp s i v).dies = s.dies := rfl
@[simp] theorem setQp_clusters (i : Nat) (v : Qp) : (setQp s i v).clusters = s.clusters := rfl
@[simp] theorem setQp_groups (i : Nat) (v : Qp) : (setQp s i v).groups = s.groups := rfl
@[simp] theorem setQp_accs (i : Nat) (v : Qp) : (setQp s i v).accs = s.accs := rfl
@[simp] theorem setQp_slices (i : Nat) (v : Qp) : (setQp s i v).slices = s.slices := rfl
@[simp] theorem setQp_crushers (i : Nat) (v : Qp) : (setQp s i v).crushers = s.crushers := rfl
@[simp] theorem setQp_links (i : Nat) (v : Qp) : (setQp s i v).links = s.links := rfl
@[simp] theorem setQp_parts (i : Nat) (v : Qp) : (setQp s i v).parts = s.parts := rfl
@[simp] theorem setQp_launches (i : Nat) (v : Qp) : (setQp s i v).launches = s.launches := rfl
@[simp] theorem setQp_tasks (i : Nat) (v : Qp) : (setQp s i v).tasks = s.tasks := rfl
@[simp] theorem setQp_admission (i : Nat) (v : Qp) : (setQp s i v).admission = s.admission := rfl
@[simp] theorem setQp_shareAt (i : Nat) (v : Qp) : (setQp s i v).shareAt = s.shareAt := rfl
@[simp] theorem setQp_ports (i : Nat) (v : Qp) : (setQp s i v).ports = s.ports := rfl
@[simp] theorem setQp_image (i : Nat) (v : Qp) : (setQp s i v).image = s.image := rfl
@[simp] theorem setQp_flash (i : Nat) (v : Qp) : (setQp s i v).flash = s.flash := rfl
@[simp] theorem setQp_power (i : Nat) (v : Qp) : (setQp s i v).power = s.power := rfl
@[simp] theorem setQp_restart (i : Nat) (v : Qp) : (setQp s i v).restart = s.restart := rfl
@[simp] theorem setQp_dev (i : Nat) (v : Qp) : (setQp s i v).dev = s.dev := rfl
@[simp] theorem setQp_sec (i : Nat) (v : Qp) : (setQp s i v).sec = s.sec := rfl

end Sys2Proof.Machine
end

