-- ==== Sys2Proof/Laws/Store.lean ====
section
/-! SUPPORT. The laws of sparse tables and of memory: a read after a write to the same place, a write leaves every other place
alone, and every operation keeps the canonical form. They hold of every table, canonical or not. -/

namespace Sys2Proof.Machine

variable {α : Type} (d : α)

/-! ### Reading -/

@[simp] theorem look_nil (k : Nat) : look d [] k = d := rfl

theorem look_unlist_same (m : SMap α) (k : Nat) : look d (unlist m k) k = d := by
  induction m with
  | nil => rfl
  | cons e m ih =>
    obtain ⟨k', v⟩ := e
    by_cases h : k' = k <;> simp [unlist, look, h, ih]

theorem look_unlist_ne (m : SMap α) {k j : Nat} (h : j ≠ k) : look d (unlist m k) j = look d m j := by
  induction m with
  | nil => rfl
  | cons e m ih =>
    obtain ⟨k', v⟩ := e
    by_cases hk : k' = k
    · subst hk; simp [unlist, look, ih, Ne.symm h]
    · simp only [unlist, hk, if_false, look, ih]

theorem look_enlist_same (m : SMap α) (k : Nat) (v : α) :
    look d (enlist (unlist m k) k v) k = v := by
  induction m with
  | nil => simp [unlist, enlist, look]
  | cons e m ih =>
    obtain ⟨k', v'⟩ := e
    by_cases hk : k' = k
    · simp only [unlist, hk, if_true]; exact ih
    · by_cases hl : k < k'
      · simp [unlist, hk, enlist, hl, look]
      · simpa [unlist, hk, enlist, hl, look] using ih

theorem look_enlist_ne (m : SMap α) {k j : Nat} (v : α) (h : j ≠ k) : look d (enlist m k v) j = look d m j := by
  induction m with
  | nil => simp [enlist, look, Ne.symm h]
  | cons e m ih =>
    obtain ⟨k', v'⟩ := e
    by_cases hl : k < k'
    · simp [enlist, hl, look, Ne.symm h]
    · simp only [enlist, hl, if_false, look, ih]

variable [DecidableEq α]

/-- A read of the key that was written gives the value written. -/
@[simp] theorem look_put_same (m : SMap α) (k : Nat) (v : α) : look d (put d m k v) k = v := by
  unfold put
  split
  · next h => rw [look_unlist_same, h]
  · exact look_enlist_same d m k v

/-- A read of another key gives what it gave before. -/
theorem look_put_ne (m : SMap α) {k j : Nat} (v : α) (h : j ≠ k) : look d (put d m k v) j = look d m j := by
  unfold put
  split
  · exact look_unlist_ne d m h
  · rw [look_enlist_ne d _ v h, look_unlist_ne d m h]

theorem look_put (m : SMap α) (k j : Nat) (v : α) : look d (put d m k v) j = if j = k then v else look d m j := by
  split
  · next h => rw [h, look_put_same]
  · next h => exact look_put_ne d m v h

/-! ### The canonical form -/

theorem wfFrom_mono {lo hi : Nat} (h : lo ≤ hi) {m : SMap α} (w : wfFrom d hi m = true) : wfFrom d lo m = true := by
  cases m with
  | nil => rfl
  | cons e m =>
    simp only [wfFrom, Bool.and_eq_true, decide_eq_true_eq] at w ⊢
    exact ⟨⟨le_trans h w.1.1, w.1.2⟩, w.2⟩

theorem wfFrom_unlist {lo : Nat} {m : SMap α} (k : Nat) (w : wfFrom d lo m = true) : wfFrom d lo (unlist m k) = true := by
  induction m generalizing lo with
  | nil => rfl
  | cons e m ih =>
    obtain ⟨k', v⟩ := e
    simp only [wfFrom, Bool.and_eq_true, decide_eq_true_eq] at w
    by_cases hk : k' = k
    · simp only [unlist, hk, if_true]
      exact wfFrom_mono d (by omega) (ih w.2)
    · simp only [unlist, hk, if_false, wfFrom, Bool.and_eq_true, decide_eq_true_eq]
      exact ⟨w.1, ih w.2⟩

theorem wfFrom_enlist {lo : Nat} {m : SMap α} {k : Nat} {v : α} (hv : v ≠ d) (hk : lo ≤ k) (w : wfFrom d lo m = true) :
    wfFrom d lo (enlist (unlist m k) k v) = true := by
  induction m generalizing lo with
  | nil => simp [unlist, enlist, wfFrom, hv, hk]
  | cons e m ih =>
    obtain ⟨k', v'⟩ := e
    simp only [wfFrom, Bool.and_eq_true, decide_eq_true_eq] at w
    by_cases he : k' = k
    · simp only [unlist, he, if_true]
      exact ih hk (wfFrom_mono d (by omega) w.2)
    · by_cases hl : k < k'
      · simp only [unlist, he, if_false, enlist, hl, if_true, wfFrom, Bool.and_eq_true, decide_eq_true_eq]
        exact ⟨⟨hk, hv⟩, ⟨⟨hl, w.1.2⟩, wfFrom_unlist d k w.2⟩⟩
      · simp only [unlist, he, if_false, enlist, hl, wfFrom, Bool.and_eq_true, decide_eq_true_eq]
        exact ⟨w.1, ih (by omega) w.2⟩

/-- Writing keeps the canonical form of a table. -/
theorem wfMap_put {m : SMap α} (k : Nat) (v : α) (w : wfMap d m = true) : wfMap d (put d m k v) = true := by
  unfold put wfMap
  split
  · exact wfFrom_unlist d k w
  · next h => exact wfFrom_enlist d h (Nat.zero_le k) w

theorem wfFrom_filter {lo : Nat} {m : SMap α} (p : Nat × α → Bool) (w : wfFrom d lo m = true) :
    wfFrom d lo (m.filter p) = true := by
  induction m generalizing lo with
  | nil => rfl
  | cons e m ih =>
    simp only [wfFrom, Bool.and_eq_true, decide_eq_true_eq] at w
    by_cases hp : p e = true
    · simp only [List.filter_cons, hp, if_true, wfFrom, Bool.and_eq_true, decide_eq_true_eq]
      exact ⟨w.1, ih w.2⟩
    · simp only [List.filter_cons, hp]
      exact wfFrom_mono d (by omega) (ih w.2)

/-! ### Memory -/

theorem readByte_writeByte (m : List Host.Cell) (a b : Nat) (v : Byte) :
    readByte (writeByte m a v) b = if b = a then v else readByte m b := look_put _ _ _ _ _

theorem writeByte_wf {m : List Host.Cell} (a : Nat) (v : Byte) (w : Memory.wf m = true) : Memory.wf (writeByte m a v) = true :=
  wfMap_put _ a v w

theorem wf_nil : Memory.wf [] = true := rfl

theorem foldl_writeByte_wf {β : Type} {m : List Host.Cell} (at' : β → Nat) (b : β → Byte) (l : List β) (w : Memory.wf m = true) :
    Memory.wf (l.foldl (fun m x => writeByte m (at' x) (b x)) m) = true := by
  induction l generalizing m with
  | nil => exact w
  | cons x l ih => exact ih (writeByte_wf _ _ w)

theorem wf_filter {m : List Host.Cell} (p : Host.Cell → Bool) (w : Memory.wf m = true) : Memory.wf (m.filter p) = true :=
  wfFrom_filter _ p w

theorem writeLE_wf {m : List Host.Cell} (a n v : Nat) (w : Memory.wf m = true) : Memory.wf (writeLE m a n v) = true := by
  induction n generalizing m a v with
  | zero => exact w
  | succ n ih => exact ih (a + 1) (v / 256) (writeByte_wf a _ w)

theorem writeBytes_wf {m : List Host.Cell} (a : Nat) (bs : List Byte) (w : Memory.wf m = true) :
    Memory.wf (writeBytes m a bs) = true := by
  induction bs generalizing m a with
  | nil => exact w
  | cons b bs ih => exact ih (a + 1) (writeByte_wf a b w)

theorem putLineBytes_wf {m : List Host.Cell} (a be v n : Nat) (w : Memory.wf m = true) :
    Memory.wf (putLineBytes m a be v n) = true := by
  induction n generalizing m a be v with
  | zero => exact w
  | succ n ih =>
    simp only [putLineBytes]
    split
    · exact ih _ _ _ (writeByte_wf a _ w)
    · exact ih _ _ _ w

theorem memPutLine_wf {m : List Host.Cell} (l : Nat) (be : BitVec 128) (v : Line) (w : Memory.wf m = true) :
    Memory.wf (memPutLine m l be v) = true := putLineBytes_wf _ _ _ _ w

/-- A byte outside the run that is written reads as before. -/
theorem readByte_writeBytes_outside (m : List Host.Cell) (a b : Nat) (bs : List Byte) (h : b < a ∨ a + bs.length ≤ b) :
    readByte (writeBytes m a bs) b = readByte m b := by
  induction bs generalizing m a with
  | nil => rfl
  | cons x bs ih =>
    simp only [List.length_cons] at h
    rw [writeBytes, ih _ _ (by omega), readByte_writeByte, if_neg (by omega)]

/-- The byte at place `i` of the run that is written. -/
theorem readByte_writeBytes_inside (m : List Host.Cell) (a i : Nat) (bs : List Byte) (h : i < bs.length) :
    readByte (writeBytes m a bs) (a + i) = bs[i] := by
  induction bs generalizing m a i with
  | nil => simp at h
  | cons x bs ih =>
    rw [writeBytes]
    cases i with
    | zero => rw [readByte_writeBytes_outside _ _ _ _ (by omega), readByte_writeByte]; simp
    | succ i =>
      have := ih (writeByte m a x) (a + 1) i (by simpa using h)
      simpa [Nat.add_assoc, Nat.add_comm 1 i] using this

theorem readByte_putLineBytes (m : List Host.Cell) (a be v n b : Nat) :
    readByte (putLineBytes m a be v n) b
      = if a ≤ b ∧ b < a + n ∧ be.testBit (b - a) then BitVec.ofNat 8 (v >>> (8 * (b - a))) else readByte m b := by
  induction n generalizing m a be v with
  | zero =>
    have h : ¬(a ≤ b ∧ b < a + 0 ∧ be.testBit (b - a)) := by omega
    simp only [putLineBytes, if_neg h]
  | succ n ih =>
    rw [putLineBytes, ih]
    by_cases hb : b = a
    · subst hb
      have h1 : ¬(b + 1 ≤ b ∧ b < b + 1 + n ∧ (be / 2).testBit (b - (b + 1))) := by omega
      rw [if_neg h1]
      have h2 : be.testBit 0 = decide (be % 2 = 1) := Nat.testBit_zero be
      by_cases ho : be % 2 = 1
      · simp [ho, readByte_writeByte, h2]
      · simp [ho, h2]
    · have h0 : readByte (if be % 2 = 1 then writeByte m a (BitVec.ofNat 8 v) else m) b = readByte m b := by
        split
        · rw [readByte_writeByte, if_neg hb]
        · rfl
      rw [h0]
      by_cases hlt : a + 1 ≤ b
      · have e : b - a = (b - (a + 1)) + 1 := by omega
        have ht : be.testBit (b - a) = (be / 2).testBit (b - (a + 1)) := by rw [e, Nat.testBit_succ]
        have hv : (v / 256) >>> (8 * (b - (a + 1))) = v >>> (8 * (b - a)) := by
          rw [e, Nat.mul_add, Nat.mul_one, Nat.add_comm (8 * _) 8, Nat.shiftRight_add]; simp [Nat.shiftRight_eq_div_pow]
        rw [ht, hv]
        have : (a + 1 ≤ b ∧ b < a + 1 + n ∧ (be / 2).testBit (b - (a + 1)) = true)
            ↔ (a ≤ b ∧ b < a + (n + 1) ∧ (be / 2).testBit (b - (a + 1)) = true) := by
          constructor <;> rintro ⟨x, y, z⟩ <;> exact ⟨by omega, by omega, z⟩
        simp only [this]
      · have h1 : ¬(a + 1 ≤ b ∧ b < a + 1 + n ∧ (be / 2).testBit (b - (a + 1)) = true) := by omega
        have h2 : ¬(a ≤ b ∧ b < a + (n + 1) ∧ be.testBit (b - a) = true) := by omega
        rw [if_neg h1, if_neg h2]

/-- A write of a line changes the bytes that its byte enables name, and no other byte. -/
theorem readByte_memPutLine (m : List Host.Cell) (l : Nat) (be : BitVec 128) (v : Line) (b : Nat) :
    readByte (memPutLine m l be v) b
      = if 128 * l ≤ b ∧ b < 128 * l + 128 ∧ be.toNat.testBit (b - 128 * l) then BitVec.ofNat 8 (v.toNat >>> (8 * (b - 128 * l)))
        else readByte m b := readByte_putLineBytes _ _ _ _ _ _

/-! ### The parts of the state -/

variable (s : State)

@[simp] theorem die_setDie (d e : Nat) (v : Die) : die (setDie s d v) e = if e = d then v else die s e := look_put _ _ _ _ _
@[simp] theorem cluster_setCluster (c e : Nat) (v : Cluster) : cluster (setCluster s c v) e = if e = c then v else cluster s e :=
  look_put _ _ _ _ _
@[simp] theorem group_setGroup (g e : Nat) (v : Option Group) : group (setGroup s g v) e = if e = g then v else group s e :=
  look_put _ _ _ _ _
@[simp] theorem sliceOf_setSlice (i e : Nat) (v : Slice) : sliceOf (setSlice s i v) e = if e = i then v else sliceOf s e :=
  look_put _ _ _ _ _
@[simp] theorem crusher_setCrusher (i e : Nat) (v : Crusher) : crusher (setCrusher s i v) e = if e = i then v else crusher s e :=
  look_put _ _ _ _ _
@[simp] theorem link_setLink (i e : Nat) (v : Link) : link (setLink s i v) e = if e = i then v else link s e := look_put _ _ _ _ _
@[simp] theorem part_setPart (p e : Nat) (v : Part) : part (setPart s p v) e = if e = p then v else part s e := look_put _ _ _ _ _
@[simp] theorem chan_setChan (i e : Nat) (v : Chan) : chan (setChan s i v) e = if e = i then v else chan s e := look_put _ _ _ _ _
@[simp] theorem qp_setQp (i e : Nat) (v : Qp) : qp (setQp s i v) e = if e = i then v else qp s e := look_put _ _ _ _ _

/-- A read of a queue after a change of a queue. -/
theorem queue_setQueue (p q p' q' : Nat) (v : Queue) :
    queue (setQueue s p q v) p' q' = if p' = p ∧ q' = q then v else queue s p' q' := by
  unfold queue setQueue modPart
  rw [part_setPart]
  by_cases hp : p' = p
  · subst hp; simp [look_put]
  · simp [hp]

theorem queue_modQueue (p q p' q' : Nat) (f : Queue → Queue) :
    queue (modQueue s p q f) p' q' = if p' = p ∧ q' = q then f (queue s p q) else queue s p' q' := queue_setQueue _ _ _ _ _ _

/-- A command that names units that exist answers a next state, and no other command does. -/
theorem onUnit_next (ok : Bool) (t u : State) : onUnit ok t = .next u ↔ ok = true ∧ t = u := by
  unfold onUnit; cases ok <;> simp

end Sys2Proof.Machine
end

