-- ==== Sys2Proof/Laws/Kept.lean ====
section
/-! SUPPORT. What no operation of the module does: it never changes the commands that wait, the variant or the fuses, never takes
back what an agent has sent, never counts a tag backwards, and keeps memory in its canonical form. One lemma for each shared
operation; `z` is the state that a chain of operations began with. -/

namespace Sys2Proof.Machine

/-- What every operation keeps from `s` to `t`. -/
structure Kept (s t : State) : Prop where
  pending : t.pending = s.pending
  variant : t.variant = s.variant
  serial : t.serial = s.serial
  baseMac : t.baseMac = s.baseMac
  out : s.out <+: t.out
  free : s.free ≤ t.free
  tag : s.nextTag ≤ t.nextTag
  task : s.nextTask ≤ t.nextTask
  launch : s.nextLaunch ≤ t.nextLaunch
  mem : Memory.wf s.mem = true → Memory.wf t.mem = true

theorem Kept.rfl {s : State} : Kept s s := ⟨.refl _, .refl _, .refl _, .refl _, List.prefix_rfl, le_rfl, le_rfl, le_rfl, le_rfl, id⟩

theorem Kept.trans {s t u : State} (h : Kept s t) (k : Kept t u) : Kept s u :=
  ⟨k.pending.trans h.pending, k.variant.trans h.variant, k.serial.trans h.serial, k.baseMac.trans h.baseMac, h.out.trans k.out,
    h.free.trans k.free, h.tag.trans k.tag, h.task.trans k.task, h.launch.trans k.launch, fun w => k.mem (h.mem w)⟩

/-- An update of other parts of the state. -/
theorem kept_upd {z s : State} {portTime : W64} {portPhase : Nat} {dieWords : SMap (List W64)} {poison : SMap Byte} {retired : List Retired} {ceHistory
    : List (Nat × Nat × Nat)} {chans : SMap Chan} {dies : SMap Die} {clusters : SMap Cluster} {groups : SMap (Option Group)}
    {accs : List Access} {slices : SMap Slice} {crushers : SMap Crusher} {links : SMap Link} {parts : SMap Part} {launches :
    List Launch} {tasks : List Task} {admission : Admission} {shareAt : W64} {ports : SMap Port} {qps : SMap Qp} {image :
    Image} {flash : Flash} {power : Power} {restart : Restart} {dev : Dev} {sec : Sec}
    (h : Kept z s) :
    Kept z (State.mk s.pending s.out s.free s.nextTag s.nextTask s.nextLaunch portTime portPhase s.variant s.serial s.baseMac dieWords s.mem
      poison retired ceHistory chans dies clusters groups accs slices crushers links parts launches tasks admission shareAt
      ports qps image flash power restart dev sec) :=
  h.trans ⟨.refl _, .refl _, .refl _, .refl _, List.prefix_rfl, le_rfl, le_rfl, le_rfl, le_rfl, id⟩

/-- An update that sends, counts forward and writes memory canonically. -/
theorem kept_upd_all {z s : State} {out : List Out} {free nextTag nextTask nextLaunch : Nat} {mem : List Host.Cell} {portTime : W64} {portPhase : Nat} {dieWords : SMap (List W64)} {poison : SMap Byte} {retired : List Retired} {ceHistory
    : List (Nat × Nat × Nat)} {chans : SMap Chan} {dies : SMap Die} {clusters : SMap Cluster} {groups : SMap (Option Group)}
    {accs : List Access} {slices : SMap Slice} {crushers : SMap Crusher} {links : SMap Link} {parts : SMap Part} {launches :
    List Launch} {tasks : List Task} {admission : Admission} {shareAt : W64} {ports : SMap Port} {qps : SMap Qp} {image :
    Image} {flash : Flash} {power : Power} {restart : Restart} {dev : Dev} {sec : Sec}
    (h : Kept z s) (ho : s.out <+: out := by exact List.prefix_rfl) (hf : s.free ≤ free := by omega)
    (ht : s.nextTag ≤ nextTag := by omega) (hk : s.nextTask ≤ nextTask := by omega) (hl : s.nextLaunch ≤ nextLaunch := by omega)
    (hm : Memory.wf s.mem = true → Memory.wf mem = true) :
    Kept z (State.mk s.pending out free nextTag nextTask nextLaunch portTime portPhase s.variant s.serial s.baseMac dieWords mem
      poison retired ceHistory chans dies clusters groups accs slices crushers links parts launches tasks admission shareAt
      ports qps image flash power restart dev sec) :=
  h.trans ⟨.refl _, .refl _, .refl _, .refl _, ho, hf, ht, hk, hl, hm⟩

theorem kept_foldl {β : Type} {z s : State} {f : State → β → State} {l : List β} (hf : ∀ t b, Kept z t → Kept z (f t b))
    (h : Kept z s) : Kept z (l.foldl f s) := by
  induction l generalizing s with
  | nil => exact h
  | cons b l ih => exact ih (hf s b h)

/-- A fold that carries more than the state. -/
theorem kept_foldl_fst {β γ : Type} {z : State} {f : State × γ → β → State × γ} {l : List β} {p : State × γ}
    (hf : ∀ t b, Kept z t.1 → Kept z (f t b).1) (h : Kept z p.1) : Kept z (l.foldl f p).1 := by
  induction l generalizing p with
  | nil => exact h
  | cons b l ih => exact ih (hf p b h)

theorem kept_of_fst {β : Type} {z t : State} {p : State × β} {b : β} (e : p = (t, b)) (h : Kept z p.1) : Kept z t := by
  rw [e] at h; exact h

theorem kept_of_snd {β : Type} {z t : State} {p : β × State} {b : β} (e : p = (b, t)) (h : Kept z p.2) : Kept z t := by
  rw [e] at h; exact h

theorem kept_getD {z s : State} {o : Option State} (ho : ∀ t, o = some t → Kept z t) (h : Kept z s) : Kept z (o.getD s) := by
  cases o with
  | none => exact h
  | some t => exact ho t rfl

theorem kept_map {β : Type} {z t : State} {f : β → State} {o : Option β} (e : o.map f = some t) (h : ∀ u, o = some u → Kept z (f u)) :
    Kept z t := by
  obtain ⟨u, hu, rfl⟩ := Option.map_eq_some_iff.1 e
  exact h u hu

theorem kept_emit {z s : State} {o : Out} (h : Kept z s) : Kept z (emit s o) :=
  h.trans ⟨.refl _, .refl _, .refl _, .refl _, List.prefix_append _ _, le_rfl, le_rfl, le_rfl, le_rfl, id⟩

theorem kept_emits {z s : State} {os : List Out} (h : Kept z s) : Kept z (emits s os) :=
  h.trans ⟨.refl _, .refl _, .refl _, .refl _, List.prefix_append _ _, le_rfl, le_rfl, le_rfl, le_rfl, id⟩

theorem kept_freeVal {z s : State} (h : Kept z s) : Kept z (freeVal s).2 :=
  h.trans ⟨.refl _, .refl _, .refl _, .refl _, List.prefix_rfl, Nat.le_succ _, le_rfl, le_rfl, le_rfl, id⟩

end Sys2Proof.Machine
end

