-- ==== Sys2Proof/Laws/KeptStore.lean ====
section
/-! SUPPORT. `Kept` for the operations and meanings of the tables, the caches and crushers, memory and the operands. -/

namespace Sys2Proof.Machine

set_option linter.unusedVariables false
set_option linter.tactic.unusedName false
set_option linter.unusedTactic false
set_option linter.unreachableTactic false

/-! ### Store -/

theorem kept_setDie {z0 : State} {s : State} {d : Nat} {v : Die} (k0 : Kept z0 s) :
    Kept z0 (setDie s d v) := by
  unfold setDie
  repeat' first | with_reducible assumption | intro _ | split | fail_if_no_progress with_reducible apply kept_upd

theorem kept_modDie {z0 : State} {s : State} {d : Nat} {f : Die → Die} (k0 : Kept z0 s) :
    Kept z0 (modDie s d f) := by
  unfold modDie
  repeat' first
    | with_reducible assumption | intro _ | with_reducible apply kept_setDie | split
    | fail_if_no_progress with_reducible apply kept_upd

theorem kept_setCluster {z0 : State} {s : State} {c : Nat} {v : Cluster} (k0 : Kept z0 s) :
    Kept z0 (setCluster s c v) := by
  unfold setCluster
  repeat' first | with_reducible assumption | intro _ | split | fail_if_no_progress with_reducible apply kept_upd

theorem kept_modCluster {z0 : State} {s : State} {c : Nat} {f : Cluster → Cluster} (k0 : Kept z0 s) :
    Kept z0 (modCluster s c f) := by
  unfold modCluster
  repeat' first
    | with_reducible assumption | intro _ | with_reducible apply kept_setCluster | split
    | fail_if_no_progress with_reducible apply kept_upd

theorem kept_setGroup {z0 : State} {s : State} {g : Nat} {v : Option Group} (k0 : Kept z0 s) :
    Kept z0 (setGroup s g v) := by
  unfold setGroup
  repeat' first | with_reducible assumption | intro _ | split | fail_if_no_progress with_reducible apply kept_upd

theorem kept_modGroup {z0 : State} {s : State} {g : Nat} {f : Group → Group} (k0 : Kept z0 s) :
    Kept z0 (modGroup s g f) := by
  unfold modGroup
  repeat' first
    | with_reducible assumption | intro _ | with_reducible apply kept_setGroup
    | with_reducible refine kept_map ‹Option.map _ _ = some _› (fun _ _ => ?_) | split
    | fail_if_no_progress with_reducible apply kept_upd

theorem kept_setSlice {z0 : State} {s : State} {i : Nat} {v : Slice} (k0 : Kept z0 s) :
    Kept z0 (setSlice s i v) := by
  unfold setSlice
  repeat' first | with_reducible assumption | intro _ | split | fail_if_no_progress with_reducible apply kept_upd

theorem kept_modSlice {z0 : State} {s : State} {i : Nat} {f : Slice → Slice} (k0 : Kept z0 s) :
    Kept z0 (modSlice s i f) := by
  unfold modSlice
  repeat' first
    | with_reducible assumption | intro _ | with_reducible apply kept_setSlice | split
    | fail_if_no_progress with_reducible apply kept_upd

theorem kept_setCrusher {z0 : State} {s : State} {i : Nat} {v : Crusher} (k0 : Kept z0 s) :
    Kept z0 (setCrusher s i v) := by
  unfold setCrusher
  repeat' first | with_reducible assumption | intro _ | split | fail_if_no_progress with_reducible apply kept_upd

theorem kept_modCrusher {z0 : State} {s : State} {i : Nat} {f : Crusher → Crusher} (k0 : Kept z0 s) :
    Kept z0 (modCrusher s i f) := by
  unfold modCrusher
  repeat' first
    | with_reducible assumption | intro _ | with_reducible apply kept_setCrusher | split
    | fail_if_no_progress with_reducible apply kept_upd

theorem kept_setLink {z0 : State} {s : State} {i : Nat} {v : Link} (k0 : Kept z0 s) :
    Kept z0 (setLink s i v) := by
  unfold setLink
  repeat' first | with_reducible assumption | intro _ | split | fail_if_no_progress with_reducible apply kept_upd

theorem kept_modLink {z0 : State} {s : State} {i : Nat} {f : Link → Link} (k0 : Kept z0 s) :
    Kept z0 (modLink s i f) := by
  unfold modLink
  repeat' first
    | with_reducible assumption | intro _ | with_reducible apply kept_setLink | split
    | fail_if_no_progress with_reducible apply kept_upd

theorem kept_setPart {z0 : State} {s : State} {p : Nat} {v : Part} (k0 : Kept z0 s) :
    Kept z0 (setPart s p v) := by
  unfold setPart
  repeat' first | with_reducible assumption | intro _ | split | fail_if_no_progress with_reducible apply kept_upd

theorem kept_modPart {z0 : State} {s : State} {p : Nat} {f : Part → Part} (k0 : Kept z0 s) :
    Kept z0 (modPart s p f) := by
  unfold modPart
  repeat' first
    | with_reducible assumption | intro _ | with_reducible apply kept_setPart | split
    | fail_if_no_progress with_reducible apply kept_upd

theorem kept_setQueue {z0 : State} {s : State} {p q : Nat} {v : Queue} (k0 : Kept z0 s) :
    Kept z0 (setQueue s p q v) := by
  unfold setQueue
  repeat' first
    | with_reducible assumption | intro _ | with_reducible apply kept_modPart | split
    | fail_if_no_progress with_reducible apply kept_upd

theorem kept_modQueue {z0 : State} {s : State} {p q : Nat} {f : Queue → Queue} (k0 : Kept z0 s) :
    Kept z0 (modQueue s p q f) := by
  unfold modQueue
  repeat' first
    | with_reducible assumption | intro _ | with_reducible apply kept_setQueue | split
    | fail_if_no_progress with_reducible apply kept_upd

theorem kept_setCtx {z0 : State} {s : State} {p c : Nat} {v : Option Ctx} (k0 : Kept z0 s) :
    Kept z0 (setCtx s p c v) := by
  unfold setCtx
  repeat' first
    | with_reducible assumption | intro _ | with_reducible apply kept_modPart | split
    | fail_if_no_progress with_reducible apply kept_upd

theorem kept_setGraph {z0 : State} {s : State} {p h : Nat} {v : Option Graph} (k0 : Kept z0 s) :
    Kept z0 (setGraph s p h v) := by
  unfold setGraph
  repeat' first
    | with_reducible assumption | intro _ | with_reducible apply kept_modPart | split
    | fail_if_no_progress with_reducible apply kept_upd

theorem kept_setChan {z0 : State} {s : State} {i : Nat} {v : Chan} (k0 : Kept z0 s) :
    Kept z0 (setChan s i v) := by
  unfold setChan
  repeat' first | with_reducible assumption | intro _ | split | fail_if_no_progress with_reducible apply kept_upd

theorem kept_modChan {z0 : State} {s : State} {i : Nat} {f : Chan → Chan} (k0 : Kept z0 s) :
    Kept z0 (modChan s i f) := by
  unfold modChan
  repeat' first
    | with_reducible assumption | intro _ | with_reducible apply kept_setChan | split
    | fail_if_no_progress with_reducible apply kept_upd

theorem kept_setPort {z0 : State} {s : State} {n h : Nat} {v : Port} (k0 : Kept z0 s) :
    Kept z0 (setPort s n h v) := by
  unfold setPort
  repeat' first | with_reducible assumption | intro _ | split | fail_if_no_progress with_reducible apply kept_upd

theorem kept_modPort {z0 : State} {s : State} {n h : Nat} {f : Port → Port} (k0 : Kept z0 s) :
    Kept z0 (modPort s n h f) := by
  unfold modPort
  repeat' first
    | with_reducible assumption | intro _ | with_reducible apply kept_setPort | split
    | fail_if_no_progress with_reducible apply kept_upd

theorem kept_setQp {z0 : State} {s : State} {i : Nat} {v : Qp} (k0 : Kept z0 s) :
    Kept z0 (setQp s i v) := by
  unfold setQp
  repeat' first | with_reducible assumption | intro _ | split | fail_if_no_progress with_reducible apply kept_upd

theorem kept_modQp {z0 : State} {s : State} {i : Nat} {f : Qp → Qp} (k0 : Kept z0 s) :
    Kept z0 (modQp s i f) := by
  unfold modQp
  repeat' first
    | with_reducible assumption | intro _ | with_reducible apply kept_setQp | split
    | fail_if_no_progress with_reducible apply kept_upd

/-! ### Cache -/

theorem kept_setMemPoison {z0 : State} {s : State} {line : Nat} {p : W32} (k0 : Kept z0 s) :
    Kept z0 (setMemPoison s line p) := by
  unfold setMemPoison
  repeat' first
    | with_reducible assumption | intro _ | with_reducible apply kept_foldl | split
    | fail_if_no_progress with_reducible apply kept_upd

theorem kept_activate {z0 : State} {s : State} {pa : Nat} (k0 : Kept z0 s) :
    Kept z0 (activate s pa) := by
  unfold activate
  repeat' first
    | with_reducible assumption | intro _ | with_reducible apply kept_modChan | split
    | fail_if_no_progress with_reducible apply kept_upd | dsimp +zetaDelta only

theorem kept_memStore {z0 : State} {s : State} {line : Nat} {be : BitVec 128} {whole : BitVec 4} {d : Line} {p : W32} (k0 :
    Kept z0 s) :
    Kept z0 (memStore s line be whole d p) := by
  unfold memStore
  repeat' first
    | with_reducible assumption | intro _ | with_reducible apply kept_activate | with_reducible apply kept_setMemPoison
    | (extract_lets +onlyGivenNames x;
        refine (fun (_ : Kept z0 x) => ?_) ?_; (on_goal 1 => rename' x => y); (on_goal 2 => unfold x; clear x))
    | (extract_lets +onlyGivenNames x; rename' x => y) | split | refine kept_upd_all ?_ (hm := ?_)
    | with_reducible exact wf_nil | with_reducible exact memPutLine_wf _ _ _ ‹_› | with_reducible exact writeBytes_wf _ _ ‹_›
    | exact wf_filter _ ‹_› | exact foldl_writeByte_wf _ _ _ (wf_filter _ ‹_›) | exact id | dsimp +zetaDelta only

theorem kept_memStoreLine {z0 : State} {s : State} {line : Nat} {mask : BitVec 4} {d : Line} {p : W32} (k0 : Kept z0 s) :
    Kept z0 (memStoreLine s line mask d p) := by
  unfold memStoreLine
  repeat' first
    | with_reducible assumption | intro _ | with_reducible apply kept_memStore | split
    | fail_if_no_progress with_reducible apply kept_upd

theorem kept_memStoreBytes {z0 : State} {s : State} {line : Nat} {be : BitVec 128} {d : Line} {p : W32} (k0 : Kept z0 s) :
    Kept z0 (memStoreBytes s line be d p) := by
  unfold memStoreBytes
  repeat' first
    | with_reducible assumption | intro _ | with_reducible apply kept_memStore | split
    | fail_if_no_progress with_reducible apply kept_upd

theorem kept_sendRaw {z0 : State} {s : State} {name : String} {dest line : Nat} {v : Line} {sectors : BitVec 4} {p : W32} (k0
    : Kept z0 s) :
    Kept z0 (sendRaw s name dest line v sectors p) := by
  unfold sendRaw
  repeat' first
    | with_reducible assumption | intro _ | with_reducible apply kept_emit | split
    | fail_if_no_progress with_reducible apply kept_upd

theorem kept_sendData {z0 : State} {s : State} {name : String} {dest line : Nat} {v : Line} {sectors : BitVec 4} {p : W32} (k0
    : Kept z0 s) :
    Kept z0 (sendData s name dest line v sectors p) := by
  unfold sendData
  repeat' first
    | with_reducible assumption | intro _ | with_reducible apply kept_emit | with_reducible apply kept_sendRaw | split
    | fail_if_no_progress with_reducible apply kept_upd

theorem kept_evictLine {z0 : State} {s : State} {sid : Nat} {c : CLine} (k0 : Kept z0 s) :
    Kept z0 (evictLine s sid c) := by
  unfold evictLine
  repeat' first
    | with_reducible assumption | intro _ | with_reducible apply kept_modSlice | with_reducible apply kept_emit
    | (extract_lets +onlyGivenNames x;
        refine (fun (_ : Kept z0 x) => ?_) ?_; (on_goal 1 => rename' x => y); (on_goal 2 => unfold x; clear x))
    | (extract_lets +onlyGivenNames x; rename' x => y) | split | fail_if_no_progress with_reducible apply kept_upd
    | dsimp +zetaDelta only

theorem kept_makeRoom {z0 s t : State} {sid set slots k : Nat} (k0 : Kept z0 s) (e : makeRoom sid set slots k s = some t) :
    Kept z0 t := by
  induction k generalizing s with
  | zero => simp [makeRoom] at e
  | succ k ih =>
    simp only [makeRoom] at e
    split at e
    · cases e; exact k0
    · split at e
      · cases e
      · split at e
        · cases e
        · exact ih (kept_evictLine k0) e

theorem kept_placeLine {z0 s t : State} {sid : Nat} {c : CLine} (k0 : Kept z0 s) (e : placeLine s sid c = some t) : Kept z0 t
    := by
  unfold placeLine at e
  extract_lets sl c1 s0 at e
  split at e
  · cases e
  · split at e
    · cases e
    · next h => cases e; exact kept_modSlice (kept_makeRoom (kept_modSlice k0) h)

theorem kept_touchLine {z0 : State} {s : State} {sid line : Nat} (k0 : Kept z0 s) :
    Kept z0 (touchLine s sid line) := by
  unfold touchLine
  repeat' first
    | with_reducible assumption | intro _ | with_reducible apply kept_modSlice | split
    | fail_if_no_progress with_reducible apply kept_upd

theorem kept_setLine {z0 : State} {s : State} {sid : Nat} {c : CLine} (k0 : Kept z0 s) :
    Kept z0 (setLine s sid c) := by
  unfold setLine
  repeat' first
    | with_reducible assumption | intro _ | with_reducible apply kept_modSlice | split
    | fail_if_no_progress with_reducible apply kept_upd

theorem kept_loseLine {z0 : State} {s : State} {sid line : Nat} (k0 : Kept z0 s) :
    Kept z0 (loseLine s sid line) := by
  unfold loseLine
  repeat' first
    | with_reducible assumption | intro _ | with_reducible apply kept_modSlice
    | with_reducible refine kept_map ‹Option.map _ _ = some _› (fun _ _ => ?_) | split
    | fail_if_no_progress with_reducible apply kept_upd

theorem kept_holdLine {z0 s t : State} {sid line : Nat} (k0 : Kept z0 s) (e : holdLine s sid line = some t) : Kept z0 t := by
  unfold holdLine at e
  extract_lets sl full at e
  split at e <;> split at e
  · cases e
  · exact kept_placeLine k0 e
  · cases e
  · exact kept_placeLine k0 e

theorem kept_releaseLine {z0 : State} {s : State} {sid line : Nat} (k0 : Kept z0 s) :
    Kept z0 (releaseLine s sid line) := by
  unfold releaseLine
  repeat' first
    | with_reducible assumption | intro _ | with_reducible apply kept_modSlice
    | (extract_lets +onlyGivenNames x;
        refine (fun (_ : Kept z0 x) => ?_) ?_; (on_goal 1 => rename' x => y); (on_goal 2 => unfold x; clear x))
    | (extract_lets +onlyGivenNames x; rename' x => y) | split | fail_if_no_progress with_reducible apply kept_upd
    | refine kept_upd_all ?_ (hm := ?_) | with_reducible exact wf_nil | with_reducible exact memPutLine_wf _ _ _ ‹_›
    | with_reducible exact writeBytes_wf _ _ ‹_› | exact wf_filter _ ‹_› | exact foldl_writeByte_wf _ _ _ (wf_filter _ ‹_›)
    | exact id | dsimp +zetaDelta only

theorem kept_writeSpoilOut {z0 : State} {s : State} {i : Nat} (k0 : Kept z0 s) :
    Kept z0 (writeSpoilOut s i) := by
  unfold writeSpoilOut
  repeat' first
    | with_reducible assumption | intro _ | with_reducible apply kept_modSlice | with_reducible apply kept_sendData
    | with_reducible apply kept_memStoreLine | with_reducible apply kept_emit
    | (extract_lets +onlyGivenNames x;
        refine (fun (_ : Kept z0 x) => ?_) ?_; (on_goal 1 => rename' x => y); (on_goal 2 => unfold x; clear x))
    | (extract_lets +onlyGivenNames x; rename' x => y) | split | fail_if_no_progress with_reducible apply kept_upd
    | dsimp +zetaDelta only

theorem kept_drainSpoil {z0 s : State} {i k : Nat} (k0 : Kept z0 s) : Kept z0 (drainSpoil i k s) := by
  induction k generalizing s with
  | zero => exact k0
  | succ k ih =>
    simp only [drainSpoil]
    split
    · exact k0
    · exact ih (kept_writeSpoilOut k0)

/-! ### Crusher -/

theorem kept_putHome {z0 s : State} {h : Nat} {c : CLine} (k0 : Kept z0 s) : Kept z0 (putHome s h c) := by
  unfold putHome
  extract_lets room
  have kr : Kept z0 room := by
    unfold room; split
    · exact kept_drainSpoil k0
    · exact k0
  clear_value room
  split
  · next u e =>
      cases h1 : placeLine s h c with
      | some v => rw [h1] at e; cases e; exact kept_placeLine k0 h1
      | none => rw [h1] at e; exact kept_placeLine kr e
  · exact kept_memStoreLine (kept_modSlice kr)

theorem kept_homeStore {z0 : State} {s : State} {h line : Nat} {be : BitVec 128} {d : Line} {p : W32} {attr : Nat} (k0 : Kept
    z0 s) :
    Kept z0 (homeStore s h line be d p attr) := by
  unfold homeStore
  repeat' first
    | with_reducible assumption | intro _ | with_reducible apply kept_memStoreBytes | with_reducible apply kept_modSlice
    | with_reducible apply kept_putHome
    | (extract_lets +onlyGivenNames x;
        refine (fun (_ : Kept z0 x) => ?_) ?_; (on_goal 1 => rename' x => y); (on_goal 2 => unfold x; clear x))
    | (extract_lets +onlyGivenNames x; rename' x => y) | split | fail_if_no_progress with_reducible apply kept_upd
    | dsimp +zetaDelta only

theorem kept_spillLine {z0 : State} {s : State} {h : Nat} {v : OpenLine} (k0 : Kept z0 s) :
    Kept z0 (spillLine s h v) := by
  unfold spillLine
  repeat' first
    | with_reducible assumption | intro _ | with_reducible apply kept_modCrusher | with_reducible apply kept_foldl
    | (extract_lets +onlyGivenNames x;
        refine (fun (_ : Kept z0 x) => ?_) ?_; (on_goal 1 => rename' x => y); (on_goal 2 => unfold x; clear x))
    | (extract_lets +onlyGivenNames x; rename' x => y) | split | fail_if_no_progress with_reducible apply kept_upd
    | refine kept_upd_all ?_ (hm := ?_) | with_reducible exact wf_nil | with_reducible exact memPutLine_wf _ _ _ ‹_›
    | with_reducible exact writeBytes_wf _ _ ‹_› | exact wf_filter _ ‹_› | exact foldl_writeByte_wf _ _ _ (wf_filter _ ‹_›)
    | exact id | dsimp +zetaDelta only

theorem kept_spillFor {z0 s : State} {h need k : Nat} (k0 : Kept z0 s) : Kept z0 (spillFor h need k s) := by
  induction k generalizing s with
  | zero => exact k0
  | succ k ih =>
    simp only [spillFor]
    split
    · exact k0
    · split
      · exact k0
      · exact ih (kept_spillLine k0)

theorem kept_backLine {z0 : State} {s : State} {h line : Nat} (k0 : Kept z0 s) :
    Kept z0 (backLine s h line) := by
  unfold backLine
  repeat' first
    | with_reducible assumption | intro _ | with_reducible apply kept_spillFor | with_reducible apply kept_modCrusher
    | with_reducible apply kept_modSlice
    | (extract_lets +onlyGivenNames x;
        refine (fun (_ : Kept z0 x) => ?_) ?_; (on_goal 1 => rename' x => y); (on_goal 2 => unfold x; clear x))
    | (extract_lets +onlyGivenNames x; rename' x => y)
    | with_reducible refine kept_map ‹Option.map _ _ = some _› (fun _ _ => ?_) | split
    | fail_if_no_progress with_reducible apply kept_upd | dsimp +zetaDelta only

theorem kept_touchMemory {z0 : State} {s : State} {h line : Nat} (k0 : Kept z0 s) :
    Kept z0 (touchMemory s h line) := by
  unfold touchMemory
  repeat' first
    | with_reducible assumption | intro _ | with_reducible apply kept_activate
    | (extract_lets +onlyGivenNames x;
        refine (fun (_ : Kept z0 x) => ?_) ?_; (on_goal 1 => rename' x => y); (on_goal 2 => unfold x; clear x))
    | (extract_lets +onlyGivenNames x; rename' x => y) | with_reducible refine kept_getD (fun _ _ => ?_) ?_
    | with_reducible refine kept_map ‹Option.map _ _ = some _› (fun _ _ => ?_) | split
    | fail_if_no_progress with_reducible apply kept_upd | dsimp +zetaDelta only

theorem kept_freeHome {z0 : State} {s : State} {h line : Nat} (k0 : Kept z0 s) :
    Kept z0 (freeHome s h line) := by
  unfold freeHome
  repeat' first
    | with_reducible assumption | intro _ | with_reducible apply kept_modSlice | with_reducible apply kept_loseLine | split
    | fail_if_no_progress with_reducible apply kept_upd

theorem kept_openLine {z0 : State} {s : State} {h : Nat} {k : CruPacket} {form : AccForm} (k0 : Kept z0 s) :
    Kept z0 (openLine s h k form) := by
  unfold openLine
  repeat' first
    | with_reducible assumption | intro _ | with_reducible apply kept_spillFor | with_reducible apply kept_freeHome
    | with_reducible apply kept_touchMemory | with_reducible apply kept_modCrusher
    | (extract_lets +onlyGivenNames x;
        refine (fun (_ : Kept z0 x) => ?_) ?_; (on_goal 1 => rename' x => y); (on_goal 2 => unfold x; clear x))
    | (extract_lets +onlyGivenNames x; rename' x => y) | split | fail_if_no_progress with_reducible apply kept_upd
    | dsimp +zetaDelta only

theorem kept_closeOpen {z0 : State} {s : State} {h line : Nat} (k0 : Kept z0 s) :
    Kept z0 (closeOpen s h line) := by
  unfold closeOpen
  repeat' first
    | with_reducible assumption | intro _ | with_reducible apply kept_backLine | with_reducible apply kept_modCrusher
    | with_reducible apply kept_memStoreLine | with_reducible apply kept_homeStore
    | (extract_lets +onlyGivenNames x;
        refine (fun (_ : Kept z0 x) => ?_) ?_; (on_goal 1 => rename' x => y); (on_goal 2 => unfold x; clear x))
    | (extract_lets +onlyGivenNames x; rename' x => y) | split | fail_if_no_progress with_reducible apply kept_upd
    | dsimp +zetaDelta only

theorem kept_discardOpen {z0 : State} {s : State} {h line : Nat} (k0 : Kept z0 s) :
    Kept z0 (discardOpen s h line) := by
  unfold discardOpen
  repeat' first
    | with_reducible assumption | intro _ | with_reducible apply kept_modCrusher | with_reducible apply kept_putHome
    | (extract_lets +onlyGivenNames x;
        refine (fun (_ : Kept z0 x) => ?_) ?_; (on_goal 1 => rename' x => y); (on_goal 2 => unfold x; clear x))
    | (extract_lets +onlyGivenNames x; rename' x => y) | split | fail_if_no_progress with_reducible apply kept_upd
    | dsimp +zetaDelta only

theorem kept_contribute {z0 : State} {s : State} {h : Nat} {k : CruPacket} (k0 : Kept z0 s) :
    Kept z0 (contribute s h k) := by
  unfold contribute
  repeat' first
    | with_reducible assumption | intro _ | with_reducible apply kept_modCrusher | with_reducible apply kept_foldl | split
    | fail_if_no_progress with_reducible apply kept_upd

/-! ### Coherent -/

theorem kept_settle {z0 : State} {s : State} {line : Nat} (k0 : Kept z0 s) :
    Kept z0 (settle s line) := by
  unfold settle
  repeat' first
    | with_reducible assumption | intro _ | with_reducible apply kept_closeOpen | split
    | fail_if_no_progress with_reducible apply kept_upd

theorem kept_agentRead {z0 s : State} {line attr : Nat} {evict : Bool} (k0 : Kept z0 s) : Kept z0 (agentRead s line attr
    evict) := by
  unfold agentRead
  split
  · exact k0
  · exact k0
  · rename_i h g
    extract_lets s1 sl owned
    have k1 : Kept z0 s1 := kept_touchMemory (kept_settle k0)
    clear_value s1
    split
    · exact k1
    · split
      extract_lets old c
      split
      split
      · exact kept_getD (fun _ e => kept_placeLine k1 e) k1
      · exact k1

theorem kept_agentReads {z0 : State} {s : State} {pa n attr : Nat} {evict : Bool} (k0 : Kept z0 s) :
    Kept z0 (agentReads s pa n attr evict) := by
  unfold agentReads
  repeat' first
    | with_reducible assumption | intro _ | with_reducible apply kept_agentRead | with_reducible apply kept_foldl | split
    | fail_if_no_progress with_reducible apply kept_upd

theorem kept_dropProxies {z0 : State} {s : State} {line : Nat} (k0 : Kept z0 s) :
    Kept z0 (dropProxies s line) := by
  unfold dropProxies
  repeat' first
    | with_reducible assumption | intro _ | with_reducible apply kept_modSlice | with_reducible apply kept_loseLine
    | with_reducible apply kept_foldl
    | (extract_lets +onlyGivenNames x;
        refine (fun (_ : Kept z0 x) => ?_) ?_; (on_goal 1 => rename' x => y); (on_goal 2 => unfold x; clear x))
    | (extract_lets +onlyGivenNames x; rename' x => y)
    | with_reducible refine kept_map ‹Option.map _ _ = some _› (fun _ _ => ?_) | split
    | fail_if_no_progress with_reducible apply kept_upd | dsimp +zetaDelta only

theorem kept_coherentWrite {z0 : State} {s : State} {line : Nat} {be : BitVec 128} {d : Line} {p : W32} {attr : Nat} (k0 :
    Kept z0 s) :
    Kept z0 (coherentWrite s line be d p attr) := by
  unfold coherentWrite
  repeat' first
    | with_reducible assumption | intro _ | with_reducible apply kept_settle | with_reducible apply kept_memStoreBytes
    | with_reducible apply kept_dropProxies | with_reducible apply kept_homeStore
    | (extract_lets +onlyGivenNames x;
        refine (fun (_ : Kept z0 x) => ?_) ?_; (on_goal 1 => rename' x => y); (on_goal 2 => unfold x; clear x))
    | (extract_lets +onlyGivenNames x; rename' x => y) | split | fail_if_no_progress with_reducible apply kept_upd
    | dsimp +zetaDelta only

theorem kept_writePhys {z0 : State} {s : State} {pa : Nat} {bs : List Byte} {attr : Nat} (k0 : Kept z0 s) :
    Kept z0 (writePhys s pa bs attr) := by
  unfold writePhys
  repeat' first
    | with_reducible assumption | intro _ | with_reducible apply kept_coherentWrite | with_reducible apply kept_foldl
    | (extract_lets +onlyGivenNames x;
        refine (fun (_ : Kept z0 x) => ?_) ?_; (on_goal 1 => rename' x => y); (on_goal 2 => unfold x; clear x))
    | (extract_lets +onlyGivenNames x; rename' x => y) | split | fail_if_no_progress with_reducible apply kept_upd
    | refine kept_upd_all ?_ (hm := ?_) | with_reducible exact wf_nil | with_reducible exact memPutLine_wf _ _ _ ‹_›
    | with_reducible exact writeBytes_wf _ _ ‹_› | exact wf_filter _ ‹_› | exact foldl_writeByte_wf _ _ _ (wf_filter _ ‹_›)
    | exact id | dsimp +zetaDelta only

theorem kept_poisonSector {z0 : State} {s : State} {sec : Nat} {o : Byte} (k0 : Kept z0 s) :
    Kept z0 (poisonSector s sec o) := by
  unfold poisonSector
  repeat' first
    | with_reducible assumption | intro _ | with_reducible apply kept_settle | with_reducible apply kept_homeStore
    | with_reducible apply kept_dropProxies | with_reducible apply kept_modSlice
    | (extract_lets +onlyGivenNames x;
        refine (fun (_ : Kept z0 x) => ?_) ?_; (on_goal 1 => rename' x => y); (on_goal 2 => unfold x; clear x))
    | (extract_lets +onlyGivenNames x; rename' x => y) | split | fail_if_no_progress with_reducible apply kept_upd
    | dsimp +zetaDelta only

/-! ### Ops -/

theorem kept_countUe {z0 : State} {s : State} (k0 : Kept z0 s) :
    Kept z0 (countUe s) := by
  unfold countUe
  repeat' first | with_reducible assumption | intro _ | split | fail_if_no_progress with_reducible apply kept_upd

theorem kept_countCe {z0 : State} {s : State} (k0 : Kept z0 s) :
    Kept z0 (countCe s) := by
  unfold countCe
  repeat' first | with_reducible assumption | intro _ | split | fail_if_no_progress with_reducible apply kept_upd

theorem kept_countRetry {z0 : State} {s : State} (k0 : Kept z0 s) :
    Kept z0 (countRetry s) := by
  unfold countRetry
  repeat' first | with_reducible assumption | intro _ | split | fail_if_no_progress with_reducible apply kept_upd

theorem kept_countRet {z0 : State} {s : State} (k0 : Kept z0 s) :
    Kept z0 (countRet s) := by
  unfold countRet
  repeat' first | with_reducible assumption | intro _ | split | fail_if_no_progress with_reducible apply kept_upd

theorem kept_raiseFatal {z0 : State} {s : State} {cause : Nat} {dies : BitVec 9} (k0 : Kept z0 s) :
    Kept z0 (raiseFatal s cause dies) := by
  unfold raiseFatal
  repeat' first | with_reducible assumption | intro _ | split | fail_if_no_progress with_reducible apply kept_upd

theorem kept_pumpQp {z0 : State} {s : State} {q : Nat} (k0 : Kept z0 s) :
    Kept z0 (pumpQp s q) := by
  unfold pumpQp
  repeat' first
    | with_reducible assumption | intro _ | with_reducible apply kept_emits | with_reducible apply kept_setQp
    | (extract_lets +onlyGivenNames x;
        refine (fun (_ : Kept z0 x) => ?_) ?_; (on_goal 1 => rename' x => y); (on_goal 2 => unfold x; clear x))
    | (extract_lets +onlyGivenNames x; rename' x => y)
    | with_reducible refine kept_map ‹Option.map _ _ = some _› (fun _ _ => ?_) | split
    | fail_if_no_progress with_reducible apply kept_upd | dsimp +zetaDelta only

theorem kept_postRequest {z0 : State} {s : State} {q : Nat} {r : QpReq} (k0 : Kept z0 s) :
    Kept z0 (postRequest s q r) := by
  unfold postRequest
  repeat' first
    | with_reducible assumption | intro _ | with_reducible apply kept_pumpQp | with_reducible apply kept_setQp
    | (extract_lets +onlyGivenNames x;
        refine (fun (_ : Kept z0 x) => ?_) ?_; (on_goal 1 => rename' x => y); (on_goal 2 => unfold x; clear x))
    | (extract_lets +onlyGivenNames x; rename' x => y) | split | fail_if_no_progress with_reducible apply kept_upd
    | dsimp +zetaDelta only

theorem kept_deliverEvent {z0 : State} {s : State} {p : Nat} {e : List Byte} (k0 : Kept z0 s) :
    Kept z0 (deliverEvent s p e) := by
  unfold deliverEvent
  repeat' first
    | with_reducible assumption | intro _ | with_reducible apply kept_setPart | with_reducible apply kept_postRequest
    | with_reducible apply kept_emit
    | (extract_lets +onlyGivenNames x;
        refine (fun (_ : Kept z0 x) => ?_) ?_; (on_goal 1 => rename' x => y); (on_goal 2 => unfold x; clear x))
    | (extract_lets +onlyGivenNames x; rename' x => y) | split | fail_if_no_progress with_reducible apply kept_upd
    | dsimp +zetaDelta only

theorem kept_holdEvent {z0 : State} {s : State} {p : Nat} {e : List Byte} (k0 : Kept z0 s) :
    Kept z0 (holdEvent s p e) := by
  unfold holdEvent
  repeat' first
    | with_reducible assumption | intro _ | with_reducible apply kept_modPart | split
    | fail_if_no_progress with_reducible apply kept_upd

theorem kept_postEvent {z0 : State} {s : State} {p : Nat} {e : List Byte} (k0 : Kept z0 s) :
    Kept z0 (postEvent s p e) := by
  unfold postEvent
  repeat' first
    | with_reducible assumption | intro _ | with_reducible apply kept_holdEvent | with_reducible apply kept_deliverEvent
    | (extract_lets +onlyGivenNames x;
        refine (fun (_ : Kept z0 x) => ?_) ?_; (on_goal 1 => rename' x => y); (on_goal 2 => unfold x; clear x))
    | (extract_lets +onlyGivenNames x; rename' x => y) | split | fail_if_no_progress with_reducible apply kept_upd
    | dsimp +zetaDelta only

theorem kept_postEvents {z0 : State} {s : State} {ps : List Nat} {e : List Byte} (k0 : Kept z0 s) :
    Kept z0 (postEvents s ps e) := by
  unfold postEvents
  repeat' first
    | with_reducible assumption | intro _ | with_reducible apply kept_postEvent | with_reducible apply kept_foldl | split
    | fail_if_no_progress with_reducible apply kept_upd

theorem kept_releaseEvents {z0 s : State} {p k : Nat} (k0 : Kept z0 s) : Kept z0 (releaseEvents p k s) := by
  induction k generalizing s with
  | zero => exact k0
  | succ k ih =>
    simp only [releaseEvents]
    split
    · exact k0
    · split
      · exact k0
      · exact ih (kept_deliverEvent (kept_modPart k0))

theorem kept_modTask {z0 : State} {s : State} {tag : Nat} {f : Task → Task} (k0 : Kept z0 s) :
    Kept z0 (modTask s tag f) := by
  unfold modTask
  repeat' first | with_reducible assumption | intro _ | split | fail_if_no_progress with_reducible apply kept_upd

theorem kept_modLaunch {z0 : State} {s : State} {id : Nat} {f : Launch → Launch} (k0 : Kept z0 s) :
    Kept z0 (modLaunch s id f) := by
  unfold modLaunch
  repeat' first | with_reducible assumption | intro _ | split | fail_if_no_progress with_reducible apply kept_upd

theorem kept_agentWrite {z0 : State} {s : State} {p pa : Nat} {bs : List Byte} (k0 : Kept z0 s) :
    Kept z0 (agentWrite s p pa bs) := by
  unfold agentWrite
  repeat' first
    | with_reducible assumption | intro _ | with_reducible apply kept_writePhys | with_reducible apply kept_foldl
    | (extract_lets +onlyGivenNames x;
        refine (fun (_ : Kept z0 x) => ?_) ?_; (on_goal 1 => rename' x => y); (on_goal 2 => unfold x; clear x))
    | (extract_lets +onlyGivenNames x; rename' x => y) | split | fail_if_no_progress with_reducible apply kept_upd
    | dsimp +zetaDelta only

theorem kept_clearRecord {z0 : State} {s : State} {p : Nat} {c : Ctx} {number : Nat} (k0 : Kept z0 s) :
    Kept z0 (clearRecord s p c number) := by
  unfold clearRecord
  repeat' first
    | with_reducible assumption | intro _ | with_reducible apply kept_agentWrite | split
    | fail_if_no_progress with_reducible apply kept_upd

theorem kept_parkGroup {z0 : State} {s : State} {gid : Nat} {k : Park} (k0 : Kept z0 s) :
    Kept z0 (parkGroup s gid k) := by
  unfold parkGroup
  repeat' first
    | with_reducible assumption | intro _ | with_reducible apply kept_setGroup | with_reducible apply kept_setCtx
    | with_reducible apply kept_agentWrite | with_reducible apply kept_postEvent
    | (extract_lets +onlyGivenNames x;
        refine (fun (_ : Kept z0 x) => ?_) ?_; (on_goal 1 => rename' x => y); (on_goal 2 => unfold x; clear x))
    | (extract_lets +onlyGivenNames x; rename' x => y) | with_reducible refine kept_getD (fun _ _ => ?_) ?_
    | with_reducible refine kept_map ‹Option.map _ _ = some _› (fun _ _ => ?_) | split
    | fail_if_no_progress with_reducible apply kept_upd | dsimp +zetaDelta only

theorem kept_parkAt {z0 : State} {s : State} {gid : Nat} {p : Path} {code addr : Nat} {word : W64} {mask : W32} (k0 : Kept z0
    s) :
    Kept z0 (parkAt s gid p code addr word mask) := by
  unfold parkAt
  repeat' first
    | with_reducible assumption | intro _ | with_reducible apply kept_parkGroup | split
    | fail_if_no_progress with_reducible apply kept_upd

/-! ### Memory -/

theorem kept_addJournal {z0 : State} {s : State} {r : JRec} (k0 : Kept z0 s) :
    Kept z0 (addJournal s r) := by
  unfold addJournal
  repeat' first | with_reducible assumption | intro _ | split | fail_if_no_progress with_reducible apply kept_upd

theorem kept_failStock {z0 : State} {s : State} {ch : Nat} (k0 : Kept z0 s) :
    Kept z0 (failStock s ch) := by
  unfold failStock
  repeat' first
    | with_reducible assumption | intro _ | with_reducible apply kept_modChan
    | (extract_lets +onlyGivenNames x;
        refine (fun (_ : Kept z0 x) => ?_) ?_; (on_goal 1 => rename' x => y); (on_goal 2 => unfold x; clear x))
    | (extract_lets +onlyGivenNames x; rename' x => y) | split | fail_if_no_progress with_reducible apply kept_upd
    | dsimp +zetaDelta only

theorem kept_loseRange {z0 : State} {s : State} {base size : Nat} (k0 : Kept z0 s) :
    Kept z0 (loseRange s base size) := by
  unfold loseRange
  repeat' first | with_reducible assumption | intro _ | split | fail_if_no_progress with_reducible apply kept_upd

theorem kept_forceRow {z0 : State} {s : State} {x : Retired} (k0 : Kept z0 s) :
    Kept z0 (forceRow s x) := by
  unfold forceRow
  repeat' first
    | with_reducible assumption | intro _ | with_reducible apply kept_loseRange | with_reducible apply kept_addJournal
    | (extract_lets +onlyGivenNames x;
        refine (fun (_ : Kept z0 x) => ?_) ?_; (on_goal 1 => rename' x => y); (on_goal 2 => unfold x; clear x))
    | (extract_lets +onlyGivenNames x; rename' x => y) | split | fail_if_no_progress with_reducible apply kept_upd
    | dsimp +zetaDelta only

theorem kept_forceRows {z0 : State} {s : State} (k0 : Kept z0 s) :
    Kept z0 (forceRows s) := by
  unfold forceRows
  repeat' first
    | with_reducible assumption | intro _ | with_reducible apply kept_forceRow | with_reducible apply kept_foldl | split
    | fail_if_no_progress with_reducible apply kept_upd

theorem kept_judgeRows {z0 : State} {s : State} {ch : Nat} (k0 : Kept z0 s) :
    Kept z0 (judgeRows s ch) := by
  unfold judgeRows
  repeat' first
    | with_reducible assumption | intro _ | with_reducible apply kept_failStock | with_reducible apply kept_addJournal | split
    | fail_if_no_progress with_reducible apply kept_upd

theorem kept_retireRow {z0 : State} {s : State} {pa : Nat} {inForce : Bool} (k0 : Kept z0 s) :
    Kept z0 (retireRow s pa inForce) := by
  unfold retireRow
  repeat' first
    | with_reducible assumption | intro _ | with_reducible apply kept_forceRow | with_reducible apply kept_countRet
    | with_reducible apply kept_addJournal | with_reducible apply kept_postEvents | with_reducible apply kept_judgeRows
    | with_reducible apply kept_loseRange
    | (extract_lets +onlyGivenNames x;
        refine (fun (_ : Kept z0 x) => ?_) ?_; (on_goal 1 => rename' x => y); (on_goal 2 => unfold x; clear x))
    | (extract_lets +onlyGivenNames x; rename' x => y) | split | fail_if_no_progress with_reducible apply kept_upd
    | dsimp +zetaDelta only

theorem kept_ueUnit {z0 : State} {s : State} {pa : Nat} (k0 : Kept z0 s) :
    Kept z0 (ueUnit s pa) := by
  unfold ueUnit
  repeat' first
    | with_reducible assumption | intro _ | with_reducible apply kept_retireRow | with_reducible apply kept_countUe
    | (extract_lets +onlyGivenNames x;
        refine (fun (_ : Kept z0 x) => ?_) ?_; (on_goal 1 => rename' x => y); (on_goal 2 => unfold x; clear x))
    | (extract_lets +onlyGivenNames x; rename' x => y) | split | fail_if_no_progress with_reducible apply kept_upd
    | dsimp +zetaDelta only

theorem kept_ceUnit {z0 : State} {s : State} {pa : Nat} (k0 : Kept z0 s) :
    Kept z0 (ceUnit s pa) := by
  unfold ceUnit
  repeat' first
    | with_reducible assumption | intro _ | with_reducible apply kept_countCe | with_reducible apply kept_retireRow
    | (extract_lets +onlyGivenNames x;
        refine (fun (_ : Kept z0 x) => ?_) ?_; (on_goal 1 => rename' x => y); (on_goal 2 => unfold x; clear x))
    | (extract_lets +onlyGivenNames x; rename' x => y)
    | with_reducible refine kept_map ‹Option.map _ _ = some _› (fun _ _ => ?_) | split
    | fail_if_no_progress with_reducible apply kept_upd | dsimp +zetaDelta only

theorem kept_garbled {z0 s : State} {pa n : Nat} (k0 : Kept z0 s) : Kept z0 (garbled s pa n) := by
  induction n generalizing s pa with
  | zero => exact k0
  | succ n ih =>
    simp only [garbled]
    exact ih (kept_upd_all (kept_freeVal k0) (hm := fun w => writeLE_wf _ _ _ w))

theorem kept_memEcc {z0 : State} {s : State} {pa : Nat} {f : MemFault} (k0 : Kept z0 s) :
    Kept z0 (memEcc s pa f) := by
  unfold memEcc
  repeat' first
    | with_reducible assumption | intro _ | with_reducible apply kept_ceUnit | with_reducible apply kept_ueUnit
    | with_reducible apply kept_freeVal | with_reducible apply kept_garbled | with_reducible refine kept_of_fst ‹_ = (_, _)› ?_
    | with_reducible refine kept_of_snd ‹_ = (_, _)› ?_
    | (extract_lets +onlyGivenNames x;
        refine (fun (_ : Kept z0 x) => ?_) ?_; (on_goal 1 => rename' x => y); (on_goal 2 => unfold x; clear x))
    | (extract_lets +onlyGivenNames x; rename' x => y) | split | fail_if_no_progress with_reducible apply kept_upd
    | dsimp +zetaDelta only

theorem kept_readMem {z0 : State} {s : State} {line : Nat} {fs : List MemFault} (k0 : Kept z0 s) :
    Kept z0 (readMem s line fs) := by
  unfold readMem
  repeat' first
    | with_reducible assumption | intro _ | with_reducible apply kept_memEcc | with_reducible apply kept_activate
    | with_reducible apply kept_foldl | split | fail_if_no_progress with_reducible apply kept_upd

theorem kept_generateKeys {z0 s : State} (k0 : Kept z0 s) : Kept z0 (generateKeys s) :=
  kept_upd_all k0 (hf := Nat.le_add_right _ _) (hm := id)

theorem kept_setClusterFence {z0 : State} {s : State} {c : Nat} {fenced : Bool} {cause : Nat} (k0 : Kept z0 s) :
    Kept z0 (setClusterFence s c fenced cause) := by
  unfold setClusterFence
  repeat' first
    | with_reducible assumption | intro _ | with_reducible apply kept_modDie | with_reducible apply kept_modCluster
    | with_reducible apply kept_emits | with_reducible apply kept_postEvents
    | (extract_lets +onlyGivenNames x;
        refine (fun (_ : Kept z0 x) => ?_) ?_; (on_goal 1 => rename' x => y); (on_goal 2 => unfold x; clear x))
    | (extract_lets +onlyGivenNames x; rename' x => y)
    | with_reducible refine kept_map ‹Option.map _ _ = some _› (fun _ _ => ?_) | split
    | fail_if_no_progress with_reducible apply kept_upd | dsimp +zetaDelta only

theorem kept_setSliceFence {z0 : State} {s : State} {i : Nat} {fenced : Bool} {cause : Nat} (k0 : Kept z0 s) :
    Kept z0 (setSliceFence s i fenced cause) := by
  unfold setSliceFence
  repeat' first
    | with_reducible assumption | intro _ | with_reducible apply kept_modDie | with_reducible apply kept_postEvents
    | (extract_lets +onlyGivenNames x;
        refine (fun (_ : Kept z0 x) => ?_) ?_; (on_goal 1 => rename' x => y); (on_goal 2 => unfold x; clear x))
    | (extract_lets +onlyGivenNames x; rename' x => y) | split | fail_if_no_progress with_reducible apply kept_upd
    | dsimp +zetaDelta only

theorem kept_setDieHeld {z0 : State} {s : State} {d : Nat} {held : Bool} {cause : Nat} (k0 : Kept z0 s) :
    Kept z0 (setDieHeld s d held cause) := by
  unfold setDieHeld
  repeat' first
    | with_reducible assumption | intro _ | with_reducible apply kept_modDie | with_reducible apply kept_postEvents
    | (extract_lets +onlyGivenNames x;
        refine (fun (_ : Kept z0 x) => ?_) ?_; (on_goal 1 => rename' x => y); (on_goal 2 => unfold x; clear x))
    | (extract_lets +onlyGivenNames x; rename' x => y) | split | fail_if_no_progress with_reducible apply kept_upd
    | dsimp +zetaDelta only

theorem kept_sendReg {z0 : State} {s : State} {sid : Nat} (k0 : Kept z0 s) :
    Kept z0 (sendReg s sid) := by
  unfold sendReg
  repeat' first
    | with_reducible assumption | intro _ | with_reducible apply kept_emits | with_reducible apply kept_modSlice
    | with_reducible refine kept_map ‹Option.map _ _ = some _› (fun _ _ => ?_) | split
    | fail_if_no_progress with_reducible apply kept_upd

theorem kept_drainLine {z0 : State} {i : Nat} {s : State} {c : CLine} (k0 : Kept z0 s) :
    Kept z0 (drainLine i s c) := by
  unfold drainLine
  repeat' first
    | with_reducible assumption | intro _ | with_reducible apply kept_evictLine | split
    | fail_if_no_progress with_reducible apply kept_upd

theorem kept_drainStep {z0 : State} {s : State} {i : Nat} (k0 : Kept z0 s) :
    Kept z0 (drainStep s i) := by
  unfold drainStep
  repeat' first
    | with_reducible assumption | intro _ | with_reducible apply kept_drainLine | with_reducible apply kept_sendReg
    | with_reducible apply kept_modSlice | with_reducible apply kept_foldl
    | (extract_lets +onlyGivenNames x;
        refine (fun (_ : Kept z0 x) => ?_) ?_; (on_goal 1 => rename' x => y); (on_goal 2 => unfold x; clear x))
    | (extract_lets +onlyGivenNames x; rename' x => y) | split | fail_if_no_progress with_reducible apply kept_upd
    | dsimp +zetaDelta only

theorem kept_drainSlice {z0 : State} {s : State} {i : Nat} (k0 : Kept z0 s) :
    Kept z0 (drainSlice s i) := by
  unfold drainSlice
  repeat' first
    | with_reducible assumption | intro _ | with_reducible apply kept_drainStep | with_reducible apply kept_modSlice
    | (extract_lets +onlyGivenNames x;
        refine (fun (_ : Kept z0 x) => ?_) ?_; (on_goal 1 => rename' x => y); (on_goal 2 => unfold x; clear x))
    | (extract_lets +onlyGivenNames x; rename' x => y)
    | with_reducible refine kept_map ‹Option.map _ _ = some _› (fun _ _ => ?_) | split
    | fail_if_no_progress with_reducible apply kept_upd | dsimp +zetaDelta only

theorem kept_persistentError {z0 : State} {s : State} {c : Nat} (k0 : Kept z0 s) :
    Kept z0 (persistentError s c) := by
  unfold persistentError
  repeat' first
    | with_reducible assumption | intro _ | with_reducible apply kept_setClusterFence | split
    | fail_if_no_progress with_reducible apply kept_upd

/-! ### Operands -/

theorem kept_dropAccess {z0 : State} {s : State} {tag : Nat} (k0 : Kept z0 s) :
    Kept z0 (dropAccess s tag) := by
  unfold dropAccess
  repeat' first | with_reducible assumption | intro _ | split | fail_if_no_progress with_reducible apply kept_upd

theorem kept_failAccess {z0 : State} {s : State} {tag code : Nat} (k0 : Kept z0 s) :
    Kept z0 (failAccess s tag code) := by
  unfold failAccess
  repeat' first
    | with_reducible assumption | intro _ | with_reducible apply kept_parkGroup | with_reducible apply kept_foldl
    | (extract_lets +onlyGivenNames x;
        refine (fun (_ : Kept z0 x) => ?_) ?_; (on_goal 1 => rename' x => y); (on_goal 2 => unfold x; clear x))
    | (extract_lets +onlyGivenNames x; rename' x => y) | split | fail_if_no_progress with_reducible apply kept_upd
    | dsimp +zetaDelta only

theorem kept_writePieces {z0 s : State} {gid : Nat} {d : Line} {ps : List Piece} (k0 : Kept z0 s) :
    Kept z0 (writePieces s gid d ps) := by
  induction ps generalizing s with
  | nil => exact k0
  | cons p ps ih =>
    simp only [writePieces]
    apply ih
    split
    · exact kept_modGroup k0
    · split
      · exact kept_modGroup k0
      · split
        · exact kept_modGroup (kept_freeVal k0)
        · exact kept_modGroup k0

theorem kept_writeOlds {z0 s : State} {gid : Nat} {ps : List Piece} {os : List Nat} (k0 : Kept z0 s) :
    Kept z0 (writeOlds s gid ps os) := by
  induction ps generalizing s os with
  | nil => cases os <;> exact k0
  | cons p ps ih =>
    cases os with
    | nil => exact k0
    | cons o os => exact ih (kept_modGroup k0)

theorem kept_finishLoad {z0 : State} {s : State} {a : Access} {d : Line} {poison : W32} (k0 : Kept z0 s) :
    Kept z0 (finishLoad s a d poison) := by
  unfold finishLoad
  repeat' first
    | with_reducible assumption | intro _ | with_reducible apply kept_failAccess | with_reducible apply kept_dropAccess
    | with_reducible apply kept_writePieces | with_reducible apply kept_foldl
    | (extract_lets +onlyGivenNames x;
        refine (fun (_ : Kept z0 x) => ?_) ?_; (on_goal 1 => rename' x => y); (on_goal 2 => unfold x; clear x))
    | (extract_lets +onlyGivenNames x; rename' x => y) | with_reducible refine kept_getD (fun _ _ => ?_) ?_ | split
    | fail_if_no_progress with_reducible apply kept_upd | dsimp +zetaDelta only

end Sys2Proof.Machine
end

