-- ==== Sys2Proof/Laws/KeptHome.lean ====
section
/-! SUPPORT. `Kept` for the operations and meanings of the home agents, the tick, issue, admission, pins and fences. -/

namespace Sys2Proof.Machine

set_option linter.unusedVariables false
set_option linter.tactic.unusedName false
set_option linter.unusedTactic false
set_option linter.unreachableTactic false

/-! ### Home -/

theorem kept_setFilter {z0 : State} {s : State} {h line : Nat} {mask : BitVec 8} {owner : Bool} (k0 : Kept z0 s) :
    Kept z0 (setFilter s h line mask owner) := by
  unfold setFilter
  repeat' first
    | with_reducible assumption | intro _ | with_reducible apply kept_modSlice | split
    | fail_if_no_progress with_reducible apply kept_upd

theorem kept_reserveFilter {z0 : State} {s : State} {h line : Nat} {grant : Bool} (k0 : Kept z0 s) :
    Kept z0 (reserveFilter s h line grant) := by
  unfold reserveFilter
  repeat' first
    | with_reducible assumption | intro _ | with_reducible apply kept_modSlice | split
    | fail_if_no_progress with_reducible apply kept_upd

theorem kept_freeFilter {z0 : State} {s : State} {h line : Nat} (k0 : Kept z0 s) :
    Kept z0 (freeFilter s h line) := by
  unfold freeFilter
  repeat' first
    | with_reducible assumption | intro _ | with_reducible apply kept_modSlice | split
    | fail_if_no_progress with_reducible apply kept_upd

theorem kept_keepDirty {z0 : State} {s : State} {h line : Nat} {buf : Option (Line × BitVec 4 × W32)} (k0 : Kept z0 s) :
    Kept z0 (keepDirty s h line buf) := by
  unfold keepDirty
  repeat' first
    | with_reducible assumption | intro _ | with_reducible apply kept_homeStore | split
    | fail_if_no_progress with_reducible apply kept_upd

theorem kept_ackUpdate {z0 : State} {s : State} {k : CruPacket} {code : Nat} (k0 : Kept z0 s) :
    Kept z0 (ackUpdate s k code) := by
  unfold ackUpdate
  repeat' first
    | with_reducible assumption | intro _ | with_reducible apply kept_emits
    | with_reducible refine kept_map ‹Option.map _ _ = some _› (fun _ _ => ?_) | split
    | fail_if_no_progress with_reducible apply kept_upd

theorem kept_markReduced {z0 : State} {s : State} {task : Nat} (k0 : Kept z0 s) :
    Kept z0 (markReduced s task) := by
  unfold markReduced
  repeat' first
    | with_reducible assumption | intro _ | with_reducible apply kept_modQueue | split
    | fail_if_no_progress with_reducible apply kept_upd

theorem kept_applyRounded {z0 : State} {s : State} {h : Nat} {k : CruPacket} (k0 : Kept z0 s) :
    Kept z0 (applyRounded s h k) := by
  unfold applyRounded
  repeat' first
    | with_reducible assumption | intro _ | with_reducible apply kept_homeStore | with_reducible apply kept_ackUpdate
    | with_reducible apply kept_modGroup | with_reducible apply kept_failAccess | with_reducible apply kept_dropAccess
    | with_reducible apply kept_writeOlds | with_reducible apply kept_foldl
    | (extract_lets +onlyGivenNames x;
        refine (fun (_ : Kept z0 x) => ?_) ?_; (on_goal 1 => rename' x => y); (on_goal 2 => unfold x; clear x))
    | (extract_lets +onlyGivenNames x; rename' x => y) | split | fail_if_no_progress with_reducible apply kept_upd
    | dsimp +zetaDelta only

theorem kept_applyAdd {z0 : State} {s : State} {h : Nat} {k : CruPacket} (k0 : Kept z0 s) :
    Kept z0 (applyAdd s h k) := by
  unfold applyAdd
  repeat' first
    | with_reducible assumption | intro _ | with_reducible apply kept_contribute | with_reducible apply kept_openLine
    | with_reducible apply kept_markReduced | with_reducible apply kept_ackUpdate
    | (extract_lets +onlyGivenNames x;
        refine (fun (_ : Kept z0 x) => ?_) ?_; (on_goal 1 => rename' x => y); (on_goal 2 => unfold x; clear x))
    | (extract_lets +onlyGivenNames x; rename' x => y) | split | fail_if_no_progress with_reducible apply kept_upd
    | dsimp +zetaDelta only

theorem kept_applyUpdate {z0 : State} {s : State} {h : Nat} {k : CruPacket} (k0 : Kept z0 s) :
    Kept z0 (applyUpdate s h k) := by
  unfold applyUpdate
  repeat' first
    | with_reducible assumption | intro _ | with_reducible apply kept_ackUpdate | with_reducible apply kept_applyRounded
    | with_reducible apply kept_applyAdd | with_reducible apply kept_closeOpen | with_reducible apply kept_contribute
    | with_reducible apply kept_markReduced
    | (extract_lets +onlyGivenNames x;
        refine (fun (_ : Kept z0 x) => ?_) ?_; (on_goal 1 => rename' x => y); (on_goal 2 => unfold x; clear x))
    | (extract_lets +onlyGivenNames x; rename' x => y) | split | fail_if_no_progress with_reducible apply kept_upd
    | dsimp +zetaDelta only

theorem kept_sendFills {z0 : State} {s : State} {i : Nat} {m : Miss} {v : Line} {p : W32} (k0 : Kept z0 s) :
    Kept z0 (sendFills s i m v p) := by
  unfold sendFills
  repeat' first
    | with_reducible assumption | intro _ | with_reducible apply kept_emit | with_reducible apply kept_sendRaw
    | with_reducible apply kept_foldl
    | (extract_lets +onlyGivenNames x;
        refine (fun (_ : Kept z0 x) => ?_) ?_; (on_goal 1 => rename' x => y); (on_goal 2 => unfold x; clear x))
    | (extract_lets +onlyGivenNames x; rename' x => y) | split | fail_if_no_progress with_reducible apply kept_upd
    | dsimp +zetaDelta only

theorem kept_dropMiss {z0 : State} {s : State} {i line : Nat} (k0 : Kept z0 s) :
    Kept z0 (dropMiss s i line) := by
  unfold dropMiss
  repeat' first
    | with_reducible assumption | intro _ | with_reducible apply kept_modSlice | split
    | fail_if_no_progress with_reducible apply kept_upd

theorem kept_releaseHome {z0 : State} {s : State} {h line : Nat} (k0 : Kept z0 s) :
    Kept z0 (releaseHome s h line) := by
  unfold releaseHome
  repeat' first
    | with_reducible assumption | intro _ | with_reducible apply kept_freeFilter | with_reducible apply kept_releaseLine
    | (extract_lets +onlyGivenNames x;
        refine (fun (_ : Kept z0 x) => ?_) ?_; (on_goal 1 => rename' x => y); (on_goal 2 => unfold x; clear x))
    | (extract_lets +onlyGivenNames x; rename' x => y) | split | fail_if_no_progress with_reducible apply kept_upd
    | dsimp +zetaDelta only

theorem kept_wholeHome {z0 : State} {s : State} {h line : Nat} {v : Line} {q : W32} {dirty : BitVec 4} (k0 : Kept z0 s) :
    Kept z0 (wholeHome s h line v q dirty) := by
  unfold wholeHome
  repeat' first
    | with_reducible assumption | intro _ | with_reducible apply kept_putHome | split
    | fail_if_no_progress with_reducible apply kept_upd

theorem kept_keepWhole {z0 : State} {s : State} {h line : Nat} {buf : Option (Line × BitVec 4 × W32)} (k0 : Kept z0 s) :
    Kept z0 (keepWhole s h line buf) := by
  unfold keepWhole
  repeat' first
    | with_reducible assumption | intro _ | with_reducible apply kept_wholeHome | with_reducible apply kept_keepDirty
    | (extract_lets +onlyGivenNames x;
        refine (fun (_ : Kept z0 x) => ?_) ?_; (on_goal 1 => rename' x => y); (on_goal 2 => unfold x; clear x))
    | (extract_lets +onlyGivenNames x; rename' x => y) | split | fail_if_no_progress with_reducible apply kept_upd
    | dsimp +zetaDelta only

theorem kept_homeFill {z0 : State} {s : State} {h line : Nat} {buf : Option (Line × BitVec 4 × W32)} (k0 : Kept z0 s) :
    Kept z0 (homeFill s h line buf) := by
  unfold homeFill
  repeat' first
    | with_reducible assumption | intro _ | with_reducible apply kept_sendFills | with_reducible apply kept_dropMiss
    | with_reducible apply kept_keepWhole | with_reducible apply kept_setFilter | with_reducible apply kept_releaseHome
    | (extract_lets +onlyGivenNames x;
        refine (fun (_ : Kept z0 x) => ?_) ?_; (on_goal 1 => rename' x => y); (on_goal 2 => unfold x; clear x))
    | (extract_lets +onlyGivenNames x; rename' x => y) | split | fail_if_no_progress with_reducible apply kept_upd
    | dsimp +zetaDelta only

theorem kept_grantOwner {z0 : State} {s : State} {h line d : Nat} {buf : Option (Line × BitVec 4 × W32)} (k0 : Kept z0 s) :
    Kept z0 (grantOwner s h line d buf) := by
  unfold grantOwner
  repeat' first
    | with_reducible assumption | intro _ | with_reducible apply kept_setFilter | with_reducible apply kept_freeHome
    | with_reducible apply kept_sendData
    | (extract_lets +onlyGivenNames x;
        refine (fun (_ : Kept z0 x) => ?_) ?_; (on_goal 1 => rename' x => y); (on_goal 2 => unfold x; clear x))
    | (extract_lets +onlyGivenNames x; rename' x => y) | split | fail_if_no_progress with_reducible apply kept_upd
    | dsimp +zetaDelta only

theorem kept_joinHome {z0 : State} {s : State} {h line : Nat} {f : Miss → Miss} (k0 : Kept z0 s) :
    Kept z0 (joinHome s h line f) := by
  unfold joinHome
  repeat' first
    | with_reducible assumption | intro _ | with_reducible apply kept_modSlice | split
    | fail_if_no_progress with_reducible apply kept_upd

theorem kept_finishReq {z0 : State} {s : State} {h line : Nat} {r : HomeReq} {buf : Option (Line × BitVec 4 × W32)} (k0 : Kept
    z0 s) :
    Kept z0 (finishReq s h line r buf) := by
  unfold finishReq
  repeat' first
    | with_reducible assumption | intro _ | with_reducible apply kept_joinHome | with_reducible apply kept_sendData
    | with_reducible apply kept_setFilter | with_reducible apply kept_keepWhole | with_reducible apply kept_grantOwner
    | with_reducible apply kept_freeHome | with_reducible apply kept_emit | with_reducible apply kept_memStoreLine
    | with_reducible apply kept_sendRaw | with_reducible apply kept_homeStore | with_reducible apply kept_keepDirty
    | with_reducible apply kept_applyUpdate | with_reducible apply kept_homeFill | with_reducible apply kept_dropAccess
    | (extract_lets +onlyGivenNames x;
        refine (fun (_ : Kept z0 x) => ?_) ?_; (on_goal 1 => rename' x => y); (on_goal 2 => unfold x; clear x))
    | (extract_lets +onlyGivenNames x; rename' x => y) | split | fail_if_no_progress with_reducible apply kept_upd
    | dsimp +zetaDelta only

theorem kept_startReq {z0 s t : State} {h line : Nat} {r : HomeReq} (k0 : Kept z0 s) (e : startReq s h line r = some t) : Kept
    z0 t := by
  unfold startReq at e
  extract_lets sl sp ms of at e
  split at e
  · cases e
  · split at e
    · cases e
    · split at e
      · cases e
      · rename_i u hu
        have ku : Kept z0 u := by
          split at hu
          · exact kept_holdLine k0 hu
          · cases hu; exact k0
        clear hu
        extract_lets s1 s2 sl2 at e
        have k1 : Kept z0 s2 := by
          unfold s2 s1
          apply kept_reserveFilter
          split
          · exact ku
          · exact kept_closeOpen ku
        clear_value s2
        split at e
        split at e
        · split at e
          · split at e
            · cases e; exact kept_homeFill k1
            · cases e; exact kept_emit (kept_joinHome k1)
          · cases e; exact kept_releaseHome (kept_finishReq k1)
        · cases e; exact kept_emit (kept_modSlice k1)

theorem kept_makeEntry {z0 : State} {s : State} {h line : Nat} (k0 : Kept z0 s) :
    Kept z0 (makeEntry s h line) := by
  unfold makeEntry
  repeat' first
    | with_reducible assumption | intro _ | with_reducible refine kept_startReq ?_ ‹_ = some _›
    | with_reducible refine kept_getD (fun _ _ => ?_) ?_ | split | fail_if_no_progress with_reducible apply kept_upd

theorem kept_homeTake {z0 : State} {s : State} {h line : Nat} {r : HomeReq} (k0 : Kept z0 s) :
    Kept z0 (homeTake s h line r) := by
  unfold homeTake
  repeat' first
    | with_reducible assumption | intro _ | with_reducible apply kept_modSlice
    | with_reducible refine kept_startReq ?_ ‹_ = some _› | with_reducible apply kept_makeEntry
    | (extract_lets +onlyGivenNames x;
        refine (fun (_ : Kept z0 x) => ?_) ?_; (on_goal 1 => rename' x => y); (on_goal 2 => unfold x; clear x))
    | (extract_lets +onlyGivenNames x; rename' x => y) | split | fail_if_no_progress with_reducible apply kept_upd
    | dsimp +zetaDelta only

theorem kept_serveWaiting {z0 : State} {s : State} {h : Nat} (k0 : Kept z0 s) :
    Kept z0 (serveWaiting s h) := by
  unfold serveWaiting
  repeat' first
    | with_reducible assumption | intro _ | with_reducible apply kept_homeTake | with_reducible apply kept_modSlice
    | with_reducible apply kept_foldl
    | (extract_lets +onlyGivenNames x;
        refine (fun (_ : Kept z0 x) => ?_) ?_; (on_goal 1 => rename' x => y); (on_goal 2 => unfold x; clear x))
    | (extract_lets +onlyGivenNames x; rename' x => y) | split | fail_if_no_progress with_reducible apply kept_upd
    | dsimp +zetaDelta only

theorem kept_failMiss {z0 : State} {s : State} {i line code : Nat} (k0 : Kept z0 s) :
    Kept z0 (failMiss s i line code) := by
  unfold failMiss
  repeat' first
    | with_reducible assumption | intro _ | with_reducible apply kept_releaseLine | with_reducible apply kept_dropMiss
    | with_reducible apply kept_failAccess | with_reducible apply kept_foldl
    | (extract_lets +onlyGivenNames x;
        refine (fun (_ : Kept z0 x) => ?_) ?_; (on_goal 1 => rename' x => y); (on_goal 2 => unfold x; clear x))
    | (extract_lets +onlyGivenNames x; rename' x => y)
    | with_reducible refine kept_map ‹Option.map _ _ = some _› (fun _ _ => ?_) | split
    | fail_if_no_progress with_reducible apply kept_upd | dsimp +zetaDelta only

theorem kept_refuseReq {z0 : State} {s : State} {h line : Nat} {r : HomeReq} {code : Nat} (k0 : Kept z0 s) :
    Kept z0 (refuseReq s h line r code) := by
  unfold refuseReq
  repeat' first
    | with_reducible assumption | intro _ | with_reducible apply kept_failMiss | with_reducible apply kept_emit
    | with_reducible apply kept_ackUpdate | with_reducible apply kept_failAccess
    | (extract_lets +onlyGivenNames x;
        refine (fun (_ : Kept z0 x) => ?_) ?_; (on_goal 1 => rename' x => y); (on_goal 2 => unfold x; clear x))
    | (extract_lets +onlyGivenNames x; rename' x => y) | split | fail_if_no_progress with_reducible apply kept_upd
    | dsimp +zetaDelta only

theorem kept_homeArrive {z0 : State} {s : State} {h line : Nat} {r : HomeReq} (k0 : Kept z0 s) :
    Kept z0 (homeArrive s h line r) := by
  unfold homeArrive
  repeat' first
    | with_reducible assumption | intro _ | with_reducible apply kept_refuseReq | with_reducible apply kept_homeTake | split
    | fail_if_no_progress with_reducible apply kept_upd

theorem kept_endTxn {z0 : State} {s : State} {h : Nat} {t : Txn} (k0 : Kept z0 s) :
    Kept z0 (endTxn s h t) := by
  unfold endTxn
  repeat' first
    | with_reducible assumption | intro _ | with_reducible apply kept_modSlice | with_reducible apply kept_serveWaiting
    | with_reducible apply kept_releaseHome | with_reducible apply kept_finishReq
    | (extract_lets +onlyGivenNames x;
        refine (fun (_ : Kept z0 x) => ?_) ?_; (on_goal 1 => rename' x => y); (on_goal 2 => unfold x; clear x))
    | (extract_lets +onlyGivenNames x; rename' x => y) | split | fail_if_no_progress with_reducible apply kept_upd
    | dsimp +zetaDelta only

theorem kept_snoopAnswer {z0 : State} {s : State} {h line d : Nat} {data : Option (Line × BitVec 4 × W32)} {left : Leaves} (k0
    : Kept z0 s) :
    Kept z0 (snoopAnswer s h line d data left) := by
  unfold snoopAnswer
  repeat' first
    | with_reducible assumption | intro _ | with_reducible apply kept_setFilter | with_reducible apply kept_endTxn
    | with_reducible apply kept_modSlice
    | (extract_lets +onlyGivenNames x;
        refine (fun (_ : Kept z0 x) => ?_) ?_; (on_goal 1 => rename' x => y); (on_goal 2 => unfold x; clear x))
    | (extract_lets +onlyGivenNames x; rename' x => y) | split | fail_if_no_progress with_reducible apply kept_upd
    | dsimp +zetaDelta only

/-! ### Slices -/

theorem kept_modMiss {z0 : State} {s : State} {i line : Nat} {f : Miss → Miss} (k0 : Kept z0 s) :
    Kept z0 (modMiss s i line f) := by
  unfold modMiss
  repeat' first
    | with_reducible assumption | intro _ | with_reducible apply kept_modSlice | split
    | fail_if_no_progress with_reducible apply kept_upd

theorem kept_sendRequest {z0 : State} {s : State} {i line : Nat} (k0 : Kept z0 s) :
    Kept z0 (sendRequest s i line) := by
  unfold sendRequest
  repeat' first
    | with_reducible assumption | intro _ | with_reducible apply kept_emit | with_reducible apply kept_modMiss
    | (extract_lets +onlyGivenNames x;
        refine (fun (_ : Kept z0 x) => ?_) ?_; (on_goal 1 => rename' x => y); (on_goal 2 => unfold x; clear x))
    | (extract_lets +onlyGivenNames x; rename' x => y) | with_reducible refine kept_getD (fun _ _ => ?_) ?_
    | with_reducible refine kept_map ‹Option.map _ _ = some _› (fun _ _ => ?_) | split
    | fail_if_no_progress with_reducible apply kept_upd | dsimp +zetaDelta only

theorem kept_joinMiss {z0 s t : State} {i h line : Nat} {add : Miss → Miss} (k0 : Kept z0 s) (e : joinMiss s i h line add =
    some t) :
    Kept z0 t := by
  unfold joinMiss at e
  extract_lets sl opened at e
  have ko : ∀ u, Kept z0 u → Kept z0 (opened u) := fun u ku => kept_modSlice ku
  clear_value opened
  split at e
  · cases e; exact kept_modMiss k0
  · split at e
    · cases e
    · split at e
      · cases e; exact kept_homeArrive (ko _ k0)
      · obtain ⟨u, hu, rfl⟩ := Option.map_eq_some_iff.1 e
        exact kept_sendRequest (ko _ (kept_holdLine k0 hu))

theorem kept_stall {z0 : State} {s : State} {i tag : Nat} (k0 : Kept z0 s) :
    Kept z0 (stall s i tag) := by
  unfold stall
  repeat' first
    | with_reducible assumption | intro _ | with_reducible apply kept_modSlice | split
    | fail_if_no_progress with_reducible apply kept_upd

theorem kept_roFillBoth {z0 : State} {s : State} {cl core line : Nat} {d : Line} (k0 : Kept z0 s) :
    Kept z0 (roFillBoth s cl core line d) := by
  unfold roFillBoth
  repeat' first
    | with_reducible assumption | intro _ | with_reducible apply kept_modCluster | split
    | fail_if_no_progress with_reducible apply kept_upd

theorem kept_invalidateRo {z0 : State} {s : State} {cl : Nat} (k0 : Kept z0 s) :
    Kept z0 (invalidateRo s cl) := by
  unfold invalidateRo
  repeat' first
    | with_reducible assumption | intro _ | with_reducible apply kept_modCluster | split
    | fail_if_no_progress with_reducible apply kept_upd

theorem kept_deliver {z0 : State} {s : State} {a : Access} {d : Line} {p : W32} (k0 : Kept z0 s) :
    Kept z0 (deliver s a d p) := by
  unfold deliver
  repeat' first
    | with_reducible assumption | intro _ | with_reducible apply kept_roFillBoth | with_reducible apply kept_finishLoad
    | (extract_lets +onlyGivenNames x;
        refine (fun (_ : Kept z0 x) => ?_) ?_; (on_goal 1 => rename' x => y); (on_goal 2 => unfold x; clear x))
    | (extract_lets +onlyGivenNames x; rename' x => y) | split | fail_if_no_progress with_reducible apply kept_upd
    | dsimp +zetaDelta only

theorem kept_answerCluster {z0 : State} {s : State} {cl line : Nat} {d : Line} {sectors : BitVec 4} {p : W32} {again : State →
    Nat → State} (k_again : ∀ x0 x1, Kept z0 x0 → Kept z0 (again x0 x1)) (k0 : Kept z0 s) :
    Kept z0 (answerCluster s cl line d sectors p again) := by
  unfold answerCluster
  repeat' first
    | with_reducible assumption | intro _ | with_reducible apply kept_modCluster | with_reducible apply kept_deliver
    | with_reducible apply k_again | with_reducible apply kept_foldl
    | (extract_lets +onlyGivenNames x;
        refine (fun (_ : Kept z0 x) => ?_) ?_; (on_goal 1 => rename' x => y); (on_goal 2 => unfold x; clear x))
    | (extract_lets +onlyGivenNames x; rename' x => y) | split | fail_if_no_progress with_reducible apply kept_upd
    | dsimp +zetaDelta only

theorem kept_loadAtSlice {z0 : State} {s : State} {a : Access} {i h : Nat} (k0 : Kept z0 s) :
    Kept z0 (loadAtSlice s a i h) := by
  unfold loadAtSlice
  repeat' first
    | with_reducible assumption | intro _ | with_reducible apply kept_answerCluster | with_reducible apply kept_stall
    | with_reducible apply kept_modCluster | with_reducible apply kept_emit | with_reducible apply kept_touchLine
    | with_reducible refine kept_joinMiss ?_ ‹_ = some _›
    | (extract_lets +onlyGivenNames x;
        refine (fun (_ : Kept z0 x) => ?_) ?_; (on_goal 1 => rename' x => y); (on_goal 2 => unfold x; clear x))
    | (extract_lets +onlyGivenNames x; rename' x => y) | with_reducible refine kept_getD (fun _ _ => ?_) ?_ | split
    | fail_if_no_progress with_reducible apply kept_upd | dsimp +zetaDelta only

theorem kept_sendRead {z0 : State} {s : State} {a : Access} (k0 : Kept z0 s) :
    Kept z0 (sendRead s a) := by
  unfold sendRead
  repeat' first
    | with_reducible assumption | intro _ | with_reducible apply kept_modCluster | with_reducible apply kept_loadAtSlice
    | with_reducible apply kept_emit
    | (extract_lets +onlyGivenNames x;
        refine (fun (_ : Kept z0 x) => ?_) ?_; (on_goal 1 => rename' x => y); (on_goal 2 => unfold x; clear x))
    | (extract_lets +onlyGivenNames x; rename' x => y) | split | fail_if_no_progress with_reducible apply kept_upd
    | dsimp +zetaDelta only

theorem kept_performLoad {z0 : State} {s : State} {tag : Nat} (k0 : Kept z0 s) :
    Kept z0 (performLoad s tag) := by
  unfold performLoad
  repeat' first
    | with_reducible assumption | intro _ | with_reducible apply kept_finishLoad | with_reducible apply kept_sendRead | split
    | fail_if_no_progress with_reducible apply kept_upd

theorem kept_mergeCopy {z0 s t : State} {i : Nat} {a : Access} {f : CLine → CLine} (k0 : Kept z0 s) (e : mergeCopy s i a f =
    some t) :
    Kept z0 t := by
  unfold mergeCopy at e
  split at e
  · cases e; exact k0
  · exact kept_placeLine k0 e

theorem kept_writeCopy {z0 s t : State} {i : Nat} {a : Access} (k0 : Kept z0 s) (e : writeCopy s i a = some t) : Kept z0 t :=
  kept_mergeCopy k0 e

theorem kept_writeSpoil {z0 : State} {s : State} {i : Nat} {a : Access} (k0 : Kept z0 s) :
    Kept z0 (writeSpoil s i a) := by
  unfold writeSpoil
  repeat' first
    | with_reducible assumption | intro _ | with_reducible apply kept_modSlice
    | (extract_lets +onlyGivenNames x;
        refine (fun (_ : Kept z0 x) => ?_) ?_; (on_goal 1 => rename' x => y); (on_goal 2 => unfold x; clear x))
    | (extract_lets +onlyGivenNames x; rename' x => y) | split | fail_if_no_progress with_reducible apply kept_upd
    | dsimp +zetaDelta only

theorem kept_forwardWrite {z0 : State} {s : State} {a : Access} (k0 : Kept z0 s) :
    Kept z0 (forwardWrite s a) := by
  unfold forwardWrite
  repeat' first
    | with_reducible assumption | intro _ | with_reducible apply kept_emit | split
    | fail_if_no_progress with_reducible apply kept_upd

theorem kept_storeAtSlice {z0 : State} {s : State} {a : Access} {i h : Nat} (k0 : Kept z0 s) :
    Kept z0 (storeAtSlice s a i h) := by
  unfold storeAtSlice
  repeat' first
    | with_reducible assumption | intro _ | with_reducible apply kept_homeArrive | with_reducible apply kept_stall
    | with_reducible refine kept_joinMiss ?_ ‹_ = some _› | with_reducible apply kept_forwardWrite
    | with_reducible apply kept_dropAccess | with_reducible apply kept_writeSpoil
    | with_reducible refine kept_mergeCopy ?_ ‹_ = some _› | with_reducible refine kept_writeCopy ?_ ‹_ = some _›
    | (extract_lets +onlyGivenNames x;
        refine (fun (_ : Kept z0 x) => ?_) ?_; (on_goal 1 => rename' x => y); (on_goal 2 => unfold x; clear x))
    | (extract_lets +onlyGivenNames x; rename' x => y) | with_reducible refine kept_getD (fun _ _ => ?_) ?_
    | with_reducible refine kept_map ‹Option.map _ _ = some _› (fun _ _ => ?_) | split
    | fail_if_no_progress with_reducible apply kept_upd | dsimp +zetaDelta only

theorem kept_performStore {z0 : State} {s : State} {tag : Nat} (k0 : Kept z0 s) :
    Kept z0 (performStore s tag) := by
  unfold performStore
  repeat' first
    | with_reducible assumption | intro _ | with_reducible apply kept_storeAtSlice | with_reducible apply kept_emit | split
    | fail_if_no_progress with_reducible apply kept_upd

theorem kept_serveStores {z0 : State} {s : State} {i : Nat} {tags : List Nat} (k0 : Kept z0 s) :
    Kept z0 (serveStores s i tags) := by
  unfold serveStores
  repeat' first
    | with_reducible assumption | intro _ | with_reducible apply kept_dropAccess
    | with_reducible refine kept_writeCopy ?_ ‹_ = some _› | with_reducible apply kept_foldl
    | with_reducible refine kept_getD (fun _ _ => ?_) ?_ | split | fail_if_no_progress with_reducible apply kept_upd

theorem kept_giveBack {z0 : State} {s : State} {i line : Nat} {st : CohState} {d : Line} {p : W32} (k0 : Kept z0 s) :
    Kept z0 (giveBack s i line st d p) := by
  unfold giveBack
  repeat' first
    | with_reducible assumption | intro _ | with_reducible apply kept_sendData | with_reducible apply kept_modSlice
    | with_reducible apply kept_emit | split | fail_if_no_progress with_reducible apply kept_upd

theorem kept_proxyFill {z0 : State} {s : State} {i line : Nat} {st : CohState} {d : Line} {p : W32} (k0 : Kept z0 s) :
    Kept z0 (proxyFill s i line st d p) := by
  unfold proxyFill
  repeat' first
    | with_reducible assumption | intro _ | with_reducible apply kept_giveBack | with_reducible apply kept_sendFills
    | with_reducible apply kept_dropMiss | with_reducible apply kept_forwardWrite
    | with_reducible refine kept_placeLine ?_ ‹_ = some _› | with_reducible apply kept_sendRequest
    | with_reducible apply kept_modMiss | with_reducible apply kept_releaseLine | with_reducible apply kept_serveStores
    | with_reducible apply kept_foldl
    | (extract_lets +onlyGivenNames x;
        refine (fun (_ : Kept z0 x) => ?_) ?_; (on_goal 1 => rename' x => y); (on_goal 2 => unfold x; clear x))
    | (extract_lets +onlyGivenNames x; rename' x => y) | with_reducible refine kept_getD (fun _ _ => ?_) ?_
    | with_reducible refine kept_map ‹Option.map _ _ = some _› (fun _ _ => ?_) | split
    | fail_if_no_progress with_reducible apply kept_upd | dsimp +zetaDelta only

theorem kept_proxyGrant {z0 : State} {s : State} {i line : Nat} {dirty : Bool} (k0 : Kept z0 s) :
    Kept z0 (proxyGrant s i line dirty) := by
  unfold proxyGrant
  repeat' first
    | with_reducible assumption | intro _ | with_reducible apply kept_setLine | with_reducible apply kept_releaseLine
    | with_reducible apply kept_serveStores | with_reducible apply kept_dropMiss
    | (extract_lets +onlyGivenNames x;
        refine (fun (_ : Kept z0 x) => ?_) ?_; (on_goal 1 => rename' x => y); (on_goal 2 => unfold x; clear x))
    | (extract_lets +onlyGivenNames x; rename' x => y) | split | fail_if_no_progress with_reducible apply kept_upd
    | dsimp +zetaDelta only

theorem kept_retryAccess {z0 : State} {s : State} {i tag : Nat} (k0 : Kept z0 s) :
    Kept z0 (retryAccess s i tag) := by
  unfold retryAccess
  repeat' first
    | with_reducible assumption | intro _ | with_reducible apply kept_loadAtSlice | with_reducible apply kept_storeAtSlice
    | split | fail_if_no_progress with_reducible apply kept_upd

theorem kept_wake {z0 : State} {s : State} {i : Nat} (k0 : Kept z0 s) :
    Kept z0 (wake s i) := by
  unfold wake
  repeat' first
    | with_reducible assumption | intro _ | with_reducible apply kept_serveWaiting | with_reducible apply kept_drainStep
    | with_reducible apply kept_retryAccess | with_reducible apply kept_modSlice | with_reducible apply kept_foldl
    | (extract_lets +onlyGivenNames x;
        refine (fun (_ : Kept z0 x) => ?_) ?_; (on_goal 1 => rename' x => y); (on_goal 2 => unfold x; clear x))
    | (extract_lets +onlyGivenNames x; rename' x => y) | split | fail_if_no_progress with_reducible apply kept_upd
    | dsimp +zetaDelta only

theorem kept_sendSdata {z0 : State} {s : State} {d line : Nat} {v : Line} {dirty : BitVec 4} {p : W32} (k0 : Kept z0 s) :
    Kept z0 (sendSdata s d line v dirty p) := by
  unfold sendSdata
  repeat' first
    | with_reducible assumption | intro _ | with_reducible apply kept_modSlice | with_reducible apply kept_sendData
    | (extract_lets +onlyGivenNames x;
        refine (fun (_ : Kept z0 x) => ?_) ?_; (on_goal 1 => rename' x => y); (on_goal 2 => unfold x; clear x))
    | (extract_lets +onlyGivenNames x; rename' x => y) | split | fail_if_no_progress with_reducible apply kept_upd
    | dsimp +zetaDelta only

theorem kept_snoopSpoil {z0 : State} {s : State} {i d line : Nat} {e : Spoil} (k0 : Kept z0 s) :
    Kept z0 (snoopSpoil s i d line e) := by
  unfold snoopSpoil
  repeat' first
    | with_reducible assumption | intro _ | with_reducible apply kept_modSlice | with_reducible apply kept_sendSdata
    | (extract_lets +onlyGivenNames x;
        refine (fun (_ : Kept z0 x) => ?_) ?_; (on_goal 1 => rename' x => y); (on_goal 2 => unfold x; clear x))
    | (extract_lets +onlyGivenNames x; rename' x => y) | split | fail_if_no_progress with_reducible apply kept_upd
    | dsimp +zetaDelta only

theorem kept_snoopInvalidate {z0 : State} {s : State} {i d line : Nat} (k0 : Kept z0 s) :
    Kept z0 (snoopInvalidate s i d line) := by
  unfold snoopInvalidate
  repeat' first
    | with_reducible assumption | intro _ | with_reducible apply kept_snoopSpoil | with_reducible apply kept_emit
    | with_reducible apply kept_loseLine | with_reducible apply kept_sendSdata
    | (extract_lets +onlyGivenNames x;
        refine (fun (_ : Kept z0 x) => ?_) ?_; (on_goal 1 => rename' x => y); (on_goal 2 => unfold x; clear x))
    | (extract_lets +onlyGivenNames x; rename' x => y) | split | fail_if_no_progress with_reducible apply kept_upd
    | dsimp +zetaDelta only

theorem kept_snoopShare {z0 : State} {s : State} {i d line : Nat} (k0 : Kept z0 s) :
    Kept z0 (snoopShare s i d line) := by
  unfold snoopShare
  repeat' first
    | with_reducible assumption | intro _ | with_reducible apply kept_snoopSpoil | with_reducible apply kept_emit
    | with_reducible apply kept_setLine | with_reducible apply kept_sendSdata
    | (extract_lets +onlyGivenNames x;
        refine (fun (_ : Kept z0 x) => ?_) ?_; (on_goal 1 => rename' x => y); (on_goal 2 => unfold x; clear x))
    | (extract_lets +onlyGivenNames x; rename' x => y) | split | fail_if_no_progress with_reducible apply kept_upd
    | dsimp +zetaDelta only

theorem kept_snoopRead {z0 : State} {s : State} {i d line : Nat} (k0 : Kept z0 s) :
    Kept z0 (snoopRead s i d line) := by
  unfold snoopRead
  repeat' first
    | with_reducible assumption | intro _ | with_reducible apply kept_snoopSpoil | with_reducible apply kept_emit
    | with_reducible apply kept_sendSdata
    | (extract_lets +onlyGivenNames x;
        refine (fun (_ : Kept z0 x) => ?_) ?_; (on_goal 1 => rename' x => y); (on_goal 2 => unfold x; clear x))
    | (extract_lets +onlyGivenNames x; rename' x => y) | split | fail_if_no_progress with_reducible apply kept_upd
    | dsimp +zetaDelta only

/-! ### Tick -/

theorem kept_tickPort {z0 : State} {s : State} (k0 : Kept z0 s) :
    Kept z0 (tickPort s) := by
  unfold tickPort
  repeat' first
    | with_reducible assumption | intro _
    | (extract_lets +onlyGivenNames x;
        refine (fun (_ : Kept z0 x) => ?_) ?_; (on_goal 1 => rename' x => y); (on_goal 2 => unfold x; clear x))
    | (extract_lets +onlyGivenNames x; rename' x => y) | split | fail_if_no_progress with_reducible apply kept_upd
    | dsimp +zetaDelta only

theorem kept_tickDies {z0 : State} {s : State} (k0 : Kept z0 s) :
    Kept z0 (tickDies s) := by
  unfold tickDies
  repeat' first
    | with_reducible assumption | intro _ | with_reducible apply kept_modDie | with_reducible apply kept_foldl | split
    | fail_if_no_progress with_reducible apply kept_upd

theorem kept_tick {z0 : State} {s : State} (k0 : Kept z0 s) :
    Kept z0 (tick s) := by
  unfold tick
  repeat' first
    | with_reducible assumption | intro _ | with_reducible apply kept_tickDies | with_reducible apply kept_tickPort | split
    | fail_if_no_progress with_reducible apply kept_upd

/-! ### Meter -/

theorem kept_modMeter {z0 : State} {s : State} {gid : Nat} {f : Meter → Meter} (k0 : Kept z0 s) :
    Kept z0 (modMeter s gid f) := by
  unfold modMeter
  repeat' first
    | with_reducible assumption | intro _ | with_reducible apply kept_modCluster | split
    | fail_if_no_progress with_reducible apply kept_upd

theorem kept_takeToken {z0 : State} {s : State} {gid : Nat} (k0 : Kept z0 s) :
    Kept z0 (takeToken s gid) := by
  unfold takeToken
  repeat' first
    | with_reducible assumption | intro _ | with_reducible apply kept_modMeter
    | (extract_lets +onlyGivenNames x;
        refine (fun (_ : Kept z0 x) => ?_) ?_; (on_goal 1 => rename' x => y); (on_goal 2 => unfold x; clear x))
    | (extract_lets +onlyGivenNames x; rename' x => y) | split | fail_if_no_progress with_reducible apply kept_upd
    | dsimp +zetaDelta only

theorem kept_paid {z0 : State} {s : State} {gid : Nat} {r : State} (k0 : Kept z0 r) :
    Kept z0 (paid s gid r) := by
  unfold paid
  repeat' first
    | with_reducible assumption | intro _ | with_reducible apply kept_takeToken | with_reducible apply kept_tick
    | (extract_lets +onlyGivenNames x;
        refine (fun (_ : Kept z0 x) => ?_) ?_; (on_goal 1 => rename' x => y); (on_goal 2 => unfold x; clear x))
    | (extract_lets +onlyGivenNames x; rename' x => y) | split | fail_if_no_progress with_reducible apply kept_upd
    | dsimp +zetaDelta only

theorem kept_matrixIssue {z0 : State} {s : State} {gid fa fb n : Nat} (k0 : Kept z0 s) :
    Kept z0 (matrixIssue s gid fa fb n) := by
  unfold matrixIssue
  repeat' first
    | with_reducible assumption | intro _ | with_reducible apply kept_modMeter | with_reducible apply kept_modCluster
    | (extract_lets +onlyGivenNames x;
        refine (fun (_ : Kept z0 x) => ?_) ?_; (on_goal 1 => rename' x => y); (on_goal 2 => unfold x; clear x))
    | (extract_lets +onlyGivenNames x; rename' x => y) | split | fail_if_no_progress with_reducible apply kept_upd
    | dsimp +zetaDelta only

/-! ### Issue -/

theorem kept_tlbAdd {z0 : State} {s : State} {cl : Nat} {e : TlbEntry} (k0 : Kept z0 s) :
    Kept z0 (tlbAdd s cl e) := by
  unfold tlbAdd
  repeat' first
    | with_reducible assumption | intro _ | with_reducible apply kept_modCluster | split
    | fail_if_no_progress with_reducible apply kept_upd

theorem kept_ptrAdd {z0 : State} {s : State} {cl : Nat} {e : PtrEntry} (k0 : Kept z0 s) :
    Kept z0 (ptrAdd s cl e) := by
  unfold ptrAdd
  repeat' first
    | with_reducible assumption | intro _ | with_reducible apply kept_modCluster | split
    | fail_if_no_progress with_reducible apply kept_upd

theorem kept_fetched {z0 : State} {s : State} {gid : Nat} {g : Group} {p : Path} {r : State} (k0 : Kept z0 r) :
    Kept z0 (fetched s gid g p r) := by
  unfold fetched
  repeat' first
    | with_reducible assumption | intro _ | with_reducible apply kept_paid | with_reducible apply kept_ptrAdd
    | with_reducible apply kept_tlbAdd | with_reducible apply kept_roFillBoth | with_reducible apply kept_foldl
    | (extract_lets +onlyGivenNames x;
        refine (fun (_ : Kept z0 x) => ?_) ?_; (on_goal 1 => rename' x => y); (on_goal 2 => unfold x; clear x))
    | (extract_lets +onlyGivenNames x; rename' x => y) | split | fail_if_no_progress with_reducible apply kept_upd
    | dsimp +zetaDelta only

theorem kept_withIssue {z0 : State} {s : State} {gid : Nat} {k : Group → Path → State} (k_k : ∀ x0 x1, Kept z0 (k x0 x1)) (k0
    : Kept z0 s) :
    Kept z0 (withIssue s gid k) := by
  unfold withIssue
  repeat' first
    | with_reducible assumption | intro _ | with_reducible apply kept_parkAt | with_reducible apply kept_fetched
    | with_reducible apply k_k | split | fail_if_no_progress with_reducible apply kept_upd

theorem kept_notReady {z0 : State} {s : State} {gid : Nat} (k0 : Kept z0 s) :
    Kept z0 (notReady s gid) := by
  unfold notReady
  repeat' first
    | with_reducible assumption | intro _ | with_reducible apply kept_freeVal | with_reducible apply kept_modGroup
    | with_reducible refine kept_of_fst ‹_ = (_, _)› ?_ | with_reducible refine kept_of_snd ‹_ = (_, _)› ?_
    | with_reducible refine kept_getD (fun _ _ => ?_) ?_
    | with_reducible refine kept_map ‹Option.map _ _ = some _› (fun _ _ => ?_) | split
    | fail_if_no_progress with_reducible apply kept_upd | dsimp +zetaDelta only

theorem kept_issue {z0 : State} {s : State} {r : GRef} {w : W64} {faults : Group → Path → List (Bool × Nat)} {ready : Group →
    Path → Bool} {act : Group → Path → State} {mask26 : Group → Path → W32} (k_act : ∀ x0 x1, Kept z0 (act x0 x1)) (k0 : Kept
    z0 s) :
    Kept z0 (issue s r w faults ready act mask26) := by
  unfold issue
  repeat' first
    | with_reducible assumption | intro _ | with_reducible apply kept_withIssue | with_reducible apply kept_notReady
    | with_reducible apply kept_parkAt | with_reducible apply kept_countUe | with_reducible apply k_act | split
    | fail_if_no_progress with_reducible apply kept_upd

theorem kept_residue {z0 : State} {s : State} {r : GRef} {p : Path} {w : W64} {fails : Nat} {ok : State → State} (k_ok : ∀ x0,
    Kept z0 x0 → Kept z0 (ok x0)) (k0 : Kept z0 s) :
    Kept z0 (residue s r p w fails ok) := by
  unfold residue
  repeat' first
    | with_reducible assumption | intro _ | with_reducible apply kept_persistentError | with_reducible apply kept_parkAt
    | with_reducible apply kept_countRetry | with_reducible apply k_ok | split
    | fail_if_no_progress with_reducible apply kept_upd

theorem kept_retire {z0 : State} {s : State} {gid : Nat} {g : Group} (k0 : Kept z0 s) :
    Kept z0 (retire s gid g) := by
  unfold retire
  repeat' first
    | with_reducible assumption | intro _ | with_reducible apply kept_setGroup | split
    | fail_if_no_progress with_reducible apply kept_upd

/-! ### Admit -/

theorem kept_resvEvent {z0 : State} {s : State} {r : ResvCfg} {spec : List Byte} (k0 : Kept z0 s) :
    Kept z0 (resvEvent s r spec) := by
  unfold resvEvent
  repeat' first
    | with_reducible assumption | intro _ | with_reducible apply kept_postEvents | split
    | fail_if_no_progress with_reducible apply kept_upd

theorem kept_markQueues {z0 : State} {s : State} {p : Nat} (k0 : Kept z0 s) :
    Kept z0 (markQueues s p) := by
  unfold markQueues
  repeat' first
    | with_reducible assumption | intro _ | with_reducible apply kept_modPart
    | with_reducible refine kept_map ‹Option.map _ _ = some _› (fun _ _ => ?_) | split
    | fail_if_no_progress with_reducible apply kept_upd

theorem kept_markLaunches {z0 : State} {s : State} {r : ResvCfg} (k0 : Kept z0 s) :
    Kept z0 (markLaunches s r) := by
  unfold markLaunches
  repeat' first
    | with_reducible assumption | intro _ | with_reducible apply kept_modQueue | with_reducible apply kept_foldl | split
    | fail_if_no_progress with_reducible apply kept_upd

theorem kept_runPass {z0 : State} {s : State} {first : Bool} (k0 : Kept z0 s) :
    Kept z0 (runPass s first) := by
  unfold runPass
  repeat' first
    | with_reducible assumption | intro _ | with_reducible apply kept_markQueues | with_reducible apply kept_resvEvent
    | with_reducible apply kept_markLaunches | with_reducible apply kept_foldl
    | (extract_lets +onlyGivenNames x;
        refine (fun (_ : Kept z0 x) => ?_) ?_; (on_goal 1 => rename' x => y); (on_goal 2 => unfold x; clear x))
    | (extract_lets +onlyGivenNames x; rename' x => y) | with_reducible refine kept_getD (fun _ _ => ?_) ?_ | split
    | fail_if_no_progress with_reducible apply kept_upd | dsimp +zetaDelta only

theorem kept_releaseResvs {z0 : State} {s : State} {p : Nat} (k0 : Kept z0 s) :
    Kept z0 (releaseResvs s p) := by
  unfold releaseResvs
  repeat' first
    | with_reducible assumption | intro _ | with_reducible apply kept_markQueues | with_reducible apply kept_resvEvent
    | with_reducible apply kept_foldl
    | (extract_lets +onlyGivenNames x;
        refine (fun (_ : Kept z0 x) => ?_) ?_; (on_goal 1 => rename' x => y); (on_goal 2 => unfold x; clear x))
    | (extract_lets +onlyGivenNames x; rename' x => y) | with_reducible refine kept_getD (fun _ _ => ?_) ?_
    | with_reducible refine kept_map ‹Option.map _ _ = some _› (fun _ _ => ?_) | split
    | fail_if_no_progress with_reducible apply kept_upd | dsimp +zetaDelta only

/-! ### Pins -/

theorem kept_syncFilter {z0 s t : State} {line : Nat} (k0 : Kept z0 s) (e : syncFilter s line = some t) : Kept z0 t := by
  unfold syncFilter at e
  split at e
  · cases e; exact k0
  · extract_lets want mark at e
    split at e
    · split at e
      · cases e; exact kept_modSlice k0
      · cases e; split
        · exact kept_modSlice k0
        · exact kept_freeFilter (kept_modSlice k0)
    · split at e
      · cases e; exact k0
      · split at e
        · cases e
        · cases e; exact kept_modSlice k0

theorem kept_fetchPin {z0 : State} {s : State} {line i : Nat} (k0 : Kept z0 s) :
    Kept z0 (fetchPin s line i) := by
  unfold fetchPin
  repeat' first
    | with_reducible assumption | intro _ | with_reducible refine kept_joinMiss ?_ ‹_ = some _›
    | (extract_lets +onlyGivenNames x;
        refine (fun (_ : Kept z0 x) => ?_) ?_; (on_goal 1 => rename' x => y); (on_goal 2 => unfold x; clear x))
    | (extract_lets +onlyGivenNames x; rename' x => y) | with_reducible refine kept_getD (fun _ _ => ?_) ?_
    | with_reducible refine kept_map ‹Option.map _ _ = some _› (fun _ _ => ?_) | split
    | fail_if_no_progress with_reducible apply kept_upd | dsimp +zetaDelta only

theorem kept_pinLine {z0 s t : State} {line i : Nat} (k0 : Kept z0 s) (e : pinLine s line i = some t) : Kept z0 t := by
  unfold pinLine at e
  extract_lets h sl full placed at e
  have kp : ∀ u, placed = some u → Kept z0 u := by
    intro u hu
    unfold placed at hu
    split at hu <;> split at hu
    · cases hu
    · exact kept_placeLine (kept_setLine k0) hu
    · cases hu
    · exact kept_placeLine k0 hu
  clear_value placed
  split at e
  · cases e; exact k0
  · obtain ⟨u, hu, rfl⟩ := Option.map_eq_some_iff.1 e
    obtain ⟨v, hv, h2⟩ := Option.bind_eq_some_iff.1 hu
    apply kept_fetchPin
    split at h2
    · cases h2; exact kp _ hv
    · exact kept_syncFilter (kp _ hv) h2

theorem kept_unpinLine {z0 : State} {s : State} {line i : Nat} (k0 : Kept z0 s) :
    Kept z0 (unpinLine s line i) := by
  unfold unpinLine
  repeat' first
    | with_reducible assumption | intro _ | with_reducible apply kept_modSlice | with_reducible apply kept_releaseLine
    | with_reducible refine kept_syncFilter ?_ ‹_ = some _›
    | (extract_lets +onlyGivenNames x;
        refine (fun (_ : Kept z0 x) => ?_) ?_; (on_goal 1 => rename' x => y); (on_goal 2 => unfold x; clear x))
    | (extract_lets +onlyGivenNames x; rename' x => y) | with_reducible refine kept_getD (fun _ _ => ?_) ?_
    | with_reducible refine kept_map ‹Option.map _ _ = some _› (fun _ _ => ?_) | split
    | fail_if_no_progress with_reducible apply kept_upd | dsimp +zetaDelta only

theorem kept_pinAll {z0 s : State} {ps : List (Nat × Nat)} (k0 : Kept z0 s) : Kept z0 (pinAll ps s).1 := by
  induction ps generalizing s with
  | nil => exact k0
  | cons p ps ih =>
    obtain ⟨l, i⟩ := p
    simp only [pinAll]
    split
    · next e => exact ih (kept_pinLine k0 e)
    · apply ih
      split
      · exact k0
      · exact kept_makeEntry k0

theorem kept_unpinAll {z0 : State} {s : State} {ps : List (Nat × Nat)} (k0 : Kept z0 s) :
    Kept z0 (unpinAll s ps) := by
  unfold unpinAll
  repeat' first
    | with_reducible assumption | intro _ | with_reducible apply kept_unpinLine | with_reducible apply kept_foldl | split
    | fail_if_no_progress with_reducible apply kept_upd

theorem kept_loadRanges {z0 : State} {s : State} {rs : List CruRange} (k0 : Kept z0 s) :
    Kept z0 (loadRanges s rs) := by
  unfold loadRanges
  repeat' first
    | with_reducible assumption | intro _ | with_reducible apply kept_modCrusher | with_reducible apply kept_foldl | split
    | fail_if_no_progress with_reducible apply kept_upd

theorem kept_dropRanges {z0 : State} {s : State} {tag : Nat} (k0 : Kept z0 s) :
    Kept z0 (dropRanges s tag) := by
  unfold dropRanges
  repeat' first
    | with_reducible assumption | intro _ | with_reducible apply kept_modCrusher | with_reducible apply kept_foldl | split
    | fail_if_no_progress with_reducible apply kept_upd

theorem kept_fetchConsts {z0 : State} {s : State} {n : List Byte} (k0 : Kept z0 s) :
    Kept z0 (fetchConsts s n) := by
  unfold fetchConsts
  repeat' first
    | with_reducible assumption | intro _ | with_reducible refine kept_joinMiss ?_ ‹_ = some _›
    | with_reducible apply kept_foldl
    | (extract_lets +onlyGivenNames x;
        refine (fun (_ : Kept z0 x) => ?_) ?_; (on_goal 1 => rename' x => y); (on_goal 2 => unfold x; clear x))
    | (extract_lets +onlyGivenNames x; rename' x => y) | with_reducible refine kept_getD (fun _ _ => ?_) ?_
    | with_reducible refine kept_map ‹Option.map _ _ = some _› (fun _ _ => ?_) | split
    | fail_if_no_progress with_reducible apply kept_upd | dsimp +zetaDelta only

/-! ### Reach -/

theorem kept_cacheLeaves {z0 : State} {s : State} {cl : Nat} {hs : List Hit} (k0 : Kept z0 s) :
    Kept z0 (cacheLeaves s cl hs) := by
  unfold cacheLeaves
  repeat' first
    | with_reducible assumption | intro _ | with_reducible apply kept_tlbAdd | with_reducible apply kept_ptrAdd
    | with_reducible apply kept_foldl
    | (extract_lets +onlyGivenNames x;
        refine (fun (_ : Kept z0 x) => ?_) ?_; (on_goal 1 => rename' x => y); (on_goal 2 => unfold x; clear x))
    | (extract_lets +onlyGivenNames x; rename' x => y)
    | with_reducible refine kept_map ‹Option.map _ _ = some _› (fun _ _ => ?_) | split
    | fail_if_no_progress with_reducible apply kept_upd | dsimp +zetaDelta only

theorem kept_recordAccesses {z0 : State} {s : State} {mk : Nat → Nat × Nat → Access} {parts : List (Nat × Nat)} (k0 : Kept z0
    s) :
    Kept z0 (recordAccesses s mk parts) := by
  unfold recordAccesses
  repeat' first
    | with_reducible assumption | intro _
    | (extract_lets +onlyGivenNames x;
        refine (fun (_ : Kept z0 x) => ?_) ?_; (on_goal 1 => rename' x => y); (on_goal 2 => unfold x; clear x))
    | (extract_lets +onlyGivenNames x; rename' x => y)
    | with_reducible refine kept_map ‹Option.map _ _ = some _› (fun _ _ => ?_) | split | refine kept_upd_all ?_ (hm := ?_)
    | with_reducible exact wf_nil | with_reducible exact memPutLine_wf _ _ _ ‹_› | with_reducible exact writeBytes_wf _ _ ‹_›
    | exact wf_filter _ ‹_› | exact foldl_writeByte_wf _ _ _ (wf_filter _ ‹_›) | exact id | dsimp +zetaDelta only

theorem kept_reissueLoads {z0 : State} {s : State} {gid instr : Nat} (k0 : Kept z0 s) :
    Kept z0 (reissueLoads s gid instr) := by
  unfold reissueLoads
  repeat' first
    | with_reducible assumption | intro _ | with_reducible apply kept_failAccess | with_reducible apply kept_recordAccesses
    | with_reducible apply kept_cacheLeaves | with_reducible apply kept_modGroup | with_reducible apply kept_performLoad
    | with_reducible apply kept_foldl
    | (extract_lets +onlyGivenNames x;
        refine (fun (_ : Kept z0 x) => ?_) ?_; (on_goal 1 => rename' x => y); (on_goal 2 => unfold x; clear x))
    | (extract_lets +onlyGivenNames x; rename' x => y)
    | with_reducible refine kept_map ‹Option.map _ _ = some _› (fun _ _ => ?_) | split
    | fail_if_no_progress with_reducible apply kept_upd | dsimp +zetaDelta only

theorem kept_sendLoads {z0 : State} {s : State} {gid pc : Nat} {w : W64} {hs : List Hit} (k0 : Kept z0 s) :
    Kept z0 (sendLoads s gid pc w hs) := by
  unfold sendLoads
  repeat' first
    | with_reducible assumption | intro _ | with_reducible apply kept_recordAccesses | with_reducible apply kept_cacheLeaves
    | with_reducible apply kept_performLoad | with_reducible apply kept_foldl
    | (extract_lets +onlyGivenNames x;
        refine (fun (_ : Kept z0 x) => ?_) ?_; (on_goal 1 => rename' x => y); (on_goal 2 => unfold x; clear x))
    | (extract_lets +onlyGivenNames x; rename' x => y) | split | fail_if_no_progress with_reducible apply kept_upd
    | dsimp +zetaDelta only

theorem kept_noteWindows {z0 : State} {s : State} {gid : Nat} {lines : List Nat} (k0 : Kept z0 s) :
    Kept z0 (noteWindows s gid lines) := by
  unfold noteWindows
  repeat' first
    | with_reducible assumption | intro _ | with_reducible apply kept_modGroup
    | (extract_lets +onlyGivenNames x;
        refine (fun (_ : Kept z0 x) => ?_) ?_; (on_goal 1 => rename' x => y); (on_goal 2 => unfold x; clear x))
    | (extract_lets +onlyGivenNames x; rename' x => y) | split | fail_if_no_progress with_reducible apply kept_upd
    | dsimp +zetaDelta only

theorem kept_sendStores {z0 : State} {s : State} {gid pc : Nat} {w : W64} {hs : List Hit} (k0 : Kept z0 s) :
    Kept z0 (sendStores s gid pc w hs) := by
  unfold sendStores
  repeat' first
    | with_reducible assumption | intro _ | with_reducible apply kept_recordAccesses | with_reducible apply kept_cacheLeaves
    | with_reducible apply kept_failAccess | with_reducible apply kept_performStore | with_reducible apply kept_noteWindows
    | with_reducible apply kept_foldl
    | (extract_lets +onlyGivenNames x;
        refine (fun (_ : Kept z0 x) => ?_) ?_; (on_goal 1 => rename' x => y); (on_goal 2 => unfold x; clear x))
    | (extract_lets +onlyGivenNames x; rename' x => y) | split | fail_if_no_progress with_reducible apply kept_upd
    | dsimp +zetaDelta only

theorem kept_doLoads {z0 : State} {s : State} {r : GRef} {g : Group} {p : Path} {w : W64} {refs : List Ref} (k0 : Kept z0 s) :
    Kept z0 (doLoads s r g p w refs) := by
  unfold doLoads
  repeat' first
    | with_reducible assumption | intro _ | with_reducible apply kept_parkAt | with_reducible apply kept_sendLoads
    | with_reducible apply kept_retire | with_reducible apply kept_notReady
    | (extract_lets +onlyGivenNames x;
        refine (fun (_ : Kept z0 x) => ?_) ?_; (on_goal 1 => rename' x => y); (on_goal 2 => unfold x; clear x))
    | (extract_lets +onlyGivenNames x; rename' x => y)
    | with_reducible refine kept_map ‹Option.map _ _ = some _› (fun _ _ => ?_) | split
    | fail_if_no_progress with_reducible apply kept_upd | dsimp +zetaDelta only

theorem kept_doStores {z0 : State} {s : State} {r : GRef} {g : Group} {p : Path} {w : W64} {precise : Bool} {refs : List Ref}
    (k0 : Kept z0 s) :
    Kept z0 (doStores s r g p w precise refs) := by
  unfold doStores
  repeat' first
    | with_reducible assumption | intro _ | with_reducible apply kept_parkAt | with_reducible apply kept_sendStores
    | with_reducible apply kept_retire | with_reducible apply kept_notReady
    | (extract_lets +onlyGivenNames x;
        refine (fun (_ : Kept z0 x) => ?_) ?_; (on_goal 1 => rename' x => y); (on_goal 2 => unfold x; clear x))
    | (extract_lets +onlyGivenNames x; rename' x => y)
    | with_reducible refine kept_map ‹Option.map _ _ = some _› (fun _ _ => ?_) | split
    | fail_if_no_progress with_reducible apply kept_upd | dsimp +zetaDelta only

theorem kept_sendCru {z0 s : State} {h : Nat} {k : CruPacket} (k0 : Kept z0 s) : Kept z0 (sendCru s h k) := by
  unfold sendCru
  extract_lets plain n s1 ds
  have kp : Kept z0 plain := kept_emit k0
  have k1 : Kept z0 s1 := kept_upd_all kp (hf := Nat.le_succ _) (hm := id)
  clear_value plain s1
  split
  · exact kp
  · split
    · exact kp
    · split
      · exact kept_modDie (kept_emit k1)
      · exact k1

theorem kept_sendUpdate {z0 : State} {s : State} {tag : Nat} (k0 : Kept z0 s) :
    Kept z0 (sendUpdate s tag) := by
  unfold sendUpdate
  repeat' first
    | with_reducible assumption | intro _ | with_reducible apply kept_sendCru | split
    | fail_if_no_progress with_reducible apply kept_upd

theorem kept_sendPackets {z0 : State} {s : State} {gid pc : Nat} {w : W64} {ks : List (Nat × CruPacket × List Piece × Nat)}
    (k0 : Kept z0 s) :
    Kept z0 (sendPackets s gid pc w ks) := by
  unfold sendPackets
  repeat' first
    | with_reducible assumption | intro _ | with_reducible apply kept_modGroup | with_reducible apply kept_failAccess
    | with_reducible apply kept_sendUpdate | with_reducible apply kept_foldl
    | (extract_lets +onlyGivenNames x;
        refine (fun (_ : Kept z0 x) => ?_) ?_; (on_goal 1 => rename' x => y); (on_goal 2 => unfold x; clear x))
    | (extract_lets +onlyGivenNames x; rename' x => y)
    | with_reducible refine kept_map ‹Option.map _ _ = some _› (fun _ _ => ?_) | split | refine kept_upd_all ?_ (hm := ?_)
    | with_reducible exact wf_nil | with_reducible exact memPutLine_wf _ _ _ ‹_› | with_reducible exact writeBytes_wf _ _ ‹_›
    | exact wf_filter _ ‹_› | exact foldl_writeByte_wf _ _ _ (wf_filter _ ‹_›) | exact id | dsimp +zetaDelta only

/-! ### Fence -/

theorem kept_fenceMessages {z0 : State} {s : State} {gid : Nat} {kind : AccKind} {name : String} {targets : List Nat} (k0 :
    Kept z0 s) :
    Kept z0 (fenceMessages s gid kind name targets) := by
  unfold fenceMessages
  repeat' first
    | with_reducible assumption | intro _ | with_reducible apply kept_emit | with_reducible apply kept_foldl
    | (extract_lets +onlyGivenNames x;
        refine (fun (_ : Kept z0 x) => ?_) ?_; (on_goal 1 => rename' x => y); (on_goal 2 => unfold x; clear x))
    | (extract_lets +onlyGivenNames x; rename' x => y) | split | refine kept_upd_all ?_ (hm := ?_)
    | with_reducible exact wf_nil | with_reducible exact memPutLine_wf _ _ _ ‹_› | with_reducible exact writeBytes_wf _ _ ‹_›
    | exact wf_filter _ ‹_› | exact foldl_writeByte_wf _ _ _ (wf_filter _ ‹_›) | exact id | dsimp +zetaDelta only

theorem kept_startFence {z0 : State} {s : State} {gid : Nat} {release : Bool} {scope : Nat} {forBarrier : Bool} (k0 : Kept z0
    s) :
    Kept z0 (startFence s gid release scope forBarrier) := by
  unfold startFence
  repeat' first
    | with_reducible assumption | intro _ | with_reducible apply kept_sendPackets | with_reducible apply kept_modGroup
    | with_reducible apply kept_fenceMessages
    | (extract_lets +onlyGivenNames x;
        refine (fun (_ : Kept z0 x) => ?_) ?_; (on_goal 1 => rename' x => y); (on_goal 2 => unfold x; clear x))
    | (extract_lets +onlyGivenNames x; rename' x => y) | with_reducible refine kept_getD (fun _ _ => ?_) ?_
    | with_reducible refine kept_map ‹Option.map _ _ = some _› (fun _ _ => ?_) | split
    | fail_if_no_progress with_reducible apply kept_upd | dsimp +zetaDelta only

theorem kept_acquireReleased {z0 : State} {s : State} {gid : Nat} (k0 : Kept z0 s) :
    Kept z0 (acquireReleased s gid) := by
  unfold acquireReleased
  repeat' first
    | with_reducible assumption | intro _ | with_reducible apply kept_startFence
    | (extract_lets +onlyGivenNames x;
        refine (fun (_ : Kept z0 x) => ?_) ?_; (on_goal 1 => rename' x => y); (on_goal 2 => unfold x; clear x))
    | (extract_lets +onlyGivenNames x; rename' x => y) | with_reducible refine kept_getD (fun _ _ => ?_) ?_
    | with_reducible refine kept_map ‹Option.map _ _ = some _› (fun _ _ => ?_) | split
    | fail_if_no_progress with_reducible apply kept_upd | dsimp +zetaDelta only

theorem kept_completeBarriers {z0 : State} {s : State} {gid : Nat} (k0 : Kept z0 s) :
    Kept z0 (completeBarriers s gid) := by
  unfold completeBarriers
  repeat' first
    | with_reducible assumption | intro _ | with_reducible apply kept_acquireReleased | with_reducible apply kept_modGroup
    | with_reducible apply kept_foldl
    | (extract_lets +onlyGivenNames x;
        refine (fun (_ : Kept z0 x) => ?_) ?_; (on_goal 1 => rename' x => y); (on_goal 2 => unfold x; clear x))
    | (extract_lets +onlyGivenNames x; rename' x => y) | with_reducible refine kept_getD (fun _ _ => ?_) ?_
    | with_reducible refine kept_map ‹Option.map _ _ = some _› (fun _ _ => ?_) | split
    | fail_if_no_progress with_reducible apply kept_upd | dsimp +zetaDelta only

theorem kept_parkBarrier {z0 : State} {s : State} {gid code : Nat} (k0 : Kept z0 s) :
    Kept z0 (parkBarrier s gid code) := by
  unfold parkBarrier
  repeat' first
    | with_reducible assumption | intro _ | with_reducible apply kept_parkGroup | with_reducible apply kept_foldl
    | with_reducible refine kept_getD (fun _ _ => ?_) ?_
    | with_reducible refine kept_map ‹Option.map _ _ = some _› (fun _ _ => ?_) | split
    | fail_if_no_progress with_reducible apply kept_upd | dsimp +zetaDelta only

theorem kept_scoreboard {z0 : State} {s : State} {gid : Nat} (k0 : Kept z0 s) :
    Kept z0 (scoreboard s gid) := by
  unfold scoreboard
  repeat' first
    | with_reducible assumption | intro _ | with_reducible apply kept_completeBarriers | with_reducible apply kept_modGroup
    | with_reducible apply kept_parkBarrier | with_reducible apply kept_foldl
    | (extract_lets +onlyGivenNames x;
        refine (fun (_ : Kept z0 x) => ?_) ?_; (on_goal 1 => rename' x => y); (on_goal 2 => unfold x; clear x))
    | (extract_lets +onlyGivenNames x; rename' x => y) | with_reducible refine kept_getD (fun _ _ => ?_) ?_
    | with_reducible refine kept_map ‹Option.map _ _ = some _› (fun _ _ => ?_) | split
    | fail_if_no_progress with_reducible apply kept_upd | dsimp +zetaDelta only

theorem kept_arrive {z0 : State} {s : State} {gid : Nat} (k0 : Kept z0 s) :
    Kept z0 (arrive s gid) := by
  unfold arrive
  repeat' first
    | with_reducible assumption | intro _ | with_reducible apply kept_scoreboard | with_reducible apply kept_modGroup
    | with_reducible refine kept_map ‹Option.map _ _ = some _› (fun _ _ => ?_) | split
    | fail_if_no_progress with_reducible apply kept_upd

theorem kept_completeFence {z0 : State} {s : State} {gid : Nat} (k0 : Kept z0 s) :
    Kept z0 (completeFence s gid) := by
  unfold completeFence
  repeat' first
    | with_reducible assumption | intro _ | with_reducible apply kept_arrive | with_reducible apply kept_setGroup | split
    | fail_if_no_progress with_reducible apply kept_upd

theorem kept_completeIfIdle {z0 : State} {s : State} {gid : Nat} (k0 : Kept z0 s) :
    Kept z0 (completeIfIdle s gid) := by
  unfold completeIfIdle
  repeat' first
    | with_reducible assumption | intro _ | with_reducible apply kept_completeFence | split
    | fail_if_no_progress with_reducible apply kept_upd

end Sys2Proof.Machine
end

