-- ==== Sys2Proof/Laws/KeptFront.lean ====
section
/-! SUPPORT. `Kept` for the operations and meanings of the front end, teams, windows, transfers, coherence messages and host commands. -/

namespace Sys2Proof.Machine

set_option linter.unusedVariables false
set_option linter.tactic.unusedName false
set_option linter.unusedTactic false
set_option linter.unreachableTactic false

/-! ### Front -/

theorem kept_modCmd {z0 : State} {s : State} {p q : Nat} {seq : W32} {f : Cmd → Cmd} (k0 : Kept z0 s) :
    Kept z0 (modCmd s p q seq f) := by
  unfold modCmd
  repeat' first
    | with_reducible assumption | intro _ | with_reducible apply kept_modQueue | split
    | fail_if_no_progress with_reducible apply kept_upd

theorem kept_accountShared {z0 : State} {s : State} (k0 : Kept z0 s) :
    Kept z0 (accountShared s) := by
  unfold accountShared
  repeat' first
    | with_reducible assumption | intro _
    | (extract_lets +onlyGivenNames x;
        refine (fun (_ : Kept z0 x) => ?_) ?_; (on_goal 1 => rename' x => y); (on_goal 2 => unfold x; clear x))
    | (extract_lets +onlyGivenNames x; rename' x => y)
    | with_reducible refine kept_map ‹Option.map _ _ = some _› (fun _ _ => ?_) | split
    | fail_if_no_progress with_reducible apply kept_upd | dsimp +zetaDelta only

theorem kept_stopQueue {z0 : State} {s : State} {p q cause : Nat} {seq : W32} {index : Nat} (k0 : Kept z0 s) :
    Kept z0 (stopQueue s p q cause seq index) := by
  unfold stopQueue
  repeat' first
    | with_reducible assumption | intro _ | with_reducible apply kept_modQueue | with_reducible apply kept_postEvent
    | (extract_lets +onlyGivenNames x;
        refine (fun (_ : Kept z0 x) => ?_) ?_; (on_goal 1 => rename' x => y); (on_goal 2 => unfold x; clear x))
    | (extract_lets +onlyGivenNames x; rename' x => y) | split | fail_if_no_progress with_reducible apply kept_upd
    | dsimp +zetaDelta only

theorem kept_finishCmd {z0 : State} {s : State} {p q : Nat} {seq : W32} {code : Nat} (k0 : Kept z0 s) :
    Kept z0 (finishCmd s p q seq code) := by
  unfold finishCmd
  repeat' first
    | with_reducible assumption | intro _ | with_reducible apply kept_accountShared | with_reducible apply kept_modCmd
    | (extract_lets +onlyGivenNames x;
        refine (fun (_ : Kept z0 x) => ?_) ?_; (on_goal 1 => rename' x => y); (on_goal 2 => unfold x; clear x))
    | (extract_lets +onlyGivenNames x; rename' x => y) | split | fail_if_no_progress with_reducible apply kept_upd
    | dsimp +zetaDelta only

theorem kept_freeVersions {z0 : State} {s : State} {p h : Nat} (k0 : Kept z0 s) :
    Kept z0 (freeVersions s p h) := by
  unfold freeVersions
  repeat' first
    | with_reducible assumption | intro _ | with_reducible apply kept_setGraph
    | (extract_lets +onlyGivenNames x;
        refine (fun (_ : Kept z0 x) => ?_) ?_; (on_goal 1 => rename' x => y); (on_goal 2 => unfold x; clear x))
    | (extract_lets +onlyGivenNames x; rename' x => y) | split | fail_if_no_progress with_reducible apply kept_upd
    | dsimp +zetaDelta only

theorem kept_orphan {z0 : State} {s : State} {gid : Nat} (k0 : Kept z0 s) :
    Kept z0 (orphan s gid) := by
  unfold orphan
  repeat' first
    | with_reducible assumption | intro _ | with_reducible refine kept_map ‹Option.map _ _ = some _› (fun _ _ => ?_) | split
    | fail_if_no_progress with_reducible apply kept_upd

theorem kept_dropGroup {z0 : State} {s : State} {gid : Nat} (k0 : Kept z0 s) :
    Kept z0 (dropGroup s gid) := by
  unfold dropGroup
  repeat' first
    | with_reducible assumption | intro _ | with_reducible apply kept_clearRecord | with_reducible apply kept_setGroup
    | with_reducible apply kept_orphan
    | (extract_lets +onlyGivenNames x;
        refine (fun (_ : Kept z0 x) => ?_) ?_; (on_goal 1 => rename' x => y); (on_goal 2 => unfold x; clear x))
    | (extract_lets +onlyGivenNames x; rename' x => y) | split | fail_if_no_progress with_reducible apply kept_upd
    | dsimp +zetaDelta only

theorem kept_changeL {z0 : State} {s : State} {cl l : Nat} {byLaunch : Bool} (k0 : Kept z0 s) :
    Kept z0 (changeL s cl l byLaunch) := by
  unfold changeL
  repeat' first
    | with_reducible assumption | intro _ | with_reducible apply kept_modCluster | split
    | fail_if_no_progress with_reducible apply kept_upd

theorem kept_returnL {z0 : State} {s : State} {cl : Nat} (k0 : Kept z0 s) :
    Kept z0 (returnL s cl) := by
  unfold returnL
  repeat' first
    | with_reducible assumption | intro _ | with_reducible apply kept_changeL
    | (extract_lets +onlyGivenNames x;
        refine (fun (_ : Kept z0 x) => ?_) ?_; (on_goal 1 => rename' x => y); (on_goal 2 => unfold x; clear x))
    | (extract_lets +onlyGivenNames x; rename' x => y) | split | fail_if_no_progress with_reducible apply kept_upd
    | dsimp +zetaDelta only

theorem kept_returnAt {z0 : State} {s : State} {line : Nat} (k0 : Kept z0 s) :
    Kept z0 (returnAt s line) := by
  unfold returnAt
  repeat' first
    | with_reducible assumption | intro _ | with_reducible apply kept_returnL | split
    | fail_if_no_progress with_reducible apply kept_upd

theorem kept_returnAllL {z0 : State} {s : State} (k0 : Kept z0 s) :
    Kept z0 (returnAllL s) := by
  unfold returnAllL
  repeat' first
    | with_reducible assumption | intro _ | with_reducible apply kept_returnL | with_reducible apply kept_foldl | split
    | fail_if_no_progress with_reducible apply kept_upd

theorem kept_dropTeams {z0 : State} {s : State} {cl : Nat} {sel : Nat → Bool} (k0 : Kept z0 s) :
    Kept z0 (dropTeams s cl sel) := by
  unfold dropTeams
  repeat' first
    | with_reducible assumption | intro _ | with_reducible apply kept_dropGroup | with_reducible apply kept_returnL
    | with_reducible apply kept_modCluster | with_reducible apply kept_foldl
    | (extract_lets +onlyGivenNames x;
        refine (fun (_ : Kept z0 x) => ?_) ?_; (on_goal 1 => rename' x => y); (on_goal 2 => unfold x; clear x))
    | (extract_lets +onlyGivenNames x; rename' x => y) | split | fail_if_no_progress with_reducible apply kept_upd
    | dsimp +zetaDelta only

theorem kept_freeSnapRecords {z0 : State} {s : State} {x : Snapshot} (k0 : Kept z0 s) :
    Kept z0 (freeSnapRecords s x) := by
  unfold freeSnapRecords
  repeat' first
    | with_reducible assumption | intro _ | with_reducible apply kept_clearRecord | with_reducible apply kept_foldl | split
    | fail_if_no_progress with_reducible apply kept_upd

theorem kept_dropSnaps {z0 : State} {s : State} {sel : Nat → Bool} (k0 : Kept z0 s) :
    Kept z0 (dropSnaps s sel) := by
  unfold dropSnaps
  repeat' first
    | with_reducible assumption | intro _ | with_reducible apply kept_modCluster | with_reducible apply kept_freeSnapRecords
    | with_reducible apply kept_foldl | split | fail_if_no_progress with_reducible apply kept_upd

theorem kept_dropUpdates {z0 : State} {s : State} {i : Nat} {sel : CruPacket → Bool} (k0 : Kept z0 s) :
    Kept z0 (dropUpdates s i sel) := by
  unfold dropUpdates
  repeat' first
    | with_reducible assumption | intro _ | with_reducible apply kept_modCrusher | with_reducible apply kept_modSlice
    | (extract_lets +onlyGivenNames x;
        refine (fun (_ : Kept z0 x) => ?_) ?_; (on_goal 1 => rename' x => y); (on_goal 2 => unfold x; clear x))
    | (extract_lets +onlyGivenNames x; rename' x => y)
    | with_reducible refine kept_map ‹Option.map _ _ = some _› (fun _ _ => ?_) | split
    | fail_if_no_progress with_reducible apply kept_upd | dsimp +zetaDelta only

theorem kept_dropLines {z0 : State} {s : State} {sel : Nat → Bool} (k0 : Kept z0 s) :
    Kept z0 (dropLines s sel) := by
  unfold dropLines
  repeat' first
    | with_reducible assumption | intro _ | with_reducible apply kept_dropUpdates | with_reducible apply kept_discardOpen
    | with_reducible apply kept_wake | with_reducible apply kept_modCrusher | with_reducible apply kept_foldl
    | (extract_lets +onlyGivenNames x;
        refine (fun (_ : Kept z0 x) => ?_) ?_; (on_goal 1 => rename' x => y); (on_goal 2 => unfold x; clear x))
    | (extract_lets +onlyGivenNames x; rename' x => y) | split | fail_if_no_progress with_reducible apply kept_upd
    | dsimp +zetaDelta only

theorem kept_releaseTask {z0 : State} {s : State} {t : Task} (k0 : Kept z0 s) :
    Kept z0 (releaseTask s t) := by
  unfold releaseTask
  repeat' first
    | with_reducible assumption | intro _ | with_reducible apply kept_dropRanges | with_reducible apply kept_unpinAll | split
    | fail_if_no_progress with_reducible apply kept_upd

theorem kept_discardTasks {z0 : State} {s : State} {sel : Task → Bool} (k0 : Kept z0 s) :
    Kept z0 (discardTasks s sel) := by
  unfold discardTasks
  repeat' first
    | with_reducible assumption | intro _ | with_reducible apply kept_dropTeams | with_reducible apply kept_dropLines
    | with_reducible apply kept_dropSnaps | with_reducible apply kept_emit | with_reducible apply kept_releaseTask
    | with_reducible apply kept_foldl
    | (extract_lets +onlyGivenNames x;
        refine (fun (_ : Kept z0 x) => ?_) ?_; (on_goal 1 => rename' x => y); (on_goal 2 => unfold x; clear x))
    | (extract_lets +onlyGivenNames x; rename' x => y) | split | fail_if_no_progress with_reducible apply kept_upd
    | dsimp +zetaDelta only

theorem kept_freeSlot {z0 : State} {s : State} {l : Launch} (k0 : Kept z0 s) :
    Kept z0 (freeSlot s l) := by
  unfold freeSlot
  repeat' first
    | with_reducible assumption | intro _ | with_reducible apply kept_setCtx | split
    | fail_if_no_progress with_reducible apply kept_upd

theorem kept_dropLaunch {z0 : State} {s : State} {l : Launch} (k0 : Kept z0 s) :
    Kept z0 (dropLaunch s l) := by
  unfold dropLaunch
  repeat' first
    | with_reducible assumption | intro _ | with_reducible apply kept_discardTasks | with_reducible apply kept_accountShared
    | with_reducible apply kept_freeSlot | with_reducible apply kept_freeVersions
    | (extract_lets +onlyGivenNames x;
        refine (fun (_ : Kept z0 x) => ?_) ?_; (on_goal 1 => rename' x => y); (on_goal 2 => unfold x; clear x))
    | (extract_lets +onlyGivenNames x; rename' x => y) | split | fail_if_no_progress with_reducible apply kept_upd
    | dsimp +zetaDelta only

theorem kept_settleLaunch {z0 : State} {s : State} {id : Nat} (k0 : Kept z0 s) :
    Kept z0 (settleLaunch s id) := by
  unfold settleLaunch
  repeat' first
    | with_reducible assumption | intro _ | with_reducible apply kept_finishCmd | with_reducible apply kept_dropLaunch
    | (extract_lets +onlyGivenNames x;
        refine (fun (_ : Kept z0 x) => ?_) ?_; (on_goal 1 => rename' x => y); (on_goal 2 => unfold x; clear x))
    | (extract_lets +onlyGivenNames x; rename' x => y) | split | fail_if_no_progress with_reducible apply kept_upd
    | dsimp +zetaDelta only

theorem kept_taskDone {z0 : State} {s : State} {tag : Nat} (k0 : Kept z0 s) :
    Kept z0 (taskDone s tag) := by
  unfold taskDone
  repeat' first
    | with_reducible assumption | intro _ | with_reducible apply kept_releaseTask | with_reducible apply kept_modLaunch
    | with_reducible apply kept_settleLaunch
    | (extract_lets +onlyGivenNames x;
        refine (fun (_ : Kept z0 x) => ?_) ?_; (on_goal 1 => rename' x => y); (on_goal 2 => unfold x; clear x))
    | (extract_lets +onlyGivenNames x; rename' x => y) | split | fail_if_no_progress with_reducible apply kept_upd
    | dsimp +zetaDelta only

theorem kept_failTask {z0 : State} {s : State} {tag code : Nat} (k0 : Kept z0 s) :
    Kept z0 (failTask s tag code) := by
  unfold failTask
  repeat' first
    | with_reducible assumption | intro _ | with_reducible apply kept_modLaunch | with_reducible apply kept_modTask | split
    | fail_if_no_progress with_reducible apply kept_upd | dsimp +zetaDelta only

theorem kept_closeTask {z0 : State} {s : State} {tag : Nat} (k0 : Kept z0 s) :
    Kept z0 (closeTask s tag) := by
  unfold closeTask
  repeat' first
    | with_reducible assumption | intro _ | with_reducible apply kept_emit | with_reducible apply kept_modTask
    | (extract_lets +onlyGivenNames x;
        refine (fun (_ : Kept z0 x) => ?_) ?_; (on_goal 1 => rename' x => y); (on_goal 2 => unfold x; clear x))
    | (extract_lets +onlyGivenNames x; rename' x => y) | split | fail_if_no_progress with_reducible apply kept_upd
    | dsimp +zetaDelta only

theorem kept_closeAcked {z0 : State} {s : State} {sid tag : Nat} (k0 : Kept z0 s) :
    Kept z0 (closeAcked s sid tag) := by
  unfold closeAcked
  repeat' first
    | with_reducible assumption | intro _ | with_reducible apply kept_modTask | with_reducible apply kept_taskDone
    | (extract_lets +onlyGivenNames x;
        refine (fun (_ : Kept z0 x) => ?_) ?_; (on_goal 1 => rename' x => y); (on_goal 2 => unfold x; clear x))
    | (extract_lets +onlyGivenNames x; rename' x => y) | split | fail_if_no_progress with_reducible apply kept_upd
    | dsimp +zetaDelta only

theorem kept_failQueue {z0 : State} {s : State} {p q code : Nat} (k0 : Kept z0 s) :
    Kept z0 (failQueue s p q code) := by
  unfold failQueue
  repeat' first
    | with_reducible assumption | intro _ | with_reducible apply kept_finishCmd | with_reducible apply kept_foldl | split
    | fail_if_no_progress with_reducible apply kept_upd

theorem kept_dropLaunches {z0 : State} {s : State} {sel : Launch → Bool} (k0 : Kept z0 s) :
    Kept z0 (dropLaunches s sel) := by
  unfold dropLaunches
  repeat' first
    | with_reducible assumption | intro _ | with_reducible apply kept_dropLaunch | with_reducible apply kept_foldl | split
    | fail_if_no_progress with_reducible apply kept_upd

theorem kept_destroyQueue {z0 : State} {s : State} {p q : Nat} (k0 : Kept z0 s) :
    Kept z0 (destroyQueue s p q) := by
  unfold destroyQueue
  repeat' first
    | with_reducible assumption | intro _ | with_reducible apply kept_discardTasks | with_reducible apply kept_dropLaunches
    | with_reducible apply kept_modQueue
    | (extract_lets +onlyGivenNames x;
        refine (fun (_ : Kept z0 x) => ?_) ?_; (on_goal 1 => rename' x => y); (on_goal 2 => unfold x; clear x))
    | (extract_lets +onlyGivenNames x; rename' x => y) | with_reducible refine kept_getD (fun _ _ => ?_) ?_
    | with_reducible refine kept_map ‹Option.map _ _ = some _› (fun _ _ => ?_) | split
    | fail_if_no_progress with_reducible apply kept_upd | dsimp +zetaDelta only

theorem kept_endDestroy {z0 : State} {s : State} {p q : Nat} (k0 : Kept z0 s) :
    Kept z0 (endDestroy s p q) := by
  unfold endDestroy
  repeat' first
    | with_reducible assumption | intro _ | with_reducible apply kept_modQueue | split
    | fail_if_no_progress with_reducible apply kept_upd

theorem kept_teardown {z0 : State} {s : State} {p ctx code : Nat} (k0 : Kept z0 s) :
    Kept z0 (teardown s p ctx code) := by
  unfold teardown
  repeat' first
    | with_reducible assumption | intro _ | with_reducible apply kept_discardTasks | with_reducible apply kept_finishCmd
    | with_reducible apply kept_dropLaunch | with_reducible apply kept_stopQueue | with_reducible apply kept_failQueue
    | with_reducible apply kept_foldl
    | (extract_lets +onlyGivenNames x;
        refine (fun (_ : Kept z0 x) => ?_) ?_; (on_goal 1 => rename' x => y); (on_goal 2 => unfold x; clear x))
    | (extract_lets +onlyGivenNames x; rename' x => y) | split | fail_if_no_progress with_reducible apply kept_upd
    | dsimp +zetaDelta only

/-! ### Teams -/

theorem kept_placeTeam {z0 : State} {s : State} {l : Launch} {t : Task} {n : List Byte} {cl team core base : Nat} (k0 : Kept
    z0 s) :
    Kept z0 (placeTeam s l t n cl team core base) := by
  unfold placeTeam
  repeat' first
    | with_reducible assumption | intro _ | with_reducible apply kept_changeL | with_reducible apply kept_invalidateRo
    | with_reducible apply kept_modCluster | with_reducible apply kept_setGroup | with_reducible apply kept_modTask
    | with_reducible apply kept_foldl
    | (extract_lets +onlyGivenNames x;
        refine (fun (_ : Kept z0 x) => ?_) ?_; (on_goal 1 => rename' x => y); (on_goal 2 => unfold x; clear x))
    | (extract_lets +onlyGivenNames x; rename' x => y) | split | fail_if_no_progress with_reducible apply kept_upd
    | dsimp +zetaDelta only

theorem kept_releaseGang {z0 : State} {s : State} {tag : Nat} (k0 : Kept z0 s) :
    Kept z0 (releaseGang s tag) := by
  unfold releaseGang
  repeat' first
    | with_reducible assumption | intro _ | with_reducible apply kept_modGroup | with_reducible apply kept_foldl | split
    | fail_if_no_progress with_reducible apply kept_upd

theorem kept_moveAccesses {z0 : State} {s : State} {gid new : Nat} (k0 : Kept z0 s) :
    Kept z0 (moveAccesses s gid new) := by
  unfold moveAccesses
  repeat' first
    | with_reducible assumption | intro _ | with_reducible apply kept_modGroup
    | (extract_lets +onlyGivenNames x;
        refine (fun (_ : Kept z0 x) => ?_) ?_; (on_goal 1 => rename' x => y); (on_goal 2 => unfold x; clear x))
    | (extract_lets +onlyGivenNames x; rename' x => y)
    | with_reducible refine kept_map ‹Option.map _ _ = some _› (fun _ _ => ?_) | split | refine kept_upd_all ?_ (hm := ?_)
    | with_reducible exact wf_nil | with_reducible exact memPutLine_wf _ _ _ ‹_› | with_reducible exact writeBytes_wf _ _ ‹_›
    | exact wf_filter _ ‹_› | exact foldl_writeByte_wf _ _ _ (wf_filter _ ‹_›) | exact id | dsimp +zetaDelta only

theorem kept_restoreCells {z0 : State} {s : State} {cl : Nat} {t : Team} {cells : List Host.Cell} (k0 : Kept z0 s) :
    Kept z0 (restoreCells s cl t cells) := by
  unfold restoreCells
  repeat' first
    | with_reducible assumption | intro _ | with_reducible apply kept_foldl
    | (extract_lets +onlyGivenNames x;
        refine (fun (_ : Kept z0 x) => ?_) ?_; (on_goal 1 => rename' x => y); (on_goal 2 => unfold x; clear x))
    | (extract_lets +onlyGivenNames x; rename' x => y) | split | refine kept_upd_all ?_ (hm := ?_)
    | with_reducible exact wf_nil | with_reducible exact memPutLine_wf _ _ _ ‹_› | with_reducible exact writeBytes_wf _ _ ‹_›
    | exact wf_filter _ ‹_› | exact foldl_writeByte_wf _ _ _ (wf_filter _ ‹_›) | exact id | dsimp +zetaDelta only

theorem kept_abandonLoads {z0 : State} {s : State} {gid : Nat} (k0 : Kept z0 s) :
    Kept z0 (abandonLoads s gid) := by
  unfold abandonLoads
  repeat' first
    | with_reducible assumption | intro _ | with_reducible apply kept_modGroup
    | (extract_lets +onlyGivenNames x;
        refine (fun (_ : Kept z0 x) => ?_) ?_; (on_goal 1 => rename' x => y); (on_goal 2 => unfold x; clear x))
    | (extract_lets +onlyGivenNames x; rename' x => y) | split | fail_if_no_progress with_reducible apply kept_upd
    | dsimp +zetaDelta only

theorem kept_saveTeam {z0 : State} {s : State} {cl : Nat} {t : Team} (k0 : Kept z0 s) :
    Kept z0 (saveTeam s cl t).1 := by
  unfold saveTeam
  repeat' first
    | with_reducible assumption | intro _ | with_reducible apply kept_moveAccesses | with_reducible apply kept_abandonLoads
    | with_reducible apply kept_setGroup | with_reducible apply kept_returnL | with_reducible apply kept_modCluster
    | with_reducible apply kept_foldl
    | (extract_lets +onlyGivenNames x;
        refine (fun (_ : Kept z0 x) => ?_) ?_; (on_goal 1 => rename' x => y); (on_goal 2 => unfold x; clear x))
    | (extract_lets +onlyGivenNames x; rename' x => y)
    | with_reducible refine kept_map ‹Option.map _ _ = some _› (fun _ _ => ?_) | split
    | fail_if_no_progress with_reducible apply kept_upd | dsimp +zetaDelta only

theorem kept_saveTeams {z0 s : State} {cl : Nat} {ts : List Team} (k0 : Kept z0 s) : Kept z0 (saveTeams cl ts s).1 := by
  induction ts generalizing s with
  | nil => exact k0
  | cons t ts ih => exact ih (kept_saveTeam k0)

theorem kept_preemptOn {z0 : State} {s : State} {tag cl : Nat} (k0 : Kept z0 s) :
    Kept z0 (preemptOn s tag cl) := by
  unfold preemptOn
  repeat' first
    | with_reducible assumption | intro _ | with_reducible apply kept_saveTeams | with_reducible apply kept_setCluster
    | with_reducible apply kept_modTask | with_reducible apply kept_foldl | with_reducible refine kept_of_fst ‹_ = (_, _)› ?_
    | with_reducible refine kept_of_snd ‹_ = (_, _)› ?_
    | (extract_lets +onlyGivenNames x;
        refine (fun (_ : Kept z0 x) => ?_) ?_; (on_goal 1 => rename' x => y); (on_goal 2 => unfold x; clear x))
    | (extract_lets +onlyGivenNames x; rename' x => y) | with_reducible refine kept_getD (fun _ _ => ?_) ?_
    | with_reducible refine kept_map ‹Option.map _ _ = some _› (fun _ _ => ?_) | split
    | fail_if_no_progress with_reducible apply kept_upd | dsimp +zetaDelta only

theorem kept_resend {z0 : State} {s : State} {a : Access} (k0 : Kept z0 s) :
    Kept z0 (resend s a) := by
  unfold resend
  repeat' first
    | with_reducible assumption | intro _ | with_reducible apply kept_reissueLoads | with_reducible apply kept_performStore
    | with_reducible apply kept_sendUpdate | with_reducible apply kept_emit
    | (extract_lets +onlyGivenNames x;
        refine (fun (_ : Kept z0 x) => ?_) ?_; (on_goal 1 => rename' x => y); (on_goal 2 => unfold x; clear x))
    | (extract_lets +onlyGivenNames x; rename' x => y) | split | fail_if_no_progress with_reducible apply kept_upd
    | dsimp +zetaDelta only

theorem kept_restoreTeam {z0 : State} {s : State} {cl core base : Nat} {x : Team × List (Nat × Group) × List Host.Cell} (k0 :
    Kept z0 s) :
    Kept z0 (restoreTeam s cl core base x) := by
  unfold restoreTeam
  repeat' first
    | with_reducible assumption | intro _ | with_reducible apply kept_restoreCells | with_reducible apply kept_modCluster
    | with_reducible apply kept_moveAccesses | with_reducible apply kept_setGroup | with_reducible apply kept_reissueLoads
    | with_reducible apply kept_resend | with_reducible apply kept_foldl
    | (extract_lets +onlyGivenNames x;
        refine (fun (_ : Kept z0 x) => ?_) ?_; (on_goal 1 => rename' x => y); (on_goal 2 => unfold x; clear x))
    | (extract_lets +onlyGivenNames x; rename' x => y) | with_reducible refine kept_getD (fun _ _ => ?_) ?_
    | with_reducible refine kept_map ‹Option.map _ _ = some _› (fun _ _ => ?_) | split
    | fail_if_no_progress with_reducible apply kept_upd | dsimp +zetaDelta only

theorem kept_restoreAll {z0 s t : State} {l : Launch} {cl : Nat} {xs : List (Team × List (Nat × Group) × List Host.Cell)}
    (k0 : Kept z0 s) (e : restoreAll l cl xs s = some t) : Kept z0 t := by
  induction xs generalizing s with
  | nil => cases e; exact k0
  | cons x xs ih =>
    simp only [restoreAll] at e
    split at e
    · cases e
    · exact ih (kept_restoreTeam k0) e

theorem kept_beginSlice {z0 : State} {s : State} {p ctx : Nat} (k0 : Kept z0 s) :
    Kept z0 (beginSlice s p ctx) := by
  unfold beginSlice
  repeat' first
    | with_reducible assumption | intro _ | with_reducible apply kept_modPart | split
    | fail_if_no_progress with_reducible apply kept_upd

theorem kept_zeroCluster {z0 : State} {s : State} {cl : Nat} (k0 : Kept z0 s) :
    Kept z0 (zeroCluster s cl) := by
  unfold zeroCluster
  repeat' first
    | with_reducible assumption | intro _
    | (extract_lets +onlyGivenNames x;
        refine (fun (_ : Kept z0 x) => ?_) ?_; (on_goal 1 => rename' x => y); (on_goal 2 => unfold x; clear x))
    | (extract_lets +onlyGivenNames x; rename' x => y) | split | refine kept_upd_all ?_ (hm := ?_)
    | with_reducible exact wf_nil | with_reducible exact memPutLine_wf _ _ _ ‹_› | with_reducible exact writeBytes_wf _ _ ‹_›
    | exact wf_filter _ ‹_› | exact foldl_writeByte_wf _ _ _ (wf_filter _ ‹_›) | exact id | dsimp +zetaDelta only

theorem kept_purgeCluster {z0 : State} {s : State} {p cl : Nat} (k0 : Kept z0 s) :
    Kept z0 (purgeCluster s p cl) := by
  unfold purgeCluster
  repeat' first
    | with_reducible assumption | intro _ | with_reducible apply kept_modCluster
    | (extract_lets +onlyGivenNames x;
        refine (fun (_ : Kept z0 x) => ?_) ?_; (on_goal 1 => rename' x => y); (on_goal 2 => unfold x; clear x))
    | (extract_lets +onlyGivenNames x; rename' x => y) | split | fail_if_no_progress with_reducible apply kept_upd
    | dsimp +zetaDelta only

theorem kept_purgeSlice {z0 : State} {s : State} {p sid : Nat} (k0 : Kept z0 s) :
    Kept z0 (purgeSlice s p sid) := by
  unfold purgeSlice
  repeat' first
    | with_reducible assumption | intro _ | with_reducible apply kept_discardOpen | with_reducible apply kept_dropUpdates
    | with_reducible apply kept_modTask | with_reducible apply kept_unpinAll | with_reducible apply kept_modSlice
    | with_reducible apply kept_foldl
    | (extract_lets +onlyGivenNames x;
        refine (fun (_ : Kept z0 x) => ?_) ?_; (on_goal 1 => rename' x => y); (on_goal 2 => unfold x; clear x))
    | (extract_lets +onlyGivenNames x; rename' x => y) | split | fail_if_no_progress with_reducible apply kept_upd
    | dsimp +zetaDelta only

/-! ### Wire -/

theorem kept_answerRead {z0 : State} {s : State} {tag line : Nat} {v : Line} {sectors : BitVec 4} {p : W32} (k0 : Kept z0 s) :
    Kept z0 (answerRead s tag line v sectors p) := by
  unfold answerRead
  repeat' first
    | with_reducible assumption | intro _ | with_reducible apply kept_sendRaw | split
    | fail_if_no_progress with_reducible apply kept_upd

theorem kept_refuseRead {z0 : State} {s : State} {tag status : Nat} (k0 : Kept z0 s) :
    Kept z0 (refuseRead s tag status) := by
  unfold refuseRead
  repeat' first
    | with_reducible assumption | intro _ | with_reducible apply kept_emit | split
    | fail_if_no_progress with_reducible apply kept_upd

theorem kept_answerWrite {z0 : State} {s : State} {tag status : Nat} (k0 : Kept z0 s) :
    Kept z0 (answerWrite s tag status) := by
  unfold answerWrite
  repeat' first
    | with_reducible assumption | intro _ | with_reducible apply kept_emit | split
    | fail_if_no_progress with_reducible apply kept_upd

theorem kept_dropCopy {z0 : State} {s : State} {p line : Nat} (k0 : Kept z0 s) :
    Kept z0 (dropCopy s p line) := by
  unfold dropCopy
  repeat' first
    | with_reducible assumption | intro _ | with_reducible apply kept_modSlice | split
    | fail_if_no_progress with_reducible apply kept_upd

theorem kept_placeCopy {z0 : State} {s : State} {p line : Nat} {v : Line} (k0 : Kept z0 s) :
    Kept z0 (placeCopy s p line v) := by
  unfold placeCopy
  repeat' first
    | with_reducible assumption | intro _ | with_reducible refine kept_placeLine ?_ ‹_ = some _›
    | (extract_lets +onlyGivenNames x;
        refine (fun (_ : Kept z0 x) => ?_) ?_; (on_goal 1 => rename' x => y); (on_goal 2 => unfold x; clear x))
    | (extract_lets +onlyGivenNames x; rename' x => y) | with_reducible refine kept_getD (fun _ _ => ?_) ?_ | split
    | fail_if_no_progress with_reducible apply kept_upd | dsimp +zetaDelta only

theorem kept_dropCopies {z0 : State} {s : State} {p i : Nat} (k0 : Kept z0 s) :
    Kept z0 (dropCopies s p i) := by
  unfold dropCopies
  repeat' first
    | with_reducible assumption | intro _ | with_reducible apply kept_modSlice | with_reducible apply kept_modQp
    | with_reducible apply kept_foldl
    | (extract_lets +onlyGivenNames x;
        refine (fun (_ : Kept z0 x) => ?_) ?_; (on_goal 1 => rename' x => y); (on_goal 2 => unfold x; clear x))
    | (extract_lets +onlyGivenNames x; rename' x => y) | split | fail_if_no_progress with_reducible apply kept_upd
    | dsimp +zetaDelta only

theorem kept_windowRead {z0 : State} {s : State} {w : WindowCfg} {p tag line : Nat} {sectors : BitVec 4} {copy : Bool} (k0 :
    Kept z0 s) :
    Kept z0 (windowRead s w p tag line sectors copy) := by
  unfold windowRead
  repeat' first
    | with_reducible assumption | intro _ | with_reducible apply kept_postRequest | with_reducible apply kept_foldl | split
    | fail_if_no_progress with_reducible apply kept_upd

theorem kept_windowWrite {z0 : State} {s : State} {w : WindowCfg} {p tag line : Nat} {be : BitVec 128} {d : Line} (k0 : Kept
    z0 s) :
    Kept z0 (windowWrite s w p tag line be d) := by
  unfold windowWrite
  repeat' first
    | with_reducible assumption | intro _ | with_reducible apply kept_postRequest | with_reducible apply kept_foldl | split
    | fail_if_no_progress with_reducible apply kept_upd

theorem kept_windowAtomics {z0 : State} {s : State} {w : WindowCfg} {k : CruPacket} (k0 : Kept z0 s) :
    Kept z0 (windowAtomics s w k) := by
  unfold windowAtomics
  repeat' first
    | with_reducible assumption | intro _ | with_reducible apply kept_postRequest | with_reducible apply kept_foldl | split
    | fail_if_no_progress with_reducible apply kept_upd

theorem kept_windowUpdate {z0 : State} {s : State} {k : CruPacket} (k0 : Kept z0 s) :
    Kept z0 (windowUpdate s k) := by
  unfold windowUpdate
  repeat' first
    | with_reducible assumption | intro _ | with_reducible apply kept_emit | with_reducible apply kept_windowAtomics
    | (extract_lets +onlyGivenNames x;
        refine (fun (_ : Kept z0 x) => ?_) ?_; (on_goal 1 => rename' x => y); (on_goal 2 => unfold x; clear x))
    | (extract_lets +onlyGivenNames x; rename' x => y) | split | fail_if_no_progress with_reducible apply kept_upd
    | dsimp +zetaDelta only

theorem kept_readRemote {z0 : State} {s : State} {p tag line : Nat} {sectors : BitVec 4} {attr : Nat} (k0 : Kept z0 s) :
    Kept z0 (readRemote s p tag line sectors attr) := by
  unfold readRemote
  repeat' first
    | with_reducible assumption | intro _ | with_reducible apply kept_refuseRead | with_reducible apply kept_answerRead
    | with_reducible apply kept_modQp | with_reducible apply kept_windowRead
    | (extract_lets +onlyGivenNames x;
        refine (fun (_ : Kept z0 x) => ?_) ?_; (on_goal 1 => rename' x => y); (on_goal 2 => unfold x; clear x))
    | (extract_lets +onlyGivenNames x; rename' x => y) | split | fail_if_no_progress with_reducible apply kept_upd
    | dsimp +zetaDelta only

theorem kept_writeRemote {z0 : State} {s : State} {p tag line : Nat} {be : BitVec 128} {d : Line} (k0 : Kept z0 s) :
    Kept z0 (writeRemote s p tag line be d) := by
  unfold writeRemote
  repeat' first
    | with_reducible assumption | intro _ | with_reducible apply kept_answerWrite | with_reducible apply kept_dropCopy
    | with_reducible apply kept_windowWrite
    | (extract_lets +onlyGivenNames x;
        refine (fun (_ : Kept z0 x) => ?_) ?_; (on_goal 1 => rename' x => y); (on_goal 2 => unfold x; clear x))
    | (extract_lets +onlyGivenNames x; rename' x => y) | split | fail_if_no_progress with_reducible apply kept_upd
    | dsimp +zetaDelta only

theorem kept_flushRemote {z0 : State} {s : State} {p tag base : Nat} (k0 : Kept z0 s) :
    Kept z0 (flushRemote s p tag base) := by
  unfold flushRemote
  repeat' first
    | with_reducible assumption | intro _ | with_reducible apply kept_answerWrite | with_reducible apply kept_postRequest
    | split | fail_if_no_progress with_reducible apply kept_upd

theorem kept_failRequest {z0 : State} {s : State} {q : Nat} {r : QpReq} {status : Nat} (k0 : Kept z0 s) :
    Kept z0 (failRequest s q r status) := by
  unfold failRequest
  repeat' first
    | with_reducible assumption | intro _ | with_reducible apply kept_modQp | with_reducible apply kept_refuseRead
    | with_reducible apply kept_emit | with_reducible apply kept_answerWrite | with_reducible apply kept_foldl
    | (extract_lets +onlyGivenNames x;
        refine (fun (_ : Kept z0 x) => ?_) ?_; (on_goal 1 => rename' x => y); (on_goal 2 => unfold x; clear x))
    | (extract_lets +onlyGivenNames x; rename' x => y) | split | fail_if_no_progress with_reducible apply kept_upd
    | dsimp +zetaDelta only

theorem kept_completeRequest {z0 : State} {s : State} {q : Nat} {r : QpReq} {d : List Byte} (k0 : Kept z0 s) :
    Kept z0 (completeRequest s q r d) := by
  unfold completeRequest
  repeat' first
    | with_reducible assumption | intro _ | with_reducible apply kept_modQp | with_reducible apply kept_placeCopy
    | with_reducible apply kept_answerRead | with_reducible apply kept_answerWrite | with_reducible apply kept_emit
    | with_reducible apply kept_modGroup | with_reducible apply kept_dropAccess | with_reducible apply kept_foldl
    | (extract_lets +onlyGivenNames x;
        refine (fun (_ : Kept z0 x) => ?_) ?_; (on_goal 1 => rename' x => y); (on_goal 2 => unfold x; clear x))
    | (extract_lets +onlyGivenNames x; rename' x => y) | split | fail_if_no_progress with_reducible apply kept_upd
    | dsimp +zetaDelta only

/-! ### Dma -/

theorem kept_modDescs {z0 : State} {s : State} {tag : Nat} {f : List DescRun → List DescRun} (k0 : Kept z0 s) :
    Kept z0 (modDescs s tag f) := by
  unfold modDescs
  repeat' first
    | with_reducible assumption | intro _ | with_reducible apply kept_modTask | split
    | fail_if_no_progress with_reducible apply kept_upd

theorem kept_engineFail {z0 : State} {s : State} {tag code : Nat} (k0 : Kept z0 s) :
    Kept z0 (engineFail s tag code) := by
  unfold engineFail
  repeat' first
    | with_reducible assumption | intro _ | with_reducible apply kept_returnAllL | with_reducible apply kept_modDescs
    | with_reducible apply kept_failTask | split | fail_if_no_progress with_reducible apply kept_upd

theorem kept_poisonDest {z0 : State} {s : State} {p pa n : Nat} {o : Byte} (k0 : Kept z0 s) :
    Kept z0 (poisonDest s p pa n o) := by
  unfold poisonDest
  repeat' first
    | with_reducible assumption | intro _ | with_reducible apply kept_poisonSector | with_reducible apply kept_foldl
    | (extract_lets +onlyGivenNames x;
        refine (fun (_ : Kept z0 x) => ?_) ?_; (on_goal 1 => rename' x => y); (on_goal 2 => unfold x; clear x))
    | (extract_lets +onlyGivenNames x; rename' x => y) | split | fail_if_no_progress with_reducible apply kept_upd
    | dsimp +zetaDelta only

theorem kept_engineData {z0 : State} {s : State} {tag line : Nat} {v : Line} {sectors : BitVec 4} {q : W32} (k0 : Kept z0 s) :
    Kept z0 (engineData s tag line v sectors q) := by
  unfold engineData
  repeat' first
    | with_reducible assumption | intro _ | with_reducible apply kept_engineFail | with_reducible apply kept_poisonDest
    | with_reducible apply kept_emits | with_reducible apply kept_foldl
    | (extract_lets +onlyGivenNames x;
        refine (fun (_ : Kept z0 x) => ?_) ?_; (on_goal 1 => rename' x => y); (on_goal 2 => unfold x; clear x))
    | (extract_lets +onlyGivenNames x; rename' x => y)
    | with_reducible refine kept_map ‹Option.map _ _ = some _› (fun _ _ => ?_) | split
    | fail_if_no_progress with_reducible apply kept_upd | dsimp +zetaDelta only

theorem kept_engineWrote {z0 : State} {s : State} {tag line : Nat} {be : BitVec 128} (k0 : Kept z0 s) :
    Kept z0 (engineWrote s tag line be) := by
  unfold engineWrote
  repeat' first
    | with_reducible assumption | intro _ | with_reducible apply kept_modDescs | with_reducible apply kept_returnAllL
    | (extract_lets +onlyGivenNames x;
        refine (fun (_ : Kept z0 x) => ?_) ?_; (on_goal 1 => rename' x => y); (on_goal 2 => unfold x; clear x))
    | (extract_lets +onlyGivenNames x; rename' x => y)
    | with_reducible refine kept_map ‹Option.map _ _ = some _› (fun _ _ => ?_) | split
    | fail_if_no_progress with_reducible apply kept_upd | dsimp +zetaDelta only

theorem kept_engineAccess {z0 : State} {s : State} {tag line : Nat} {kind : AccKind} {be : BitVec 128} (k0 : Kept z0 s) :
    Kept z0 (engineAccess s tag line kind be) := by
  unfold engineAccess
  repeat' first
    | with_reducible assumption | intro _ | split | refine kept_upd_all ?_ (hm := ?_) | with_reducible exact wf_nil
    | with_reducible exact memPutLine_wf _ _ _ ‹_› | with_reducible exact writeBytes_wf _ _ ‹_› | exact wf_filter _ ‹_›
    | exact foldl_writeByte_wf _ _ _ (wf_filter _ ‹_›) | exact id | dsimp +zetaDelta only

theorem kept_engineFetch {z0 : State} {s : State} {tag p line : Nat} (k0 : Kept z0 s) :
    Kept z0 (engineFetch s tag p line) := by
  unfold engineFetch
  repeat' first
    | with_reducible assumption | intro _ | with_reducible apply kept_engineAccess | with_reducible apply kept_readRemote
    | (extract_lets +onlyGivenNames x;
        refine (fun (_ : Kept z0 x) => ?_) ?_; (on_goal 1 => rename' x => y); (on_goal 2 => unfold x; clear x))
    | (extract_lets +onlyGivenNames x; rename' x => y) | split | fail_if_no_progress with_reducible apply kept_upd
    | dsimp +zetaDelta only

theorem kept_engineAnswer {z0 : State} {s : State} {a : Access} {code : Nat} {data : Option (Line × BitVec 4 × W32)} (k0 :
    Kept z0 s) :
    Kept z0 (engineAnswer s a code data) := by
  unfold engineAnswer
  repeat' first
    | with_reducible assumption | intro _ | with_reducible apply kept_dropAccess | with_reducible apply kept_engineFail
    | with_reducible apply kept_modTask | with_reducible apply kept_engineData | with_reducible apply kept_engineWrote
    | (extract_lets +onlyGivenNames x;
        refine (fun (_ : Kept z0 x) => ?_) ?_; (on_goal 1 => rename' x => y); (on_goal 2 => unfold x; clear x))
    | (extract_lets +onlyGivenNames x; rename' x => y) | split | fail_if_no_progress with_reducible apply kept_upd
    | dsimp +zetaDelta only

theorem kept_flushWindows {z0 : State} {s : State} {tag : Nat} (k0 : Kept z0 s) :
    Kept z0 (flushWindows s tag) := by
  unfold flushWindows
  repeat' first
    | with_reducible assumption | intro _ | with_reducible apply kept_flushRemote | with_reducible apply kept_engineAccess
    | with_reducible apply kept_modTask | with_reducible apply kept_foldl
    | (extract_lets +onlyGivenNames x;
        refine (fun (_ : Kept z0 x) => ?_) ?_; (on_goal 1 => rename' x => y); (on_goal 2 => unfold x; clear x))
    | (extract_lets +onlyGivenNames x; rename' x => y) | split | fail_if_no_progress with_reducible apply kept_upd
    | dsimp +zetaDelta only

theorem kept_engineWrite {z0 : State} {s : State} {t : Task} {line : Nat} {be : BitVec 128} {d : Line} (k0 : Kept z0 s) :
    Kept z0 (engineWrite s t line be d) := by
  unfold engineWrite
  repeat' first
    | with_reducible assumption | intro _ | with_reducible apply kept_modTask | with_reducible apply kept_writeRemote
    | with_reducible apply kept_engineAccess
    | (extract_lets +onlyGivenNames x;
        refine (fun (_ : Kept z0 x) => ?_) ?_; (on_goal 1 => rename' x => y); (on_goal 2 => unfold x; clear x))
    | (extract_lets +onlyGivenNames x; rename' x => y) | split | fail_if_no_progress with_reducible apply kept_upd
    | dsimp +zetaDelta only

theorem kept_enginePackets {z0 : State} {s : State} {t : Task} {line op : Nat} {fl : BitVec 4} {recs : List CruRecord} (k0 :
    Kept z0 s) :
    Kept z0 (enginePackets s t line op fl recs) := by
  unfold enginePackets
  repeat' first
    | with_reducible assumption | intro _ | with_reducible apply kept_sendCru | with_reducible apply kept_foldl | split
    | refine kept_upd_all ?_ (hm := ?_) | with_reducible exact wf_nil | with_reducible exact memPutLine_wf _ _ _ ‹_›
    | with_reducible exact writeBytes_wf _ _ ‹_› | exact wf_filter _ ‹_› | exact foldl_writeByte_wf _ _ _ (wf_filter _ ‹_›)
    | exact id | dsimp +zetaDelta only

theorem kept_cutTransfers {z0 : State} {s : State} {sel : Task → Bool} (k0 : Kept z0 s) :
    Kept z0 (cutTransfers s sel) := by
  unfold cutTransfers
  repeat' first
    | with_reducible assumption | intro _ | with_reducible apply kept_returnAllL
    | with_reducible refine kept_map ‹Option.map _ _ = some _› (fun _ _ => ?_) | split
    | fail_if_no_progress with_reducible apply kept_upd

/-! ### Coherence -/

theorem kept_requestAtHome {z0 : State} {s : State} {line : Nat} {r : List MemFault} {q : HomeReq} (k0 : Kept z0 s) :
    Kept z0 (requestAtHome s line r q) := by
  unfold requestAtHome
  repeat' first
    | with_reducible assumption | intro _ | with_reducible apply kept_homeArrive | with_reducible apply kept_readMem
    | (extract_lets +onlyGivenNames x;
        refine (fun (_ : Kept z0 x) => ?_) ?_; (on_goal 1 => rename' x => y); (on_goal 2 => unfold x; clear x))
    | (extract_lets +onlyGivenNames x; rename' x => y) | with_reducible refine kept_getD (fun _ _ => ?_) ?_
    | with_reducible refine kept_map ‹Option.map _ _ = some _› (fun _ _ => ?_) | split
    | fail_if_no_progress with_reducible apply kept_upd | dsimp +zetaDelta only

theorem kept_execRdS {d line : Nat} {ecc : List MemFault} {s : State} {t0 : State} (e : execRdS d line ecc s = .next t0) :
    Kept s t0 := by
  obtain ⟨-, rfl⟩ := (onUnit_next _ _ _).1 e
  repeat' first
    | with_reducible assumption | with_reducible exact Kept.rfl | intro _ | with_reducible apply kept_requestAtHome | split
    | fail_if_no_progress with_reducible apply kept_upd

theorem kept_execRdE {d line : Nat} {ecc : List MemFault} {s : State} {t0 : State} (e : execRdE d line ecc s = .next t0) :
    Kept s t0 := by
  obtain ⟨-, rfl⟩ := (onUnit_next _ _ _).1 e
  repeat' first
    | with_reducible assumption | with_reducible exact Kept.rfl | intro _ | with_reducible apply kept_requestAtHome | split
    | fail_if_no_progress with_reducible apply kept_upd

theorem kept_execUpg {d line : Nat} {s : State} {t0 : State} (e : execUpg d line s = .next t0) : Kept s t0 := by
  obtain ⟨-, rfl⟩ := (onUnit_next _ _ _).1 e
  repeat' first
    | with_reducible assumption | with_reducible exact Kept.rfl | intro _ | with_reducible apply kept_requestAtHome | split
    | fail_if_no_progress with_reducible apply kept_upd

theorem kept_execRdOnce {tag line : Nat} {ecc : List MemFault} {s : State} {t0 : State} (e : execRdOnce tag line ecc s = .next
    t0) : Kept s t0 := by
  obtain ⟨-, rfl⟩ := (onUnit_next _ _ _).1 e
  repeat' first
    | with_reducible assumption | with_reducible exact Kept.rfl | intro _ | with_reducible apply kept_requestAtHome | split
    | fail_if_no_progress with_reducible apply kept_upd

theorem kept_clearBit {z0 : State} {s : State} {h line d : Nat} (k0 : Kept z0 s) :
    Kept z0 (clearBit s h line d) := by
  unfold clearBit
  repeat' first
    | with_reducible assumption | intro _ | with_reducible apply kept_setFilter
    | (extract_lets +onlyGivenNames x;
        refine (fun (_ : Kept z0 x) => ?_) ?_; (on_goal 1 => rename' x => y); (on_goal 2 => unfold x; clear x))
    | (extract_lets +onlyGivenNames x; rename' x => y) | split | fail_if_no_progress with_reducible apply kept_upd
    | dsimp +zetaDelta only

theorem kept_execDrop {d line : Nat} {s : State} {t0 : State} (e : execDrop d line s = .next t0) : Kept s t0 := by
  obtain ⟨-, rfl⟩ := (onUnit_next _ _ _).1 e
  repeat' first
    | with_reducible assumption | with_reducible exact Kept.rfl | intro _ | with_reducible apply kept_clearBit | split
    | fail_if_no_progress with_reducible apply kept_upd

theorem kept_execReg {sid home : Nat} {s : State} {t0 : State} (e : execReg sid home s = .next t0) : Kept s t0 := by
  obtain ⟨-, rfl⟩ := (onUnit_next _ _ _).1 e
  repeat' first
    | with_reducible assumption | with_reducible exact Kept.rfl | intro _ | with_reducible apply kept_emit
    | with_reducible apply kept_modSlice
    | (extract_lets +onlyGivenNames x;
        refine (fun (_ : Kept s x) => ?_) ?_; (on_goal 1 => rename' x => y); (on_goal 2 => unfold x; clear x))
    | (extract_lets +onlyGivenNames x; rename' x => y)
    | with_reducible refine kept_map ‹Option.map _ _ = some _› (fun _ _ => ?_) | split
    | fail_if_no_progress with_reducible apply kept_upd | dsimp +zetaDelta only

theorem kept_answerAt {z0 : State} {s : State} {line d : Nat} {data : Option (Line × BitVec 4 × W32)} {left : Option Leaves}
    (k0 : Kept z0 s) :
    Kept z0 (answerAt s line d data left) := by
  unfold answerAt
  repeat' first
    | with_reducible assumption | intro _ | with_reducible apply kept_wake | with_reducible apply kept_snoopAnswer
    | with_reducible refine kept_getD (fun _ _ => ?_) ?_ | split | fail_if_no_progress with_reducible apply kept_upd

theorem kept_execSackI {d line : Nat} {s : State} {t0 : State} (e : execSackI d line s = .next t0) : Kept s t0 := by
  obtain ⟨-, rfl⟩ := (onUnit_next _ _ _).1 e
  repeat' first
    | with_reducible assumption | with_reducible exact Kept.rfl | intro _ | with_reducible apply kept_answerAt | split
    | fail_if_no_progress with_reducible apply kept_upd

theorem kept_execSackS {d line : Nat} {s : State} {t0 : State} (e : execSackS d line s = .next t0) : Kept s t0 := by
  obtain ⟨-, rfl⟩ := (onUnit_next _ _ _).1 e
  repeat' first
    | with_reducible assumption | with_reducible exact Kept.rfl | intro _ | with_reducible apply kept_answerAt | split
    | fail_if_no_progress with_reducible apply kept_upd

theorem kept_execSdata {d line : Nat} {data : Line} {dirty : BitVec 4} {poison : W32} {s : State} {t0 : State} (e : execSdata
    d line data dirty poison s = .next t0) : Kept s t0 := by
  obtain ⟨-, rfl⟩ := (onUnit_next _ _ _).1 e
  repeat' first
    | with_reducible assumption | with_reducible exact Kept.rfl | intro _ | with_reducible apply kept_answerAt | split
    | fail_if_no_progress with_reducible apply kept_upd

theorem kept_execWb {d line : Nat} {data : Line} {dirty : BitVec 4} {poison : W32} {s : State} {t0 : State} (e : execWb d line
    data dirty poison s = .next t0) : Kept s t0 := by
  obtain ⟨-, rfl⟩ := (onUnit_next _ _ _).1 e
  repeat' first
    | with_reducible assumption | with_reducible exact Kept.rfl | intro _ | with_reducible apply kept_homeStore
    | with_reducible apply kept_clearBit | with_reducible apply kept_modSlice | with_reducible apply kept_emit
    | (extract_lets +onlyGivenNames x;
        refine (fun (_ : Kept s x) => ?_) ?_; (on_goal 1 => rename' x => y); (on_goal 2 => unfold x; clear x))
    | (extract_lets +onlyGivenNames x; rename' x => y) | with_reducible refine kept_getD (fun _ _ => ?_) ?_
    | with_reducible refine kept_map ‹Option.map _ _ = some _› (fun _ _ => ?_) | split
    | fail_if_no_progress with_reducible apply kept_upd | dsimp +zetaDelta only

theorem kept_execWfwd {d line tag attr : Nat} {be : BitVec 128} {data : Line} {s : State} {t0 : State} (e : execWfwd d line
    tag attr be data s = .next t0) : Kept s t0 := by
  obtain ⟨-, rfl⟩ := (onUnit_next _ _ _).1 e
  repeat' first
    | with_reducible assumption | with_reducible exact Kept.rfl | intro _ | with_reducible apply kept_requestAtHome | split
    | fail_if_no_progress with_reducible apply kept_upd

theorem kept_atProxy {z0 : State} {s : State} {d line : Nat} {f : Nat → State} (k_f : ∀ x0, Kept z0 (f x0)) (k0 : Kept z0 s) :
    Kept z0 (atProxy s d line f) := by
  unfold atProxy
  repeat' first
    | with_reducible assumption | intro _ | with_reducible apply kept_wake | with_reducible apply k_f | split
    | fail_if_no_progress with_reducible apply kept_upd

theorem kept_execSnpS {d line : Nat} {s : State} {t0 : State} (e : execSnpS d line s = .next t0) : Kept s t0 := by
  obtain ⟨-, rfl⟩ := (onUnit_next _ _ _).1 e
  repeat' first
    | with_reducible assumption | with_reducible exact Kept.rfl | intro _ | with_reducible apply kept_atProxy
    | with_reducible apply kept_snoopShare | split | fail_if_no_progress with_reducible apply kept_upd

theorem kept_execSnpI {d line : Nat} {s : State} {t0 : State} (e : execSnpI d line s = .next t0) : Kept s t0 := by
  obtain ⟨-, rfl⟩ := (onUnit_next _ _ _).1 e
  repeat' first
    | with_reducible assumption | with_reducible exact Kept.rfl | intro _ | with_reducible apply kept_atProxy
    | with_reducible apply kept_snoopInvalidate | split | fail_if_no_progress with_reducible apply kept_upd

theorem kept_execSnpR {d line : Nat} {s : State} {t0 : State} (e : execSnpR d line s = .next t0) : Kept s t0 := by
  obtain ⟨-, rfl⟩ := (onUnit_next _ _ _).1 e
  repeat' first
    | with_reducible assumption | with_reducible exact Kept.rfl | intro _ | with_reducible apply kept_atProxy
    | with_reducible apply kept_snoopRead | split | fail_if_no_progress with_reducible apply kept_upd

theorem kept_execBinv {d line : Nat} {s : State} {t0 : State} (e : execBinv d line s = .next t0) : Kept s t0 := by
  obtain ⟨-, rfl⟩ := (onUnit_next _ _ _).1 e
  repeat' first
    | with_reducible assumption | with_reducible exact Kept.rfl | intro _ | with_reducible apply kept_atProxy
    | with_reducible apply kept_emit | with_reducible apply kept_snoopInvalidate
    | with_reducible refine kept_getD (fun _ _ => ?_) ?_
    | with_reducible refine kept_map ‹Option.map _ _ = some _› (fun _ _ => ?_) | split
    | fail_if_no_progress with_reducible apply kept_upd

theorem kept_execDataS {d line : Nat} {data : Line} {poison : W32} {s : State} {t0 : State} (e : execDataS d line data poison
    s = .next t0) : Kept s t0 := by
  obtain ⟨-, rfl⟩ := (onUnit_next _ _ _).1 e
  repeat' first
    | with_reducible assumption | with_reducible exact Kept.rfl | intro _ | with_reducible apply kept_atProxy
    | with_reducible apply kept_proxyFill | split | fail_if_no_progress with_reducible apply kept_upd

theorem kept_execDataE {d line : Nat} {data : Line} {poison : W32} {s : State} {t0 : State} (e : execDataE d line data poison
    s = .next t0) : Kept s t0 := by
  obtain ⟨-, rfl⟩ := (onUnit_next _ _ _).1 e
  repeat' first
    | with_reducible assumption | with_reducible exact Kept.rfl | intro _ | with_reducible apply kept_atProxy
    | with_reducible apply kept_proxyFill | split | fail_if_no_progress with_reducible apply kept_upd

theorem kept_execDataM {d line : Nat} {data : Line} {poison : W32} {s : State} {t0 : State} (e : execDataM d line data poison
    s = .next t0) : Kept s t0 := by
  obtain ⟨-, rfl⟩ := (onUnit_next _ _ _).1 e
  repeat' first
    | with_reducible assumption | with_reducible exact Kept.rfl | intro _ | with_reducible apply kept_atProxy
    | with_reducible apply kept_proxyFill | split | fail_if_no_progress with_reducible apply kept_upd

theorem kept_execGrantE {d line : Nat} {s : State} {t0 : State} (e : execGrantE d line s = .next t0) : Kept s t0 := by
  obtain ⟨-, rfl⟩ := (onUnit_next _ _ _).1 e
  repeat' first
    | with_reducible assumption | with_reducible exact Kept.rfl | intro _ | with_reducible apply kept_atProxy
    | with_reducible apply kept_proxyGrant | split | fail_if_no_progress with_reducible apply kept_upd

theorem kept_execGrantM {d line : Nat} {s : State} {t0 : State} (e : execGrantM d line s = .next t0) : Kept s t0 := by
  obtain ⟨-, rfl⟩ := (onUnit_next _ _ _).1 e
  repeat' first
    | with_reducible assumption | with_reducible exact Kept.rfl | intro _ | with_reducible apply kept_atProxy
    | with_reducible apply kept_proxyGrant | split | fail_if_no_progress with_reducible apply kept_upd

theorem kept_execRegAck {sid home : Nat} {s : State} {t0 : State} (e : execRegAck sid home s = .next t0) : Kept s t0 := by
  obtain ⟨-, rfl⟩ := (onUnit_next _ _ _).1 e
  repeat' first
    | with_reducible assumption | with_reducible exact Kept.rfl | intro _ | with_reducible apply kept_modSlice | split
    | fail_if_no_progress with_reducible apply kept_upd

theorem kept_ackSpoil {z0 : State} {s : State} {sid line : Nat} (k0 : Kept z0 s) :
    Kept z0 (ackSpoil s sid line) := by
  unfold ackSpoil
  repeat' first
    | with_reducible assumption | intro _ | with_reducible apply kept_wake | with_reducible apply kept_modSlice | split
    | fail_if_no_progress with_reducible apply kept_upd

theorem kept_ackAccess {z0 : State} {s : State} {tag : Nat} {st : BitVec 4} (k0 : Kept z0 s) :
    Kept z0 (ackAccess s tag st) := by
  unfold ackAccess
  repeat' first
    | with_reducible assumption | intro _ | with_reducible apply kept_engineAnswer | with_reducible apply kept_dropAccess
    | with_reducible apply kept_modGroup | with_reducible apply kept_returnAt | with_reducible apply kept_failAccess
    | with_reducible apply kept_foldl | split | fail_if_no_progress with_reducible apply kept_upd

theorem kept_execWbAck {dest : AckTo} {status : BitVec 4} {s : State} {t0 : State} (e : execWbAck dest status s = .next t0) :
    Kept s t0 := by
  obtain ⟨-, rfl⟩ := (onUnit_next _ _ _).1 e
  repeat' first
    | with_reducible assumption | with_reducible exact Kept.rfl | intro _ | with_reducible apply kept_ackSpoil
    | with_reducible apply kept_ackAccess | with_reducible apply kept_setDieHeld | split
    | fail_if_no_progress with_reducible apply kept_upd

theorem kept_failReads {z0 : State} {s : State} {cl line : Nat} {status : Nat} (k0 : Kept z0 s) :
    Kept z0 (failReads s cl line status) := by
  unfold failReads
  repeat' first
    | with_reducible assumption | intro _ | with_reducible apply kept_modCluster | with_reducible apply kept_failAccess
    | with_reducible apply kept_foldl
    | (extract_lets +onlyGivenNames x;
        refine (fun (_ : Kept z0 x) => ?_) ?_; (on_goal 1 => rename' x => y); (on_goal 2 => unfold x; clear x))
    | (extract_lets +onlyGivenNames x; rename' x => y) | split | fail_if_no_progress with_reducible apply kept_upd
    | dsimp +zetaDelta only

theorem kept_execDataOnce {tag line : Nat} {data : Line} {sectors : BitVec 4} {poison : W32} {status : BitVec 4} {s : State}
    {t0 : State} (e : execDataOnce tag line data sectors poison status s = .next t0) : Kept s t0 := by
  obtain ⟨-, rfl⟩ := (onUnit_next _ _ _).1 e
  repeat' first
    | with_reducible assumption | with_reducible exact Kept.rfl | intro _ | with_reducible apply kept_returnAt
    | with_reducible apply kept_failReads | with_reducible apply kept_answerCluster | with_reducible apply kept_performLoad
    | with_reducible apply kept_engineAnswer | split | fail_if_no_progress with_reducible apply kept_upd

theorem kept_execFill {sid line : Nat} {ecc : List MemFault} {s : State} {t0 : State} (e : execFill sid line ecc s = .next t0)
    : Kept s t0 := by
  obtain ⟨-, rfl⟩ := (onUnit_next _ _ _).1 e
  repeat' first
    | with_reducible assumption | with_reducible exact Kept.rfl | intro _ | with_reducible apply kept_wake
    | with_reducible apply kept_homeFill | with_reducible apply kept_readMem | split
    | fail_if_no_progress with_reducible apply kept_upd

theorem kept_execClusterFill {cl line : Nat} {data : Line} {poison : W32} {s : State} {t0 : State} (e : execClusterFill cl
    line data poison s = .next t0) : Kept s t0 := by
  obtain ⟨-, rfl⟩ := (onUnit_next _ _ _).1 e
  repeat' first
    | with_reducible assumption | with_reducible exact Kept.rfl | intro _ | with_reducible apply kept_answerCluster
    | with_reducible apply kept_performLoad | split | fail_if_no_progress with_reducible apply kept_upd

theorem kept_execSpoilWriteOut {sid : Nat} {s : State} {t0 : State} (e : execSpoilWriteOut sid s = .next t0) : Kept s t0 := by
  obtain ⟨-, rfl⟩ := (onUnit_next _ _ _).1 e
  repeat' first
    | with_reducible assumption | with_reducible exact Kept.rfl | intro _ | with_reducible apply kept_wake
    | with_reducible apply kept_writeSpoilOut | split | fail_if_no_progress with_reducible apply kept_upd

/-! ### Check -/

theorem kept_acceptCmd {z0 : State} {s : State} {p q : Nat} {seq : W32} (k0 : Kept z0 s) :
    Kept z0 (acceptCmd s p q seq) := by
  unfold acceptCmd
  repeat' first
    | with_reducible assumption | intro _ | with_reducible apply kept_accountShared | with_reducible apply kept_modCmd
    | with_reducible apply kept_modPart
    | (extract_lets +onlyGivenNames x;
        refine (fun (_ : Kept z0 x) => ?_) ?_; (on_goal 1 => rename' x => y); (on_goal 2 => unfold x; clear x))
    | (extract_lets +onlyGivenNames x; rename' x => y) | split | fail_if_no_progress with_reducible apply kept_upd
    | dsimp +zetaDelta only

theorem kept_refuseCmd {z0 : State} {s : State} {p q : Nat} {seq : W32} {code : Nat} (k0 : Kept z0 s) :
    Kept z0 (refuseCmd s p q seq code) := by
  unfold refuseCmd
  repeat' first
    | with_reducible assumption | intro _ | with_reducible apply kept_finishCmd | with_reducible apply kept_modCmd | split
    | fail_if_no_progress with_reducible apply kept_upd

theorem kept_runCmd {z0 : State} {s : State} {p q : Nat} {seq : W32} {op : Nat} {mine : Cmd → Bool} {extra : State → Cmd →
    Nat} {effect : State → Cmd → State} (k_effect : ∀ x0 x1, Kept z0 x0 → Kept z0 (effect x0 x1)) (k0 : Kept z0 s) :
    Kept z0 (runCmd s p q seq op mine extra effect) := by
  unfold runCmd
  repeat' first
    | with_reducible assumption | intro _ | with_reducible apply kept_finishCmd | with_reducible apply kept_refuseCmd
    | with_reducible apply kept_acceptCmd | with_reducible apply k_effect
    | (extract_lets +onlyGivenNames x;
        refine (fun (_ : Kept z0 x) => ?_) ?_; (on_goal 1 => rename' x => y); (on_goal 2 => unfold x; clear x))
    | (extract_lets +onlyGivenNames x; rename' x => y) | split | dsimp +zetaDelta only

/-! ### Commands -/

theorem kept_ringTail {z0 : State} {s : State} {p q : Nat} {tail : W32} (k0 : Kept z0 s) :
    Kept z0 (ringTail s p q tail) := by
  unfold ringTail
  repeat' first
    | with_reducible assumption | intro _ | with_reducible apply kept_stopQueue | with_reducible apply kept_modQueue
    | (extract_lets +onlyGivenNames x;
        refine (fun (_ : Kept z0 x) => ?_) ?_; (on_goal 1 => rename' x => y); (on_goal 2 => unfold x; clear x))
    | (extract_lets +onlyGivenNames x; rename' x => y) | split | fail_if_no_progress with_reducible apply kept_upd
    | dsimp +zetaDelta only

theorem kept_execDoorbell {p q : Nat} {value : W64} {s : State} {t0 : State} (e : execDoorbell p q value s = .next t0) : Kept
    s t0 := by
  obtain ⟨-, rfl⟩ := (onUnit_next _ _ _).1 e
  repeat' first
    | with_reducible assumption | with_reducible exact Kept.rfl | intro _ | with_reducible apply kept_ringTail | split
    | fail_if_no_progress with_reducible apply kept_upd

theorem kept_fetchCmd {z0 : State} {s : State} {p q : Nat} (k0 : Kept z0 s) :
    Kept z0 (fetchCmd s p q) := by
  unfold fetchCmd
  repeat' first
    | with_reducible assumption | intro _ | with_reducible apply kept_stopQueue | with_reducible apply kept_agentReads
    | with_reducible apply kept_modQueue | with_reducible apply kept_refuseCmd | with_reducible apply kept_foldl
    | (extract_lets +onlyGivenNames x;
        refine (fun (_ : Kept z0 x) => ?_) ?_; (on_goal 1 => rename' x => y); (on_goal 2 => unfold x; clear x))
    | (extract_lets +onlyGivenNames x; rename' x => y) | with_reducible refine kept_getD (fun _ _ => ?_) ?_ | split
    | fail_if_no_progress with_reducible apply kept_upd | dsimp +zetaDelta only

theorem kept_execCommandFetch {p q : Nat} {s : State} {t0 : State} (e : execCommandFetch p q s = .next t0) : Kept s t0 := by
  obtain ⟨-, rfl⟩ := (onUnit_next _ _ _).1 e
  repeat' first
    | with_reducible assumption | with_reducible exact Kept.rfl | intro _ | with_reducible apply kept_fetchCmd | split
    | fail_if_no_progress with_reducible apply kept_upd

theorem kept_acceptLaunch {z0 : State} {s : State} {p q : Nat} {c : Cmd} (k0 : Kept z0 s) :
    Kept z0 (acceptLaunch s p q c) := by
  unfold acceptLaunch
  repeat' first
    | with_reducible assumption | intro _ | with_reducible apply kept_modCmd
    | (extract_lets +onlyGivenNames x;
        refine (fun (_ : Kept z0 x) => ?_) ?_; (on_goal 1 => rename' x => y); (on_goal 2 => unfold x; clear x))
    | (extract_lets +onlyGivenNames x; rename' x => y) | split | refine kept_upd_all ?_ (hm := ?_)
    | with_reducible exact wf_nil | with_reducible exact memPutLine_wf _ _ _ ‹_› | with_reducible exact writeBytes_wf _ _ ‹_›
    | exact wf_filter _ ‹_› | exact foldl_writeByte_wf _ _ _ (wf_filter _ ‹_›) | exact id | dsimp +zetaDelta only

theorem kept_execLaunch {p q : Nat} {seq : W32} {s : State} {t0 : State} (e : execLaunch p q seq s = .next t0) : Kept s t0 := by
  obtain ⟨-, rfl⟩ := (onUnit_next _ _ _).1 e
  repeat' first
    | with_reducible assumption | with_reducible exact Kept.rfl | intro _ | with_reducible apply kept_refuseCmd
    | with_reducible apply kept_acceptCmd | with_reducible apply kept_acceptLaunch
    | (extract_lets +onlyGivenNames x;
        refine (fun (_ : Kept s x) => ?_) ?_; (on_goal 1 => rename' x => y); (on_goal 2 => unfold x; clear x))
    | (extract_lets +onlyGivenNames x; rename' x => y) | with_reducible refine kept_getD (fun _ _ => ?_) ?_ | split
    | fail_if_no_progress with_reducible apply kept_upd | dsimp +zetaDelta only

theorem kept_execNop {p q : Nat} {seq : W32} {s : State} {t0 : State} (e : execNop p q seq s = .next t0) : Kept s t0 := by
  obtain ⟨-, rfl⟩ := (onUnit_next _ _ _).1 e
  repeat' first
    | with_reducible assumption | with_reducible exact Kept.rfl | intro _ | with_reducible apply kept_runCmd
    | with_reducible apply kept_finishCmd | split | fail_if_no_progress with_reducible apply kept_upd

theorem kept_modSaved {z0 : State} {s : State} {p ctx number : Nat} {f : Group → Group} (k0 : Kept z0 s) :
    Kept z0 (modSaved s p ctx number f) := by
  unfold modSaved
  repeat' first
    | with_reducible assumption | intro _
    | (extract_lets +onlyGivenNames x;
        refine (fun (_ : Kept z0 x) => ?_) ?_; (on_goal 1 => rename' x => y); (on_goal 2 => unfold x; clear x))
    | (extract_lets +onlyGivenNames x; rename' x => y)
    | with_reducible refine kept_map ‹Option.map _ _ = some _› (fun _ _ => ?_) | split
    | fail_if_no_progress with_reducible apply kept_upd | dsimp +zetaDelta only

theorem kept_dropFailed {z0 : State} {s : State} {gid : Nat} (k0 : Kept z0 s) :
    Kept z0 (dropFailed s gid) := by
  unfold dropFailed
  repeat' first
    | with_reducible assumption | intro _
    | (extract_lets +onlyGivenNames x;
        refine (fun (_ : Kept z0 x) => ?_) ?_; (on_goal 1 => rename' x => y); (on_goal 2 => unfold x; clear x))
    | (extract_lets +onlyGivenNames x; rename' x => y)
    | with_reducible refine kept_map ‹Option.map _ _ = some _› (fun _ _ => ?_) | split
    | fail_if_no_progress with_reducible apply kept_upd | dsimp +zetaDelta only

theorem kept_dropImage {z0 : State} {s : State} {gid : Nat} (k0 : Kept z0 s) :
    Kept z0 (dropImage s gid) := by
  unfold dropImage
  repeat' first
    | with_reducible assumption | intro _ | with_reducible apply kept_modGroup | split
    | fail_if_no_progress with_reducible apply kept_upd

theorem kept_resumeGroup {z0 : State} {s : State} {p ctx number : Nat} {f : Group → Group} {again : Bool} (k0 : Kept z0 s) :
    Kept z0 (resumeGroup s p ctx number f again) := by
  unfold resumeGroup
  repeat' first
    | with_reducible assumption | intro _ | with_reducible apply kept_clearRecord | with_reducible apply kept_dropImage
    | with_reducible apply kept_modGroup | with_reducible apply kept_resend | with_reducible apply kept_dropFailed
    | with_reducible apply kept_modSaved | with_reducible apply kept_foldl
    | (extract_lets +onlyGivenNames x;
        refine (fun (_ : Kept z0 x) => ?_) ?_; (on_goal 1 => rename' x => y); (on_goal 2 => unfold x; clear x))
    | (extract_lets +onlyGivenNames x; rename' x => y) | split | fail_if_no_progress with_reducible apply kept_upd
    | dsimp +zetaDelta only

theorem kept_execRetry {p q : Nat} {seq : W32} {s : State} {t0 : State} (e : execRetry p q seq s = .next t0) : Kept s t0 := by
  obtain ⟨-, rfl⟩ := (onUnit_next _ _ _).1 e
  repeat' first
    | with_reducible assumption | with_reducible exact Kept.rfl | intro _ | with_reducible apply kept_runCmd
    | with_reducible apply kept_finishCmd | with_reducible apply kept_resumeGroup | split
    | fail_if_no_progress with_reducible apply kept_upd

theorem kept_execSkip {p q : Nat} {seq : W32} {s : State} {t0 : State} (e : execSkip p q seq s = .next t0) : Kept s t0 := by
  obtain ⟨-, rfl⟩ := (onUnit_next _ _ _).1 e
  repeat' first
    | with_reducible assumption | with_reducible exact Kept.rfl | intro _ | with_reducible apply kept_runCmd
    | with_reducible apply kept_finishCmd | with_reducible apply kept_resumeGroup | split
    | fail_if_no_progress with_reducible apply kept_upd

theorem kept_execTeardown {p q : Nat} {seq : W32} {s : State} {t0 : State} (e : execTeardown p q seq s = .next t0) : Kept s t0
    := by
  obtain ⟨-, rfl⟩ := (onUnit_next _ _ _).1 e
  repeat' first
    | with_reducible assumption | with_reducible exact Kept.rfl | intro _ | with_reducible apply kept_runCmd
    | with_reducible apply kept_finishCmd | with_reducible apply kept_teardown
    | (extract_lets +onlyGivenNames x;
        refine (fun (_ : Kept s x) => ?_) ?_; (on_goal 1 => rename' x => y); (on_goal 2 => unfold x; clear x))
    | (extract_lets +onlyGivenNames x; rename' x => y) | split | fail_if_no_progress with_reducible apply kept_upd
    | dsimp +zetaDelta only

theorem kept_execInvTlb {p q : Nat} {seq : W32} {s : State} {t0 : State} (e : execInvTlb p q seq s = .next t0) : Kept s t0 := by
  obtain ⟨-, rfl⟩ := (onUnit_next _ _ _).1 e
  repeat' first
    | with_reducible assumption | with_reducible exact Kept.rfl | intro _ | with_reducible apply kept_runCmd
    | with_reducible apply kept_finishCmd
    | (extract_lets +onlyGivenNames x;
        refine (fun (_ : Kept s x) => ?_) ?_; (on_goal 1 => rename' x => y); (on_goal 2 => unfold x; clear x))
    | (extract_lets +onlyGivenNames x; rename' x => y)
    | with_reducible refine kept_map ‹Option.map _ _ = some _› (fun _ _ => ?_) | split
    | fail_if_no_progress with_reducible apply kept_upd | dsimp +zetaDelta only

theorem kept_execInvRo {p q : Nat} {seq : W32} {s : State} {t0 : State} (e : execInvRo p q seq s = .next t0) : Kept s t0 := by
  obtain ⟨-, rfl⟩ := (onUnit_next _ _ _).1 e
  repeat' first
    | with_reducible assumption | with_reducible exact Kept.rfl | intro _ | with_reducible apply kept_runCmd
    | with_reducible apply kept_finishCmd
    | (extract_lets +onlyGivenNames x;
        refine (fun (_ : Kept s x) => ?_) ?_; (on_goal 1 => rename' x => y); (on_goal 2 => unfold x; clear x))
    | (extract_lets +onlyGivenNames x; rename' x => y) | with_reducible refine kept_getD (fun _ _ => ?_) ?_
    | with_reducible refine kept_map ‹Option.map _ _ = some _› (fun _ _ => ?_) | split
    | fail_if_no_progress with_reducible apply kept_upd | dsimp +zetaDelta only

theorem kept_execCreateContext {p q : Nat} {seq : W32} {s : State} {t0 : State} (e : execCreateContext p q seq s = .next t0) :
    Kept s t0 := by
  obtain ⟨-, rfl⟩ := (onUnit_next _ _ _).1 e
  repeat' first
    | with_reducible assumption | with_reducible exact Kept.rfl | intro _ | with_reducible apply kept_runCmd
    | with_reducible apply kept_finishCmd | with_reducible apply kept_setCtx | split
    | fail_if_no_progress with_reducible apply kept_upd

theorem kept_execDestroyContext {p q : Nat} {seq : W32} {s : State} {t0 : State} (e : execDestroyContext p q seq s = .next t0)
    : Kept s t0 := by
  obtain ⟨-, rfl⟩ := (onUnit_next _ _ _).1 e
  repeat' first
    | with_reducible assumption | with_reducible exact Kept.rfl | intro _ | with_reducible apply kept_runCmd
    | with_reducible apply kept_setCtx | with_reducible apply kept_finishCmd
    | (extract_lets +onlyGivenNames x;
        refine (fun (_ : Kept s x) => ?_) ?_; (on_goal 1 => rename' x => y); (on_goal 2 => unfold x; clear x))
    | (extract_lets +onlyGivenNames x; rename' x => y)
    | with_reducible refine kept_map ‹Option.map _ _ = some _› (fun _ _ => ?_) | split
    | fail_if_no_progress with_reducible apply kept_upd | dsimp +zetaDelta only

theorem kept_execCreateQueue {p q : Nat} {seq : W32} {s : State} {t0 : State} (e : execCreateQueue p q seq s = .next t0) :
    Kept s t0 := by
  obtain ⟨-, rfl⟩ := (onUnit_next _ _ _).1 e
  repeat' first
    | with_reducible assumption | with_reducible exact Kept.rfl | intro _ | with_reducible apply kept_runCmd
    | with_reducible apply kept_finishCmd | with_reducible apply kept_setQueue
    | (extract_lets +onlyGivenNames x;
        refine (fun (_ : Kept s x) => ?_) ?_; (on_goal 1 => rename' x => y); (on_goal 2 => unfold x; clear x))
    | (extract_lets +onlyGivenNames x; rename' x => y) | split | fail_if_no_progress with_reducible apply kept_upd
    | dsimp +zetaDelta only

theorem kept_execDestroyQueue {p q : Nat} {seq : W32} {s : State} {t0 : State} (e : execDestroyQueue p q seq s = .next t0) :
    Kept s t0 := by
  obtain ⟨-, rfl⟩ := (onUnit_next _ _ _).1 e
  repeat' first
    | with_reducible assumption | with_reducible exact Kept.rfl | intro _ | with_reducible apply kept_runCmd
    | with_reducible apply kept_finishCmd | with_reducible apply kept_destroyQueue
    | (extract_lets +onlyGivenNames x;
        refine (fun (_ : Kept s x) => ?_) ?_; (on_goal 1 => rename' x => y); (on_goal 2 => unfold x; clear x))
    | (extract_lets +onlyGivenNames x; rename' x => y) | split | fail_if_no_progress with_reducible apply kept_upd
    | dsimp +zetaDelta only

theorem kept_execRegisterGraph {p q : Nat} {seq : W32} {s : State} {t0 : State} (e : execRegisterGraph p q seq s = .next t0) :
    Kept s t0 := by
  obtain ⟨-, rfl⟩ := (onUnit_next _ _ _).1 e
  repeat' first
    | with_reducible assumption | with_reducible exact Kept.rfl | intro _ | with_reducible apply kept_runCmd
    | with_reducible apply kept_agentReads | with_reducible apply kept_finishCmd | with_reducible apply kept_setGraph
    | (extract_lets +onlyGivenNames x;
        refine (fun (_ : Kept s x) => ?_) ?_; (on_goal 1 => rename' x => y); (on_goal 2 => unfold x; clear x))
    | (extract_lets +onlyGivenNames x; rename' x => y) | split | fail_if_no_progress with_reducible apply kept_upd
    | dsimp +zetaDelta only

theorem kept_execPatchGraph {p q : Nat} {seq : W32} {s : State} {t0 : State} (e : execPatchGraph p q seq s = .next t0) : Kept
    s t0 := by
  obtain ⟨-, rfl⟩ := (onUnit_next _ _ _).1 e
  repeat' first
    | with_reducible assumption | with_reducible exact Kept.rfl | intro _ | with_reducible apply kept_runCmd
    | with_reducible apply kept_agentReads | with_reducible apply kept_setGraph | with_reducible apply kept_finishCmd
    | with_reducible apply kept_freeVersions | with_reducible apply kept_foldl
    | (extract_lets +onlyGivenNames x;
        refine (fun (_ : Kept s x) => ?_) ?_; (on_goal 1 => rename' x => y); (on_goal 2 => unfold x; clear x))
    | (extract_lets +onlyGivenNames x; rename' x => y)
    | with_reducible refine kept_map ‹Option.map _ _ = some _› (fun _ _ => ?_) | split
    | fail_if_no_progress with_reducible apply kept_upd | dsimp +zetaDelta only

theorem kept_execReleaseGraph {p q : Nat} {seq : W32} {s : State} {t0 : State} (e : execReleaseGraph p q seq s = .next t0) :
    Kept s t0 := by
  obtain ⟨-, rfl⟩ := (onUnit_next _ _ _).1 e
  repeat' first
    | with_reducible assumption | with_reducible exact Kept.rfl | intro _ | with_reducible apply kept_runCmd
    | with_reducible apply kept_finishCmd | with_reducible apply kept_freeVersions | with_reducible apply kept_setGraph
    | (extract_lets +onlyGivenNames x;
        refine (fun (_ : Kept s x) => ?_) ?_; (on_goal 1 => rename' x => y); (on_goal 2 => unfold x; clear x))
    | (extract_lets +onlyGivenNames x; rename' x => y)
    | with_reducible refine kept_map ‹Option.map _ _ = some _› (fun _ _ => ?_) | split
    | fail_if_no_progress with_reducible apply kept_upd | dsimp +zetaDelta only

theorem kept_execSetEventRing {p q : Nat} {seq : W32} {s : State} {t0 : State} (e : execSetEventRing p q seq s = .next t0) :
    Kept s t0 := by
  obtain ⟨-, rfl⟩ := (onUnit_next _ _ _).1 e
  repeat' first
    | with_reducible assumption | with_reducible exact Kept.rfl | intro _ | with_reducible apply kept_runCmd
    | with_reducible apply kept_modPart | with_reducible apply kept_finishCmd
    | (extract_lets +onlyGivenNames x;
        refine (fun (_ : Kept s x) => ?_) ?_; (on_goal 1 => rename' x => y); (on_goal 2 => unfold x; clear x))
    | (extract_lets +onlyGivenNames x; rename' x => y) | with_reducible refine kept_getD (fun _ _ => ?_) ?_ | split
    | fail_if_no_progress with_reducible apply kept_upd | dsimp +zetaDelta only

theorem kept_execRetireRows {p q : Nat} {seq : W32} {s : State} {t0 : State} (e : execRetireRows p q seq s = .next t0) : Kept
    s t0 := by
  obtain ⟨-, rfl⟩ := (onUnit_next _ _ _).1 e
  repeat' first
    | with_reducible assumption | with_reducible exact Kept.rfl | intro _ | with_reducible apply kept_runCmd
    | with_reducible apply kept_finishCmd | with_reducible apply kept_forceRows | split
    | fail_if_no_progress with_reducible apply kept_upd

theorem kept_writeRecord {z0 : State} {s : State} {p q : Nat} {c : Cmd} (k0 : Kept z0 s) :
    Kept z0 (writeRecord s p q c) := by
  unfold writeRecord
  repeat' first
    | with_reducible assumption | intro _ | with_reducible apply kept_agentWrite | with_reducible apply kept_emit
    | (extract_lets +onlyGivenNames x;
        refine (fun (_ : Kept z0 x) => ?_) ?_; (on_goal 1 => rename' x => y); (on_goal 2 => unfold x; clear x))
    | (extract_lets +onlyGivenNames x; rename' x => y) | split | fail_if_no_progress with_reducible apply kept_upd
    | dsimp +zetaDelta only

theorem kept_execCommandComplete {p q : Nat} {seq : W32} {s : State} {t0 : State} (e : execCommandComplete p q seq s = .next
    t0) : Kept s t0 := by
  obtain ⟨-, rfl⟩ := (onUnit_next _ _ _).1 e
  repeat' first
    | with_reducible assumption | with_reducible exact Kept.rfl | intro _ | with_reducible apply kept_endDestroy
    | with_reducible apply kept_writeRecord | with_reducible apply kept_modQueue
    | (extract_lets +onlyGivenNames x;
        refine (fun (_ : Kept s x) => ?_) ?_; (on_goal 1 => rename' x => y); (on_goal 2 => unfold x; clear x))
    | (extract_lets +onlyGivenNames x; rename' x => y) | split | fail_if_no_progress with_reducible apply kept_upd
    | dsimp +zetaDelta only

theorem kept_resetPart {z0 : State} {s : State} {p : Nat} (k0 : Kept z0 s) :
    Kept z0 (resetPart s p) := by
  unfold resetPart
  repeat' first
    | with_reducible assumption | intro _ | with_reducible apply kept_discardTasks | with_reducible apply kept_dropLaunches
    | with_reducible apply kept_finishCmd | with_reducible apply kept_writeRecord | with_reducible apply kept_purgeSlice
    | with_reducible apply kept_purgeCluster | with_reducible apply kept_zeroCluster | with_reducible apply kept_modQueue
    | with_reducible apply kept_modPart | with_reducible apply kept_releaseResvs | with_reducible apply kept_runPass
    | with_reducible apply kept_postEvents | with_reducible apply kept_foldl
    | (extract_lets +onlyGivenNames x;
        refine (fun (_ : Kept z0 x) => ?_) ?_; (on_goal 1 => rename' x => y); (on_goal 2 => unfold x; clear x))
    | (extract_lets +onlyGivenNames x; rename' x => y) | with_reducible refine kept_getD (fun _ _ => ?_) ?_
    | with_reducible refine kept_map ‹Option.map _ _ = some _› (fun _ _ => ?_) | split
    | fail_if_no_progress with_reducible apply kept_upd | dsimp +zetaDelta only

theorem kept_execResetPartition {p q : Nat} {seq : W32} {s : State} {t0 : State} (e : execResetPartition p q seq s = .next t0)
    : Kept s t0 := by
  obtain ⟨-, rfl⟩ := (onUnit_next _ _ _).1 e
  repeat' first
    | with_reducible assumption | with_reducible exact Kept.rfl | intro _ | with_reducible apply kept_runCmd
    | with_reducible apply kept_finishCmd | with_reducible apply kept_resetPart
    | (extract_lets +onlyGivenNames x;
        refine (fun (_ : Kept s x) => ?_) ?_; (on_goal 1 => rename' x => y); (on_goal 2 => unfold x; clear x))
    | (extract_lets +onlyGivenNames x; rename' x => y) | split | fail_if_no_progress with_reducible apply kept_upd
    | dsimp +zetaDelta only

end Sys2Proof.Machine
end

