-- ==== Sys2Proof/Laws/KeptDevice.lean ====
section
/-! SUPPORT. `Kept` for the operations and meanings of the engines, links, ports, registers and the scheduler. -/

namespace Sys2Proof.Machine

set_option linter.unusedVariables false
set_option linter.tactic.unusedName false
set_option linter.unusedTactic false
set_option linter.unreachableTactic false

/-! ### Matrix -/

theorem kept_markForm {z0 : State} {s : State} {task : Nat} {f : AccForm} (k0 : Kept z0 s) :
    Kept z0 (markForm s task f) := by
  unfold markForm
  repeat' first
    | with_reducible assumption | intro _ | with_reducible apply kept_markReduced | split
    | fail_if_no_progress with_reducible apply kept_upd

theorem kept_execMma {g : GRef} {w : W64} {s : State} {t0 : State} (e : execMma g w s = .next t0) : Kept s t0 := by
  obtain ⟨-, rfl⟩ := (onUnit_next _ _ _).1 e
  repeat' first
    | with_reducible assumption | with_reducible exact Kept.rfl | intro _ | with_reducible apply kept_issue
    | with_reducible apply kept_setGroup | with_reducible apply kept_matrixIssue | with_reducible apply kept_persistentError
    | with_reducible apply kept_parkAt | with_reducible apply kept_countRetry | with_reducible apply kept_markForm
    | with_reducible apply kept_retire
    | (extract_lets +onlyGivenNames x;
        refine (fun (_ : Kept s x) => ?_) ?_; (on_goal 1 => rename' x => y); (on_goal 2 => unfold x; clear x))
    | (extract_lets +onlyGivenNames x; rename' x => y) | split | fail_if_no_progress with_reducible apply kept_upd
    | dsimp +zetaDelta only

theorem kept_execAccLoad {g : GRef} {w : W64} {s : State} {t0 : State} (e : execAccLoad g w s = .next t0) : Kept s t0 := by
  obtain ⟨-, rfl⟩ := (onUnit_next _ _ _).1 e
  repeat' first
    | with_reducible assumption | with_reducible exact Kept.rfl | intro _ | with_reducible apply kept_issue
    | with_reducible apply kept_retire | with_reducible apply kept_foldl
    | (extract_lets +onlyGivenNames x;
        refine (fun (_ : Kept s x) => ?_) ?_; (on_goal 1 => rename' x => y); (on_goal 2 => unfold x; clear x))
    | (extract_lets +onlyGivenNames x; rename' x => y) | split | fail_if_no_progress with_reducible apply kept_upd
    | dsimp +zetaDelta only

theorem kept_execAccRelease {g : GRef} {w : W64} {s : State} {t0 : State} (e : execAccRelease g w s = .next t0) : Kept s t0 :=
    by
  obtain ⟨-, rfl⟩ := (onUnit_next _ _ _).1 e
  repeat' first
    | with_reducible assumption | with_reducible exact Kept.rfl | intro _ | with_reducible apply kept_issue
    | with_reducible apply kept_retire | split | fail_if_no_progress with_reducible apply kept_upd

theorem kept_execAccRound {g : GRef} {w : W64} {s : State} {t0 : State} (e : execAccRound g w s = .next t0) : Kept s t0 := by
  obtain ⟨-, rfl⟩ := (onUnit_next _ _ _).1 e
  repeat' first
    | with_reducible assumption | with_reducible exact Kept.rfl | intro _ | with_reducible apply kept_issue
    | with_reducible apply kept_markForm | with_reducible apply kept_retire
    | (extract_lets +onlyGivenNames x;
        refine (fun (_ : Kept s x) => ?_) ?_; (on_goal 1 => rename' x => y); (on_goal 2 => unfold x; clear x))
    | (extract_lets +onlyGivenNames x; rename' x => y) | split | fail_if_no_progress with_reducible apply kept_upd
    | dsimp +zetaDelta only

theorem kept_execAccPush {g : GRef} {w : W64} {s : State} {t0 : State} (e : execAccPush g w s = .next t0) : Kept s t0 := by
  obtain ⟨-, rfl⟩ := (onUnit_next _ _ _).1 e
  repeat' first
    | with_reducible assumption | with_reducible exact Kept.rfl | intro _ | with_reducible apply kept_issue
    | with_reducible apply kept_parkAt | with_reducible apply kept_notReady | with_reducible apply kept_cacheLeaves
    | with_reducible apply kept_retire | with_reducible apply kept_markForm | with_reducible apply kept_sendPackets
    | (extract_lets +onlyGivenNames x;
        refine (fun (_ : Kept s x) => ?_) ?_; (on_goal 1 => rename' x => y); (on_goal 2 => unfold x; clear x))
    | (extract_lets +onlyGivenNames x; rename' x => y) | with_reducible refine kept_getD (fun _ _ => ?_) ?_
    | with_reducible refine kept_map ‹Option.map _ _ = some _› (fun _ _ => ?_) | split
    | fail_if_no_progress with_reducible apply kept_upd | dsimp +zetaDelta only

theorem kept_execAccSave {g : GRef} {w : W64} {s : State} {t0 : State} (e : execAccSave g w s = .next t0) : Kept s t0 := by
  obtain ⟨-, rfl⟩ := (onUnit_next _ _ _).1 e
  repeat' first
    | with_reducible assumption | with_reducible exact Kept.rfl | intro _ | with_reducible apply kept_issue
    | with_reducible apply kept_doStores
    | (extract_lets +onlyGivenNames x;
        refine (fun (_ : Kept s x) => ?_) ?_; (on_goal 1 => rename' x => y); (on_goal 2 => unfold x; clear x))
    | (extract_lets +onlyGivenNames x; rename' x => y) | split | fail_if_no_progress with_reducible apply kept_upd
    | dsimp +zetaDelta only

theorem kept_execAccRestore {g : GRef} {w : W64} {s : State} {t0 : State} (e : execAccRestore g w s = .next t0) : Kept s t0 :=
    by
  obtain ⟨-, rfl⟩ := (onUnit_next _ _ _).1 e
  repeat' first
    | with_reducible assumption | with_reducible exact Kept.rfl | intro _ | with_reducible apply kept_issue
    | with_reducible apply kept_notReady | with_reducible apply kept_sendLoads | with_reducible apply kept_parkAt
    | with_reducible apply kept_cacheLeaves | with_reducible apply kept_retire
    | (extract_lets +onlyGivenNames x;
        refine (fun (_ : Kept s x) => ?_) ?_; (on_goal 1 => rename' x => y); (on_goal 2 => unfold x; clear x))
    | (extract_lets +onlyGivenNames x; rename' x => y) | split | dsimp +zetaDelta only

theorem kept_execTld {g : GRef} {w : W64} {s : State} {t0 : State} (e : execTld g w s = .next t0) : Kept s t0 := by
  obtain ⟨-, rfl⟩ := (onUnit_next _ _ _).1 e
  repeat' first
    | with_reducible assumption | with_reducible exact Kept.rfl | intro _ | with_reducible apply kept_issue
    | with_reducible apply kept_doLoads
    | (extract_lets +onlyGivenNames x;
        refine (fun (_ : Kept s x) => ?_) ?_; (on_goal 1 => rename' x => y); (on_goal 2 => unfold x; clear x))
    | (extract_lets +onlyGivenNames x; rename' x => y) | split | fail_if_no_progress with_reducible apply kept_upd
    | dsimp +zetaDelta only

theorem kept_execTst {g : GRef} {w : W64} {s : State} {t0 : State} (e : execTst g w s = .next t0) : Kept s t0 := by
  obtain ⟨-, rfl⟩ := (onUnit_next _ _ _).1 e
  repeat' first
    | with_reducible assumption | with_reducible exact Kept.rfl | intro _ | with_reducible apply kept_issue
    | with_reducible apply kept_doStores
    | (extract_lets +onlyGivenNames x;
        refine (fun (_ : Kept s x) => ?_) ?_; (on_goal 1 => rename' x => y); (on_goal 2 => unfold x; clear x))
    | (extract_lets +onlyGivenNames x; rename' x => y) | split | fail_if_no_progress with_reducible apply kept_upd
    | dsimp +zetaDelta only

/-! ### Control -/

theorem kept_execBra {g : GRef} {w : W64} {s : State} {t0 : State} (e : execBra g w s = .next t0) : Kept s t0 := by
  obtain ⟨-, rfl⟩ := (onUnit_next _ _ _).1 e
  repeat' first
    | with_reducible assumption | with_reducible exact Kept.rfl | intro _ | with_reducible apply kept_issue
    | with_reducible apply kept_setGroup
    | (extract_lets +onlyGivenNames x;
        refine (fun (_ : Kept s x) => ?_) ?_; (on_goal 1 => rename' x => y); (on_goal 2 => unfold x; clear x))
    | (extract_lets +onlyGivenNames x; rename' x => y)
    | with_reducible refine kept_map ‹Option.map _ _ = some _› (fun _ _ => ?_) | split
    | fail_if_no_progress with_reducible apply kept_upd | dsimp +zetaDelta only

theorem kept_execJoin {g : GRef} {w : W64} {s : State} {t0 : State} (e : execJoin g w s = .next t0) : Kept s t0 := by
  obtain ⟨-, rfl⟩ := (onUnit_next _ _ _).1 e
  repeat' first
    | with_reducible assumption | with_reducible exact Kept.rfl | intro _ | with_reducible apply kept_issue
    | with_reducible apply kept_scoreboard | with_reducible apply kept_setGroup | with_reducible apply kept_retire
    | (extract_lets +onlyGivenNames x;
        refine (fun (_ : Kept s x) => ?_) ?_; (on_goal 1 => rename' x => y); (on_goal 2 => unfold x; clear x))
    | (extract_lets +onlyGivenNames x; rename' x => y) | split | fail_if_no_progress with_reducible apply kept_upd
    | dsimp +zetaDelta only

theorem kept_execBarT {g : GRef} {w : W64} {s : State} {t0 : State} (e : execBarT g w s = .next t0) : Kept s t0 := by
  obtain ⟨-, rfl⟩ := (onUnit_next _ _ _).1 e
  repeat' first
    | with_reducible assumption | with_reducible exact Kept.rfl | intro _ | with_reducible apply kept_issue
    | with_reducible apply kept_completeIfIdle | with_reducible apply kept_startFence | with_reducible apply kept_setGroup
    | (extract_lets +onlyGivenNames x;
        refine (fun (_ : Kept s x) => ?_) ?_; (on_goal 1 => rename' x => y); (on_goal 2 => unfold x; clear x))
    | (extract_lets +onlyGivenNames x; rename' x => y) | split | fail_if_no_progress with_reducible apply kept_upd
    | dsimp +zetaDelta only

theorem kept_execExit {g : GRef} {w : W64} {s : State} {t0 : State} (e : execExit g w s = .next t0) : Kept s t0 := by
  obtain ⟨-, rfl⟩ := (onUnit_next _ _ _).1 e
  repeat' first
    | with_reducible assumption | with_reducible exact Kept.rfl | intro _ | with_reducible apply kept_issue
    | with_reducible apply kept_scoreboard | with_reducible apply kept_setGroup | with_reducible apply kept_completeIfIdle
    | with_reducible apply kept_startFence
    | (extract_lets +onlyGivenNames x;
        refine (fun (_ : Kept s x) => ?_) ?_; (on_goal 1 => rename' x => y); (on_goal 2 => unfold x; clear x))
    | (extract_lets +onlyGivenNames x; rename' x => y) | split | fail_if_no_progress with_reducible apply kept_upd
    | dsimp +zetaDelta only

theorem kept_execYield {g : GRef} {w : W64} {s : State} {t0 : State} (e : execYield g w s = .next t0) : Kept s t0 := by
  obtain ⟨-, rfl⟩ := (onUnit_next _ _ _).1 e
  repeat' first
    | with_reducible assumption | with_reducible exact Kept.rfl | intro _ | with_reducible apply kept_issue
    | with_reducible apply kept_setGroup
    | (extract_lets +onlyGivenNames x;
        refine (fun (_ : Kept s x) => ?_) ?_; (on_goal 1 => rename' x => y); (on_goal 2 => unfold x; clear x))
    | (extract_lets +onlyGivenNames x; rename' x => y)
    | with_reducible refine kept_map ‹Option.map _ _ = some _› (fun _ _ => ?_) | split
    | fail_if_no_progress with_reducible apply kept_upd | dsimp +zetaDelta only

/-! ### Link -/

theorem kept_modDir {z0 : State} {s : State} {i d : Nat} {f : LinkDir → LinkDir} (k0 : Kept z0 s) :
    Kept z0 (modDir s i d f) := by
  unfold modDir
  repeat' first
    | with_reducible assumption | intro _ | with_reducible apply kept_modLink | split
    | fail_if_no_progress with_reducible apply kept_upd

theorem kept_loseLink {z0 : State} {s : State} {i : Nat} (k0 : Kept z0 s) :
    Kept z0 (loseLink s i) := by
  unfold loseLink
  repeat' first
    | with_reducible assumption | intro _ | with_reducible apply kept_raiseFatal | with_reducible apply kept_modLink | split
    | fail_if_no_progress with_reducible apply kept_upd

theorem kept_retireOctet {z0 : State} {s : State} {i k : Nat} {command : Bool} (k0 : Kept z0 s) :
    Kept z0 (retireOctet s i k command) := by
  unfold retireOctet
  repeat' first
    | with_reducible assumption | intro _ | with_reducible apply kept_loseLink | with_reducible apply kept_emit
    | with_reducible apply kept_setLink | with_reducible apply kept_postEvent
    | (extract_lets +onlyGivenNames x;
        refine (fun (_ : Kept z0 x) => ?_) ?_; (on_goal 1 => rename' x => y); (on_goal 2 => unfold x; clear x))
    | (extract_lets +onlyGivenNames x; rename' x => y) | split | fail_if_no_progress with_reducible apply kept_upd
    | dsimp +zetaDelta only

theorem kept_holdByLink {z0 : State} {s : State} {d cause : Nat} (k0 : Kept z0 s) :
    Kept z0 (holdByLink s d cause) := by
  unfold holdByLink
  repeat' first
    | with_reducible assumption | intro _ | with_reducible apply kept_setDieHeld | split
    | fail_if_no_progress with_reducible apply kept_upd

theorem kept_linkHeld {z0 : State} {s : State} {i cause : Nat} (k0 : Kept z0 s) :
    Kept z0 (linkHeld s i cause) := by
  unfold linkHeld
  repeat' first
    | with_reducible assumption | intro _ | with_reducible apply kept_modLink | split
    | fail_if_no_progress with_reducible apply kept_upd

theorem kept_negotiate {z0 : State} {s : State} {i : Nat} (k0 : Kept z0 s) :
    Kept z0 (negotiate s i) := by
  unfold negotiate
  repeat' first
    | with_reducible assumption | intro _ | with_reducible apply kept_holdByLink | with_reducible apply kept_linkHeld
    | with_reducible apply kept_setLink
    | (extract_lets +onlyGivenNames x;
        refine (fun (_ : Kept z0 x) => ?_) ?_; (on_goal 1 => rename' x => y); (on_goal 2 => unfold x; clear x))
    | (extract_lets +onlyGivenNames x; rename' x => y) | split | fail_if_no_progress with_reducible apply kept_upd
    | dsimp +zetaDelta only

theorem kept_presentWords {z0 : State} {s : State} {i dir : Nat} {w : List W64} (k0 : Kept z0 s) :
    Kept z0 (presentWords s i dir w) := by
  unfold presentWords
  repeat' first
    | with_reducible assumption | intro _ | with_reducible apply kept_modLink | with_reducible apply kept_negotiate
    | (extract_lets +onlyGivenNames x;
        refine (fun (_ : Kept z0 x) => ?_) ?_; (on_goal 1 => rename' x => y); (on_goal 2 => unfold x; clear x))
    | (extract_lets +onlyGivenNames x; rename' x => y) | split | fail_if_no_progress with_reducible apply kept_upd
    | dsimp +zetaDelta only

theorem kept_requestReplay {z0 : State} {s : State} {i dir : Nat} (k0 : Kept z0 s) :
    Kept z0 (requestReplay s i dir) := by
  unfold requestReplay
  repeat' first
    | with_reducible assumption | intro _ | with_reducible apply kept_emit | with_reducible apply kept_modDir
    | (extract_lets +onlyGivenNames x;
        refine (fun (_ : Kept z0 x) => ?_) ?_; (on_goal 1 => rename' x => y); (on_goal 2 => unfold x; clear x))
    | (extract_lets +onlyGivenNames x; rename' x => y) | split | fail_if_no_progress with_reducible apply kept_upd
    | dsimp +zetaDelta only

theorem kept_crcFailure {z0 : State} {s : State} {i dir o : Nat} (k0 : Kept z0 s) :
    Kept z0 (crcFailure s i dir o) := by
  unfold crcFailure
  repeat' first
    | with_reducible assumption | intro _ | with_reducible apply kept_modLink | with_reducible apply kept_requestReplay
    | with_reducible apply kept_retireOctet
    | (extract_lets +onlyGivenNames x;
        refine (fun (_ : Kept z0 x) => ?_) ?_; (on_goal 1 => rename' x => y); (on_goal 2 => unfold x; clear x))
    | (extract_lets +onlyGivenNames x; rename' x => y) | split | fail_if_no_progress with_reducible apply kept_upd
    | dsimp +zetaDelta only

theorem kept_takeAck {z0 : State} {s : State} {i dir : Nat} {f : Frame} (k0 : Kept z0 s) :
    Kept z0 (takeAck s i dir f) := by
  unfold takeAck
  repeat' first
    | with_reducible assumption | intro _ | with_reducible apply kept_modLink | with_reducible apply kept_modDir
    | with_reducible apply kept_foldl
    | (extract_lets +onlyGivenNames x;
        refine (fun (_ : Kept z0 x) => ?_) ?_; (on_goal 1 => rename' x => y); (on_goal 2 => unfold x; clear x))
    | (extract_lets +onlyGivenNames x; rename' x => y) | split | fail_if_no_progress with_reducible apply kept_upd
    | dsimp +zetaDelta only

theorem kept_takeData {z0 : State} {s : State} {i dir : Nat} {f : Frame} (k0 : Kept z0 s) :
    Kept z0 (takeData s i dir f) := by
  unfold takeData
  repeat' first
    | with_reducible assumption | intro _ | with_reducible apply kept_modDir | with_reducible apply kept_loseLink
    | with_reducible apply kept_raiseFatal | with_reducible apply kept_requestReplay
    | (extract_lets +onlyGivenNames x;
        refine (fun (_ : Kept z0 x) => ?_) ?_; (on_goal 1 => rename' x => y); (on_goal 2 => unfold x; clear x))
    | (extract_lets +onlyGivenNames x; rename' x => y) | split | fail_if_no_progress with_reducible apply kept_upd
    | dsimp +zetaDelta only

theorem kept_takeFrame {z0 : State} {s : State} {i dir o ty : Nat} {f : Frame} {k : State → State} (k_k : ∀ x0, Kept z0 x0 →
    Kept z0 (k x0)) (k0 : Kept z0 s) :
    Kept z0 (takeFrame s i dir o ty f k) := by
  unfold takeFrame
  repeat' first
    | with_reducible assumption | intro _ | with_reducible apply kept_crcFailure | with_reducible apply kept_presentWords
    | with_reducible apply kept_modDir | with_reducible apply kept_loseLink | with_reducible apply kept_takeAck
    | with_reducible apply k_k
    | (extract_lets +onlyGivenNames x;
        refine (fun (_ : Kept z0 x) => ?_) ?_; (on_goal 1 => rename' x => y); (on_goal 2 => unfold x; clear x))
    | (extract_lets +onlyGivenNames x; rename' x => y) | split | fail_if_no_progress with_reducible apply kept_upd
    | dsimp +zetaDelta only

theorem kept_execDataFrame {i dir o : Nat} {f : Frame} {s : State} {t0 : State} (e : execDataFrame i dir o f s = .next t0) :
    Kept s t0 := by
  obtain ⟨-, rfl⟩ := (onUnit_next _ _ _).1 e
  repeat' first
    | with_reducible assumption | with_reducible exact Kept.rfl | intro _ | with_reducible apply kept_takeFrame
    | with_reducible apply kept_takeData | split | fail_if_no_progress with_reducible apply kept_upd

theorem kept_execIdleFrame {i dir o : Nat} {f : Frame} {s : State} {t0 : State} (e : execIdleFrame i dir o f s = .next t0) :
    Kept s t0 := by
  obtain ⟨-, rfl⟩ := (onUnit_next _ _ _).1 e
  repeat' first
    | with_reducible assumption | with_reducible exact Kept.rfl | intro _ | with_reducible apply kept_takeFrame | split
    | fail_if_no_progress with_reducible apply kept_upd

theorem kept_execCapFrame {i dir o : Nat} {f : Frame} {s : State} {t0 : State} (e : execCapFrame i dir o f s = .next t0) :
    Kept s t0 := by
  obtain ⟨-, rfl⟩ := (onUnit_next _ _ _).1 e
  repeat' first
    | with_reducible assumption | with_reducible exact Kept.rfl | intro _ | with_reducible apply kept_takeFrame
    | with_reducible apply kept_loseLink | split | fail_if_no_progress with_reducible apply kept_upd

theorem kept_takeWidth {z0 : State} {s : State} {i : Nat} {f : Frame} (k0 : Kept z0 s) :
    Kept z0 (takeWidth s i f) := by
  unfold takeWidth
  repeat' first
    | with_reducible assumption | intro _ | with_reducible apply kept_retireOctet | with_reducible apply kept_modLink
    | with_reducible apply kept_foldl
    | (extract_lets +onlyGivenNames x;
        refine (fun (_ : Kept z0 x) => ?_) ?_; (on_goal 1 => rename' x => y); (on_goal 2 => unfold x; clear x))
    | (extract_lets +onlyGivenNames x; rename' x => y) | split | fail_if_no_progress with_reducible apply kept_upd
    | dsimp +zetaDelta only

theorem kept_execWidthFrame {i dir o : Nat} {f : Frame} {s : State} {t0 : State} (e : execWidthFrame i dir o f s = .next t0) :
    Kept s t0 := by
  obtain ⟨-, rfl⟩ := (onUnit_next _ _ _).1 e
  repeat' first
    | with_reducible assumption | with_reducible exact Kept.rfl | intro _ | with_reducible apply kept_takeFrame
    | with_reducible apply kept_takeWidth | split | fail_if_no_progress with_reducible apply kept_upd

theorem kept_execAlignFrame {i dir o : Nat} {f : Frame} {s : State} {t0 : State} (e : execAlignFrame i dir o f s = .next t0) :
    Kept s t0 := by
  obtain ⟨-, rfl⟩ := (onUnit_next _ _ _).1 e
  repeat' first
    | with_reducible assumption | with_reducible exact Kept.rfl | intro _ | with_reducible apply kept_takeFrame
    | with_reducible apply kept_modDir | split | fail_if_no_progress with_reducible apply kept_upd

theorem kept_execRecalFrame {i dir o : Nat} {f : Frame} {s : State} {t0 : State} (e : execRecalFrame i dir o f s = .next t0) :
    Kept s t0 := by
  obtain ⟨-, rfl⟩ := (onUnit_next _ _ _).1 e
  repeat' first
    | with_reducible assumption | with_reducible exact Kept.rfl | intro _ | with_reducible apply kept_takeFrame | split
    | fail_if_no_progress with_reducible apply kept_upd

theorem kept_execNakRepeat {i dir : Nat} {s : State} {t0 : State} (e : execNakRepeat i dir s = .next t0) : Kept s t0 := by
  obtain ⟨-, rfl⟩ := (onUnit_next _ _ _).1 e
  repeat' first
    | with_reducible assumption | with_reducible exact Kept.rfl | intro _ | with_reducible apply kept_emit
    | with_reducible apply kept_modDir | with_reducible apply kept_loseLink
    | (extract_lets +onlyGivenNames x;
        refine (fun (_ : Kept s x) => ?_) ?_; (on_goal 1 => rename' x => y); (on_goal 2 => unfold x; clear x))
    | (extract_lets +onlyGivenNames x; rename' x => y) | split | fail_if_no_progress with_reducible apply kept_upd
    | dsimp +zetaDelta only

theorem kept_execFrameTimeout {i : Nat} {s : State} {t0 : State} (e : execFrameTimeout i s = .next t0) : Kept s t0 := by
  obtain ⟨-, rfl⟩ := (onUnit_next _ _ _).1 e
  repeat' first
    | with_reducible assumption | with_reducible exact Kept.rfl | intro _ | with_reducible apply kept_loseLink | split
    | fail_if_no_progress with_reducible apply kept_upd

theorem kept_execLossOfSignal {i o : Nat} {s : State} {t0 : State} (e : execLossOfSignal i o s = .next t0) : Kept s t0 := by
  obtain ⟨-, rfl⟩ := (onUnit_next _ _ _).1 e
  repeat' first
    | with_reducible assumption | with_reducible exact Kept.rfl | intro _ | with_reducible apply kept_retireOctet | split
    | fail_if_no_progress with_reducible apply kept_upd

theorem kept_execOctetRecalibration {i o : Nat} {ok : Bool} {s : State} {t0 : State} (e : execOctetRecalibration i o ok s =
    .next t0) : Kept s t0 := by
  obtain ⟨-, rfl⟩ := (onUnit_next _ _ _).1 e
  repeat' first
    | with_reducible assumption | with_reducible exact Kept.rfl | intro _ | with_reducible apply kept_setLink
    | with_reducible apply kept_retireOctet
    | (extract_lets +onlyGivenNames x;
        refine (fun (_ : Kept s x) => ?_) ?_; (on_goal 1 => rename' x => y); (on_goal 2 => unfold x; clear x))
    | (extract_lets +onlyGivenNames x; rename' x => y) | split | fail_if_no_progress with_reducible apply kept_upd
    | dsimp +zetaDelta only

theorem kept_retireMask {z0 : State} {s : State} {i : Nat} {m : BitVec 12} (k0 : Kept z0 s) :
    Kept z0 (retireMask s i m) := by
  unfold retireMask
  repeat' first
    | with_reducible assumption | intro _ | with_reducible apply kept_retireOctet | with_reducible apply kept_foldl | split
    | fail_if_no_progress with_reducible apply kept_upd

theorem kept_startRecal {z0 : State} {s : State} {i : Nat} (k0 : Kept z0 s) :
    Kept z0 (startRecal s i) := by
  unfold startRecal
  repeat' first
    | with_reducible assumption | intro _ | with_reducible apply kept_modLink | split
    | fail_if_no_progress with_reducible apply kept_upd

theorem kept_execLnkCmdRetire {i : Nat} {m : BitVec 12} {s : State} {t0 : State} (e : execLnkCmdRetire i m s = .next t0) :
    Kept s t0 := by
  obtain ⟨-, rfl⟩ := (onUnit_next _ _ _).1 e
  repeat' first
    | with_reducible assumption | with_reducible exact Kept.rfl | intro _ | with_reducible apply kept_retireMask | split
    | fail_if_no_progress with_reducible apply kept_upd

theorem kept_execLnkCmdRecal {i : Nat} {s : State} {t0 : State} (e : execLnkCmdRecal i s = .next t0) : Kept s t0 := by
  obtain ⟨-, rfl⟩ := (onUnit_next _ _ _).1 e
  repeat' first
    | with_reducible assumption | with_reducible exact Kept.rfl | intro _ | with_reducible apply kept_startRecal | split
    | fail_if_no_progress with_reducible apply kept_upd

/-! ### Registers -/

theorem kept_ctlDiscard {z0 : State} {s : State} {p q : Nat} (k0 : Kept z0 s) :
    Kept z0 (ctlDiscard s p q) := by
  unfold ctlDiscard
  repeat' first
    | with_reducible assumption | intro _ | with_reducible apply kept_modQueue | split
    | fail_if_no_progress with_reducible apply kept_upd

theorem kept_ctlResync {z0 : State} {s : State} {p q : Nat} (k0 : Kept z0 s) :
    Kept z0 (ctlResync s p q) := by
  unfold ctlResync
  repeat' first
    | with_reducible assumption | intro _ | with_reducible apply kept_modQueue | with_reducible apply kept_stopQueue
    | (extract_lets +onlyGivenNames x;
        refine (fun (_ : Kept z0 x) => ?_) ?_; (on_goal 1 => rename' x => y); (on_goal 2 => unfold x; clear x))
    | (extract_lets +onlyGivenNames x; rename' x => y) | with_reducible refine kept_getD (fun _ _ => ?_) ?_ | split
    | fail_if_no_progress with_reducible apply kept_upd | dsimp +zetaDelta only

theorem kept_writeEvTail {z0 : State} {s : State} {p : Nat} {v : W32} (k0 : Kept z0 s) :
    Kept z0 (writeEvTail s p v) := by
  unfold writeEvTail
  repeat' first
    | with_reducible assumption | intro _ | with_reducible apply kept_modPart | with_reducible apply kept_releaseEvents
    | (extract_lets +onlyGivenNames x;
        refine (fun (_ : Kept z0 x) => ?_) ?_; (on_goal 1 => rename' x => y); (on_goal 2 => unfold x; clear x))
    | (extract_lets +onlyGivenNames x; rename' x => y) | split | fail_if_no_progress with_reducible apply kept_upd
    | dsimp +zetaDelta only

theorem kept_quoteGo {z0 : State} {s : State} (k0 : Kept z0 s) :
    Kept z0 (quoteGo s) := by
  unfold quoteGo
  repeat' first
    | with_reducible assumption | intro _ | with_reducible refine kept_map ‹Option.map _ _ = some _› (fun _ _ => ?_) | split
    | fail_if_no_progress with_reducible apply kept_upd

theorem kept_writeCap {z0 : State} {s : State} {v : W64} (k0 : Kept z0 s) :
    Kept z0 (writeCap s v) := by
  unfold writeCap
  repeat' first | with_reducible assumption | intro _ | split | fail_if_no_progress with_reducible apply kept_upd

theorem kept_regWrite {z0 : State} {s : State} {off : Nat} {v : W64} (k0 : Kept z0 s) :
    Kept z0 (regWrite s off v) := by
  unfold regWrite
  repeat' first
    | with_reducible assumption | intro _ | with_reducible apply kept_ringTail | with_reducible apply kept_ctlDiscard
    | with_reducible apply kept_ctlResync | with_reducible apply kept_writeEvTail | with_reducible apply kept_writeCap
    | with_reducible apply kept_retireMask | with_reducible apply kept_startRecal | with_reducible apply kept_quoteGo
    | (extract_lets +onlyGivenNames x;
        refine (fun (_ : Kept z0 x) => ?_) ?_; (on_goal 1 => rename' x => y); (on_goal 2 => unfold x; clear x))
    | (extract_lets +onlyGivenNames x; rename' x => y) | split | fail_if_no_progress with_reducible apply kept_upd
    | dsimp +zetaDelta only

theorem kept_regWriteLine {z0 : State} {s : State} {line : Nat} {be : BitVec 128} {d : Line} (k0 : Kept z0 s) :
    Kept z0 (regWriteLine s line be d) := by
  unfold regWriteLine
  repeat' first
    | with_reducible assumption | intro _ | with_reducible apply kept_regWrite | with_reducible apply kept_foldl | split
    | fail_if_no_progress with_reducible apply kept_upd

theorem kept_writeAny {z0 : State} {s : State} {pa : Nat} {bs : List Byte} {attr : Nat} (k0 : Kept z0 s) :
    Kept z0 (writeAny s pa bs attr) := by
  unfold writeAny
  repeat' first
    | with_reducible assumption | intro _ | with_reducible apply kept_regWrite | with_reducible apply kept_writePhys
    | with_reducible apply kept_foldl | split | fail_if_no_progress with_reducible apply kept_upd

theorem kept_execRegisterWrite {p off : Nat} {v : W64} {s : State} {t0 : State} (e : execRegisterWrite p off v s = .next t0) :
    Kept s t0 := by
  obtain ⟨-, rfl⟩ := (onUnit_next _ _ _).1 e
  repeat' first
    | with_reducible assumption | with_reducible exact Kept.rfl | intro _ | with_reducible apply kept_regWrite | split
    | fail_if_no_progress with_reducible apply kept_upd

theorem kept_execQdbCtlDiscard {p q : Nat} {s : State} {t0 : State} (e : execQdbCtlDiscard p q s = .next t0) : Kept s t0 := by
  obtain ⟨-, rfl⟩ := (onUnit_next _ _ _).1 e
  repeat' first
    | with_reducible assumption | with_reducible exact Kept.rfl | intro _ | with_reducible apply kept_ctlDiscard | split
    | fail_if_no_progress with_reducible apply kept_upd

theorem kept_execQdbCtlResync {p q : Nat} {s : State} {t0 : State} (e : execQdbCtlResync p q s = .next t0) : Kept s t0 := by
  obtain ⟨-, rfl⟩ := (onUnit_next _ _ _).1 e
  repeat' first
    | with_reducible assumption | with_reducible exact Kept.rfl | intro _ | with_reducible apply kept_ctlResync | split
    | fail_if_no_progress with_reducible apply kept_upd

theorem kept_execQdbEvtailWrite {p : Nat} {v : W64} {s : State} {t0 : State} (e : execQdbEvtailWrite p v s = .next t0) : Kept
    s t0 := by
  obtain ⟨-, rfl⟩ := (onUnit_next _ _ _).1 e
  repeat' first
    | with_reducible assumption | with_reducible exact Kept.rfl | intro _ | with_reducible apply kept_writeEvTail | split
    | fail_if_no_progress with_reducible apply kept_upd

theorem kept_execSecQuoteCtlGo {s : State} {t0 : State} (e : execSecQuoteCtlGo s = .next t0) : Kept s t0 := by
  obtain ⟨-, rfl⟩ := (onUnit_next _ _ _).1 e
  repeat' first
    | with_reducible assumption | with_reducible exact Kept.rfl | intro _ | with_reducible apply kept_quoteGo | split
    | fail_if_no_progress with_reducible apply kept_upd

theorem kept_execPwrCapWrite {v : W64} {s : State} {t0 : State} (e : execPwrCapWrite v s = .next t0) : Kept s t0 := by
  obtain ⟨-, rfl⟩ := (onUnit_next _ _ _).1 e
  repeat' first
    | with_reducible assumption | with_reducible exact Kept.rfl | intro _ | with_reducible apply kept_writeCap | split
    | fail_if_no_progress with_reducible apply kept_upd

/-! ### Image -/

theorem kept_withImage {z0 : State} {s : State} {i : Image} (k0 : Kept z0 s) :
    Kept z0 (withImage s i) := by
  unfold withImage
  repeat' first | with_reducible assumption | intro _ | split | fail_if_no_progress with_reducible apply kept_upd

theorem kept_fullState {z0 : State} {s : State} {i : Image} (k0 : Kept z0 s) :
    Kept z0 (fullState s i) := by
  unfold fullState
  repeat' first
    | with_reducible assumption | intro _ | with_reducible apply kept_setDie | with_reducible apply kept_setLink
    | with_reducible apply kept_modPort | with_reducible apply kept_foldl
    | (extract_lets +onlyGivenNames x;
        refine (fun (_ : Kept z0 x) => ?_) ?_; (on_goal 1 => rename' x => y); (on_goal 2 => unfold x; clear x))
    | (extract_lets +onlyGivenNames x; rename' x => y) | split | fail_if_no_progress with_reducible apply kept_upd
    | dsimp +zetaDelta only

/-! ### LocalStore -/

theorem kept_execLdl {g : GRef} {w : W64} {s : State} {t0 : State} (e : execLdl g w s = .next t0) : Kept s t0 := by
  obtain ⟨-, rfl⟩ := (onUnit_next _ _ _).1 e
  repeat' first
    | with_reducible assumption | with_reducible exact Kept.rfl | intro _ | with_reducible apply kept_issue
    | with_reducible apply kept_parkAt | with_reducible apply kept_freeVal | with_reducible apply kept_retire
    | with_reducible apply kept_foldl | with_reducible refine kept_of_fst ‹_ = (_, _)› ?_
    | with_reducible refine kept_of_snd ‹_ = (_, _)› ?_ | with_reducible apply kept_foldl_fst
    | with_reducible refine kept_of_fst ‹_ = (_, _)› ?_
    | (extract_lets +onlyGivenNames x;
        refine (fun (_ : Kept s x) => ?_) ?_; (on_goal 1 => rename' x => y); (on_goal 2 => unfold x; clear x))
    | (extract_lets +onlyGivenNames x; rename' x => y)
    | with_reducible refine kept_map ‹Option.map _ _ = some _› (fun _ _ => ?_) | split
    | fail_if_no_progress with_reducible apply kept_upd | dsimp +zetaDelta only

theorem kept_execStl {g : GRef} {w : W64} {s : State} {t0 : State} (e : execStl g w s = .next t0) : Kept s t0 := by
  obtain ⟨-, rfl⟩ := (onUnit_next _ _ _).1 e
  repeat' first
    | with_reducible assumption | with_reducible exact Kept.rfl | intro _ | with_reducible apply kept_issue
    | with_reducible apply kept_writePhys | with_reducible apply kept_retire | with_reducible apply kept_foldl
    | (extract_lets +onlyGivenNames x;
        refine (fun (_ : Kept s x) => ?_) ?_; (on_goal 1 => rename' x => y); (on_goal 2 => unfold x; clear x))
    | (extract_lets +onlyGivenNames x; rename' x => y) | split | fail_if_no_progress with_reducible apply kept_upd
    | dsimp +zetaDelta only

theorem kept_bankAtomic {z0 : State} {s : State} {a size op operand comparand : Nat} (k0 : Kept z0 s) :
    Kept z0 (bankAtomic s a size op operand comparand).1 := by
  unfold bankAtomic
  repeat' first
    | with_reducible assumption | intro _ | with_reducible apply kept_writePhys
    | (extract_lets +onlyGivenNames x;
        refine (fun (_ : Kept z0 x) => ?_) ?_; (on_goal 1 => rename' x => y); (on_goal 2 => unfold x; clear x))
    | (extract_lets +onlyGivenNames x; rename' x => y) | split | fail_if_no_progress with_reducible apply kept_upd
    | dsimp +zetaDelta only

theorem kept_execAtoml {g : GRef} {w : W64} {s : State} {t0 : State} (e : execAtoml g w s = .next t0) : Kept s t0 := by
  obtain ⟨-, rfl⟩ := (onUnit_next _ _ _).1 e
  repeat' first
    | with_reducible assumption | with_reducible exact Kept.rfl | intro _ | with_reducible apply kept_issue
    | with_reducible apply kept_parkAt | with_reducible apply kept_bankAtomic | with_reducible apply kept_setGroup
    | with_reducible apply kept_foldl | with_reducible refine kept_of_fst ‹_ = (_, _)› ?_
    | with_reducible refine kept_of_snd ‹_ = (_, _)› ?_ | with_reducible apply kept_foldl_fst
    | with_reducible refine kept_of_fst ‹_ = (_, _)› ?_
    | (extract_lets +onlyGivenNames x;
        refine (fun (_ : Kept s x) => ?_) ?_; (on_goal 1 => rename' x => y); (on_goal 2 => unfold x; clear x))
    | (extract_lets +onlyGivenNames x; rename' x => y)
    | with_reducible refine kept_map ‹Option.map _ _ = some _› (fun _ _ => ?_) | split
    | fail_if_no_progress with_reducible apply kept_upd | dsimp +zetaDelta only

/-! ### Ethernet -/

theorem kept_dropFrame {z0 : State} {s : State} {n : Nat} (k0 : Kept z0 s) :
    Kept z0 (dropFrame s n) := by
  unfold dropFrame
  repeat' first
    | with_reducible assumption | intro _
    | (extract_lets +onlyGivenNames x;
        refine (fun (_ : Kept z0 x) => ?_) ?_; (on_goal 1 => rename' x => y); (on_goal 2 => unfold x; clear x))
    | (extract_lets +onlyGivenNames x; rename' x => y) | split | fail_if_no_progress with_reducible apply kept_upd
    | dsimp +zetaDelta only

theorem kept_sendNak {z0 : State} {s : State} {q psn code : Nat} (k0 : Kept z0 s) :
    Kept z0 (sendNak s q psn code) := by
  unfold sendNak
  repeat' first
    | with_reducible assumption | intro _ | with_reducible apply kept_emit | split
    | fail_if_no_progress with_reducible apply kept_upd

theorem kept_notifyCe {z0 : State} {s : State} {q : Nat} {ce : Bool} (k0 : Kept z0 s) :
    Kept z0 (notifyCe s q ce) := by
  unfold notifyCe
  repeat' first
    | with_reducible assumption | intro _ | with_reducible apply kept_emit | with_reducible apply kept_setQp
    | (extract_lets +onlyGivenNames x;
        refine (fun (_ : Kept z0 x) => ?_) ?_; (on_goal 1 => rename' x => y); (on_goal 2 => unfold x; clear x))
    | (extract_lets +onlyGivenNames x; rename' x => y) | split | fail_if_no_progress with_reducible apply kept_upd
    | refine kept_upd_all ?_ (hm := ?_) | with_reducible exact wf_nil | with_reducible exact memPutLine_wf _ _ _ ‹_›
    | with_reducible exact writeBytes_wf _ _ ‹_› | exact wf_filter _ ‹_› | exact foldl_writeByte_wf _ _ _ (wf_filter _ ‹_›)
    | exact id | dsimp +zetaDelta only

theorem kept_takeRequest {z0 : State} {s : State} {k : RcPacket} {serve again : State → Nat → Nat → State} (k_serve : ∀ x0 x1
    x2, Kept z0 x0 → Kept z0 (serve x0 x1 x2)) (k_again : ∀ x0 x1 x2, Kept z0 x0 → Kept z0 (again x0 x1 x2)) (k0 : Kept z0 s)
    :
    Kept z0 (takeRequest s k serve again) := by
  unfold takeRequest
  repeat' first
    | with_reducible assumption | intro _ | with_reducible apply kept_dropFrame | with_reducible apply kept_emit
    | with_reducible apply kept_notifyCe | with_reducible apply kept_sendNak | with_reducible apply k_serve
    | with_reducible apply k_again
    | (extract_lets +onlyGivenNames x;
        refine (fun (_ : Kept z0 x) => ?_) ?_; (on_goal 1 => rename' x => y); (on_goal 2 => unfold x; clear x))
    | (extract_lets +onlyGivenNames x; rename' x => y) | with_reducible refine kept_getD (fun _ _ => ?_) ?_ | split
    | fail_if_no_progress with_reducible apply kept_upd | dsimp +zetaDelta only

theorem kept_passRequest {z0 : State} {s : State} {q n : Nat} {last : Bool} (k0 : Kept z0 s) :
    Kept z0 (passRequest s q n last) := by
  unfold passRequest
  repeat' first
    | with_reducible assumption | intro _ | with_reducible apply kept_modQp | split
    | fail_if_no_progress with_reducible apply kept_upd

theorem kept_sendAck {z0 : State} {s : State} {q psn : Nat} (k0 : Kept z0 s) :
    Kept z0 (sendAck s q psn) := by
  unfold sendAck
  repeat' first
    | with_reducible assumption | intro _ | with_reducible apply kept_emit | split
    | fail_if_no_progress with_reducible apply kept_upd

theorem kept_execRdmaWrite {k : RcPacket} {s : State} {t0 : State} (e : execRdmaWrite k s = .next t0) : Kept s t0 := by
  obtain ⟨-, rfl⟩ := (onUnit_next _ _ _).1 e
  repeat' first
    | with_reducible assumption | with_reducible exact Kept.rfl | intro _ | with_reducible apply kept_takeRequest
    | with_reducible apply kept_sendNak | with_reducible apply kept_passRequest | with_reducible apply kept_writeAny
    | with_reducible apply kept_sendAck
    | (extract_lets +onlyGivenNames x;
        refine (fun (_ : Kept s x) => ?_) ?_; (on_goal 1 => rename' x => y); (on_goal 2 => unfold x; clear x))
    | (extract_lets +onlyGivenNames x; rename' x => y) | split | fail_if_no_progress with_reducible apply kept_upd
    | dsimp +zetaDelta only

theorem kept_respond {z0 s : State} {q psn va len mtu c i : Nat} (k0 : Kept z0 s) :
    Kept z0 (respond q psn va len mtu c i s) := by
  induction c generalizing s i with
  | zero => exact k0
  | succ c ih =>
    simp only [respond]
    split
    · exact kept_sendNak k0
    · exact ih (kept_emit (kept_agentReads k0))

theorem kept_answerReads {z0 : State} {s : State} {q : Nat} {k : RcPacket} (k0 : Kept z0 s) :
    Kept z0 (answerReads s q k) := by
  unfold answerReads
  repeat' first
    | with_reducible assumption | intro _ | with_reducible apply kept_respond
    | (extract_lets +onlyGivenNames x;
        refine (fun (_ : Kept z0 x) => ?_) ?_; (on_goal 1 => rename' x => y); (on_goal 2 => unfold x; clear x))
    | (extract_lets +onlyGivenNames x; rename' x => y) | split | fail_if_no_progress with_reducible apply kept_upd
    | dsimp +zetaDelta only

theorem kept_execRdmaReadRequest {k : RcPacket} {s : State} {t0 : State} (e : execRdmaReadRequest k s = .next t0) : Kept s t0
    := by
  obtain ⟨-, rfl⟩ := (onUnit_next _ _ _).1 e
  repeat' first
    | with_reducible assumption | with_reducible exact Kept.rfl | intro _ | with_reducible apply kept_sendNak
    | with_reducible apply kept_answerReads | with_reducible apply kept_passRequest | with_reducible apply kept_takeRequest
    | (extract_lets +onlyGivenNames x;
        refine (fun (_ : Kept s x) => ?_) ?_; (on_goal 1 => rename' x => y); (on_goal 2 => unfold x; clear x))
    | (extract_lets +onlyGivenNames x; rename' x => y) | split | dsimp +zetaDelta only

theorem kept_serveAtomic {z0 : State} {s : State} {q p : Nat} {k : RcPacket} {op operand comparand : Nat} (k0 : Kept z0 s) :
    Kept z0 (serveAtomic s q p k op operand comparand) := by
  unfold serveAtomic
  repeat' first
    | with_reducible assumption | intro _ | with_reducible apply kept_sendNak | with_reducible apply kept_passRequest
    | with_reducible apply kept_writePhys | with_reducible apply kept_emit | with_reducible apply kept_modQp
    | (extract_lets +onlyGivenNames x;
        refine (fun (_ : Kept z0 x) => ?_) ?_; (on_goal 1 => rename' x => y); (on_goal 2 => unfold x; clear x))
    | (extract_lets +onlyGivenNames x; rename' x => y) | split | fail_if_no_progress with_reducible apply kept_upd
    | dsimp +zetaDelta only

theorem kept_repeatAtomic {z0 : State} {s : State} {q : Nat} {k : RcPacket} (k0 : Kept z0 s) :
    Kept z0 (repeatAtomic s q k) := by
  unfold repeatAtomic
  repeat' first
    | with_reducible assumption | intro _ | with_reducible apply kept_emit | split
    | fail_if_no_progress with_reducible apply kept_upd

theorem kept_execFetchAdd {k : RcPacket} {addend : W64} {s : State} {t0 : State} (e : execFetchAdd k addend s = .next t0) :
    Kept s t0 := by
  obtain ⟨-, rfl⟩ := (onUnit_next _ _ _).1 e
  repeat' first
    | with_reducible assumption | with_reducible exact Kept.rfl | intro _ | with_reducible apply kept_takeRequest
    | with_reducible apply kept_serveAtomic | with_reducible apply kept_repeatAtomic | split
    | fail_if_no_progress with_reducible apply kept_upd

theorem kept_execCmpSwap {k : RcPacket} {cmp swap : W64} {s : State} {t0 : State} (e : execCmpSwap k cmp swap s = .next t0) :
    Kept s t0 := by
  obtain ⟨-, rfl⟩ := (onUnit_next _ _ _).1 e
  repeat' first
    | with_reducible assumption | with_reducible exact Kept.rfl | intro _ | with_reducible apply kept_takeRequest
    | with_reducible apply kept_serveAtomic | with_reducible apply kept_repeatAtomic | split
    | fail_if_no_progress with_reducible apply kept_upd

theorem kept_execUnsupportedOperation {k : RcPacket} {s : State} {t0 : State} (e : execUnsupportedOperation k s = .next t0) :
    Kept s t0 := by
  obtain ⟨-, rfl⟩ := (onUnit_next _ _ _).1 e
  repeat' first
    | with_reducible assumption | with_reducible exact Kept.rfl | intro _ | with_reducible apply kept_sendNak
    | with_reducible apply kept_takeRequest
    | (extract_lets +onlyGivenNames x;
        refine (fun (_ : Kept s x) => ?_) ?_; (on_goal 1 => rename' x => y); (on_goal 2 => unfold x; clear x))
    | (extract_lets +onlyGivenNames x; rename' x => y) | split | fail_if_no_progress with_reducible apply kept_upd
    | dsimp +zetaDelta only

theorem kept_qpEvent {z0 : State} {s : State} {q state code : Nat} (k0 : Kept z0 s) :
    Kept z0 (qpEvent s q state code) := by
  unfold qpEvent
  repeat' first
    | with_reducible assumption | intro _ | with_reducible apply kept_postEvent | split
    | fail_if_no_progress with_reducible apply kept_upd

theorem kept_ackWrites {z0 s : State} {q psn c : Nat} (k0 : Kept z0 s) : Kept z0 (ackWrites q psn c s) := by
  induction c generalizing s with
  | zero => exact k0
  | succ c ih =>
    simp only [ackWrites]
    split
    · split
      · exact ih (kept_completeRequest (kept_setQp k0))
      · exact k0
    · exact k0

theorem kept_ackBefore {z0 : State} {s : State} {q psn : Nat} (k0 : Kept z0 s) :
    Kept z0 (ackBefore s q psn) := by
  unfold ackBefore
  repeat' first
    | with_reducible assumption | intro _ | with_reducible apply kept_ackWrites | split
    | fail_if_no_progress with_reducible apply kept_upd

theorem kept_completeFront {z0 : State} {s : State} {q psn : Nat} {is : Nat → Bool} {d : List Byte} (k0 : Kept z0 s) :
    Kept z0 (completeFront s q psn is d) := by
  unfold completeFront
  repeat' first
    | with_reducible assumption | intro _ | with_reducible apply kept_completeRequest | with_reducible apply kept_setQp
    | (extract_lets +onlyGivenNames x;
        refine (fun (_ : Kept z0 x) => ?_) ?_; (on_goal 1 => rename' x => y); (on_goal 2 => unfold x; clear x))
    | (extract_lets +onlyGivenNames x; rename' x => y) | split | fail_if_no_progress with_reducible apply kept_upd
    | dsimp +zetaDelta only

theorem kept_execRdmaReadResponse {q psn : Nat} {data : List Byte} {s : State} {t0 : State} (e : execRdmaReadResponse q psn
    data s = .next t0) : Kept s t0 := by
  obtain ⟨-, rfl⟩ := (onUnit_next _ _ _).1 e
  repeat' first
    | with_reducible assumption | with_reducible exact Kept.rfl | intro _ | with_reducible apply kept_pumpQp
    | with_reducible apply kept_completeFront | with_reducible apply kept_ackBefore | split
    | fail_if_no_progress with_reducible apply kept_upd

theorem kept_execAcknowledge {q psn : Nat} {value : W64} {s : State} {t0 : State} (e : execAcknowledge q psn value s = .next
    t0) : Kept s t0 := by
  obtain ⟨-, rfl⟩ := (onUnit_next _ _ _).1 e
  repeat' first
    | with_reducible assumption | with_reducible exact Kept.rfl | intro _ | with_reducible apply kept_pumpQp
    | with_reducible apply kept_completeFront | with_reducible apply kept_ackBefore | split
    | fail_if_no_progress with_reducible apply kept_upd

theorem kept_qpError {z0 : State} {s : State} {q status : Nat} (k0 : Kept z0 s) :
    Kept z0 (qpError s q status) := by
  unfold qpError
  repeat' first
    | with_reducible assumption | intro _ | with_reducible apply kept_modQp | with_reducible apply kept_failRequest
    | with_reducible apply kept_qpEvent | with_reducible apply kept_foldl
    | (extract_lets +onlyGivenNames x;
        refine (fun (_ : Kept z0 x) => ?_) ?_; (on_goal 1 => rename' x => y); (on_goal 2 => unfold x; clear x))
    | (extract_lets +onlyGivenNames x; rename' x => y) | split | fail_if_no_progress with_reducible apply kept_upd
    | dsimp +zetaDelta only

theorem kept_retryQp {z0 : State} {s : State} {q : Nat} (k0 : Kept z0 s) :
    Kept z0 (retryQp s q) := by
  unfold retryQp
  repeat' first
    | with_reducible assumption | intro _ | with_reducible apply kept_qpError | with_reducible apply kept_pumpQp
    | with_reducible apply kept_setQp
    | (extract_lets +onlyGivenNames x;
        refine (fun (_ : Kept z0 x) => ?_) ?_; (on_goal 1 => rename' x => y); (on_goal 2 => unfold x; clear x))
    | (extract_lets +onlyGivenNames x; rename' x => y)
    | with_reducible refine kept_map ‹Option.map _ _ = some _› (fun _ _ => ?_) | split
    | fail_if_no_progress with_reducible apply kept_upd | dsimp +zetaDelta only

theorem kept_execNak {q psn syndrome : Nat} {s : State} {t0 : State} (e : execNak q psn syndrome s = .next t0) : Kept s t0 := by
  obtain ⟨-, rfl⟩ := (onUnit_next _ _ _).1 e
  repeat' first
    | with_reducible assumption | with_reducible exact Kept.rfl | intro _ | with_reducible apply kept_ackBefore
    | with_reducible apply kept_retryQp | with_reducible apply kept_pumpQp | with_reducible apply kept_failRequest
    | (extract_lets +onlyGivenNames x;
        refine (fun (_ : Kept s x) => ?_) ?_; (on_goal 1 => rename' x => y); (on_goal 2 => unfold x; clear x))
    | (extract_lets +onlyGivenNames x; rename' x => y) | split | fail_if_no_progress with_reducible apply kept_upd
    | dsimp +zetaDelta only

theorem kept_execRnrNak {q psn _timer : Nat} {s : State} {t0 : State} (e : execRnrNak q psn _timer s = .next t0) : Kept s t0
    := by
  obtain ⟨-, rfl⟩ := (onUnit_next _ _ _).1 e
  repeat' first
    | with_reducible assumption | with_reducible exact Kept.rfl | intro _ | with_reducible apply kept_ackBefore
    | with_reducible apply kept_modQp
    | (extract_lets +onlyGivenNames x;
        refine (fun (_ : Kept s x) => ?_) ?_; (on_goal 1 => rename' x => y); (on_goal 2 => unfold x; clear x))
    | (extract_lets +onlyGivenNames x; rename' x => y)
    | with_reducible refine kept_map ‹Option.map _ _ = some _› (fun _ _ => ?_) | split
    | fail_if_no_progress with_reducible apply kept_upd | dsimp +zetaDelta only

theorem kept_execRnrTimerExpiry {q : Nat} {s : State} {t0 : State} (e : execRnrTimerExpiry q s = .next t0) : Kept s t0 := by
  obtain ⟨-, rfl⟩ := (onUnit_next _ _ _).1 e
  repeat' first
    | with_reducible assumption | with_reducible exact Kept.rfl | intro _ | with_reducible apply kept_pumpQp
    | with_reducible apply kept_modQp | split | fail_if_no_progress with_reducible apply kept_upd

theorem kept_execAckTimeout {q : Nat} {s : State} {t0 : State} (e : execAckTimeout q s = .next t0) : Kept s t0 := by
  obtain ⟨-, rfl⟩ := (onUnit_next _ _ _).1 e
  repeat' first
    | with_reducible assumption | with_reducible exact Kept.rfl | intro _ | with_reducible apply kept_retryQp
    | (extract_lets +onlyGivenNames x;
        refine (fun (_ : Kept s x) => ?_) ?_; (on_goal 1 => rename' x => y); (on_goal 2 => unfold x; clear x))
    | (extract_lets +onlyGivenNames x; rename' x => y) | split | fail_if_no_progress with_reducible apply kept_upd
    | dsimp +zetaDelta only

theorem kept_execCnp {q : Nat} {s : State} {t0 : State} (e : execCnp q s = .next t0) : Kept s t0 := by
  obtain ⟨-, rfl⟩ := (onUnit_next _ _ _).1 e
  repeat' first
    | with_reducible assumption | with_reducible exact Kept.rfl | intro _ | with_reducible apply kept_setQp
    | (extract_lets +onlyGivenNames x;
        refine (fun (_ : Kept s x) => ?_) ?_; (on_goal 1 => rename' x => y); (on_goal 2 => unfold x; clear x))
    | (extract_lets +onlyGivenNames x; rename' x => y) | split | fail_if_no_progress with_reducible apply kept_upd
    | refine kept_upd_all ?_ (hm := ?_) | exact id | dsimp +zetaDelta only

theorem kept_execCnpRateIncrease {q : Nat} {s : State} {t0 : State} (e : execCnpRateIncrease q s = .next t0) : Kept s t0 := by
  obtain ⟨-, rfl⟩ := (onUnit_next _ _ _).1 e
  repeat' first
    | with_reducible assumption | with_reducible exact Kept.rfl | intro _ | with_reducible apply kept_setQp
    | (extract_lets +onlyGivenNames x;
        refine (fun (_ : Kept s x) => ?_) ?_; (on_goal 1 => rename' x => y); (on_goal 2 => unfold x; clear x))
    | (extract_lets +onlyGivenNames x; rename' x => y) | split | fail_if_no_progress with_reducible apply kept_upd
    | dsimp +zetaDelta only

theorem kept_execPfcFrame {n h : Nat} {pause resume : Byte} {s : State} {t0 : State} (e : execPfcFrame n h pause resume s =
    .next t0) : Kept s t0 := by
  obtain ⟨-, rfl⟩ := (onUnit_next _ _ _).1 e
  repeat' first
    | with_reducible assumption | with_reducible exact Kept.rfl | intro _ | with_reducible apply kept_modPort
    | with_reducible apply kept_pumpQp | with_reducible apply kept_foldl
    | (extract_lets +onlyGivenNames x;
        refine (fun (_ : Kept s x) => ?_) ?_; (on_goal 1 => rename' x => y); (on_goal 2 => unfold x; clear x))
    | (extract_lets +onlyGivenNames x; rename' x => y) | split | fail_if_no_progress with_reducible apply kept_upd
    | dsimp +zetaDelta only

theorem kept_takeMad {z0 : State} {s : State} {n : Nat} {f : State → State} (k_f : ∀ x0, Kept z0 x0 → Kept z0 (f x0)) (k0 :
    Kept z0 s) :
    Kept z0 (takeMad s n f) := by
  unfold takeMad
  repeat' first
    | with_reducible assumption | intro _ | with_reducible apply kept_setPort | with_reducible apply k_f
    | (extract_lets +onlyGivenNames x;
        refine (fun (_ : Kept z0 x) => ?_) ?_; (on_goal 1 => rename' x => y); (on_goal 2 => unfold x; clear x))
    | (extract_lets +onlyGivenNames x; rename' x => y) | split | fail_if_no_progress with_reducible apply kept_upd
    | dsimp +zetaDelta only

theorem kept_freshQp {z0 : State} {s : State} {st : QpState} {n h : Nat} {w : Option Nat} (k0 : Kept z0 s) :
    Kept z0 (freshQp s st n h w).2 := by
  unfold freshQp
  repeat' first
    | with_reducible assumption | intro _ | with_reducible apply kept_freeVal
    | with_reducible refine kept_of_fst ‹_ = (_, _)› ?_ | with_reducible refine kept_of_snd ‹_ = (_, _)› ?_ | split
    | fail_if_no_progress with_reducible apply kept_upd | dsimp +zetaDelta only

theorem kept_execReq {m : CmReq} {s : State} {t0 : State} (e : execReq m s = .next t0) : Kept s t0 := by
  obtain ⟨-, rfl⟩ := (onUnit_next _ _ _).1 e
  repeat' first
    | with_reducible assumption | with_reducible exact Kept.rfl | intro _ | with_reducible apply kept_dropFrame
    | with_reducible apply kept_takeMad | with_reducible apply kept_emit | with_reducible apply kept_freshQp
    | with_reducible apply kept_setQp | with_reducible refine kept_of_fst ‹_ = (_, _)› ?_
    | with_reducible refine kept_of_snd ‹_ = (_, _)› ?_
    | (extract_lets +onlyGivenNames x;
        refine (fun (_ : Kept s x) => ?_) ?_; (on_goal 1 => rename' x => y); (on_goal 2 => unfold x; clear x))
    | (extract_lets +onlyGivenNames x; rename' x => y) | split | fail_if_no_progress with_reducible apply kept_upd
    | dsimp +zetaDelta only

theorem kept_cmFor {z0 : State} {s : State} {q : Nat} {is : QpState → Bool} {f : State → State} (k_f : ∀ x0, Kept z0 x0 → Kept
    z0 (f x0)) (k0 : Kept z0 s) :
    Kept z0 (cmFor s q is f) := by
  unfold cmFor
  repeat' first
    | with_reducible assumption | intro _ | with_reducible apply kept_takeMad | with_reducible apply k_f
    | (extract_lets +onlyGivenNames x;
        refine (fun (_ : Kept z0 x) => ?_) ?_; (on_goal 1 => rename' x => y); (on_goal 2 => unfold x; clear x))
    | (extract_lets +onlyGivenNames x; rename' x => y) | split | fail_if_no_progress with_reducible apply kept_upd
    | dsimp +zetaDelta only

theorem kept_execRep {q peerQpn peerPsn mtu depth : Nat} {s : State} {t0 : State} (e : execRep q peerQpn peerPsn mtu depth s =
    .next t0) : Kept s t0 := by
  obtain ⟨-, rfl⟩ := (onUnit_next _ _ _).1 e
  repeat' first
    | with_reducible assumption | with_reducible exact Kept.rfl | intro _ | with_reducible apply kept_cmFor
    | with_reducible apply kept_modQp | with_reducible apply kept_qpEvent | with_reducible apply kept_emit
    | (extract_lets +onlyGivenNames x;
        refine (fun (_ : Kept s x) => ?_) ?_; (on_goal 1 => rename' x => y); (on_goal 2 => unfold x; clear x))
    | (extract_lets +onlyGivenNames x; rename' x => y) | split | fail_if_no_progress with_reducible apply kept_upd
    | dsimp +zetaDelta only

theorem kept_ringReady {z0 : State} {s : State} {q : Nat} (k0 : Kept z0 s) :
    Kept z0 (ringReady s q) := by
  unfold ringReady
  repeat' first
    | with_reducible assumption | intro _ | with_reducible apply kept_releaseEvents | split
    | fail_if_no_progress with_reducible apply kept_upd

theorem kept_execRtu {q : Nat} {s : State} {t0 : State} (e : execRtu q s = .next t0) : Kept s t0 := by
  obtain ⟨-, rfl⟩ := (onUnit_next _ _ _).1 e
  repeat' first
    | with_reducible assumption | with_reducible exact Kept.rfl | intro _ | with_reducible apply kept_cmFor
    | with_reducible apply kept_qpEvent | with_reducible apply kept_ringReady | with_reducible apply kept_modQp | split
    | fail_if_no_progress with_reducible apply kept_upd

theorem kept_execRej {q _reason : Nat} {s : State} {t0 : State} (e : execRej q _reason s = .next t0) : Kept s t0 := by
  obtain ⟨-, rfl⟩ := (onUnit_next _ _ _).1 e
  repeat' first
    | with_reducible assumption | with_reducible exact Kept.rfl | intro _ | with_reducible apply kept_cmFor
    | with_reducible apply kept_modQp | split | fail_if_no_progress with_reducible apply kept_upd

theorem kept_execDreq {q : Nat} {s : State} {t0 : State} (e : execDreq q s = .next t0) : Kept s t0 := by
  obtain ⟨-, rfl⟩ := (onUnit_next _ _ _).1 e
  repeat' first
    | with_reducible assumption | with_reducible exact Kept.rfl | intro _ | with_reducible apply kept_cmFor
    | with_reducible apply kept_emit | with_reducible apply kept_qpError
    | (extract_lets +onlyGivenNames x;
        refine (fun (_ : Kept s x) => ?_) ?_; (on_goal 1 => rename' x => y); (on_goal 2 => unfold x; clear x))
    | (extract_lets +onlyGivenNames x; rename' x => y) | split | fail_if_no_progress with_reducible apply kept_upd
    | dsimp +zetaDelta only

theorem kept_execDrep {q : Nat} {s : State} {t0 : State} (e : execDrep q s = .next t0) : Kept s t0 := by
  obtain ⟨-, rfl⟩ := (onUnit_next _ _ _).1 e
  repeat' first
    | with_reducible assumption | with_reducible exact Kept.rfl | intro _ | with_reducible apply kept_cmFor | split
    | fail_if_no_progress with_reducible apply kept_upd

theorem kept_execWindowReqRetry {win : Nat} {s : State} {t0 : State} (e : execWindowReqRetry win s = .next t0) : Kept s t0 := by
  obtain ⟨-, rfl⟩ := (onUnit_next _ _ _).1 e
  repeat' first
    | with_reducible assumption | with_reducible exact Kept.rfl | intro _ | with_reducible apply kept_freshQp
    | with_reducible apply kept_emit | with_reducible apply kept_setQp | with_reducible refine kept_of_fst ‹_ = (_, _)› ?_
    | with_reducible refine kept_of_snd ‹_ = (_, _)› ?_
    | (extract_lets +onlyGivenNames x;
        refine (fun (_ : Kept s x) => ?_) ?_; (on_goal 1 => rename' x => y); (on_goal 2 => unfold x; clear x))
    | (extract_lets +onlyGivenNames x; rename' x => y) | split | fail_if_no_progress with_reducible apply kept_upd
    | dsimp +zetaDelta only

theorem kept_execArp {n h vlan : Nat} {ip : W32} {s : State} {t0 : State} (e : execArp n h vlan ip s = .next t0) : Kept s t0
    := by
  obtain ⟨-, rfl⟩ := (onUnit_next _ _ _).1 e
  repeat' first
    | with_reducible assumption | with_reducible exact Kept.rfl | intro _ | with_reducible apply kept_emit
    | with_reducible apply kept_dropFrame | split | fail_if_no_progress with_reducible apply kept_upd

theorem kept_execNeighborDiscovery {n h vlan : Nat} {ip : BitVec 128} {s : State} {t0 : State} (e : execNeighborDiscovery n h
    vlan ip s = .next t0) : Kept s t0 := by
  obtain ⟨-, rfl⟩ := (onUnit_next _ _ _).1 e
  repeat' first
    | with_reducible assumption | with_reducible exact Kept.rfl | intro _ | with_reducible apply kept_emit
    | with_reducible apply kept_dropFrame | split | fail_if_no_progress with_reducible apply kept_upd

theorem kept_execUnmatchedFrame {n h : Nat} {s : State} {t0 : State} (e : execUnmatchedFrame n h s = .next t0) : Kept s t0 := by
  obtain ⟨-, rfl⟩ := (onUnit_next _ _ _).1 e
  repeat' first
    | with_reducible assumption | with_reducible exact Kept.rfl | intro _ | with_reducible apply kept_dropFrame | split
    | fail_if_no_progress with_reducible apply kept_upd

theorem kept_execFecUncorrectableFrame {n h : Nat} {s : State} {t0 : State} (e : execFecUncorrectableFrame n h s = .next t0) :
    Kept s t0 := by
  obtain ⟨-, rfl⟩ := (onUnit_next _ _ _).1 e
  repeat' first
    | with_reducible assumption | with_reducible exact Kept.rfl | intro _
    | (extract_lets +onlyGivenNames x;
        refine (fun (_ : Kept s x) => ?_) ?_; (on_goal 1 => rename' x => y); (on_goal 2 => unfold x; clear x))
    | (extract_lets +onlyGivenNames x; rename' x => y) | split | fail_if_no_progress with_reducible apply kept_upd
    | dsimp +zetaDelta only

theorem kept_sendStamp {z0 : State} {s : State} {m : PtpMsg} {name : String} (k0 : Kept z0 s) :
    Kept z0 (sendStamp s m name) := by
  unfold sendStamp
  repeat' first
    | with_reducible assumption | intro _ | with_reducible apply kept_emit | split
    | fail_if_no_progress with_reducible apply kept_upd

theorem kept_execDelayReq {m : PtpMsg} {s : State} {t0 : State} (e : execDelayReq m s = .next t0) : Kept s t0 := by
  obtain ⟨-, rfl⟩ := (onUnit_next _ _ _).1 e
  repeat' first
    | with_reducible assumption | with_reducible exact Kept.rfl | intro _ | with_reducible apply kept_sendStamp | split
    | fail_if_no_progress with_reducible apply kept_upd

theorem kept_execPdelayReq {m : PtpMsg} {s : State} {t0 : State} (e : execPdelayReq m s = .next t0) : Kept s t0 := by
  obtain ⟨-, rfl⟩ := (onUnit_next _ _ _).1 e
  repeat' first
    | with_reducible assumption | with_reducible exact Kept.rfl | intro _ | with_reducible apply kept_sendStamp | split
    | fail_if_no_progress with_reducible apply kept_upd

theorem kept_portChange {z0 : State} {s : State} {n h st : Nat} (k0 : Kept z0 s) :
    Kept z0 (portChange s n h st) := by
  unfold portChange
  repeat' first
    | with_reducible assumption | intro _ | with_reducible apply kept_modPort | with_reducible apply kept_postEvents
    | (extract_lets +onlyGivenNames x;
        refine (fun (_ : Kept z0 x) => ?_) ?_; (on_goal 1 => rename' x => y); (on_goal 2 => unfold x; clear x))
    | (extract_lets +onlyGivenNames x; rename' x => y)
    | with_reducible refine kept_map ‹Option.map _ _ = some _› (fun _ _ => ?_) | split
    | fail_if_no_progress with_reducible apply kept_upd | dsimp +zetaDelta only

theorem kept_execPortUp {n h : Nat} {full : Bool} {s : State} {t0 : State} (e : execPortUp n h full s = .next t0) : Kept s t0
    := by
  obtain ⟨-, rfl⟩ := (onUnit_next _ _ _).1 e
  repeat' first
    | with_reducible assumption | with_reducible exact Kept.rfl | intro _ | with_reducible apply kept_portChange
    | with_reducible apply kept_pumpQp | with_reducible apply kept_foldl
    | (extract_lets +onlyGivenNames x;
        refine (fun (_ : Kept s x) => ?_) ?_; (on_goal 1 => rename' x => y); (on_goal 2 => unfold x; clear x))
    | (extract_lets +onlyGivenNames x; rename' x => y) | split | fail_if_no_progress with_reducible apply kept_upd
    | dsimp +zetaDelta only

theorem kept_execPortDown {n h : Nat} {s : State} {t0 : State} (e : execPortDown n h s = .next t0) : Kept s t0 := by
  obtain ⟨-, rfl⟩ := (onUnit_next _ _ _).1 e
  repeat' first
    | with_reducible assumption | with_reducible exact Kept.rfl | intro _ | with_reducible apply kept_portChange | split
    | fail_if_no_progress with_reducible apply kept_upd

/-! ### Global -/

theorem kept_execLd {g : GRef} {w : W64} {s : State} {t0 : State} (e : execLd g w s = .next t0) : Kept s t0 := by
  obtain ⟨-, rfl⟩ := (onUnit_next _ _ _).1 e
  repeat' first
    | with_reducible assumption | with_reducible exact Kept.rfl | intro _ | with_reducible apply kept_issue
    | with_reducible apply kept_doLoads
    | (extract_lets +onlyGivenNames x;
        refine (fun (_ : Kept s x) => ?_) ?_; (on_goal 1 => rename' x => y); (on_goal 2 => unfold x; clear x))
    | (extract_lets +onlyGivenNames x; rename' x => y)
    | with_reducible refine kept_map ‹Option.map _ _ = some _› (fun _ _ => ?_) | split
    | fail_if_no_progress with_reducible apply kept_upd | dsimp +zetaDelta only

theorem kept_execSt {g : GRef} {w : W64} {s : State} {t0 : State} (e : execSt g w s = .next t0) : Kept s t0 := by
  obtain ⟨-, rfl⟩ := (onUnit_next _ _ _).1 e
  repeat' first
    | with_reducible assumption | with_reducible exact Kept.rfl | intro _ | with_reducible apply kept_issue
    | with_reducible apply kept_doStores
    | (extract_lets +onlyGivenNames x;
        refine (fun (_ : Kept s x) => ?_) ?_; (on_goal 1 => rename' x => y); (on_goal 2 => unfold x; clear x))
    | (extract_lets +onlyGivenNames x; rename' x => y)
    | with_reducible refine kept_map ‹Option.map _ _ = some _› (fun _ _ => ?_) | split
    | fail_if_no_progress with_reducible apply kept_upd | dsimp +zetaDelta only

theorem kept_bankUpdates {z0 : State} {s : State} {gid : Nat} {op size : Nat} {rd : Option Nat} {hs : List (Hit × CruRecord)}
    (k0 : Kept z0 s) :
    Kept z0 (bankUpdates s gid op size rd hs) := by
  unfold bankUpdates
  repeat' first
    | with_reducible assumption | intro _ | with_reducible apply kept_bankAtomic | with_reducible apply kept_modGroup
    | with_reducible apply kept_foldl | with_reducible refine kept_of_fst ‹_ = (_, _)› ?_
    | with_reducible refine kept_of_snd ‹_ = (_, _)› ?_
    | (extract_lets +onlyGivenNames x;
        refine (fun (_ : Kept z0 x) => ?_) ?_; (on_goal 1 => rename' x => y); (on_goal 2 => unfold x; clear x))
    | (extract_lets +onlyGivenNames x; rename' x => y) | split | fail_if_no_progress with_reducible apply kept_upd
    | dsimp +zetaDelta only

theorem kept_execAtom {g : GRef} {w : W64} {s : State} {t0 : State} (e : execAtom g w s = .next t0) : Kept s t0 := by
  obtain ⟨-, rfl⟩ := (onUnit_next _ _ _).1 e
  repeat' first
    | with_reducible assumption | with_reducible exact Kept.rfl | intro _ | with_reducible apply kept_issue
    | with_reducible apply kept_parkAt | with_reducible apply kept_notReady | with_reducible apply kept_cacheLeaves
    | with_reducible apply kept_retire | with_reducible apply kept_bankUpdates | with_reducible apply kept_sendPackets
    | (extract_lets +onlyGivenNames x;
        refine (fun (_ : Kept s x) => ?_) ?_; (on_goal 1 => rename' x => y); (on_goal 2 => unfold x; clear x))
    | (extract_lets +onlyGivenNames x; rename' x => y)
    | with_reducible refine kept_map ‹Option.map _ _ = some _› (fun _ _ => ?_) | split
    | fail_if_no_progress with_reducible apply kept_upd | dsimp +zetaDelta only

theorem kept_execRed {g : GRef} {w : W64} {s : State} {t0 : State} (e : execRed g w s = .next t0) : Kept s t0 := by
  obtain ⟨-, rfl⟩ := (onUnit_next _ _ _).1 e
  repeat' first
    | with_reducible assumption | with_reducible exact Kept.rfl | intro _ | with_reducible apply kept_issue
    | with_reducible apply kept_parkAt | with_reducible apply kept_notReady | with_reducible apply kept_cacheLeaves
    | with_reducible apply kept_retire | with_reducible apply kept_bankUpdates | with_reducible apply kept_sendPackets
    | (extract_lets +onlyGivenNames x;
        refine (fun (_ : Kept s x) => ?_) ?_; (on_goal 1 => rename' x => y); (on_goal 2 => unfold x; clear x))
    | (extract_lets +onlyGivenNames x; rename' x => y)
    | with_reducible refine kept_map ‹Option.map _ _ = some _› (fun _ _ => ?_) | split
    | fail_if_no_progress with_reducible apply kept_upd | dsimp +zetaDelta only

theorem kept_execCruClose {g : GRef} {w : W64} {s : State} {t0 : State} (e : execCruClose g w s = .next t0) : Kept s t0 := by
  obtain ⟨-, rfl⟩ := (onUnit_next _ _ _).1 e
  repeat' first
    | with_reducible assumption | with_reducible exact Kept.rfl | intro _ | with_reducible apply kept_issue
    | with_reducible apply kept_parkAt | with_reducible apply kept_cacheLeaves | with_reducible apply kept_retire
    | with_reducible apply kept_sendPackets
    | (extract_lets +onlyGivenNames x;
        refine (fun (_ : Kept s x) => ?_) ?_; (on_goal 1 => rename' x => y); (on_goal 2 => unfold x; clear x))
    | (extract_lets +onlyGivenNames x; rename' x => y) | with_reducible refine kept_getD (fun _ _ => ?_) ?_
    | with_reducible refine kept_map ‹Option.map _ _ = some _› (fun _ _ => ?_) | split
    | fail_if_no_progress with_reducible apply kept_upd | dsimp +zetaDelta only

theorem kept_execFenceRel {g : GRef} {w : W64} {s : State} {t0 : State} (e : execFenceRel g w s = .next t0) : Kept s t0 := by
  obtain ⟨-, rfl⟩ := (onUnit_next _ _ _).1 e
  repeat' first
    | with_reducible assumption | with_reducible exact Kept.rfl | intro _ | with_reducible apply kept_issue
    | with_reducible apply kept_startFence | with_reducible apply kept_retire
    | (extract_lets +onlyGivenNames x;
        refine (fun (_ : Kept s x) => ?_) ?_; (on_goal 1 => rename' x => y); (on_goal 2 => unfold x; clear x))
    | (extract_lets +onlyGivenNames x; rename' x => y) | split | fail_if_no_progress with_reducible apply kept_upd
    | dsimp +zetaDelta only

theorem kept_execFenceAcq {g : GRef} {w : W64} {s : State} {t0 : State} (e : execFenceAcq g w s = .next t0) : Kept s t0 := by
  obtain ⟨-, rfl⟩ := (onUnit_next _ _ _).1 e
  repeat' first
    | with_reducible assumption | with_reducible exact Kept.rfl | intro _ | with_reducible apply kept_issue
    | with_reducible apply kept_startFence | with_reducible apply kept_retire
    | (extract_lets +onlyGivenNames x;
        refine (fun (_ : Kept s x) => ?_) ?_; (on_goal 1 => rename' x => y); (on_goal 2 => unfold x; clear x))
    | (extract_lets +onlyGivenNames x; rename' x => y) | split | fail_if_no_progress with_reducible apply kept_upd
    | dsimp +zetaDelta only

theorem kept_execFenceComplete {g : GRef} {s : State} {t0 : State} (e : execFenceComplete g s = .next t0) : Kept s t0 := by
  obtain ⟨-, rfl⟩ := (onUnit_next _ _ _).1 e
  repeat' first
    | with_reducible assumption | with_reducible exact Kept.rfl | intro _ | with_reducible apply kept_completeFence | split
    | fail_if_no_progress with_reducible apply kept_upd

theorem kept_execEnq {g : GRef} {w : W64} {s t0 : State} (e : execEnq g w s = .next t0) : Kept s t0 := by
  obtain ⟨-, rfl⟩ := (onUnit_next _ _ _).1 e
  refine kept_issue (fun x p => ?_) Kept.rfl
  exact kept_emit (kept_upd_all (kept_retire Kept.rfl) (ht := Nat.le_succ _) (hm := id))

/-! ### Schedule -/

theorem kept_startLaunch {z0 : State} {s : State} {l : Launch} (k0 : Kept z0 s) :
    Kept z0 (startLaunch s l) := by
  unfold startLaunch
  repeat' first
    | with_reducible assumption | intro _ | with_reducible apply kept_accountShared | with_reducible apply kept_setCtx
    | with_reducible apply kept_modLaunch | with_reducible apply kept_agentWrite | with_reducible apply kept_dropCopies
    | with_reducible apply kept_markLaunches | with_reducible apply kept_foldl
    | (extract_lets +onlyGivenNames x;
        refine (fun (_ : Kept z0 x) => ?_) ?_; (on_goal 1 => rename' x => y); (on_goal 2 => unfold x; clear x))
    | (extract_lets +onlyGivenNames x; rename' x => y)
    | with_reducible refine kept_map ‹Option.map _ _ = some _› (fun _ _ => ?_) | split
    | fail_if_no_progress with_reducible apply kept_upd | dsimp +zetaDelta only

theorem kept_makeTask {z0 : State} {s : State} {l : Launch} {node : Nat} (k0 : Kept z0 s) :
    Kept z0 (makeTask s l node).1 := by
  unfold makeTask
  repeat' first
    | with_reducible assumption | intro _ | with_reducible apply kept_pinAll | with_reducible apply kept_modTask
    | with_reducible apply kept_loadRanges | with_reducible apply kept_fetchConsts
    | with_reducible refine kept_of_fst ‹_ = (_, _)› ?_ | with_reducible refine kept_of_snd ‹_ = (_, _)› ?_
    | (extract_lets +onlyGivenNames x;
        refine (fun (_ : Kept z0 x) => ?_) ?_; (on_goal 1 => rename' x => y); (on_goal 2 => unfold x; clear x))
    | (extract_lets +onlyGivenNames x; rename' x => y)
    | with_reducible refine kept_map ‹Option.map _ _ = some _› (fun _ _ => ?_) | split | refine kept_upd_all ?_ (hm := ?_)
    | with_reducible exact wf_nil | with_reducible exact memPutLine_wf _ _ _ ‹_› | with_reducible exact writeBytes_wf _ _ ‹_›
    | exact wf_filter _ ‹_› | exact foldl_writeByte_wf _ _ _ (wf_filter _ ‹_›) | exact id | dsimp +zetaDelta only

theorem kept_settlePins {z0 : State} {s : State} {t : Task} (k0 : Kept z0 s) :
    Kept z0 (settlePins s t).1 := by
  unfold settlePins
  repeat' first
    | with_reducible assumption | intro _ | with_reducible apply kept_pinAll | with_reducible apply kept_modTask
    | with_reducible apply kept_fetchPin | with_reducible apply kept_foldl | with_reducible refine kept_of_fst ‹_ = (_, _)› ?_
    | with_reducible refine kept_of_snd ‹_ = (_, _)› ?_
    | (extract_lets +onlyGivenNames x;
        refine (fun (_ : Kept z0 x) => ?_) ?_; (on_goal 1 => rename' x => y); (on_goal 2 => unfold x; clear x))
    | (extract_lets +onlyGivenNames x; rename' x => y) | with_reducible refine kept_getD (fun _ _ => ?_) ?_
    | with_reducible refine kept_map ‹Option.map _ _ = some _› (fun _ _ => ?_) | split
    | fail_if_no_progress with_reducible apply kept_upd | dsimp +zetaDelta only

theorem kept_execPreload {launch node : Nat} {s : State} {t0 : State} (e : execPreload launch node s = .next t0) : Kept s t0
    := by
  obtain ⟨-, rfl⟩ := (onUnit_next _ _ _).1 e
  repeat' first
    | with_reducible assumption | with_reducible exact Kept.rfl | intro _ | with_reducible apply kept_emit
    | with_reducible apply kept_makeTask | with_reducible refine kept_of_fst ‹_ = (_, _)› ?_
    | with_reducible refine kept_of_snd ‹_ = (_, _)› ?_
    | (extract_lets +onlyGivenNames x;
        refine (fun (_ : Kept s x) => ?_) ?_; (on_goal 1 => rename' x => y); (on_goal 2 => unfold x; clear x))
    | (extract_lets +onlyGivenNames x; rename' x => y) | split | fail_if_no_progress with_reducible apply kept_upd
    | dsimp +zetaDelta only

theorem kept_askPreempt {z0 : State} {s : State} {rank : Nat} {cls : List Nat} (k0 : Kept z0 s) :
    Kept z0 (askPreempt s rank cls) := by
  unfold askPreempt
  repeat' first
    | with_reducible assumption | intro _ | with_reducible apply kept_emit
    | with_reducible refine kept_map ‹Option.map _ _ = some _› (fun _ _ => ?_) | split
    | fail_if_no_progress with_reducible apply kept_upd

theorem kept_writeTable {z0 : State} {s : State} {l : Launch} {d : List Byte} {node : Nat} {plan : List (Nat × Nat)} (k0 :
    Kept z0 s) :
    Kept z0 (writeTable s l d node plan) := by
  unfold writeTable
  repeat' first
    | with_reducible assumption | intro _ | with_reducible apply kept_agentWrite
    | (extract_lets +onlyGivenNames x;
        refine (fun (_ : Kept z0 x) => ?_) ?_; (on_goal 1 => rename' x => y); (on_goal 2 => unfold x; clear x))
    | (extract_lets +onlyGivenNames x; rename' x => y) | with_reducible refine kept_getD (fun _ _ => ?_) ?_
    | with_reducible refine kept_map ‹Option.map _ _ = some _› (fun _ _ => ?_) | split
    | fail_if_no_progress with_reducible apply kept_upd | dsimp +zetaDelta only

theorem kept_runTask {z0 : State} {s : State} {l : Launch} {t : Task} {plan : List (Nat × Nat)} (k0 : Kept z0 s) :
    Kept z0 (runTask s l t plan) := by
  unfold runTask
  repeat' first
    | with_reducible assumption | intro _ | with_reducible apply kept_modTask | with_reducible apply kept_modLaunch
    | (extract_lets +onlyGivenNames x;
        refine (fun (_ : Kept z0 x) => ?_) ?_; (on_goal 1 => rename' x => y); (on_goal 2 => unfold x; clear x))
    | (extract_lets +onlyGivenNames x; rename' x => y) | split | fail_if_no_progress with_reducible apply kept_upd
    | dsimp +zetaDelta only

theorem kept_startNode {z0 : State} {s : State} {l : Launch} {node : Nat} (k0 : Kept z0 s) :
    Kept z0 (startNode s l node) := by
  unfold startNode
  repeat' first
    | with_reducible assumption | intro _ | with_reducible apply kept_settleLaunch | with_reducible apply kept_modLaunch
    | with_reducible apply kept_makeTask | with_reducible apply kept_settlePins | with_reducible apply kept_askPreempt
    | with_reducible apply kept_beginSlice | with_reducible apply kept_runTask | with_reducible apply kept_writeTable
    | with_reducible apply kept_emit | with_reducible apply kept_foldl | with_reducible refine kept_of_fst ‹_ = (_, _)› ?_
    | with_reducible refine kept_of_snd ‹_ = (_, _)› ?_
    | (extract_lets +onlyGivenNames x;
        refine (fun (_ : Kept z0 x) => ?_) ?_; (on_goal 1 => rename' x => y); (on_goal 2 => unfold x; clear x))
    | (extract_lets +onlyGivenNames x; rename' x => y) | split | fail_if_no_progress with_reducible apply kept_upd
    | dsimp +zetaDelta only

theorem kept_execNodeStart {launch node : Nat} {s : State} {t0 : State} (e : execNodeStart launch node s = .next t0) : Kept s
    t0 := by
  obtain ⟨-, rfl⟩ := (onUnit_next _ _ _).1 e
  repeat' first
    | with_reducible assumption | with_reducible exact Kept.rfl | intro _ | with_reducible apply kept_startLaunch
    | with_reducible apply kept_startNode
    | (extract_lets +onlyGivenNames x;
        refine (fun (_ : Kept s x) => ?_) ?_; (on_goal 1 => rename' x => y); (on_goal 2 => unfold x; clear x))
    | (extract_lets +onlyGivenNames x; rename' x => y) | with_reducible refine kept_getD (fun _ _ => ?_) ?_ | split
    | fail_if_no_progress with_reducible apply kept_upd | dsimp +zetaDelta only

theorem kept_execTeamStart {task cl team : Nat} {s : State} {t0 : State} (e : execTeamStart task cl team s = .next t0) : Kept
    s t0 := by
  obtain ⟨-, rfl⟩ := (onUnit_next _ _ _).1 e
  repeat' first
    | with_reducible assumption | with_reducible exact Kept.rfl | intro _ | with_reducible apply kept_askPreempt
    | with_reducible apply kept_placeTeam | with_reducible apply kept_releaseGang | with_reducible apply kept_modTask
    | (extract_lets +onlyGivenNames x;
        refine (fun (_ : Kept s x) => ?_) ?_; (on_goal 1 => rename' x => y); (on_goal 2 => unfold x; clear x))
    | (extract_lets +onlyGivenNames x; rename' x => y)
    | with_reducible refine kept_map ‹Option.map _ _ = some _› (fun _ _ => ?_) | split
    | fail_if_no_progress with_reducible apply kept_upd | dsimp +zetaDelta only

theorem kept_execTeamDone {task team : Nat} {s : State} {t0 : State} (e : execTeamDone task team s = .next t0) : Kept s t0 := by
  obtain ⟨-, rfl⟩ := (onUnit_next _ _ _).1 e
  repeat' first
    | with_reducible assumption | with_reducible exact Kept.rfl | intro _ | with_reducible apply kept_setGroup
    | with_reducible apply kept_returnL | with_reducible apply kept_modCluster | with_reducible apply kept_modTask
    | with_reducible apply kept_closeTask | with_reducible apply kept_foldl
    | (extract_lets +onlyGivenNames x;
        refine (fun (_ : Kept s x) => ?_) ?_; (on_goal 1 => rename' x => y); (on_goal 2 => unfold x; clear x))
    | (extract_lets +onlyGivenNames x; rename' x => y) | with_reducible refine kept_getD (fun _ _ => ?_) ?_
    | with_reducible refine kept_map ‹Option.map _ _ = some _› (fun _ _ => ?_) | split
    | fail_if_no_progress with_reducible apply kept_upd | dsimp +zetaDelta only

theorem kept_endSync {z0 : State} {s : State} {l : Launch} {t : Task} (k0 : Kept z0 s) :
    Kept z0 (endSync s l t) := by
  unfold endSync
  repeat' first
    | with_reducible assumption | intro _ | with_reducible apply kept_taskDone | with_reducible apply kept_modLaunch | split
    | fail_if_no_progress with_reducible apply kept_upd

theorem kept_pollRemote {z0 : State} {s : State} {l : Launch} {t : Task} {n : List Byte} (k0 : Kept z0 s) :
    Kept z0 (pollRemote s l t n) := by
  unfold pollRemote
  repeat' first
    | with_reducible assumption | intro _ | with_reducible apply kept_taskDone | with_reducible apply kept_flushWindows
    | with_reducible apply kept_endSync | with_reducible apply kept_engineWrite | with_reducible apply kept_modTask
    | with_reducible apply kept_engineFetch
    | (extract_lets +onlyGivenNames x;
        refine (fun (_ : Kept z0 x) => ?_) ?_; (on_goal 1 => rename' x => y); (on_goal 2 => unfold x; clear x))
    | (extract_lets +onlyGivenNames x; rename' x => y) | split | fail_if_no_progress with_reducible apply kept_upd
    | dsimp +zetaDelta only

theorem kept_execHostSyncPoll {task : Nat} {s : State} {t0 : State} (e : execHostSyncPoll task s = .next t0) : Kept s t0 := by
  obtain ⟨-, rfl⟩ := (onUnit_next _ _ _).1 e
  repeat' first
    | with_reducible assumption | with_reducible exact Kept.rfl | intro _ | with_reducible apply kept_taskDone
    | with_reducible apply kept_failTask | with_reducible apply kept_pollRemote | with_reducible apply kept_endSync
    | with_reducible apply kept_writeAny | with_reducible apply kept_agentReads
    | (extract_lets +onlyGivenNames x;
        refine (fun (_ : Kept s x) => ?_) ?_; (on_goal 1 => rename' x => y); (on_goal 2 => unfold x; clear x))
    | (extract_lets +onlyGivenNames x; rename' x => y) | split | fail_if_no_progress with_reducible apply kept_upd
    | dsimp +zetaDelta only

theorem kept_execControlSegmentPoll {task : Nat} {aborted arrived : Bool} {s : State} {t0 : State} (e : execControlSegmentPoll
    task aborted arrived s = .next t0) : Kept s t0 := by
  obtain ⟨-, rfl⟩ := (onUnit_next _ _ _).1 e
  repeat' first
    | with_reducible assumption | with_reducible exact Kept.rfl | intro _ | with_reducible apply kept_failTask
    | with_reducible apply kept_emit
    | (extract_lets +onlyGivenNames x;
        refine (fun (_ : Kept s x) => ?_) ?_; (on_goal 1 => rename' x => y); (on_goal 2 => unfold x; clear x))
    | (extract_lets +onlyGivenNames x; rename' x => y) | with_reducible refine kept_getD (fun _ _ => ?_) ?_
    | with_reducible refine kept_map ‹Option.map _ _ = some _› (fun _ _ => ?_) | split
    | fail_if_no_progress with_reducible apply kept_upd | dsimp +zetaDelta only

theorem kept_execBudgetOverrun {launch : Nat} {s : State} {t0 : State} (e : execBudgetOverrun launch s = .next t0) : Kept s t0
    := by
  obtain ⟨-, rfl⟩ := (onUnit_next _ _ _).1 e
  repeat' first
    | with_reducible assumption | with_reducible exact Kept.rfl | intro _ | with_reducible apply kept_modLaunch
    | with_reducible apply kept_postEvent
    | (extract_lets +onlyGivenNames x;
        refine (fun (_ : Kept s x) => ?_) ?_; (on_goal 1 => rename' x => y); (on_goal 2 => unfold x; clear x))
    | (extract_lets +onlyGivenNames x; rename' x => y) | split | fail_if_no_progress with_reducible apply kept_upd
    | dsimp +zetaDelta only

theorem kept_execAdmissionPass {s : State} {t0 : State} (e : execAdmissionPass s = .next t0) : Kept s t0 := by
  obtain ⟨-, rfl⟩ := (onUnit_next _ _ _).1 e
  repeat' first
    | with_reducible assumption | with_reducible exact Kept.rfl | intro _ | with_reducible apply kept_runPass | split
    | fail_if_no_progress with_reducible apply kept_upd

theorem kept_endSlice {z0 : State} {s : State} {p ctx : Nat} {ws : List Task} (k0 : Kept z0 s) :
    Kept z0 (endSlice s p ctx ws) := by
  unfold endSlice
  repeat' first
    | with_reducible assumption | intro _ | with_reducible apply kept_modPart | with_reducible apply kept_emits
    | (extract_lets +onlyGivenNames x;
        refine (fun (_ : Kept z0 x) => ?_) ?_; (on_goal 1 => rename' x => y); (on_goal 2 => unfold x; clear x))
    | (extract_lets +onlyGivenNames x; rename' x => y) | with_reducible refine kept_getD (fun _ _ => ?_) ?_
    | with_reducible refine kept_map ‹Option.map _ _ = some _› (fun _ _ => ?_) | split
    | fail_if_no_progress with_reducible apply kept_upd | dsimp +zetaDelta only

theorem kept_execTimeSliceEnd {p ctx : Nat} {s : State} {t0 : State} (e : execTimeSliceEnd p ctx s = .next t0) : Kept s t0 := by
  obtain ⟨-, rfl⟩ := (onUnit_next _ _ _).1 e
  repeat' first
    | with_reducible assumption | with_reducible exact Kept.rfl | intro _ | with_reducible apply kept_modPart
    | with_reducible apply kept_endSlice
    | (extract_lets +onlyGivenNames x;
        refine (fun (_ : Kept s x) => ?_) ?_; (on_goal 1 => rename' x => y); (on_goal 2 => unfold x; clear x))
    | (extract_lets +onlyGivenNames x; rename' x => y) | with_reducible refine kept_getD (fun _ _ => ?_) ?_
    | with_reducible refine kept_map ‹Option.map _ _ = some _› (fun _ _ => ?_) | split
    | fail_if_no_progress with_reducible apply kept_upd | dsimp +zetaDelta only

theorem kept_ackFront {z0 : State} {s : State} {task cl : Nat} (k0 : Kept z0 s) :
    Kept z0 (ackFront s task cl) := by
  unfold ackFront
  repeat' first
    | with_reducible assumption | intro _ | with_reducible apply kept_emit | split
    | fail_if_no_progress with_reducible apply kept_upd

theorem kept_holdGang {z0 : State} {s : State} {tag : Nat} (k0 : Kept z0 s) :
    Kept z0 (holdGang s tag) := by
  unfold holdGang
  repeat' first
    | with_reducible assumption | intro _ | with_reducible apply kept_modGroup | with_reducible apply kept_foldl | split
    | fail_if_no_progress with_reducible apply kept_upd

theorem kept_preemptCluster {z0 : State} {s : State} {t : Task} {cl : Nat} (k0 : Kept z0 s) :
    Kept z0 (preemptCluster s t cl) := by
  unfold preemptCluster
  repeat' first
    | with_reducible assumption | intro _ | with_reducible apply kept_preemptOn | with_reducible apply kept_holdGang
    | with_reducible apply kept_ackFront | with_reducible apply kept_modTask | with_reducible apply kept_emits
    | (extract_lets +onlyGivenNames x;
        refine (fun (_ : Kept z0 x) => ?_) ?_; (on_goal 1 => rename' x => y); (on_goal 2 => unfold x; clear x))
    | (extract_lets +onlyGivenNames x; rename' x => y)
    | with_reducible refine kept_map ‹Option.map _ _ = some _› (fun _ _ => ?_) | split
    | fail_if_no_progress with_reducible apply kept_upd | dsimp +zetaDelta only

theorem kept_execPreempt {task cl : Nat} {s : State} {t0 : State} (e : execPreempt task cl s = .next t0) : Kept s t0 := by
  obtain ⟨-, rfl⟩ := (onUnit_next _ _ _).1 e
  repeat' first
    | with_reducible assumption | with_reducible exact Kept.rfl | intro _ | with_reducible apply kept_preemptCluster | split
    | fail_if_no_progress with_reducible apply kept_upd

theorem kept_execResume {task cl slot : Nat} {s : State} {t0 : State} (e : execResume task cl slot s = .next t0) : Kept s t0
    := by
  obtain ⟨-, rfl⟩ := (onUnit_next _ _ _).1 e
  repeat' first
    | with_reducible assumption | with_reducible exact Kept.rfl | intro _ | with_reducible apply kept_changeL
    | with_reducible refine kept_restoreAll ?_ ‹_ = some _› | with_reducible apply kept_invalidateRo
    | with_reducible apply kept_askPreempt | with_reducible apply kept_modCluster | with_reducible apply kept_modTask
    | with_reducible apply kept_releaseGang | with_reducible apply kept_ackFront | with_reducible apply kept_beginSlice
    | (extract_lets +onlyGivenNames x;
        refine (fun (_ : Kept s x) => ?_) ?_; (on_goal 1 => rename' x => y); (on_goal 2 => unfold x; clear x))
    | (extract_lets +onlyGivenNames x; rename' x => y)
    | with_reducible refine kept_map ‹Option.map _ _ = some _› (fun _ _ => ?_) | split
    | fail_if_no_progress with_reducible apply kept_upd | dsimp +zetaDelta only

theorem kept_execDiscard {task cl : Nat} {s : State} {t0 : State} (e : execDiscard task cl s = .next t0) : Kept s t0 := by
  obtain ⟨-, rfl⟩ := (onUnit_next _ _ _).1 e
  repeat' first
    | with_reducible assumption | with_reducible exact Kept.rfl | intro _ | with_reducible apply kept_dropTeams
    | with_reducible apply kept_ackFront
    | (extract_lets +onlyGivenNames x;
        refine (fun (_ : Kept s x) => ?_) ?_; (on_goal 1 => rename' x => y); (on_goal 2 => unfold x; clear x))
    | (extract_lets +onlyGivenNames x; rename' x => y)
    | with_reducible refine kept_map ‹Option.map _ _ = some _› (fun _ _ => ?_) | split
    | fail_if_no_progress with_reducible apply kept_upd | dsimp +zetaDelta only

theorem kept_execPtPurge {p sid : Nat} {s : State} {t0 : State} (e : execPtPurge p sid s = .next t0) : Kept s t0 := by
  obtain ⟨-, rfl⟩ := (onUnit_next _ _ _).1 e
  repeat' first
    | with_reducible assumption | with_reducible exact Kept.rfl | intro _ | with_reducible apply kept_purgeSlice
    | with_reducible apply kept_ackFront | with_reducible apply kept_purgeCluster
    | (extract_lets +onlyGivenNames x;
        refine (fun (_ : Kept s x) => ?_) ?_; (on_goal 1 => rename' x => y); (on_goal 2 => unfold x; clear x))
    | (extract_lets +onlyGivenNames x; rename' x => y) | split | fail_if_no_progress with_reducible apply kept_upd
    | dsimp +zetaDelta only

end Sys2Proof.Machine
end

