-- ==== Sys2Proof/Laws/KeptModule.lean ====
section
/-! SUPPORT. `Kept` for the operations and meanings of the supply, the lifecycle, upkeep, packets, transfers and the vector pipes. -/

namespace Sys2Proof.Machine

set_option linter.unusedVariables false
set_option linter.tactic.unusedName false
set_option linter.unusedTactic false
set_option linter.unreachableTactic false

/-! ### Packets -/

theorem kept_waitSpilled {z0 : State} {s : State} {sid : Nat} {k : CruPacket} (k0 : Kept z0 s) :
    Kept z0 (waitSpilled s sid k) := by
  unfold waitSpilled
  repeat' first
    | with_reducible assumption | intro _ | with_reducible apply kept_modCrusher
    | (extract_lets +onlyGivenNames x;
        refine (fun (_ : Kept z0 x) => ?_) ?_; (on_goal 1 => rename' x => y); (on_goal 2 => unfold x; clear x))
    | (extract_lets +onlyGivenNames x; rename' x => y) | split | fail_if_no_progress with_reducible apply kept_upd
    | dsimp +zetaDelta only

theorem kept_admitUpdate {z0 : State} {s : State} {sid : Nat} {k : CruPacket} (k0 : Kept z0 s) :
    Kept z0 (admitUpdate s sid k) := by
  unfold admitUpdate
  repeat' first
    | with_reducible assumption | intro _ | with_reducible apply kept_waitSpilled | with_reducible apply kept_applyUpdate
    | with_reducible apply kept_homeArrive | split | fail_if_no_progress with_reducible apply kept_upd

theorem kept_addPacket {z0 : State} {s : State} {sid : Nat} {k : CruPacket} (k0 : Kept z0 s) :
    Kept z0 (addPacket s sid k) := by
  unfold addPacket
  repeat' first
    | with_reducible assumption | intro _ | with_reducible apply kept_windowUpdate | with_reducible apply kept_ackUpdate
    | with_reducible apply kept_admitUpdate | split | fail_if_no_progress with_reducible apply kept_upd

theorem kept_execLedgerRecords {sid : Nat} {k : CruPacket} {s : State} {t0 : State} (e : execLedgerRecords sid k s = .next t0)
    : Kept s t0 := by
  obtain ⟨-, rfl⟩ := (onUnit_next _ _ _).1 e
  repeat' first
    | with_reducible assumption | with_reducible exact Kept.rfl | intro _ | with_reducible apply kept_raiseFatal
    | with_reducible apply kept_addPacket | split | fail_if_no_progress with_reducible apply kept_upd

theorem kept_execPairRecords {sid : Nat} {k : CruPacket} {s : State} {t0 : State} (e : execPairRecords sid k s = .next t0) :
    Kept s t0 := by
  obtain ⟨-, rfl⟩ := (onUnit_next _ _ _).1 e
  repeat' first
    | with_reducible assumption | with_reducible exact Kept.rfl | intro _ | with_reducible apply kept_raiseFatal
    | with_reducible apply kept_addPacket | split | fail_if_no_progress with_reducible apply kept_upd

theorem kept_execRoundedUpdate {sid : Nat} {k : CruPacket} {s : State} {t0 : State} (e : execRoundedUpdate sid k s = .next t0)
    : Kept s t0 := by
  obtain ⟨-, rfl⟩ := (onUnit_next _ _ _).1 e
  repeat' first
    | with_reducible assumption | with_reducible exact Kept.rfl | intro _ | with_reducible apply kept_raiseFatal
    | with_reducible apply kept_windowUpdate | with_reducible apply kept_admitUpdate | split
    | fail_if_no_progress with_reducible apply kept_upd

theorem kept_execCloseLine {sid line tag : Nat} {s : State} {t0 : State} (e : execCloseLine sid line tag s = .next t0) : Kept
    s t0 := by
  obtain ⟨-, rfl⟩ := (onUnit_next _ _ _).1 e
  repeat' first
    | with_reducible assumption | with_reducible exact Kept.rfl | intro _ | with_reducible apply kept_emit
    | with_reducible apply kept_wake | with_reducible apply kept_admitUpdate | split
    | fail_if_no_progress with_reducible apply kept_upd

theorem kept_closedTask {z0 : State} {s : State} {sid tag : Nat} (k0 : Kept z0 s) :
    Kept z0 (closedTask s sid tag) := by
  unfold closedTask
  repeat' first
    | with_reducible assumption | intro _ | with_reducible apply kept_modCrusher | with_reducible apply kept_closeAcked
    | (extract_lets +onlyGivenNames x;
        refine (fun (_ : Kept z0 x) => ?_) ?_; (on_goal 1 => rename' x => y); (on_goal 2 => unfold x; clear x))
    | (extract_lets +onlyGivenNames x; rename' x => y) | split | fail_if_no_progress with_reducible apply kept_upd
    | dsimp +zetaDelta only

theorem kept_closeLines {z0 : State} {s : State} {sid tag : Nat} (k0 : Kept z0 s) :
    Kept z0 (closeLines s sid tag) := by
  unfold closeLines
  repeat' first
    | with_reducible assumption | intro _ | with_reducible apply kept_closeOpen | with_reducible apply kept_closedTask
    | with_reducible apply kept_foldl
    | (extract_lets +onlyGivenNames x;
        refine (fun (_ : Kept z0 x) => ?_) ?_; (on_goal 1 => rename' x => y); (on_goal 2 => unfold x; clear x))
    | (extract_lets +onlyGivenNames x; rename' x => y) | split | fail_if_no_progress with_reducible apply kept_upd
    | dsimp +zetaDelta only

theorem kept_execCloseTask {sid tag : Nat} {s : State} {t0 : State} (e : execCloseTask sid tag s = .next t0) : Kept s t0 := by
  obtain ⟨-, rfl⟩ := (onUnit_next _ _ _).1 e
  repeat' first
    | with_reducible assumption | with_reducible exact Kept.rfl | intro _ | with_reducible apply kept_arrive
    | with_reducible apply kept_wake | with_reducible apply kept_closeLines | with_reducible apply kept_modCrusher
    | (extract_lets +onlyGivenNames x;
        refine (fun (_ : Kept s x) => ?_) ?_; (on_goal 1 => rename' x => y); (on_goal 2 => unfold x; clear x))
    | (extract_lets +onlyGivenNames x; rename' x => y) | with_reducible refine kept_getD (fun _ _ => ?_) ?_
    | with_reducible refine kept_map ‹Option.map _ _ = some _› (fun _ _ => ?_) | split
    | fail_if_no_progress with_reducible apply kept_upd | dsimp +zetaDelta only

theorem kept_execCrusherAck {tag : Nat} {status : Byte} {s : State} {t0 : State} (e : execCrusherAck tag status s = .next t0)
    : Kept s t0 := by
  obtain ⟨-, rfl⟩ := (onUnit_next _ _ _).1 e
  repeat' first
    | with_reducible assumption | with_reducible exact Kept.rfl | intro _ | with_reducible apply kept_engineAnswer
    | with_reducible apply kept_dropAccess | with_reducible apply kept_failAccess | split
    | fail_if_no_progress with_reducible apply kept_upd

theorem kept_execLineBringBack {sid line : Nat} {s : State} {t0 : State} (e : execLineBringBack sid line s = .next t0) : Kept
    s t0 := by
  obtain ⟨-, rfl⟩ := (onUnit_next _ _ _).1 e
  repeat' first
    | with_reducible assumption | with_reducible exact Kept.rfl | intro _ | with_reducible apply kept_wake
    | with_reducible apply kept_backLine | with_reducible apply kept_closeLines | with_reducible apply kept_foldl
    | (extract_lets +onlyGivenNames x;
        refine (fun (_ : Kept s x) => ?_) ?_; (on_goal 1 => rename' x => y); (on_goal 2 => unfold x; clear x))
    | (extract_lets +onlyGivenNames x; rename' x => y) | split | fail_if_no_progress with_reducible apply kept_upd
    | dsimp +zetaDelta only

/-! ### Supply -/

theorem kept_coldReset {z0 : State} {s : State} {stage : Stage} (k0 : Kept z0 s) :
    Kept z0 (coldReset s stage) := by
  unfold coldReset
  repeat' first
    | with_reducible assumption | intro _ | with_reducible apply kept_foldl
    | (extract_lets +onlyGivenNames x;
        refine (fun (_ : Kept z0 x) => ?_) ?_; (on_goal 1 => rename' x => y); (on_goal 2 => unfold x; clear x))
    | (extract_lets +onlyGivenNames x; rename' x => y) | split | refine kept_upd_all ?_ (hm := ?_)
    | with_reducible exact wf_nil | with_reducible exact memPutLine_wf _ _ _ ‹_› | with_reducible exact writeBytes_wf _ _ ‹_›
    | exact wf_filter _ ‹_› | exact foldl_writeByte_wf _ _ _ (wf_filter _ ‹_›) | exact id | dsimp +zetaDelta only

theorem kept_trainLinks {z0 : State} {s : State} (k0 : Kept z0 s) :
    Kept z0 (trainLinks s) := by
  unfold trainLinks
  repeat' first
    | with_reducible assumption | intro _ | with_reducible apply kept_modLink | with_reducible apply kept_foldl | split
    | fail_if_no_progress with_reducible apply kept_upd

theorem kept_beginCold {z0 : State} {s : State} {cause : Nat} (k0 : Kept z0 s) :
    Kept z0 (beginCold s cause) := by
  unfold beginCold
  repeat' first
    | with_reducible assumption | intro _ | with_reducible apply kept_coldReset | with_reducible apply kept_trainLinks
    | (extract_lets +onlyGivenNames x;
        refine (fun (_ : Kept z0 x) => ?_) ?_; (on_goal 1 => rename' x => y); (on_goal 2 => unfold x; clear x))
    | (extract_lets +onlyGivenNames x; rename' x => y) | split | fail_if_no_progress with_reducible apply kept_upd
    | dsimp +zetaDelta only

theorem kept_setInput {z0 : State} {s : State} {mv : Nat} (k0 : Kept z0 s) :
    Kept z0 (setInput s mv) := by
  unfold setInput
  repeat' first | with_reducible assumption | intro _ | split | fail_if_no_progress with_reducible apply kept_upd

theorem kept_execSoftStart {mv : Nat} {s : State} {t0 : State} (e : execSoftStart mv s = .next t0) : Kept s t0 := by
  obtain ⟨-, rfl⟩ := (onUnit_next _ _ _).1 e
  repeat' first
    | with_reducible assumption | with_reducible exact Kept.rfl | intro _ | with_reducible apply kept_setInput
    | with_reducible apply kept_beginCold
    | (extract_lets +onlyGivenNames x;
        refine (fun (_ : Kept s x) => ?_) ?_; (on_goal 1 => rename' x => y); (on_goal 2 => unfold x; clear x))
    | (extract_lets +onlyGivenNames x; rename' x => y) | split | fail_if_no_progress with_reducible apply kept_upd
    | dsimp +zetaDelta only

theorem kept_execColdReset {mv : Nat} {s : State} {t0 : State} (e : execColdReset mv s = .next t0) : Kept s t0 := by
  obtain ⟨-, rfl⟩ := (onUnit_next _ _ _).1 e
  repeat' first
    | with_reducible assumption | with_reducible exact Kept.rfl | intro _ | with_reducible apply kept_setInput
    | with_reducible apply kept_coldReset
    | (extract_lets +onlyGivenNames x;
        refine (fun (_ : Kept s x) => ?_) ?_; (on_goal 1 => rename' x => y); (on_goal 2 => unfold x; clear x))
    | (extract_lets +onlyGivenNames x; rename' x => y) | split | fail_if_no_progress with_reducible apply kept_upd
    | dsimp +zetaDelta only

theorem kept_execOvervoltage {mv : Nat} {s : State} {t0 : State} (e : execOvervoltage mv s = .next t0) : Kept s t0 := by
  obtain ⟨-, rfl⟩ := (onUnit_next _ _ _).1 e
  repeat' first
    | with_reducible assumption | with_reducible exact Kept.rfl | intro _ | with_reducible apply kept_setInput
    | with_reducible apply kept_coldReset
    | (extract_lets +onlyGivenNames x;
        refine (fun (_ : Kept s x) => ?_) ?_; (on_goal 1 => rename' x => y); (on_goal 2 => unfold x; clear x))
    | (extract_lets +onlyGivenNames x; rename' x => y) | split | fail_if_no_progress with_reducible apply kept_upd
    | dsimp +zetaDelta only

theorem kept_execOvervoltageCleared {mv : Nat} {s : State} {t0 : State} (e : execOvervoltageCleared mv s = .next t0) : Kept s
    t0 := by
  obtain ⟨-, rfl⟩ := (onUnit_next _ _ _).1 e
  repeat' first
    | with_reducible assumption | with_reducible exact Kept.rfl | intro _ | with_reducible apply kept_setInput
    | with_reducible apply kept_beginCold
    | (extract_lets +onlyGivenNames x;
        refine (fun (_ : Kept s x) => ?_) ?_; (on_goal 1 => rename' x => y); (on_goal 2 => unfold x; clear x))
    | (extract_lets +onlyGivenNames x; rename' x => y) | split | fail_if_no_progress with_reducible apply kept_upd
    | dsimp +zetaDelta only

theorem kept_holdReset {z0 : State} {s : State} (k0 : Kept z0 s) :
    Kept z0 (holdReset s) := by
  unfold holdReset
  repeat' first
    | with_reducible assumption | intro _ | with_reducible apply kept_coldReset | split
    | fail_if_no_progress with_reducible apply kept_upd

theorem kept_execModResetAssert {ns : Nat} {s : State} {t0 : State} (e : execModResetAssert ns s = .next t0) : Kept s t0 := by
  obtain ⟨-, rfl⟩ := (onUnit_next _ _ _).1 e
  repeat' first
    | with_reducible assumption | with_reducible exact Kept.rfl | intro _ | with_reducible apply kept_holdReset
    | with_reducible apply kept_freeVal | with_reducible refine kept_of_fst ‹_ = (_, _)› ?_
    | with_reducible refine kept_of_snd ‹_ = (_, _)› ?_
    | (extract_lets +onlyGivenNames x;
        refine (fun (_ : Kept s x) => ?_) ?_; (on_goal 1 => rename' x => y); (on_goal 2 => unfold x; clear x))
    | (extract_lets +onlyGivenNames x; rename' x => y) | split | fail_if_no_progress with_reducible apply kept_upd
    | dsimp +zetaDelta only

theorem kept_execModResetRelease {s : State} {t0 : State} (e : execModResetRelease s = .next t0) : Kept s t0 := by
  obtain ⟨-, rfl⟩ := (onUnit_next _ _ _).1 e
  repeat' first
    | with_reducible assumption | with_reducible exact Kept.rfl | intro _ | with_reducible apply kept_beginCold
    | (extract_lets +onlyGivenNames x;
        refine (fun (_ : Kept s x) => ?_) ?_; (on_goal 1 => rename' x => y); (on_goal 2 => unfold x; clear x))
    | (extract_lets +onlyGivenNames x; rename' x => y) | split | fail_if_no_progress with_reducible apply kept_upd
    | dsimp +zetaDelta only

theorem kept_execFlashEnAssert {s : State} {t0 : State} (e : execFlashEnAssert s = .next t0) : Kept s t0 := by
  obtain ⟨-, rfl⟩ := (onUnit_next _ _ _).1 e
  repeat' first
    | with_reducible assumption | with_reducible exact Kept.rfl | intro _ | with_reducible apply kept_coldReset
    | (extract_lets +onlyGivenNames x;
        refine (fun (_ : Kept s x) => ?_) ?_; (on_goal 1 => rename' x => y); (on_goal 2 => unfold x; clear x))
    | (extract_lets +onlyGivenNames x; rename' x => y) | split | fail_if_no_progress with_reducible apply kept_upd
    | dsimp +zetaDelta only

theorem kept_execFlashEnRelease {s : State} {t0 : State} (e : execFlashEnRelease s = .next t0) : Kept s t0 := by
  obtain ⟨-, rfl⟩ := (onUnit_next _ _ _).1 e
  repeat' first
    | with_reducible assumption | with_reducible exact Kept.rfl | intro _ | with_reducible apply kept_beginCold
    | (extract_lets +onlyGivenNames x;
        refine (fun (_ : Kept s x) => ?_) ?_; (on_goal 1 => rename' x => y); (on_goal 2 => unfold x; clear x))
    | (extract_lets +onlyGivenNames x; rename' x => y) | split | fail_if_no_progress with_reducible apply kept_upd
    | dsimp +zetaDelta only

theorem kept_powerEvent {z0 : State} {s : State} {ps : List Nat} {code state : Nat} {dies : BitVec 9} {measured : Nat} (k0 :
    Kept z0 s) :
    Kept z0 (powerEvent s ps code state dies measured) := by
  unfold powerEvent
  repeat' first
    | with_reducible assumption | intro _ | with_reducible apply kept_postEvents | split
    | fail_if_no_progress with_reducible apply kept_upd

theorem kept_postSummary {z0 : State} {s : State} {p : Nat} (k0 : Kept z0 s) :
    Kept z0 (postSummary s p) := by
  unfold postSummary
  repeat' first
    | with_reducible assumption | intro _ | with_reducible apply kept_postEvent | with_reducible apply kept_modPart
    | (extract_lets +onlyGivenNames x;
        refine (fun (_ : Kept z0 x) => ?_) ?_; (on_goal 1 => rename' x => y); (on_goal 2 => unfold x; clear x))
    | (extract_lets +onlyGivenNames x; rename' x => y)
    | with_reducible refine kept_map ‹Option.map _ _ = some _› (fun _ _ => ?_) | split
    | fail_if_no_progress with_reducible apply kept_upd | dsimp +zetaDelta only

theorem kept_addEpisode {z0 : State} {s : State} {p d code start low : Nat} (k0 : Kept z0 s) :
    Kept z0 (addEpisode s p d code start low) := by
  unfold addEpisode
  repeat' first
    | with_reducible assumption | intro _ | with_reducible apply kept_postSummary | with_reducible apply kept_modPart
    | (extract_lets +onlyGivenNames x;
        refine (fun (_ : Kept z0 x) => ?_) ?_; (on_goal 1 => rename' x => y); (on_goal 2 => unfold x; clear x))
    | (extract_lets +onlyGivenNames x; rename' x => y) | split | fail_if_no_progress with_reducible apply kept_upd
    | dsimp +zetaDelta only

theorem kept_addEpisodes {z0 : State} {s : State} {d code start low : Nat} (k0 : Kept z0 s) :
    Kept z0 (addEpisodes s d code start low) := by
  unfold addEpisodes
  repeat' first
    | with_reducible assumption | intro _ | with_reducible apply kept_addEpisode | with_reducible apply kept_foldl | split
    | fail_if_no_progress with_reducible apply kept_upd

theorem kept_accountF {z0 : State} {s : State} {code d : Nat} (k0 : Kept z0 s) :
    Kept z0 (accountF s code d) := by
  unfold accountF
  repeat' first
    | with_reducible assumption | intro _ | with_reducible apply kept_setDie | with_reducible apply kept_modDie
    | with_reducible apply kept_addEpisodes
    | (extract_lets +onlyGivenNames x;
        refine (fun (_ : Kept z0 x) => ?_) ?_; (on_goal 1 => rename' x => y); (on_goal 2 => unfold x; clear x))
    | (extract_lets +onlyGivenNames x; rename' x => y) | split | fail_if_no_progress with_reducible apply kept_upd
    | dsimp +zetaDelta only

theorem kept_limitDies {z0 : State} {s : State} {g : State → State} (k_g : ∀ x0, Kept z0 x0 → Kept z0 (g x0)) (k0 : Kept z0 s) :
    Kept z0 (limitDies s g) := by
  unfold limitDies
  repeat' first
    | with_reducible assumption | intro _ | with_reducible apply kept_accountF | with_reducible apply k_g
    | with_reducible apply kept_foldl
    | (extract_lets +onlyGivenNames x;
        refine (fun (_ : Kept z0 x) => ?_) ?_; (on_goal 1 => rename' x => y); (on_goal 2 => unfold x; clear x))
    | (extract_lets +onlyGivenNames x; rename' x => y)
    | with_reducible refine kept_map ‹Option.map _ _ = some _› (fun _ _ => ?_) | split
    | fail_if_no_progress with_reducible apply kept_upd | dsimp +zetaDelta only

theorem kept_setLoop {z0 : State} {s : State} {g : Nat → Nat} (k0 : Kept z0 s) :
    Kept z0 (setLoop s g) := by
  unfold setLoop
  repeat' first
    | with_reducible assumption | intro _ | with_reducible apply kept_modDie | with_reducible apply kept_foldl | split
    | fail_if_no_progress with_reducible apply kept_upd

theorem kept_execWithholdSummary {p : Nat} {s : State} {t0 : State} (e : execWithholdSummary p s = .next t0) : Kept s t0 := by
  obtain ⟨-, rfl⟩ := (onUnit_next _ _ _).1 e
  repeat' first
    | with_reducible assumption | with_reducible exact Kept.rfl | intro _ | with_reducible apply kept_postSummary
    | with_reducible apply kept_setDie | with_reducible apply kept_addEpisodes | with_reducible apply kept_foldl
    | (extract_lets +onlyGivenNames x;
        refine (fun (_ : Kept s x) => ?_) ?_; (on_goal 1 => rename' x => y); (on_goal 2 => unfold x; clear x))
    | (extract_lets +onlyGivenNames x; rename' x => y) | split | fail_if_no_progress with_reducible apply kept_upd
    | dsimp +zetaDelta only

theorem kept_execSupplyWarning {mv : Nat} {s : State} {t0 : State} (e : execSupplyWarning mv s = .next t0) : Kept s t0 := by
  obtain ⟨-, rfl⟩ := (onUnit_next _ _ _).1 e
  repeat' first
    | with_reducible assumption | with_reducible exact Kept.rfl | intro _ | with_reducible apply kept_emit
    | with_reducible apply kept_setInput | with_reducible apply kept_limitDies | with_reducible apply kept_setLoop
    | with_reducible apply kept_powerEvent
    | (extract_lets +onlyGivenNames x;
        refine (fun (_ : Kept s x) => ?_) ?_; (on_goal 1 => rename' x => y); (on_goal 2 => unfold x; clear x))
    | (extract_lets +onlyGivenNames x; rename' x => y) | split | fail_if_no_progress with_reducible apply kept_upd
    | dsimp +zetaDelta only

theorem kept_execWarningCleared {mv : Nat} {s : State} {t0 : State} (e : execWarningCleared mv s = .next t0) : Kept s t0 := by
  obtain ⟨-, rfl⟩ := (onUnit_next _ _ _).1 e
  repeat' first
    | with_reducible assumption | with_reducible exact Kept.rfl | intro _ | with_reducible apply kept_emit
    | with_reducible apply kept_setInput | with_reducible apply kept_powerEvent
    | (extract_lets +onlyGivenNames x;
        refine (fun (_ : Kept s x) => ?_) ?_; (on_goal 1 => rename' x => y); (on_goal 2 => unfold x; clear x))
    | (extract_lets +onlyGivenNames x; rename' x => y) | split | fail_if_no_progress with_reducible apply kept_upd
    | dsimp +zetaDelta only

theorem kept_execCurrentSample {mv ma : Nat} {s : State} {t0 : State} (e : execCurrentSample mv ma s = .next t0) : Kept s t0
    := by
  obtain ⟨-, rfl⟩ := (onUnit_next _ _ _).1 e
  repeat' first
    | with_reducible assumption | with_reducible exact Kept.rfl | intro _ | with_reducible apply kept_limitDies
    | with_reducible apply kept_setLoop
    | (extract_lets +onlyGivenNames x;
        refine (fun (_ : Kept s x) => ?_) ?_; (on_goal 1 => rename' x => y); (on_goal 2 => unfold x; clear x))
    | (extract_lets +onlyGivenNames x; rename' x => y) | split | fail_if_no_progress with_reducible apply kept_upd
    | dsimp +zetaDelta only

theorem kept_clearActivity {z0 : State} {s : State} (k0 : Kept z0 s) :
    Kept z0 (clearActivity s) := by
  unfold clearActivity
  repeat' first
    | with_reducible assumption | intro _ | with_reducible refine kept_map ‹Option.map _ _ = some _› (fun _ _ => ?_) | split
    | fail_if_no_progress with_reducible apply kept_upd

theorem kept_execPowerCapLoop {s : State} {t0 : State} (e : execPowerCapLoop s = .next t0) : Kept s t0 := by
  obtain ⟨-, rfl⟩ := (onUnit_next _ _ _).1 e
  repeat' first
    | with_reducible assumption | with_reducible exact Kept.rfl | intro _ | with_reducible apply kept_modDie
    | with_reducible apply kept_clearActivity | with_reducible apply kept_limitDies | with_reducible apply kept_setLoop
    | with_reducible apply kept_foldl
    | (extract_lets +onlyGivenNames x;
        refine (fun (_ : Kept s x) => ?_) ?_; (on_goal 1 => rename' x => y); (on_goal 2 => unfold x; clear x))
    | (extract_lets +onlyGivenNames x; rename' x => y) | split | fail_if_no_progress with_reducible apply kept_upd
    | dsimp +zetaDelta only

theorem kept_thermalTrip {z0 : State} {s : State} {d n : Nat} (k0 : Kept z0 s) :
    Kept z0 (thermalTrip s d n) := by
  unfold thermalTrip
  repeat' first
    | with_reducible assumption | intro _ | with_reducible apply kept_emit | with_reducible apply kept_coldReset
    | (extract_lets +onlyGivenNames x;
        refine (fun (_ : Kept z0 x) => ?_) ?_; (on_goal 1 => rename' x => y); (on_goal 2 => unfold x; clear x))
    | (extract_lets +onlyGivenNames x; rename' x => y) | split | fail_if_no_progress with_reducible apply kept_upd
    | dsimp +zetaDelta only

theorem kept_thermalStep {z0 : State} {s : State} {d : Nat} (k0 : Kept z0 s) :
    Kept z0 (thermalStep s d) := by
  unfold thermalStep
  repeat' first
    | with_reducible assumption | intro _ | with_reducible apply kept_limitDies | with_reducible apply kept_setDie
    | with_reducible apply kept_powerEvent | with_reducible apply kept_foldl
    | (extract_lets +onlyGivenNames x;
        refine (fun (_ : Kept z0 x) => ?_) ?_; (on_goal 1 => rename' x => y); (on_goal 2 => unfold x; clear x))
    | (extract_lets +onlyGivenNames x; rename' x => y) | split | fail_if_no_progress with_reducible apply kept_upd
    | dsimp +zetaDelta only

theorem kept_endHot {z0 : State} {s : State} (k0 : Kept z0 s) :
    Kept z0 (endHot s) := by
  unfold endHot
  repeat' first
    | with_reducible assumption | intro _ | with_reducible apply kept_limitDies | with_reducible apply kept_powerEvent
    | (extract_lets +onlyGivenNames x;
        refine (fun (_ : Kept z0 x) => ?_) ?_; (on_goal 1 => rename' x => y); (on_goal 2 => unfold x; clear x))
    | (extract_lets +onlyGivenNames x; rename' x => y) | split | fail_if_no_progress with_reducible apply kept_upd
    | dsimp +zetaDelta only

theorem kept_execSensorSample {d n : Nat} {t : Int} {s : State} {t0 : State} (e : execSensorSample d n t s = .next t0) : Kept
    s t0 := by
  obtain ⟨-, rfl⟩ := (onUnit_next _ _ _).1 e
  repeat' first
    | with_reducible assumption | with_reducible exact Kept.rfl | intro _ | with_reducible apply kept_modDie
    | with_reducible apply kept_thermalTrip | with_reducible apply kept_endHot | with_reducible apply kept_trainLinks
    | with_reducible apply kept_thermalStep
    | (extract_lets +onlyGivenNames x;
        refine (fun (_ : Kept s x) => ?_) ?_; (on_goal 1 => rename' x => y); (on_goal 2 => unfold x; clear x))
    | (extract_lets +onlyGivenNames x; rename' x => y) | split | fail_if_no_progress with_reducible apply kept_upd
    | dsimp +zetaDelta only

theorem kept_execHotSensorTimeout {s : State} {t0 : State} (e : execHotSensorTimeout s = .next t0) : Kept s t0 := by
  obtain ⟨-, rfl⟩ := (onUnit_next _ _ _).1 e
  repeat' first
    | with_reducible assumption | with_reducible exact Kept.rfl | intro _ | with_reducible apply kept_limitDies
    | with_reducible apply kept_powerEvent
    | (extract_lets +onlyGivenNames x;
        refine (fun (_ : Kept s x) => ?_) ?_; (on_goal 1 => rename' x => y); (on_goal 2 => unfold x; clear x))
    | (extract_lets +onlyGivenNames x; rename' x => y) | split | fail_if_no_progress with_reducible apply kept_upd
    | dsimp +zetaDelta only

theorem kept_execLatchSensorRead {t : Int} {s : State} {t0 : State} (e : execLatchSensorRead t s = .next t0) : Kept s t0 := by
  obtain ⟨-, rfl⟩ := (onUnit_next _ _ _).1 e
  repeat' first
    | with_reducible assumption | with_reducible exact Kept.rfl | intro _ | with_reducible apply kept_addJournal
    | with_reducible apply kept_emit | with_reducible apply kept_trainLinks
    | (extract_lets +onlyGivenNames x;
        refine (fun (_ : Kept s x) => ?_) ?_; (on_goal 1 => rename' x => y); (on_goal 2 => unfold x; clear x))
    | (extract_lets +onlyGivenNames x; rename' x => y) | split | fail_if_no_progress with_reducible apply kept_upd
    | dsimp +zetaDelta only

theorem kept_execFru3v3Removal {s : State} {t0 : State} (e : execFru3v3Removal s = .next t0) : Kept s t0 := by
  obtain ⟨-, rfl⟩ := (onUnit_next _ _ _).1 e
  repeat' first
    | with_reducible assumption | with_reducible exact Kept.rfl | intro _ | with_reducible apply kept_emit | split
    | fail_if_no_progress with_reducible apply kept_upd

theorem kept_excludeTime {z0 : State} {s : State} {d ticks : Nat} (k0 : Kept z0 s) :
    Kept z0 (excludeTime s d ticks) := by
  unfold excludeTime
  repeat' first
    | with_reducible assumption | intro _ | with_reducible apply kept_modLaunch | with_reducible apply kept_foldl
    | (extract_lets +onlyGivenNames x;
        refine (fun (_ : Kept z0 x) => ?_) ?_; (on_goal 1 => rename' x => y); (on_goal 2 => unfold x; clear x))
    | (extract_lets +onlyGivenNames x; rename' x => y)
    | with_reducible refine kept_map ‹Option.map _ _ = some _› (fun _ _ => ?_) | split
    | fail_if_no_progress with_reducible apply kept_upd | dsimp +zetaDelta only

theorem kept_execDroopTrip {d n : Nat} {s : State} {t0 : State} (e : execDroopTrip d n s = .next t0) : Kept s t0 := by
  obtain ⟨-, rfl⟩ := (onUnit_next _ _ _).1 e
  repeat' first
    | with_reducible assumption | with_reducible exact Kept.rfl | intro _ | with_reducible apply kept_modDie | split
    | fail_if_no_progress with_reducible apply kept_upd

theorem kept_endDroop {z0 : State} {s : State} {d : Nat} (k0 : Kept z0 s) :
    Kept z0 (endDroop s d) := by
  unfold endDroop
  repeat' first
    | with_reducible assumption | intro _ | with_reducible apply kept_setDie | with_reducible apply kept_addEpisodes
    | with_reducible apply kept_excludeTime
    | (extract_lets +onlyGivenNames x;
        refine (fun (_ : Kept z0 x) => ?_) ?_; (on_goal 1 => rename' x => y); (on_goal 2 => unfold x; clear x))
    | (extract_lets +onlyGivenNames x; rename' x => y) | split | fail_if_no_progress with_reducible apply kept_upd
    | dsimp +zetaDelta only

theorem kept_execDroopEnd {d : Nat} {s : State} {t0 : State} (e : execDroopEnd d s = .next t0) : Kept s t0 := by
  obtain ⟨-, rfl⟩ := (onUnit_next _ _ _).1 e
  repeat' first
    | with_reducible assumption | with_reducible exact Kept.rfl | intro _ | with_reducible apply kept_endDroop | split
    | fail_if_no_progress with_reducible apply kept_upd

theorem kept_execDroopLimit {d : Nat} {s : State} {t0 : State} (e : execDroopLimit d s = .next t0) : Kept s t0 := by
  obtain ⟨-, rfl⟩ := (onUnit_next _ _ _).1 e
  repeat' first
    | with_reducible assumption | with_reducible exact Kept.rfl | intro _ | with_reducible apply kept_limitDies
    | with_reducible apply kept_endDroop | with_reducible apply kept_modDie | split
    | fail_if_no_progress with_reducible apply kept_upd

theorem kept_execAgeingMonitorRead {d : Nat} {slow : Bool} {s : State} {t0 : State} (e : execAgeingMonitorRead d slow s =
    .next t0) : Kept s t0 := by
  obtain ⟨-, rfl⟩ := (onUnit_next _ _ _).1 e
  repeat' first
    | with_reducible assumption | with_reducible exact Kept.rfl | intro _ | with_reducible apply kept_addJournal
    | with_reducible apply kept_setDie | with_reducible apply kept_powerEvent
    | (extract_lets +onlyGivenNames x;
        refine (fun (_ : Kept s x) => ?_) ?_; (on_goal 1 => rename' x => y); (on_goal 2 => unfold x; clear x))
    | (extract_lets +onlyGivenNames x; rename' x => y) | split | fail_if_no_progress with_reducible apply kept_upd
    | dsimp +zetaDelta only

theorem kept_execControlComplexStepChange {n : Nat} {s : State} {t0 : State} (e : execControlComplexStepChange n s = .next t0)
    : Kept s t0 := by
  obtain ⟨-, rfl⟩ := (onUnit_next _ _ _).1 e
  repeat' first
    | with_reducible assumption | with_reducible exact Kept.rfl | intro _ | split
    | fail_if_no_progress with_reducible apply kept_upd

/-! ### Update -/

theorem kept_writeSlotRecord {z0 : State} {s : State} {g : Flash → Flash} (k0 : Kept z0 s) :
    Kept z0 (writeSlotRecord s g) := by
  unfold writeSlotRecord
  repeat' first
    | with_reducible assumption | intro _
    | (extract_lets +onlyGivenNames x;
        refine (fun (_ : Kept z0 x) => ?_) ?_; (on_goal 1 => rename' x => y); (on_goal 2 => unfold x; clear x))
    | (extract_lets +onlyGivenNames x; rename' x => y) | split | fail_if_no_progress with_reducible apply kept_upd
    | dsimp +zetaDelta only

theorem kept_markSlot {z0 : State} {s : State} {n : Nat} {st : SlotState} (k0 : Kept z0 s) :
    Kept z0 (markSlot s n st) := by
  unfold markSlot
  repeat' first
    | with_reducible assumption | intro _ | with_reducible apply kept_writeSlotRecord | split
    | fail_if_no_progress with_reducible apply kept_upd

theorem kept_runSlot {z0 : State} {s : State} {n mode : Nat} (k0 : Kept z0 s) :
    Kept z0 (runSlot s n mode) := by
  unfold runSlot
  repeat' first | with_reducible assumption | intro _ | split | fail_if_no_progress with_reducible apply kept_upd

theorem kept_runRecovery {z0 : State} {s : State} (k0 : Kept z0 s) :
    Kept z0 (runRecovery s) := by
  unfold runRecovery
  repeat' first | with_reducible assumption | intro _ | split | fail_if_no_progress with_reducible apply kept_upd

theorem kept_slotFails {z0 : State} {s : State} {n code : Nat} (k0 : Kept z0 s) :
    Kept z0 (slotFails s n code) := by
  unfold slotFails
  repeat' first
    | with_reducible assumption | intro _ | with_reducible apply kept_markSlot
    | (extract_lets +onlyGivenNames x;
        refine (fun (_ : Kept z0 x) => ?_) ?_; (on_goal 1 => rename' x => y); (on_goal 2 => unfold x; clear x))
    | (extract_lets +onlyGivenNames x; rename' x => y) | split | fail_if_no_progress with_reducible apply kept_upd
    | dsimp +zetaDelta only

theorem kept_tryTrial {z0 : State} {s : State} {n : Nat} (k0 : Kept z0 s) :
    Kept z0 (tryTrial s n).1 := by
  unfold tryTrial
  repeat' first
    | with_reducible assumption | intro _ | with_reducible apply kept_writeSlotRecord | with_reducible apply kept_runSlot
    | with_reducible apply kept_slotFails
    | (extract_lets +onlyGivenNames x;
        refine (fun (_ : Kept z0 x) => ?_) ?_; (on_goal 1 => rename' x => y); (on_goal 2 => unfold x; clear x))
    | (extract_lets +onlyGivenNames x; rename' x => y) | split | fail_if_no_progress with_reducible apply kept_upd
    | dsimp +zetaDelta only

theorem kept_tryGood {z0 : State} {s : State} {n : Nat} (k0 : Kept z0 s) :
    Kept z0 (tryGood s n).1 := by
  unfold tryGood
  repeat' first
    | with_reducible assumption | intro _ | with_reducible apply kept_runSlot | with_reducible apply kept_slotFails
    | (extract_lets +onlyGivenNames x;
        refine (fun (_ : Kept z0 x) => ?_) ?_; (on_goal 1 => rename' x => y); (on_goal 2 => unfold x; clear x))
    | (extract_lets +onlyGivenNames x; rename' x => y) | split | fail_if_no_progress with_reducible apply kept_upd
    | dsimp +zetaDelta only

theorem kept_selectSlot {z0 : State} {s : State} (k0 : Kept z0 s) :
    Kept z0 (selectSlot s) := by
  unfold selectSlot
  repeat' first
    | with_reducible assumption | intro _ | with_reducible apply kept_tryTrial | with_reducible apply kept_markSlot
    | with_reducible apply kept_tryGood | with_reducible apply kept_runRecovery | with_reducible apply kept_foldl
    | with_reducible refine kept_of_fst ‹_ = (_, _)› ?_ | with_reducible refine kept_of_snd ‹_ = (_, _)› ?_
    | (extract_lets +onlyGivenNames x;
        refine (fun (_ : Kept z0 x) => ?_) ?_; (on_goal 1 => rename' x => y); (on_goal 2 => unfold x; clear x))
    | (extract_lets +onlyGivenNames x; rename' x => y) | split | fail_if_no_progress with_reducible apply kept_upd
    | dsimp +zetaDelta only

theorem kept_closeUpdate {z0 : State} {s : State} (k0 : Kept z0 s) :
    Kept z0 (closeUpdate s) := by
  unfold closeUpdate
  repeat' first | with_reducible assumption | intro _ | split | fail_if_no_progress with_reducible apply kept_upd

theorem kept_flashReady {z0 : State} {s : State} {f : State → State} (k_f : ∀ x0, Kept z0 x0 → Kept z0 (f x0)) (k0 : Kept z0
    s) :
    Kept z0 (flashReady s f) := by
  unfold flashReady
  repeat' first
    | with_reducible assumption | intro _ | with_reducible apply k_f | split
    | fail_if_no_progress with_reducible apply kept_upd

theorem kept_execImgBegin {p q : Nat} {seq : W32} {s : State} {t0 : State} (e : execImgBegin p q seq s = .next t0) : Kept s t0
    := by
  obtain ⟨-, rfl⟩ := (onUnit_next _ _ _).1 e
  repeat' first
    | with_reducible assumption | with_reducible exact Kept.rfl | intro _ | with_reducible apply kept_runCmd
    | with_reducible apply kept_flashReady | with_reducible apply kept_markSlot | with_reducible apply kept_finishCmd
    | (extract_lets +onlyGivenNames x;
        refine (fun (_ : Kept s x) => ?_) ?_; (on_goal 1 => rename' x => y); (on_goal 2 => unfold x; clear x))
    | (extract_lets +onlyGivenNames x; rename' x => y) | split | fail_if_no_progress with_reducible apply kept_upd
    | dsimp +zetaDelta only

theorem kept_programBytes {z0 : State} {s : State} {slot off : Nat} {bs : List Byte} (k0 : Kept z0 s) :
    Kept z0 (programBytes s slot off bs) := by
  unfold programBytes
  repeat' first
    | with_reducible assumption | intro _ | with_reducible apply kept_foldl
    | (extract_lets +onlyGivenNames x;
        refine (fun (_ : Kept z0 x) => ?_) ?_; (on_goal 1 => rename' x => y); (on_goal 2 => unfold x; clear x))
    | (extract_lets +onlyGivenNames x; rename' x => y) | split | fail_if_no_progress with_reducible apply kept_upd
    | dsimp +zetaDelta only

theorem kept_execImgWrite {p q : Nat} {seq : W32} {programOk : Bool} {s : State} {t0 : State} (e : execImgWrite p q seq
    programOk s = .next t0) : Kept s t0 := by
  obtain ⟨-, rfl⟩ := (onUnit_next _ _ _).1 e
  repeat' first
    | with_reducible assumption | with_reducible exact Kept.rfl | intro _ | with_reducible apply kept_runCmd
    | with_reducible apply kept_flashReady | with_reducible apply kept_agentReads | with_reducible apply kept_programBytes
    | with_reducible apply kept_finishCmd | with_reducible apply kept_closeUpdate | with_reducible apply kept_markSlot
    | (extract_lets +onlyGivenNames x;
        refine (fun (_ : Kept s x) => ?_) ?_; (on_goal 1 => rename' x => y); (on_goal 2 => unfold x; clear x))
    | (extract_lets +onlyGivenNames x; rename' x => y) | split | fail_if_no_progress with_reducible apply kept_upd
    | dsimp +zetaDelta only

theorem kept_execImgFinish {p q : Nat} {seq : W32} {s : State} {t0 : State} (e : execImgFinish p q seq s = .next t0) : Kept s
    t0 := by
  obtain ⟨-, rfl⟩ := (onUnit_next _ _ _).1 e
  repeat' first
    | with_reducible assumption | with_reducible exact Kept.rfl | intro _ | with_reducible apply kept_runCmd
    | with_reducible apply kept_flashReady | with_reducible apply kept_closeUpdate | with_reducible apply kept_finishCmd
    | with_reducible apply kept_writeSlotRecord | with_reducible apply kept_markSlot
    | (extract_lets +onlyGivenNames x;
        refine (fun (_ : Kept s x) => ?_) ?_; (on_goal 1 => rename' x => y); (on_goal 2 => unfold x; clear x))
    | (extract_lets +onlyGivenNames x; rename' x => y) | split | fail_if_no_progress with_reducible apply kept_upd
    | dsimp +zetaDelta only

theorem kept_commitSlot {z0 : State} {s : State} (k0 : Kept z0 s) :
    Kept z0 (commitSlot s) := by
  unfold commitSlot
  repeat' first
    | with_reducible assumption | intro _ | with_reducible apply kept_writeSlotRecord
    | (extract_lets +onlyGivenNames x;
        refine (fun (_ : Kept z0 x) => ?_) ?_; (on_goal 1 => rename' x => y); (on_goal 2 => unfold x; clear x))
    | (extract_lets +onlyGivenNames x; rename' x => y) | split | fail_if_no_progress with_reducible apply kept_upd
    | dsimp +zetaDelta only

theorem kept_execImgCommit {p q : Nat} {seq : W32} {s : State} {t0 : State} (e : execImgCommit p q seq s = .next t0) : Kept s
    t0 := by
  obtain ⟨-, rfl⟩ := (onUnit_next _ _ _).1 e
  repeat' first
    | with_reducible assumption | with_reducible exact Kept.rfl | intro _ | with_reducible apply kept_runCmd
    | with_reducible apply kept_finishCmd | with_reducible apply kept_flashReady | with_reducible apply kept_commitSlot | split
    | fail_if_no_progress with_reducible apply kept_upd

theorem kept_execImgAbort {p q : Nat} {seq : W32} {s : State} {t0 : State} (e : execImgAbort p q seq s = .next t0) : Kept s t0
    := by
  obtain ⟨-, rfl⟩ := (onUnit_next _ _ _).1 e
  repeat' first
    | with_reducible assumption | with_reducible exact Kept.rfl | intro _ | with_reducible apply kept_runCmd
    | with_reducible apply kept_flashReady | with_reducible apply kept_finishCmd | with_reducible apply kept_closeUpdate
    | with_reducible apply kept_markSlot | split | fail_if_no_progress with_reducible apply kept_upd

theorem kept_execJournalProgram {s : State} {t0 : State} (e : execJournalProgram s = .next t0) : Kept s t0 := by
  obtain ⟨-, rfl⟩ := (onUnit_next _ _ _).1 e
  repeat' first
    | with_reducible assumption | with_reducible exact Kept.rfl | intro _ | with_reducible apply kept_flashReady | split
    | fail_if_no_progress with_reducible apply kept_upd

theorem kept_execErrorSnapshot {s : State} {t0 : State} (e : execErrorSnapshot s = .next t0) : Kept s t0 := by
  obtain ⟨-, rfl⟩ := (onUnit_next _ _ _).1 e
  repeat' first
    | with_reducible assumption | with_reducible exact Kept.rfl | intro _ | with_reducible apply kept_addJournal | split
    | fail_if_no_progress with_reducible apply kept_upd

theorem kept_execQuoteComplete {s : State} {t0 : State} (e : execQuoteComplete s = .next t0) : Kept s t0 := by
  obtain ⟨-, rfl⟩ := (onUnit_next _ _ _).1 e
  repeat' first
    | with_reducible assumption | with_reducible exact Kept.rfl | intro _
    | (extract_lets +onlyGivenNames x;
        refine (fun (_ : Kept s x) => ?_) ?_; (on_goal 1 => rename' x => y); (on_goal 2 => unfold x; clear x))
    | (extract_lets +onlyGivenNames x; rename' x => y) | split | fail_if_no_progress with_reducible apply kept_upd
    | dsimp +zetaDelta only

/-! ### Upkeep -/

theorem kept_execFlitError {d node hop flit : Nat} {control : Bool} {s : State} {t0 : State} (e : execFlitError d node hop
    flit control s = .next t0) : Kept s t0 := by
  obtain ⟨-, rfl⟩ := (onUnit_next _ _ _).1 e
  repeat' first
    | with_reducible assumption | with_reducible exact Kept.rfl | intro _ | with_reducible apply kept_raiseFatal
    | with_reducible apply kept_setDie
    | (extract_lets +onlyGivenNames x;
        refine (fun (_ : Kept s x) => ?_) ?_; (on_goal 1 => rename' x => y); (on_goal 2 => unfold x; clear x))
    | (extract_lets +onlyGivenNames x; rename' x => y) | split | fail_if_no_progress with_reducible apply kept_upd
    | dsimp +zetaDelta only

theorem kept_execRoCacheEnable {cl : Nat} {s : State} {t0 : State} (e : execRoCacheEnable cl s = .next t0) : Kept s t0 := by
  obtain ⟨-, rfl⟩ := (onUnit_next _ _ _).1 e
  repeat' first
    | with_reducible assumption | with_reducible exact Kept.rfl | intro _ | with_reducible apply kept_modCluster
    | (extract_lets +onlyGivenNames x;
        refine (fun (_ : Kept s x) => ?_) ?_; (on_goal 1 => rename' x => y); (on_goal 2 => unfold x; clear x))
    | (extract_lets +onlyGivenNames x; rename' x => y) | split | fail_if_no_progress with_reducible apply kept_upd
    | dsimp +zetaDelta only

theorem kept_invalidateSlice {z0 : State} {s : State} {sid : Nat} (k0 : Kept z0 s) :
    Kept z0 (invalidateSlice s sid) := by
  unfold invalidateSlice
  repeat' first
    | with_reducible assumption | intro _ | with_reducible apply kept_discardOpen | with_reducible apply kept_sendReg
    | with_reducible apply kept_modSlice | with_reducible apply kept_foldl
    | (extract_lets +onlyGivenNames x;
        refine (fun (_ : Kept z0 x) => ?_) ?_; (on_goal 1 => rename' x => y); (on_goal 2 => unfold x; clear x))
    | (extract_lets +onlyGivenNames x; rename' x => y) | split | fail_if_no_progress with_reducible apply kept_upd
    | dsimp +zetaDelta only

theorem kept_repin {z0 : State} {s : State} {sid : Nat} (k0 : Kept z0 s) :
    Kept z0 (repin s sid) := by
  unfold repin
  repeat' first
    | with_reducible assumption | intro _ | with_reducible apply kept_pinAll | with_reducible apply kept_modTask
    | with_reducible apply kept_foldl | with_reducible refine kept_of_fst ‹_ = (_, _)› ?_
    | with_reducible refine kept_of_snd ‹_ = (_, _)› ?_ | split | fail_if_no_progress with_reducible apply kept_upd
    | dsimp +zetaDelta only

theorem kept_execSliceEnable {sid : Nat} {s : State} {t0 : State} (e : execSliceEnable sid s = .next t0) : Kept s t0 := by
  obtain ⟨-, rfl⟩ := (onUnit_next _ _ _).1 e
  repeat' first
    | with_reducible assumption | with_reducible exact Kept.rfl | intro _ | with_reducible apply kept_repin
    | with_reducible apply kept_modSlice
    | (extract_lets +onlyGivenNames x;
        refine (fun (_ : Kept s x) => ?_) ?_; (on_goal 1 => rename' x => y); (on_goal 2 => unfold x; clear x))
    | (extract_lets +onlyGivenNames x; rename' x => y) | split | fail_if_no_progress with_reducible apply kept_upd
    | dsimp +zetaDelta only

theorem kept_execRefresh {ch bank first rows : Nat} {s : State} {t0 : State} (e : execRefresh ch bank first rows s = .next t0)
    : Kept s t0 := by
  obtain ⟨-, rfl⟩ := (onUnit_next _ _ _).1 e
  repeat' first
    | with_reducible assumption | with_reducible exact Kept.rfl | intro _ | with_reducible apply kept_modChan | split
    | fail_if_no_progress with_reducible apply kept_upd

theorem kept_execDisturbanceRefresh {ch bank row : Nat} {s : State} {t0 : State} (e : execDisturbanceRefresh ch bank row s =
    .next t0) : Kept s t0 := by
  obtain ⟨-, rfl⟩ := (onUnit_next _ _ _).1 e
  repeat' first
    | with_reducible assumption | with_reducible exact Kept.rfl | intro _ | with_reducible apply kept_modChan
    | with_reducible apply kept_foldl | split | fail_if_no_progress with_reducible apply kept_upd

theorem kept_execPatrolScrub {pa : Nat} {wrong : List Nat} {elsewhere : Bool} {s : State} {t0 : State} (e : execPatrolScrub pa
    wrong elsewhere s = .next t0) : Kept s t0 := by
  obtain ⟨-, rfl⟩ := (onUnit_next _ _ _).1 e
  repeat' first
    | with_reducible assumption | with_reducible exact Kept.rfl | intro _ | with_reducible apply kept_memEcc
    | with_reducible apply kept_activate | split | fail_if_no_progress with_reducible apply kept_upd

theorem kept_clusterMemError {z0 : State} {s : State} {cl bank word : Nat} (k0 : Kept z0 s) :
    Kept z0 (clusterMemError s cl bank word) := by
  unfold clusterMemError
  repeat' first
    | with_reducible assumption | intro _ | with_reducible apply kept_countUe | with_reducible apply kept_modCluster
    | with_reducible apply kept_setClusterFence
    | (extract_lets +onlyGivenNames x;
        refine (fun (_ : Kept z0 x) => ?_) ?_; (on_goal 1 => rename' x => y); (on_goal 2 => unfold x; clear x))
    | (extract_lets +onlyGivenNames x; rename' x => y) | split | fail_if_no_progress with_reducible apply kept_upd
    | dsimp +zetaDelta only

theorem kept_sliceDataError {z0 : State} {s : State} {sid line sector : Nat} (k0 : Kept z0 s) :
    Kept z0 (sliceDataError s sid line sector) := by
  unfold sliceDataError
  repeat' first
    | with_reducible assumption | intro _ | with_reducible apply kept_countUe | with_reducible apply kept_modSlice
    | with_reducible apply kept_loseLine | with_reducible apply kept_setLine | with_reducible apply kept_setSliceFence
    | with_reducible apply kept_drainSlice
    | (extract_lets +onlyGivenNames x;
        refine (fun (_ : Kept z0 x) => ?_) ?_; (on_goal 1 => rename' x => y); (on_goal 2 => unfold x; clear x))
    | (extract_lets +onlyGivenNames x; rename' x => y) | split | fail_if_no_progress with_reducible apply kept_upd
    | dsimp +zetaDelta only

theorem kept_ledgerError {z0 : State} {s : State} {sid line e : Nat} (k0 : Kept z0 s) :
    Kept z0 (ledgerError s sid line e) := by
  unfold ledgerError
  repeat' first
    | with_reducible assumption | intro _ | with_reducible apply kept_countUe | with_reducible apply kept_modCrusher
    | (extract_lets +onlyGivenNames x;
        refine (fun (_ : Kept z0 x) => ?_) ?_; (on_goal 1 => rename' x => y); (on_goal 2 => unfold x; clear x))
    | (extract_lets +onlyGivenNames x; rename' x => y) | split | fail_if_no_progress with_reducible apply kept_upd
    | dsimp +zetaDelta only

theorem kept_arrayError {z0 : State} {s : State} {u : ArrayUnit} (k0 : Kept z0 s) :
    Kept z0 (arrayError s u) := by
  unfold arrayError
  repeat' first
    | with_reducible assumption | intro _ | with_reducible apply kept_clusterMemError
    | with_reducible apply kept_sliceDataError | with_reducible apply kept_raiseFatal | with_reducible apply kept_countUe
    | with_reducible apply kept_ledgerError | with_reducible apply kept_modCluster | split
    | fail_if_no_progress with_reducible apply kept_upd

theorem kept_arrayCorrected {z0 : State} {s : State} {u : ArrayUnit} (k0 : Kept z0 s) :
    Kept z0 (arrayCorrected s u) := by
  unfold arrayCorrected
  repeat' first
    | with_reducible assumption | intro _ | with_reducible apply kept_countCe
    | (extract_lets +onlyGivenNames x;
        refine (fun (_ : Kept z0 x) => ?_) ?_; (on_goal 1 => rename' x => y); (on_goal 2 => unfold x; clear x))
    | (extract_lets +onlyGivenNames x; rename' x => y) | split | fail_if_no_progress with_reducible apply kept_upd
    | dsimp +zetaDelta only

theorem kept_execArrayScrub {u : ArrayUnit} {r : EccResult} {s : State} {t0 : State} (e : execArrayScrub u r s = .next t0) :
    Kept s t0 := by
  obtain ⟨-, rfl⟩ := (onUnit_next _ _ _).1 e
  repeat' first
    | with_reducible assumption | with_reducible exact Kept.rfl | intro _ | with_reducible apply kept_arrayCorrected
    | with_reducible apply kept_arrayError | split | fail_if_no_progress with_reducible apply kept_upd

theorem kept_firstTraining {z0 : State} {s : State} {ch : Nat} {ok : Bool} (k0 : Kept z0 s) :
    Kept z0 (firstTraining s ch ok) := by
  unfold firstTraining
  repeat' first
    | with_reducible assumption | intro _ | with_reducible apply kept_modChan | split
    | fail_if_no_progress with_reducible apply kept_upd

theorem kept_execRetrainWindow {ch : Nat} {done ok : Bool} {s : State} {t0 : State} (e : execRetrainWindow ch done ok s =
    .next t0) : Kept s t0 := by
  obtain ⟨-, rfl⟩ := (onUnit_next _ _ _).1 e
  repeat' first
    | with_reducible assumption | with_reducible exact Kept.rfl | intro _ | with_reducible apply kept_firstTraining
    | with_reducible apply kept_modChan | with_reducible apply kept_failStock
    | (extract_lets +onlyGivenNames x;
        refine (fun (_ : Kept s x) => ?_) ?_; (on_goal 1 => rename' x => y); (on_goal 2 => unfold x; clear x))
    | (extract_lets +onlyGivenNames x; rename' x => y) | split | fail_if_no_progress with_reducible apply kept_upd
    | dsimp +zetaDelta only

theorem kept_execFaceRecalibration {ch : Nat} {s : State} {t0 : State} (e : execFaceRecalibration ch s = .next t0) : Kept s t0
    := by
  obtain ⟨-, rfl⟩ := (onUnit_next _ _ _).1 e
  repeat' first
    | with_reducible assumption | with_reducible exact Kept.rfl | intro _ | with_reducible apply kept_modChan | split
    | fail_if_no_progress with_reducible apply kept_upd

theorem kept_execTemperatureReadout {ch : Nat} {tenths : Int} {s : State} {t0 : State} (e : execTemperatureReadout ch tenths s
    = .next t0) : Kept s t0 := by
  obtain ⟨-, rfl⟩ := (onUnit_next _ _ _).1 e
  repeat' first
    | with_reducible assumption | with_reducible exact Kept.rfl | intro _ | with_reducible apply kept_modChan | split
    | fail_if_no_progress with_reducible apply kept_upd

theorem kept_enterSelfRefresh {z0 : State} {s : State} (k0 : Kept z0 s) :
    Kept z0 (enterSelfRefresh s) := by
  unfold enterSelfRefresh
  repeat' first
    | with_reducible assumption | intro _ | with_reducible apply kept_modChan | with_reducible apply kept_foldl | split
    | fail_if_no_progress with_reducible apply kept_upd

theorem kept_leaveSelfRefresh {z0 : State} {s : State} {d : Nat} (k0 : Kept z0 s) :
    Kept z0 (leaveSelfRefresh s d) := by
  unfold leaveSelfRefresh
  repeat' first
    | with_reducible assumption | intro _ | with_reducible apply kept_modChan | with_reducible apply kept_foldl | split
    | fail_if_no_progress with_reducible apply kept_upd

/-! ### SelfTest -/

theorem kept_vacate {z0 : State} {s : State} {cs : List Nat} (k0 : Kept z0 s) :
    Kept z0 (vacate s cs) := by
  unfold vacate
  repeat' first
    | with_reducible assumption | intro _ | with_reducible apply kept_preemptCluster | with_reducible apply kept_foldl
    | with_reducible refine kept_map ‹Option.map _ _ = some _› (fun _ _ => ?_) | split
    | fail_if_no_progress with_reducible apply kept_upd

theorem kept_markTesting {z0 : State} {s : State} {cs : List Nat} {on : Bool} (k0 : Kept z0 s) :
    Kept z0 (markTesting s cs on) := by
  unfold markTesting
  repeat' first
    | with_reducible assumption | intro _ | with_reducible apply kept_modDie | with_reducible apply kept_foldl | split
    | fail_if_no_progress with_reducible apply kept_upd

theorem kept_beginTest {z0 : State} {s : State} {q : Nat} {seq : W32} {scope d cl : Nat} {ledger : Bool} {cs : List Nat} (k0 :
    Kept z0 s) :
    Kept z0 (beginTest s q seq scope d cl ledger cs) := by
  unfold beginTest
  repeat' first
    | with_reducible assumption | intro _ | with_reducible apply kept_modCluster | with_reducible apply kept_modDie
    | with_reducible apply kept_foldl
    | (extract_lets +onlyGivenNames x;
        refine (fun (_ : Kept z0 x) => ?_) ?_; (on_goal 1 => rename' x => y); (on_goal 2 => unfold x; clear x))
    | (extract_lets +onlyGivenNames x; rename' x => y) | split | fail_if_no_progress with_reducible apply kept_upd
    | dsimp +zetaDelta only

theorem kept_execSelfTest {p q : Nat} {seq : W32} {s : State} {t0 : State} (e : execSelfTest p q seq s = .next t0) : Kept s t0
    := by
  obtain ⟨-, rfl⟩ := (onUnit_next _ _ _).1 e
  repeat' first
    | with_reducible assumption | with_reducible exact Kept.rfl | intro _ | with_reducible apply kept_runCmd
    | with_reducible apply kept_finishCmd | with_reducible apply kept_vacate | with_reducible apply kept_markTesting
    | with_reducible apply kept_drainSlice | with_reducible apply kept_beginTest | with_reducible apply kept_foldl
    | (extract_lets +onlyGivenNames x;
        refine (fun (_ : Kept s x) => ?_) ?_; (on_goal 1 => rename' x => y); (on_goal 2 => unfold x; clear x))
    | (extract_lets +onlyGivenNames x; rename' x => y) | split | fail_if_no_progress with_reducible apply kept_upd
    | dsimp +zetaDelta only

theorem kept_returnCluster {z0 : State} {s : State} {c : Nat} {passed : Bool} (k0 : Kept z0 s) :
    Kept z0 (returnCluster s c passed) := by
  unfold returnCluster
  repeat' first
    | with_reducible assumption | intro _ | with_reducible apply kept_modCluster | with_reducible apply kept_returnL
    | with_reducible apply kept_markTesting | with_reducible apply kept_setClusterFence
    | (extract_lets +onlyGivenNames x;
        refine (fun (_ : Kept z0 x) => ?_) ?_; (on_goal 1 => rename' x => y); (on_goal 2 => unfold x; clear x))
    | (extract_lets +onlyGivenNames x; rename' x => y) | split | fail_if_no_progress with_reducible apply kept_upd
    | dsimp +zetaDelta only

theorem kept_returnSlice {z0 : State} {s : State} {i : Nat} {passed : Bool} (k0 : Kept z0 s) :
    Kept z0 (returnSlice s i passed) := by
  unfold returnSlice
  repeat' first
    | with_reducible assumption | intro _ | with_reducible apply kept_setSliceFence | with_reducible apply kept_invalidateSlice
    | (extract_lets +onlyGivenNames x;
        refine (fun (_ : Kept z0 x) => ?_) ?_; (on_goal 1 => rename' x => y); (on_goal 2 => unfold x; clear x))
    | (extract_lets +onlyGivenNames x; rename' x => y) | split | fail_if_no_progress with_reducible apply kept_upd
    | dsimp +zetaDelta only

theorem kept_endTest {z0 : State} {s : State} (k0 : Kept z0 s) :
    Kept z0 (endTest s) := by
  unfold endTest
  repeat' first
    | with_reducible assumption | intro _ | with_reducible apply kept_modDie | with_reducible apply kept_returnCluster
    | with_reducible apply kept_returnSlice | with_reducible apply kept_finishCmd | with_reducible apply kept_foldl
    | (extract_lets +onlyGivenNames x;
        refine (fun (_ : Kept z0 x) => ?_) ?_; (on_goal 1 => rename' x => y); (on_goal 2 => unfold x; clear x))
    | (extract_lets +onlyGivenNames x; rename' x => y) | split | fail_if_no_progress with_reducible apply kept_upd
    | dsimp +zetaDelta only

theorem kept_abandonTest {z0 : State} {s : State} (k0 : Kept z0 s) :
    Kept z0 (abandonTest s) := by
  unfold abandonTest
  repeat' first
    | with_reducible assumption | intro _ | with_reducible apply kept_markTesting
    | (extract_lets +onlyGivenNames x;
        refine (fun (_ : Kept z0 x) => ?_) ?_; (on_goal 1 => rename' x => y); (on_goal 2 => unfold x; clear x))
    | (extract_lets +onlyGivenNames x; rename' x => y) | split | fail_if_no_progress with_reducible apply kept_upd
    | dsimp +zetaDelta only

theorem kept_failUnit {z0 : State} {s : State} {u : TestUnit} {cause : Nat} (k0 : Kept z0 s) :
    Kept z0 (failUnit s u cause) := by
  unfold failUnit
  repeat' first
    | with_reducible assumption | intro _ | with_reducible apply kept_setClusterFence | with_reducible apply kept_setSliceFence
    | with_reducible apply kept_drainSlice | with_reducible apply kept_setDieHeld | split
    | fail_if_no_progress with_reducible apply kept_upd

theorem kept_noteFailure {z0 : State} {s : State} {u : TestUnit} (k0 : Kept z0 s) :
    Kept z0 (noteFailure s u) := by
  unfold noteFailure
  repeat' first | with_reducible assumption | intro _ | split | fail_if_no_progress with_reducible apply kept_upd

theorem kept_testPart {z0 : State} {s : State} {u : TestUnit} {half cause : Nat} {pass : Bool} (k0 : Kept z0 s) :
    Kept z0 (testPart s u half cause pass) := by
  unfold testPart
  repeat' first
    | with_reducible assumption | intro _ | with_reducible apply kept_failUnit | with_reducible apply kept_noteFailure
    | with_reducible apply kept_endTest
    | (extract_lets +onlyGivenNames x;
        refine (fun (_ : Kept z0 x) => ?_) ?_; (on_goal 1 => rename' x => y); (on_goal 2 => unfold x; clear x))
    | (extract_lets +onlyGivenNames x; rename' x => y) | split | fail_if_no_progress with_reducible apply kept_upd
    | dsimp +zetaDelta only

theorem kept_settleLedger {z0 : State} {s : State} (k0 : Kept z0 s) :
    Kept z0 (settleLedger s) := by
  unfold settleLedger
  repeat' first
    | with_reducible assumption | intro _
    | (extract_lets +onlyGivenNames x;
        refine (fun (_ : Kept z0 x) => ?_) ?_; (on_goal 1 => rename' x => y); (on_goal 2 => unfold x; clear x))
    | (extract_lets +onlyGivenNames x; rename' x => y) | split | fail_if_no_progress with_reducible apply kept_upd
    | dsimp +zetaDelta only

theorem kept_enterService {z0 : State} {s : State} {d : Nat} (k0 : Kept z0 s) :
    Kept z0 (enterService s d) := by
  unfold enterService
  repeat' first
    | with_reducible assumption | intro _ | with_reducible apply kept_setDie
    | (extract_lets +onlyGivenNames x;
        refine (fun (_ : Kept z0 x) => ?_) ?_; (on_goal 1 => rename' x => y); (on_goal 2 => unfold x; clear x))
    | (extract_lets +onlyGivenNames x; rename' x => y) | split | fail_if_no_progress with_reducible apply kept_upd
    | dsimp +zetaDelta only

theorem kept_execLogicSelfTestDone {u : TestUnit} {pass : Bool} {s : State} {t0 : State} (e : execLogicSelfTestDone u pass s =
    .next t0) : Kept s t0 := by
  obtain ⟨-, rfl⟩ := (onUnit_next _ _ _).1 e
  repeat' first
    | with_reducible assumption | with_reducible exact Kept.rfl | intro _ | with_reducible apply kept_testPart
    | with_reducible apply kept_settleLedger | with_reducible apply kept_failUnit | with_reducible apply kept_enterService
    | with_reducible apply kept_modDie | with_reducible apply kept_leaveSelfRefresh | split
    | fail_if_no_progress with_reducible apply kept_upd

theorem kept_ledgerPart {z0 : State} {s : State} {u : TestUnit} {crusher pass : Bool} (k0 : Kept z0 s) :
    Kept z0 (ledgerPart s u crusher pass) := by
  unfold ledgerPart
  repeat' first
    | with_reducible assumption | intro _ | with_reducible apply kept_failUnit | with_reducible apply kept_enterService
    | with_reducible apply kept_modDie
    | (extract_lets +onlyGivenNames x;
        refine (fun (_ : Kept z0 x) => ?_) ?_; (on_goal 1 => rename' x => y); (on_goal 2 => unfold x; clear x))
    | (extract_lets +onlyGivenNames x; rename' x => y) | split | fail_if_no_progress with_reducible apply kept_upd
    | dsimp +zetaDelta only

theorem kept_execLedgerSelfTestDone {u : TestUnit} {crusher pass : Bool} {s : State} {t0 : State} (e : execLedgerSelfTestDone
    u crusher pass s = .next t0) : Kept s t0 := by
  obtain ⟨-, rfl⟩ := (onUnit_next _ _ _).1 e
  repeat' first
    | with_reducible assumption | with_reducible exact Kept.rfl | intro _ | with_reducible apply kept_testPart
    | with_reducible apply kept_settleLedger | with_reducible apply kept_ledgerPart | split
    | fail_if_no_progress with_reducible apply kept_upd

/-! ### Lifecycle -/

theorem kept_endTraining {z0 : State} {s : State} (k0 : Kept z0 s) :
    Kept z0 (endTraining s) := by
  unfold endTraining
  repeat' first
    | with_reducible assumption | intro _ | with_reducible apply kept_linkHeld | with_reducible apply kept_holdByLink
    | with_reducible apply kept_foldl
    | (extract_lets +onlyGivenNames x;
        refine (fun (_ : Kept z0 x) => ?_) ?_; (on_goal 1 => rename' x => y); (on_goal 2 => unfold x; clear x))
    | (extract_lets +onlyGivenNames x; rename' x => y) | split | fail_if_no_progress with_reducible apply kept_upd
    | dsimp +zetaDelta only

theorem kept_formSet {z0 : State} {s : State} (k0 : Kept z0 s) :
    Kept z0 (formSet s) := by
  unfold formSet
  repeat' first
    | with_reducible assumption | intro _ | with_reducible apply kept_foldl
    | (extract_lets +onlyGivenNames x;
        refine (fun (_ : Kept z0 x) => ?_) ?_; (on_goal 1 => rename' x => y); (on_goal 2 => unfold x; clear x))
    | (extract_lets +onlyGivenNames x; rename' x => y) | split | fail_if_no_progress with_reducible apply kept_upd
    | dsimp +zetaDelta only

theorem kept_sendKeys {z0 : State} {s : State} (k0 : Kept z0 s) :
    Kept z0 (sendKeys s) := by
  unfold sendKeys
  repeat' first
    | with_reducible assumption | intro _ | with_reducible apply kept_modDie | with_reducible apply kept_emits
    | with_reducible apply kept_foldl
    | (extract_lets +onlyGivenNames x;
        refine (fun (_ : Kept z0 x) => ?_) ?_; (on_goal 1 => rename' x => y); (on_goal 2 => unfold x; clear x))
    | (extract_lets +onlyGivenNames x; rename' x => y)
    | with_reducible refine kept_map ‹Option.map _ _ = some _› (fun _ _ => ?_) | split
    | fail_if_no_progress with_reducible apply kept_upd | dsimp +zetaDelta only

theorem kept_resetCaches {z0 : State} {s : State} (k0 : Kept z0 s) :
    Kept z0 (resetCaches s) := by
  unfold resetCaches
  repeat' first
    | with_reducible assumption | intro _ | with_reducible apply kept_modSlice | with_reducible apply kept_invalidateSlice
    | with_reducible apply kept_modCluster | with_reducible apply kept_foldl
    | (extract_lets +onlyGivenNames x;
        refine (fun (_ : Kept z0 x) => ?_) ?_; (on_goal 1 => rename' x => y); (on_goal 2 => unfold x; clear x))
    | (extract_lets +onlyGivenNames x; rename' x => y) | split | fail_if_no_progress with_reducible apply kept_upd
    | dsimp +zetaDelta only

theorem kept_applyJournalRecord {z0 : State} {s : State} {r : JRec} (k0 : Kept z0 s) :
    Kept z0 (applyJournalRecord s r) := by
  unfold applyJournalRecord
  repeat' first
    | with_reducible assumption | intro _ | with_reducible apply kept_addJournal | with_reducible apply kept_modDie
    | (extract_lets +onlyGivenNames x;
        refine (fun (_ : Kept z0 x) => ?_) ?_; (on_goal 1 => rename' x => y); (on_goal 2 => unfold x; clear x))
    | (extract_lets +onlyGivenNames x; rename' x => y) | with_reducible refine kept_getD (fun _ _ => ?_) ?_ | split
    | fail_if_no_progress with_reducible apply kept_upd | dsimp +zetaDelta only

theorem kept_applyJournal {z0 : State} {s : State} (k0 : Kept z0 s) :
    Kept z0 (applyJournal s) := by
  unfold applyJournal
  repeat' first
    | with_reducible assumption | intro _ | with_reducible apply kept_applyJournalRecord | with_reducible apply kept_foldl
    | split | fail_if_no_progress with_reducible apply kept_upd

theorem kept_trainStock {z0 : State} {s : State} (k0 : Kept z0 s) :
    Kept z0 (trainStock s) := by
  unfold trainStock
  repeat' first
    | with_reducible assumption | intro _ | with_reducible apply kept_modChan | with_reducible apply kept_foldl
    | (extract_lets +onlyGivenNames x;
        refine (fun (_ : Kept z0 x) => ?_) ?_; (on_goal 1 => rename' x => y); (on_goal 2 => unfold x; clear x))
    | (extract_lets +onlyGivenNames x; rename' x => y) | split | fail_if_no_progress with_reducible apply kept_upd
    | dsimp +zetaDelta only

theorem kept_startDies {z0 : State} {s : State} (k0 : Kept z0 s) :
    Kept z0 (startDies s) := by
  unfold startDies
  repeat' first
    | with_reducible assumption | intro _ | with_reducible apply kept_modDie | with_reducible apply kept_foldl
    | (extract_lets +onlyGivenNames x;
        refine (fun (_ : Kept z0 x) => ?_) ?_; (on_goal 1 => rename' x => y); (on_goal 2 => unfold x; clear x))
    | (extract_lets +onlyGivenNames x; rename' x => y) | split | fail_if_no_progress with_reducible apply kept_upd
    | dsimp +zetaDelta only

theorem kept_applyQueues {z0 : State} {s : State} (k0 : Kept z0 s) :
    Kept z0 (applyQueues s) := by
  unfold applyQueues
  repeat' first
    | with_reducible assumption | intro _ | with_reducible apply kept_setQueue | with_reducible apply kept_foldl
    | (extract_lets +onlyGivenNames x;
        refine (fun (_ : Kept z0 x) => ?_) ?_; (on_goal 1 => rename' x => y); (on_goal 2 => unfold x; clear x))
    | (extract_lets +onlyGivenNames x; rename' x => y) | split | fail_if_no_progress with_reducible apply kept_upd
    | dsimp +zetaDelta only

theorem kept_applyClusters {z0 : State} {s : State} (k0 : Kept z0 s) :
    Kept z0 (applyClusters s) := by
  unfold applyClusters
  repeat' first
    | with_reducible assumption | intro _ | with_reducible apply kept_modCluster | with_reducible apply kept_foldl | split
    | fail_if_no_progress with_reducible apply kept_upd

theorem kept_coldStart {z0 : State} {s : State} (k0 : Kept z0 s) :
    Kept z0 (coldStart s) := by
  unfold coldStart
  repeat' first
    | with_reducible assumption | intro _ | with_reducible apply kept_startDies | with_reducible apply kept_endTraining
    | with_reducible apply kept_applyJournal | with_reducible apply kept_applyClusters | with_reducible apply kept_applyQueues
    | with_reducible apply kept_selectSlot | with_reducible apply kept_trainStock | with_reducible apply kept_sendKeys
    | with_reducible apply kept_formSet | with_reducible apply kept_generateKeys | with_reducible apply kept_resetCaches
    | (extract_lets +onlyGivenNames x;
        refine (fun (_ : Kept z0 x) => ?_) ?_; (on_goal 1 => rename' x => y); (on_goal 2 => unfold x; clear x))
    | (extract_lets +onlyGivenNames x; rename' x => y) | split | fail_if_no_progress with_reducible apply kept_upd
    | refine kept_upd_all ?_ (hm := ?_) | with_reducible exact wf_nil | with_reducible exact memPutLine_wf _ _ _ ‹_›
    | with_reducible exact writeBytes_wf _ _ ‹_› | exact wf_filter _ ‹_› | exact foldl_writeByte_wf _ _ _ (wf_filter _ ‹_›)
    | exact id | dsimp +zetaDelta only

theorem kept_execColdStart {s : State} {t0 : State} (e : execColdStart s = .next t0) : Kept s t0 := by
  obtain ⟨-, rfl⟩ := (onUnit_next _ _ _).1 e
  repeat' first
    | with_reducible assumption | with_reducible exact Kept.rfl | intro _ | with_reducible apply kept_coldStart | split
    | fail_if_no_progress with_reducible apply kept_upd

theorem kept_execReducedService {s : State} {t0 : State} (e : execReducedService s = .next t0) : Kept s t0 := by
  obtain ⟨-, rfl⟩ := (onUnit_next _ _ _).1 e
  repeat' first
    | with_reducible assumption | with_reducible exact Kept.rfl | intro _ | split
    | fail_if_no_progress with_reducible apply kept_upd

theorem kept_execFullService {s : State} {t0 : State} (e : execFullService s = .next t0) : Kept s t0 := by
  obtain ⟨-, rfl⟩ := (onUnit_next _ _ _).1 e
  repeat' first
    | with_reducible assumption | with_reducible exact Kept.rfl | intro _ | with_reducible apply kept_runPass
    | with_reducible apply kept_returnAllL | split | fail_if_no_progress with_reducible apply kept_upd

theorem kept_execOscillatorCheck {d : Nat} {ppm : Int} {stopped : Bool} {s : State} {t0 : State} (e : execOscillatorCheck d
    ppm stopped s = .next t0) : Kept s t0 := by
  obtain ⟨-, rfl⟩ := (onUnit_next _ _ _).1 e
  repeat' first
    | with_reducible assumption | with_reducible exact Kept.rfl | intro _ | with_reducible apply kept_raiseFatal
    | with_reducible apply kept_modDie | split | fail_if_no_progress with_reducible apply kept_upd

theorem kept_execWatchdogExpiry {d : Nat} {face : Bool} {s : State} {t0 : State} (e : execWatchdogExpiry d face s = .next t0)
    : Kept s t0 := by
  obtain ⟨-, rfl⟩ := (onUnit_next _ _ _).1 e
  repeat' first
    | with_reducible assumption | with_reducible exact Kept.rfl | intro _ | with_reducible apply kept_raiseFatal
    | with_reducible apply kept_modDie | split | fail_if_no_progress with_reducible apply kept_upd

theorem kept_execFirmwareWatchdog {s : State} {t0 : State} (e : execFirmwareWatchdog s = .next t0) : Kept s t0 := by
  obtain ⟨-, rfl⟩ := (onUnit_next _ _ _).1 e
  repeat' first
    | with_reducible assumption | with_reducible exact Kept.rfl | intro _ | with_reducible apply kept_raiseFatal | split
    | fail_if_no_progress with_reducible apply kept_upd

theorem kept_discardAllOpen {z0 : State} {s : State} (k0 : Kept z0 s) :
    Kept z0 (discardAllOpen s) := by
  unfold discardAllOpen
  repeat' first
    | with_reducible assumption | intro _ | with_reducible apply kept_discardOpen | with_reducible apply kept_foldl | split
    | fail_if_no_progress with_reducible apply kept_upd

theorem kept_writeOut {z0 : State} {s : State} (k0 : Kept z0 s) :
    Kept z0 (writeOut s) := by
  unfold writeOut
  repeat' first
    | with_reducible assumption | intro _ | with_reducible apply kept_homeStore | with_reducible apply kept_memStoreLine
    | with_reducible apply kept_foldl
    | (extract_lets +onlyGivenNames x;
        refine (fun (_ : Kept z0 x) => ?_) ?_; (on_goal 1 => rename' x => y); (on_goal 2 => unfold x; clear x))
    | (extract_lets +onlyGivenNames x; rename' x => y) | split | fail_if_no_progress with_reducible apply kept_upd
    | dsimp +zetaDelta only

theorem kept_markFates {z0 : State} {s : State} (k0 : Kept z0 s) :
    Kept z0 (markFates s) := by
  unfold markFates
  repeat' first
    | with_reducible assumption | intro _ | with_reducible apply kept_modCmd | with_reducible apply kept_foldl | split
    | dsimp +zetaDelta only

theorem kept_loseRunning {z0 : State} {s : State} (k0 : Kept z0 s) :
    Kept z0 (loseRunning s) := by
  unfold loseRunning
  repeat' first
    | with_reducible assumption | intro _
    | (extract_lets +onlyGivenNames x;
        refine (fun (_ : Kept z0 x) => ?_) ?_; (on_goal 1 => rename' x => y); (on_goal 2 => unfold x; clear x))
    | (extract_lets +onlyGivenNames x; rename' x => y)
    | with_reducible refine kept_map ‹Option.map _ _ = some _› (fun _ _ => ?_) | split | refine kept_upd_all ?_ (hm := ?_)
    | with_reducible exact wf_nil | with_reducible exact memPutLine_wf _ _ _ ‹_› | with_reducible exact writeBytes_wf _ _ ‹_›
    | exact wf_filter _ ‹_› | exact foldl_writeByte_wf _ _ _ (wf_filter _ ‹_›) | exact id | dsimp +zetaDelta only

theorem kept_retrainLinks {z0 : State} {s : State} (k0 : Kept z0 s) :
    Kept z0 (retrainLinks s) := by
  unfold retrainLinks
  repeat' first
    | with_reducible assumption | intro _ | with_reducible apply kept_setLink | with_reducible apply kept_foldl
    | (extract_lets +onlyGivenNames x;
        refine (fun (_ : Kept z0 x) => ?_) ?_; (on_goal 1 => rename' x => y); (on_goal 2 => unfold x; clear x))
    | (extract_lets +onlyGivenNames x; rename' x => y) | split | fail_if_no_progress with_reducible apply kept_upd
    | dsimp +zetaDelta only

theorem kept_judgeDie {z0 : State} {s : State} {dies : BitVec 9} {d : Nat} (k0 : Kept z0 s) :
    Kept z0 (judgeDie s dies d) := by
  unfold judgeDie
  repeat' first
    | with_reducible assumption | intro _ | with_reducible apply kept_setDieHeld | with_reducible apply kept_setDie
    | with_reducible apply kept_modDie | with_reducible apply kept_leaveSelfRefresh
    | (extract_lets +onlyGivenNames x;
        refine (fun (_ : Kept z0 x) => ?_) ?_; (on_goal 1 => rename' x => y); (on_goal 2 => unfold x; clear x))
    | (extract_lets +onlyGivenNames x; rename' x => y) | split | fail_if_no_progress with_reducible apply kept_upd
    | dsimp +zetaDelta only

theorem kept_contain {z0 : State} {s : State} {cause attempt : Nat} {dies : BitVec 9} (k0 : Kept z0 s) :
    Kept z0 (contain s cause attempt dies) := by
  unfold contain
  repeat' first
    | with_reducible assumption | intro _ | with_reducible apply kept_abandonTest | with_reducible apply kept_closeUpdate
    | with_reducible apply kept_markSlot
    | (extract_lets +onlyGivenNames x;
        refine (fun (_ : Kept z0 x) => ?_) ?_; (on_goal 1 => rename' x => y); (on_goal 2 => unfold x; clear x))
    | (extract_lets +onlyGivenNames x; rename' x => y) | split | fail_if_no_progress with_reducible apply kept_upd
    | dsimp +zetaDelta only

theorem kept_restartAttempt {z0 : State} {s : State} {cause attempt : Nat} {dies : BitVec 9} (k0 : Kept z0 s) :
    Kept z0 (restartAttempt s cause attempt dies) := by
  unfold restartAttempt
  repeat' first
    | with_reducible assumption | intro _ | with_reducible apply kept_markFates | with_reducible apply kept_contain
    | with_reducible apply kept_loseRunning | with_reducible apply kept_enterSelfRefresh | with_reducible apply kept_writeOut
    | with_reducible apply kept_discardAllOpen | with_reducible apply kept_retrainLinks | with_reducible apply kept_forceRows
    | with_reducible apply kept_judgeDie | with_reducible apply kept_resetCaches | with_reducible apply kept_sendKeys
    | with_reducible apply kept_formSet | with_reducible apply kept_foldl
    | (extract_lets +onlyGivenNames x;
        refine (fun (_ : Kept z0 x) => ?_) ?_; (on_goal 1 => rename' x => y); (on_goal 2 => unfold x; clear x))
    | (extract_lets +onlyGivenNames x; rename' x => y) | split | fail_if_no_progress with_reducible apply kept_upd
    | dsimp +zetaDelta only

theorem kept_execDomainFatal {cause : Byte} {suspects : BitVec 9} {s : State} {t0 : State} (e : execDomainFatal cause suspects
    s = .next t0) : Kept s t0 := by
  obtain ⟨-, rfl⟩ := (onUnit_next _ _ _).1 e
  repeat' first
    | with_reducible assumption | with_reducible exact Kept.rfl | intro _ | with_reducible apply kept_beginCold
    | with_reducible apply kept_restartAttempt
    | (extract_lets +onlyGivenNames x;
        refine (fun (_ : Kept s x) => ?_) ?_; (on_goal 1 => rename' x => y); (on_goal 2 => unfold x; clear x))
    | (extract_lets +onlyGivenNames x; rename' x => y) | split | fail_if_no_progress with_reducible apply kept_upd
    | dsimp +zetaDelta only

theorem kept_dispose {z0 : State} {unreadable : List Nat} {p : Nat} {s : State} {qc : Nat × Cmd} (k0 : Kept z0 s) :
    Kept z0 (dispose unreadable p s qc) := by
  unfold dispose
  repeat' first
    | with_reducible assumption | intro _ | with_reducible apply kept_modCmd | with_reducible apply kept_modLaunch
    | with_reducible apply kept_emit | with_reducible apply kept_finishCmd | with_reducible apply kept_dropLaunch
    | (extract_lets +onlyGivenNames x;
        refine (fun (_ : Kept z0 x) => ?_) ?_; (on_goal 1 => rename' x => y); (on_goal 2 => unfold x; clear x))
    | (extract_lets +onlyGivenNames x; rename' x => y) | split | fail_if_no_progress with_reducible apply kept_upd
    | dsimp +zetaDelta only

theorem kept_writeGenerations {z0 : State} {s : State} (k0 : Kept z0 s) :
    Kept z0 (writeGenerations s) := by
  unfold writeGenerations
  repeat' first
    | with_reducible assumption | intro _ | with_reducible refine kept_map ‹Option.map _ _ = some _› (fun _ _ => ?_) | split
    | fail_if_no_progress with_reducible apply kept_upd

theorem kept_releaseAfter {z0 : State} {s : State} {p : Nat} {e : List Byte} (k0 : Kept z0 s) :
    Kept z0 (releaseAfter s p e) := by
  unfold releaseAfter
  repeat' first
    | with_reducible assumption | intro _ | with_reducible apply kept_modPart | with_reducible apply kept_releaseEvents
    | (extract_lets +onlyGivenNames x;
        refine (fun (_ : Kept z0 x) => ?_) ?_; (on_goal 1 => rename' x => y); (on_goal 2 => unfold x; clear x))
    | (extract_lets +onlyGivenNames x; rename' x => y) | split | fail_if_no_progress with_reducible apply kept_upd
    | dsimp +zetaDelta only

theorem kept_resumeService {z0 : State} {s : State} {unreadable : List Nat} (k0 : Kept z0 s) :
    Kept z0 (resumeService s unreadable) := by
  unfold resumeService
  repeat' first
    | with_reducible assumption | intro _ | with_reducible apply kept_endTraining | with_reducible apply kept_formSet
    | with_reducible apply kept_runPass | with_reducible apply kept_writeGenerations | with_reducible apply kept_dispose
    | with_reducible apply kept_releaseAfter | with_reducible apply kept_pumpQp | with_reducible apply kept_addJournal
    | with_reducible apply kept_foldl
    | (extract_lets +onlyGivenNames x;
        refine (fun (_ : Kept z0 x) => ?_) ?_; (on_goal 1 => rename' x => y); (on_goal 2 => unfold x; clear x))
    | (extract_lets +onlyGivenNames x; rename' x => y)
    | with_reducible refine kept_map ‹Option.map _ _ = some _› (fun _ _ => ?_) | split
    | fail_if_no_progress with_reducible apply kept_upd | dsimp +zetaDelta only

theorem kept_execRestartResume {unreadable : List Nat} {s : State} {t0 : State} (e : execRestartResume unreadable s = .next
    t0) : Kept s t0 := by
  obtain ⟨-, rfl⟩ := (onUnit_next _ _ _).1 e
  repeat' first
    | with_reducible assumption | with_reducible exact Kept.rfl | intro _ | with_reducible apply kept_resumeService | split
    | fail_if_no_progress with_reducible apply kept_upd

/-! ### Transfers -/

theorem kept_readLine {z0 : State} {s : State} {line attr : Nat} (k0 : Kept z0 s) :
    Kept z0 (readLine s line attr).1 := by
  unfold readLine
  repeat' first
    | with_reducible assumption | intro _ | with_reducible apply kept_agentRead | split
    | fail_if_no_progress with_reducible apply kept_upd | dsimp +zetaDelta only

theorem kept_writeLine {z0 : State} {s : State} {line : Nat} {be : BitVec 128} {d : Line} {attr : Nat} (k0 : Kept z0 s) :
    Kept z0 (writeLine s line be d attr) := by
  unfold writeLine
  repeat' first
    | with_reducible assumption | intro _ | with_reducible apply kept_writePhys | with_reducible apply kept_regWriteLine
    | with_reducible apply kept_coherentWrite | with_reducible apply kept_foldl | split
    | fail_if_no_progress with_reducible apply kept_upd

theorem kept_startDescriptor {z0 : State} {s : State} {t : Task} {b : List Byte} (k0 : Kept z0 s) :
    Kept z0 (startDescriptor s t b) := by
  unfold startDescriptor
  repeat' first
    | with_reducible assumption | intro _ | with_reducible apply kept_engineFail | with_reducible apply kept_modTask
    | with_reducible apply kept_emits
    | (extract_lets +onlyGivenNames x;
        refine (fun (_ : Kept z0 x) => ?_) ?_; (on_goal 1 => rename' x => y); (on_goal 2 => unfold x; clear x))
    | (extract_lets +onlyGivenNames x; rename' x => y)
    | with_reducible refine kept_map ‹Option.map _ _ = some _› (fun _ _ => ?_) | split
    | fail_if_no_progress with_reducible apply kept_upd | dsimp +zetaDelta only

theorem kept_execDmaDescriptor {task : Nat} {s : State} {t0 : State} (e : execDmaDescriptor task s = .next t0) : Kept s t0 := by
  obtain ⟨-, rfl⟩ := (onUnit_next _ _ _).1 e
  repeat' first
    | with_reducible assumption | with_reducible exact Kept.rfl | intro _ | with_reducible apply kept_engineFail
    | with_reducible apply kept_startDescriptor | with_reducible apply kept_engineFetch | with_reducible apply kept_agentReads
    | (extract_lets +onlyGivenNames x;
        refine (fun (_ : Kept s x) => ?_) ?_; (on_goal 1 => rename' x => y); (on_goal 2 => unfold x; clear x))
    | (extract_lets +onlyGivenNames x; rename' x => y) | split | fail_if_no_progress with_reducible apply kept_upd
    | dsimp +zetaDelta only

theorem kept_execDmaRd {task line : Nat} {sectors : BitVec 4} {s : State} {t0 : State} (e : execDmaRd task line sectors s =
    .next t0) : Kept s t0 := by
  obtain ⟨-, rfl⟩ := (onUnit_next _ _ _).1 e
  repeat' first
    | with_reducible assumption | with_reducible exact Kept.rfl | intro _ | with_reducible apply kept_engineFail
    | with_reducible apply kept_readRemote | with_reducible apply kept_engineAccess | with_reducible apply kept_readLine
    | with_reducible apply kept_engineData | with_reducible refine kept_of_fst ‹_ = (_, _)› ?_
    | with_reducible refine kept_of_snd ‹_ = (_, _)› ?_
    | (extract_lets +onlyGivenNames x;
        refine (fun (_ : Kept s x) => ?_) ?_; (on_goal 1 => rename' x => y); (on_goal 2 => unfold x; clear x))
    | (extract_lets +onlyGivenNames x; rename' x => y) | with_reducible refine kept_getD (fun _ _ => ?_) ?_
    | with_reducible refine kept_map ‹Option.map _ _ = some _› (fun _ _ => ?_) | split
    | fail_if_no_progress with_reducible apply kept_upd | dsimp +zetaDelta only

theorem kept_engineStore {z0 : State} {s : State} {t : Task} {line : Nat} {be : BitVec 128} {d : Line} {attr : Nat} (k0 : Kept
    z0 s) :
    Kept z0 (engineStore s t line be d attr) := by
  unfold engineStore
  repeat' first
    | with_reducible assumption | intro _ | with_reducible apply kept_engineFail | with_reducible apply kept_engineWrite
    | with_reducible apply kept_engineWrote | with_reducible apply kept_writeLine | split
    | fail_if_no_progress with_reducible apply kept_upd

theorem kept_execDmaWr {task line : Nat} {be : BitVec 128} {data : Line} {s : State} {t0 : State} (e : execDmaWr task line be
    data s = .next t0) : Kept s t0 := by
  obtain ⟨-, rfl⟩ := (onUnit_next _ _ _).1 e
  repeat' first
    | with_reducible assumption | with_reducible exact Kept.rfl | intro _ | with_reducible apply kept_engineStore
    | (extract_lets +onlyGivenNames x;
        refine (fun (_ : Kept s x) => ?_) ?_; (on_goal 1 => rename' x => y); (on_goal 2 => unfold x; clear x))
    | (extract_lets +onlyGivenNames x; rename' x => y) | with_reducible refine kept_getD (fun _ _ => ?_) ?_
    | with_reducible refine kept_map ‹Option.map _ _ = some _› (fun _ _ => ?_) | split
    | fail_if_no_progress with_reducible apply kept_upd | dsimp +zetaDelta only

theorem kept_collPart {z0 : State} {s : State} {t : Task} {n : List Byte} {line : Nat} {be : BitVec 128} {d : Line} (k0 : Kept
    z0 s) :
    Kept z0 (collPart s t n line be d) := by
  unfold collPart
  repeat' first
    | with_reducible assumption | intro _ | with_reducible apply kept_engineStore | with_reducible apply kept_enginePackets
    | with_reducible apply kept_emit
    | (extract_lets +onlyGivenNames x;
        refine (fun (_ : Kept z0 x) => ?_) ?_; (on_goal 1 => rename' x => y); (on_goal 2 => unfold x; clear x))
    | (extract_lets +onlyGivenNames x; rename' x => y) | split | fail_if_no_progress with_reducible apply kept_upd
    | dsimp +zetaDelta only

theorem kept_execColl {task line : Nat} {d : CollData} {s : State} {t0 : State} (e : execColl task line d s = .next t0) : Kept
    s t0 := by
  obtain ⟨-, rfl⟩ := (onUnit_next _ _ _).1 e
  repeat' first
    | with_reducible assumption | with_reducible exact Kept.rfl | intro _ | with_reducible apply kept_engineStore
    | with_reducible apply kept_engineFail | with_reducible apply kept_collPart | with_reducible apply kept_enginePackets
    | (extract_lets +onlyGivenNames x;
        refine (fun (_ : Kept s x) => ?_) ?_; (on_goal 1 => rename' x => y); (on_goal 2 => unfold x; clear x))
    | (extract_lets +onlyGivenNames x; rename' x => y) | with_reducible refine kept_getD (fun _ _ => ?_) ?_
    | with_reducible refine kept_map ‹Option.map _ _ = some _› (fun _ _ => ?_) | split
    | fail_if_no_progress with_reducible apply kept_upd | dsimp +zetaDelta only

theorem kept_engineArrive {z0 : State} {s : State} {t : Task} {finished : Bool} (k0 : Kept z0 s) :
    Kept z0 (engineArrive s t finished) := by
  unfold engineArrive
  repeat' first
    | with_reducible assumption | intro _ | with_reducible apply kept_taskDone | with_reducible apply kept_flushWindows
    | with_reducible apply kept_closeTask | split | fail_if_no_progress with_reducible apply kept_upd

theorem kept_execDmaDone {task : Nat} {s : State} {t0 : State} (e : execDmaDone task s = .next t0) : Kept s t0 := by
  obtain ⟨-, rfl⟩ := (onUnit_next _ _ _).1 e
  repeat' first
    | with_reducible assumption | with_reducible exact Kept.rfl | intro _ | with_reducible apply kept_engineArrive
    | (extract_lets +onlyGivenNames x;
        refine (fun (_ : Kept s x) => ?_) ?_; (on_goal 1 => rename' x => y); (on_goal 2 => unfold x; clear x))
    | (extract_lets +onlyGivenNames x; rename' x => y) | with_reducible refine kept_getD (fun _ _ => ?_) ?_
    | with_reducible refine kept_map ‹Option.map _ _ = some _› (fun _ _ => ?_) | split
    | fail_if_no_progress with_reducible apply kept_upd | dsimp +zetaDelta only

theorem kept_execCollDone {task : Nat} {s : State} {t0 : State} (e : execCollDone task s = .next t0) : Kept s t0 := by
  obtain ⟨-, rfl⟩ := (onUnit_next _ _ _).1 e
  repeat' first
    | with_reducible assumption | with_reducible exact Kept.rfl | intro _ | with_reducible apply kept_engineArrive | split
    | fail_if_no_progress with_reducible apply kept_upd

theorem kept_execEnqRec {p q tag : Nat} {words : List W64} {s : State} {t0 : State} (e : execEnqRec p q tag words s = .next
    t0) : Kept s t0 := by
  obtain ⟨-, rfl⟩ := (onUnit_next _ _ _).1 e
  repeat' first
    | with_reducible assumption | with_reducible exact Kept.rfl | intro _ | with_reducible apply kept_agentWrite
    | with_reducible apply kept_modQueue | with_reducible apply kept_answerWrite
    | (extract_lets +onlyGivenNames x;
        refine (fun (_ : Kept s x) => ?_) ?_; (on_goal 1 => rename' x => y); (on_goal 2 => unfold x; clear x))
    | (extract_lets +onlyGivenNames x; rename' x => y) | with_reducible refine kept_getD (fun _ _ => ?_) ?_ | split
    | fail_if_no_progress with_reducible apply kept_upd | dsimp +zetaDelta only

theorem kept_readAt {z0 : State} {s : State} {p tag line : Nat} {sectors : BitVec 4} (k0 : Kept z0 s) :
    Kept z0 (readAt s p tag line sectors) := by
  unfold readAt
  repeat' first
    | with_reducible assumption | intro _ | with_reducible apply kept_refuseRead | with_reducible apply kept_readLine
    | with_reducible apply kept_answerRead | with_reducible refine kept_of_fst ‹_ = (_, _)› ?_
    | with_reducible refine kept_of_snd ‹_ = (_, _)› ?_ | split | fail_if_no_progress with_reducible apply kept_upd
    | dsimp +zetaDelta only

theorem kept_writeAt {z0 : State} {s : State} {p tag line : Nat} {be : BitVec 128} {d : Line} (k0 : Kept z0 s) :
    Kept z0 (writeAt s p tag line be d) := by
  unfold writeAt
  repeat' first
    | with_reducible assumption | intro _ | with_reducible apply kept_answerWrite | with_reducible apply kept_writeLine | split
    | fail_if_no_progress with_reducible apply kept_upd

theorem kept_execRdWin {p tag line : Nat} {sectors : BitVec 4} {s : State} {t0 : State} (e : execRdWin p tag line sectors s =
    .next t0) : Kept s t0 := by
  obtain ⟨-, rfl⟩ := (onUnit_next _ _ _).1 e
  repeat' first
    | with_reducible assumption | with_reducible exact Kept.rfl | intro _ | with_reducible apply kept_readAt | split
    | fail_if_no_progress with_reducible apply kept_upd

theorem kept_execWrWin {p tag line : Nat} {be : BitVec 128} {data : Line} {s : State} {t0 : State} (e : execWrWin p tag line
    be data s = .next t0) : Kept s t0 := by
  obtain ⟨-, rfl⟩ := (onUnit_next _ _ _).1 e
  repeat' first
    | with_reducible assumption | with_reducible exact Kept.rfl | intro _ | with_reducible apply kept_writeAt | split
    | fail_if_no_progress with_reducible apply kept_upd

theorem kept_execRdReg {p tag line : Nat} {sectors : BitVec 4} {s : State} {t0 : State} (e : execRdReg p tag line sectors s =
    .next t0) : Kept s t0 := by
  obtain ⟨-, rfl⟩ := (onUnit_next _ _ _).1 e
  repeat' first
    | with_reducible assumption | with_reducible exact Kept.rfl | intro _ | with_reducible apply kept_readAt | split
    | fail_if_no_progress with_reducible apply kept_upd

theorem kept_execWrReg {p tag line : Nat} {be : BitVec 128} {data : Line} {s : State} {t0 : State} (e : execWrReg p tag line
    be data s = .next t0) : Kept s t0 := by
  obtain ⟨-, rfl⟩ := (onUnit_next _ _ _).1 e
  repeat' first
    | with_reducible assumption | with_reducible exact Kept.rfl | intro _ | with_reducible apply kept_writeAt | split
    | fail_if_no_progress with_reducible apply kept_upd

theorem kept_execRdRem {p tag line : Nat} {sectors : BitVec 4} {attr : Nat} {s : State} {t0 : State} (e : execRdRem p tag line
    sectors attr s = .next t0) : Kept s t0 := by
  obtain ⟨-, rfl⟩ := (onUnit_next _ _ _).1 e
  repeat' first
    | with_reducible assumption | with_reducible exact Kept.rfl | intro _ | with_reducible apply kept_readRemote | split
    | fail_if_no_progress with_reducible apply kept_upd

theorem kept_execWrRem {p tag line : Nat} {be : BitVec 128} {data : Line} {s : State} {t0 : State} (e : execWrRem p tag line
    be data s = .next t0) : Kept s t0 := by
  obtain ⟨-, rfl⟩ := (onUnit_next _ _ _).1 e
  repeat' first
    | with_reducible assumption | with_reducible exact Kept.rfl | intro _ | with_reducible apply kept_writeRemote | split
    | fail_if_no_progress with_reducible apply kept_upd

theorem kept_execFlushRem {p tag base : Nat} {s : State} {t0 : State} (e : execFlushRem p tag base s = .next t0) : Kept s t0
    := by
  obtain ⟨-, rfl⟩ := (onUnit_next _ _ _).1 e
  repeat' first
    | with_reducible assumption | with_reducible exact Kept.rfl | intro _ | with_reducible apply kept_flushRemote | split
    | fail_if_no_progress with_reducible apply kept_upd

theorem kept_execInvRem {p sid tag : Nat} {s : State} {t0 : State} (e : execInvRem p sid tag s = .next t0) : Kept s t0 := by
  obtain ⟨-, rfl⟩ := (onUnit_next _ _ _).1 e
  repeat' first
    | with_reducible assumption | with_reducible exact Kept.rfl | intro _ | with_reducible apply kept_answerWrite
    | with_reducible apply kept_dropCopies | split | fail_if_no_progress with_reducible apply kept_upd

theorem kept_execKeyLoad {d : Nat} {unwrapOk : Bool} {s : State} {t0 : State} (e : execKeyLoad d unwrapOk s = .next t0) : Kept
    s t0 := by
  obtain ⟨-, rfl⟩ := (onUnit_next _ _ _).1 e
  repeat' first
    | with_reducible assumption | with_reducible exact Kept.rfl | intro _ | with_reducible apply kept_emit
    | with_reducible apply kept_modDie | split | fail_if_no_progress with_reducible apply kept_upd

/-! ### Vector -/

theorem kept_lowBits {z0 s : State} {w v : Nat} (k0 : Kept z0 s) : Kept z0 (lowBits s w v).2 := by
  unfold lowBits
  split
  · exact k0
  · exact kept_freeVal k0

theorem kept_perLane {z0 s : State} {g : Group} {m : W32} {r n : Nat} {f : State → Nat → Nat × State}
    (kf : ∀ t l, Kept z0 t → Kept z0 (f t l).2) (k0 : Kept z0 s) : Kept z0 (perLane s g m r n f).1 :=
  kept_foldl_fst (fun t l h => kf t.1 l h) k0

theorem kept_perElem {z0 s : State} {f : BitVec 4} {op : State → Nat → Nat × State} (ko : ∀ t h, Kept z0 t → Kept z0 (op t h).2)
    (k0 : Kept z0 s) : Kept z0 (perElem f op s).2 := by
  unfold perElem
  split
  next v t e =>
    have kt : Kept z0 t := kept_of_snd e (ko _ _ k0)
    split
    · split
      next w u e2 => exact kept_of_snd e2 (ko _ _ kt)
    · exact kt

theorem kept_vecIssue {z0 : State} {s : State} {g : GRef} {v : VArgs} {legal covered rounds : Bool} {fmts : List (BitVec 4)}
    {srcs : List (Nat × Nat)} {dsts : List (Nat × Nat)} {act : State → Group → Path → State × Group} (k_act : ∀ x0 x1 x2, Kept
    z0 x0 → Kept z0 (act x0 x1 x2).1) (k0 : Kept z0 s) :
    Kept z0 (vecIssue s g v legal covered rounds fmts srcs dsts act) := by
  unfold vecIssue
  repeat' first
    | with_reducible assumption | intro _ | with_reducible apply kept_issue | with_reducible apply kept_residue
    | with_reducible apply kept_retire | with_reducible apply k_act
    | (extract_lets +onlyGivenNames x;
        refine (fun (_ : Kept z0 x) => ?_) ?_; (on_goal 1 => rename' x => y); (on_goal 2 => unfold x; clear x))
    | (extract_lets +onlyGivenNames x; rename' x => y)
    | with_reducible refine kept_map ‹Option.map _ _ = some _› (fun _ _ => ?_) | split
    | fail_if_no_progress with_reducible apply kept_upd | dsimp +zetaDelta only

theorem kept_arith {z0 : State} {s : State} {g : GRef} {v : VArgs} {fmts : List Nat} {covered : Bool} {nsrc : Nat} {ff :
    FloatFn} {fi : IntFn} (k0 : Kept z0 s) :
    Kept z0 (arith s g v fmts covered nsrc ff fi) := by
  unfold arith
  repeat' first
    | with_reducible assumption | intro _ | with_reducible apply kept_vecIssue | with_reducible apply kept_perLane
    | with_reducible apply kept_perElem | with_reducible refine kept_of_fst ‹_ = (_, _)› ?_
    | with_reducible refine kept_of_snd ‹_ = (_, _)› ?_
    | (extract_lets +onlyGivenNames x;
        refine (fun (_ : Kept z0 x) => ?_) ?_; (on_goal 1 => rename' x => y); (on_goal 2 => unfold x; clear x))
    | (extract_lets +onlyGivenNames x; rename' x => y) | with_reducible refine kept_getD (fun _ _ => ?_) ?_
    | with_reducible refine kept_map ‹Option.map _ _ = some _› (fun _ _ => ?_) | split
    | fail_if_no_progress with_reducible apply kept_upd | dsimp +zetaDelta only

theorem kept_execAdd {g : GRef} {v : VArgs} {s : State} {t0 : State} (e : execAdd g v s = .next t0) : Kept s t0 := by
  obtain ⟨-, rfl⟩ := (onUnit_next _ _ _).1 e
  repeat' first
    | with_reducible assumption | with_reducible exact Kept.rfl | intro _ | with_reducible apply kept_arith | split
    | fail_if_no_progress with_reducible apply kept_upd

theorem kept_execSub {g : GRef} {v : VArgs} {s : State} {t0 : State} (e : execSub g v s = .next t0) : Kept s t0 := by
  obtain ⟨-, rfl⟩ := (onUnit_next _ _ _).1 e
  repeat' first
    | with_reducible assumption | with_reducible exact Kept.rfl | intro _ | with_reducible apply kept_arith | split
    | fail_if_no_progress with_reducible apply kept_upd

theorem kept_execMul {g : GRef} {v : VArgs} {s : State} {t0 : State} (e : execMul g v s = .next t0) : Kept s t0 := by
  obtain ⟨-, rfl⟩ := (onUnit_next _ _ _).1 e
  repeat' first
    | with_reducible assumption | with_reducible exact Kept.rfl | intro _ | with_reducible apply kept_arith | split
    | fail_if_no_progress with_reducible apply kept_upd

theorem kept_execFma {g : GRef} {v : VArgs} {s : State} {t0 : State} (e : execFma g v s = .next t0) : Kept s t0 := by
  obtain ⟨-, rfl⟩ := (onUnit_next _ _ _).1 e
  repeat' first
    | with_reducible assumption | with_reducible exact Kept.rfl | intro _ | with_reducible apply kept_arith | split
    | fail_if_no_progress with_reducible apply kept_upd

theorem kept_execMultiplyAdd {g : GRef} {v : VArgs} {s : State} {t0 : State} (e : execMultiplyAdd g v s = .next t0) : Kept s
    t0 := by
  obtain ⟨-, rfl⟩ := (onUnit_next _ _ _).1 e
  repeat' first
    | with_reducible assumption | with_reducible exact Kept.rfl | intro _ | with_reducible apply kept_arith | split
    | fail_if_no_progress with_reducible apply kept_upd

theorem kept_execDiv {g : GRef} {v : VArgs} {s : State} {t0 : State} (e : execDiv g v s = .next t0) : Kept s t0 := by
  obtain ⟨-, rfl⟩ := (onUnit_next _ _ _).1 e
  repeat' first
    | with_reducible assumption | with_reducible exact Kept.rfl | intro _ | with_reducible apply kept_arith | split
    | fail_if_no_progress with_reducible apply kept_upd

theorem kept_execSqrt {g : GRef} {v : VArgs} {s : State} {t0 : State} (e : execSqrt g v s = .next t0) : Kept s t0 := by
  obtain ⟨-, rfl⟩ := (onUnit_next _ _ _).1 e
  repeat' first
    | with_reducible assumption | with_reducible exact Kept.rfl | intro _ | with_reducible apply kept_arith | split
    | fail_if_no_progress with_reducible apply kept_upd

theorem kept_freeCode {z0 s : State} {spec : Num.FloatSpec} {w : Nat} (k0 : Kept z0 s) : Kept z0 (freeCode s spec w).2 :=
  kept_freeVal k0

theorem kept_minMaxElem {z0 s : State} {f : BitVec 4} {m : Bool} {a b : Nat} (k0 : Kept z0 s) :
    Kept z0 (minMaxElem s f m a b).2 := by
  unfold minMaxElem
  split
  · split
    · exact kept_freeCode k0
    · split
      · exact k0
      · exact kept_freeVal k0
    · exact k0
    · exact k0
  · exact k0

theorem kept_minMax {z0 : State} {s : State} {g : GRef} {v : VArgs} {wantMax : Bool} (k0 : Kept z0 s) :
    Kept z0 (minMax s g v wantMax) := by
  unfold minMax
  repeat' first
    | with_reducible assumption | intro _ | with_reducible apply kept_vecIssue | with_reducible apply kept_perLane
    | with_reducible apply kept_perElem | with_reducible apply kept_minMaxElem
    | with_reducible refine kept_of_fst ‹_ = (_, _)› ?_ | with_reducible refine kept_of_snd ‹_ = (_, _)› ?_
    | (extract_lets +onlyGivenNames x;
        refine (fun (_ : Kept z0 x) => ?_) ?_; (on_goal 1 => rename' x => y); (on_goal 2 => unfold x; clear x))
    | (extract_lets +onlyGivenNames x; rename' x => y) | split | fail_if_no_progress with_reducible apply kept_upd
    | dsimp +zetaDelta only

theorem kept_execMin {g : GRef} {v : VArgs} {s : State} {t0 : State} (e : execMin g v s = .next t0) : Kept s t0 := by
  obtain ⟨-, rfl⟩ := (onUnit_next _ _ _).1 e
  repeat' first
    | with_reducible assumption | with_reducible exact Kept.rfl | intro _ | with_reducible apply kept_minMax | split
    | fail_if_no_progress with_reducible apply kept_upd

theorem kept_execMax {g : GRef} {v : VArgs} {s : State} {t0 : State} (e : execMax g v s = .next t0) : Kept s t0 := by
  obtain ⟨-, rfl⟩ := (onUnit_next _ _ _).1 e
  repeat' first
    | with_reducible assumption | with_reducible exact Kept.rfl | intro _ | with_reducible apply kept_minMax | split
    | fail_if_no_progress with_reducible apply kept_upd

theorem kept_execCompare {g : GRef} {p : Pred} {v : VArgs} {s : State} {t0 : State} (e : execCompare g p v s = .next t0) :
    Kept s t0 := by
  obtain ⟨-, rfl⟩ := (onUnit_next _ _ _).1 e
  repeat' first
    | with_reducible assumption | with_reducible exact Kept.rfl | intro _ | with_reducible apply kept_vecIssue
    | with_reducible apply kept_perLane | with_reducible apply kept_perElem | with_reducible refine kept_of_fst ‹_ = (_, _)› ?_
    | with_reducible refine kept_of_snd ‹_ = (_, _)› ?_
    | (extract_lets +onlyGivenNames x;
        refine (fun (_ : Kept s x) => ?_) ?_; (on_goal 1 => rename' x => y); (on_goal 2 => unfold x; clear x))
    | (extract_lets +onlyGivenNames x; rename' x => y) | split | fail_if_no_progress with_reducible apply kept_upd
    | dsimp +zetaDelta only

theorem kept_execLogic {g : GRef} {o : LogicOp} {v : VArgs} {s : State} {t0 : State} (e : execLogic g o v s = .next t0) : Kept
    s t0 := by
  obtain ⟨-, rfl⟩ := (onUnit_next _ _ _).1 e
  repeat' first
    | with_reducible assumption | with_reducible exact Kept.rfl | intro _ | with_reducible apply kept_arith | split
    | fail_if_no_progress with_reducible apply kept_upd

theorem kept_execShift {g : GRef} {o : ShiftOp} {v : VArgs} {s : State} {t0 : State} (e : execShift g o v s = .next t0) : Kept
    s t0 := by
  obtain ⟨-, rfl⟩ := (onUnit_next _ _ _).1 e
  repeat' first
    | with_reducible assumption | with_reducible exact Kept.rfl | intro _ | with_reducible apply kept_vecIssue
    | with_reducible apply kept_perLane | with_reducible apply kept_perElem | with_reducible apply kept_freeVal
    | with_reducible refine kept_of_fst ‹_ = (_, _)› ?_ | with_reducible refine kept_of_snd ‹_ = (_, _)› ?_
    | (extract_lets +onlyGivenNames x;
        refine (fun (_ : Kept s x) => ?_) ?_; (on_goal 1 => rename' x => y); (on_goal 2 => unfold x; clear x))
    | (extract_lets +onlyGivenNames x; rename' x => y) | split | fail_if_no_progress with_reducible apply kept_upd
    | dsimp +zetaDelta only

theorem kept_cvtLane {z0 s : State} {v : VArgs} {g : Group} {l : Nat} (k0 : Kept z0 s) : Kept z0 (cvtLane v g s l).2 := by
  unfold cvtLane
  extract_lets one
  split
  · exact k0
  · split
    · exact k0
    · exact kept_lowBits k0

theorem kept_execCvt {g : GRef} {v : VArgs} {s : State} {t0 : State} (e : execCvt g v s = .next t0) : Kept s t0 := by
  obtain ⟨-, rfl⟩ := (onUnit_next _ _ _).1 e
  repeat' first
    | with_reducible assumption | with_reducible exact Kept.rfl | intro _ | with_reducible apply kept_vecIssue
    | with_reducible apply kept_perLane | with_reducible apply kept_lowBits | with_reducible apply kept_cvtLane
    | with_reducible refine kept_of_fst ‹_ = (_, _)› ?_ | with_reducible refine kept_of_snd ‹_ = (_, _)› ?_
    | (extract_lets +onlyGivenNames x;
        refine (fun (_ : Kept s x) => ?_) ?_; (on_goal 1 => rename' x => y); (on_goal 2 => unfold x; clear x))
    | (extract_lets +onlyGivenNames x; rename' x => y) | with_reducible refine kept_getD (fun _ _ => ?_) ?_ | split
    | fail_if_no_progress with_reducible apply kept_upd | dsimp +zetaDelta only

theorem kept_ddIssue {z0 : State} {s : State} {g : GRef} {v : VArgs} {f : DdFn} (k0 : Kept z0 s) :
    Kept z0 (ddIssue s g v f) := by
  unfold ddIssue
  repeat' first
    | with_reducible assumption | intro _ | with_reducible apply kept_vecIssue | with_reducible apply kept_perLane
    | with_reducible refine kept_of_fst ‹_ = (_, _)› ?_ | with_reducible refine kept_of_snd ‹_ = (_, _)› ?_ | split
    | fail_if_no_progress with_reducible apply kept_upd | dsimp +zetaDelta only

theorem kept_execDadd {g : GRef} {v : VArgs} {s : State} {t0 : State} (e : execDadd g v s = .next t0) : Kept s t0 := by
  obtain ⟨-, rfl⟩ := (onUnit_next _ _ _).1 e
  repeat' first
    | with_reducible assumption | with_reducible exact Kept.rfl | intro _ | with_reducible apply kept_ddIssue | split
    | fail_if_no_progress with_reducible apply kept_upd

theorem kept_execDsub {g : GRef} {v : VArgs} {s : State} {t0 : State} (e : execDsub g v s = .next t0) : Kept s t0 := by
  obtain ⟨-, rfl⟩ := (onUnit_next _ _ _).1 e
  repeat' first
    | with_reducible assumption | with_reducible exact Kept.rfl | intro _ | with_reducible apply kept_ddIssue | split
    | fail_if_no_progress with_reducible apply kept_upd

theorem kept_execDmul {g : GRef} {v : VArgs} {s : State} {t0 : State} (e : execDmul g v s = .next t0) : Kept s t0 := by
  obtain ⟨-, rfl⟩ := (onUnit_next _ _ _).1 e
  repeat' first
    | with_reducible assumption | with_reducible exact Kept.rfl | intro _ | with_reducible apply kept_ddIssue | split
    | fail_if_no_progress with_reducible apply kept_upd

theorem kept_execDmulf {g : GRef} {v : VArgs} {s : State} {t0 : State} (e : execDmulf g v s = .next t0) : Kept s t0 := by
  obtain ⟨-, rfl⟩ := (onUnit_next _ _ _).1 e
  repeat' first
    | with_reducible assumption | with_reducible exact Kept.rfl | intro _ | with_reducible apply kept_ddIssue | split
    | fail_if_no_progress with_reducible apply kept_upd

theorem kept_sfIssue {z0 : State} {s : State} {g : GRef} {v : VArgs} {f : SfFn} (k0 : Kept z0 s) :
    Kept z0 (sfIssue s g v f) := by
  unfold sfIssue
  repeat' first
    | with_reducible assumption | intro _ | with_reducible apply kept_vecIssue | with_reducible apply kept_perLane
    | with_reducible apply kept_perElem | with_reducible refine kept_of_fst ‹_ = (_, _)› ?_
    | with_reducible refine kept_of_snd ‹_ = (_, _)› ?_ | split | fail_if_no_progress with_reducible apply kept_upd

theorem kept_execRcp {g : GRef} {v : VArgs} {s : State} {t0 : State} (e : execRcp g v s = .next t0) : Kept s t0 := by
  obtain ⟨-, rfl⟩ := (onUnit_next _ _ _).1 e
  repeat' first
    | with_reducible assumption | with_reducible exact Kept.rfl | intro _ | with_reducible apply kept_sfIssue | split
    | fail_if_no_progress with_reducible apply kept_upd

theorem kept_execRsq {g : GRef} {v : VArgs} {s : State} {t0 : State} (e : execRsq g v s = .next t0) : Kept s t0 := by
  obtain ⟨-, rfl⟩ := (onUnit_next _ _ _).1 e
  repeat' first
    | with_reducible assumption | with_reducible exact Kept.rfl | intro _ | with_reducible apply kept_sfIssue | split
    | fail_if_no_progress with_reducible apply kept_upd

theorem kept_execEx2 {g : GRef} {v : VArgs} {s : State} {t0 : State} (e : execEx2 g v s = .next t0) : Kept s t0 := by
  obtain ⟨-, rfl⟩ := (onUnit_next _ _ _).1 e
  repeat' first
    | with_reducible assumption | with_reducible exact Kept.rfl | intro _ | with_reducible apply kept_sfIssue | split
    | fail_if_no_progress with_reducible apply kept_upd

theorem kept_execLg2 {g : GRef} {v : VArgs} {s : State} {t0 : State} (e : execLg2 g v s = .next t0) : Kept s t0 := by
  obtain ⟨-, rfl⟩ := (onUnit_next _ _ _).1 e
  repeat' first
    | with_reducible assumption | with_reducible exact Kept.rfl | intro _ | with_reducible apply kept_sfIssue | split
    | fail_if_no_progress with_reducible apply kept_upd

theorem kept_execSinpi {g : GRef} {v : VArgs} {s : State} {t0 : State} (e : execSinpi g v s = .next t0) : Kept s t0 := by
  obtain ⟨-, rfl⟩ := (onUnit_next _ _ _).1 e
  repeat' first
    | with_reducible assumption | with_reducible exact Kept.rfl | intro _ | with_reducible apply kept_sfIssue | split
    | fail_if_no_progress with_reducible apply kept_upd

theorem kept_execCospi {g : GRef} {v : VArgs} {s : State} {t0 : State} (e : execCospi g v s = .next t0) : Kept s t0 := by
  obtain ⟨-, rfl⟩ := (onUnit_next _ _ _).1 e
  repeat' first
    | with_reducible assumption | with_reducible exact Kept.rfl | intro _ | with_reducible apply kept_sfIssue | split
    | fail_if_no_progress with_reducible apply kept_upd

theorem kept_execTanh {g : GRef} {v : VArgs} {s : State} {t0 : State} (e : execTanh g v s = .next t0) : Kept s t0 := by
  obtain ⟨-, rfl⟩ := (onUnit_next _ _ _).1 e
  repeat' first
    | with_reducible assumption | with_reducible exact Kept.rfl | intro _ | with_reducible apply kept_sfIssue | split
    | fail_if_no_progress with_reducible apply kept_upd

theorem kept_execSigm {g : GRef} {v : VArgs} {s : State} {t0 : State} (e : execSigm g v s = .next t0) : Kept s t0 := by
  obtain ⟨-, rfl⟩ := (onUnit_next _ _ _).1 e
  repeat' first
    | with_reducible assumption | with_reducible exact Kept.rfl | intro _ | with_reducible apply kept_sfIssue | split
    | fail_if_no_progress with_reducible apply kept_upd

theorem kept_execSfTime {g : GRef} {rd : BitVec 8} {s : State} {t0 : State} (e : execSfTime g rd s = .next t0) : Kept s t0 := by
  obtain ⟨-, rfl⟩ := (onUnit_next _ _ _).1 e
  repeat' first
    | with_reducible assumption | with_reducible exact Kept.rfl | intro _ | with_reducible apply kept_issue
    | with_reducible apply kept_retire
    | (extract_lets +onlyGivenNames x;
        refine (fun (_ : Kept s x) => ?_) ?_; (on_goal 1 => rename' x => y); (on_goal 2 => unfold x; clear x))
    | (extract_lets +onlyGivenNames x; rename' x => y) | split | fail_if_no_progress with_reducible apply kept_upd
    | dsimp +zetaDelta only

end Sys2Proof.Machine
end

