-- ==== Sys2Proof/Laws/PerInstr.lean ====
section
/-! SUPPORT. For every command: whatever it does, manufacture's values, the queue and what has been sent stay, the counters never go
back, and memory keeps its canonical form (`Kept`). -/

/-- The commands' common frame. -/
def Sys2Proof.Laws.Frame.Statement (i : Sys2Proof.Instr) : Prop :=
  ∀ s t : Sys2Proof.Machine.State, Sys2Proof.Machine.exec i s = .next t → Sys2Proof.Machine.Kept s t

namespace Sys2Proof.Laws.Frame
open Sys2Proof Sys2Proof.Machine

theorem mma : ∀ g w, Statement (.mma g w) := by
  intro _ _ _ _ e; exact kept_execMma e
theorem accLoad : ∀ g w, Statement (.accLoad g w) := by
  intro _ _ _ _ e; exact kept_execAccLoad e
theorem accRelease : ∀ g w, Statement (.accRelease g w) := by
  intro _ _ _ _ e; exact kept_execAccRelease e
theorem accRound : ∀ g w, Statement (.accRound g w) := by
  intro _ _ _ _ e; exact kept_execAccRound e
theorem accPush : ∀ g w, Statement (.accPush g w) := by
  intro _ _ _ _ e; exact kept_execAccPush e
theorem accSave : ∀ g w, Statement (.accSave g w) := by
  intro _ _ _ _ e; exact kept_execAccSave e
theorem accRestore : ∀ g w, Statement (.accRestore g w) := by
  intro _ _ _ _ e; exact kept_execAccRestore e
theorem tld : ∀ g w, Statement (.tld g w) := by
  intro _ _ _ _ e; exact kept_execTld e
theorem tst : ∀ g w, Statement (.tst g w) := by
  intro _ _ _ _ e; exact kept_execTst e
theorem add : ∀ g v, Statement (.add g v) := by
  intro _ _ _ _ e; exact kept_execAdd e
theorem sub : ∀ g v, Statement (.sub g v) := by
  intro _ _ _ _ e; exact kept_execSub e
theorem mul : ∀ g v, Statement (.mul g v) := by
  intro _ _ _ _ e; exact kept_execMul e
theorem fma : ∀ g v, Statement (.fma g v) := by
  intro _ _ _ _ e; exact kept_execFma e
theorem min : ∀ g v, Statement (.min g v) := by
  intro _ _ _ _ e; exact kept_execMin e
theorem max : ∀ g v, Statement (.max g v) := by
  intro _ _ _ _ e; exact kept_execMax e
theorem compare : ∀ g p v, Statement (.compare g p v) := by
  intro _ _ _ _ _ e; exact kept_execCompare e
theorem logic : ∀ g o v, Statement (.logic g o v) := by
  intro _ _ _ _ _ e; exact kept_execLogic e
theorem shift : ∀ g o v, Statement (.shift g o v) := by
  intro _ _ _ _ _ e; exact kept_execShift e
theorem multiplyAdd : ∀ g v, Statement (.multiplyAdd g v) := by
  intro _ _ _ _ e; exact kept_execMultiplyAdd e
theorem div : ∀ g v, Statement (.div g v) := by
  intro _ _ _ _ e; exact kept_execDiv e
theorem sqrt : ∀ g v, Statement (.sqrt g v) := by
  intro _ _ _ _ e; exact kept_execSqrt e
theorem cvt : ∀ g v, Statement (.cvt g v) := by
  intro _ _ _ _ e; exact kept_execCvt e
theorem dadd : ∀ g v, Statement (.dadd g v) := by
  intro _ _ _ _ e; exact kept_execDadd e
theorem dsub : ∀ g v, Statement (.dsub g v) := by
  intro _ _ _ _ e; exact kept_execDsub e
theorem dmul : ∀ g v, Statement (.dmul g v) := by
  intro _ _ _ _ e; exact kept_execDmul e
theorem dmulf : ∀ g v, Statement (.dmulf g v) := by
  intro _ _ _ _ e; exact kept_execDmulf e
theorem rcp : ∀ g v, Statement (.rcp g v) := by
  intro _ _ _ _ e; exact kept_execRcp e
theorem rsq : ∀ g v, Statement (.rsq g v) := by
  intro _ _ _ _ e; exact kept_execRsq e
theorem ex2 : ∀ g v, Statement (.ex2 g v) := by
  intro _ _ _ _ e; exact kept_execEx2 e
theorem lg2 : ∀ g v, Statement (.lg2 g v) := by
  intro _ _ _ _ e; exact kept_execLg2 e
theorem sinpi : ∀ g v, Statement (.sinpi g v) := by
  intro _ _ _ _ e; exact kept_execSinpi e
theorem cospi : ∀ g v, Statement (.cospi g v) := by
  intro _ _ _ _ e; exact kept_execCospi e
theorem tanh : ∀ g v, Statement (.tanh g v) := by
  intro _ _ _ _ e; exact kept_execTanh e
theorem sigm : ∀ g v, Statement (.sigm g v) := by
  intro _ _ _ _ e; exact kept_execSigm e
theorem sfTime : ∀ g rd, Statement (.sfTime g rd) := by
  intro _ _ _ _ e; exact kept_execSfTime e
theorem bra : ∀ g w, Statement (.bra g w) := by
  intro _ _ _ _ e; exact kept_execBra e
theorem join : ∀ g w, Statement (.join g w) := by
  intro _ _ _ _ e; exact kept_execJoin e
theorem barT : ∀ g w, Statement (.barT g w) := by
  intro _ _ _ _ e; exact kept_execBarT e
theorem exit : ∀ g w, Statement (.exit g w) := by
  intro _ _ _ _ e; exact kept_execExit e
theorem yield : ∀ g w, Statement (.yield g w) := by
  intro _ _ _ _ e; exact kept_execYield e
theorem ldl : ∀ g w, Statement (.ldl g w) := by
  intro _ _ _ _ e; exact kept_execLdl e
theorem stl : ∀ g w, Statement (.stl g w) := by
  intro _ _ _ _ e; exact kept_execStl e
theorem atoml : ∀ g w, Statement (.atoml g w) := by
  intro _ _ _ _ e; exact kept_execAtoml e
theorem ld : ∀ g w, Statement (.ld g w) := by
  intro _ _ _ _ e; exact kept_execLd e
theorem st : ∀ g w, Statement (.st g w) := by
  intro _ _ _ _ e; exact kept_execSt e
theorem atom : ∀ g w, Statement (.atom g w) := by
  intro _ _ _ _ e; exact kept_execAtom e
theorem red : ∀ g w, Statement (.red g w) := by
  intro _ _ _ _ e; exact kept_execRed e
theorem cruClose : ∀ g w, Statement (.cruClose g w) := by
  intro _ _ _ _ e; exact kept_execCruClose e
theorem fenceRel : ∀ g w, Statement (.fenceRel g w) := by
  intro _ _ _ _ e; exact kept_execFenceRel e
theorem fenceAcq : ∀ g w, Statement (.fenceAcq g w) := by
  intro _ _ _ _ e; exact kept_execFenceAcq e
theorem fenceComplete : ∀ g, Statement (.fenceComplete g) := by
  intro _ _ _ e; exact kept_execFenceComplete e
theorem enq : ∀ g w, Statement (.enq g w) := by
  intro _ _ _ _ e; exact kept_execEnq e
theorem doorbell : ∀ p q value, Statement (.doorbell p q value) := by
  intro _ _ _ _ _ e; exact kept_execDoorbell e
theorem commandFetch : ∀ p q, Statement (.commandFetch p q) := by
  intro _ _ _ _ e; exact kept_execCommandFetch e
theorem launch : ∀ p q seq, Statement (.launch p q seq) := by
  intro _ _ _ _ _ e; exact kept_execLaunch e
theorem nop : ∀ p q seq, Statement (.nop p q seq) := by
  intro _ _ _ _ _ e; exact kept_execNop e
theorem retry : ∀ p q seq, Statement (.retry p q seq) := by
  intro _ _ _ _ _ e; exact kept_execRetry e
theorem skip : ∀ p q seq, Statement (.skip p q seq) := by
  intro _ _ _ _ _ e; exact kept_execSkip e
theorem teardown : ∀ p q seq, Statement (.teardown p q seq) := by
  intro _ _ _ _ _ e; exact kept_execTeardown e
theorem invTlb : ∀ p q seq, Statement (.invTlb p q seq) := by
  intro _ _ _ _ _ e; exact kept_execInvTlb e
theorem invRo : ∀ p q seq, Statement (.invRo p q seq) := by
  intro _ _ _ _ _ e; exact kept_execInvRo e
theorem createContext : ∀ p q seq, Statement (.createContext p q seq) := by
  intro _ _ _ _ _ e; exact kept_execCreateContext e
theorem destroyContext : ∀ p q seq, Statement (.destroyContext p q seq) := by
  intro _ _ _ _ _ e; exact kept_execDestroyContext e
theorem createQueue : ∀ p q seq, Statement (.createQueue p q seq) := by
  intro _ _ _ _ _ e; exact kept_execCreateQueue e
theorem destroyQueue : ∀ p q seq, Statement (.destroyQueue p q seq) := by
  intro _ _ _ _ _ e; exact kept_execDestroyQueue e
theorem registerGraph : ∀ p q seq, Statement (.registerGraph p q seq) := by
  intro _ _ _ _ _ e; exact kept_execRegisterGraph e
theorem patchGraph : ∀ p q seq, Statement (.patchGraph p q seq) := by
  intro _ _ _ _ _ e; exact kept_execPatchGraph e
theorem releaseGraph : ∀ p q seq, Statement (.releaseGraph p q seq) := by
  intro _ _ _ _ _ e; exact kept_execReleaseGraph e
theorem setEventRing : ∀ p q seq, Statement (.setEventRing p q seq) := by
  intro _ _ _ _ _ e; exact kept_execSetEventRing e
theorem retireRows : ∀ p q seq, Statement (.retireRows p q seq) := by
  intro _ _ _ _ _ e; exact kept_execRetireRows e
theorem selfTest : ∀ p q seq, Statement (.selfTest p q seq) := by
  intro _ _ _ _ _ e; exact kept_execSelfTest e
theorem resetPartition : ∀ p q seq, Statement (.resetPartition p q seq) := by
  intro _ _ _ _ _ e; exact kept_execResetPartition e
theorem imgBegin : ∀ p q seq, Statement (.imgBegin p q seq) := by
  intro _ _ _ _ _ e; exact kept_execImgBegin e
theorem imgWrite : ∀ p q seq programOk, Statement (.imgWrite p q seq programOk) := by
  intro _ _ _ _ _ _ e; exact kept_execImgWrite e
theorem imgFinish : ∀ p q seq, Statement (.imgFinish p q seq) := by
  intro _ _ _ _ _ e; exact kept_execImgFinish e
theorem imgCommit : ∀ p q seq, Statement (.imgCommit p q seq) := by
  intro _ _ _ _ _ e; exact kept_execImgCommit e
theorem imgAbort : ∀ p q seq, Statement (.imgAbort p q seq) := by
  intro _ _ _ _ _ e; exact kept_execImgAbort e
theorem commandComplete : ∀ p q seq, Statement (.commandComplete p q seq) := by
  intro _ _ _ _ _ e; exact kept_execCommandComplete e
theorem nodeStart : ∀ launch node, Statement (.nodeStart launch node) := by
  intro _ _ _ _ e; exact kept_execNodeStart e
theorem timeSliceEnd : ∀ p ctx, Statement (.timeSliceEnd p ctx) := by
  intro _ _ _ _ e; exact kept_execTimeSliceEnd e
theorem budgetOverrun : ∀ launch, Statement (.budgetOverrun launch) := by
  intro _ _ _ e; exact kept_execBudgetOverrun e
theorem hostSyncPoll : ∀ task, Statement (.hostSyncPoll task) := by
  intro _ _ _ e; exact kept_execHostSyncPoll e
theorem dmaDescriptor : ∀ task, Statement (.dmaDescriptor task) := by
  intro _ _ _ e; exact kept_execDmaDescriptor e
theorem admissionPass : Statement .admissionPass := by
  intro _ _ e; exact kept_execAdmissionPass e
theorem preload : ∀ launch node, Statement (.preload launch node) := by
  intro _ _ _ _ e; exact kept_execPreload e
theorem teamStart : ∀ task cl team, Statement (.teamStart task cl team) := by
  intro _ _ _ _ _ e; exact kept_execTeamStart e
theorem teamDone : ∀ task team, Statement (.teamDone task team) := by
  intro _ _ _ _ e; exact kept_execTeamDone e
theorem dmaDone : ∀ task, Statement (.dmaDone task) := by
  intro _ _ _ e; exact kept_execDmaDone e
theorem collDone : ∀ task, Statement (.collDone task) := by
  intro _ _ _ e; exact kept_execCollDone e
theorem preempt : ∀ task cl, Statement (.preempt task cl) := by
  intro _ _ _ _ e; exact kept_execPreempt e
theorem resume : ∀ task cl slot, Statement (.resume task cl slot) := by
  intro _ _ _ _ _ e; exact kept_execResume e
theorem discard : ∀ task cl, Statement (.discard task cl) := by
  intro _ _ _ _ e; exact kept_execDiscard e
theorem ptPurge : ∀ p sid, Statement (.ptPurge p sid) := by
  intro _ _ _ _ e; exact kept_execPtPurge e
theorem dmaRd : ∀ task line sectors, Statement (.dmaRd task line sectors) := by
  intro _ _ _ _ _ e; exact kept_execDmaRd e
theorem dmaWr : ∀ task line be data, Statement (.dmaWr task line be data) := by
  intro _ _ _ _ _ _ e; exact kept_execDmaWr e
theorem coll : ∀ task line d, Statement (.coll task line d) := by
  intro _ _ _ _ _ e; exact kept_execColl e
theorem enqRec : ∀ p q tag words, Statement (.enqRec p q tag words) := by
  intro _ _ _ _ _ _ e; exact kept_execEnqRec e
theorem rdWin : ∀ p tag line sectors, Statement (.rdWin p tag line sectors) := by
  intro _ _ _ _ _ _ e; exact kept_execRdWin e
theorem wrWin : ∀ p tag line be data, Statement (.wrWin p tag line be data) := by
  intro _ _ _ _ _ _ _ e; exact kept_execWrWin e
theorem rdReg : ∀ p tag line sectors, Statement (.rdReg p tag line sectors) := by
  intro _ _ _ _ _ _ e; exact kept_execRdReg e
theorem wrReg : ∀ p tag line be data, Statement (.wrReg p tag line be data) := by
  intro _ _ _ _ _ _ _ e; exact kept_execWrReg e
theorem registerWrite : ∀ p off value, Statement (.registerWrite p off value) := by
  intro _ _ _ _ _ e; exact kept_execRegisterWrite e
theorem rdRem : ∀ p tag line sectors attr, Statement (.rdRem p tag line sectors attr) := by
  intro _ _ _ _ _ _ _ e; exact kept_execRdRem e
theorem wrRem : ∀ p tag line be data, Statement (.wrRem p tag line be data) := by
  intro _ _ _ _ _ _ _ e; exact kept_execWrRem e
theorem flushRem : ∀ p tag base, Statement (.flushRem p tag base) := by
  intro _ _ _ _ _ e; exact kept_execFlushRem e
theorem invRem : ∀ p sid tag, Statement (.invRem p sid tag) := by
  intro _ _ _ _ _ e; exact kept_execInvRem e
theorem keyLoad : ∀ die unwrapOk, Statement (.keyLoad die unwrapOk) := by
  intro _ _ _ _ e; exact kept_execKeyLoad e
theorem rdS : ∀ die line ecc, Statement (.rdS die line ecc) := by
  intro _ _ _ _ _ e; exact kept_execRdS e
theorem rdE : ∀ die line ecc, Statement (.rdE die line ecc) := by
  intro _ _ _ _ _ e; exact kept_execRdE e
theorem upg : ∀ die line, Statement (.upg die line) := by
  intro _ _ _ _ e; exact kept_execUpg e
theorem rdOnce : ∀ tag line ecc, Statement (.rdOnce tag line ecc) := by
  intro _ _ _ _ _ e; exact kept_execRdOnce e
theorem drop : ∀ die line, Statement (.drop die line) := by
  intro _ _ _ _ e; exact kept_execDrop e
theorem reg : ∀ sid home, Statement (.reg sid home) := by
  intro _ _ _ _ e; exact kept_execReg e
theorem snpS : ∀ die line, Statement (.snpS die line) := by
  intro _ _ _ _ e; exact kept_execSnpS e
theorem snpI : ∀ die line, Statement (.snpI die line) := by
  intro _ _ _ _ e; exact kept_execSnpI e
theorem snpR : ∀ die line, Statement (.snpR die line) := by
  intro _ _ _ _ e; exact kept_execSnpR e
theorem binv : ∀ die line, Statement (.binv die line) := by
  intro _ _ _ _ e; exact kept_execBinv e
theorem sackI : ∀ die line, Statement (.sackI die line) := by
  intro _ _ _ _ e; exact kept_execSackI e
theorem sackS : ∀ die line, Statement (.sackS die line) := by
  intro _ _ _ _ e; exact kept_execSackS e
theorem grantE : ∀ die line, Statement (.grantE die line) := by
  intro _ _ _ _ e; exact kept_execGrantE e
theorem grantM : ∀ die line, Statement (.grantM die line) := by
  intro _ _ _ _ e; exact kept_execGrantM e
theorem wbAck : ∀ dest status, Statement (.wbAck dest status) := by
  intro _ _ _ _ e; exact kept_execWbAck e
theorem regAck : ∀ sid home, Statement (.regAck sid home) := by
  intro _ _ _ _ e; exact kept_execRegAck e
theorem dataS : ∀ die line data poison, Statement (.dataS die line data poison) := by
  intro _ _ _ _ _ _ e; exact kept_execDataS e
theorem dataE : ∀ die line data poison, Statement (.dataE die line data poison) := by
  intro _ _ _ _ _ _ e; exact kept_execDataE e
theorem dataM : ∀ die line data poison, Statement (.dataM die line data poison) := by
  intro _ _ _ _ _ _ e; exact kept_execDataM e
theorem sdata : ∀ die line data dirty poison, Statement (.sdata die line data dirty poison) := by
  intro _ _ _ _ _ _ _ e; exact kept_execSdata e
theorem dataOnce : ∀ tag line data sectors poison status, Statement (.dataOnce tag line data sectors poison status) := by
  intro _ _ _ _ _ _ _ _ e; exact kept_execDataOnce e
theorem wb : ∀ die line data dirty poison, Statement (.wb die line data dirty poison) := by
  intro _ _ _ _ _ _ _ e; exact kept_execWb e
theorem wfwd : ∀ die line tag attr be data, Statement (.wfwd die line tag attr be data) := by
  intro _ _ _ _ _ _ _ _ e; exact kept_execWfwd e
theorem fill : ∀ sid line ecc, Statement (.fill sid line ecc) := by
  intro _ _ _ _ _ e; exact kept_execFill e
theorem clusterFill : ∀ cl line data poison, Statement (.clusterFill cl line data poison) := by
  intro _ _ _ _ _ _ e; exact kept_execClusterFill e
theorem spoilWriteOut : ∀ sid, Statement (.spoilWriteOut sid) := by
  intro _ _ _ e; exact kept_execSpoilWriteOut e
theorem ledgerRecords : ∀ sid pkt, Statement (.ledgerRecords sid pkt) := by
  intro _ _ _ _ e; exact kept_execLedgerRecords e
theorem pairRecords : ∀ sid pkt, Statement (.pairRecords sid pkt) := by
  intro _ _ _ _ e; exact kept_execPairRecords e
theorem roundedUpdate : ∀ sid pkt, Statement (.roundedUpdate sid pkt) := by
  intro _ _ _ _ e; exact kept_execRoundedUpdate e
theorem closeLine : ∀ sid line tag, Statement (.closeLine sid line tag) := by
  intro _ _ _ _ _ e; exact kept_execCloseLine e
theorem closeTask : ∀ sid task, Statement (.closeTask sid task) := by
  intro _ _ _ _ e; exact kept_execCloseTask e
theorem crusherAck : ∀ tag status, Statement (.crusherAck tag status) := by
  intro _ _ _ _ e; exact kept_execCrusherAck e
theorem lineBringBack : ∀ sid line, Statement (.lineBringBack sid line) := by
  intro _ _ _ _ e; exact kept_execLineBringBack e
theorem flitError : ∀ die node hop flit control, Statement (.flitError die node hop flit control) := by
  intro _ _ _ _ _ _ _ e; exact kept_execFlitError e
theorem roCacheEnable : ∀ cl, Statement (.roCacheEnable cl) := by
  intro _ _ _ e; exact kept_execRoCacheEnable e
theorem sliceEnable : ∀ sid, Statement (.sliceEnable sid) := by
  intro _ _ _ e; exact kept_execSliceEnable e
theorem refresh : ∀ chan bank first rows, Statement (.refresh chan bank first rows) := by
  intro _ _ _ _ _ _ e; exact kept_execRefresh e
theorem disturbanceRefresh : ∀ chan bank row, Statement (.disturbanceRefresh chan bank row) := by
  intro _ _ _ _ _ e; exact kept_execDisturbanceRefresh e
theorem patrolScrub : ∀ pa wrong elsewhere, Statement (.patrolScrub pa wrong elsewhere) := by
  intro _ _ _ _ _ e; exact kept_execPatrolScrub e
theorem arrayScrub : ∀ u r, Statement (.arrayScrub u r) := by
  intro _ _ _ _ e; exact kept_execArrayScrub e
theorem retrainWindow : ∀ chan done ok, Statement (.retrainWindow chan done ok) := by
  intro _ _ _ _ _ e; exact kept_execRetrainWindow e
theorem faceRecalibration : ∀ chan, Statement (.faceRecalibration chan) := by
  intro _ _ _ e; exact kept_execFaceRecalibration e
theorem temperatureReadout : ∀ chan tenths, Statement (.temperatureReadout chan tenths) := by
  intro _ _ _ _ e; exact kept_execTemperatureReadout e
theorem dataFrame : ∀ link dir octet f, Statement (.dataFrame link dir octet f) := by
  intro _ _ _ _ _ _ e; exact kept_execDataFrame e
theorem idleFrame : ∀ link dir octet f, Statement (.idleFrame link dir octet f) := by
  intro _ _ _ _ _ _ e; exact kept_execIdleFrame e
theorem capFrame : ∀ link dir octet f, Statement (.capFrame link dir octet f) := by
  intro _ _ _ _ _ _ e; exact kept_execCapFrame e
theorem widthFrame : ∀ link dir octet f, Statement (.widthFrame link dir octet f) := by
  intro _ _ _ _ _ _ e; exact kept_execWidthFrame e
theorem alignFrame : ∀ link dir octet f, Statement (.alignFrame link dir octet f) := by
  intro _ _ _ _ _ _ e; exact kept_execAlignFrame e
theorem recalFrame : ∀ link dir octet f, Statement (.recalFrame link dir octet f) := by
  intro _ _ _ _ _ _ e; exact kept_execRecalFrame e
theorem nakRepeat : ∀ link dir, Statement (.nakRepeat link dir) := by
  intro _ _ _ _ e; exact kept_execNakRepeat e
theorem frameTimeout : ∀ link, Statement (.frameTimeout link) := by
  intro _ _ _ e; exact kept_execFrameTimeout e
theorem lossOfSignal : ∀ link octet, Statement (.lossOfSignal link octet) := by
  intro _ _ _ _ e; exact kept_execLossOfSignal e
theorem octetRecalibration : ∀ link octet ok, Statement (.octetRecalibration link octet ok) := by
  intro _ _ _ _ _ e; exact kept_execOctetRecalibration e
theorem lnkCmdRetire : ∀ link mask, Statement (.lnkCmdRetire link mask) := by
  intro _ _ _ _ e; exact kept_execLnkCmdRetire e
theorem lnkCmdRecal : ∀ link, Statement (.lnkCmdRecal link) := by
  intro _ _ _ e; exact kept_execLnkCmdRecal e
theorem rdmaWrite : ∀ k, Statement (.rdmaWrite k) := by
  intro _ _ _ e; exact kept_execRdmaWrite e
theorem rdmaReadRequest : ∀ k, Statement (.rdmaReadRequest k) := by
  intro _ _ _ e; exact kept_execRdmaReadRequest e
theorem fetchAdd : ∀ k addend, Statement (.fetchAdd k addend) := by
  intro _ _ _ _ e; exact kept_execFetchAdd e
theorem cmpSwap : ∀ k cmp swap, Statement (.cmpSwap k cmp swap) := by
  intro _ _ _ _ _ e; exact kept_execCmpSwap e
theorem unsupportedOperation : ∀ k, Statement (.unsupportedOperation k) := by
  intro _ _ _ e; exact kept_execUnsupportedOperation e
theorem rdmaReadResponse : ∀ qp psn data, Statement (.rdmaReadResponse qp psn data) := by
  intro _ _ _ _ _ e; exact kept_execRdmaReadResponse e
theorem acknowledge : ∀ qp psn value, Statement (.acknowledge qp psn value) := by
  intro _ _ _ _ _ e; exact kept_execAcknowledge e
theorem nak : ∀ qp psn syndrome, Statement (.nak qp psn syndrome) := by
  intro _ _ _ _ _ e; exact kept_execNak e
theorem rnrNak : ∀ qp psn timer, Statement (.rnrNak qp psn timer) := by
  intro _ _ _ _ _ e; exact kept_execRnrNak (_timer := 0) e
theorem ackTimeout : ∀ qp, Statement (.ackTimeout qp) := by
  intro _ _ _ e; exact kept_execAckTimeout e
theorem cnp : ∀ qp, Statement (.cnp qp) := by
  intro _ _ _ e; exact kept_execCnp e
theorem cnpRateIncrease : ∀ qp, Statement (.cnpRateIncrease qp) := by
  intro _ _ _ e; exact kept_execCnpRateIncrease e
theorem pfcFrame : ∀ port half pause resume, Statement (.pfcFrame port half pause resume) := by
  intro _ _ _ _ _ _ e; exact kept_execPfcFrame e
theorem req : ∀ m, Statement (.req m) := by
  intro _ _ _ e; exact kept_execReq e
theorem rep : ∀ qp peerQpn peerPsn mtu depth, Statement (.rep qp peerQpn peerPsn mtu depth) := by
  intro _ _ _ _ _ _ _ e; exact kept_execRep e
theorem rtu : ∀ qp, Statement (.rtu qp) := by
  intro _ _ _ e; exact kept_execRtu e
theorem rej : ∀ qp reason, Statement (.rej qp reason) := by
  intro _ _ _ _ e; exact kept_execRej (_reason := 0) e
theorem dreq : ∀ qp, Statement (.dreq qp) := by
  intro _ _ _ e; exact kept_execDreq e
theorem drep : ∀ qp, Statement (.drep qp) := by
  intro _ _ _ e; exact kept_execDrep e
theorem windowReqRetry : ∀ win, Statement (.windowReqRetry win) := by
  intro _ _ _ e; exact kept_execWindowReqRetry e
theorem arp : ∀ port half vlan ip, Statement (.arp port half vlan ip) := by
  intro _ _ _ _ _ _ e; exact kept_execArp e
theorem neighborDiscovery : ∀ port half vlan ip, Statement (.neighborDiscovery port half vlan ip) := by
  intro _ _ _ _ _ _ e; exact kept_execNeighborDiscovery e
theorem delayReq : ∀ m, Statement (.delayReq m) := by
  intro _ _ _ e; exact kept_execDelayReq e
theorem pdelayReq : ∀ m, Statement (.pdelayReq m) := by
  intro _ _ _ e; exact kept_execPdelayReq e
theorem unmatchedFrame : ∀ port half, Statement (.unmatchedFrame port half) := by
  intro _ _ _ _ e; exact kept_execUnmatchedFrame e
theorem portUp : ∀ port half full, Statement (.portUp port half full) := by
  intro _ _ _ _ _ e; exact kept_execPortUp e
theorem portDown : ∀ port half, Statement (.portDown port half) := by
  intro _ _ _ _ e; exact kept_execPortDown e
theorem softStart : ∀ mv, Statement (.softStart mv) := by
  intro _ _ _ e; exact kept_execSoftStart e
theorem supplyWarning : ∀ mv, Statement (.supplyWarning mv) := by
  intro _ _ _ e; exact kept_execSupplyWarning e
theorem warningCleared : ∀ mv, Statement (.warningCleared mv) := by
  intro _ _ _ e; exact kept_execWarningCleared e
theorem coldReset : ∀ mv, Statement (.coldReset mv) := by
  intro _ _ _ e; exact kept_execColdReset e
theorem overvoltage : ∀ mv, Statement (.overvoltage mv) := by
  intro _ _ _ e; exact kept_execOvervoltage e
theorem modResetAssert : ∀ ns, Statement (.modResetAssert ns) := by
  intro _ _ _ e; exact kept_execModResetAssert e
theorem modResetRelease : Statement .modResetRelease := by
  intro _ _ e; exact kept_execModResetRelease e
theorem flashEnAssert : Statement .flashEnAssert := by
  intro _ _ e; exact kept_execFlashEnAssert e
theorem flashEnRelease : Statement .flashEnRelease := by
  intro _ _ e; exact kept_execFlashEnRelease e
theorem currentSample : ∀ mv ma, Statement (.currentSample mv ma) := by
  intro _ _ _ _ e; exact kept_execCurrentSample e
theorem powerCapLoop : Statement .powerCapLoop := by
  intro _ _ e; exact kept_execPowerCapLoop e
theorem pwrCapWrite : ∀ value, Statement (.pwrCapWrite value) := by
  intro _ _ _ e; exact kept_execPwrCapWrite e
theorem sensorSample : ∀ die node tenths, Statement (.sensorSample die node tenths) := by
  intro _ _ _ _ _ e; exact kept_execSensorSample e
theorem hotSensorTimeout : Statement .hotSensorTimeout := by
  intro _ _ e; exact kept_execHotSensorTimeout e
theorem latchSensorRead : ∀ tenths, Statement (.latchSensorRead tenths) := by
  intro _ _ _ e; exact kept_execLatchSensorRead e
theorem droopTrip : ∀ die node, Statement (.droopTrip die node) := by
  intro _ _ _ _ e; exact kept_execDroopTrip e
theorem droopEnd : ∀ die, Statement (.droopEnd die) := by
  intro _ _ _ e; exact kept_execDroopEnd e
theorem droopLimit : ∀ die, Statement (.droopLimit die) := by
  intro _ _ _ e; exact kept_execDroopLimit e
theorem withholdSummary : ∀ p, Statement (.withholdSummary p) := by
  intro _ _ _ e; exact kept_execWithholdSummary e
theorem ageingMonitorRead : ∀ die slow, Statement (.ageingMonitorRead die slow) := by
  intro _ _ _ _ e; exact kept_execAgeingMonitorRead e
theorem oscillatorCheck : ∀ die ppm stopped, Statement (.oscillatorCheck die ppm stopped) := by
  intro _ _ _ _ _ e; exact kept_execOscillatorCheck e
theorem watchdogExpiry : ∀ die faceChannel, Statement (.watchdogExpiry die faceChannel) := by
  intro _ _ _ _ e; exact kept_execWatchdogExpiry e
theorem firmwareWatchdog : Statement .firmwareWatchdog := by
  intro _ _ e; exact kept_execFirmwareWatchdog e
theorem domainFatal : ∀ cause suspects, Statement (.domainFatal cause suspects) := by
  intro _ _ _ _ e; exact kept_execDomainFatal e
theorem restartResume : ∀ unreadable, Statement (.restartResume unreadable) := by
  intro _ _ _ e; exact kept_execRestartResume e
theorem coldStart : Statement .coldStart := by
  intro _ _ e; exact kept_execColdStart e
theorem reducedService : Statement .reducedService := by
  intro _ _ e; exact kept_execReducedService e
theorem logicSelfTestDone : ∀ u pass, Statement (.logicSelfTestDone u pass) := by
  intro _ _ _ _ e; exact kept_execLogicSelfTestDone e
theorem ledgerSelfTestDone : ∀ u crusher pass, Statement (.ledgerSelfTestDone u crusher pass) := by
  intro _ _ _ _ _ e; exact kept_execLedgerSelfTestDone e
theorem fullService : Statement .fullService := by
  intro _ _ e; exact kept_execFullService e
theorem journalProgram : Statement .journalProgram := by
  intro _ _ e; exact kept_execJournalProgram e
theorem errorSnapshot : Statement .errorSnapshot := by
  intro _ _ e; exact kept_execErrorSnapshot e
theorem qdbCtlDiscard : ∀ p q, Statement (.qdbCtlDiscard p q) := by
  intro _ _ _ _ e; exact kept_execQdbCtlDiscard e
theorem qdbCtlResync : ∀ p q, Statement (.qdbCtlResync p q) := by
  intro _ _ _ _ e; exact kept_execQdbCtlResync e
theorem qdbEvtailWrite : ∀ p value, Statement (.qdbEvtailWrite p value) := by
  intro _ _ _ _ e; exact kept_execQdbEvtailWrite e
theorem secQuoteCtlGo : Statement .secQuoteCtlGo := by
  intro _ _ e; exact kept_execSecQuoteCtlGo e
theorem quoteComplete : Statement .quoteComplete := by
  intro _ _ e; exact kept_execQuoteComplete e
theorem rnrTimerExpiry : ∀ qp, Statement (.rnrTimerExpiry qp) := by
  intro _ _ _ e; exact kept_execRnrTimerExpiry e
theorem overvoltageCleared : ∀ mv, Statement (.overvoltageCleared mv) := by
  intro _ _ _ e; exact kept_execOvervoltageCleared e
theorem fru3v3Removal : Statement .fru3v3Removal := by
  intro _ _ e; exact kept_execFru3v3Removal e
theorem controlSegmentPoll : ∀ task aborted arrived, Statement (.controlSegmentPoll task aborted arrived) := by
  intro _ _ _ _ _ e; exact kept_execControlSegmentPoll e
theorem controlComplexStepChange : ∀ step, Statement (.controlComplexStepChange step) := by
  intro _ _ _ e; exact kept_execControlComplexStepChange e
theorem fecUncorrectableFrame : ∀ port half, Statement (.fecUncorrectableFrame port half) := by
  intro _ _ _ _ e; exact kept_execFecUncorrectableFrame e

end Sys2Proof.Laws.Frame
end

