-- ==== Sys2Proof/Laws/Regs.lean ====
section
/-! SUPPORT. Thread registers: what a read gives after a write to a register, a block or the lanes of a mask; what an instruction
that may issue does. -/

namespace Sys2Proof.Machine
open Sys2Proof.Num

/-! ### Registers and blocks -/

theorem readReg_writeReg (g : Group) {l r l' r' : Nat} (v : W32) (hr : r < 256) (hr' : r' < 256) :
    readReg (writeReg g l r v) l' r' = if l' = l ∧ r' = r then v else readReg g l' r' := by
  unfold readReg writeReg
  rw [look_put]
  have : (256 * l' + r' = 256 * l + r) ↔ (l' = l ∧ r' = r) := by omega
  simp only [this]

theorem writeReg_eq (g : Group) (l r : Nat) (v : W32) : writeReg g l r v = { g with regs := (writeReg g l r v).regs } := rfl

theorem writeBlock_eq (g : Group) (l r n v : Nat) : writeBlock g l r n v = { g with regs := (writeBlock g l r n v).regs } := by
  induction n generalizing g r v with
  | zero => rfl
  | succ n ih => rw [writeBlock, ih]; rfl

/-- Registers outside a block that is written. -/
theorem readReg_writeBlock_ne (g : Group) {l r n l' r' : Nat} (v : Nat) (hr : r + n ≤ 256) (hr' : r' < 256)
    (h : ¬(l' = l ∧ r ≤ r' ∧ r' < r + n)) : readReg (writeBlock g l r n v) l' r' = readReg g l' r' := by
  induction n generalizing g r v with
  | zero => rfl
  | succ n ih =>
    rw [writeBlock, ih _ _ (by omega) (by omega), readReg_writeReg _ _ (by omega) hr', if_neg (by omega)]

theorem readBlock_congr {g g' : Group} {l r n : Nat} (h : ∀ k, r ≤ k → k < r + n → readReg g l k = readReg g' l k) :
    readBlock g l r n = readBlock g' l r n := by
  induction n generalizing r with
  | zero => rfl
  | succ n ih =>
    rw [readBlock, readBlock, h r le_rfl (by omega), ih (fun k h1 h2 => h k (by omega) (by omega))]

/-- The block that was written. -/
theorem readBlock_writeBlock (g : Group) {l r n : Nat} (v : Nat) (hr : r + n ≤ 256) :
    readBlock (writeBlock g l r n v) l r n = v % 2 ^ (32 * n) := by
  induction n generalizing g r v with
  | zero => simp [readBlock, Nat.mod_one]
  | succ n ih =>
    rw [readBlock]
    have h1 : readReg (writeBlock g l r (n + 1) v) l r = BitVec.ofNat 32 v := by
      rw [writeBlock, readReg_writeBlock_ne _ _ (by omega) (by omega) (by omega), readReg_writeReg _ _ (by omega) (by omega)]
      simp
    have h2 : readBlock (writeBlock g l r (n + 1) v) l (r + 1) n = v / 2 ^ 32 % 2 ^ (32 * n) := by
      rw [writeBlock, ih _ _ (by omega)]
    rw [h1, h2, BitVec.toNat_ofNat, Nat.mul_add, Nat.mul_one, Nat.add_comm (32 * n) 32, pow_add, Nat.mod_mul]

theorem readBlock_writeBlock_lane (g : Group) {l r n l' : Nat} (v : Nat) (hr : r + n ≤ 256) (h : l' ≠ l) :
    readBlock (writeBlock g l r n v) l' r n = readBlock g l' r n :=
  readBlock_congr fun k _ h2 => readReg_writeBlock_ne g v hr (by omega) (by omega)

/-! ### Lanes -/

theorem mem_lanes {m : W32} {l : Nat} : l ∈ lanes m ↔ l < 32 ∧ m.getLsbD l = true := by simp [lanes]

theorem lanes_nodup (m : W32) : (lanes m).Nodup := List.Nodup.filter _ List.nodup_range

/-- What `perLane` does: only the free-value counter of the state may move; each lane of the mask holds in its block a value that
the lane function gives, and every other register is as before. -/
theorem perLane_spec (s : State) (g : Group) (m : W32) {r n : Nat} (f : State → Nat → Nat × State) (hr : r + n ≤ 256)
    (P : Nat → Nat → Prop) (hP : ∀ t l, P l (f t l).1) (hf : ∀ t l, ∃ k, (f t l).2 = { t with free := k }) :
    (∃ k, (perLane s g m r n f).1 = { s with free := k }) ∧
      VecDone g (perLane s g m r n f).2 m r n ∧
      ∀ l, l < 32 → m.getLsbD l = true → ∃ v, P l v ∧ readBlock (perLane s g m r n f).2 l r n = v % 2 ^ (32 * n) := by
  suffices H : ∀ (ls : List Nat) (s0 : State) (g0 : Group), (∀ l ∈ ls, l < 32) → ls.Nodup →
      let q := ls.foldl (fun (p : State × Group) l => ((f p.1 l).2, writeBlock p.2 l r n (f p.1 l).1)) (s0, g0)
      (∃ k, q.1 = { s0 with free := k }) ∧ q.2 = { g0 with regs := q.2.regs } ∧
        (∀ l k, l < 32 → k < 256 → ¬(l ∈ ls ∧ r ≤ k ∧ k < r + n) → readReg q.2 l k = readReg g0 l k) ∧
        ∀ l ∈ ls, ∃ v, P l v ∧ readBlock q.2 l r n = v % 2 ^ (32 * n) by
    obtain ⟨h1, h2, h3, h4⟩ := H (lanes m) s g (fun l h => (mem_lanes.1 h).1) (lanes_nodup m)
    refine ⟨h1, ⟨h2, fun l k hl hk hn => h3 l k hl hk fun h => hn ⟨(mem_lanes.1 h.1).2, h.2⟩⟩, fun l hl hm => h4 l (mem_lanes.2 ⟨hl, hm⟩)⟩
  intro ls
  induction ls with
  | nil => intro s0 g0 _ _; exact ⟨⟨s0.free, rfl⟩, rfl, fun _ _ _ _ _ => rfl, by simp⟩
  | cons a ls ih =>
    intro s0 g0 hl hn
    obtain ⟨⟨k, h1⟩, h2, h3, h4⟩ := ih (f s0 a).2 (writeBlock g0 a r n (f s0 a).1) (fun l h => hl l (by simp [h])) (List.nodup_cons.1 hn).2
    obtain ⟨k', hk'⟩ := hf s0 a
    have ha : a ∉ ls := (List.nodup_cons.1 hn).1
    refine ⟨⟨k, by simpa [hk'] using h1⟩, ?_, ?_, ?_⟩
    · rw [List.foldl_cons, h2, writeBlock_eq]
    · intro l k0 hl0 hk0 hno
      rw [List.foldl_cons, h3 l k0 hl0 hk0 (fun h => hno ⟨by simp [h.1], h.2⟩),
        readReg_writeBlock_ne _ _ hr hk0 (fun h => hno ⟨by simp [h.1], h.2⟩)]
    · intro l hm
      rw [List.foldl_cons]
      by_cases hla : l = a
      · subst hla
        refine ⟨_, hP s0 l, ?_⟩
        rw [readBlock_congr (g' := writeBlock g0 l r n (f s0 l).1) (fun k0 _ hk1 => h3 l k0 (hl l (by simp)) (by omega) fun h => ha h.1),
          readBlock_writeBlock _ _ hr]
      · exact h4 l ((List.mem_cons.1 hm).resolve_left hla)

/-! ### Issue -/

theorem withIssue_active {s : State} {g : GRef} {x : Group} {p : Path} (h : MayIssue s g x p) (k : Group → Path → State) :
    withIssue s (gidOf g) k = fetched s (gidOf g) x p (k x p) := by
  unfold withIssue
  rw [h.active]
  simp only [h.fetch]

theorem firstFault_none {l : List (Bool × Nat)} (h : ∀ e ∈ l, e.1 = false) : firstFault l = none := by
  induction l with
  | nil => rfl
  | cons e l ih =>
    obtain ⟨b, c⟩ := e
    have hb : b = false := h (b, c) (by simp)
    simp only [firstFault, hb]
    exact ih fun e he => h e (by simp [he])

/-- An instruction that is ready and breaks no rule has its effect. -/
theorem issue_acts {s : State} {g : GRef} {x : Group} {p : Path} (h : MayIssue s g x p) {w : W64}
    {faults : Group → Path → List (Bool × Nat)} {ready : Group → Path → Bool} {act : Group → Path → State}
    {mask26 : Group → Path → W32} (hr : ready x p = true) (hf : firstFault (faults x p) = none) :
    issue s g w faults ready act mask26 = fetched s (gidOf g) x p (act x p) := by
  unfold issue
  rw [withIssue_active h]
  simp [hr, hf, h.ecc]

/-- An instruction that is ready and breaks a rule parks the group with the code of the first rule broken (R157, R548). -/
theorem issue_faults {s : State} {g : GRef} {x : Group} {p : Path} (h : MayIssue s g x p) {w : W64}
    {faults : Group → Path → List (Bool × Nat)} {ready : Group → Path → Bool} {act : Group → Path → State}
    {mask26 : Group → Path → W32} {c : Nat} (hr : ready x p = true) (hf : firstFault (faults x p) = some c) :
    issue s g w faults ready act mask26 =
      fetched s (gidOf g) x p (parkAt s (gidOf g) p c 0 w (if c = 0x26 then mask26 x p else p.mask)) := by
  unfold issue
  rw [withIssue_active h]
  simp [hr, hf]

theorem blocksFree_iff {s : State} {g : Nat} {l : List (Nat × Nat)} :
    blocksFree s g l = true ↔ ∀ e ∈ l, regsBusy s g e.1 e.2 = false := by
  unfold blocksFree
  rw [List.all_eq_true]
  constructor
  · intro h e he; simpa using h e he
  · intro h e he; simpa using h e he

theorem vecBase_le (f : BitVec 4) (r : BitVec 8) : vecBase f r + vecRegs f ≤ 256 := by
  have h : ∀ f : BitVec 4, vecRegs f = 1 ∨ vecRegs f = 2 ∨ vecRegs f = 4 := by decide
  have hr := r.isLt
  unfold vecBase
  rcases h f with h | h | h <;> rw [h] <;> omega

end Sys2Proof.Machine
end

