-- ==== Sys2Proof/Laws/Reach.lean ====
section
/-! SUPPORT. Words and references that break no rule: what the shared checks and the shared ways to memory then answer. -/

namespace Sys2Proof.Machine

theorem wordFaults_none {x : Group} {w : W64} {op : Nat} {fields blocks : List (Nat × Nat)} {acc : Option Nat}
    (h : WordOk x w op fields blocks acc) : ∀ e ∈ wordFaults x w op fields blocks acc, e.1 = false := by
  obtain ⟨h1, h2, h3, h4⟩ := h
  intro e he
  simp only [wordFaults, List.mem_cons, List.mem_nil_iff, or_false] at he
  rcases he with rfl | rfl | rfl | rfl
  · simp [h1]
  · simp [h2]
  · rw [List.any_eq_false]; rintro ⟨r, n⟩ hr; simpa [inGrant] using h3 _ hr
  · cases acc with
    | none => rfl
    | some a => have := h4 a rfl; simpa using this

theorem formatFaults_none {s : State} {b : Bool} {fs : List (BitVec 4)} (h : FormatsOk s b fs) :
    ∀ e ∈ formatFaults s (fs.map fun f => (f, b)), e.1 = false := by
  intro e he
  obtain ⟨x, hx, he⟩ := List.mem_flatMap.1 he
  obtain ⟨f, hf, rfl⟩ := List.mem_map.1 hx
  obtain ⟨h1, h2, h3⟩ := h _ hf
  simp only [List.mem_cons, List.mem_nil_iff, or_false] at he
  rcases he with rfl | rfl | rfl
  · simpa using h1
  · cases b
    · rfl
    · simpa using h3 rfl
  · simp [h2]

theorem refFault_none {s : State} {g : GRef} {x : Group} {u : Use} {c : Bool} {refs : List Ref} (h : RefsOk s g x u c refs) :
    refFault c (refs.map fun r => (r, hitOf s g.cl x u r)) = none := by
  unfold refFault
  rw [List.findSome?_eq_none_iff.2]
  intro r hr
  obtain ⟨r', hr', rfl⟩ := List.mem_map.1 hr
  obtain ⟨h1, h2, h3⟩ := h _ hr'
  simp only [h2, refCode]
  cases c
  · rfl
  · simpa using h3 rfl

/-- Loads whose references are all translated, on segments and with misses that have room, are sent. -/
theorem doLoads_sends {s : State} {g : GRef} {x : Group} {p : Path} {w : W64} {refs : List Ref} (h : RefsOk s g x .load true refs)
    (hs : segsFree s (gidOf g) .load (hitsFor s g x .load refs) = true)
    (hr : readRoom s g.cl g.core (hitsFor s g x .load refs) = true) :
    doLoads s g x p w refs = sendLoads (setGroup s (gidOf g) (some (advance x))) (gidOf g) p.pc w (hitsFor s g x .load refs) := by
  have h1 := refFault_none h
  have : (segsFree s (gidOf g) .load (hitsFor s g x .load refs) && readRoom s g.cl g.core (hitsFor s g x .load refs)) = true := by
    rw [hs, hr]; rfl
  unfold doLoads
  dsimp only
  rw [h1]
  exact if_pos this

/-- Stores likewise. -/
theorem doStores_sends {s : State} {g : GRef} {x : Group} {p : Path} {w : W64} {c : Bool} {refs : List Ref}
    (h : RefsOk s g x .store c refs) (hs : segsFree s (gidOf g) .store (hitsFor s g x .store refs) = true) :
    doStores s g x p w c refs = sendStores (setGroup s (gidOf g) (some (advance x))) (gidOf g) p.pc w (hitsFor s g x .store refs) := by
  have h1 := refFault_none h
  unfold doStores
  dsimp only
  rw [h1]
  exact if_pos hs

end Sys2Proof.Machine
end

