-- ==== Sys2Proof/Laws/Vector.lean ====
section
/-! SUPPORT. What an instruction of the vector pipes and of the special-function unit does when it may issue. -/

namespace Sys2Proof.Machine
open Sys2Proof.Num

theorem checkedFails_retried (covered : Bool) (g : GRef) (s : State) :
    (if checkedFails covered g = 0 then s else countRetry s) = retried covered g s := by
  unfold checkedFails retried
  cases covered <;> by_cases h : g.fails = 0 <;> simp [h]

/-- A vector instruction whose formats, registers and rounding mode are legal computes, and its group goes on. -/
theorem vecIssue_next {s : State} {g : GRef} {x : Group} {p : Path} (h : MayIssue s g x p) {v : VArgs} {legal covered rounds : Bool}
    {fmts : List (BitVec 4)} {srcs dsts : List (Nat × Nat)} {act : State → Group → Path → State × Group}
    (hl : legal = true ∨ 0xF#4 ∈ fmts) (hs : ∀ f ∈ fmts, f ≠ 0xF#4 ∧ inSet16 s f = true)
    (hr : RegsFree s g x (srcs ++ dsts)) (hm : rounds = true → v.rm.toNat < 5 ∧ (v.rm = 4 → RegsFree s g x [(v.rblk.toNat, 6)]))
    (hc : covered = true → g.fails < 3) :
    vecIssue s g v legal covered rounds fmts srcs dsts act
      = fetched s (gidOf g) x p (retire (act (retried covered g s) x p).1 (gidOf g) (act (retried covered g s) x p).2) := by
  have hregs : RegsFree s g x (srcs ++ dsts ++ if rounds && v.rm = 4 then [(v.rblk.toNat, 6)] else []) := by
    intro e he
    rcases List.mem_append.1 he with he | he
    · exact hr e he
    · by_cases hb : (rounds && decide (v.rm = 4)) = true
      · simp only [Bool.and_eq_true, decide_eq_true_eq] at hb
        exact (hm hb.1).2 hb.2 e (by simpa [hb.1, hb.2] using he)
      · rw [if_neg hb] at he; cases he
  have hF : ∀ f ∈ fmts, f ≠ 0xF#4 := fun f hf => (hs f hf).1
  unfold vecIssue
  rw [issue_acts h]
  · have hf : ¬ 3 ≤ checkedFails covered g := by
      unfold checkedFails
      cases covered with
      | false => simp
      | true => have := hc rfl; simp; omega
    unfold residue
    rw [if_neg hf, checkedFails_retried]
  · exact blocksFree_iff.2 fun e he => (hregs e he).2
  · apply firstFault_none
    intro e he
    have hl' : legal = true := by
      rcases hl with hl | hl
      · exact hl
      · exact absurd rfl (hF _ hl)
    simp only [List.mem_append, List.mem_cons, List.mem_nil_iff, or_false] at he
    rcases he with ((he | he) | he) | he
    · subst he; simp [hl']
    · subst he
      rw [List.any_eq_false]
      intro r hr2
      have := (hregs r hr2).1
      simp [inGrant, this]
    · exact formatFaults_none (b := false) (fun f hf => ⟨(hs f hf).1, (hs f hf).2, fun h => by cases h⟩) e he
    · subst he
      cases hrd : rounds with
      | false => simp
      | true => have := (hm hrd).1; simp [badMode]; omega

theorem perElem_eq (f : BitVec 4) (op : State → Nat → Nat × State) (s : State) :
    perElem f op s = if isPacked f then ((op s 0).1 % 2 ^ 16 + 2 ^ 16 * (op (op s 0).2 1).1, (op (op s 0).2 1).2) else op s 0 := by
  unfold perElem
  rcases op s 0 with ⟨a, t⟩
  dsimp only

/-- What `perElem` gives: the element alone, or the two halves side by side. -/
theorem perElem_spec (f : BitVec 4) (op : State → Nat → Nat × State) (s : State) (Q : Nat → Nat → Prop)
    (hQ : ∀ t h, Q h (op t h).1) :
    ∃ a b, Q 0 a ∧ Q 1 b ∧ (perElem f op s).1 = if isPacked f then a % 2 ^ 16 + 2 ^ 16 * b else a := by
  refine ⟨(op s 0).1, (op (op s 0).2 1).1, hQ _ _, hQ _ _, ?_⟩
  rw [perElem_eq]
  split <;> rfl

theorem perElem_free (f : BitVec 4) (op : State → Nat → Nat × State) (s : State)
    (ho : ∀ t h, ∃ k, (op t h).2 = { t with free := k }) : ∃ k, (perElem f op s).2 = { s with free := k } := by
  obtain ⟨k, hk⟩ := ho s 0
  obtain ⟨k', hk'⟩ := ho (op s 0).2 1
  rw [perElem_eq]
  split
  · rw [hk] at hk'
    exact ⟨k', by rw [hk]; exact hk'⟩
  · exact ⟨k, hk⟩

theorem elemBits_packed {f : BitVec 4} (h : isPacked f = true) : elemBits f = 16 ∧ vecRegs f = 1 ∧ halves f = 2 := by
  revert f; decide

theorem halves_single {f : BitVec 4} (h : isPacked f = false) : halves f = 1 := by simp [halves, h]

/-- Element `h` of a block that holds the value of a lane. -/
theorem laneElem_of_block {g : Group} {f : BitVec 4} {r : BitVec 8} {l : Nat} {a b : Nat} (hw : elemBits f ≤ 32 * vecRegs f)
    (h : readBlock g l (vecBase f r) (vecRegs f) = (if isPacked f then a % 2 ^ 16 + 2 ^ 16 * b else a) % 2 ^ (32 * vecRegs f)) :
    laneElem g f r l 0 = a % 2 ^ elemBits f ∧ (isPacked f = true → laneElem g f r l 1 = b % 2 ^ elemBits f) := by
  unfold laneElem
  rw [h]
  by_cases hp : isPacked f = true
  · obtain ⟨h1, h2, -⟩ := elemBits_packed hp
    simp only [hp, if_true, h1, h2]
    constructor
    · simp only [Nat.mul_zero, Nat.shiftRight_zero]; omega
    · intro _
      simp only [Nat.shiftRight_eq_div_pow]; omega
  · refine ⟨?_, fun h => absurd h hp⟩
    simp only [hp, Nat.mul_zero, Nat.shiftRight_zero, Bool.false_eq_true, if_false]
    exact Nat.mod_mod_of_dvd a (pow_dvd_pow 2 hw)

/-- A vector instruction that computes one value for each lane. -/
theorem vecLane_next {s : State} {g : GRef} {x : Group} {p : Path} (h : MayIssue s g x p) {v : VArgs} {legal covered rounds : Bool}
    {fmts : List (BitVec 4)} {srcs : List (Nat × Nat)} {r n : Nat} {F : Group → State → Nat → Nat × State}
    (hl : legal = true ∨ 0xF#4 ∈ fmts) (hs : ∀ f ∈ fmts, f ≠ 0xF#4 ∧ inSet16 s f = true)
    (hr : RegsFree s g x (srcs ++ [(r, n)])) (hm : rounds = true → v.rm.toNat < 5 ∧ (v.rm = 4 → RegsFree s g x [(v.rblk.toNat, 6)]))
    (hc : covered = true → g.fails < 3) (hn : r + n ≤ 256)
    (P : Nat → Nat → Prop) (hP : ∀ t l, P l (F x t l).1) (hf : ∀ t l, ∃ k, (F x t l).2 = { t with free := k }) :
    ∃ y k, vecIssue s g v legal covered rounds fmts srcs [(r, n)] (fun s x p => perLane s x p.mask r n (F x))
        = fetched s (gidOf g) x p (setGroup { retried covered g s with free := k } (gidOf g) (some (advance y))) ∧
      VecDone x y p.mask r n ∧
      ∀ l, l < 32 → p.mask.getLsbD l = true → ∃ w, P l w ∧ readBlock y l r n = w % 2 ^ (32 * n) := by
  rw [vecIssue_next h hl hs hr hm hc]
  obtain ⟨⟨k, h1⟩, h2, h3⟩ := perLane_spec (retried covered g s) x p.mask (F x) hn P hP hf
  exact ⟨_, k, by rw [h1]; rfl, h2, h3⟩

/-- The same when no lane takes a free value. -/
theorem vecLane_next_fixed {s : State} {g : GRef} {x : Group} {p : Path} (h : MayIssue s g x p) {v : VArgs} {legal covered rounds : Bool}
    {fmts : List (BitVec 4)} {srcs : List (Nat × Nat)} {r n : Nat} {F : Group → State → Nat → Nat × State}
    (hl : legal = true ∨ 0xF#4 ∈ fmts) (hs : ∀ f ∈ fmts, f ≠ 0xF#4 ∧ inSet16 s f = true)
    (hr : RegsFree s g x (srcs ++ [(r, n)])) (hm : rounds = true → v.rm.toNat < 5 ∧ (v.rm = 4 → RegsFree s g x [(v.rblk.toNat, 6)]))
    (hc : covered = true → g.fails < 3) (hn : r + n ≤ 256) (e : Nat → Nat) (hF : ∀ t l, F x t l = (e l, t)) :
    ∃ y, vecIssue s g v legal covered rounds fmts srcs [(r, n)] (fun s x p => perLane s x p.mask r n (F x))
        = fetched s (gidOf g) x p (setGroup (retried covered g s) (gidOf g) (some (advance y))) ∧
      VecDone x y p.mask r n ∧
      ∀ l, l < 32 → p.mask.getLsbD l = true → readBlock y l r n = e l % 2 ^ (32 * n) := by
  rw [vecIssue_next h hl hs hr hm hc]
  obtain ⟨-, h2, h3⟩ := perLane_spec (retried covered g s) x p.mask (F x) hn (fun l w => w = e l) (fun t l => by rw [hF])
    (fun t l => ⟨t.free, by rw [hF]⟩)
  have h1 : ∀ (ls : List Nat) (z : Group) (t : State),
      (ls.foldl (fun (q : State × Group) l => ((F x q.1 l).2, writeBlock q.2 l r n (F x q.1 l).1)) (t, z)).1 = t := by
    intro ls
    induction ls with
    | nil => intro z t; rfl
    | cons a ls ih => intro z t; rw [List.foldl_cons, ih, hF]
  refine ⟨(perLane (retried covered g s) x p.mask r n (F x)).2, ?_, h2, fun l hl hm => ?_⟩
  · have : (perLane (retried covered g s) x p.mask r n (F x)).1 = retried covered g s := h1 _ _ _
    unfold retire
    rw [this]
  · obtain ⟨w, rfl, hw⟩ := h3 l hl hm
    exact hw

/-- What `perElem` gives when its operation takes no free value. -/
theorem perElem_fixed (f : BitVec 4) (e : Nat → Nat) (s : State) :
    perElem f (fun s h => (e h, s)) s = (if isPacked f then e 0 % 2 ^ 16 + 2 ^ 16 * e 1 else e 0, s) := by
  rw [perElem_eq]; split <;> rfl

/-- Elements of a block that holds what `perElem` gave. -/
theorem laneElem_packed {y : Group} {f : BitVec 4} {r : BitVec 8} {l h : Nat} {e : Nat → Nat} (hw : elemBits f ≤ 32 * vecRegs f)
    (hb : readBlock y l (vecBase f r) (vecRegs f) = (if isPacked f then e 0 % 2 ^ 16 + 2 ^ 16 * e 1 else e 0) % 2 ^ (32 * vecRegs f))
    (hh : h < halves f) : laneElem y f r l h = e h % 2 ^ elemBits f := by
  obtain ⟨k1, k2⟩ := laneElem_of_block hw hb
  by_cases hp : isPacked f = true
  · have : h = 0 ∨ h = 1 := by simp [halves, hp] at hh; omega
    rcases this with rfl | rfl
    · exact k1
    · exact k2 hp
  · have : h = 0 := by simp [halves, hp] at hh; omega
    subst this; exact k1

/-- What an arithmetic instruction does. -/
theorem arith_next {s : State} {g : GRef} {x : Group} {p : Path} (h : MayIssue s g x p) {v : VArgs} {fmts : List Nat} {covered : Bool}
    {n : Nat} {ff : FloatFn} {fi : IntFn} (hc : covered = true → g.fails < 3) (hm : v.fmt.toNat ∈ fmts) (h15 : 15 ∉ fmts)
    (hw : ∀ f : BitVec 4, f.toNat ∈ fmts → elemBits f ≤ 32 * vecRegs f)
    (hi : inSet16 s v.fmt = true)
    (hr : RegsFree s g x (vecSources v v.fmt n ++ [(vecBase v.fmt v.rd, vecRegs v.fmt)]))
    (hrm : v.fmt.toNat ≤ 3 → v.rm.toNat < 5 ∧ (v.rm = 4 → RegsFree s g x [(v.rblk.toNat, 6)])) :
    ∃ y, arith s g v fmts covered n ff fi = fetched s (gidOf g) x p (setGroup (retried covered g s) (gidOf g) (some (advance y))) ∧
      VecDone x y p.mask (vecBase v.fmt v.rd) (vecRegs v.fmt) ∧
      ∀ l h, l < 32 → p.mask.getLsbD l = true → h < halves v.fmt →
        laneElem y v.fmt v.rd l h = (let a := laneElem x v.fmt v.ra l h
          let b := if n < 2 then 0 else laneElem x v.fmt v.rb l h
          let c := if n < 3 then 0 else laneElem x v.fmt v.rc l h
          match kindOf v.fmt with
          | .float spec =>
            let r := vecRnd x v (elemPos v.fmt l h)
            roundX spec r.rm r.sat r.u (ff r.rm (decodeFloat spec a) (decodeFloat spec b) (decodeFloat spec c))
          | _ => fi (elemBits v.fmt) a b c % 2 ^ elemBits v.fmt) % 2 ^ elemBits v.fmt := by
  obtain ⟨e, he⟩ : ∃ e : Nat → Nat → Nat, e = fun l h =>
      let a := laneElem x v.fmt v.ra l h
      let b := if n < 2 then 0 else laneElem x v.fmt v.rb l h
      let c := if n < 3 then 0 else laneElem x v.fmt v.rc l h
      match kindOf v.fmt with
      | .float spec =>
        let r := vecRnd x v (elemPos v.fmt l h)
        roundX spec r.rm r.sat r.u (ff r.rm (decodeFloat spec a) (decodeFloat spec b) (decodeFloat spec c))
      | _ => fi (elemBits v.fmt) a b c % 2 ^ elemBits v.fmt := ⟨_, rfl⟩
  obtain ⟨y, h1, h2, h3⟩ := vecLane_next_fixed h (v := v) (legal := fmts.contains v.fmt.toNat) (covered := covered)
    (rounds := decide (v.fmt.toNat ≤ 3)) (fmts := [v.fmt]) (srcs := vecSources v v.fmt n) (r := vecBase v.fmt v.rd)
    (n := vecRegs v.fmt) (F := fun x' s l => perElem v.fmt (fun s h =>
        let a := laneElem x' v.fmt v.ra l h
        let b := if n < 2 then 0 else laneElem x' v.fmt v.rb l h
        let c := if n < 3 then 0 else laneElem x' v.fmt v.rc l h
        (match kindOf v.fmt with
         | .float spec =>
           let r := vecRnd x' v (elemPos v.fmt l h)
           roundX spec r.rm r.sat r.u (ff r.rm (decodeFloat spec a) (decodeFloat spec b) (decodeFloat spec c))
         | _ => fi (elemBits v.fmt) a b c % 2 ^ elemBits v.fmt, s)) s)
    (.inl (by simpa using hm)) (by
      intro f hf
      simp only [List.mem_singleton] at hf
      subst hf
      exact ⟨fun e => h15 (by rw [e] at hm; exact hm), hi⟩) hr (by
      intro hf; simp only [decide_eq_true_eq] at hf; exact hrm hf) hc (vecBase_le _ _)
    (fun l => if isPacked v.fmt then e l 0 % 2 ^ 16 + 2 ^ 16 * e l 1 else e l 0) (fun t l => by
      rw [← perElem_fixed, he])
  refine ⟨y, h1, h2, fun l k hl hk hh => ?_⟩
  rw [laneElem_packed (e := e l) (hw _ hm) (h3 l hl hk) hh, he]

/-- From a meaning that is `arith` to the statement of its kind. -/
theorem vecOp_of {c : GRef → VArgs → Instr} {fmts : List Nat} {cov : BitVec 4 → Bool} {n : Nat} {val : Group → VArgs → Nat → Nat → Nat}
  {ff : FloatFn} {fi : IntFn} (hc : ∀ g v s, exec (c g v) s = onUnit g.ok (arith s g v fmts (cov v.fmt) n ff fi))
  (h15 : 15 ∉ fmts) (hw : ∀ f : BitVec 4, f.toNat ∈ fmts → elemBits f ≤ 32 * vecRegs f)
  (hv : ∀ x v l h, v.fmt.toNat ∈ fmts → (let a := laneElem x v.fmt v.ra l h
          let b := if n < 2 then 0 else laneElem x v.fmt v.rb l h
          let c := if n < 3 then 0 else laneElem x v.fmt v.rc l h
          match kindOf v.fmt with
          | .float spec =>
            let r := vecRnd x v (elemPos v.fmt l h)
            roundX spec r.rm r.sat r.u (ff r.rm (decodeFloat spec a) (decodeFloat spec b) (decodeFloat spec c))
          | _ => fi (elemBits v.fmt) a b c % 2 ^ elemBits v.fmt) % 2 ^ elemBits v.fmt = val x v l h % 2 ^ elemBits v.fmt) :
  VecOp c fmts cov n val := by
  intro g v s x p h hf hm hi hr hrm
  obtain ⟨y, h1, h2, h3⟩ := arith_next h (ff := ff) (fi := fi) hf hm h15 hw hi hr hrm
  refine ⟨y, by rw [hc]; exact (onUnit_next _ _ _).2 ⟨h.unit, h1⟩, h2, ?_⟩
  intro l k hl hk hh
  exact (h3 l k hl hk hh).trans (hv x v l k hm)

/-- From a meaning that computes lane by lane, with free values, to the statement of its kind. -/
theorem choice_of {c : GRef → VArgs → Instr} {fmts : List Nat} {dst : VArgs → Nat × Nat} {w : VArgs → Nat} {P : Group → VArgs → Nat → Nat → Nat → Prop}
   {op : VArgs → Group → Nat → State → Nat → Nat × State} {leg : BitVec 4 → Bool} 
   {srcs : VArgs → List (Nat × Nat)}
  (hc : ∀ g v s, exec (c g v) s = onUnit g.ok (vecIssue s g v (leg v.fmt) false false [v.fmt] (srcs v) [dst v] fun s x p =>
     perLane s x p.mask (dst v).1 (dst v).2 fun s l => perElem v.fmt (op v x l) s))
  (hleg : ∀ v : VArgs, v.fmt.toNat ∈ fmts → leg v.fmt = true ∧ v.fmt ≠ 0xF#4 ∧ srcs v = vecSources v v.fmt 2 ∧ (dst v).1 + (dst v).2 ≤ 256 ∧ 
     (if isPacked v.fmt then w v = 16 else w v ≤ 32 * (dst v).2) ∧ 1 ≤ (dst v).2)
  (hP : ∀ v x l t h, v.fmt.toNat ∈ fmts → h < halves v.fmt → P x v l h ((op v x l t h).1 % 2 ^ w v))
  (hf : ∀ v x l t h, ∃ k, (op v x l t h).2 = { t with free := k }) : VecChoice c fmts dst w P := by
  intro g v s x p h hm hi hr
  obtain ⟨e1, e2, e3, e4, e5, e6⟩ := hleg v hm
  obtain ⟨y, k, h1, h2, h3⟩ := vecLane_next h (v := v) (legal := leg v.fmt) (covered := false) (rounds := false) (fmts := [v.fmt]) (srcs := srcs v)
     (r := (dst v).1) (n := (dst v).2) (F := fun x s l => perElem v.fmt (op v x l) s) (.inl e1) (by simp [e2, hi]) (by rw [e3]; exact hr) (by simp) (by simp) e4
     (fun l z => ∃ a b, (P x v l 0 (a % 2 ^ w v)) ∧ (1 < halves v.fmt → P x v l 1 (b % 2 ^ w v)) ∧ z = if isPacked v.fmt then a % 2 ^ 16 + 2 ^ 16 * b else a) 
     (fun t l => by
        obtain ⟨a, b, ha, hb, he⟩ := perElem_spec v.fmt (op v x l) t (fun h a => h < halves v.fmt → P x v l h (a % 2 ^ w v)) (fun t h hh => hP v x l t h hm hh)
        exact ⟨a, b, ha (by unfold halves; split <;> omega), hb, he⟩)
     (fun t l => perElem_free _ _ _ (fun t h => hf v x l t h))
  refine ⟨y, k, ?_, h2, ?_⟩
  · rw [hc]; refine (onUnit_next _ _ _).2 ⟨h.unit, ?_⟩; simpa [retried] using h1
  · intro l q hl hk hq
    obtain ⟨z, ⟨a, b, ha, hb, rfl⟩, hz⟩ := h3 l hl hk
    rw [hz]
    by_cases hp : isPacked v.fmt = true
    · simp only [hp, if_true] at e5 ⊢
      have : q = 0 ∨ q = 1 := by simp [halves, hp] at hq; omega
      have hd : (2:ℕ)^32 ∣ 2 ^ (32 * (dst v).2) := pow_dvd_pow 2 (by omega)
      generalize hM : 2 ^ (32 * (dst v).2) = M at *
      obtain ⟨c, rfl⟩ := hd
      rw [e5] at ha hb ⊢
      have key : ∀ z : ℕ, z % (2^32*c) % 2^32 = z % 2^32 := fun z => Nat.mod_mod_of_dvd z ⟨c, rfl⟩
      have k2 := key (a % 2 ^ 16 + 2 ^ 16 * b)
      rcases this with rfl | rfl
      · convert ha using 1
        simp only [Nat.mul_zero, Nat.shiftRight_zero]; omega
      · convert hb hq using 1
        simp only [Nat.shiftRight_eq_div_pow]; omega
    · simp only [hp] at e5 ⊢
      have : q = 0 := by simp [halves, hp] at hq; omega
      subst this
      simp only [Nat.mul_zero, Nat.shiftRight_zero, Bool.false_eq_true, if_false] at e5 ⊢
      rw [Nat.mod_mod_of_dvd a (pow_dvd_pow 2 e5)]; exact ha

end Sys2Proof.Machine
end

