-- ==== Sys2Proof/Tests/Slice0.lean ====
section
/-! SUPPORT. Tests: ill-formed commands are refused, and every statement that has hypotheses holds of a state of its own. Expected
values are the spec's or hand calculation from it. -/

namespace Sys2Proof.Tests
open Sys2Proof Sys2Proof.Machine Sys2Proof.Num

set_option Elab.async false

/-- Does the command answer a next state that has the property? -/
def after (c : Instr) (s : State) (f : State → Bool) : Bool :=
  match exec c s with
  | .next t => f t
  | _ => false

/-- Does the command leave the state as it is? -/
def stays (c : Instr) (s : State) : Bool := after c s fun t => t == s

/-- Does the command end in the fault for units that no variant has? -/
def refused (c : Instr) (s : State) : Bool :=
  match exec c s with
  | .fault f => f == .noSuchUnit
  | _ => false

/-- An instruction word from its fields: value and lowest bit. -/
def wd (l : List (Nat × Nat)) : W64 := BitVec.ofNat 64 (l.map fun e => e.1 * 2 ^ e.2).sum

/-! ### States that the tests start from -/

/-- A module in full service: PT0 owns cluster 0, PT1 clusters 16 and 17; each has its face window and half of the stockpile. -/
def board : State :=
  { State.reset with
    power := { stage := .running, inputMv := 56000, inputMa := 12000 }
    dev := { st := 2, stock := true, ledger := true, fmt := 0x7FFF }
    dies := (List.range 9).map fun d => (d, { state := .inService, logicPassed := true, ledgerPassed := true, keyed := true })
    slices := (List.range 144).map fun i => (i, { enabled := true, invalidated := true })
    image := { parts := [(0, { isDefined := true, secure := true, qpCount := 1024, rkey := 0x100, qkLogsz := 6, qkBase := 0x010000000000 }),
                         (1, { isDefined := true, lc := true, qpFirst := 1024, qpCount := 1024, rkey := 0x101, qkLogsz := 6,
                               slice := 1000000, weight := 1, qkBase := 0x014000000000, storeBase := 0x3200000000,
                               storeLen := 0x10000000, spillBase := 0x3000000000, spillLen := 0x80000000, overBase := 0x3100000000,
                               overLen := 0x40000000 })]
               clusters := [(0, (1, 4)), (16, (2, 4)), (17, (2, 4))]
               queues := [⟨1, 1, false, false⟩, ⟨1, 4, true, false⟩]
               addrs := [⟨1, 0, 0, 101, 0, 0, some 0x0A000003, none⟩]
               regions := [⟨0, 0x13C0000000, 0, true⟩, ⟨0x2000000000, 0x13C0000000, 1, false⟩, ⟨0x010000000000, 0x4000000000, 0, true⟩,
                           ⟨0x014000000000, 0x4000000000, 1, false⟩] } }

/-- A page of 2 MiB at virtual 0, executable and writable, on CD1's face memory. -/
def codePage : TlbEntry := { ctx := 5, part := 1, vpage := 0, pages := 512, pa := 0x2000000000, attr := 0, x := true, w := true }
/-- One at virtual 0x200000 on the window of cluster 16. -/
def windowPage : TlbEntry :=
  { ctx := 5, part := 1, vpage := 0x200, pages := 512, pa := 0x018008000000, attr := 0, x := false, w := true }

/-- The group at cluster 16, core 0, slot 0. -/
def gr : GRef := { cl := 16, core := 0, slot := 0 }
def pth : Path := { pc := 0x1000, mask := BitVec.allOnes 32 }
def grp : Group := { part := 1, ctx := 5, task := 7, team := 0, index := 0, regGrant := 256, accGrant := 4, paths := [pth] }

/-- Registers: lane 0's, then the same for lane 1. -/
def regsOf2 (l : List (Nat × Nat)) : SMap W32 :=
  (l.map fun e => (e.1, BitVec.ofNat 32 e.2)) ++ l.map fun e => (256 + e.1, BitVec.ofNat 32 e.2)

def team0 : Team :=
  { task := 7, team := 0, core := 0, groups := 1, regGrant := 256, accGrant := 4, lsBase := 0, lsSize := 1024, slots := [0] }

/-- The module with a group resident. -/
def withGroup (x : Group) : State :=
  setGroup (modCluster board 16 fun c => { c with ls := 4, tlb := [codePage, windowPage], roEnabled := true, teams := [team0] })
    (gidOf gr) (some x)

/-- Register `r` of a lane of the group. -/
def regAt (t : State) (lane r : Nat) : Option Nat := (group t (gidOf gr)).map fun y => (readReg y lane r).toNat
def parkOf (t : State) : Option Nat := (group t (gidOf gr)).bind fun y => y.park.map (·.code.toNat)

theorem may_issue (x : Group) (h : issuing (withGroup x) (gidOf gr) = some (x, pth))
    (hf : fetchFault (withGroup x) (gidOf gr) x pth = none) : MayIssue (withGroup x) gr x pth := ⟨by decide, h, hf, rfl⟩

theorem test_witness_may_issue : MayIssue (withGroup grp) gr grp pth := may_issue _ (by decide +kernel) (by decide +kernel)

/-! ### The queue, well-formedness, time -/

theorem test_step_runs_front : (match step { board with pending := [.controlComplexStepChange 3, .fru3v3Removal] } with
    | .next t => t.power.ccStep == 3 && t.pending == [.fru3v3Removal]
    | _ => false) = true := by decide +kernel

/-- 10 ns on the IOD, the compute dies' oscillators stopped: their ticks are free (R52, R53, R56). -/
theorem test_step_idle_ticks : (match step { board with dies := board.dies.map fun e => (e.1, { e.2 with oscOk := e.1 == 8 }) } with
    | .next t => (die t 8).time == 1 && (die t 3).time == 0 && t.portTime == 64 && t.portPhase == 36
    | _ => false) = true := by decide +kernel

theorem test_tick_without_power : tick State.reset = State.reset ∧ State.reset.pending = [] := by decide +kernel

/-- One ill-formed command for each check, which is refused, and the boundary value that passes. -/
theorem test_ill_formed_refused :
    ([Instr.keyLoad 9 true, .rdS 8 0 [], .roCacheEnable 128, .sliceEnable 144, .refresh 160 0 0 1, .refresh 0 64 0 1, .flitError 0 16 0 7 true,
      .sensorSample 0 17 0, .frameTimeout 16, .nakRepeat 0 2, .lossOfSignal 0 12, .portDown 4 0, .portDown 0 3, .withholdSummary 16,
      .nop 0 257 0, .resume 0 0 4, .mma { cl := 128, core := 0, slot := 0 } 0, .mma { cl := 0, core := 12, slot := 0 } 0,
      .mma { cl := 0, core := 0, slot := 32 } 0, .unsupportedOperation { port := 4, qpn := 0, psn := 0 },
      .req { port := 0, half := 3, vlan := 0, dstIp := 0, srcIp := 0, peerQpn := 0, peerPsn := 0, mtu := 0 },
      .delayReq { port := 4, domain := 0, seqId := 0, overIp := false, peer := 0 }, .logicSelfTestDone (.cluster 8 0) true,
      .logicSelfTestDone (.slice 0 16) true, .logicSelfTestDone (.die 9) true, .arrayScrub (.clusterMem 128 0 0) .clean,
      .arrayScrub (.sliceData 144 0 0) .clean, .arrayScrub (.sliceTags 144) .clean, .arrayScrub (.snoopFilter 144) .clean,
      .arrayScrub (.ledgerCell 144 0 0) .clean, .arrayScrub (.directory 144) .clean, .wbAck (.spoil 144 0) 0,
      .wbAck (.key 9) 0].all fun c => !c.wf && refused c board) = true := by decide +kernel

theorem test_boundary_units_accepted :
    ([Instr.keyLoad 8 true, .rdS 7 0 [], .roCacheEnable 127, .sliceEnable 143, .refresh 159 63 0 1, .flitError 0 15 0 7 true,
      .sensorSample 0 16 0, .frameTimeout 15, .nakRepeat 0 1, .lossOfSignal 0 11, .portDown 3 2, .withholdSummary 15, .nop 0 256 0,
      .resume 0 0 3, .mma { cl := 127, core := 11, slot := 31 } 0, .logicSelfTestDone (.cluster 7 15) true,
      .logicSelfTestDone (.slice 8 15) true, .wbAck (.access 999) 0].all fun c => c.wf && after c board fun _ => true) = true := by
  decide +kernel

/-- The table gives no row any bits, so no word spells a command. -/
theorem test_no_word_is_a_command : decodeTableWord 64 0x40 = none ∧ board.withFetchWord 64 0x40 = board := by decide +kernel

/-! ### Vector pipes and special functions -/

def vGrp : Group := { grp with regs := regsOf2 [(1, 0x3F800000), (2, 0x40000000), (3, 0x40400000), (4, 0xFFFFFFF8), (5, 3)] }
def va : VArgs := { fmt := 1, rd := 8, ra := 1, rb := 2, rc := 3 }
def vi : VArgs := { fmt := 0xA, rd := 8, ra := 4, rb := 5, rc := 5 }

theorem test_witness_vector : MayIssue (withGroup vGrp) gr vGrp pth ∧ gr.fails < 3 ∧ inSet16 (withGroup vGrp) va.fmt = true ∧
    RegsFree (withGroup vGrp) gr vGrp (vecSources va va.fmt 3 ++ [(vecBase va.fmt va.rd, vecRegs va.fmt)]) ∧ va.rm.toNat < 5 ∧
    inSet16 (withGroup vGrp) vi.fmt = true ∧
    RegsFree (withGroup vGrp) gr vGrp (vecSources vi vi.fmt 3 ++ [(vecBase vi.fmt vi.rd, vecRegs vi.fmt)]) :=
  ⟨may_issue _ (by decide +kernel) (by decide +kernel), by decide, by decide +kernel, by unfold RegsFree; decide +kernel, by decide,
    by decide +kernel, by unfold RegsFree; decide +kernel⟩

/-- 1.0, 2.0 and 3.0 in FP32: R88 asks for the exact result rounded once. -/
theorem test_vector_float : ([(Instr.add gr va, 0x40400000), (.sub gr va, 0xBF800000), (.mul gr va, 0x40000000), (.fma gr va, 0x40A00000),
      (.div gr va, 0x3F000000), (.min gr va, 0x3F800000), (.max gr va, 0x40000000)].all
    fun e => after e.1 (withGroup vGrp) fun t => regAt t 0 8 == some e.2 && regAt t 1 8 == some e.2 && regAt t 2 8 == regAt t 3 8 &&
      regAt t 0 9 == some 0 && regAt t 0 1 == some 0x3F800000) = true := by decide +kernel

/-- The root of 2 by hand: 11863283^2 < 2^47 < 11863284^2; and SQRT of FP32 4.0 runs as every vector instruction does. -/
theorem test_square_root : isqrt (2 ^ 47) = 11863283 ∧ sqrtX (.num true 1 0) = .nan ∧ sqrtX (.num true 0 0) = .fin ⟨true, 0, 0, false⟩ ∧
    parkOf (match exec (.sqrt gr va) (withGroup vGrp) with
      | .next t => t
      | _ => board) = none := by decide +kernel

/-- -8 and 3 in INT32. -/
theorem test_vector_integer : ([(Instr.add gr vi, 0xFFFFFFFB), (.sub gr vi, 0xFFFFFFF5), (.mul gr vi, 0xFFFFFFE8), (.multiplyAdd gr vi, 0xFFFFFFEB),
      (.min gr vi, 0xFFFFFFF8), (.max gr vi, 3), (.logic gr .and vi, 0), (.logic gr .or vi, 0xFFFFFFFB), (.logic gr .xor vi, 0xFFFFFFFB),
      (.logic gr .not vi, 7), (.shift gr .left vi, 0xFFFFFFC0), (.shift gr .right vi, 0x1FFFFFFF), (.shift gr .arith vi, 0xFFFFFFFF)].all
    fun e => after e.1 (withGroup vGrp) fun t => regAt t 1 8 == some e.2) = true := by decide +kernel

theorem test_vector_compare : ([(Pred.eq, false), (.ne, true), (.lt, true), (.le, true), (.gt, false), (.ge, false), (.unordered, false)].all fun e =>
    holds e.1 (elemOrder 1 0x3F800000 0x40000000) == e.2) = true ∧ holds .unordered (elemOrder 1 0x7FC00000 0) = true ∧
    holds .eq (elemOrder 1 0x80000000 0) = true ∧ after (.compare gr .gt va) (withGroup vGrp) (fun t => regAt t 0 8 == some 0) = true := by
  decide +kernel

/-- FP32 3.0 to FP64 and DD128 in the register, and by R89 to BF16 and INT8. -/
theorem test_convert : ([((0 : BitVec 4), 0x40080000), (0xE, 0x40080000)].all fun e =>
    after (.cvt gr { fmt := 1, dst := e.1, rd := 8, ra := 3 }) (withGroup vGrp) fun t => regAt t 0 9 == some e.2 && regAt t 0 8 == some 0) = true ∧
    convert 1 3 rne 0x40400000 0 = 0x4040 ∧ convert 1 0xC rne 0x40400000 0 = 3 ∧ convert 1 1 rne 0x7F800001 0 = 0x7FC00000 := by decide +kernel

/-- A block with 3.0 as its largest magnitude in MXFP8: the scale is 2^(1 - 8), so the element is 384, which is S.1111.100 (R91); a
NaN makes the scale NaN. -/
theorem test_convert_block : (quantise 6 0 false (fun _ => 0) (.num false 3 0 :: List.replicate 31 (.num false 0 0))).1 = 120 ∧
    (quantise 6 0 false (fun _ => 0) (.num false 3 0 :: List.replicate 31 (.num false 0 0))).2.head? = some 0x7C ∧
    (quantise 6 0 false (fun _ => 0) [.nan, .num false 3 0]) = (255, [0, 0]) ∧
    after (.cvt gr { fmt := 1, dst := 6, rd := 8, ra := 3, scale := 20 }) (withGroup vGrp) (fun t => parkOf t == none) = true := by
  decide +kernel

theorem test_witness_convert : cvtMayRound { fmt := 1, dst := 6, rd := 8, ra := 3, scale := 20 } = true ∧
    RegsFree (withGroup vGrp) gr vGrp [(3, 1), (8, 1), (20, 1)] ∧ isMx (6 : BitVec 4) = true ∧ inSet16 (withGroup vGrp) 6 = true := by
  unfold RegsFree; decide +kernel

theorem test_witness_function_units : inSet16 (withGroup vGrp) 0xE = true ∧ RegsFree (withGroup vGrp) gr vGrp [(4, 4), (8, 4), (12, 4), (8, 2)] ∧
    after (.dadd gr { fmt := 0xE, rd := 12, ra := 4, rb := 8 }) (withGroup vGrp) (fun t => parkOf t == none) = true ∧
    after (.rcp gr va) (withGroup vGrp) (fun t => parkOf t == none) = true := by unfold RegsFree; decide +kernel

/-- SF.TIME gives what the group has seen when the die's counter is behind it (R122). -/
theorem test_sf_time : after (.sfTime gr 9) (withGroup { vGrp with lastTime := 0x500000007 }) (fun t => regAt t 31 8 == some 7 &&
    regAt t 31 9 == some 5) = true := by decide +kernel

theorem test_persistent_error_parks : after (.add { gr with fails := 3 } va) (withGroup vGrp) (fun t => parkOf t == some 0x27 &&
    (die t 1).clFenced == 1#16 && regAt t 0 8 == some 0) = true ∧ (3 ≤ ({ gr with fails := 3 } : GRef).fails) := by decide +kernel

/-! ### Matrix engine and tiles -/

/-- The BF16 dot product of the example after R79: row 0 of A in T0, row 0 of B in T1. -/
def dotGrp : Group := { grp with
  regs := [(0, 0x5D804040), (1, 0xDD803B80), (8, 0x40403F81), (9, 0x40403FC0), (16, 0x100), (18, 0x200000), (20, 0x40), (256, 7)] }
def mmaW : W64 := wd [(0x40, 0), (3, 8), (3, 12), (1, 19), (1, 25)]
def roundW : W64 := wd [(0x44, 0), (3, 8), (24, 24)]

def accAfter (t : State) (n : Nat) : Option Acc := (group t (gidOf gr)).map fun y => accOf y n

theorem test_witness_mma : MayIssue (withGroup dotGrp) gr dotGrp pth ∧ firstFault (mmaFaults (withGroup dotGrp) dotGrp mmaW) = none ∧
    mmaSources (mmaWord mmaW) = [(0, 8), (8, 8)] ∧ BlocksFree (withGroup dotGrp) gr (mmaSources (mmaWord mmaW)) :=
  ⟨may_issue _ (by decide +kernel) (by decide +kernel), by decide +kernel, by decide +kernel, by unfold BlocksFree; decide +kernel⟩

/-- V ends at 3.029296875 = 1551 / 2^9, in FP32 0x4041E000. -/
theorem test_dot_product : (([0, 1, 2, 3].foldl (fun e k => elemProduct .ledger e (tileElem dotGrp 3 0 0 0 k) (tileElem dotGrp 3 1 0 0 k)) {}).led.v ==
    toV false 1551 (-9)) = true ∧ roundLedger 1 rne { v := toV false 1551 (-9) } = 0x4041E000 := by decide +kernel

/-- One FP32 step: 1.0 and 2.0 in row 0 of each operand. -/
theorem test_mma : after (.mma gr (wd [(0x40, 0), (1, 8), (1, 12), (1, 19), (1, 25)])) (withGroup { dotGrp with regs := [(0, 0x3F800000), (8, 0x40000000)] })
    (fun t => ((accAfter t 0).map fun a => a.form == .pair && (look {} a.elems 0).hi == 0x4000000000000000 && (look {} a.elems 1).hi == 0) == some true) = true := by
  decide +kernel

theorem test_acc_round : after (.accRound gr roundW) (withGroup { dotGrp with accs := [(0, { form := .ledger, elems := [(0, { led := { v := toV false 1551 (-9) } })] })] })
    (fun u => regAt u 0 24 == some 0x4042 && (accAfter u 0).map (·.form) == some .empty) = true := by decide +kernel

/-- The FP64 example after R83: five terms, hi + lo as the table has them. -/
theorem test_pair_steps : let one := 0x3FF0000000000000; let small := 0x3C30000000000000; let tiny := 0x3870000000000000; let neg := 2 ^ 63
    let p := fun h a => pairStep h a 0
    p (0, 0) one = (one, 0) ∧ p (one, 0) small = (one, small) ∧ p (one, small) tiny = (one, small) ∧ p (one, small) (neg + one) = (small, 0) ∧
      p (small, 0) (neg + small) = (0, 0) := by decide +kernel

/-- R548: one MMA that breaks several rules reports the first in the order stated; a field's own faults come before the next field's. -/
theorem test_fault_order : ([(wd [(0x40, 0), (0xE, 8), (3, 16), (1, 18), (15, 46)], 0x22), (wd [(0x40, 0), (0xE, 8), (31, 25), (15, 46)], 0x62),
      (wd [(0x40, 0), (0xE, 8), (0xF, 12)], 0x62), (wd [(0x40, 0), (0xF, 8), (0xE, 12)], 0x61), (wd [(0x40, 0), (1, 8), (3, 12)], 0x65),
      (wd [(0x40, 0), (3, 8), (3, 12), (8, 46)], 0x28), (wd [(0x40, 0), (6, 8), (6, 12), (1, 19)], 0x66), (wd [(0x40, 0), (3, 8), (3, 12)], 0x25),
      (wd [(0x41, 0), (3, 8), (3, 12)], 0x21), (wd [(0x40, 0), (1, 8), (1, 12), (1, 19), (15, 46)], 0)].all fun e =>
    ((firstFault (mmaFaults (withGroup dotGrp) dotGrp e.1)).getD 0) == e.2) = true ∧
    after (.mma gr (wd [(0x40, 0), (0xE, 8), (1, 16), (15, 46)])) (withGroup { dotGrp with accGrant := 1 }) (fun t => parkOf t == some 0x24) = true := by
  decide +kernel

theorem test_witness_acc_rows : WordOk dotGrp (wd [(0x43, 0), (3, 16)]) 0x43 [(17, 16)] [] (some 3) ∧
    WordOk dotGrp roundW 0x44 [(11, 8), (17, 16), (21, 19), (22, 22), (23, 23), (31, 24), (39, 32)] [(24, 4)] (some 0) ∧
    FormatsOk (withGroup dotGrp) false [3] ∧ BlocksFree (withGroup dotGrp) gr [(24, 4)] ∧ outFormatOk { form := .ledger } 3 = true ∧
    reservedBits (wd [(0x41, 0), (0xA, 8), (2, 16), (1, 19), (32, 24)]) [(7, 0), (11, 8), (17, 16), (20, 19), (31, 24)] = 0 ∧
    loadFormatOk 1 0xA = true ∧ loadFormatOk 2 0xA = false := by
  unfold WordOk FormatsOk BlocksFree; decide +kernel

/-- ACC.LOAD of INT32 makes an integer-only ledger (R109); ACC.RELEASE empties. -/
theorem test_acc_load : after (.accLoad gr (wd [(0x41, 0), (0xA, 8), (2, 16), (1, 19)])) (withGroup dotGrp) (fun t =>
      ((accAfter t 2).map fun a => a.form == .ledger && a.intOnly && a.int32Made && (look {} a.elems 0).led.v == toV false 0x5D804040 0) == some true) = true ∧
    after (.accRelease gr (wd [(0x43, 0), (2, 16)])) (withGroup { dotGrp with accs := [(2, { form := .pair })] }) (fun u => (accAfter u 2) == some {}) = true ∧
    elemOf .pair (elemVal 0 0xDD803B805D804040 0) none = { hi := 0xDD803B805D804040, lo := 0 } := by decide +kernel

/-- R78: a zero V with the negative-zero flag, under RDN, and neither. -/
theorem test_zero_sign : roundLedger 1 rne { negz := true } = 0x80000000 ∧ roundLedger 1 ⟨3, false, 0⟩ {} = 0x80000000 ∧
    roundLedger 1 rne {} = 0 ∧ roundLedger 0xA ⟨3, false, 0⟩ { negz := true } = 0 ∧ flagX { negz := true } = none ∧
    (1 : BitVec 4).toNat ∈ [1, 2, 3, 0xA] := by decide +kernel

/-- An accumulator image: 64 bytes when EMPTY, 24,640 in LEDGER, 4,160 in PAIR and 8,256 in REDUCED form (R111). -/
theorem test_image_sizes : [imageSize 0, imageSize 1, imageSize 2, imageSize 3] = [64, 24640, 4160, 8256] ∧ accImage {} = 0 :: 0 :: List.replicate 62 0 ∧
    (accFromImage (accImage {})).map (·.form) = some .empty ∧ elemImage .pair { hi := 1, lo := 2 ^ 63 } = [1, 0, 0, 0, 0, 0, 0, 0, 0, 0, 0, 0, 0, 0, 0, 0x80] ∧
    imageElem 3 (elemImage .reduced { led := { pinf := true }, hi := 5, lo := 6 }) = some { led := { pinf := true }, hi := 5, lo := 6 } ∧
    imageElem 1 (elemImage .ledger { led := { v := toV true 3 (-2), negz := false } }) = some { led := { v := toV true 3 (-2) } } := by decide +kernel

/-- The hypotheses of the image round trip, for each form, at an accumulator with one element listed. -/
theorem test_witness_image : ([({ form := .ledger, elems := [(255, { led := { v := 1, negz := true } })] } : Acc), { form := .pair, elems := [(0, { hi := 2 ^ 64 - 1 })] },
      { form := .reduced, elems := [(7, { led := { nan := true }, hi := 3, lo := 2 ^ 63 })] }, {}].all fun a => (List.range 256).all fun k =>
    let e := look {} a.elems k
    match a.form with
    | .empty => e == {}
    | .ledger => e.hi == 0 && e.lo == 0
    | .pair => e.led == {} && decide (e.hi < 2 ^ 64) && decide (e.lo < 2 ^ 64)
    | .reduced => e.led.v == 0 && decide (e.hi < 2 ^ 64) && decide (e.lo < 2 ^ 64)) = true := by decide +kernel

def accGrp : Group := { dotGrp with accs := [(0, { form := .ledger, elems := [(0, { led := { v := 1 } })] }), (1, { form := .pair })] }
def pushW : W64 := wd [(0x45, 0), (1, 8), (16, 24), (20, 32)]
def saveW : W64 := wd [(0x46, 0), (2, 16), (16, 24)]
def restoreW : W64 := wd [(0x47, 0), (3, 16), (16, 24)]
def pushRefs : List Ref := (List.range 256).map fun k =>
  { va := rowAddr (tileBase accGrp 16) (tileStride accGrp 20) (k / 16) + k % 16 * 4, len := 4, lane := 2 * (k / 16) + k % 16 / 8 }

theorem test_witness_push : MayIssue (withGroup accGrp) gr accGrp pth ∧ accGrp.fence = none ∧
    WordOk accGrp pushW 0x45 [(11, 8), (17, 16), (23, 23), (31, 24), (39, 32)] [(16, 2), (20, 1)] (some 0) ∧ tileBase accGrp 16 % 16 = 0 ∧
    tileStride accGrp 20 % 16 = 0 ∧ FormatsOk (withGroup accGrp) false [1] ∧ outFormatOk (accOf accGrp 0) 1 = true ∧
    BlocksFree (withGroup accGrp) gr [(16, 2), (20, 1)] ∧ (hitsFor (withGroup accGrp) gr accGrp .store pushRefs).length = 256 ∧
    (∀ h ∈ hitsFor (withGroup accGrp) gr accGrp .store pushRefs, updateTarget (withGroup accGrp) h.pa = none ∧ h.late = none) ∧
    segsFree (withGroup accGrp) (gidOf gr) .update (hitsFor (withGroup accGrp) gr accGrp .store pushRefs) = true :=
  ⟨may_issue _ (by decide +kernel) (by decide +kernel), rfl, by unfold WordOk; decide +kernel, by decide +kernel, by decide +kernel,
    by unfold FormatsOk; decide +kernel, by decide +kernel, by unfold BlocksFree; decide +kernel, by decide +kernel, by decide +kernel,
    by decide +kernel⟩

/-- Sixteen rows of 64 bytes: each line takes two rows, so 8 lines; the accumulator is empty afterwards. -/
theorem test_push : after (.accPush gr pushW) (withGroup accGrp) (fun t => (accAfter t 0).map (·.form) == some .empty &&
    (t.accs.map (·.line)).eraseDups.length == 8 && parkOf t == none) = true := by decide +kernel

/-- ACC.SAVE of an empty accumulator stores one header; restored from zeroed memory it is empty again. -/
theorem test_save_restore : after (.accSave gr saveW) (withGroup accGrp) (fun t => parkOf t == none && (accAfter t 2) == some {}) = true ∧
    after (.accRestore gr restoreW) (withGroup accGrp) (fun t => (accAfter t 3) == some {} && parkOf t == none) = true ∧
    readImage (withGroup accGrp) gr.cl accGrp 0x100 64 = .got (List.replicate 64 0)
      [{ ref := { va := 0x100, len := 64, lane := 32, reg := 0 }, pa := 0x2000000100, attr := 0, late := none, leaf := codePage }] [] := by
  decide +kernel

def tldW : W64 := wd [(0x48, 0), (3, 8), (1, 20), (16, 32), (20, 40)]
def tstW : W64 := wd [(0x49, 0), (1, 8), (24, 24), (16, 32), (20, 40)]

theorem test_witness_tiles : MayIssue (withGroup dotGrp) gr dotGrp pth ∧
    WordOk dotGrp tldW 0x48 [(11, 8), (19, 19), (24, 20), (39, 32), (47, 40)] [(8, 8), (16, 2), (20, 1)] none ∧
    WordOk dotGrp tstW 0x49 [(11, 8), (31, 24), (39, 32), (47, 40)] [(24, 8), (16, 2), (20, 1)] none ∧ FormatsOk (withGroup dotGrp) true [3] ∧
    BlocksFree (withGroup dotGrp) gr [(8, 8), (16, 2), (20, 1), (24, 8)] ∧
    readRoom (withGroup dotGrp) 16 0 (hitsFor (withGroup dotGrp) gr dotGrp .load (tldRefs 3 false 1 0x100 64)) = true ∧
    readsOut (withGroup dotGrp) (gidOf gr) < 16 ∧ writesOut (withGroup dotGrp) (gidOf gr) < 64 ∧
    segsFree (withGroup dotGrp) (gidOf gr) .load (hitsFor (withGroup dotGrp) gr dotGrp .load (tldRefs 3 false 1 0x100 64)) = true ∧
    segsFree (withGroup dotGrp) (gidOf gr) .store (hitsFor (withGroup dotGrp) gr dotGrp .store (tstRefs dotGrp 1 24 0x100 64)) = true :=
  ⟨may_issue _ (by decide +kernel) (by decide +kernel), by unfold WordOk; decide +kernel, by unfold WordOk; decide +kernel,
    by unfold FormatsOk; decide +kernel, by unfold BlocksFree; decide +kernel, by decide +kernel, by decide +kernel, by decide +kernel,
    by decide +kernel, by decide +kernel⟩

theorem test_tile_load_store : after (.tld gr tldW) (withGroup dotGrp) (fun t => parkOf t == none && (t.accs.map (·.line)).eraseDups.length == 8) = true ∧
    after (.tst gr (wd [(0x49, 0), (1, 8), (8, 24), (16, 32), (20, 40)])) (withGroup dotGrp) (fun t => parkOf t == none &&
      ((List.range 16).flatMap fun n => (sliceOf t (16 + n)).lines.map (·.line)).length == 8 && readPhysLE t 0x2000000100 8 == 0x40403FC040403F81) = true ∧
    after (.tld gr (wd [(0x48, 0), (8, 8), (1, 19), (16, 32), (20, 40)])) (withGroup dotGrp) (fun t => parkOf t == some 0x29) = true := by decide +kernel

/-! ### Control -/

/-- BRA: RC r1, target +5, join +9; lanes 0 and 1 have a non-zero r1. -/
def braW : W64 := wd [(0x01, 0), (1, 8), (5, 18), (9, 42)]
def cGrp : Group := { grp with regs := regsOf2 [(1, 1)] }
def pathsAfter (t : State) : List (Nat × Nat) := ((group t (gidOf gr)).map fun y => y.paths.map fun q => (q.pc, q.mask.toNat)).getD []

theorem test_witness_branch : MayIssue (withGroup cGrp) gr cGrp pth ∧
    WordOk cGrp braW 0x01 [(15, 8), (16, 16), (17, 17), (41, 18), (57, 42)] [(1, 1)] none ∧ BlocksFree (withGroup cGrp) gr [(1, 1)] ∧
    (opensEntry cGrp (braWord braW) pth = true → cGrp.entries.length < 16) ∧ takenMask cGrp (braWord braW) pth.mask = 3 :=
  ⟨may_issue _ (by decide +kernel) (by decide +kernel), by unfold WordOk; decide +kernel, by unfold BlocksFree; decide +kernel, by decide +kernel,
    by decide +kernel⟩

/-- A split; a branch that no thread takes; one that all take, backwards. -/
theorem test_branch : after (.bra gr braW) (withGroup cGrp) (fun t => pathsAfter t == [(0x1008, 0xFFFFFFFC), (0x1028, 3)] &&
      ((group t (gidOf gr)).map fun y => (y.entries.map (·.joinPc), y.paths.map (·.entries))) == some ([0x1048], [[0], [0]])) = true ∧
    after (.bra gr (wd [(0x01, 0), (2, 8), (5, 18)])) (withGroup cGrp) (fun t => pathsAfter t == [(0x1008, 0xFFFFFFFF)]) = true ∧
    after (.bra gr (wd [(0x01, 0), (1, 16), (2 ^ 24 - 2, 18)])) (withGroup cGrp) (fun t => pathsAfter t == [(0xFF0, 0xFFFFFFFF)]) = true ∧
    after (.bra gr braW) (withGroup { cGrp with entries := List.replicate 16 ⟨9, 0⟩ }) (fun t => parkOf t == some 0x74) = true := by decide +kernel

def two : List Path := [{ pth with mask := 3 }, { pc := 0x2000, mask := 12 }]

theorem test_witness_yield : issuing (withGroup { grp with paths := two }) (gidOf gr) = some ({ grp with paths := two }, { pth with mask := 3 }) ∧
    WordOk grp 5 0x05 [] [] none ∧ two.filter isLive = { pth with mask := 3 } :: { pc := 0x2000, mask := 12 } :: [] ∧ (12 : W32) ≠ 3 ∧
    after (.yield gr 5) (withGroup { grp with paths := two }) (fun t => pathsAfter t == [(0x2000, 12), (0x1008, 3)]) = true := by
  unfold WordOk; decide +kernel

/-- A path at the join of its innermost entry, with the other path of the entry already there: they merge after the JOIN. -/
def joinGrp : Group := { grp with entries := [⟨4, 0x1000⟩]
                                  paths := [{ pth with mask := 3, entries := [4] }, { pc := 0x1000, mask := 12, st := .atJoin, entries := [4] }] }

theorem test_witness_join : issuing (withGroup joinGrp) (gidOf gr) = some (joinGrp, { pth with mask := 3, entries := [4] }) ∧ WordOk joinGrp 2 0x02 [] [] none ∧
    (([4] : List Nat).head?.bind fun id => joinPcOf joinGrp id) = some pth.pc ∧
    after (.join gr 2) (withGroup joinGrp) (fun t => pathsAfter t == [(0x1008, 15)] && (group t (gidOf gr)).map (·.entries) == some []) = true ∧
    after (.join gr 2) (withGroup grp) (fun t => pathsAfter t == [(0x1008, 0xFFFFFFFF)]) = true := by unfold WordOk; decide +kernel

theorem test_witness_scoreboard : (let x : Group := { joinGrp with paths := joinGrp.paths.map fun q => { q with st := .atJoin } }
    x.entries.find? (fun e =>
      let mine := x.paths.filter fun p => p.entries.contains e.id
      !mine.isEmpty && mine.all (waitsAt e.id)) = some ⟨4, 0x1000⟩) := by decide +kernel

/-- BAR.T with every thread of the only group: the barrier opens at once. EXIT of one of two paths, and of the last. -/
theorem test_barrier_exit : WordOk grp (wd [(3, 0), (2, 8)]) 0x03 [(11, 8)] [] none ∧ WordOk grp 4 0x04 [] [] none ∧ grp.fence = none ∧ grp.paths = [pth] ∧ 2 ≤ two.length ∧
    after (.barT gr (wd [(3, 0), (2, 8)])) (withGroup grp) (fun t => pathsAfter t == [(0x1008, 0xFFFFFFFF)] &&
      (group t (gidOf gr)).map (fun y => y.paths.map (·.st)) == some [.live]) = true ∧
    after (.exit gr 4) (withGroup { grp with paths := two }) (fun t => pathsAfter t == [(0x2000, 12)] && (group t (gidOf gr)).map (·.exited) == some 3) = true ∧
    after (.exit gr 4) (withGroup grp) (fun t => pathsAfter t == [] && (group t (gidOf gr)).map (·.exited) == some (BitVec.allOnes 32)) = true := by
  unfold WordOk; decide +kernel

/-- Two groups of one team at different barriers (R151). -/
def splitTeam : State :=
  setGroup (modCluster (withGroup { grp with paths := [{ pth with st := .atBarrier 1 }] }) 16 fun c =>
    { c with teams := [{ team0 with groups := 2, slots := [0, 1] }] }) (groupId 16 0 1)
    (some { grp with index := 1, paths := [{ pth with st := .atBarrier 2 }] })

theorem test_witness_team_split : gidOf gr ∈ teamGroups splitTeam (gidOf gr) ∧ (teamGroups splitTeam (gidOf gr)).Nodup ∧
    ((teamGroups splitTeam (gidOf gr)).all fun i => ((group splitTeam i).map fun x => x.paths.all fun p => p.mask != 0 &&
      ((List.range 16).any fun b => p.st == .atBarrier b)).getD false) = true ∧
    (PathState.atBarrier 1 ≠ PathState.atBarrier 2) ∧ ((teamGroups splitTeam (gidOf gr)).length = 2) ∧
    (let t := scoreboard splitTeam (gidOf gr)
     [gidOf gr, groupId 16 0 1].map (fun i => (group t i).bind fun y => y.park.map (·.code.toNat)) = [some 0x72, some 0x72]) := by decide +kernel

/-! ### Local and global memory -/

def mGrp : Group := { grp with
  regs := [(2, 0x41), (4, 0x100), (6, 0xAABBCCDD), (12, 5), (256 + 2, 1020), (256 + 4, 0x104), (256 + 6, 0x11223344), (256 + 12, 6), (512 + 2, 1021)]
  paths := [{ pth with mask := 7 }] }
def mPath : Path := { pth with mask := 7 }
/-- LDL, STL and ATOML of 4 bytes, offset register r2, data r6, result r8, comparand r12. -/
def ldlW : W64 := wd [(0x50, 0), (2, 8), (8, 16), (2, 24)]
def stlW : W64 := wd [(0x51, 0), (2, 8), (6, 16), (2, 24)]
def atomlW : W64 := wd [(0x52, 0), (2, 8), (8, 16), (2, 24), (6, 32), (12, 40)]

theorem test_witness_local : issuing (withGroup mGrp) (gidOf gr) = some (mGrp, mPath) ∧ fetchFault (withGroup mGrp) (gidOf gr) mGrp mPath = none ∧
    reservedBits ldlW [(7, 0), (10, 8), (23, 16), (31, 24), (55, 32)] = 0 ∧ reservedBits stlW [(7, 0), (10, 8), (23, 16), (31, 24), (55, 32)] = 0 ∧
    reservedBits atomlW [(7, 0), (10, 8), (15, 12), (23, 16), (31, 24), (39, 32), (47, 40)] = 0 ∧ BlocksFree (withGroup mGrp) gr [(8, 1), (2, 1), (6, 1)] ∧
    (∀ l ∈ lanes mPath.mask, ∀ a ∈ localAddr (withGroup mGrp) (gidOf gr) mGrp l 2 0 4, poisonPhys (withGroup mGrp) a 4 = 0) ∧
    gr.cl < clusterCount (withGroup mGrp).variant ∧ (teamStore (withGroup mGrp) (gidOf gr) mGrp) = (0, 1024) := by
  unfold BlocksFree; decide +kernel

/-- Offsets 0x41 (taken as 0x40), 1020, the last word, and 1021 (taken as 1020): the highest lane's word stands; the STL of lane 2
stores 0. -/
theorem test_local : after (.stl gr stlW) (withGroup mGrp) (fun t => readLE t.mem 0x018008000040 4 == 0xAABBCCDD && readLE t.mem 0x0180080003FC 4 == 0 &&
      after (.ldl gr ldlW) t (fun u => regAt u 0 8 == some 0xAABBCCDD && regAt u 2 8 == some 0)) = true ∧
    after (.atoml gr (atomlW - 0xC0000000000)) (withGroup mGrp) (fun t => readLE t.mem 0x0180080003FC 4 == 0x11223344 && regAt t 1 8 == some 0 &&
      regAt t 2 8 == some 0x11223344) = true ∧
    after (.atoml gr (atomlW + 0x7000)) (withGroup mGrp) (fun t => readLE t.mem 0x0180080003FC 4 == 0 && regAt t 1 8 == some 0) = true := by decide +kernel

/-- The first offset past the store is out of range: loads give 0 and stores nothing (R170). -/
theorem test_local_out_of_range : localAddr (withGroup mGrp) (gidOf gr) { mGrp with regs := [(2, 1024)] } 0 2 0 4 = none ∧
    localAddr (withGroup mGrp) (gidOf gr) { mGrp with regs := [(2, 1023)] } 0 2 0 4 = some 0x0180080003FC ∧
    after (.stl gr stlW) (withGroup { mGrp with regs := [(2, 1024), (6, 9)], paths := [{ pth with mask := 1 }] }) (fun t => t.mem == [] && parkOf t == none) = true ∧
    after (.ldl gr ldlW) (withGroup { mGrp with regs := [(2, 1024), (8, 9)], paths := [{ pth with mask := 1 }] }) (fun t => regAt t 0 8 == some 0) = true := by
  decide +kernel

def gMask (x : Group) : Group := { x with paths := [{ pth with mask := 3 }] }
def gPath : Path := { pth with mask := 3 }
def ldW : W64 := wd [(0x54, 0), (2, 8), (8, 16), (4, 24)]
def stW : W64 := wd [(0x55, 0), (2, 8), (6, 16), (4, 24)]
def ldRefs : List Ref := (lanes gPath.mask).map fun l => { va := threadAddr (gMask mGrp) l 4 0, len := 4, lane := l, reg := 8 }

theorem test_witness_load_store : issuing (withGroup (gMask mGrp)) (gidOf gr) = some (gMask mGrp, gPath) ∧ reservedBits ldW ldFields = 0 ∧
    reservedBits stW ldFields = 0 ∧ BlocksFree (withGroup (gMask mGrp)) gr [(8, 1), (6, 1), (4, 2)] ∧
    (∀ l ∈ lanes gPath.mask, threadAddr (gMask mGrp) l 4 0 % 4 = 0) ∧
    (hitsFor (withGroup (gMask mGrp)) gr (gMask mGrp) .load ldRefs).map (fun h => (h.pa, h.late)) = [(0x2000000100, none), (0x2000000104, none)] ∧
    segsFree (withGroup (gMask mGrp)) (gidOf gr) .load (hitsFor (withGroup (gMask mGrp)) gr (gMask mGrp) .load ldRefs) = true ∧
    readRoom (withGroup (gMask mGrp)) gr.cl gr.core (hitsFor (withGroup (gMask mGrp)) gr (gMask mGrp) .load ldRefs) = true ∧
    segsFree (withGroup (gMask mGrp)) (gidOf gr) .store (hitsFor (withGroup (gMask mGrp)) gr (gMask mGrp) .store ldRefs) = true ∧
    readsOut (withGroup (gMask mGrp)) (gidOf gr) < 16 ∧ writesOut (withGroup (gMask mGrp)) (gidOf gr) < 64 := by
  unfold BlocksFree; decide +kernel

/-- A load misses and asks memory; the fill sends the line to the cluster, which gives the lanes their bytes. -/
theorem test_load_fill : after (.ld gr ldW) { withGroup (gMask mGrp) with mem := writeBytes [] 0x2000000100 [1, 2, 3, 4, 5, 6, 7, 8] } (fun t =>
      (t.accs.map (·.kind)) == [.load] && after (.fill 17 0x40000002 []) t (fun u =>
        u.out.getLast? == some (.fill "CLUSTER_FILL" 1 2 1 0x40000002 0x0807060504030201 0xF 0 0) &&
        after (.clusterFill 16 0x40000002 0x0807060504030201 0) u (fun v => v.accs == [] && regAt v 0 8 == some 0x04030201 &&
          regAt v 1 8 == some 0x08070605))) = true ∧ homeSlice 1 0x2000000100 = some 17 := by decide +kernel

theorem test_store_fill : after (.st gr stW) (withGroup (gMask mGrp)) (fun t => parkOf t == none && regAt t 0 6 == some 0xAABBCCDD &&
    after (.fill 17 0x40000002 []) t (fun u => u.accs == [] && readPhysLE u 0x2000000100 8 == 0x11223344AABBCCDD)) = true := by decide +kernel

/-- The second half of the load and store statement: a proxy of CD1 that holds a line of CD2's face memory as its owner. -/
def proxyLine : CLine := { line := 0x80000000, st := .e, valid := 0xF, dirty := 0, data := 0x0807060504030201 }
def proxyAcc : Access := { tag := 3, instr := 3, gid := gidOf gr, kind := .load, line := 0x80000000, attr := 0, va := 0, pc := 0, word := 0
                           pieces := [{ off := 4, len := 4, lane := 0, reg := 8 }] }
def proxyState : State :=
  modSlice { withGroup grp with accs := [proxyAcc, { proxyAcc with tag := 4, kind := .store, be := 1, data := 0xFF, pieces := [] }] } 16 fun x =>
    { x with lines := [proxyLine] }

theorem test_witness_proxy_hit : accessOf proxyState 3 = some proxyAcc ∧ group proxyState proxyAcc.gid = some grp ∧
    coreSlice 1 (gidDie proxyAcc.gid) (128 * 0x80000000) = some 16 ∧ homeSlice 1 (128 * 0x80000000) = some 32 ∧
    target 1 (128 * 0x80000000) = .face 2 0 ∧ (sliceOf proxyState 16).enabled = true ∧ findSpoil (sliceOf proxyState 16) 0x80000000 = none ∧
    findLine (sliceOf proxyState 16) 0x80000000 = some proxyLine ∧ pieceSectors proxyAcc.pieces &&& ~~~proxyLine.valid = 0 ∧
    (let u := setUse 1 16 (setIn 1 16 (128 * 0x80000000)) (dropWhere (fun z => z.line == 0x80000000) (sliceOf proxyState 16).lines)
     u.1 + 4 ≤ 64 ∧ u.2 + 1 ≤ 32) ∧
    regAt (performLoad proxyState 3) 0 8 = some 0x08070605 ∧
    ((findLine (sliceOf (performStore proxyState 4) 16) 0x80000000).map fun d => (d.data.toNat, d.st == .m, d.dirty.toNat)) =
      some (0x08070605040302FF, true, 1) := by decide +kernel

/-! ### Updates, fences, device-side enqueue -/

/-- ATOM ADD of 4 bytes at the window of the own cluster, and at face memory; RED of FP32 and of INT32. -/
def uGrp (va : Nat) : Group := gMask { grp with regs := regsOf2 [(4, va), (6, 5)] }
def atomW : W64 := wd [(0x58, 0), (2, 8), (8, 16), (4, 24), (6, 32)]
def redW (fl op fs rm : Nat) : W64 := wd [(0x59, 0), (fl, 8), (op, 12), (fs, 16), (rm, 20), (6, 24), (4, 32), (20, 40)]
def uRefs (va n : Nat) : List Ref := (lanes gPath.mask).map fun l => { va := readBlock (uGrp va) l 4 2, len := n, lane := l }

theorem test_witness_updates : issuing (withGroup (uGrp 0x200010)) (gidOf gr) = some (uGrp 0x200010, gPath) ∧ reservedBits atomW atomFields = 0 ∧
    (∀ e ∈ atomRegs atomW, e.1 + e.2 ≤ grp.regGrant) ∧ BlocksFree (withGroup (uGrp 0x200010)) gr (atomRegs atomW) ∧
    (∀ l ∈ lanes gPath.mask, readBlock (uGrp 0x200010) l 4 2 % 4 = 0) ∧
    (∀ h ∈ hitsFor (withGroup (uGrp 0x200010)) gr (uGrp 0x200010) .store (uRefs 0x200010 4), h.late = none ∧
      (updateTarget (withGroup (uGrp 0x200010)) h.pa = none ∨ updateTarget (withGroup (uGrp 0x200010)) h.pa = some 0x65)) ∧
    reservedBits (redW 1 0 3 4) redFields = 0 ∧ redForm 0 3 1 = .ledger ∧ redForm 0 1 1 = .pair ∧ redForm 3 0xA 0xA = .rounded ∧ redForm 3 1 1 = .illegal ∧
    FormatsOk (withGroup grp) false [1, 3] ∧ (redRounds .ledger 1 = true → 4 < 5) ∧ WordOk grp (wd [(0x5A, 0), (4, 32)]) 0x5A [(39, 32)] [(4, 2)] none := by
  unfold BlocksFree FormatsOk WordOk; decide +kernel

/-- Two lanes add 5 to one word of the own cluster's memory: the old values are 0 and 5. At face memory a packet leaves. -/
theorem test_updates : after (.atom gr atomW) (withGroup (uGrp 0x200010)) (fun t => readLE t.mem 0x018008000010 4 == 10 && regAt t 0 8 == some 0 &&
      regAt t 1 8 == some 5) = true ∧
    after (.atom gr atomW) (withGroup (uGrp 0x100)) (fun t => (t.accs.map fun a => a.kind == .atomRet && ((a.update.map (·.recs.length)) == some 2)) == [true]) = true ∧
    after (.red gr (redW 1 0 3 0)) (withGroup (uGrp 0x100)) (fun t => (t.accs.map fun a => ((a.update.map fun k => (k.fl, k.op, k.recs.length)) == some (1, 0, 2))) ==
      [true]) = true ∧
    after (.red gr (redW 1 3 1 0)) (withGroup (uGrp 0x100)) (fun t => parkOf t == some 0x65) = true ∧
    after (.cruClose gr (wd [(0x5A, 0), (4, 32)])) (withGroup (uGrp 0x100)) (fun t => (t.accs.map fun a => (a.update.map (·.op)) == some 0xC) == [true]) = true := by
  decide +kernel

def fenceW (scope kind : Nat) : W64 := wd [(0x5C, 0), (scope, 8), (kind, 10)]
def waiting3 : State := { withGroup { grp with fence := some { waits := [3] } } with accs := [proxyAcc] }

theorem test_fences : WordOk grp (fenceW 2 1) 0x5C [(9, 8), (10, 10)] [] none ∧ WordOk grp (fenceW 0 0) 0x5C [(9, 8), (10, 10)] [] none ∧ grp.contrib = [] ∧
    after (.fenceRel gr (fenceW 2 1)) { withGroup grp with accs := [proxyAcc] } (fun t => (group t (gidOf gr)).bind (·.fence) == some { waits := [3] }) = true ∧
    after (.fenceAcq gr (fenceW 0 0)) { withGroup grp with accs := [proxyAcc] } (fun t => (group t (gidOf gr)).bind (·.fence) == some { waits := [3] }) = true ∧
    stays (.fenceComplete gr) waiting3 = true ∧
    after (.fenceComplete gr) { waiting3 with accs := [] } (fun t => ((group t (gidOf gr)).map (·.fence)) == some none) = true := by
  unfold WordOk; decide +kernel

def enqW : W64 := wd [(0x5E, 0), (16, 8), (8, 16), (5, 24)]

theorem test_enqueue : WordOk grp enqW 0x5E [(15, 8), (23, 16), (32, 24)] [(16, 16), (8, 1)] none ∧ readsOut (withGroup grp) (gidOf gr) < 16 ∧
    BlocksFree (withGroup grp) gr [(16, 16), (8, 1)] ∧
    after (.enq gr enqW) (withGroup { grp with regs := [(16, 0x01)] }) (fun t => (t.out.map fun o => o == .cohData "ENQ_REC" 5 0 1 0 0 0) == [true] &&
      (t.accs.map (·.pieces.length)) == [32]) = true := by unfold WordOk BlocksFree; decide +kernel

/-! ### Queues and commands -/

/-- Bytes with fields at offsets: offset, length, value; the others are zero. -/
def bytesAt (n : Nat) (l : List (Nat × Nat × Nat)) : List Byte :=
  (List.range n).map fun i => match l.find? fun e => decide (e.1 ≤ i) && decide (i < e.1 + e.2.1) with
    | some (o, _, v) => BitVec.ofNat 8 (v >>> (8 * (i - o)))
    | none => 0

/-- The words of a command record: opcode, records, flag bits (12 FB, 13 FA, 14 WCMP), sequence number, words 1 to 7. -/
def recWords (op n bits seq : Nat) (l : List Nat) : List W64 :=
  (List.range (8 * n)).map fun i => if i = 0 then BitVec.ofNat 64 (op + (n - 1) * 256 + bits + seq * 2 ^ 32) else BitVec.ofNat 64 (l.getD (i - 1) 0)

/-- A fetched command, and an accepted one. -/
def cmd (op seq : Nat) (l : List Nat) : Cmd := { seq := BitVec.ofNat 32 seq, words := recWords op 1 0 seq l }
def taken (op seq : Nat) (l : List Nat) : Cmd := { cmd op seq l with accepted := true, order := 3 }

/-- Four nodes: two teams of one group with 32 registers, 4 KiB of local store and an accumulator; the same as a gang; a DMA of two
descriptors; a host-sync wait for the step number plus 5. The wait follows the first node. -/
def dGraph : List Byte :=
  bytesAt 324 [(0, 4, 1), (4, 4, 324), (8, 2, 4), (10, 2, 1), (12, 4, 64), (16, 4, 320), (26, 1, 2), (32, 8, 50000), (68, 1, 1), (69, 1, 4),
               (70, 1, 1), (72, 2, 1), (80, 8, 0x1000), (88, 4, 2), (112, 8, 100), (129, 1, 1), (132, 1, 1), (133, 1, 4), (134, 1, 1),
               (136, 2, 1), (144, 8, 0x2000), (152, 4, 2), (192, 1, 1), (196, 4, 2), (200, 8, 0x2000300000), (256, 1, 3), (261, 1, 1),
               (264, 8, 0x2000400000), (272, 8, 5), (320, 4, 0x30000)]

def ctx5 : Ctx := { root := 0x2000500000, constBase := 0x2000600000, constSlots := 2, constVa := 0x700000, parkBase := 0x2000700000, parkEntries := 2 }

def qk1 : Queue := { declared := true, bound := true, base := 0x014000000000, expect := some 0x100 }
def qu1 : Queue := { declared := true, bound := true, base := 0x2000100000, ctx := 5, expect := some 0x100, cmplBase := 0x2000200000 }

/-- PT1 with its kernel queue, a user queue, a context and a graph. -/
def qBoard (k u : Queue) : State :=
  { board with clusters := [(16, { ls := 4 }), (17, { ls := 4 })]
               parts := [(0, { queues := [(0, { qk1 with base := 0x010000000000 })] }),
                          (1, { queues := [(0, k), (1, u), (4, { declared := true, devenq := true }), (9, { declared := true })], ctxs := [(5, some ctx5)],
                                graphs := [(0x77, some { ctx := 5, versions := [(1, dGraph, 324)] })] })] }
/-- Commands in QK, or in the user queue. -/
def inQk (l : List Cmd) : State := qBoard { qk1 with cmds := l } qu1
def inQu (l : List Cmd) : State := qBoard qk1 { qu1 with cmds := l }

/-- Code of a completed command; 0 while it is not done. -/
def codeOf (t : State) (p q seq : Nat) : Option Nat :=
  (findCmd (queue t p q) (BitVec.ofNat 32 seq)).bind fun c => if c.done then some c.code.toNat else none

theorem test_queue_slots : ((partOk 15 && slotOk 256) && !(partOk 16 && slotOk 0) && !(partOk 0 && slotOk 257)) = true := by decide +kernel

/-- A ring of 64 records: 64 ahead of the head is allowed, 65 stops the queue; a device-enqueue slot takes no doorbell. -/
theorem test_doorbell : after (.doorbell 1 1 64) (inQu []) (fun t => (queue t 1 1).tail == 64 && !(queue t 1 1).stopped) = true ∧
    after (.doorbell 1 1 65) (inQu []) (fun t => queue t 1 1 == { qu1 with stopped := true, errCause := 2 }) = true ∧
    stays (.doorbell 1 4 1) (inQu []) = true ∧ stays (.doorbell 1 9 1) (inQu []) = true ∧ stays (.doorbell 7 0 1) (inQu []) = true := by decide +kernel

def ringWith (l : List W64) (u : Queue) : State :=
  { qBoard qk1 u with mem := writeBytes [] 0x2000100FC0 (l.flatMap fun w => leBytes 8 w.toNat) }
/-- Head and tail about the end of the ring: the last slot holds a NOP. -/
def lastSlot : Queue := { qu1 with head := 0xFFFFFFFF, tail := 0 }

theorem test_fetch : stays (.commandFetch 1 1) (ringWith (recWords 2 1 0 0x100 []) qu1) = true ∧
    stays (.commandFetch 1 1) (ringWith (recWords 2 1 0 0x100 []) { lastSlot with stopped := true }) = true ∧
    after (.commandFetch 1 1) (ringWith (recWords 2 1 0 0x100 []) lastSlot) (fun t => queue t 1 1 ==
      { lastSlot with head := 0, expect := some 0x101, cmds := [cmd 2 0x100 []] }) = true ∧
    after (.commandFetch 1 1) (ringWith (recWords 2 1 0 0x101 []) lastSlot) (fun t => queue t 1 1 ==
      { lastSlot with stopped := true, errCause := 1, errSeq := 0x101, errIndex := 63 }) = true ∧
    after (.commandFetch 1 1) (ringWith [] { lastSlot with base := 0x013F00000000 }) (fun t => (queue t 1 1).stopped && (queue t 1 1).errCause == 3) = true ∧
    stays (.commandFetch 1 1) (ringWith (recWords 1 2 0 0x100 []) lastSlot) = true ∧
    after (.commandFetch 1 1) (ringWith (recWords 0x7F 1 0 0x100 []) lastSlot) (fun t => codeOf t 1 1 0x100 == some 0x41) = true := by decide +kernel

/-- A kernel command in a user queue has 0x42, a reserved bit 0x45, an argument count beyond the record 0x44; a NOP passes and is done;
a fence bit holds it back. -/
theorem test_checks : after (.invTlb 1 1 0x100) (inQu [cmd 4 0x100 [5, 0, 2 ^ 36]]) (fun t => codeOf t 1 1 0x100 == some 0x45) = true ∧
    after (.createContext 1 1 0x100) (inQu [cmd 0x80 0x100 []]) (fun t => codeOf t 1 1 0x100 == some 0x42 && !(queue t 1 1).stopped) = true ∧
    after (.retireRows 1 0 0x100) (inQk [cmd 0x88 0x100 []]) (fun t => codeOf t 1 0 0x100 == some 0x43) = true ∧
    after (.launch 1 1 0x100) (inQu [cmd 1 0x100 [0x77, 41]]) (fun t => codeOf t 1 1 0x100 == some 0x44) = true ∧
    after (.launch 1 1 0x100) (inQu [cmd 1 0x100 [0x78]]) (fun t => codeOf t 1 1 0x100 == some 0x46) = true ∧
    after (.invTlb 1 1 0x100) (inQu [cmd 4 0x100 [6]]) (fun t => codeOf t 1 1 0x100 == some 0x47) = true ∧
    after (.launch 1 1 0x100) (inQu [cmd 1 0x100 [0x77, 0x10000]]) (fun t => codeOf t 1 1 0x100 == some 0x49) = true ∧
    after (.nop 1 1 0x100) (inQu [cmd 2 0x100 []]) (fun t => codeOf t 1 1 0x100 == some 0) = true ∧
    after (.nop 1 1 0x101) (inQu [cmd 2 0x100 [], { cmd 2 0x101 [] with words := recWords 2 1 0x1000 0x101 [] }]) (fun t => codeOf t 1 1 0x101 == none) = true ∧
    checkCmd (inQu []) 1 1 (cmd 2 0x100 []) = 0 ∧ mayAccept (inQu [cmd 2 0x100 []]) 1 1 (cmd 2 0x100 []) = true := by decide +kernel

def doneCmd (seq code : Nat) : Cmd := { cmd 2 seq [] with done := true, code := BitVec.ofNat 8 code, words := recWords 2 1 0x4000 seq [] }

/-- The oldest command completes: its number and code, the code of an earlier failure stays when it succeeds; a record at index 0x41
mod 64 when WCMP asks for one. -/
theorem test_complete : stays (.commandComplete 1 1 0x141) (inQu [cmd 2 0x140 [], doneCmd 0x141 0]) = true ∧
    stays (.commandComplete 1 1 0x140) (inQu [cmd 2 0x140 []]) = true ∧
    after (.commandComplete 1 1 0x141) (qBoard qk1 { qu1 with qcmp := 0x4300000140, cmds := [doneCmd 0x141 0, cmd 2 0x142 []] }) (fun t =>
      (queue t 1 1).qcmp == 0x4300000141 && (queue t 1 1).cmds == [cmd 2 0x142 []] && (queue t 1 1).lastSeq == 0x141 &&
      readPhysLE t 0x2000200040 4 == 0x141) = true ∧
    after (.commandComplete 1 1 0x141) (inQu [doneCmd 0x141 0x46]) (fun t => qcmpCode (queue t 1 1).qcmp == 0x46) = true := by decide +kernel

/-- The completion of a DESTROY_QUEUE unbinds the slot (R389, R391). -/
theorem test_destroy_completes : after (.commandComplete 1 0 0x100) (qBoard { qk1 with cmds := [{ taken 0x83 0x100 [1] with done := true }] }
      { qu1 with destroying := true, openTasks := 3 }) (fun t => !(queue t 1 1).bound && (queue t 1 1).declared &&
        (queue t 1 1).qcmp == 0x80000000003) = true := by decide +kernel

def aLaunch : Launch :=
  { id := 0, part := 1, q := 1, seq := 0x100, order := 0, handle := 0x77, version := 1, ctx := 5, step := 42, ls := 0,
    args := [0x55, 0, 0, 0, 0, 0, 0, 0] }

/-- LAUNCH with the whole graph placeable; a version whose node names only a die without clusters of the partition gives 0x5C. -/
theorem test_launch : descrOk dGraph 324 = true ∧ placeable (inQu []) 1 dGraph = true ∧ checkCmd (inQu []) 1 1 (cmd 1 0x100 [0x2A00000077, 8, 0x55]) = 0 ∧
    after (.launch 1 1 0x100) (inQu [cmd 1 0x100 [0x2A00000077, 8, 0x55]]) (fun t => t.launches == [aLaunch] && t.tasks == []) = true ∧
    (let s := inQu [cmd 1 0x100 [0x77]]
     after (.launch 1 1 0x100) { s with dies := put {} s.dies 1 { state := .absent } } (fun t => codeOf t 1 1 0x100 == some 0x5C)) = true := by decide +kernel

def parked (code : Nat) (async : Bool) : Group := { grp with park := some { code := BitVec.ofNat 8 code, pc := 0x1000, addr := 0, word := 0, mask := 3, number := 9, barriers := 0, async } }
/-- The commands of REPLAY about park number `n`, beside a group parked with number 9. -/
def replayState (g : Group) (n action : Nat) : State :=
  { inQk [taken 3 0x100 [n + action * 2 ^ 32, 5]] with groups := [(gidOf gr, some g)], clusters := (withGroup grp).clusters }

theorem test_witness_turn : HasTurn (replayState (parked 0x24 false) 9 0) 1 0 0x100 0x03 (taken 3 0x100 [9, 5]) :=
  ⟨by decide, by decide +kernel, by decide, rfl, rfl, by decide +kernel, by decide +kernel⟩

theorem test_retry : after (.retry 1 0 0x100) (replayState (parked 0x24 false) 9 0) (fun t => group t (gidOf gr) == some grp &&
    codeOf t 1 0 0x100 == some 0) = true := by decide +kernel
theorem test_skip : after (.skip 1 0 0x100) (replayState (parked 0x24 false) 9 1) (fun t => group t (gidOf gr) == some { grp with paths := [{ pth with pc := 0x1008 }] }) = true ∧
    after (.skip 1 0 0x100) (replayState (parked 0x24 true) 9 1) (fun t => group t (gidOf gr) == some grp) = true := by decide +kernel
theorem test_replay_unknown : ([(Instr.retry, 0), (.skip, 1), (.teardown, 2)].all fun e => after (e.1 1 0 0x100) (replayState (parked 0x24 false) 8 e.2)
    (fun t => codeOf t 1 0 0x100 == some 0x57 && parkOf t == some 0x24)) = true := by decide +kernel
theorem test_teardown : replayFault (replayState (parked 0x24 false) 9 2) 1 (taken 3 0x100 [9 + 2 * 2 ^ 32, 5]) = 0 ∧
    after (.teardown 1 0 0x100) (replayState (parked 0x24 false) 9 2) (fun t => (queue t 1 1).stopped && (queue t 1 1).errCause == 0) = true := by
  decide +kernel
theorem test_retry_barrier : after (.retry 1 0 0x100) (replayState { parked 0x71 false with paths := [{ pth with st := .atBarrier 2 }] } 9 0) (fun t =>
    group t (gidOf gr) == some grp) = true := by decide +kernel

/-! ### Commands that set things up and take them down -/

/-- A command of QK whose turn has come, in the module with a translation, a read-only line and a team of PT1. -/
def tlbTask : Task := { tag := 7, launch := 0, node := 0, part := 1, ctx := 5, kind := 0, st := .running }
def setUp (c : Cmd) : State :=
  { inQk [c] with clusters := [(16, { ls := 4, tlb := [codePage, windowPage], teams := [team0], ro := [⟨0, 0x40, 9⟩] }),
                               (17, { ls := 4, tlb := [codePage, { windowPage with ctx := 6 }], ro := [⟨12, 0x41, 9⟩] })], tasks := [tlbTask] }

theorem test_witness_setup : ([taken 2 0x100 [], taken 4 0x100 [5], taken 5 0x100 [], taken 0x87 0x100 [2 ^ 63], taken 0x80 0x100 [6], taken 0x81 0x100 [5],
    taken 0x82 0x100 [9], taken 0x83 0x100 [1], taken 0x84 0x100 [0x78], taken 0x85 0x100 [0x77], taken 0x86 0x100 [0x77]].all fun c =>
      (partOk 1 && slotOk 0) && findCmd (queue (setUp c) 1 0) 0x100 == some c && ready (setUp c) 1 0 c && !isTesting (setUp c) 1 0 c) = true := by
  decide +kernel

/-- INV_TLB of one page of 4 KiB inside a 2 MiB one; of the page just past it; of the whole context; INV_RO. -/
theorem test_invalidate : after (.invTlb 1 0 0x100) (setUp (taken 4 0x100 [5, 0x1FF000, 1])) (fun t =>
      (cluster t 16).tlb == [windowPage] && (cluster t 17).tlb == [{ windowPage with ctx := 6 }] && codeOf t 1 0 0x100 == some 0) = true ∧
    after (.invTlb 1 0 0x100) (setUp (taken 4 0x100 [5, 0x400000, 1])) (fun t => (cluster t 16).tlb == [codePage, windowPage]) = true ∧
    after (.invTlb 1 0 0x100) (setUp (taken 4 0x100 [5])) (fun t => (cluster t 16).tlb == [] && (cluster t 17).tlb == [{ windowPage with ctx := 6 }]) = true ∧
    after (.invRo 1 0 0x100) (setUp (taken 5 0x100 [])) (fun t => (cluster t 16).ro == [] && (cluster t 17).ro == [⟨12, 0x41, 9⟩]) = true := by decide +kernel

theorem test_event_ring : after (.setEventRing 1 0 0x100) (setUp (taken 0x87 0x100 [0x4010400, 0x5000, 0x1234])) (fun t =>
      (part t 1).ringSet && (part t 1).ringQp == 0x400 && (part t 1).ringLogn == 4 && (part t 1).ringVa == 0x5000 && (part t 1).ringKey == 0x1234) = true ∧
    after (.setEventRing 1 0 0x100) (setUp (taken 0x87 0x100 [2 ^ 63])) (fun t => !(part t 1).ringSet) = true := by decide +kernel

/-- A pending retirement comes into force; PT0 alone may ask for it. -/
def inPt0 (c : Cmd) : State :=
  { qBoard qk1 qu1 with parts := [(0, { queues := [(0, { qk1 with cmds := [c] })] }), (1, { queues := [(0, qk1), (1, qu1)] })] }
theorem test_retire_rows : (let s := { inPt0 (taken 0x88 0x100 []) with retired := [{ chan := 16, bank := 0, row := 0, base := 0x2000010000, inForce := false }] }
    (rowRange s.variant 0x2000010000).1 = 0x2000010000 ∧ (chanOf s.variant 0x2000010000).isSome = true ∧ ready s 0 0 (taken 0x88 0x100 []) = true ∧
    after (.retireRows 0 0 0x100) s (fun t => t.retired.all (·.inForce) && t.retired.map (·.base) == [0x2000010000] && codeOf t 0 0 0x100 == some 0) = true) := by
  decide +kernel

theorem test_contexts : after (.createContext 1 0 0x100) (setUp (taken 0x80 0x100 [5])) (fun t => codeOf t 1 0 0x100 == some 0x59) = true ∧
    after (.createContext 1 0 0x100) (setUp (taken 0x80 0x100 [6, 0x2000501000, 0x0400002000601000, 0x800000, 0x2000701040, 3])) (fun t => ctxOf t 1 6 ==
      some { root := 0x2000501000, constBase := 0x2000601000, constSlots := 4, constVa := 0x800000, parkBase := 0x2000701040, parkEntries := 3 }) = true ∧
    after (.destroyContext 1 0 0x100) (setUp (taken 0x81 0x100 [5])) (fun t => codeOf t 1 0 0x100 == some 0x59) = true ∧
    (let s := setUp (taken 0x81 0x100 [5])
     ctxBusy { s with parts := [(1, { (part s 1) with graphs := [], queues := [(0, { qk1 with cmds := [taken 0x81 0x100 [5]] })] })] } 1 5 = false ∧
     after (.destroyContext 1 0 0x100) { s with parts := [(1, { (part s 1) with graphs := [], queues := [(0, { qk1 with cmds := [taken 0x81 0x100 [5]] })] })] }
       (fun t => ctxOf t 1 5 == none && (cluster t 16).tlb == [] && (cluster t 17).tlb == [{ windowPage with ctx := 6 }]) = true) := by decide +kernel

theorem test_queues : after (.createQueue 1 0 0x100) (setUp (taken 0x82 0x100 [1])) (fun t => codeOf t 1 0 0x100 == some 0x59) = true ∧
    after (.createQueue 1 0 0x100) (setUp (taken 0x82 0x100 [0x00050009, 0x2000800003, 0])) (fun t => (queue t 1 9).bound && (queue t 1 9).ctx == 5 &&
      (queue t 1 9).base == 0x2000800000 && (queue t 1 9).logsz == 3 && (queue t 1 9).expect == some 0 && qcmpSeq (queue t 1 9).qcmp == 0xFFFFFFFF) = true ∧
    after (.destroyQueue 1 0 0x100) (setUp (taken 0x83 0x100 [1])) (fun t => (queue t 1 1).destroying && codeOf t 1 0 0x100 == some 0) = true ∧
    after (.destroyQueue 1 0 0x100) (setUp (taken 0x83 0x100 [9])) (fun t => !(queue t 1 9).destroying && codeOf t 1 0 0x100 == some 0) = true ∧
    after (.destroyQueue 1 0 0x100) (qBoard { qk1 with cmds := [taken 0x83 0x100 [1]] } { qu1 with destroying := true }) (fun t => codeOf t 1 0 0x100 == some 0x59) =
      true := by decide +kernel

/-! #### Graphs -/

/-- One host-sync node; and a patch of its value. -/
def sGraph : List Byte := bytesAt 128 [(0, 4, 1), (4, 4, 128), (8, 2, 1), (12, 4, 64), (26, 1, 1), (32, 8, 1000), (64, 1, 3), (72, 8, 0x2000400000), (80, 8, 5)]
def sPatch : List Byte := bytesAt 256 [(0, 4, 1), (192, 1, 3), (200, 8, 0x2000400000), (208, 8, 6)]

def graphState (c : Cmd) (memory : List Byte) (gs : SMap (Option Graph)) : State :=
  { setUp c with mem := writeBytes [] 0x2000900000 memory,
                 parts := [(1, { (part (setUp c) 1) with ctxs := [(5, some { ctx5 with parkEntries := 768 })], graphs := gs })] }
def gOne : Graph := { ctx := 5, versions := [(1, sGraph, 128)] }

theorem test_loader : descrOk sGraph 128 = true ∧ loaderCode (graphState (taken 0x84 0x100 []) [] []) 1 5 128 sGraph = 0 ∧
    loaderCode (setUp (taken 0x84 0x100 [])) 1 5 128 sGraph = 0x56 := by decide +kernel
theorem test_register : after (.registerGraph 1 0 0x100) (graphState (taken 0x84 0x100 [0x500000078, 0x2000900000, 128]) sGraph []) (fun t =>
      graphOf t 1 0x78 == some { gOne with spillAt := [(1, 0x3000000000)] } && codeOf t 1 0 0x100 == some 0) = true ∧
    after (.registerGraph 1 0 0x100) (graphState (taken 0x84 0x100 [0x500000078, 0x2000900000, 128]) sGraph [(0x78, some gOne)]) (fun t =>
      codeOf t 1 0 0x100 == some 0x59) = true ∧
    after (.registerGraph 1 0 0x100) (graphState (taken 0x84 0x100 [0x600000078, 0x2000900000, 128]) sGraph []) (fun t => codeOf t 1 0 0x100 == some 0x56 &&
      graphOf t 1 0x78 == none) = true := by decide +kernel

/-- PATCH_GRAPH makes version 2; version 1 stays only while a launch has captured it. -/
theorem test_patch : after (.patchGraph 1 0 0x100) (graphState (taken 0x85 0x100 [0x78, 0x2000900000]) sPatch [(0x78, some gOne)]) (fun t =>
      (graphOf t 1 0x78).map (fun g => (g.current, g.versions.map (·.1), ((descrOf t 1 0x78 2).map fun d => nValue (gNode d 0)))) ==
        some (2, [2], some 6)) = true ∧
    (let s := graphState (taken 0x85 0x100 [0x78, 0x2000900000]) sPatch [(0x78, some gOne)]
     after (.patchGraph 1 0 0x100) { s with launches := [{ aLaunch with handle := 0x78 }] } (fun t =>
      (graphOf t 1 0x78).map (fun g => (g.current, g.versions.map (·.1))) == some (2, [1, 2])) = true) := by decide +kernel
theorem test_release : after (.releaseGraph 1 0 0x100) (graphState (taken 0x86 0x100 [0x78]) [] [(0x78, some gOne)]) (fun t => graphOf t 1 0x78 == none) = true ∧
    (let s := graphState (taken 0x86 0x100 [0x78]) [] [(0x78, some gOne)]
     after (.releaseGraph 1 0 0x100) { s with launches := [{ aLaunch with handle := 0x78 }] } (fun t =>
      graphOf t 1 0x78 == some { gOne with released := true }) = true) := by decide +kernel

/-! #### Taking down -/

theorem test_reset_partition : ready (inPt0 (taken 0x8A 0x100 [1])) 0 0 (taken 0x8A 0x100 [1]) = true ∧
    ([(0, 0x5D), (1, 0), (2, 0x5D)].all fun e => after (.resetPartition 0 0 0x100) (inPt0 (taken 0x8A 0x100 [e.1])) (fun t => codeOf t 0 0 0x100 == some e.2)) =
      true := by decide +kernel
theorem test_reset_unbinds : after (.resetPartition 0 0 0x100) (inPt0 (taken 0x8A 0x100 [1])) (fun t => !(queue t 1 1).bound && (queue t 1 1).declared &&
    (queue t 1 0).base == 0x014000000000 && (queue t 1 0).logsz == 6 && (queue t 1 0).qcmp == 0x800FFFFFFFF) = true := by decide +kernel

theorem test_discard_purge : after (.discard 7 16) (setUp (taken 2 0x100 [])) (fun t => (cluster t 16).teams == [] && t.out == [.front "WB_ACK" 7 16]) = true ∧
    after (.discard 8 16) (setUp (taken 2 0x100 [])) (fun t => (cluster t 16).teams == [team0]) = true ∧
    after (.discard 0xFFFF 16) (setUp (taken 2 0x100 [])) (fun t => (cluster t 16).teams == []) = true ∧
    after (.ptPurge 1 16) (setUp (taken 2 0x100 [])) (fun t => (cluster t 16).tlb == [] && (cluster t 17).tlb != [] && t.out == [.front "WB_ACK" 1 16]) = true ∧
    (partOk 15 && sliceOk 143) = true := by decide +kernel

/-- Cluster 0 of CD1 is vacant: its test begins; CD3 is absent on no variant but held out here. -/
theorem test_self_test : ready (inPt0 (taken 0x89 0x100 [0x10000])) 0 0 (taken 0x89 0x100 [0x10000]) = true ∧
    after (.selfTest 0 0 0x100) (inPt0 (taken 0x89 0x100 [0x10110])) (fun t => t.dev.testBusy && t.dev.testCmd == some (0, 0x100) && t.dev.testDie == 1 &&
      t.dev.testLeft == [32, 33] && (die t 1).clTesting == 2 && codeOf t 0 0 0x100 == none) = true ∧
    (let s := inPt0 (taken 0x89 0x100 [0x30])
     after (.selfTest 0 0 0x100) { s with dies := put {} s.dies 3 { state := .heldOut } } (fun t => t.dev.testResult == 3 && codeOf t 0 0 0x100 == some 0)) = true ∧
    after (.selfTest 0 0 0x100) { inPt0 (taken 0x89 0x100 [0x10110]) with dev := { board.dev with testBusy := true } } (fun t => codeOf t 0 0 0x100 == some 0x59) =
      true ∧
    (let s := inPt0 (taken 0x89 0x100 [0x0])
     after (.selfTest 0 0 0x100) { s with clusters := [(0, { ls := 4, teams := [{ team0 with task := 9 }] })] } (fun t => !t.dev.testBusy &&
       (die t 0).clTesting == 1)) = true ∧
    after (.selfTest 0 0 0x100) (inPt0 (taken 0x89 0x100 [2])) (fun t => t.dev.st == 4 && t.dev.testBusy) = true := by decide +kernel

/-- ENQ_REC's answers: 2, 3, 1 in that order, and 0 with the record in the ring under the device's sequence number. -/
def enqQueue : Queue := { declared := true, devenq := true, bound := true, base := 0x2000100000, ctx := 5, expect := some 0x30, head := 0, tail := 63 }
def enqState (x : Queue) : State :=
  { qBoard qk1 qu1 with parts := [(1, { (part (qBoard qk1 qu1) 1) with queues := [(0, qk1), (1, qu1), (4, x)] })] }
def answered (t : State) (n : Nat) : Bool := t.out.getLast? == some (.ack (.access 9) n)

theorem test_enq_rec : after (.enqRec 1 4 9 (recWords 2 1 0 0xFFFF [])) (enqState { enqQueue with bound := false }) (fun t => answered t 2) = true ∧
    after (.enqRec 1 4 9 (recWords 3 1 0 0 [9, 5])) (enqState { enqQueue with tail := 64 }) (fun t => answered t 3) = true ∧
    after (.enqRec 1 4 9 (recWords 2 1 0 0 [])) (enqState { enqQueue with tail := 64 }) (fun t => answered t 1) = true ∧
    after (.enqRec 1 4 9 (recWords 2 1 0 0xFFFF [])) (enqState enqQueue) (fun t => answered t 0 && (queue t 1 4).tail == 64 &&
      readPhysLE t (0x2000100000 + 63 * 64) 8 == 0x6F00000002) = true ∧
    enqActive enqQueue = true ∧ enqRecordOk (enqState enqQueue) 1 4 { seq := 0x6F, words := recWords 2 1 0 0x6F [] } = true := by decide +kernel

/-! ### The image update -/

def update (c : Cmd) (f : Flash) : State := { inPt0 c with flash := f }
def taken2 (l : List Nat) (payload : List Nat) : Cmd :=
  { taken 0x8B 0x100 l with words := recWords 0x8B 2 0 0x100 (l ++ List.replicate (7 - l.length) 0 ++ payload) }
def openUpdate : Flash := { stA := .good, stB := .empty, updOpen := true, updLen := 24, updWritten := 8 }

theorem test_witness_update : updateSlot (update (taken 0x8B 0x100 []) {}) = 1 ∧ ready (update (taken2 [1, 8, 16] [7, 8]) openUpdate) 0 0 (taken2 [1, 8, 16] [7, 8]) = true ∧
    sourceFine (update (taken2 [1, 8, 16] [7, 8]) openUpdate) 0 (taken2 [1, 8, 16] [7, 8]) = true ∧ slotBase 1 % 0x10000 = 0 := by decide +kernel

theorem test_update : after (.imgBegin 0 0 0x100) (update (taken 0x8B 0x100 [0, 24]) { stA := .good, stB := .bad }) (fun t => t.flash.updOpen && t.flash.updLen == 24 &&
      t.flash.stB == .empty && t.flash.stA == .good && codeOf t 0 0 0x100 == some 0) = true ∧
    after (.imgBegin 0 0 0x100) (update (taken 0x8B 0x100 [0, 24]) openUpdate) (fun t => codeOf t 0 0 0x100 == some 0xA5) = true ∧
    after (.imgWrite 0 0 0x100 true) (update (taken2 [1, 8, 16] [7, 8]) openUpdate) (fun t => t.flash.updWritten == 24 &&
      look 0xFF t.flash.bytes (slotBase 1 + 8) == 7 && look 0xFF t.flash.bytes (slotBase 1 + 16) == 8 && look 0xFF t.flash.bytes (slotBase 1 + 17) == 0 &&
      look 0xFF t.flash.bytes (slotBase 1 + 24) == 0xFF) = true ∧
    after (.imgWrite 0 0 0x100 false) (update (taken2 [1, 8, 16] [7, 8]) openUpdate) (fun t => !t.flash.updOpen && t.flash.stB == .bad &&
      codeOf t 0 0 0x100 == some 0xA6) = true ∧
    ([[1, 9, 15], [1, 8, 17]].all fun l => after (.imgWrite 0 0 0x100 true) (update (taken2 l []) openUpdate) (fun t => codeOf t 0 0 0x100 == some 0xA5)) = true ∧
    stays (.imgWrite 0 0 0x100 true) (update (taken2 [1, 8, 16] [7, 8]) { openUpdate with suspended := true }) = true := by decide +kernel

/-- An erased slot does not verify: FINISH makes it bad with 0xA3. COMMIT of the running trial; ABORT. -/
theorem test_update_ends : after (.imgFinish 0 0 0x100) (update (taken 0x8B 0x100 [2]) { openUpdate with updWritten := 24 }) (fun t => t.flash.stB == .bad &&
      t.flash.stA == .good && codeOf t 0 0 0x100 == some 0xA3) = true ∧
    after (.imgCommit 0 0 0x100) (update (taken 0x8B 0x100 [3]) { stA := .trial }) (fun t => t.flash.stA == .trial && codeOf t 0 0 0x100 == some 0) = true ∧
    (let s := update (taken 0x8B 0x100 [3]) { stA := .trial, trials := 2 }
     after (.imgCommit 0 0 0x100) { s with dev := { s.dev with mode := 1 }, image := { s.image with raise := true, svn := 3, fwSvn := 1 },
                                           sec := { fwFloor := 2 } } (fun t =>
      t.flash.stA == .good && t.flash.pref == 0 && t.dev.mode == 0 && t.sec.ownFloor == 3 && t.sec.fwFloor == 2) = true) ∧
    after (.imgAbort 0 0 0x100) (update (taken 0x8B 0x100 [4]) openUpdate) (fun t => !t.flash.updOpen && t.flash.stB == .empty) = true ∧
    after (.imgAbort 0 0 0x100) (update (taken 0x8B 0x100 [4]) { openUpdate with updOpen := false }) (fun t => codeOf t 0 0 0x100 == some 0xA5) = true := by
  decide +kernel

/-! ### Launches, nodes and teams -/

/-- The launch of the graph of four nodes, started and not. -/
def gLaunch : Launch := { aLaunch with constSlot := some 0, started := true }
def running (l : Launch) : State := { inQu [taken 1 0x100 [0x77]] with launches := [l], nextTask := 20, slices := [] }

theorem test_witness_nodes : launchOf (running gLaunch) 0 = some gLaunch ∧ mayStart (running gLaunch) = true ∧ gNodes (launchDescr (running gLaunch) gLaunch) = 4 ∧
    ([0, 1, 2].all fun n => predsDone (launchDescr (running gLaunch) gLaunch) gLaunch n && nodeState gLaunch n == .idle) = true ∧
    predsDone (launchDescr (running gLaunch) gLaunch) gLaunch 3 = false ∧ isHeld (running gLaunch) (queue (running gLaunch) 1 1) = false ∧
    ([0, 1].all fun n => nodeFault (running gLaunch) 1 (clusterServes (running gLaunch)) (launchNode (running gLaunch) gLaunch n) == 0) = true ∧
    launchReady (running { gLaunch with started := false, constSlot := none }) { gLaunch with started := false, constSlot := none } = true ∧
    constSlotFor (running { gLaunch with started := false, constSlot := none }) { gLaunch with started := false, constSlot := none } = some 0 := by
  decide +kernel

/-- A plain node and a DMA node start; the wait does not before its predecessor. -/
theorem test_node_start : ([(0, 0, 2), (2, 1, 0)].all fun e => after (.nodeStart 0 e.1) (running gLaunch) (fun t =>
      (t.tasks.map fun k => (k.tag, k.node, k.kind, k.teams, k.st == .running)) == [(20, e.1, e.2.1, e.2.2, true)] &&
      (t.launches.map fun l => nodeState l e.1) == [.running 20])) = true ∧
    stays (.nodeStart 0 3) (running gLaunch) = true := by decide +kernel
/-- The gang takes a cluster for each team, the lowest that has room. -/
theorem test_gang_start : after (.nodeStart 0 1) (running gLaunch) (fun t => t.out == [.front "TEAM_START" 20 16, .front "TEAM_START" 20 16] &&
      (t.tasks.map (·.plan)) == [[(0, 16), (1, 16)]]) = true := by decide +kernel
def waitingLaunch : Launch := { gLaunch with started := false, constSlot := none }
theorem test_launch_start : after (.nodeStart 0 2) (running waitingLaunch) (fun t => (t.launches.map fun l => (l.started, l.constSlot)) == [(true, some 0)] &&
      readPhysLE t 0x200060000C 6 == 0x80000002A) = true ∧
    stays (.nodeStart 0 2) (running { waitingLaunch with acceptTime := 1 }) = true := by decide +kernel
theorem test_preload : after (.preload 0 0) (running gLaunch) (fun t => t.tasks.map (fun k => (k.tag, k.st == .preloaded)) == [(20, true)] &&
      t.out == [.front "PRELOAD" 20 0] && t.launches == [gLaunch] &&
      after (.preload 0 1) t (fun u => u.tasks.length == 2 && stays (.preload 0 2) u) && stays (.preload 0 0) t) = true := by decide +kernel

def cTask : Task := { tag := 20, launch := 0, node := 0, part := 1, ctx := 5, kind := 0, st := .running, teams := 2 }
def teamState : State := { running gLaunch with tasks := [cTask] }

theorem test_witness_team : taskOf teamState 20 = some cTask ∧ eligible teamState gLaunch (launchNode teamState gLaunch 0) 17 = true ∧
    gangWaits teamState 17 20 = false ∧ goesFirst teamState cTask 17 = false ∧
    teamRoom teamState gLaunch (claimsOf (launchNode teamState gLaunch 0)) 17 = some (0, 0) := by decide +kernel

/-- Team 1 starts on cluster 17: r0 to r6 as R376 has them, for lane 31 of its one group. -/
theorem test_team_start : after (.teamStart 20 17 1) teamState (fun t => (cluster t 17).teams == [⟨20, 1, 0, 1, 32, 1, 0, 4096, [0]⟩] &&
      (group t (groupId 17 0 0)).any fun g => (g.paths == [{ pc := 0x1000, mask := BitVec.allOnes 32 }]) &&
        (List.range 9).map (fun r => (readReg g 31 r).toNat) == [1, 0, 0x700000, 0, 0x11, 2, 0, 0, 0]) = true ∧
    stays (.teamStart 20 17 1) { teamState with tasks := [{ cTask with startedTeams := [1] }] } = true := by decide +kernel

def endState (g : Group) (k : Task) : State :=
  setGroup { running gLaunch with tasks := [k], clusters := [(16, { ls := 4, teams := [{ team0 with task := 20 }] }), (17, { ls := 4 })] }
    (gidOf gr) (some g)

/-- The first of two teams arrives; the last one sends CLOSE-TASK to the 144 crushers. -/
theorem test_team_done : stays (.teamDone 20 0) (endState grp { cTask with placed := [(0, 16)] }) = true ∧
    after (.teamDone 20 0) (endState { grp with paths := [] } { cTask with placed := [(0, 16)] }) (fun t => (cluster t 16).teams == [] && group t (gidOf gr) == none &&
      t.tasks.map (fun k => (k.arrived, k.st == .running)) == [([0], true)] && t.out == []) = true ∧
    after (.teamDone 20 0) (endState { grp with paths := [] } { cTask with placed := [(0, 16)], arrived := [1] }) (fun t => t.out == [.multi "CLOSE_TASK" 3 0x1FF 0xFFFF 20] &&
      t.tasks.map (·.st == .closing) == [true]) = true := by decide +kernel

/-! ### Saving and restoring -/

def savedGrp : Group := { grp with task := 20, regs := [(5, 9)], accs := [(1, { form := .ledger })], mmaStep := some (3, 7) }
def saveState : State := endState savedGrp { cTask with placed := [(0, 16)] }

theorem test_witness_preempt : maySave saveState (gidOf gr) = true ∧ isGangTask saveState { cTask with placed := [(0, 16)] } = false ∧
    teamGids 16 { team0 with task := 20 } = [gidOf gr] := by decide +kernel

/-- PREEMPT, and RESUME on the other cluster. -/
theorem test_preempt_resume : after (.preempt 20 16) saveState (fun t => (cluster t 16).teams == [] && t.tasks.map (·.st == .preempted) == [true] &&
      (findSnap t 20 17 0).map (fun e => (e.1, e.2.1)) == some (16, 0) &&
      after (.resume 20 17 0) t (fun u => group u (groupId 17 0 0) == some savedGrp && (cluster u 16).snaps.all (fun e => e.2 == none) &&
        u.tasks.map (·.placed) == [[(0, 17)]])) = true ∧ saveState.accs = [] ∧
    (cluster saveState 17).ls = wantedL saveState gLaunch 17 := by decide +kernel

/-! ### Waits, budgets, passes, slices -/

def syncTask : Task := { tag := 20, launch := 0, node := 3, part := 1, ctx := 5, kind := 3, st := .running }
/-- The wait of the graph of four nodes: the word at 0x20_0040_0000 must reach 5 + step 42. -/
def syncState (v : Nat) : State := { running gLaunch with tasks := [syncTask], mem := writeBytes [] 0x2000400000 (leBytes 8 v) }
def oneNode (b : List (Nat × Nat × Nat)) : List Byte := bytesAt 128 ([(0, 4, 1), (4, 4, 128), (8, 2, 1), (12, 4, 64), (26, 1, 1), (32, 8, 1000)] ++ b)
/-- The module with a launch of a graph of one node, its task running. -/
def single (b : List (Nat × Nat × Nat)) (k : Task) : State :=
  { running { gLaunch with handle := 0x78 } with
    tasks := [k], parts := [(1, { (part (running gLaunch) 1) with graphs := [(0x78, some { ctx := 5, versions := [(1, oneNode b, 128)] })] })] }

theorem test_host_sync : nMode (launchNode (syncState 0) gLaunch 3) = 0 ∧ syncValue gLaunch (launchNode (syncState 0) gLaunch 3) = 47 ∧
    accessCheck (syncState 0) 1 0x2000400000 false (regShape 0x2000400000 8) = none ∧ isRemote (syncState 0) 0x2000400000 = false ∧
    after (.hostSyncPoll 20) (syncState 46) (fun t => t.tasks == [syncTask] && t.out == []) = true ∧
    after (.hostSyncPoll 20) (syncState 47) (fun t => t.tasks == [] && (t.launches.map fun l => nodeState l 3) == [.done]) = true := by decide +kernel
theorem test_host_sync_write : after (.hostSyncPoll 20) (single [(64, 1, 3), (68, 1, 2), (72, 8, 0x2000400000), (80, 8, 9)] { syncTask with node := 0 })
      (fun t => t.tasks == [] && t.launches == [] && readPhysLE t 0x2000400000 8 == 9 && codeOf t 1 1 0x100 == some 0) = true ∧
    after (.hostSyncPoll 20) (single [(64, 1, 3), (72, 8, 0x13F0000000)] { syncTask with node := 0 }) (fun t => codeOf t 1 1 0x100 == some 0x1D) = true := by
  decide +kernel
def collTask : Task := { syncTask with node := 0, kind := 2 }
theorem test_control_segment : (let s := single [(64, 1, 2), (71, 1, 1)] collTask
    nScope (launchNode s { gLaunch with handle := 0x78 } 0) = 1 ∧ stays (.controlSegmentPoll 20 false false) s = true ∧
    after (.controlSegmentPoll 20 true true) s (fun t => t.tasks.map (·.fault) == [0x9D]) = true ∧
    after (.controlSegmentPoll 20 false true) s (fun t => t.out == [.front "COLL_PROCEED" 20 1]) = true) := by decide +kernel

/-- The example after R408: two deadline reservations of PT1 on CD0 and CD1, a share of PT6; then CD0.C9 is fenced. -/
def rsv0 : ResvCfg := { kind := 1, part := 1, ctx := 4, n := 16, mask := 0xFFFF, p := 20000000, d := 16000000, c := 6000000, bw := [(0x00, 400)] }
def rsv1 : ResvCfg := { kind := 1, part := 1, ctx := 5, n := 28, mask := 0xFFFFFFFF, p := 40000000, d := 40000000, c := 12000000, bw := [] }
def rsv2 : ResvCfg := { kind := 2, part := 6, ctx := 0, n := 0, mask := 0, p := 0, d := 0, c := 0, bw := [(0x00, 600)] }
def dmaGraph : Graph := { ctx := 9, versions := [(1, oneNode [(64, 1, 1), (68, 4, 1)], 128)] }
def resvState (fenced : BitVec 16) : State :=
  { board with image := { board.image with resvs := [rsv0, rsv1, rsv2] }, dies := put {} board.dies 0 { die board 0 with clFenced := fenced }
               links := [(0, { octIns := 0xFFF, rate := 2, st := 2 })], parts := [(1, { graphs := [(1, some dmaGraph)], queues := [(0, qk1)] })] }

theorem test_admission : capacity (resvState 0) 0x00 = 1046 ∧ responseBound (resvState 0) [] rsv0 [] = 6062000 ∧
    responseBound (resvState 0) [rsv0] rsv1 [] = 18162000 ∧ responseBound (resvState 0) [] rsv1 [] = 12062000 ∧ admits (resvState 0) = [0, 1, 2] ∧
    admits (resvState 0x200) = [1, 2] := by decide +kernel
theorem test_admission_pass : after .admissionPass { resvState 0x200 with admission := { admitted := [0, 1, 2], passDue := true } } (fun t =>
      t.admission.admitted == [1, 2] && !t.admission.passDue && (queue t 1 0).revokeMark) = true ∧
    stays .admissionPass { resvState 0 with dev := { board.dev with st := 1 } } = true := by decide +kernel

/-- C + S = 12,050,000 steps are 602,500 ticks of 10 ns. -/
def budgetState (now : Nat) : State :=
  { resvState 0 with admission := { admitted := [0, 1, 2] }, launches := [gLaunch], dies := put {} board.dies 8 { die board 8 with time := BitVec.ofNat 64 now } }
theorem test_budget : launchResv (budgetState 0) gLaunch = some (1, rsv1) ∧ rankOf (budgetState 0) gLaunch = 1 ∧
    stays (.budgetOverrun 0) (budgetState 602500) = true ∧
    after (.budgetOverrun 0) (budgetState 602501) (fun t => t.launches.map (fun l => (l.demoted, rankOf t l)) == [(true, 1000)]) = true := by decide +kernel

/-- Context 5 holds a cluster from time 100 on; a task of context 6 has waited from time 50 on; Q is 10,000 ticks. -/
def turnState (now : Nat) (busy : List DescRun) : State :=
  { running gLaunch with
    image := { board.image with parts := modWhere (fun e => e.1 == 1) (fun e => (e.1, { e.2 with slice := 1 })) board.image.parts }
    parts := [(1, { (part (running gLaunch) 1) with slices := [(5, 101)] })]
    launches := [gLaunch, { gLaunch with id := 1, ctx := 6 }]
    tasks := [{ cTask with placed := [(0, 16)], startedTeams := [0, 1], descBusy := busy },
              { cTask with tag := 21, launch := 1, ctx := 6, waitSince := 50 }]
    dies := put {} board.dies 8 { die board 8 with time := BitVec.ofNat 64 now } }
theorem test_time_slice : partOk 15 = true ∧ stays (.timeSliceEnd 1 5) (turnState 10099 []) = true ∧ (waitersFor (turnState 10100 []) 1 5 1000).length = 1 ∧
    slicesOfRank (turnState 10100 []) 1 1000 = [(5, 101)] ∧
    after (.timeSliceEnd 1 5) (turnState 10100 []) (fun t => t.out == [.front "PREEMPT" 20 16] && (look 0 (part t 1).slices 5) == 0) = true ∧
    after (.timeSliceEnd 1 5) (turnState 10100 [⟨0, 0, 1, 1⟩]) (fun t => t.out == [] && (look 0 (part t 1).overrunSince 5) == 10101) = true := by decide +kernel

/-! ### Engines -/

def dmaTask : Task := { syncTask with node := 0, kind := 1 }
/-- Two descriptors at 0x20_0030_0000: 200 bytes from ...1040 to ...2010, then one with the wait bit; `bad` breaks the first. -/
def dmaState (k : Task) (bad : Nat) : State :=
  { single [(64, 1, 1), (68, 4, 2), (72, 8, 0x2000300000)] k with
    mem := writeBytes [] 0x2000300000 (bytesAt 64 [(0, 8, 0x2000001040), (8, 8, 0x2000002010), (16, 4, 200), (21, 1, bad), (32, 8, 0x2000001040),
                                                   (40, 8, 0x2000002010), (48, 4, 1), (52, 1, 1)]) }
def run200 : DescRun := { src := 0x2000001040, dst := 0x2000002010, len := 200, left := 200 }

theorem test_dma_descriptor : dmaRuns (dmaState dmaTask 0) dmaTask = true ∧
    after (.dmaDescriptor 20) (dmaState dmaTask 0) (fun t => t.tasks == [{ dmaTask with descIndex := 1, descBusy := [run200] }] &&
      t.out == [.dma "DMA_RD" 20 0x40000020 (BitVec.ofNat 128 (0xFFFFFFFFFFFFFFFF0000000000000000)) 0,
                .dma "DMA_RD" 20 0x40000021 (BitVec.ofNat 128 (2 ^ 128 - 1)) 0, .dma "DMA_RD" 20 0x40000022 (BitVec.ofNat 128 0xFF) 0]) = true ∧
    after (.dmaDescriptor 20) (dmaState { dmaTask with descIndex := 1, descBusy := [run200] } 0) (fun t => t.tasks.map (·.descIndex) == [1] && t.out == []) = true ∧
    after (.dmaDescriptor 20) (dmaState { dmaTask with descIndex := 1 } 0) (fun t => t.out.length == 1) = true ∧
    after (.dmaDescriptor 20) (dmaState dmaTask 1) (fun t => t.tasks.map (·.fault) == [0x4A]) = true := by decide +kernel

def busyTask : Task := { dmaTask with descIndex := 2, descBusy := [run200] }
/-- The first source line's upper half: 64 bytes for 0x..2010; they arrive there as one message. -/
theorem test_dma_move : after (.dmaRd 20 0x40000020 0xC) { dmaState busyTask 0 with mem := writeBytes [] 0x2000001040 [0x11, 0x22] } (fun t =>
      t.out == [.dma "DMA_WR" 20 0x40000040 (BitVec.ofNat 128 ((2 ^ 64 - 1) * 2 ^ 16)) (BitVec.ofNat 1024 (0x2211 * 2 ^ 128))]) = true ∧
    after (.dmaWr 20 0x40000040 (BitVec.ofNat 128 ((2 ^ 64 - 1) * 2 ^ 16)) (BitVec.ofNat 1024 (0x2211 * 2 ^ 128))) (dmaState busyTask 0) (fun t =>
      readPhysLE t 0x2000002010 4 == 0x2211 && t.tasks.map (fun k => k.descBusy.map (·.left)) == [[136]]) = true ∧
    after (.dmaRd 20 0x40000020 0xC) { dmaState busyTask 0 with image := { board.image with regions := [] } } (fun t => t.tasks.map (·.fault) == [0x1D]) = true := by
  decide +kernel

theorem test_coll_write : after (.coll 20 0x40000040 (.final 3 0x2211)) (single [(64, 1, 2)] collTask) (fun t => readPhysLE t 0x2000002000 4 == 0x2211) = true ∧
    after (.coll 20 0x80000040 (.final 3 0x2211)) (single [(64, 1, 2)] collTask) (fun t => t.tasks.map (·.fault) == [0x1D]) = true := by decide +kernel

theorem test_engine_done : after (.dmaDone 20) (dmaState { busyTask with descBusy := [] } 0) (fun t => t.out == [.multi "CLOSE_TASK" 3 0x1FF 0xFFFF 20] && t.tasks.map (·.st == .closing) == [true]) = true ∧
    after (.collDone 20) (single [(64, 1, 2)] collTask) (fun t => t.out == [.multi "CLOSE_TASK" 3 0x1FF 0xFFFF 20] && t.tasks.map (·.st == .closing) == [true]) = true ∧
    after (.collDone 20) (single [(64, 1, 2)] { collTask with fault := 0x1D }) (fun t => t.tasks == [] && t.out == []) = true ∧
    stays (.dmaDone 20) { dmaState { busyTask with descBusy := [] } 0 with accs := [{ proxyAcc with gid := engineGid 20 }] } = true := by decide +kernel

/-! ### Windows, registers, remote devices -/

/-- Line of the window of cluster 16, of a NONCE register pair, and the DK-T8's registers of PT1. -/
def winLine : Nat := 0x018008000000 / 128
def nonceLine : Nat := (regBase + 0x140000) / 128
def winState : State := { withGroup grp with mem := writeBytes [] 0x018008000000 [1, 2, 3, 4] }

theorem test_windows : isWindowLine winState winLine = true ∧ isRegister winState (128 * nonceLine) = true ∧
    lineCheck winState 1 winLine false true = none ∧ lineCheck winState 2 winLine false true = some 0x1D ∧ lineCheck winState 0 nonceLine true (regBeOk 0xFF) = none ∧
    lineCheck winState 0 nonceLine true (regBeOk 0x7F) = some 0x1B ∧
    after (.rdWin 1 9 winLine 1) winState (fun t => t.out == [.cohData "DATA_ONCE" 9 winLine 0x04030201 1 0 0]) = true ∧
    after (.rdWin 2 9 winLine 1) winState (fun t => t.out == [.front "DATA_ONCE_STATUS" 9 0xD]) = true ∧
    after (.wrWin 1 9 winLine 6 0xAABBCC) winState (fun t => readLE t.mem 0x018008000000 4 == 0x04AABB01 && t.out == [.ack (.access 9) 0]) = true ∧
    after (.wrReg 0 9 nonceLine 0xFF00 (0x77 * 2 ^ 64)) winState (fun t => look 0 t.sec.nonce 1 == 0x77 && look 0 t.sec.nonce 0 == 0) = true ∧
    after (.wrReg 0 9 nonceLine 0x7F 1) winState (fun t => t.out == [.ack (.access 9) 0xB]) = true ∧
    after (.rdReg 0 9 ((regBase + 0x100000) / 128) 1) winState (fun t => t.out.length == 1) = true := by decide +kernel

theorem test_register_writes : after (.qdbCtlDiscard 1 1) (qBoard qk1 { qu1 with head := 2, tail := 9, stopped := true, errCause := 3 }) (fun t =>
      queue t 1 1 == { qu1 with head := 9, tail := 9 }) = true ∧
    after (.qdbCtlResync 1 1) (qBoard qk1 { qu1 with stopped := true, errCause := 1 }) (fun t => queue t 1 1 == { qu1 with expect := none }) = true ∧
    after (.qdbCtlResync 1 1) (ringWith (recWords 2 1 0 0x222 []) lastSlot) (fun t => (queue t 1 1).expect == some 0x222) = true ∧
    after (.qdbEvtailWrite 1 5) (inQu []) (fun t => (part t 1).evTail == 5) = true ∧ after (.pwrCapWrite 0x109C4) board (fun t => t.power.capReg == 2500) = true ∧
    after .secQuoteCtlGo { board with sec := { nonce := [(3, 8)] } } (fun t => t.sec.busy && t.sec.taken == [0, 0, 0, 8, 0, 0, 0, 0]) = true ∧
    after (.registerWrite 0 0x140038 9) board (fun t => look 0 t.sec.nonce 7 == 9) = true ∧ stays (.registerWrite 1 0x140038 9) board = true := by
  decide +kernel

/-- The example of R443: 0x0200_4001_2448 in a window of 1 GiB, here with a queue pair that is ready. -/
def remoteState (st : Nat) (x : Qp) (copies : List CLine) : State :=
  modSlice { board with
    image := { board.image with windows := [{ base := 0x020040000000, size := 0x40000000, part := 1, port := 0, half := 0, qp := 0x400, peerIp := 0,
                                              remote := 0x6000000000, rkey := 9 }] }
    ports := [(0, { st })], qps := [(0x400, x)] } 142 fun sl => { sl with lines := copies }
def readyQp : Qp := { st := .ready, window := some 0, mtu := 4096 }
def remLine : Nat := 0x020040123448 / 128
def remCopy : CLine := { line := remLine, st := .home, valid := 0xF, dirty := 0, data := 5, remote := some 1 }

theorem test_remote_address : homeSlice 1 0x020040123448 = some 142 ∧ isRemote board (128 * remLine) = true ∧
    (windowAt (remoteState 1 readyQp []) (128 * remLine)).map (fun w => remoteAddr w 0x020040123448) = some 0x6000123448 ∧ isRemoteLine board remLine = true := by
  decide +kernel
theorem test_remote_read : after (.rdRem 1 9 remLine 2 3) (remoteState 1 readyQp []) (fun t => t.out == [.rdma 0x400 "RDMA_READ_REQUEST" 0 0x6000123420 9 32 []]) = true ∧
    after (.rdRem 1 9 remLine 2 0) (remoteState 1 readyQp []) (fun t => t.out == [.rdma 0x400 "RDMA_READ_REQUEST" 0 0x6000123400 9 128 []]) = true ∧
    after (.rdRem 1 9 remLine 2 0) (remoteState 1 readyQp [remCopy]) (fun t => t.out == [.cohData "DATA_ONCE" 9 remLine 5 2 0 0]) = true ∧
    after (.rdRem 1 9 remLine 2 0) (remoteState 0 readyQp []) (fun t => t.out == [.front "DATA_ONCE_STATUS" 9 0xE]) = true ∧
    after (.rdRem 1 9 remLine 2 0) (remoteState 1 {} []) (fun t => t.out == [.front "DATA_ONCE_STATUS" 9 0xC]) = true ∧
    after (.rdRem 1 9 (remLine + 0x800000) 2 0) (remoteState 1 readyQp []) (fun t => t.out == [.front "DATA_ONCE_STATUS" 9 0xC]) = true := by decide +kernel
theorem test_remote_write : after (.wrRem 1 9 remLine (BitVec.ofNat 128 (0xFF * 2 ^ 72)) (BitVec.ofNat 1024 (0x88 * 2 ^ 576))) (remoteState 1 readyQp [remCopy]) (fun t =>
      t.out == [.rdma 0x400 "RDMA_WRITE" 0 0x6000123448 9 8 [0x88, 0, 0, 0, 0, 0, 0, 0]] && (sliceOf t 142).lines == []) = true ∧
    after (.flushRem 1 9 (0x020040000000 / 128)) (remoteState 1 readyQp []) (fun t => t.out == [.rdma 0x400 "RDMA_READ_REQUEST" 0 0x6000000000 9 0 []]) = true ∧
    after (.invRem 1 142 9) (remoteState 1 readyQp [remCopy, { remCopy with remote := some 2 }]) (fun t => (sliceOf t 142).lines == [{ remCopy with remote := some 2 }] &&
      t.out == [.ack (.access 9) 0]) = true := by decide +kernel

/-! ### Coherence -/

/-- The home of a line of CD1 with a filter entry and a copy; line 0x4000_0000 has its home in slice 16. -/
def hLine : Nat := 0x40000000
def homeWith (f : List Filter) (c : List CLine) : State := modSlice { board with mem := writeBytes [] 0x2000000000 [0x11] } 16 fun x => { x with filter := f, lines := c }
def owned2 : Filter := { line := hLine, mask := 4, owner := true, order := 0 }
def shared23 : Filter := { line := hLine, mask := 12, owner := false, order := 0 }

theorem test_witness_home : homeSlice 1 (128 * hLine) = some 16 ∧ findTxn (sliceOf (homeWith [owned2] []) 16) hLine = none ∧
    (sliceOf (homeWith [owned2] []) 16).waiting = [] ∧ findMiss (sliceOf (homeWith [owned2] []) 16) hLine = none ∧
    openAt (crusher (homeWith [owned2] []) 16) hLine = none ∧ filterRoom (homeWith [] []) 16 hLine = true ∧
    filterMask (sliceOf (homeWith [owned2] []) 16) hLine = 4 ∧ homeValue (homeWith [] []) 16 hLine = (0x11, 0, 0) := by decide +kernel

/-- Requests of CD3 while CD2 owns the line: a snoop and a transaction. -/
theorem test_requests_snoop : ([(Instr.rdS 3 hLine [], "SNP_S"), (.rdE 3 hLine [], "SNP_I"), (.rdOnce 9 hLine [], "SNP_R"), (.upg 3 hLine, "SNP_I"),
      (.wfwd 3 hLine 9 0 1 7, "SNP_I")].all fun e => after e.1 (homeWith [owned2] []) (fun t => t.out == [.snoop e.2 4 hLine] &&
        (findTxn (sliceOf t 16) hLine).map (·.awaiting) == some 4)) = true := by decide +kernel
/-- And with nobody in the way. UPG of a sharer alone is a grant without data. -/
theorem test_requests_served : after (.rdS 3 hLine []) (homeWith [] []) (fun t => t.out.getLast? == some (.cohData "DATA_S" 3 hLine 0x11 1 0 3) &&
      (sliceOf t 16).filter.map (fun f => (f.mask, f.owner)) == [(8, false)]) = true ∧
    after (.rdE 3 hLine []) (homeWith [] [{ proxyLine with line := hLine, st := .home, dirty := 1, data := 0x22 }]) (fun t =>
      t.out == [.cohData "DATA_M" 3 hLine 0x22 1 0 3] && (sliceOf t 16).lines == [] && (sliceOf t 16).filter.map (fun f => (f.mask, f.owner)) == [(8, true)]) = true ∧
    after (.upg 3 hLine) (homeWith [{ shared23 with mask := 8 }] []) (fun t => t.out == [.coh "GRANT_E" 3 hLine] && (sliceOf t 16).filter.map (·.owner) == [true]) = true ∧
    after (.upg 3 hLine) (homeWith [] []) (fun t => t.out == [.cohData "DATA_E" 3 hLine 0x11 1 0 3]) = true ∧
    after (.rdOnce 9 hLine []) (homeWith [] []) (fun t => t.out == [.cohData "DATA_ONCE" 9 hLine 0x11 0xF 0 0]) = true ∧
    after (.wfwd 3 hLine 9 0 2 0x7700) (homeWith [{ shared23 with mask := 8 }] []) (fun t => t.out.getLast? == some (.ack (.access 9) 0) &&
      (homeValue t 16 hLine).1 == 0x7711 && (sliceOf t 16).filter.map (·.mask) == [8]) = true := by decide +kernel

/-- A proxy: CD1's copy of a line of CD2 in slice 16, dirty, pinned, waiting in the spoil buffer, or absent. -/
def proxyWith (l : List CLine) (e : List Spoil) (m : List Miss) : State := modSlice proxyState 16 fun x => { x with lines := l, spoil := e, miss := m }
def pLine : Nat := 0x80000000
def dirtyLine : CLine := { proxyLine with st := .m, dirty := 1 }
theorem test_snoops : proxyOf proxyState 1 pLine = some 16 ∧
    ([Instr.snpS 1 pLine, .snpI 1 pLine, .snpR 1 pLine, .binv 1 pLine].all fun c => after c (proxyWith [] [] []) fun t => t.out == [.coh "SACK_I" 1 pLine]) = true ∧
    ([(Instr.snpS 1 pLine, [{ dirtyLine with st := .s, dirty := 0 }]), (.snpI 1 pLine, []), (.snpR 1 pLine, [dirtyLine]), (.binv 1 pLine, [])].all fun e =>
      after e.1 (proxyWith [dirtyLine] [] []) fun t => (sliceOf t 16).lines == e.2 &&
        t.out == [.cohData "SDATA" 1 pLine dirtyLine.data 1 0 (cmpOf dirtyLine.data)]) = true ∧
    ([(Instr.snpS 1 pLine, "SACK_S"), (.snpI 1 pLine, "SACK_I")].all fun e => after e.1 (proxyWith [proxyLine] [] []) fun t => t.out == [.coh e.2 1 pLine]) = true ∧
    after (.binv 1 pLine) (proxyWith [{ proxyLine with pins := 1 }] [] []) (fun t => t.out == [.coh "SACK_S" 1 pLine]) = true ∧
    ([Instr.snpS 1 pLine, .snpI 1 pLine, .snpR 1 pLine, .binv 1 pLine].all fun c => after c (proxyWith [] [{ line := pLine, data := 5, valid := 0xF, dirty := 2 }] [])
      fun t => t.out == [.cohData "SDATA" 1 pLine 5 2 0 0]) = true := by decide +kernel
theorem test_proxy_data : ([(Instr.dataS 1 pLine 5 0, CohState.s, 0), (.dataE 1 pLine 5 0, .e, 0), (.dataM 1 pLine 5 0, .m, 15)].all fun e =>
      after e.1 (proxyWith [] [] [{ line := pLine, cores := 8 }]) fun t => (sliceOf t 16).lines.map (fun c => (c.st == e.2.1, c.dirty.toNat, c.data.toNat)) == [(true, e.2.2, 5)] &&
        t.out == [.fill "CLUSTER_FILL" 1 2 8 pLine 5 0xF 0 0] && (sliceOf t 16).miss == []) = true ∧
    after (.dataS 1 pLine 5 0) (proxyWith [] [] [{ line := pLine, stores := [4] }]) (fun t => t.out == [.coh "UPG" 1 pLine]) = true ∧
    after (.dataE 1 pLine 0x500 0) (proxyWith [] [] [{ line := pLine, stores := [4] }]) (fun t => t.out == [] && t.accs.map (·.tag) == [3] &&
      (sliceOf t 16).lines.map (fun c => (c.st == .m, c.data.toNat)) == [(true, 0x5FF)]) = true ∧
    ([(Instr.grantE 1 pLine, CohState.e, 0), (.grantM 1 pLine, .m, 15)].all fun e => after e.1 (proxyWith [{ proxyLine with st := .s }] [] [{ line := pLine }]) fun t =>
      (sliceOf t 16).lines == [{ proxyLine with st := e.2.1, dirty := BitVec.ofNat 4 e.2.2 }] && (sliceOf t 16).miss == []) = true ∧
    stays (.grantE 1 pLine) (proxyWith [] [] []) = true := by decide +kernel

/-- A transaction that awaits CD2 and CD3; then CD3 alone. -/
def txnState (m : BitVec 8) (r : HomeReq) : State := modSlice (homeWith [shared23] []) 16 fun x => { x with txns := [{ line := hLine, req := r, awaiting := m }] }
theorem test_answers : stays (.sackI 4 hLine) (txnState 12 (.rdOnce 9)) = true ∧ stays (.sackI 2 hLine) (homeWith [shared23] []) = true ∧
    after (.sackI 2 hLine) (txnState 12 (.rdOnce 9)) (fun t => (findTxn (sliceOf t 16) hLine).map (·.awaiting) == some 8 && (filterMask (sliceOf t 16) hLine) == 8) = true ∧
    after (.sackS 3 hLine) (txnState 8 (.rdOnce 9)) (fun t => t.out == [.cohData "DATA_ONCE" 9 hLine 0x11 0xF 0 0] && (sliceOf t 16).txns == []) = true ∧
    after (.sdata 3 hLine 0x33 1 0) (txnState 8 (.rdOnce 9)) (fun t => t.out == [.cohData "DATA_ONCE" 9 hLine 0x33 0xF 0 0]) = true ∧
    after (.sdata 3 hLine 0x33 1 0) (txnState 12 (.rdE 1)) (fun t => (findTxn (sliceOf t 16) hLine).map (·.data) == some (some (0x33, 1, 0))) = true := by decide +kernel
theorem test_notices : after (.wb 2 hLine 0x44 1 0) (homeWith [owned2] []) (fun t => t.out == [.ack (.spoil 32 hLine) 0] && (homeValue t 16 hLine).1 == 0x44 &&
      (sliceOf t 16).filter == []) = true ∧
    after (.wb 2 hLine 0x44 1 0) (txnState 12 (.rdE 1)) (fun t => (findTxn (sliceOf t 16) hLine).map (fun x => (x.data, x.settled)) == some (none, true) &&
      (homeValue t 16 hLine).1 == 0x44) = true ∧
    after (.wb 5 hLine 0x44 1 0) (homeWith [owned2] []) (fun t => t.out == [.ack (.spoil 80 hLine) 0] && (homeValue t 16 hLine).1 == 0x11) = true ∧
    after (.drop 2 hLine) (homeWith [shared23] []) (fun t => filterMask (sliceOf t 16) hLine == 8) = true ∧ stays (.drop 5 hLine) (homeWith [shared23] []) = true ∧
    after (.reg 32 16) (homeWith [shared23, { owned2 with line := hLine + 32 }] []) (fun t => (sliceOf t 16).filter == [{ shared23 with mask := 8 }] &&
      t.out == [.coh "REG_ACK" 32 16]) = true ∧
    after (.regAck 32 16) (modSlice board 32 fun x => { x with awaitReg := [0, 16] }) (fun t => (sliceOf t 32).awaitReg == [0]) = true := by decide +kernel

/-- DATA_ONCE and WB_ACK end what waits; statuses 0x0F of remote and 0x0C of window accesses park with their codes. -/
def ncLoad : Access := { proxyAcc with attr := 3, pieces := [{ off := 4, len := 4, lane := 0, reg := 8 }] }
def ncState : State := { modCluster (withGroup grp) 16 (fun x => { x with reads := [(pLine, 3)] }) with accs := [ncLoad, { proxyAcc with tag := 4, kind := .store, line := remLine, pieces := [] }] }
theorem test_access_answers : after (.dataOnce 3 pLine 0x0807060504030201 1 0 0) ncState (fun t => regAt t 0 8 == some 0x08070605 && t.accs.map (·.tag) == [4]) = true ∧
    after (.dataOnce 3 pLine 0 1 0 0xC) ncState (fun t => parkOf t == some 0x1C) = true ∧ after (.wbAck (.access 4) 0) ncState (fun t => t.accs.map (·.tag) == [3]) = true ∧
    after (.wbAck (.access 4) 0xE) ncState (fun t => parkOf t == some 0x9E) = true ∧
    after (.wbAck (.spoil 16 pLine) 0) (proxyWith [] [{ line := pLine, data := 5, valid := 0xF, dirty := 2, departing := true }] []) (fun t => (sliceOf t 16).spoil == []) = true ∧
    after (.wbAck (.key 8) 0xF) board (fun t => (die t 8).state == .heldOut && (die t 8).hold == 3 && !(die t 8).keyed) = true := by decide +kernel
theorem test_spoil_out : after (.spoilWriteOut 16) (proxyWith [] [{ line := pLine, data := 5, valid := 0xF, dirty := 2 }] []) (fun t =>
      t.out == [.cohData "WB" 1 pLine 5 2 0 0] && (sliceOf t 16).spoil.map (·.departing) == [true]) = true ∧
    after (.spoilWriteOut 16) (modSlice board 16 fun x => { x with spoil := [{ line := hLine, data := 5, valid := 0xF, dirty := 1 }] }) (fun t =>
      t.out == [.memWrite 16 hLine] && memLine t.mem hLine == 5 && (sliceOf t 16).spoil == []) = true := by decide +kernel

/-! ### Crusher -/

/-- Line 0x4000_0000 at its home, with a declared range of task 7 in FP32. -/
def crState (ls : List OpenLine) (acc : List Access) : State :=
  { modCrusher { withGroup grp with mem := writeBytes [] 0x2000000000 (leBytes 4 0x3F800000) } 16 fun c =>
      { c with ranges := [{ task := 7, first := hLine, lines := 2, fl := 1, spill := 0 }], lines := ls } with accs := acc, tasks := [{ tlbTask with st := .closing, closes := [16, 17] }] }
/-- 2.0 as a ledger record of element 0 (V counts units of 2^-320, R75); a record whose limbs pass the top of V; 2.0 as a pair. -/
def twoRec : CruRecord := .ledger 0 5 [2] false false false false false
def topRec : CruRecord := .ledger 0 9 [0, 1] false false false false false
def addPkt (r : CruRecord) : CruPacket := { line := hLine, fl := 1, op := 0, task := 7, part := 1, tag := 9, recs := [r] }
def openHere (form : AccForm) (task : Nat) : OpenLine :=
  { line := hLine, task, part := 1, form, fl := 1, rm := 0, sat := false, rsr := none, ho := true, attr := 0, elems := openElems form 1 0x3F800000, before := 0x3F800000 }
def elem0 (t : State) : Option Nat := (openAt (crusher t 16) hLine).map fun l => elemRound l.form 1 rne (look {} l.elems 0)

theorem test_crusher_add : after (.ledgerRecords 16 (addPkt twoRec)) (crState [] []) (fun t => t.out == [.cruAck 9 0] && elem0 t == some 0x40400000 &&
      ((openAt (crusher t 16) hLine).map fun l => (l.task, l.form == .ledger, l.before.toNat)) == some (7, true, 0x3F800000)) = true ∧
    after (.ledgerRecords 16 (addPkt twoRec)) (crState [openHere .ledger 7] []) (fun t => elem0 t == some 0x40400000 && t.out == [.cruAck 9 0]) = true := by
  decide +kernel
theorem test_crusher_refused : after (.ledgerRecords 16 { addPkt twoRec with line := hLine + 0x20 }) (crState [] []) (fun t => t.out == []) = true ∧
    after (.ledgerRecords 16 { addPkt twoRec with task := 8 }) (crState [] []) (fun t => t.out == [.cruAck 9 0x55]) = true ∧
    after (.ledgerRecords 16 { addPkt twoRec with fl := 0 }) (crState [] []) (fun t => t.out == [.cruAck 9 0x55]) = true ∧
    after (.pairRecords 16 (addPkt (.pair 0 0 0))) (crState [openHere .ledger 7] []) (fun t => t.out == [.cruAck 9 0x65]) = true ∧
    after (.ledgerRecords 16 (addPkt topRec)) (crState [] []) (fun t => t.restart.fatal) = true := by decide +kernel
/-- Another task's open line closes first: then the line holds its value, 1.0, and is opened anew. -/
theorem test_crusher_other_task : after (.ledgerRecords 16 (addPkt twoRec)) (crState [openHere .ledger 8] []) (fun t => elem0 t == some 0x40400000 &&
    (crusher t 16).lines.map (·.task) == [7]) = true := by decide +kernel

/-- INT32 MAX on bytes 0 to 3, and an EXCH of 8 bytes with a return. -/
def intPkt (op : Nat) (ret : Bool) (size operand : Nat) : CruPacket :=
  { line := hLine, fl := if size = 8 then 0xF else 0xA, op, ret, task := 7, part := 1, tag := 9, recs := [.rounded 0 size (BitVec.ofNat 64 operand) 0] }
theorem test_rounded_update : after (.roundedUpdate 16 (intPkt 2 false 4 0x3F800001)) (crState [] []) (fun t => t.out == [.cruAck 9 0] &&
      (homeValue t 16 hLine).1 == 0x3F800001) = true ∧
    after (.roundedUpdate 16 (intPkt 2 false 4 0x80000000)) (crState [] []) (fun t => (homeValue t 16 hLine).1 == 0x3F800000) = true ∧
    after (.roundedUpdate 16 (intPkt 6 true 8 5)) (crState [] [{ proxyAcc with tag := 9, kind := .atomRet, pieces := [{ off := 0, len := 8, lane := 0, reg := 8 }] }]) (fun t =>
      t.accs == [] && (homeValue t 16 hLine).1 == 5 && regAt t 0 8 == some 0x3F800000 && regAt t 0 9 == some 0) = true := by decide +kernel

def closePkt (id : Nat) : CruPacket := { line := hLine, fl := 0, op := 0xC, task := id, part := 1, tag := 9, recs := [] }
def closeAcc (id : Nat) : Access := { proxyAcc with tag := 9, kind := .update, line := hLine, update := some (closePkt id) }
theorem test_close_line : after (.closeLine 16 hLine 9) (crState [] [closeAcc 7]) (fun t => t.out == [.cruAck 9 0]) = true ∧
    after (.closeLine 16 hLine 9) (crState [openHere .ledger 7] [closeAcc 7]) (fun t => t.out == [.cruAck 9 0] && (crusher t 16).lines.length == 1) = true ∧
    after (.closeLine 16 hLine 9) (crState [{ openHere .ledger 7 with ho := false }] [closeAcc 7]) (fun t => t.out == [.cruAck 9 0] && (crusher t 16).lines == [] &&
      (homeValue t 16 hLine).1 == 0x3F800000) = true ∧
    after (.closeLine 16 hLine 9) (crState [{ openHere .ledger 7 with ho := false, spilled := true }] [closeAcc 7]) (fun t => t.out == [] &&
      (crusher t 16).lines.map (fun l => l.waiting.map (·.tag)) == [[9]]) = true := by decide +kernel
theorem test_close_task : after (.closeTask 16 7) (crState [openHere .pair 7] []) (fun t => (crusher t 16).lines == [] && (crusher t 16).ranges == [] &&
      t.tasks.map (·.closes) == [[17]] && (homeValue t 16 hLine).1 == 0x3F800000) = true ∧
    stays (.closeTask 18 7) (crState [openHere .pair 7] []) = true ∧
    after (.crusherAck 9 0) (crState [] [closeAcc 7]) (fun t => t.accs == []) = true ∧
    after (.crusherAck 9 0x55) (crState [] [closeAcc 7]) (fun t => parkOf t == some 0x55) = true ∧
    after (.lineBringBack 16 hLine) (crState [{ openHere .ledger 7 with spilled := true }] []) (fun t => (crusher t 16).lines.map (·.spilled) == [false]) = true ∧
    stays (.lineBringBack 16 hLine) (crState [openHere .ledger 7] []) = true := by decide +kernel

/-! ### Upkeep -/

theorem test_flit_error : after (.flitError 2 15 1 40 true) board (fun t => hopFails (die t 2) 15 1 40 true == 1 && (die t 2).ctlRetry == 1 && (die t 2).bulkRetry == 0 &&
      after (.flitError 2 15 1 40 true) t (fun u => hopFails (die u 2) 15 1 40 true == 2 &&
        after (.flitError 2 15 1 40 true) u (fun v => v.restart.fatal && (die v 2).holdNext == 7) &&
        after (.flitError 2 15 1 41 true) u (fun v => hopFails (die v 2) 15 1 41 true == 1 && hopFails (die v 2) 15 1 40 true == 2 && !v.restart.fatal))) = true := by decide +kernel
theorem test_enables : after (.roCacheEnable 16) (modCluster board 16 fun x => { x with roInvalid := true }) (fun t => (cluster t 16).roEnabled) = true ∧
    after (.sliceEnable 16) (modSlice board 16 fun x => { x with enabled := false }) (fun t => (sliceOf t 16).enabled) = true ∧
    stays (.sliceEnable 16) (modSlice board 16 fun x => { x with enabled := false, awaitReg := [0] }) = true := by decide +kernel
/-- 1,024 activations of a row of bank 1 of face channel 0. -/
def counted (row : Nat) : State := modChan board 0 fun c => { c with activations := [(0x1000000 + row, 1024)] }
theorem test_refresh : chanRuns board 0 = true ∧ chanRuns board 159 = true ∧ after (.refresh 159 63 0 8) board (fun t => look 0 (chan t 159).refreshes 63 == 1) = true ∧
    after (.disturbanceRefresh 0 1 1) (counted 1) (fun t => (chan t 0).extraRefreshes.map (·.1) == [0x1000000, 0x1000002, 0x1000003]) = true ∧
    after (.disturbanceRefresh 0 1 81919) (counted 81919) (fun t => (chan t 0).extraRefreshes.map (·.1) == [0x1000000 + 81917, 0x1000000 + 81918]) = true ∧
    after (.refresh 0 1 0 8) (counted 1) (fun t => activationsOf t 0 1 1 == 0) = true := by decide +kernel
theorem test_activation_count : after (.disturbanceRefresh 0 1 5) (modChan board 0 fun c => { c with activations := [(0x1000005, 1024), (0x1000006, 1023)] }) (fun t =>
    (chan t 0).activations == [(0x1000006, 1023)] && stays (.disturbanceRefresh 0 1 6) t) = true := by decide +kernel
theorem test_scrubs : after (.patrolScrub 0x2000000040 [] false) board (fun t => t.dev == board.dev && t.poison == []) = true ∧
    after (.patrolScrub 0x2000000040 [31, 17] false) board (fun t => t.dev.errCe == 1 && t.poison == []) = true ∧
    after (.patrolScrub 0x2000000040 [0, 16] false) board (fun t => t.dev.errUe == 1 && (look 0 t.poison (0x2000000040 / 32)) == 0x31 &&
      (look 0 t.poison (0x2000000040 / 32 + 1)) == 0x31 && t.mem == []) = true ∧
    after (.arrayScrub (.sliceData 16 hLine 0) (.corrected 0)) board (fun t => t.dev.errCe == 1) = true ∧
    ([ArrayUnit.sliceTags 16, .snoopFilter 128, .directory 143].all fun u => after (.arrayScrub u (.uncorrectable 0)) board fun t => t.restart.fatal) = true ∧
    after (.arrayScrub (.clusterMem 16 0 0) (.uncorrectable 0)) board (fun t => look 0 t.poison (wordMark 0x018008000000) == 0x34) = true ∧
    after (.arrayScrub (.ledgerCell 16 hLine 9) (.uncorrectable 0)) (crState [openHere .ledger 7] []) (fun t => (crusher t 16).lines.map (·.poison) == [0x3600]) = true := by
  decide +kernel
def trained : State := modChan board 130 fun c => { c with trained := true }
theorem test_training : after (.retrainWindow 130 false true) trained (fun t => (chan t 130).windows == 1) = true ∧
    after (.temperatureReadout 130 350) trained (fun t => (chan t 130).retrainDue && after (.retrainWindow 130 true true) t (fun u => !(chan u 130).retrainDue &&
      (chan u 130).tempAtTrain == 350)) = true ∧ after (.temperatureReadout 130 349) trained (fun t => !(chan t 130).retrainDue) = true ∧
    after (.retrainWindow 130 true false) (modChan trained 130 fun c => { c with retrainDue := true }) (fun t => (chan t 130).retrainFailed && t.dev.stock && after (.retrainWindow 130 true false) t (fun u =>
      (chan u 130).failed && !u.dev.stock)) = true ∧
    after (.faceRecalibration 127) board (fun t => (chan t 127).windows == 1) = true := by decide +kernel

/-! ### Links -/

/-- A frame of a type with sequence number and acknowledgement, its cells empty but the first. -/
def frame (ty seq ack desc : Nat) (c : BitVec 128) : Frame :=
  let f : Frame := { header := BitVec.ofNat 256 (desc + ty * 2 ^ 64 + seq * 2 ^ 68 + ack * 2 ^ 80), cells := c :: List.replicate 15 0, crc := 0 }
  { f with crc := BitVec.ofNat 64 (frameCrc f) }
def linkUp (l : Link) : State := { board with links := [(0, l)] }
def full : Link := { octIns := 0xFFF, rate := 2, st := 2, fwd := { recvSeq := 5, sendSeq := 5, credit := [(4, 16)] } }

/-- The check value of the CRC with these parameters, over the bytes of "123456789". -/
theorem test_crc : 2 ^ 64 - 1 - crcBits 72 0x393837363534333231 (2 ^ 64 - 1) = 0x995DC9BBDF1939FA := by decide +kernel

/-- A request descriptor (control VC0) in sequence; a duplicate; one that is early; a frame that fails its CRC. -/
theorem test_data_frame : after (.dataFrame 0 0 11 (frame 0 5 0 0x9 7)) (linkUp full) (fun t => (link t 0).fwd.recvSeq == 6 && look 0 (link t 0).fwd.freed 4 == 1) = true ∧
    after (.dataFrame 0 0 11 (frame 0 4 0 0x9 7)) (linkUp full) (fun t => (link t 0).fwd.recvSeq == 5 && t.out == []) = true ∧
    after (.dataFrame 0 0 11 (frame 0 7 0 0x9 7)) (linkUp full) (fun t => (link t 0).fwd.nak == some (5, 1) && t.out == [.linkNak 0 0 5]) = true := by decide +kernel
theorem test_bad_crc : after (.idleFrame 0 0 11 { frame 1 0 0 0 0 with crc := 1 }) (linkUp full) (fun t => (link t 0).crcErr == 1 && t.out == [.linkNak 0 0 5]) = true := by
  decide +kernel
theorem test_other_frames : after (.idleFrame 0 0 0 (frame 1 0 4094 0 0)) (linkUp { full with bwd := { sendSeq := 1, unacked := 4 } }) (fun t => (link t 0).bwd.unacked == 2) = true ∧
    after (.capFrame 0 0 0 (frame 2 0 0 0 0)) (linkUp full) (fun t => (link t 0).st == 5 && t.restart.fatal && t.restart.fatalDies == 0x101) = true ∧
    after (.alignFrame 0 0 0 (frame 4 0 0 0 0)) (linkUp full) (fun t => (link t 0).fwd.scramblerSeeded) = true := by decide +kernel
/-- WIDTH: CW2 in the second cell's first half lists octets 0 to 10. -/
def widthFrame : Frame :=
  let f : Frame := { header := BitVec.ofNat 256 (0xBB + 3 * 2 ^ 64), cells := 0 :: BitVec.ofNat 128 (0x7FF * 2 ^ 16) :: List.replicate 14 0, crc := 0 }
  { f with crc := BitVec.ofNat 64 (frameCrc f) }
theorem test_width_frame : after (.widthFrame 0 0 0 widthFrame) (linkUp full) (fun t => (link t 0).octIns == 0x7FF && (link t 0).octRet == 0x800 && (link t 0).st == 3) = true := by
  decide +kernel

theorem test_link_loss : after (.nakRepeat 0 0) (linkUp { full with fwd := { nak := some (5, 6) } }) (fun t => (link t 0).fwd.nak == some (5, 7) && !t.restart.fatal &&
      after (.nakRepeat 0 0) t (fun u => (link u 0).st == 5 && u.restart.fatal)) = true ∧
    after (.frameTimeout 0) (linkUp full) (fun t => (link t 0).st == 5 && t.restart.fatalDies == 0x101) = true ∧
    after (.lossOfSignal 0 3) (linkUp full) (fun t => (link t 0).octIns == 0xFF7 && (link t 0).degrades == 1 && t.admission.passDue) = true ∧
    after (.lossOfSignal 0 1) (linkUp { full with octIns := 3 }) (fun t => (link t 0).st == 5) = true ∧ stays (.lnkCmdRetire 0 2) (linkUp { full with octIns := 3 }) = true ∧
    after (.lnkCmdRetire 0 8) (linkUp full) (fun t => (link t 0).octRet == 8) = true ∧
    after (.lnkCmdRecal 0) (linkUp { full with octIns := 5 }) (fun t => (link t 0).recalPass == [0, 2]) = true ∧
    after (.octetRecalibration 0 2 true) (linkUp { full with recalPass := [2, 3] }) (fun t => (link t 0).recalPass == [3] && (link t 0).recals == 1) = true ∧
    after (.octetRecalibration 0 2 false) (linkUp full) (fun t => (link t 0).octRet == 4) = true := by decide +kernel

/-- A sender with 1,024 frames unacknowledged, or without credit for the cell, sends nothing new; lane 0 has byte 8 of the header. -/
theorem test_sender_limits : senderMay (link (linkUp full) 0) 0 (frame 0 5 0 0x9 7) = true ∧
    stays (.dataFrame 0 0 11 (frame 0 5 0 0x9 7)) (linkUp { full with fwd := { full.fwd with credit := [] } }) = true ∧
    stays (.dataFrame 0 0 11 (frame 0 5 0 0x9 7)) (linkUp { full with fwd := { full.fwd with unacked := 1024 } }) = true ∧
    (laneBytes (frame 1 0 0 0 0) 0).take 2 = [0, 1] ∧ (laneBytes (frame 1 0 0 0 0) 7).length = 37 := by decide +kernel

/-! ### Ethernet: the responder -/

/-- A queue pair of PT1 on port 0, and packets to it. -/
def rcState (x : Qp) (m : List Host.Cell) : State := { board with ports := [(0, { st := 1 })], qps := [(1024, x)], mem := m }
def peerQp : Qp := { st := .ready, expectPsn := 9, mtu := 1024 }
def pkt (psn : Nat) : RcPacket := { port := 0, vlan := 101, dstIp := 0xFFFF0A000003, qpn := 0x10400, psn, va := 0x2000000040, rkey := 0x101, len := 8 }
def word5 : List Host.Cell := writeBytes [] 0x2000000040 [5]

theorem test_witness_arrives : Arrives (rcState peerQp word5) (pkt 9) 1024 1 := by constructor <;> decide +kernel
theorem test_witness_responder : requestFine (rcState peerQp word5) 1 (pkt 9) 8 true = true ∧ requestFine (rcState peerQp word5) 1 (pkt 9) 8 false = true ∧
    requestFine (rcState peerQp word5) 1 { pkt 9 with rkey := 0x100 } 8 true = false ∧ isRegister (rcState peerQp word5) 0x2000000040 = false ∧
    poisonAny (rcState peerQp word5) 0x2000000040 8 = 0 ∧ psnAhead 10 9 = 1 ∧ psnAhead 8 9 = psnSpace - 1 ∧
    qpOf (rcState {} []) (pkt 9) = none := by decide +kernel
theorem test_rdma_write : after (.rdmaWrite { pkt 9 with data := [1, 2] }) (rcState peerQp []) (fun t => readPhysLE t 0x2000000040 8 == 0x0201 &&
      t.out == [.rc 1024 "ACKNOWLEDGE" 9 []] && (qp t 1024).expectPsn == 10 && (qp t 1024).msn == 1) = true ∧
    after (.rdmaWrite { pkt 9 with data := [1], rkey := 7 }) (rcState peerQp []) (fun t => t.out == [.rc 1024 "NAK" 9 [2]] && t.mem == []) = true ∧
    after (.rdmaWrite { pkt 10 with data := [1] }) (rcState peerQp []) (fun t => t.out == [.rc 1024 "NAK" 10 [0]] && t.mem == []) = true ∧
    after (.rdmaWrite { pkt 8 with data := [1] }) (rcState peerQp []) (fun t => t.out == [.rc 1024 "ACKNOWLEDGE" 8 []] && t.mem == []) = true ∧
    after (.rdmaWrite (pkt 9)) (rcState {} []) (fun t => look 0 t.dev.portDrops 0 == 1) = true ∧
    after (.rdmaWrite { pkt 9 with ce := true }) (rcState peerQp []) (fun t => t.out.head? == some (.rc 1024 "CNP" 0 [])) = true := by decide +kernel
theorem test_rdma_read : after (.rdmaReadRequest (pkt 9)) (rcState peerQp word5) (fun t => t.out == [.rc 1024 "RDMA_READ_RESPONSE" 9 [5, 0, 0, 0, 0, 0, 0, 0]] &&
      (qp t 1024).expectPsn == 10) = true ∧
    after (.rdmaReadRequest { pkt 9 with len := 1025 }) (rcState { peerQp with expectPsn := 9 } []) (fun t => t.out.length == 2 && (qp t 1024).expectPsn == 11) = true ∧
    after (.rdmaReadRequest (pkt 9)) { rcState peerQp word5 with restart := { active := true } } (fun t => t.out == [.rc 1024 "RNR_NAK" 9 [0]]) = true ∧
    after (.unsupportedOperation (pkt 9)) (rcState peerQp word5) (fun t => t.out == [.rc 1024 "NAK" 9 [1]]) = true := by decide +kernel
theorem test_rdma_atomics : after (.fetchAdd (pkt 9) 3) (rcState peerQp word5) (fun t => readPhysLE t 0x2000000040 8 == 8 &&
      t.out == [.rc 1024 "ATOMIC_ACKNOWLEDGE" 9 [0, 0, 0, 0, 0, 0, 0, 5]] &&
      after (.fetchAdd (pkt 9) 3) { t with out := [] } fun u => u.out == t.out && u.mem == t.mem) = true ∧
    after (.cmpSwap (pkt 9) 5 6) (rcState peerQp word5) (fun t => readPhysLE t 0x2000000040 8 == 6) = true ∧
    after (.cmpSwap (pkt 9) 4 6) (rcState peerQp word5) (fun t => readPhysLE t 0x2000000040 8 == 5) = true ∧
    after (.fetchAdd { pkt 9 with va := 0x2000000044 } 3) (rcState peerQp word5) (fun t => t.out == [.rc 1024 "NAK" 9 [1]]) = true := by decide +kernel

/-! ### Ethernet: the requester, connections, ports -/

def rdReq : QpReq := { psn := 7, kind := 0, tag := 9, part := 1, line := remLine, remote := 0, sectors := 2, len := 128, sent := true }
def wrReq : QpReq := { rdReq with kind := 1, len := 8 }
def atReq : QpReq := { rdReq with kind := 2, len := 8 }
def reqState (r : QpReq) : State := remoteState 1 { readyQp with sendq := [r] } []
def atomState : State := { setGroup (reqState atReq) (gidOf gr) (some grp) with
  accs := [{ tag := 9, instr := 1, gid := gidOf gr, kind := .atomRet, line := remLine, attr := 0, va := 0, pc := 0, word := 0, pieces := [{ off := 0, lane := 0, reg := 40, len := 8 }] }] }

theorem test_witness_requester : qpLive (reqState rdReq) 0x400 = true ∧ (reqState rdReq).image.windows.any (fun w => w.qp == 0x400) = true ∧
    packets readyQp.mtu 8 = 1 ∧ (accessOf atomState 9).map (·.kind) = some .atomRet ∧ nakStatus nakAccess = some 8 := by decide +kernel
theorem test_answers_received : after (.rdmaReadResponse 0x400 7 [0x55]) (reqState rdReq) (fun t => t.out == [.cohData "DATA_ONCE" 9 remLine 0x55 2 0 0] &&
      (qp t 0x400).sendq == []) = true ∧
    after (.acknowledge 0x400 7 0) (reqState wrReq) (fun t => t.out == [.ack (.access 9) 0] && (qp t 0x400).sendq == []) = true ∧
    after (.acknowledge 0x400 7 0x0000000200000001) atomState (fun t => t.accs == [] && regAt t 0 40 == some 1 && regAt t 0 41 == some 2) = true ∧
    after (.nak 0x400 7 2) (reqState rdReq) (fun t => t.out == [.front "DATA_ONCE_STATUS" 9 8]) = true := by decide +kernel
theorem test_requests_again : after (.nak 0x400 7 0) (reqState rdReq) (fun t => (qp t 0x400).retries == 1 && (qp t 0x400).sendq == [rdReq] && t.out.length == 1) = true ∧
    after (.ackTimeout 0x400) (remoteState 1 { readyQp with sendq := [rdReq], retries := 7 } []) (fun t => (qp t 0x400).st == .error &&
      t.out.head? == some (.front "DATA_ONCE_STATUS" 9 0xB)) = true ∧
    after (.rnrNak 0x400 7 0) (reqState rdReq) (fun t => (qp t 0x400).rnrWait && t.out == [] && after (.rnrTimerExpiry 0x400) t fun u =>
      (qp u 0x400).sendq == [rdReq] && u.out.length == 1) = true := by decide +kernel
theorem test_congestion : after (.cnp 0x400) (remoteState 1 readyQp []) (fun t => (qp t 0x400).rate == 400000 && after (.cnp 0x400) t (fun u => (qp u 0x400).rate == 400000) &&
      after (.cnp 0x400) { t with portTime := 500000 } (fun u => (qp u 0x400).rate == 200000) &&
      after (.cnpRateIncrease 0x400) { t with portTime := 549999 } (fun u => (qp u 0x400).rate == 400000) &&
      after (.cnpRateIncrease 0x400) { t with portTime := 550000 } (fun u => (qp u 0x400).rate == 440000)) = true := by decide +kernel

def cmReq (ip : Nat) : CmReq := { port := 0, vlan := 101, dstIp := BitVec.ofNat 128 (0xFFFF00000000 + ip), srcIp := 1, peerQpn := 77, peerPsn := 5, mtu := 8192 }
theorem test_witness_connections : (addrFor (rcState {} []) 0 0 101 (cmReq 0x0A000003).dstIp).map (·.part) = some 1 ∧ freeQp (rcState {} []) 1 = some 1024 ∧
    freeQp (rcState peerQp []) 1 = some 1025 ∧ (cmReq 0).ok = true ∧ portTakes (rcState {} []) 0 0 = true ∧
    freeQp { rcState peerQp [] with image := { board.image with parts := [(1, { isDefined := true, qpFirst := 1024, qpCount := 1 })] } } 1 = none ∧
    addrFor (rcState {} []) 0 0 101 (cmReq 1).dstIp = none := by decide +kernel
theorem test_connect : after (.req (cmReq 0x0A000003)) (rcState {} []) (fun t => (qp t 1024).st == .repSent && (qp t 1024).peerQpn == 77 && (qp t 1024).mtu == 4096 &&
      (qp t 1024).expectPsn == 5 && t.out.length == 1) = true ∧
    after (.req (cmReq 0x0A000003)) { rcState peerQp [] with image := { board.image with parts := [(1, { isDefined := true, qpFirst := 1024, qpCount := 1 })] } }
      (fun t => t.out == [.cm 0 0 "REJ" 0 1]) = true ∧
    after (.req (cmReq 1)) (rcState {} []) (fun t => look 0 t.dev.portDrops 0 == 1 && t.out == []) = true ∧
    after (.rtu 1024) (rcState { peerQp with st := .repSent } []) (fun t => (qp t 1024).st == .ready) = true ∧
    after (.dreq 1024) (rcState peerQp []) (fun t => (qp t 1024).st == .error && t.out == [.cm 0 0 "DREP" 1024 0]) = true ∧
    stays (.rtu 1024) (rcState peerQp []) = true ∧ after (.drep 1024) (rcState peerQp []) (fun t => t.qps == [(1024, peerQp)]) = true := by decide +kernel
theorem test_window_connects : stays (.windowReqRetry 0) (remoteState 1 readyQp []) = true ∧
    after (.windowReqRetry 0) (remoteState 1 {} []) (fun t => (qp t 0x400).st == .reqSent && (qp t 0x400).window == some 0 && t.out.length == 1) = true ∧
    after (.rep 0x400 33 6 1024 8) (remoteState 1 { st := .reqSent, window := some 0 } []) (fun u => (qp u 0x400).st == .ready && (qp u 0x400).peerQpn == 33 && (qp u 0x400).depth == 8 &&
      (qp u 0x400).mtu == 1024 && u.out == [.cm 0 0 "RTU" 0x400 0]) = true ∧
    after (.rej 0x400 1) (remoteState 1 { st := .reqSent, window := some 0 } []) (fun u => (qp u 0x400).st == .free && u.out == []) = true := by decide +kernel

theorem test_frames : after (.arp 0 0 101 0x0A000003) (rcState {} []) (fun t => t.out == [.net 0 0 "ARP_REPLY" 0x0A000003]) = true ∧
    after (.arp 0 0 102 0x0A000003) (rcState {} []) (fun t => t.out == [] && look 0 t.dev.portDrops 0 == 1) = true ∧
    after (.neighborDiscovery 0 0 101 5) { rcState {} [] with image := { addrs := [⟨1, 0, 0, 101, 0, 0, none, some 5⟩] } } (fun t =>
      t.out == [.net 0 0 "NEIGHBOR_ADVERTISEMENT" 5]) = true ∧
    after (.unmatchedFrame 0 0) (rcState {} []) (fun t => look 0 t.dev.portDrops 0 == 1) = true ∧
    after (.fecUncorrectableFrame 0 0) (rcState {} []) (fun t => look 0 t.dev.portFec 0 == 1) = true ∧
    after (.pfcFrame 0 0 0xC 0) { rcState {} [] with image := { lossless := 8 } } (fun t => (port t 0 0).paused == 8 &&
      after (.pfcFrame 0 0 0 8) t fun u => (port u 0 0).paused == 0) = true := by decide +kernel
/-- 2 s and 300 ns of port time, in the units of 0.1 ns. -/
theorem test_timestamps : after (.delayReq { port := 0, domain := 0, seqId := 1, overIp := false, peer := 0 }) { rcState {} [] with portTime := 20000003000 } (fun t =>
      t.out == [.ptp 0 0 "DELAY_RESP" 0xFFFE000000 2 300]) = true ∧
    after (.pdelayReq { port := 0, domain := 0, seqId := 1, overIp := false, peer := 0 }) { rcState {} [] with portTime := 20000003000 } (fun t =>
      t.out == [.ptp 0 0 "PDELAY_RESP" 0xFFFE000000 2 300, .ptp 0 0 "PDELAY_RESP_FOLLOW_UP" 0xFFFE000000 2 300]) = true := by decide +kernel
theorem test_port_state : portNamed board.image 0 0 = true ∧ after (.portUp 0 0 true) board (fun t => (port t 0 0).st == 1 && t.admission.passDue) = true ∧
    after (.portUp 0 0 false) board (fun t => (port t 0 0).st == 2) = true ∧ after (.portDown 0 0) (rcState {} []) (fun t => (port t 0 0).st == 0) = true ∧
    stays (.portDown 0 0) board = true := by decide +kernel

/-! ### Supply, resets, power, temperature -/

/-- The board in another state of supply, with a byte of memory and of the flash, a floor and a record. -/
def supply (p : Power) : State := { board with
  power := p, mem := [(5, 1)], sec := { ownFloor := 3 }, flash := { bytes := [(9, 7)], journal := [{ type := 1, key := [1], payload := [2] }] } }
def kept (t : State) : Bool := t.mem == [] && t.groups == [] && t.flash.bytes == [(9, 7)] && t.flash.journal.length == 1 && t.sec.ownFloor == 3
def run56 : Power := { stage := .running, inputMv := 56000 }
def held56 : Power := { stage := .held, inputMv := 56000 }

theorem test_supply_levels : after (.softStart 49500) (supply { inputMv := 100 }) (fun t => kept t && t.power.stage == .cold && t.power.inputMv == 49500) = true ∧
    stays (.softStart 49499) (supply { inputMv := 100 }) = true ∧ stays (.softStart 49500) (supply { inputMv := 49500 }) = true ∧
    after (.coldReset 44000) (supply run56) (fun t => kept t && t.power.stage == .off && t.power.coldCause == 2) = true ∧ stays (.coldReset 44001) (supply run56) = true ∧
    after (.overvoltage 61000) (supply run56) (fun t => kept t && t.power.stage == .off && t.power.overvolted && t.power.coldCause == 3) = true ∧
    stays (.overvoltage 60999) (supply run56) = true ∧
    after (.overvoltageCleared 59499) (supply { overvolted := true }) (fun t => kept t && t.power.stage == .cold && !t.power.overvolted && t.power.coldCause == 3) = true ∧
    stays (.overvoltageCleared 59500) (supply { overvolted := true }) = true := by decide +kernel
theorem test_reset_pins : after (.modResetAssert 10000) (supply run56) (fun t => kept t && t.power.stage == .held && t.power.resetLow) = true ∧
    stays (.modResetAssert 999) (supply run56) = true ∧
    after .modResetRelease (supply { held56 with resetLow := true }) (fun t => kept t && t.power.stage == .cold && !t.power.resetLow && t.power.coldCause == 1) = true ∧
    after .flashEnAssert (supply run56) (fun t => kept t && t.power.stage == .held && t.power.flashEnLow) = true ∧
    after .flashEnRelease (supply { held56 with flashEnLow := true }) (fun t => kept t && t.power.stage == .cold && t.power.coldCause == 6) = true ∧
    after .fru3v3Removal (supply { latch := some (1, 2), tripPin := true }) (fun t => t.power.latch == none && !t.power.tripPin &&
      !t.power.fru3v3 && t.mem == [(5, 1)] && fruRead t 0x50 0 == none) = true ∧
    [0, 8191, 8192].map (fun n => (fruRead (supply { ga := 3 }) 0x53 n).isSome) = [true, true, false] ∧ fruRead (supply { ga := 3 }) 0x50 0 = none := by decide +kernel

theorem test_supply_warning : after (.supplyWarning 48000) board (fun t => t.power.warning && t.power.alertPin && t.flash.suspended && (die t 7).fLoop == 4 &&
      capInForce t == 1500 && t.out.head? == some (.pin "PWR_ALERT#" true)) = true ∧ stays (.supplyWarning 48001) board = true ∧
    after (.warningCleared 49000) { board with power := { run56 with warning := true, alertPin := true } } (fun t => !t.power.warning && !t.power.alertPin) = true ∧
    stays (.warningCleared 48999) { board with power := { run56 with warning := true } } = true := by decide +kernel
/-- 56 V at 12 A is 672 W: a sample of 1 us is 672 uJ. -/
theorem test_current_sample : after (.currentSample 56000 12000) board (fun t => t.power.energy == 672 && t.power.energyPj == 0 && (die t 0).fLoop == 64) = true ∧
    after (.currentSample 56000 72000) board (fun t => (die t 0).fLoop == 64) = true ∧ after (.currentSample 56000 72001) board (fun t => (die t 7).fLoop == 16) = true := by
  decide +kernel
/-- A mean input power of `w` W; no cluster belongs to a partition, die 0 is at its least f, and matrix steps have been counted. -/
def drawing (w : Nat) : State := { board with
  power := { run56 with samples := [w * 1000000] }, image := { board.image with clusters := [] }, clusters := [(3, { activity := [(0, 5)] })],
  dies := put {} board.dies 0 { die board 0 with fLoop := 4 } }
theorem test_cap_loop : capInForce (drawing 0) = 3400 ∧ after .powerCapLoop (drawing 3401) (fun t => (die t 0).fLoop == 4 && (die t 1).fLoop == 63 &&
      (die t 1).fSince == 1 && (cluster t 3).activity == []) = true ∧
    after .powerCapLoop (drawing 3400) (fun t => t == clearActivity (drawing 3400)) = true ∧
    after .powerCapLoop (drawing 3230) (fun t => t == clearActivity (drawing 3230)) = true ∧
    after .powerCapLoop (drawing 3229) (fun t => (die t 0).fLoop == 5 && (die t 1).fLoop == 64) = true ∧
    (List.range 8).map (dieRank (drawing 0)) = List.replicate 8 4 ∧ capDies (drawing 0) = [1, 2, 3, 4, 5, 6, 7] := by decide +kernel
theorem test_droop : present board 1 = true ∧ after (.droopTrip 1 3) board (fun t => (die t 1).withholding && (die t 1).trippedNodes == 8 &&
      after (.droopTrip 1 4) t (fun u => (die u 1).trippedNodes == 24) && after (.droopEnd 1) t (fun u => !(die u 1).withholding && (die u 1).fLoop == 64) &&
      after (.droopLimit 1) t (fun u => !(die u 1).withholding && (die u 1).fLoop == 16)) = true ∧ stays (.droopTrip 8 0) board = true := by decide +kernel
theorem test_withhold_summary : stays (.withholdSummary 1) { board with parts := [(1, { wEnd := 1 })] } = true ∧
    after (.withholdSummary 1) { board with parts := [(1, { wEnd := 1, wCount := 2 })], portTime := 10000001 } (fun t => (part t 1).wCount == 0) = true := by decide +kernel
def agedAt (v : Nat) : State := { board with dies := [(0, { state := .inService, voff := v })] }
theorem test_ageing : after (.ageingMonitorRead 0 true) (agedAt 15) (fun t => (die t 0).voff == 20 && t.flash.waiting == [{ type := 2, key := [0], payload := [20] }]) = true ∧
    after (.ageingMonitorRead 0 true) (agedAt 20) (fun t => (die t 0).voff == 20 && t.power.age) = true ∧ stays (.ageingMonitorRead 0 false) (agedAt 20) = true ∧
    after (.controlComplexStepChange 4) board (fun t => t.power.ccStep == 4) = true := by decide +kernel
theorem test_sensors : after (.sensorSample 0 16 1000) board (fun t => look 250 (die t 0).temps 16 == 1000 && (die t 0).fTherm == 63) = true ∧
    after (.sensorSample 0 16 999) board (fun t => (die t 0).fTherm == 64) = true ∧ stays (.sensorSample 8 8 1200) board = true ∧
    after (.sensorSample 3 2 1150) (supply run56) (fun t => kept t && t.power.stage == .off && t.power.latch == some (3, 2) && t.power.tripPin && t.power.coldCause == 4) = true := by
  decide +kernel
def hotAt (v : Int) : State := { board with dies := [(0, { state := .inService, temps := [(0, v)] })] }
theorem test_hot : overHot (hotAt 1051) = true ∧ overHot (hotAt 1050) = false ∧ after .hotSensorTimeout (hotAt 1051) (fun t => t.power.hot && issueFraction t 0 == 16 &&
      issueFraction t 7 == 16) = true ∧ stays .hotSensorTimeout (hotAt 1050) = true ∧
    after (.latchSensorRead 900) (supply { stage := .cold, latch := some (1, 2), tripPin := true }) (fun t => t.power.latch == some (1, 2)) = true ∧
    after (.latchSensorRead 899) (supply { stage := .cold, latch := some (1, 2), tripPin := true }) (fun t => t.power.latch == none && !t.power.tripPin &&
      t.flash.waiting.map (fun r => (r.type, r.key)) == [(3, [1, 2])]) = true := by decide +kernel

/-! ### Lifecycle -/

/-- A module in cold start, all its links trained. -/
def coldBoard : State := { State.reset with
  variant := board.variant, power := { stage := .cold, inputMv := 56000, coldCause := 1 }, mem := [(5, 1)], links := (List.range 16).map fun i => (i, { full with octIns := 0xFFF }) }
theorem test_witness_cold_start : coldBoard.power.stage = .cold ∧ sensorsAllow coldBoard = true ∧ startBlocked coldBoard = false ∧
    startBlocked { coldBoard with links := [] } = true ∧ sensorsAllow { coldBoard with dies := [(0, { temps := [(0, -51)] })] } = false ∧
    sensorsAllow { coldBoard with dies := [(0, { temps := [(0, -50)] })] } = true := by decide +kernel
theorem test_cold_start : after .coldStart coldBoard (fun t => t.power.stage == .running && t.mem == [] && t.dev.st == 0 && t.sec.idReady && !(sliceOf t 0).enabled && (sliceOf t 0).invalidated &&
      (die t 0).state == .testing && t.dev.cold == 1) = true ∧ stays .coldStart { coldBoard with links := [] } = true ∧ stays .coldStart board = true := by decide +kernel
/-- The board with every read-only cache enabled. -/
def cached : State := { board with clusters := (List.range 128).map fun c => (c, { ls := 4, roEnabled := true }) }
def atSt (n : Nat) (l : Bool) : State := { cached with dev := { board.dev with st := n, ledger := l } }
theorem test_service : diesTested board = true ∧ cachesOn cached = true ∧ stays .reducedService { board with dev := {} } = true ∧ after .reducedService (atSt 0 false) (fun t => t.dev.st == 1) = true ∧
    after .fullService (atSt 1 true) (fun t => t.dev.st == 2 && !t.admission.passDue) = true ∧ stays .fullService (atSt 1 false) = true := by decide +kernel
def dieIn (u : Die) (d : Dev) : State := { board with dev := d, dies := (List.range 9).map fun k => (k, if k = 2 then u else { state := .inService, ledgerPassed := true }) }
def testingDie : Die := { state := .testing }
def reqTest : Dev := { st := 2, testBusy := true, testScope := 1, testDie := 2, testLeft := [4] }
theorem test_witness_self_tests : notTested (dieIn testingDie {}) 2 = false ∧ (TestUnit.die 2).ok = true ∧ (TestUnit.cluster 2 15).ok = true ∧
    (dieIn testingDie {}).dev.testBusy = false ∧ (dieIn testingDie {}).power.stage = .running := by decide +kernel
theorem test_start_tests : after (.logicSelfTestDone (.die 2) true) (dieIn testingDie {}) (fun t => (die t 2).state == .inService && (die t 2).logicPassed) = true ∧
    after (.logicSelfTestDone (.die 2) true) (dieIn { testingDie with retest := true } {}) (fun t => (die t 2).state == .testing) = true ∧
    after (.logicSelfTestDone (.die 2) false) (dieIn testingDie {}) (fun t => (die t 2).state == .heldOut && (die t 2).hold == 7) = true ∧
    after (.logicSelfTestDone (.cluster 2 15) false) (dieIn testingDie {}) (fun t => (die t 2).clFenced == 0x8000 && (die t 2).state == .testing) = true ∧
    after (.ledgerSelfTestDone (.die 2) false true) (dieIn { testingDie with logicPassed := true } {}) (fun t => (die t 2).state == .inService && t.dev.ledger) = true ∧
    after (.ledgerSelfTestDone (.die 2) true false) (dieIn testingDie {}) (fun t => (die t 2).hold == 8) = true ∧
    after (.logicSelfTestDone (.die 2) true) (dieIn testingDie reqTest) (fun t => !t.dev.testBusy && t.dev.testResult == 1 && t.admission.passDue) = true := by decide +kernel

/-! ### Detection, restart, keys, journal, quote -/

/-- A home of CD1 has awaited an answer of CD3 for `n` ticks of CD1. -/
def waited (n : Nat) : State := modDie (modSlice board 16 fun x => { x with txns := [{ line := hLine, req := .rdOnce 9, awaiting := 8 }] }) 1 fun u =>
  { u with time := BitVec.ofNat 64 n }
theorem test_detection : after (.oscillatorCheck 3 50001 false) board (fun t => t.restart.fatal && t.restart.fatalCause == 8 && (die t 3).holdNext == 5) = true ∧
    stays (.oscillatorCheck 3 (-50000) false) board = true ∧ after (.oscillatorCheck 3 0 true) board (fun t => !(die t 3).oscOk) = true ∧
    watchdogOut (waited 99999) 3 = false ∧ stays (.watchdogExpiry 3 true) (waited 99999) = true ∧
    after (.watchdogExpiry 3 true) (waited 100000) (fun t => t.restart.fatalCause == 7 && t.restart.fatalDies == 8 && (die t 3).holdNext == 6) = true ∧
    after .firmwareWatchdog board (fun t => t.restart.fatalCause == 9) = true ∧ dieServes board 3 = true := by decide +kernel
def small (s : State) : State := { s with slices := [], clusters := [] }
theorem test_domain_fatal : after (.domainFatal 7 8) (small (withGroup grp)) (fun t => t.restart.active && t.restart.attempt == 1 && t.restart.cause == 7 && t.restart.suspect == 8 &&
      t.restart.prevState == 2 && t.dev.gen == 1 && t.dev.st == 3 && t.groups == [] && (die t 3).state == .testing) = true ∧
    after (.domainFatal 7 8) { small board with restart := { active := true, attempt := 2 } } (fun t => t.power.stage == .cold && t.power.coldCause == 5 && t.mem == []) = true ∧
    after (.domainFatal 7 4) { small board with restart := { active := true, attempt := 1, suspect := 0x108, prevState := 1 } } (fun t => t.restart.active && t.restart.attempt == 2 &&
      t.restart.prevState == 1 && t.restart.suspect == 0x10C && t.dev.gen == 1 && t.dev.st == 3) = true ∧
    after (.domainFatal 7 0x100) { small board with restart := { active := true, attempt := 1, suspect := 0x100 } } (fun t => t.power.stage == .cold) = true ∧
    stays (.domainFatal 0 8) board = true ∧ stays (.domainFatal 10 8) board = true := by decide +kernel
def restarting : State := { cached with restart := { active := true, attempt := 1, prevState := 1 }, dev := { st := 3, gen := 4, stock := true } }
theorem test_resume_service : suspectsTested restarting = true ∧ stockReady restarting = true ∧ cachesOn restarting = true ∧
    stays (.restartResume []) (modChan restarting 128 fun c => { c with selfRefresh := true }) = true ∧ stays (.restartResume []) { restarting with clusters := [] } = true ∧ after (.restartResume []) restarting (fun t => !t.restart.active && t.dev.st == 1 && t.dev.gen == 4) = true ∧
    suspectsTested { restarting with dies := [(2, testingDie)] } = false ∧ stays (.restartResume []) { restarting with dies := [(2, testingDie)] } = true := by decide +kernel

theorem test_key_load : after (.keyLoad 7 true) board (fun t => t.out == [.ack (.key 7) 0] && (die t 7).keyed) = true ∧
    after (.keyLoad 7 false) board (fun t => t.out == [.ack (.key 7) 0xF] && !(die t 7).keyed) = true ∧
    stays (.keyLoad 2 true) (dieIn { state := .heldOut } {}) = true := by decide +kernel
def jr (n : Nat) : JRec := { type := 2, key := [n], payload := [5] }
theorem test_journal : after .journalProgram { board with flash := { waiting := [jr 1, jr 2] } } (fun t => t.flash.waiting == [jr 2] && t.flash.journal == [jr 1]) = true ∧
    stays .journalProgram { board with flash := { waiting := [jr 1], suspended := true } } = true ∧
    after .errorSnapshot { board with dev := { board.dev with errCe := 6, gen := 1 } } (fun t => t.flash.waiting == [{ type := 5, key := [], payload := [0, 6, 0, 0, 0, 1] }]) = true := by
  decide +kernel
theorem test_quote : after .quoteComplete { board with sec := { busy := true, count := 4 } } (fun t => t.sec.done && !t.sec.busy && t.sec.count == 5) = true := by decide +kernel

/-! ### Added limits -/

/-- The check value of CRC-32 over the bytes of "123456789". -/
theorem test_crc32 : crc32 [0x31, 0x32, 0x33, 0x34, 0x35, 0x36, 0x37, 0x38, 0x39] = 0xCBF43926 ∧
    (slotRecord { stA := .good, trials := 3 }).length = 64 ∧ (slotRecord { stA := .good, trials := 3 }).take 12 = [0x54, 0x4F, 0x4C, 0x53, 0, 0, 0, 0, 0, 3, 0, 3] := by
  decide +kernel
/-- A ring whose queue pair is not ready holds its events until RTU. -/
theorem test_ring_waits : after (.rtu 1024) (postEvent { rcState { peerQp with st := .repSent } [] with
      parts := [(1, { ringSet := true, ringQp := 1024, ringLogn := 4 })] } 1 (event 9 0 0 0 [])) (fun t =>
      (part t 1).evHeld == [] && (part t 1).evNumber == 2 && (qp t 1024).sendq.length == 2) = true := by decide +kernel
/-- With its port down nothing is on its way, and the retries still run out. -/
theorem test_timer_runs : after (.ackTimeout 0x400) { remoteState 1 { readyQp with sendq := [{ rdReq with sent := false }], retries := 7 } [] with ports := [] }
      (fun t => (qp t 0x400).st == .error) = true ∧ othersBelow (hotAt 901) 0 1 900 = false ∧ othersBelow (hotAt 901) 0 0 900 = true := by decide +kernel

/-! ### What the longer hypotheses ask for -/

/-- The load of the tests without the store beside it. -/
def loadOnly : State := { proxyState with accs := [proxyAcc] }

/-- A load alone at its line in the proxy's slice, and the proxy that serves it (R332). -/
theorem test_witness_load_alone : readOut proxyState (gidCluster proxyAcc.gid) 0x80000000 = false ∧ stalledLine proxyState 16 0x80000000 = false ∧
    WholePieces proxyAcc ∧ proxyLine.poison = 0 ∧ accessOf loadOnly 3 = some proxyAcc ∧ regAt (performLoad loadOnly 3) 0 8 = some 0x08070605 ∧ (sliceOf proxyState 16).lines = [proxyLine] := by
  unfold WholePieces; decide +kernel
theorem test_load_alone : LoadAlone loadOnly proxyAcc := by constructor <;> decide +kernel

/-- The homes of the tests as a request finds them, memory having been read (R204). -/
def found (f : List Filter) : State := atHome (homeWith f []) 16 hLine []
theorem test_home_idle : HomeIdle (found [owned2]) 16 hLine := by constructor <;> decide +kernel
theorem test_home_idle_alone : HomeIdle (found []) 16 hLine := by constructor <;> decide +kernel
theorem test_crusher_idle : HomeIdle (crState [] []) 16 hLine := by constructor <;> decide +kernel
theorem test_home_agrees : HomeAgrees (homeWith [] [{ proxyLine with line := hLine, st := .home, dirty := 1, data := 0x22, valid := 1 }]) 16 hLine := by
  constructor <;> decide +kernel
theorem test_quiet : Quiet proxyState 16 ∧ Quiet (crState [openHere .ledger 7] []) 16 := by constructor <;> constructor <;> decide +kernel

/-- Each request can be taken up at its home; one whose die is out of service is refused with 0x1F (R26, R27). -/
def outOfService : State := { homeWith [] [] with dies := put {} board.dies 1 { state := .heldOut } }
theorem test_witness_arrival : ([HomeReq.rdS 3, .rdE 3, .rdOnce 9, .upg 3, .wfwd 3 9 0 1 7, .update (addPkt twoRec)].all fun r =>
      arrivalCode (found []) hLine r == none) = true ∧ arrivalCode outOfService hLine (.rdS 3) = some 0x1F ∧
    after (.rdOnce 9 hLine []) outOfService (fun t => t.out == [.front "DATA_ONCE_STATUS" 9 0xF]) = true ∧
    needsTag (found [owned2]) 16 hLine (.rdS 3) = true ∧ (holdLine (found [owned2]) 16 hLine).isSome = true ∧
    needsTag (found [owned2]) 16 hLine (.rdE 3) = false := by decide +kernel

/-- FILL serves a core, a read cache, a die and an RD_ONCE that joined its entry, each as it asked (R236, R237). -/
def joined : Miss := { line := hLine, cores := 1, readCaches := 2, dies := 8, others := [9], sent := true }
theorem test_fill : after (.fill 16 hLine []) (modSlice (homeWith [] []) 16 fun x => { x with miss := [joined] }) (fun t => (sliceOf t 16).miss == [] && filterMask (sliceOf t 16) hLine == 8 &&
        [Out.fill "CLUSTER_FILL" 1 2 1 hLine 0x11 0xF 0 0, .fill "CLUSTER_FILL" 0 2 2 hLine 0x11 0xF 0 0, .fill "DATA_S" 2 8 1 hLine 0x11 1 0 3,
         .cohData "DATA_ONCE" 9 hLine 0x11 0xF 0 0].all t.out.contains) = true := by decide +kernel

/-- A collective over FP16, FP32 or INT32 within the device; its remote group's successor has rank 2 of 4, or 0. -/
def collState (b : List (Nat × Nat × Nat)) : State :=
  { single ([(64, 1, 2), (72, 8, 0x2000001000), (80, 8, 0x2000002000)] ++ b) collTask with
    mem := writeBytes [] 0x2000001000 (leBytes 4 0x40000000), image := { board.image with groups := [⟨3, 4, 2, 3, 0, 0, 0⟩, ⟨5, 4, 3, 0, 0, 0, 0⟩] } }
def collNode (b : List (Nat × Nat × Nat)) : List Byte := launchNode (collState b) { gLaunch with handle := 0x78 } 0
theorem test_witness_groups : [(69, 1, 2), (69, 1, 1), (69, 1, 0xA)].map (fun e => collForm (collNode [e])) = [.ledger, .pair, .rounded] ∧
    (remoteGroup (collState [(100, 4, 3)]) (collNode [(100, 4, 3)])).map (·.rank) = some 2 ∧ remoteGroup (collState []) (collNode []) = none ∧
    nScope (collNode [(71, 1, 1)]) = 1 := by decide +kernel
/-- 1.0 in FP16 is V = 2^320, limb 5; MAX of 1.0 and the member's own 2.0; the last rank stores (R446). -/
theorem test_coll_partials : after (.coll 20 0x40000040 (.part 3 0x3C00)) (collState [(69, 1, 2), (71, 1, 1), (100, 4, 3)]) (fun t =>
      t.out.getLast? == some (.staged 20 0 0x40000040 [.ledger 0 5 [1] false false false false false])) = true ∧
    ([(3, true), (5, false)].all fun g => after (.coll 20 0x40000040 (.part 0xF 0x3F800000)) (collState [(69, 1, 1), (70, 1, 2), (71, 1, 1), (100, 4, g.1)])
      (fun t => t.out.head? == some (.dma "COLL" 20 0x40000040 0xF 0x40000000) && (readPhysLE t 0x2000002000 4 == 0) == g.2)) = true ∧
    after (.coll 20 0x40000040 (.records [twoRec])) (collState [(69, 1, 2)]) (fun t => t.out.length == 1) = true := by decide +kernel

/-- Two ledger records of one element, 2 + 2; two integer additions; two with a return stay apart (R188). -/
theorem test_combine : (combinePackets (addPkt twoRec) { addPkt twoRec with tag := 4 }).map (fun c => (c.absorbed, c.recs)) =
      some ([4], [.ledger 0 5 [4] false false false false false]) ∧
    (combinePackets (intPkt 0 false 4 5) { intPkt 0 false 4 6 with tag := 4 }).map (fun c => (c.absorbed, c.recs)) = some ([4], [.rounded 0 4 11 0]) ∧
    mayCombine (intPkt 0 true 4 5) (intPkt 0 true 4 6) = false := by decide +kernel

/-- Cells written to the spill block come back (R273); element 0 is 1.0. -/
def spilling : OpenLine := { openHere .pair 7 with block := 0x3000000000 }
theorem test_spill_block : after (.lineBringBack 16 hLine) (spillLine (crState [spilling] []) 16 spilling) (fun t =>
      elem0 t == some 0x3F800000 && (openAt (crusher t 16) hLine).map (·.spilled) == some false) = true ∧
    imageElem (formCode .pair) (elemImage .pair (look {} spilling.elems 0)) = some (look {} spilling.elems 0) ∧ cellsUsed (crusher (crState [spilling] []) 16) ≤ 4096 := by decide +kernel

/-- The codes of memory at their limits: symbols of 16 bits in a face unit, bits and pins in a stockpile unit (R203). -/
theorem test_codes : [[17], [17, 31], [0, 16], [0, 16, 32]].map (fun w => verdict true { sector := 0, wrong := w, elsewhere := false }) = [.corrected, .corrected, .detected, .detected] ∧
    [[5], [5, 99], [5, 6, 7, 8], [5, 17, 29, 41, 53]].map (fun w => verdict false { sector := 0, wrong := w, elsewhere := false }) = [.corrected, .corrected, .detected, .detected] ∧
    chanOf 1 0x2000000040 = some (16, 64) := by decide +kernel

/-- A multicast of CD1's node 5 to CD1, CD2 and the IOD: one copy leaves its die; one enters CD2 at the port for node 2 (R186). -/
theorem test_multicast : (copiesFromDie 1 5 [1, 2, 8] 0x0C).filter (fun c => match c with | .hop .. => false | _ => true) =
    [.leave 1 (iodEdge 5), .enter 2 (iodEdge 2)] := by decide +kernel

/-- SNP_I of CD1 in the slice of node 3, to the slices of CD2 and CD4, line 0x1234: the words of R184 by their fields. -/
def snpHeader : Header :=
  { tag := 0xABCD, srcDie := 1, srcNode := 3, len := 0, vc := 3, cls := 1, dest := .multicast 0x14 8, agent := 2, op := 0x10, format := 0, sector := 0, line := 0x1234 }
theorem test_header_bits : encodeHeader snpHeader = (0x1000000000001234#128 <<< 64) ||| 0xABCD1331A0140008#128 := by decide +kernel

/-- The words of a compute die and of the IOD, with the least credits of R313 in units of 16 cells: 64, 512, 512, 128, 64, 64. -/
def cw3 : W64 := 64 ||| (512 <<< 10) ||| (512 <<< 20) ||| (128 <<< 30) ||| (64 <<< 40) ||| (64 <<< 50)
def dieWords0 : List W64 := [0x1113F, 0x1F0A7FFF, 0x000F00000FFF0C03, cw3]
def iodWords0 : List W64 := [0x11113F, 0x1F0A7FFF, 0x0FFF0C03, cw3]
theorem test_link_forms : creditsOk false dieWords0 = true ∧ creditsOk false [0, 0, 0, cw3 - 1] = false ∧
    (let t := presentWords { board with links := [(0, { st := 1, cwB := iodWords0 })] } 0 0 dieWords0
     ((link t 0).octIns, (link t 0).rate, (link t 0).st, look 0 (link t 0).fwd.credit 1) = (0xFFF, 2, 2, 8192)) ∧
    (let t := presentWords { board with links := [(0, { st := 1, cwB := iodWords0 })] } 0 0 [0x1113F, 0x1F0A7FFF, 0x000F00000FFF0C03, 0]
     ((link t 0).st, (link t 0).cause, (die t 0).hold) = (4, 1, 3)) := by decide +kernel

/-- A node without pins starts at once (R246). -/
theorem test_witness_pins : (let m := makeTask (running gLaunch) gLaunch 0; (settlePins m.1 m.2).2) = true := by decide +kernel
end Sys2Proof.Tests
end

/-! SUPPORT. What the accesses of cluster windows and of registers do at their target, and what a write of a register with an effect
leaves. It settles O43. -/

namespace Sys2Proof.Machine

/-! ### Cluster windows in the address map (R25) -/

theorem target_of_window_range {v pa : Nat} (h : winBase ≤ pa ∧ pa < regBase) : target v pa =
    if (pa - winBase) / winStride < clusterCount v ∧ (pa - winBase) % winStride < 0x600000
    then .window ((pa - winBase) / winStride) ((pa - winBase) % winStride) else .hole := by
  have stock_le_win : stockBase ≤ winBase ∧ stockBase + stockSize ≤ winBase := by decide
  unfold target
  rw [if_neg (by omega), if_neg (by omega), if_neg (by omega), if_pos h.2]
  simp

theorem window_range {v pa c off : Nat} (h : target v pa = .window c off) : winBase ≤ pa ∧ pa < regBase := by
  unfold target at h
  dsimp only at h
  split_ifs at h with _ _ _ hlo hhi
  exact ⟨Nat.le_of_not_lt hlo, hhi⟩

theorem target_eq_window_iff {v pa c off : Nat} : target v pa = .window c off ↔
    (winBase ≤ pa ∧ pa < regBase) ∧ ((pa - winBase) / winStride < clusterCount v ∧ (pa - winBase) % winStride < 0x600000) ∧
      (pa - winBase) / winStride = c ∧ (pa - winBase) % winStride = off := by
  by_cases hr : winBase ≤ pa ∧ pa < regBase
  · rw [target_of_window_range hr]
    split_ifs with hw <;> simp [hr, hw]
  · exact ⟨fun h => absurd (window_range h) hr, fun h => absurd h.1 hr⟩

/-- A window holds whole lines: the bytes of a line whose first byte lies in a window follow it there. -/
theorem target_window_add {v line c off i : Nat} (h : target v (128 * line) = .window c off) (hi : i < 128) :
    target v (128 * line + i) = .window c (off + i) := by
  rw [target_eq_window_iff] at h ⊢
  simp only [winBase, regBase, winStride] at h ⊢
  omega

theorem isWindowLine_iff {s : State} {line : Nat} :
    isWindowLine s line = true ↔ ∃ c off, target s.variant (128 * line) = .window c off := by
  unfold isWindowLine
  cases target s.variant (128 * line) <;> simp

theorem isRegister_iff {s : State} {pa : Nat} : isRegister s pa = true ↔ ∃ off, target s.variant pa = .register off := by
  unfold isRegister
  cases target s.variant pa <;> simp

/-! ### Runs of byte enables, bytes of a line -/

/-- Some run of the list holds place `j`. -/
def inRuns (l : List (Nat × Nat)) (j : Nat) : Bool := l.any fun r => decide (r.1 ≤ j) && decide (j < r.1 + r.2)

theorem inRuns_nil (j : Nat) : inRuns [] j = false := rfl

theorem inRuns_cons (r : Nat × Nat) (l : List (Nat × Nat)) (j : Nat) :
    inRuns (r :: l) j = true ↔ (r.1 ≤ j ∧ j < r.1 + r.2) ∨ inRuns l j = true := by simp [inRuns]

/-- The runs are those of the set bits: the `len` places before `i`, and those that `be` has from `i` on. -/
theorem inRuns_runsFrom {n i be len : Nat} (hl : len ≤ i) (j : Nat) :
    inRuns (runsFrom n i be len) j = true ↔ (i - len ≤ j ∧ j < i) ∨ (i ≤ j ∧ j < i + n ∧ be.testBit (j - i) = true) := by
  induction n generalizing i be len with
  | zero =>
    rw [runsFrom]
    split_ifs with h0
    · rw [inRuns_nil]; grind
    · rw [inRuns_cons, inRuns_nil]; grind
  | succ n ih =>
    have bits : (i ≤ j ∧ j < i + (n + 1) ∧ be.testBit (j - i) = true) ↔
        (j = i ∧ be % 2 = 1) ∨ (i + 1 ≤ j ∧ j < i + 1 + n ∧ (be / 2).testBit (j - (i + 1)) = true) := by
      rcases Nat.lt_trichotomy j i with h | rfl | h
      · omega
      · simp [Nat.testBit_zero]
      · rw [show j - i = j - (i + 1) + 1 by omega, Nat.testBit_succ]
        grind
    rw [bits, runsFrom]
    split_ifs with hb h0
    · rw [ih (by omega)]; grind
    · rw [ih (by omega)]; grind
    · rw [inRuns_cons, ih (by omega)]; grind

/-- A run of set bits is not empty and ends within the bits looked at. -/
theorem runsFrom_bounds {n i be len : Nat} (hl : len ≤ i) : ∀ r ∈ runsFrom n i be len, 0 < r.2 ∧ r.1 + r.2 ≤ i + n := by
  induction n generalizing i be len with
  | zero =>
    rw [runsFrom]
    split_ifs with h0
    · exact List.forall_mem_nil _
    · rw [List.forall_mem_singleton]; dsimp only; omega
  | succ n ih =>
    rw [runsFrom, show i + (n + 1) = i + 1 + n by omega]
    split_ifs with hb h0
    · exact ih (by omega)
    · exact ih (by omega)
    · rw [List.forall_mem_cons]
      exact ⟨by dsimp only; omega, ih (by omega)⟩

/-- The runs of a line's byte enables hold the enabled bytes. -/
theorem inRuns_runs_be (be : BitVec 128) (j : Nat) : inRuns (runs 128 be.toNat) j = true ↔ j < 128 ∧ be.getLsbD j = true := by
  rw [runs, inRuns_runsFrom (Nat.zero_le 0), BitVec.getLsbD]
  simp

theorem length_leBytes (n v : Nat) : (leBytes n v).length = n := by
  induction n generalizing v with
  | zero => rfl
  | succ n ih => rw [leBytes, List.length_cons, ih]

theorem getElem_leBytes {n v k : Nat} (h : k < (leBytes n v).length) : (leBytes n v)[k] = BitVec.ofNat 8 (v >>> (8 * k)) := by
  induction n generalizing v k with
  | zero => simp [leBytes] at h
  | succ n ih =>
    cases k with
    | zero => simp [leBytes]
    | succ k =>
      have shift : v / 256 = v >>> 8 := by simp [Nat.shiftRight_eq_div_pow]
      simp only [leBytes, List.getElem_cons_succ]
      rw [ih, shift, ← Nat.shiftRight_add, Nat.mul_succ, Nat.add_comm]

theorem length_lineBytes (d : Line) : (lineBytes d).length = 128 := length_leBytes _ _

theorem getElem_lineBytes {d : Line} {k : Nat} (h : k < (lineBytes d).length) : (lineBytes d)[k] = d.extractLsb' (8 * k) 8 :=
  getElem_leBytes h

/-! ### Writes of cluster memory (R162, R163) -/

theorem writePhys_variant (s : State) (pa : Nat) (bs : List Byte) (attr : Nat) : (writePhys s pa bs attr).variant = s.variant :=
  (kept_writePhys Kept.rfl).variant

theorem writePhys_window_mem {s : State} {pa c off : Nat} (h : target s.variant pa = .window c off) (bs : List Byte) (attr : Nat) :
    (writePhys s pa bs attr).mem = writeBytes s.mem pa bs := by
  unfold writePhys
  rw [h]

/-- The bytes of a line that one run of its byte enables holds, written to a window. -/
def writeRun (line : Nat) (d : Line) (s : State) (r : Nat × Nat) : State :=
  writePhys s (128 * line + r.1) (((lineBytes d).drop r.1).take r.2) 0

theorem writeLine_window {s : State} {line : Nat} (h : isWindowLine s line = true) (be : BitVec 128) (d : Line) (attr : Nat) :
    writeLine s line be d attr = (runs 128 be.toNat).foldl (writeRun line d) s := by
  obtain ⟨c, off, ht⟩ := isWindowLine_iff.1 h
  unfold writeLine
  rw [ht]
  rfl

theorem writeRun_keeps_window {s : State} {line : Nat} (h : isWindowLine s line = true) (d : Line) (r : Nat × Nat) :
    isWindowLine (writeRun line d s r) line = true := by
  unfold isWindowLine writeRun at *
  rwa [writePhys_variant]

/-- One run changes its own bytes to those of the line, and no other byte. -/
theorem readByte_writeRun {s : State} {line : Nat} (h : isWindowLine s line = true) (d : Line) {r : Nat × Nat}
    (hr : 0 < r.2 ∧ r.1 + r.2 ≤ 128) (a : Nat) : readByte (writeRun line d s r).mem a =
      if 128 * line ≤ a ∧ r.1 ≤ a - 128 * line ∧ a - 128 * line < r.1 + r.2 then d.extractLsb' (8 * (a - 128 * line)) 8
      else readByte s.mem a := by
  obtain ⟨c, off, ht⟩ := isWindowLine_iff.1 h
  have hlen : (((lineBytes d).drop r.1).take r.2).length = r.2 := by
    rw [List.length_take, List.length_drop, length_lineBytes]; omega
  rw [writeRun, writePhys_window_mem (target_window_add ht (by omega))]
  split_ifs with ha
  · obtain ⟨k, rfl⟩ : ∃ k, a = 128 * line + r.1 + k := ⟨a - 128 * line - r.1, by omega⟩
    rw [readByte_writeBytes_inside _ _ _ _ (by omega), List.getElem_take, List.getElem_drop, getElem_lineBytes,
      show 128 * line + r.1 + k - 128 * line = r.1 + k by omega]
  · exact readByte_writeBytes_outside _ _ _ _ (by omega)

/-- All runs of a list together. -/
theorem readByte_writeRuns {s : State} {line : Nat} (h : isWindowLine s line = true) (d : Line) {l : List (Nat × Nat)}
    (hl : ∀ r ∈ l, 0 < r.2 ∧ r.1 + r.2 ≤ 128) (a : Nat) :
    readByte (l.foldl (writeRun line d) s).mem a =
      if 128 * line ≤ a ∧ inRuns l (a - 128 * line) = true then d.extractLsb' (8 * (a - 128 * line)) 8 else readByte s.mem a := by
  induction l generalizing s with
  | nil => simp [inRuns_nil]
  | cons r l ih =>
    rw [List.forall_mem_cons] at hl
    rw [List.foldl_cons, ih (writeRun_keeps_window h d r) hl.2, readByte_writeRun h d hl.1]
    simp only [inRuns_cons]
    grind

/-- A write of a line of a window changes the bytes that its byte enables name, and no other byte of memory. -/
theorem readByte_writeLine_window {s : State} {line : Nat} (h : isWindowLine s line = true) (be : BitVec 128) (d : Line) (attr a : Nat) :
    readByte (writeLine s line be d attr).mem a =
      if 128 * line ≤ a ∧ a < 128 * line + 128 ∧ be.getLsbD (a - 128 * line) = true then d.extractLsb' (8 * (a - 128 * line)) 8
      else readByte s.mem a := by
  have bounds : ∀ r ∈ runs 128 be.toNat, 0 < r.2 ∧ r.1 + r.2 ≤ 128 := by
    simpa [runs] using runsFrom_bounds (n := 128) (be := be.toNat) (Nat.le_refl 0)
  rw [writeLine_window h, readByte_writeRuns h d bounds]
  exact if_congr (by rw [inRuns_runs_be]; grind) rfl rfl

/-! ### Accesses of a line at its target (R346, R347) -/

section
variable {s : State} {p line : Nat} (tag : Nat)

theorem readAt_refused (sectors : BitVec 4) {c : Nat} (h : lineCheck s p line false true = some c) :
    readAt s p tag line sectors = emit s (.front "DATA_ONCE_STATUS" tag (c - 0x10)) := by
  unfold readAt
  rw [h]
  rfl

theorem readAt_allowed (sectors : BitVec 4) (h : lineCheck s p line false true = none) {t : State} {v : Line} {q : W32}
    (hv : readLine s line 3 = (t, v, q)) : readAt s p tag line sectors = sendRaw t "DATA_ONCE" tag line v sectors q := by
  unfold readAt
  rw [h, hv]
  rfl

theorem writeAt_refused (be : BitVec 128) (d : Line) {c : Nat} (h : lineCheck s p line true (regBeOk be) = some c) :
    writeAt s p tag line be d = emit s (.ack (.access tag) (c - 0x10)) := by
  unfold writeAt
  rw [h]
  rfl

theorem writeAt_allowed (be : BitVec 128) (d : Line) (h : lineCheck s p line true (regBeOk be) = none) :
    writeAt s p tag line be d = emit (writeLine s line be d 0) (.ack (.access tag) 0) := by
  unfold writeAt
  rw [h]
  rfl

end

theorem readLine_window {s : State} {line : Nat} (h : isWindowLine s line = true) (attr : Nat) :
    readLine s line attr = (s, lineOf (readBytes s.mem (128 * line) 128), windowPoison s line) := by
  obtain ⟨c, off, ht⟩ := isWindowLine_iff.1 h
  unfold readLine
  rw [ht]

theorem readLine_register {s : State} {line : Nat} (h : isRegister s (128 * line) = true) (attr : Nat) :
    readLine s line attr = (s, regLine s line, 0) := by
  obtain ⟨off, ht⟩ := isRegister_iff.1 h
  unfold readLine
  rw [ht]

theorem writeLine_register {s : State} {line : Nat} (h : isRegister s (128 * line) = true) (be : BitVec 128) (d : Line) (attr : Nat) :
    writeLine s line be d attr = regWriteLine s line be d := by
  obtain ⟨off, ht⟩ := isRegister_iff.1 h
  unfold writeLine
  rw [ht]

/-! ### The commands of windows and registers -/

section
variable {s : State} {p line : Nat} (tag : Nat) (hp : partOk p = true)
include hp

theorem exec_rdWin (sectors : BitVec 4) (h : isWindowLine s line = true) :
    exec (.rdWin p tag line sectors) s = .next (readAt s p tag line sectors) :=
  (onUnit_next _ _ _).2 ⟨hp, if_pos h⟩

theorem exec_wrWin (be : BitVec 128) (d : Line) (h : isWindowLine s line = true) :
    exec (.wrWin p tag line be d) s = .next (writeAt s p tag line be d) :=
  (onUnit_next _ _ _).2 ⟨hp, if_pos h⟩

theorem exec_rdReg (sectors : BitVec 4) (h : isRegister s (128 * line) = true) :
    exec (.rdReg p tag line sectors) s = .next (readAt s p tag line sectors) :=
  (onUnit_next _ _ _).2 ⟨hp, if_pos h⟩

theorem exec_wrReg (be : BitVec 128) (d : Line) (h : isRegister s (128 * line) = true) :
    exec (.wrReg p tag line be d) s = .next (writeAt s p tag line be d) :=
  (onUnit_next _ _ _).2 ⟨hp, if_pos h⟩

end

/-! ### Writes of registers of a live module (R362, R394, R476, R511) -/

theorem alive_of_running {s : State} (h : s.power.stage = .running) : alive s = true := by
  unfold alive
  rw [h]
  rfl

section
variable {s : State} {p : Nat} (ha : alive s = true)
include ha

section
variable {q : Nat} (hu : (partOk p && slotOk q) = true) (hd : (partCfg s p).isDefined = true)
include hu hd

theorem exec_qdbCtlDiscard : exec (.qdbCtlDiscard p q) s = .next (ctlDiscard s p q) :=
  (onUnit_next _ _ _).2 ⟨hu, if_pos (by rw [ha, hd]; rfl)⟩

theorem exec_qdbCtlResync : exec (.qdbCtlResync p q) s = .next (ctlResync s p q) :=
  (onUnit_next _ _ _).2 ⟨hu, if_pos (by rw [ha, hd]; rfl)⟩

end

theorem exec_qdbEvtailWrite (hp : partOk p = true) (hd : (partCfg s p).isDefined = true) (v : W64) :
    exec (.qdbEvtailWrite p v) s = .next (writeEvTail s p (v.setWidth 32)) :=
  (onUnit_next _ _ _).2 ⟨hp, if_pos (by rw [ha, hd]; rfl)⟩

theorem exec_pwrCapWrite (v : W64) : exec (.pwrCapWrite v) s = .next (writeCap s v) :=
  (onUnit_next _ _ _).2 ⟨rfl, if_pos ha⟩

theorem exec_secQuoteCtlGo : exec .secQuoteCtlGo s = .next (quoteGo s) :=
  (onUnit_next _ _ _).2 ⟨rfl, if_pos ha⟩

theorem exec_registerWrite {off : Nat} (hp : partOk p = true)
    (hc : accessCheck s p (regBase + off) true (regShape (regBase + off) 8) = none) (v : W64) :
    exec (.registerWrite p off v) s = .next (regWrite s off v) :=
  (onUnit_next _ _ _).2 ⟨hp, if_neg (by simp [ha, hc])⟩

end

section
variable {s : State} {p q : Nat} (hd : (queue s p q).declared = true) (hb : (queue s p q).bound = true)
include hd hb

theorem ctlDiscard_bound : ctlDiscard s p q = setQueue s p q
    { queue s p q with head := (queue s p q).tail, stopped := false, errSeq := 0, errIndex := 0, errCause := 0 } := by
  unfold ctlDiscard modQueue
  exact congrArg (setQueue s p q) (if_pos (by rw [hd, hb]; rfl))

/-- RESYNC of a queue whose records have all been fetched expects none. -/
theorem ctlResync_drained (h : (queue s p q).head = (queue s p q).tail) : ctlResync s p q = setQueue s p q
    { queue s p q with expect := none, stopped := false, errSeq := 0, errIndex := 0, errCause := 0 } := by
  unfold ctlResync
  simp [hd, hb, h, modQueue]

/-- RESYNC of a queue with records left expects the sequence number of the one at HEAD. -/
theorem ctlResync_pending {w : List W64} (h : (queue s p q).head ≠ (queue s p q).tail)
    (hw : readRecord s p (recordAddr (queue s p q) (queue s p q).head) = some w) : ctlResync s p q = setQueue s p q
      { queue s p q with expect := some (BitVec.ofNat 32 ((w.getD 0 0).toNat >>> 32)),
                         stopped := false, errSeq := 0, errIndex := 0, errCause := 0 } := by
  unfold ctlResync
  simp [hd, hb, h, hw, modQueue]

end

theorem releaseEvents_of_none_held {s : State} {p : Nat} (h : (part s p).evHeld = []) (k : Nat) : releaseEvents p k s = s := by
  cases k with
  | zero => rfl
  | succ k => rw [releaseEvents, h]

theorem writeEvTail_of_none_held {s : State} {p : Nat} (h : (part s p).evHeld = []) (v : W32) :
    writeEvTail s p v = setPart s p { part s p with evTail := v } := by
  have held : (part (modPart s p fun r => { r with evTail := v }) p).evHeld = [] := by
    rw [modPart, part_setPart, if_pos rfl, h]
  unfold writeEvTail
  dsimp only
  rw [releaseEvents_of_none_held held, ite_self]
  rfl

theorem quoteGo_idle {s : State} (hb : s.sec.busy = false) (hr : s.restart.active = false) : quoteGo s = { s with
    sec := { s.sec with busy := true, done := false, taken := (List.range 8).map fun i => look 0 s.sec.nonce i } } := by
  unfold quoteGo
  rw [hb, hr]
  rfl

/-- The SEC_NONCE registers of the security page (R34, R514). -/
theorem pageAt_nonce {i : Nat} (h : i < 8) : pageAt (0x140000 + 8 * i) = some (.security, 8 * i) := by
  unfold pageAt
  rw [show (0x140000 + 8 * i) / 0x10000 = 0x14 by omega, show (0x140000 + 8 * i) % 0x10000 = 8 * i by omega]
  rfl

theorem regWrite_nonce {i : Nat} (h : i < 8) (s : State) (v : W64) :
    regWrite s (0x140000 + 8 * i) v = { s with sec := { s.sec with nonce := put 0 s.sec.nonce i v } } := by
  unfold regWrite
  rw [pageAt_nonce h]
  dsimp only
  rw [if_pos (by omega), Nat.mul_div_cancel_left i (by decide)]

theorem regShape_nonce (i : Nat) : regShape (regBase + (0x140000 + 8 * i)) 8 = true := by
  have aligned : (regBase + (0x140000 + 8 * i)) % 8 = 0 := by simp only [regBase]; omega
  unfold regShape
  rw [aligned]
  rfl

/-! ### The obligation -/

/-- Settles O43: each access is its target's read or write, and each register write its register's effect. -/
theorem windowsAndRegisters : Obligations.WindowsAndRegisters := by
  unfold Obligations.WindowsAndRegisters
  refine ⟨fun s p tag line sectors be data hp => ⟨fun hw => ?_, fun hr => ?_⟩, ?_⟩
  · rw [exec_rdWin tag hp sectors hw, exec_wrWin tag hp be data hw]
    exact ⟨fun c hc => congrArg _ (readAt_refused tag sectors hc), fun hc => congrArg _ (readAt_allowed tag sectors hc (readLine_window hw 3)),
      fun c hc => congrArg _ (writeAt_refused tag be data hc), fun hc => congrArg _ (writeAt_allowed tag be data hc),
      readByte_writeLine_window hw be data 0⟩
  · rw [exec_rdReg tag hp sectors hr, exec_wrReg tag hp be data hr, ← writeLine_register hr be data 0]
    exact ⟨fun c hc => congrArg _ (readAt_refused tag sectors hc), fun hc => congrArg _ (readAt_allowed tag sectors hc (readLine_register hr 3)),
      fun c hc => congrArg _ (writeAt_refused tag be data hc), fun hc => congrArg _ (writeAt_allowed tag be data hc)⟩
  · rintro s p q v hu hrun hdef x rfl hdec hbnd
    have ha : alive s = true := alive_of_running hrun
    have hp : partOk p = true := (Bool.and_eq_true_iff.1 hu).1
    rw [exec_qdbCtlDiscard ha hu hdef, exec_qdbCtlResync ha hu hdef, exec_qdbEvtailWrite ha hp hdef, exec_pwrCapWrite ha, exec_secQuoteCtlGo ha]
    refine ⟨congrArg _ (ctlDiscard_bound hdec hbnd), fun h => congrArg _ (ctlResync_drained hdec hbnd h),
      fun w h hw => congrArg _ (ctlResync_pending hdec hbnd h hw), fun h => congrArg _ (writeEvTail_of_none_held h _), rfl,
      fun hb hr => congrArg _ (quoteGo_idle hb hr), fun i hi hc => ?_⟩
    rw [exec_registerWrite ha rfl (by rwa [regShape_nonce, ← Nat.add_assoc]), regWrite_nonce hi]

end Sys2Proof.Machine

/-! SUPPORT. A ledger whose V is zero at rounding. It settles O14. -/

namespace Sys2Proof.Machine
open Sys2Proof.Num

/-! ### The exact zero (R70 to R72) -/

/-- The exact zero of a sign. -/
def zeroX (neg : Bool) : Exact := ⟨neg, 0, 0, false⟩

theorem splitAt_zeroX (neg : Bool) (q : Int) : ∃ k, splitAt (zeroX neg) q = (0, 0, k) := by
  unfold splitAt zeroX
  dsimp only
  split_ifs
  · exact ⟨0, by simp⟩
  · exact ⟨(-(0 - q)).toNat, by simp⟩

theorem truncCode_zeroX (f : FloatSpec) (neg : Bool) : ∃ k, truncCode f (zeroX neg) = (0, 0, 0, k) := by
  obtain ⟨k, hk⟩ := splitAt_zeroX neg (1 - f.bias - f.mbits)
  refine ⟨k, ?_⟩
  unfold truncCode
  simp [show (zeroX neg).man = 0 from rfl, hk]

/-- No mode steps away from an exact zero. -/
theorem roundsUp_zero (rm : Nat) (neg : Bool) (u k : Nat) : roundsUp rm neg false u 0 0 k = false := by
  unfold roundsUp
  split <;> simp

theorem roundFin_zeroX (f : FloatSpec) (rm : Nat) (sat : Bool) (u : Nat) (neg : Bool) :
    roundFin f rm sat u (zeroX neg) = signBit f neg := by
  obtain ⟨k, hk⟩ := truncCode_zeroX f neg
  have exact : (zeroX neg).sticky = false := rfl
  have sign : (zeroX neg).neg = neg := rfl
  unfold roundFin
  simp [hk, exact, sign, roundsUp_zero]

theorem roundInt_zeroX (bits rm u : Nat) (neg : Bool) : roundInt bits rm u (.fin (zeroX neg)) = 0 := by
  obtain ⟨k, hk⟩ := splitAt_zeroX neg 0
  have exact : (zeroX neg).sticky = false := rfl
  have pos : (0 : Int) < (2 ^ (bits - 1) : Nat) := Int.natCast_pos.2 (Nat.two_pow_pos _)
  unfold roundInt
  simp only [hk, exact, roundsUp_zero, Bool.false_eq_true, if_false, Int.natCast_zero, Int.neg_zero, ite_self]
  rw [if_neg (by omega), if_neg (by omega)]

theorem outCode_zeroX_float {fo : BitVec 4} {f : FloatSpec} (h : kindOf fo = .float f) (r : Rnd) (neg : Bool) :
    outCode fo r (.fin (zeroX neg)) = signBit f neg := by
  unfold outCode
  rw [h]
  exact roundFin_zeroX f r.rm r.sat r.u neg

theorem outCode_zeroX_int {fo : BitVec 4} {b : Nat} (h : kindOf fo = .int b) (r : Rnd) (neg : Bool) :
    outCode fo r (.fin (zeroX neg)) = 0 := by
  unfold outCode
  rw [h]
  simp only [roundInt_zeroX]
  simp [unsigned]

/-! ### The ledger -/

/-- R78: V at zero is the zero whose sign the flag or the mode gives. -/
theorem ledgerX_of_zero {l : Ledger} (h : l.v = 0) (rm : Nat) : ledgerX l rm = .fin (zeroX (l.negz || rm == 3)) := by
  have zero : l.v.toInt = 0 := by rw [h]; exact BitVec.toInt_zero
  unfold ledgerX
  exact if_pos zero

theorem roundLedger_of_zero {l : Ledger} (hf : flagX l = none) (hv : l.v = 0) (fo : BitVec 4) (r : Rnd) :
    roundLedger fo r l = outCode fo r (.fin (zeroX (l.negz || r.rm == 3))) := by
  unfold roundLedger
  rw [hf, ledgerX_of_zero hv]

/-- The output formats of a ledger are floats and INT32. -/
theorem kindOf_ledgerOut {fo : BitVec 4} (h : fo.toNat ∈ [1, 2, 3, 0xA]) : (∃ f, kindOf fo = .float f) ∨ kindOf fo = .int 32 := by
  simp only [List.mem_cons, List.not_mem_nil, or_false] at h
  unfold kindOf
  rcases h with h | h | h | h <;> rw [h] <;> simp

/-- Settles O14: a zero is rounded exactly, so the result has the sign that the ledger reads as. -/
theorem zeroSignOfRounding : Obligations.ZeroSignOfRounding := by
  unfold Obligations.ZeroSignOfRounding
  intro fo r l hfo hf hv
  rw [roundLedger_of_zero hf hv]
  rcases kindOf_ledgerOut hfo with ⟨f, hk⟩ | hk
  · rw [outCode_zeroX_float hk, hk]
    simp [signBit]
  · rw [outCode_zeroX_int hk, hk]

end Sys2Proof.Machine

/-! SUPPORT. What an MMA leaves: the products of every element in the order of R101, and the counts of its steps. It settles O12. -/

namespace Sys2Proof.Machine
open Sys2Proof.Num

/-! ### Tables that are rewritten place by place -/

/-- Every key below `n` is rewritten once, from what it held at the start. -/
theorem look_foldl_put {α : Type} [DecidableEq α] (d : α) (f : Nat → α → α) (m : SMap α) (n j : Nat) :
    look d ((List.range n).foldl (fun m k => put d m k (f k (look d m k))) m) j = if j < n then f j (look d m j) else look d m j := by
  induction n with
  | zero => rfl
  | succ n ih =>
    rw [List.range_succ, List.foldl_append, List.foldl_cons, List.foldl_nil, look_put]
    by_cases hj : j = n
    · subst hj
      rw [if_pos rfl, ih, if_neg (Nat.lt_irrefl j), if_pos (Nat.lt_succ_self j)]
    · rw [if_neg hj, ih]
      exact if_congr (by omega) rfl rfl

/-! ### Steps and products of an MMA (R95, R101 to R104) -/

theorem stepK_pos (f : BitVec 4) : 0 < stepK f := by
  revert f; decide

/-- FP64 operands have one index k for each step and half of the columns. -/
theorem stepK_wider_fp64 {m : MmaWord} (h : m.fa = 0) : stepK (wider m) = 1 := by
  have all : ∀ f : BitVec 4, stepK (if elemBits 0#4 < elemBits f then f else 0#4) = 1 := by decide
  unfold wider
  rw [h]
  exact all m.fb

/-- Every product of the instruction belongs to one of its steps. -/
theorem stepOf_lt_mmaSteps {m : MmaWord} {k j : Nat} (hk : k < m.ksteps * stepK (wider m)) (hj : j < 16) :
    stepOf m k j < mmaSteps m := by
  unfold stepOf mmaSteps
  split_ifs with hf
  · rw [stepK_wider_fp64 hf] at hk
    omega
  · exact Nat.div_lt_of_lt_mul (by rwa [Nat.mul_comm])

/-- An element after the steps from `t0` to the last: its products, k ascending, added to what it held. -/
theorem look_mmaRange_last (g : Group) (m : MmaWord) (a : Acc) (t0 : Nat) {i j : Nat} (hi : i < 16) (hj : j < 16) :
    look {} (mmaRange g m a t0 (mmaSteps m)).elems (16 * i + j) =
      ((List.range (m.ksteps * stepK (wider m))).filter fun k => decide (t0 ≤ stepOf m k j)).foldl
        (fun e k => elemProduct a.form e (tileElem g m.fa m.ta m.sa i (k + (offsets m).1))
          (tileElem g m.fb m.tb m.sb j (k + (offsets m).2))) (look {} a.elems (16 * i + j)) := by
  have all_steps : ((List.range (m.ksteps * stepK (wider m))).filter fun k =>
        decide (t0 ≤ stepOf m k j) && decide (stepOf m k j < mmaSteps m)) =
      (List.range (m.ksteps * stepK (wider m))).filter fun k => decide (t0 ≤ stepOf m k j) :=
    List.filter_congr fun k hk => by simp [stepOf_lt_mmaSteps (List.mem_range.1 hk) hj]
  have row : (16 * i + j) / 16 = i := by omega
  have column : (16 * i + j) % 16 = j := by omega
  unfold mmaRange
  dsimp only
  rw [look_foldl_put {} (fun n e => ((List.range (m.ksteps * stepK (wider m))).filter fun k =>
      decide (t0 ≤ stepOf m k (n % 16)) && decide (stepOf m k (n % 16) < mmaSteps m)).foldl
        (fun e k => elemProduct a.form e (tileElem g m.fa m.ta m.sa (n / 16) (k + (offsets m).1))
          (tileElem g m.fb m.tb m.sb (n % 16) (k + (offsets m).2))) e), if_pos (by omega), row, column, all_steps]

/-! ### The counts of matrix steps (R456, R457) -/

theorem gidCluster_gidOf {g : GRef} (h : g.ok = true) : gidCluster (gidOf g) = g.cl := by
  simp only [GRef.ok, clusterOk, coreOk, groupSlotOk, Bool.and_eq_true, decide_eq_true_eq] at h
  unfold gidCluster gidOf groupId
  omega

theorem modMeter_eq_modCluster (s : State) (gid : Nat) (f : Meter → Meter) : modMeter s gid f = modCluster s (gidCluster gid)
    fun x => { x with meters := put {} x.meters (gidCore gid) (f (look {} x.meters (gidCore gid))) } := rfl

theorem cluster_modCluster (s : State) (c e : Nat) (f : Cluster → Cluster) :
    cluster (modCluster s c f) e = if e = c then f (cluster s c) else cluster s e := cluster_setCluster s c e _

theorem cluster_matrixIssue_same (s : State) (gid fa fb n : Nat) :
    cluster (matrixIssue s gid fa fb n) (gidCluster gid) = { cluster s (gidCluster gid) with
      meters := (cluster (matrixIssue s gid fa fb n) (gidCluster gid)).meters
      activity := put 0 (cluster s (gidCluster gid)).activity (16 * fa + fb)
        (look 0 (cluster s (gidCluster gid)).activity (16 * fa + fb) + n) } := by
  unfold matrixIssue
  simp only [modMeter_eq_modCluster, cluster_modCluster, if_true]

theorem cluster_matrixIssue_ne (s : State) {gid : Nat} (fa fb n : Nat) {c : Nat} (h : c ≠ gidCluster gid) :
    cluster (matrixIssue s gid fa fb n) c = cluster s c := by
  unfold matrixIssue
  simp only [modMeter_eq_modCluster, cluster_modCluster, if_neg h]

/-! ### The obligation -/

/-- A ready MMA that breaks no rule and fails no check for the third time. -/
theorem exec_mma_next {g : GRef} {w : W64} {s : State} {x : Group} {p : Path} (h : MayIssue s g x p) (hc : g.fails < 3)
    (hf : firstFault (mmaFaults s x w) = none) (hb : BlocksFree s g (mmaSources (mmaWord w))) :
    let m := mmaWord w
    let a := mmaResult s x m (startStep x w) (mmaSteps m)
    exec (.mma g w) s = .next (fetched s (gidOf g) x p (markForm (retire
      (matrixIssue (if g.fails = 0 then s else countRetry s) (gidOf g) m.fa.toNat m.fb.toNat (mmaSteps m - startStep x w)) (gidOf g)
      { setAcc x m.at' a with mmaStep := none }) x.task a.form)) := by
  refine (onUnit_next _ _ _).2 ⟨h.unit, ?_⟩
  rw [issue_acts h (blocksFree_iff.2 hb) hf]
  exact congrArg _ (if_neg (by omega))

theorem mmaResult_eq (s : State) (x : Group) (m : MmaWord) (t0 t1 : Nat) :
    mmaResult s x m t0 t1 = mmaRange x m (if m.init = true ∧ t0 = 0 then freshAcc s m else accOf x m.at') t0 t1 := by
  unfold mmaResult
  simp only [Bool.and_eq_true, decide_eq_true_eq]

/-- Settles O12: the steps from the first still to do to the last take every product once, in the order of k. -/
theorem mmaAccumulates : Obligations.MmaAccumulates := by
  unfold Obligations.MmaAccumulates
  intro g w s x p h hc hf hb
  have unit := gidCluster_gidOf h.unit
  refine ⟨_, exec_mma_next h hc hf hb, fun u n => ⟨rfl, fun c hne => cluster_matrixIssue_ne u _ _ n (unit ▸ hne), ?_⟩, ?_⟩
  · rw [← unit]
    exact cluster_matrixIssue_same u _ _ _ n
  · rw [mmaResult_eq]
    exact ⟨rfl, rfl, rfl, fun i j hi hj => look_mmaRange_last x _ _ _ hi hj⟩

end Sys2Proof.Machine

/-! SUPPORT. What a CVT writes: the elements of a lane, or a block and its scale code. It settles O9. -/

namespace Sys2Proof.Machine
open Sys2Proof.Num

/-! ### Values in the low bits of registers -/

/-- Bits `a` to `a + b - 1` of a number lie in its low `n` bits. -/
theorem shiftRight_mod_of_low {w a b n : Nat} (h : a + b ≤ n) : ((w % 2 ^ n) >>> a) % 2 ^ b = (w >>> a) % 2 ^ b := by
  refine Nat.eq_of_testBit_eq fun i => ?_
  simp only [Nat.testBit_mod_two_pow, Nat.testBit_shiftRight]
  by_cases hi : i < b
  · simp [hi, show a + i < n by omega]
  · simp [hi]

theorem lowBits_mod (s : State) (w v : Nat) : (lowBits s w v).1 % 2 ^ w = v % 2 ^ w := by
  unfold lowBits
  split_ifs
  · rfl
  · exact Nat.add_mul_mod_self_right _ _ _

theorem lowBits_free (s : State) (w v : Nat) : ∃ k, (lowBits s w v).2 = { s with free := k } := by
  unfold lowBits
  split_ifs
  · exact ⟨s.free, rfl⟩
  · exact ⟨s.free + 1, rfl⟩

theorem elemBits_le_vecRegs (f : BitVec 4) : elemBits f ≤ 32 * vecRegs f := by
  revert f; decide

theorem elemBits_le_of_isMx {f : BitVec 4} (h : isMx f = true) : elemBits f ≤ 32 := by
  revert f; decide

/-- Values put into the low bits of one register of every lane of a mask. -/
theorem perLane_lowBits (s : State) (x : Group) (m : W32) {r w : Nat} (f : Nat → Nat) (hr : r < 256) (hw : w ≤ 32) :
    (∃ k, (perLane s x m r 1 fun s l => lowBits s w (f l)).1 = { s with free := k }) ∧
      VecDone x (perLane s x m r 1 fun s l => lowBits s w (f l)).2 m r 1 ∧
      ∀ l, l < 32 → m.getLsbD l = true →
        readBlock (perLane s x m r 1 fun s l => lowBits s w (f l)).2 l r 1 % 2 ^ w = f l % 2 ^ w := by
  obtain ⟨hfree, hdone, hval⟩ := perLane_spec s x m (fun s l => lowBits s w (f l)) (n := 1) hr (fun l u => u % 2 ^ w = f l % 2 ^ w)
    (fun t l => lowBits_mod t w (f l)) (fun t l => lowBits_free t w (f l))
  refine ⟨hfree, hdone, fun l hl hm => ?_⟩
  obtain ⟨u, hu, hb⟩ := hval l hl hm
  rw [hb, Nat.mod_mod_of_dvd u (pow_dvd_pow 2 (by omega)), hu]

theorem vecDone_readBlock {x y : Group} {m : W32} {rd n : Nat} (h : VecDone x y m rd n) {l r : Nat} (hl : l < 32) (hr : r < 256)
    (hne : ¬(rd ≤ r ∧ r < rd + n)) : readBlock y l r 1 = readBlock x l r 1 :=
  readBlock_congr fun k h1 h2 => h.2 l k hl (by omega) fun hin => hne (by omega)

/-! ### Elements of a lane (R89, R90) -/

/-- The code of element `h` of a lane: its source converted with one rounding at its own position. -/
def cvtCode (v : VArgs) (x : Group) (l h : Nat) : Nat :=
  convert v.fmt v.dst (vecRnd x v (if isPackedCvt v then 2 * l + h else l)) (laneElem x v.fmt v.ra l h) (cvtScale x v l)

theorem cvtLane_free (v : VArgs) (x : Group) (s : State) (l : Nat) : ∃ k, (cvtLane v x s l).2 = { s with free := k } := by
  unfold cvtLane
  dsimp only
  split_ifs
  · exact ⟨s.free, rfl⟩
  · exact ⟨s.free, rfl⟩
  · exact lowBits_free s _ _

theorem elemBits_of_isPackedCvt {v : VArgs} (h : isPackedCvt v = true) : elemBits v.dst = 16 :=
  (elemBits_packed (Bool.and_eq_true_iff.1 h).2).1

/-- The elements that a lane's value holds. -/
theorem cvtLane_elem (v : VArgs) (x : Group) (s : State) (l : Nat) {h : Nat} (hh : h < if isPackedCvt v then 2 else 1) :
    ((cvtLane v x s l).1 >>> (elemBits v.dst * h)) % 2 ^ elemBits v.dst = cvtCode v x l h % 2 ^ elemBits v.dst := by
  by_cases hp : isPackedCvt v = true
  · have value : (cvtLane v x s l).1 = cvtCode v x l 0 % 2 ^ 16 + 2 ^ 16 * cvtCode v x l 1 := by
      simp [cvtLane, cvtCode, cvtElem, hp]
    rw [value, elemBits_of_isPackedCvt hp, Nat.shiftRight_eq_div_pow]
    rw [if_pos hp] at hh
    obtain rfl | rfl : h = 0 ∨ h = 1 := by omega
    all_goals omega
  · rw [if_neg hp] at hh
    obtain rfl : h = 0 := by omega
    have value : (cvtLane v x s l).1 % 2 ^ elemBits v.dst = cvtCode v x l 0 % 2 ^ elemBits v.dst := by
      unfold cvtLane cvtCode
      dsimp only
      rw [if_neg hp, if_neg hp]
      split_ifs
      · rfl
      · exact lowBits_mod s _ _
    exact value

/-- The elements of a lane lie in its destination block. -/
theorem cvt_elem_in_block {v : VArgs} {h : Nat} (hh : h < if isPackedCvt v then 2 else 1) :
    elemBits v.dst * h + elemBits v.dst ≤ 32 * cvtRegs v := by
  by_cases hp : isPackedCvt v = true
  · rw [if_pos hp] at hh
    have : 1 ≤ cvtRegs v := Nat.le_max_left _ _
    rw [elemBits_of_isPackedCvt hp]
    omega
  · rw [if_neg hp] at hh
    obtain rfl : h = 0 := by omega
    rw [Nat.mul_zero, Nat.zero_add]
    exact elemBits_le_vecRegs v.dst

/-! ### Blocks (R66, R91, R118) -/

/-- Scale code and element of a lane of a block: those of the source where it has the same format, else those of the quantised block. -/
def cvtMxCode (v : VArgs) (x : Group) (l : Nat) : Nat × Nat :=
  if v.fmt = v.dst then mxSame v x l else ((cvtBlock v x).1, (cvtBlock v x).2.getD l 0)

/-- Elements, then scale codes, of the lanes of a mask. -/
def cvtMxWrite (v : VArgs) (m : W32) (s : State) (x : Group) : State × Group :=
  let q := perLane s x m (cvtBase v) 1 fun s l => lowBits s (elemBits v.dst) (cvtMxCode v x l).2
  perLane q.1 q.2 m v.scale.toNat 1 fun s l => lowBits s 8 (cvtMxCode v x l).1

theorem cvtRegs_of_isMx {v : VArgs} (h : isMx v.dst = true) : cvtRegs v = 1 := by
  have all : ∀ f : BitVec 4, isMx f = true → vecRegs f = 1 := by decide
  exact all v.dst h

theorem cvtBase_of_isMx {v : VArgs} (h : isMx v.dst = true) : cvtBase v = v.rd.toNat := by
  rw [cvtBase, cvtRegs_of_isMx h, Nat.div_one, Nat.mul_one]

/-- What a block leaves: every lane's element, unless the scale code takes its register, and every lane's scale code. -/
theorem cvtMxWrite_spec {v : VArgs} (hmx : isMx v.dst = true) (m : W32) (s : State) (x : Group) :
    (∃ k, (cvtMxWrite v m s x).1 = { s with free := k }) ∧
      (cvtMxWrite v m s x).2 = { x with regs := (cvtMxWrite v m s x).2.regs } ∧
      (∀ l r, l < 32 → r < 256 → (m.getLsbD l = true → ¬(cvtBase v ≤ r ∧ r < cvtBase v + cvtRegs v) ∧ r ≠ v.scale.toNat) →
        readReg (cvtMxWrite v m s x).2 l r = readReg x l r) ∧
      ∀ l, l < 32 → m.getLsbD l = true →
        (v.scale ≠ v.rd → readBlock (cvtMxWrite v m s x).2 l (cvtBase v) 1 % 2 ^ elemBits v.dst =
          (cvtMxCode v x l).2 % 2 ^ elemBits v.dst) ∧
        readBlock (cvtMxWrite v m s x).2 l v.scale.toNat 1 % 2 ^ 8 = (cvtMxCode v x l).1 % 2 ^ 8 := by
  have hrd := v.rd.isLt
  have hsc := v.scale.isLt
  unfold cvtMxWrite
  rw [cvtRegs_of_isMx hmx, cvtBase_of_isMx hmx]
  dsimp only
  obtain ⟨⟨k1, free1⟩, done1, val1⟩ := perLane_lowBits s x m (fun l => (cvtMxCode v x l).2) hrd (elemBits_le_of_isMx hmx)
  generalize (perLane s x m v.rd.toNat 1 fun s l => lowBits s (elemBits v.dst) (cvtMxCode v x l).2) = q1 at *
  obtain ⟨⟨k2, free2⟩, done2, val2⟩ := perLane_lowBits q1.1 q1.2 m (fun l => (cvtMxCode v x l).1) hsc (show 8 ≤ 32 by omega)
  generalize (perLane q1.1 q1.2 m v.scale.toNat 1 fun s l => lowBits s 8 (cvtMxCode v x l).1) = q2 at *
  refine ⟨⟨k2, by rw [free2, free1]⟩, by rw [done2.1, done1.1], fun l r hl hr hout => ?_,
    fun l hl hm => ⟨fun hne => ?_, val2 l hl hm⟩⟩
  · rw [done2.2 l r hl hr fun hin => (hout hin.1).2 (by omega), done1.2 l r hl hr fun hin => (hout hin.1).1 hin.2]
  · have apart : v.rd.toNat ≠ v.scale.toNat := fun he => hne (BitVec.eq_of_toNat_eq he.symm)
    rw [vecDone_readBlock done2 hl hrd (by omega), val1 l hl hm]

/-! ### The instruction -/

/-- The writes of a CVT. -/
def cvtWrite (v : VArgs) (m : W32) (s : State) (x : Group) : State × Group :=
  if isMx v.dst then cvtMxWrite v m s x else perLane s x m (cvtBase v) (cvtRegs v) (cvtLane v x)

/-- The blocked conversion and the identity of a format write in the same way, each its own codes. -/
theorem execCvt_eq (g : GRef) (v : VArgs) (s : State) : execCvt g v s = onUnit g.ok (vecIssue s g v true false (cvtMayRound v)
    [v.fmt, v.dst] ((vecBase v.fmt v.ra, vecRegs v.fmt) :: if isMx v.fmt then [(v.scale.toNat, 1)] else [])
    ((cvtBase v, cvtRegs v) :: if isMx v.dst then [(v.scale.toNat, 1)] else []) fun s x p => cvtWrite v p.mask s x) := by
  by_cases hmx : isMx v.dst = true
  · by_cases he : v.fmt = v.dst
    · simp only [execCvt, cvtMayRound, cvtWrite, cvtMxWrite, cvtMxCode, hmx, he, bne_self_eq_false, Bool.and_false, Bool.false_eq_true,
        if_true, if_false]
      rfl
    · simp only [execCvt, cvtMayRound, cvtWrite, cvtMxWrite, cvtMxCode, hmx, he, bne_iff_ne, Bool.true_and, ne_eq, not_false_eq_true,
        if_true, if_false]
      rfl
  · simp only [execCvt, cvtMayRound, cvtWrite, hmx, Bool.false_and, Bool.false_eq_true, if_false]
    rfl

/-- A CVT that is ready and breaks no rule writes its results. -/
theorem exec_cvt_next {g : GRef} {v : VArgs} {s : State} {x : Group} {p : Path} (h : MayIssue s g x p)
    (hs : ∀ f ∈ [v.fmt, v.dst], f ≠ 0xF#4 ∧ inSet16 s f = true)
    (hrm : cvtMayRound v = true → v.rm.toNat < 5 ∧ (v.rm = 4 → RegsFree s g x [(v.rblk.toNat, 6)]))
    (hregs : RegsFree s g x [(vecBase v.fmt v.ra, vecRegs v.fmt), (cvtBase v, cvtRegs v)])
    (hscale : isMx v.fmt = true ∨ isMx v.dst = true → RegsFree s g x [(v.scale.toNat, 1)]) :
    exec (.cvt g v) s = .next (fetched s (gidOf g) x p
      (retire (cvtWrite v p.mask s x).1 (gidOf g) (cvtWrite v p.mask s x).2)) := by
  have free : RegsFree s g x (((vecBase v.fmt v.ra, vecRegs v.fmt) :: if isMx v.fmt then [(v.scale.toNat, 1)] else []) ++
      ((cvtBase v, cvtRegs v) :: if isMx v.dst then [(v.scale.toNat, 1)] else [])) := by
    have scale {f : BitVec 4} (hf : isMx f = true → isMx v.fmt = true ∨ isMx v.dst = true) :
        RegsFree s g x (if isMx f then [(v.scale.toNat, 1)] else []) := by
      split_ifs with hm
      · exact hscale (hf hm)
      · exact List.forall_mem_nil _
    obtain ⟨src, dst⟩ := List.forall_mem_cons.1 hregs
    exact List.forall_mem_append.2 ⟨List.forall_mem_cons.2 ⟨src, scale .inl⟩,
      List.forall_mem_cons.2 ⟨dst _ (List.mem_singleton_self _), scale .inr⟩⟩
  refine (execCvt_eq g v s).trans ((onUnit_next _ _ _).2 ⟨h.unit, ?_⟩)
  exact vecIssue_next h (.inl rfl) hs free hrm fun hc => absurd hc Bool.false_ne_true

/-- Settles O9: every lane's block holds its converted elements, or every lane its element of the block and the scale code. -/
theorem vectorConvert : Obligations.VectorConvert := by
  unfold Obligations.VectorConvert
  intro g v s x p h hf hd hsf hsd hrm hregs hscale
  have next := exec_cvt_next h (List.forall_mem_cons.2 ⟨⟨hf, hsf⟩, List.forall_mem_singleton.2 ⟨hd, hsd⟩⟩) hrm hregs hscale
  by_cases hmx : isMx v.dst = true
  · obtain ⟨⟨k, free⟩, only_regs, frame, values⟩ := cvtMxWrite_spec hmx p.mask s x
    rw [cvtWrite, if_pos hmx] at next
    refine ⟨(cvtMxWrite v p.mask s x).2, k, ?_, only_regs, fun l r hl hr hout => ?_, fun l hl hm => ⟨?_, ?_⟩⟩
    · rw [next, free]
      rfl
    · exact frame l r hl hr fun hm => ⟨(hout hm).1, fun he => (hout hm).2 ⟨hmx, he⟩⟩
    · intro hn
      rw [hmx] at hn
      cases hn
    · intro _ sc el hcode
      have code : cvtMxCode v x l = (sc, el) := hcode.symm
      simpa only [code] using values l hl hm
  · obtain ⟨⟨k, free⟩, done, values⟩ := perLane_spec s x p.mask (cvtLane v x) (r := cvtBase v) (n := cvtRegs v)
      (vecBase_le v.dst v.rd) (fun l w => ∀ h, h < (if isPackedCvt v then 2 else 1) →
        (w >>> (elemBits v.dst * h)) % 2 ^ elemBits v.dst = cvtCode v x l h % 2 ^ elemBits v.dst)
      (fun t l h hh => cvtLane_elem v x t l hh) (fun t l => cvtLane_free v x t l)
    rw [cvtWrite, if_neg hmx] at next
    refine ⟨(perLane s x p.mask (cvtBase v) (cvtRegs v) (cvtLane v x)).2, k, ?_, done.1, fun l r hl hr hout => ?_,
      fun l hl hm => ⟨fun _ h hh => ?_, fun hm' => absurd hm' hmx⟩⟩
    · rw [next, free]
      rfl
    · exact done.2 l r hl hr fun hin => (hout hin.1).1 hin.2
    · obtain ⟨w, hw, hb⟩ := values l hl hm
      rw [hb, shiftRight_mod_of_low (cvt_elem_in_block hh)]
      exact hw h hh

end Sys2Proof.Machine

/-! SUPPORT. Images of accumulators and headers of messages read back as what they were made from. It settles O15. -/

namespace Sys2Proof.Machine
open Sys2Proof.Num

/-! ### Bytes of numbers and parts of byte lists -/

theorem leNat_leBytes (n v : Nat) : leNat (leBytes n v) = v % 2 ^ (8 * n) := by
  induction n generalizing v with
  | zero => simp [leBytes, leNat, Nat.mod_one]
  | succ n ih =>
    have low : (BitVec.ofNat 8 v).toNat = v % 2 ^ 8 := BitVec.toNat_ofNat v 8
    rw [leBytes, leNat, ih, low, Nat.mul_succ, Nat.add_comm (8 * n) 8, pow_add, Nat.mod_mul]
    rfl

theorem leNat_leBytes_of_lt {n v : Nat} (h : v < 2 ^ (8 * n)) : leNat (leBytes n v) = v := by
  rw [leNat_leBytes, Nat.mod_eq_of_lt h]

theorem leNat_leBytes_toNat {n : Nat} (v : BitVec (8 * n)) : leNat (leBytes n v.toNat) = v.toNat := leNat_leBytes_of_lt v.isLt

theorem leNat_slice_nil (n : Nat) : leNat (slice [] 0 n) = 0 := by
  have zeros (m : Nat) : leNat (List.replicate m 0) = 0 := by
    induction m with
    | zero => rfl
    | succ m ih => rw [List.replicate_succ, leNat, ih]; rfl
  simpa [slice] using zeros n

theorem length_slice (l : List Byte) (o n : Nat) : (slice l o n).length = n := by
  simp only [slice, List.length_append, List.length_replicate, List.length_take]
  omega

/-- A part of a list is read as it stands. -/
theorem slice_append {a b c : List Byte} {o n : Nat} (ho : a.length = o) (hn : b.length = n) : slice (a ++ (b ++ c)) o n = b := by
  subst ho hn
  simp [slice]

theorem fieldAt_middle {a b c : List Byte} {o n : Nat} (ho : a.length = o) (hn : b.length = n) :
    fieldAt (a ++ (b ++ c)) o n = leNat b := by
  rw [fieldAt, slice_append ho hn]

theorem fieldAt_front {b c : List Byte} {n : Nat} (hn : b.length = n) : fieldAt (b ++ c) 0 n = leNat b :=
  fieldAt_middle (a := []) rfl hn

theorem fieldAt_back {a b : List Byte} {o n : Nat} (ho : a.length = o) (hn : b.length = n) : fieldAt (a ++ b) o n = leNat b := by
  rw [← List.append_nil b, fieldAt_middle ho hn, List.append_nil]

theorem fieldAt_behind_byte {a b c : List Byte} {x : Byte} {o n : Nat} (ho : a.length + 1 = o) (hn : b.length = n) :
    fieldAt (a ++ x :: (b ++ c)) o n = leNat b := by
  rw [show a ++ x :: (b ++ c) = a ++ [x] ++ (b ++ c) by simp]
  exact fieldAt_middle (by simpa using ho) hn

theorem byteAt_behind {a c : List Byte} {x : Byte} {o : Nat} (ho : a.length = o) : byteAt (a ++ x :: c) o = x.toNat := by
  subst ho
  simp [byteAt]

theorem length_flatMap_range {f : Nat → List Byte} {n : Nat} (hf : ∀ k, (f k).length = n) (m : Nat) :
    ((List.range m).flatMap f).length = m * n := by
  simp [List.length_flatMap, hf]

/-- Part `k` of a run of parts of one length, behind a head. -/
theorem slice_flatMap {f : Nat → List Byte} {a : List Byte} {o n m k : Nat} (ho : a.length = o) (hf : ∀ k, (f k).length = n) (hk : k < m) :
    slice (a ++ (List.range m).flatMap f) (o + n * k) n = f k := by
  obtain ⟨r, rfl⟩ : ∃ r, m = k + (r + 1) := ⟨m - k - 1, by omega⟩
  rw [List.range_add, List.flatMap_append, List.range_succ_eq_map, List.map_cons, List.flatMap_cons, Nat.add_zero, ← List.append_assoc]
  exact slice_append (by rw [List.length_append, ho, length_flatMap_range hf, Nat.mul_comm]) (hf k)

/-! ### Images of elements (R111) -/

/-- The flags of a ledger come back from their byte. -/
theorem flagsOf_flagByte (l : Ledger) (v : BitVec 640) : flagsOf (flagByte l).toNat v = { l with v } := by
  obtain ⟨w, nan, pinf, ninf, negz⟩ := l
  cases nan <;> cases pinf <;> cases ninf <;> cases negz <;> simp [flagsOf, flagByte]

theorem flagByte_lt (l : Ledger) : (flagByte l).toNat < 16 := by
  unfold flagByte
  cases l.nan <;> cases l.pinf <;> cases l.ninf <;> cases l.negz <;> decide

theorem length_elemImage (f : AccForm) (e : Elem) : (elemImage f e).length = elemSize (formCode f) := by
  cases f <;> simp [elemImage, elemSize, formCode, length_leBytes, length_slice]

/-- What an element of an accumulator may hold: nothing, the ledger, the pair, or the pair with flags (R99). -/
def elemFits (f : AccForm) (e : Elem) : Prop :=
  match f with
  | .empty => e = {}
  | .ledger => e.hi = 0 ∧ e.lo = 0
  | .pair => e.led = {} ∧ e.hi < 2 ^ 64 ∧ e.lo < 2 ^ 64
  | .reduced => e.led.v = 0 ∧ e.hi < 2 ^ 64 ∧ e.lo < 2 ^ 64

/-- Reserved bytes are written as zero and read as zero. -/
theorem fieldAt_reserved {a : List Byte} {x : Byte} {o n : Nat} (ho : a.length + 1 = o) : fieldAt (a ++ x :: slice [] 0 n) o n = 0 := by
  rw [← List.append_nil (slice [] 0 n), fieldAt_behind_byte ho (length_slice _ _ _), leNat_slice_nil]

theorem imageElem_ledger {e : Elem} (h : elemFits .ledger e) : imageElem 1 (elemImage .ledger e) = some e := by
  obtain ⟨led, hi, lo⟩ := e
  obtain ⟨rfl, rfl⟩ := h
  have flags : byteAt (elemImage .ledger ⟨led, 0, 0⟩) 80 = (flagByte led).toNat := byteAt_behind (length_leBytes _ _)
  have reserved : fieldAt (elemImage .ledger ⟨led, 0, 0⟩) 81 15 = 0 := fieldAt_reserved (by rw [length_leBytes])
  have value : fieldAt (elemImage .ledger ⟨led, 0, 0⟩) 0 80 = led.v.toNat :=
    (fieldAt_front (length_leBytes _ _)).trans (leNat_leBytes_toNat (n := 80) led.v)
  have legal : ¬(16 ≤ (flagByte led).toNat) := Nat.not_le.2 (flagByte_lt led)
  unfold imageElem
  simp [flags, reserved, value, legal, flagsOf_flagByte]

theorem imageElem_pair {e : Elem} (h : elemFits .pair e) : imageElem 2 (elemImage .pair e) = some e := by
  obtain ⟨led, hi, lo⟩ := e
  obtain ⟨hled, hhi, hlo⟩ := h
  have high : fieldAt (elemImage .pair ⟨led, hi, lo⟩) 0 8 = hi := (fieldAt_front (length_leBytes _ _)).trans (leNat_leBytes_of_lt hhi)
  have low : fieldAt (elemImage .pair ⟨led, hi, lo⟩) 8 8 = lo :=
    (fieldAt_back (length_leBytes 8 hi) (length_leBytes 8 lo)).trans (leNat_leBytes_of_lt hlo)
  unfold imageElem
  simp only [high, low, Option.some.injEq, Elem.mk.injEq, and_true]
  exact hled.symm

theorem imageElem_reduced {e : Elem} (h : elemFits .reduced e) : imageElem 3 (elemImage .reduced e) = some e := by
  obtain ⟨led, hi, lo⟩ := e
  obtain ⟨hv, hhi, hlo⟩ := h
  have flags : byteAt (elemImage .reduced ⟨led, hi, lo⟩) 16 = (flagByte led).toNat := byteAt_behind (by simp [length_leBytes])
  have reserved : fieldAt (elemImage .reduced ⟨led, hi, lo⟩) 17 15 = 0 := fieldAt_reserved (by simp [length_leBytes])
  have high : fieldAt (elemImage .reduced ⟨led, hi, lo⟩) 0 8 = hi :=
    (congrArg (fieldAt · 0 8) (List.append_assoc _ _ _)).trans
      ((fieldAt_front (length_leBytes _ _)).trans (leNat_leBytes_of_lt hhi))
  have low : fieldAt (elemImage .reduced ⟨led, hi, lo⟩) 8 8 = lo :=
    (congrArg (fieldAt · 8 8) (List.append_assoc _ _ _)).trans
      ((fieldAt_middle (length_leBytes _ _) (length_leBytes _ _)).trans (leNat_leBytes_of_lt hlo))
  have legal : ¬(16 ≤ (flagByte led).toNat) := Nat.not_le.2 (flagByte_lt led)
  unfold imageElem
  simp [flags, reserved, high, low, legal, flagsOf_flagByte, ← hv]

/-- An element comes back from its image. -/
theorem imageElem_elemImage {f : AccForm} {e : Elem} (hf : f ≠ .empty) (h : elemFits f e) :
    imageElem (formCode f) (elemImage f e) = some e := by
  cases f with
  | empty => exact absurd rfl hf
  | ledger => exact imageElem_ledger h
  | pair => exact imageElem_pair h
  | reduced => exact imageElem_reduced h

/-! ### Images of accumulators (R111) -/

/-- The 64 bytes in front of the elements. -/
def accHead (a : Acc) : List Byte :=
  BitVec.ofNat 8 (formCode a.form) :: BitVec.ofNat 8 ((if a.intOnly then 1 else 0) + (if a.int32Made then 2 else 0)) :: slice [] 0 62

/-- Elements that an image holds. -/
def imageElems (f : AccForm) : Nat := if f = .empty then 0 else 256

theorem accImage_eq (a : Acc) :
    accImage a = accHead a ++ (List.range (imageElems a.form)).flatMap fun k => elemImage a.form (look {} a.elems k) := rfl

theorem length_accHead (a : Acc) : (accHead a).length = 64 := by simp [accHead, length_slice]

theorem length_accImage (a : Acc) : (accImage a).length = imageSize (formCode a.form) := by
  have count : imageElems a.form * elemSize (formCode a.form) = 256 * elemSize (formCode a.form) := by
    cases a.form <;> rfl
  rw [accImage_eq, List.length_append, length_accHead, length_flatMap_range fun k => length_elemImage _ _, count, imageSize]

theorem byteAt_accImage_form (a : Acc) : byteAt (accImage a) 0 = formCode a.form := by
  have code : byteAt (accImage a) 0 = (BitVec.ofNat 8 (formCode a.form)).toNat := rfl
  rw [code]
  cases a.form <;> rfl

theorem byteAt_accImage_flags (a : Acc) : byteAt (accImage a) 1 = (if a.intOnly then 1 else 0) + (if a.int32Made then 2 else 0) := by
  have flags : byteAt (accImage a) 1 = (BitVec.ofNat 8 ((if a.intOnly then 1 else 0) + (if a.int32Made then 2 else 0))).toNat := rfl
  rw [flags]
  cases a.intOnly <;> cases a.int32Made <;> rfl

theorem fieldAt_accImage_reserved (a : Acc) : fieldAt (accImage a) 2 62 = 0 :=
  (fieldAt_behind_byte (a := [_]) rfl (length_slice _ _ _)).trans (leNat_slice_nil _)

/-- Part `k` of the image holds element `k`. -/
theorem imageElem_accImage {a : Acc} (h : ∀ k, k < 256 → elemFits a.form (look {} a.elems k)) {k : Nat} (hk : k < imageElems a.form) :
    imageElem (formCode a.form) (slice (accImage a) (64 + elemSize (formCode a.form) * k) (elemSize (formCode a.form))) =
      some (look {} a.elems k) := by
  by_cases he : a.form = .empty
  · rw [imageElems, if_pos he] at hk
    exact absurd hk (Nat.not_lt_zero k)
  · rw [accImage_eq, slice_flatMap (length_accHead a) (fun k => length_elemImage _ _) hk]
    rw [imageElems, if_neg he] at hk
    exact imageElem_elemImage he (h k hk)

/-- A fold that goes on as long as each place has its element lists the elements. -/
theorem foldl_some_put {F : Option (SMap Elem) → Nat → Option (SMap Elem)} {e : Nat → Elem} {n : Nat}
    (hF : ∀ k, k < n → ∀ m, F (some m) k = some (put {} m k (e k))) (m : SMap Elem) :
    (List.range n).foldl F (some m) = some ((List.range n).foldl (fun m k => put {} m k (e k)) m) := by
  induction n with
  | zero => rfl
  | succ n ih =>
    rw [List.range_succ, List.foldl_append, List.foldl_append, ih fun k hk => hF k (Nat.lt_succ_of_lt hk)]
    exact hF n (Nat.lt_succ_self n) _

/-- An accumulator comes back from its image with its form and flags, and the elements that the image holds. -/
theorem accFromImage_accImage {a : Acc} (h : ∀ k, k < 256 → elemFits a.form (look {} a.elems k)) :
    accFromImage (accImage a) = some
      { a with elems := (List.range (imageElems a.form)).foldl (fun m k => put {} m k (look {} a.elems k)) [] } := by
  have form := byteAt_accImage_form a
  have flags := byteAt_accImage_flags a
  have legal : (decide (4 ≤ byteAt (accImage a) 0) || decide (4 ≤ byteAt (accImage a) 1) ||
      decide (fieldAt (accImage a) 2 62 ≠ 0)) = false := by
    rw [form, flags, fieldAt_accImage_reserved]
    cases a.form <;> cases a.intOnly <;> cases a.int32Made <;> rfl
  have count : (if elemSize (formCode a.form) = 0 then 0 else 256) = imageElems a.form := by
    cases a.form <;> rfl
  have only : decide (byteAt (accImage a) 1 % 2 = 1) = a.intOnly := by
    rw [flags]
    cases a.intOnly <;> cases a.int32Made <;> rfl
  have made : decide (byteAt (accImage a) 1 / 2 % 2 = 1) = a.int32Made := by
    rw [flags]
    cases a.intOnly <;> cases a.int32Made <;> rfl
  unfold accFromImage
  dsimp only
  rw [legal, form, count, foldl_some_put (e := fun k => look {} a.elems k)]
  · rw [only, made]
    generalize a.form = f
    cases f <;> rfl
  · intro k hk m
    rw [imageElem_accImage h hk]
  

/-- The elements that were read are those that were written: an image without elements is that of an empty accumulator. -/
theorem look_imageElems {a : Acc} (h : ∀ k, k < 256 → elemFits a.form (look {} a.elems k)) {k : Nat} (hk : k < 256) :
    look {} ((List.range (imageElems a.form)).foldl (fun m k => put {} m k (look {} a.elems k)) []) k = look {} a.elems k := by
  rw [look_foldl_put {} (fun k _ => look {} a.elems k)]
  by_cases he : a.form = .empty
  · have blank : look {} a.elems k = {} := by simpa [he, elemFits] using h k hk
    rw [imageElems, if_pos he, if_neg (Nat.not_lt_zero k), blank, look_nil]
  · rw [imageElems, if_neg he, if_pos hk]

/-! ### Headers of messages (R184, R292) -/

/-- The destination's bits: MC in bit 31, and its own bits below the agent's. -/
theorem destBits_eq (d : Dest) : ∃ low, low < 2 ^ 28 ∧ destBits d = 2 ^ 31 * (isMulticast d).toNat + low := by
  cases d with
  | unicast d n => exact ⟨d.toNat * 2 ^ 24 + n.toNat * 2 ^ 20, by omega, by simp [destBits, isMulticast]⟩
  | multicast ds ns => exact ⟨ds.toNat * 2 ^ 16 + ns.toNat, by omega, by simp [destBits, isMulticast, Nat.add_assoc]⟩

theorem headerWord0_lt (h : Header) : headerWord0 h < 2 ^ 64 := by
  obtain ⟨low, hlow, hd⟩ := destBits_eq h.dest
  have := Bool.toNat_le (isMulticast h.dest)
  rw [headerWord0, hd]
  omega

theorem headerWord1_lt (h : Header) : headerWord1 h < 2 ^ 64 := by
  rw [headerWord1]
  omega

theorem toNat_encodeHeader (h : Header) : (encodeHeader h).toNat = headerWord0 h + 2 ^ 64 * headerWord1 h := by
  have := headerWord0_lt h
  have := headerWord1_lt h
  rw [encodeHeader, BitVec.toNat_ofNat, Nat.mod_eq_of_lt (by omega)]

theorem hbits_eq {w : BitVec 128} {lo n : Nat} {v : BitVec n} (h : w.toNat / 2 ^ lo % 2 ^ n = v.toNat) : hbits w lo n = v := by
  apply BitVec.eq_of_toNat_eq
  rw [hbits, BitVec.extractLsb'_toNat, Nat.shiftRight_eq_div_pow, h]

/-- MC is set in the header of a multicast only. -/
theorem getLsbD_encodeHeader_mc (h : Header) : (encodeHeader h).getLsbD 31 = isMulticast h.dest := by
  obtain ⟨low, hlow, hd⟩ := destBits_eq h.dest
  have := Bool.toNat_le (isMulticast h.dest)
  have bit : (encodeHeader h).toNat / 2 ^ 31 % 2 = (isMulticast h.dest).toNat := by
    rw [toNat_encodeHeader, headerWord0, hd]
    omega
  rw [BitVec.getLsbD, Nat.testBit_eq_decide_div_mod_eq, bit]
  cases isMulticast h.dest <;> rfl

theorem decodeDest_encodeHeader (h : Header) : decodeDest (encodeHeader h) = h.dest := by
  have bits := toNat_encodeHeader h
  have mc := getLsbD_encodeHeader_mc h
  unfold decodeDest
  rw [mc]
  rw [headerWord0] at bits
  cases hd : h.dest with
  | unicast d n =>
    rw [hd, destBits] at bits
    exact congrArg₂ Dest.unicast (hbits_eq (by omega)) (hbits_eq (by omega))
  | multicast ds ns =>
    rw [hd, destBits] at bits
    exact congrArg₂ Dest.multicast (hbits_eq (by omega)) (hbits_eq (by omega))

/-- Every field of a header comes back. -/
theorem decodeHeader_encodeHeader (h : Header) : decodeHeader (encodeHeader h) = h := by
  obtain ⟨low, hlow, hd⟩ := destBits_eq h.dest
  have mc := Bool.toNat_le (isMulticast h.dest)
  have bits := toNat_encodeHeader h
  have dest := decodeDest_encodeHeader h
  rw [headerWord0, headerWord1, hd] at bits
  obtain ⟨tag, srcDie, srcNode, len, vc, cls, dst, agent, op, format, sector, line⟩ := h
  dsimp only at bits hd mc dest
  simp only [decodeHeader, Header.mk.injEq]
  exact ⟨hbits_eq (by omega), hbits_eq (by omega), hbits_eq (by omega), hbits_eq (by omega), hbits_eq (by omega), hbits_eq (by omega),
    dest, hbits_eq (by omega), hbits_eq (by omega), hbits_eq (by omega), hbits_eq (by omega), hbits_eq (by omega)⟩

/-- The channels that carry messages: bulk VC0 to VC3, control VC0 and VC1 (R177). -/
theorem classChannel_vc_lt {c : Nat} {ch : Channel} (h : classChannel c = some ch) : ch.vc < if ch.control then 2 else 4 := by
  unfold classChannel at h
  split at h <;> cases h <;> decide

/-- Those channels are numbered apart. -/
theorem channel_eq_of_index {a b : Channel} (ha : a.vc < if a.control then 2 else 4) (hb : b.vc < if b.control then 2 else 4)
    (h : a.index = b.index) : a = b := by
  obtain ⟨ca, va⟩ := a
  obtain ⟨cb, vb⟩ := b
  cases ca <;> cases cb <;> simp [Channel.index] at ha hb h ⊢ <;> omega

/-! ### The obligation -/

/-- Settles O15: each element's image, and each field of a header, has its own place and is read back from it. -/
theorem accumulatorImageRoundTrip : Obligations.AccumulatorImageRoundTrip := by
  unfold Obligations.AccumulatorImageRoundTrip
  refine ⟨fun a h => ?_, decodeHeader_encodeHeader, fun c ch hc c' ch' hc' he => ?_⟩
  · have fits : ∀ k, k < 256 → elemFits a.form (look {} a.elems k) := h
    exact ⟨length_accImage a, _, accFromImage_accImage fits, rfl, rfl, rfl, fun k hk => look_imageElems fits hk⟩
  · exact channel_eq_of_index (classChannel_vc_lt hc) (classChannel_vc_lt hc') he

end Sys2Proof.Machine

/-! SUPPORT. Which value MIN, MAX, compare and shift choose for an element. It settles O8. -/

namespace Sys2Proof.Machine
open Sys2Proof.Num

/-! ### Formats of the select instructions (R117) -/

theorem mem_floatsInts {f : BitVec 4} (h : f.toNat ∈ floatsInts) :
    floatsInts.contains f.toNat = true ∧ f ≠ 0xF#4 ∧ elemBits f ≤ 32 * vecRegs f := by
  revert f; decide

theorem vecRegs_pos (f : BitVec 4) : 1 ≤ vecRegs f := Nat.le_max_left _ _

/-- INT32 and packed INT16 take one register. -/
theorem shiftFormat {f : BitVec 4} (h : f.toNat ∈ [0xA, 0xB]) :
    [0xA, 0xB].contains f.toNat = true ∧ f ≠ 0xF#4 ∧ vecRegs f = 1 ∧ elemBits f ≤ 32 := by
  revert f; decide

theorem laneElem_lt (g : Group) (f : BitVec 4) (r : BitVec 8) (l h : Nat) : laneElem g f r l h < 2 ^ elemBits f :=
  Nat.mod_lt _ (Nat.two_pow_pos _)

/-- Elements of the destination: a packed format has 16-bit elements, and any other element lies in its block. -/
theorem elemBits_fits {f : BitVec 4} {n : Nat} (h : elemBits f ≤ 32 * n) :
    if isPacked f then elemBits f = 16 else elemBits f ≤ 32 * n := by
  split_ifs with hp
  · exact (elemBits_packed hp).1
  · exact h

/-! ### MIN and MAX (R62, R118; log 25) -/

theorem freeCode_free (s : State) (spec : FloatSpec) (w : Nat) : ∃ k, (freeCode s spec w).2 = { s with free := k } := ⟨s.free + 1, rfl⟩

/-- A free code that reads as a NaN is the canonical one. -/
theorem freeCode_nan {s : State} {spec : FloatSpec} {w : Nat} (h : decodeFloat spec (freeCode s spec w).1 = .nan) :
    (freeCode s spec w).1 = spec.canonicalNan := by
  unfold freeCode at h ⊢
  dsimp only at h ⊢
  split at h
  · rfl
  · next hne => exact absurd h (hne ·)

theorem canonicalNan_lt {f : BitVec 4} {spec : FloatSpec} (h : kindOf f = .float spec) : spec.canonicalNan < 2 ^ elemBits f := by
  have all : ∀ f : BitVec 4, (match kindOf f with
    | .float spec => decide (spec.canonicalNan < 2 ^ elemBits f)
    | _ => true) = true := by decide
  simpa [h] using all f

theorem freeCode_lt {f : BitVec 4} {spec : FloatSpec} (h : kindOf f = .float spec) (s : State) :
    (freeCode s spec (elemBits f)).1 < 2 ^ elemBits f := by
  unfold freeCode
  dsimp only
  split
  · exact canonicalNan_lt h
  · exact Nat.mod_lt _ (Nat.two_pow_pos _)

theorem minMaxElem_free (s : State) (f : BitVec 4) (big : Bool) (a b : Nat) :
    ∃ k, (minMaxElem s f big a b).2 = { s with free := k } := by
  unfold minMaxElem
  split
  · split
    · exact freeCode_free s _ _
    · split_ifs
      · exact ⟨s.free, rfl⟩
      · exact ⟨s.free + 1, rfl⟩
    · exact ⟨s.free, rfl⟩
    · exact ⟨s.free, rfl⟩
  · exact ⟨s.free, rfl⟩

/-- The choice is one of the operands, or a free code of the format. -/
theorem minMaxElem_lt {f : BitVec 4} {a b : Nat} (ha : a < 2 ^ elemBits f) (hb : b < 2 ^ elemBits f) (s : State) (big : Bool) :
    (minMaxElem s f big a b).1 < 2 ^ elemBits f := by
  unfold minMaxElem
  split
  · next spec hk =>
    split
    · exact freeCode_lt hk s
    all_goals dsimp only; split_ifs <;> assumption
  · dsimp only; split_ifs <;> assumption

/-- The choice is the extreme of the two operands. -/
theorem minMaxElem_extreme (s : State) (f : BitVec 4) (big : Bool) (a b : Nat) : ExtremeOf f a b big (minMaxElem s f big a b).1 := by
  unfold ExtremeOf elemOrder minMaxElem
  cases hk : kindOf f with
  | float spec =>
    dsimp only
    cases hc : cmp (decodeFloat spec a) (decodeFloat spec b) with
    | none =>
      intro spec' he hn
      cases he
      exact freeCode_nan hn
    | some o =>
      cases o with
      | lt => rfl
      | gt => rfl
      | eq =>
        dsimp only
        split_ifs <;> simp
  | _ =>
    dsimp only
    rcases lt_trichotomy (signed (elemBits f) a) (signed (elemBits f) b) with h | h | h
    · rw [compare_lt_iff_lt.2 h, decide_eq_true h]
      cases big <;> rfl
    · rw [compare_eq_iff_eq.2 h]
      dsimp only
      split_ifs <;> simp
    · rw [compare_gt_iff_gt.2 h, decide_eq_false h.asymm]
      cases big <;> rfl

/-- MIN and MAX choose for every element. -/
theorem vecChoice_minMax {c : GRef → VArgs → Instr} (big : Bool) (hc : ∀ g v s, exec (c g v) s = onUnit g.ok (minMax s g v big)) :
    VecChoice c floatsInts (fun v => (vecBase v.fmt v.rd, vecRegs v.fmt)) (fun v => elemBits v.fmt)
      (fun x v l h r => ExtremeOf v.fmt (laneElem x v.fmt v.ra l h) (laneElem x v.fmt v.rb l h) big r) := by
  refine choice_of (op := fun v x l s h => minMaxElem s v.fmt big (laneElem x v.fmt v.ra l h) (laneElem x v.fmt v.rb l h))
    (leg := fun f => floatsInts.contains f.toNat)
    (srcs := fun v => [(vecBase v.fmt v.ra, vecRegs v.fmt), (vecBase v.fmt v.rb, vecRegs v.fmt)]) hc
    (fun v hv => ?_) (fun v x l t h _ _ => ?_) fun v x l t h => minMaxElem_free t _ big _ _
  · obtain ⟨legal, defined, fits⟩ := mem_floatsInts hv
    exact ⟨legal, defined, rfl, vecBase_le _ _, elemBits_fits fits, vecRegs_pos _⟩
  · rw [Nat.mod_eq_of_lt (minMaxElem_lt (laneElem_lt ..) (laneElem_lt ..) t big)]
    exact minMaxElem_extreme t _ big _ _

/-! ### Compare (R118; log 12) -/

/-- Bits of the element that a comparison writes. -/
def truthBits (f : BitVec 4) : Nat := if isPacked f then 16 else 32

theorem truthBits_fits (f : BitVec 4) : if isPacked f then truthBits f = 16 else truthBits f ≤ 32 * 1 := by
  unfold truthBits
  split_ifs <;> rfl

/-- What a comparison writes is odd where it holds, and zero where it does not. -/
theorem truth_ne_zero_iff {w : Nat} (hw : 0 < w) (b : Bool) : truth w b % 2 ^ w ≠ 0 ↔ b = true := by
  cases b with
  | false => simp [truth]
  | true =>
    have odd : ((Config.compareTrue ||| 1).toNat % 2 ^ w % 2 ^ w).testBit 0 = true := by
      simp [hw, BitVec.toNat_or]
    refine ⟨fun _ => rfl, fun _ zero => ?_⟩
    rw [truth, if_pos rfl] at zero
    rw [zero] at odd
    cases odd

/-- A comparison writes the truth for every element. -/
theorem vecChoice_compare (q : Pred) :
    VecChoice (fun g v => Instr.compare g q v) floatsInts (fun v => (v.rd.toNat, 1)) (fun v => truthBits v.fmt)
      (fun x v l h r => (r ≠ 0) ↔ holds q (elemOrder v.fmt (laneElem x v.fmt v.ra l h) (laneElem x v.fmt v.rb l h)) = true) := by
  refine choice_of (op := fun v x l s h =>
      (truth (truthBits v.fmt) (holds q (elemOrder v.fmt (laneElem x v.fmt v.ra l h) (laneElem x v.fmt v.rb l h))), s))
    (leg := fun f => floatsInts.contains f.toNat)
    (srcs := fun v => [(vecBase v.fmt v.ra, vecRegs v.fmt), (vecBase v.fmt v.rb, vecRegs v.fmt)]) (fun _ _ _ => rfl)
    (fun v hv => ?_) (fun v x l t h _ _ => ?_) fun v x l t h => ⟨t.free, rfl⟩
  · obtain ⟨legal, defined, -⟩ := mem_floatsInts hv
    exact ⟨legal, defined, rfl, v.rd.isLt, truthBits_fits v.fmt, le_rfl⟩
  · exact truth_ne_zero_iff (by unfold truthBits; split_ifs <;> decide) _

/-! ### Shift (R118; log 25) -/

/-- The element that a shift gives: by fewer places than the width that of R118, else a free value. -/
def shiftElem (o : ShiftOp) (f : BitVec 4) (s : State) (a k : Nat) : Nat × State :=
  if k < elemBits f then (shiftFn o (elemBits f) a k % 2 ^ elemBits f, s)
  else ((freeVal s).1.toNat % 2 ^ elemBits f, (freeVal s).2)

theorem shiftElem_free (o : ShiftOp) (f : BitVec 4) (s : State) (a k : Nat) : ∃ n, (shiftElem o f s a k).2 = { s with free := n } := by
  unfold shiftElem
  split_ifs
  · exact ⟨s.free, rfl⟩
  · exact ⟨s.free + 1, rfl⟩

theorem vecChoice_shift (o : ShiftOp) : VecChoice (fun g v => Instr.shift g o v) [0xA, 0xB] (fun v => (v.rd.toNat, 1)) (fun v => elemBits v.fmt)
    (fun x v l h r => laneElem x v.fmt v.rb l h < elemBits v.fmt →
      r = shiftFn o (elemBits v.fmt) (laneElem x v.fmt v.ra l h) (laneElem x v.fmt v.rb l h) % 2 ^ elemBits v.fmt) := by
  refine choice_of (op := fun v x l s h => shiftElem o v.fmt s (laneElem x v.fmt v.ra l h) (laneElem x v.fmt v.rb l h))
    (leg := fun f => [0xA, 0xB].contains f.toNat) (srcs := fun v => [(v.ra.toNat, 1), (v.rb.toNat, 1)]) (fun _ _ _ => rfl)
    (fun v hv => ?_) (fun v x l t h _ _ hk => ?_) fun v x l t h => shiftElem_free o _ t _ _
  · obtain ⟨legal, defined, regs, fits⟩ := shiftFormat hv
    refine ⟨legal, defined, ?_, v.rd.isLt, elemBits_fits fits, le_rfl⟩
    simp [vecSources, vecBase, regs, List.range_succ]
  · rw [shiftElem, if_pos hk, Nat.mod_mod]

/-! ### The obligation -/

/-- Settles O8: each lane's element is the choice of its operation, free only where the spec states no result. -/
theorem vectorSelect : Obligations.VectorSelect := by
  unfold Obligations.VectorSelect
  refine ⟨vecChoice_minMax false fun _ _ _ => rfl, vecChoice_minMax true fun _ _ _ => rfl, vecChoice_compare, fun o => ?_⟩
  cases o <;> simpa only [shiftFn, Nat.shiftLeft_eq, Nat.shiftRight_eq_div_pow] using vecChoice_shift _

end Sys2Proof.Machine

/-! SUPPORT. What DD128 operations, special functions and SF.TIME write. It settles O10. -/

namespace Sys2Proof.Machine
open Sys2Proof.Num

/-! ### DD128 (R119) -/

/-- A DD128 operand is a block of four registers. -/
theorem laneElem_dd {y : Group} {r : BitVec 8} {l e : Nat} (h : readBlock y l (vecBase 0xE r) 4 = e % 2 ^ (32 * 4)) :
    laneElem y 0xE r l 0 = e % 2 ^ 128 := by
  have block : laneElem y 0xE r l 0 = readBlock y l (vecBase 0xE r) 4 % 2 ^ 128 := rfl
  rw [block, h]
  exact Nat.mod_mod _ _

theorem ddOp_of_ddIssue {c : GRef → VArgs → Instr} {f : DdFn} {fb : BitVec 4}
    (hc : ∀ g v s, exec (c g v) s = onUnit g.ok (ddIssue s g v f)) (hb : fb = if f = .mulf then 0 else 0xE) : DdOp c f fb := by
  intro g v s x p h hfails hfmt hset hregs
  obtain ⟨y, next, done, values⟩ := vecLane_next_fixed h (v := v) (legal := v.fmt == 0xE#4) (covered := true) (rounds := false)
    (fmts := [v.fmt]) (srcs := [(vecBase 0xE v.ra, 4), (vecBase fb v.rb, vecRegs fb)]) (r := vecBase 0xE v.rd) (n := 4)
    (F := fun x s l => (ddResult f (BitVec.ofNat 128 (laneElem x 0xE v.ra l 0)) (BitVec.ofNat 128 (laneElem x fb v.rb l 0)), s))
    (.inl (beq_iff_eq.2 hfmt)) (List.forall_mem_singleton.2 ⟨by rw [hfmt]; decide, by rw [hfmt]; exact hset⟩) hregs
    (fun hr => absurd hr Bool.false_ne_true) (fun _ => hfails) (vecBase_le 0xE v.rd) _ (fun _ _ => rfl)
  refine ⟨y, (hc g v s).trans ((onUnit_next _ _ _).2 ⟨h.unit, ?_⟩), done, fun l hl hm => laneElem_dd (values l hl hm)⟩
  subst hb
  exact next

/-! ### The special functions (R120, R121) -/

/-- The formats of the special functions: one register, whose elements are FP32, or two of 16 bits. -/
theorem sfFormats {f : BitVec 4} (h : f.toNat ∈ [1, 2, 3]) :
    [1, 2, 3].contains f.toNat = true ∧ f ≠ 0xF#4 ∧ vecRegs f = 1 ∧ elemBits f ≤ 32 * vecRegs f := by
  revert f; decide

theorem vecBase_of_single {f : BitVec 4} (h : vecRegs f = 1) (r : BitVec 8) : vecBase f r = r.toNat := by
  rw [vecBase, h, Nat.div_one, Nat.mul_one]

theorem sfOp_of_sfIssue {c : GRef → VArgs → Instr} {f : SfFn} (hc : ∀ g v s, exec (c g v) s = onUnit g.ok (sfIssue s g v f)) :
    SfOp c f := by
  intro g v s x p h hfails hfmt hset hregs
  obtain ⟨legal, defined, single, fits⟩ := sfFormats hfmt
  obtain ⟨y, next, done, values⟩ := vecLane_next_fixed h (v := v) (legal := [1, 2, 3].contains v.fmt.toNat) (covered := true)
    (rounds := false) (fmts := [v.fmt]) (srcs := [(v.ra.toNat, 1)]) (r := v.rd.toNat) (n := 1)
    (F := fun x s l => perElem v.fmt (fun s h => (sfFormat f v.fmt (laneElem x v.fmt v.ra l h), s)) s)
    (.inl legal) (List.forall_mem_singleton.2 ⟨defined, hset⟩) hregs (fun hr => absurd hr Bool.false_ne_true) (fun _ => hfails)
    v.rd.isLt _ (fun t l => perElem_fixed v.fmt (fun h => sfFormat f v.fmt (laneElem x v.fmt v.ra l h)) t)
  refine ⟨y, (hc g v s).trans ((onUnit_next _ _ _).2 ⟨h.unit, next⟩), done, fun l k hl hm hk => ?_⟩
  exact laneElem_packed (e := fun h => sfFormat f v.fmt (laneElem x v.fmt v.ra l h)) fits
    (by rw [vecBase_of_single single, single]; exact values l hl hm) hk

/-! ### SF.TIME (R122) -/

/-- Writing one value to each lane is the case of `perLane` that takes no free value. -/
theorem perLane_of_writeLanes (s : State) (g : Group) (m : W32) (r n : Nat) (f : Nat → Nat) :
    perLane s g m r n (fun s l => (f l, s)) = (s, writeLanes g m r n f) := by
  unfold perLane writeLanes
  generalize lanes m = ls
  induction ls generalizing g with
  | nil => rfl
  | cons l ls ih => exact ih _

theorem writeLanes_spec (g : Group) (m : W32) {r n : Nat} (f : Nat → Nat) (hr : r + n ≤ 256) :
    VecDone g (writeLanes g m r n f) m r n ∧
      ∀ l, l < 32 → m.getLsbD l = true → readBlock (writeLanes g m r n f) l r n = f l % 2 ^ (32 * n) := by
  obtain ⟨-, done, values⟩ := perLane_spec State.reset g m (fun s l => (f l, s)) hr (fun l v => v = f l) (fun _ _ => rfl)
    (fun t _ => ⟨t.free, rfl⟩)
  rw [perLane_of_writeLanes] at done values
  refine ⟨done, fun l hl hm => ?_⟩
  obtain ⟨v, rfl, hv⟩ := values l hl hm
  exact hv

/-- The time that SF.TIME gives: the die's, unless the group has seen a later one. -/
def timeSeen (x : Group) (now : W64) : W64 := if x.lastTime.toNat ≤ now.toNat then now else x.lastTime

theorem toNat_timeSeen (x : Group) (now : W64) : (timeSeen x now).toNat = Nat.max x.lastTime.toNat now.toNat := by
  unfold timeSeen
  split_ifs with h
  · exact (Nat.max_eq_right h).symm
  · exact (Nat.max_eq_left (Nat.le_of_not_le h)).symm

theorem exec_sfTime_next {g : GRef} {rd : BitVec 8} {s : State} {x : Group} {p : Path} (h : MayIssue s g x p)
    (hregs : RegsFree s g x [(rd.toNat / 2 * 2, 2)]) :
    let t := timeSeen x (die s (g.cl / 16)).time
    exec (.sfTime g rd) s = .next (fetched s (gidOf g) x p (setGroup s (gidOf g)
      (some (advance { writeLanes x (BitVec.allOnes 32) (rd.toNat / 2 * 2) 2 (fun _ => t.toNat) with lastTime := t })))) := by
  obtain ⟨granted, free⟩ := hregs _ (List.mem_singleton_self _)
  refine (onUnit_next _ _ _).2 ⟨h.unit, ?_⟩
  exact issue_acts h (blocksFree_iff.2 (List.forall_mem_singleton.2 free))
    (firstFault_none (List.forall_mem_singleton.2 (by simpa [inGrant] using granted)))

/-! ### The obligation -/

/-- Settles O10: each operation writes its value to every lane of its path, and SF.TIME to all lanes. -/
theorem functionUnits : Obligations.FunctionUnits := by
  unfold Obligations.FunctionUnits
  refine ⟨⟨?_, ?_, ?_, ?_⟩, ⟨?_, ?_, ?_, ?_, ?_, ?_, ?_, ?_⟩, fun g rd s x p h hregs => ?_⟩
  iterate 4 exact ddOp_of_ddIssue (fun _ _ _ => rfl) rfl
  iterate 8 exact sfOp_of_sfIssue fun _ _ _ => rfl
  have pair : rd.toNat / 2 * 2 + 2 ≤ 256 := by omega
  obtain ⟨⟨only_regs, frame⟩, values⟩ := writeLanes_spec x (BitVec.allOnes 32)
    (fun _ => (timeSeen x (die s (g.cl / 16)).time).toNat) pair
  refine ⟨_, _, exec_sfTime_next h hregs, toNat_timeSeen _ _, ?_, fun l hl => ?_, fun l r hl hr hout => ?_⟩
  · rw [only_regs]
  · exact (values l hl (by rw [BitVec.getLsbD_allOnes]; exact decide_eq_true hl)).trans (Nat.mod_eq_of_lt (timeSeen x _).isLt)
  · exact frame l r hl hr fun hin => hout hin.2

end Sys2Proof.Machine

/-! SUPPORT. What ACC.LOAD puts into an accumulator, and ACC.ROUND into a result tile. It settles O13. -/

namespace Sys2Proof.Machine
open Sys2Proof.Num

/-! ### ACC.LOAD (R106, R109) -/

/-- A result tile of a format with elements takes its registers and no more. -/
theorem tileRegs_of_sized {f : BitVec 4} (h : 0 < resultBytes f) : Nat.max 1 (2 * resultBytes f) = 2 * resultBytes f :=
  Nat.max_eq_right (by omega)

theorem resultBytes_of_loadFormatOk {form : Nat} {f : BitVec 4} (h : loadFormatOk form f = true) : 0 < resultBytes f := by
  have all : ∀ f : BitVec 4, [0xA, 1, 2, 3].contains f.toNat = true ∨ [0, 1, 0xE].contains f.toNat = true → 0 < resultBytes f := by
    decide
  refine all f ?_
  unfold loadFormatOk at h
  split_ifs at h
  · exact .inl h
  · exact .inr h

/-- The accumulator that ACC.LOAD makes of the result tile at register `rs`. -/
def loadedAcc (s : State) (x : Group) (form : Nat) (f : BitVec 4) (rs : Nat) : Acc :=
  let isInt := form == 1 && f == 0xA#4
  let made := if form = 1 then ledgerForm s else .pair
  { form := made, intOnly := isInt, int32Made := isInt
    elems := (List.range 256).foldl (fun es k =>
      let c := resultElem x f rs (k / 16) (k % 16)
      put {} es k (elemOf made (elemVal f c 0) (if f = 0xE then some (c % 2 ^ 64, c >>> 64) else none))) [] }

theorem look_loadedAcc (s : State) (x : Group) (form : Nat) (f : BitVec 4) (rs : Nat) {i j : Nat} (hi : i < 16) (hj : j < 16) :
    let c := resultElem x f rs i j
    look {} (loadedAcc s x form f rs).elems (16 * i + j) = elemOf (loadedAcc s x form f rs).form (elemVal f c 0)
      (if f = 0xE then some (c % 2 ^ 64, c >>> 64) else none) := by
  have row : (16 * i + j) / 16 = i := by omega
  have column : (16 * i + j) % 16 = j := by omega
  unfold loadedAcc
  dsimp only
  rw [look_foldl_put {} (fun k _ =>
    let c := resultElem x f rs (k / 16) (k % 16)
    elemOf (if form = 1 then ledgerForm s else .pair) (elemVal f c 0) (if f = 0xE then some (c % 2 ^ 64, c >>> 64) else none)),
    if_pos (by omega)]
  dsimp only
  rw [row, column]

/-- A word of ACC.LOAD that breaks no rule, its format one that the partition may load, its registers in the grant and free. -/
structure AccLoadOk (s : State) (g : GRef) (x : Group) (w : W64) (f : BitVec 4) (e : Nat) : Prop where
  op : opcode w = 0x41
  reserved : reservedBits w [(7, 0), (11, 8), (17, 16), (20, 19), (31, 24)] = 0
  form : bits w 20 19 ∈ [1, 2]
  loads : loadFormatOk (bits w 20 19) f = true
  formats : FormatsOk s false [f]
  aligned : bits w 31 24 % (2 * e) = 0
  granted : bits w 31 24 + 2 * e ≤ x.regGrant
  acc : bits w 17 16 < x.accGrant
  free : BlocksFree s g [(bits w 31 24, 2 * e)]

theorem exec_accLoad_next {g : GRef} {w : W64} {s : State} {x : Group} {p : Path} (h : MayIssue s g x p) {f : BitVec 4}
    (hf : f = BitVec.ofNat 4 (bits w 11 8)) (hw : AccLoadOk s g x w f (resultBytes f)) :
    exec (.accLoad g w) s = .next (fetched s (gidOf g) x p (retire s (gidOf g)
      (setAcc x (bits w 17 16) (loadedAcc s x (bits w 20 19) f (bits w 31 24))))) := by
  subst hf
  obtain ⟨op, reserved, form, loads, formats, aligned, granted, acc, free⟩ := hw
  have form' : bits w 20 19 = 1 ∨ bits w 20 19 = 2 := by simpa using form
  refine (onUnit_next _ _ _).2 ⟨h.unit, ?_⟩
  rw [tileRegs_of_sized (resultBytes_of_loadFormatOk loads)]
  refine issue_acts h (blocksFree_iff.2 free) (firstFault_none ?_)
  refine List.forall_mem_append.2 ⟨List.forall_mem_append.2 ⟨?_, formatFaults_none formats⟩,
    List.forall_mem_singleton.2 (by simpa using loads)⟩
  simp only [List.forall_mem_cons]
  refine ⟨by simp [op], ?_, by simp [inGrant, granted], by simp [acc], by simp [aligned], List.forall_mem_nil _⟩
  rcases form' with h | h <;> simp [reserved, h]

/-! ### Result tiles (R97) -/

/-- Digit `k` of a number in base `2 ^ b` that is given by its digits. -/
theorem digit_sum (b : Nat) (d : Nat → Nat) {n k : Nat} (hk : k < n) :
    (((List.range n).map fun i => d i % 2 ^ b * 2 ^ (b * i)).sum >>> (b * k)) % 2 ^ b = d k % 2 ^ b := by
  induction n generalizing d k with
  | zero => exact absurd hk (Nat.not_lt_zero k)
  | succ n ih =>
    have tail : (((List.range n).map Nat.succ).map fun i => d i % 2 ^ b * 2 ^ (b * i)).sum =
        2 ^ b * ((List.range n).map fun i => d (i + 1) % 2 ^ b * 2 ^ (b * i)).sum := by
      rw [List.map_map, ← List.sum_map_mul_left]
      refine congrArg List.sum (List.map_congr_left fun i _ => ?_)
      simp only [Function.comp_apply, Nat.succ_eq_add_one, Nat.mul_add, Nat.mul_one, pow_add]
      ring
    rw [List.range_succ_eq_map, List.map_cons, List.sum_cons, tail, Nat.mul_zero, pow_zero, Nat.mul_one]
    cases k with
    | zero => rw [Nat.mul_zero, Nat.shiftRight_zero, Nat.add_mul_mod_self_left, Nat.mod_mod]
    | succ k =>
      rw [Nat.mul_succ, Nat.add_comm (b * k) b, Nat.shiftRight_add, Nat.shiftRight_eq_div_pow _ b,
        Nat.add_mul_div_left _ _ (Nat.two_pow_pos b), Nat.div_eq_of_lt (Nat.mod_lt _ (Nat.two_pow_pos b)), Nat.zero_add]
      exact ih (fun i => d (i + 1)) (Nat.lt_of_succ_lt_succ hk)

/-- The eight elements of a row that lie in a lane, as one number. -/
def laneOfTile (fmt : BitVec 4) (f : Nat → Nat → Nat) (lane : Nat) : Nat :=
  ((List.range 8).map fun i => f (lane / 2) (8 * (lane % 2) + i) % 2 ^ (8 * resultBytes fmt) * 2 ^ (8 * resultBytes fmt * i)).sum

theorem lanes_allOnes : lanes (BitVec.allOnes 32) = List.range 32 := by decide

/-- A result tile takes its block of all lanes. -/
theorem writeResult_eq_writeLanes (g : Group) (fmt : BitVec 4) (r : Nat) (f : Nat → Nat → Nat) :
    writeResult g fmt r f = writeLanes g (BitVec.allOnes 32) r (2 * resultBytes fmt) (laneOfTile fmt f) := by
  unfold writeLanes
  rw [lanes_allOnes]
  rfl

theorem writeResult_spec (g : Group) (fmt : BitVec 4) {r : Nat} (f : Nat → Nat → Nat) (hr : r + 2 * resultBytes fmt ≤ 256) :
    writeResult g fmt r f = { g with regs := (writeResult g fmt r f).regs } ∧
      (∀ l q, l < 32 → q < 256 → ¬(r ≤ q ∧ q < r + 2 * resultBytes fmt) → readReg (writeResult g fmt r f) l q = readReg g l q) ∧
      ∀ i j, i < 16 → j < 16 → resultElem (writeResult g fmt r f) fmt r i j = f i j % 2 ^ (8 * resultBytes fmt) := by
  obtain ⟨⟨only_regs, frame⟩, values⟩ := writeLanes_spec g (BitVec.allOnes 32) (laneOfTile fmt f) hr
  rw [← writeResult_eq_writeLanes] at only_regs frame values
  refine ⟨only_regs, fun l q hl hq hout => frame l q hl hq fun hin => hout hin.2, fun i j hi hj => ?_⟩
  have lane : 2 * i + j / 8 < 32 := by omega
  have block := values (2 * i + j / 8) lane (by rw [BitVec.getLsbD_allOnes]; exact decide_eq_true lane)
  have low : 8 * resultBytes fmt * (j % 8) + 8 * resultBytes fmt ≤ 32 * (2 * resultBytes fmt) := by
    have := Nat.mod_lt j (show 0 < 8 by decide)
    calc 8 * resultBytes fmt * (j % 8) + 8 * resultBytes fmt = 8 * resultBytes fmt * (j % 8 + 1) := by ring
      _ ≤ 8 * resultBytes fmt * 8 := Nat.mul_le_mul_left _ this
      _ = 32 * (2 * resultBytes fmt) := by ring
  unfold resultElem
  dsimp only
  rw [block, shiftRight_mod_of_low low, laneOfTile,
    digit_sum (8 * resultBytes fmt) (fun k => f ((2 * i + j / 8) / 2) (8 * ((2 * i + j / 8) % 2) + k)) (by omega),
    show (2 * i + j / 8) / 2 = i by omega, show 8 * ((2 * i + j / 8) % 2) + j % 8 = j by omega]

/-- A block that starts at a multiple of its size lies in the 256 registers. -/
theorem resultBlock_le {fmt : BitVec 4} {r : Nat} (hr : r < 256) (hpos : 0 < resultBytes fmt) (h : r % (2 * resultBytes fmt) = 0) :
    r + 2 * resultBytes fmt ≤ 256 := by
  have all : ∀ f : BitVec 4, resultBytes f ∈ [0, 2, 4, 8, 16] := by decide
  have size := all fmt
  simp only [List.mem_cons, List.not_mem_nil, or_false] at size
  rcases size with h' | h' | h' | h' | h' <;> rw [h'] at hpos h ⊢ <;> omega

/-! ### ACC.RELEASE and ACC.ROUND (R106 to R108) -/

theorem exec_accRelease_next {g : GRef} {w : W64} {s : State} {x : Group} {p : Path} (h : MayIssue s g x p)
    (hw : WordOk x w 0x43 [(17, 16)] [] (some (bits w 17 16))) :
    exec (.accRelease g w) s = .next (fetched s (gidOf g) x p (retire s (gidOf g) (setAcc x (bits w 17 16) {}))) :=
  (onUnit_next _ _ _).2 ⟨h.unit, issue_acts h rfl (firstFault_none (wordFaults_none hw))⟩

/-- Does an ACC.ROUND draw random bits (R72, R107)? -/
def drawsBits (w : W64) (a : Acc) (fo : BitVec 4) : Bool := decide (bits w 21 19 = 4) && roundsUnder a fo

/-- The code that ACC.ROUND gives element `(i, j)`. -/
def roundedCode (x : Group) (w : W64) (a : Acc) (fo : BitVec 4) (i j : Nat) : Nat :=
  elemRound a.form fo ⟨bits w 21 19, decide (bits w 22 22 = 1),
    if drawsBits w a fo then rsrDraw (rsrBlock x (bits w 39 32)) (i * (rsrBlock x (bits w 39 32)).stride.toNat + j) else 0⟩
    (look {} a.elems (16 * i + j))

/-- The group after an ACC.ROUND, but for the path: the result tile, and the accumulator empty unless KEEP is set. -/
def roundedGroup (x : Group) (w : W64) (a : Acc) (fo : BitVec 4) : Group :=
  let y := writeResult x fo (bits w 31 24) (roundedCode x w a fo)
  if bits w 23 23 = 1 then y else setAcc y (bits w 17 16) {}

theorem roundedGroup_eq (x : Group) (w : W64) (a : Acc) {fo : BitVec 4} (hr : bits w 31 24 + 2 * resultBytes fo ≤ 256) :
    roundedGroup x w a fo = { x with
      regs := (roundedGroup x w a fo).regs
      accs := if bits w 23 23 = 1 then x.accs else put {} x.accs (bits w 17 16) {} } := by
  obtain ⟨only_regs, -, -⟩ := writeResult_spec x fo (roundedCode x w a fo) hr
  unfold roundedGroup setAcc
  rw [only_regs]
  split_ifs <;> rfl

theorem readReg_roundedGroup (x : Group) (w : W64) (a : Acc) (fo : BitVec 4) (l r : Nat) :
    readReg (roundedGroup x w a fo) l r = readReg (writeResult x fo (bits w 31 24) (roundedCode x w a fo)) l r := by
  unfold roundedGroup setAcc
  split_ifs <;> rfl

theorem resultElem_roundedGroup (x : Group) (w : W64) (a : Acc) (fo : BitVec 4) (r i j : Nat) :
    resultElem (roundedGroup x w a fo) fo r i j = resultElem (writeResult x fo (bits w 31 24) (roundedCode x w a fo)) fo r i j := by
  unfold resultElem
  dsimp only
  rw [readBlock_congr fun k _ _ => readReg_roundedGroup x w a fo _ k]

theorem bits_byte_lt (w : W64) (lo : Nat) : bits w (lo + 7) lo < 256 := by
  unfold bits field
  rw [show lo + 7 - lo + 1 = 8 by omega]
  exact Nat.mod_lt _ (by decide)

/-- A word of ACC.ROUND that breaks no rule, its format one that the partition may take from the accumulator, its registers free. -/
structure AccRoundOk (s : State) (g : GRef) (x : Group) (w : W64) (a : Acc) (fo : BitVec 4) : Prop where
  word : WordOk x w 0x44 [(11, 8), (17, 16), (21, 19), (22, 22), (23, 23), (31, 24), (39, 32)]
    ((bits w 31 24, 2 * resultBytes fo) :: if drawsBits w a fo then [(bits w 39 32, 6)] else []) (some (bits w 17 16))
  sized : 0 < resultBytes fo
  aligned : bits w 31 24 % (2 * resultBytes fo) = 0
  formats : FormatsOk s false [fo]
  mode : roundsUnder a fo = true → bits w 21 19 < 5
  out : outFormatOk a fo = true
  full : a.form ≠ .empty
  free : BlocksFree s g ((bits w 31 24, 2 * resultBytes fo) :: if drawsBits w a fo then [(bits w 39 32, 6)] else [])

theorem exec_accRound_next {g : GRef} {w : W64} {s : State} {x : Group} {p : Path} (h : MayIssue s g x p) {a : Acc} {fo : BitVec 4}
    (ha : a = accOf x (bits w 17 16)) (hfo : fo = BitVec.ofNat 4 (bits w 11 8)) (hw : AccRoundOk s g x w a fo) :
    exec (.accRound g w) s = .next (fetched s (gidOf g) x p (markForm (retire s (gidOf g) (roundedGroup x w a fo)) x.task a.form)) := by
  obtain ⟨word, sized, aligned, formats, mode, out, full, free⟩ := hw
  have task : (roundedGroup x w a fo).task = x.task := by
    rw [roundedGroup_eq x w a (resultBlock_le (bits_byte_lt w 24) sized aligned)]
  subst ha hfo
  refine (onUnit_next _ _ _).2 ⟨h.unit, ?_⟩
  rw [tileRegs_of_sized sized]
  refine (issue_acts h (blocksFree_iff.2 free) (firstFault_none ?_)).trans ?_
  · refine List.forall_mem_append.2 ⟨List.forall_mem_append.2 ⟨List.forall_mem_append.2 ⟨wordFaults_none word, ?_⟩,
      formatFaults_none formats⟩, ?_⟩
    · exact List.forall_mem_singleton.2 (by simp [aligned])
    · simp only [List.forall_mem_cons]
      refine ⟨?_, by simp [out], by simpa using full, List.forall_mem_nil _⟩
      cases hu : roundsUnder (accOf x (bits w 17 16)) (BitVec.ofNat 4 (bits w 11 8)) with
      | false => rfl
      | true => simpa [badMode] using mode hu
  · rw [← task]
    rfl

/-! ### The obligation -/

/-- Settles O13: the fold over a tile writes each element once, and the lanes of a result tile hold its elements as digits. -/
theorem accumulatorLoadRoundRelease : Obligations.AccumulatorLoadRoundRelease := by
  unfold Obligations.AccumulatorLoadRoundRelease
  intro g w s x p h
  refine ⟨fun fm e hfm he op reserved form loads formats aligned granted acc free => ?_, exec_accRelease_next h,
    fun fo e a u hfo he ha hu word sized aligned formats mode out full free => ?_⟩
  · subst he
    exact ⟨loadedAcc s x (bits w 20 19) fm (bits w 31 24),
      exec_accLoad_next h hfm ⟨op, reserved, form, loads, formats, aligned, granted, acc, free⟩, rfl, rfl, rfl,
      fun i j hi hj => look_loadedAcc s x _ fm _ hi hj⟩
  · subst he hu
    have fits := resultBlock_le (bits_byte_lt w 24) sized aligned
    obtain ⟨-, frame, elems⟩ := writeResult_spec x fo (roundedCode x w a fo) fits
    refine ⟨roundedGroup x w a fo, exec_accRound_next h ha hfo ⟨word, sized, aligned, formats, mode, out, full, free⟩,
      roundedGroup_eq x w a fits, fun i j hi hj => ?_, fun l r hl hr hout => ?_⟩
    · rw [resultElem_roundedGroup]
      exact elems i j hi hj
    · rw [readReg_roundedGroup]
      exact frame l r hl hr hout

end Sys2Proof.Machine

/-! SUPPORT. When TLD and TST, and the accumulator instructions that reach memory, are ready and break no rule. It settles O16 and O17. -/

namespace Sys2Proof.Machine
open Sys2Proof.Num

/-! ### Readiness of instructions that reach memory (R141, R142, R336, R340) -/

theorem readyToRead {s : State} {g : GRef} {x : Group} {l : List (Nat × Nat)} (hfence : x.fence = none) (hroom : readsOut s (gidOf g) < 16)
    (hfree : BlocksFree s g l) : (fenceFree x && canRead s (gidOf g) && blocksFree s (gidOf g) l) = true := by
  rw [blocksFree_iff.2 hfree, canRead, decide_eq_true hroom, fenceFree, hfence]
  rfl

theorem readyToWrite {s : State} {g : GRef} {x : Group} {l : List (Nat × Nat)} (hfence : x.fence = none) (hroom : writesOut s (gidOf g) < 64)
    (hfree : BlocksFree s g l) : (fenceFree x && canWrite s (gidOf g) && blocksFree s (gidOf g) l) = true := by
  rw [blocksFree_iff.2 hfree, canWrite, decide_eq_true hroom, fenceFree, hfence]
  rfl

/-- The base and the stride of a tile in memory are aligned (R100). -/
def tileAligned (x : Group) (ra rs : Nat) : Prop := tileBase x ra % 16 = 0 ∧ tileStride x rs % 16 = 0

theorem misaligned_eq_false {x : Group} {ra rs : Nat} (h : tileAligned x ra rs) :
    (tileBase x ra % 16 != 0 || tileStride x rs % 16 != 0) = false := by
  rw [h.1, h.2]
  rfl

/-! ### TLD and TST (R100) -/

/-- The format field of a tile or accumulator instruction (R108, R112). -/
abbrev fmtOf (w : W64) : BitVec 4 := BitVec.ofNat 4 (bits w 11 8)

section
variable {g : GRef} {w : W64} {s : State} {x : Group} {p : Path} (h : MayIssue s g x p) (hfence : x.fence = none)
include h hfence

theorem exec_tld_next (halign : tileAligned x (bits w 39 32) (bits w 47 40))
    (hword : WordOk x w 0x48 [(11, 8), (19, 19), (24, 20), (39, 32), (47, 40)]
      [(8 * bits w 24 20, 8), (bits w 39 32, 2), (bits w 47 40, 1)] none)
    (hset : FormatsOk s true [fmtOf w]) (htrans : bits w 19 19 = 1 → elemBits (fmtOf w) ≠ 4 ∧ elemBits (fmtOf w) ≠ 6)
    (hroom : readsOut s (gidOf g) < 16) (hfree : BlocksFree s g [(8 * bits w 24 20, 8), (bits w 39 32, 2), (bits w 47 40, 1)]) :
    exec (.tld g w) s = .next (fetched s (gidOf g) x p (doLoads s g x p w
      (tldRefs (fmtOf w) (bits w 19 19 = 1) (bits w 24 20) (tileBase x (bits w 39 32)) (tileStride x (bits w 47 40))))) := by
  refine (onUnit_next _ _ _).2 ⟨h.unit, issue_acts h (readyToRead hfence hroom hfree) (firstFault_none ?_)⟩
  refine List.forall_mem_append.2 ⟨List.forall_mem_append.2 ⟨wordFaults_none hword, ?_⟩, formatFaults_none hset⟩
  simp only [List.forall_mem_cons]
  refine ⟨misaligned_eq_false halign, ?_, List.forall_mem_nil _⟩
  by_cases hb : bits w 19 19 = 1
  · obtain ⟨four, six⟩ := htrans hb
    rw [beq_false_of_ne four, beq_false_of_ne six]
    exact Bool.and_false _
  · simp [hb]

theorem exec_tst_next (halign : tileAligned x (bits w 39 32) (bits w 47 40))
    (hword : WordOk x w 0x49 [(11, 8), (31, 24), (39, 32), (47, 40)]
      [(bits w 31 24, 2 * resultBytes (fmtOf w)), (bits w 39 32, 2), (bits w 47 40, 1)] none)
    (hsized : 0 < resultBytes (fmtOf w)) (hblock : bits w 31 24 % (2 * resultBytes (fmtOf w)) = 0) (hset : FormatsOk s false [fmtOf w])
    (hroom : writesOut s (gidOf g) < 64)
    (hfree : BlocksFree s g [(bits w 31 24, 2 * resultBytes (fmtOf w)), (bits w 39 32, 2), (bits w 47 40, 1)]) :
    exec (.tst g w) s = .next (fetched s (gidOf g) x p (doStores s g x p w true
      (tstRefs x (fmtOf w) (bits w 31 24) (tileBase x (bits w 39 32)) (tileStride x (bits w 47 40))))) := by
  rw [← tileRegs_of_sized hsized] at hword hfree
  refine (onUnit_next _ _ _).2 ⟨h.unit, issue_acts h (readyToWrite hfence hroom hfree) (firstFault_none ?_)⟩
  refine List.forall_mem_append.2 ⟨List.forall_mem_append.2 ⟨List.forall_mem_append.2 ⟨wordFaults_none hword,
    List.forall_mem_singleton.2 ?_⟩, formatFaults_none hset⟩, List.forall_mem_singleton.2 (beq_false_of_ne hsized.ne')⟩
  dsimp only
  rw [Bool.or_assoc, misaligned_eq_false halign, Bool.or_false, hblock]
  exact Bool.and_false _

end

/-- Settles O17: a tile instruction that is ready and breaks no rule issues its references. -/
theorem tileLoadStore : Obligations.TileLoadStore := by
  unfold Obligations.TileLoadStore
  intro g w s x p f ra rs h hfence hf hra hrs hbase hstride
  subst hf hra hrs
  refine ⟨fun t refs ht hrefs hword hset htrans hroom hfree hok hsegs hmiss => ?_,
    fun rd e refs hrd he hrefs hword hsized hblock hset hroom hfree hok hsegs => ?_⟩
  · subst ht hrefs
    rw [exec_tld_next h hfence ⟨hbase, hstride⟩ hword hset htrans hroom hfree, doLoads_sends hok hsegs hmiss]
  · subst hrd he hrefs
    rw [exec_tst_next h hfence ⟨hbase, hstride⟩ hword hsized hblock hset hroom hfree, doStores_sends hok hsegs]

/-! ### ACC.PUSH (R110, R257, R269) -/

theorem mem_hitsFor {s : State} {g : GRef} {x : Group} {u : Use} {refs : List Ref} {r : Ref} {h : Hit} (hr : r ∈ refs)
    (hh : hitOf s g.cl x u r = .ok h) : h ∈ hitsFor s g x u refs :=
  List.mem_filterMap.2 ⟨_, List.mem_map.2 ⟨r, hr, rfl⟩, by rw [hh]⟩

/-- A reference of a push as it is checked: translated, and its target one that takes updates. -/
def pushHit (s : State) (g : GRef) (x : Group) (r : Ref) : Except Nat Hit :=
  match hitOf s g.cl x .store r with
  | .ok h => match updateTarget s h.pa with
    | some c => .error (h.late.getD c)
    | none => .ok h
  | .error c => .error c

/-- Where every target takes updates, the references are those that were translated. -/
theorem map_pushHit {s : State} {g : GRef} {x : Group} {refs : List Ref} (hok : RefsOk s g x .store true refs)
    (htarget : ∀ h ∈ hitsFor s g x .store refs, updateTarget s h.pa = none) :
    refs.map (fun r => (r, pushHit s g x r)) = refs.map fun r => (r, hitOf s g.cl x .store r) := by
  refine List.map_congr_left fun r hr => ?_
  obtain ⟨h, hh, -⟩ := hok r hr
  unfold pushHit
  rw [hh]
  dsimp only
  rw [htarget h (mem_hitsFor hr hh)]

/-- What an ACC.PUSH of the accumulator `a` does with its references. -/
def pushAct (s : State) (g : GRef) (x : Group) (p : Path) (w : W64) (fl : BitVec 4) (a : Acc) (refs : List Ref) : State :=
  let l := refs.map fun r => (r, pushHit s g x r)
  match refFault true l with
  | some (c, va, m) => parkAt s (gidOf g) p c va w m
  | none =>
    let hs := hitsOf l
    if !segsFree s (gidOf g) .update hs then notReady s (gidOf g)
    else
      markForm (sendPackets (cacheLeaves (retire s (gidOf g) (if bits w 23 23 = 1 then x else setAcc x (bits w 17 16) {})) g.cl hs)
        (gidOf g) p.pc w (pushPackets a fl x.task x.part (hs.zipIdx.map fun (h, k) => (h, look {} a.elems k)))) x.task a.form

/-- References that are all translated, whose targets take updates, on free segments, are sent. -/
theorem pushAct_sends {s : State} {g : GRef} {x : Group} {p : Path} {w : W64} {fl : BitVec 4} {a : Acc} {refs : List Ref}
    (hok : RefsOk s g x .store true refs) (htarget : ∀ h ∈ hitsFor s g x .store refs, updateTarget s h.pa = none)
    (hsegs : segsFree s (gidOf g) .update (hitsFor s g x .store refs) = true) :
    pushAct s g x p w fl a refs = markForm (sendPackets (cacheLeaves (retire s (gidOf g)
        (if bits w 23 23 = 1 then x else setAcc x (bits w 17 16) {})) g.cl (hitsFor s g x .store refs)) (gidOf g) p.pc w
      (pushPackets a fl x.task x.part ((hitsFor s g x .store refs).zipIdx.map fun (h, k) => (h, look {} a.elems k)))) x.task a.form := by
  unfold pushAct
  dsimp only
  rw [map_pushHit hok htarget, refFault_none hok]
  exact if_neg (by rw [show hitsOf _ = hitsFor s g x .store refs from rfl, hsegs]; decide)

/-- The references of a push: the elements of the rows (R110). -/
def pushRefs (x : Group) (ra rs size : Nat) : List Ref :=
  (List.range 256).map fun k =>
    { va := rowAddr (tileBase x ra) (tileStride x rs) (k / 16) + k % 16 * size, len := size, lane := 2 * (k / 16) + k % 16 / 8 }

section
variable {g : GRef} {w : W64} {s : State} {x : Group} {p : Path} (h : MayIssue s g x p) (hfence : x.fence = none)
include h hfence

theorem exec_accPush_next (halign : tileAligned x (bits w 31 24) (bits w 39 32))
    (hword : WordOk x w 0x45 [(11, 8), (17, 16), (23, 23), (31, 24), (39, 32)] [(bits w 31 24, 2), (bits w 39 32, 1)] (some (bits w 17 16)))
    (hset : FormatsOk s false [fmtOf w]) (hout : outFormatOk (accOf x (bits w 17 16)) (fmtOf w) = true)
    (hfull : (accOf x (bits w 17 16)).form ≠ .empty) (hroom : writesOut s (gidOf g) < 64)
    (hfree : BlocksFree s g [(bits w 31 24, 2), (bits w 39 32, 1)]) :
    exec (.accPush g w) s = .next (fetched s (gidOf g) x p (pushAct s g x p w (fmtOf w) (accOf x (bits w 17 16))
      (pushRefs x (bits w 31 24) (bits w 39 32) (elemBits (fmtOf w) / 8)))) := by
  refine (onUnit_next _ _ _).2 ⟨h.unit, issue_acts h (readyToWrite hfence hroom hfree) (firstFault_none ?_)⟩
  refine List.forall_mem_append.2 ⟨List.forall_mem_append.2 ⟨List.forall_mem_append.2 ⟨wordFaults_none hword,
    List.forall_mem_singleton.2 (misaligned_eq_false halign)⟩, formatFaults_none hset⟩, ?_⟩
  simp only [List.forall_mem_cons]
  exact ⟨(congrArg _ hout).trans rfl, beq_false_of_ne hfull, List.forall_mem_nil _⟩

/-! ### ACC.SAVE and ACC.RESTORE (R111) -/

theorem exec_accSave_next (hword : WordOk x w 0x46 [(17, 16), (23, 23), (31, 24)] [(bits w 31 24, 2)] (some (bits w 17 16)))
    (halign : tileBase x (bits w 31 24) % 64 = 0) (hroom : writesOut s (gidOf g) < 64) (hfree : BlocksFree s g [(bits w 31 24, 2)]) :
    exec (.accSave g w) s = .next (fetched s (gidOf g) x p (doStores s g (if bits w 23 23 = 1 then x else setAcc x (bits w 17 16) {}) p w
      true (imageRefs (tileBase x (bits w 31 24)) (accImage (accOf x (bits w 17 16)))))) := by
  refine (onUnit_next _ _ _).2 ⟨h.unit, issue_acts h (readyToWrite hfence hroom hfree) (firstFault_none ?_)⟩
  exact List.forall_mem_append.2 ⟨wordFaults_none hword, List.forall_mem_singleton.2 (by simp [halign])⟩

/-- A whole image lies in memory: its header first, and all of it is an accumulator's (R111). -/
theorem exec_accRestore_next {head b : List Byte} {hs hb : List Hit} {a : Acc}
    (hword : WordOk x w 0x47 [(17, 16), (31, 24)] [(bits w 31 24, 2)] (some (bits w 17 16)))
    (halign : tileBase x (bits w 31 24) % 64 = 0) (hroom : readsOut s (gidOf g) < 16) (hfree : BlocksFree s g [(bits w 31 24, 2)])
    (hidle : imageBusy s (gidOf g) = false)
    (hhead : readImage s g.cl x (tileBase x (bits w 31 24)) 64 = .got head hs [] ∧ segsFree s (gidOf g) .load hs = true)
    (himage : readImage s g.cl x (tileBase x (bits w 31 24)) (imageSize (byteAt head 0)) = .got b hb [] ∧
      segsFree s (gidOf g) .load hb = true) (ha : accFromImage b = some a) :
    exec (.accRestore g w) s = .next (fetched s (gidOf g) x p (cacheLeaves (retire s (gidOf g)
      { setAcc x (bits w 17 16) a with image := [] }) g.cl hb)) := by
  have ready : (fenceFree x && canRead s (gidOf g) && blocksFree s (gidOf g) [(bits w 31 24, 2)] && !imageBusy s (gidOf g)) = true := by
    rw [readyToRead hfence hroom hfree, hidle]
    rfl
  refine (onUnit_next _ _ _).2 ⟨h.unit, (issue_acts h ready (firstFault_none ?_)).trans (congrArg _ ?_)⟩
  · exact List.forall_mem_append.2 ⟨wordFaults_none hword, List.forall_mem_singleton.2 (by simp [halign])⟩
  · simp [hhead, himage, ha]

end

/-- Emptying an accumulator changes no translation. -/
theorem refsOk_keep {s : State} {g : GRef} {x : Group} {u : Use} {c : Bool} {refs : List Ref} (h : RefsOk s g x u c refs) (keep : Prop)
    [Decidable keep] (n : Nat) (a : Acc) : RefsOk s g (if keep then x else setAcc x n a) u c refs := by
  split_ifs
  · exact h
  · exact h

theorem hitsFor_keep (s : State) (g : GRef) (x : Group) (u : Use) (refs : List Ref) (keep : Prop) [Decidable keep] (n : Nat) (a : Acc) :
    hitsFor s g (if keep then x else setAcc x n a) u refs = hitsFor s g x u refs := by
  split_ifs <;> rfl

/-- Settles O16: a push or a save that is ready and breaks no rule sends its references, and a whole image becomes the accumulator. -/
theorem accumulatorPushSaveRestore : Obligations.AccumulatorPushSaveRestore := by
  unfold Obligations.AccumulatorPushSaveRestore
  intro g w s x p h hfence
  refine ⟨fun fl ra rs size a refs hfl hra hrs hsize ha hrefs hword hbase hstride hset hout hfull hroom hfree hok htarget hsegs => ?_,
    fun ra refs hra hrefs hword halign hroom hfree hok hsegs => ?_,
    fun ra head b hs hb a hra hword halign hroom hfree hidle hhead himage hsegs hsegs' ha => ?_⟩
  · subst hfl hra hrs hsize ha hrefs
    rw [exec_accPush_next h hfence ⟨hbase, hstride⟩ hword hset hout hfull hroom hfree]
    exact congrArg (fun t => Host.Outcome.next (fetched s (gidOf g) x p t)) (pushAct_sends hok htarget hsegs)
  · subst hra hrefs
    rw [exec_accSave_next h hfence hword halign hroom hfree, doStores_sends (refsOk_keep hok _ _ _) (by rwa [hitsFor_keep]), hitsFor_keep]
  · subst hra
    exact exec_accRestore_next h hfence hword halign hroom hfree hidle ⟨hhead, hsegs⟩ ⟨himage, hsegs'⟩ ha

end Sys2Proof.Machine

/-! SUPPORT. A group whose mark of an interrupted MMA lies beyond the word's last step. It refutes O11. -/

namespace Sys2Proof.Machine

/-- An MMA of one step: BF16 tiles 0 and 1, INIT, accumulator 0 (R105). -/
def oneStepMma : W64 := 0x2083340

/-- A group on cluster 0 that is to resume that MMA at its step 1, after its last. -/
def overrunGroup : Group :=
  { part := 0, ctx := 0, task := 0, team := 0, index := 0, regGrant := 16, accGrant := 1, paths := [{ pc := 0, mask := 1 }],
    mmaStep := some (oneStepMma, 1) }

/-- Its instructions lie in a page of die 0's face memory, which its partition may read and its cluster has translated. -/
def overrunState : State :=
  { State.reset with
    dev := { fmt := 0x7FFF }
    image := { parts := [(0, { isDefined := true })], regions := [⟨0, 0x10000, 0, false⟩] }
    dies := [(0, { state := .inService })]
    clusters := [(0, { tlb := [{ ctx := 0, part := 0, vpage := 0, pages := 1, pa := 0, attr := 0, x := true, w := true }] })]
    groups := [(0, some overrunGroup)] }

/-- Its MMA whose check has failed for the third time. -/
def thirdFailure : GRef := { cl := 0, core := 0, slot := 0, fails := 3 }

theorem mayIssue_overrun : MayIssue overrunState thirdFailure overrunGroup { pc := 0, mask := 1 } where
  unit := by decide
  active := by decide +kernel
  fetch := by decide +kernel
  ecc := rfl

/-- The step at which the module leaves the MMA that failed: the word's last, which is before the group's mark. -/
theorem overrun_parks_at_last_step : (match exec (.mma thirdFailure oneStepMma) overrunState with
    | .next t => (group t (gidOf thirdFailure)).bind (·.mmaStep)
    | _ => none) = some (oneStepMma, 0) := by decide +kernel

/-- Refutes O11: a group may issue whose mark says that an MMA of one step resumes at step 1; the third failure then parks it at step 0,
and no step of the word is at or after the mark. No step of the module leaves such a mark, but the statement asks it of every state. -/
theorem not_persistentErrorParks : ¬ Obligations.PersistentErrorParks := by
  unfold Obligations.PersistentErrorParks
  rintro ⟨-, -, -, -, -, -, -, -, -, mma⟩
  obtain ⟨t, y, n, next, here, -, -, kept, -, from_mark, -⟩ := mma thirdFailure oneStepMma overrunState overrunGroup _ mayIssue_overrun
    (by decide) (by decide +kernel) (fun _ _ => rfl)
  have left := overrun_parks_at_last_step
  rw [next] at left
  have at_last : y.mmaStep = some (oneStepMma, 0) := by simpa [here] using left
  have step : n = 0 := by simpa [at_last] using kept.symm
  have mark : startStep overrunGroup oneStepMma = 1 := by decide
  omega

end Sys2Proof.Machine

/-! SUPPORT. The rotation of a group's paths: which paths a branch, a yield or a turn's end leaves, and whose turn is next. It settles O18. -/

namespace Sys2Proof.Machine

/-! ### Lists of paths (R146) -/

theorem rotate_perm (ps : List Path) : (rotate ps).Perm ps := by
  unfold rotate
  split_ifs
  · exact List.perm_append_comm.trans (.of_eq List.takeWhile_append_dropWhile)
  · exact .refl _

@[simp] theorem mem_rotate {q : Path} {ps : List Path} : q ∈ rotate ps ↔ q ∈ ps := (rotate_perm ps).mem_iff

/-- Only paths that are not live change their place: the live ones keep their order. -/
theorem filter_isLive_rotate (ps : List Path) : (rotate ps).filter isLive = ps.filter isLive := by
  unfold rotate
  split_ifs
  · have none_live : (ps.takeWhile fun p => !isLive p).filter isLive = [] := by
      refine List.filter_eq_nil_iff.2 fun q hq => ?_
      simpa using List.mem_takeWhile_imp hq
    conv_rhs => rw [← List.takeWhile_append_dropWhile (p := fun p => !isLive p) (l := ps)]
    rw [List.filter_append, List.filter_append, none_live, List.append_nil, List.nil_append]
  · rfl

theorem activePath_eq_head? (g : Group) : activePath g = (g.paths.filter isLive).head? := List.head?_filter.symm

theorem activePath_mem {g : Group} {p : Path} (h : activePath g = some p) : p ∈ g.paths := List.mem_of_find?_eq_some h

theorem activePath_isLive {g : Group} {p : Path} (h : activePath g = some p) : isLive p = true := List.find?_some h

/-- A group that may issue is not parked, and the path that issues is its active one. -/
theorem issuing_group {s : State} {gid : Nat} {x : Group} {p : Path} (h : issuing s gid = some (x, p)) :
    x.park = none ∧ activePath x = some p := by
  unfold issuing at h
  split at h
  · cases h
  · next g _ =>
    split_ifs at h with blocked
    obtain ⟨q, active, pair⟩ := Option.map_eq_some_iff.1 h
    cases pair
    simp only [Bool.or_eq_true, not_or, Bool.not_eq_true, Option.isSome_eq_false_iff, Option.isNone_iff_eq_none] at blocked
    exact ⟨blocked.1.1.1.1, active⟩

/-! ### Turns -/

theorem passTurn_eq {g : Group} {p : Path} (h : activePath g = some p) :
    passTurn g = { g with paths := rotate (g.paths.erase p) ++ [p], turn := 0 } := by
  unfold passTurn
  rw [h]

theorem leaveTurn_eq {g : Group} {p : Path} (h : activePath g = some p) (f : Path → Path) :
    leaveTurn g f = { g with paths := rotate (g.paths.erase p) ++ [f p], turn := 0, steps := g.steps + 1 } := by
  unfold leaveTurn
  rw [h]

theorem setActive_eq {g : Group} {p : Path} (h : activePath g = some p) (q : Path) :
    setActive g q = { g with paths := g.paths.map fun x => if x == p then q else x } := by
  unfold setActive
  rw [h]

theorem advance_eq {g : Group} {p : Path} (h : activePath g = some p) :
    advance g = countTurn (setActive g { p with pc := p.pc + 8 }) := by
  unfold advance
  rw [h]

/-- A change of turn: the same paths, perhaps in another order. -/
structure Turned (g y : Group) : Prop where
  rest : y = { g with paths := y.paths, turn := y.turn }
  paths : y.paths.Perm g.paths

theorem Turned.refl (g : Group) : Turned g g := ⟨rfl, .refl _⟩

theorem Turned.trans {g y z : Group} (h : Turned g y) (k : Turned y z) : Turned g z :=
  ⟨by rw [k.rest, h.rest], k.paths.trans h.paths⟩

theorem turned_passTurn (g : Group) : Turned g (passTurn g) := by
  cases h : activePath g with
  | none => unfold passTurn; rw [h]; exact .refl g
  | some p =>
    rw [passTurn_eq h]
    refine ⟨rfl, ?_⟩
    exact ((rotate_perm _).append_right _).trans (List.perm_append_comm.trans (List.perm_cons_erase (activePath_mem h)).symm)

theorem turned_endTurn (g : Group) : Turned g (endTurn g) := by
  unfold endTurn
  split_ifs
  · exact turned_passTurn g
  · exact .refl g

/-- An issue step is counted, and Q of R146 may end the turn. -/
theorem turned_countTurn (g : Group) : Turned { g with steps := g.steps + 1 } (countTurn g) := by
  have counted : Turned { g with steps := g.steps + 1 } { g with turn := g.turn + 1, steps := g.steps + 1 } := ⟨rfl, .refl _⟩
  unfold countTurn
  dsimp only
  split_ifs
  · exact counted
  · exact counted.trans (turned_passTurn _)
  · exact counted

theorem mem_setActive {g : Group} {p : Path} (h : activePath g = some p) (q z : Path) :
    z ∈ (setActive g q).paths ↔ z = q ∨ (z ∈ g.paths ∧ z ≠ p) := by
  rw [setActive_eq h, List.mem_map]
  constructor
  · rintro ⟨a, ha, rfl⟩
    by_cases hap : a = p
    · simp [hap]
    · simp [hap, ha]
  · rintro (rfl | ⟨hz, hne⟩)
    · exact ⟨p, activePath_mem h, by simp⟩
    · exact ⟨z, hz, by simp [hne]⟩

/-! ### BRA (R143, R144) -/

theorem getLsbD_bit32 {d l : Nat} (hl : l < 32) : (bit32 d).getLsbD l = decide (d = l) := by
  rw [bit32, BitVec.getLsbD_ofNat, Nat.testBit_two_pow]
  simp [hl]

/-- The condition of a BRA in a thread (R143). -/
def branches (x : Group) (b : BraWord) (l : Nat) : Bool := b.alw || ((readReg x l b.rc == 0) == b.neg)

theorem getLsbD_takenMask (x : Group) (b : BraWord) (m : W32) {l : Nat} (hl : l < 32) :
    (takenMask x b m).getLsbD l = (m.getLsbD l && branches x b l) := by
  have fold : ∀ (ls : List Nat) (t : W32),
      (ls.foldl (fun t l => if branches x b l then t ||| bit32 l else t) t).getLsbD l =
        (t.getLsbD l || (decide (l ∈ ls) && branches x b l)) := by
    intro ls
    induction ls with
    | nil => intro t; simp
    | cons a ls ih =>
      intro t
      rw [List.foldl_cons, ih]
      by_cases hb : branches x b a = true
      · rw [if_pos hb, BitVec.getLsbD_or, getLsbD_bit32 hl]
        by_cases hal : a = l
        · subst hal; simp [hb]
        · simp [hal, Ne.symm hal]
      · rw [if_neg hb]
        by_cases hal : a = l
        · subst hal; simp [hb]
        · simp [Ne.symm hal]
  refine (fold (lanes m) 0).trans ?_
  simp [mem_lanes, hl]

/-- The group after a BRA that the threads of `t` take. -/
def branched (x : Group) (b : BraWord) (p : Path) (t : W32) : Group :=
  if t = 0 then advance x
  else if t = p.mask then
    let y := countTurn (setActive x { p with pc := pcPlus p.pc b.target })
    if b.target ≤ 0 && (activePath y).map (·.mask) == some p.mask then endTurn y else y
  else split x b p t

/-- A BRA that no thread of the path takes, or that all take, moves the path. -/
theorem branched_whole {x : Group} {b : BraWord} {p : Path} {t : W32} (h : activePath x = some p) (ht : t = 0 ∨ t = p.mask) :
    Turned { setActive x { p with pc := if t = 0 then p.pc + 8 else pcPlus p.pc b.target } with steps := x.steps + 1 }
      (branched x b p t) := by
  unfold branched
  by_cases none : t = 0
  · rw [if_pos none, if_pos none, advance_eq h]
    have counted := turned_countTurn (setActive x { p with pc := p.pc + 8 })
    rw [setActive_eq h] at counted ⊢
    exact counted
  · rw [if_neg none, if_neg none, if_pos (ht.resolve_left none)]
    have counted := turned_countTurn (setActive x { p with pc := pcPlus p.pc b.target })
    rw [setActive_eq h] at counted ⊢
    dsimp only
    split_ifs
    · exact counted.trans (turned_endTurn _)
    · exact counted

/-- The entries of both parts of a split (R144). -/
def splitEntries (x : Group) (b : BraWord) (p : Path) : List Nat := if opensEntry x b p then x.nextEntry :: p.entries else p.entries

/-- The convergence entries of the group after a split (R144). -/
def splitJoins (x : Group) (b : BraWord) (p : Path) : List ConvEntry :=
  if opensEntry x b p then x.entries ++ [{ id := x.nextEntry, joinPc := pcPlus p.pc b.join }] else x.entries

/-- The group after a split, before its step is counted. -/
def splitGroup (x : Group) (b : BraWord) (p : Path) (t : W32) : Group :=
  let y := setActive x { p with pc := p.pc + 8, mask := p.mask &&& ~~~t, entries := splitEntries x b p }
  { y with
    paths := y.paths ++ [{ pc := pcPlus p.pc b.target, mask := t, entries := splitEntries x b p }]
    entries := splitJoins x b p
    nextEntry := if opensEntry x b p then x.nextEntry + 1 else x.nextEntry }

theorem splitGroup_eq {x : Group} {p : Path} (h : activePath x = some p) (b : BraWord) (t : W32) :
    splitGroup x b p t = { x with
      paths := (splitGroup x b p t).paths
      entries := splitJoins x b p
      nextEntry := (splitGroup x b p t).nextEntry } := by
  unfold splitGroup
  rw [setActive_eq h]

theorem mem_splitGroup {x : Group} {p : Path} (h : activePath x = some p) (b : BraWord) (t : W32) (q : Path) :
    q ∈ (splitGroup x b p t).paths ↔ q = { p with pc := p.pc + 8, mask := p.mask &&& ~~~t, entries := splitEntries x b p } ∨
      q = { pc := pcPlus p.pc b.target, mask := t, entries := splitEntries x b p } ∨ (q ∈ x.paths ∧ q ≠ p) := by
  unfold splitGroup
  rw [List.mem_append, List.mem_singleton, mem_setActive h]
  tauto

/-- A BRA that some threads of the path take splits it. -/
theorem branched_part {x : Group} {b : BraWord} {p : Path} {t : W32} (hne : t ≠ 0) (hpart : t ≠ p.mask) :
    branched x b p t = countTurn (splitGroup x b p t) := by
  unfold branched
  rw [if_neg hne, if_neg hpart]
  rfl

/-- A BRA whose word breaks no rule, and which has an entry left where it opens one, is carried out. -/
theorem exec_bra_next {g : GRef} {w : W64} {s : State} {x : Group} {p : Path} (h : MayIssue s g x p)
    (hword : WordOk x w 0x01 [(15, 8), (16, 16), (17, 17), (41, 18), (57, 42)]
      (if (braWord w).alw then [] else [((braWord w).rc, 1)]) none)
    (hfree : (braWord w).alw = false → BlocksFree s g [((braWord w).rc, 1)])
    (hroom : opensEntry x (braWord w) p = true → x.entries.length < 16) :
    exec (.bra g w) s = .next (fetched s (gidOf g) x p (setGroup s (gidOf g)
      (some (branched x (braWord w) p (takenMask x (braWord w) p.mask))))) := by
  refine (onUnit_next _ _ _).2 ⟨h.unit, issue_acts h ?_ (firstFault_none (List.forall_mem_append.2
    ⟨wordFaults_none hword, List.forall_mem_singleton.2 ?_⟩))⟩
  · cases condition : (braWord w).alw
    · exact blocksFree_iff.2 (hfree condition)
    · rfl
  · cases opens : opensEntry x (braWord w) p
    · simp
    · simp [hroom opens]

/-! ### YIELD (R146) -/

/-- The group after a YIELD. -/
def yielded (x : Group) (p : Path) : Group :=
  let y := countTurn (setActive x { p with pc := p.pc + 8 })
  if (activePath y).map (·.mask) == some p.mask then endTurn y else y

theorem exec_yield_next {g : GRef} {w : W64} {s : State} {x : Group} {p : Path} (h : MayIssue s g x p) (hword : WordOk x w 0x05 [] [] none) :
    exec (.yield g w) s = .next (fetched s (gidOf g) x p (setGroup s (gidOf g) (some (yielded x p)))) :=
  (onUnit_next _ _ _).2 ⟨h.unit, issue_acts h rfl (firstFault_none (wordFaults_none hword))⟩

theorem liveCount_eq (g : Group) : liveCount g = (g.paths.filter isLive).length := rfl

/-- After the active path has left, the next live path of the rotation is the active one. -/
theorem activePath_passTurn {g : Group} {p q : Path} {l : List Path} (h : g.paths.filter isLive = p :: q :: l) :
    activePath (passTurn g) = some q := by
  have active : activePath g = some p := by rw [activePath_eq_head?, h]; rfl
  rw [passTurn_eq active, activePath_eq_head?, List.filter_append, filter_isLive_rotate, ← List.erase_filter, h, List.erase_cons_head]
  rfl

theorem isLive_withPc (p : Path) (pc : Nat) : isLive { p with pc } = isLive p := rfl

/-- The live paths after the active one has moved on. -/
theorem filter_setActive {x : Group} {p q p' : Path} {l : List Path} (h : x.paths.filter isLive = p :: q :: l) (hq : q ≠ p)
    (hlive : isLive p' = true) :
    ∃ l', (setActive x p').paths.filter isLive = p' :: q :: l' := by
  have active : activePath x = some p := by rw [activePath_eq_head?, h]; rfl
  have same : isLive ∘ (fun z => if z == p then p' else z) = isLive := by
    funext z
    by_cases hz : z = p
    · simp [hz, hlive, activePath_isLive active]
    · simp [hz]
  rw [setActive_eq active, List.filter_map, same, h]
  exact ⟨l.map fun z => if z == p then p' else z, by simp [hq]⟩

theorem passTurn_turn {g : Group} {p q : Path} {l : List Path} (h : g.paths.filter isLive = p :: q :: l) : (passTurn g).turn = 0 := by
  rw [passTurn_eq (by rw [activePath_eq_head?, h]; rfl)]

theorem endTurn_of_two_live {g : Group} {p q : Path} {l : List Path} (h : g.paths.filter isLive = p :: q :: l) (hpark : g.park = none) :
    endTurn g = passTurn g := by
  unfold endTurn
  rw [liveCount_eq, h, hpark]
  simp

/-- A group whose active path has taken one more issue step. -/
def stepCounted (g : Group) : Group := { g with turn := g.turn + 1, steps := g.steps + 1 }

theorem countTurn_of_two_live {g : Group} {p q : Path} {l : List Path} (h : g.paths.filter isLive = p :: q :: l) :
    countTurn g = passTurn (stepCounted g) ∨ countTurn g = stepCounted g := by
  unfold countTurn
  rw [liveCount_eq, h, if_neg (by simp)]
  exact ite_eq_or_eq _ _ _

/-- YIELD passes the turn to the next live path, whether Q has just ended the turn or not. -/
theorem yielded_eq {x : Group} {p q : Path} {l : List Path} (h : x.paths.filter isLive = p :: q :: l) (hq : q.mask ≠ p.mask)
    (hpark : x.park = none) : yielded x p = passTurn (stepCounted (setActive x { p with pc := p.pc + 8 })) := by
  have active : activePath x = some p := by rw [activePath_eq_head?, h]; rfl
  obtain ⟨l', paths⟩ := filter_setActive h (fun e => hq (by rw [e])) ((isLive_withPc p (p.pc + 8)).trans (activePath_isLive active))
  have unparked : (setActive x { p with pc := p.pc + 8 }).park = none := by rw [setActive_eq active]; exact hpark
  unfold yielded
  rcases countTurn_of_two_live paths with passed | counted
  · have next : activePath (passTurn (stepCounted (setActive x { p with pc := p.pc + 8 }))) = some q := activePath_passTurn paths
    rw [passed]
    dsimp only
    rw [next, if_neg (by simpa using hq)]
  · have same : activePath (stepCounted (setActive x { p with pc := p.pc + 8 })) = some { p with pc := p.pc + 8 } := by
      rw [activePath_eq_head?]
      exact congrArg List.head? paths
    rw [counted]
    dsimp only
    rw [same, if_pos (by simp)]
    exact endTurn_of_two_live paths unparked

/-! ### The obligation -/

/-- Settles O18: a branch moves or splits the path, and a YIELD passes the turn. -/
theorem branchAndYield : Obligations.BranchAndYield := by
  unfold Obligations.BranchAndYield
  refine ⟨fun g w s x p b t h hb ht hword hfree hroom => ?_, fun g w s x p q l h hword hlive hq => ?_⟩
  · subst hb
    obtain ⟨-, active⟩ := issuing_group h.active
    refine ⟨fun l hl => by rw [ht]; exact getLsbD_takenMask x _ _ hl, branched x (braWord w) p t, ?_, ?_, ?_, ?_⟩
    · rw [ht]; exact exec_bra_next h hword hfree hroom
    · by_cases part : t = 0 ∨ t = p.mask
      · have turned := (branched_whole (b := braWord w) active part).rest
        rw [setActive_eq active] at turned
        rw [turned]
      · obtain ⟨hne, hpart⟩ := not_or.1 part
        have turned := (turned_countTurn (splitGroup x (braWord w) p t)).rest
        rw [branched_part hne hpart, turned, splitGroup_eq active]
    · intro whole
      have turned := branched_whole (b := braWord w) active whole
      have rest := turned.rest
      rw [setActive_eq active] at rest
      refine ⟨by rw [rest], by rw [rest], fun z => ?_⟩
      rw [turned.paths.mem_iff]
      exact mem_setActive active _ _
    · intro hne hpart
      have turned := turned_countTurn (splitGroup x (braWord w) p t)
      refine ⟨splitEntries x (braWord w) p, rfl, ?_, fun z => ?_⟩
      · rw [branched_part hne hpart, turned.rest]; rfl
      · rw [branched_part hne hpart, turned.paths.mem_iff]
        exact mem_splitGroup active _ _ _
  · obtain ⟨hpark, active⟩ := issuing_group h.active
    have passed := yielded_eq hlive hq hpark
    obtain ⟨l', paths⟩ := filter_setActive hlive (fun e => hq (by rw [e])) ((isLive_withPc p (p.pc + 8)).trans (activePath_isLive active))
    refine ⟨yielded x p, exec_yield_next h hword, ?_, ?_, fun z => ?_⟩
    · rw [passed, (turned_passTurn _).rest, (passTurn_turn paths : (passTurn (stepCounted _)).turn = 0), setActive_eq active]
      rfl
    · rw [passed]; exact activePath_passTurn paths
    · rw [passed, (turned_passTurn _).paths.mem_iff]
      exact mem_setActive active _ _

end Sys2Proof.Machine

/-! SUPPORT. Paths that stop at a JOIN or a barrier, and groups whose paths have all exited. It settles O19. -/

namespace Sys2Proof.Machine

/-! ### JOIN, BAR.T and EXIT (R145, R149, R344, R348) -/

section
variable {g : GRef} {w : W64} {s : State} {x : Group} {p : Path} (h : MayIssue s g x p)
include h

/-- The group once its active path has stopped in a state of R146. -/
def stopped (x : Group) (p : Path) (st : PathState) : Group :=
  { x with paths := rotate (x.paths.erase p) ++ [{ p with st }], turn := 0, steps := x.steps + 1 }

theorem leaveTurn_stops (st : PathState) : leaveTurn x (fun q => { q with st }) = stopped x p st :=
  leaveTurn_eq (issuing_group h.active).2 _

theorem exec_join_waits (hword : WordOk x w 0x02 [] [] none) (hjoin : (p.entries.head?.bind fun id => joinPcOf x id) = some p.pc) :
    exec (.join g w) s =
      .next (fetched s (gidOf g) x p (scoreboard (setGroup s (gidOf g) (some (stopped x p .atJoin))) (gidOf g))) := by
  rw [← leaveTurn_stops h]
  refine (onUnit_next _ _ _).2 ⟨h.unit, (issue_acts h rfl (firstFault_none (List.forall_mem_append.2
    ⟨wordFaults_none hword, List.forall_mem_singleton.2 ?_⟩))).trans ?_⟩
  · simp [hjoin]
  · exact congrArg (fetched s (gidOf g) x p) (if_pos hjoin)

theorem exec_join_passes (hword : WordOk x w 0x02 [] [] none) (hjoin : ∀ id ∈ p.entries, joinPcOf x id ≠ some p.pc) :
    exec (.join g w) s = .next (fetched s (gidOf g) x p (retire s (gidOf g) x)) := by
  have inner : (p.entries.head?.bind fun id => joinPcOf x id) ≠ some p.pc := by
    intro e
    obtain ⟨id, hid, at_pc⟩ := Option.bind_eq_some_iff.1 e
    exact hjoin id (List.mem_of_mem_head? hid) at_pc
  refine (onUnit_next _ _ _).2 ⟨h.unit, (issue_acts h rfl (firstFault_none (List.forall_mem_append.2
    ⟨wordFaults_none hword, List.forall_mem_singleton.2 ?_⟩))).trans ?_⟩
  · simpa using fun _ => hjoin
  · exact congrArg (fetched s (gidOf g) x p) (if_neg inner)

theorem exec_barT_next (hword : WordOk x w 0x03 [(11, 8)] [] none) (hfence : x.fence = none) :
    exec (.barT g w) s = .next (fetched s (gidOf g) x p (completeIfIdle (startFence
      (setGroup s (gidOf g) (some (stopped x p (.arriving (bits w 11 8))))) (gidOf g) true 0 true) (gidOf g))) := by
  rw [← leaveTurn_stops h]
  exact (onUnit_next _ _ _).2 ⟨h.unit, issue_acts h (by rw [fenceFree, hfence]; rfl) (firstFault_none (wordFaults_none hword))⟩

/-- The group once the threads of its active path have exited. -/
def pathExited (x : Group) (p : Path) : Group :=
  { x with paths := rotate (x.paths.erase p), exited := x.exited ||| p.mask, turn := 0, steps := x.steps + 1 }

theorem exec_exit_next (hword : WordOk x w 0x04 [] [] none) (hready : (fenceFree x || decide (2 ≤ x.paths.length)) = true) :
    exec (.exit g w) s = .next (fetched s (gidOf g) x p
      (if (rotate (x.paths.erase p)).isEmpty then
        completeIfIdle (startFence (scoreboard (setGroup s (gidOf g) (some (pathExited x p))) (gidOf g)) (gidOf g) true 3 false) (gidOf g)
      else scoreboard (setGroup s (gidOf g) (some (pathExited x p))) (gidOf g))) :=
  (onUnit_next _ _ _).2 ⟨h.unit, issue_acts h hready (firstFault_none (wordFaults_none hword))⟩

end

theorem isEmpty_rotate (ps : List Path) : (rotate ps).isEmpty = ps.isEmpty := by
  rw [Bool.eq_iff_iff, List.isEmpty_iff_length_eq_zero, List.isEmpty_iff_length_eq_zero, (rotate_perm ps).length_eq]

/-! ### Paths that wait at one JOIN become one (R145) -/

theorem waitsAt_iff {id : Nat} {p : Path} : waitsAt id p = true ↔ p.st = .atJoin ∧ p.entries.head? = some id := by
  simp [waitsAt]

theorem getLsbD_foldl_or (ps : List Path) (m : W32) (l : Nat) :
    (ps.foldl (fun m p => m ||| p.mask) m).getLsbD l = true ↔ m.getLsbD l = true ∨ ∃ p ∈ ps, p.mask.getLsbD l = true := by
  induction ps generalizing m with
  | nil => simp
  | cons a ps ih =>
    rw [List.foldl_cons, ih, BitVec.getLsbD_or, Bool.or_eq_true]
    simp only [List.mem_cons, exists_eq_or_imp, or_assoc]

/-- The path that the paths of `sel` become, from the earliest of them. -/
def mergedPath (g : Group) (sel : Path → Bool) (first : Path) : Path :=
  { first with
    mask := (g.paths.filter sel).foldl (fun m p => m ||| p.mask) 0
    entries := ((g.paths.filter sel).flatMap (·.entries)).eraseDups }

theorem mergePaths_eq {g : Group} {sel : Path → Bool} {first : Path} (h : g.paths.find? sel = some first) (f : Path → Path) :
    mergePaths g sel f = { g with paths := (mergePaths g sel f).paths } := by
  unfold mergePaths
  rw [h]

/-- The paths that `sel` picks are gone; the merged one and the others are there. -/
theorem mem_mergePaths {g : Group} {sel : Path → Bool} {first : Path} (h : g.paths.find? sel = some first) (f : Path → Path) (q : Path) :
    q ∈ (mergePaths g sel f).paths ↔ q = f (mergedPath g sel first) ∨ (q ∈ g.paths ∧ sel q = false) := by
  have picked : sel first = true := List.find?_some h
  have here : first ∈ g.paths := List.mem_of_find?_eq_some h
  have paths : (mergePaths g sel f).paths =
      (g.paths.map fun p => if p == first then f (mergedPath g sel first) else p).filter fun p => p == f (mergedPath g sel first) || !sel p := by
    unfold mergePaths
    rw [h]
    rfl
  rw [paths, List.mem_filter, List.mem_map]
  generalize f (mergedPath g sel first) = m
  simp only [Bool.or_eq_true, beq_iff_eq, Bool.not_eq_true']
  constructor
  · rintro ⟨⟨a, ha, rfl⟩, kept⟩
    by_cases e : a = first
    · exact .inl (if_pos e)
    · rw [if_neg e] at kept ⊢
      exact kept.imp_right fun k => ⟨ha, k⟩
  · rintro (rfl | ⟨hq, out⟩)
    · exact ⟨⟨first, here, if_pos rfl⟩, .inl rfl⟩
    · refine ⟨⟨q, hq, if_neg ?_⟩, .inr out⟩
      rintro rfl
      rw [picked] at out
      cases out

/-- Does every path that belongs to an entry wait at its JOIN, and is there one? -/
def joinComplete (g : Group) (e : ConvEntry) : Bool :=
  let mine := g.paths.filter fun p => p.entries.contains e.id
  !mine.isEmpty && mine.all (waitsAt e.id)

/-- At a complete JOIN, the paths of the entry are those that wait there. -/
theorem waitsAt_iff_of_joinComplete {g : Group} {e : ConvEntry} (h : joinComplete g e = true) {p : Path} (hp : p ∈ g.paths) :
    waitsAt e.id p = true ↔ e.id ∈ p.entries := by
  unfold joinComplete at h
  simp only [Bool.and_eq_true, List.all_eq_true, List.mem_filter, List.contains_iff_mem] at h
  exact ⟨fun w => List.mem_of_mem_head? (waitsAt_iff.1 w).2, fun m => h.2 p ⟨hp, m⟩⟩

theorem exists_waits_of_joinComplete {g : Group} {e : ConvEntry} (h : joinComplete g e = true) :
    ∃ first, g.paths.find? (waitsAt e.id) = some first := by
  have some_path : ∃ p ∈ g.paths, e.id ∈ p.entries := by
    unfold joinComplete at h
    simp only [Bool.and_eq_true, Bool.not_eq_true', List.isEmpty_eq_false_iff_exists_mem, List.mem_filter, List.contains_iff_mem] at h
    exact h.1
  obtain ⟨p, hp, he⟩ := some_path
  exact Option.isSome_iff_exists.1 (List.find?_isSome.2 ⟨p, hp, (waitsAt_iff_of_joinComplete h hp).2 he⟩)

/-- What a merged path does after the JOIN of an entry. -/
def afterJoin (id : Nat) (p : Path) : Path := { p with st := .live, pc := p.pc + 8, entries := p.entries.filter (· != id) }

theorem closeJoins_step {g : Group} {e : ConvEntry} (k : Nat) (h : g.entries.find? (joinComplete g) = some e) :
    closeJoins (k + 1) g =
      closeJoins k { mergePaths g (waitsAt e.id) (afterJoin e.id) with entries := g.entries.filter fun x => x.id != e.id } := by
  obtain ⟨first, found⟩ := exists_waits_of_joinComplete (List.find?_some h)
  rw [closeJoins]
  unfold joinComplete at h
  rw [h]
  dsimp only
  change closeJoins k { mergePaths g (waitsAt e.id) (afterJoin e.id) with
    entries := (mergePaths g (waitsAt e.id) (afterJoin e.id)).entries.filter fun x => x.id != e.id } = _
  rw [mergePaths_eq found]

/-- Settles O19: JOIN, BAR.T and EXIT stop the path, and paths that wait at one JOIN become one. -/
theorem joinBarrierExit : Obligations.JoinBarrierExit := by
  unfold Obligations.JoinBarrierExit
  refine ⟨fun g w s x p h => ⟨fun hword => ⟨exec_join_waits h hword, exec_join_passes h hword⟩, exec_barT_next h, fun hword y hy => ?_⟩,
    fun x e k hfind => ?_⟩
  · subst hy
    obtain ⟨-, active⟩ := issuing_group h.active
    refine ⟨fun two => ?_, fun last hfence => ?_⟩
    · have others : (rotate (x.paths.erase p)).isEmpty = false := by
        have := List.length_erase_of_mem (activePath_mem active)
        rw [isEmpty_rotate, List.isEmpty_eq_false_iff, ← List.length_pos_iff]
        omega
      have next := exec_exit_next h hword (by simp [two])
      rw [others, if_neg Bool.false_ne_true] at next
      exact next
    · have none_left : (rotate (x.paths.erase p)).isEmpty = true := by simp [isEmpty_rotate, last]
      have next := exec_exit_next h hword (by simp [fenceFree, hfence])
      rw [none_left, if_pos rfl] at next
      exact next
  · have complete : joinComplete x e = true := List.find?_some hfind
    obtain ⟨first, found⟩ := exists_waits_of_joinComplete complete
    refine ⟨afterJoin e.id (mergedPath x (waitsAt e.id) first), _, closeJoins_step k hfind, rfl, by simp [afterJoin], fun l _ => ?_,
      ⟨first, List.mem_of_find?_eq_some found, ?_, rfl⟩, mem_mergePaths found _, rfl, by rw [mergePaths_eq found]⟩
    · refine (getLsbD_foldl_or _ _ _).trans ?_
      simp only [List.mem_filter, and_assoc, show (0 : W32).getLsbD l = false from BitVec.getLsbD_zero, Bool.false_eq_true, false_or]
      exact exists_congr fun q => and_congr_right fun hq => by rw [waitsAt_iff_of_joinComplete complete hq]
    · exact (waitsAt_iff_of_joinComplete complete (List.mem_of_find?_eq_some found)).1 (List.find?_some found)

end Sys2Proof.Machine

/-! SUPPORT. What a store to memory by an agent of the IOD leaves as it is: groups, accesses, clusters, tasks, partitions. -/

namespace Sys2Proof.Machine

/-- The state without what a store to memory may change: memory and its marks, channels, slices, crushers, the counters of the
device, and what is sent. -/
def offMemory (s : State) : State := { s with mem := [], poison := [], chans := [], slices := [], crushers := [], dev := {}, out := [] }

/-! ### Slices and channels -/

@[simp] theorem offMemory_emit (s : State) (o : Out) : offMemory (emit s o) = offMemory s := rfl
@[simp] theorem offMemory_modSlice (s : State) (i : Nat) (f : Slice → Slice) : offMemory (modSlice s i f) = offMemory s := rfl
@[simp] theorem offMemory_modCrusher (s : State) (i : Nat) (f : Crusher → Crusher) : offMemory (modCrusher s i f) = offMemory s := rfl
@[simp] theorem offMemory_modChan (s : State) (i : Nat) (f : Chan → Chan) : offMemory (modChan s i f) = offMemory s := rfl

theorem offMemory_foldl {β : Type} {f : State → β → State} (h : ∀ s b, offMemory (f s b) = offMemory s) (l : List β) (s : State) :
    offMemory (l.foldl f s) = offMemory s := by
  induction l generalizing s with
  | nil => rfl
  | cons b l ih => exact (ih _).trans (h s b)

@[simp] theorem offMemory_activate (s : State) (pa : Nat) : offMemory (activate s pa) = offMemory s := by
  unfold activate
  split
  · rfl
  · dsimp only
    split_ifs <;> rfl

@[simp] theorem offMemory_memStore (s : State) (line : Nat) (be : BitVec 128) (whole : BitVec 4) (d : Line) (p : W32) :
    offMemory (memStore s line be whole d p) = offMemory s := offMemory_activate s (128 * line)

@[simp] theorem offMemory_memStoreLine (s : State) (line : Nat) (mask : BitVec 4) (d : Line) (p : W32) :
    offMemory (memStoreLine s line mask d p) = offMemory s := offMemory_memStore ..

@[simp] theorem offMemory_memStoreBytes (s : State) (line : Nat) (be : BitVec 128) (d : Line) (p : W32) :
    offMemory (memStoreBytes s line be d p) = offMemory s := offMemory_memStore ..

@[simp] theorem offMemory_sendData (s : State) (name : String) (dest line : Nat) (v : Line) (sectors : BitVec 4) (p : W32) :
    offMemory (sendData s name dest line v sectors p) = offMemory s := by
  unfold sendData
  split_ifs <;> rfl

@[simp] theorem offMemory_evictLine (s : State) (sid : Nat) (c : CLine) : offMemory (evictLine s sid c) = offMemory s := by
  unfold evictLine
  dsimp only
  split_ifs <;> rfl

theorem offMemory_makeRoom {s t : State} {sid set slots k : Nat} (h : makeRoom sid set slots k s = some t) : offMemory t = offMemory s := by
  induction k generalizing s with
  | zero => cases h
  | succ k ih =>
    simp only [makeRoom] at h
    split at h
    · cases h; rfl
    · split at h
      · cases h
      · split at h
        · cases h
        · exact (ih h).trans (offMemory_evictLine ..)

theorem offMemory_placeLine {s t : State} {sid : Nat} {c : CLine} (h : placeLine s sid c = some t) : offMemory t = offMemory s := by
  unfold placeLine at h
  extract_lets slice placed emptied at h
  split at h
  · cases h
  · split at h
    · cases h
    · next room => cases h; exact (offMemory_modSlice ..).trans ((offMemory_makeRoom room).trans (offMemory_modSlice ..))

@[simp] theorem offMemory_loseLine (s : State) (sid line : Nat) : offMemory (loseLine s sid line) = offMemory s := rfl

@[simp] theorem offMemory_writeSpoilOut (s : State) (i : Nat) : offMemory (writeSpoilOut s i) = offMemory s := by
  unfold writeSpoilOut
  split
  · rfl
  · split_ifs <;> simp

@[simp] theorem offMemory_drainSpoil (i k : Nat) (s : State) : offMemory (drainSpoil i k s) = offMemory s := by
  induction k generalizing s with
  | zero => rfl
  | succ k ih =>
    unfold drainSpoil
    split_ifs
    · rfl
    · simp [ih]

/-! ### Stores at the home -/

@[simp] theorem offMemory_putHome (s : State) (h : Nat) (c : CLine) : offMemory (putHome s h c) = offMemory s := by
  have room : offMemory (if (sliceOf s h).enabled then drainSpoil h 64 s else s) = offMemory s := by split_ifs <;> simp
  unfold putHome
  dsimp only
  split
  · next t placed =>
    cases direct : placeLine s h c with
    | some u => rw [direct] at placed; cases placed; exact offMemory_placeLine direct
    | none => rw [direct] at placed; exact (offMemory_placeLine placed).trans room
  · simpa using room

@[simp] theorem offMemory_homeStore (s : State) (h line : Nat) (be : BitVec 128) (d : Line) (p : W32) (attr : Nat) :
    offMemory (homeStore s h line be d p attr) = offMemory s := by
  unfold homeStore
  dsimp only
  split
  · simp
  · split
    · split_ifs <;> simp
    · split_ifs <;> simp

/-! ### Crushers -/

@[simp] theorem offMemory_spillLine (s : State) (h : Nat) (v : OpenLine) : offMemory (spillLine s h v) = offMemory s := rfl

@[simp] theorem offMemory_spillFor (h need k : Nat) (s : State) : offMemory (spillFor h need k s) = offMemory s := by
  induction k generalizing s with
  | zero => rfl
  | succ k ih =>
    simp only [spillFor]
    split_ifs
    · rfl
    · split
      · rfl
      · simp [ih]

@[simp] theorem offMemory_backLine (s : State) (h line : Nat) : offMemory (backLine s h line) = offMemory s := by
  unfold backLine
  split
  · rfl
  · split_ifs <;> simp

@[simp] theorem offMemory_closeOpen (s : State) (h line : Nat) : offMemory (closeOpen s h line) = offMemory s := by
  unfold closeOpen
  dsimp only
  split
  · simp
  · split_ifs <;> simp

@[simp] theorem offMemory_settle (s : State) (line : Nat) : offMemory (settle s line) = offMemory s := by
  unfold settle
  split <;> simp

/-! ### Coherent writes -/

@[simp] theorem offMemory_dropProxies (s : State) (line : Nat) : offMemory (dropProxies s line) = offMemory s := by
  have copies : offMemory ((proxies s.variant line).foldl (fun s p =>
      modSlice (loseLine s p line) p fun sl => { sl with spoil := dropWhere (fun e => e.line == line) sl.spoil }) s) = offMemory s :=
    offMemory_foldl (fun t p => (offMemory_modSlice (loseLine t p line) p _).trans (offMemory_loseLine ..)) _ _
  unfold dropProxies
  dsimp only
  split
  · exact copies
  · exact copies

@[simp] theorem offMemory_coherentWrite (s : State) (line : Nat) (be : BitVec 128) (d : Line) (p : W32) (attr : Nat) :
    offMemory (coherentWrite s line be d p attr) = offMemory s := by
  unfold coherentWrite
  dsimp only
  split
  · simp
  · split_ifs <;> simp

@[simp] theorem offMemory_writePhys (s : State) (pa : Nat) (bs : List Byte) (attr : Nat) : offMemory (writePhys s pa bs attr) = offMemory s := by
  unfold writePhys
  split
  · rfl
  · exact offMemory_foldl (fun _ _ => offMemory_coherentWrite ..) _ _

@[simp] theorem offMemory_agentWrite (s : State) (p pa : Nat) (bs : List Byte) : offMemory (agentWrite s p pa bs) = offMemory s := by
  refine offMemory_foldl (fun t i => ?_) _ _
  dsimp only
  split_ifs <;> simp

@[simp] theorem offMemory_clearRecord (s : State) (p : Nat) (c : Ctx) (number : Nat) :
    offMemory (clearRecord s p c number) = offMemory s := by
  unfold clearRecord
  split <;> simp

/-! ### Parts of the state that such a store leaves -/

section
variable {s t : State} (h : offMemory t = offMemory s)
include h

theorem groups_of_offMemory : t.groups = s.groups := (congrArg State.groups h : (offMemory t).groups = (offMemory s).groups)
theorem clusters_of_offMemory : t.clusters = s.clusters := (congrArg State.clusters h : (offMemory t).clusters = (offMemory s).clusters)
theorem accs_of_offMemory : t.accs = s.accs := (congrArg State.accs h : (offMemory t).accs = (offMemory s).accs)
theorem tasks_of_offMemory : t.tasks = s.tasks := (congrArg State.tasks h : (offMemory t).tasks = (offMemory s).tasks)

end

end Sys2Proof.Machine

/-! SUPPORT. What parking a group leaves: the group but for its mark, the other groups, the clusters. Which groups of a split team end up
parked. It settles O20. -/

namespace Sys2Proof.Machine

/-! ### Events (R392 to R394) -/

/-- The state without what posting an event may change: partitions, queue pairs, and what is sent. -/
def offEvents (s : State) : State := { s with parts := [], qps := [], out := [] }

@[simp] theorem offEvents_pumpQp (s : State) (q : Nat) : offEvents (pumpQp s q) = offEvents s := by
  unfold pumpQp
  dsimp only
  split_ifs <;> rfl

@[simp] theorem offEvents_postRequest (s : State) (q : Nat) (r : QpReq) : offEvents (postRequest s q r) = offEvents s :=
  offEvents_pumpQp _ q

@[simp] theorem offEvents_deliverEvent (s : State) (p : Nat) (e : List Byte) : offEvents (deliverEvent s p e) = offEvents s :=
  offEvents_postRequest _ _ _

@[simp] theorem offEvents_postEvent (s : State) (p : Nat) (e : List Byte) : offEvents (postEvent s p e) = offEvents s := by
  unfold postEvent
  dsimp only
  split_ifs
  · rfl
  · rfl
  · exact offEvents_deliverEvent s p e

section
variable {s t : State} (h : offEvents t = offEvents s)
include h

theorem groups_of_offEvents : t.groups = s.groups := (congrArg State.groups h : (offEvents t).groups = (offEvents s).groups)
theorem clusters_of_offEvents : t.clusters = s.clusters := (congrArg State.clusters h : (offEvents t).clusters = (offEvents s).clusters)
theorem tasks_of_offEvents : t.tasks = s.tasks := (congrArg State.tasks h : (offEvents t).tasks = (offEvents s).tasks)

end

/-! ### Parking (R157, R158) -/

theorem group_eq_of_groups {s t : State} (h : t.groups = s.groups) (i : Nat) : group t i = group s i :=
  congrArg (fun m => look none m i) h

theorem cluster_eq_of_clusters {s t : State} (h : t.clusters = s.clusters) (c : Nat) : cluster t c = cluster s c :=
  congrArg (fun m => look ({} : Cluster) m c) h

/-- What parking and posting events leave of the state beside the groups: the clusters and the tasks. -/
structure OnlyGroups (s t : State) : Prop where
  clusters : t.clusters = s.clusters
  tasks : t.tasks = s.tasks

theorem OnlyGroups.refl (s : State) : OnlyGroups s s := ⟨rfl, rfl⟩

/-- The park record is written to a free entry of the context's park area, where there is one. -/
def recorded (s : State) (p : Nat) (c : Ctx) (record : List Byte) : State :=
  match freeEntry s c with
  | some i => agentWrite s p (c.parkBase + 64 * i) record
  | none => s

theorem offMemory_recorded (s : State) (p : Nat) (c : Ctx) (record : List Byte) : offMemory (recorded s p c record) = offMemory s := by
  unfold recorded
  split <;> simp

theorem posted_recorded (s : State) (p : Nat) (c : Ctx) (record : List Byte) (p' : Nat) (e : List Byte) :
    (postEvent (recorded s p c record) p' e).groups = s.groups ∧ OnlyGroups s (postEvent (recorded s p c record) p' e) := by
  have posted := offEvents_postEvent (recorded s p c record) p' e
  have written := offMemory_recorded s p c record
  exact ⟨(groups_of_offEvents posted).trans (groups_of_offMemory written),
    (clusters_of_offEvents posted).trans (clusters_of_offMemory written),
    (tasks_of_offEvents posted).trans (tasks_of_offMemory written)⟩

/-- Beside the group's mark, parking writes the record, counts the park and posts the event. -/
theorem parkGroup_parks {s : State} {gid : Nat} {x : Group} (k : Park) (h : group s gid = some x) (hpark : x.park = none) :
    ∃ k' : Park, k'.code = k.code ∧ (parkGroup s gid k).groups = (setGroup s gid (some { x with park := some k' })).groups ∧
      OnlyGroups s (parkGroup s gid k) := by
  unfold parkGroup
  rw [h]
  dsimp only
  rw [hpark, if_neg (by simp)]
  split
  · exact ⟨k, rfl, rfl, rfl, rfl⟩
  · next c _ =>
    obtain ⟨groups, rest⟩ := posted_recorded (setCtx (setGroup s gid (some { x with park := some { k with number := c.nextPark } })) x.part x.ctx
      (some { c with nextPark := c.nextPark + 1 })) x.part c (parkRecord s gid x { k with number := c.nextPark }) x.part _
    exact ⟨{ k with number := c.nextPark }, rfl, groups, rest.clusters, rest.tasks⟩

theorem parkGroup_of_parked {s : State} {gid : Nat} {x : Group} (k : Park) (h : group s gid = some x) (hpark : x.park ≠ none) :
    parkGroup s gid k = s := by
  unfold parkGroup
  rw [h]
  exact if_pos (Option.isSome_iff_ne_none.2 hpark)

/-! ### Parked groups of a team (R150, R151, R158) -/

/-- Parking marks one group; it and the others keep the rest. -/
theorem parkBarrier_of_unparked {s : State} {gid : Nat} {x : Group} (code : Nat) (h : group s gid = some x) (hpark : x.park = none) :
    ∃ k, k.code = BitVec.ofNat 8 code ∧ (∀ i, group (parkBarrier s gid code) i = if i = gid then some { x with park := some k } else group s i) ∧
      OnlyGroups s (parkBarrier s gid code) := by
  unfold parkBarrier
  rw [h]
  obtain ⟨k, hcode, groups, rest⟩ := parkGroup_parks _ h hpark
  exact ⟨k, hcode, fun i => (group_eq_of_groups groups i).trans (group_setGroup ..), rest⟩

theorem parkBarrier_of_parked {s : State} {gid : Nat} {x : Group} (code : Nat) (h : group s gid = some x) (hpark : x.park ≠ none) :
    parkBarrier s gid code = s := by
  unfold parkBarrier
  rw [h]
  exact parkGroup_of_parked _ h hpark

theorem parkBarrier_of_absent {s : State} {gid : Nat} (code : Nat) (h : group s gid = none) : parkBarrier s gid code = s := by
  unfold parkBarrier
  rw [h]

/-- A group that is parked stays parked as it is. -/
theorem parkBarrier_keeps_parked {s : State} (j code : Nat) {i : Nat} {x : Group} (h : group s i = some x) (hpark : x.park ≠ none) :
    group (parkBarrier s j code) i = some x := by
  cases hj : group s j with
  | none => rw [parkBarrier_of_absent code hj, h]
  | some z =>
    by_cases marked : z.park = none
    · obtain ⟨k, -, groups, -⟩ := parkBarrier_of_unparked code hj marked
      have ne : i ≠ j := by rintro rfl; rw [h] at hj; cases hj; exact hpark marked
      rw [groups, if_neg ne, h]
    · rw [parkBarrier_of_parked code hj marked, h]

theorem parkBarrier_other {s : State} {j i : Nat} (code : Nat) (h : i ≠ j) : group (parkBarrier s j code) i = group s i := by
  cases hj : group s j with
  | none => rw [parkBarrier_of_absent code hj]
  | some z =>
    by_cases marked : z.park = none
    · obtain ⟨k, -, groups, -⟩ := parkBarrier_of_unparked code hj marked
      rw [groups, if_neg h]
    · rw [parkBarrier_of_parked code hj marked]

/-- Parking a list of groups one after the other. -/
def parkAll (code : Nat) (l : List Nat) (s : State) : State := l.foldl (fun s i => parkBarrier s i code) s

theorem parkAll_keeps_parked {code i : Nat} {x : Group} (hpark : x.park ≠ none) (l : List Nat) {s : State} (h : group s i = some x) :
    group (parkAll code l s) i = some x := by
  induction l generalizing s with
  | nil => exact h
  | cons j l ih => exact ih (parkBarrier_keeps_parked j code h hpark)

/-- Every group of the list that is not parked already is parked with the code. -/
theorem parkAll_parks {code i : Nat} {x : Group} (hpark : x.park = none) {l : List Nat} (hi : i ∈ l) {s : State} (h : group s i = some x) :
    ∃ y k, group (parkAll code l s) i = some y ∧ y.park = some k ∧ k.code = BitVec.ofNat 8 code := by
  induction l generalizing s with
  | nil => cases hi
  | cons j l ih =>
    by_cases hj : i = j
    · subst hj
      obtain ⟨k, hcode, groups, -⟩ := parkBarrier_of_unparked code h hpark
      exact ⟨_, k, parkAll_keeps_parked (by simp) l ((groups i).trans (if_pos rfl)), rfl, hcode⟩
    · exact ih ((List.mem_cons.1 hi).resolve_left hj) ((parkBarrier_other code hj).trans h)

/-! ### What a team waits for depends on its paths -/

/-- The same groups with the same paths, in the same teams. -/
structure SamePaths (s t : State) : Prop where
  clusters : t.clusters = s.clusters
  groups : ∀ i, (group t i).map (fun g => (g.task, g.team, g.paths)) = (group s i).map fun g => (g.task, g.team, g.paths)

theorem SamePaths.refl (s : State) : SamePaths s s := ⟨rfl, fun _ => rfl⟩

theorem SamePaths.trans {s t u : State} (h : SamePaths s t) (k : SamePaths t u) : SamePaths s u :=
  ⟨k.clusters.trans h.clusters, fun i => (k.groups i).trans (h.groups i)⟩

theorem SamePaths.teamGroups {s t : State} (h : SamePaths s t) (gid : Nat) : teamGroups t gid = teamGroups s gid := by
  have here := h.groups gid
  unfold Machine.teamGroups
  rw [cluster_eq_of_clusters h.clusters]
  cases hs : group s gid <;> cases ht : group t gid <;> rw [hs, ht] at here <;> simp_all

theorem SamePaths.paths {s t : State} (h : SamePaths s t) (l : List Nat) :
    (l.filterMap (group t)).flatMap (·.paths) = (l.filterMap (group s)).flatMap (·.paths) := by
  have one : ∀ i, (group t i).map (·.paths) = (group s i).map (·.paths) := fun i => by
    simpa [Option.map_map, Function.comp_def] using congrArg (Option.map fun z : Nat × Nat × List Path => z.2.2) (h.groups i)
  have all : ∀ u : State, (l.filterMap (group u)).flatMap (·.paths) = (l.filterMap fun i => (group u i).map (·.paths)).flatten := fun u => by
    rw [← List.map_filterMap, List.flatMap_def]
  rw [all, all, funext one]

theorem samePaths_parkBarrier (s : State) (gid code : Nat) : SamePaths s (parkBarrier s gid code) := by
  cases h : group s gid with
  | none => rw [parkBarrier_of_absent code h]; exact .refl s
  | some x =>
    by_cases marked : x.park = none
    · obtain ⟨k, -, groups, rest⟩ := parkBarrier_of_unparked code h marked
      refine ⟨rest.clusters, fun i => ?_⟩
      rw [groups]
      split_ifs with hi
      · rw [hi, h]; rfl
      · rfl
    · rw [parkBarrier_of_parked code h marked]; exact .refl s

/-! ### A split team (R151) -/

theorem popcount_pos {m : W32} (h : m ≠ 0) : 0 < popcount m := by
  have bit : ∃ l, l < 32 ∧ m.getLsbD l = true := by
    by_contra none
    push Not at none
    exact h (BitVec.eq_of_getLsbD_eq fun l hl => by simpa using none l hl)
  obtain ⟨l, hl, hbit⟩ := bit
  exact List.length_pos_of_mem (List.mem_filter.2 ⟨List.mem_range.2 hl, hbit⟩)

theorem sum_filter_le (ps : List Path) (sel : Path → Bool) (f : Path → Nat) : ((ps.filter sel).map f).sum ≤ (ps.map f).sum :=
  ((List.filter_sublist).map f).sum_le_sum fun _ _ => Nat.zero_le _

theorem sum_filter_lt {ps : List Path} {sel : Path → Bool} {f : Path → Nat} {p : Path} (hp : p ∈ ps) (hsel : sel p = false) (hf : 0 < f p) :
    ((ps.filter sel).map f).sum < (ps.map f).sum := by
  induction ps with
  | nil => cases hp
  | cons a ps ih =>
    rw [List.filter_cons]
    rcases List.mem_cons.1 hp with rfl | hp
    · rw [hsel, if_neg Bool.false_ne_true, List.map_cons, List.sum_cons]
      have := sum_filter_le ps sel f
      omega
    · have := ih hp
      split_ifs <;> simp only [List.map_cons, List.sum_cons] <;> omega

theorem arrivedAt_le (g : Group) (b : Nat) : arrivedAt g b ≤ threadsLeft g := sum_filter_le g.paths _ _

theorem arrivedAt_lt {g : Group} {b : Nat} {p : Path} (hp : p ∈ g.paths) (hst : p.st ≠ .atBarrier b) (hmask : p.mask ≠ 0) :
    arrivedAt g b < threadsLeft g :=
  sum_filter_lt hp (by simpa using hst) (popcount_pos hmask)

/-- A barrier at which some thread of the team has not arrived is not complete, and nothing happens. -/
theorem completeBarriers_idle {s : State} {gid : Nat}
    (h : ∀ b, ∃ i ∈ teamGroups s gid, ∃ x, group s i = some x ∧ ∃ p ∈ x.paths, p.st ≠ .atBarrier b ∧ p.mask ≠ 0) :
    completeBarriers s gid = s := by
  have idle : ∀ b, ((((teamGroups s gid).filterMap fun i => group s i).map fun g => arrivedAt g b).sum) <
      (((teamGroups s gid).filterMap fun i => group s i).map threadsLeft).sum := by
    intro b
    obtain ⟨i, hi, x, hx, p, hp, hst, hmask⟩ := h b
    exact List.sum_lt_sum _ _ (fun g _ => arrivedAt_le g b) ⟨x, List.mem_filterMap.2 ⟨i, hi, hx⟩, arrivedAt_lt hp hst hmask⟩
  have fixed : ∀ l : List Nat, l.foldl (fun t b =>
      let all := (teamGroups s gid).filterMap fun i => group t i
      let here := (all.map fun g => arrivedAt g b).sum
      if here ≠ 0 && here = (all.map threadsLeft).sum then
        (teamGroups s gid).foldl (fun t i =>
          if ((group t i).map fun g => arrivedAt g b).getD 0 = 0 then t
          else acquireReleased (modGroup t i (releaseAt b 32)) i) t
      else t) s = s := by
    intro l
    induction l with
    | nil => rfl
    | cons b l ih =>
      rw [List.foldl_cons]
      dsimp only
      rw [if_neg (by simp [(idle b).ne])]
      exact ih
  exact fixed (List.range 16)

/-- Without a path that waits at a JOIN, closing joins only forgets entries. -/
theorem closeJoins_of_none_waits {g : Group} (h : ∀ p ∈ g.paths, p.st ≠ .atJoin) (k : Nat) :
    closeJoins k g = { g with entries := (closeJoins k g).entries } := by
  cases k with
  | zero => rfl
  | succ k =>
    have none_complete : g.entries.find? (joinComplete g) = none := by
      refine List.find?_eq_none.2 fun e _ complete => ?_
      obtain ⟨first, found⟩ := exists_waits_of_joinComplete complete
      exact h first (List.mem_of_find?_eq_some found) (waitsAt_iff.1 (List.find?_some found)).1
    rw [closeJoins]
    unfold joinComplete at none_complete
    rw [none_complete]

theorem diverged_congr {x y : Group} (h : y.paths = x.paths) : diverged y = diverged x := by
  unfold diverged
  rw [h]

/-- Every group of a team whose threads wait at more than one barrier. -/
structure SplitTeam (s : State) (gid : Nat) : Prop where
  waits : ∀ i ∈ teamGroups s gid, ∃ x, group s i = some x ∧ ∀ p ∈ x.paths, p.mask ≠ 0 ∧ ∃ b, b < 16 ∧ p.st = .atBarrier b
  apart : ∃ i ∈ teamGroups s gid, ∃ x, group s i = some x ∧ ∃ p ∈ x.paths, ∃ j ∈ teamGroups s gid, ∃ y, group s j = some y ∧
    ∃ q ∈ y.paths, p.st ≠ q.st

theorem SplitTeam.teamSplit {s : State} {gid : Nat} (h : SplitTeam s gid) : teamSplit s gid = true := by
  have mem : ∀ {i x p}, i ∈ teamGroups s gid → group s i = some x → p ∈ x.paths →
      p ∈ ((teamGroups s gid).filterMap fun i => group s i).flatMap (·.paths) := fun hi hx hp =>
    List.mem_flatMap.2 ⟨_, List.mem_filterMap.2 ⟨_, hi, hx⟩, hp⟩
  obtain ⟨i, hi, x, hx, p, hp, j, hj, y, hy, q, hq, hne⟩ := h.apart
  unfold Machine.teamSplit
  dsimp only
  rw [Bool.and_eq_true, Bool.and_eq_true]
  refine ⟨⟨?_, ?_⟩, ?_⟩
  · simpa using List.ne_nil_of_mem (mem hi hx hp)
  · refine List.all_eq_true.2 fun r hr => ?_
    obtain ⟨z, hz, hr⟩ := List.mem_flatMap.1 hr
    obtain ⟨k, hk, hz⟩ := List.mem_filterMap.1 hz
    obtain ⟨z', hz', waits⟩ := h.waits k hk
    rw [hz] at hz'
    cases hz'
    obtain ⟨-, b, -, at_b⟩ := waits r hr
    rw [at_b]
  · rw [bne_iff_ne]
    intro one
    obtain ⟨a, only⟩ := List.length_eq_one_iff.1 one
    have same : ∀ r, r ∈ ((teamGroups s gid).filterMap fun i => group s i).flatMap (·.paths) → r.st = a := fun r hr =>
      List.mem_singleton.1 (only ▸ List.mem_eraseDups.2 (List.mem_map_of_mem hr))
    exact hne ((same p (mem hi hx hp)).trans (same q (mem hj hy hq)).symm)

theorem SplitTeam.incomplete {s : State} {gid : Nat} (h : SplitTeam s gid) (b : Nat) :
    ∃ i ∈ teamGroups s gid, ∃ x, group s i = some x ∧ ∃ p ∈ x.paths, p.st ≠ .atBarrier b ∧ p.mask ≠ 0 := by
  obtain ⟨i, hi, x, hx, p, hp, j, hj, y, hy, q, hq, hne⟩ := h.apart
  have mask : ∀ {k z r}, k ∈ teamGroups s gid → group s k = some z → r ∈ z.paths → r.mask ≠ 0 := by
    intro k z r hk hz hr
    obtain ⟨z', hz', waits⟩ := h.waits k hk
    rw [hz] at hz'
    cases hz'
    exact (waits r hr).1
  by_cases hb : p.st = .atBarrier b
  · exact ⟨j, hj, y, hy, q, hq, fun e => hne (hb.trans e.symm), mask hj hy hq⟩
  · exact ⟨i, hi, x, hx, p, hp, hb, mask hi hx hp⟩

theorem SamePaths.group {s t : State} (h : SamePaths s t) {i : Nat} {x : Group} (hx : group s i = some x) :
    ∃ y, Machine.group t i = some y ∧ y.paths = x.paths := by
  have here := h.groups i
  rw [hx] at here
  obtain ⟨y, hy, same⟩ := Option.map_eq_some_iff.1 here
  exact ⟨y, hy, congrArg (fun z : Nat × Nat × List Path => z.2.2) same⟩

theorem SplitTeam.of_samePaths {s t : State} {gid : Nat} (h : SplitTeam s gid) (k : SamePaths s t) : SplitTeam t gid := by
  constructor
  · rw [k.teamGroups gid]
    intro i hi
    obtain ⟨x, hx, waits⟩ := h.waits i hi
    obtain ⟨y, hy, paths⟩ := k.group hx
    exact ⟨y, hy, paths ▸ waits⟩
  · rw [k.teamGroups gid]
    obtain ⟨i, hi, x, hx, p, hp, j, hj, y, hy, q, hq, hne⟩ := h.apart
    obtain ⟨x', hx', px⟩ := k.group hx
    obtain ⟨y', hy', py⟩ := k.group hy
    exact ⟨i, hi, x', hx', p, px ▸ hp, j, hj, y', hy', q, py ▸ hq, hne⟩

theorem SplitTeam.parks_all {s t : State} {gid : Nat} (h : SplitTeam s gid) (k : SamePaths s t) :
    (if Machine.teamSplit t gid then (teamGroups t gid).foldl (fun s i => parkBarrier s i 0x72) t else t) =
      parkAll 0x72 (teamGroups s gid) t := by
  rw [if_pos (h.of_samePaths k).teamSplit, k.teamGroups]
  rfl

/-- The scoreboard parks a split team: the group at which the split is found may have diverged, then every group is parked. -/
theorem scoreboard_of_splitTeam {s : State} {gid : Nat} {x : Group} (h : SplitTeam s gid) (hgid : gid ∈ teamGroups s gid)
    (hx : group s gid = some x) :
    ∃ e, scoreboard s gid = parkAll 0x72 (teamGroups s gid)
      (if diverged x then parkBarrier (setGroup s gid (some { x with entries := e })) gid 0x71
       else setGroup s gid (some { x with entries := e })) := by
  have none_joins : ∀ p ∈ x.paths, p.st ≠ .atJoin := by
    obtain ⟨x', hx', waits⟩ := h.waits gid hgid
    rw [hx] at hx'
    cases hx'
    intro p hp
    obtain ⟨-, b, -, at_b⟩ := waits p hp
    simp [at_b]
  have closed := closeJoins_of_none_waits none_joins 16
  generalize (closeJoins 16 x).entries = e at closed
  refine ⟨e, ?_⟩
  have mod : modGroup s gid (closeJoins 16) = setGroup s gid (some { x with entries := e }) := by
    unfold modGroup
    rw [hx, Option.map_some, closed]
  have same : SamePaths s (setGroup s gid (some { x with entries := e })) := by
    refine ⟨rfl, fun i => ?_⟩
    rw [group_setGroup]
    split_ifs with hi
    · rw [hi, hx]; rfl
    · rfl
  have here : group (setGroup s gid (some { x with entries := e })) gid = some { x with entries := e } := by simp
  have div : diverged { x with entries := e } = diverged x := diverged_congr rfl
  unfold scoreboard
  rw [mod, completeBarriers_idle (h.of_samePaths same).incomplete]
  dsimp only
  rw [here, Option.map_some, Option.getD_some, div]
  refine h.parks_all ?_
  split_ifs
  · exact same.trans (samePaths_parkBarrier ..)
  · exact same

/-- Settles O20: every group of a team that waits at more than one barrier ends up parked. -/
theorem teamSplitParks : Obligations.TeamSplitParks := by
  unfold Obligations.TeamSplitParks
  intro s gid hgid _ waits apart i hi x hx hpark
  have split : SplitTeam s gid := ⟨waits, apart⟩
  obtain ⟨x0, hx0, -⟩ := waits gid hgid
  obtain ⟨e, parked⟩ := scoreboard_of_splitTeam split hgid hx0
  rw [parked]
  by_cases self : i = gid
  · subst self
    rw [hx] at hx0
    cases hx0
    have here : group (setGroup s i (some { x with entries := e })) i = some { x with entries := e } := by simp
    by_cases div : diverged x = true
    · obtain ⟨k, hcode, groups, -⟩ := parkBarrier_of_unparked 0x71 here hpark
      rw [if_pos div]
      exact ⟨_, k, parkAll_keeps_parked (by simp) _ ((groups i).trans (if_pos rfl)), rfl, .inr ⟨rfl, div, hcode⟩⟩
    · rw [if_neg div]
      obtain ⟨y, k, hy, hk, hcode⟩ := parkAll_parks (x := { x with entries := e }) hpark hi here
      exact ⟨y, k, hy, hk, .inl hcode⟩
  · have other : group (if diverged x0 then parkBarrier (setGroup s gid (some { x0 with entries := e })) gid 0x71
        else setGroup s gid (some { x0 with entries := e })) i = some x := by
      split_ifs
      · rw [parkBarrier_other _ self, group_setGroup, if_neg self, hx]
      · rw [group_setGroup, if_neg self, hx]
    obtain ⟨y, k, hy, hk, hcode⟩ := parkAll_parks hpark hi other
    exact ⟨y, k, hy, hk, .inl hcode⟩

end Sys2Proof.Machine

/-! SUPPORT. How a team comes to a core and leaves it again: its slots, its groups and their registers, its task's accounts. It settles O39. -/

namespace Sys2Proof.Machine

/-! ### Parts of the state that starting and ending a team leaves -/

/-- The state without clusters, groups and tasks. -/
def offTeams (s : State) : State := { s with clusters := [], groups := [], tasks := [] }

/-- A change of clusters that leaves their teams. -/
structure SameTeams (s t : State) : Prop where
  rest : offTeams t = offTeams s
  groups : t.groups = s.groups
  tasks : t.tasks = s.tasks
  teams : ∀ c, (cluster t c).teams = (cluster s c).teams

theorem SameTeams.refl (s : State) : SameTeams s s := ⟨rfl, rfl, rfl, fun _ => rfl⟩

theorem SameTeams.trans {s t u : State} (h : SameTeams s t) (k : SameTeams t u) : SameTeams s u :=
  ⟨k.rest.trans h.rest, k.groups.trans h.groups, k.tasks.trans h.tasks, fun c => (k.teams c).trans (h.teams c)⟩

theorem sameTeams_modCluster (s : State) (cl : Nat) {f : Cluster → Cluster} (hf : ∀ x, (f x).teams = x.teams) :
    SameTeams s (modCluster s cl f) := by
  refine ⟨rfl, rfl, rfl, fun c => ?_⟩
  rw [cluster_modCluster]
  split_ifs with hc
  · rw [hf, hc]
  · rfl

theorem sameTeams_changeL (s : State) (cl l : Nat) (byLaunch : Bool) : SameTeams s (changeL s cl l byLaunch) :=
  sameTeams_modCluster s cl fun _ => rfl

theorem sameTeams_invalidateRo (s : State) (cl : Nat) : SameTeams s (invalidateRo s cl) := sameTeams_modCluster s cl fun _ => rfl

theorem sameTeams_returnL (s : State) (cl : Nat) : SameTeams s (returnL s cl) := by
  unfold returnL
  dsimp only
  split_ifs
  · exact sameTeams_changeL ..
  · exact .refl s

theorem taskOf_modTask {s : State} {tag : Nat} {f : Task → Task} {t : Task} (ht : taskOf s tag = some t) (hf : ∀ t, (f t).tag = t.tag) :
    taskOf (modTask s tag f) tag = some (f t) := by
  have same : (fun t : Task => t.tag == tag) ∘ (fun t => if t.tag == tag then f t else t) = fun t => t.tag == tag := by
    funext t
    dsimp only [Function.comp_apply]
    split_ifs
    · rw [hf]
    · rfl
  have found : taskOf (modTask s tag f) tag = (taskOf s tag).map fun t => if t.tag == tag then f t else t := by
    unfold taskOf modTask modWhere
    rw [List.find?_map, same]
  have here : (t.tag == tag) = true := List.find?_some (p := fun t : Task => t.tag == tag) ht
  rw [found, ht, Option.map_some, if_pos here]

/-! ### Room on a core (R134 to R136) -/

theorem foldl_best_mem {α : Type} {P : α → Prop} {f : Option α → α → Option α} (hf : ∀ b c r, f b c = some r → b = some r ∨ r = c)
    {l : List α} (hl : ∀ c ∈ l, P c) {b : Option α} (hb : ∀ r, b = some r → P r) {r : α} (h : l.foldl f b = some r) : P r := by
  induction l generalizing b with
  | nil => exact hb r h
  | cons c l ih =>
    refine ih (fun d hd => hl d (List.mem_cons_of_mem _ hd)) (fun r hr => ?_) h
    rcases hf b c r hr with old | rfl
    · exact hb r old
    · exact hl r List.mem_cons_self

theorem fitsCore_of_chooseCore {s : State} {cl : Nat} {k : Claims} {core : Nat} (h : chooseCore s cl k = some core) :
    fitsCore s cl core k = true := by
  refine foldl_best_mem (P := fun c => fitsCore s cl c k = true) (fun b c r hr => ?_) (fun c hc => (List.mem_filter.1 hc).2) (by simp) h
  cases b with
  | none => exact .inr (Option.some.inj hr).symm
  | some b =>
    dsimp only at hr
    split_ifs at hr
    · exact .inr (Option.some.inj hr).symm
    · exact .inl hr

/-- A core that is chosen for a team has slots for its groups. -/
theorem slots_of_teamRoom {s : State} {l : Launch} {k : Claims} {cl core base : Nat} (h : teamRoom s l k cl = some (core, base)) :
    k.groups ≤ (freeSlots s cl core).length := by
  have chosen : chooseCore s cl k = some core := by
    unfold teamRoom at h
    dsimp only at h
    split_ifs at h
    split at h
    · next hc _ => cases h; exact hc
    · cases h
  have fits := fitsCore_of_chooseCore chosen
  unfold fitsCore at fits
  simp only [Bool.and_eq_true, decide_eq_true_eq] at fits
  exact fits.1.1.1

theorem freeSlots_nodup (s : State) (cl core : Nat) : (freeSlots s cl core).Nodup := List.nodup_range.filter _

theorem SameTeams.freeSlots {s t : State} (h : SameTeams s t) (cl core : Nat) : freeSlots t cl core = freeSlots s cl core := by
  unfold Machine.freeSlots coreTeams
  rw [h.teams]

/-! ### Registers at the start of a group (R376) -/

/-- Registers of a lane, written one after the other. -/
def writeAll (g : Group) (lane : Nat) (rs : List (Nat × W32)) : Group := rs.foldl (fun g e => writeReg g lane e.1 e.2) g

theorem writeAll_eq (g : Group) (lane : Nat) (rs : List (Nat × W32)) : writeAll g lane rs = { g with regs := (writeAll g lane rs).regs } := by
  induction rs generalizing g with
  | nil => rfl
  | cons e rs ih =>
    have step := ih (writeReg g lane e.1 e.2)
    rw [writeReg_eq] at step
    exact step

theorem readReg_writeAll {rs : List (Nat × W32)} (hrs : ∀ e ∈ rs, e.1 < 256) (hkeys : (rs.map (·.1)).Nodup) (g : Group) {lane l r : Nat}
    (hr : r < 256) :
    readReg (writeAll g lane rs) l r =
      if l = lane then (rs.find? fun e => e.1 == r).elim (readReg g l r) (·.2) else readReg g l r := by
  induction rs generalizing g with
  | nil => simp [writeAll]
  | cons e rs ih =>
    obtain ⟨fresh, hkeys⟩ := List.nodup_cons.1 hkeys
    have step := ih (fun e he => hrs e (List.mem_cons_of_mem _ he)) hkeys (writeReg g lane e.1 e.2)
    refine step.trans ?_
    rw [readReg_writeReg g _ (hrs e List.mem_cons_self) hr]
    by_cases hl : l = lane
    · rw [if_pos hl, if_pos hl]
      by_cases he : r = e.1
      · have absent : rs.find? (fun e => e.1 == r) = none := List.find?_eq_none.2 fun d hd same =>
          fresh (List.mem_map.2 ⟨d, hd, (beq_iff_eq.1 same).trans he⟩)
        rw [absent, List.find?_cons_of_pos (by simp [he])]
        simp [hl, he]
      · rw [List.find?_cons_of_neg (by simpa using Ne.symm he), if_neg (fun h => he h.2)]
    · rw [if_neg hl, if_neg hl, if_neg (fun h => hl h.1)]

/-- The same registers in the lanes below `n`. -/
def writeEvery (g : Group) (n : Nat) (rs : List (Nat × W32)) : Group := (List.range n).foldl (fun g lane => writeAll g lane rs) g

theorem writeEvery_succ (g : Group) (n : Nat) (rs : List (Nat × W32)) :
    writeEvery g (n + 1) rs = writeAll (writeEvery g n rs) n rs := by
  unfold writeEvery
  rw [List.range_succ, List.foldl_append]
  rfl

theorem writeEvery_eq (g : Group) (n : Nat) (rs : List (Nat × W32)) : writeEvery g n rs = { g with regs := (writeEvery g n rs).regs } := by
  induction n with
  | zero => rfl
  | succ n ih => rw [writeEvery_succ, writeAll_eq, ih]

theorem readReg_writeEvery {rs : List (Nat × W32)} (hrs : ∀ e ∈ rs, e.1 < 256) (hkeys : (rs.map (·.1)).Nodup) (g : Group) (n : Nat) {l r : Nat}
    (hr : r < 256) :
    readReg (writeEvery g n rs) l r =
      if l < n then (rs.find? fun e => e.1 == r).elim (readReg g l r) (·.2) else readReg g l r := by
  induction n with
  | zero => rfl
  | succ n ih =>
    rw [writeEvery_succ, readReg_writeAll hrs hkeys _ hr, ih]
    rcases Nat.lt_trichotomy l n with below | rfl | above
    · rw [if_neg below.ne, if_pos below, if_pos (by omega)]
    · rw [if_pos rfl, if_neg (lt_irrefl l), if_pos (Nat.lt_succ_self l)]
    · rw [if_neg above.ne', if_neg (by omega), if_neg (by omega)]

/-- A group before its first registers are written. -/
def freshGroup (l : Launch) (t : Task) (n : List Byte) (team index : Nat) : Group :=
  { part := l.part, ctx := l.ctx, task := t.tag, team, index, regGrant := nRegs n, accGrant := nAccs n,
    paths := [{ pc := nPc n, mask := BitVec.allOnes 32 }], held := nGang n }

theorem startGroup_eq_writeEvery (s : State) (l : Launch) (t : Task) (n : List Byte) (cl core team index : Nat) :
    startGroup s l t n cl core team index =
      writeEvery (freshGroup l t n team index) 32 (startRegs cl core team index (constVaOf s l) (nTeams n) t.node) := rfl

theorem startGroup_eq (s : State) (l : Launch) (t : Task) (n : List Byte) (cl core team index : Nat) :
    ∃ regs, startGroup s l t n cl core team index = { freshGroup l t n team index with regs } :=
  ⟨_, writeEvery_eq _ _ _⟩

theorem readReg_startGroup (s : State) (l : Launch) (t : Task) (n : List Byte) (cl core team index : Nat) {lane r : Nat} (hlane : lane < 32)
    (hr : r < 256) :
    readReg (startGroup s l t n cl core team index) lane r =
      ((startRegs cl core team index (constVaOf s l) (nTeams n) t.node).find? fun e => e.1 == r).elim 0 (·.2) := by
  rw [startGroup_eq_writeEvery, readReg_writeEvery (by simp [startRegs]) (by simp [startRegs]) _ _ hr, if_pos hlane]
  rfl

/-! ### A team is placed (R376) -/

theorem offTeams_parts {s t : State} (h : offTeams t = offTeams s) : t.parts = s.parts :=
  (congrArg State.parts h : (offTeams t).parts = (offTeams s).parts)

theorem startGroup_congr {s s' : State} (h : offTeams s' = offTeams s) (l : Launch) (t : Task) (n : List Byte) (cl core team index : Nat) :
    startGroup s' l t n cl core team index = startGroup s l t n cl core team index := by
  have va : constVaOf s' l = constVaOf s l := by
    unfold constVaOf ctxOf part
    rw [offTeams_parts h]
  rw [startGroup_eq_writeEvery, startGroup_eq_writeEvery, va]

/-- The groups of a team stand in its slots, one after the other. -/
def startGroups (l : Launch) (t : Task) (n : List Byte) (cl core team : Nat) (slots : List (Nat × Nat)) (s : State) : State :=
  slots.foldl (fun s e => setGroup s (groupId cl core e.1) (some (startGroup s l t n cl core team e.2))) s

section
variable (l : Launch) (t : Task) (n : List Byte) (cl core team : Nat)

theorem startGroups_rest (slots : List (Nat × Nat)) (s : State) :
    offTeams (startGroups l t n cl core team slots s) = offTeams s ∧ OnlyGroups s (startGroups l t n cl core team slots s) := by
  induction slots generalizing s with
  | nil => exact ⟨rfl, .refl s⟩
  | cons e slots ih =>
    obtain ⟨off, only⟩ := ih (setGroup s (groupId cl core e.1) (some (startGroup s l t n cl core team e.2)))
    exact ⟨off, only.clusters, only.tasks⟩

theorem groupId_inj {a b : Nat} (h : groupId cl core a = groupId cl core b) : a = b := Nat.add_left_cancel h

theorem group_startGroups_other {slots : List (Nat × Nat)} {slot : Nat} (h : slot ∉ slots.map (·.1)) (s : State) :
    group (startGroups l t n cl core team slots s) (groupId cl core slot) = group s (groupId cl core slot) := by
  induction slots generalizing s with
  | nil => rfl
  | cons e slots ih =>
    obtain ⟨ne, later⟩ := not_or.1 (fun hm => h (List.mem_cons.2 hm) : ¬(slot = e.1 ∨ slot ∈ slots.map (·.1)))
    refine (ih later _).trans ?_
    rw [group_setGroup, if_neg fun same => ne (groupId_inj cl core same)]

theorem group_startGroups {slots : List (Nat × Nat)} (hslots : (slots.map (·.1)).Nodup) {e : Nat × Nat} (he : e ∈ slots) (s : State) :
    group (startGroups l t n cl core team slots s) (groupId cl core e.1) = some (startGroup s l t n cl core team e.2) := by
  induction slots generalizing s with
  | nil => cases he
  | cons d slots ih =>
    obtain ⟨fresh, hslots⟩ := List.nodup_cons.1 hslots
    rcases List.mem_cons.1 he with rfl | he
    · refine (group_startGroups_other l t n cl core team fresh _).trans ?_
      rw [group_setGroup, if_pos rfl]
    · refine (ih hslots he _).trans ?_
      exact congrArg some (startGroup_congr rfl ..)

end

/-- The team's record on its cluster. -/
def teamRecord (t : Task) (n : List Byte) (team core base : Nat) (slots : List Nat) : Team :=
  { task := t.tag, team, core, groups := nG n, regGrant := nRegs n, accGrant := nAccs n, lsBase := base, lsSize := nStore n, slots }

/-- The task's account of a team that it has started. -/
def teamStarted (team cl : Nat) (t : Task) : Task := { t with startedTeams := t.startedTeams ++ [team], placed := t.placed ++ [(team, cl)] }

/-- The slots that a team takes on a core. -/
def teamSlots (s : State) (n : List Byte) (cl core : Nat) : List Nat := (freeSlots s cl core).take (nG n)

/-- A cluster before it takes a team of a task: its local store has the size wanted, and for a task new to it the read-only caches are
invalidated (R164, R249). -/
def clusterReady (s : State) (l : Launch) (t : Task) (cl : Nat) : State :=
  let s := if (cluster s cl).ls ≠ wantedL s l cl then changeL s cl (wantedL s l cl) (!fullServiceNow s && l.ls ≠ 0) else s
  if (cluster s cl).teams.any fun x => x.task == t.tag then s else invalidateRo s cl

theorem sameTeams_clusterReady (s : State) (l : Launch) (t : Task) (cl : Nat) : SameTeams s (clusterReady s l t cl) := by
  unfold clusterReady
  extract_lets sized
  have same : SameTeams s sized := by
    unfold sized
    split_ifs
    · exact sameTeams_changeL ..
    · exact .refl s
  split_ifs
  · exact same
  · exact same.trans (sameTeams_invalidateRo sized cl)

/-- The cluster takes the team's record, then the team's groups stand in its slots, and the task counts it as started. -/
theorem placeTeam_eq (s : State) (l : Launch) (t : Task) (n : List Byte) (cl team core base : Nat) :
    placeTeam s l t n cl team core base =
      modTask (startGroups l t n cl core team (teamSlots s n cl core).zipIdx (modCluster (clusterReady s l t cl) cl fun x =>
        { x with teams := x.teams ++ [teamRecord t n team core base (teamSlots s n cl core)] })) t.tag (teamStarted team cl) := by
  unfold teamSlots
  rw [← (sameTeams_clusterReady s l t cl).freeSlots]
  rfl

theorem mem_zipIdx_of_getElem? {l : List Nat} {i a : Nat} (h : l[i]? = some a) : (a, i) ∈ l.zipIdx := by
  rw [List.mem_zipIdx_iff_getElem?]
  exact h

section
variable (s : State) (l : Launch) (t : Task) (n : List Byte) (cl team core base : Nat)

/-- The state in which the groups of a team start. -/
def teamListed : State := modCluster (clusterReady s l t cl) cl fun x =>
  { x with teams := x.teams ++ [teamRecord t n team core base (teamSlots s n cl core)] }

theorem offTeams_teamListed : offTeams (teamListed s l t n cl team core base) = offTeams s := (sameTeams_clusterReady s l t cl).rest

theorem teamRecord_mem_placeTeam :
    teamRecord t n team core base (teamSlots s n cl core) ∈ (cluster (placeTeam s l t n cl team core base) cl).teams := by
  have only := (startGroups_rest l t n cl core team (teamSlots s n cl core).zipIdx (teamListed s l t n cl team core base)).2
  have teams : (cluster (placeTeam s l t n cl team core base) cl).teams = (cluster (teamListed s l t n cl team core base) cl).teams := by
    rw [placeTeam_eq]
    exact congrArg Cluster.teams (cluster_eq_of_clusters only.clusters cl)
  rw [teams, teamListed, cluster_modCluster, if_pos rfl]
  exact List.mem_append_right _ (List.mem_singleton.2 rfl)

variable {t} in
theorem taskOf_placeTeam (ht : taskOf s t.tag = some t) :
    taskOf (placeTeam s l t n cl team core base) t.tag = some (teamStarted team cl t) := by
  have only := (startGroups_rest l t n cl core team (teamSlots s n cl core).zipIdx (teamListed s l t n cl team core base)).2
  rw [placeTeam_eq]
  refine taskOf_modTask ?_ fun _ => rfl
  exact (congrArg (List.find? _) (only.tasks.trans (sameTeams_clusterReady s l t cl).tasks)).trans ht

theorem group_placeTeam {i slot : Nat} (h : (teamSlots s n cl core)[i]? = some slot) :
    group (placeTeam s l t n cl team core base) (groupId cl core slot) = some (startGroup s l t n cl core team i) := by
  have distinct : ((teamSlots s n cl core).zipIdx.map (·.1)).Nodup := by
    rw [List.zipIdx_map_fst]
    exact (freeSlots_nodup s cl core).sublist (List.take_sublist _ _)
  rw [placeTeam_eq, ← startGroup_congr (offTeams_teamListed s l t n cl team core base)]
  exact group_startGroups l t n cl core team distinct (mem_zipIdx_of_getElem? h) _

end

section
variable {s : State} {t : Task} {l : Launch} {cl team : Nat}

theorem execTeamStart_places {core base : Nat} (hcl : clusterOk cl = true) (ht : taskOf s t.tag = some t) (hl : launchOf s t.launch = some l)
    (hmay : mayStart s = true) (hkind : t.kind = 0) (hst : t.st = .running) (hteam : team < t.teams) (hnew : team ∉ t.startedTeams)
    (hplan : t.plan = []) (hel : eligible s l (launchNode s l t.node) cl = true) (hgang : gangWaits s cl t.tag = false)
    (hfirst : goesFirst s t cl = false) (hroom : teamRoom s l (claimsOf (launchNode s l t.node)) cl = some (core, base)) :
    exec (.teamStart t.tag cl team) s = .next (placeTeam s l t (launchNode s l t.node) cl team core base) := by
  refine (onUnit_next _ _ _).2 ⟨hcl, ?_⟩
  rw [ht]
  dsimp only
  rw [hl]
  dsimp only
  rw [if_neg (by simp [hmay, hkind, hst, hteam, hnew, hplan, hel, hgang, hfirst]), hroom]
  dsimp only
  rw [if_neg (by simp [hplan])]

theorem execTeamStart_again (hcl : clusterOk cl = true) (ht : taskOf s t.tag = some t) (hl : launchOf s t.launch = some l)
    (hagain : team ∈ t.startedTeams) : exec (.teamStart t.tag cl team) s = .next s := by
  refine (onUnit_next _ _ _).2 ⟨hcl, ?_⟩
  rw [ht]
  dsimp only
  rw [hl]
  dsimp only
  rw [if_pos (by simp [hagain])]

end

/-! ### A team ends (R136, R279, R348) -/

/-- The groups of a list leave the cluster. -/
def removeGroups (l : List Nat) (s : State) : State := l.foldl (fun s g => setGroup s g none) s

theorem removeGroups_rest (l : List Nat) (s : State) : offTeams (removeGroups l s) = offTeams s ∧ OnlyGroups s (removeGroups l s) := by
  induction l generalizing s with
  | nil => exact ⟨rfl, .refl s⟩
  | cons g l ih =>
    obtain ⟨off, only⟩ := ih (setGroup s g none)
    exact ⟨off, only.clusters, only.tasks⟩

theorem group_removeGroups (l : List Nat) (s : State) (i : Nat) : group (removeGroups l s) i = if i ∈ l then none else group s i := by
  induction l generalizing s with
  | nil => simp [removeGroups]
  | cons g l ih =>
    refine (ih _).trans ?_
    rw [group_setGroup]
    by_cases hg : i = g <;> by_cases hl : i ∈ l <;> simp [hg, hl]

/-- The task's account of a team that has arrived. -/
def teamArrived (team : Nat) (t : Task) : Task :=
  { t with arrived := t.arrived ++ [team], placed := t.placed.filter fun e => e.1 ≠ team }

/-- A team has left its cluster and counts as arrived. -/
def teamGone (s : State) (t : Task) (x : Team) (team cl : Nat) : State :=
  modTask (returnL (modCluster (removeGroups (teamGids cl x) s) cl fun c => { c with teams := c.teams.filter (· != x) }) cl) t.tag (teamArrived team)

/-- What CLOSE-TASK makes of a task. -/
def closingOn (l : List Nat) (t : Task) : Task := { t with st := .closing, closes := l }

theorem teamGone_rest (s : State) (t : Task) (x : Team) (team cl : Nat) : offTeams (teamGone s t x team cl) = offTeams s :=
  (sameTeams_returnL _ cl).rest.trans (removeGroups_rest _ s).1

theorem group_teamGone (s : State) (t : Task) (x : Team) (team cl i : Nat) :
    group (teamGone s t x team cl) i = if i ∈ teamGids cl x then none else group s i :=
  (group_eq_of_groups (sameTeams_returnL _ cl).groups i).trans (group_removeGroups _ s i)

theorem teams_teamGone (s : State) (t : Task) (x : Team) (team cl : Nat) : x ∉ (cluster (teamGone s t x team cl) cl).teams := by
  have teams : (cluster (teamGone s t x team cl) cl).teams = _ := (sameTeams_returnL _ cl).teams cl
  rw [teams, cluster_modCluster, if_pos rfl]
  simp

theorem taskOf_teamGone {s : State} {t : Task} (ht : taskOf s t.tag = some t) (x : Team) (team cl : Nat) :
    taskOf (teamGone s t x team cl) t.tag = some (teamArrived team t) := by
  refine taskOf_modTask ?_ fun _ => rfl
  unfold taskOf
  rw [(sameTeams_returnL _ cl).tasks]
  exact (congrArg (List.find? _) (removeGroups_rest _ s).2.tasks).trans ht

theorem out_of_offTeams {s u : State} (h : offTeams u = offTeams s) : u.out = s.out :=
  (congrArg State.out h : (offTeams u).out = (offTeams s).out)

theorem servingSlices_congr {s u : State} (h : offTeams u = offTeams s) : servingSlices u = servingSlices s :=
  (congrArg servingSlices h : servingSlices (offTeams u) = servingSlices (offTeams s))

/-! ### CLOSE-TASK (R279) -/

theorem testBit_maskOf (p : Nat → Bool) {n k : Nat} (hk : k < n) : (maskOf n p).testBit k = p k := by
  have flags : maskOf n p = ((List.range n).map fun i => (p i).toNat % 2 ^ 1 * 2 ^ (1 * i)).sum := by
    unfold maskOf flag
    congr 2
    funext i
    cases p i <;> simp
  have digit := digit_sum 1 (fun i => (p i).toNat) hk
  rw [← flags, Nat.one_mul, Nat.shiftRight_eq_div_pow, Nat.pow_one] at digit
  rw [Nat.testBit_eq_decide_div_mod_eq, digit]
  cases p k <;> rfl

theorem dieCount_le (v : Nat) : dieCount v ≤ 8 := by
  unfold dieCount
  split <;> decide

/-- The dies that CLOSE-TASK reaches: the IOD and those that serve. -/
theorem closesDie_iff {s : State} {d : Nat} (hd : d < 9) :
    (d == 8 || (servingSlices s).contains (16 * d)) = true ↔ d = 8 ∨ (d < dieCount s.variant ∧ dieServes s d = true) := by
  have few := dieCount_le s.variant
  rw [Bool.or_eq_true, beq_iff_eq, List.contains_iff_mem]
  unfold servingSlices allSlices
  simp only [List.mem_filter, List.mem_range, Bool.or_eq_true, decide_eq_true_eq, Nat.mul_div_cancel_left d (show 0 < 16 by decide)]
  by_cases iod : d = 8
  · simp [iod]
  · have : d < 8 := by omega
    constructor
    · rintro (h | ⟨⟨-, h⟩, h'⟩)
      · exact .inl h
      · exact .inr ⟨by omega, h'.resolve_left (by omega)⟩
    · rintro (h | ⟨h, h'⟩)
      · exact .inl h
      · exact .inr ⟨⟨by omega, .inl (by omega)⟩, .inr h'⟩

/-- The mask of the dies that CLOSE-TASK reaches. -/
def closeDies (s : State) : BitVec 9 := BitVec.ofNat 9 (maskOf 9 fun d => d == 8 || (servingSlices s).contains (16 * d))

theorem getLsbD_closeDies (s : State) {d : Nat} (hd : d < 9) :
    (closeDies s).getLsbD d = true ↔ d = 8 ∨ (d < dieCount s.variant ∧ dieServes s d = true) := by
  rw [closeDies, BitVec.getLsbD_ofNat, testBit_maskOf _ hd, decide_eq_true hd, Bool.true_and]
  exact closesDie_iff hd

theorem closeDies_congr {s u : State} (h : offTeams u = offTeams s) : closeDies u = closeDies s := by
  unfold closeDies
  rw [servingSlices_congr h]

theorem out_closeTask (s : State) (tag : Nat) : (closeTask s tag).out = s.out ++ [.multi "CLOSE_TASK" 3 (closeDies s) 0xFFFF tag] := rfl

theorem group_closeTask (s : State) (tag i : Nat) : group (closeTask s tag) i = group s i := rfl

theorem cluster_closeTask (s : State) (tag c : Nat) : cluster (closeTask s tag) c = cluster s c := rfl

theorem taskOf_closeTask {s : State} {tag : Nat} {t : Task} (h : taskOf s tag = some t) :
    taskOf (closeTask s tag) tag = some (closingOn (servingSlices s) t) := taskOf_modTask (f := closingOn (servingSlices s)) h fun _ => rfl

section
variable {s : State} {t : Task} {x : Team} {team cl : Nat}

theorem execTeamDone_waits (ht : taskOf s t.tag = some t) (hplaced : (t.placed.find? fun e => e.1 == team) = some (team, cl))
    (hx : ((cluster s cl).teams.find? fun x => x.task == t.tag && x.team == team) = some x)
    (hbusy : ∃ g ∈ teamGids cl x, groupOver s g = false) : exec (.teamDone t.tag team) s = .next s := by
  refine (onUnit_next _ _ _).2 ⟨rfl, ?_⟩
  rw [ht]
  dsimp only
  rw [hplaced]
  dsimp only
  rw [hx]
  dsimp only
  rw [if_pos]
  have : (teamGids cl x).all (groupOver s) = false := by simpa using hbusy
  simp [this]

theorem execTeamDone_arrives (ht : taskOf s t.tag = some t) (hst : t.st = .running)
    (hplaced : (t.placed.find? fun e => e.1 == team) = some (team, cl))
    (hx : ((cluster s cl).teams.find? fun x => x.task == t.tag && x.team == team) = some x)
    (hnew : team ∉ t.arrived) (hover : ∀ g ∈ teamGids cl x, groupOver s g = true) :
    exec (.teamDone t.tag team) s = .next (if t.arrived.length + 1 = t.teams then closeTask (teamGone s t x team cl) t.tag
      else teamGone s t x team cl) := by
  have all : (teamGids cl x).all (groupOver s) = true := List.all_eq_true.2 hover
  refine (onUnit_next _ _ _).2 ⟨rfl, ?_⟩
  rw [ht]
  dsimp only
  rw [hplaced]
  dsimp only
  rw [hx]
  dsimp only
  rw [if_neg (by simp [hst, hnew, all])]
  change (if ((taskOf (teamGone s t x team cl) t.tag).map fun t => t.arrived.length == t.teams).getD false then
    closeTask (teamGone s t x team cl) t.tag else teamGone s t x team cl) = _
  rw [taskOf_teamGone ht]
  simp [teamArrived]

end

/-- Settles O39: a team starts as the spec gives it, and its last arrival closes the task. -/
theorem teamsStartAndEnd : Obligations.TeamsStartAndEnd := by
  unfold Obligations.TeamsStartAndEnd
  refine ⟨fun s t l n cl team core base hcl ht hl hn hmay hkind hst hteam => ⟨execTeamStart_again hcl ht hl,
      fun hnew hplan hel hgang hfirst hroom hloose => ?_⟩,
    fun s t x team cl ht hst hplaced hx hnew => ⟨execTeamDone_waits ht hplaced hx, fun hover => ?_⟩⟩
  · subst hn
    refine ⟨_, teamRecord t (launchNode s l t.node) team core base (teamSlots s (launchNode s l t.node) cl core),
      execTeamStart_places hcl ht hl hmay hkind hst hteam hnew hplan hel hgang hfirst hroom, teamRecord_mem_placeTeam ..,
      rfl, rfl, rfl, rfl, rfl, rfl, List.length_take_of_le (slots_of_teamRoom hroom),
      ⟨teamStarted team cl t, taskOf_placeTeam s l _ cl team core base ht, rfl, rfl⟩, fun i slot hslot => ?_⟩
    have regs := fun lane r => readReg_startGroup s l t (launchNode s l t.node) cl core team i (lane := lane) (r := r)
    have here := group_placeTeam s l t (launchNode s l t.node) cl team core base hslot
    obtain ⟨_, start⟩ := startGroup_eq s l t (launchNode s l t.node) cl core team i
    rw [start] at here regs
    exact ⟨_, here, rfl, rfl, rfl, rfl, rfl, rfl, rfl, rfl, rfl, rfl, hloose, regs⟩
  · have rest := teamGone_rest s t x team cl
    have here := taskOf_teamGone ht x team cl
    have gone : ∀ g ∈ teamGids cl x, group (teamGone s t x team cl) g = none := fun g hg => (group_teamGone ..).trans (if_pos hg)
    have stay : ∀ g, g ∉ teamGids cl x → group (teamGone s t x team cl) g = group s g := fun g hg => (group_teamGone ..).trans (if_neg hg)
    have next := execTeamDone_arrives ht hst hplaced hx hnew hover
    by_cases last : t.arrived.length + 1 = t.teams
    · rw [if_pos last] at next
      refine ⟨_, closingOn (servingSlices s) (teamArrived team t), next, fun g hg => (group_closeTask ..).trans (gone g hg),
        fun g hg => (group_closeTask ..).trans (stay g hg), ?_, ?_, rfl, rfl, fun h => absurd last h, fun _ => ⟨rfl, rfl, closeDies s, ?_, fun d hd => getLsbD_closeDies s hd⟩⟩
      · rw [cluster_closeTask]; exact teams_teamGone s t x team cl
      · rw [taskOf_closeTask here, servingSlices_congr rest]
      · rw [out_closeTask, closeDies_congr rest, out_of_offTeams rest]
    · rw [if_neg last] at next
      exact ⟨_, teamArrived team t, next, gone, stay, teams_teamGone s t x team cl, here, rfl, rfl,
        fun _ => ⟨hst, out_of_offTeams rest⟩, fun h => absurd h last⟩

end Sys2Proof.Machine

/-! SUPPORT. Tasks are the front end's: what a slice, a crusher or a home agent does leaves them as they are. -/

namespace Sys2Proof.Machine

/-! ### Stores, groups and slices -/

theorem tasks_foldl {β : Type} {f : State → β → State} (h : ∀ s b, (f s b).tasks = s.tasks) (l : List β) (s : State) :
    (l.foldl f s).tasks = s.tasks := by
  induction l generalizing s with
  | nil => rfl
  | cons b l ih => exact (ih _).trans (h s b)

theorem tasks_getD {z d : State} {o : Option State} (h : ∀ t, o = some t → t.tasks = z.tasks) (hd : d.tasks = z.tasks) :
    (o.getD d).tasks = z.tasks := by
  cases o with
  | none => exact hd
  | some t => exact h t rfl

section
variable (s : State)

@[simp] theorem modSlice_tasks (i : Nat) (f : Slice → Slice) : (modSlice s i f).tasks = s.tasks := rfl
@[simp] theorem modCrusher_tasks (i : Nat) (f : Crusher → Crusher) : (modCrusher s i f).tasks = s.tasks := rfl
@[simp] theorem modCluster_tasks (c : Nat) (f : Cluster → Cluster) : (modCluster s c f).tasks = s.tasks := rfl
@[simp] theorem modGroup_tasks (g : Nat) (f : Group → Group) : (modGroup s g f).tasks = s.tasks := rfl
@[simp] theorem modQueue_tasks (p q : Nat) (f : Queue → Queue) : (modQueue s p q f).tasks = s.tasks := rfl
@[simp] theorem dropAccess_tasks (tag : Nat) : (dropAccess s tag).tasks = s.tasks := rfl
@[simp] theorem memStoreLine_tasks (line : Nat) (mask : BitVec 4) (d : Line) (p : W32) : (memStoreLine s line mask d p).tasks = s.tasks :=
  tasks_of_offMemory (offMemory_memStoreLine ..)
@[simp] theorem sendData_tasks (name : String) (dest line : Nat) (v : Line) (sectors : BitVec 4) (p : W32) :
    (sendData s name dest line v sectors p).tasks = s.tasks := tasks_of_offMemory (offMemory_sendData ..)
@[simp] theorem evictLine_tasks (sid : Nat) (c : CLine) : (evictLine s sid c).tasks = s.tasks := tasks_of_offMemory (offMemory_evictLine ..)
@[simp] theorem putHome_tasks (h : Nat) (c : CLine) : (putHome s h c).tasks = s.tasks := tasks_of_offMemory (offMemory_putHome ..)
@[simp] theorem homeStore_tasks (h line : Nat) (be : BitVec 128) (d : Line) (p : W32) (attr : Nat) :
    (homeStore s h line be d p attr).tasks = s.tasks := tasks_of_offMemory (offMemory_homeStore ..)
@[simp] theorem spillFor_tasks (h need k : Nat) : (spillFor h need k s).tasks = s.tasks := tasks_of_offMemory (offMemory_spillFor ..)
@[simp] theorem activate_tasks (pa : Nat) : (activate s pa).tasks = s.tasks := tasks_of_offMemory (offMemory_activate ..)
@[simp] theorem closeOpen_tasks (h line : Nat) : (closeOpen s h line).tasks = s.tasks := tasks_of_offMemory (offMemory_closeOpen ..)
@[simp] theorem clearRecord_tasks (p : Nat) (c : Ctx) (n : Nat) : (clearRecord s p c n).tasks = s.tasks :=
  tasks_of_offMemory (offMemory_clearRecord ..)
@[simp] theorem postEvent_tasks (p : Nat) (e : List Byte) : (postEvent s p e).tasks = s.tasks := tasks_of_offEvents (offEvents_postEvent ..)

@[simp] theorem sendRaw_tasks (name : String) (dest line : Nat) (v : Line) (sectors : BitVec 4) (p : W32) :
    (sendRaw s name dest line v sectors p).tasks = s.tasks := rfl
@[simp] theorem loseLine_tasks (sid line : Nat) : (loseLine s sid line).tasks = s.tasks := rfl
@[simp] theorem setLine_tasks (sid : Nat) (c : CLine) : (setLine s sid c).tasks = s.tasks := rfl
@[simp] theorem releaseLine_tasks (sid line : Nat) : (releaseLine s sid line).tasks = s.tasks := rfl
@[simp] theorem freeHome_tasks (h line : Nat) : (freeHome s h line).tasks = s.tasks := rfl
@[simp] theorem contribute_tasks (h : Nat) (k : CruPacket) : (contribute s h k).tasks = s.tasks := rfl

@[simp] theorem touchMemory_tasks (h line : Nat) : (touchMemory s h line).tasks = s.tasks := by
  unfold touchMemory
  dsimp only
  split_ifs <;> simp

@[simp] theorem openLine_tasks (h : Nat) (k : CruPacket) (form : AccForm) : (openLine s h k form).tasks = s.tasks := by
  simp [openLine]

@[simp] theorem discardOpen_tasks (h line : Nat) : (discardOpen s h line).tasks = s.tasks := by
  unfold discardOpen
  split
  · rfl
  · dsimp only
    split_ifs <;> simp

@[simp] theorem parkGroup_tasks (gid : Nat) (k : Park) : (parkGroup s gid k).tasks = s.tasks := by
  cases h : group s gid with
  | none => unfold parkGroup; rw [h]
  | some x =>
    by_cases marked : x.park = none
    · obtain ⟨-, -, -, rest⟩ := parkGroup_parks k h marked
      exact rest.tasks
    · rw [parkGroup_of_parked k h marked]

@[simp] theorem failAccess_tasks (tag code : Nat) : (failAccess s tag code).tasks = s.tasks := by
  unfold failAccess
  split <;> simp

end

theorem tasks_of_placeLine {s t : State} {sid : Nat} {c : CLine} (h : placeLine s sid c = some t) : t.tasks = s.tasks :=
  tasks_of_offMemory (offMemory_placeLine h)

theorem tasks_of_holdLine {s t : State} {sid line : Nat} (h : holdLine s sid line = some t) : t.tasks = s.tasks := by
  unfold holdLine at h
  dsimp only at h
  split at h <;> split at h
  · cases h
  · exact tasks_of_placeLine h
  · cases h
  · exact tasks_of_placeLine h

/-! ### Loads that receive their lines (R332) -/

@[simp] theorem writePieces_tasks (s : State) (gid : Nat) (d : Line) (ps : List Piece) : (writePieces s gid d ps).tasks = s.tasks := by
  induction ps generalizing s with
  | nil => rfl
  | cons p ps ih =>
    rw [writePieces, ih]
    split_ifs
    · rfl
    · split <;> rfl
    · split <;> rfl

@[simp] theorem writeOlds_tasks (s : State) (gid : Nat) (ps : List Piece) (os : List Nat) : (writeOlds s gid ps os).tasks = s.tasks := by
  induction ps generalizing s os with
  | nil => rfl
  | cons p ps ih =>
    cases os with
    | nil => rfl
    | cons o os => exact ih _ os

section
variable (s : State)

@[simp] theorem finishLoad_tasks (a : Access) (d : Line) (poison : W32) : (finishLoad s a d poison).tasks = s.tasks := by
  unfold finishLoad
  dsimp only
  split_ifs
  · simp
  · exact tasks_foldl (fun t x => by simp) _ _
  · rfl

@[simp] theorem deliver_tasks (a : Access) (d : Line) (p : W32) : (deliver s a d p).tasks = s.tasks := by
  unfold deliver
  dsimp only
  split_ifs <;> simp [roFillBoth]

theorem answerCluster_tasks (cl line : Nat) (d : Line) (sectors : BitVec 4) (p : W32) {again : State → Nat → State}
    (h : ∀ t n, (again t n).tasks = t.tasks) : (answerCluster s cl line d sectors p again).tasks = s.tasks := by
  refine (tasks_foldl (fun t a => ?_) _ _).trans (modCluster_tasks ..)
  split_ifs
  · exact deliver_tasks ..
  · exact h ..

/-! ### Home agents (R288 to R296) -/

@[simp] theorem setFilter_tasks (h line : Nat) (mask : BitVec 8) (owner : Bool) : (setFilter s h line mask owner).tasks = s.tasks := rfl
@[simp] theorem reserveFilter_tasks (h line : Nat) (grant : Bool) : (reserveFilter s h line grant).tasks = s.tasks := rfl
@[simp] theorem freeFilter_tasks (h line : Nat) : (freeFilter s h line).tasks = s.tasks := rfl
@[simp] theorem dropMiss_tasks (i line : Nat) : (dropMiss s i line).tasks = s.tasks := rfl
@[simp] theorem joinHome_tasks (h line : Nat) (f : Miss → Miss) : (joinHome s h line f).tasks = s.tasks := rfl
@[simp] theorem ackUpdate_tasks (k : CruPacket) (code : Nat) : (ackUpdate s k code).tasks = s.tasks := rfl
@[simp] theorem wholeHome_tasks (h line : Nat) (v : Line) (q : W32) (dirty : BitVec 4) : (wholeHome s h line v q dirty).tasks = s.tasks :=
  putHome_tasks ..

@[simp] theorem keepDirty_tasks (h line : Nat) (buf : Option (Line × BitVec 4 × W32)) : (keepDirty s h line buf).tasks = s.tasks := by
  unfold keepDirty
  split
  · split_ifs <;> simp
  · rfl

@[simp] theorem keepWhole_tasks (h line : Nat) (buf : Option (Line × BitVec 4 × W32)) : (keepWhole s h line buf).tasks = s.tasks := by
  unfold keepWhole
  dsimp only
  split_ifs <;> simp

@[simp] theorem releaseHome_tasks (h line : Nat) : (releaseHome s h line).tasks = s.tasks := by
  unfold releaseHome
  dsimp only
  split_ifs <;> simp

@[simp] theorem sendFills_tasks (i : Nat) (m : Miss) (v : Line) (p : W32) : (sendFills s i m v p).tasks = s.tasks := by
  refine (tasks_foldl (fun t n => sendRaw_tasks t "DATA_ONCE" n m.line v 0xF p) _ _).trans ?_
  split_ifs <;> rfl

@[simp] theorem homeFill_tasks (h line : Nat) (buf : Option (Line × BitVec 4 × W32)) : (homeFill s h line buf).tasks = s.tasks := by
  unfold homeFill
  split
  · rfl
  · dsimp only
    split_ifs <;> simp

@[simp] theorem grantOwner_tasks (h line d : Nat) (buf : Option (Line × BitVec 4 × W32)) : (grantOwner s h line d buf).tasks = s.tasks := by
  simp [grantOwner]

@[simp] theorem markReduced_tasks (task : Nat) : (markReduced s task).tasks = s.tasks := by
  unfold markReduced
  split <;> simp

@[simp] theorem applyRounded_tasks (h : Nat) (k : CruPacket) : (applyRounded s h k).tasks = s.tasks := by
  unfold applyRounded
  dsimp only
  split
  · split_ifs <;> simp
  · split_ifs <;> simp

@[simp] theorem applyAdd_tasks (h : Nat) (k : CruPacket) : (applyAdd s h k).tasks = s.tasks := by
  unfold applyAdd
  dsimp only
  split_ifs <;> simp

@[simp] theorem applyUpdate_tasks (h : Nat) (k : CruPacket) : (applyUpdate s h k).tasks = s.tasks := by
  unfold applyUpdate
  dsimp only
  split
  · split_ifs <;> simp
  · split_ifs <;> simp

@[simp] theorem finishReq_tasks (h line : Nat) (r : HomeReq) (buf : Option (Line × BitVec 4 × W32)) :
    (finishReq s h line r buf).tasks = s.tasks := by
  unfold finishReq
  dsimp only
  cases r with
  | rdS d => split_ifs <;> simp
  | rdE d => simp
  | upg d =>
    dsimp only
    split
    · split <;> rfl
    · simp
  | rdOnce tag => cases buf <;> split_ifs <;> simp
  | wfwd d tag attr be data => simp
  | update k => simp
  | homeRead => simp
  | homeWrite tag => dsimp only; split <;> simp
  | evict l => simp

theorem tasks_of_startReq {t : State} {h line : Nat} {r : HomeReq} (e : startReq s h line r = some t) : t.tasks = s.tasks := by
  unfold startReq at e
  dsimp only at e
  rw [Option.ite_none_left_eq_some, Option.ite_none_left_eq_some] at e
  obtain ⟨-, -, e⟩ := e
  split at e
  · cases e
  next u held =>
    have hu : u.tasks = s.tasks := by
      split_ifs at held
      · exact tasks_of_holdLine held
      · exact congrArg State.tasks (Option.some.inj held).symm
    refine Eq.trans ?_ hu
    cases r with
    | homeRead =>
      dsimp only at e
      split_ifs at e <;> rw [← Option.some.inj e] <;> simp
    | _ =>
      dsimp only at e
      split at e <;> rw [← Option.some.inj e] <;> simp

end

end Sys2Proof.Machine

/-! SUPPORT. Tasks through the requests of a slice and the work of a task that is discarded; the tasks that a discard leaves. -/

namespace Sys2Proof.Machine

/-! ### Requests at a home agent (R26, R27, R294) -/

section
variable (s : State)

@[simp] theorem makeEntry_tasks (h line : Nat) : (makeEntry s h line).tasks = s.tasks := by
  unfold makeEntry
  split
  · rfl
  · split
    · rfl
    · exact tasks_getD (fun t e => tasks_of_startReq s e) rfl

@[simp] theorem homeTake_tasks (h line : Nat) (r : HomeReq) : (homeTake s h line r).tasks = s.tasks := by
  unfold homeTake
  dsimp only
  split
  · rfl
  · split
    next e => exact tasks_of_startReq s e
    next => split <;> simp

@[simp] theorem serveWaiting_tasks (h : Nat) : (serveWaiting s h).tasks = s.tasks :=
  (tasks_foldl (fun t (e : Nat × HomeReq) => homeTake_tasks t h e.1 e.2) (sliceOf s h).waiting _).trans rfl

@[simp] theorem failMiss_tasks (i line code : Nat) : (failMiss s i line code).tasks = s.tasks := by
  unfold failMiss
  split
  · rfl
  · exact (tasks_foldl (fun t n => failAccess_tasks t n code) _ _).trans rfl

@[simp] theorem refuseReq_tasks (h line : Nat) (r : HomeReq) (code : Nat) : (refuseReq s h line r code).tasks = s.tasks := by
  cases r <;> simp [refuseReq]

@[simp] theorem homeArrive_tasks (h line : Nat) (r : HomeReq) : (homeArrive s h line r).tasks = s.tasks := by
  unfold homeArrive
  split <;> simp

/-! ### Accesses at a slice (R231, R235, R295) -/

@[simp] theorem modMiss_tasks (i line : Nat) (f : Miss → Miss) : (modMiss s i line f).tasks = s.tasks := rfl
@[simp] theorem stall_tasks (i tag : Nat) : (stall s i tag).tasks = s.tasks := rfl
@[simp] theorem forwardWrite_tasks (a : Access) : (forwardWrite s a).tasks = s.tasks := rfl
@[simp] theorem writeSpoil_tasks (i : Nat) (a : Access) : (writeSpoil s i a).tasks = s.tasks := rfl

@[simp] theorem sendRequest_tasks (i line : Nat) : (sendRequest s i line).tasks = s.tasks := by
  unfold sendRequest
  dsimp only
  split <;> rfl

theorem tasks_of_joinMiss {t : State} {i h line : Nat} {add : Miss → Miss} (e : joinMiss s i h line add = some t) :
    t.tasks = s.tasks := by
  unfold joinMiss at e
  dsimp only at e
  split at e
  · rw [← Option.some.inj e]; rfl
  · split_ifs at e
    · rw [← Option.some.inj e]; simp
    · obtain ⟨u, held, rfl⟩ := Option.map_eq_some_iff.1 e
      simp [tasks_of_holdLine held]

@[simp] theorem joinMiss_getD_stall_tasks (i h line tag : Nat) (add : Miss → Miss) :
    ((joinMiss s i h line add).getD (stall s i tag)).tasks = s.tasks :=
  tasks_getD (fun _ e => tasks_of_joinMiss s e) rfl

@[simp] theorem loadAtSlice_tasks (a : Access) (i h : Nat) : (loadAtSlice s a i h).tasks = s.tasks := by
  have answered : ∀ u d valid p, (answerCluster u (gidCluster a.gid) a.line d valid p fun v t =>
      stall (modCluster v (gidCluster a.gid) fun x => { x with reads := x.reads ++ [(a.line, t)] }) i t).tasks = u.tasks :=
    fun u d valid p => answerCluster_tasks u _ _ d valid p fun _ _ => rfl
  unfold loadAtSlice
  dsimp only
  split
  · rfl
  split
  · rfl
  split
  · split
    · exact answered ..
    · rfl
  split
  · split
    · rfl
    · exact answered ..
  split
  · rfl
  · exact joinMiss_getD_stall_tasks ..

theorem tasks_of_mergeCopy {t : State} {i : Nat} {a : Access} {f : CLine → CLine} (e : mergeCopy s i a f = some t) :
    t.tasks = s.tasks := by
  unfold mergeCopy at e
  split at e
  · rw [← Option.some.inj e]
  · exact tasks_of_placeLine e

theorem tasks_of_writeCopy {t : State} {i : Nat} {a : Access} (e : writeCopy s i a = some t) : t.tasks = s.tasks :=
  tasks_of_mergeCopy s e

theorem mapCopy_getD_stall_tasks {o : Option State} {g : State → State} (i tag : Nat) (copied : ∀ t, o = some t → t.tasks = s.tasks)
    (kept : ∀ t, (g t).tasks = t.tasks) : ((o.map g).getD (stall s i tag)).tasks = s.tasks :=
  tasks_getD (fun t e => by
    obtain ⟨u, hu, rfl⟩ := Option.map_eq_some_iff.1 e
    exact (kept u).trans (copied u hu)) rfl

@[simp] theorem storeAtSlice_tasks (a : Access) (i h : Nat) : (storeAtSlice s a i h).tasks = s.tasks := by
  have joined := fun add => joinMiss_getD_stall_tasks s i h a.line a.tag add
  have through : (((mergeCopy s i a fun c => c).map fun s => forwardWrite s a).getD (stall s i a.tag)).tasks = s.tasks :=
    mapCopy_getD_stall_tasks s i a.tag (fun _ e => tasks_of_mergeCopy s e) fun _ => rfl
  have written : (((writeCopy s i a).map fun s => dropAccess s a.tag).getD (stall s i a.tag)).tasks = s.tasks :=
    mapCopy_getD_stall_tasks s i a.tag (fun _ e => tasks_of_writeCopy s e) fun _ => rfl
  unfold storeAtSlice
  dsimp only
  split
  · exact homeArrive_tasks ..
  split
  · rfl
  split
  · rfl
  split
  · split <;> rfl
  split
  · split
    · split
      · exact through
      · exact joined _
    · split
      · exact through
      · exact written
  split
  · exact joined _
  split <;> rfl

@[simp] theorem retryAccess_tasks (i tag : Nat) : (retryAccess s i tag).tasks = s.tasks := by
  unfold retryAccess
  split
  · rfl
  · split
    · rfl
    · split <;> simp

@[simp] theorem drainLine_tasks (i : Nat) (c : CLine) : (drainLine i s c).tasks = s.tasks := by
  unfold drainLine
  split <;> simp

@[simp] theorem sendReg_tasks (sid : Nat) : (sendReg s sid).tasks = s.tasks := rfl

@[simp] theorem drainStep_tasks (i : Nat) : (drainStep s i).tasks = s.tasks := by
  have drained := fun l => tasks_foldl (fun t c => drainLine_tasks t i c) l s
  unfold drainStep
  dsimp only
  split
  · rfl
  · split <;> simp [drained]

@[simp] theorem wake_tasks (i : Nat) : (wake s i).tasks = s.tasks := by
  refine (tasks_foldl (fun t n => retryAccess_tasks t i n) _ _).trans ?_
  simp

/-! ### What a task holds (R246, R271, R280, R386, R389) -/

@[simp] theorem dropUpdates_tasks (i : Nat) (sel : CruPacket → Bool) : (dropUpdates s i sel).tasks = s.tasks := rfl

@[simp] theorem dropLines_tasks (sel : Nat → Bool) : (dropLines s sel).tasks = s.tasks := by
  refine tasks_foldl (fun t i => ?_) _ _
  have discarded := fun l => tasks_foldl (fun u (x : OpenLine) => discardOpen_tasks u i x.line) l t
  dsimp only
  split <;> simp [discarded]

theorem tasks_of_syncFilter {t : State} {line : Nat} (e : syncFilter s line = some t) : t.tasks = s.tasks := by
  unfold syncFilter at e
  dsimp only at e
  split at e
  · rw [← Option.some.inj e]
  · split at e <;> split_ifs at e <;> rw [← Option.some.inj e] <;> rfl

@[simp] theorem unpinLine_tasks (line i : Nat) : (unpinLine s line i).tasks = s.tasks := by
  unfold unpinLine
  have released : ∀ (u : State) (b : Prop) [Decidable b], (if b then u else releaseLine u i line).tasks = u.tasks := by
    intro u b _
    split <;> rfl
  exact tasks_getD (fun t e => (tasks_of_syncFilter _ e).trans (released ..)) (released ..)

@[simp] theorem unpinAll_tasks (ps : List (Nat × Nat)) : (unpinAll s ps).tasks = s.tasks := by
  refine tasks_foldl (fun t x => ?_) ps s
  exact unpinLine_tasks ..

@[simp] theorem dropRanges_tasks (tag : Nat) : (dropRanges s tag).tasks = s.tasks := by
  refine tasks_foldl (fun t i => ?_) _ _
  split <;> rfl

@[simp] theorem releaseTask_tasks (t : Task) : (releaseTask s t).tasks = s.tasks := by
  simp [releaseTask]

@[simp] theorem orphan_tasks (gid : Nat) : (orphan s gid).tasks = s.tasks := rfl

@[simp] theorem dropGroup_tasks (gid : Nat) : (dropGroup s gid).tasks = s.tasks := by
  unfold dropGroup
  split
  · rfl
  · dsimp only
    split <;> simp

@[simp] theorem dropTeams_tasks (cl : Nat) (sel : Nat → Bool) : (dropTeams s cl sel).tasks = s.tasks := by
  refine (sameTeams_returnL ..).tasks.trans ?_
  exact tasks_foldl (fun t x => tasks_foldl (fun u g => dropGroup_tasks u g) _ t) _ _

@[simp] theorem freeSnapRecords_tasks (x : Snapshot) : (freeSnapRecords s x).tasks = s.tasks := by
  refine tasks_foldl (fun t g => ?_) _ _
  dsimp only
  split <;> simp

@[simp] theorem dropSnaps_tasks (sel : Nat → Bool) : (dropSnaps s sel).tasks = s.tasks := by
  refine tasks_foldl (fun t c => tasks_foldl (fun u v => ?_) _ t) _ _
  dsimp only
  split
  · split <;> simp
  · rfl

/-- A discard leaves exactly the tasks it does not select. -/
theorem discardTasks_tasks (sel : Task → Bool) : (discardTasks s sel).tasks = s.tasks.filter fun t => !sel t := by
  unfold discardTasks
  dsimp only
  refine congrArg (List.filter _) ?_
  refine (tasks_foldl (fun t x => releaseTask_tasks t x) _ _).trans ?_
  refine (tasks_foldl (fun t x => ?_) _ _).trans ?_
  · split <;> rfl
  refine (dropLines_tasks ..).trans ((dropSnaps_tasks ..).trans (tasks_foldl (fun t c => ?_) _ _))
  split <;> simp

end

end Sys2Proof.Machine

/-! A command whose turn has come (R371), and REPLAY of a parked group: R159, R345, R373. -/

namespace Sys2Proof.Machine

/-! ### Commands -/

theorem seq_of_findCmd {x : Queue} {seq : W32} {c : Cmd} (h : findCmd x seq = some c) : c.seq = seq := by
  simpa using List.find?_some h

/-- A command whose turn has come is refused by its row, or carried out. -/
theorem runCmd_turn {s : State} {p q : Nat} {seq : W32} {op : Nat} {c : Cmd} (turn : HasTurn s p q seq op c) {mine : Cmd → Bool}
    (row : mine c = true) (extra : State → Cmd → Nat) (effect : State → Cmd → State) :
    runCmd s p q seq op mine extra effect = if extra s c ≠ 0 then finishCmd s p q seq (extra s c) else effect s c := by
  obtain ⟨-, here, opcode, accepted, unfinished, idle, ready⟩ := turn
  simp [runCmd, here, opcode, accepted, unfinished, idle, ready, row]

section
variable (s : State)

@[simp] theorem accountShared_tasks : (accountShared s).tasks = s.tasks := by
  unfold accountShared
  dsimp only
  split <;> rfl

@[simp] theorem modCmd_tasks (p q : Nat) (seq : W32) (f : Cmd → Cmd) : (modCmd s p q seq f).tasks = s.tasks := rfl

@[simp] theorem finishCmd_tasks (p q : Nat) (seq : W32) (code : Nat) : (finishCmd s p q seq code).tasks = s.tasks :=
  accountShared_tasks s

@[simp] theorem failQueue_tasks (p q code : Nat) : (failQueue s p q code).tasks = s.tasks :=
  tasks_foldl (fun t (c : Cmd) => finishCmd_tasks t p q c.seq code) _ _

@[simp] theorem stopQueue_tasks (p q cause : Nat) (seq : W32) (index : Nat) : (stopQueue s p q cause seq index).tasks = s.tasks :=
  (postEvent_tasks ..).trans (modQueue_tasks ..)

@[simp] theorem freeVersions_tasks (p h : Nat) : (freeVersions s p h).tasks = s.tasks := by
  unfold freeVersions
  split <;> rfl

@[simp] theorem freeSlot_tasks (l : Launch) : (freeSlot s l).tasks = s.tasks := by
  unfold freeSlot
  split <;> rfl

theorem dropLaunch_tasks (l : Launch) : (dropLaunch s l).tasks = s.tasks.filter fun t => !(t.launch == l.id) := by
  simp [dropLaunch, discardTasks_tasks]

/-! ### TEARDOWN and tasks (R373) -/

theorem tasks_foldl_subset {β : Type} {f : State → β → State} (h : ∀ s b, (f s b).tasks ⊆ s.tasks) (l : List β) :
    (l.foldl f s).tasks ⊆ s.tasks := by
  induction l generalizing s with
  | nil => exact fun _ hk => hk
  | cons b l ih => exact List.Subset.trans (ih _) (h s b)

/-- TEARDOWN leaves no task of its context. -/
theorem teardown_tasks_subset (p ctx code : Nat) :
    (teardown s p ctx code).tasks ⊆ s.tasks.filter fun t => !(t.part == p && t.ctx == ctx) := by
  have ended : ∀ (t : State) (l : Launch), (finishCmd (dropLaunch t l) p l.q l.seq code).tasks ⊆ t.tasks := by
    intro t l
    rw [finishCmd_tasks, dropLaunch_tasks]
    exact fun _ hk => List.mem_of_mem_filter hk
  have stopped : ∀ (t : State) (q : Nat), (stopQueue (failQueue t p q code) p q 0 (queue t p q).lastSeq 0).tasks = t.tasks := by simp
  unfold teardown
  dsimp only
  rw [tasks_foldl stopped, ← discardTasks_tasks]
  exact tasks_foldl_subset _ ended _

/-! ### Stopped queues -/

end

theorem look_map_rel {α : Type} {R : α → α → Prop} {d : α} {f : Nat × α → Nat × α} (key : ∀ x, (f x).1 = x.1) (default : R d d)
    (rel : ∀ x, R (f x).2 x.2) (m : SMap α) (k : Nat) : R (look d (m.map f) k) (look d m k) := by
  induction m with
  | nil => exact default
  | cons x m ih =>
    rw [List.map_cons, look, look, key]
    split
    · exact rel x
    · exact ih

section
variable (s : State) (p m : Nat)

theorem queue_setPart {r : Nat} {v : Part} (same : v.queues = (part s r).queues) : queue (setPart s r v) p m = queue s p m := by
  rw [queue, part_setPart]
  split
  next hp => rw [hp, same]; rfl
  next => rfl

theorem postRequest_parts (q : Nat) (r : QpReq) : (postRequest s q r).parts = s.parts := by
  unfold postRequest pumpQp
  dsimp only
  split_ifs <;> rfl

theorem queue_of_parts {t : State} (h : t.parts = s.parts) : queue t p m = queue s p m := by
  rw [queue, part, h]; rfl

@[simp] theorem queue_postEvent (r : Nat) (e : List Byte) : queue (postEvent s r e) p m = queue s p m := by
  unfold postEvent
  dsimp only
  split_ifs
  · rfl
  · exact queue_setPart s p m (by dsimp only; split_ifs <;> rfl)
  · exact (queue_of_parts _ p m (postRequest_parts ..)).trans (queue_setPart s p m rfl)

theorem queue_modCmd_stopped (r q : Nat) (seq : W32) (f : Cmd → Cmd) :
    (queue (modCmd s r q seq f) p m).stopped = (queue s p m).stopped := by
  rw [modCmd, queue_modQueue]
  split
  next h => rw [h.1, h.2]
  next => rfl

/-- Two partitions have the same queues stopped. -/
def SameStops (r' r : Part) : Prop := ∀ m, (look {} r'.queues m).stopped = (look {} r.queues m).stopped

theorem queue_accountShared_stopped : (queue (accountShared s) p m).stopped = (queue s p m).stopped := by
  unfold accountShared
  dsimp only
  split
  · rfl
  · refine look_map_rel (R := SameStops) ?_ ?_ ?_ s.parts p m
    · exact fun _ => rfl
    · exact fun _ => rfl
    · intro r k
      refine look_map_rel (R := fun x' x => x'.stopped = x.stopped) ?_ rfl ?_ r.2.queues k
      · exact fun _ => rfl
      · exact fun _ => rfl

theorem queue_finishCmd_stopped (r q : Nat) (seq : W32) (code : Nat) :
    (queue (finishCmd s r q seq code) p m).stopped = (queue s p m).stopped :=
  (queue_modCmd_stopped ..).trans (queue_accountShared_stopped s p m)

theorem queue_failQueue_stopped (r q code : Nat) : (queue (failQueue s r q code) p m).stopped = (queue s p m).stopped := by
  unfold failQueue
  generalize ((queue s r q).cmds.filter fun c => c.accepted && !c.done) = l
  induction l generalizing s with
  | nil => rfl
  | cons c l ih => exact (ih _).trans (queue_finishCmd_stopped ..)

/-- A queue is stopped by its own stop, and stays so through another's. -/
theorem queue_stopQueue_stopped (q cause : Nat) (seq : W32) (index : Nat) :
    (queue (stopQueue s p q cause seq index) p m).stopped = if m = q then true else (queue s p m).stopped := by
  rw [stopQueue, queue_postEvent, queue_modQueue]
  by_cases h : m = q <;> simp [h]

/-- A step of a fold that stops its own queue and starts none stops every queue of the list. -/
theorem stopped_foldl {f : State → Nat → State} (step : ∀ t q, (queue (f t q) p m).stopped = if m = q then true else (queue t p m).stopped)
    (l : List Nat) : (queue (l.foldl f s) p m).stopped = if m ∈ l then true else (queue s p m).stopped := by
  induction l generalizing s with
  | nil => simp
  | cons q l ih =>
    rw [List.foldl_cons, ih, step]
    by_cases hq : m = q <;> simp [hq]

/-- TEARDOWN stops the queues of its context (R373). -/
theorem teardown_stopped {ctx : Nat} (code : Nat) (slot : m ∈ slotsOf s p) (user : m ≠ 0) (bound : (queue s p m).bound = true)
    (here : (queue s p m).ctx = ctx) : (queue (teardown s p ctx code) p m).stopped = true := by
  unfold teardown
  dsimp only
  rw [stopped_foldl]
  · rw [if_pos (List.mem_filter.2 ⟨slot, by simp [bound, user, here]⟩)]
  · intro t q
    rw [queue_stopQueue_stopped, queue_failQueue_stopped]

end

/-! ### The groups that come back (R159, R345) -/

theorem dropFailed_eq {s : State} {gid : Nat} (sound : failedOf s gid = []) : dropFailed s gid = s := by
  have kept : ∀ a ∈ s.accs, (!(a.gid == gid && (a.failed != 0 || (a.kind == .load && ([] : List Nat).contains a.instr)))) = true := by
    intro a ha
    have fine := List.filter_eq_nil_iff.1 sound a ha
    simpa [imp_iff_not_or] using fine
  rw [dropFailed, sound]
  exact congrArg (fun l => { s with accs := l }) (List.filter_eq_self.2 kept)

/-- A resident group with no access that failed comes back in place, and its park record is free. -/
theorem resumeGroup_eq {s : State} {p ctx n gid : Nat} {x : Group} {d : Ctx} (f : Group → Group) (again : Bool)
    (parked : parkedAt s p ctx n = some gid) (here : group s gid = some x) (sound : failedOf s gid = []) (context : ctxOf s p ctx = some d) :
    resumeGroup s p ctx n f again = setGroup (clearRecord s p d n) gid (some (f x)) := by
  have cleared := offMemory_clearRecord s p d n
  have still : group (clearRecord s p d n) gid = some x := (group_eq_of_groups (groups_of_offMemory cleared) gid).trans here
  have none_failed : failedOf (clearRecord s p d n) gid = [] := by
    rw [failedOf, accs_of_offMemory cleared]
    exact sound
  have same : parkedAt (clearRecord s p d n) p ctx n = some gid := by
    rw [parkedAt, groups_of_offMemory cleared]
    exact parked
  have brought : modGroup (clearRecord s p d n) gid f = setGroup (clearRecord s p d n) gid (some (f x)) := by
    rw [modGroup, still]; rfl
  unfold resumeGroup
  rw [context]
  dsimp only
  rw [same]
  dsimp only
  simp only [none_failed, List.any_nil, Bool.false_eq_true, if_false, brought]
  cases again with
  | true => rw [if_pos rfl, List.foldl_nil]
  | false =>
    rw [if_neg Bool.false_ne_true, dropFailed_eq]
    exact none_failed

end Sys2Proof.Machine

/-! REPLAY of a parked group (R159, R345, R373). It settles O31. -/

namespace Sys2Proof.Machine

/-! ### RETRY and SKIP of the group (R159, R345) -/

theorem retryGroup_eq {x : Group} {k : Park} (parked : x.park = some k) :
    retryGroup x = if k.code = 0x71#8 ∨ k.code = 0x72#8 then
      { x with park := none, paths := x.paths.map fun z => { z with st := .live }, fence := x.fence.filter fun f => !f.forBarrier }
    else { x with park := none } := by
  unfold retryGroup
  rw [parked]
  simp

/-- A path that the skipped instruction belongs to goes on by one instruction. -/
def afterSkipped (k : Park) (z : Path) : Path :=
  if z.st = .live ∧ z.mask ≠ 0 ∧ z.pc = k.pc ∧ z.mask &&& k.mask ≠ 0 then { z with pc := z.pc + 8 } else z

theorem skipGroup_of_waiting {x : Group} {k : Park} (parked : x.park = some k) (waiting : k.code = 0x71#8 ∨ k.code = 0x72#8) :
    ∃ l f, skipGroup x = { x with park := none, paths := l, fence := f } := by
  unfold skipGroup
  rw [parked]
  simp only [Bool.or_eq_true, decide_eq_true_eq, waiting, if_true]
  exact ⟨_, _, rfl⟩

theorem skipGroup_of_async {x : Group} {k : Park} (parked : x.park = some k) (running : ¬(k.code = 0x71#8 ∨ k.code = 0x72#8))
    (late : k.async = true) : skipGroup x = { x with park := none } := by
  unfold skipGroup
  rw [parked]
  simp only [Bool.or_eq_true, decide_eq_true_eq, running, if_false, late, if_true]

theorem skipGroup_of_sync {x : Group} {k : Park} (parked : x.park = some k) (running : ¬(k.code = 0x71#8 ∨ k.code = 0x72#8))
    (there : k.async = false) :
    skipGroup x = { x with park := none, mmaStep := none, image := [], paths := x.paths.map (afterSkipped k) } := by
  unfold skipGroup
  rw [parked]
  simp only [Bool.or_eq_true, decide_eq_true_eq, running, if_false, there, Bool.false_eq_true]
  congr 1
  refine List.map_congr_left fun z _ => ?_
  simp [afterSkipped, isLive, and_assoc]

/-- What RETRY makes of a parked group. -/
structure Retried (x : Group) (k : Park) (y : Group) : Prop where
  free : y.park = none
  regs : y.regs = x.regs
  accs : y.accs = x.accs
  again : k.code ≠ 0x71#8 → k.code ≠ 0x72#8 → y = { x with park := none }
  waiting : k.code = 0x71#8 ∨ k.code = 0x72#8 → y.paths = x.paths.map fun z => { z with st := .live }

theorem retried_retryGroup {x : Group} {k : Park} (parked : x.park = some k) : Retried x k (retryGroup x) := by
  rw [retryGroup_eq parked]
  by_cases waiting : k.code = 0x71#8 ∨ k.code = 0x72#8
  · rw [if_pos waiting]
    exact ⟨rfl, rfl, rfl, fun h1 h2 => (waiting.elim h1 h2).elim, fun _ => rfl⟩
  · rw [if_neg waiting]
    exact ⟨rfl, rfl, rfl, fun _ _ => rfl, fun h => (waiting h).elim⟩

/-- What SKIP makes of a parked group. -/
structure Skipped (x : Group) (k : Park) (y : Group) : Prop where
  free : y.park = none
  regs : y.regs = x.regs
  accs : y.accs = x.accs
  late : k.code ≠ 0x71#8 → k.code ≠ 0x72#8 → k.async = true → y = { x with park := none }
  after : k.code ≠ 0x71#8 → k.code ≠ 0x72#8 → k.async = false →
    y = { x with park := none, mmaStep := none, image := [], paths := y.paths } ∧ y.paths = x.paths.map (afterSkipped k)

theorem skipped_skipGroup {x : Group} {k : Park} (parked : x.park = some k) : Skipped x k (skipGroup x) := by
  by_cases waiting : k.code = 0x71#8 ∨ k.code = 0x72#8
  · obtain ⟨l, f, e⟩ := skipGroup_of_waiting parked waiting
    rw [e]
    exact ⟨rfl, rfl, rfl, fun h1 h2 => (waiting.elim h1 h2).elim, fun h1 h2 => (waiting.elim h1 h2).elim⟩
  · cases late : k.async with
    | true =>
      rw [skipGroup_of_async parked waiting late]
      exact ⟨rfl, rfl, rfl, fun _ _ _ => rfl, fun _ _ h => Bool.noConfusion (late.symm.trans h)⟩
    | false =>
      rw [skipGroup_of_sync parked waiting late]
      exact ⟨rfl, rfl, rfl, fun _ _ h => Bool.noConfusion (late.symm.trans h), fun _ _ _ => ⟨rfl, rfl⟩⟩

/-! ### The command (R371, R373) -/

theorem isAction_of_eq {a : Nat} {c : Cmd} (row : cw c 1 33 32 = a) : isAction a c = true := beq_iff_eq.2 row

theorem replayFault_of_parkedAt {s : State} {p : Nat} {c : Cmd} {gid : Nat} (h : parkedAt s p (cw c 2 15 0) (cw c 1 31 0) = some gid) :
    replayFault s p c = 0 := by
  simp [replayFault, h]

section
variable {s : State} {p q : Nat} {seq : W32} {c : Cmd} (turn : HasTurn s p q seq 0x03 c)
include turn

theorem exec_retry (row : cw c 1 33 32 = 0) : exec (.retry p q seq) s = .next (if replayFault s p c ≠ 0
    then finishCmd s p q seq (replayFault s p c)
    else finishCmd (resumeGroup s p (cw c 2 15 0) (cw c 1 31 0) retryGroup true) p q seq 0) := by
  change execRetry p q seq s = _
  rw [execRetry, runCmd_turn turn (isAction_of_eq row), seq_of_findCmd turn.here, onUnit, if_pos turn.unit]

theorem exec_skip (row : cw c 1 33 32 = 1) : exec (.skip p q seq) s = .next (if replayFault s p c ≠ 0
    then finishCmd s p q seq (replayFault s p c)
    else finishCmd (resumeGroup s p (cw c 2 15 0) (cw c 1 31 0) skipGroup false) p q seq 0) := by
  change execSkip p q seq s = _
  rw [execSkip, runCmd_turn turn (isAction_of_eq row), seq_of_findCmd turn.here, onUnit, if_pos turn.unit]

theorem exec_teardown (row : cw c 1 33 32 = 2) : exec (.teardown p q seq) s = .next (if replayFault s p c ≠ 0
    then finishCmd s p q seq (replayFault s p c)
    else finishCmd (teardown s p (cw c 2 15 0) (parkCode s p (cw c 2 15 0) (cw c 1 31 0))) p q seq 0) := by
  change execTeardown p q seq s = _
  rw [execTeardown, runCmd_turn turn (isAction_of_eq row), seq_of_findCmd turn.here, onUnit, if_pos turn.unit]

end

/-- Settles O31: a resident group with no failed access comes back in place, freed of its record; what TEARDOWN discards leaves exactly
the other tasks, and no later step of it starts a queue again. -/
theorem replayParkedGroup : Obligations.ReplayParkedGroup := by
  unfold Obligations.ReplayParkedGroup
  rintro s p q seq c ctx n turn rfl rfl
  refine ⟨fun fault => ?_, fun gid x k parked here marked sound d u context hu => ?_, fun row sound => ?_⟩
  · have refused : replayFault s p c ≠ 0 := by rw [fault]; decide
    refine ⟨fun row => ?_, fun row => ?_, fun row => ?_⟩
    · rw [exec_retry turn row, if_pos refused, fault]
    · rw [exec_skip turn row, if_pos refused, fault]
    · rw [exec_teardown turn row, if_pos refused, fault]
  · subst hu
    have found := not_not.2 (replayFault_of_parkedAt parked)
    refine ⟨fun row => ⟨retryGroup x, ?_, ?_⟩, fun row => ⟨skipGroup x, ?_, ?_⟩⟩
    · rw [exec_retry turn row, if_neg found, resumeGroup_eq _ _ parked here sound context]
    · obtain ⟨free, regs, accs, again, waiting⟩ := retried_retryGroup marked
      exact ⟨free, regs, accs, again, waiting⟩
    · rw [exec_skip turn row, if_neg found, resumeGroup_eq _ _ parked here sound context]
    · obtain ⟨free, regs, accs, late, after⟩ := skipped_skipGroup marked
      exact ⟨free, regs, accs, late, after⟩
  · refine ⟨_, ?_, rfl, fun k hk => ?_, fun m slot user bound owner => ?_⟩
    · rw [exec_teardown turn row, if_neg (not_not.2 sound)]
    · rw [finishCmd_tasks] at hk
      have left := List.mem_filter.1 (teardown_tasks_subset s p _ _ hk)
      exact ⟨left.1, by simpa [imp_iff_not_or] using left.2⟩
    · rw [queue_finishCmd_stopped]
      exact teardown_stopped s p m _ slot user bound owner

end Sys2Proof.Machine

/-! SUPPORT. A step keeps what every operation keeps. It settles O4. -/

namespace Sys2Proof.Machine

/-- The effect of a command keeps what every shared operation keeps: by the law of its row. -/
theorem kept_exec {c : Instr} {s t : State} (e : exec c s = .next t) : Kept s t := by
  cases c with
  | mma => exact kept_execMma e
  | accLoad => exact kept_execAccLoad e
  | accRelease => exact kept_execAccRelease e
  | accRound => exact kept_execAccRound e
  | accPush => exact kept_execAccPush e
  | accSave => exact kept_execAccSave e
  | accRestore => exact kept_execAccRestore e
  | tld => exact kept_execTld e
  | tst => exact kept_execTst e
  | add => exact kept_execAdd e
  | sub => exact kept_execSub e
  | mul => exact kept_execMul e
  | fma => exact kept_execFma e
  | min => exact kept_execMin e
  | max => exact kept_execMax e
  | compare => exact kept_execCompare e
  | logic => exact kept_execLogic e
  | shift => exact kept_execShift e
  | multiplyAdd => exact kept_execMultiplyAdd e
  | div => exact kept_execDiv e
  | sqrt => exact kept_execSqrt e
  | cvt => exact kept_execCvt e
  | dadd => exact kept_execDadd e
  | dsub => exact kept_execDsub e
  | dmul => exact kept_execDmul e
  | dmulf => exact kept_execDmulf e
  | rcp => exact kept_execRcp e
  | rsq => exact kept_execRsq e
  | ex2 => exact kept_execEx2 e
  | lg2 => exact kept_execLg2 e
  | sinpi => exact kept_execSinpi e
  | cospi => exact kept_execCospi e
  | tanh => exact kept_execTanh e
  | sigm => exact kept_execSigm e
  | sfTime => exact kept_execSfTime e
  | bra => exact kept_execBra e
  | join => exact kept_execJoin e
  | barT => exact kept_execBarT e
  | exit => exact kept_execExit e
  | yield => exact kept_execYield e
  | ldl => exact kept_execLdl e
  | stl => exact kept_execStl e
  | atoml => exact kept_execAtoml e
  | ld => exact kept_execLd e
  | st => exact kept_execSt e
  | atom => exact kept_execAtom e
  | red => exact kept_execRed e
  | cruClose => exact kept_execCruClose e
  | fenceRel => exact kept_execFenceRel e
  | fenceAcq => exact kept_execFenceAcq e
  | fenceComplete => exact kept_execFenceComplete e
  | enq => exact kept_execEnq e
  | doorbell => exact kept_execDoorbell e
  | commandFetch => exact kept_execCommandFetch e
  | launch => exact kept_execLaunch e
  | nop => exact kept_execNop e
  | retry => exact kept_execRetry e
  | skip => exact kept_execSkip e
  | teardown => exact kept_execTeardown e
  | invTlb => exact kept_execInvTlb e
  | invRo => exact kept_execInvRo e
  | createContext => exact kept_execCreateContext e
  | destroyContext => exact kept_execDestroyContext e
  | createQueue => exact kept_execCreateQueue e
  | destroyQueue => exact kept_execDestroyQueue e
  | registerGraph => exact kept_execRegisterGraph e
  | patchGraph => exact kept_execPatchGraph e
  | releaseGraph => exact kept_execReleaseGraph e
  | setEventRing => exact kept_execSetEventRing e
  | retireRows => exact kept_execRetireRows e
  | selfTest => exact kept_execSelfTest e
  | resetPartition => exact kept_execResetPartition e
  | imgBegin => exact kept_execImgBegin e
  | imgWrite => exact kept_execImgWrite e
  | imgFinish => exact kept_execImgFinish e
  | imgCommit => exact kept_execImgCommit e
  | imgAbort => exact kept_execImgAbort e
  | commandComplete => exact kept_execCommandComplete e
  | nodeStart => exact kept_execNodeStart e
  | timeSliceEnd => exact kept_execTimeSliceEnd e
  | budgetOverrun => exact kept_execBudgetOverrun e
  | hostSyncPoll => exact kept_execHostSyncPoll e
  | dmaDescriptor => exact kept_execDmaDescriptor e
  | admissionPass => exact kept_execAdmissionPass e
  | preload => exact kept_execPreload e
  | teamStart => exact kept_execTeamStart e
  | teamDone => exact kept_execTeamDone e
  | dmaDone => exact kept_execDmaDone e
  | collDone => exact kept_execCollDone e
  | preempt => exact kept_execPreempt e
  | resume => exact kept_execResume e
  | discard => exact kept_execDiscard e
  | ptPurge => exact kept_execPtPurge e
  | dmaRd => exact kept_execDmaRd e
  | dmaWr => exact kept_execDmaWr e
  | coll => exact kept_execColl e
  | enqRec => exact kept_execEnqRec e
  | rdWin => exact kept_execRdWin e
  | wrWin => exact kept_execWrWin e
  | rdReg => exact kept_execRdReg e
  | wrReg => exact kept_execWrReg e
  | registerWrite => exact kept_execRegisterWrite e
  | rdRem => exact kept_execRdRem e
  | wrRem => exact kept_execWrRem e
  | flushRem => exact kept_execFlushRem e
  | invRem => exact kept_execInvRem e
  | keyLoad => exact kept_execKeyLoad e
  | rdS => exact kept_execRdS e
  | rdE => exact kept_execRdE e
  | upg => exact kept_execUpg e
  | rdOnce => exact kept_execRdOnce e
  | drop => exact kept_execDrop e
  | reg => exact kept_execReg e
  | snpS => exact kept_execSnpS e
  | snpI => exact kept_execSnpI e
  | snpR => exact kept_execSnpR e
  | binv => exact kept_execBinv e
  | sackI => exact kept_execSackI e
  | sackS => exact kept_execSackS e
  | grantE => exact kept_execGrantE e
  | grantM => exact kept_execGrantM e
  | wbAck => exact kept_execWbAck e
  | regAck => exact kept_execRegAck e
  | dataS => exact kept_execDataS e
  | dataE => exact kept_execDataE e
  | dataM => exact kept_execDataM e
  | sdata => exact kept_execSdata e
  | dataOnce => exact kept_execDataOnce e
  | wb => exact kept_execWb e
  | wfwd => exact kept_execWfwd e
  | fill => exact kept_execFill e
  | clusterFill => exact kept_execClusterFill e
  | spoilWriteOut => exact kept_execSpoilWriteOut e
  | ledgerRecords => exact kept_execLedgerRecords e
  | pairRecords => exact kept_execPairRecords e
  | roundedUpdate => exact kept_execRoundedUpdate e
  | closeLine => exact kept_execCloseLine e
  | closeTask => exact kept_execCloseTask e
  | crusherAck => exact kept_execCrusherAck e
  | lineBringBack => exact kept_execLineBringBack e
  | flitError => exact kept_execFlitError e
  | roCacheEnable => exact kept_execRoCacheEnable e
  | sliceEnable => exact kept_execSliceEnable e
  | refresh => exact kept_execRefresh e
  | disturbanceRefresh => exact kept_execDisturbanceRefresh e
  | patrolScrub => exact kept_execPatrolScrub e
  | arrayScrub => exact kept_execArrayScrub e
  | retrainWindow => exact kept_execRetrainWindow e
  | faceRecalibration => exact kept_execFaceRecalibration e
  | temperatureReadout => exact kept_execTemperatureReadout e
  | dataFrame => exact kept_execDataFrame e
  | idleFrame => exact kept_execIdleFrame e
  | capFrame => exact kept_execCapFrame e
  | widthFrame => exact kept_execWidthFrame e
  | alignFrame => exact kept_execAlignFrame e
  | recalFrame => exact kept_execRecalFrame e
  | nakRepeat => exact kept_execNakRepeat e
  | frameTimeout => exact kept_execFrameTimeout e
  | lossOfSignal => exact kept_execLossOfSignal e
  | octetRecalibration => exact kept_execOctetRecalibration e
  | lnkCmdRetire => exact kept_execLnkCmdRetire e
  | lnkCmdRecal => exact kept_execLnkCmdRecal e
  | rdmaWrite => exact kept_execRdmaWrite e
  | rdmaReadRequest => exact kept_execRdmaReadRequest e
  | fetchAdd => exact kept_execFetchAdd e
  | cmpSwap => exact kept_execCmpSwap e
  | unsupportedOperation => exact kept_execUnsupportedOperation e
  | rdmaReadResponse => exact kept_execRdmaReadResponse e
  | acknowledge => exact kept_execAcknowledge e
  | nak => exact kept_execNak e
  | rnrNak _ _ timer => exact kept_execRnrNak (_timer := timer) e
  | ackTimeout => exact kept_execAckTimeout e
  | cnp => exact kept_execCnp e
  | cnpRateIncrease => exact kept_execCnpRateIncrease e
  | pfcFrame => exact kept_execPfcFrame e
  | req => exact kept_execReq e
  | rep => exact kept_execRep e
  | rtu => exact kept_execRtu e
  | rej _ reason => exact kept_execRej (_reason := reason) e
  | dreq => exact kept_execDreq e
  | drep => exact kept_execDrep e
  | windowReqRetry => exact kept_execWindowReqRetry e
  | arp => exact kept_execArp e
  | neighborDiscovery => exact kept_execNeighborDiscovery e
  | delayReq => exact kept_execDelayReq e
  | pdelayReq => exact kept_execPdelayReq e
  | unmatchedFrame => exact kept_execUnmatchedFrame e
  | portUp => exact kept_execPortUp e
  | portDown => exact kept_execPortDown e
  | softStart => exact kept_execSoftStart e
  | supplyWarning => exact kept_execSupplyWarning e
  | warningCleared => exact kept_execWarningCleared e
  | coldReset => exact kept_execColdReset e
  | overvoltage => exact kept_execOvervoltage e
  | modResetAssert => exact kept_execModResetAssert e
  | modResetRelease => exact kept_execModResetRelease e
  | flashEnAssert => exact kept_execFlashEnAssert e
  | flashEnRelease => exact kept_execFlashEnRelease e
  | currentSample => exact kept_execCurrentSample e
  | powerCapLoop => exact kept_execPowerCapLoop e
  | pwrCapWrite => exact kept_execPwrCapWrite e
  | sensorSample => exact kept_execSensorSample e
  | hotSensorTimeout => exact kept_execHotSensorTimeout e
  | latchSensorRead => exact kept_execLatchSensorRead e
  | droopTrip => exact kept_execDroopTrip e
  | droopEnd => exact kept_execDroopEnd e
  | droopLimit => exact kept_execDroopLimit e
  | withholdSummary => exact kept_execWithholdSummary e
  | ageingMonitorRead => exact kept_execAgeingMonitorRead e
  | oscillatorCheck => exact kept_execOscillatorCheck e
  | watchdogExpiry => exact kept_execWatchdogExpiry e
  | firmwareWatchdog => exact kept_execFirmwareWatchdog e
  | domainFatal => exact kept_execDomainFatal e
  | restartResume => exact kept_execRestartResume e
  | coldStart => exact kept_execColdStart e
  | reducedService => exact kept_execReducedService e
  | logicSelfTestDone => exact kept_execLogicSelfTestDone e
  | ledgerSelfTestDone => exact kept_execLedgerSelfTestDone e
  | fullService => exact kept_execFullService e
  | journalProgram => exact kept_execJournalProgram e
  | errorSnapshot => exact kept_execErrorSnapshot e
  | qdbCtlDiscard => exact kept_execQdbCtlDiscard e
  | qdbCtlResync => exact kept_execQdbCtlResync e
  | qdbEvtailWrite => exact kept_execQdbEvtailWrite e
  | secQuoteCtlGo => exact kept_execSecQuoteCtlGo e
  | quoteComplete => exact kept_execQuoteComplete e
  | rnrTimerExpiry => exact kept_execRnrTimerExpiry e
  | overvoltageCleared => exact kept_execOvervoltageCleared e
  | fru3v3Removal => exact kept_execFru3v3Removal e
  | controlSegmentPoll => exact kept_execControlSegmentPoll e
  | controlComplexStepChange => exact kept_execControlComplexStepChange e
  | fecUncorrectableFrame => exact kept_execFecUncorrectableFrame e

/-- A step keeps memory canonical: a tick does not write it, and a command starts from the same memory with the queue's rest. -/
theorem wf_mem_step {s t : State} (w : Memory.wf s.mem = true) (e : step s = .next t) : Memory.wf t.mem = true := by
  unfold step at e
  split at e
  · cases e
    exact (kept_tick Kept.rfl).mem w
  · exact (kept_exec e).mem w

/-- Settles O4: every row writes memory by operations that keep its canonical form. -/
theorem stepKeepsMemoryCanonical : Obligations.StepKeepsMemoryCanonical := by
  unfold Obligations.StepKeepsMemoryCanonical
  exact fun _ _ => wf_mem_step

end Sys2Proof.Machine

/-! SUPPORT. What the fetch and the issue of an instruction leave: memory and the groups as its effect leaves them, and read caches that
do not depend on its effect. -/

namespace Sys2Proof.Machine

/-! ### The fetch touches clusters and clocks only (R48, R156, R248) -/

/-- The state without what the fetch and the issue may change: the clusters, the dies' counters, the port time. -/
def offIssue (s : State) : State := { s with clusters := [], dies := [], portTime := 0, portPhase := 0 }

theorem offIssue_foldl {β : Type} {f : State → β → State} (h : ∀ s b, offIssue (f s b) = offIssue s) (l : List β) (s : State) :
    offIssue (l.foldl f s) = offIssue s := by
  induction l generalizing s with
  | nil => rfl
  | cons b l ih => exact (ih _).trans (h s b)

/-- A tick counts on the clocks alone. -/
theorem tick_eq (s : State) : tick s = { s with dies := (tick s).dies, portTime := (tick s).portTime, portPhase := (tick s).portPhase } := by
  have dies : ∀ (l : List Nat) t, ∃ m, (l.foldl (fun s d => if d = 8 || d < dieCount s.variant then modDie s d (tickDie d) else s) t) =
      { t with dies := m } := by
    intro l
    induction l with
    | nil => exact fun t => ⟨t.dies, rfl⟩
    | cons d l ih =>
      intro t
      rw [List.foldl_cons]
      split_ifs
      · exact ih (modDie t d (tickDie d))
      · exact ih t
  unfold tick
  split_ifs
  · obtain ⟨m, counted⟩ := dies (List.range 9) (tickPort s)
    rw [tickDies, counted]
    rfl
  · rfl

theorem clusters_tick (s : State) : (tick s).clusters = s.clusters := by rw [tick_eq]

theorem offIssue_paid (s : State) (gid : Nat) (r : State) : offIssue (paid s gid r) = offIssue r := by
  unfold paid
  dsimp only
  split_ifs
  · rfl
  · rw [tick_eq]; rfl
  · rfl

theorem offIssue_fetched (s : State) (gid : Nat) (x : Group) (p : Path) (r : State) : offIssue (fetched s gid x p r) = offIssue r := by
  unfold fetched
  dsimp only
  split
  · exact offIssue_paid s gid r
  · next pa _ e ptrs _ =>
    have translated : offIssue (ptrs.foldl (fun r x => ptrAdd r (gidCluster gid) x) (tlbAdd (paid s gid r) (gidCluster gid) e)) = offIssue r :=
      (offIssue_foldl (f := fun r x => ptrAdd r (gidCluster gid) x) (fun _ _ => rfl) _ _).trans (offIssue_paid s gid r)
    split_ifs
    · exact translated
    · exact translated

@[simp] theorem mem_fetched (s : State) (gid : Nat) (x : Group) (p : Path) (r : State) : (fetched s gid x p r).mem = r.mem :=
  (congrArg State.mem (offIssue_fetched s gid x p r) : (offIssue (fetched s gid x p r)).mem = (offIssue r).mem)

@[simp] theorem group_fetched (s : State) (gid : Nat) (x : Group) (p : Path) (r : State) (i : Nat) :
    group (fetched s gid x p r) i = group r i :=
  group_eq_of_groups (congrArg State.groups (offIssue_fetched s gid x p r) : (offIssue (fetched s gid x p r)).groups = (offIssue r).groups) i

/-! ### Read caches (R167, R248) -/

/-- What decides the lines of a cluster's read-only caches: the lines held, the size of the local store, whether they are enabled. -/
def roView (x : Cluster) : List RoLine × Nat × Bool := (x.ro, x.ls, x.roEnabled)

/-- Two states whose read-only caches hold the same lines and will take the same ones. -/
def SameCaches (s t : State) : Prop := ∀ c, roView (cluster t c) = roView (cluster s c)

theorem sameCaches_of_clusters {s t : State} (h : t.clusters = s.clusters) : SameCaches s t :=
  fun c => congrArg roView (cluster_eq_of_clusters h c)

theorem SameCaches.symm {s t : State} (h : SameCaches s t) : SameCaches t s := fun c => (h c).symm

theorem SameCaches.trans {s t u : State} (h : SameCaches s t) (k : SameCaches t u) : SameCaches s u := fun c => (k c).trans (h c)

theorem SameCaches.ro {s t : State} (h : SameCaches s t) (c : Nat) : (cluster t c).ro = (cluster s c).ro := congrArg Prod.fst (h c)

theorem sameCaches_modCluster (s : State) (cl : Nat) {f : Cluster → Cluster} (hf : ∀ x, roView (f x) = roView x) :
    SameCaches s (modCluster s cl f) := by
  intro c
  rw [cluster_modCluster]
  split_ifs with h
  · rw [h, hf]
  · rfl

theorem sameCaches_foldl {β : Type} {f : State → β → State} (h : ∀ s b, SameCaches s (f s b)) (l : List β) (s : State) :
    SameCaches s (l.foldl f s) := by
  induction l generalizing s with
  | nil => exact fun _ => rfl
  | cons b l ih => exact (h s b).trans (ih _)

theorem sameCaches_paid (s : State) (gid : Nat) (r : State) : SameCaches r (paid s gid r) := by
  have token : SameCaches r (takeToken r gid) := sameCaches_modCluster r _ fun _ => rfl
  unfold paid
  dsimp only
  split_ifs
  · exact token
  · exact token.trans (sameCaches_of_clusters (clusters_tick _))
  · exact fun _ => rfl

theorem sameCaches_tlbAdd (s : State) (cl : Nat) (e : TlbEntry) : SameCaches s (tlbAdd s cl e) :=
  sameCaches_modCluster s cl fun x => by split_ifs <;> rfl

theorem sameCaches_ptrAdd (s : State) (cl : Nat) (e : PtrEntry) : SameCaches s (ptrAdd s cl e) :=
  sameCaches_modCluster s cl fun x => by split_ifs <;> rfl

theorem roView_roFill {x y : Cluster} (h : roView y = roView x) (core line : Nat) (d : Line) :
    roView (roFill y core line d) = roView (roFill x core line d) := by
  simp only [roView, Prod.mk.injEq] at h
  obtain ⟨ro, ls, enabled⟩ := h
  simp only [roFill, roRoom, roSet, roSets, ro, ls, enabled]
  split_ifs <;> simp [roView, ro, ls, enabled]

theorem SameCaches.roFillBoth {s t : State} (h : SameCaches s t) (cl core line : Nat) (d : Line) :
    SameCaches (roFillBoth s cl core line d) (roFillBoth t cl core line d) := by
  intro c
  unfold Machine.roFillBoth
  rw [cluster_modCluster, cluster_modCluster]
  split_ifs
  · exact roView_roFill (roView_roFill (h cl) _ _ _) _ _ _
  · exact h c

/-- The read caches after an instruction are those of its fetch, whatever else the instruction does. -/
theorem SameCaches.fetched {r t : State} (h : SameCaches r t) (s : State) (gid : Nat) (x : Group) (p : Path) :
    SameCaches (fetched s gid x p r) (fetched s gid x p t) := by
  have paid := ((sameCaches_paid s gid r).symm.trans h).trans (sameCaches_paid s gid t)
  unfold Machine.fetched
  dsimp only
  split
  · exact paid
  · next pa _ e ptrs _ =>
    have listed := fun u => (sameCaches_tlbAdd u (gidCluster gid) e).trans
      (sameCaches_foldl (fun v (q : PtrEntry) => sameCaches_ptrAdd v (gidCluster gid) q) ptrs _)
    have translated := ((listed (Machine.paid s gid r)).symm.trans paid).trans (listed (Machine.paid s gid t))
    split_ifs
    · exact translated
    · exact translated.roFillBoth _ _ _ _

end Sys2Proof.Machine

/-! SUPPORT. LDL, STL and ATOML act on the team's part of its cluster's memory (R168 to R171). It settles O21 and O22. -/

namespace Sys2Proof.Machine
open Sys2Proof.Num

/-! ### Addresses of local space (R168 to R170) -/

theorem localAddr_eq_none_iff {s : State} {gid : Nat} {x : Group} {l ro off size : Nat} :
    localAddr s gid x l ro off size = none ↔ (teamStore s gid x).2 < localOffset x l ro off size + size := by
  unfold localAddr
  dsimp only
  split_ifs with out <;> simp [out]

theorem localAddr_eq_some_iff {s : State} {gid : Nat} {x : Group} {l ro off size a : Nat} :
    localAddr s gid x l ro off size = some a ↔ localOffset x l ro off size + size ≤ (teamStore s gid x).2 ∧
      windowAddr (gidCluster gid) ((teamStore s gid x).1 + localOffset x l ro off size) = a := by
  unfold localAddr
  dsimp only
  split_ifs with out
  · exact ⟨nofun, fun h => absurd h.1 (by omega)⟩
  · rw [Option.some.injEq]
    exact ⟨fun h => ⟨by omega, h⟩, fun h => h.2⟩

/-- Which bytes local space names depends on the teams of the clusters alone. -/
theorem localAddr_congr {s t : State} (h : t.clusters = s.clusters) (gid : Nat) (x : Group) (l ro off size : Nat) :
    localAddr t gid x l ro off size = localAddr s gid x l ro off size := by
  unfold localAddr teamStore
  rw [cluster_eq_of_clusters h]

/-- An access in range lies in the team's allocation. -/
theorem localAddr_within {s : State} {gid : Nat} {x : Group} {l ro off size a : Nat} (h : localAddr s gid x l ro off size = some a) :
    windowAddr (gidCluster gid) (teamStore s gid x).1 ≤ a ∧
      a + size ≤ windowAddr (gidCluster gid) ((teamStore s gid x).1 + (teamStore s gid x).2) := by
  obtain ⟨inside, rfl⟩ := localAddr_eq_some_iff.1 h
  unfold windowAddr
  omega

/-- The group's team has its store in the window of a cluster of the variant. -/
structure StoreInWindow (s : State) (g : GRef) (x : Group) : Prop where
  cluster : g.cl < clusterCount s.variant
  fits : (teamStore s (gidOf g) x).1 + (teamStore s (gidOf g) x).2 ≤ 0x600000

theorem target_of_localAddr {s : State} {g : GRef} {x : Group} {l ro off size a : Nat} (hg : g.ok = true) (hw : StoreInWindow s g x)
    (hsize : 0 < size) (h : localAddr s (gidOf g) x l ro off size = some a) : ∃ o, target s.variant a = .window g.cl o := by
  obtain ⟨hcl, fits⟩ := hw
  obtain ⟨inside, rfl⟩ := localAddr_eq_some_iff.1 h
  rw [gidCluster_gidOf hg]
  refine ⟨(teamStore s (gidOf g) x).1 + localOffset x l ro off size, ?_⟩
  have few := dieCount_le s.variant
  rw [target_eq_window_iff]
  simp only [clusterCount, windowAddr, winBase, regBase, winStride] at hcl ⊢
  omega

/-- No word that the lanes read is uncorrectable. -/
def LanesSound (s : State) (size : Nat) (addr : Nat → Option Nat) (m : W32) : Prop :=
  ∀ l ∈ lanes m, ∀ a ∈ addr l, poisonPhys s a size = 0

theorem localPoison_eq_none {s : State} {size : Nat} {addr : Nat → Option Nat} {m : W32} (h : LanesSound s size addr m) :
    localPoison s size ((lanes m).map fun l => (l, addr l)) = none := by
  unfold localPoison
  rw [List.findSome?_map, List.findSome?_eq_none_iff]
  intro l hl
  cases ha : addr l with
  | none => simp [ha]
  | some a => simp [ha, h l hl a ha]

/-! ### Writes of lanes (R334) -/

/-- The state differs in memory and its marks only. -/
def OnlyMemory (s t : State) : Prop := t = { s with mem := t.mem, poison := t.poison }

theorem OnlyMemory.trans {s t u : State} (h : OnlyMemory s t) (k : OnlyMemory t u) : OnlyMemory s u := by
  unfold OnlyMemory at *
  rw [k, h]

theorem OnlyMemory.variant {s t : State} (h : OnlyMemory s t) : t.variant = s.variant := by
  unfold OnlyMemory at h
  rw [h]

theorem onlyMemory_writePhys {s : State} {pa c off : Nat} (h : target s.variant pa = .window c off) (bs : List Byte) (attr : Nat) :
    OnlyMemory s (writePhys s pa bs attr) := by
  unfold OnlyMemory writePhys
  rw [h]

/-- Each lane in range writes its bytes, the lowest lane first. -/
def storeLanes (addr : Nat → Option Nat) (bytes : State → Nat → Nat → List Byte) (ls : List Nat) (s : State) : State :=
  ls.foldl (fun t l => match addr l with
    | none => t
    | some a => writePhys t a (bytes t l a) 0) s

section
variable {addr : Nat → Option Nat} {bytes : State → Nat → Nat → List Byte}

theorem offMemory_storeLanes (ls : List Nat) (s : State) : offMemory (storeLanes addr bytes ls s) = offMemory s :=
  offMemory_foldl (fun t l => by split <;> simp) ls s

variable {s : State} (hw : ∀ l a, addr l = some a → ∃ c o, target s.variant a = .window c o)
include hw

theorem onlyMemory_storeLanes (ls : List Nat) : OnlyMemory s (storeLanes addr bytes ls s) := by
  induction ls using List.reverseRecOn with
  | nil => exact rfl
  | append_singleton ls l ih =>
    have same := ih.variant
    unfold storeLanes at *
    rw [List.foldl_append, List.foldl_cons, List.foldl_nil]
    cases ha : addr l with
    | none => exact ih
    | some a =>
      obtain ⟨c, o, window⟩ := hw l a ha
      exact ih.trans (onlyMemory_writePhys (by rw [same]; exact window) _ _)

theorem storeLanes_concat_mem (ls : List Nat) (l : Nat) : (storeLanes addr bytes (ls ++ [l]) s).mem =
    match addr l with
    | none => (storeLanes addr bytes ls s).mem
    | some a => writeBytes (storeLanes addr bytes ls s).mem a (bytes (storeLanes addr bytes ls s) l a) := by
  have same := (onlyMemory_storeLanes (bytes := bytes) hw ls).variant
  unfold storeLanes at *
  rw [List.foldl_append, List.foldl_cons, List.foldl_nil]
  cases ha : addr l with
  | none => rfl
  | some a =>
    obtain ⟨c, o, window⟩ := hw l a ha
    exact writePhys_window_mem (by rw [same]; exact window) _ _

/-- A byte that differs is one that a lane in range wrote. -/
theorem storeLanes_frame {size : Nat} (hlen : ∀ t l a, (bytes t l a).length = size) {ls : List Nat} {b : Nat}
    (h : readByte (storeLanes addr bytes ls s).mem b ≠ readByte s.mem b) : ∃ l ∈ ls, ∃ a ∈ addr l, a ≤ b ∧ b < a + size := by
  induction ls using List.reverseRecOn with
  | nil => exact absurd rfl h
  | append_singleton ls l ih =>
    rw [storeLanes_concat_mem hw] at h
    by_cases before : readByte (storeLanes addr bytes ls s).mem b = readByte s.mem b
    · cases ha : addr l with
      | none => rw [ha] at h; exact absurd before h
      | some a =>
        rw [ha] at h
        refine ⟨l, by simp, a, ha, ?_⟩
        by_contra outside
        exact h ((readByte_writeBytes_outside _ _ _ _ (by rw [hlen]; omega)).trans before)
    · obtain ⟨k, hk, found⟩ := ih before
      exact ⟨k, List.mem_append_left _ hk, found⟩

end

/-- Does the access of a lane of `size` bytes hold the byte? -/
def laneHolds (addr : Nat → Option Nat) (size b l : Nat) : Bool :=
  match addr l with
  | none => false
  | some a => decide (a ≤ b) && decide (b < a + size)

/-- Each byte is that of the highest lane that stores to it. -/
theorem readByte_storeLanes {addr : Nat → Option Nat} {val : Nat → Nat} {size : Nat} {s : State}
    (hw : ∀ l a, addr l = some a → ∃ c o, target s.variant a = .window c o) (ls : List Nat) (b : Nat) :
    readByte (storeLanes addr (fun _ l _ => leBytes size (val l)) ls s).mem b =
      match ls.reverse.find? (laneHolds addr size b) with
      | none => readByte s.mem b
      | some l => match addr l with
        | none => readByte s.mem b
        | some a => BitVec.ofNat 8 (val l >>> (8 * (b - a))) := by
  induction ls using List.reverseRecOn with
  | nil => rfl
  | append_singleton ls l ih =>
    rw [storeLanes_concat_mem hw, List.reverse_append, List.reverse_singleton, List.singleton_append]
    cases ha : addr l with
    | none => rw [List.find?_cons_of_neg (by simp [laneHolds, ha])]; exact ih
    | some a =>
      dsimp only
      by_cases inside : a ≤ b ∧ b < a + size
      · rw [List.find?_cons_of_pos (by simp [laneHolds, ha, inside])]
        obtain ⟨k, rfl⟩ := Nat.exists_eq_add_of_le inside.1
        rw [readByte_writeBytes_inside _ _ _ _ (by rw [length_leBytes]; omega), getElem_leBytes]
        dsimp only
        rw [ha]
        dsimp only
        rw [Nat.add_sub_cancel_left]
      · rw [List.find?_cons_of_neg (by simpa [laneHolds, ha] using inside),
          readByte_writeBytes_outside _ _ _ _ (by rw [length_leBytes]; omega)]
        exact ih

/-! ### Registers of the lanes (R93, R169) -/

section
variable {r n : Nat} {f : State → Nat → Nat × State}

/-- The lanes of a list, lowest first: each register block holds the value that its lane's function found, and nothing else differs. -/
theorem foldLanes_spec (hr : r + n ≤ 256) {ls : List Nat} (hls : ls.Pairwise (· < ·)) (s : State) (x : Group) :
    let q := ls.foldl (fun (q : State × Group) l => ((f q.1 l).2, writeBlock q.2 l r n (f q.1 l).1)) (s, x)
    q.1 = ls.foldl (fun t l => (f t l).2) s ∧ q.2 = { x with regs := q.2.regs } ∧
      (∀ l k, k < 256 → ¬(l ∈ ls ∧ r ≤ k ∧ k < r + n) → readReg q.2 l k = readReg x l k) ∧
      ∀ l ∈ ls, readBlock q.2 l r n = (f ((ls.filter (· < l)).foldl (fun t l => (f t l).2) s) l).1 % 2 ^ (32 * n) := by
  induction ls using List.reverseRecOn with
  | nil => exact ⟨rfl, rfl, fun _ _ _ _ => rfl, by simp⟩
  | append_singleton ls a ih =>
    obtain ⟨hls, -, below⟩ := List.pairwise_append.1 hls
    obtain ⟨state, rest, frame, values⟩ := ih hls
    simp only [List.foldl_append, List.foldl_cons, List.foldl_nil]
    refine ⟨by rw [state], ?_, fun l k hk out => ?_, fun l hl => ?_⟩
    · rw [writeBlock_eq, rest]
    · rw [readReg_writeBlock_ne _ _ hr hk (by grind)]
      exact frame l k hk (by grind)
    · have highest : ∀ b ∈ ls, b < a := fun b hb => below b hb a (List.mem_singleton_self a)
      by_cases last : l = a
      · subst last
        rw [readBlock_writeBlock _ _ hr, state, List.filter_append, List.filter_eq_self.2 (by simpa using highest)]
        simp
      · have earlier : l ∈ ls := by simpa [last] using hl
        rw [readBlock_writeBlock_lane _ _ hr last, values l earlier, List.filter_append,
          List.filter_cons_of_neg (by simpa using (highest l earlier).le), List.filter_nil, List.append_nil]

end

theorem pairwise_lanes (m : W32) : (lanes m).Pairwise (· < ·) := List.pairwise_lt_range.filter _

/-- `perLane` with a lane function that may change the state. -/
theorem perLane_in_order (s : State) (x : Group) (m : W32) {r n : Nat} (f : State → Nat → Nat × State) (hr : r + n ≤ 256) :
    (perLane s x m r n f).1 = (lanes m).foldl (fun t l => (f t l).2) s ∧ VecDone x (perLane s x m r n f).2 m r n ∧
      ∀ l, l < 32 → m.getLsbD l = true → readBlock (perLane s x m r n f).2 l r n =
        (f (((lanes m).filter (· < l)).foldl (fun t l => (f t l).2) s) l).1 % 2 ^ (32 * n) := by
  obtain ⟨state, rest, frame, values⟩ := foldLanes_spec (f := f) hr (pairwise_lanes m) s x
  exact ⟨state, ⟨rest, fun l k hl hk out => frame l k hk fun h => out ⟨(mem_lanes.1 h.1).2, h.2⟩⟩,
    fun l hl hm => values l (mem_lanes.2 ⟨hl, hm⟩)⟩

theorem readLE_lt (m : List Host.Cell) (a n : Nat) : readLE m a n < 2 ^ (8 * n) := by
  induction n generalizing a with
  | zero => exact Nat.one_pos
  | succ n ih =>
    have low := (readByte m a).isLt
    have high := ih (a + 1)
    rw [readLE, Nat.mul_succ, pow_add]
    omega

/-- The register block of an access holds its bytes. -/
theorem bits_le_regsOf {k : Nat} (h : k ≤ 4) : 8 * 2 ^ k ≤ 32 * regsOf (2 ^ k) := by
  revert k; decide

/-! ### Turns leave the registers and the mark of a park -/

theorem setActive_keeps (g : Group) (p : Path) : (setActive g p).park = g.park ∧ (setActive g p).regs = g.regs := by
  unfold setActive
  split <;> exact ⟨rfl, rfl⟩

theorem Turned.keeps {g y : Group} (h : Turned g y) : y.park = g.park ∧ y.regs = g.regs := by
  rw [h.rest]
  exact ⟨rfl, rfl⟩

theorem advance_keeps (g : Group) : (advance g).park = g.park ∧ (advance g).regs = g.regs := by
  unfold advance
  split
  · exact ⟨rfl, rfl⟩
  · next p _ =>
    have counted := (turned_countTurn (setActive g { p with pc := p.pc + 8 })).keeps
    have active := setActive_keeps g { p with pc := p.pc + 8 }
    exact ⟨counted.1.trans active.1, counted.2.trans active.2⟩

theorem readBlock_of_regs {x y : Group} (h : y.regs = x.regs) (l r n : Nat) : readBlock y l r n = readBlock x l r n :=
  readBlock_congr fun k _ _ => congrArg (fun m => look 0 m (256 * l + k)) h

theorem park_of_vecDone {x y : Group} {m : W32} {r n : Nat} (h : VecDone x y m r n) : y.park = x.park := by rw [h.1]

/-! ### LDL and STL (R168 to R170, R334) -/

/-- A word of LDL or STL that breaks no rule, its registers free. -/
structure LocalWordOk (s : State) (g : GRef) (x : Group) (w : W64) (op : Nat) : Prop where
  op : opcode w = op
  reserved : reservedBits w [(7, 0), (10, 8), (23, 16), (31, 24), (55, 32)] = 0
  size : bits w 10 8 ≤ 4
  granted : ∀ e ∈ [(alignReg (sizeOf w) (bits w 23 16), regsOf (sizeOf w)), (bits w 31 24, 1)], e.1 + e.2 ≤ x.regGrant
  free : BlocksFree s g [(alignReg (sizeOf w) (bits w 23 16), regsOf (sizeOf w)), (bits w 31 24, 1)]

/-- The rules of a local word are kept. -/
theorem LocalWordOk.no_fault {s : State} {g : GRef} {x : Group} {w : W64} {op : Nat} (h : LocalWordOk s g x w op) :
    firstFault [(opcode w != op, 0x21),
      (reservedBits w [(7, 0), (10, 8), (23, 16), (31, 24), (55, 32)] != 0 || decide (4 < bits w 10 8), 0x22),
      (!inGrant x (alignReg (sizeOf w) (bits w 23 16)) (regsOf (sizeOf w)) || !inGrant x (bits w 31 24) 1, 0x23)] = none := by
  obtain ⟨op, reserved, size, granted, -⟩ := h
  simp only [List.forall_mem_cons] at granted
  refine firstFault_none ?_
  simp only [List.forall_mem_cons]
  exact ⟨by simp [op], by simp [reserved, size], by simp [inGrant, granted], List.forall_mem_nil _⟩

theorem LocalWordOk.ready {s : State} {g : GRef} {x : Group} {w : W64} {op : Nat} (h : LocalWordOk s g x w op) (hfence : x.fence = none) :
    (fenceFree x && blocksFree s (gidOf g) [(alignReg (sizeOf w) (bits w 23 16), regsOf (sizeOf w)), (bits w 31 24, 1)]) = true := by
  rw [blocksFree_iff.2 h.free, fenceFree, hfence]
  rfl

/-- The address of a lane's access by LDL or STL. -/
def localAt (s : State) (g : GRef) (x : Group) (w : W64) (l : Nat) : Option Nat :=
  localAddr s (gidOf g) x l (bits w 31 24) (bits w 55 32) (sizeOf w)

/-- What LDL gives a lane: zero out of range, else the bytes, with any bits above them in the register (R170; log 22). -/
def loadedLane (s : State) (addr : Nat → Option Nat) (size : Nat) (t : State) (l : Nat) : Nat × State :=
  match addr l with
  | none => (0, t)
  | some a =>
    if size < 4 then (readLE s.mem a size + (freeVal t).1.toNat * 2 ^ (8 * size), (freeVal t).2) else (readLE s.mem a size, t)

theorem loadedLane_free (s : State) (addr : Nat → Option Nat) (size : Nat) (t : State) (l : Nat) :
    ∃ k, (loadedLane s addr size t l).2 = { t with free := k } := by
  unfold loadedLane
  split
  · exact ⟨t.free, rfl⟩
  · split_ifs
    · exact ⟨t.free + 1, rfl⟩
    · exact ⟨t.free, rfl⟩

/-- What a lane's value holds of its access. -/
def LaneLoaded (s : State) (addr : Nat → Option Nat) (size l v : Nat) : Prop :=
  match addr l with
  | none => v = 0
  | some a => v % 2 ^ (8 * size) = readLE s.mem a size

theorem laneLoaded_loadedLane (s : State) (addr : Nat → Option Nat) (size : Nat) (t : State) (l : Nat) :
    LaneLoaded s addr size l (loadedLane s addr size t l).1 := by
  unfold LaneLoaded loadedLane
  split
  · rfl
  · next a _ =>
    have low := Nat.mod_eq_of_lt (readLE_lt s.mem a size)
    split_ifs
    · exact (Nat.add_mul_mod_self_right _ _ _).trans low
    · exact low

/-- What a lane's registers hold of its access. -/
theorem LaneLoaded.of_block {s : State} {addr : Nat → Option Nat} {size l n v b : Nat} (h : LaneLoaded s addr size l v)
    (hn : 8 * size ≤ 32 * n) (hb : b = v % 2 ^ (32 * n)) : LaneLoaded s addr size l b := by
  unfold LaneLoaded at *
  subst hb
  split at h
  · rw [h, Nat.zero_mod]
  · rw [Nat.mod_mod_of_dvd v (pow_dvd_pow 2 hn), h]

/-- LDL's loop over the lanes is `perLane`. -/
theorem ldl_loop {s : State} {addr : Nat → Option Nat} {size : Nat} (r : Nat) (ls : List Nat) {t : State} (ht : t.mem = s.mem) (y : Group) :
    (ls.map fun l => (l, addr l)).foldl (fun (q : State × Group) e => match e.2 with
      | none => (q.1, writeBlock q.2 e.1 r (regsOf size) 0)
      | some a => if size < 4 then
          ((freeVal q.1).2, writeReg q.2 e.1 r (BitVec.ofNat 32 (readLE q.1.mem a size + (freeVal q.1).1.toNat * 2 ^ (8 * size))))
        else (q.1, writeBlock q.2 e.1 r (regsOf size) (readLE q.1.mem a size))) (t, y) =
    ls.foldl (fun (q : State × Group) l =>
      ((loadedLane s addr size q.1 l).2, writeBlock q.2 l r (regsOf size) (loadedLane s addr size q.1 l).1)) (t, y) := by
  induction ls generalizing t y with
  | nil => rfl
  | cons l ls ih =>
    have kept : (loadedLane s addr size t l).2.mem = s.mem := by
      obtain ⟨k, hk⟩ := loadedLane_free s addr size t l
      rw [hk, ← ht]
    rw [List.map_cons, List.foldl_cons, List.foldl_cons, ← ih kept]
    refine congrArg (fun q => List.foldl _ q (ls.map fun l => (l, addr l))) ?_
    unfold loadedLane
    cases addr l with
    | none => rfl
    | some a =>
      dsimp only
      split_ifs with small
      · rw [ht, show regsOf size = 1 from if_pos (by omega)]
        rfl
      · rw [ht]

/-- STL's loop over the lanes is `storeLanes`: no store moves the team's allocation. -/
theorem stl_loop {s : State} {g : GRef} {x : Group} {w : W64} (val : Nat → Nat) (ls : List Nat) {t : State} (ht : t.clusters = s.clusters) :
    ls.foldl (fun s l => match localAddr s (gidOf g) x l (bits w 31 24) (bits w 55 32) (sizeOf w) with
      | none => s
      | some a => writePhys s a (leBytes (sizeOf w) (val l)) 0) t =
    storeLanes (localAt s g x w) (fun _ l _ => leBytes (sizeOf w) (val l)) ls t := by
  induction ls generalizing t with
  | nil => rfl
  | cons l ls ih =>
    unfold storeLanes at *
    rw [List.foldl_cons, List.foldl_cons, localAddr_congr ht, show localAddr s _ x l _ _ _ = localAt s g x w l from rfl]
    cases localAt s g x w l with
    | none => exact ih ht
    | some a => exact ih ((clusters_of_offMemory (offMemory_writePhys ..)).trans ht)

section
variable {g : GRef} {w : W64} {s : State} {x : Group} {p : Path} (h : MayIssue s g x p) (hfence : x.fence = none)
include h hfence

theorem exec_ldl_next (hword : LocalWordOk s g x w 0x50) (hsound : LanesSound s (sizeOf w) (localAt s g x w) p.mask) :
    let q := perLane s x p.mask (alignReg (sizeOf w) (bits w 23 16)) (regsOf (sizeOf w)) (loadedLane s (localAt s g x w) (sizeOf w))
    exec (.ldl g w) s = .next (fetched s (gidOf g) x p (retire q.1 (gidOf g) q.2)) := by
  refine (onUnit_next _ _ _).2 ⟨h.unit, (issue_acts h (hword.ready hfence) hword.no_fault).trans (congrArg _ ?_)⟩
  have sound := localPoison_eq_none hsound
  unfold localAt at sound
  dsimp only
  rw [sound]
  exact congrArg (fun q : State × Group => retire q.1 (gidOf g) q.2) (ldl_loop _ _ rfl x)

/-- LDL: each lane of the path holds what its access gives, and beside the registers only the counter of free values may move. -/
theorem exec_ldl_spec (hword : LocalWordOk s g x w 0x50) (hsound : LanesSound s (sizeOf w) (localAt s g x w) p.mask)
    (hr : alignReg (sizeOf w) (bits w 23 16) + regsOf (sizeOf w) ≤ 256) :
    ∃ y k, exec (.ldl g w) s = .next (fetched s (gidOf g) x p (setGroup { s with free := k } (gidOf g) (some (advance y)))) ∧
      VecDone x y p.mask (alignReg (sizeOf w) (bits w 23 16)) (regsOf (sizeOf w)) ∧
      ∀ l, l < 32 → p.mask.getLsbD l = true →
        LaneLoaded s (localAt s g x w) (sizeOf w) l (readBlock y l (alignReg (sizeOf w) (bits w 23 16)) (regsOf (sizeOf w))) := by
  obtain ⟨⟨k, state⟩, done, values⟩ := perLane_spec s x p.mask (loadedLane s (localAt s g x w) (sizeOf w)) hr
    (LaneLoaded s (localAt s g x w) (sizeOf w)) (laneLoaded_loadedLane s _ _) (loadedLane_free s _ _)
  have next := exec_ldl_next h hfence hword hsound
  dsimp only at next
  rw [state] at next
  refine ⟨_, k, next, done, fun l hl hm => ?_⟩
  obtain ⟨v, loaded, block⟩ := values l hl hm
  exact loaded.of_block (bits_le_regsOf hword.size) block

theorem exec_stl_next (hword : LocalWordOk s g x w 0x51) :
    exec (.stl g w) s = .next (fetched s (gidOf g) x p (storeLanes (localAt s g x w)
      (fun _ l _ => leBytes (sizeOf w) (readBlock x l (alignReg (sizeOf w) (bits w 23 16)) (regsOf (sizeOf w)))) (lanes p.mask)
      (retire s (gidOf g) x))) := by
  refine (onUnit_next _ _ _).2 ⟨h.unit, (issue_acts h (hword.ready hfence) hword.no_fault).trans (congrArg _ ?_)⟩
  exact stl_loop _ _ rfl

end

/-! ### ATOML (R171, R334) -/

/-- A word of ATOML that breaks no rule, its registers free. -/
structure AtomWordOk (s : State) (g : GRef) (x : Group) (w : W64) (blocks : List (Nat × Nat)) : Prop where
  op : opcode w = 0x52
  reserved : reservedBits w [(7, 0), (10, 8), (15, 12), (23, 16), (31, 24), (39, 32), (47, 40)] = 0
  size : bits w 10 8 ∈ [2, 3]
  known : bits w 15 12 ≤ 7
  granted : ∀ e ∈ blocks, e.1 + e.2 ≤ x.regGrant
  free : BlocksFree s g blocks

/-- The register blocks that an ATOML names. -/
def atomBlocks (w : W64) : List (Nat × Nat) :=
  let n := regsOf (sizeOf w)
  [(alignReg (sizeOf w) (bits w 23 16), n), (bits w 31 24, 1), (alignReg (sizeOf w) (bits w 39 32), n)] ++
    (if bits w 15 12 = 7 then [(alignReg (sizeOf w) (bits w 47 40), n)] else [])

/-- The address of a lane's operation by ATOML, which has no offset. -/
def atomAt (s : State) (g : GRef) (x : Group) (w : W64) (l : Nat) : Option Nat :=
  localAddr s (gidOf g) x l (bits w 31 24) 0 (sizeOf w)

/-- The bytes that a lane's operation leaves. -/
def atomBytes (x : Group) (w : W64) (t : State) (l a : Nat) : List Byte :=
  let n := regsOf (sizeOf w)
  leBytes (sizeOf w) (intOp (sizeOf w) (bits w 15 12) (readLE t.mem a (sizeOf w))
    (readBlock x l (alignReg (sizeOf w) (bits w 39 32)) n) (readBlock x l (alignReg (sizeOf w) (bits w 47 40)) n))

/-- The value that a lane's operation finds, zero out of range, and the state after it. -/
def atomLane (x : Group) (w : W64) (addr : Nat → Option Nat) (t : State) (l : Nat) : Nat × State :=
  match addr l with
  | none => (0, t)
  | some a =>
    let n := regsOf (sizeOf w)
    let (t', old) := bankAtomic t a (sizeOf w) (bits w 15 12) (readBlock x l (alignReg (sizeOf w) (bits w 39 32)) n)
      (readBlock x l (alignReg (sizeOf w) (bits w 47 40)) n)
    (old, t')

/-- The state after the operations of a list of lanes. -/
theorem foldl_atomLane (x : Group) (w : W64) (addr : Nat → Option Nat) (ls : List Nat) (s : State) :
    ls.foldl (fun t l => (atomLane x w addr t l).2) s = storeLanes addr (atomBytes x w) ls s := by
  unfold storeLanes
  refine List.foldl_ext _ _ _ fun t l _ => ?_
  unfold atomLane
  cases addr l <;> rfl

/-- ATOML's loop over the lanes is `perLane`, and notes whether a CAS has failed. -/
theorem atoml_loop (x : Group) (w : W64) (addr : Nat → Option Nat) (r : Nat) (ls : List Nat) (t : State) (y : Group) (b : Bool) :
    ∃ failed, (bits w 15 12 ≠ 7 → failed = b) ∧
      (ls.map fun l => (l, addr l)).foldl (fun (q : State × Group × Bool) e => match e.2 with
        | none => (q.1, writeBlock q.2.1 e.1 r (regsOf (sizeOf w)) 0, q.2.2)
        | some a =>
          let cv := readBlock x e.1 (alignReg (sizeOf w) (bits w 47 40)) (regsOf (sizeOf w))
          let u := bankAtomic q.1 a (sizeOf w) (bits w 15 12) (readBlock x e.1 (alignReg (sizeOf w) (bits w 39 32)) (regsOf (sizeOf w))) cv
          (u.1, writeBlock q.2.1 e.1 r (regsOf (sizeOf w)) u.2, q.2.2 || casFailed (bits w 15 12) (sizeOf w) u.2 cv)) (t, y, b) =
      let q := ls.foldl (fun (q : State × Group) l =>
        ((atomLane x w addr q.1 l).2, writeBlock q.2 l r (regsOf (sizeOf w)) (atomLane x w addr q.1 l).1)) (t, y)
      (q.1, q.2, failed) := by
  induction ls generalizing t y b with
  | nil => exact ⟨b, fun _ => rfl, rfl⟩
  | cons l ls ih =>
    rw [List.map_cons, List.foldl_cons, List.foldl_cons]
    unfold atomLane
    cases addr l with
    | none => exact ih _ _ b
    | some a =>
      obtain ⟨failed, same, loop⟩ := ih (bankAtomic t a (sizeOf w) (bits w 15 12) _ _).1
        (writeBlock y l r (regsOf (sizeOf w)) (bankAtomic t a (sizeOf w) (bits w 15 12)
          (readBlock x l (alignReg (sizeOf w) (bits w 39 32)) (regsOf (sizeOf w)))
          (readBlock x l (alignReg (sizeOf w) (bits w 47 40)) (regsOf (sizeOf w)))).2) _
      refine ⟨failed, fun other => (same other).trans ?_, loop⟩
      simp [casFailed, other]

section
variable {g : GRef} {w : W64} {s : State} {x : Group} {p : Path} (h : MayIssue s g x p) (hfence : x.fence = none)
include h hfence

theorem exec_atoml_next (hword : AtomWordOk s g x w (atomBlocks w)) (hsound : LanesSound s (sizeOf w) (atomAt s g x w) p.mask) :
    let q := perLane s x p.mask (alignReg (sizeOf w) (bits w 23 16)) (regsOf (sizeOf w)) (atomLane x w (atomAt s g x w))
    ∃ z, (z = advance q.2 ∨ (bits w 15 12 = 7 ∧ z = endTurn (advance q.2))) ∧
      exec (.atoml g w) s = .next (fetched s (gidOf g) x p (setGroup q.1 (gidOf g) (some z))) := by
  obtain ⟨op, reserved, size, known, granted, free⟩ := hword
  obtain ⟨failed, same, loop⟩ := atoml_loop x w (atomAt s g x w) (alignReg (sizeOf w) (bits w 23 16)) (lanes p.mask) s x false
  have ready : (fenceFree x && blocksFree s (gidOf g) (atomBlocks w)) = true := by
    rw [blocksFree_iff.2 free, fenceFree, hfence]
    rfl
  have sound := localPoison_eq_none hsound
  intro q
  refine ⟨if failed && (activePath (advance q.2)).map (·.mask) == some p.mask then endTurn (advance q.2) else advance q.2, ?_,
    (onUnit_next _ _ _).2 ⟨h.unit, (issue_acts h ready (firstFault_none ?_)).trans (congrArg _ ?_)⟩⟩
  · split_ifs with ends
    · refine .inr ⟨?_, rfl⟩
      by_contra other
      simp [same other] at ends
    · exact .inl rfl
  · simp only [List.forall_mem_cons]
    refine ⟨by simp [op], ?_, ?_, List.forall_mem_nil _⟩
    · have two_or_three : bits w 10 8 = 2 ∨ bits w 10 8 = 3 := by simpa using size
      rcases two_or_three with k | k <;> simp [reserved, known, k]
    · exact List.any_eq_false.2 fun e he => by simpa [inGrant] using granted e he
  · unfold atomAt sizeOf at sound
    dsimp only
    rw [sound]
    exact congrArg (fun q : State × Group × Bool => setGroup q.1 (gidOf g) (some
      (if q.2.2 && (activePath (advance q.2.1)).map (·.mask) == some p.mask then endTurn (advance q.2.1) else advance q.2.1))) loop

/-- ATOML: the operations act one at a time, and each lane of the path holds what its own found. -/
theorem exec_atoml_spec (hword : AtomWordOk s g x w (atomBlocks w)) (hsound : LanesSound s (sizeOf w) (atomAt s g x w) p.mask)
    (hr : alignReg (sizeOf w) (bits w 23 16) + regsOf (sizeOf w) ≤ 256) :
    ∃ y z, exec (.atoml g w) s = .next (fetched s (gidOf g) x p (setGroup
        (storeLanes (atomAt s g x w) (atomBytes x w) (lanes p.mask) s) (gidOf g) (some z))) ∧
      VecDone x y p.mask (alignReg (sizeOf w) (bits w 23 16)) (regsOf (sizeOf w)) ∧
      (z = advance y ∨ (bits w 15 12 = 7 ∧ z = endTurn (advance y))) ∧
      ∀ l, l < 32 → p.mask.getLsbD l = true →
        match atomAt s g x w l with
        | none => readBlock y l (alignReg (sizeOf w) (bits w 23 16)) (regsOf (sizeOf w)) = 0
        | some a => readBlock y l (alignReg (sizeOf w) (bits w 23 16)) (regsOf (sizeOf w)) =
          readLE (storeLanes (atomAt s g x w) (atomBytes x w) ((lanes p.mask).filter (· < l)) s).mem a (sizeOf w) := by
  obtain ⟨z, turn, next⟩ := exec_atoml_next h hfence hword hsound
  obtain ⟨state, done, values⟩ := perLane_in_order s x p.mask (atomLane x w (atomAt s g x w)) hr
  rw [state, foldl_atomLane] at next
  refine ⟨_, z, next, done, turn, fun l hl hm => ?_⟩
  have found := values l hl hm
  rw [foldl_atomLane] at found
  unfold atomLane at found
  have fits : 8 * sizeOf w ≤ 32 * regsOf (sizeOf w) := by
    have := hword.size
    exact bits_le_regsOf (by simp at this; omega)
  cases ha : atomAt s g x w l with
  | none =>
    rw [ha] at found
    exact found.trans (Nat.zero_mod _)
  | some a =>
    rw [ha] at found
    exact found.trans (Nat.mod_eq_of_lt ((readLE_lt _ a (sizeOf w)).trans_le (Nat.pow_le_pow_right (by decide) fits)))

end

/-! ### The obligations -/

/-- Settles O21: LDL and ATOML run the lanes' accesses in order into registers, STL into memory. -/
theorem localMemory : Obligations.LocalMemory := by
  unfold Obligations.LocalMemory
  refine ⟨fun g w s x p size n r ro off h hfence hsize hn hr hro hoff hres hbits hgrant hgrant' hfree hle => ⟨fun hop hsound => ?_,
    fun hop hcl hfits => ?_⟩, fun g w s x p size n rd ro rs rc op h hfence hsize hbits hn hrd hro hrs hrc hop hknown hcode hres hle hgrant
      hfree hsound => ?_⟩
  · subst hsize hn hr hro hoff
    have hword : LocalWordOk s g x w 0x50 := ⟨hop, hres, hbits, by simpa using ⟨hgrant, hgrant'⟩, hfree⟩
    exact exec_ldl_spec h hfence hword hsound hle
  · subst hsize hn hr hro hoff
    have hword : LocalWordOk s g x w 0x51 := ⟨hop, hres, hbits, by simpa using ⟨hgrant, hgrant'⟩, hfree⟩
    have window : ∀ l a, localAt s g x w l = some a → ∃ c o, target (retire s (gidOf g) x).variant a = .window c o :=
      fun l a ha => ⟨g.cl, target_of_localAddr h.unit ⟨hcl, hfits⟩ (Nat.two_pow_pos _) ha⟩
    have next := exec_stl_next h hfence hword
    rw [onlyMemory_storeLanes window (lanes p.mask)] at next
    exact ⟨_, _, next, readByte_storeLanes window (lanes p.mask)⟩
  · subst hsize hn hrd hro hrs hrc hop
    exact exec_atoml_spec h hfence ⟨hcode, hres, hbits, hknown, hgrant, hfree⟩ hsound hle

/-- What R170 asks of the state after an access of local space by the path `p` of an instruction with opcode `op`. -/
def OutOfRangeKept (s t : State) (g : GRef) (x : Group) (p : Path) (addr : Nat → Option Nat) (size r n : Nat) (op : Nat) : Prop :=
  ∃ y, group t (gidOf g) = some y ∧ y.park = none ∧ (∀ c, (cluster t c).ro = (cluster (fetched s (gidOf g) x p s) c).ro) ∧
    (op ≠ 0x51 → ∀ l, l < 32 → p.mask.getLsbD l = true → addr l = none → readBlock y l r n = 0) ∧
    ∀ a, readByte t.mem a ≠ readByte s.mem a → op ≠ 0x50 ∧ ∃ l ∈ lanes p.mask, ∃ b ∈ addr l, b ≤ a ∧ a < b + size

section
variable {s u : State} {g : GRef} {x y : Group} {p : Path} {addr : Nat → Option Nat} {size r n : Nat}

theorem outOfRangeKept_fetched {op : Nat} (hu : u.clusters = s.clusters) (hy : group u (gidOf g) = some y) (hpark : y.park = none)
    (zero : op ≠ 0x51 → ∀ l, l < 32 → p.mask.getLsbD l = true → addr l = none → readBlock y l r n = 0)
    (frame : ∀ a, readByte u.mem a ≠ readByte s.mem a → op ≠ 0x50 ∧ ∃ l ∈ lanes p.mask, ∃ b ∈ addr l, b ≤ a ∧ a < b + size) :
    OutOfRangeKept s (fetched s (gidOf g) x p u) g x p addr size r n op := by
  refine ⟨y, (group_fetched ..).trans hy, hpark, ((sameCaches_of_clusters hu).fetched s (gidOf g) x p).ro, zero, fun a differs => ?_⟩
  rw [mem_fetched] at differs
  exact frame a differs

end

section
variable {g : GRef} {w : W64} {s t : State} {x : Group} {p : Path} (h : MayIssue s g x p) (hfence : x.fence = none)
include h hfence

theorem ldl_outOfRange (hword : LocalWordOk s g x w 0x50) (hsound : LanesSound s (sizeOf w) (localAt s g x w) p.mask)
    (hr : alignReg (sizeOf w) (bits w 23 16) + regsOf (sizeOf w) ≤ 256) (next : exec (.ldl g w) s = .next t) :
    OutOfRangeKept s t g x p (localAt s g x w) (sizeOf w) (alignReg (sizeOf w) (bits w 23 16)) (regsOf (sizeOf w)) 0x50 := by
  obtain ⟨y, k, spec, done, values⟩ := exec_ldl_spec h hfence hword hsound hr
  obtain rfl := Host.Outcome.next.inj (spec.symm.trans next)
  obtain ⟨parked, regs⟩ := advance_keeps y
  refine outOfRangeKept_fetched (y := advance y) rfl (by simp) (by rw [parked, park_of_vecDone done, (issuing_group h.active).1])
    (fun _ l hl hm out => ?_) fun a differs => absurd rfl differs
  rw [readBlock_of_regs regs]
  have loaded := values l hl hm
  unfold LaneLoaded at loaded
  rw [out] at loaded
  exact loaded

theorem stl_outOfRange (hword : LocalWordOk s g x w 0x51) (hstore : StoreInWindow s g x) (r n : Nat) (next : exec (.stl g w) s = .next t) :
    OutOfRangeKept s t g x p (localAt s g x w) (sizeOf w) r n 0x51 := by
  obtain rfl := Host.Outcome.next.inj ((exec_stl_next h hfence hword).symm.trans next)
  have window : ∀ l a, localAt s g x w l = some a → ∃ c o, target (retire s (gidOf g) x).variant a = .window c o :=
    fun l a ha => ⟨g.cl, target_of_localAddr (s := s) h.unit hstore (Nat.two_pow_pos _) ha⟩
  have stored := offMemory_storeLanes (addr := localAt s g x w)
    (bytes := fun _ l _ => leBytes (sizeOf w) (readBlock x l (alignReg (sizeOf w) (bits w 23 16)) (regsOf (sizeOf w)))) (lanes p.mask)
    (retire s (gidOf g) x)
  refine outOfRangeKept_fetched (y := advance x) ((clusters_of_offMemory stored).trans rfl) ?_ ?_ (fun no => absurd rfl no) fun a differs => ⟨by decide, ?_⟩
  · rw [group_eq_of_groups (groups_of_offMemory stored)]
    simp [retire]
  · rw [(advance_keeps x).1, (issuing_group h.active).1]
  · exact storeLanes_frame window (fun _ _ _ => length_leBytes _ _) differs

theorem atoml_outOfRange (hword : AtomWordOk s g x w (atomBlocks w)) (hsound : LanesSound s (sizeOf w) (atomAt s g x w) p.mask)
    (hstore : StoreInWindow s g x) (hr : alignReg (sizeOf w) (bits w 23 16) + regsOf (sizeOf w) ≤ 256)
    (next : exec (.atoml g w) s = .next t) :
    OutOfRangeKept s t g x p (atomAt s g x w) (sizeOf w) (alignReg (sizeOf w) (bits w 23 16)) (regsOf (sizeOf w)) 0x52 := by
  obtain ⟨y, z, spec, done, turn, values⟩ := exec_atoml_spec h hfence hword hsound hr
  obtain rfl := Host.Outcome.next.inj (spec.symm.trans next)
  have window : ∀ l a, atomAt s g x w l = some a → ∃ c o, target s.variant a = .window c o :=
    fun l a ha => ⟨g.cl, target_of_localAddr h.unit hstore (Nat.two_pow_pos _) ha⟩
  have kept : z.park = y.park ∧ z.regs = y.regs := by
    rcases turn with rfl | ⟨-, rfl⟩
    · exact advance_keeps y
    · have ended := (turned_endTurn (advance y)).keeps
      exact ⟨ended.1.trans (advance_keeps y).1, ended.2.trans (advance_keeps y).2⟩
  refine outOfRangeKept_fetched (y := z) (by rw [setGroup_clusters, clusters_of_offMemory (offMemory_storeLanes ..)]) (by simp)
    (by rw [kept.1, park_of_vecDone done, (issuing_group h.active).1]) (fun _ l hl hm out => ?_) fun a differs => ⟨by decide, ?_⟩
  · have found := values l hl hm
    rw [out] at found
    exact (readBlock_of_regs kept.2 ..).trans found
  · exact storeLanes_frame window (fun _ _ _ => length_leBytes _ _) differs

end

/-- Settles O22: a lane out of range has no address, and what is written lies at the addresses of the others. -/
theorem localOutOfRange : Obligations.LocalOutOfRange := by
  unfold Obligations.LocalOutOfRange
  refine ⟨fun s gid x l ro off size => ⟨localAddr_eq_none_iff, fun a ha => localAddr_within ha⟩,
    fun g w s t x p size n r ro off h hfence hsize hn hr hro hle hcl hfits hsound access => ?_⟩
  subst hsize hn hr hro
  rcases access with ⟨hoff, hbits, hres, hgrant, hfree, ⟨hop, next⟩ | ⟨hop, next⟩⟩ | ⟨hoff, hbits, hknown, hres, hgrant, hfree, hop, next⟩
  · subst hoff
    rw [hop]
    exact ldl_outOfRange h hfence ⟨hop, hres, hbits, hgrant, hfree⟩ hsound hle next
  · subst hoff
    rw [hop]
    exact stl_outOfRange h hfence ⟨hop, hres, hbits, hgrant, hfree⟩ ⟨hcl, hfits⟩ _ _ next
  · subst hoff
    rw [hop]
    exact atoml_outOfRange h hfence ⟨hop, hres, hbits, hknown, hgrant, hfree⟩ hsound ⟨hcl, hfits⟩ hle next

end Sys2Proof.Machine

/-! SUPPORT. Lines byte by byte: what a merge takes from each of its lines, and when merges of a line agree. -/

namespace Sys2Proof.Machine

/-! ### Masks of bytes -/

theorem testBit_beMask (n be i : Nat) : (beMask n be).testBit i = (decide (i < 8 * n) && be.testBit (i / 8)) := by
  induction n generalizing be i with
  | zero => simp [beMask]
  | succ n ih =>
    have low : (if be % 2 = 1 then 255 else 0) < 2 ^ 8 := by split_ifs <;> decide
    rw [beMask, Nat.add_comm, show 256 = 2 ^ 8 from rfl, Nat.testBit_two_pow_mul_add _ low]
    split_ifs with byte odd
    · have ones : (255 : Nat).testBit i = true := by
        rw [show (255 : Nat) = 2 ^ 8 - 1 from rfl, Nat.testBit_two_pow_sub_one]
        exact decide_eq_true byte
      rw [ones, show i / 8 = 0 by omega, Nat.testBit_zero]
      simp [odd, show i < 8 * (n + 1) by omega]
    · rw [Nat.zero_testBit, show i / 8 = 0 by omega, Nat.testBit_zero]
      simp [odd]
    · rw [ih, show i / 8 = (i - 8) / 8 + 1 by omega, Nat.testBit_succ]
      exact congrArg (· && _) (decide_eq_decide.2 (by omega))

/-- A merge takes each bit from the new line where its byte is enabled, else from the old one. -/
theorem getLsbD_mergeLine (be : BitVec 128) (new old : Line) {i : Nat} (hi : i < 1024) :
    (mergeLine be new old).getLsbD i = if be.getLsbD (i / 8) then new.getLsbD i else old.getLsbD i := by
  have enabled : (BitVec.ofNat 1024 (beMask 128 be.toNat) : Line).getLsbD i = be.getLsbD (i / 8) := by
    rw [BitVec.getLsbD_ofNat, testBit_beMask, BitVec.testBit_toNat]
    simp [hi]
  unfold mergeLine
  simp only [BitVec.getLsbD_or, BitVec.getLsbD_and, BitVec.getLsbD_not, enabled, hi, decide_true, Bool.true_and]
  cases be.getLsbD (i / 8) <;> simp

/-- Two lines agree where they agree in every byte. -/
theorem line_ext {a b : Line} (h : ∀ i, i < 1024 → a.getLsbD i = b.getLsbD i) : a = b := BitVec.eq_of_getLsbD_eq h

theorem mergeLine_none (new old : Line) : mergeLine 0 new old = old :=
  line_ext fun i hi => by rw [getLsbD_mergeLine _ _ _ hi]; simp

/-- A merge over a merge of the same bytes. -/
theorem mergeLine_again (be : BitVec 128) (a b old : Line) : mergeLine be b (mergeLine be a old) = mergeLine be b old :=
  line_ext fun i hi => by
    rw [getLsbD_mergeLine _ _ _ hi, getLsbD_mergeLine _ _ _ hi, getLsbD_mergeLine _ _ _ hi]
    split_ifs <;> rfl

/-- The byte enables of a run. -/
theorem getLsbD_runBe {off size j : Nat} (hj : j < 128) :
    (BitVec.ofNat 128 ((2 ^ size - 1) * 2 ^ off)).getLsbD j = (decide (off ≤ j) && decide (j < off + size)) := by
  rw [BitVec.getLsbD_ofNat, Nat.testBit_mul_two_pow, Nat.testBit_two_pow_sub_one]
  by_cases h : off ≤ j
  · simp [hj, h, show (j - off < size) = (j < off + size) by grind]
  · simp [h]

end Sys2Proof.Machine

/-! SUPPORT. Two packets that meet and leave as one (R188, R189, R270): the record of a sum, and the operation that acts as both. -/

namespace Sys2Proof.Machine
open Sys2Proof.Num

/-! ### Records of ledgers (R269) -/

theorem toNat_limbAt (v : BitVec 640) (i : Nat) : (limbAt v i).toNat = v.toNat / 2 ^ (64 * i) % 2 ^ 64 := by
  rw [limbAt, BitVec.extractLsb'_toNat, Nat.shiftRight_eq_div_pow]

/-- The limbs from `l` on, as one number. -/
theorem sum_limbs (v : BitVec 640) (l n : Nat) :
    ((((List.range n).map fun i => limbAt v (l + i)).zipIdx.map fun (w, i) => w.toNat * 2 ^ (64 * i)).sum) =
      v.toNat / 2 ^ (64 * l) % 2 ^ (64 * n) := by
  induction n with
  | zero => simp [Nat.mod_one]
  | succ n ih =>
    rw [List.range_succ, List.map_append, List.zipIdx_append, List.map_append, List.sum_append, ih]
    simp only [List.map_cons, List.map_nil, List.zipIdx_cons, List.zipIdx_nil, List.length_map, List.length_range, List.sum_cons,
      List.sum_nil, Nat.add_zero, Nat.zero_add, toNat_limbAt]
    rw [Nat.mul_succ 64 n, pow_add 2 (64 * n), Nat.mod_mul (x := v.toNat / 2 ^ (64 * l)), Nat.mul_add, pow_add, ← Nat.div_div_eq_div_mul,
      Nat.mul_comm (2 ^ (64 * n))]

theorem limbsValue_eq (v : BitVec 640) (l : Nat) {n : Nat} (hn : n ≠ 0) : limbsValue ((List.range n).map fun i => limbAt v (l + i)) l =
    BitVec.ofInt 640 (signed (64 * n) (v.toNat / 2 ^ (64 * l)) * (2 ^ (64 * l) : Nat)) := by
  unfold limbsValue
  dsimp only
  rw [List.length_map, List.length_range, if_neg hn, sum_limbs]
  unfold signed
  rw [Nat.mod_mod]

/-- The limbs below the lowest that is not zero are zero. -/
theorem lowLimb_spec (v : BitVec 640) (n i : Nat) : i ≤ lowLimb v n i ∧ lowLimb v n i ≤ i + n ∧
    ∀ j, i ≤ j → j < lowLimb v n i → limbAt v j = 0 := by
  induction n generalizing i with
  | zero => exact ⟨le_rfl, le_rfl, fun j h1 h2 => absurd h2 (Nat.not_lt.2 h1)⟩
  | succ n ih =>
    unfold lowLimb
    split_ifs with zero
    · obtain ⟨low, high, below⟩ := ih (i + 1)
      refine ⟨by omega, by omega, fun j h1 h2 => ?_⟩
      rcases Nat.eq_or_lt_of_le h1 with rfl | h
      · exact zero
      · exact below j h h2
    · exact ⟨le_rfl, by omega, fun j h1 h2 => absurd h2 (Nat.not_lt.2 h1)⟩

theorem mod_limbs_eq_zero {v : BitVec 640} {k : Nat} (h : ∀ j, j < k → limbAt v j = 0) : v.toNat % 2 ^ (64 * k) = 0 := by
  induction k with
  | zero => simp [Nat.mod_one]
  | succ k ih =>
    have top : v.toNat / 2 ^ (64 * k) % 2 ^ 64 = 0 := by
      rw [← toNat_limbAt, h k (Nat.lt_succ_self k)]
      rfl
    rw [Nat.mul_succ, pow_add, Nat.mod_mul, ih fun j hj => h j (Nat.lt_succ_of_lt hj), top, Nat.mul_zero]

/-- All the limbs from the lowest that is not zero give the value back. -/
theorem limbsValue_all {v : BitVec 640} {l : Nat} (hl : l < 10) (low : ∀ j, j < l → limbAt v j = 0) :
    limbsValue ((List.range (10 - l)).map fun i => limbAt v (l + i)) l = v := by
  rw [limbsValue_eq v l (by omega)]
  have whole : v.toNat = v.toNat / 2 ^ (64 * l) * 2 ^ (64 * l) := by
    have := Nat.div_add_mod' v.toNat (2 ^ (64 * l))
    rw [mod_limbs_eq_zero low] at this
    omega
  have width : ∀ n, 64 * (10 - l) + 64 * l = n → ((2 ^ (64 * (10 - l)) : Nat) : Int) * (2 ^ (64 * l) : Nat) = (2 ^ n : Nat) := by
    rintro _ rfl
    rw [← Nat.cast_mul, ← pow_add]
  have high : v.toNat / 2 ^ (64 * l) < 2 ^ (64 * (10 - l)) := by
    rw [Nat.div_lt_iff_lt_mul (Nat.two_pow_pos _), ← pow_add]
    exact v.isLt.trans_eq (congrArg (2 ^ ·) (by omega))
  refine BitVec.eq_of_toInt_eq ?_
  rw [BitVec.toInt_ofInt, BitVec.toInt_eq_toNat_bmod]
  unfold signed
  rw [Nat.mod_eq_of_lt high]
  dsimp only
  split_ifs
  · rw [← Nat.cast_mul, ← whole]
  · rw [Int.sub_mul, ← Nat.cast_mul, ← whole, width 640 (by omega)]
    exact Int.sub_bmod_right ..

theorem limbCount_spec (v : BitVec 640) (l k n : Nat) (h : ∃ m, n ≤ m ∧ m < n + k ∧
    limbsValue ((List.range m).map fun i => limbAt v (l + i)) l = v) :
    limbsValue ((List.range (limbCount v l k n)).map fun i => limbAt v (l + i)) l = v := by
  induction k generalizing n with
  | zero => obtain ⟨m, h1, h2, -⟩ := h; omega
  | succ k ih =>
    unfold limbCount
    split_ifs with enough
    · exact enough
    · obtain ⟨m, h1, h2, value⟩ := h
      refine ih (n + 1) ⟨m, ?_, by omega, value⟩
      rcases Nat.eq_or_lt_of_le h1 with rfl | h
      · exact absurd value enough
      · exact h

theorem limbCount_le (v : BitVec 640) (l k n : Nat) : limbCount v l k n ≤ n + k := by
  induction k generalizing n with
  | zero => exact le_rfl
  | succ k ih =>
    unfold limbCount
    split_ifs
    · omega
    · exact (ih (n + 1)).trans (by omega)

/-- The record of a ledger carries that ledger. -/
theorem recordLedger_ledgerRecord (e : Nat) (l : Ledger) (i : Bool) : recordLedger (ledgerRecord e l i) = l := by
  unfold ledgerRecord
  split_ifs with zero
  · obtain ⟨v, nan, pinf, ninf, negz⟩ := l
    cases zero
    rfl
  · obtain ⟨-, high, below⟩ := lowLimb_spec l.v 9 0
    have all := limbsValue_all (v := l.v) (l := lowLimb l.v 9 0) (by omega) fun j hj => below j (Nat.zero_le j) hj
    have value := limbCount_spec l.v (lowLimb l.v 9 0) 10 1 ⟨10 - lowLimb l.v 9 0, by omega, by omega, all⟩
    dsimp only
    unfold recordLedger
    dsimp only
    rw [value]

theorem recBytes_ledgerRecord_le (e : Nat) (l : Ledger) (i : Bool) : recBytes (ledgerRecord e l i) ≤ 96 := by
  unfold ledgerRecord
  split_ifs
  · simp [recBytes]
  · have := limbCount_le l.v (lowLimb l.v 9 0) 10 1
    simp only [recBytes, List.length_map, List.length_range]
    omega

theorem ledgerMerge_assoc (a b c : Ledger) : ledgerMerge (ledgerMerge a b) c = ledgerMerge a (ledgerMerge b c) := by
  simp [ledgerMerge, BitVec.add_assoc, Bool.or_assoc, Bool.and_assoc]

/-- Adding the sum of two contributions is adding both. -/
theorem elemLedger_merge (E : Elem) (a b : Ledger) : elemLedger .ledger (elemLedger .ledger E a) b = elemLedger .ledger E (ledgerMerge a b) :=
  congrArg (fun led => { E with led }) (ledgerMerge_assoc E.led a b)

/-! ### Integer operations (R171, R259) -/

/-- Operations whose packets combine. -/
def combinable : List Nat := [0, 1, 2, 3, 4, 5, 8, 9]

theorem intOp_lt (n op a b c : Nat) : intOp n op a b c < 2 ^ (8 * n) := by
  have pos := Nat.two_pow_pos (8 * n)
  have ha := Nat.mod_lt a pos
  have hb := Nat.mod_lt b pos
  unfold intOp
  dsimp only
  split
  · exact Nat.mod_lt _ pos
  · split_ifs <;> assumption
  · split_ifs <;> assumption
  · exact Nat.and_lt_two_pow _ hb
  · exact Nat.or_lt_two_pow ha hb
  · exact Nat.xor_lt_two_pow ha hb
  · exact hb
  · split_ifs <;> assumption
  · split_ifs <;> assumption
  · split_ifs <;> assumption
  · exact ha

/-- A combinable operation on the values of `n` bytes. -/
def residueOp (n op a b : Nat) : Nat :=
  match op with
  | 0 => (a + b) % 2 ^ (8 * n)
  | 1 => if signed (8 * n) b < signed (8 * n) a then b else a
  | 2 => if signed (8 * n) a < signed (8 * n) b then b else a
  | 3 => a &&& b
  | 4 => a ||| b
  | 5 => a ^^^ b
  | 8 => if b < a then b else a
  | _ => if a < b then b else a

theorem intOp_eq_residueOp {op : Nat} (h : op ∈ combinable) (n old a c : Nat) :
    intOp n op old a c = residueOp n op (old % 2 ^ (8 * n)) (a % 2 ^ (8 * n)) := by
  simp only [combinable, List.mem_cons, List.not_mem_nil, or_false] at h
  rcases h with rfl | rfl | rfl | rfl | rfl | rfl | rfl | rfl <;> rfl

theorem residueOp_assoc {op : Nat} (h : op ∈ combinable) (n a b c : Nat) :
    residueOp n op (residueOp n op a b) c = residueOp n op a (residueOp n op b c) := by
  simp only [combinable, List.mem_cons, List.not_mem_nil, or_false] at h
  rcases h with rfl | rfl | rfl | rfl | rfl | rfl | rfl | rfl <;> simp only [residueOp]
  · simp [Nat.add_assoc]
  · split_ifs <;> omega
  · split_ifs <;> omega
  · exact Nat.and_assoc ..
  · exact Nat.or_assoc ..
  · exact Nat.xor_assoc ..
  · split_ifs <;> omega
  · split_ifs <;> omega

/-- An operation on the merged operands is one after the other (R270). -/
theorem intOp_intOp {op : Nat} (h : op ∈ combinable) (n old a b c d : Nat) :
    intOp n op (intOp n op old a c) b d = intOp n op old (intOp n op a b 0) 0 := by
  rw [intOp_eq_residueOp h, Nat.mod_eq_of_lt (intOp_lt ..), intOp_eq_residueOp h n old a, intOp_eq_residueOp h n old (intOp ..),
    Nat.mod_eq_of_lt (intOp_lt ..), intOp_eq_residueOp h n a, residueOp_assoc h]

/-- A record's own bytes of a line. -/
theorem read_mergeLine_run {off size new : Nat} (hn : new < 2 ^ (8 * size)) (h : off + size ≤ 128) (d : Line) :
    (mergeLine (BitVec.ofNat 128 ((2 ^ size - 1) * 2 ^ off)) (BitVec.ofNat 1024 (new * 2 ^ (8 * off))) d).toNat >>> (8 * off) % 2 ^ (8 * size) =
      new := by
  refine Nat.eq_of_testBit_eq fun i => ?_
  rw [Nat.testBit_mod_two_pow, Nat.testBit_shiftRight, BitVec.testBit_toNat]
  by_cases hi : i < 8 * size
  · have inside : 8 * off + i < 1024 := by omega
    rw [getLsbD_mergeLine _ _ _ inside, getLsbD_runBe (by omega), if_pos (by simp; omega), BitVec.getLsbD_ofNat, Nat.testBit_mul_two_pow]
    simp [hi, inside]
  · rw [Nat.testBit_lt_two_pow (hn.trans_le (Nat.pow_le_pow_right (by decide) (by omega)))]
    simp [hi]

/-- Integer records do not look at the format beside telling that it is none of a float. -/
theorem roundedRecord_eq {op : Nat} {fl : BitVec 4} (hf : fl = 0xA#4 ∨ fl = 0xF#4) (d : Line) (off size operand comparand : Nat) :
    (roundedRecord op fl d off size operand comparand).1 =
      mergeLine (BitVec.ofNat 128 ((2 ^ size - 1) * 2 ^ off)) (BitVec.ofNat 1024
        (intOp size op (d.toNat >>> (8 * off) % 2 ^ (8 * size)) operand comparand * 2 ^ (8 * off))) d := by
  rcases hf with rfl | rfl <;> rfl

/-- Two operations on the same bytes act as one (R189). -/
theorem roundedRecord_twice {op size off : Nat} {fl : BitVec 4} (hop : op ∈ combinable) (hf : fl = 0xA#4 ∨ fl = 0xF#4)
    (h : off + size ≤ 128) (d : Line) (a b c e : Nat) :
    (roundedRecord op fl (roundedRecord op fl d off size a c).1 off size b e).1 =
      (roundedRecord op fl d off size (intOp size op a b 0) 0).1 := by
  rw [roundedRecord_eq hf, roundedRecord_eq hf, roundedRecord_eq hf, mergeLine_again, read_mergeLine_run (intOp_lt ..) h, intOp_intOp hop]

theorem roundedRecords_single (op : Nat) (fl : BitVec 4) (o n : Nat) (a x : W64) (d : Line) :
    (roundedRecords op fl [.rounded o n a x] d).1 = (roundedRecord op fl d o n a.toNat x.toNat).1 := rfl

/-! ### Packets that meet -/

theorem payloadBytes_single_le {k : CruPacket} {r : CruRecord} (recs : k.recs = [r]) (small : recBytes r ≤ 96) : payloadBytes k ≤ 256 := by
  unfold payloadBytes
  rw [recs]
  have : (if k.rsr.isSome then 24 else 0) ≤ 24 := by split_ifs <;> omega
  simp only [List.map_cons, List.map_nil, List.sum_cons, List.sum_nil]
  omega

/-- Two packets of one record each leave as one of the merged record. -/
theorem combinePackets_single {lead k : CruPacket} {a b y : CruRecord} (may : mayCombine lead k = true) (hl : lead.recs = [a])
    (hk : k.recs = [b]) (merged : mergeRecord lead.op a b = some y) (small : recBytes y ≤ 96) :
    combinePackets lead k = some { lead with recs := [y], absorbed := lead.absorbed ++ k.tag :: k.absorbed } := by
  have records : k.recs.foldl (fun l r => addRecord lead.op r l) lead.recs = [y] := by simp [hl, hk, addRecord, merged]
  unfold combinePackets
  rw [records, may]
  exact if_pos (by simpa using payloadBytes_single_le rfl small)

theorem mayCombine_rounded {lead k : CruPacket} {o n o' n' : Nat} {a x a' x' : W64} (may : mayCombine lead k = true)
    (hl : lead.recs = [.rounded o n a x]) (hk : k.recs = [.rounded o' n' a' x']) :
    lead.op ∈ combinable ∧ (lead.fl = 0xA#4 ∨ lead.fl = 0xF#4) ∧ k.op = lead.op ∧ k.fl = lead.fl := by
  simp only [mayCombine, hl, hk, isLedgerRec, isRoundedRec, List.all_cons, List.all_nil, Bool.false_and, Bool.and_true, Bool.true_and,
    Bool.false_eq_true, if_false, Bool.and_eq_true, beq_iff_eq, Bool.or_eq_true, List.contains_iff_mem] at may
  obtain ⟨⟨⟨⟨⟨⟨⟨-, op⟩, fl⟩, -⟩, -⟩, -⟩, -⟩, member, format⟩ := may
  exact ⟨member, format, op.symm, fl.symm⟩

theorem combine_ledgers {lead k : CruPacket} {e l l' : Nat} {x x' : List W64} {n p m z i n' p' m' z' i' : Bool}
    (may : mayCombine lead k = true) (hl : lead.recs = [.ledger e l x n p m z i]) (hk : k.recs = [.ledger e l' x' n' p' m' z' i']) :
    ∃ c r, combinePackets lead k = some c ∧ c.absorbed = lead.absorbed ++ k.tag :: k.absorbed ∧ c.recs = [r] ∧
      ∀ E : Elem, elemLedger .ledger E (recordLedger r) = elemLedger .ledger (elemLedger .ledger E
        (recordLedger (.ledger e l x n p m z i))) (recordLedger (.ledger e l' x' n' p' m' z' i')) := by
  refine ⟨_, _, combinePackets_single may hl hk (if_pos rfl) (recBytes_ledgerRecord_le ..), rfl, rfl, fun E => ?_⟩
  rw [recordLedger_ledgerRecord, elemLedger_merge]

theorem combine_rounded {lead k : CruPacket} {o n : Nat} {a a' x x' : W64} (may : mayCombine lead k = true)
    (hl : lead.recs = [.rounded o n a x]) (hk : k.recs = [.rounded o n a' x']) (size : n ≤ 8) (fits : o + n ≤ 128) :
    ∃ c, combinePackets lead k = some c ∧ c.absorbed = lead.absorbed ++ k.tag :: k.absorbed ∧
      ∀ d, (roundedRecords c.op c.fl c.recs d).1 = (roundedRecords k.op k.fl k.recs (roundedRecords lead.op lead.fl lead.recs d).1).1 := by
  obtain ⟨member, format, op, fl⟩ := mayCombine_rounded may hl hk
  refine ⟨_, combinePackets_single may hl hk (if_pos (by simp)) (by simp [recBytes]), rfl, fun d => ?_⟩
  have exact64 : intOp n lead.op a.toNat a'.toNat 0 < 2 ^ 64 :=
    (intOp_lt ..).trans_le (Nat.pow_le_pow_right (by decide) (by omega))
  rw [hl, hk, op, fl, roundedRecords_single, roundedRecords_single, roundedRecords_single, roundedRecord_twice member format fits,
    BitVec.toNat_ofNat, Nat.mod_eq_of_lt exact64]
  rfl

end Sys2Proof.Machine

/-! SUPPORT. What holding a line leaves of a slice and of the rest of the module, and the lines of a crusher after a spill, an opening and
a contribution. -/

namespace Sys2Proof.Machine
open Sys2Proof.Num

/-! ### Finding in lists used as tables -/

theorem find?_modWhere {α : Type} {p : α → Bool} {f : α → α} (keep : ∀ a, p a = true → p (f a) = true) (l : List α) :
    (modWhere p f l).find? p = (l.find? p).map f := by
  induction l with
  | nil => rfl
  | cons a l ih =>
    change ((if p a then f a else a) :: modWhere p f l).find? p = _
    cases h : p a with
    | true => rw [if_pos rfl, List.find?_cons_of_pos (keep a h), List.find?_cons_of_pos h]; rfl
    | false => rw [if_neg (by decide), List.find?_cons_of_neg (by simp [h]), List.find?_cons_of_neg (by simp [h]), ih]

theorem filter_modWhere {α : Type} {p : α → Bool} {f : α → α} (keep : ∀ a, p a = true → p (f a) = true) (l : List α) :
    (modWhere p f l).filter p = (l.filter p).map f := by
  induction l with
  | nil => rfl
  | cons a l ih =>
    change ((if p a then f a else a) :: modWhere p f l).filter p = _
    cases h : p a with
    | true => rw [if_pos rfl, List.filter_cons_of_pos (keep a h), List.filter_cons_of_pos h, List.map_cons, ih]
    | false => rw [if_neg (by decide), List.filter_cons_of_neg (by simp [h]), List.filter_cons_of_neg (by simp [h]), ih]

/-- Changes that keep the sought field leave nothing where nothing was. -/
theorem find?_modWhere_eq_none {α : Type} {p q : α → Bool} {f : α → α} (keep : ∀ a, q (f a) = q a) {l : List α}
    (h : l.find? q = none) : (modWhere p f l).find? q = none := by
  rw [List.find?_eq_none] at h ⊢
  intro b hb
  obtain ⟨a, ha, rfl⟩ := List.mem_map.1 hb
  split_ifs
  · rw [keep]; exact h a ha
  · exact h a ha

/-! ### Tags of a slice (R230) -/

/-- A state without the tags and the spoil buffer of a slice: the rest of the module, and the rest of the slice. -/
def offTags (i : Nat) (s : State) : State × Slice := ({ s with slices := [], out := [] }, { sliceOf s i with lines := [], spoil := [] })

theorem offTags_modSlice {i : Nat} {f : Slice → Slice} {s : State}
    (h : ∀ sl : Slice, { f sl with lines := [], spoil := [] } = { sl with lines := [], spoil := [] }) :
    offTags i (modSlice s i f) = offTags i s := by
  simp [offTags, modSlice, h]

@[simp] theorem offTags_emit (i : Nat) (s : State) (o : Out) : offTags i (emit s o) = offTags i s := rfl

@[simp] theorem offTags_evictLine (s : State) (i : Nat) (c : CLine) : offTags i (evictLine s i c) = offTags i s := by
  unfold evictLine
  dsimp only
  split_ifs
  · exact offTags_modSlice (by intro; rfl)
  · exact (offTags_modSlice (by intro; rfl)).trans (offTags_modSlice (by intro; rfl))
  · exact (offTags_emit ..).trans (offTags_modSlice (by intro; rfl))
  · exact offTags_modSlice (by intro; rfl)

theorem offTags_makeRoom {s t : State} {i set slots k : Nat} (h : makeRoom i set slots k s = some t) : offTags i t = offTags i s := by
  induction k generalizing s with
  | zero => cases h
  | succ k ih =>
    simp only [makeRoom] at h
    split at h
    · cases h; rfl
    · split at h
      · cases h
      · split at h
        · cases h
        · exact (ih h).trans (offTags_evictLine ..)

theorem offTags_placeLine {s t : State} {i : Nat} {c : CLine} (h : placeLine s i c = some t) : offTags i t = offTags i s := by
  unfold placeLine at h
  extract_lets slice placed emptied at h
  split at h
  · cases h
  · split at h
    · cases h
    · next room =>
      cases h
      calc _ = _ := offTags_modSlice (by intro; rfl)
        _ = _ := offTags_makeRoom room
        _ = _ := offTags_modSlice (by intro; rfl)

theorem offTags_holdLine {s t : State} {i line : Nat} (h : holdLine s i line = some t) : offTags i t = offTags i s := by
  unfold holdLine at h
  dsimp only at h
  split at h
  · split at h
    · cases h
    · exact offTags_placeLine h
  · split at h
    · cases h
    · exact offTags_placeLine h

theorem offTags_takes {s w : State} {i line : Nat} {r : HomeReq} (h : Takes s i line r w) : offTags i w = offTags i s := by
  unfold Takes at h
  split_ifs at h
  · exact offTags_holdLine h
  · rw [h]

section
variable {s t : State} {i : Nat} (h : offTags i t = offTags i s)
include h

theorem filter_of_offTags : (sliceOf t i).filter = (sliceOf s i).filter := congrArg (·.2.filter) h
theorem txns_of_offTags : (sliceOf t i).txns = (sliceOf s i).txns := congrArg (·.2.txns) h
theorem enabled_of_offTags : (sliceOf t i).enabled = (sliceOf s i).enabled := congrArg (·.2.enabled) h
theorem crushers_of_offTags : t.crushers = s.crushers := congrArg (·.1.crushers) h
theorem mem_of_offTags : t.mem = s.mem := congrArg (·.1.mem) h
theorem poison_of_offTags : t.poison = s.poison := congrArg (·.1.poison) h
theorem variant_of_offTags : t.variant = s.variant := congrArg (·.1.variant) h
theorem accs_of_offTags : t.accs = s.accs := congrArg (·.1.accs) h
theorem groups_of_offTags : t.groups = s.groups := congrArg (·.1.groups) h
end

/-! ### A home's filter (R288) -/

@[simp] theorem reserveFilter_out (s : State) (h line : Nat) (g : Bool) : (reserveFilter s h line g).out = s.out := rfl
@[simp] theorem reserveFilter_crushers (s : State) (h line : Nat) (g : Bool) : (reserveFilter s h line g).crushers = s.crushers := rfl
@[simp] theorem reserveFilter_mem (s : State) (h line : Nat) (g : Bool) : (reserveFilter s h line g).mem = s.mem := rfl
@[simp] theorem reserveFilter_poison (s : State) (h line : Nat) (g : Bool) : (reserveFilter s h line g).poison = s.poison := rfl

/-- A slice but for its filter and the count of its entries. -/
def offFilter (sl : Slice) : Slice := { sl with filter := [], allocated := 0 }

@[simp] theorem offFilter_reserveFilter (s : State) (h line : Nat) (g : Bool) :
    offFilter (sliceOf (reserveFilter s h line g) h) = offFilter (sliceOf s h) := by
  unfold reserveFilter
  simp only [modSlice, sliceOf_setSlice, if_true]
  split
  · rfl
  · split_ifs <;> rfl

@[simp] theorem lines_reserveFilter (s : State) (h line : Nat) (g : Bool) :
    (sliceOf (reserveFilter s h line g) h).lines = (sliceOf s h).lines := congrArg (·.lines) (offFilter_reserveFilter s h line g)
@[simp] theorem spoil_reserveFilter (s : State) (h line : Nat) (g : Bool) :
    (sliceOf (reserveFilter s h line g) h).spoil = (sliceOf s h).spoil := congrArg (·.spoil) (offFilter_reserveFilter s h line g)
@[simp] theorem txns_reserveFilter (s : State) (h line : Nat) (g : Bool) :
    (sliceOf (reserveFilter s h line g) h).txns = (sliceOf s h).txns := congrArg (·.txns) (offFilter_reserveFilter s h line g)

/-- Making an entry busy leaves the holders. -/
@[simp] theorem filterMask_reserveFilter (s : State) (h line : Nat) :
    filterMask (sliceOf (reserveFilter s h line false) h) line = filterMask (sliceOf s h) line := by
  unfold reserveFilter
  simp only [modSlice, sliceOf_setSlice, if_true]
  split
  · next f found =>
    unfold filterMask findFilter
    dsimp only
    rw [find?_modWhere (by intro _ h; exact h), Option.map_map]
    rfl
  · rfl

theorem homeValue_of_slice {s t : State} {h line : Nat} (lines : (sliceOf t h).lines = (sliceOf s h).lines)
    (spoil : (sliceOf t h).spoil = (sliceOf s h).spoil) (mem : t.mem = s.mem) (poison : t.poison = s.poison) :
    homeValue t h line = homeValue s h line := by
  unfold homeValue findSpoil findLine withMemory memPoison
  rw [lines, spoil, mem, poison]

@[simp] theorem homeValue_reserveFilter (s : State) (h line l : Nat) (g : Bool) :
    homeValue (reserveFilter s h line g) h l = homeValue s h l :=
  homeValue_of_slice (lines_reserveFilter ..) (spoil_reserveFilter ..) rfl rfl

@[simp] theorem releaseHome_out (s : State) (h line : Nat) : (releaseHome s h line).out = s.out := by
  unfold releaseHome
  dsimp only
  split_ifs <;> rfl

@[simp] theorem releaseHome_crushers (s : State) (h line : Nat) : (releaseHome s h line).crushers = s.crushers := by
  unfold releaseHome
  dsimp only
  split_ifs <;> rfl

/-! ### Lines of a crusher (R262 to R264, R273) -/

theorem crusher_of_crushers {s t : State} (h : t.crushers = s.crushers) (i : Nat) : crusher t i = crusher s i := by
  rw [crusher, h, crusher]

/-- The elements of a line with a record's contribution. -/
def withRecord (form : AccForm) (m : SMap Elem) (r : CruRecord) : SMap Elem :=
  match r with
  | .ledger e _ _ _ _ _ _ _ => put {} m e (elemLedger form (look {} m e) (recordLedger r))
  | .pair e hi lo => put {} m e (elemPair (look {} m e) hi.toNat lo.toNat)
  | .rounded .. => m

/-- The elements and the integer mark of a line are all that records change. -/
theorem applyRecord_eq (l : OpenLine) (r : CruRecord) :
    applyRecord l r = { l with elems := withRecord l.form l.elems r, intOnly := (applyRecord l r).intOnly } := by
  cases r <;> rfl

theorem applyRecords_eq (rs : List CruRecord) (l : OpenLine) :
    ∃ b, rs.foldl applyRecord l = { l with elems := rs.foldl (withRecord l.form) l.elems, intOnly := b } := by
  induction rs generalizing l with
  | nil => exact ⟨_, rfl⟩
  | cons r rs ih =>
    obtain ⟨b, h⟩ := ih (applyRecord l r)
    refine ⟨b, h.trans ?_⟩
    rw [applyRecord_eq l r]
    rfl

theorem line_applyRecords (rs : List CruRecord) (l : OpenLine) : (rs.foldl applyRecord l).line = l.line := by
  obtain ⟨b, h⟩ := applyRecords_eq rs l
  rw [h]

/-- A packet's records reach its own line. -/
theorem openAt_contribute (s : State) (h : Nat) (k : CruPacket) : openAt (crusher (contribute s h k) h) k.line =
    (openAt (crusher s h) k.line).map fun l => { k.recs.foldl applyRecord l with used := (crusher s h).useCtr } := by
  unfold contribute
  simp only [modCrusher, crusher_setCrusher, if_true]
  exact find?_modWhere (fun l hl => by rw [line_applyRecords]; exact hl) _

theorem crusher_spillLine (s : State) (h : Nat) (v : OpenLine) : (crusher (spillLine s h v) h).lines =
    modWhere (fun l => l.line == v.line) (fun l => { l with spilled := true, elems := [] }) (crusher s h).lines := by
  unfold spillLine
  exact congrArg Crusher.lines ((crusher_setCrusher ..).trans (if_pos rfl))

/-- A spill opens no line. -/
theorem openAt_spillFor {h need n line : Nat} {s : State} (closed : openAt (crusher s h) line = none) :
    openAt (crusher (spillFor h need n s) h) line = none := by
  induction n generalizing s with
  | zero => exact closed
  | succ n ih =>
    simp only [spillFor]
    split_ifs
    · exact closed
    · split
      · exact closed
      · next v _ =>
        refine ih ?_
        unfold openAt
        rw [crusher_spillLine]
        exact find?_modWhere_eq_none (by intro; rfl) closed

@[simp] theorem freeHome_crushers (s : State) (h line : Nat) : (freeHome s h line).crushers = s.crushers := rfl

@[simp] theorem activate_crushers (s : State) (pa : Nat) : (activate s pa).crushers = s.crushers := by
  unfold activate
  split
  · rfl
  · dsimp only
    split_ifs <;> rfl

@[simp] theorem touchMemory_crushers (s : State) (h line : Nat) : (touchMemory s h line).crushers = s.crushers := by
  unfold touchMemory
  dsimp only
  split_ifs
  · rfl
  · exact activate_crushers ..

/-- A line that is opened has the present value of its line at the home (R263). -/
theorem openAt_openLine {s : State} {h : Nat} {k : CruPacket} {form : AccForm} (closed : openAt (crusher s h) k.line = none) :
    ∃ l, openAt (crusher (openLine s h k form) h) k.line = some l ∧ l.task = k.task ∧ l.form = form ∧ l.fl = k.fl ∧ l.spilled = false ∧
      l.before = valueAt s h k.line ∧ l.elems = openElems form k.fl (valueAt s h k.line) := by
  have room : openAt (crusher (spillFor h (cellsOf form k.fl) 4096 (freeHome (touchMemory s h k.line) h k.line)) h) k.line = none :=
    openAt_spillFor (by rw [crusher_of_crushers ((freeHome_crushers ..).trans (touchMemory_crushers ..))]; exact closed)
  unfold openAt at room
  unfold openLine openAt
  simp only [modCrusher, crusher_setCrusher, if_true, List.find?_append, room, Option.none_or]
  exact ⟨_, List.find?_cons_of_pos (beq_self_eq_true k.line), rfl, rfl, rfl, rfl, rfl, rfl⟩

@[simp] theorem markReduced_out (s : State) (task : Nat) : (markReduced s task).out = s.out := by
  unfold markReduced
  split <;> rfl
@[simp] theorem markReduced_mem (s : State) (task : Nat) : (markReduced s task).mem = s.mem := by
  unfold markReduced
  split <;> rfl
@[simp] theorem markReduced_slices (s : State) (task : Nat) : (markReduced s task).slices = s.slices := by
  unfold markReduced
  split <;> rfl
@[simp] theorem markReduced_crushers (s : State) (task : Nat) : (markReduced s task).crushers = s.crushers := by
  unfold markReduced
  split <;> rfl

end Sys2Proof.Machine

/-! SUPPORT. A packet of contributions at the crusher of its line: which of the ways of R263, R264, R271, R273 and R274 it goes. -/

namespace Sys2Proof.Machine
open Sys2Proof.Num

/-! ### The packet at its crusher -/

/-- A packet of contributions of one form, as its crusher takes it: no close, no rounded operation. -/
structure Contributes (k : CruPacket) (s : State) (form : AccForm) : Prop where
  opens : isClose k = false
  adds : isRounded k = false
  inForm : packetForm s k = form

theorem contributes_ledger {k : CruPacket} (s : State) (nonempty : k.recs ≠ []) (all : k.recs.all isLedgerRec = true) (op : k.op ≠ 0xC) :
    Contributes k s (ledgerForm s) := by
  match h : k.recs with
  | [] => exact absurd h nonempty
  | r :: rs =>
    rw [h, List.all_cons, Bool.and_eq_true] at all
    cases r with
    | ledger => exact ⟨by simpa [isClose] using op, by rw [isRounded, h], by rw [packetForm, h]⟩
    | pair => cases all.1
    | rounded => cases all.1

theorem contributes_pair {k : CruPacket} (s : State) (nonempty : k.recs ≠ []) (all : k.recs.all isPairRec = true) (op : k.op ≠ 0xC) :
    Contributes k s .pair := by
  match h : k.recs with
  | [] => exact absurd h nonempty
  | r :: rs =>
    rw [h, List.all_cons, Bool.and_eq_true] at all
    cases r with
    | pair => exact ⟨by simpa [isClose] using op, by rw [isRounded, h], by rw [packetForm, h]⟩
    | ledger => cases all.1
    | rounded => cases all.1

/-- At a spilled line a packet waits (R273). -/
theorem waitSpilled_spec {s : State} {i : Nat} {k : CruPacket} {l : OpenLine} (here : openAt (crusher s i) k.line = some l) :
    ∃ x, openAt (crusher (waitSpilled s i k) i) k.line = some x ∧ x.waiting = l.waiting ++ [k] ∧ x.elems = l.elems ∧
      x.spilled = l.spilled := by
  unfold openAt at here
  unfold waitSpilled openAt
  simp only [modCrusher, crusher_setCrusher, if_true]
  rw [find?_modWhere (by intro _ h; exact h), here]
  exact ⟨_, rfl, rfl, rfl, rfl⟩

/-- A contribution to a line that its task has open (R264). -/
theorem applyUpdate_same {s : State} {i : Nat} {k : CruPacket} {form : AccForm} {l : OpenLine} (ck : Contributes k s form)
    (here : openAt (crusher s i) k.line = some l) (task : l.task = k.task) (same : sameForm l k = true) :
    (applyUpdate s i k).out = s.out ++ acksOf k 0 ∧ (applyUpdate s i k).mem = s.mem ∧ (applyUpdate s i k).slices = s.slices ∧
      openAt (crusher (applyUpdate s i k) i) k.line = some { k.recs.foldl applyRecord l with used := (crusher s i).useCtr } := by
  have added := openAt_contribute s i k
  rw [here] at added
  simp only [applyUpdate, here, ck.opens, ck.adds, task, same, Bool.false_eq_true, if_true, if_false]
  split_ifs
  · exact ⟨congrArg (· ++ acksOf k 0) (markReduced_out ..), markReduced_mem .., markReduced_slices ..,
      (congrArg (openAt · k.line) (crusher_of_crushers (markReduced_crushers ..) i)).trans added⟩
  · exact ⟨rfl, rfl, rfl, added⟩

/-- A contribution that opens its line (R263, R264). -/
theorem applyAdd_spec {s : State} {i : Nat} {k : CruPacket} {form : AccForm} (inForm : packetForm s k = form)
    (closed : openAt (crusher s i) k.line = none) : ∃ l o, (applyAdd s i k).out = o ++ acksOf k 0 ∧
      openAt (crusher (applyAdd s i k) i) k.line = some l ∧ l.task = k.task ∧ l.form = form ∧ l.fl = k.fl ∧ l.spilled = false ∧
      l.before = valueAt s i k.line ∧ l.elems = k.recs.foldl (withRecord form) (openElems form k.fl (valueAt s i k.line)) := by
  obtain ⟨l, here, task, rfl, fl, spilled, before, elems⟩ := openAt_openLine (form := form) closed
  obtain ⟨b, fields⟩ := applyRecords_eq k.recs l
  obtain ⟨x, added, rest⟩ : ∃ x, openAt (crusher (contribute (openLine s i k l.form) i k) i) k.line = some x ∧ x.task = k.task ∧
      x.form = l.form ∧ x.fl = k.fl ∧ x.spilled = false ∧ x.before = valueAt s i k.line ∧
      x.elems = k.recs.foldl (withRecord l.form) (openElems l.form k.fl (valueAt s i k.line)) := by
    rw [openAt_contribute, here, Option.map_some, fields]
    exact ⟨_, rfl, task, rfl, fl, spilled, before, congrArg (fun m => k.recs.foldl (withRecord l.form) m) elems⟩
  refine ⟨x, _, rfl, ?_, rest⟩
  unfold applyAdd
  rw [inForm]
  dsimp only
  split_ifs
  · exact (congrArg (openAt · k.line) (crusher_of_crushers (markReduced_crushers ..) i)).trans added
  · exact added

/-! ### At the home (R263, R294) -/

theorem snoopsFor_update {k : CruPacket} (h : isClose k = false) (sl : Slice) (line : Nat) :
    snoopsFor sl line (.update k) = (filterMask sl line, "SNP_I") := by
  simp [snoopsFor, h]

/-- The tag and slots that a request takes, where it needs them. -/
theorem takes_iff {s w : State} {h line : Nat} {r : HomeReq} :
    Takes s h line r w ↔ (if needsTag s h line r then holdLine s h line else some s) = some w := by
  unfold Takes
  split_ifs
  · exact Iff.rfl
  · exact ⟨fun e => congrArg some e.symm, fun e => (Option.some.inj e).symm⟩

/-- An update at an idle home starts at once: where dies hold its line they are snooped, else it is performed (R294, R295). -/
theorem homeTake_update {s w : State} {h : Nat} {k : CruPacket} (idle : HomeIdle s h k.line) (takes : Takes s h k.line (.update k) w)
    (opens : isClose k = false) : homeTake s h k.line (.update k) =
      if filterMask (sliceOf s h) k.line = 0 then releaseHome (applyUpdate (reserveFilter w h k.line false) h k) h k.line
      else emit (modSlice (reserveFilter w h k.line false) h fun sl => { sl with txns := sl.txns ++
        [{ line := k.line, req := .update k, awaiting := filterMask (sliceOf s h) k.line,
           since := (die (reserveFilter w h k.line false) (h / 16)).time.toNat }] })
        (.snoop "SNP_I" (filterMask (sliceOf s h) k.line) k.line) := by
  have notFirst : ((sliceOf s h).waiting.any fun (l, _) => l == k.line) = false := by
    rw [List.any_eq_false]
    exact fun e he => by simpa using idle.first e he
  have mask : filterMask (sliceOf (reserveFilter w h k.line false) h) k.line = filterMask (sliceOf s h) k.line := by
    rw [filterMask_reserveFilter, filterMask, findFilter, filter_of_offTags (offTags_takes takes)]
    rfl
  have starts : startReq s h k.line (.update k) = some (if filterMask (sliceOf s h) k.line = 0
      then releaseHome (applyUpdate (reserveFilter w h k.line false) h k) h k.line
      else emit (modSlice (reserveFilter w h k.line false) h fun sl => { sl with txns := sl.txns ++
        [{ line := k.line, req := .update k, awaiting := filterMask (sliceOf s h) k.line,
           since := (die (reserveFilter w h k.line false) (h / 16)).time.toNat }] })
        (.snoop "SNP_I" (filterMask (sliceOf s h) k.line) k.line)) := by
    have few : ¬ 64 ≤ (sliceOf s h).txns.length := Nat.not_le.2 idle.entries
    unfold startReq
    simp only [idle.serving, idle.txn, idle.miss, idle.closed, few, isGrant, takes_iff.1 takes, Option.isSome_none, Option.map_none,
      Option.getD_none, Bool.or_false, Bool.false_and, Bool.false_eq_true, decide_false, if_false, snoopsFor_update opens, mask]
    split_ifs <;> rfl
  unfold homeTake
  dsimp only
  rw [notFirst, if_neg (by decide), starts]

/-- Without a line open, an ADD needs a tag of its home only for an owner's data. -/
theorem needsTag_add {s : State} {h : Nat} {k : CruPacket} (adds : isRounded k = false)
    (closed : openAt (crusher s h) k.line = none) (unowned : filterOwned (sliceOf s h) k.line = false) :
    needsTag s h k.line (.update k) = false := by
  simp [needsTag, adds, closed, unowned]

/-- Lines that dies hold are snooped first (R295). -/
theorem homeTake_update_held {s w : State} {h : Nat} {k : CruPacket} {m : BitVec 8} (idle : HomeIdle s h k.line)
    (takes : Takes s h k.line (.update k) w) (opens : isClose k = false) (held : m = filterMask (sliceOf s h) k.line) (nonempty : m ≠ 0) :
    ∃ x, (homeTake s h k.line (.update k)).out = w.out ++ [.snoop "SNP_I" m k.line] ∧
      findTxn (sliceOf (homeTake s h k.line (.update k)) h) k.line = some x ∧ x.req = .update k ∧ x.awaiting = m := by
  subst held
  have absent : (sliceOf (reserveFilter w h k.line false) h).txns.find? (fun c => c.line == k.line) = none := by
    rw [txns_reserveFilter, txns_of_offTags (offTags_takes takes)]
    exact idle.txn
  rw [homeTake_update idle takes opens, if_neg nonempty]
  have sent : ∀ (u : State) (x : Txn) (o : Out), (sliceOf u h).txns.find? (fun c => c.line == k.line) = none → x.line = k.line →
      findTxn (sliceOf (emit (modSlice u h fun sl => { sl with txns := sl.txns ++ [x] }) o) h) k.line = some x := by
    intro u x o absent line
    have : (sliceOf (modSlice u h fun sl => { sl with txns := sl.txns ++ [x] }) h).txns = (sliceOf u h).txns ++ [x] := by simp [modSlice]
    change List.find? _ (sliceOf (modSlice u h fun sl => { sl with txns := sl.txns ++ [x] }) h).txns = _
    rw [this, List.find?_append, absent, Option.none_or]
    exact List.find?_cons_of_pos (by simp [line])
  exact ⟨_, rfl, sent _ _ _ absent rfl, rfl, rfl⟩

/-- A line that no die holds is opened at once with its present value (R263). -/
theorem homeTake_add {s : State} {h : Nat} {k : CruPacket} {form : AccForm} (idle : HomeIdle s h k.line) (ck : Contributes k s form)
    (free : filterMask (sliceOf s h) k.line = 0) (unowned : filterOwned (sliceOf s h) k.line = false) :
    ∃ l o, (homeTake s h k.line (.update k)).out = o ++ acksOf k 0 ∧ openAt (crusher (homeTake s h k.line (.update k)) h) k.line = some l ∧
      l.task = k.task ∧ l.form = form ∧ l.fl = k.fl ∧ l.spilled = false ∧ l.before = valueAt s h k.line ∧
      l.elems = k.recs.foldl (withRecord form) (openElems form k.fl (valueAt s h k.line)) := by
  have takes : Takes s h k.line (.update k) s := takes_iff.2 (by rw [needsTag_add ck.adds idle.closed unowned]; rfl)
  have closed : openAt (crusher (reserveFilter s h k.line false) h) k.line = none := idle.closed
  have performed : applyUpdate (reserveFilter s h k.line false) h k = applyAdd (reserveFilter s h k.line false) h k := by
    simp only [applyUpdate, closed, ck.opens, ck.adds, Bool.false_eq_true, if_false]
  obtain ⟨l, o, out, here, rest⟩ := applyAdd_spec (s := reserveFilter s h k.line false) (i := h) (k := k) ck.inForm closed
  rw [valueAt, homeValue_reserveFilter] at rest
  rw [homeTake_update idle takes ck.opens, if_pos free, performed]
  exact ⟨l, o, (releaseHome_out ..).trans out,
    (congrArg (openAt · k.line) (crusher_of_crushers (releaseHome_crushers ..) h)).trans here, rest⟩

theorem homeArrive_refused {s : State} {h line e : Nat} {r : HomeReq} (code : arrivalCode s line r = some e) :
    homeArrive s h line r = refuseReq s h line r e := by
  unfold homeArrive
  rw [code]

theorem homeArrive_taken {s : State} {h line : Nat} {r : HomeReq} (code : arrivalCode s line r = none) :
    homeArrive s h line r = homeTake s h line r := by
  unfold homeArrive
  rw [code]

/-! ### Ways of a packet -/

theorem addPacket_declared {s : State} {i : Nat} {k : CruPacket} (here : isRemoteLine s k.line = false)
    (range : declared (crusher s i) k.task k.line k.fl = true) : addPacket s i k = admitUpdate s i k := by
  simp [addPacket, here, range]

theorem admitUpdate_open {s : State} {i : Nat} {k : CruPacket} {l : OpenLine} (here : openAt (crusher s i) k.line = some l) :
    admitUpdate s i k = if l.spilled then waitSpilled s i k else applyUpdate s i k := by
  simp [admitUpdate, here]

theorem admitUpdate_closed {s : State} {i : Nat} {k : CruPacket} (closed : openAt (crusher s i) k.line = none) :
    admitUpdate s i k = homeArrive s i k.line (.update k) := by
  simp [admitUpdate, closed]

/-- A packet of contributions goes the way that the state of its line tells (R263, R264, R271, R273, R274). -/
theorem packetAdded {s : State} {i : Nat} {k : CruPacket} {c : Instr} {form : AccForm} (run : exec c s = .next (addPacket s i k))
    (ck : Contributes k s form) : PacketAdded s i k c form := by
  refine ⟨fun remote => ?_, fun home out => ?_, fun home inside => ?_⟩
  · rw [run, addPacket, if_pos remote]
  · simp only [run, addPacket, home, out]
    rfl
  rw [run, addPacket_declared home inside]
  refine ⟨fun l here spilled => ?_, fun l here resident task => ⟨fun other => ?_, fun same => ?_⟩, fun l here resident other => ?_,
    fun e closed code => ?_, fun idle code m mask => ⟨fun held w takes => ?_, fun free unowned => ?_⟩⟩
  · obtain ⟨x, found, waits, elems, kept⟩ := waitSpilled_spec here
    rw [admitUpdate_open here, if_pos spilled]
    exact ⟨_, x, rfl, rfl, rfl, found, waits, elems, kept.trans spilled⟩
  · simp only [admitUpdate_open here, resident, applyUpdate, here, ck.opens, ck.adds, task, other, Bool.false_eq_true, if_true, if_false]
    rfl
  · rw [admitUpdate_open here, if_neg (by simp [resident])]
    exact ⟨_, rfl, applyUpdate_same ck here task same⟩
  · simp only [admitUpdate_open here, resident, applyUpdate, here, ck.opens, ck.adds, other, Bool.false_eq_true, if_false]
  · rw [admitUpdate_closed closed, homeArrive_refused code]
    rfl
  · obtain ⟨x, out, found, req, awaits⟩ := homeTake_update_held idle takes ck.opens mask held
    rw [admitUpdate_closed idle.closed, homeArrive_taken code]
    exact ⟨_, x, rfl, out, found, req, awaits⟩
  · obtain ⟨l, o, out, found, rest⟩ := homeTake_add idle ck (mask ▸ free) unowned
    rw [admitUpdate_closed idle.closed, homeArrive_taken code]
    exact ⟨_, l, o, rfl, out, found, rest⟩

theorem exec_ledgerRecords {s : State} {i : Nat} {k : CruPacket} (unit : sliceOk i = true)
    (home : homeSlice s.variant (128 * k.line) = some i) (nonempty : k.recs ≠ []) (all : k.recs.all isLedgerRec = true) :
    exec (.ledgerRecords i k) s = .next (if badPacket k then raiseFatal s 6 0 else addPacket s i k) := by
  change execLedgerRecords i k s = _
  simp [execLedgerRecords, onUnit, unit, reaches, home, recsOk, nonempty, all]

theorem exec_pairRecords {s : State} {i : Nat} {k : CruPacket} (unit : sliceOk i = true)
    (home : homeSlice s.variant (128 * k.line) = some i) (nonempty : k.recs ≠ []) (all : k.recs.all isPairRec = true) :
    exec (.pairRecords i k) s = .next (if badPacket k then raiseFatal s 6 0 else addPacket s i k) := by
  change execPairRecords i k s = _
  simp [execPairRecords, onUnit, unit, reaches, home, recsOk, nonempty, all]

end Sys2Proof.Machine

/-! SUPPORT. Lines of memory byte by byte, sectors of a line, and what a line holds after a store to some of its bytes (R231, R232). -/

namespace Sys2Proof.Machine

/-! ### Memory -/

theorem testBit_readLE (m : List Host.Cell) (a n i : Nat) :
    (readLE m a n).testBit i = (decide (i < 8 * n) && (readByte m (a + i / 8)).getLsbD (i % 8)) := by
  induction n generalizing a i with
  | zero => simp [readLE]
  | succ n ih =>
    rw [readLE, Nat.add_comm, show 256 = 2 ^ 8 from rfl, Nat.testBit_two_pow_mul_add _ (readByte m a).isLt]
    split_ifs with byte
    · rw [BitVec.testBit_toNat, Nat.div_eq_of_lt byte, Nat.mod_eq_of_lt byte]
      simp [show i < 8 * (n + 1) by omega]
    · rw [ih, show a + 1 + (i - 8) / 8 = a + i / 8 by omega, show (i - 8) % 8 = i % 8 by omega]
      exact congrArg (· && _) (decide_eq_decide.2 (by omega))

theorem getLsbD_memLine (m : List Host.Cell) (l : Nat) {i : Nat} (hi : i < 1024) :
    (memLine m l).getLsbD i = (readByte m (128 * l + i / 8)).getLsbD (i % 8) := by
  rw [memLine, BitVec.getLsbD_ofNat, testBit_readLE]
  simp [hi]

/-- A write of a line's bytes to memory is a merge. -/
theorem memLine_memPutLine (m : List Host.Cell) (l : Nat) (be : BitVec 128) (v : Line) :
    memLine (memPutLine m l be v) l = mergeLine be v (memLine m l) :=
  line_ext fun i hi => by
    have byte : i % 8 < 8 := Nat.mod_lt _ (by decide)
    rw [getLsbD_memLine _ _ hi, getLsbD_mergeLine _ _ _ hi, getLsbD_memLine _ _ hi, readByte_memPutLine, Nat.add_sub_cancel_left,
      BitVec.testBit_toNat]
    by_cases enabled : be.getLsbD (i / 8) = true
    · rw [if_pos ⟨by omega, by omega, enabled⟩, if_pos enabled, BitVec.getLsbD_ofNat, Nat.testBit_shiftRight, BitVec.testBit_toNat,
        Nat.div_add_mod]
      simp [byte]
    · rw [if_neg fun h => enabled h.2.2, if_neg enabled]

/-! ### Sectors -/

/-- All bytes of a sector, or none. -/
def sectorOnes (b : Bool) : Nat := if b then 2 ^ 32 - 1 else 0

theorem sectorOnes_lt (b : Bool) : sectorOnes b < 2 ^ 32 := by cases b <;> decide

theorem testBit_sectorOnes (b : Bool) {i : Nat} (hi : i < 32) : (sectorOnes b).testBit i = b := by
  cases b with
  | false => exact Nat.zero_testBit i
  | true => exact (Nat.testBit_two_pow_sub_one ..).trans (decide_eq_true hi)

theorem sum_range_four (f : Nat → Nat) : ((List.range 4).map f).sum = f 0 + (f 1 + (f 2 + f 3)) := rfl

theorem sectorBe_eq (s : BitVec 4) : sectorBe s = BitVec.ofNat 128 (2 ^ 32 * (2 ^ 32 * (2 ^ 32 * sectorOnes (s.getLsbD 3) +
    sectorOnes (s.getLsbD 2)) + sectorOnes (s.getLsbD 1)) + sectorOnes (s.getLsbD 0)) := by
  unfold sectorBe sectorOnes
  rw [sum_range_four]
  cases s.getLsbD 0 <;> cases s.getLsbD 1 <;> cases s.getLsbD 2 <;> cases s.getLsbD 3 <;> rfl

theorem getLsbD_sectorBe (s : BitVec 4) {j : Nat} (hj : j < 128) : (sectorBe s).getLsbD j = s.getLsbD (j / 32) := by
  rw [sectorBe_eq, BitVec.getLsbD_ofNat, decide_eq_true hj, Bool.true_and, Nat.testBit_two_pow_mul_add _ (sectorOnes_lt _),
    Nat.testBit_two_pow_mul_add _ (sectorOnes_lt _), Nat.testBit_two_pow_mul_add _ (sectorOnes_lt _)]
  split_ifs with first second third
  · rw [testBit_sectorOnes _ first, Nat.div_eq_of_lt first]
  · rw [testBit_sectorOnes _ second, show j / 32 = 1 by omega]
  · rw [testBit_sectorOnes _ third, show j / 32 = 2 by omega]
  · rw [testBit_sectorOnes _ (by omega), show j / 32 = 3 by omega]

/-- Four bits and their number. -/
theorem getLsbD_fourBits : ∀ (a b c d : Bool) (k : Fin 4),
    (BitVec.ofNat 4 (a.toNat + (2 * b.toNat + (4 * c.toNat + 8 * d.toNat)))).getLsbD k = [a, b, c, d].getD k false := by decide

theorem getLsbD_sectorMask (P : Nat → Prop) [DecidablePred P] {k : Nat} (hk : k < 4) :
    (BitVec.ofNat 4 ((List.range 4).map fun j => if P j then 2 ^ j else 0).sum).getLsbD k = decide (P k) := by
  have bit : ∀ j, (if P j then 2 ^ j else 0) = 2 ^ j * (decide (P j)).toNat := fun j => by by_cases h : P j <;> simp [h]
  have four := getLsbD_fourBits (decide (P 0)) (decide (P 1)) (decide (P 2)) (decide (P 3)) ⟨k, hk⟩
  simp only [bit]
  rw [sum_range_four, Nat.pow_zero, Nat.one_mul]
  refine four.trans ?_
  interval_cases k <;> rfl

/-- The sector of an enabled byte is touched. -/
theorem touched_of_enabled {be : BitVec 128} {j : Nat} (hj : j < 128) (h : be.getLsbD j = true) :
    (sectorsTouched be).getLsbD (j / 32) = true := by
  unfold sectorsTouched
  rw [getLsbD_sectorMask (fun j => be.extractLsb' (32 * j) 32 ≠ 0) (by omega), decide_eq_true_iff]
  intro zero
  have bit := congrArg (BitVec.getLsbD · (j % 32)) zero
  simp only [BitVec.getLsbD_extractLsb', Nat.div_add_mod, h, BitVec.ofNat_eq_ofNat, BitVec.getLsbD_zero] at bit
  simp [Nat.mod_lt] at bit

/-- A merge of whole sectors, bit by bit. -/
theorem getLsbD_mergeSectors (s : BitVec 4) (new old : Line) {i : Nat} (hi : i < 1024) :
    (mergeLine (sectorBe s) new old).getLsbD i = if s.getLsbD (i / 8 / 32) then new.getLsbD i else old.getLsbD i := by
  rw [getLsbD_mergeLine _ _ _ hi, getLsbD_sectorBe _ (by omega)]

/-! ### A store to some bytes of a line -/

section
variable (be : BitVec 128) (x d m : Line) (valid dirty : BitVec 4)

/-- A copy with the store merged in, over memory or over memory that has the store too. -/
theorem stored_in_copy {w m' : Line} (hw : w = mergeLine be x (mergeLine (sectorBe valid) d m)) (hm : m' = m ∨ m' = mergeLine be x m) :
    mergeLine (sectorBe (valid ||| sectorsTouched be)) w m' = w :=
  line_ext fun i hi => by
    rw [getLsbD_mergeSectors _ _ _ hi]
    split_ifs with held
    · rfl
    rw [BitVec.getLsbD_or, Bool.or_eq_true, not_or] at held
    have off : ¬ be.getLsbD (i / 8) = true := fun h => held.2 (touched_of_enabled (by omega) h)
    have mem : m'.getLsbD i = m.getLsbD i := by
      rcases hm with rfl | rfl
      · rfl
      · rw [getLsbD_mergeLine _ _ _ hi, if_neg off]
    rw [mem, hw, getLsbD_mergeLine _ _ _ hi, if_neg off, getLsbD_mergeSectors _ _ _ hi, if_neg held.1]

/-- A copy made by the store alone. -/
theorem stored_alone : mergeLine (sectorBe (sectorsTouched be)) (mergeLine be x m) m = mergeLine be x m :=
  line_ext fun i hi => by
    rw [getLsbD_mergeSectors _ _ _ hi]
    split_ifs with held
    · rfl
    · rw [getLsbD_mergeLine _ _ _ hi, if_neg fun on => held (touched_of_enabled (by omega) on)]

/-- A copy whose clean sectors are those of memory, where a byte is not stored to and its sector is not dirty. -/
theorem clean_bit (agree : mergeLine (sectorBe (valid &&& ~~~dirty)) d m = m) {i : Nat} (hi : i < 1024)
    (clean : ¬ dirty.getLsbD (i / 8 / 32) = true) : (mergeLine (sectorBe valid) d m).getLsbD i = m.getLsbD i := by
  have bit := congrArg (BitVec.getLsbD · i) agree
  simp only [getLsbD_mergeSectors _ _ _ hi, BitVec.getLsbD_and, BitVec.getLsbD_not, clean] at bit
  rw [getLsbD_mergeSectors _ _ _ hi]
  split_ifs with v
  · simpa [v, show i / 8 / 32 < 4 by omega] using bit
  · rfl

/-- The dirty sectors of a copy with the store merged in, written to memory. -/
theorem stored_by_writeback {w : Line} (hw : w = mergeLine be x (mergeLine (sectorBe valid) d m))
    (agree : mergeLine (sectorBe (valid &&& ~~~dirty)) d m = m) : mergeLine (sectorBe (dirty ||| sectorsTouched be)) w m = w :=
  line_ext fun i hi => by
    rw [getLsbD_mergeSectors _ _ _ hi]
    split_ifs with held
    · rfl
    rw [BitVec.getLsbD_or, Bool.or_eq_true, not_or] at held
    have off : ¬ be.getLsbD (i / 8) = true := fun h => held.2 (touched_of_enabled (by omega) h)
    rw [hw, getLsbD_mergeLine _ _ _ hi, if_neg off, clean_bit d m valid dirty agree hi held.1]

/-- The same where the store itself goes to memory. -/
theorem stored_through {w : Line} (hw : w = mergeLine be x (mergeLine (sectorBe valid) d m))
    (agree : mergeLine (sectorBe (valid &&& ~~~dirty)) d m = m) : mergeLine (sectorBe dirty) w (mergeLine be x m) = w :=
  line_ext fun i hi => by
    rw [getLsbD_mergeSectors _ _ _ hi]
    split_ifs with held
    · rfl
    rw [hw, getLsbD_mergeLine _ _ _ hi, getLsbD_mergeLine _ _ _ hi, clean_bit d m valid dirty agree hi held]

end

/-! ### Marks -/

theorem toNat_poisonAt (q : W32) (j : Nat) : (poisonAt q j).toNat = q.toNat / 2 ^ (8 * j) % 256 := by
  rw [poisonAt, BitVec.extractLsb'_toNat, Nat.shiftRight_eq_div_pow]

theorem sum_four_bytes {n : Nat} (h : n < 4294967296) : ((List.range 4).map fun i => n / 2 ^ (8 * i) % 256 * 2 ^ (8 * i)).sum = n := by
  rw [sum_range_four]
  omega

/-- The marks of the sectors are the bytes of the word. -/
theorem sum_poisonAt (q : W32) : ((List.range 4).map fun i => (poisonAt q i).toNat * 2 ^ (8 * i)).sum = q.toNat := by
  simp only [toNat_poisonAt]
  exact sum_four_bytes q.isLt

theorem mergePoison_none (p q : W32) : mergePoison 0 p q = q := by
  unfold mergePoison
  simp only [BitVec.ofNat_eq_ofNat, BitVec.getLsbD_zero, Bool.false_eq_true, if_false]
  rw [sum_poisonAt]
  rw [BitVec.ofNat_toNat, BitVec.setWidth_eq]

theorem withMemory_none (s : State) (line : Nat) (d : Line) (p : W32) : withMemory s line 0 d p = (memLine s.mem line, memPoison s line) := by
  unfold withMemory overlay
  rw [show sectorBe 0 = 0 from rfl, mergeLine_none, mergePoison_none]

end Sys2Proof.Machine

/-! SUPPORT. The home's tag of a line: placing it, holding it, releasing it, and the value that the home then has of the line. -/

namespace Sys2Proof.Machine

/-! ### The tags of a line -/

def tagsOf (sl : Slice) (line : Nat) : List CLine := sl.lines.filter fun c => c.line == line

/-- A slice has at most one tag of a line, and it is no remote copy. -/
def OneTag (sl : Slice) (line : Nat) : Prop := ∃ o : Option CLine, tagsOf sl line = o.toList ∧ ∀ c ∈ o, c.remote = none

theorem findLine_eq_head (sl : Slice) (line : Nat) : findLine sl line = (tagsOf sl line).head? := List.head?_filter.symm

theorem findLine_of_tags {sl : Slice} {line : Nat} {o : Option CLine} (h : tagsOf sl line = o.toList) : findLine sl line = o := by
  rw [findLine_eq_head, h]
  cases o <;> rfl

theorem mem_tagsOf {sl : Slice} {line : Nat} {c : CLine} : c ∈ tagsOf sl line ↔ c ∈ sl.lines ∧ c.line = line := by
  simp [tagsOf]

theorem line_of_findLine {sl : Slice} {line : Nat} {c : CLine} (h : findLine sl line = some c) : c.line = line :=
  beq_iff_eq.1 (List.find?_some (p := fun c : CLine => c.line == line) h)

theorem oneTag_iff {sl : Slice} {line : Nat} : OneTag sl line ↔
    (sl.lines.filter fun c => c.line == line).length ≤ 1 ∧ ∀ c ∈ sl.lines, c.line = line → c.remote = none := by
  constructor
  · rintro ⟨o, tags, ours⟩
    refine ⟨?_, fun c hc line => ?_⟩
    · change (tagsOf sl _).length ≤ 1
      rw [tags]
      cases o <;> simp
    · have : c ∈ o.toList := tags ▸ mem_tagsOf.2 ⟨hc, line⟩
      exact ours c (Option.mem_toList.1 this)
  · rintro ⟨few, ours⟩
    refine ⟨findLine sl line, ?_, fun c hc => ours c (List.mem_of_find?_eq_some hc) (line_of_findLine hc)⟩
    rw [findLine_eq_head]
    change (tagsOf sl line).length ≤ 1 at few
    match tagsOf sl line, few with
    | [], _ => rfl
    | [c], _ => rfl
    | _ :: _ :: _, few => simp at few

section
variable {ls : List CLine} {c : CLine} (here : c.remote = none) (ours : ∀ x ∈ ls, x.line = c.line → x.remote = none)
include here ours

theorem sameTag_eq {x : CLine} (hx : x ∈ ls) : sameTag c x = (x.line == c.line) := by
  unfold sameTag
  by_cases h : x.line = c.line
  · simp [h, here, ours x hx h]
  · simp [beq_eq_false_iff_ne.2 h, beq_eq_false_iff_ne.2 (Ne.symm h)]

theorem dropWhere_sameTag : dropWhere (sameTag c) ls = ls.filter fun x => x.line != c.line :=
  List.filter_congr fun _ hx => by rw [sameTag_eq here ours hx]; rfl

end

theorem sameTag_off {c x : CLine} (h : x.line ≠ c.line) : sameTag c x = false := by simp [sameTag, h.symm]

/-! ### Making room (R230) -/

@[simp] theorem sliceOf_emit (s : State) (o : Out) (i : Nat) : sliceOf (emit s o) i = sliceOf s i := rfl
@[simp] theorem sliceOf_modSlice (s : State) (i : Nat) (f : Slice → Slice) : sliceOf (modSlice s i f) i = f (sliceOf s i) := by
  rw [modSlice, sliceOf_setSlice, if_pos rfl]

theorem lines_evictLine (s : State) (i : Nat) (v : CLine) : (sliceOf (evictLine s i v) i).lines = dropWhere (sameTag v) (sliceOf s i).lines := by
  unfold evictLine
  dsimp only
  split_ifs <;> simp

/-- An eviction puts no other line into the spoil buffer. -/
theorem findSpoil_evictLine (s : State) (i : Nat) {v : CLine} {line : Nat} (h : v.line ≠ line) :
    findSpoil (sliceOf (evictLine s i v) i) line = findSpoil (sliceOf s i) line := by
  unfold evictLine
  dsimp only
  split_ifs <;> simp [findSpoil, h]

/-- Room made in a slice without a tag of the line: still none, and no entry of it in the spoil buffer that was not there. -/
theorem makeRoom_spec {s t : State} {i set n k line : Nat} (h : makeRoom i set n k s = some t) (off : ∀ c ∈ (sliceOf s i).lines, c.line ≠ line) :
    (∀ c ∈ (sliceOf t i).lines, c.line ≠ line) ∧ findSpoil (sliceOf t i) line = findSpoil (sliceOf s i) line ∧
      (setUse s.variant i set (sliceOf t i).lines).1 + n ≤ 64 ∧ (setUse s.variant i set (sliceOf t i).lines).2 + 1 ≤ 32 := by
  induction k generalizing s with
  | zero => cases h
  | succ k ih =>
    simp only [makeRoom] at h
    split at h
    · next room =>
      cases h
      rw [Bool.and_eq_true, decide_eq_true_iff, decide_eq_true_iff] at room
      exact ⟨off, rfl, room⟩
    · split at h
      · cases h
      · next v evictable =>
        split at h
        · cases h
        · have away : v.line ≠ line := off v (List.mem_of_find?_eq_some evictable)
          obtain ⟨tags, spoil, room⟩ := ih h fun c hc => off c (by rw [lines_evictLine] at hc; exact List.mem_of_mem_filter hc)
          rw [variant_of_offTags (offTags_evictLine s i v)] at room
          exact ⟨tags, spoil.trans (findSpoil_evictLine s i away), room⟩

/-! ### Placing a tag (R227, R237) -/

/-- A line as it is placed: with the pins, the hold, the slots and the age of the tag that it replaces. -/
def retagged (ls : List CLine) (c : CLine) : CLine :=
  match ls.find? (sameTag c) with
  | some o => layout { c with pins := o.pins, hold := o.hold || c.hold, slots := o.slots, age := o.age }
  | none => layout c

/-- A slice without the tag that a line replaces. -/
def untagged (s : State) (i : Nat) (c : CLine) : State := modSlice s i fun sl => { sl with lines := dropWhere (sameTag c) sl.lines }

theorem placeLine_eq (s : State) (i : Nat) {c x : CLine} (hx : x = retagged (sliceOf s i).lines c) : placeLine s i c =
    if !(sliceOf s i).enabled && !(sliceOf s i).lines.any (sameTag x) then none
    else (makeRoom i (setIn s.variant i (128 * x.line)) (lineSlots x) 33 (untagged s i x)).map fun u =>
      modSlice u i fun sl => { sl with lines := useLine s.variant i (grantSlots s.variant i x sl.lines) sl.lines } := by
  subst hx
  unfold placeLine
  extract_lets sl placed emptied
  change _ = if !sl.enabled && !sl.lines.any (sameTag placed) then none
    else (makeRoom i (setIn s.variant i (128 * placed.line)) (lineSlots placed) 33 emptied).map _
  split_ifs
  · rfl
  · cases makeRoom i (setIn s.variant i (128 * placed.line)) (lineSlots placed) 33 emptied <;> rfl

/-- Placing keeps a line's content; a hold stays, or comes. -/
theorem retagged_spec (ls : List CLine) (c : CLine) : (retagged ls c).line = c.line ∧ (retagged ls c).remote = c.remote ∧
    (retagged ls c).valid = c.valid ∧ (retagged ls c).data = c.data ∧ (retagged ls c).poison = c.poison ∧
    (c.hold = true ∨ (∃ o, ls.find? (sameTag c) = some o ∧ o.hold = true) → (retagged ls c).hold = true) := by
  unfold retagged
  cases found : ls.find? (sameTag c) with
  | none => exact ⟨rfl, rfl, rfl, rfl, rfl, fun h => h.elim id fun ⟨o, no, _⟩ => by cases no⟩
  | some o =>
    refine ⟨rfl, rfl, rfl, rfl, rfl, fun h => ?_⟩
    change (o.hold || c.hold) = true
    rcases h with h | ⟨_, same, h⟩
    · simp [h]
    · cases same
      simp [h]

theorem lineSlots_held {c : CLine} (h : c.hold = true) : lineSlots c = 4 := by simp [lineSlots, isKept, h]

/-- A tag of a slice once `c` has been used. -/
def older (variant i : Nat) (c x : CLine) : CLine :=
  if inSet variant i (setIn variant i (128 * c.line)) x && x.age < c.age then { x with age := x.age + 1 } else x

@[simp] theorem older_line (variant i : Nat) (c x : CLine) : (older variant i c x).line = x.line := by
  unfold older
  split_ifs <;> rfl
@[simp] theorem inSet_older (variant i n : Nat) (c x : CLine) : inSet variant i n (older variant i c x) = inSet variant i n x := by
  unfold older
  split_ifs <;> rfl
@[simp] theorem lineSlots_older (variant i : Nat) (c x : CLine) : lineSlots (older variant i c x) = lineSlots x := by
  unfold older
  split_ifs <;> rfl

/-- Ages do not count in the use of a set. -/
theorem setUse_older (variant i set : Nat) (c : CLine) (ls : List CLine) :
    setUse variant i set (ls.map (older variant i c)) = setUse variant i set ls := by
  unfold setUse
  simp only [List.filter_map, List.length_map, List.map_map, Function.comp_def, inSet_older, lineSlots_older]

theorem filter_older (variant i : Nat) (c : CLine) (p : Nat → Bool) (ls : List CLine) :
    (ls.map (older variant i c)).filter (fun x => p x.line) = (ls.filter fun x => p x.line).map (older variant i c) := by
  simp only [List.filter_map, Function.comp_def, older_line]

/-- A line used in a slice without a tag of it: the others are older, and it is the most recent. -/
theorem useLine_new {variant i : Nat} {c : CLine} {ls : List CLine} (off : ∀ x ∈ ls, x.line ≠ c.line) :
    useLine variant i c ls = ls.map (older variant i c) ++ [{ c with age := 0 }] := by
  have whole : ls.filter (fun x => !sameTag c x) = ls := List.filter_eq_self.2 fun x hx => by rw [sameTag_off (off x hx)]; rfl
  unfold useLine
  rw [whole]
  rfl

/-- The slice's set has four slots and a tag for the line, beside those of other lines. -/
def Roomy (s : State) (i line : Nat) : Prop :=
  (setUse s.variant i (setIn s.variant i (128 * line)) ((sliceOf s i).lines.filter fun x => x.line != line)).1 + 4 ≤ 64 ∧
    (setUse s.variant i (setIn s.variant i (128 * line)) ((sliceOf s i).lines.filter fun x => x.line != line)).2 + 1 ≤ 32

/-- A line with its place in a slice: the only tag, with the content given. -/
structure Placed (s t : State) (i : Nat) (c x : CLine) : Prop where
  only : tagsOf (sliceOf t i) c.line = [x]
  own : x.remote = none
  valid : x.valid = c.valid
  data : x.data = c.data
  marks : x.poison = c.poison
  spoil : findSpoil (sliceOf t i) c.line = findSpoil (sliceOf s i) c.line
  rest : offTags i t = offTags i s

theorem lines_untagged {s : State} {i : Nat} {c : CLine} (own : c.remote = none)
    (ours : ∀ x ∈ (sliceOf s i).lines, x.line = c.line → x.remote = none) :
    (sliceOf (untagged s i c) i).lines = (sliceOf s i).lines.filter fun x => x.line != c.line := by
  rw [untagged, sliceOf_modSlice]
  exact dropWhere_sameTag own ours

theorem placeLine_spec {s t : State} {i : Nat} {c : CLine} (h : placeLine s i c = some t) (own : c.remote = none)
    (ours : ∀ x ∈ (sliceOf s i).lines, x.line = c.line → x.remote = none) :
    ∃ x, Placed s t i c x ∧ ((retagged (sliceOf s i).lines c).hold = true → x.hold = true ∧ Roomy t i c.line) := by
  have rest := offTags_placeLine h
  obtain ⟨line, remote, valid, data, marks, -⟩ := retagged_spec (sliceOf s i).lines c
  rw [placeLine_eq s i rfl] at h
  generalize retagged (sliceOf s i).lines c = x at h line remote valid data marks ⊢
  split_ifs at h
  obtain ⟨u, room, rfl⟩ := Option.map_eq_some_iff.1 h
  have ownX : x.remote = none := remote.trans own
  have emptied : ∀ y ∈ (sliceOf (untagged s i x) i).lines, y.line ≠ x.line := fun y hy => by
    rw [lines_untagged ownX (by rwa [line])] at hy
    simpa using (List.mem_filter.1 hy).2
  obtain ⟨off, spoil, slots, tag⟩ := makeRoom_spec room emptied
  have lines := useLine_new (variant := s.variant) (i := i) (c := grantSlots s.variant i x (sliceOf u i).lines) off
  have granted : (grantSlots s.variant i x (sliceOf u i).lines).line = c.line := line
  refine ⟨{ grantSlots s.variant i x (sliceOf u i).lines with age := 0 }, ⟨?_, ownX, valid, data, marks, ?_, rest⟩, fun hold => ⟨hold, ?_⟩⟩
  · have absent : ((sliceOf u i).lines.filter fun y => y.line == c.line) = [] :=
      List.filter_eq_nil_iff.2 fun y hy => by simpa [line] using off y hy
    rw [tagsOf, sliceOf_modSlice, lines, List.filter_append, filter_older (p := fun l => l == c.line), absent]
    exact List.filter_cons_of_pos (p := fun y : CLine => y.line == c.line) (beq_iff_eq.2 line)
  · rw [sliceOf_modSlice, ← line]
    exact spoil.trans (by rw [untagged, sliceOf_modSlice]; rfl)
  · have all : ((sliceOf u i).lines.filter fun y => y.line != c.line) = (sliceOf u i).lines :=
      List.filter_eq_self.2 fun y hy => by simpa [line] using off y hy
    rw [Roomy, variant_of_offTags rest, sliceOf_modSlice, lines, List.filter_append, filter_older (p := fun l => l != c.line), all,
      List.filter_cons_of_neg (p := fun y : CLine => y.line != c.line) (by simpa using granted), List.filter_nil, List.append_nil, setUse_older]
    rw [lineSlots_held hold, line] at slots
    rw [line] at tag
    exact ⟨slots, tag⟩

/-- A held line finds its place again at once. -/
theorem placeLine_held {s : State} {i : Nat} {c o : CLine} (enabled : (sliceOf s i).enabled = true) (own : c.remote = none)
    (ours : ∀ x ∈ (sliceOf s i).lines, x.line = c.line → x.remote = none) (found : findLine (sliceOf s i) c.line = some o)
    (hold : o.hold = true) (room : Roomy s i c.line) : ∃ t, placeLine s i c = some t := by
  obtain ⟨line, remote, -, -, -, keeps⟩ := retagged_spec (sliceOf s i).lines c
  have same : (sliceOf s i).lines.find? (sameTag c) = some o := by
    rw [← found, findLine]
    exact List.find?_congr fun x hx => sameTag_eq own ours hx
  have held : lineSlots (retagged (sliceOf s i).lines c) = 4 := lineSlots_held (keeps (.inr ⟨o, same, hold⟩))
  rw [placeLine_eq s i rfl]
  generalize retagged (sliceOf s i).lines c = x at line remote held ⊢
  have lines := lines_untagged (s := s) (i := i) (c := x) (remote.trans own) (by rwa [line])
  rw [line] at lines ⊢
  have fits : makeRoom i (setIn s.variant i (128 * c.line)) (lineSlots x) 33 (untagged s i x) = some (untagged s i x) := by
    unfold makeRoom
    dsimp only
    rw [lines, held, show (untagged s i x).variant = s.variant from rfl, if_pos (by simpa [Roomy] using room)]
  rw [fits, enabled]
  exact ⟨_, rfl⟩

end Sys2Proof.Machine

/-! SUPPORT. The value that the home has of a line: what holding, storing to and releasing the line make of it. -/

namespace Sys2Proof.Machine

/-! ### The home's view of a line (R263) -/

/-- Value and marks of a line at its home. -/
def homeView (s : State) (h line : Nat) : Line × W32 := ((homeValue s h line).1, (homeValue s h line).2.1)

theorem homeView_spoil {s : State} {h line : Nat} {e : Spoil} (found : findSpoil (sliceOf s h) line = some e) :
    homeView s h line = withMemory s line e.valid e.data e.poison := by
  simp [homeView, homeValue, found]

theorem homeView_tag {s : State} {h line : Nat} {c : CLine} (spoil : findSpoil (sliceOf s h) line = none)
    (found : findLine (sliceOf s h) line = some c) : homeView s h line = withMemory s line c.valid c.data c.poison := by
  simp [homeView, homeValue, spoil, found]

theorem homeView_memory {s : State} {h line : Nat} (spoil : findSpoil (sliceOf s h) line = none)
    (empty : ∀ c, findLine (sliceOf s h) line = some c → c.valid = 0) : homeView s h line = (memLine s.mem line, memPoison s line) := by
  cases found : findLine (sliceOf s h) line with
  | none => simp [homeView, homeValue, spoil, found]
  | some c => rw [homeView_tag spoil found, empty c found, withMemory_none]

theorem valueAt_eq (s : State) (h line : Nat) : valueAt s h line = (homeView s h line).1 := rfl

/-- A home where a line is known: it stands in the spoil buffer, or in at most one tag. -/
def KnownAt (s : State) (h line : Nat) : Prop := findSpoil (sliceOf s h) line ≠ none ∨ OneTag (sliceOf s h) line

theorem Placed.found {s t : State} {i : Nat} {c x : CLine} (p : Placed s t i c x) : findLine (sliceOf t i) c.line = some x :=
  findLine_of_tags (o := some x) p.only

theorem Placed.oneTag {s t : State} {i : Nat} {c x : CLine} (p : Placed s t i c x) : OneTag (sliceOf t i) c.line :=
  ⟨some x, p.only, fun _ hy => by cases hy; exact p.own⟩

theorem withMemory_congr {s t : State} (mem : t.mem = s.mem) (poison : t.poison = s.poison) (line : Nat) (v : BitVec 4) (d : Line) (p : W32) :
    withMemory t line v d p = withMemory s line v d p := by
  unfold withMemory memPoison
  rw [mem, poison]

theorem Placed.view {s t : State} {i : Nat} {c x : CLine} (p : Placed s t i c x) (spoil : findSpoil (sliceOf s i) c.line = none) :
    homeView t i c.line = withMemory s c.line c.valid c.data c.poison := by
  rw [homeView_tag (p.spoil.trans spoil) p.found, p.valid, p.data, p.marks,
    withMemory_congr (mem_of_offTags p.rest) (poison_of_offTags p.rest)]

/-! ### Holding a line (R230, R294) -/

/-- A line's only tag is held, with room for four slots. -/
def HeldAt (s : State) (h line : Nat) : Prop := (∃ c, findLine (sliceOf s h) line = some c ∧ c.hold = true) ∧ Roomy s h line

theorem local_of_oneTag {sl : Slice} {line : Nat} (h : OneTag sl line) : ∀ x ∈ sl.lines, x.line = line → x.remote = none :=
  (oneTag_iff.1 h).2

/-- Holding a line keeps the home's view of it. -/
theorem holdLine_spec {s w : State} {h line : Nat} (one : OneTag (sliceOf s h) line) (spoil : findSpoil (sliceOf s h) line = none)
    (held : holdLine s h line = some w) : OneTag (sliceOf w h) line ∧ findSpoil (sliceOf w h) line = none ∧ HeldAt w h line ∧
      homeView w h line = homeView s h line := by
  have ours := local_of_oneTag one
  unfold holdLine at held
  dsimp only at held
  cases found : findLine (sliceOf s h) line with
  | some c =>
    rw [found] at held
    dsimp only at held
    split_ifs at held
    have here : c.line = line := line_of_findLine found
    subst here
    obtain ⟨x, p, kept⟩ := placeLine_spec held (ours c (List.mem_of_find?_eq_some found) rfl) ours
    obtain ⟨hold, room⟩ := kept ((retagged_spec _ _).2.2.2.2.2 (.inl rfl))
    refine ⟨p.oneTag, p.spoil.trans spoil, ⟨⟨x, p.found, hold⟩, room⟩, ?_⟩
    rw [homeView_tag spoil found]
    exact p.view spoil
  | none =>
    rw [found] at held
    dsimp only at held
    split_ifs at held
    obtain ⟨x, p, kept⟩ := placeLine_spec held rfl ours
    obtain ⟨hold, room⟩ := kept ((retagged_spec _ _).2.2.2.2.2 (.inl rfl))
    refine ⟨p.oneTag, p.spoil.trans spoil, ⟨⟨x, p.found, hold⟩, room⟩, ?_⟩
    rw [homeView_memory spoil fun c hc => by rw [found] at hc; cases hc]
    exact (p.view spoil).trans (withMemory_none ..)

/-- What a request takes of the home leaves its view of the line; the line is then held where the request needs its tag. -/
theorem takes_spec {s w : State} {h line : Nat} {r : HomeReq} (one : OneTag (sliceOf s h) line) (takes : Takes s h line r w) :
    OneTag (sliceOf w h) line ∧ homeView w h line = homeView s h line ∧ if needsTag s h line r then
      findSpoil (sliceOf s h) line = none ∧ findSpoil (sliceOf w h) line = none ∧ HeldAt w h line else w = s := by
  unfold Takes at takes
  split_ifs at takes with needs
  · have spoil : findSpoil (sliceOf s h) line = none := by
      simp only [needsTag, Bool.and_eq_true, Option.isNone_iff_eq_none] at needs
      exact needs.1.2
    obtain ⟨one', spoil', held, view⟩ := holdLine_spec one spoil takes
    rw [if_pos needs]
    exact ⟨one', view, spoil, spoil', held⟩
  · rw [if_neg needs]
    subst takes
    exact ⟨one, rfl, rfl⟩

/-! ### Stores (R231, R232, R250) -/

@[simp] theorem activate_slices (s : State) (pa : Nat) : (activate s pa).slices = s.slices := by
  unfold activate
  split
  · rfl
  · dsimp only
    split_ifs <;> rfl

@[simp] theorem activate_mem (s : State) (pa : Nat) : (activate s pa).mem = s.mem := by
  unfold activate
  split
  · rfl
  · dsimp only
    split_ifs <;> rfl

@[simp] theorem memStore_slices (s : State) (line : Nat) (be : BitVec 128) (whole : BitVec 4) (d : Line) (p : W32) :
    (memStore s line be whole d p).slices = s.slices := activate_slices ..

@[simp] theorem memStore_mem (s : State) (line : Nat) (be : BitVec 128) (whole : BitVec 4) (d : Line) (p : W32) :
    (memStore s line be whole d p).mem = memPutLine s.mem line be d := by
  unfold memStore setMemPoison
  dsimp only
  rw [activate_mem]

theorem sliceOf_of_slices {s t : State} (h : t.slices = s.slices) (i : Nat) : sliceOf t i = sliceOf s i := by
  rw [sliceOf, h, sliceOf]

/-- Where a held line is put, it is placed. -/
theorem putHome_held {s : State} {h : Nat} {c : CLine} (enabled : (sliceOf s h).enabled = true) (own : c.remote = none)
    (one : OneTag (sliceOf s h) c.line) (held : HeldAt s h c.line) : ∃ x, Placed s (putHome s h c) h c x := by
  obtain ⟨⟨o, found, hold⟩, room⟩ := held
  have ours := local_of_oneTag one
  obtain ⟨t, placed⟩ := placeLine_held enabled own ours found hold room
  obtain ⟨x, p, -⟩ := placeLine_spec placed own ours
  unfold putHome
  rw [placed]
  exact ⟨x, p⟩

/-- A disabled slice's line in place of a tag that nothing keeps: it is placed, or its dirty sectors go to memory and the tag goes (R250). -/
theorem putHome_disabled {s : State} {h : Nat} {c : CLine} (disabled : (sliceOf s h).enabled = false) (own : c.remote = none)
    (one : OneTag (sliceOf s h) c.line) (free : ∀ x ∈ (sliceOf s h).lines, x.line = c.line → isKept x = false) :
    (∃ x, Placed s (putHome s h c) h c x) ∨
      (tagsOf (sliceOf (putHome s h c) h) c.line = [] ∧ findSpoil (sliceOf (putHome s h c) h) c.line = findSpoil (sliceOf s h) c.line ∧
        (putHome s h c).mem = memPutLine s.mem c.line (sectorBe c.dirty) c.data) := by
  have ours := local_of_oneTag one
  cases placed : placeLine s h c with
  | some t =>
    obtain ⟨x, p, -⟩ := placeLine_spec placed own ours
    refine .inl ⟨x, ?_⟩
    unfold putHome
    rw [placed]
    exact p
  | none =>
    have written : putHome s h c = memStoreLine (modSlice s h fun sl =>
        { sl with lines := dropWhere (fun x => x.line == c.line && !isKept x) sl.lines }) c.line c.dirty c.data c.poison := by
      simp [putHome, disabled, placed]
    have slice : sliceOf (putHome s h c) h =
        { sliceOf s h with lines := dropWhere (fun x => x.line == c.line && !isKept x) (sliceOf s h).lines } := by
      rw [written, memStoreLine, sliceOf_of_slices (memStore_slices ..), sliceOf_modSlice]
    refine .inr ⟨?_, by rw [slice]; rfl, written ▸ memStore_mem ..⟩
    rw [tagsOf, slice]
    refine List.filter_eq_nil_iff.2 fun x hx line => ?_
    obtain ⟨mem, stays⟩ := List.mem_filter.1 hx
    simp [beq_iff_eq.1 line, free x mem (beq_iff_eq.1 line)] at stays

end Sys2Proof.Machine

/-! SUPPORT. A store at the home of a line, and the release of the line: what value the home then has (R231, R232, R240, R250). -/

namespace Sys2Proof.Machine

/-- The home's value with a store's bytes, at a home that knows the line. -/
def Stores (u t : State) (h line : Nat) (be : BitVec 128) (x : Line) : Prop :=
  KnownAt t h line ∧ valueAt t h line = mergeLine be x (valueAt u h line)

theorem value_withMemory (s : State) (line : Nat) (v : BitVec 4) (d : Line) (p : W32) :
    (withMemory s line v d p).1 = mergeLine (sectorBe v) d (memLine s.mem line) := rfl

theorem memLine_memStore (s : State) (line : Nat) (be : BitVec 128) (whole : BitVec 4) (d : Line) (p : W32) :
    memLine (memStore s line be whole d p).mem line = mergeLine be d (memLine s.mem line) := by
  rw [memStore_mem, memLine_memPutLine]

theorem variant_memStore (s : State) (line : Nat) (be : BitVec 128) (whole : BitVec 4) (d : Line) (p : W32) :
    (memStore s line be whole d p).variant = s.variant := (congrArg State.variant (offMemory_memStore s line be whole d p) :)

/-! ### At an entry of the spoil buffer (R240) -/

theorem homeStore_spoil {u : State} {h line attr : Nat} {be : BitVec 128} {x : Line} {p : W32} {e : Spoil}
    (found : findSpoil (sliceOf u h) line = some e) : Stores u (homeStore u h line be x p attr) h line be x := by
  have entry : findSpoil (sliceOf (homeStore u h line be x p attr) h) line = some { e with
      data := mergeLine be x (withMemory u line e.valid e.data e.poison).1, valid := e.valid ||| sectorsTouched be,
      dirty := e.dirty ||| sectorsTouched be,
      poison := mergePoison (sectorsWhole be) p (withMemory u line e.valid e.data e.poison).2 } := by
    unfold homeStore
    dsimp only
    rw [found]
    dsimp only
    rw [sliceOf_modSlice, findSpoil, find?_modWhere (by intro _ h; exact h)]
    exact congrArg (Option.map _) found
  have mem : (homeStore u h line be x p attr).mem = u.mem := by
    unfold homeStore
    dsimp only
    rw [found]
    rfl
  refine ⟨.inl (by rw [entry]; exact Option.some_ne_none _), ?_⟩
  rw [valueAt_eq, valueAt_eq, homeView_spoil entry, homeView_spoil found, value_withMemory, mem]
  exact stored_in_copy be x e.data (memLine u.mem line) e.valid rfl (.inl rfl)

/-! ### At a tag (R231, R232) -/

/-- Does a store to a copy also go to memory (R232)? -/
def goesThrough (attr : Nat) (c : CLine) : Bool := attr == 1 || (attr == 3 && c.pins ≠ 0)

/-- A copy with the bytes of a store. -/
def storedCopy (u : State) (line : Nat) (be : BitVec 128) (x : Line) (p : W32) (attr : Nat) (c : CLine) : CLine :=
  { c with data := mergeLine be x (withMemory u line c.valid c.data c.poison).1,
           poison := mergePoison (sectorsWhole be) p (withMemory u line c.valid c.data c.poison).2,
           valid := c.valid ||| sectorsTouched be,
           dirty := if goesThrough attr c then c.dirty else c.dirty ||| sectorsTouched be }

/-- Memory as a store to a copy leaves it. -/
def storedThrough (u : State) (line : Nat) (be : BitVec 128) (x : Line) (p : W32) (attr : Nat) (c : CLine) : State :=
  if goesThrough attr c then memStoreBytes u line be x p else u

theorem homeStore_hit {u : State} {h line attr : Nat} {be : BitVec 128} {x : Line} {p : W32} {c : CLine}
    (spoil : findSpoil (sliceOf u h) line = none) (found : findLine (sliceOf u h) line = some c) (valid : c.valid ≠ 0) :
    homeStore u h line be x p attr = putHome (storedThrough u line be x p attr c) h (storedCopy u line be x p attr c) := by
  unfold homeStore
  dsimp only
  rw [spoil, found, Option.filter_some, if_pos (decide_eq_true valid)]
  rfl

/-- A copy made by a store alone, over memory. -/
def newCopy (u : State) (line : Nat) (be : BitVec 128) (x : Line) (p : W32) : CLine :=
  { line, st := .home, valid := sectorsTouched be, dirty := sectorsTouched be, data := mergeLine be x (memLine u.mem line),
    poison := mergePoison (sectorsWhole be) p (memPoison u line) }

theorem homeStore_miss {u : State} {h line attr : Nat} {be : BitVec 128} {x : Line} {p : W32}
    (spoil : findSpoil (sliceOf u h) line = none) (empty : ∀ c, findLine (sliceOf u h) line = some c → c.valid = 0) :
    homeStore u h line be x p attr = if attr = 0 && (sliceOf u h).enabled then
      putHome u h (newCopy u line be x p)
    else memStoreBytes u line be x p := by
  have absent : (findLine (sliceOf u h) line).filter (fun c => c.valid ≠ 0) = none := by
    cases found : findLine (sliceOf u h) line with
    | none => rfl
    | some c => simp [empty c found]
  unfold homeStore
  dsimp only
  rw [spoil]
  dsimp only
  rw [absent]
  rfl

theorem storedThrough_slices (u : State) (line : Nat) (be : BitVec 128) (x : Line) (p : W32) (attr : Nat) (c : CLine) :
    (storedThrough u line be x p attr c).slices = u.slices := by
  unfold storedThrough
  split_ifs
  · exact memStore_slices ..
  · rfl

theorem storedThrough_variant (u : State) (line : Nat) (be : BitVec 128) (x : Line) (p : W32) (attr : Nat) (c : CLine) :
    (storedThrough u line be x p attr c).variant = u.variant := by
  unfold storedThrough
  split_ifs
  · exact variant_memStore ..
  · rfl

theorem memLine_storedThrough (u : State) (line : Nat) (be : BitVec 128) (x : Line) (p : W32) (attr : Nat) (c : CLine) :
    memLine (storedThrough u line be x p attr c).mem line =
      if goesThrough attr c then mergeLine be x (memLine u.mem line) else memLine u.mem line := by
  unfold storedThrough
  split_ifs
  · exact memLine_memStore ..
  · rfl

theorem heldAt_congr {s t : State} {h line : Nat} (slice : sliceOf t h = sliceOf s h) (variant : t.variant = s.variant)
    (held : HeldAt s h line) : HeldAt t h line := by
  unfold HeldAt Roomy at *
  rwa [slice, variant]

/-- A store at a copy that finds its place again. -/
theorem stores_placed {u s t : State} {h line attr : Nat} {be : BitVec 128} {x : Line} {p : W32} {c y : CLine}
    (spoil : findSpoil (sliceOf u h) line = none) (found : findLine (sliceOf u h) line = some c)
    (hs : s = storedThrough u line be x p attr c) (placed : Placed s t h (storedCopy u line be x p attr c) y) : Stores u t h line be x := by
  have here : (storedCopy u line be x p attr c).line = line := (rfl : _ = c.line).trans (line_of_findLine found)
  have away : findSpoil (sliceOf s h) (storedCopy u line be x p attr c).line = none := by
    rw [here, hs, sliceOf_of_slices (storedThrough_slices ..), spoil]
  have view := placed.view away
  have one := placed.oneTag
  rw [here] at view one
  refine ⟨.inr one, ?_⟩
  rw [valueAt_eq, valueAt_eq, view, homeView_tag spoil found, value_withMemory, hs, memLine_storedThrough]
  refine stored_in_copy be x c.data (memLine u.mem line) c.valid rfl ?_
  split_ifs
  · exact .inr rfl
  · exact .inl rfl

theorem homeStore_hit_held {u : State} {h line attr : Nat} {be : BitVec 128} {x : Line} {p : W32} {c : CLine}
    (enabled : (sliceOf u h).enabled = true) (spoil : findSpoil (sliceOf u h) line = none) (one : OneTag (sliceOf u h) line)
    (held : HeldAt u h line) (found : findLine (sliceOf u h) line = some c) (valid : c.valid ≠ 0) :
    Stores u (homeStore u h line be x p attr) h line be x := by
  have slice : sliceOf (storedThrough u line be x p attr c) h = sliceOf u h := sliceOf_of_slices (storedThrough_slices ..) h
  have here : (storedCopy u line be x p attr c).line = line := (rfl : _ = c.line).trans (line_of_findLine found)
  obtain ⟨y, placed⟩ := putHome_held (s := storedThrough u line be x p attr c) (h := h) (c := storedCopy u line be x p attr c)
    (by rw [slice, enabled]) (local_of_oneTag one c (List.mem_of_find?_eq_some found) (line_of_findLine found))
    (by rw [slice, here]; exact one) (by rw [here]; exact heldAt_congr slice (storedThrough_variant ..) held)
  rw [homeStore_hit spoil found valid]
  exact stores_placed spoil found rfl placed

theorem homeStore_hit_disabled {u : State} {h line attr : Nat} {be : BitVec 128} {x : Line} {p : W32} {c : CLine}
    (disabled : (sliceOf u h).enabled = false) (spoil : findSpoil (sliceOf u h) line = none) (agrees : HomeAgrees u h line)
    (found : findLine (sliceOf u h) line = some c) (valid : c.valid ≠ 0) : Stores u (homeStore u h line be x p attr) h line be x := by
  obtain ⟨few, each⟩ := agrees
  have slice : sliceOf (storedThrough u line be x p attr c) h = sliceOf u h := sliceOf_of_slices (storedThrough_slices ..) h
  have here : (storedCopy u line be x p attr c).line = line := (rfl : _ = c.line).trans (line_of_findLine found)
  obtain ⟨own, -, -, clean⟩ := each c (List.mem_of_find?_eq_some found) (line_of_findLine found)
  rw [homeStore_hit spoil found valid]
  have one : OneTag (sliceOf u h) line := oneTag_iff.2 ⟨few, fun c hc line => (each c hc line).1⟩
  rcases putHome_disabled (s := storedThrough u line be x p attr c) (h := h) (c := storedCopy u line be x p attr c)
    (by rw [slice, disabled]) own (by rw [slice, here]; exact one) (by
      rw [slice, here]
      intro y hy line
      obtain ⟨-, pins, hold, -⟩ := each y hy line
      simp [isKept, pins, hold]) with ⟨y, placed⟩ | ⟨gone, away, mem⟩
  · exact stores_placed spoil found rfl placed
  · rw [here] at gone away mem
    rw [slice, spoil] at away
    have empty : findLine (sliceOf (putHome (storedThrough u line be x p attr c) h (storedCopy u line be x p attr c)) h) line = none :=
      findLine_of_tags (o := none) gone
    refine ⟨.inr ⟨none, gone, fun _ h => by cases h⟩, ?_⟩
    rw [valueAt_eq, valueAt_eq, homeView_memory away fun c hc => by rw [empty] at hc; cases hc]
    dsimp only
    rw [mem, memLine_memPutLine, memLine_storedThrough, homeView_tag spoil found, value_withMemory]
    change mergeLine (sectorBe (if goesThrough attr c then c.dirty else c.dirty ||| sectorsTouched be)) _ _ = _
    split_ifs
    · exact stored_through be x c.data (memLine u.mem line) c.valid c.dirty rfl clean
    · exact stored_by_writeback be x c.data (memLine u.mem line) c.valid c.dirty rfl clean

/-! ### Without a copy (R231) -/

theorem homeStore_miss_held {u : State} {h line : Nat} {be : BitVec 128} {x : Line} {p : W32}
    (enabled : (sliceOf u h).enabled = true) (spoil : findSpoil (sliceOf u h) line = none) (one : OneTag (sliceOf u h) line)
    (held : HeldAt u h line) (empty : ∀ c, findLine (sliceOf u h) line = some c → c.valid = 0) :
    Stores u (homeStore u h line be x p 0) h line be x := by
  rw [homeStore_miss spoil empty, if_pos (by simp [enabled])]
  obtain ⟨y, placed⟩ := putHome_held (c := newCopy u line be x p) enabled rfl one held
  refine ⟨.inr placed.oneTag, ?_⟩
  have view : homeView (putHome u h (newCopy u line be x p)) h line = _ := placed.view spoil
  rw [valueAt_eq, valueAt_eq, view, homeView_memory spoil empty, value_withMemory]
  exact stored_alone be x (memLine u.mem line)

theorem homeStore_miss_memory {u : State} {h line attr : Nat} {be : BitVec 128} {x : Line} {p : W32}
    (spoil : findSpoil (sliceOf u h) line = none) (one : OneTag (sliceOf u h) line)
    (empty : ∀ c, findLine (sliceOf u h) line = some c → c.valid = 0) (memory : (decide (attr = 0) && (sliceOf u h).enabled) = false) :
    Stores u (homeStore u h line be x p attr) h line be x := by
  have slice : sliceOf (memStoreBytes u line be x p) h = sliceOf u h := sliceOf_of_slices (memStore_slices ..) h
  rw [homeStore_miss spoil empty, if_neg (by simp [memory])]
  refine ⟨.inr (by rwa [slice]), ?_⟩
  rw [valueAt_eq, valueAt_eq, homeView_memory (by rw [slice, spoil]) (by rwa [slice]), homeView_memory spoil empty]
  exact memLine_memStore ..

/-! ### A rounded operation's store -/

theorem needsTag_rounded {s : State} {h : Nat} {k : CruPacket} (opens : isClose k = false) (rounds : isRounded k = true)
    (hit : (∃ c, findLine (sliceOf s h) k.line = some c ∧ c.valid ≠ 0) ∨ k.attr = 0) :
    needsTag s h k.line (.update k) = ((sliceOf s h).enabled && (findSpoil (sliceOf s h) k.line).isNone) := by
  have wants : (((findLine (sliceOf s h) k.line).map fun c => c.valid != 0).getD false || k.attr == 0) = true := by
    rcases hit with ⟨c, found, valid⟩ | memory
    · simpa [found] using .inl valid
    · simp [memory]
  unfold needsTag
  simp only [opens, rounds, wants, Bool.not_false, Bool.true_or, Bool.and_true]

theorem hit_or_empty (sl : Slice) (line : Nat) : (∃ c, findLine sl line = some c ∧ c.valid ≠ 0) ∨ ∀ c, findLine sl line = some c → c.valid = 0 := by
  by_cases h : ∃ c, findLine sl line = some c ∧ c.valid ≠ 0
  · exact .inl h
  · exact .inr fun c found => by_contra fun valid => h ⟨c, found, valid⟩

/-- A store at a held line. -/
theorem homeStore_held {u : State} {h line attr : Nat} {be : BitVec 128} {x : Line} {p : W32} (enabled : (sliceOf u h).enabled = true)
    (spoil : findSpoil (sliceOf u h) line = none) (one : OneTag (sliceOf u h) line) (held : HeldAt u h line) :
    Stores u (homeStore u h line be x p attr) h line be x := by
  rcases hit_or_empty (sliceOf u h) line with ⟨c, found, valid⟩ | empty
  · exact homeStore_hit_held enabled spoil one held found valid
  by_cases writeBack : attr = 0
  · subst writeBack
    exact homeStore_miss_held enabled spoil one held empty
  · exact homeStore_miss_memory spoil one empty (by simp [writeBack])

/-- A store in a disabled slice. -/
theorem homeStore_disabled {u : State} {h line attr : Nat} {be : BitVec 128} {x : Line} {p : W32} (disabled : (sliceOf u h).enabled = false)
    (spoil : findSpoil (sliceOf u h) line = none) (agrees : HomeAgrees u h line) : Stores u (homeStore u h line be x p attr) h line be x := by
  rcases hit_or_empty (sliceOf u h) line with ⟨c, found, valid⟩ | empty
  · exact homeStore_hit_disabled disabled spoil agrees found valid
  · exact homeStore_miss_memory spoil (oneTag_iff.2 ⟨agrees.1, fun c hc line => (agrees.2 c hc line).1⟩) empty (by simp [disabled])

section
variable (s : State) (h line l : Nat)

@[simp] theorem findSpoil_reserveFilter : findSpoil (sliceOf (reserveFilter s h line false) h) l = findSpoil (sliceOf s h) l := by
  rw [findSpoil, spoil_reserveFilter, findSpoil]
@[simp] theorem findLine_reserveFilter : findLine (sliceOf (reserveFilter s h line false) h) l = findLine (sliceOf s h) l := by
  rw [findLine, lines_reserveFilter, findLine]
@[simp] theorem enabled_reserveFilter : (sliceOf (reserveFilter s h line false) h).enabled = (sliceOf s h).enabled :=
  congrArg (·.enabled) (offFilter_reserveFilter s h line false)

theorem oneTag_reserveFilter : OneTag (sliceOf (reserveFilter s h line false) h) l ↔ OneTag (sliceOf s h) l := by
  unfold OneTag tagsOf
  rw [lines_reserveFilter]
theorem heldAt_reserveFilter : HeldAt (reserveFilter s h line false) h l ↔ HeldAt s h l := by
  unfold HeldAt Roomy
  rw [findLine_reserveFilter, lines_reserveFilter]
  rfl
theorem homeAgrees_reserveFilter : HomeAgrees (reserveFilter s h line false) h l ↔ HomeAgrees s h l := by
  unfold HomeAgrees
  rw [lines_reserveFilter, reserveFilter_mem]
end

/-- The store of a rounded operation at a home that has taken its request, whose tag of the line agreed with memory (R259, R274). -/
theorem stores_rounded {s w u : State} {h : Nat} {k : CruPacket} {be : BitVec 128} {x : Line} {p : W32} (opens : isClose k = false)
    (rounds : isRounded k = true) (agrees : HomeAgrees s h k.line) (takes : Takes s h k.line (.update k) w)
    (hu : u = reserveFilter w h k.line false) : Stores u (homeStore u h k.line be x p k.attr) h k.line be x := by
  have one : OneTag (sliceOf s h) k.line := oneTag_iff.2 ⟨agrees.1, fun c hc line => (agrees.2 c hc line).1⟩
  obtain ⟨one', -, taken⟩ := takes_spec one takes
  have oneU : OneTag (sliceOf u h) k.line := hu ▸ (oneTag_reserveFilter ..).2 one'
  have spoilU : findSpoil (sliceOf u h) k.line = findSpoil (sliceOf w h) k.line := by rw [hu, findSpoil_reserveFilter]
  have enabledU : (sliceOf u h).enabled = (sliceOf s h).enabled := by
    rw [hu, enabled_reserveFilter, enabled_of_offTags (offTags_takes takes)]
  cases needs : needsTag s h k.line (.update k) with
  | true =>
    rw [needs, if_pos rfl] at taken
    obtain ⟨-, spoil, held⟩ := taken
    have enabled : (sliceOf s h).enabled = true := by
      simp only [needsTag, Bool.and_eq_true] at needs
      exact needs.1.1
    exact homeStore_held (enabledU.trans enabled) (spoilU.trans spoil) oneU (hu ▸ (heldAt_reserveFilter ..).2 held)
  | false =>
    rw [needs, if_neg (by decide)] at taken
    subst taken
    cases spoil : findSpoil (sliceOf w h) k.line with
    | some e => exact homeStore_spoil (spoilU.trans spoil)
    | none =>
      cases enabled : (sliceOf w h).enabled with
      | false => exact homeStore_disabled (enabledU.trans enabled) (spoilU.trans spoil) (hu ▸ (homeAgrees_reserveFilter ..).2 agrees)
      | true =>
        have unwanted : ¬ ((∃ c, findLine (sliceOf w h) k.line = some c ∧ c.valid ≠ 0) ∨ k.attr = 0) := fun hit => by
          rw [needsTag_rounded opens rounds hit, enabled, spoil] at needs
          cases needs
        rw [not_or] at unwanted
        have empty := (hit_or_empty _ _).resolve_left unwanted.1
        exact homeStore_miss_memory (spoilU.trans spoil) oneU (by rwa [hu, findLine_reserveFilter]) (by simp [unwanted.2])

/-! ### The release of the line (R230) -/

/-- A tag whose hold ends. -/
def unheld (c : CLine) : CLine := { c with hold := false, slots := c.slots.take (lineSlots { c with hold := false }) }

/-- Does a tag stay when the operation on its line is over? -/
def staysTag (line : Nat) (c : CLine) : Bool := !(c.line == line && c.valid == 0 && c.pins == 0)

theorem tagsOf_releaseLine (s : State) (h line : Nat) :
    tagsOf (sliceOf (releaseLine s h line) h) line = ((tagsOf (sliceOf s h) line).map unheld).filter (staysTag line) := by
  have slice : (sliceOf (releaseLine s h line) h).lines =
      (modWhere (fun c => c.line == line) unheld (sliceOf s h).lines).filter (staysTag line) := congrArg Slice.lines (sliceOf_modSlice ..)
  rw [tagsOf, slice, List.filter_comm, filter_modWhere (by intro _ h; exact h)]
  rfl

theorem findSpoil_releaseLine (s : State) (h line : Nat) :
    findSpoil (sliceOf (releaseLine s h line) h) line = findSpoil (sliceOf s h) line := by
  rw [releaseLine, sliceOf_modSlice]
  rfl

/-- Releasing a line keeps its value. -/
theorem valueAt_releaseLine {s : State} {h line : Nat} (known : KnownAt s h line) :
    valueAt (releaseLine s h line) h line = valueAt s h line := by
  have spoil' := findSpoil_releaseLine s h line
  rw [valueAt_eq, valueAt_eq]
  cases spoil : findSpoil (sliceOf s h) line with
  | some e =>
    rw [homeView_spoil spoil, homeView_spoil (spoil'.trans spoil)]
    rfl
  | none =>
    obtain ⟨o, tags, -⟩ := known.resolve_left (not_not.2 spoil)
    have tags' := tagsOf_releaseLine s h line
    rw [tags] at tags'
    rcases hit_or_empty (sliceOf s h) line with ⟨c, found, valid⟩ | empty
    · rw [findLine_of_tags tags] at found
      subst found
      have stays : staysTag line (unheld c) = true := by simpa [staysTag, unheld] using .inl (.inr valid)
      have found' : findLine (sliceOf (releaseLine s h line) h) line = some (unheld c) :=
        findLine_of_tags (o := some (unheld c)) (tags'.trans (List.filter_cons_of_pos stays))
      rw [homeView_tag spoil (findLine_of_tags tags), homeView_tag (spoil'.trans spoil) found']
      rfl
    · rw [homeView_memory spoil empty, homeView_memory (spoil'.trans spoil)]
      · rfl
      · intro c found
        rw [findLine_eq_head, tags'] at found
        have mem := (List.mem_filter.1 (List.mem_of_mem_head? found)).1
        obtain ⟨b, hb, rfl⟩ := List.mem_map.1 mem
        rw [findLine_of_tags tags] at empty
        exact empty b (Option.mem_toList.1 hb)

theorem valueAt_of_slice {s t : State} {h line : Nat} (lines : (sliceOf t h).lines = (sliceOf s h).lines)
    (spoil : (sliceOf t h).spoil = (sliceOf s h).spoil) (mem : t.mem = s.mem) (poison : t.poison = s.poison) :
    valueAt t h line = valueAt s h line := congrArg (·.1) (homeValue_of_slice lines spoil mem poison)

theorem valueAt_releaseHome {s : State} {h line : Nat} (known : KnownAt s h line) :
    valueAt (releaseHome s h line) h line = valueAt s h line := by
  unfold releaseHome
  dsimp only
  split_ifs
  · rfl
  · rw [← valueAt_releaseLine known]
    exact valueAt_of_slice (by rw [freeFilter, sliceOf_modSlice]) (by rw [freeFilter, sliceOf_modSlice]) rfl rfl

end Sys2Proof.Machine

/-! SUPPORT. Integer and rounded operations at a line that no die holds (R259, R260, R274). It settles O49. -/

namespace Sys2Proof.Machine
open Sys2Proof.Num

/-! ### What the operation leaves -/

/-- The bytes of a packet's records. -/
def recordsBe (k : CruPacket) : BitVec 128 := k.recs.foldl (fun m r => m ||| recBe r) 0

/-- New line and old values of a packet's operations on the value that the home has. -/
def performed (u : State) (h : Nat) (k : CruPacket) : Line × List Nat := roundedRecords k.op k.fl k.recs (homeView u h k.line).1

/-- The home once a packet's operations are performed on its line. -/
def performedAt (u : State) (h : Nat) (k : CruPacket) : State :=
  homeStore u h k.line (recordsBe k) (performed u h k).1 (homeView u h k.line).2 k.attr

theorem accessOf_homeStore (s : State) (h line : Nat) (be : BitVec 128) (x : Line) (p : W32) (attr tag : Nat) :
    accessOf (homeStore s h line be x p attr) tag = accessOf s tag := by
  rw [accessOf, accs_of_offMemory (offMemory_homeStore ..), accessOf]

/-- The access that waits for a packet's operations, once they are performed. -/
theorem applyRounded_eq (u : State) (h : Nat) (k : CruPacket) : applyRounded u h k =
    match accessOf (performedAt u h k) k.tag with
    | none => if k.ret then performedAt u h k else ackUpdate (performedAt u h k) k 0
    | some a =>
      if k.ret then
        if poisonIn (sectorsTouched (recordsBe k)) (homeView u h k.line).2 ≠ 0 then
          failAccess (performedAt u h k) k.tag (poisonIn (sectorsTouched (recordsBe k)) (homeView u h k.line).2).toNat
        else dropAccess (modGroup (writeOlds (performedAt u h k) a.gid a.pieces (performed u h k).2) a.gid fun g =>
          casEnds g k a.pieces (performed u h k).2) k.tag
      else ackUpdate (modGroup (performedAt u h k) a.gid fun g => casEnds g k a.pieces (performed u h k).2) k 0 := rfl

/-- Without a return the crusher acknowledges. -/
theorem applyRounded_acks {u : State} {h : Nat} {k : CruPacket} (quiet : k.ret = false) :
    ∃ t, applyRounded u h k = ackUpdate t k 0 ∧ t.slices = (performedAt u h k).slices ∧ t.mem = (performedAt u h k).mem ∧
      t.poison = (performedAt u h k).poison := by
  rw [applyRounded_eq, quiet]
  cases accessOf (performedAt u h k) k.tag with
  | none => exact ⟨_, rfl, rfl, rfl, rfl⟩
  | some a => exact ⟨_, rfl, rfl, rfl, rfl⟩

/-- With a return the access that waits gets the old values, where no sector touched is poisoned. -/
theorem applyRounded_returns {u : State} {h : Nat} {k : CruPacket} {a : Access} (returns : k.ret = true)
    (waits : accessOf u k.tag = some a) (clean : poisonIn (sectorsTouched (recordsBe k)) (homeView u h k.line).2 = 0) :
    applyRounded u h k = dropAccess (modGroup (writeOlds (performedAt u h k) a.gid a.pieces (performed u h k).2) a.gid fun g =>
      casEnds g k a.pieces (performed u h k).2) k.tag := by
  have waits' : accessOf (performedAt u h k) k.tag = some a := (accessOf_homeStore ..).trans waits
  rw [applyRounded_eq, waits', returns, clean]
  rfl

/-! ### The access that waits -/

theorem writeOlds_rest (s : State) (gid : Nat) (ps : List Piece) (os : List Nat) :
    (writeOlds s gid ps os).slices = s.slices ∧ (writeOlds s gid ps os).mem = s.mem ∧ (writeOlds s gid ps os).poison = s.poison := by
  induction ps generalizing s os with
  | nil => exact ⟨rfl, rfl, rfl⟩
  | cons p ps ih =>
    cases os with
    | nil => exact ⟨rfl, rfl, rfl⟩
    | cons o os => exact ih ..

theorem writeOlds_groups {s t : State} (same : s.groups = t.groups) (gid : Nat) (ps : List Piece) (os : List Nat) :
    (writeOlds s gid ps os).groups = (writeOlds t gid ps os).groups := by
  induction ps generalizing s t os with
  | nil => exact same
  | cons p ps ih =>
    cases os with
    | nil => exact same
    | cons o os =>
      refine ih ?_ os
      simp only [modGroup, setGroup, group, same]

theorem accessOf_dropAccess (s : State) (tag : Nat) : accessOf (dropAccess s tag) tag = none := by
  unfold accessOf dropAccess dropWhere
  rw [List.find?_eq_none]
  intro a ha
  simpa using (List.mem_filter.1 ha).2

/-- Only a CAS can end a turn. -/
theorem casEnds_of_ne {k : CruPacket} (other : k.op ≠ 7) (g : Group) (ps : List Piece) (os : List Nat) : casEnds g k ps os = g := by
  unfold casEnds
  dsimp only
  split
  · next r p o found =>
    have holds := List.find?_some found
    dsimp only at holds
    split at holds <;> simp [other] at holds
  · rfl

/-! ### At the home -/

theorem rounds_of_recs {k : CruPacket} (nonempty : k.recs ≠ []) (all : k.recs.all isRoundedRec = true) : isRounded k = true := by
  match h : k.recs with
  | [] => exact absurd h nonempty
  | r :: rs =>
    rw [h, List.all_cons, Bool.and_eq_true] at all
    cases r with
    | rounded => rw [isRounded, h]
    | pair => cases all.1
    | ledger => cases all.1

/-- A state in which the home holds what a packet's operations made of the line. -/
def HoldsPerformed (u t : State) (h : Nat) (k : CruPacket) : Prop :=
  Stores u (performedAt u h k) h k.line (recordsBe k) (performed u h k).1 →
    valueAt t h k.line = mergeLine (recordsBe k) (performed u h k).1 (valueAt u h k.line)

theorem holdsPerformed_release {u t : State} {h : Nat} {k : CruPacket} (slices : t.slices = (performedAt u h k).slices)
    (mem : t.mem = (performedAt u h k).mem) (poison : t.poison = (performedAt u h k).poison) : HoldsPerformed u (releaseHome t h k.line) h k := by
  rintro ⟨known, value⟩
  have slice := sliceOf_of_slices slices h
  have knownT : KnownAt t h k.line := by
    unfold KnownAt
    rwa [slice]
  rw [valueAt_releaseHome knownT, ← value]
  exact valueAt_of_slice (congrArg Slice.lines slice) (congrArg Slice.spoil slice) mem poison

@[simp] theorem releaseHome_accs (s : State) (h line : Nat) : (releaseHome s h line).accs = s.accs := by
  unfold releaseHome
  dsimp only
  split_ifs <;> rfl
@[simp] theorem releaseHome_groups (s : State) (h line : Nat) : (releaseHome s h line).groups = s.groups := by
  unfold releaseHome
  dsimp only
  split_ifs <;> rfl

theorem released_acks {u : State} {h : Nat} {k : CruPacket} (quiet : k.ret = false) :
    (∃ o, (releaseHome (applyRounded u h k) h k.line).out = o ++ acksOf k 0) ∧
      HoldsPerformed u (releaseHome (applyRounded u h k) h k.line) h k := by
  obtain ⟨t, acks, slices, mem, poison⟩ := applyRounded_acks (u := u) (h := h) quiet
  rw [acks]
  exact ⟨⟨t.out, releaseHome_out ..⟩, holdsPerformed_release slices mem poison⟩

theorem released_returns {u : State} {h : Nat} {k : CruPacket} {a : Access} (returns : k.ret = true)
    (waits : accessOf u k.tag = some a) (clean : poisonIn (sectorsTouched (recordsBe k)) (homeView u h k.line).2 = 0) :
    accessOf (releaseHome (applyRounded u h k) h k.line) k.tag = none ∧ HoldsPerformed u (releaseHome (applyRounded u h k) h k.line) h k ∧
      (k.op ≠ 7 → group (releaseHome (applyRounded u h k) h k.line) a.gid = group (writeOlds u a.gid a.pieces (performed u h k).2) a.gid) := by
  rw [applyRounded_returns returns waits clean]
  obtain ⟨slices, mem, poison⟩ := writeOlds_rest (performedAt u h k) a.gid a.pieces (performed u h k).2
  refine ⟨?_, holdsPerformed_release slices mem poison, fun other => ?_⟩
  · rw [accessOf, releaseHome_accs]
    exact accessOf_dropAccess ..
  · have groups : (performedAt u h k).groups = u.groups := groups_of_offMemory (offMemory_homeStore ..)
    have stays : group (modGroup (writeOlds (performedAt u h k) a.gid a.pieces (performed u h k).2) a.gid fun g =>
        casEnds g k a.pieces (performed u h k).2) a.gid = group (writeOlds (performedAt u h k) a.gid a.pieces (performed u h k).2) a.gid := by
      rw [modGroup, group_setGroup, if_pos rfl]
      simp [casEnds_of_ne other]
    exact (group_eq_of_groups (releaseHome_groups ..) a.gid).trans (stays.trans (group_eq_of_groups (writeOlds_groups groups ..) a.gid))

/-- An integer or rounded operation reaches its idle home, where no die holds the line: it is performed at once (R274). -/
theorem homeTake_rounded {s w : State} {h : Nat} {k : CruPacket} (idle : HomeIdle s h k.line) (opens : isClose k = false)
    (rounds : isRounded k = true) (free : filterMask (sliceOf s h) k.line = 0) (takes : Takes s h k.line (.update k) w) :
    homeTake s h k.line (.update k) = releaseHome (applyRounded (reserveFilter w h k.line false) h k) h k.line := by
  have closed : openAt (crusher (reserveFilter w h k.line false) h) k.line = none := by
    rw [crusher_of_crushers ((reserveFilter_crushers ..).trans (crushers_of_offTags (offTags_takes takes)))]
    exact idle.closed
  rw [homeTake_update idle takes opens, if_pos free]
  simp only [applyUpdate, closed, opens, rounds, Bool.false_eq_true, if_true, if_false]

/-- The home's view of the line as the packet's operations find it. -/
theorem homeView_taken {s w : State} {h : Nat} {k : CruPacket} (idle : HomeIdle s h k.line) (takes : Takes s h k.line (.update k) w) :
    homeView (reserveFilter w h k.line false) h k.line = homeView s h k.line := by
  obtain ⟨-, view, -⟩ := takes_spec (oneTag_iff.2 idle.own) takes
  rw [← view, homeView, homeView, homeValue_reserveFilter]

theorem exec_roundedUpdate {s : State} {i : Nat} {k : CruPacket} (unit : sliceOk i = true)
    (home : homeSlice s.variant (128 * k.line) = some i) (nonempty : k.recs ≠ []) (all : k.recs.all isRoundedRec = true)
    (good : badPacket k = false) : exec (.roundedUpdate i k) s = .next (if isRemoteLine s k.line then windowUpdate s k else admitUpdate s i k) := by
  change execRoundedUpdate i k s = _
  simp [execRoundedUpdate, onUnit, unit, reaches, home, recsOk, nonempty, all, good]

/-- An integer or rounded operation at the home of its line, where no die holds it (R259, R260, R274). -/
theorem roundedUpdate_free {s w : State} {i : Nat} {k : CruPacket} (nonempty : k.recs ≠ []) (all : k.recs.all isRoundedRec = true)
    (opens : isClose k = false) (run : exec (.roundedUpdate i k) s = .next (homeTake s i k.line (.update k))) (idle : HomeIdle s i k.line)
    (free : filterMask (sliceOf s i) k.line = 0) (takes : Takes s i k.line (.update k) w) :
    (k.ret = false → ∃ t o, exec (.roundedUpdate i k) s = .next t ∧ t.out = o ++ acksOf k 0 ∧ (HomeAgrees s i k.line →
      valueAt t i k.line = mergeLine (recordsBe k) (roundedRecords k.op k.fl k.recs (valueAt s i k.line)).1 (valueAt s i k.line))) ∧
    ∀ a, k.ret = true → accessOf s k.tag = some a → poisonIn (sectorsTouched (recordsBe k)) (homeValue s i k.line).2.1 = 0 →
      ∃ t, exec (.roundedUpdate i k) s = .next t ∧ accessOf t k.tag = none ∧ (HomeAgrees s i k.line →
        valueAt t i k.line = mergeLine (recordsBe k) (roundedRecords k.op k.fl k.recs (valueAt s i k.line)).1 (valueAt s i k.line)) ∧
        (k.op ≠ 7 → group t a.gid =
          group (writeOlds s a.gid a.pieces (roundedRecords k.op k.fl k.recs (valueAt s i k.line)).2) a.gid) := by
  have rounds := rounds_of_recs nonempty all
  have view := homeView_taken idle takes
  have done : performed (reserveFilter w i k.line false) i k = roundedRecords k.op k.fl k.recs (valueAt s i k.line) := by
    rw [performed, view, valueAt_eq]
  have present : valueAt (reserveFilter w i k.line false) i k.line = valueAt s i k.line := by
    rw [valueAt_eq, view, valueAt_eq]
  have value : ∀ t, HoldsPerformed (reserveFilter w i k.line false) t i k → HomeAgrees s i k.line → valueAt t i k.line =
      mergeLine (recordsBe k) (roundedRecords k.op k.fl k.recs (valueAt s i k.line)).1 (valueAt s i k.line) := fun t holds agrees => by
    rw [holds (stores_rounded opens rounds agrees takes rfl), done, present]
  rw [run, homeTake_rounded idle opens rounds free takes]
  refine ⟨fun quiet => ?_, fun a returns waits clean => ?_⟩
  · obtain ⟨⟨o, out⟩, holds⟩ := released_acks (u := reserveFilter w i k.line false) (h := i) quiet
    exact ⟨_, o, rfl, out, value _ holds⟩
  · have accs : (reserveFilter w i k.line false).accs = s.accs := (rfl : _ = w.accs).trans <| accs_of_offTags (offTags_takes takes)
    have waits' : accessOf (reserveFilter w i k.line false) k.tag = some a := by rw [accessOf, accs]; exact waits
    obtain ⟨ended, holds, group'⟩ := released_returns (h := i) returns waits' (by rw [view]; exact clean)
    refine ⟨_, rfl, ended, value _ holds, fun other => (group' other).trans ?_⟩
    have groups : (reserveFilter w i k.line false).groups = s.groups := (rfl : _ = w.groups).trans <| groups_of_offTags (offTags_takes takes)
    rw [done]
    exact group_eq_of_groups (writeOlds_groups groups ..) a.gid

/-- Settles O49, by the way a packet goes at its crusher (`packetAdded`), by the store of a rounded operation at a home that has taken its
request (`stores_rounded`), and by the exact sum of two ledger records and the associativity of the integer operations. -/
theorem crusherUpdates : Obligations.CrusherUpdates := by
  unfold Obligations.CrusherUpdates
  refine ⟨fun s sid k unit home nonempty => ⟨fun all bad => ?_, fun all bad => ?_, fun all good op => ?_, fun all good op => ?_⟩,
    fun s w sid k v be unit home nonempty all good op hv hbe => ⟨fun remote => ?_, fun ours idle => ⟨fun e code => ?_, fun code free takes => ?_⟩⟩,
    fun lead k may => ⟨fun e l x n p m z i l' x' n' p' m' z' i' => combine_ledgers may, fun o n a a' x x' hl hk size fits => ?_⟩⟩
  · rw [exec_ledgerRecords unit home nonempty all, if_pos bad]
  · rw [exec_pairRecords unit home nonempty all, if_pos bad]
  · exact packetAdded (by rw [exec_ledgerRecords unit home nonempty all, if_neg (by simp [good])]) (contributes_ledger s nonempty all op)
  · exact packetAdded (by rw [exec_pairRecords unit home nonempty all, if_neg (by simp [good])]) (contributes_pair s nonempty all op)
  · rw [exec_roundedUpdate unit home nonempty all good, if_pos remote]
  · rw [exec_roundedUpdate unit home nonempty all good, if_neg (by simp [ours]), admitUpdate_closed idle.closed, homeArrive_refused code]
    rfl
  · subst hv hbe
    refine roundedUpdate_free nonempty all (by simpa [isClose] using op) ?_ idle free takes
    rw [exec_roundedUpdate unit home nonempty all good, if_neg (by simp [ours]), admitUpdate_closed idle.closed, homeArrive_taken code]
  · exact combine_rounded may hl hk (by rcases List.mem_pair.1 size with rfl | rfl <;> decide) fits

end Sys2Proof.Machine

/-! The commands that set a partition up and those that only drop cached copies (R156, R249, R371, R392), and the rows that RETIRE_ROWS
puts into force (R213, R214). It settles O32. -/

namespace Sys2Proof.Machine

/-! ### Effects of commands without a check of their own (R371) -/

section
variable {s : State} {p q : Nat} {seq : W32} {c : Cmd}

/-- A command with no refusal of its own row is carried out when its turn has come. -/
theorem runCmd_effect {op : Nat} (turn : HasTurn s p q seq op c) (effect : State → Cmd → State) :
    onUnit (partOk p && slotOk q) (runCmd s p q seq op (fun _ => true) (fun _ _ => 0) effect) = .next (effect s c) := by
  rw [runCmd_turn turn rfl, if_neg (not_not.2 rfl), onUnit, if_pos turn.unit]

theorem exec_nop (turn : HasTurn s p q seq 0x02 c) : exec (.nop p q seq) s = .next (finishCmd s p q seq 0) := by
  refine (runCmd_effect turn _).trans ?_
  rw [seq_of_findCmd turn.here]

/-- Does a range of pages meet the pages that INV_TLB names, or does it name all (R156)? -/
def invPages (c : Cmd) (page pages : Nat) : Bool :=
  cw c 3 35 0 == 0 || (decide (page < cw c 2 47 12 + cw c 3 35 0) && decide (cw c 2 47 12 < page + pages))

/-- What INV_TLB leaves of a cluster (R156). -/
def forgetPages (p : Nat) (c : Cmd) (x : Cluster) : Cluster :=
  { x with tlb := dropWhere (fun e => e.part == p && e.ctx == cw c 1 15 0 && invPages c e.vpage e.pages) x.tlb,
           ptrs := dropWhere (fun e => e.part == p && e.ctx == cw c 1 15 0 &&
             invPages c (e.index * 2 ^ (36 - 9 * e.level)) (2 ^ (36 - 9 * e.level))) x.ptrs }

theorem exec_invTlb (turn : HasTurn s p q seq 0x04 c) : exec (.invTlb p q seq) s =
    .next (finishCmd { s with clusters := s.clusters.map fun e => (e.1, forgetPages p c e.2) } p q seq 0) := by
  refine (runCmd_effect turn _).trans ?_
  rw [seq_of_findCmd turn.here]
  rfl

/-- Does the cluster hold a team of the partition (R249)? -/
def holdsTeamOf (s : State) (p : Nat) (x : Cluster) : Bool :=
  x.teams.any fun t => ((taskOf s t.task).map fun k => k.part == p).getD false

theorem exec_invRo (turn : HasTurn s p q seq 0x05 c) : exec (.invRo p q seq) s =
    .next (finishCmd { s with clusters := s.clusters.map fun e => (e.1, if holdsTeamOf s p e.2 then { e.2 with ro := [] } else e.2) }
      p q seq 0) := by
  refine (runCmd_effect turn _).trans ?_
  rw [seq_of_findCmd turn.here]
  rfl

/-- A partition with an empty event ring at the place that SET_EVENT_RING names (R392). -/
def freshRing (c : Cmd) (r : Part) : Part :=
  { r with ringSet := true, ringQp := cw c 1 23 0 - 0x10000, ringLogn := cw c 1 31 24, ringVa := c.words.getD 2 0,
           ringKey := BitVec.ofNat 32 (cw c 3 31 0), evHead := 0, evTail := 0, evLost := 0 }

theorem exec_setEventRing (turn : HasTurn s p q seq 0x87 c) : exec (.setEventRing p q seq) s = .next (finishCmd (setPart s p
    (if cw c 1 63 63 = 1 then { part s p with ringSet := false, evHeld := [] } else freshRing c (part s p))) p q seq 0) := by
  refine (runCmd_effect turn _).trans ?_
  rw [seq_of_findCmd turn.here]
  rfl

theorem exec_retireRows (turn : HasTurn s p q seq 0x88 c) : exec (.retireRows p q seq) s = .next (finishCmd (forceRows s) p q seq 0) := by
  refine (runCmd_effect turn _).trans ?_
  rw [seq_of_findCmd turn.here]

/-! ### What a cluster forgets -/

theorem invPages_iff {page pages : Nat} : invPages c page pages = true ↔ cw c 3 35 0 = 0 ∨
    (page < cw c 2 47 12 + cw c 3 35 0 ∧ cw c 2 47 12 < page + pages) := by
  simp [invPages]

theorem mem_dropWhere {α : Type} {f : α → Bool} {l : List α} {e : α} : e ∈ dropWhere f l ↔ e ∈ l ∧ ¬ f e = true := by
  simp [dropWhere]

theorem mem_forgetPages_tlb {x : Cluster} {e : TlbEntry} : e ∈ (forgetPages p c x).tlb ↔ e ∈ x.tlb ∧ ¬(e.part = p ∧ e.ctx = cw c 1 15 0 ∧
    (cw c 3 35 0 = 0 ∨ (e.vpage < cw c 2 47 12 + cw c 3 35 0 ∧ cw c 2 47 12 < e.vpage + e.pages))) := by
  rw [forgetPages, mem_dropWhere, Bool.and_eq_true, Bool.and_eq_true, invPages_iff, beq_iff_eq, beq_iff_eq, and_assoc]

theorem mem_forgetPages_ptrs {x : Cluster} {e : PtrEntry} : e ∈ (forgetPages p c x).ptrs ↔ e ∈ x.ptrs ∧
    ¬(e.part = p ∧ e.ctx = cw c 1 15 0 ∧ (cw c 3 35 0 = 0 ∨ (e.index * 2 ^ (36 - 9 * e.level) < cw c 2 47 12 + cw c 3 35 0 ∧
      cw c 2 47 12 < e.index * 2 ^ (36 - 9 * e.level) + 2 ^ (36 - 9 * e.level)))) := by
  rw [forgetPages, mem_dropWhere, Bool.and_eq_true, Bool.and_eq_true, invPages_iff, beq_iff_eq, beq_iff_eq, and_assoc]

end

/-! ### Retired rows (R213, R214) -/

/-- Does the range of a retired row lie in a region of the image (R214)? -/
def inRegion (s : State) (r : Retired) : Bool :=
  s.image.regions.any fun z => decide (z.base < r.base + (rowRange s.variant r.base).2) && decide (r.base < z.base + z.len)

/-- The rows after those of the places of `l` have come into force. -/
def forced (l rows : List Retired) : List Retired :=
  rows.map fun y => if l.any (fun x => isRow x.chan x.bank x.row y) then { y with inForce := true } else y

theorem forced_cons (x : Retired) (l rows : List Retired) :
    forced (x :: l) rows = forced l (modWhere (isRow x.chan x.bank x.row) (fun y => { y with inForce := true }) rows) := by
  rw [forced, forced, modWhere, List.map_map]
  refine List.map_congr_left fun y _ => ?_
  have same : ∀ z : Retired, isRow z.chan z.bank z.row { y with inForce := true } = isRow z.chan z.bank z.row y := fun _ => rfl
  cases hit : isRow x.chan x.bank x.row y <;> simp [hit, same]

/-- What putting pending rows into force leaves: the journal has further records, and where a row's range lies in a region the admission
pass is due. -/
def Forces (s : State) (l : List Retired) (u : State) : Prop :=
  u = { s with retired := forced l s.retired, flash := { s.flash with waiting := u.flash.waiting },
               admission := { s.admission with passDue := s.admission.passDue || l.any (inRegion s) } } ∧
  s.flash.waiting <+: u.flash.waiting

theorem addJournal_eq (s : State) (r : JRec) : ∃ w, s.flash.waiting <+: w ∧
    addJournal s r = { s with flash := { s.flash with waiting := w } } := by
  rw [addJournal]
  split
  · exact ⟨_, List.prefix_append .., rfl⟩
  · exact ⟨_, List.prefix_rfl, rfl⟩

theorem loseRange_eq (s : State) (base size : Nat) : loseRange s base size = { s with admission := { s.admission with
    passDue := s.admission.passDue || s.image.regions.any fun z => decide (z.base < base + size) && decide (base < z.base + z.len) } } := by
  rw [loseRange]
  split
  · next hit => rw [hit, Bool.or_true]
  · next off => rw [Bool.eq_false_of_not_eq_true off, Bool.or_false]

theorem forceRow_eq (s : State) (x : Retired) : ∃ w, s.flash.waiting <+: w ∧ forceRow s x =
    { s with retired := modWhere (isRow x.chan x.bank x.row) (fun y => { y with inForce := true }) s.retired,
             flash := { s.flash with waiting := w },
             admission := { s.admission with passDue := s.admission.passDue || inRegion s x } } := by
  obtain ⟨w, longer, added⟩ := addJournal_eq
    { s with retired := modWhere (isRow x.chan x.bank x.row) (fun y => { y with inForce := true }) s.retired }
    { type := 1, key := [x.chan, x.bank, x.row], payload := [x.base, 1] }
  refine ⟨w, longer, ?_⟩
  rw [forceRow, added, loseRange_eq]
  rfl

theorem forces_foldl (l : List Retired) (s : State) : Forces s l (l.foldl forceRow s) := by
  induction l generalizing s with
  | nil => simp [Forces, forced]
  | cons x l ih =>
    obtain ⟨w, longer, first⟩ := forceRow_eq s x
    obtain ⟨rest, more⟩ := ih (forceRow s x)
    rw [List.foldl_cons]
    refine ⟨rest.trans ?_, longer.trans (by rw [first] at more ⊢; exact more)⟩
    have regions : inRegion (forceRow s x) = inRegion s := by rw [first]; rfl
    rw [regions, first, forced_cons, List.any_cons, Bool.or_assoc]

/-- The rows that are in force already stay as they are. -/
theorem forced_pending (rows : List Retired) :
    forced (rows.filter fun x => !x.inForce) rows = rows.map fun r => { r with inForce := true } := by
  refine List.map_congr_left fun y here => ?_
  cases force : y.inForce with
  | true => split <;> simp [← force]
  | false =>
    rw [if_pos (List.any_eq_true.2 ⟨y, List.mem_filter.2 ⟨here, by simp [force]⟩, by simp [isRow]⟩)]

/-- Settles O32: each effect is carried out as its row states it; the rows come into force one by one (`forces_foldl`). -/
theorem setupCommands : Obligations.SetupCommands := by
  unfold Obligations.SetupCommands
  refine ⟨fun s p q seq c => ⟨exec_nop, fun turn => ⟨_, exec_invTlb turn, fun k x here => ?_⟩,
    fun turn => ⟨_, exec_invRo turn, fun k x here => ?_⟩⟩, fun s p q seq c => ⟨fun turn => ?_, fun turn => ?_⟩⟩
  · exact ⟨forgetPages p c x, List.mem_map_of_mem here, rfl, fun _ => mem_forgetPages_tlb, fun _ => mem_forgetPages_ptrs⟩
  · refine ⟨_, List.mem_map_of_mem here, ?_⟩
    change _ ∧ _ = if holdsTeamOf s p x = true then [] else x.ro
    split <;> exact ⟨rfl, rfl⟩
  · rw [exec_setEventRing turn]
    refine ⟨fun disable => ?_, fun start => ?_⟩
    · rw [if_pos disable]
    · rw [if_neg (by simp [start]), freshRing]
  · refine ⟨_, exec_retireRows turn, ?_⟩
    obtain ⟨all, longer⟩ : Forces s _ (forceRows s) := forces_foldl _ s
    have rows : (forceRows s).retired = s.retired.map fun r => { r with inForce := true } := by rw [all]; exact forced_pending _
    refine ⟨rows, ?_, longer⟩
    rw [rows, ← forced_pending, ← List.any_filter]
    exact all

end Sys2Proof.Machine

/-! SUPPORT. A home whose snoop filter lists a line twice. It refutes O45. -/

namespace Sys2Proof.Machine

/-- The first line of stockpile memory, at home in slice 128. -/
def firstStockLine : Nat := 2 ^ 33

/-- A module with stockpile memory, whose home of that line has an empty entry for it before one that lists die 0. -/
def twiceListed : State :=
  setSlice { State.reset with dev := { State.reset.dev with stock := true } } 128
    { filter := [{ line := firstStockLine, mask := 0, owner := false }, { line := firstStockLine, mask := 1, owner := false }] }

/-- That state as a request finds it, with the row of the line open. -/
def twiceListedRead : State := atHome twiceListed 128 firstStockLine []

theorem homeIdle_twiceListed : HomeIdle twiceListedRead 128 firstStockLine where
  serving := by decide +kernel
  first := by decide +kernel
  txn := by decide +kernel
  entries := by decide +kernel
  miss := by decide +kernel
  closed := by decide +kernel
  room := by decide +kernel
  own := by decide +kernel

/-- The end of the request frees the empty entry, and the other one is then the line's. -/
theorem rdOnce_uncovers_entry : (match exec (.rdOnce 0 firstStockLine []) twiceListed with
    | .next t => some (filterMask (sliceOf t 128) firstStockLine)
    | _ => none) = some 1 := by decide +kernel

/-- Refutes O45: RD_ONCE of a line that the filter lists twice is served at once, since the first entry is empty; with that entry freed, the
second one is found, and the holders are no longer those from before. No step of the module allocates an entry for a line that has one, but
the statement asks it of every state. -/
theorem not_homeServesRequests : ¬ Obligations.HomeServesRequests := by
  unfold Obligations.HomeServesRequests
  rintro ⟨reads, -⟩
  obtain ⟨-, -, -, -, once⟩ := reads twiceListed twiceListedRead 0 0 firstStockLine 128 [] 0 false _ _ _ (by decide) (by decide +kernel) rfl
    homeIdle_twiceListed (by decide +kernel) (by decide +kernel) rfl
  obtain ⟨t, next, -, kept, -⟩ := (once (by decide +kernel)).2 (.inl rfl)
  have uncovered := rdOnce_uncovers_entry
  rw [next] at uncovered
  simp [kept] at uncovered

end Sys2Proof.Machine

/-! SUPPORT. What the steps of cold start leave of keys and slices, and what the end of a self-test leaves of the dies. It settles O58. -/

namespace Sys2Proof.Machine

/-! ### Cold start (R215, R219, R250, R516 to R518) -/

/-- Memory, its marks and the open lines are gone (R215). -/
def zeroed (s : State) : State := { s with mem := [], poison := [], crushers := [] }

/-- The module runs and has an identity, in the state of service before REDUCED_SERVICE (R516). -/
def started (s : State) : State :=
  { s with power := { s.power with stage := .running },
           dev := { s.dev with cold := s.power.coldCause, st := 0, gen := 0 },
           sec := { s.sec with idReady := true, certLen := Config.certLength (flashBytes s 0 0x10000) } }

/-- The module after steps 2 to 9 of R516, whose caches are yet to be invalidated. -/
def coldPrepared (s : State) : State :=
  zeroed (sendKeys (formSet (generateKeys (applyClusters (applyQueues (selectSlot (trainStock (startDies (endTraining (applyJournal s))))))))))

theorem coldStart_eq (s : State) : coldStart s = started (resetCaches (coldPrepared s)) := by
  unfold coldStart coldPrepared started zeroed
  with_reducible rfl

theorem zeroed_variant (s : State) : (zeroed s).variant = s.variant := rfl
theorem zeroed_sec (s : State) : (zeroed s).sec = s.sec := rfl
theorem zeroed_crushers (s : State) : (zeroed s).crushers = [] := rfl
theorem zeroed_mem (s : State) : (zeroed s).mem = [] := rfl
theorem zeroed_poison (s : State) : (zeroed s).poison = [] := rfl

theorem started_dies (s : State) : (started s).dies = s.dies := rfl
theorem started_mem (s : State) : (started s).mem = s.mem := rfl
theorem started_poison (s : State) : (started s).poison = s.poison := rfl
theorem started_key1 (s : State) : (started s).sec.key1 = s.sec.key1 := rfl
theorem started_key2 (s : State) : (started s).sec.key2 = s.sec.key2 := rfl
theorem sliceOf_started (s : State) (i : Nat) : sliceOf (started s) i = sliceOf s i := rfl

theorem coldPrepared_variant (s : State) : (coldPrepared s).variant = s.variant := by
  rw [coldPrepared, zeroed_variant]
  exact (kept_sendKeys (kept_formSet (kept_generateKeys (kept_applyClusters (kept_applyQueues (kept_selectSlot (kept_trainStock
    (kept_startDies (kept_endTraining (kept_applyJournal Kept.rfl)))))))))).variant

/-- The second key is the first at a distance below 2^256 that is not 0 (R219). -/
theorem generateKeys_ne (s : State) : (generateKeys s).sec.key1 ≠ (generateKeys s).sec.key2 := by
  have away : ∀ (k : BitVec 256) (n : Nat), k ≠ k + BitVec.ofNat 256 (1 + n % (2 ^ 256 - 1)) := by
    intro k n same
    have low : n % (2 ^ 256 - 1) < 2 ^ 256 - 1 := Nat.mod_lt _ (by norm_num)
    have zero := congrArg BitVec.toNat (left_eq_add.1 same)
    rw [BitVec.toNat_ofNat, Nat.mod_eq_of_lt (by omega)] at zero
    simp at zero
  exact away _ _

theorem sec_foldl_modDie (f : Nat → Die → Die) (l : List Nat) (s : State) : (l.foldl (fun s d => modDie s d (f d)) s).sec = s.sec := by
  induction l generalizing s with
  | nil => rfl
  | cons d l ih => exact ih _

theorem sendKeys_sec (s : State) : (sendKeys s).sec = s.sec := sec_foldl_modDie (fun _ u => { u with keyed := false }) _ _

theorem formSet_sec (s : State) : (formSet s).sec = s.sec := rfl

theorem coldPrepared_keys (s : State) : (coldPrepared s).sec.key1 ≠ (coldPrepared s).sec.key2 := by
  rw [coldPrepared, zeroed_sec, sendKeys_sec, formSet_sec]
  exact generateKeys_ne _

/-! ### The caches at cold start (R250) -/

/-- The state without what resetting the caches may change: slices, clusters, and what is sent. -/
def offCaches (s : State) : State := { s with slices := [], clusters := [], out := [] }

/-- One slice at the reset of the caches. -/
def resetSlice (s : State) (i : Nat) : State :=
  let s := modSlice s i fun sl => { setErrs := sl.setErrs }
  if dieServes s (i / 16) && !(die s (i / 16)).slFenced.getLsbD (i % 16) then invalidateSlice s i else s

/-- One cluster's read-only caches at the reset of the caches. -/
def resetReadOnly (s : State) (c : Nat) : State :=
  let u := die s (c / 16)
  modCluster s c fun x =>
    { x with ro := [], roInvalid := dieServes s (c / 16) && !u.clFenced.getLsbD (c % 16), roEnabled := false }

theorem resetCaches_eq (s : State) : resetCaches s = (allClusters ((allSlices s.variant).foldl resetSlice s).variant).foldl resetReadOnly
    ((allSlices s.variant).foldl resetSlice s) := by
  unfold resetCaches resetSlice resetReadOnly
  with_reducible rfl

theorem die_of_dies {s t : State} (h : t.dies = s.dies) (d : Nat) : die t d = die s d := by rw [die, die, h]

/-- A slice that is disabled and empty, and invalidated where its die serves and it is not fenced (R250). -/
structure SliceReset (s : State) (i : Nat) (sl : Slice) : Prop where
  disabled : sl.enabled = false
  empty : sl.lines = []
  invalidated : sl.invalidated = (dieServes s (i / 16) && !(die s (i / 16)).slFenced.getLsbD (i % 16))

theorem sliceReset_congr {s t : State} (dies : t.dies = s.dies) {i : Nat} {sl : Slice} : SliceReset t i sl ↔ SliceReset s i sl := by
  have same : (dieServes t (i / 16) && !(die t (i / 16)).slFenced.getLsbD (i % 16)) =
      (dieServes s (i / 16) && !(die s (i / 16)).slFenced.getLsbD (i % 16)) := by
    simp only [dieServes, die_of_dies dies]
  exact ⟨fun h => ⟨h.disabled, h.empty, h.invalidated.trans same⟩, fun h => ⟨h.disabled, h.empty, h.invalidated.trans same.symm⟩⟩

/-- Without an open line nothing goes back to memory. -/
theorem invalidateSlice_idle {s : State} (idle : s.crushers = []) (i : Nat) : invalidateSlice s i =
    sendReg (modSlice s i fun sl => { sl with lines := [], spoil := [], miss := [], draining := false, invalidated := true }) i := by
  have none : (crusher s i).lines = [] := by rw [crusher, idle]; rfl
  rw [invalidateSlice, none]
  rfl

theorem sliceOf_sendReg (s : State) (i j : Nat) : sliceOf (sendReg s i) j =
    if j = i then { sliceOf s i with awaitReg := homesOf s i } else sliceOf s j := sliceOf_setSlice ..

theorem offCaches_modSlice (s : State) (i : Nat) (f : Slice → Slice) : offCaches (modSlice s i f) = offCaches s := rfl
theorem offCaches_sendReg (s : State) (i : Nat) : offCaches (sendReg s i) = offCaches s := rfl

section
variable {s : State} (idle : s.crushers = [])
include idle

theorem resetSlice_eq (i : Nat) : resetSlice s i =
    if dieServes s (i / 16) && !(die s (i / 16)).slFenced.getLsbD (i % 16) then
      sendReg (modSlice (modSlice s i fun sl => { setErrs := sl.setErrs }) i fun sl =>
        { sl with lines := [], spoil := [], miss := [], draining := false, invalidated := true }) i
    else modSlice s i fun sl => { setErrs := sl.setErrs } := by
  rw [resetSlice, invalidateSlice_idle (s := modSlice s i _) idle]
  rfl

theorem offCaches_resetSlice (i : Nat) : offCaches (resetSlice s i) = offCaches s := by
  rw [resetSlice_eq idle]
  split
  · rw [offCaches_sendReg, offCaches_modSlice, offCaches_modSlice]
  · rw [offCaches_modSlice]

theorem sliceOf_resetSlice_ne {i j : Nat} (other : j ≠ i) : sliceOf (resetSlice s i) j = sliceOf s j := by
  rw [resetSlice_eq idle]
  split <;> simp [sliceOf_sendReg, modSlice, other]

theorem sliceReset_resetSlice (i : Nat) : SliceReset s i (sliceOf (resetSlice s i) i) := by
  rw [resetSlice_eq idle]
  split
  · next serves =>
    rw [sliceOf_sendReg, if_pos rfl, sliceOf_modSlice, sliceOf_modSlice]
    exact ⟨rfl, rfl, serves.symm⟩
  · next out =>
    rw [sliceOf_modSlice]
    exact ⟨rfl, rfl, (Bool.eq_false_of_not_eq_true out).symm⟩

end

section
variable {s t : State} (h : offCaches t = offCaches s)
include h

theorem crushers_of_offCaches : t.crushers = s.crushers := (congrArg State.crushers h : (offCaches t).crushers = (offCaches s).crushers)
theorem dies_of_offCaches : t.dies = s.dies := (congrArg State.dies h : (offCaches t).dies = (offCaches s).dies)
theorem mem_of_offCaches : t.mem = s.mem := (congrArg State.mem h : (offCaches t).mem = (offCaches s).mem)
theorem poison_of_offCaches : t.poison = s.poison := (congrArg State.poison h : (offCaches t).poison = (offCaches s).poison)
theorem sec_of_offCaches : t.sec = s.sec := (congrArg State.sec h : (offCaches t).sec = (offCaches s).sec)

end

theorem offCaches_foldl_resetSlice (l : List Nat) {s : State} (idle : s.crushers = []) : offCaches (l.foldl resetSlice s) = offCaches s := by
  induction l generalizing s with
  | nil => rfl
  | cons i l ih =>
    have one := offCaches_resetSlice idle i
    exact (ih ((crushers_of_offCaches one).trans idle)).trans one

/-- Each slice of the list is reset, and one that has been reset stays so. -/
theorem sliceReset_foldl_resetSlice {s : State} (idle : s.crushers = []) (i : Nat) (l : List Nat)
    (h : i ∈ l ∨ SliceReset s i (sliceOf s i)) : SliceReset s i (sliceOf (l.foldl resetSlice s) i) := by
  induction l generalizing s with
  | nil => exact h.resolve_left (by simp)
  | cons j l ih =>
    have one := offCaches_resetSlice idle j
    have dies := dies_of_offCaches one
    refine (sliceReset_congr dies).1 (ih ((crushers_of_offCaches one).trans idle) ?_)
    by_cases here : i = j
    · subst here
      exact .inr ((sliceReset_congr dies).2 (sliceReset_resetSlice idle i))
    · rw [List.mem_cons, or_iff_right here] at h
      rw [sliceOf_resetSlice_ne idle here]
      exact h.imp_right (sliceReset_congr dies).2

theorem resetReadOnly_foldl (l : List Nat) (s : State) : offCaches (l.foldl resetReadOnly s) = offCaches s ∧
    (l.foldl resetReadOnly s).slices = s.slices := by
  induction l generalizing s with
  | nil => exact ⟨rfl, rfl⟩
  | cons c l ih => exact ih (resetReadOnly s c)

theorem offCaches_resetCaches {s : State} (idle : s.crushers = []) : offCaches (resetCaches s) = offCaches s := by
  rw [resetCaches_eq]
  exact (resetReadOnly_foldl _ _).1.trans (offCaches_foldl_resetSlice _ idle)

theorem sliceReset_resetCaches {s : State} (idle : s.crushers = []) {i : Nat} (here : i ∈ allSlices s.variant) :
    SliceReset (resetCaches s) i (sliceOf (resetCaches s) i) := by
  rw [sliceReset_congr (dies_of_offCaches (offCaches_resetCaches idle)), resetCaches_eq, sliceOf_of_slices (resetReadOnly_foldl _ _).2]
  exact sliceReset_foldl_resetSlice idle i _ (.inl here)

theorem offCaches_coldStart (s : State) : offCaches (resetCaches (coldPrepared s)) = offCaches (coldPrepared s) :=
  offCaches_resetCaches (zeroed_crushers _)

theorem coldStart_slices (s : State) {i : Nat} (here : i ∈ allSlices s.variant) : SliceReset (coldStart s) i (sliceOf (coldStart s) i) := by
  have reset := sliceReset_resetCaches (s := coldPrepared s) (zeroed_crushers _) (by rwa [coldPrepared_variant])
  rw [coldStart_eq, sliceReset_congr (started_dies _), sliceOf_started]
  exact reset

theorem coldStart_mem (s : State) : (coldStart s).mem = [] := by
  rw [coldStart_eq, started_mem, mem_of_offCaches (offCaches_coldStart s), coldPrepared, zeroed_mem]

theorem coldStart_poison (s : State) : (coldStart s).poison = [] := by
  rw [coldStart_eq, started_poison, poison_of_offCaches (offCaches_coldStart s), coldPrepared, zeroed_poison]

theorem coldStart_keys (s : State) : (coldStart s).sec.key1 ≠ (coldStart s).sec.key2 := by
  rw [coldStart_eq, started_key1, started_key2, sec_of_offCaches (offCaches_coldStart s)]
  exact coldPrepared_keys s

/-! ### Admission passes and service (R402, R519, R522) -/

theorem offEvents_foldl {β : Type} {f : State → β → State} (h : ∀ s b, offEvents (f s b) = offEvents s) (l : List β) (s : State) :
    offEvents (l.foldl f s) = offEvents s := by
  induction l generalizing s with
  | nil => rfl
  | cons b l ih => exact (ih _).trans (h s b)

@[simp] theorem offEvents_postEvents (s : State) (ps : List Nat) (e : List Byte) : offEvents (postEvents s ps e) = offEvents s :=
  offEvents_foldl (fun t p => offEvents_postEvent t p e) ps s

theorem offEvents_modQueue (s : State) (p q : Nat) (f : Queue → Queue) : offEvents (modQueue s p q f) = offEvents s := rfl

@[simp] theorem offEvents_markQueues (s : State) (p : Nat) : offEvents (markQueues s p) = offEvents s := rfl

@[simp] theorem offEvents_resvEvent (s : State) (r : ResvCfg) (spec : List Byte) : offEvents (resvEvent s r spec) = offEvents s :=
  offEvents_postEvents ..

@[simp] theorem offEvents_markLaunches (s : State) (r : ResvCfg) : offEvents (markLaunches s r) = offEvents s := by
  unfold markLaunches
  exact offEvents_foldl (fun t l => offEvents_modQueue ..) _ _

/-- An admission pass records what it admits; the rest of it is events and marks of commands. -/
theorem offEvents_runPass (s : State) (first : Bool) : offEvents (runPass s first) =
    offEvents { s with admission := { s.admission with admitted := admits s, passDue := false } } := by
  refine (offEvents_foldl offEvents_markLaunches _ _).trans (offEvents_foldl (fun t i => ?_) _ _)
  split
  · rfl
  · dsimp only
    split_ifs <;> simp

theorem dies_of_offEvents {s t : State} (h : offEvents t = offEvents s) : t.dies = s.dies :=
  (congrArg State.dies h : (offEvents t).dies = (offEvents s).dies)
theorem dev_of_offEvents {s t : State} (h : offEvents t = offEvents s) : t.dev = s.dev :=
  (congrArg State.dev h : (offEvents t).dev = (offEvents s).dev)
theorem admission_of_offEvents {s t : State} (h : offEvents t = offEvents s) : t.admission = s.admission :=
  (congrArg State.admission h : (offEvents t).admission = (offEvents s).admission)

theorem returnL_dev (s : State) (c : Nat) : (returnL s c).dev = s.dev := by
  unfold returnL
  dsimp only
  split_ifs <;> rfl

theorem returnAllL_dev (s : State) : (returnAllL s).dev = s.dev := by
  unfold returnAllL
  induction allClusters s.variant generalizing s with
  | nil => rfl
  | cons c l ih => exact (ih _).trans (returnL_dev s c)

theorem exec_coldStart {s : State} (cold : s.power.stage = .cold) (warm : sensorsAllow s = true) (free : startBlocked s = false) :
    exec .coldStart s = .next (coldStart s) := by
  change execColdStart s = _
  simp [execColdStart, onUnit, cold, warm, free]

theorem exec_coldStart_stays {s : State} (h : s.power.stage ≠ .cold ∨ sensorsAllow s = false ∨ startBlocked s = true) :
    exec .coldStart s = .next s := by
  change execColdStart s = _
  rw [execColdStart, if_pos (by simpa [or_assoc] using h), onUnit, if_pos rfl]

theorem exec_reducedService {s : State} (live : alive s = true) (st : s.dev.st = 0) (tested : diesTested s = true) (on : cachesOn s = true) :
    exec .reducedService s = .next { s with dev := { s.dev with st := 1 } } := by
  change execReducedService s = _
  rw [execReducedService, if_pos (by simp [live, st, tested, on]), onUnit, if_pos rfl]

theorem exec_reducedService_stays {s : State} (h : s.dev.st ≠ 0 ∨ diesTested s = false ∨ cachesOn s = false) :
    exec .reducedService s = .next s := by
  have early : ¬(alive s && s.dev.st = 0 && diesTested s && cachesOn s) = true := by
    rcases h with st | tested | on
    · simp [st]
    · simp [tested]
    · simp [on]
  change execReducedService s = _
  rw [execReducedService, if_neg early, onUnit, if_pos rfl]

theorem exec_fullService {s : State} (live : alive s = true) (st : s.dev.st = 1) (ledger : s.dev.ledger = true ∨ s.dev.iodCrusherFailed = true)
    (tested : diesTested s = true) :
    exec .fullService s = .next (runPass (returnAllL { s with dev := { s.dev with st := 2 } }) true) := by
  change execFullService s = _
  rw [execFullService, if_pos (by simp [live, st, ledger, tested]), onUnit, if_pos rfl]

/-! ### Dies and clusters that fail a test (R521, R529, R532) -/

theorem die_modDie (s : State) (d : Nat) (f : Die → Die) : die (modDie s d f) d = f (die s d) := by rw [modDie, die_setDie, if_pos rfl]

theorem die_settleLedger (s : State) (d : Nat) : die (settleLedger s) d = die s d := by
  unfold settleLedger
  dsimp only
  split <;> rfl

theorem die_heldOut (s : State) (d cause : Nat) :
    die (setDieHeld s d true cause) d = { die s d with state := .heldOut, hold := cause, keyed := false } := by
  have dies : (setDieHeld s d true cause).dies = (modDie s d fun u => { u with state := .heldOut, hold := cause, keyed := false }).dies := by
    rw [setDieHeld, dies_of_offEvents (offEvents_postEvents ..)]
    rfl
  rw [die_of_dies dies, die_modDie]

theorem dies_setClusterFence (s : State) (c cause : Nat) (fenced : Bool) : (setClusterFence s c fenced cause).dies = (modDie s (c / 16) fun u =>
    { u with clFenced := if fenced then u.clFenced ||| bit16 (c % 16) else u.clFenced &&& ~~~bit16 (c % 16) }).dies := by
  rw [setClusterFence, dies_of_offEvents (offEvents_postEvents ..)]
  split <;> rfl

theorem die_clusterFenced (s : State) (d cause : Nat) {c : Nat} (hc : c < 16) : die (setClusterFence s (16 * d + c) true cause) d =
    { die s d with clFenced := (die s d).clFenced ||| bit16 c } := by
  have home : (16 * d + c) / 16 = d := by omega
  have place : (16 * d + c) % 16 = c := by omega
  rw [die_of_dies (dies_setClusterFence ..), home, place, die_modDie, if_pos rfl]

theorem getLsbD_bit16 : ∀ c < 16, (bit16 c).getLsbD c = true := by decide

theorem die_enterService (s : State) (d : Nat) : die (enterService s d) d =
    if (die s d).state == .testing && (die s d).logicPassed && (!(die s d).retest || (die s d).ledgerPassed)
    then { die s d with state := .inService, retest := false } else die s d := by
  unfold enterService
  dsimp only
  split
  · have dies : ∀ t : State, { t with admission := { s.admission with passDue := true } }.dies = t.dies := fun _ => rfl
    rw [die_of_dies (dies _), die_setDie, if_pos rfl]
  · rfl

theorem dies_of_offMemory {s t : State} (h : offMemory t = offMemory s) : t.dies = s.dies :=
  (congrArg State.dies h : (offMemory t).dies = (offMemory s).dies)
theorem admission_of_offMemory {s t : State} (h : offMemory t = offMemory s) : t.admission = s.admission :=
  (congrArg State.admission h : (offMemory t).admission = (offMemory s).admission)

theorem die_leaveSelfRefresh (s : State) (d e : Nat) : die (leaveSelfRefresh s d) e = die s e := by
  refine die_of_dies (dies_of_offMemory ?_) e
  unfold leaveSelfRefresh
  exact offMemory_foldl (fun t k => offMemory_modChan ..) _ _

/-! ### Self-tests at start-up (R519 to R521, R532, R536) -/

section
variable {s : State} {u : TestUnit} (running : s.power.stage = .running) (unit : u.ok = true) (here : notTested s (unitDie u) = false)
include running unit here

theorem exec_logicSelfTestDone_part (pass : Bool) (requested : underTest s u = true) :
    exec (.logicSelfTestDone u pass) s = .next (testPart s u 0 7 pass) := by
  change execLogicSelfTestDone u pass s = _
  simp [execLogicSelfTestDone, onUnit, running, unit, here, requested]

variable (alone : underTest s u = false)
include alone

theorem exec_logicSelfTestDone_failed (testing : (die s (unitDie u)).state = .testing) :
    exec (.logicSelfTestDone u false) s = .next (settleLedger (failUnit s u 7)) := by
  change execLogicSelfTestDone u false s = _
  simp [execLogicSelfTestDone, onUnit, running, unit, here, alone, testing]

theorem exec_ledgerSelfTestDone (crusher pass : Bool) (testing : (die s (unitDie u)).state = .testing) :
    exec (.ledgerSelfTestDone u crusher pass) s = .next (settleLedger (ledgerPart s u crusher pass)) := by
  change execLedgerSelfTestDone u crusher pass s = _
  simp [execLedgerSelfTestDone, onUnit, running, unit, here, alone, starting, testing]

end

theorem exec_logicSelfTestDone_passed {s : State} {d : Nat} (running : s.power.stage = .running) (unit : (TestUnit.die d).ok = true)
    (here : notTested s d = false) (alone : underTest s (.die d) = false) (testing : (die s d).state = .testing) :
    exec (.logicSelfTestDone (.die d) true) s =
      .next (enterService (modDie (leaveSelfRefresh s d) d fun u => { u with logicPassed := true }) d) := by
  change execLogicSelfTestDone (.die d) true s = _
  simp [execLogicSelfTestDone, onUnit, running, unit, here, alone, testing, unitDie]

/-- A die after its logic test, which it passed. -/
theorem die_logicPassed {s : State} {d : Nat} (testing : (die s d).state = .testing) :
    die (enterService (modDie (leaveSelfRefresh s d) d fun u => { u with logicPassed := true }) d) d =
      if (!(die s d).retest || (die s d).ledgerPassed) = true then { die s d with logicPassed := true, state := .inService, retest := false }
      else { die s d with logicPassed := true } := by
  rw [die_enterService, die_modDie, die_leaveSelfRefresh]
  simp [testing]

/-- A die that passed its logic test, after its ledger test, which it passed too. -/
theorem die_ledgerPassed {s : State} {d : Nat} (testing : (die s d).state = .testing) (logic : (die s d).logicPassed = true) :
    die (settleLedger (ledgerPart s (.die d) false true)) d =
      { die s d with ledgerPassed := true, state := .inService, retest := false } := by
  have part : ledgerPart s (.die d) false true = enterService (modDie s d fun u => { u with ledgerPassed := true }) d := by
    simp [ledgerPart, logic]
  rw [die_settleLedger, part, die_enterService, die_modDie, if_pos (by simp [testing, logic])]

/-! ### Units that come back from a test (R545) -/

/-- What giving units back leaves: the device's registers, a pass that is due, and in which state each die is. -/
structure Returns (s t : State) : Prop where
  dev : t.dev = s.dev
  due : s.admission.passDue = true → t.admission.passDue = true
  state : ∀ d, (die t d).state = (die s d).state

theorem Returns.rfl {s : State} : Returns s s := ⟨.refl _, id, fun _ => .refl _⟩

theorem Returns.trans {s t u : State} (h : Returns s t) (k : Returns t u) : Returns s u :=
  ⟨k.dev.trans h.dev, k.due ∘ h.due, fun d => (k.state d).trans (h.state d)⟩

theorem returns_foldl {β : Type} {f : State → β → State} (h : ∀ s b, Returns s (f s b)) (l : List β) (s : State) :
    Returns s (l.foldl f s) := by
  induction l generalizing s with
  | nil => exact .rfl
  | cons b l ih => exact (h s b).trans (ih _)

theorem returns_of_dies {s t : State} (dev : t.dev = s.dev) (admission : t.admission = s.admission) (dies : t.dies = s.dies) : Returns s t :=
  ⟨dev, fun due => by rw [admission]; exact due, fun d => by rw [die_of_dies dies]⟩

theorem returns_of_offEvents {s t : State} (h : offEvents t = offEvents s) : Returns s t :=
  returns_of_dies (dev_of_offEvents h) (admission_of_offEvents h) (dies_of_offEvents h)

theorem returns_passDue (s : State) : Returns s { s with admission := { s.admission with passDue := true } } :=
  ⟨rfl, fun _ => rfl, fun _ => rfl⟩

theorem returns_modCluster (s : State) (c : Nat) (f : Cluster → Cluster) : Returns s (modCluster s c f) := returns_of_dies rfl rfl rfl

theorem returns_modDie (s : State) (d : Nat) {f : Die → Die} (keep : ∀ u, (f u).state = u.state) : Returns s (modDie s d f) := by
  refine ⟨rfl, id, fun e => ?_⟩
  rw [modDie, die_setDie]
  split
  · next same => rw [keep, same]
  · rfl

theorem returns_setClusterFence (s : State) (c cause : Nat) : Returns s (setClusterFence s c false cause) :=
  (returns_modDie s (c / 16) (f := fun u => { u with clFenced := u.clFenced &&& ~~~bit16 (c % 16) }) fun _ => rfl).trans <|
    (returns_modCluster ..).trans <| (returns_passDue _).trans (returns_of_offEvents (offEvents_postEvents ..))

theorem returns_setSliceFence (s : State) (i cause : Nat) : Returns s (setSliceFence s i false cause) :=
  (returns_modDie s (i / 16) (f := fun u => { u with slFenced := u.slFenced &&& ~~~bit16 (i % 16) }) fun _ => rfl).trans <|
    (returns_passDue _).trans (returns_of_offEvents (offEvents_postEvents ..))

theorem returns_returnL (s : State) (c : Nat) : Returns s (returnL s c) := by
  unfold returnL
  dsimp only
  split
  · exact returns_modCluster ..
  · exact .rfl

theorem returns_markTesting (s : State) (cs : List Nat) (on : Bool) : Returns s (markTesting s cs on) := by
  unfold markTesting
  refine returns_foldl (fun t c => ?_) _ _
  exact returns_modDie _ _ fun _ => rfl

theorem returns_returnCluster (s : State) (c : Nat) (passed : Bool) : Returns s (returnCluster s c passed) := by
  have back : Returns s (modCluster (returnL (markTesting s [c] false) c) c fun x => { x with roInvalid := true }) :=
    (returns_markTesting s [c] false).trans ((returns_returnL ..).trans (returns_modCluster ..))
  unfold returnCluster
  dsimp only
  split
  · exact back.trans (returns_setClusterFence ..)
  · exact back

/-! ### Slices that come back from a test (R250, R280) -/

@[simp] theorem activate_dev (s : State) (pa : Nat) : (activate s pa).dev = s.dev := by
  unfold activate
  split
  · rfl
  · dsimp only
    split <;> rfl

@[simp] theorem memStoreLine_dev (s : State) (line : Nat) (mask : BitVec 4) (d : Line) (p : W32) : (memStoreLine s line mask d p).dev = s.dev :=
  activate_dev ..

@[simp] theorem sendData_dev (s : State) (name : String) (dest line : Nat) (v : Line) (sectors : BitVec 4) (p : W32) :
    (sendData s name dest line v sectors p).dev = s.dev := by
  unfold sendData
  split <;> rfl

@[simp] theorem writeSpoilOut_dev (s : State) (i : Nat) : (writeSpoilOut s i).dev = s.dev := by
  unfold writeSpoilOut
  split
  · rfl
  · dsimp only
    split
    · exact sendData_dev ..
    · rw [emit_dev, modSlice, setSlice_dev, memStoreLine_dev]

theorem drainSpoil_dev (i k : Nat) (s : State) : (drainSpoil i k s).dev = s.dev := by
  induction k generalizing s with
  | zero => rfl
  | succ k ih =>
    unfold drainSpoil
    split
    · rfl
    · rw [ih, writeSpoilOut_dev]

theorem placeLine_dev {s t : State} {i : Nat} {c : CLine} (h : placeLine s i c = some t) : t.dev = s.dev :=
  congrArg (·.1.dev) (offTags_placeLine h)

theorem putHome_dev (s : State) (h : Nat) (c : CLine) : (putHome s h c).dev = s.dev := by
  have room : (if (sliceOf s h).enabled then drainSpoil h 64 s else s).dev = s.dev := by
    split
    · exact drainSpoil_dev ..
    · rfl
  unfold putHome
  dsimp only
  split
  · next t placed =>
    rcases (Option.orElse_eq_some ..).1 placed with first | ⟨-, second⟩
    · exact placeLine_dev first
    · exact (placeLine_dev second).trans room
  · exact (memStoreLine_dev ..).trans room

theorem returns_of_offMemory {s t : State} (dev : t.dev = s.dev) (h : offMemory t = offMemory s) : Returns s t :=
  returns_of_dies dev (admission_of_offMemory h) (dies_of_offMemory h)

theorem returns_discardOpen (s : State) (h line : Nat) : Returns s (discardOpen s h line) := by
  unfold discardOpen
  split
  · exact .rfl
  · dsimp only
    split
    · exact returns_of_offMemory (putHome_dev ..) (offMemory_putHome ..)
    · exact returns_of_dies rfl rfl rfl

theorem returns_invalidateSlice (s : State) (i : Nat) : Returns s (invalidateSlice s i) :=
  (returns_foldl (fun t (l : OpenLine) => returns_discardOpen t i l.line) _ s).trans (returns_of_dies rfl rfl rfl)

theorem returns_returnSlice (s : State) (i : Nat) (passed : Bool) : Returns s (returnSlice s i passed) := by
  unfold returnSlice
  dsimp only
  split
  · exact (returns_setSliceFence ..).trans (returns_invalidateSlice ..)
  · exact returns_invalidateSlice ..

/-! ### The end of a requested test (R528, R545) -/

theorem returns_finishCmd (s : State) (p q : Nat) (seq : W32) (code : Nat) : Returns s (finishCmd s p q seq code) := by
  have shared : Returns s (accountShared s) := by
    unfold accountShared
    dsimp only
    split <;> exact returns_of_dies rfl rfl rfl
  exact shared.trans (returns_of_dies rfl rfl rfl)

/-- DEV_TEST holds the result, and an admission pass is due. -/
def testNoted (s : State) : State :=
  { s with dev := { s.dev with testBusy := false, testResult := if !s.dev.testFailed.isEmpty || s.dev.testFailDie != 0 then 2 else 1,
                               testCmd := none, testLeft := [], st := if s.dev.testScope = 2 then s.dev.testPrev else s.dev.st },
           admission := { s.admission with passDue := true } }

/-- The die that was tested is in service again. -/
def dieBack (s : State) (d : Nat) : State := modDie s d fun u => if u.state == .testing then { u with state := .inService } else u

/-- The clusters of the test are back, and those that passed lose their fence. -/
def clustersBack (s : State) : State :=
  (testClusters (testNoted s) s.dev.testScope s.dev.testDie s.dev.testCl).foldl
    (fun t c => returnCluster t c (!s.dev.testFailed.contains c && !s.dev.testFailDie.getLsbD (c / 16))) (testNoted s)

theorem returns_clustersBack (s : State) : Returns (testNoted s) (clustersBack s) :=
  returns_foldl (fun t c => returns_returnCluster t c _) _ _

/-- The dies of the test and their slices are back too. -/
def unitsBack (s : State) : State :=
  (testDies (testNoted s) s.dev.testScope s.dev.testDie).foldl (fun t d => (dieSlices d).foldl
    (fun t i => returnSlice t i (!s.dev.testFailDie.getLsbD d)) (dieBack t d)) (clustersBack s)

theorem endTest_silent {s : State} (silent : s.dev.testCmd = none) : endTest s = unitsBack s := by
  unfold endTest unitsBack clustersBack testNoted dieBack
  simp only [silent]

theorem endTest_commanded {s : State} {q : Nat} {seq : W32} (command : s.dev.testCmd = some (q, seq)) :
    endTest s = finishCmd (unitsBack s) 0 q seq 0 := by
  unfold endTest unitsBack clustersBack testNoted dieBack
  simp only [command]

/-- A test ends with its units and, where it was commanded, with its command. -/
theorem endTest_units (s : State) : Returns (unitsBack s) (endTest s) := by
  cases command : s.dev.testCmd with
  | none => rw [endTest_silent command]; exact .rfl
  | some c => rw [endTest_commanded command]; exact returns_finishCmd ..

theorem unitsBack_die {s : State} (one : s.dev.testScope = 1) : Returns (dieBack (clustersBack s) s.dev.testDie) (unitsBack s) := by
  have only : testDies (testNoted s) s.dev.testScope s.dev.testDie = [s.dev.testDie] := by rw [one]; rfl
  rw [unitsBack, only, List.foldl_cons, List.foldl_nil]
  exact returns_foldl (fun t i => returns_returnSlice t i _) _ _

/-- The logic test of the one die under test, which it passes, is the last part. -/
theorem testPart_last {s : State} {d : Nat} (one : s.dev.testScope = 1) (same : s.dev.testDie = d) (left : s.dev.testLeft = [2 * d]) :
    testPart s (.die d) 0 7 true = endTest { s with dev := { s.dev with testLeft := [] } } := by
  simp [testPart, testIndex, one, same, left]

theorem tested_die {s t : State} {d : Nat} (one : s.dev.testScope = 1) (same : s.dev.testDie = d) (left : s.dev.testLeft = [2 * d])
    (clusters : s.dev.testFailed = []) (dies : s.dev.testFailDie = 0) (ended : t = testPart s (.die d) 0 7 true) :
    t.dev.testBusy = false ∧ t.dev.testResult = 1 ∧ t.dev.testLeft = [] ∧ t.admission.passDue = true ∧
      ((die s d).state = .testing → (die t d).state = .inService) := by
  rw [testPart_last one same left] at ended
  have noted := returns_clustersBack { s with dev := { s.dev with testLeft := [] } }
  have back := (unitsBack_die (s := { s with dev := { s.dev with testLeft := [] } }) one).trans (endTest_units _)
  rw [← ended] at back
  have dev := back.dev.trans noted.dev
  rw [dev]
  refine ⟨rfl, ?_, rfl, back.due (noted.due rfl), fun testing => ?_⟩
  · simp [testNoted, clusters, dies]
  · subst same
    have before := (noted.state s.dev.testDie).trans testing
    rw [back.state, dieBack, die_modDie, before]
    rfl

/-- Settles O58: cold start resets every slice once, a pass only records and reports, and each self-test changes its own die alone. -/
theorem startAndSelfTests : Obligations.StartAndSelfTests := by
  unfold Obligations.StartAndSelfTests
  refine ⟨fun s => ⟨fun cold warm free => ?_, exec_coldStart_stays, exec_reducedService, exec_reducedService_stays,
    fun live st ledger tested => ?_⟩, fun s d running compute here unit => ⟨fun idle testing => ?_,
      fun busy one same left _ clusters dies => ?_⟩⟩
  · refine ⟨_, exec_coldStart cold warm free, by rw [coldStart_eq]; rfl, coldStart_mem s, coldStart_poison s, by rw [coldStart_eq]; rfl,
      by rw [coldStart_eq]; rfl, by rw [coldStart_eq]; rfl, coldStart_keys s, fun i slice => ?_⟩
    obtain ⟨disabled, empty, invalidated⟩ := coldStart_slices s slice
    exact ⟨disabled, empty, invalidated⟩
  · have pass := offEvents_runPass (returnAllL { s with dev := { s.dev with st := 2 } }) true
    refine ⟨_, exec_fullService live st ledger tested, ?_, ?_, ?_⟩
    · rw [dev_of_offEvents pass]
      exact congrArg Dev.st (returnAllL_dev _)
    · rw [admission_of_offEvents pass]
    · rw [admission_of_offEvents pass]
  · have alone : ∀ u, underTest s u = false := fun u => by simp [underTest, idle]
    have notIod : d ≠ 8 := by omega
    refine ⟨⟨_, exec_logicSelfTestDone_passed running unit here (alone _) testing, ?_, fun first => ?_, fun again ledger => ?_⟩,
      ⟨_, exec_logicSelfTestDone_failed running unit here (alone _) testing, ?_⟩,
      fun c hc cluster => ⟨_, exec_logicSelfTestDone_failed running cluster here (alone _) testing, ?_⟩,
      fun logic => ⟨_, exec_ledgerSelfTestDone running unit here (alone _) false true testing, ?_⟩,
      ⟨_, exec_ledgerSelfTestDone running unit here (alone _) true false testing, ?_⟩⟩
    · rw [die_logicPassed testing]
      split <;> rfl
    · rw [die_logicPassed testing, if_pos (by simp [first])]
    · rw [die_logicPassed testing, if_neg (by simp [again, ledger]), testing]
    · rw [die_settleLedger, failUnit, if_neg notIod, die_heldOut]
      exact ⟨rfl, rfl⟩
    · rw [die_settleLedger, failUnit, die_clusterFenced s d 7 hc]
      exact ⟨by simp [getLsbD_bit16 c hc], testing⟩
    · rw [die_ledgerPassed testing logic]
      exact ⟨rfl, rfl⟩
    · have part : ledgerPart s (.die d) true false = setDieHeld s d true 8 := by simp [ledgerPart, failUnit, unitDie, notIod]
      rw [die_settleLedger, part, die_heldOut]
      exact ⟨rfl, rfl⟩
  · have requested : underTest s (.die d) = true := by simp [underTest, unitDie, busy, one, same]
    exact ⟨_, exec_logicSelfTestDone_part running unit here true requested, tested_die one same left clusters dies rfl⟩

end Sys2Proof.Machine

/-! SUPPORT. What the engines do with descriptors, with the lines they move and with the partials of collectives, and when their tasks arrive.
It settles O42. -/

namespace Sys2Proof.Machine

/-! ### Reads by an engine leave tasks (R224, R274) -/

@[simp] theorem agentRead_tasks (s : State) (line attr : Nat) (evict : Bool) : (agentRead s line attr evict).tasks = s.tasks := by
  have settled : (settle s line).tasks = s.tasks := tasks_of_offMemory (offMemory_settle ..)
  unfold agentRead
  split
  · rfl
  · rfl
  · dsimp only
    split_ifs
    · simpa using settled
    · exact tasks_getD (fun t placed => by simpa [settled] using tasks_of_placeLine placed) (by simpa using settled)
    · simpa using settled

theorem readLine_tasks (s : State) (line attr : Nat) : (readLine s line attr).1.tasks = s.tasks := by
  unfold readLine
  split
  · rfl
  · rfl
  · exact agentRead_tasks ..

/-! ### Descriptors (R379) -/

section
variable {s : State} {t : Task} {l : Launch}

/-- The descriptor that the engine reads next, once `refused` and `allowed` tell what R26 answers. -/
theorem exec_dmaDescriptor {a : Nat} (here : taskOf s t.tag = some t) (launch : launchOf s t.launch = some l) (runs : dmaRuns s t = true)
    (calm : s.dev.st ≠ 4) (more : t.descIndex < nDescs (launchNode s l t.node)) (ha : a = nBase (launchNode s l t.node) + 32 * t.descIndex) :
    (∀ c, accessCheck s t.part a false true = some c → exec (.dmaDescriptor t.tag) s = .next (engineFail s t.tag c)) ∧
    (accessCheck s t.part a false true = none → isRemote s a = false → exec (.dmaDescriptor t.tag) s = .next
      (if poisonAny s a 32 ≠ 0 then engineFail s t.tag (poisonAny s a 32).toNat
       else startDescriptor (agentReads s a 32 0 true) t (readAny s a 32))) := by
  subst ha
  have go : (!dmaRuns s t || decide (s.dev.st = 4) || decide (nDescs (launchNode s l t.node) ≤ t.descIndex)) = false := by
    simp [runs, calm, more]
  refine ⟨fun c refused => (onUnit_next ..).2 ⟨rfl, ?_⟩, fun allowed near => (onUnit_next ..).2 ⟨rfl, ?_⟩⟩
  · simp only [here, launch, go, refused]
    rfl
  · simp only [here, launch, go, allowed, near]
    rfl

end

section
variable (s : State) (t : Task) {b : List Byte}

theorem startDescriptor_malformed (bad : descriptorOk b = false) : startDescriptor s t b = engineFail s t.tag 0x4A :=
  if_pos (by simp [bad])

theorem startDescriptor_waits (good : descriptorOk b = true) (wait : byteAt b 20 = 1) (busy : t.descBusy ≠ []) : startDescriptor s t b = s := by
  have waits : (decide (byteAt b 20 = 1) && !t.descBusy.isEmpty) = true := by simp [wait, busy]
  rw [startDescriptor, if_neg (by simp [good])]
  exact if_pos waits

theorem startDescriptor_starts (good : descriptorOk b = true) (free : byteAt b 20 ≠ 1 ∨ t.descBusy = []) {src len : Nat}
    (hsrc : src = fieldAt b 0 8) (hlen : len = fieldAt b 16 4) : startDescriptor s t b = emits
      (modTask s t.tag fun k =>
        { k with descIndex := k.descIndex + 1, inbox := [], descBusy := k.descBusy ++ [{ src, dst := fieldAt b 8 8, len, left := len }] })
      ((List.range ((src % 128 + len + 127) / 128)).map fun i =>
        Out.dma "DMA_RD" t.tag (src / 128 + i) (BitVec.ofNat 128 ((2 ^ (Nat.min (src + len) (128 * (src / 128 + i) + 128) -
          Nat.max src (128 * (src / 128 + i))) - 1) * 2 ^ (Nat.max src (128 * (src / 128 + i)) - 128 * (src / 128 + i)))) 0) := by
  have starts : (decide (byteAt b 20 = 1) && !t.descBusy.isEmpty) = false := by
    rcases free with free | free <;> simp [free]
  subst hsrc hlen
  rw [startDescriptor, if_neg (by simp [good])]
  exact if_neg (by simp [starts])

end

/-! ### Lines that DMA moves (R254, R379, R395) -/

section
variable {s : State} {t : Task} {d : DescRun} {line : Nat}

/-- Data that reaches the engine for a descriptor in progress goes on to the destination, or poisons it (R254). -/
theorem engineData_of_descriptor {sectors : BitVec 4} (here : taskOf s t.tag = some t)
    (part : (t.descBusy.find? fun d => !(srcPart d line sectors).isEmpty) = some d) (v : Line) (q : W32) :
    (poisonIn sectors q = 0 → engineData s t.tag line v sectors q = emits s
      (((srcPart d line sectors).flatMap (writesOf d line v)).map fun e => .dma "DMA_WR" t.tag e.1 e.2.1 e.2.2)) ∧
    (poisonIn sectors q ≠ 0 → ∃ u, engineData s t.tag line v sectors q = engineFail u t.tag (poisonIn sectors q).toNat) := by
  simp only [engineData, here, part]
  refine ⟨fun clean => if_neg (not_not.2 clean), fun marked => ⟨_, if_pos marked⟩⟩

theorem exec_dmaRd {l : Launch} {sectors : BitVec 4} (here : taskOf s t.tag = some t) (runs : dmaRuns s t = true)
    (launch : launchOf s t.launch = some l) (part : (t.descBusy.find? fun d => !(srcPart d line sectors).isEmpty) = some d) :
    (∀ c, lineCheck s t.part line false true = some c → exec (.dmaRd t.tag line sectors) s = .next (engineFail s t.tag c)) ∧
    (lineCheck s t.part line false true = none → isRemote s (128 * line) = false → ∀ r, r = readLine s line (nAttr (launchNode s l t.node)) →
      exec (.dmaRd t.tag line sectors) s = .next (engineData r.1 t.tag line r.2.1 sectors r.2.2)) := by
  have covered : (t.descBusy.any fun d => !(srcPart d line sectors).isEmpty) = true :=
    List.any_eq_true.2 ⟨d, List.mem_of_find?_eq_some part, List.find?_some (p := fun d => !(srcPart d line sectors).isEmpty) part⟩
  have go : (!dmaRuns s t || !(t.descBusy.any fun d => !(srcPart d line sectors).isEmpty)) = false := by rw [runs, covered]; rfl
  refine ⟨fun c refused => (onUnit_next ..).2 ⟨rfl, ?_⟩, fun allowed near r hr => (onUnit_next ..).2 ⟨rfl, ?_⟩⟩
  · simp only [here, go, refused]
    rfl
  · simp only [here, go, allowed, near, launch, hr]
    rfl

/-- A write of an engine under R26. -/
theorem engineStore_checked (d : Line) (be : BitVec 128) (attr : Nat) :
    (∀ c, lineCheck s t.part line true (regBeOk be) = some c → engineStore s t line be d attr = engineFail s t.tag c) ∧
    (lineCheck s t.part line true (regBeOk be) = none → isRemote s (128 * line) = false →
      engineStore s t line be d attr = engineWrote (writeLine s line be d attr) t.tag line be) := by
  refine ⟨fun c refused => ?_, fun allowed near => ?_⟩
  · simp only [engineStore, refused]
  · simp only [engineStore, allowed, near]
    rfl

theorem exec_dmaWr {l : Launch} {be : BitVec 128} (here : taskOf s t.tag = some t) (runs : dmaRuns s t = true)
    (launch : launchOf s t.launch = some l) (busy : d ∈ t.descBusy)
    (covers : ∀ e ∈ Machine.runs 128 be.toNat, d.dst ≤ 128 * line + e.1 ∧ 128 * line + e.1 + e.2 ≤ d.dst + d.len) (data : Line) :
    exec (.dmaWr t.tag line be data) s = .next (engineStore s t line be data (nAttr (launchNode s l t.node))) := by
  have covered : (t.descBusy.any fun d => (Machine.runs 128 be.toNat).all fun (i, n) =>
      decide (d.dst ≤ 128 * line + i) && decide (128 * line + i + n ≤ d.dst + d.len)) = true :=
    List.any_eq_true.2 ⟨d, busy, List.all_eq_true.2 fun e he => by simpa using covers e he⟩
  refine (onUnit_next ..).2 ⟨rfl, ?_⟩
  simp only [here, runs, covered, launch]
  rfl

end

/-! ### Collectives (R379, R395, R446) -/

section
variable {s : State} {t : Task} {l : Launch} {n : List Byte} {line : Nat} {be : BitVec 128} {data : Line}

theorem exec_coll (here : taskOf s t.tag = some t) (launch : launchOf s t.launch = some l) (hn : n = launchNode s l t.node)
    (kind : t.kind = 2) (running : t.st = .running) (sound : t.fault = 0) (calm : s.restart.active = false) :
    exec (.coll t.tag line (.final be data)) s = .next (engineStore s t line be data 0) ∧
    (∀ c, lineCheck s t.part line true (regBeOk be) = some c → exec (.coll t.tag line (.part be data)) s = .next (engineFail s t.tag c)) ∧
    (lineCheck s t.part line true (regBeOk be) = none → exec (.coll t.tag line (.part be data)) s = .next (collPart s t n line be data)) ∧
    ∀ recs, (∀ c, lineCheck s t.part line true false = some c → exec (.coll t.tag line (.records recs)) s = .next (engineFail s t.tag c)) ∧
      (lineCheck s t.part line true false = none → collForm n = .ledger →
        exec (.coll t.tag line (.records recs)) s = .next (enginePackets s t line 0 (BitVec.ofNat 4 (nFmt n)) recs)) := by
  subst hn
  have go : (decide (t.kind ≠ 2) || decide (t.st ≠ .running) || decide (t.fault ≠ 0) || s.restart.active) = false := by
    simp [kind, running, sound, calm]
  refine ⟨(onUnit_next ..).2 ⟨rfl, ?_⟩, fun c refused => (onUnit_next ..).2 ⟨rfl, ?_⟩, fun allowed => (onUnit_next ..).2 ⟨rfl, ?_⟩,
    fun recs => ⟨fun c refused => (onUnit_next ..).2 ⟨rfl, ?_⟩, fun allowed form => (onUnit_next ..).2 ⟨rfl, ?_⟩⟩⟩
  · simp only [here, go]
    rfl
  · simp only [here, go, refused]
    rfl
  · simp only [here, launch, go, allowed]
    rfl
  · simp only [here, go, refused]
    rfl
  · simp only [here, launch, Option.map_some, Option.getD_some, go, allowed, form]
    rfl

/-- A partial of a reduction within the device (R379). -/
theorem collPart_within (legal : collForm n ≠ .illegal) (own : remoteGroup s n = none ∨ nScope n = 0) : collPart s t n line be data =
    enginePackets s t line (nRed n) (BitVec.ofNat 4 (nFmt n)) (elemRecords (collForm n) (BitVec.ofNat 4 (nFmt n)) be data) := by
  unfold collPart
  cases form : collForm n with
  | illegal => exact absurd form legal
  | ledger =>
    cases group : remoteGroup s n with
    | none => rfl
    | some g => exact if_neg (by simp [own.resolve_left (by simp [group])])
  | pair | rounded =>
    cases group : remoteGroup s n with
    | none => rfl
    | some g => exact if_pos (own.resolve_left (by simp [group]))

/-- A partial of an exact class goes on to the successor of a remote group as ledger records (R446). -/
theorem collPart_staged {g : GroupCfg} (group : remoteGroup s n = some g) (across : nScope n = 1) (form : collForm n = .ledger) :
    collPart s t n line be data =
      emit (enginePackets s t line (nRed n) (BitVec.ofNat 4 (nFmt n)) (elemRecords .ledger (BitVec.ofNat 4 (nFmt n)) be data))
        (.staged t.tag g.window line (elemRecords .ledger (BitVec.ofNat 4 (nFmt n)) be data)) := by
  simp only [collPart, form, group, across]
  rfl

/-- Other partials are combined in ring order from rank 0; the last member writes the value (R446). -/
theorem collPart_ring {g : GroupCfg} (group : remoteGroup s n = some g) (across : nScope n = 1)
    (form : collForm n = .pair ∨ collForm n = .rounded) {v : Line} {u : State}
    (hv : v = if g.rank = 0 then data else ringCombine (collForm n) (nRed n) (BitVec.ofNat 4 (nFmt n)) be data (ownElems s n line be))
    (hu : u = emit s (.dma "COLL" t.tag line be v)) :
    collPart s t n line be data = if g.rank + 1 = g.members then engineStore u t line be v 0 else u := by
  subst hu hv
  rcases form with form | form <;> simp only [collPart, form, group, across] <;> rfl

end

/-! ### Arrival (R185, R348, R372) -/

section
variable {s : State} {t : Task}

theorem engineArrive_busy {finished : Bool} (busy : engineBusy s t.tag = true) : engineArrive s t finished = s := if_pos (by simp [busy])

theorem engineArrive_failed {finished : Bool} (running : t.st = .running) (idle : engineBusy s t.tag = false) (failed : t.fault ≠ 0) :
    engineArrive s t finished = taskDone s t.tag := by
  rw [engineArrive, if_neg (by simp [running, idle]), if_pos failed]

/-- An engine whose transfers are written flushes the windows it wrote, or sends CLOSE-TASK. -/
theorem engineArrive_finished (running : t.st = .running) (idle : engineBusy s t.tag = false) (sound : t.fault = 0) (done : t.descBusy = []) :
    engineArrive s t true = if t.windows ≠ [] then flushWindows s t.tag else closeTask s t.tag := by
  rw [engineArrive, if_neg (by simp [running, idle]), if_neg (by simp [sound]), if_neg (by simp [done])]
  exact if_congr (by simp) rfl rfl

/-- CLOSE-TASK is sent: the task closes, and awaits the crushers of the IOD and of every die that serves (R185, R279). -/
def Closing (s : State) (tag : Nat) (u : State) : Prop :=
  ∃ k, taskOf u tag = some k ∧ k.st = .closing ∧ k.closes = servingSlices s ∧
    ∃ m : BitVec 9, u.out = s.out ++ [.multi "CLOSE_TASK" 3 m 0xFFFF tag] ∧
      ∀ d, d < 9 → (m.getLsbD d = true ↔ d = 8 ∨ (d < dieCount s.variant ∧ dieServes s d = true))

theorem closing_closeTask (here : taskOf s t.tag = some t) : Closing s t.tag (closeTask s t.tag) :=
  ⟨_, taskOf_closeTask here, rfl, rfl, closeDies s, out_closeTask .., fun _ hd => getLsbD_closeDies s hd⟩

/-- What the arrival of an engine's task does, once the row is known to reach `engineArrive`. -/
theorem arrives {c : Instr} {finished : Bool} (run : exec c s = .next (engineArrive s t finished)) (here : taskOf s t.tag = some t)
    (running : t.st = .running) :
    (engineBusy s t.tag = true → exec c s = .next s) ∧
    (engineBusy s t.tag = false → t.fault ≠ 0 → exec c s = .next (taskDone s t.tag)) ∧
    (engineBusy s t.tag = false → t.fault = 0 → finished = true → t.descBusy = [] →
      (t.windows ≠ [] → exec c s = .next (flushWindows s t.tag)) ∧ (t.windows = [] → ∃ u, exec c s = .next u ∧ Closing s t.tag u)) := by
  refine ⟨fun busy => ?_, fun idle failed => ?_, fun idle sound all done => ?_⟩
  · rw [run, engineArrive_busy busy]
  · rw [run, engineArrive_failed running idle failed]
  · subst all
    rw [run, engineArrive_finished running idle sound done]
    exact ⟨fun wrote => by rw [if_pos wrote], fun none => ⟨_, by rw [if_neg (not_not.2 none)], closing_closeTask here⟩⟩

theorem exec_dmaDone {l : Launch} (here : taskOf s t.tag = some t) (launch : launchOf s t.launch = some l) (kind : t.kind = 1) :
    exec (.dmaDone t.tag) s = .next (engineArrive s t (decide (nDescs (launchNode s l t.node) ≤ t.descIndex))) := by
  refine (onUnit_next ..).2 ⟨rfl, ?_⟩
  simp only [here, launch, kind]
  rfl

theorem exec_collDone (here : taskOf s t.tag = some t) (kind : t.kind = 2) : exec (.collDone t.tag) s = .next (engineArrive s t true) := by
  refine (onUnit_next ..).2 ⟨rfl, ?_⟩
  simp only [here, kind]
  rfl

end

/-- Settles O42: each row's guards hold, and what is left is its engine operation, case by case. -/
theorem enginesRun : Obligations.EnginesRun := by
  unfold Obligations.EnginesRun
  refine ⟨fun s t l n b a here launch hn ha runs calm more hb => ?_, ⟨?_, ?_, ?_⟩, ?_⟩
  · subst hn hb
    obtain ⟨refused, read⟩ := exec_dmaDescriptor here launch runs calm more ha
    refine ⟨refused, fun r hr allowed near => ?_⟩
    subst hr
    rw [read allowed near]
    refine ⟨fun marked => by rw [if_pos marked], fun clean bad => ?_, fun clean good wait busy => ?_,
      fun clean good free src len d hsrc hlen hd => ?_⟩
    · rw [if_neg (not_not.2 clean), startDescriptor_malformed _ t bad]
    · rw [if_neg (not_not.2 clean), startDescriptor_waits _ t good wait busy]
    · subst hd
      rw [if_neg (not_not.2 clean), startDescriptor_starts _ t good free hsrc hlen]
  · intro s t d l line sectors here runs launch part
    obtain ⟨refused, read⟩ := exec_dmaRd here runs launch part
    refine ⟨refused, fun r hr allowed near => ?_⟩
    have here' : taskOf r.1 t.tag = some t := by rw [taskOf, hr, readLine_tasks]; exact here
    obtain ⟨clean, marked⟩ := engineData_of_descriptor here' part r.2.1 r.2.2
    rw [read allowed near r hr]
    exact ⟨fun h => by rw [clean h], fun h => (marked h).imp fun u hu => by rw [hu]⟩
  · intro s t d l line be data here runs launch busy covers
    rw [exec_dmaWr here runs launch busy covers]
    obtain ⟨refused, allowed⟩ := engineStore_checked (s := s) (t := t) (line := line) data be (nAttr (launchNode s l t.node))
    exact ⟨fun c h => by rw [refused c h], fun h near => by rw [allowed h near]⟩
  · intro s t l n fmt line be data recs here launch hn hfmt kind running sound calm
    subst hfmt
    obtain ⟨final, refused, partial', records⟩ := exec_coll (line := line) (be := be) (data := data) here launch hn kind running sound calm
    obtain ⟨storeRefused, store⟩ := engineStore_checked (s := s) (t := t) (line := line) data be 0
    refine ⟨fun c h => ⟨by rw [final, storeRefused c h], refused c h⟩, fun h near => by rw [final, store h near], fun h => ?_,
      (records recs).1, (records recs).2⟩
    rw [partial' h]
    refine ⟨fun legal own => by rw [collPart_within legal own], fun g group across => ⟨fun form => by rw [collPart_staged group across form],
      fun form v u hv hu => by rw [collPart_ring group across form hv hu]⟩⟩
  · intro s t l here launch running r hr
    have closing : ∀ u, Closing s t.tag u → r u := fun u h => (hr u).2 h
    refine ⟨fun kind => ?_, fun kind => ?_⟩
    · obtain ⟨busy, failed, finished⟩ := arrives (exec_dmaDone here launch kind) here running
      refine ⟨busy, failed, fun idle sound all done => ?_⟩
      obtain ⟨flush, close⟩ := finished idle sound (decide_eq_true all) done
      exact ⟨flush, fun none => (close none).imp fun u h => ⟨h.1, closing u h.2⟩⟩
    · obtain ⟨busy, failed, finished⟩ := arrives (exec_collDone here kind) here running
      refine ⟨busy, failed, fun idle sound done => ?_⟩
      obtain ⟨flush, close⟩ := finished idle sound rfl done
      exact ⟨flush, fun none => (close none).imp fun u h => ⟨h.1, closing u h.2⟩⟩

end Sys2Proof.Machine

/-! SUPPORT. What an IOD slice does with the messages of remote devices: its copies, the requests to the peers, and the invalidation of a
partition's copies. It settles O44. -/

namespace Sys2Proof.Machine

/-! ### Reads, writes and flushes (R251, R352, R353, R443) -/

section
variable {s : State} {p tag line attr : Nat} {w : WindowCfg}

theorem exec_rdRem (unit : partOk p = true) (remote : isRemote s (128 * line) = true) (sectors : BitVec 4) :
    exec (.rdRem p tag line sectors attr) s = .next (readRemote s p tag line sectors attr) :=
  (onUnit_next ..).2 ⟨unit, if_pos remote⟩

theorem exec_wrRem (unit : partOk p = true) (remote : isRemote s (128 * line) = true) (be : BitVec 128) (data : Line) :
    exec (.wrRem p tag line be data) s = .next (writeRemote s p tag line be data) :=
  (onUnit_next ..).2 ⟨unit, if_pos remote⟩

theorem exec_flushRem (unit : partOk p = true) (remote : isRemote s (128 * line) = true) :
    exec (.flushRem p tag line) s = .next (flushRemote s p tag line) :=
  (onUnit_next ..).2 ⟨unit, if_pos remote⟩

/-- The attributes whose reads leave a copy (R251). -/
theorem leavesCopy_eq_decide : (decide (attr = 0) || decide (attr = 4)) = decide (attr ∈ [0, 4]) := by simp

theorem readRemote_hit {c : CLine} (sectors : BitVec 4) (window : windowAt s (128 * line) = some w) (cached : attr ∈ [0, 4])
    (copy : copyOf s p line = some c) :
    readRemote s p tag line sectors attr = emit s (.cohData "DATA_ONCE" tag line c.data sectors 0 0) := by
  simp only [readRemote, window, leavesCopy_eq_decide, cached, decide_true, if_true, copy]
  rfl

/-- A read that no copy serves looks for its window's state. -/
theorem copy_of_miss (miss : attr ∈ [0, 4] → copyOf s p line = none) :
    (if decide (attr ∈ [0, 4]) = true then copyOf s p line else none) = none := by
  by_cases cached : attr ∈ [0, 4]
  · rw [miss cached, ite_self]
  · exact if_neg (by simpa using cached)

theorem readRemote_refused {st : Nat} (sectors : BitVec 4) (window : windowAt s (128 * line) = some w)
    (miss : attr ∈ [0, 4] → copyOf s p line = none) (status : windowStatus s w = some st) :
    readRemote s p tag line sectors attr = refuseRead s tag st := by
  simp only [readRemote, window, leavesCopy_eq_decide, copy_of_miss miss, status]

theorem readRemote_uncached (sectors : BitVec 4) (window : windowAt s (128 * line) = some w) (uncached : attr ∉ [0, 4])
    (status : windowStatus s w = none) : readRemote s p tag line sectors attr = windowRead s w p tag line sectors false := by
  simp only [readRemote, window, leavesCopy_eq_decide, status, uncached, decide_false]
  rfl

/-- A read that is to leave a copy joins one that is under way for a copy, or asks the peer for the whole line (R353). -/
theorem readRemote_cached (sectors : BitVec 4) (window : windowAt s (128 * line) = some w) (cached : attr ∈ [0, 4])
    (miss : copyOf s p line = none) (status : windowStatus s w = none) {same : QpReq → Bool}
    (hsame : ∀ r, same r = (r.kind == 0 && r.copy && r.line == line && r.part == p)) :
    readRemote s p tag line sectors attr =
      if (qp s w.qp).sendq.any same = true then
        modQp s w.qp fun x => { x with sendq := modWhere same (fun r => { r with joined := r.joined ++ [tag] }) x.sendq }
      else windowRead s w p tag line 0xF true := by
  rw [show same = _ from funext hsame]
  simp only [readRemote, window, leavesCopy_eq_decide, miss, status, cached, decide_true, Bool.true_and, if_true]

theorem writeRemote_refused {st : Nat} (be : BitVec 128) (data : Line) (window : windowAt s (128 * line) = some w)
    (status : windowStatus s w = some st) : writeRemote s p tag line be data = answerWrite (dropCopy s p line) tag st := by
  have status' : windowStatus (dropCopy s p line) w = some st := status
  simp only [writeRemote, window, status']

theorem writeRemote_sent (be : BitVec 128) (data : Line) (window : windowAt s (128 * line) = some w) (status : windowStatus s w = none) :
    writeRemote s p tag line be data =
      if be = 0 then answerWrite (dropCopy s p line) tag 0 else windowWrite (dropCopy s p line) w p tag line be data := by
  have status' : windowStatus (dropCopy s p line) w = none := status
  simp only [writeRemote, window, status']

theorem flushRemote_refused {st : Nat} (window : windowAt s (128 * line) = some w) (status : windowStatus s w = some st) :
    flushRemote s p tag line = answerWrite s tag st := by
  simp only [flushRemote, window, status]

theorem flushRemote_sent (window : windowAt s (128 * line) = some w) (status : windowStatus s w = none) :
    flushRemote s p tag line = postRequest s w.qp { psn := 0, kind := 4, tag, part := p, line, remote := w.remote, key := w.rkey } := by
  simp only [flushRemote, window, status]

end

/-! ### Invalidation of a partition's copies (R251, R343) -/

/-- A read under way that is to leave a copy of partition `p` in slice `i`. -/
def willCopy (s : State) (p i : Nat) (r : QpReq) : Bool := r.part == p && r.copy && remoteSlice s r.line == i

/-- The requests of a queue pair once those reads leave no copy. -/
def withoutCopy (s : State) (p i : Nat) (x : Qp) : Qp := { x with sendq := modWhere (willCopy s p i) (fun r => { r with copy := false }) x.sendq }

theorem withoutCopy_again (s : State) (p i : Nat) (x : Qp) : withoutCopy s p i (withoutCopy s p i x) = withoutCopy s p i x := by
  have once : ∀ r : QpReq, willCopy s p i { r with copy := false } = false := fun r => by simp [willCopy]
  simp only [withoutCopy, modWhere, List.map_map]
  refine congrArg (fun l => { x with sendq := l }) (List.map_congr_left fun r _ => ?_)
  rw [Function.comp_apply]
  by_cases h : willCopy s p i r = true
  · rw [if_pos h, if_neg (by rw [once]; decide)]
  · rw [if_neg h, if_neg h]

theorem mem_withoutCopy {s : State} {p i : Nat} {x : Qp} {r : QpReq} (h : r ∈ (withoutCopy s p i x).sendq) :
    ∃ r' ∈ x.sendq, (willCopy s p i r' = false ∧ r = r') ∨ (r'.part = p ∧ r = { r' with copy := false }) := by
  obtain ⟨r', here, rfl⟩ := List.mem_map.1 h
  refine ⟨r', here, ?_⟩
  cases stale : willCopy s p i r' with
  | false => exact .inl ⟨rfl, rfl⟩
  | true =>
    simp only [willCopy, Bool.and_eq_true, beq_iff_eq] at stale
    exact .inr ⟨stale.1.1, rfl⟩

/-- The queue pairs of a partition's windows, one window after the other. -/
def withoutCopies (s : State) (p i : Nat) (ws : List WindowCfg) (u : State) : State :=
  ws.foldl (fun u w => if w.part = p then modQp u w.qp (withoutCopy s p i) else u) u

/-- The state without its queue pairs. -/
def offQps (s : State) : State := { s with qps := [] }

theorem offQps_withoutCopies (s : State) (p i : Nat) (ws : List WindowCfg) (u : State) : offQps (withoutCopies s p i ws u) = offQps u := by
  induction ws generalizing u with
  | nil => rfl
  | cons w ws ih =>
    refine (ih _).trans ?_
    dsimp only
    split_ifs <;> rfl

theorem qp_withoutCopies (s : State) (p i : Nat) (ws : List WindowCfg) (u : State) (q : Nat) :
    qp (withoutCopies s p i ws u) q = if ∃ w ∈ ws, w.part = p ∧ w.qp = q then withoutCopy s p i (qp u q) else qp u q := by
  induction ws generalizing u with
  | nil => simp [withoutCopies]
  | cons w ws ih =>
    have first : qp (if w.part = p then modQp u w.qp (withoutCopy s p i) else u) q =
        if w.part = p ∧ w.qp = q then withoutCopy s p i (qp u q) else qp u q := by
      by_cases own : w.part = p
      · rw [if_pos own, modQp, qp_setQp]
        by_cases at' : q = w.qp
        · rw [if_pos at', if_pos ⟨own, at'.symm⟩, at']
        · rw [if_neg at', if_neg fun h => at' h.2.symm]
      · rw [if_neg own, if_neg fun h => own h.1]
    refine (ih _).trans ?_
    rw [first]
    simp only [List.exists_mem_cons_iff]
    by_cases now : w.part = p ∧ w.qp = q <;> by_cases later : ∃ w ∈ ws, w.part = p ∧ w.qp = q <;>
      simp [now, later, withoutCopy_again]

theorem dropCopies_eq (s : State) (p i : Nat) : dropCopies s p i = withoutCopies s p i s.image.windows
    (modSlice s i fun sl => { sl with lines := dropWhere (fun c => c.remote == some p) sl.lines }) := rfl

theorem offQps_dropCopies (s : State) (p i : Nat) : offQps (dropCopies s p i) =
    offQps (modSlice s i fun sl => { sl with lines := dropWhere (fun c => c.remote == some p) sl.lines }) :=
  offQps_withoutCopies ..

theorem sliceOf_dropCopies (s : State) (p i j : Nat) : sliceOf (dropCopies s p i) j =
    if j = i then { sliceOf s i with lines := dropWhere (fun c => c.remote == some p) (sliceOf s i).lines } else sliceOf s j :=
  (congrArg (sliceOf · j) (offQps_dropCopies s p i) : sliceOf (offQps _) j = sliceOf (offQps _) j).trans (sliceOf_setSlice ..)

theorem qp_dropCopies (s : State) (p i q : Nat) : qp (dropCopies s p i) q =
    if ∃ w ∈ s.image.windows, w.part = p ∧ w.qp = q then withoutCopy s p i (qp s q) else qp s q :=
  qp_withoutCopies ..

theorem exec_invRem {s : State} {p sid : Nat} (tag : Nat) (unit : partOk p = true) (slice : sliceOk sid = true) (iod : 128 ≤ sid) :
    exec (.invRem p sid tag) s = .next (emit (dropCopies s p sid) (.ack (.access tag) 0)) :=
  (onUnit_next ..).2 ⟨by rw [unit, slice]; rfl, if_pos iod⟩

/-- Settles O44, a case of a read, a write or a flush for each state of the window, and by what INV_REM leaves of slices and queue pairs. -/
theorem remoteDevices : Obligations.RemoteDevices := by
  unfold Obligations.RemoteDevices
  refine ⟨fun s p tag line attr sectors be data unit remote => ?_, fun s p sid tag unit slice iod => ⟨_, exec_invRem tag unit slice iod, ?_⟩⟩
  · rw [exec_rdRem unit remote, exec_wrRem unit remote, exec_flushRem unit remote]
    refine ⟨fun none => ?_, fun w window => ⟨fun c cached copy => by rw [readRemote_hit sectors window cached copy],
      fun st status => ⟨fun miss => ?_, ?_, ?_⟩, fun status => ⟨fun uncached => ?_, fun cached miss same hsame => ?_, fun some => ?_,
      fun empty => ?_, ?_⟩⟩⟩
    · simp only [readRemote, writeRemote, flushRemote, none]
      exact ⟨rfl, rfl, rfl⟩
    · rw [readRemote_refused sectors window miss status, refuseRead]
    · rw [writeRemote_refused be data window status, answerWrite]
    · rw [flushRemote_refused window status, answerWrite]
    · rw [readRemote_uncached sectors window uncached status]
    · rw [readRemote_cached sectors window cached miss status hsame]
      exact ⟨fun alone => by rw [if_neg (by simp [alone])], fun joins => by rw [if_pos joins]; rfl⟩
    · rw [writeRemote_sent be data window status, if_neg some]
    · rw [writeRemote_sent be data window status, if_pos empty, answerWrite]
    · rw [flushRemote_sent window status]
  · simp only [sliceOf_emit, show ∀ t o q, qp (emit t o) q = qp t q from fun _ _ _ => rfl]
    refine ⟨fun c => ?_, fun i other => ?_, fun q r here => ?_, fun w window own r here mine at' => ?_, ?_, ?_⟩
    · rw [sliceOf_dropCopies, if_pos rfl, mem_dropWhere]
      simp
    · rw [sliceOf_dropCopies, if_neg other]
    · rw [qp_dropCopies] at here
      split_ifs at here
      · obtain ⟨r', before, ⟨-, same⟩ | ⟨own, forgets⟩⟩ := mem_withoutCopy here
        · exact ⟨r', before, .inl same⟩
        · exact ⟨r', before, .inr ⟨forgets, own⟩⟩
      · exact ⟨r, here, .inl rfl⟩
    · rw [qp_dropCopies, if_pos ⟨w, window, own, rfl⟩] at here
      obtain ⟨r', -, ⟨fresh, rfl⟩ | ⟨-, rfl⟩⟩ := mem_withoutCopy here
      · simpa [willCopy, mine, at'] using fresh
      · rfl
    · exact congrArg (·.out ++ [.ack (.access tag) 0]) (offQps_dropCopies s p sid)
    · exact congrArg (·.mem) (offQps_dropCopies s p sid)

end Sys2Proof.Machine

/-! SUPPORT. Slices at which nothing waits, messages with data, and the tag of a line that is placed, whatever its partition. -/

namespace Sys2Proof.Machine

/-! ### What waits at a slice (R291, R294) -/

/-- The requests that wait at a slice's home agent, the accesses that wait at its input, and whether it is being emptied. -/
def inputOf (i : Nat) (s : State) : List (Nat × HomeReq) × List Nat × Bool :=
  ((sliceOf s i).waiting, (sliceOf s i).stalled, (sliceOf s i).draining)

theorem quiet_iff {s : State} {i : Nat} : Quiet s i ↔ inputOf i s = ([], [], false) :=
  ⟨fun h => by rw [inputOf, h.waiting, h.stalled, h.draining],
    fun h => ⟨congrArg (·.1) h, congrArg (·.2.1) h, congrArg (·.2.2) h⟩⟩

theorem inputOf_modSlice (i : Nat) {s : State} {j : Nat} {f : Slice → Slice}
    (keep : ∀ sl, ((f sl).waiting, (f sl).stalled, (f sl).draining) = (sl.waiting, sl.stalled, sl.draining)) :
    inputOf i (modSlice s j f) = inputOf i s := by
  unfold inputOf
  rw [modSlice, sliceOf_setSlice]
  split_ifs with same
  · rw [keep, same]
  · rfl

theorem inputOf_of_offTags {s t : State} {i : Nat} (h : offTags i t = offTags i s) : inputOf i t = inputOf i s :=
  congrArg (fun x => (x.2.waiting, x.2.stalled, x.2.draining)) h

theorem miss_of_offTags {s t : State} {i : Nat} (h : offTags i t = offTags i s) (line : Nat) :
    findMiss (sliceOf t i) line = findMiss (sliceOf s i) line :=
  congrArg (fun x => findMiss x.2 line) h

/-- Two states that hold the same slices and agree in all else. -/
structure SameSlices (s t : State) : Prop where
  rest : { s with slices := [] } = { t with slices := [] }
  slices : ∀ j, sliceOf t j = sliceOf s j

theorem SameSlices.out {s t : State} (h : SameSlices s t) : t.out = s.out := (congrArg State.out h.rest).symm
theorem SameSlices.mem {s t : State} (h : SameSlices s t) : t.mem = s.mem := (congrArg State.mem h.rest).symm
theorem SameSlices.accs {s t : State} (h : SameSlices s t) : t.accs = s.accs := (congrArg State.accs h.rest).symm

/-- Nothing is tried again at a slice where nothing waits. -/
theorem wake_quiet {s u : State} {i : Nat} (quiet : Quiet s i) (input : inputOf i u = inputOf i s) : SameSlices u (wake u i) := by
  obtain ⟨waiting, stalled, draining⟩ := quiet_iff.2 (input.trans (quiet_iff.1 quiet))
  have settled : wake u i = modSlice (modSlice u i fun sl => { sl with waiting := [] }) i fun sl => { sl with stalled := [] } := by
    have idle : drainStep u i = u := if_pos (by simp [draining])
    rw [wake, idle, serveWaiting, waiting]
    simp only [List.foldl_nil, sliceOf_modSlice, stalled]
  refine ⟨by rw [settled]; rfl, fun j => ?_⟩
  rw [settled]
  simp only [modSlice, sliceOf_setSlice]
  by_cases here : j = i
  · subst here
    simp only [if_true, ← waiting, ← stalled]
  · rw [if_neg here, if_neg here]

/-! ### Messages with data (R228) -/

/-- The message that carries data between two slices. -/
def dataOut (name : String) (dest line : Nat) (v : Line) (sectors : BitVec 4) (p : W32) : Out :=
  if sectors = 0xF#4 then .cohData name dest line v (cmpSectors (cmpOf v)) p (cmpOf v) else .cohData name dest line v sectors p 0

theorem sendData_eq (s : State) (name : String) (dest line : Nat) (v : Line) (sectors : BitVec 4) (p : W32) :
    sendData s name dest line v sectors p = emit s (dataOut name dest line v sectors p) := by
  unfold sendData dataOut
  split_ifs <;> rfl

/-- The messages that the requesters of a miss entry get (R237). -/
def fills (i : Nat) (m : Miss) (v : Line) (p : W32) : List Out :=
  (if m.dies = 0 then [] else [.fill "DATA_S" agentSlice (m.dies.setWidth 9) (bit16 (i % 16)) m.line v (cmpSectors (cmpOf v)) p (cmpOf v)]) ++
  (if m.cores = 0 then [] else [.fill "CLUSTER_FILL" agentCores (bit9 (i / 16)) m.cores m.line v 0xF p 0]) ++
  (if m.readCaches = 0 then [] else [.fill "CLUSTER_FILL" agentMemory (bit9 (i / 16)) m.readCaches m.line v 0xF p 0]) ++
  m.others.map fun n => .cohData "DATA_ONCE" n m.line v 0xF p 0

theorem emits_nil (s : State) : emits s [] = s := by rw [emits, List.append_nil]
theorem emits_emits (s : State) (a b : List Out) : emits (emits s a) b = emits s (a ++ b) := by simp only [emits, List.append_assoc]

theorem foldl_emit {β : Type} (f : β → Out) (l : List β) (s : State) : l.foldl (fun s b => emit s (f b)) s = emits s (l.map f) := by
  induction l generalizing s with
  | nil => exact (emits_nil s).symm
  | cons b l ih =>
    rw [List.foldl_cons, ih, List.map_cons]
    exact emits_emits s [f b] _

theorem sendFills_eq (s : State) (i : Nat) (m : Miss) (v : Line) (p : W32) : sendFills s i m v p = emits s (fills i m v p) := by
  have some : ∀ (c : Prop) [Decidable c] (t : State) (o : Out), (if c then t else emit t o) = emits t (if c then [] else [o]) := fun c _ t o => by
    split_ifs
    · exact (emits_nil t).symm
    · rfl
  unfold sendFills
  simp only [some, sendRaw]
  rw [foldl_emit, emits_emits, emits_emits, emits_emits]
  simp only [fills, List.append_assoc]

theorem fills_none (i line : Nat) (v : Line) (p : W32) : fills i { line } v p = [] := rfl

section
variable (i : Nat) {m : Miss} (v : Line) (p : W32)

theorem coresFill_mem (waits : m.cores ≠ 0) : .fill "CLUSTER_FILL" agentCores (bit9 (i / 16)) m.cores m.line v 0xF p 0 ∈ fills i m v p := by
  simp only [fills, if_neg waits, List.mem_append, List.mem_singleton, or_true, true_or]

theorem readFill_mem (waits : m.readCaches ≠ 0) : .fill "CLUSTER_FILL" agentMemory (bit9 (i / 16)) m.readCaches m.line v 0xF p 0 ∈ fills i m v p := by
  simp only [fills, if_neg waits, List.mem_append, List.mem_singleton, or_true, true_or]

theorem diesFill_mem (waits : m.dies ≠ 0) :
    .fill "DATA_S" agentSlice (m.dies.setWidth 9) (bit16 (i % 16)) m.line v (cmpSectors (cmpOf v)) p (cmpOf v) ∈ fills i m v p := by
  simp only [fills, if_neg waits, List.mem_append, List.mem_singleton, true_or]

theorem onceFill_mem {n : Nat} (waits : n ∈ m.others) : .cohData "DATA_ONCE" n m.line v 0xF p 0 ∈ fills i m v p :=
  List.mem_append_right _ (List.mem_map_of_mem waits)

end

/-! ### The tag of a placed line (R227, R237) -/

/-- A line's content: what it keeps of itself wherever it is placed. -/
def contentOf (c : CLine) : CLine := { c with slots := [], pins := 0, hold := false, age := 0 }

section
variable {ls : List CLine} {c : CLine} (alike : ∀ x ∈ ls, x.line = c.line → x.remote = c.remote)
include alike

theorem sameTag_of_alike {x : CLine} (hx : x ∈ ls) : sameTag c x = (x.line == c.line) := by
  unfold sameTag
  by_cases h : x.line = c.line
  · simp [h, alike x hx h]
  · simp [beq_eq_false_iff_ne.2 h, beq_eq_false_iff_ne.2 (Ne.symm h)]

theorem dropWhere_of_alike : dropWhere (sameTag c) ls = ls.filter fun x => x.line != c.line :=
  List.filter_congr fun _ hx => by rw [sameTag_of_alike alike hx]; rfl

end

theorem contentOf_retagged (ls : List CLine) (c : CLine) : contentOf (retagged ls c) = contentOf (layout c) := by
  unfold retagged
  split <;> rfl

theorem lineSlots_le (c : CLine) : lineSlots c ≤ 4 := by
  unfold lineSlots cmpSlots
  split_ifs
  · exact le_rfl
  · split <;> decide

section
variable {s : State} {i : Nat} {c : CLine} (alike : ∀ x ∈ (sliceOf s i).lines, x.line = c.line → x.remote = c.remote)
include alike

theorem lines_untagged_of_alike {x : CLine} (line : x.line = c.line) (remote : x.remote = c.remote) :
    (sliceOf (untagged s i x) i).lines = (sliceOf s i).lines.filter fun y => y.line != c.line := by
  rw [untagged, sliceOf_modSlice, ← line]
  exact dropWhere_of_alike (by rwa [line, remote])

/-- A placed line is the only tag of its line, in the layout that its content asks for. -/
theorem tagsOf_placeLine {t : State} (h : placeLine s i c = some t) :
    ∃ y, tagsOf (sliceOf t i) c.line = [y] ∧ contentOf y = contentOf (layout c) := by
  obtain ⟨line, remote, -⟩ := retagged_spec (sliceOf s i).lines c
  have content := contentOf_retagged (sliceOf s i).lines c
  rw [placeLine_eq s i rfl] at h
  generalize retagged (sliceOf s i).lines c = x at h line remote content
  split_ifs at h
  obtain ⟨u, room, rfl⟩ := Option.map_eq_some_iff.1 h
  have emptied : ∀ y ∈ (sliceOf (untagged s i x) i).lines, y.line ≠ x.line := fun y hy => by
    rw [lines_untagged_of_alike alike line remote] at hy
    simpa [line] using (List.mem_filter.1 hy).2
  obtain ⟨off, -, -, -⟩ := makeRoom_spec room emptied
  have absent : ((sliceOf u i).lines.filter fun y => y.line == c.line) = [] :=
    List.filter_eq_nil_iff.2 fun y hy => by simpa [line] using off y hy
  refine ⟨{ grantSlots s.variant i x (sliceOf u i).lines with age := 0 }, ?_, content⟩
  rw [tagsOf, sliceOf_modSlice, useLine_new (c := grantSlots s.variant i x (sliceOf u i).lines) off, List.filter_append,
    filter_older (p := fun l => l == c.line), absent]
  exact List.filter_cons_of_pos (p := fun y : CLine => y.line == c.line) (beq_iff_eq.2 line)

theorem findLine_placeLine {t : State} (h : placeLine s i c = some t) :
    ∃ y, findLine (sliceOf t i) c.line = some y ∧ contentOf y = contentOf (layout c) := by
  obtain ⟨y, tags, content⟩ := tagsOf_placeLine alike h
  exact ⟨y, findLine_of_tags (o := some y) tags, content⟩

/-- A line whose set has four slots and a tag beside the other lines is placed in an enabled slice. -/
theorem placeLine_of_roomy (enabled : (sliceOf s i).enabled = true) (room : Roomy s i c.line) : ∃ t, placeLine s i c = some t := by
  obtain ⟨line, remote, -⟩ := retagged_spec (sliceOf s i).lines c
  rw [placeLine_eq s i rfl]
  generalize retagged (sliceOf s i).lines c = x at line remote ⊢
  have few := lineSlots_le x
  have fits : makeRoom i (setIn s.variant i (128 * x.line)) (lineSlots x) 33 (untagged s i x) = some (untagged s i x) := by
    rw [makeRoom, lines_untagged_of_alike alike line remote, line]
    refine if_pos ?_
    obtain ⟨slots, tags⟩ := room
    rw [Bool.and_eq_true, decide_eq_true_iff, decide_eq_true_iff]
    exact ⟨le_trans (Nat.add_le_add_left few _) slots, tags⟩
  rw [enabled, fits]
  exact ⟨_, rfl⟩

end

end Sys2Proof.Machine

/-! SUPPORT. How a proxy answers the snoops of a line's home, and what it does with fills and grants. It settles O46. -/

namespace Sys2Proof.Machine

/-! ### The rows (R293, R295, R296) -/

section
variable {s : State} {d line i : Nat}

/-- A message at the proxy of a line, once the row is known. -/
theorem atProxy_next (unit : computeDieOk d = true) (proxy : proxyOf s d line = some i) (f : Nat → State) :
    onUnit (computeDieOk d) (atProxy s d line f) = .next (wake (f i) i) :=
  (onUnit_next ..).2 ⟨unit, by rw [atProxy, proxy]⟩

/-- The die of a proxy is the one that the message names. -/
theorem die_of_proxy (proxy : proxyOf s d line = some i) : i / 16 = d := by
  obtain ⟨h, -, rfl⟩ := Option.map_eq_some_iff.1 proxy
  omega

/-! ### SDATA (R296, R299) -/

theorem sendSdata_eq (s : State) (d line : Nat) (v : Line) (dirty : BitVec 4) (p : W32) : ∃ u, sendSdata s d line v dirty p =
    emit u (dataOut "SDATA" d line v dirty p) ∧ u.out = s.out ∧ u.mem = s.mem ∧
      ∀ j, { sliceOf u j with txns := [] } = { sliceOf s j with txns := [] } := by
  unfold sendSdata
  rw [sendData_eq]
  refine ⟨_, rfl, ?_⟩
  split
  · next h _ =>
    refine ⟨rfl, rfl, fun j => ?_⟩
    rw [modSlice, sliceOf_setSlice]
    split_ifs with same
    · rw [same]
    · rfl
  · exact ⟨rfl, rfl, fun _ => rfl⟩

/-- What a snoop that finds dirty data, or none, leaves: the data goes back, or `o` is the answer (R296). -/
def answered (s : State) (d line : Nat) (c : CLine) (o : Out) : State :=
  if c.dirty ≠ 0 then sendSdata s d line c.data c.dirty c.poison else emit s o

/-- An answer of a proxy sends `sent` and leaves memory, what waits, the tags and the spoil buffer as they were. -/
structure Answers (s u : State) (sent : Out) : Prop where
  out : u.out = s.out ++ [sent]
  mem : u.mem = s.mem
  slices : ∀ j, { sliceOf u j with txns := [] } = { sliceOf s j with txns := [] }

theorem answers_emit (s : State) (o : Out) : Answers s (emit s o) o := ⟨rfl, rfl, fun _ => rfl⟩

theorem answers_sendSdata (s : State) (d line : Nat) (v : Line) (dirty : BitVec 4) (p : W32) :
    Answers s (sendSdata s d line v dirty p) (dataOut "SDATA" d line v dirty p) := by
  obtain ⟨u, eq, out, mem, slices⟩ := sendSdata_eq s d line v dirty p
  rw [eq]
  exact ⟨by rw [emit, out], mem, slices⟩

theorem answers_answered (s : State) (d line : Nat) (c : CLine) (o : Out) :
    Answers s (answered s d line c o) (if c.dirty ≠ 0 then dataOut "SDATA" d line c.data c.dirty c.poison else o) := by
  unfold answered
  split_ifs
  · exact answers_sendSdata ..
  · exact answers_emit ..

section
variable {s u : State} {o : Out} (h : Answers s u o) (j : Nat)
include h

theorem Answers.lines : (sliceOf u j).lines = (sliceOf s j).lines := congrArg (·.lines) (h.slices j)
theorem Answers.spoil : (sliceOf u j).spoil = (sliceOf s j).spoil := congrArg (·.spoil) (h.slices j)
theorem Answers.input : inputOf j u = inputOf j s := congrArg (fun sl => (sl.waiting, sl.stalled, sl.draining)) (h.slices j)
theorem Answers.findLine (line : Nat) : findLine (sliceOf u j) line = findLine (sliceOf s j) line := by
  rw [Machine.findLine, Machine.findLine, h.lines]

end

/-! ### Answers to snoops (R289, R295, R296) -/

/-- The three ways to answer a snoop of a proxy. -/
def snoopAnswers : List (State → Nat → Nat → Nat → State) := [snoopShare, snoopInvalidate, snoopRead]

theorem copy_filter {o : Option CLine} : (o.filter fun c => c.valid ≠ 0) = none ↔ ∀ c, o = some c → c.valid = 0 := by
  cases o <;> simp [Option.filter]

theorem copy_filter_some {o : Option CLine} {c : CLine} (found : o = some c) (valid : c.valid ≠ 0) : (o.filter fun c => c.valid ≠ 0) = some c := by
  subst found
  simpa [Option.filter] using valid

/-- Without a copy every snoop is answered with SACK_I. -/
theorem snoop_without_copy {f : State → Nat → Nat → Nat → State} (hf : f ∈ snoopAnswers) (spoil : findSpoil (sliceOf s i) line = none)
    (copy : ∀ c, findLine (sliceOf s i) line = some c → c.valid = 0) : f s i d line = emit s (.coh "SACK_I" d line) := by
  have none := copy_filter.2 copy
  simp only [snoopAnswers, List.mem_cons, List.mem_nil_iff, or_false] at hf
  rcases hf with rfl | rfl | rfl
  · simp only [snoopShare, spoil, none]
  · simp only [snoopInvalidate, spoil, none]
  · simp only [snoopRead, spoil, none]

/-- A copy that waits in the spoil buffer answers every snoop. -/
theorem snoop_spoil {f : State → Nat → Nat → Nat → State} (hf : f ∈ snoopAnswers) {e : Spoil} (spoil : findSpoil (sliceOf s i) line = some e) :
    f s i d line = snoopSpoil s i d line e := by
  simp only [snoopAnswers, List.mem_cons, List.mem_nil_iff, or_false] at hf
  rcases hf with rfl | rfl | rfl
  · simp only [snoopShare, spoil]
  · simp only [snoopInvalidate, spoil]
  · simp only [snoopRead, spoil]

/-- Its data goes back, and it leaves the buffer unless it is departing (R296). -/
theorem snoopSpoil_spec (s : State) (i d line : Nat) (e : Spoil) : ∃ u, Answers u (snoopSpoil s i d line e) (dataOut "SDATA" d line e.data e.dirty e.poison) ∧
    u.out = s.out ∧ u.mem = s.mem ∧ inputOf i u = inputOf i s ∧
    (sliceOf u i).spoil = if e.departing then (sliceOf s i).spoil else dropWhere (fun x => x.line == line && !x.departing) (sliceOf s i).spoil := by
  refine ⟨_, answers_sendSdata .., ?_⟩
  split_ifs
  · exact ⟨rfl, rfl, rfl, rfl⟩
  · exact ⟨rfl, rfl, inputOf_modSlice i fun _ => rfl, by rw [sliceOf_modSlice]⟩

section
variable {c : CLine} (spoil : findSpoil (sliceOf s i) line = none) (found : findLine (sliceOf s i) line = some c) (valid : c.valid ≠ 0)
include spoil found valid

theorem snoopInvalidate_copy : snoopInvalidate s i d line = answered (loseLine s i line) d line c (.coh "SACK_I" d line) := by
  simp only [snoopInvalidate, spoil, copy_filter_some found valid, answered]

theorem snoopShare_copy : snoopShare s i d line = answered (setLine s i { c with st := .s, dirty := 0 }) d line c (.coh "SACK_S" d line) := by
  simp only [snoopShare, spoil, copy_filter_some found valid, answered]

theorem snoopRead_copy : snoopRead s i d line = sendSdata s d line c.data c.dirty c.poison := by
  simp only [snoopRead, spoil, copy_filter_some found valid]

end

theorem findLine_loseLine {x : CLine} (found : findLine (sliceOf (loseLine s i line) i) line = some x) : x.valid = 0 := by
  rw [loseLine, sliceOf_modSlice] at found
  obtain ⟨c, -, rfl⟩ := List.mem_map.1 (List.mem_of_find?_eq_some found)
  have named := line_of_findLine found
  by_cases ours : c.line = line
  · rw [if_pos (beq_iff_eq.2 ours)]
  · rw [if_neg (by simpa using ours)] at named
    exact absurd named ours

theorem findLine_setLine {c x : CLine} (found : findLine (sliceOf s i) line = some c) (same : x.line = line) :
    findLine (sliceOf (setLine s i x) i) line = some x := by
  rw [setLine, sliceOf_modSlice, same]
  exact (find?_modWhere (fun _ _ => by simpa using same) _).trans (by rw [show List.find? _ _ = _ from found]; rfl)

end

/-- An answer stays what it is when what waits at the slice is tried again. -/
theorem Answers.woken {s w u : State} {i : Nat} {sent : Out} (h : Answers w u sent) (quiet : Quiet s i) (input : inputOf i w = inputOf i s) :
    Answers w (wake u i) sent := by
  have same := wake_quiet quiet ((h.input i).trans input)
  exact ⟨same.out.trans h.out, same.mem.trans h.mem, fun j => (congrArg (fun sl : Slice => { sl with txns := [] }) (same.slices j)).trans (h.slices j)⟩

/-- What BINV does at a proxy: a pinned copy stays (R247, R289). -/
def backInvalidate (s : State) (i d line : Nat) : State :=
  if ((findLine (sliceOf s i) line).map fun c => c.pins != 0 && c.valid != 0).getD false then emit s (.coh "SACK_S" d line)
  else snoopInvalidate s i d line

section
variable {s : State} {d line i : Nat}

theorem backInvalidate_pinned {c : CLine} (found : findLine (sliceOf s i) line = some c) (valid : c.valid ≠ 0) (pinned : c.pins ≠ 0) :
    backInvalidate s i d line = emit s (.coh "SACK_S" d line) :=
  if_pos (by simp [found, pinned]; simpa using valid)

theorem backInvalidate_unpinned (free : ∀ c, findLine (sliceOf s i) line = some c → c.valid ≠ 0 → c.pins = 0) :
    backInvalidate s i d line = snoopInvalidate s i d line := by
  refine if_neg ?_
  cases found : findLine (sliceOf s i) line with
  | none => decide
  | some c =>
    by_cases valid : c.valid = 0
    · simp [valid]
    · simp [free c found valid]

variable (unit : computeDieOk d = true) (proxy : proxyOf s d line = some i)
include unit proxy

theorem exec_snpS : exec (.snpS d line) s = .next (wake (snoopShare s i d line) i) := atProxy_next unit proxy fun i => snoopShare s i d line
theorem exec_snpI : exec (.snpI d line) s = .next (wake (snoopInvalidate s i d line) i) :=
  atProxy_next unit proxy fun i => snoopInvalidate s i d line
theorem exec_snpR : exec (.snpR d line) s = .next (wake (snoopRead s i d line) i) := atProxy_next unit proxy fun i => snoopRead s i d line
theorem exec_binv : exec (.binv d line) s = .next (wake (backInvalidate s i d line) i) :=
  atProxy_next unit proxy fun i => backInvalidate s i d line

end

/-! ### The stores that waited (R237, R293) -/

theorem serveStores_spec (i : Nat) (tags : List Nat) (s : State) : (offTags i (serveStores s i tags)).2 = (offTags i s).2 ∧
    (serveStores s i tags).accs = s.accs.filter fun a => !tags.contains a.tag := by
  induction tags generalizing s with
  | nil => exact ⟨rfl, (List.filter_eq_self.2 fun _ _ => rfl).symm⟩
  | cons n tags ih =>
    obtain ⟨slice, accs⟩ := ih (match accessOf s n with
      | some a => dropAccess ((writeCopy s i a).getD s) n
      | none => s)
    have step : serveStores s i (n :: tags) = serveStores (match accessOf s n with
      | some a => dropAccess ((writeCopy s i a).getD s) n
      | none => s) i tags := rfl
    rw [step, slice, accs]
    cases found : accessOf s n with
    | none =>
      refine ⟨rfl, List.filter_congr fun a here => ?_⟩
      have other : (a.tag == n) = false := by simpa using List.find?_eq_none.1 found a here
      rw [List.contains_cons, other, Bool.false_or]
    | some a =>
      have copied : offTags i ((writeCopy s i a).getD s) = offTags i s := by
        cases written : writeCopy s i a with
        | none => rfl
        | some t =>
          unfold writeCopy mergeCopy at written
          split at written
          · cases written; rfl
          · exact offTags_placeLine written
      refine ⟨congrArg (·.2) copied, ?_⟩
      change (dropWhere _ ((writeCopy s i a).getD s).accs).filter _ = _
      rw [accs_of_offTags copied, dropWhere, List.filter_filter]
      refine List.filter_congr fun b _ => ?_
      rw [List.contains_cons, Bool.not_or, Bool.and_comm]

/-- The miss entry of a line closes: its stores are performed, and the line is let go. -/
def serveMiss (s : State) (i line : Nat) (stores : List Nat) : State := releaseLine (serveStores (dropMiss s i line) i stores) i line

theorem inputOf_dropMiss (s : State) (i line : Nat) : inputOf i (dropMiss s i line) = inputOf i s := inputOf_modSlice i fun _ => rfl

theorem findMiss_dropMiss (s : State) (i line : Nat) : findMiss (sliceOf (dropMiss s i line) i) line = none := by
  rw [dropMiss, sliceOf_modSlice]
  exact List.find?_eq_none.2 fun m here => by simpa using (List.mem_filter.1 here).2

section
variable (s : State) (i line : Nat) (stores : List Nat)

theorem beside_serveMiss : (offTags i (serveMiss s i line stores)).2 = (offTags i (dropMiss s i line)).2 := by
  refine (congrArg (·.2) (offTags_modSlice ?_)).trans (serveStores_spec ..).1
  intro; rfl

theorem inputOf_serveMiss : inputOf i (serveMiss s i line stores) = inputOf i s :=
  (congrArg (fun sl => (sl.waiting, sl.stalled, sl.draining)) (beside_serveMiss s i line stores) :
    inputOf i _ = inputOf i (dropMiss s i line)).trans (inputOf_dropMiss ..)

theorem findMiss_serveMiss : findMiss (sliceOf (serveMiss s i line stores) i) line = none :=
  (congrArg (findMiss · line) (beside_serveMiss s i line stores) :
    findMiss (offTags i _).2 line = findMiss (offTags i (dropMiss s i line)).2 line).trans (findMiss_dropMiss ..)

theorem accessOf_serveMiss {n : Nat} (served : n ∈ stores) : accessOf (serveMiss s i line stores) n = none := by
  have accs : (serveMiss s i line stores).accs = s.accs.filter fun a => !stores.contains a.tag := (serveStores_spec i stores (dropMiss s i line)).2
  rw [accessOf, accs]
  refine List.find?_eq_none.2 fun a here ours => ?_
  have left := (List.mem_filter.1 here).2
  rw [beq_iff_eq.1 ours, List.contains_iff_mem.2 served] at left
  cases left

theorem out_serveMiss : s.out <+: (serveMiss s i line stores).out :=
  (kept_releaseLine (kept_serveStores (kept_dropMiss Kept.rfl))).out

end
/-- Of a line that is let go the tag keeps its content. -/
theorem findLine_releaseLine {s : State} {i line : Nat} {y : CLine} (only : tagsOf (sliceOf s i) line = [y]) (valid : y.valid ≠ 0) :
    ∃ x, findLine (sliceOf (releaseLine s i line) i) line = some x ∧ contentOf x = contentOf y := by
  refine ⟨unheld y, findLine_of_tags (o := some (unheld y)) ?_, rfl⟩
  rw [tagsOf_releaseLine, only]
  exact List.filter_cons_of_pos (by simpa [staysTag, unheld] using .inl (.inr valid))

/-! ### Fills (R237, R241, R291, R293) -/

/-- The copy that a fill brings. -/
def filled (line : Nat) (st : CohState) (v : Line) (q : W32) : CLine :=
  { line, st, valid := 0xF, dirty := if st = .m then 0xF else 0, data := v, poison := q }

/-- The miss entry of a line of which only the stores are left to serve. -/
def storesOnly (m : Miss) : Miss := { m with cores := 0, readCaches := 0, others := [] }

/-- The miss entry that a fill serves, an empty one where there is none. -/
def missAt (s : State) (i line : Nat) : Miss := (findMiss (sliceOf s i) line).getD { line }

section
variable {s u : State} {i line : Nat} {st : CohState} {v : Line} {q : W32}

theorem proxyFill_placed (enabled : (sliceOf s i).enabled = true) (placed : placeLine s i (filled line st v q) = some u) :
    proxyFill s i line st v q =
      if st = .s ∧ (missAt s i line).stores ≠ [] then
        sendRequest (modMiss (emits u (fills i (missAt s i line) v q)) i line storesOnly) i line
      else serveMiss (emits u (fills i (missAt s i line) v q)) i line (missAt s i line).stores := by
  have place : placeLine s i { line, st, valid := 0xF, dirty := if st = .m then 0xF else 0, data := v, poison := q } = some u := placed
  simp only [proxyFill, enabled, place, sendFills_eq, Option.getD_some]
  rw [if_neg (by decide)]
  refine if_congr ?_ rfl rfl
  rw [missAt, Bool.and_eq_true, decide_eq_true_iff, Bool.not_eq_true', List.isEmpty_eq_false_iff]

/-- A slice that is disabled gives the copy back (R291). -/
theorem proxyFill_disabled (disabled : (sliceOf s i).enabled = false) (miss : findMiss (sliceOf s i) line = none) :
    (proxyFill s i line st v q).out =
        s.out ++ [if st = .m then .cohData "WB" (i / 16) line v (cmpSectors (cmpOf v)) q (cmpOf v) else .coh "DROP" (i / 16) line] ∧
      inputOf i (proxyFill s i line st v q) = inputOf i s := by
  simp only [proxyFill, disabled, miss, sendFills_eq, Option.getD_none, fills_none, emits_nil, giveBack, sendData_eq]
  simp only [Bool.not_false, if_true, List.foldl_nil]
  split_ifs
  · refine ⟨rfl, Eq.trans ?_ (inputOf_dropMiss s i line)⟩
    exact inputOf_modSlice i (s := dropMiss s i line) (j := i)
      (f := fun sl => { sl with spoil := sl.spoil ++ [{ line, data := v, valid := 0xF, dirty := 0xF, poison := q, departing := true }] }) fun _ => rfl
  · exact ⟨rfl, inputOf_dropMiss s i line⟩

/-- The copy as it stands in its slice. -/
theorem content_filled {x : CLine} (content : contentOf x = contentOf (layout (filled line st v q))) :
    x.st = st ∧ x.valid = 0xF ∧ (x.dirty ≠ 0 ↔ st = .m) ∧ x.data = v ∧ x.poison = q := by
  refine ⟨congrArg CLine.st content, congrArg CLine.valid content, ?_, congrArg CLine.data content, congrArg CLine.poison content⟩
  have dirty : x.dirty = (layout (filled line st v q)).dirty := (congrArg CLine.dirty content : (contentOf x).dirty = (contentOf (layout (filled line st v q))).dirty)
  rw [dirty]
  by_cases modified : st = .m
  · simp [layout, filled, modified]
  · simp [layout, filled, modified]

theorem findMiss_modMiss {t : State} {k : Miss} {f : Miss → Miss} (keep : ∀ m, (f m).line = m.line) (found : findMiss (sliceOf t i) line = some k) :
    findMiss (sliceOf (modMiss t i line f) i) line = some (f k) := by
  rw [modMiss, sliceOf_modSlice]
  exact (find?_modWhere (fun a ha => by rw [keep]; exact ha) _).trans (by rw [show List.find? _ _ = _ from found]; rfl)

theorem findLine_modMiss {t : State} {f : Miss → Miss} : findLine (sliceOf (modMiss t i line f) i) line = findLine (sliceOf t i) line := by
  rw [modMiss, sliceOf_modSlice]
  rfl

theorem inputOf_modMiss {t : State} {f : Miss → Miss} : inputOf i (modMiss t i line f) = inputOf i t := inputOf_modSlice i fun _ => rfl

/-- With stores waiting a fill in S asks for the upgrade: the miss entry stays, for the stores alone (R295). -/
theorem sendRequest_upgrade {w : State} {m : Miss} {x : CLine} (miss : findMiss (sliceOf w i) line = some m) (stores : m.stores ≠ [])
    (found : findLine (sliceOf w i) line = some x) (shared : x.st = .s) (valid : x.valid ≠ 0) :
    ∃ t k, sendRequest (modMiss w i line storesOnly) i line = emit t (.coh "UPG" (i / 16) line) ∧
      t.out = w.out ∧ inputOf i t = inputOf i w ∧ findMiss (sliceOf t i) line = some k ∧ k.stores = m.stores ∧ k.cores = 0 ∧ k.readCaches = 0 := by
  have opened : findMiss (sliceOf (modMiss w i line storesOnly) i) line = some (storesOnly m) := findMiss_modMiss (fun _ => rfl) miss
  have held : findLine (sliceOf (modMiss w i line storesOnly) i) line = some x := findLine_modMiss.trans found
  have waits : (storesOnly m).stores.isEmpty = false := List.isEmpty_eq_false_iff.2 stores
  have owned : ((some x).map fun c : CLine => decide (c.valid ≠ 0) && c.st == .s).getD false = true := by
    rw [Option.map_some, Option.getD_some, Bool.and_eq_true, decide_eq_true_iff, shared]
    exact ⟨valid, rfl⟩
  refine ⟨modMiss (modMiss w i line storesOnly) i line fun m => { m with sent := true, since := (die (modMiss w i line storesOnly) (i / 16)).time.toNat },
    { storesOnly m with sent := true, since := (die (modMiss w i line storesOnly) (i / 16)).time.toNat }, ?_, rfl,
    inputOf_modMiss.trans inputOf_modMiss, findMiss_modMiss (fun _ => rfl) opened, rfl, rfl, rfl⟩
  simp only [sendRequest, opened, held, waits, owned]
  rfl

theorem findMiss_line {sl : Slice} {m : Miss} (found : findMiss sl line = some m) : m.line = line :=
  beq_iff_eq.1 (List.find?_some (p := fun m : Miss => m.line == line) found)

theorem missAt_of_some {m : Miss} (found : findMiss (sliceOf s i) line = some m) : missAt s i line = m := by rw [missAt, found]; rfl

theorem missAt_of_none (found : findMiss (sliceOf s i) line = none) : missAt s i line = { line } := by rw [missAt, found]; rfl

theorem stores_missAt : (missAt s i line).stores = ((findMiss (sliceOf s i) line).map (·.stores)).getD [] := by
  cases found : findMiss (sliceOf s i) line with
  | none => rw [missAt_of_none found]; rfl
  | some m => rw [missAt_of_some found]; rfl

theorem out_releaseLine (s : State) (i line : Nat) : (releaseLine s i line).out = s.out := rfl

/-- The state in which the requesters of a placed fill have been answered. -/
def replied (s u : State) (i line : Nat) (v : Line) (q : W32) : State := emits u (fills i (missAt s i line) v q)

section
variable (alike : ∀ x ∈ (sliceOf s i).lines, x.line = line → x.remote = none) (enabled : (sliceOf s i).enabled = true)
  (placed : placeLine s i (filled line st v q) = some u)
include placed

theorem inputOf_replied : inputOf i (replied s u i line v q) = inputOf i s := inputOf_of_offTags (offTags_placeLine placed :)

theorem findMiss_replied : findMiss (sliceOf (replied s u i line v q) i) line = findMiss (sliceOf s i) line :=
  miss_of_offTags (offTags_placeLine placed :) line

include alike in
theorem tagsOf_replied : ∃ y, tagsOf (sliceOf (replied s u i line v q) i) line = [y] ∧ contentOf y = contentOf (layout (filled line st v q)) :=
  (tagsOf_placeLine (c := filled line st v q) alike placed :)

include enabled in
theorem proxyFill_served (served : st ≠ .s ∨ (missAt s i line).stores = []) :
    proxyFill s i line st v q = serveMiss (replied s u i line v q) i line (missAt s i line).stores := by
  rw [proxyFill_placed enabled placed, if_neg (by rintro ⟨shared, waits⟩; exact served.elim (· shared) waits)]
  rfl

include enabled alike in
theorem proxyFill_upgrade (shared : st = .s) (waits : (missAt s i line).stores ≠ []) (miss : findMiss (sliceOf s i) line = some (missAt s i line)) :
    ∃ t k, proxyFill s i line st v q = emit t (.coh "UPG" (i / 16) line) ∧ t.out = (replied s u i line v q).out ∧ inputOf i t = inputOf i s ∧
      findMiss (sliceOf t i) line = some k ∧ k.stores = (missAt s i line).stores ∧ k.cores = 0 ∧ k.readCaches = 0 := by
  obtain ⟨y, tags, content⟩ := tagsOf_replied alike placed
  obtain ⟨state, valid, -⟩ := content_filled content
  have whole : y.valid ≠ 0 := by rw [valid]; decide
  obtain ⟨t, k, sent, out, input, found, rest⟩ := sendRequest_upgrade ((findMiss_replied placed).trans miss) waits
    (findLine_of_tags (o := some y) tags) (state.trans shared) whole
  refine ⟨t, k, ?_, out, input.trans (inputOf_replied placed), found, rest⟩
  rw [proxyFill_placed enabled placed, if_pos ⟨shared, waits⟩]
  exact sent

include enabled in
/-- The requesters of the miss entry get the line. -/
theorem fills_sent : (replied s u i line v q).out <+: (proxyFill s i line st v q).out := by
  rw [proxyFill_placed enabled placed]
  split_ifs
  · exact (kept_sendRequest (kept_modMiss Kept.rfl)).out
  · exact out_serveMiss ..

include enabled alike in
/-- Of a line for which no store waits the slice then holds the copy of the fill. -/
theorem findLine_proxyFill (none : (missAt s i line).stores = []) :
    ∃ x, findLine (sliceOf (proxyFill s i line st v q) i) line = some x ∧ contentOf x = contentOf (layout (filled line st v q)) := by
  obtain ⟨y, tags, content⟩ := tagsOf_replied alike placed
  have whole : y.valid ≠ 0 := by rw [(content_filled content).2.1]; decide
  have kept : tagsOf (sliceOf (dropMiss (replied s u i line v q) i line) i) line = [y] := by
    rw [dropMiss, sliceOf_modSlice]
    exact tags
  obtain ⟨x, found, same⟩ := findLine_releaseLine kept whole
  refine ⟨x, ?_, same.trans content⟩
  rw [proxyFill_served enabled placed (.inr none), none]
  exact found

end

/-- A fill at a proxy (R237, R241, R291, R293, R295). -/
theorem fillTaken {d : Nat} {c : Instr} (proxy : proxyOf s d line = some i) (run : exec c s = .next (wake (proxyFill s i line st v q) i)) :
    FillTaken s d line i v q c st := by
  intro quiet alike
  have die := die_of_proxy proxy
  refine ⟨_, run, fun u enabled placed => ?_, fun disabled miss => ?_⟩
  · have sent := fills_sent (v := v) (q := q) (st := st) enabled placed
    have served : (st ≠ .s ∨ (missAt s i line).stores = []) → SameSlices (proxyFill s i line st v q) (wake (proxyFill s i line st v q) i) ∧
        findMiss (sliceOf (proxyFill s i line st v q) i) line = none := fun h => by
      rw [proxyFill_served enabled placed h]
      exact ⟨wake_quiet quiet ((inputOf_serveMiss ..).trans (inputOf_replied placed)), findMiss_serveMiss ..⟩
    have gets : ∀ m, findMiss (sliceOf s i) line = some m → ∀ o ∈ fills i m v q, o ∈ (wake (proxyFill s i line st v q) i).out := fun m miss o here =>
      (sent.trans (kept_wake Kept.rfl).out).subset (by rw [replied, missAt_of_some miss]; exact List.mem_append_right _ here)
    refine ⟨fun none => ?_, fun miss => ?_, fun m miss => ⟨fun waits => ?_, fun waits => ?_, fun waits other => ?_, fun waits shared => ?_⟩⟩
    · rw [← stores_missAt] at none
      obtain ⟨same, gone⟩ := served (.inr none)
      obtain ⟨x, found, content⟩ := findLine_proxyFill alike enabled placed none
      rw [same.slices]
      exact ⟨gone, x, found, content_filled content⟩
    · have empty := missAt_of_none miss
      obtain ⟨same, -⟩ := served (.inr (by rw [empty]))
      rw [same.out, proxyFill_served enabled placed (.inr (by rw [empty])), replied, empty, fills_none, emits_nil]
      rfl
    · exact gets m miss _ (findMiss_line miss ▸ coresFill_mem i v q waits)
    · exact gets m miss _ (findMiss_line miss ▸ readFill_mem i v q waits)
    · obtain ⟨same, gone⟩ := served (.inl other)
      rw [same.slices]
      refine ⟨gone, fun n stored => ?_⟩
      rw [accessOf, same.accs, proxyFill_served enabled placed (.inl other), missAt_of_some miss]
      exact accessOf_serveMiss _ _ _ _ stored
    · have ours := missAt_of_some miss
      obtain ⟨t, k, asks, -, input, found, stores, rest⟩ := proxyFill_upgrade alike enabled placed shared (by rwa [ours]) (by rwa [ours])
      have same := wake_quiet quiet (u := proxyFill s i line st v q) (by rw [asks]; exact input)
      refine ⟨by rw [same.out, asks, die]; exact List.getLast?_concat, k, ?_, by rw [stores, ours], rest⟩
      rw [same.slices, asks]
      exact found
  · obtain ⟨out, input⟩ := proxyFill_disabled (st := st) (v := v) (q := q) disabled miss
    rw [(wake_quiet quiet input).out, out, die]

/-! ### Grants (R293) -/

/-- The state of a grant's copy: writable, and dirty where the home's data was. -/
def grantedCopy (dirty : Bool) (c : CLine) : CLine := { c with st := if dirty then .m else .e, dirty := if dirty then 0xF else 0 }

theorem findMiss_setLine (c : CLine) : findMiss (sliceOf (setLine s i c) i) line = findMiss (sliceOf s i) line := by
  rw [setLine, sliceOf_modSlice]
  rfl

section
variable {c : CLine} (b : Bool) (found : findLine (sliceOf s i) line = some c) (valid : c.valid ≠ 0)
include found valid

theorem proxyGrant_idle (miss : findMiss (sliceOf s i) line = none) : proxyGrant s i line b = setLine s i (grantedCopy b c) := by
  have beside := (findMiss_setLine (grantedCopy b c)).trans miss
  unfold grantedCopy at beside
  simp only [proxyGrant, copy_filter_some found valid, beside]
  rfl

theorem proxyGrant_waited {m : Miss} (miss : findMiss (sliceOf s i) line = some m) :
    proxyGrant s i line b = serveMiss (setLine s i (grantedCopy b c)) i line m.stores := by
  have beside := (findMiss_setLine (grantedCopy b c)).trans miss
  unfold grantedCopy at beside
  simp only [proxyGrant, copy_filter_some found valid, beside]
  rfl

end

theorem proxyGrant_absent {b : Bool} (absent : findLine (sliceOf s i) line = none) : proxyGrant s i line b = s := by
  simp only [proxyGrant, absent, Option.filter_none]

theorem inputOf_setLine (c : CLine) : inputOf i (setLine s i c) = inputOf i s := inputOf_modSlice i fun _ => rfl

/-- A grant at a proxy (R293). -/
theorem grantTaken {c : Instr} (b : Bool) (run : exec c s = .next (wake (proxyGrant s i line b) i)) :
    GrantTaken s line i c (if b then .m else .e) (if b then 0xF else 0) := by
  intro quiet
  refine ⟨_, run, fun x found valid => ?_, fun absent => ?_⟩
  · have named := line_of_findLine found
    cases miss : findMiss (sliceOf s i) line with
    | none =>
      rw [proxyGrant_idle b found valid miss]
      have same := wake_quiet quiet (u := setLine s i (grantedCopy b x)) (inputOf_setLine _)
      rw [same.slices]
      exact ⟨(findMiss_setLine _).trans miss, by rintro _ ⟨⟩, fun _ => ⟨same.out, same.mem, findLine_setLine found named⟩⟩
    | some m =>
      rw [proxyGrant_waited b found valid miss]
      have same := wake_quiet quiet ((inputOf_serveMiss (setLine s i (grantedCopy b x)) i line m.stores).trans (inputOf_setLine _))
      rw [same.slices]
      refine ⟨findMiss_serveMiss .., ?_, fun h => nomatch h⟩
      rintro _ ⟨⟩ n stored
      rw [accessOf, same.accs]
      exact accessOf_serveMiss _ _ _ _ stored
  · have same := wake_quiet quiet (u := proxyGrant s i line b) (by rw [proxyGrant_absent absent])
    rw [same.out, same.mem, same.slices, proxyGrant_absent absent]
    exact ⟨rfl, rfl, rfl⟩

end

/-! ### O46 -/

section
variable {s : State} {d line i : Nat} (unit : computeDieOk d = true) (proxy : proxyOf s d line = some i)
include unit proxy

theorem exec_dataS (v : Line) (q : W32) : exec (.dataS d line v q) s = .next (wake (proxyFill s i line .s v q) i) :=
  atProxy_next unit proxy fun i => proxyFill s i line .s v q
theorem exec_dataE (v : Line) (q : W32) : exec (.dataE d line v q) s = .next (wake (proxyFill s i line .e v q) i) :=
  atProxy_next unit proxy fun i => proxyFill s i line .e v q
theorem exec_dataM (v : Line) (q : W32) : exec (.dataM d line v q) s = .next (wake (proxyFill s i line .m v q) i) :=
  atProxy_next unit proxy fun i => proxyFill s i line .m v q
theorem exec_grantE : exec (.grantE d line) s = .next (wake (proxyGrant s i line false) i) :=
  atProxy_next unit proxy fun i => proxyGrant s i line false
theorem exec_grantM : exec (.grantM d line) s = .next (wake (proxyGrant s i line true) i) :=
  atProxy_next unit proxy fun i => proxyGrant s i line true

end

/-- An answer that a slice sends by itself leaves everything else as it is. -/
theorem woken_emit {s : State} {i : Nat} (quiet : Quiet s i) (o : Out) : (wake (emit s o) i).out = s.out ++ [o] ∧ (wake (emit s o) i).mem = s.mem ∧ sliceOf (wake (emit s o) i) i = sliceOf s i := by
  have same := wake_quiet quiet (u := emit s o) rfl
  exact ⟨same.out, same.mem, same.slices i⟩

/-- Settles O46. -/
theorem proxyMessages : Obligations.ProxyMessages := by
  unfold Obligations.ProxyMessages
  refine ⟨fun s d line i unit proxy quiet => ⟨fun spoil copy none' iff => ?_, fun c spoil found valid o sent => ?_, fun e spoil held iff => ?_⟩,
    fun s d line i v q unit proxy => ⟨fillTaken proxy (exec_dataS unit proxy v q), fillTaken proxy (exec_dataE unit proxy v q),
      fillTaken proxy (exec_dataM unit proxy v q), grantTaken false (exec_grantE unit proxy), grantTaken true (exec_grantM unit proxy)⟩⟩
  · have gone : ∀ f ∈ snoopAnswers, none' (wake (f s i d line) i) := fun f hf => by
      rw [snoop_without_copy hf spoil copy]
      exact (iff _).2 (woken_emit quiet _)
    refine ⟨⟨_, exec_snpS unit proxy, gone _ (by simp [snoopAnswers])⟩, ⟨_, exec_snpI unit proxy, gone _ (by simp [snoopAnswers])⟩,
      ⟨_, exec_snpR unit proxy, gone _ (by simp [snoopAnswers])⟩, ⟨_, exec_binv unit proxy, ?_⟩⟩
    rw [backInvalidate_unpinned fun c found valid => absurd (copy c found) valid]
    exact gone _ (by simp [snoopAnswers])
  · have back : ∀ (w : State) (x : Out), w.out = s.out → inputOf i w = inputOf i s →
        Answers w (wake (answered w d line c x) i) (if c.dirty ≠ 0 then dataOut "SDATA" d line c.data c.dirty c.poison else x) ∧
          (wake (answered w d line c x) i).out = o x := fun w x out input => by
      have answer := (answers_answered w d line c x).woken quiet input
      refine ⟨answer, answer.out.trans ?_⟩
      rw [out, sent, sendData_eq]
      split_ifs <;> rfl
    have lost := back (loseLine s i line) (.coh "SACK_I" d line) rfl (inputOf_modSlice i fun _ => rfl)
    have gone : ∀ x, findLine (sliceOf (wake (snoopInvalidate s i d line) i) i) line = some x → x.valid = 0 := fun x held => by
      rw [snoopInvalidate_copy spoil found valid, lost.1.findLine] at held
      exact findLine_loseLine held
    have taken : (wake (snoopInvalidate s i d line) i).mem = s.mem ∧ (wake (snoopInvalidate s i d line) i).out = o (.coh "SACK_I" d line) := by
      rw [snoopInvalidate_copy spoil found valid]
      exact ⟨lost.1.mem, lost.2⟩
    refine ⟨⟨_, exec_snpI unit proxy, gone, taken⟩, fun free => ⟨_, exec_binv unit proxy, ?_⟩, fun pinned => ⟨_, exec_binv unit proxy, ?_⟩,
      ⟨_, exec_snpS unit proxy, ?_⟩, ⟨_, exec_snpR unit proxy, ?_⟩⟩
    · rw [backInvalidate_unpinned fun x held _ => by rw [found, Option.some_inj] at held; rw [← held, free]]
      exact ⟨gone, taken⟩
    · rw [backInvalidate_pinned found valid pinned]
      obtain ⟨out, mem, slice⟩ := woken_emit quiet (.coh "SACK_S" d line)
      exact ⟨slice, mem, out⟩
    · rw [snoopShare_copy spoil found valid]
      obtain ⟨answer, out⟩ := back (setLine s i { c with st := .s, dirty := 0 }) (.coh "SACK_S" d line) rfl (inputOf_setLine _)
      exact ⟨(answer.findLine i line).trans (findLine_setLine found (line_of_findLine found :)), answer.mem, out⟩
    · rw [snoopRead_copy spoil found valid]
      have answer := (answers_sendSdata s d line c.data c.dirty c.poison).woken quiet rfl
      exact ⟨(answer.findLine i line).trans found, answer.mem, answer.out.trans (by rw [sendData_eq]; rfl)⟩
  · have gone : ∀ f ∈ snoopAnswers, held (wake (f s i d line) i) := fun f hf => by
      rw [snoop_spoil hf spoil]
      obtain ⟨u, answer, out, mem, input, buffer⟩ := snoopSpoil_spec s i d line e
      have woken := answer.woken quiet input
      refine (iff _).2 ⟨woken.out.trans (by rw [out, sendData_eq]; rfl), woken.mem.trans mem, fun departing => ?_, fun waiting x here named => ?_⟩
      · rw [woken.spoil, buffer, if_pos departing]
      · rw [woken.spoil, buffer, if_neg (by simp [waiting])] at here
        simpa [dropWhere, named] using (List.mem_filter.1 here).2
    refine ⟨⟨_, exec_snpS unit proxy, gone _ (by simp [snoopAnswers])⟩, ⟨_, exec_snpI unit proxy, gone _ (by simp [snoopAnswers])⟩,
      ⟨_, exec_snpR unit proxy, gone _ (by simp [snoopAnswers])⟩, fun absent => ⟨_, exec_binv unit proxy, ?_⟩⟩
    rw [backInvalidate_unpinned fun x here => nomatch absent.symm.trans here]
    exact gone _ (by simp [snoopAnswers])

end Sys2Proof.Machine

/-! SUPPORT. How a load that waits alone for its line ends: its registers hold the line's bytes, and its access is gone (R235, R332). -/

namespace Sys2Proof.Machine

/-! ### The registers of a load (R332) -/

/-- The bytes of a line that a piece of an access names. -/
def pieceValue (d : Line) (p : Piece) : Nat := (d.toNat >>> (8 * p.off)) % 2 ^ (8 * p.len)

/-- A group with the bytes of one piece in the registers of its lane. -/
def withPiece (d : Line) (x : Group) (p : Piece) : Group := writeBlock x p.lane p.reg (p.len / 4) (pieceValue d p)

/-- A piece that fills whole registers of a lane. -/
def WholePiece (p : Piece) : Prop := p.lane < 32 ∧ p.sub = none ∧ p.len ∈ [4, 8, 16] ∧ p.reg + p.len / 4 ≤ 256

theorem WholePiece.bits {p : Piece} (h : WholePiece p) : 32 * (p.len / 4) = 8 * p.len := by
  have len := h.2.2.1
  simp only [List.mem_cons, List.mem_nil_iff, or_false] at len
  omega

theorem modGroup_of_some {s : State} {g : Nat} {x : Group} (f : Group → Group) (h : group s g = some x) :
    modGroup s g f = setGroup s g (some (f x)) := by
  rw [modGroup, h]
  rfl

/-- Pieces that fill whole registers write them one after the other, and nothing else. -/
theorem writePieces_whole {gid : Nat} (d : Line) (ps : List Piece) {s : State} {x : Group} (here : group s gid = some x) (whole : ∀ p ∈ ps, WholePiece p) :
    { writePieces s gid d ps with groups := [] } = { s with groups := [] } ∧
      group (writePieces s gid d ps) gid = some (ps.foldl (withPiece d) x) := by
  induction ps generalizing s x with
  | nil => exact ⟨rfl, here⟩
  | cons p ps ih =>
    obtain ⟨lane, sub, len, -⟩ := whole p List.mem_cons_self
    have long : ¬p.len < 4 := by
      simp only [List.mem_cons, List.mem_nil_iff, or_false] at len
      omega
    have step : writePieces s gid d (p :: ps) = writePieces (setGroup s gid (some (withPiece d x p))) gid d ps := by
      simp only [writePieces, if_neg (Nat.ne_of_lt lane), sub, if_neg long, modGroup_of_some _ here]
      rfl
    rw [step]
    exact ih (by rw [group_setGroup, if_pos rfl]) fun q hq => whole q (List.mem_cons_of_mem p hq)

section
variable {d : Line}

theorem foldl_withPiece_regs (ps : List Piece) (x : Group) : ps.foldl (withPiece d) x = { x with regs := (ps.foldl (withPiece d) x).regs } := by
  induction ps generalizing x with
  | nil => rfl
  | cons p ps ih =>
    rw [List.foldl_cons, ih, withPiece, writeBlock_eq]

/-- Registers that no piece names stay. -/
theorem readReg_foldl_withPiece {ps : List Piece} (whole : ∀ p ∈ ps, WholePiece p) (x : Group) {l r : Nat} (hr : r < 256)
    (off : ∀ p ∈ ps, ¬(l = p.lane ∧ p.reg ≤ r ∧ r < p.reg + p.len / 4)) : readReg (ps.foldl (withPiece d) x) l r = readReg x l r := by
  induction ps generalizing x with
  | nil => rfl
  | cons p ps ih =>
    obtain ⟨-, -, -, fits⟩ := whole p List.mem_cons_self
    rw [List.foldl_cons, ih (fun q hq => whole q (List.mem_cons_of_mem p hq)) _ fun q hq => off q (List.mem_cons_of_mem p hq)]
    exact readReg_writeBlock_ne x _ fits hr (off p List.mem_cons_self)

/-- The registers of a piece hold its bytes, where no other piece is of its lane. -/
theorem readBlock_foldl_withPiece {ps : List Piece} (whole : ∀ p ∈ ps, WholePiece p) (lanes : (ps.map (·.lane)).Nodup) (x : Group) {p : Piece}
    (hp : p ∈ ps) : readBlock (ps.foldl (withPiece d) x) p.lane p.reg (p.len / 4) = pieceValue d p := by
  induction ps generalizing x with
  | nil => cases hp
  | cons q ps ih =>
    have others := fun p hp => whole p (List.mem_cons_of_mem q hp)
    rw [List.map_cons, List.nodup_cons] at lanes
    rcases List.mem_cons.1 hp with rfl | hp
    · obtain ⟨-, -, -, fits⟩ := whole p List.mem_cons_self
      have kept : ∀ k, p.reg ≤ k → k < p.reg + p.len / 4 → readReg (ps.foldl (withPiece d) (withPiece d x p)) p.lane k = readReg (withPiece d x p) p.lane k :=
        fun k _ hk => readReg_foldl_withPiece others _ (by omega) fun q hq same => lanes.1 (same.1 ▸ List.mem_map_of_mem hq)
      rw [List.foldl_cons, readBlock_congr kept, withPiece, readBlock_writeBlock x _ fits, (whole p List.mem_cons_self).bits, pieceValue, Nat.mod_mod]
    · exact ih others lanes.2 _ hp

end

/-! ### A load that stands alone (R157, R235) -/

/-- A load with its line. -/
def gotLine (d : Line) (a : Access) : Access := { a with got := some d }

/-- The accesses once the one with a tag has its line. -/
def withLine (s : State) (tag : Nat) (d : Line) : State := { s with accs := modWhere (fun x => x.tag == tag) (gotLine d) s.accs }

/-- A cluster's read of a line is answered. -/
def readOver (s : State) (cl line : Nat) : State := modCluster s cl fun x => { x with reads := x.reads.filter fun (l, _) => l ≠ line }

theorem readOut_readOver (s : State) (cl line : Nat) : readOut (readOver s cl line) cl line = false := by
  rw [readOut, readOver, modCluster, cluster_setCluster, if_pos rfl]
  exact List.any_eq_false.2 fun e he => by simpa using (List.mem_filter.1 he).2

section
variable {s : State} {a : Access} (alone : LoadAlone s a)
include alone

theorem LoadAlone.here : a ∈ s.accs ∧ ∀ b ∈ s.accs, b.tag = a.tag → b = a := by
  have once := alone.once
  refine ⟨(List.mem_filter.1 (once ▸ List.mem_singleton_self a)).1, fun b hb tag => ?_⟩
  exact List.mem_singleton.1 (once ▸ List.mem_filter.2 ⟨hb, beq_iff_eq.2 tag⟩)

/-- Of its cluster no other load waits for the line. -/
theorem LoadAlone.attached : attached s (gidCluster a.gid) a.line = [a] := by
  obtain ⟨-, unique⟩ := alone.here
  rw [← alone.once, Machine.attached]
  refine List.filter_congr fun b hb => ?_
  by_cases same : b = a
  · subst same
    simp [alone.load, alone.fresh.1, alone.fresh.2]
  · have other : b.tag ≠ a.tag := fun tag => same (unique b hb tag)
    have elsewhere := alone.line b hb same
    simp only [beq_eq_false_iff_ne.2 other, Bool.and_eq_false_iff, beq_eq_false_iff_ne]
    by_cases cl : gidCluster b.gid = gidCluster a.gid
    · exact .inl (.inl (.inr (elsewhere cl)))
    · exact .inl (.inl (.inl (.inl cl)))

/-- It is the only load of its instruction. -/
theorem LoadAlone.mates (d : Line) : loadMates (withLine s a.tag d) a.gid a.instr = [gotLine d a] := by
  obtain ⟨-, unique⟩ := alone.here
  have ours : (withLine s a.tag d).accs.filter (fun x => x.tag == a.tag) = [gotLine d a] := by
    have kept := filter_modWhere (p := fun x : Access => x.tag == a.tag) (f := gotLine d) (fun _ h => h) s.accs
    rwa [alone.once] at kept
  rw [loadMates, ← ours]
  refine List.filter_congr fun b hb => ?_
  obtain ⟨c, hc, rfl⟩ := List.mem_map.1 hb
  by_cases same : c = a
  · subst same
    simp [gotLine, alone.load]
  · have other : (c.tag == a.tag) = false := beq_eq_false_iff_ne.2 fun tag => same (unique c hc tag)
    rw [if_neg (by simp [other]), other]
    by_cases gid : c.gid = a.gid
    · simp [alone.instr c hc same gid]
    · simp [gid]

/-- The load is over as soon as its line is there. -/
theorem LoadAlone.finishLoad {x : Group} {d : Line} {p : W32} (here : group s a.gid = some x) (whole : WholePieces a)
    (clean : poisonIn (pieceSectors a.pieces) p = 0) : LoadDone x a d (finishLoad s a d p) ∧
      { Machine.finishLoad s a d p with groups := [], accs := [] } = { s with groups := [], accs := [] } := by
  obtain ⟨pieces, lanes⟩ := whole
  obtain ⟨rest, done⟩ := writePieces_whole d a.pieces (s := withLine s a.tag d) here pieces
  have finished : Machine.finishLoad s a d p = dropAccess (writePieces (withLine s a.tag d) a.gid d a.pieces) a.tag := by
    have mates := alone.mates d
    unfold withLine gotLine at mates
    simp only [Machine.finishLoad, clean, mates]
    rfl
  rw [finished]
  refine ⟨⟨_, done, ?_, foldl_withPiece_regs .., fun q hq => readBlock_foldl_withPiece pieces lanes x hq, fun l r _ hr off => ?_⟩, ?_⟩
  · exact List.find?_eq_none.2 fun b hb => by simpa using (List.mem_filter.1 hb).2
  · exact readReg_foldl_withPiece pieces x hr off
  · exact congrArg (fun t : State => { t with accs := [] }) rest

/-- A read of the line that is answered with the sectors of the load ends it. -/
theorem LoadAlone.answered {x : Group} {d : Line} {p : W32} {sectors : BitVec 4} (again : State → Nat → State) (here : group s a.gid = some x)
    (whole : WholePieces a) (plain : a.attr < 4) (carried : pieceSectors a.pieces &&& ~~~sectors = 0)
    (clean : poisonIn (pieceSectors a.pieces) p = 0) : LoadDone x a d (answerCluster s (gidCluster a.gid) a.line d sectors p again) ∧
      { answerCluster s (gidCluster a.gid) a.line d sectors p again with groups := [], accs := [] } =
        { readOver s (gidCluster a.gid) a.line with groups := [], accs := [] } := by
  have still : LoadAlone (readOver s (gidCluster a.gid) a.line) a := ⟨alone.load, alone.fresh, alone.once, alone.line, alone.instr⟩
  have served : answerCluster s (gidCluster a.gid) a.line d sectors p again = Machine.finishLoad (readOver s (gidCluster a.gid) a.line) a d p := by
    have waits := still.attached
    unfold readOver at waits ⊢
    have direct : (decide (a.attr = 4) && decide (p = 0)) = false := by rw [decide_eq_false (Nat.ne_of_lt plain), Bool.false_and]
    simp only [answerCluster, waits, List.foldl_cons, List.foldl_nil, if_pos carried, deliver, direct]
    rfl
  rw [served]
  exact still.finishLoad here whole clean

end

end Sys2Proof.Machine

/-! SUPPORT. Answers to accesses, the fills of a home slice and the write-outs of a spoil buffer. It settles O48. -/

namespace Sys2Proof.Machine

/-! ### Answers to loads (R235, R347) -/

theorem statusCode_eq (uncached : Bool) (n : Nat) : statusCode uncached n = (if uncached then 0x10 else 0x90) + n := by
  cases uncached <;> rfl

/-- Where L returns to its size only the cluster changes. -/
theorem returnAt_rest (s : State) (line : Nat) : { returnAt s line with clusters := [] } = { s with clusters := [] } := by
  unfold returnAt
  split
  · unfold returnL
    dsimp only
    split_ifs <;> rfl
  · rfl

theorem LoadDone.of_rest {x : Group} {a : Access} {d : Line} {s t : State} (h : LoadDone x a d s)
    (same : { t with clusters := [] } = { s with clusters := [] }) : LoadDone x a d t := by
  obtain ⟨y, here, gone, regs⟩ := h
  have groups : t.groups = s.groups := (congrArg State.groups same :)
  have accs : t.accs = s.accs := (congrArg State.accs same :)
  exact ⟨y, by rwa [group, groups], by rwa [accessOf, accs], regs⟩

section
variable {s : State} {tag line : Nat} {data : Line} {sectors st : BitVec 4} {p : W32} {cl : Nat} (reader : readerOf s tag line = some cl)
include reader

theorem exec_dataOnce_answered : exec (.dataOnce tag line data sectors p 0) s =
    .next (returnAt (answerCluster s cl line data sectors p performLoad) line) := by
  refine (onUnit_next ..).2 ⟨rfl, ?_⟩
  rw [reader]
  rfl

theorem exec_dataOnce_failed (status : st ≠ 0) : exec (.dataOnce tag line data sectors p st) s = .next (returnAt (failReads s cl line st.toNat) line) := by
  refine (onUnit_next ..).2 ⟨rfl, ?_⟩
  rw [reader]
  simp only [if_pos status]

end

theorem exec_clusterFill {s : State} {cl : Nat} (unit : clusterOk cl = true) (line : Nat) (data : Line) (p : W32) :
    exec (.clusterFill cl line data p) s = .next (answerCluster s cl line data 0xF p performLoad) :=
  (onUnit_next ..).2 ⟨unit, rfl⟩

/-- A read that fails parks the load that stands alone. -/
theorem LoadAlone.failed {s : State} {a : Access} (alone : LoadAlone s a) (n : Nat) : failReads s (gidCluster a.gid) a.line n =
    failAccess (readOver s (gidCluster a.gid) a.line) a.tag ((if isUncached s a then 0x10 else 0x90) + n) := by
  have waits := (⟨alone.load, alone.fresh, alone.once, alone.line, alone.instr⟩ : LoadAlone (readOver s (gidCluster a.gid) a.line) a).attached
  unfold readOver at waits ⊢
  simp only [failReads, waits, List.foldl_cons, List.foldl_nil, statusCode_eq]
  rfl

/-! ### Acknowledgements (R347, R388) -/

section
variable {s : State} {a : Access} {st : BitVec 4} (found : accessOf s a.tag = some a) (group : isEngine a.gid = false)
include found group

theorem exec_wbAck_done (kind : a.kind ≠ .atomRet) : exec (.wbAck (.access a.tag) 0) s = .next (returnAt (dropAccess s a.tag) a.line) := by
  refine (onUnit_next ..).2 ⟨rfl, ?_⟩
  simp [ackAccess, found, group, kind]

theorem exec_wbAck_failed (kind : a.kind ≠ .atomRet) (status : st ≠ 0) :
    exec (.wbAck (.access a.tag) st) s = .next (failAccess s a.tag ((if isUncached s a then 0x10 else 0x90) + st.toNat)) := by
  refine (onUnit_next ..).2 ⟨rfl, ?_⟩
  simp only [ackAccess, found, group, if_neg kind, if_neg status, statusCode_eq]
  rfl

theorem exec_wbAck_enq (kind : a.kind = .atomRet) : exec (.wbAck (.access a.tag) st) s = .next (dropAccess (modGroup s a.gid fun g =>
    a.pieces.foldl (fun g p => writeReg g p.lane p.reg (st.setWidth 32)) g) a.tag) := by
  refine (onUnit_next ..).2 ⟨rfl, ?_⟩
  simp only [ackAccess, found, group, if_pos kind]
  rfl

end

/-- The departing entry of a line is free (R239). -/
def spoilAcked (s : State) (i line : Nat) : State :=
  modSlice s i fun sl => { sl with spoil := dropWhere (fun e => e.line == line && e.departing) sl.spoil }

theorem inputOf_spoilAcked (s : State) (i line : Nat) : inputOf i (spoilAcked s i line) = inputOf i s := inputOf_modSlice i fun _ => rfl

theorem exec_wbAck_spoil (s : State) {sid : Nat} (unit : sliceOk sid = true) (line : Nat) :
    exec (.wbAck (.spoil sid line) 0) s = .next (wake (spoilAcked s sid line) sid) :=
  (onUnit_next ..).2 ⟨unit, rfl⟩

/-! ### The rest of a slice beside its tags and its spoil buffer (R230, R239) -/

/-- A slice without its tags and its spoil buffer. -/
def besideTags (i : Nat) (s : State) : Slice := { sliceOf s i with lines := [], spoil := [] }

theorem besideTags_of_offTags {s t : State} {i : Nat} (h : offTags i t = offTags i s) : besideTags i t = besideTags i s := congrArg (·.2) h

theorem besideTags_memStoreLine (i : Nat) (s : State) (line : Nat) (mask : BitVec 4) (d : Line) (p : W32) :
    besideTags i (memStoreLine s line mask d p) = besideTags i s := by
  rw [besideTags, memStoreLine, sliceOf_of_slices (memStore_slices ..), besideTags]

theorem besideTags_modSlice {i : Nat} {f : Slice → Slice} {s : State}
    (h : ∀ sl : Slice, { f sl with lines := [], spoil := [] } = { sl with lines := [], spoil := [] }) : besideTags i (modSlice s i f) = besideTags i s :=
  besideTags_of_offTags (offTags_modSlice h)

/-- The oldest entry goes back to its home from a proxy: it is departing until that acknowledges it. -/
def departs (s : State) (i : Nat) (e : Spoil) : State :=
  modSlice s i fun sl => { sl with spoil := modWhere (fun x => x == e) (fun x => { x with departing := true }) sl.spoil }

/-- The oldest entry of a home slice goes to memory. -/
def goes (s : State) (i : Nat) (e : Spoil) : State :=
  modSlice (memStoreLine s e.line e.dirty e.data e.poison) i fun sl => { sl with spoil := sl.spoil.erase e }

section
variable {s : State} {i : Nat} {e : Spoil} (oldest : (sliceOf s i).spoil.find? (fun e => !e.departing) = some e)
include oldest

theorem writeSpoilOut_foreign (foreign : isForeignIn s i e.line = true) :
    writeSpoilOut s i = emit (departs s i e) (dataOut "WB" (i / 16) e.line e.data e.dirty e.poison) := by
  simp only [writeSpoilOut, oldest, if_pos foreign, sendData_eq]
  rfl

theorem writeSpoilOut_own (own : isForeignIn s i e.line = false) : writeSpoilOut s i = emit (goes s i e) (.memWrite i e.line) := by
  simp only [writeSpoilOut, oldest, own]
  rfl

end

theorem besideTags_departs (s : State) (i : Nat) (e : Spoil) : besideTags i (departs s i e) = besideTags i s := besideTags_modSlice fun _ => rfl

theorem besideTags_goes (s : State) (i : Nat) (e : Spoil) : besideTags i (goes s i e) = besideTags i s := by
  refine (besideTags_modSlice ?_).trans (besideTags_memStoreLine ..)
  intro; rfl

theorem besideTags_writeSpoilOut (s : State) (i : Nat) : besideTags i (writeSpoilOut s i) = besideTags i s := by
  cases oldest : (sliceOf s i).spoil.find? fun e => !e.departing with
  | none => simp only [writeSpoilOut, oldest]
  | some e =>
    cases foreign : isForeignIn s i e.line with
    | true => rw [writeSpoilOut_foreign oldest foreign]; exact besideTags_departs ..
    | false => rw [writeSpoilOut_own oldest foreign]; exact besideTags_goes ..

theorem besideTags_drainSpoil (i k : Nat) (s : State) : besideTags i (drainSpoil i k s) = besideTags i s := by
  induction k generalizing s with
  | zero => rfl
  | succ k ih =>
    rw [drainSpoil]
    split_ifs
    · rfl
    · rw [ih, besideTags_writeSpoilOut]

theorem besideTags_putHome (s : State) (h : Nat) (c : CLine) : besideTags h (putHome s h c) = besideTags h s := by
  have room : besideTags h (if (sliceOf s h).enabled then drainSpoil h 64 s else s) = besideTags h s := by
    split_ifs
    · exact besideTags_drainSpoil ..
    · rfl
  unfold putHome
  dsimp only
  split
  · next t placed =>
    cases here : placeLine s h c with
    | some u =>
      rw [here] at placed
      cases placed
      exact besideTags_of_offTags (offTags_placeLine here)
    | none =>
      rw [here] at placed
      exact (besideTags_of_offTags (offTags_placeLine placed)).trans room
  · refine (besideTags_memStoreLine ..).trans ((besideTags_modSlice ?_).trans room)
    intro; rfl

theorem besideTags_keepWhole (s : State) (h line : Nat) : besideTags h (keepWhole s h line none) = besideTags h s := by
  unfold keepWhole
  dsimp only
  split_ifs
  · exact besideTags_putHome ..
  · rfl

/-! ### The fills of a home slice (R236, R237) -/

theorem filterMask_setFilter {s : State} {h line : Nat} {mask : BitVec 8} {owner : Bool} (holders : mask ≠ 0) :
    filterMask (sliceOf (setFilter s h line mask owner) h) line = mask := by
  have kept : ¬mask = 0#8 := holders
  rw [setFilter, sliceOf_modSlice]
  cases found : findFilter (sliceOf s h) line with
  | some f =>
    have first := find?_modWhere (p := fun x : Filter => x.line == line) (f := fun x => { x with mask, owner }) (fun _ h => h) (sliceOf s h).filter
    rw [show List.find? _ _ = some f from found] at first
    simp [kept, filterMask, findFilter, first]
  | none =>
    have absent : (sliceOf s h).filter.find? (fun x => x.line == line) = none := found
    simp [kept, filterMask, findFilter, List.find?_append, absent]

theorem find?_filter_of_kept {α : Type} {p q : α → Bool} {l : List α} {b : α} (found : l.find? q = some b) (kept : p b = true) :
    (l.filter p).find? q = some b := by
  obtain ⟨hit, before, after, rfl, missed⟩ := List.find?_eq_some_iff_append.1 found
  have none : (before.filter p).find? q = none := List.find?_eq_none.2 fun a ha => by simpa using missed a (List.mem_filter.1 ha).1
  rw [List.filter_append, List.filter_cons_of_pos kept, List.find?_append, none, Option.none_or, List.find?_cons_of_pos hit]

/-- Freeing an entry keeps the holders of its line. -/
theorem filterMask_freeFilter {s : State} {h line : Nat} (holders : filterMask (sliceOf s h) line ≠ 0) :
    filterMask (sliceOf (freeFilter s h line) h) line = filterMask (sliceOf s h) line := by
  cases found : findFilter (sliceOf s h) line with
  | none => exact absurd (by rw [filterMask, found]; rfl) holders
  | some f =>
    have mask : filterMask (sliceOf s h) line = f.mask := by rw [filterMask, found]; rfl
    have first := find?_modWhere (p := fun x : Filter => x.line == line) (f := fun x => { x with busy := false }) (fun _ h => h) (sliceOf s h).filter
    rw [show List.find? _ _ = some f from found] at first
    rw [mask] at holders ⊢
    have stays := find?_filter_of_kept (p := fun x : Filter => !(x.line == line && x.mask == 0 && !x.pinned)) first
      (by simpa using .inl (.inr holders))
    rw [freeFilter, sliceOf_modSlice, filterMask, findFilter, stays]
    rfl

theorem besideTags_releaseLine (s : State) (h line : Nat) : besideTags h (releaseLine s h line) = besideTags h s := by
  refine besideTags_modSlice ?_
  intro; rfl

/-- What a home slice is left with when the requesters of a miss entry got the line. -/
def homeFilled (s : State) (h line : Nat) (m : Miss) (v : Line) (q : W32) : State :=
  emits (dropMiss (keepWhole s h line none) h line) (fills h m v q)

/-- The dies that got a line hold it. -/
def dieHolders (s : State) (h line : Nat) (m : Miss) : State :=
  if m.dies = 0 then s else setFilter s h line (filterMask (sliceOf s h) line ||| m.dies) false

section
variable {s : State} {h line : Nat} {m : Miss} {v : Line} {q : W32} {dirty : BitVec 4}

theorem homeFill_eq (miss : findMiss (sliceOf s h) line = some m) (value : homeValue s h line = (v, q, dirty)) :
    homeFill s h line none = releaseHome (dieHolders (homeFilled s h line m v q) h line m) h line := by
  simp only [homeFill, miss, homeData, value, sendFills_eq]
  rfl

theorem besideTags_homeFilled : besideTags h (homeFilled s h line m v q) =
    { besideTags h s with miss := dropWhere (fun m => m.line == line) (besideTags h s).miss } := by
  rw [← besideTags_keepWhole s h line]
  change besideTags h (dropMiss (keepWhole s h line none) h line) = _
  rw [besideTags, dropMiss, sliceOf_modSlice]
  rfl

theorem offFilter_setFilter (s : State) (h line : Nat) (mask : BitVec 8) (owner : Bool) :
    offFilter (sliceOf (setFilter s h line mask owner) h) = offFilter (sliceOf s h) := by
  rw [setFilter, sliceOf_modSlice]
  split
  · split <;> rfl
  · split <;> rfl

theorem dieHolders_rest (s : State) (h line : Nat) (m : Miss) :
    (dieHolders s h line m).out = s.out ∧ offFilter (sliceOf (dieHolders s h line m) h) = offFilter (sliceOf s h) := by
  by_cases none : m.dies = 0
  · rw [dieHolders, if_pos none]
    exact ⟨rfl, rfl⟩
  · rw [dieHolders, if_neg none]
    exact ⟨rfl, offFilter_setFilter ..⟩

theorem releaseHome_rest (s : State) (h line : Nat) : offFilter (besideTags h (releaseHome s h line)) = offFilter (besideTags h s) := by
  unfold releaseHome
  dsimp only
  split_ifs
  · rfl
  · rw [freeFilter, besideTags, sliceOf_modSlice]
    exact (congrArg offFilter (besideTags_releaseLine s h line) :)

theorem filterMask_releaseHome (holders : filterMask (sliceOf s h) line ≠ 0) :
    filterMask (sliceOf (releaseHome s h line) h) line = filterMask (sliceOf s h) line := by
  have same : filterMask (sliceOf (releaseLine s h line) h) line = filterMask (sliceOf s h) line :=
    (congrArg (filterMask · line) (besideTags_releaseLine s h line) :)
  unfold releaseHome
  dsimp only
  split_ifs
  · rfl
  · rw [filterMask_freeFilter (by rwa [same]), same]

/-- The rest of a slice whose miss entry was served, but for its filter. -/
theorem homeFill_rest (miss : findMiss (sliceOf s h) line = some m) (value : homeValue s h line = (v, q, dirty)) :
    offFilter (besideTags h (homeFill s h line none)) =
      offFilter { besideTags h s with miss := dropWhere (fun m => m.line == line) (besideTags h s).miss } := by
  have held : offFilter (besideTags h (dieHolders (homeFilled s h line m v q) h line m)) = offFilter (besideTags h (homeFilled s h line m v q)) :=
    (congrArg (fun sl => { sl with lines := [], spoil := [] }) (dieHolders_rest (homeFilled s h line m v q) h line m).2 :)
  rw [homeFill_eq miss value, releaseHome_rest, held, besideTags_homeFilled]

theorem out_homeFill (miss : findMiss (sliceOf s h) line = some m) (value : homeValue s h line = (v, q, dirty)) {o : Out}
    (sent : o ∈ fills h m v q) : o ∈ (homeFill s h line none).out := by
  rw [homeFill_eq miss value, releaseHome_out, (dieHolders_rest ..).1]
  exact List.mem_append_right _ sent

theorem filterMask_homeFill (miss : findMiss (sliceOf s h) line = some m) (value : homeValue s h line = (v, q, dirty)) (dies : m.dies ≠ 0) :
    filterMask (sliceOf (homeFill s h line none) h) line = filterMask (sliceOf s h) line ||| m.dies := by
  have before : filterMask (sliceOf (homeFilled s h line m v q) h) line = filterMask (sliceOf s h) line :=
    (congrArg (filterMask · line) (besideTags_homeFilled (s := s) (h := h) (line := line) (m := m) (v := v) (q := q)) :)
  have some : filterMask (sliceOf s h) line ||| m.dies ≠ 0 := fun empty => dies (BitVec.or_eq_zero_iff.1 empty).2
  have holders : filterMask (sliceOf (dieHolders (homeFilled s h line m v q) h line m) h) line = filterMask (sliceOf s h) line ||| m.dies := by
    rw [dieHolders, if_neg dies, before, filterMask_setFilter some]
  rw [homeFill_eq miss value, filterMask_releaseHome (by rwa [holders]), holders]

end

theorem exec_fill {s : State} {sid line : Nat} {ecc : List MemFault} {m : Miss} (unit : sliceOk sid = true)
    (home : homeSlice s.variant (128 * line) = some sid) (miss : findMiss (sliceOf s sid) line = some m) (sent : m.sent = true)
    (txn : findTxn (sliceOf s sid) line = none) :
    exec (.fill sid line ecc) s = .next (wake (homeFill (readMem s line ecc) sid line none) sid) := by
  refine (onUnit_next ..).2 ⟨unit, ?_⟩
  rw [if_neg (by simp [home]), miss]
  simp [sent, txn]

/-! ### Write-outs (R239) -/

theorem exec_spoilWriteOut {sid : Nat} (s : State) (unit : sliceOk sid = true) :
    exec (.spoilWriteOut sid) s = .next (wake (writeSpoilOut s sid) sid) :=
  (onUnit_next ..).2 ⟨unit, rfl⟩

theorem inputOf_of_besideTags {s t : State} {i : Nat} (h : besideTags i t = besideTags i s) : inputOf i t = inputOf i s :=
  congrArg (fun sl => (sl.waiting, sl.stalled, sl.draining)) h

theorem activate_out (s : State) (pa : Nat) : (activate s pa).out = s.out := by
  unfold activate
  split
  · rfl
  · dsimp only
    split_ifs <;> rfl

theorem out_goes (s : State) (i : Nat) (e : Spoil) : (goes s i e).out = s.out := activate_out s (128 * e.line)

theorem memLine_goes (s : State) (i : Nat) (e : Spoil) : memLine (goes s i e).mem e.line = mergeLine (sectorBe e.dirty) e.data (memLine s.mem e.line) :=
  memLine_memStore s e.line (sectorBe e.dirty) e.dirty e.data e.poison

theorem spoil_departs {s : State} {i : Nat} {e : Spoil} (here : e ∈ (sliceOf s i).spoil) : { e with departing := true } ∈ (sliceOf (departs s i e) i).spoil := by
  rw [departs, sliceOf_modSlice]
  exact List.mem_map.2 ⟨e, here, if_pos (beq_self_eq_true e)⟩

theorem spoil_goes (s : State) (i : Nat) (e : Spoil) : (sliceOf (goes s i e) i).spoil = (sliceOf s i).spoil.erase e := by
  rw [goes, sliceOf_modSlice, memStoreLine, sliceOf_of_slices (memStore_slices ..)]

/-- Settles O48. -/
theorem answersServeAccesses : Obligations.AnswersServeAccesses := by
  unfold Obligations.AnswersServeAccesses
  refine ⟨fun s a x data sectors p found here alone whole plain => ⟨fun reader carried clean => ?_, fun st status reader => ?_, fun unit clean => ?_⟩,
    fun s a st found group => ⟨exec_wbAck_done found group, exec_wbAck_failed found group, exec_wbAck_enq found group⟩,
    fun s sid line unit quiet => ?_, fun s d unit => ?_, fun s u sid line ecc m v q dirty unit home miss sent txn read quiet stands value => ?_,
    fun s sid e unit oldest quiet => ⟨fun own => ?_, fun foreign => ?_⟩⟩
  · obtain ⟨done, rest⟩ := alone.answered performLoad here whole plain carried clean
    refine ⟨_, exec_dataOnce_answered reader, done.of_rest (returnAt_rest ..), ?_⟩
    exact (congrArg State.out (returnAt_rest ..) :).trans (congrArg State.out rest :)
  · refine ⟨readOver s (gidCluster a.gid) a.line, ?_, rfl, rfl⟩
    rw [exec_dataOnce_failed reader status, alone.failed]
  · obtain ⟨done, rest⟩ := alone.answered (sectors := 0xF) performLoad here whole plain (by simp) clean
    refine ⟨_, exec_clusterFill unit .., done, (congrArg State.out rest :), (congrArg State.mem rest :), ?_⟩
    have clusters : (answerCluster s (gidCluster a.gid) a.line data 0xF p performLoad).clusters = (readOver s (gidCluster a.gid) a.line).clusters :=
      (congrArg State.clusters rest :)
    have ended := readOut_readOver s (gidCluster a.gid) a.line
    rwa [readOut, cluster, ← clusters] at ended
  · have same := wake_quiet quiet (inputOf_spoilAcked s sid line)
    refine ⟨_, exec_wbAck_spoil s unit line, same.out, fun e => ?_⟩
    rw [same.slices, spoilAcked, sliceOf_modSlice, mem_dropWhere, Bool.and_eq_true, beq_iff_eq]
  · refine ⟨setDieHeld s d true 3, (onUnit_next ..).2 ⟨unit, rfl⟩, ?_⟩
    rw [die_heldOut]
    exact ⟨rfl, rfl, rfl⟩
  · have rest := homeFill_rest stands value
    have same := wake_quiet quiet (u := homeFill u sid line none) (congrArg (fun sl => (sl.waiting, sl.stalled, sl.draining)) rest :)
    have closed : findMiss (sliceOf (homeFill u sid line none) sid) line = none := by
      refine (congrArg (findMiss · line) rest :).trans ?_
      exact List.find?_eq_none.2 fun m here => by simpa using (List.mem_filter.1 here).2
    have named := findMiss_line stands
    have gets : ∀ o ∈ fills sid m v q, o ∈ (wake (homeFill u sid line none) sid).out := fun o here => by
      rw [same.out]
      exact out_homeFill stands value here
    refine ⟨_, read ▸ exec_fill unit home miss sent txn, ?_, fun waits => ?_, fun waits => ?_, fun waits => ⟨?_, ?_⟩, fun n waits => ?_⟩
    · rw [same.slices, closed]
    · exact gets _ (named ▸ coresFill_mem sid v q waits)
    · exact gets _ (named ▸ readFill_mem sid v q waits)
    · exact gets _ (named ▸ diesFill_mem sid v q waits)
    · rw [same.slices, filterMask_homeFill stands value waits]
    · exact gets _ (named ▸ onceFill_mem sid v q waits)
  · have same := wake_quiet quiet (u := emit (goes s sid e) (.memWrite sid e.line)) (inputOf_of_besideTags (besideTags_goes ..))
    refine ⟨_, exec_spoilWriteOut s unit, ?_⟩
    rw [writeSpoilOut_own oldest own, same.out, same.mem, same.slices]
    exact ⟨by rw [emit, out_goes], memLine_goes s sid e, spoil_goes s sid e⟩
  · have same := wake_quiet quiet (u := emit (departs s sid e) (dataOut "WB" (sid / 16) e.line e.data e.dirty e.poison))
      (inputOf_of_besideTags (besideTags_departs ..))
    refine ⟨_, exec_spoilWriteOut s unit, ?_⟩
    rw [writeSpoilOut_foreign oldest foreign, same.out, same.mem, same.slices, sendData_eq]
    exact ⟨rfl, rfl, spoil_departs (List.mem_of_find?_eq_some oldest)⟩

end Sys2Proof.Machine

/-! SUPPORT. Global loads and stores: when they issue, and what they do where their slice holds the line. It settles O23. -/

namespace Sys2Proof.Machine
open Sys2Proof.Num

/-! ### Issue (R331, R332, R335) -/

/-- Nothing is misaligned where every address is aligned. -/
theorem misaligned_eq_zero {addr : Nat → Nat} {size : Nat} {m : W32} (aligned : ∀ l ∈ lanes m, addr l % size = 0) : misaligned addr size m = 0 := by
  have none : ∀ (ls : List Nat) (t : W32), (∀ l ∈ ls, addr l % size = 0) →
      ls.foldl (fun t l => if addr l % size = 0 then t else t ||| bit32 l) t = t := by
    intro ls
    induction ls with
    | nil => exact fun _ _ => rfl
    | cons l ls ih =>
      intro t h
      rw [List.foldl_cons, if_pos (h l List.mem_cons_self), ih t fun k hk => h k (List.mem_cons_of_mem l hk)]
  exact none _ 0 aligned

/-- A word of LD or ST that breaks no rule, of aligned addresses. -/
structure AccessWordOk (w : W64) (op : Nat) (x : Group) (p : Path) : Prop where
  opcode : opcode w = op
  reserved : reservedBits w ldFields = 0
  sized : bits w 10 8 ≤ 4
  data : alignReg (sizeOf w) (bits w 23 16) + regsOf (sizeOf w) ≤ x.regGrant
  address : bits w 31 24 + 2 ≤ x.regGrant
  aligned : ∀ l ∈ lanes p.mask, threadAddr x l (bits w 31 24) (bits w 55 32) % sizeOf w = 0

theorem ldFaults_none {w : W64} {op : Nat} {x : Group} {p : Path} (h : AccessWordOk w op x p) : firstFault (ldFaults w op x p) = none := by
  refine firstFault_none ?_
  simp only [ldFaults, List.forall_mem_cons]
  refine ⟨bne_eq_false_iff_eq.2 h.opcode, ?_, ?_, ?_, List.forall_mem_nil _⟩
  · rw [h.reserved, decide_eq_false (Nat.not_lt.2 h.sized)]
    rfl
  · rw [inGrant, inGrant, decide_eq_true h.data, decide_eq_true h.address]
    rfl
  · rw [misaligned_eq_zero h.aligned]
    rfl

section
variable {g : GRef} {w : W64} {s : State} {x : Group} {p : Path} (h : MayIssue s g x p) (fence : x.fence = none)
include h fence

theorem exec_ld_next (word : AccessWordOk w 0x54 x p) (free : BlocksFree s g [(alignReg (sizeOf w) (bits w 23 16), regsOf (sizeOf w)), (bits w 31 24, 2)])
    (room : readsOut s (gidOf g) < 16) : exec (.ld g w) s = .next (fetched s (gidOf g) x p (doLoads s g x p w ((lanes p.mask).map fun l =>
      { va := threadAddr x l (bits w 31 24) (bits w 55 32), len := sizeOf w, lane := l, reg := alignReg (sizeOf w) (bits w 23 16) }))) :=
  (onUnit_next _ _ _).2 ⟨h.unit, issue_acts h (readyToRead fence room free) (ldFaults_none word)⟩

theorem exec_st_next (word : AccessWordOk w 0x55 x p) (free : BlocksFree s g [(alignReg (sizeOf w) (bits w 23 16), regsOf (sizeOf w)), (bits w 31 24, 2)])
    (room : writesOut s (gidOf g) < 64) : exec (.st g w) s = .next (fetched s (gidOf g) x p (doStores s g x p w false ((lanes p.mask).map fun l =>
      { va := threadAddr x l (bits w 31 24) (bits w 55 32), len := sizeOf w, lane := l,
        val := readBlock x l (alignReg (sizeOf w) (bits w 23 16)) (regsOf (sizeOf w)) }))) :=
  (onUnit_next _ _ _).2 ⟨h.unit, issue_acts h (readyToWrite fence room free) (ldFaults_none word)⟩

end

/-! ### At a slice that holds the line (R231, R240) -/

theorem poisonIn_zero : ∀ mask : BitVec 4, poisonIn mask 0 = 0 := by decide

/-- A line of memory or of a stock, behind the slices. -/
def isCached (s : State) (line : Nat) : Prop := ∃ d o, target s.variant (128 * line) = .face d o ∨ target s.variant (128 * line) = .stock o

/-- The slice of the access `a`, a proxy, is `i`. -/
structure AtProxy (s : State) (a : Access) (i h : Nat) : Prop where
  found : accessOf s a.tag = some a
  slice : coreSlice s.variant (gidDie a.gid) (128 * a.line) = some i
  home : homeSlice s.variant (128 * a.line) = some h
  proxy : i ≠ h
  cached : isCached s a.line

/-- The cluster's read of a line is outstanding. -/
def reading (s : State) (a : Access) : State := modCluster s (gidCluster a.gid) fun x => { x with reads := x.reads ++ [(a.line, a.tag)] }

/-- A load whose sectors an answer does not carry waits to read its line anew. -/
def readAnew (a : Access) (i : Nat) (s : State) (tag : Nat) : State :=
  stall (modCluster s (gidCluster a.gid) fun x => { x with reads := x.reads ++ [(a.line, tag)] }) i tag

section
variable {s : State} {a : Access} {i h : Nat} (at' : AtProxy s a i h)
include at'

theorem performLoad_eq (plain : a.attr < 3) (idle : readOut s (gidCluster a.gid) a.line = false) : performLoad s a.tag = loadAtSlice (reading s a) a i h := by
  obtain ⟨found, slice, home, -, d, o, goal⟩ := at'
  have uncached : ¬a.attr = 4 := by omega
  have variant : (reading s a).variant = s.variant := rfl
  unfold reading at variant ⊢
  rcases goal with goal | goal
  · simp only [performLoad, found, if_neg uncached, idle, sendRead, variant, goal, slice, home]
    rfl
  · simp only [performLoad, found, if_neg uncached, idle, sendRead, variant, goal, slice, home]
    rfl

theorem performStore_eq : performStore s a.tag = storeAtSlice s a i h := by
  obtain ⟨found, slice, home, -, d, o, goal⟩ := at'
  rcases goal with goal | goal
  · simp only [performStore, found, goal, slice, home]
  · simp only [performStore, found, goal, slice, home]

end

section
variable {s : State} {a : Access} {i h : Nat} {c : CLine} (proxy : i ≠ h) (enabled : (sliceOf s i).enabled = true)
  (spoil : findSpoil (sliceOf s i) a.line = none) (found : findLine (sliceOf s i) a.line = some c)
include proxy enabled spoil found

/-- A load finds the sectors that it needs. -/
theorem loadAtSlice_hit (plain : a.attr < 3) (carried : pieceSectors a.pieces &&& ~~~c.valid = 0) :
    loadAtSlice s a i h = answerCluster (touchLine s i a.line) (gidCluster a.gid) a.line c.data c.valid c.poison (readAnew a i) := by
  have copy : ((findLine (sliceOf s i) a.line).filter fun c => pieceSectors a.pieces &&& ~~~c.valid = 0) = some c := by
    rw [found, Option.filter_some, if_pos (decide_eq_true carried)]
  have other : ¬a.attr = 3 := by omega
  simp only [loadAtSlice, enabled, spoil, copy, proxy, other]
  rfl

/-- A store finds a copy that it may write. -/
theorem storeAtSlice_hit (plain : a.attr < 3) (pins : a.attr = 1 → c.pins = 0) (valid : c.valid ≠ 0) (owned : c.st = .e ∨ c.st = .m)
    (first : stalledLine s i a.line = false) {t : State} (written : writeCopy s i a = some t) : storeAtSlice s a i h = dropAccess t a.tag := by
  have copy := copy_filter_some found valid
  have merges : ((decide (a.attr = 1) || decide (a.attr = 3)) && decide (c.pins ≠ 0)) = false := by
    simpa using fun attr => pins (by omega)
  rcases owned with st | st
  · simp only [storeAtSlice, if_neg proxy, enabled, spoil, copy, first, st, written, merges]
    rfl
  · simp only [storeAtSlice, if_neg proxy, enabled, spoil, copy, first, st, written, merges]
    rfl

end

/-- A copy with the bytes of a store. -/
def stored (a : Access) (c : CLine) : CLine :=
  { c with data := mergeLine a.be a.data c.data, poison := writePoison a.be c.poison, st := .m, valid := c.valid ||| sectorsTouched a.be,
           dirty := c.dirty ||| sectorsTouched a.be }

theorem writeCopy_eq {s : State} {i : Nat} {a : Access} {c : CLine} (found : findLine (sliceOf s i) a.line = some c) :
    writeCopy s i a = placeLine s i (stored a c) := by
  rw [writeCopy, mergeCopy, found]
  rfl

/-- A whole copy after a store, in the layout that its content asks for. -/
theorem content_stored {a : Access} {c d : CLine} (whole : c.valid = 0xF) (content : contentOf d = contentOf (layout (stored a c))) :
    d.data = mergeLine a.be a.data c.data ∧ d.st = .m ∧ d.valid = 0xF ∧ d.cmp = cmpOf d.data ∧
      d.dirty = if d.cmp = 0 ∨ c.dirty ||| sectorsTouched a.be = 0 then c.dirty ||| sectorsTouched a.be else 0xF := by
  have full : c.valid ||| sectorsTouched a.be = 0xF#4 := by
    rw [whole]
    exact (by decide : ∀ v : BitVec 4, 0xF ||| v = 0xF) _
  have data : d.data = mergeLine a.be a.data c.data := (congrArg CLine.data content :)
  have cmp : d.cmp = cmpOf (mergeLine a.be a.data c.data) := (congrArg CLine.cmp content :).trans (if_pos full)
  have valid : d.valid = c.valid ||| sectorsTouched a.be := (congrArg CLine.valid content :)
  have dirty : d.dirty = if (decide ((layout (stored a c)).cmp ≠ 0) && decide (c.dirty ||| sectorsTouched a.be ≠ 0)) = true then 0xF
      else c.dirty ||| sectorsTouched a.be := (congrArg CLine.dirty content :)
  have same : (layout (stored a c)).cmp = d.cmp := (congrArg CLine.cmp content :).symm
  refine ⟨data, (congrArg CLine.st content :), valid.trans full, by rw [cmp, data], ?_⟩
  rw [dirty, same]
  generalize c.dirty ||| sectorsTouched a.be = m
  by_cases plain : d.cmp = 0
  · simp [plain]
  · by_cases clean : m = 0
    · simp [clean]
    · simp [plain]

/-- Settles O23. -/
theorem loadsAndStores : Obligations.LoadsAndStores := by
  unfold Obligations.LoadsAndStores
  refine ⟨fun g w s x p size r ra off issues fence hsize hr hra hoff reserved sized data address free aligned => ?_,
    fun s a x i h c found here slice home proxy cached enabled spoil copy clean => ⟨?_, ?_⟩⟩
  · subst hsize hr hra hoff
    refine ⟨fun refs hrefs op room ok segments misses => ?_, fun refs hrefs op room ok segments => ?_⟩
    · subst hrefs
      exact (exec_ld_next issues fence ⟨op, reserved, sized, data, address, aligned⟩ free room).trans (by rw [← doLoads_sends ok segments misses]; rfl)
    · subst hrefs
      exact (exec_st_next issues fence ⟨op, reserved, sized, data, address, aligned⟩ free room).trans (by rw [← doStores_sends ok segments]; rfl)
  · intro alone idle whole plain carried
    have still : LoadAlone (touchLine (reading s a) i a.line) a := ⟨alone.load, alone.fresh, alone.once, alone.line, alone.instr⟩
    obtain ⟨done, rest⟩ := still.answered (d := c.data) (p := c.poison) (readAnew a i) here whole (by omega) carried (by rw [clean]; exact poisonIn_zero _)
    rw [performLoad_eq ⟨found, slice, home, proxy, cached⟩ plain idle, loadAtSlice_hit (s := reading s a) proxy enabled spoil copy plain carried]
    exact ⟨done, (congrArg State.mem rest :)⟩
  · intro plain pins whole owned first alike room
    have named := line_of_findLine copy
    have ours : ∀ z ∈ (sliceOf s i).lines, z.line = (stored a c).line → z.remote = (stored a c).remote := fun z hz same =>
      alike z hz (same.trans named)
    have roomy : Roomy s i (stored a c).line := by
      have line : (stored a c).line = a.line := named
      rw [line]
      exact room _ rfl
    obtain ⟨t, placed⟩ := placeLine_of_roomy ours enabled roomy
    obtain ⟨d, held, content⟩ := findLine_placeLine ours placed
    have line : (stored a c).line = a.line := named
    rw [line] at held
    rw [performStore_eq ⟨found, slice, home, proxy, cached⟩, storeAtSlice_hit proxy enabled spoil copy plain pins (by rw [whole]; decide) owned first
      ((writeCopy_eq copy).trans placed)]
    obtain ⟨data, st, valid, cmp, dirty⟩ := content_stored whole content
    refine ⟨d, _, held, data, st, valid, cmp, rfl, dirty, ?_, (mem_of_offTags (offTags_placeLine placed) :)⟩
    exact List.find?_eq_none.2 fun b hb => by simpa using (List.mem_filter.1 hb).2

end Sys2Proof.Machine

/-! SUPPORT. What the pins and the fetches of a task leave as they are: launches and tasks, and the groups too where the lines are in service. -/

namespace Sys2Proof.Machine

/-! ### What an access that fails may change (R27, R157, R158) -/

/-- The state without memory, slices and crushers, groups, accesses, clusters and partitions. -/
def offFaults (s : State) : State := { offMemory s with clusters := [], groups := [], accs := [], parts := [], qps := [] }

theorem offFaults_of_offMemory {s t : State} (h : offMemory t = offMemory s) : offFaults t = offFaults s :=
  congrArg (fun u : State => { u with clusters := [], groups := [], accs := [], parts := [], qps := [] }) h

theorem offFaults_of_offEvents {s t : State} (h : offEvents t = offEvents s) : offFaults t = offFaults s :=
  (congrArg offFaults h : offFaults (offEvents t) = offFaults (offEvents s))

theorem offFaults_foldl {β : Type} {f : State → β → State} (h : ∀ s b, offFaults (f s b) = offFaults s) (l : List β) (s : State) :
    offFaults (l.foldl f s) = offFaults s := by
  induction l generalizing s with
  | nil => rfl
  | cons b l ih => exact (ih _).trans (h s b)

theorem offFaults_parkGroup (s : State) (gid : Nat) (k : Park) : offFaults (parkGroup s gid k) = offFaults s := by
  unfold parkGroup
  split
  · rfl
  · split
    · rfl
    · split
      · rfl
      · refine (offFaults_of_offEvents (offEvents_postEvent ..)).trans ?_
        split
        · exact (offFaults_of_offMemory (offMemory_agentWrite ..)).trans rfl
        · rfl

theorem offFaults_failAccess (s : State) (tag code : Nat) : offFaults (failAccess s tag code) = offFaults s := by
  unfold failAccess
  split
  · rfl
  · exact offFaults_parkGroup ..

theorem offFaults_withClusters (s : State) (cs : SMap Cluster) : offFaults { s with clusters := cs } = offFaults s := rfl

theorem offFaults_failMiss (s : State) (i line code : Nat) : offFaults (failMiss s i line code) = offFaults s := by
  unfold failMiss
  split
  · rfl
  · refine (offFaults_foldl (fun t n => offFaults_failAccess t n code) _ _).trans ?_
    exact (offFaults_withClusters ..).trans rfl

/-! ### What a home does for itself (R236, R289) -/

/-- The state without memory, slices and crushers, with what tells which lines are in service (R26). -/
def steady (s : State) : State × Bool := (offMemory s, s.dev.stock)

section
variable {s t : State}

theorem steady_of_dev (h : offMemory t = offMemory s) (dev : t.dev = s.dev) : steady t = steady s := by rw [steady, h, dev, steady]

theorem offMemory_of_steady (h : steady t = steady s) : offMemory t = offMemory s := congrArg Prod.fst h

theorem groups_of_steady (h : steady t = steady s) : t.groups = s.groups := groups_of_offMemory (offMemory_of_steady h)

theorem inService_of_steady (h : steady t = steady s) (pa : Nat) : inService t pa = inService s pa :=
  congrArg (fun x : State × Bool => inService { x.1 with dev := { stock := x.2 } } pa) h

end

theorem steady_modSlice (s : State) (i : Nat) (f : Slice → Slice) : steady (modSlice s i f) = steady s := rfl

theorem steady_emit (s : State) (o : Out) : steady (emit s o) = steady s := rfl

theorem steady_placeLine {s t : State} {i : Nat} {c : CLine} (h : placeLine s i c = some t) : steady t = steady s :=
  steady_of_dev (offMemory_placeLine h) (placeLine_dev h)

theorem steady_holdLine {s t : State} {i line : Nat} (h : holdLine s i line = some t) : steady t = steady s := by
  unfold holdLine at h
  dsimp only at h
  split at h <;> split at h
  · cases h
  · exact steady_placeLine h
  · cases h
  · exact steady_placeLine h

theorem steady_putHome (s : State) (h : Nat) (c : CLine) : steady (putHome s h c) = steady s :=
  steady_of_dev (offMemory_putHome ..) (putHome_dev ..)

theorem memStoreBytes_dev (s : State) (line : Nat) (be : BitVec 128) (d : Line) (p : W32) : (memStoreBytes s line be d p).dev = s.dev := activate_dev ..

theorem homeStore_dev (s : State) (h line : Nat) (be : BitVec 128) (d : Line) (p : W32) (attr : Nat) : (homeStore s h line be d p attr).dev = s.dev := by
  unfold homeStore
  dsimp only
  split
  · rfl
  · split
    · refine (putHome_dev ..).trans ?_
      split
      · exact memStoreBytes_dev ..
      · rfl
    · split
      · exact putHome_dev ..
      · exact memStoreBytes_dev ..

theorem spillFor_stock (h need k : Nat) (s : State) : (spillFor h need k s).dev.stock = s.dev.stock := by
  induction k generalizing s with
  | zero => rfl
  | succ k ih =>
    simp only [spillFor]
    split
    · rfl
    · split
      · rfl
      · exact ih _

theorem backLine_stock (s : State) (h line : Nat) : (backLine s h line).dev.stock = s.dev.stock := by
  unfold backLine
  split
  · rfl
  · split
    · rfl
    · exact spillFor_stock ..

theorem steady_closeOpen (s : State) (h line : Nat) : steady (closeOpen s h line) = steady s := by
  refine Prod.ext (offMemory_closeOpen ..) ?_
  refine Eq.trans ?_ (backLine_stock s h line)
  unfold closeOpen steady
  dsimp only
  split
  · rfl
  · refine congrArg Dev.stock ((homeStore_dev ..).trans ?_)
    split
    · exact memStoreLine_dev ..
    · rfl

theorem steady_keepWhole (s : State) (h line : Nat) : steady (keepWhole s h line none) = steady s := by
  unfold keepWhole
  dsimp only
  split
  · exact steady_putHome ..
  · rfl

theorem steady_releaseHome (s : State) (h line : Nat) : steady (releaseHome s h line) = steady s := by
  unfold releaseHome
  dsimp only
  split <;> rfl

theorem steady_homeFill (s : State) (h line : Nat) : steady (homeFill s h line none) = steady s := by
  cases miss : findMiss (sliceOf s h) line with
  | none => simp only [homeFill, miss]
  | some m =>
    obtain ⟨⟨v, q, dirty⟩, value⟩ : ∃ x, homeValue s h line = x := ⟨_, rfl⟩
    have held : steady (dieHolders (homeFilled s h line m v q) h line m) = steady (homeFilled s h line m v q) := by
      unfold dieHolders
      split
      · rfl
      · exact steady_modSlice ..
    rw [homeFill_eq miss value, steady_releaseHome, held]
    have fills : steady (homeFilled s h line m v q) = steady (dropMiss (keepWhole s h line none) h line) := rfl
    exact fills.trans (Eq.trans (steady_modSlice ..) (steady_keepWhole ..))

/-! ### Requests of a home slice itself (R289, R294) -/

/-- The requests that a home makes of itself: for the line of a miss entry, and for an entry of its filter. -/
inductive OwnRequest : HomeReq → Prop
  | read : OwnRequest .homeRead
  | evict (line : Nat) : OwnRequest (.evict line)

theorem steady_startReq {s t : State} {h line : Nat} {r : HomeReq} (own : OwnRequest r) (e : startReq s h line r = some t) : steady t = steady s := by
  unfold startReq at e
  dsimp only at e
  rw [Option.ite_none_left_eq_some, Option.ite_none_left_eq_some] at e
  obtain ⟨-, -, e⟩ := e
  split at e
  · cases e
  next u held =>
    have taken : steady u = steady s := by
      split at held
      · exact steady_holdLine held
      · rw [← Option.some.inj held]
    have ready : steady (reserveFilter (closeOpen u h line) h line (isGrant r)) = steady s := (steady_closeOpen u h line).trans taken
    refine Eq.trans ?_ ready
    cases own with
    | read =>
      dsimp only at e
      split at e
      · split at e
        · rw [← Option.some.inj e]
          exact steady_homeFill ..
        · rw [← Option.some.inj e]
          exact (steady_emit ..).trans (steady_modSlice ..)
      · rw [← Option.some.inj e]
        exact (steady_emit ..).trans (steady_modSlice ..)
    | evict =>
      dsimp only at e
      split at e
      · rw [← Option.some.inj e]
        exact (steady_releaseHome ..).trans (steady_modSlice ..)
      · rw [← Option.some.inj e]
        exact (steady_emit ..).trans (steady_modSlice ..)

theorem steady_makeEntry (s : State) (h line : Nat) : steady (makeEntry s h line) = steady s := by
  unfold makeEntry
  split
  · rfl
  · split
    · rfl
    next f _ =>
      cases started : startReq s h f.line (.evict line) with
      | none => rfl
      | some t => exact steady_startReq (.evict line) started

theorem steady_homeTake_read (s : State) (h line : Nat) : steady (homeTake s h line .homeRead) = steady s := by
  unfold homeTake
  dsimp only
  split
  · rfl
  · split
    next started => exact steady_startReq .read started
    next => rfl

/-! ### Steps that pin and fetch lines (R246) -/

/-- A step that fetches some of `lines`: it leaves launches and tasks as they are, and the groups as well where the lines are in service. -/
structure Fetches (lines : List Nat) (s t : State) : Prop where
  front : offFaults t = offFaults s
  calm : (∀ q ∈ lines, inService s (128 * q) = true) → steady t = steady s

section
variable {lines : List Nat} {s t u : State}

theorem Fetches.rfl : Fetches lines s s := ⟨Eq.refl _, fun _ => Eq.refl _⟩

theorem Fetches.of_steady (h : steady t = steady s) : Fetches lines s t := ⟨offFaults_of_offMemory (offMemory_of_steady h), fun _ => h⟩

theorem Fetches.trans (h : Fetches lines s t) (k : Fetches lines t u) : Fetches lines s u :=
  ⟨k.front.trans h.front, fun served =>
    (k.calm fun q hq => (inService_of_steady (h.calm served) _).trans (served q hq)).trans (h.calm served)⟩

theorem fetches_foldl {β : Type} {f : State → β → State} {l : List β} (h : ∀ s, ∀ b ∈ l, Fetches lines s (f s b)) (s : State) :
    Fetches lines s (l.foldl f s) := by
  induction l generalizing s with
  | nil => exact .rfl
  | cons b l ih => exact (h s b List.mem_cons_self).trans (ih (fun s b hb => h s b (List.mem_cons_of_mem _ hb)) _)

end

section
variable {lines : List Nat} {line : Nat} (here : line ∈ lines)
include here

theorem fetches_homeArrive (s : State) (h : Nat) : Fetches lines s (homeArrive s h line .homeRead) := by
  by_cases served : inService s (128 * line) = true
  · rw [homeArrive_taken (show arrivalCode s line .homeRead = none from if_pos served)]
    exact .of_steady (steady_homeTake_read ..)
  · rw [homeArrive_refused (show arrivalCode s line .homeRead = some 0x1F from if_neg served)]
    exact ⟨offFaults_failMiss .., fun all => absurd (all line here) served⟩

theorem fetches_joinMiss {s t : State} {i h : Nat} {add : Miss → Miss} (e : joinMiss s i h line add = some t) : Fetches lines s t := by
  unfold joinMiss at e
  dsimp only at e
  split at e
  · rw [← Option.some.inj e]
    exact .of_steady rfl
  · rw [Option.ite_none_left_eq_some] at e
    obtain ⟨-, e⟩ := e
    split at e
    · rw [← Option.some.inj e]
      exact Fetches.trans (.of_steady (steady_modSlice ..)) (fetches_homeArrive here ..)
    · obtain ⟨u, held, rfl⟩ := Option.map_eq_some_iff.1 e
      refine .of_steady (Eq.trans ?_ (steady_holdLine held))
      unfold sendRequest
      dsimp only
      split <;> rfl

theorem fetches_joinMiss_getD (s : State) (i h : Nat) (add : Miss → Miss) : Fetches lines s ((joinMiss s i h line add).getD s) := by
  cases joined : joinMiss s i h line add with
  | none => exact .rfl
  | some t => exact fetches_joinMiss here joined

theorem fetches_fetchPin (s : State) (i : Nat) : Fetches lines s (fetchPin s line i) := by
  unfold fetchPin
  dsimp only
  split
  · exact fetches_joinMiss_getD here ..
  · exact .rfl

end

theorem steady_syncFilter {s t : State} {line : Nat} (e : syncFilter s line = some t) : steady t = steady s := by
  unfold syncFilter at e
  split at e
  · cases e; rfl
  · dsimp only at e
    split at e
    · split at e
      · cases e; rfl
      · split at e <;> cases e <;> rfl
    · split at e
      · cases e; rfl
      · split at e
        · cases e
        · cases e; rfl

/-- The tag of a pinned line. -/
theorem fetches_pinLine {lines : List Nat} {s t : State} {line i : Nat} (here : line ∈ lines) (e : pinLine s line i = some t) : Fetches lines s t := by
  unfold pinLine at e
  dsimp only at e
  split at e
  · cases e
    exact .rfl
  · obtain ⟨u, marked, rfl⟩ := Option.map_eq_some_iff.1 e
    obtain ⟨v, placed, synced⟩ := Option.bind_eq_some_iff.1 marked
    have tag : steady v = steady s := by
      split at placed
      · split at placed
        · cases placed
        · exact (steady_placeLine placed).trans (steady_modSlice ..)
      · split at placed
        · cases placed
        · exact steady_placeLine placed
    have filter : steady u = steady v := by
      split at synced
      · rw [← Option.some.inj synced]
      · exact steady_syncFilter synced
    exact Fetches.trans (.of_steady (filter.trans tag)) (fetches_fetchPin here u i)

theorem fetches_pinAll {lines : List Nat} {ps : List (Nat × Nat)} (here : ∀ p ∈ ps, p.1 ∈ lines) (s : State) : Fetches lines s (pinAll ps s).1 := by
  induction ps generalizing s with
  | nil => exact .rfl
  | cons p ps ih =>
    obtain ⟨l, i⟩ := p
    have rest := ih fun p hp => here p (List.mem_cons_of_mem _ hp)
    rw [pinAll]
    split
    next u pinned => exact (fetches_pinLine (here (l, i) List.mem_cons_self) pinned).trans (rest u)
    next =>
      dsimp only
      split
      · exact rest s
      · exact Fetches.trans (.of_steady (steady_makeEntry ..)) (rest _)

end Sys2Proof.Machine

/-! SUPPORT. How the tasks of nodes are made and start, and how a launch starts with its first node. It settles O38. -/

namespace Sys2Proof.Machine

/-! ### The turn of a node (R371, R372) -/

/-- The node of a launch may start or be preloaded: its launch goes on, and its predecessors have completed. -/
structure NodeTurn (s : State) (l : Launch) (node : Nat) : Prop where
  here : launchOf s l.id = some l
  serves : mayStart s = true
  sound : l.failed = 0
  named : node < gNodes (launchDescr s l)
  idle : nodeState l node = .idle
  after : predsDone (launchDescr s l) l node = true

section
variable {s : State} {l : Launch} {node : Nat} (turn : NodeTurn s l node)
include turn

theorem exec_nodeStart_started (started : l.started = true) (free : isHeld s (queue s l.part l.q) = false) :
    exec (.nodeStart l.id node) s = .next (startNode s l node) := by
  obtain ⟨here, serves, sound, named, idle, after⟩ := turn
  refine (onUnit_next ..).2 ⟨rfl, ?_⟩
  simp [here, serves, sound, named, idle, after, started, free]

theorem exec_nodeStart_first (first : l.started = false) : exec (.nodeStart l.id node) s =
    .next (if launchReady s l = true then startNode (startLaunch s l) ((launchOf (startLaunch s l) l.id).getD l) node else s) := by
  obtain ⟨here, serves, sound, named, idle, after⟩ := turn
  refine (onUnit_next ..).2 ⟨rfl, ?_⟩
  cases ready : launchReady s l <;> simp [here, serves, sound, named, idle, after, first, ready]

/-- Tasks of a partition that are preloaded. -/
theorem exec_preload_next : exec (.preload l.id node) s =
    .next (if taskAt s l node ≠ none ∨ 2 ≤ (s.tasks.filter fun t => t.part == l.part && t.st == .preloaded).length then s
      else emit (makeTask s l node).1 (.front "PRELOAD" s.nextTask node)) := by
  obtain ⟨here, serves, sound, named, idle, after⟩ := turn
  refine (onUnit_next ..).2 ⟨rfl, ?_⟩
  simp only [here, serves, sound, idle, after, Nat.not_le.2 named]
  refine if_congr ?_ rfl rfl
  cases taskAt s l node <;> simp

/-- Its descriptor is that of the launch. -/
theorem NodeTurn.node_eq : launchNode s l node = gNode (launchDescr s l) node := by
  have named := turn.named
  unfold launchDescr launchNode at *
  cases found : descrOf s l.part l.handle l.version with
  | some d => rfl
  | none =>
    rw [found] at named
    have none : gNodes (Option.getD none []) = 0 := by decide
    rw [none] at named
    exact absurd named (Nat.not_lt_zero _)

end

/-! ### The task of a node (R246, R386) -/

section
variable {old : List Task} {k : Task}

/-- A change of the last task of a list whose tag no other bears. -/
theorem modWhere_last (f : Task → Task) (others : ∀ e ∈ old, e.tag ≠ k.tag) :
    modWhere (fun t => t.tag == k.tag) f (old ++ [k]) = old ++ [f k] := by
  rw [modWhere, List.map_append, List.map_singleton, if_pos (beq_self_eq_true _)]
  congr 1
  refine (List.map_congr_left fun e he => ?_).trans (List.map_id _)
  rw [if_neg (by simpa using others e he)]
  rfl

theorem taskOf_last {s : State} (tasks : s.tasks = old ++ [k]) (others : ∀ e ∈ old, e.tag ≠ k.tag) : taskOf s k.tag = some k := by
  have none : old.find? (fun t => t.tag == k.tag) = none := List.find?_eq_none.2 fun e he => by simpa using others e he
  rw [taskOf, tasks, List.find?_append, none, Option.none_or]
  exact List.find?_cons_of_pos (beq_self_eq_true k.tag)

end

theorem launches_of_offFaults {s t : State} (h : offFaults t = offFaults s) : t.launches = s.launches :=
  (congrArg State.launches h : (offFaults t).launches = (offFaults s).launches)

theorem tasks_of_offFaults {s t : State} (h : offFaults t = offFaults s) : t.tasks = s.tasks :=
  (congrArg State.tasks h : (offFaults t).tasks = (offFaults s).tasks)

/-- A node's task before its pins. -/
def newTask (s : State) (l : Launch) (node : Nat) : Task :=
  { tag := s.nextTask, launch := l.id, node, part := l.part, ctx := l.ctx, kind := nKind (gNode (launchDescr s l) node),
    teams := if nKind (gNode (launchDescr s l) node) = 0 then nTeams (gNode (launchDescr s l) node) else 0, pinned := true }

/-- The state in which the task stands. -/
def enrolled (s : State) (t : Task) : State := { s with tasks := s.tasks ++ [t], nextTask := s.nextTask + 1 }

theorem steady_loadRanges (s : State) (rs : List CruRange) : steady (loadRanges s rs) = steady s := by
  unfold loadRanges
  split
  · rfl
  · have each : ∀ (is : List Nat) (s : State), steady (is.foldl (fun s i => modCrusher s i fun c => { c with ranges := c.ranges ++ rs }) s) = steady s := by
      intro is
      induction is with
      | nil => exact fun _ => rfl
      | cons i is ih => exact fun s => (ih _).trans rfl
    exact each _ s

theorem fetches_fetchConsts {lines : List Nat} {n : List Byte} (here : ∀ q ∈ constLines n, q ∈ lines) (s : State) :
    Fetches lines s (fetchConsts s n) := by
  unfold fetchConsts
  refine fetches_foldl (fun s q hq => ?_) s
  split
  · exact .rfl
  · exact .rfl
  · refine fetches_foldl (fun s i _ => ?_) s
    dsimp only
    split
    · exact .rfl
    · exact fetches_joinMiss_getD (here q hq) ..

/-- The lines that a node's task pins or fetches. -/
def nodeLines (s : State) (l : Launch) (node : Nat) : List Nat :=
  (nodePins s (launchDescr s l) (gNode (launchDescr s l) node)).map (·.1) ++ constLines (gNode (launchDescr s l) node)

theorem Fetches.retask {lines : List Nat} {s t : State} (h : Fetches lines s t) (ts : List Task) :
    Fetches lines { s with tasks := ts } { t with tasks := ts } :=
  ⟨congrArg (fun u : State => { u with tasks := ts }) h.front,
    fun served => congrArg (fun x : State × Bool => (({ x.1 with tasks := ts } : State), x.2)) (h.calm served)⟩

/-- What is left to pin of a task. -/
def leftToPin (left : List (Nat × Nat)) (k : Task) : Task := { k with pinLeft := left }

/-- A step that fetches, and then changes the last task. -/
theorem Fetches.modTask_last {lines : List Nat} {s t : State} {old : List Task} {k : Task} (h : Fetches lines s t) (tasks : s.tasks = old ++ [k])
    (others : ∀ e ∈ old, e.tag ≠ k.tag) (f : Task → Task) : Fetches lines { s with tasks := old ++ [f k] } (modTask t k.tag f) := by
  have last : modTask t k.tag f = { t with tasks := old ++ [f k] } := by
    rw [modTask, tasks_of_offFaults h.front, tasks, modWhere_last f others]
  rw [last]
  exact h.retask _

theorem nodePins_enrolled (s : State) (t : Task) (d n : List Byte) : nodePins (enrolled s t) d n = nodePins s d n := rfl

/-- The ranges and the constant blocks of a node's task, after its pins. -/
def provided (s u : State) (l : Launch) (node : Nat) (t : Task) : State :=
  let d := launchDescr s l
  let v := modTask u t.tag fun _ => t
  let at' := look 0 ((graphOf v l.part l.handle).map (·.spillAt)).toList.flatten l.version
  let w := loadRanges v (rangesOf d (gNode d node) t.tag (areaBase d at' l.area node))
  if nKind (gNode d node) = 0 then fetchConsts w (gNode d node) else w

theorem makeTask_eq {s u : State} {l : Launch} {node : Nat} {left : List (Nat × Nat)}
    (pinned : pinAll (nodePins s (launchDescr s l) (gNode (launchDescr s l) node)) (enrolled s (newTask s l node)) = (u, left)) :
    makeTask s l node = (provided s u l node (leftToPin left (newTask s l node)), leftToPin left (newTask s l node)) := by
  rw [← nodePins_enrolled s (newTask s l node)] at pinned
  unfold enrolled newTask at pinned
  simp only [makeTask, pinned]
  rfl

theorem fetches_provided (s u : State) (l : Launch) (node : Nat) (t : Task) :
    Fetches (nodeLines s l node) (modTask u t.tag fun _ => t) (provided s u l node t) := by
  unfold provided
  dsimp only
  split
  · exact Fetches.trans (.of_steady (steady_loadRanges ..)) (fetches_fetchConsts (fun q hq => List.mem_append_right _ hq) _)
  · exact .of_steady (steady_loadRanges ..)

/-- The task with its pins, as far as they are established. -/
theorem makeTask_spec {s : State} {l : Launch} {node : Nat} (fresh : ∀ k ∈ s.tasks, k.tag < s.nextTask) :
    (∃ left, (makeTask s l node).2 = leftToPin left (newTask s l node)) ∧
      Fetches (nodeLines s l node) (enrolled s (makeTask s l node).2) (makeTask s l node).1 := by
  have pins := fetches_pinAll (lines := nodeLines s l node) (ps := nodePins s (launchDescr s l) (gNode (launchDescr s l) node))
    (fun p hp => List.mem_append_left _ (List.mem_map_of_mem hp)) (enrolled s (newTask s l node))
  obtain ⟨⟨u, left⟩, pinned⟩ : ∃ x, pinAll (nodePins s (launchDescr s l) (gNode (launchDescr s l) node)) (enrolled s (newTask s l node)) = x := ⟨_, rfl⟩
  rw [pinned] at pins
  have held := pins.modTask_last (old := s.tasks) (k := newTask s l node) rfl (fun e he => Nat.ne_of_lt (fresh e he))
    fun _ => leftToPin left (newTask s l node)
  rw [makeTask_eq pinned]
  exact ⟨⟨left, rfl⟩, held.trans (fetches_provided s u l node (leftToPin left (newTask s l node)))⟩

/-- Pins that had to wait are tried again, and the lines that are not there are asked for. -/
theorem settlePins_spec {s : State} {old : List Task} {k : Task} (tasks : s.tasks = old ++ [k]) (others : ∀ e ∈ old, e.tag ≠ k.tag) :
    ∃ left, offFaults (settlePins s k).1 = offFaults { s with tasks := old ++ [leftToPin left k] } := by
  obtain ⟨⟨u, left⟩, pinned⟩ : ∃ x, pinAll k.pinLeft s = x := ⟨_, rfl⟩
  have pins : Fetches (k.pinLeft.map (·.1)) s u := by
    rw [show u = (pinAll k.pinLeft s).1 by rw [pinned]]
    exact fetches_pinAll (fun p hp => List.mem_map_of_mem hp) s
  refine ⟨left, Eq.trans ?_ (pins.modTask_last tasks others (leftToPin left)).front⟩
  simp only [settlePins, pinned]
  exact offFaults_foldl (fun t (p : Nat × Nat) => (fetches_fetchPin (List.mem_singleton_self p.1) t p.2).front) _ _

/-! ### Tasks that run (R372, R376, R410) -/

/-- Two states with the same tasks and launches. -/
structure SameFront (s t : State) : Prop where
  tasks : t.tasks = s.tasks
  launches : t.launches = s.launches

theorem sameFront_askPreempt (s : State) (rank : Nat) (cls : List Nat) : SameFront s (askPreempt s rank cls) := by
  unfold askPreempt
  split <;> exact ⟨rfl, rfl⟩

theorem sameFront_writeTable (s : State) (l : Launch) (d : List Byte) (node : Nat) (plan : List (Nat × Nat)) :
    SameFront s (writeTable s l d node plan) :=
  ⟨tasks_of_offMemory (offMemory_agentWrite ..), launches_of_offFaults (offFaults_of_offMemory (offMemory_agentWrite ..))⟩

/-- A task that runs from now on. -/
def ran (time : W64) (plan : List (Nat × Nat)) (k : Task) : Task := { k with st := .running, startTime := time, waitSince := time, plan }

/-- A launch of which a node runs. -/
def withNode (node tag : Nat) (l : Launch) : Launch := { l with nodes := put .idle l.nodes node (.running tag) }

theorem nodeState_withNode (l : Launch) (node tag : Nat) : nodeState (withNode node tag l) node = .running tag :=
  look_put_same (d := NodeState.idle) l.nodes node (.running tag)

theorem launchOf_modLaunch {s : State} {id : Nat} {l : Launch} (f : Launch → Launch) (keep : ∀ l, (f l).id = l.id) (here : launchOf s id = some l) :
    launchOf (modLaunch s id f) id = some (f l) :=
  (find?_modWhere (p := fun l : Launch => l.id == id) (fun a ha => by rw [keep]; exact ha) s.launches).trans (congrArg (Option.map f) here)

/-- The task `k` of a node of the launch `l` runs. -/
structure Runs (l : Launch) (k : Task) (t : State) : Prop where
  task : ∃ time plan, ran time plan k ∈ t.tasks
  launch : ∃ m, launchOf t l.id = some m ∧ nodeState m k.node = .running k.tag

theorem Runs.of_sameFront {t u : State} {l : Launch} {k : Task} (h : Runs l k t) (same : SameFront t u) : Runs l k u := by
  obtain ⟨task, launch⟩ := h
  exact ⟨by rwa [same.tasks], by rwa [launchOf, same.launches]⟩

theorem runs_runTask {s : State} {l : Launch} {old : List Task} {k q : Task} (plan : List (Nat × Nat)) (tasks : s.tasks = old ++ [k])
    (others : ∀ e ∈ old, e.tag ≠ k.tag) (here : launchOf s l.id = some l) (tag : q.tag = k.tag) (node : q.node = k.node) :
    Runs l k (runTask s l q plan) := by
  have last : (runTask s l q plan).tasks = old ++ [ran (die s 8).time plan k] := by
    rw [← modWhere_last (ran (die s 8).time plan) others, ← tasks, ← tag]
    rfl
  refine ⟨⟨_, _, last ▸ List.mem_append_right _ (List.mem_singleton_self _)⟩, withNode q.node q.tag l, ?_, ?_⟩
  · exact launchOf_modLaunch (withNode q.node q.tag) (fun _ => rfl) (s := modTask s q.tag (ran (die s 8).time plan)) here
  · rw [← node, ← tag, nodeState_withNode]

theorem no_fault {kind code : Nat} (sound : kind = 0 → code = 0) : (decide (kind = 0) && decide (code ≠ 0)) = false := by simpa using sound

section
variable {s r0 r : State} {l : Launch} {node : Nat} {k0 : Task} {ok : Bool} {n : List Byte} (named : n = gNode (launchDescr s l) node)
  (sound : nKind n = 0 → nodeFault s l.part (clusterServes s) n = 0) (absent : taskAt s l node = none)
  (made : makeTask s l node = (r0, k0)) (settled : settlePins r0 k0 = (r, ok))
include named sound absent made settled

theorem startNode_waits (waits : ok = false) : startNode s l node = r := by
  subst named waits
  have fine := no_fault sound
  simp only [startNode, fine, absent, made, settled]
  rfl

theorem startNode_gang_waits (pinned : ok = true) (kind : nKind n = 0) (gang : nGang n = true)
    (full : planGang l k0 n (List.range (nTeams n)) r [] = none) :
    startNode s l node = askPreempt r (rankOf s l) ((allClusters s.variant).filter (eligible s l n)) := by
  subst named pinned
  have fine := no_fault sound
  simp only [startNode, fine, absent, made, settled]
  simp only [kind, gang, full, decide_true, Bool.true_and, Bool.not_true, Bool.false_eq_true, if_true, if_false]

theorem startNode_gang (pinned : ok = true) (kind : nKind n = 0) (gang : nGang n = true) {plan : List (Nat × Nat)}
    (room : planGang l k0 n (List.range (nTeams n)) r [] = some plan) : startNode s l node =
      emits (beginSlice (runTask (writeTable r l (launchDescr s l) node plan) l k0 plan) l.part l.ctx)
        (plan.map fun e => .front "TEAM_START" k0.tag e.2) := by
  subst named pinned
  have fine := no_fault sound
  simp only [startNode, fine, absent, made, settled]
  simp only [kind, gang, room, decide_true, Bool.true_and, Bool.not_true, Bool.false_eq_true, if_true, if_false]
  exact foldl_emit (fun e : Nat × Nat => .front "TEAM_START" k0.tag e.2) _ _

theorem startNode_teams (pinned : ok = true) (kind : nKind n = 0) (gang : nGang n = false) :
    SameFront (runTask r l k0 []) (startNode s l node) := by
  subst named pinned
  have fine := no_fault sound
  simp only [startNode, fine, absent, made, settled]
  simp only [kind, gang, decide_true, Bool.true_and, Bool.not_true, Bool.false_eq_true, if_true, if_false]
  split
  · exact ⟨(sameFront_askPreempt ..).tasks, (sameFront_askPreempt ..).launches⟩
  · exact ⟨rfl, rfl⟩

theorem startNode_engine (pinned : ok = true) (kind : nKind n ≠ 0) : startNode s l node =
    if nKind n = 2 ∧ nScope n = 1 then modLaunch (runTask r l k0 []) l.id fun l => { l with scopeOne := true } else runTask r l k0 [] := by
  subst named pinned
  have fine := no_fault sound
  simp only [startNode, fine, absent, made, settled]
  simp [kind]

end

/-! ### The start of a launch (R251, R371, R374, R375, R407) -/

/-- Two states with the same launches, whose contexts are the same. -/
structure SameCtxs (s t : State) : Prop where
  launches : t.launches = s.launches
  ctxs : ∀ p c, ctxOf t p c = ctxOf s p c

theorem SameCtxs.rfl {s : State} : SameCtxs s s := ⟨Eq.refl _, fun _ _ => Eq.refl _⟩

theorem SameCtxs.trans {s t u : State} (h : SameCtxs s t) (k : SameCtxs t u) : SameCtxs s u :=
  ⟨k.launches.trans h.launches, fun p c => (k.ctxs p c).trans (h.ctxs p c)⟩

theorem sameCtxs_of_parts {s t : State} (launches : t.launches = s.launches) (parts : t.parts = s.parts) : SameCtxs s t :=
  ⟨launches, fun p c => by rw [ctxOf, part, parts, ctxOf, part]⟩

theorem sameCtxs_foldl {β : Type} {f : State → β → State} (h : ∀ s b, SameCtxs s (f s b)) (l : List β) (s : State) : SameCtxs s (l.foldl f s) := by
  induction l generalizing s with
  | nil => exact .rfl
  | cons b l ih => exact (h s b).trans (ih _)

theorem sameCtxs_accountShared (s : State) : SameCtxs s (accountShared s) := by
  unfold accountShared
  dsimp only
  split
  · exact ⟨rfl, fun _ _ => rfl⟩
  · refine ⟨rfl, fun p c => congrArg (fun m => look none m c) ?_⟩
    refine look_map_rel (R := fun r' r : Part => r'.ctxs = r.ctxs) ?_ ?_ ?_ s.parts p
    · exact fun _ => rfl
    · rfl
    · exact fun _ => rfl

theorem accountShared_dies (s : State) : (accountShared s).dies = s.dies := by
  unfold accountShared
  dsimp only
  split <;> rfl

theorem sameCtxs_agentWrite (s : State) (p pa : Nat) (bs : List Byte) : SameCtxs s (agentWrite s p pa bs) :=
  sameCtxs_of_parts (congrArg State.launches (offMemory_agentWrite s p pa bs) :) (congrArg State.parts (offMemory_agentWrite s p pa bs) :)

theorem sameCtxs_dropCopies (s : State) (p i : Nat) : SameCtxs s (dropCopies s p i) :=
  sameCtxs_of_parts (congrArg State.launches (offQps_dropCopies s p i) :) (congrArg State.parts (offQps_dropCopies s p i) :)

theorem sameCtxs_modQueue (s : State) (p q : Nat) (f : Queue → Queue) : SameCtxs s (modQueue s p q f) := by
  refine ⟨rfl, fun p' c => ?_⟩
  rw [ctxOf, modQueue, setQueue, modPart, part_setPart]
  split
  next same => rw [same, ctxOf]
  next => rfl

theorem sameCtxs_markLaunches (s : State) (r : ResvCfg) : SameCtxs s (markLaunches s r) := by
  unfold markLaunches
  exact sameCtxs_foldl (fun t l => sameCtxs_modQueue ..) _ _

theorem ctxOf_setCtx (s : State) (p c : Nat) (v : Option Ctx) : ctxOf (setCtx s p c v) p c = v := by
  rw [ctxOf, setCtx, modPart, part_setPart, if_pos rfl]
  exact look_put_same (d := none) _ c v

/-- A launch that has started. -/
def begun (s : State) (n : Nat) (l : Launch) : Launch := { l with constSlot := some n, started := true, startTime := (die s 8).time }

/-- The launch stands as started, with its slot taken. -/
def slotTaken (s : State) (l : Launch) (n : Nat) : State :=
  modLaunch (setCtx (accountShared s) l.part l.ctx ((ctxOf s l.part l.ctx).map fun c => { c with slotsUsed := c.slotsUsed ++ [n] })) l.id
    fun _ => begun s n l

theorem sameCtxs_startLaunch {s : State} {l : Launch} {n : Nat} (slot : constSlotFor s l = some n) : SameCtxs (slotTaken s l n) (startLaunch s l) := by
  have ctx := (sameCtxs_accountShared s).ctxs l.part l.ctx
  have time : (die (setCtx (accountShared s) l.part l.ctx ((ctxOf s l.part l.ctx).map fun c => { c with slotsUsed := c.slotsUsed ++ [n] })) 8).time =
      (die s 8).time := congrArg (fun m => (look ({} : Die) m 8).time) (accountShared_dies s)
  unfold startLaunch
  rw [slot]
  dsimp only
  rw [ctx, time]
  refine .trans ?_ (sameCtxs_foldl sameCtxs_markLaunches _ _)
  refine .trans ?_ (sameCtxs_foldl (fun t k => sameCtxs_dropCopies t l.part (128 + k)) _ _)
  refine .trans ?_ (sameCtxs_agentWrite ..)
  split
  · exact ⟨rfl, fun _ _ => rfl⟩
  · exact .rfl

theorem launchOf_slotTaken {s : State} {l : Launch} (n : Nat) (here : launchOf s l.id = some l) : launchOf (slotTaken s l n) l.id = some (begun s n l) := by
  have launches : (setCtx (accountShared s) l.part l.ctx ((ctxOf s l.part l.ctx).map fun c => { c with slotsUsed := c.slotsUsed ++ [n] })).launches =
      s.launches := (sameCtxs_accountShared s).launches
  rw [launchOf, slotTaken, modLaunch, launches]
  exact (find?_modWhere (p := fun x : Launch => x.id == l.id) (f := fun _ => begun s n l) (fun _ _ => beq_self_eq_true l.id) s.launches).trans
    (congrArg (Option.map fun _ => begun s n l) here :)

theorem ctxOf_slotTaken (s : State) (l : Launch) (n : Nat) : ctxOf (slotTaken s l n) l.part l.ctx =
    (ctxOf s l.part l.ctx).map fun c => { c with slotsUsed := c.slotsUsed ++ [n] } := ctxOf_setCtx ..

/-- The slot that a launch takes is free in its context. -/
theorem constSlotFor_spec {s : State} {l : Launch} {n : Nat} (slot : constSlotFor s l = some n) :
    ∃ c, ctxOf s l.part l.ctx = some c ∧ n ∉ c.slotsUsed := by
  obtain ⟨c, here, first⟩ := Option.bind_eq_some_iff.1 slot
  refine ⟨c, here, fun used => ?_⟩
  have free := List.find?_some first
  simp [used] at free

/-! ### O38 -/

/-- What stands of a node's task once its pins were tried: the last task, and the launches as they were. -/
structure Stands (s r : State) (k : Task) : Prop where
  tasks : ∃ left, r.tasks = s.tasks ++ [leftToPin left k]
  launches : r.launches = s.launches

theorem stands_settled {s r0 r : State} {l : Launch} {node : Nat} {k0 : Task} {ok : Bool} (fresh : ∀ k ∈ s.tasks, k.tag < s.nextTask)
    (made : makeTask s l node = (r0, k0)) (settled : settlePins r0 k0 = (r, ok)) :
    (∃ left, k0 = leftToPin left (newTask s l node)) ∧ Stands s r k0 := by
  obtain ⟨⟨left, task⟩, fetches⟩ := makeTask_spec (l := l) (node := node) fresh
  rw [made] at task fetches
  have tag : k0.tag = s.nextTask := congrArg Task.tag task
  obtain ⟨left', front⟩ := settlePins_spec (tasks_of_offFaults fetches.front) fun e he => Nat.ne_of_lt (tag ▸ fresh e he)
  rw [settled] at front
  exact ⟨⟨left, task⟩, ⟨left', tasks_of_offFaults front⟩, (launches_of_offFaults front).trans (launches_of_offFaults fetches.front :)⟩

/-- Settles O38. -/
theorem nodesStart : Obligations.NodesStart := by
  unfold Obligations.NodesStart
  refine ⟨fun s l node n here serves sound started named node' idle after free absent fresh fine r0 k0 r ok made settled => ?_,
    fun s l node n here serves sound first node' idle after => ?_, fun s l node here serves sound node' idle after fresh => ?_⟩
  · replace made := made.symm
    have turn : NodeTurn s l node := ⟨here, serves, sound, node', idle, after⟩
    have run := exec_nodeStart_started turn started free
    have word := named.trans turn.node_eq
    obtain ⟨⟨left0, rfl⟩, ⟨left, tasks⟩, launches⟩ := stands_settled fresh made settled
    have others : ∀ e ∈ s.tasks, e.tag ≠ s.nextTask := fun e he => Nat.ne_of_lt (fresh e he)
    have there : launchOf r l.id = some l := by rwa [launchOf, launches]
    refine ⟨fun waits => ⟨?_, _, tasks ▸ List.mem_append_right _ (List.mem_singleton_self _), rfl, rfl⟩, fun pinned plain => ?_,
      fun pinned kind gang => ⟨fun plan room => ?_, fun full => ?_⟩⟩
    · rw [run, startNode_waits word fine absent made settled waits]
    · have runs : Runs l (leftToPin left (leftToPin left0 (newTask s l node))) (startNode s l node) := by
        have stands := runs_runTask (q := leftToPin left0 (newTask s l node)) [] tasks others there rfl rfl
        by_cases kind : nKind n = 0
        · exact stands.of_sameFront (startNode_teams word fine absent made settled pinned kind (plain.resolve_left (absurd kind)))
        · rw [startNode_engine word fine absent made settled pinned kind]
          split
          · obtain ⟨task, m, found, state⟩ := stands
            exact ⟨task, _, launchOf_modLaunch (fun l => { l with scopeOne := true }) (fun _ => rfl) found, state⟩
          · exact stands
      obtain ⟨⟨time, plan, task⟩, m, found, state⟩ := runs
      exact ⟨_, _, m, run, task, rfl, rfl, rfl, rfl, rfl, by rw [word]; rfl, rfl, rfl, by rw [word]; rfl, found, state⟩
    · have same := sameFront_writeTable r l (launchDescr s l) node plan
      have started' := startNode_gang word fine absent made settled pinned kind gang room
      obtain ⟨-, m, found, state⟩ := (runs_runTask (s := writeTable r l (launchDescr s l) node plan) (q := leftToPin left0 (newTask s l node)) plan
        (same.tasks.trans tasks) others (by rwa [launchOf, same.launches]) rfl rfl)
      refine ⟨_, m, run, ?_, state, fun e he => ?_⟩
      · rw [started']
        exact found
      · rw [started']
        exact List.mem_append_right _ (List.mem_map.2 ⟨e, he, rfl⟩)
    · refine ⟨_, l, run, ?_, idle⟩
      rw [startNode_gang_waits word fine absent made settled pinned kind gang full, launchOf, (sameFront_askPreempt ..).launches]
      exact there
  · have turn : NodeTurn s l node := ⟨here, serves, sound, node', idle, after⟩
    have run := exec_nodeStart_first turn first
    refine ⟨fun wait => ?_, fun ready slot => ?_⟩
    · rw [run, wait]
      rfl
    · have same := sameCtxs_startLaunch slot
      have begins : launchOf (startLaunch s l) l.id = some (begun s n l) := by
        rw [launchOf, same.launches]
        exact launchOf_slotTaken n here
      obtain ⟨c, ctx, unused⟩ := constSlotFor_spec slot
      refine ⟨begun s n l, begins, rfl, ?_, c, { c with slotsUsed := c.slotsUsed ++ [n] }, ctx, ?_, unused, rfl⟩
      · rw [run, if_pos ready, begins]
        rfl
      · rw [same.ctxs, ctxOf_slotTaken, ctx]
        rfl
  · have turn : NodeTurn s l node := ⟨here, serves, sound, node', idle, after⟩
    have run := exec_preload_next turn
    refine ⟨fun there => by rw [run, if_pos there], fun absent room => ?_⟩
    obtain ⟨⟨left, task⟩, fetches⟩ := makeTask_spec (l := l) (node := node) fresh
    rw [if_neg (by rintro (there | full); exacts [there absent, Nat.not_le.2 room full])] at run
    refine ⟨_, (makeTask s l node).2, run, tasks_of_offFaults fetches.front, ?_, ?_, ?_, ?_, ?_, (launches_of_offFaults fetches.front :), fun served => ?_,
      List.mem_append_right _ (List.mem_singleton_self _)⟩
    · rw [task]; rfl
    · rw [task]; rfl
    · rw [task]; rfl
    · rw [task]; rfl
    · rw [task]; rfl
    · rw [turn.node_eq] at served
      exact (groups_of_steady (fetches.calm served) :)

end Sys2Proof.Machine

/-! SUPPORT. What a fence of a group awaits, and when it is over. It settles O25. -/

namespace Sys2Proof.Machine

/-! ### Groups that are written twice -/

theorem unlist_unlist {α : Type} (m : SMap α) (k : Nat) : unlist (unlist m k) k = unlist m k := by
  induction m with
  | nil => rfl
  | cons e m ih =>
    by_cases here : e.1 = k <;> simp [unlist, here, ih]

theorem unlist_enlist {α : Type} (m : SMap α) (k : Nat) (v : α) : unlist (enlist m k v) k = unlist m k := by
  induction m with
  | nil => simp [unlist, enlist]
  | cons e m ih =>
    by_cases before : k < e.1
    · simp [enlist, before, unlist]
    · by_cases here : e.1 = k <;> simp [enlist, before, unlist, here, ih]

/-- What a place of a table held before the last write to it is forgotten. -/
theorem put_put {α : Type} [DecidableEq α] (d : α) (m : SMap α) (k : Nat) (v w : α) : put d (put d m k v) k w = put d m k w := by
  have forgotten : unlist (put d m k v) k = unlist m k := by
    unfold put
    split_ifs
    · exact unlist_unlist m k
    · rw [unlist_enlist, unlist_unlist]
  rw [put, forgotten, put]

theorem setGroup_setGroup (s : State) (gid : Nat) (v w : Option Group) : setGroup (setGroup s gid v) gid w = setGroup s gid w :=
  congrArg (fun gs => { s with groups := gs }) (put_put none s.groups gid v w)

theorem modGroup_setGroup (s : State) (gid : Nat) (x : Group) (f : Group → Group) :
    modGroup (setGroup s gid (some x)) gid f = setGroup s gid (some (f x)) := by
  rw [modGroup, group_setGroup, if_pos rfl, setGroup_setGroup]
  rfl

/-! ### What a fence awaits (R340 to R343) -/

/-- An issue step leaves what the group has contributed to. -/
theorem advance_contrib (g : Group) : (advance g).contrib = g.contrib := by
  unfold advance
  split
  · rfl
  · next p active =>
    rw [(turned_countTurn _).rest, setActive_eq active]

theorem sendPackets_nil (s : State) (gid pc : Nat) (w : W64) : sendPackets s gid pc w [] = s := by
  simp [sendPackets, newTags]

theorem fenceLines_of_no_contrib (s : State) (gid : Nat) {x : Group} (idle : x.contrib = []) (scope : Nat) : fenceLines s gid x scope = [] := by
  unfold fenceLines
  rw [idle]
  split <;> rfl

/-- The accesses of a group that a fence awaits. -/
theorem awaited_eq (accs : List Access) (gid : Nat) (f : Access → Bool) :
    (accs.filter fun a => a.gid == gid).filter f = accs.filter fun a => a.gid == gid && f a := by
  rw [List.filter_filter]
  exact List.filter_congr fun a _ => Bool.and_comm _ _

/-- A release fence below system scope of a group that has contributed to no line sends nothing. -/
theorem startFence_release (s : State) (gid : Nat) {x : Group} {scope : Nat} (idle : x.contrib = []) (inside : scope < 3) :
    startFence (setGroup s gid (some x)) gid true scope false = setGroup s gid (some { x with
      contrib := [], fence := some { waits := ((s.accs.filter fun a => a.gid == gid && relWaits scope a).map (·.tag)) } }) := by
  unfold startFence
  rw [group_setGroup, if_pos rfl]
  simp only [if_true, fenceLines_of_no_contrib _ _ idle, List.map_nil, sendPackets_nil, if_neg (Nat.ne_of_lt inside), modGroup_setGroup, awaited_eq]
  rfl

/-- An acquire fence below system scope sends nothing. -/
theorem startFence_acquire (s : State) (gid : Nat) {x : Group} {scope : Nat} (inside : scope < 3) :
    startFence (setGroup s gid (some x)) gid false scope false = setGroup s gid (some { x with
      fence := some { waits := ((s.accs.filter fun a => a.gid == gid && (acqWaits a || a.kind == .inv)).map (·.tag)) } }) := by
  unfold startFence
  rw [group_setGroup, if_pos rfl]
  simp only [Bool.false_eq_true, if_false, if_neg (Nat.ne_of_lt inside), modGroup_setGroup, awaited_eq]
  rfl

section
variable {g : GRef} {w : W64} {s : State} {x : Group} {p : Path} (h : MayIssue s g x p) (free : x.fence = none)
  (word : WordOk x w 0x5C [(9, 8), (10, 10)] [] none)
include word

theorem fenceFaults_none {kind : Nat} (kinds : bits w 10 10 = kind) : firstFault (fenceFaults w kind x) = none := by
  refine firstFault_none (List.forall_mem_cons.2 ⟨?_, wordFaults_none word⟩)
  rw [bne_eq_false_iff_eq.2 word.1, bne_eq_false_iff_eq.2 kinds]
  rfl

include h free

theorem exec_fenceRel_next (release : bits w 10 10 = 1) : exec (.fenceRel g w) s =
    .next (fetched s (gidOf g) x p (startFence (setGroup s (gidOf g) (some (advance x))) (gidOf g) true (bits w 9 8) false)) :=
  (onUnit_next _ _ _).2 ⟨h.unit, issue_acts h (Option.isNone_iff_eq_none.2 free) (fenceFaults_none word release)⟩

theorem exec_fenceAcq_next (acquire : bits w 10 10 = 0) : exec (.fenceAcq g w) s =
    .next (fetched s (gidOf g) x p (startFence (setGroup s (gidOf g) (some (advance x))) (gidOf g) false (bits w 9 8) false)) :=
  (onUnit_next _ _ _).2 ⟨h.unit, issue_acts h (Option.isNone_iff_eq_none.2 free) (fenceFaults_none word acquire)⟩

end

/-! ### The end of a fence (R342 to R345) -/

theorem fenceDone_iff {s : State} {f : Fence} : fenceDone s f = true ↔ ∀ t ∈ f.waits, accessOf s t = none := by
  simp [fenceDone]

theorem completeFence_eq {s : State} {gid : Nat} {x : Group} {f : Fence} (here : group s gid = some x) (fence : x.fence = some f) :
    completeFence s gid = if x.park = none ∧ ∀ t ∈ f.waits, accessOf s t = none then
      (if f.forBarrier then arrive s gid else setGroup s gid (some { x with fence := none })) else s := by
  have waits : (x.park.isSome || !fenceDone s f) = true ↔ ¬(x.park = none ∧ ∀ t ∈ f.waits, accessOf s t = none) := by
    rw [← fenceDone_iff, Bool.or_eq_true, Option.isSome_iff_ne_none, Bool.not_eq_true', ← Bool.not_eq_true, not_and_or]
  unfold completeFence
  rw [here]
  simp only [fence, waits]
  exact ite_not ..

/-- Settles O25: a fence that breaks no rule starts, one that closes nothing only notes the tags that it awaits, and it completes where
nothing is outstanding under those tags. -/
theorem fencesWaitAndComplete : Obligations.FencesWaitAndComplete := by
  unfold Obligations.FencesWaitAndComplete
  refine ⟨fun g w s x p scope h free named => ?_, fun g s x f unit here fence => ?_⟩
  · subst named
    refine ⟨fun word release => ⟨exec_fenceRel_next h free word release, fun contrib inside => ?_⟩,
      fun word acquire => ⟨exec_fenceAcq_next h free word acquire, fun inside => ?_⟩⟩
    · rw [exec_fenceRel_next h free word release, startFence_release s _ ((advance_contrib x).trans contrib) inside]
    · rw [exec_fenceAcq_next h free word acquire, startFence_acquire s _ inside]
  · exact (onUnit_next _ _ _).2 ⟨unit, completeFence_eq here fence⟩

end Sys2Proof.Machine

/-! SUPPORT. When ATOM, RED and CRU.CLOSE issue, and which of their operations leave as packets. It settles O24. -/

namespace Sys2Proof.Machine
open Sys2Proof.Num

/-! ### References of an update (R155, R257) -/

section
variable {s : State} {g : GRef} {x : Group} {u : Use} {refs : List Ref}

theorem RefsOk.unchecked (ok : RefsOk s g x u true refs) : RefsOk s g x u false refs := fun r here => by
  obtain ⟨h, hit, -⟩ := ok r here
  exact ⟨h, hit, fun no => by cases no⟩

/-- The targets of references that pass the checks of R26 refuse nothing. -/
theorem RefsOk.late (ok : RefsOk s g x u true refs) : ∀ h ∈ hitsFor s g x u refs, h.late = none := by
  intro h here
  obtain ⟨e, listed, found⟩ := List.mem_filterMap.1 here
  obtain ⟨r, ref, rfl⟩ := List.mem_map.1 listed
  obtain ⟨k, hit, passes⟩ := ok r ref
  rw [hit] at found
  exact Option.some.inj found ▸ passes rfl

/-- Where no target of an update refuses it, its references are those that were translated. -/
theorem updateHits_clean (precise : Bool) {other : Nat → Option Nat} (ok : RefsOk s g x .store true refs)
    (takes : ∀ h ∈ hitsFor s g x .store refs, other h.pa = none) :
    updateHits s g.cl x precise other refs = refs.map fun r => (r, hitOf s g.cl x .store r) := by
  refine List.map_congr_left fun r ref => ?_
  obtain ⟨h, hit, passes⟩ := ok r ref
  simp only [hit, passes rfl, takes h (mem_hitsFor ref hit)]

/-- Operations at cluster memory are those whose targets are its windows, when no check fails there. -/
theorem partition_near {hs : List Hit} {r : Hit → CruRecord} {q : Hit × CruRecord → Bool} {near : Hit → Bool} (agrees : ∀ h ∈ hs, q (h, r h) = near h) :
    (hs.map fun h => (h, r h)).partition q =
      ((hs.filter near).map fun h => (h, r h), (hs.filter fun h => !near h).map fun h => (h, r h)) := by
  rw [List.partition_eq_filter_filter, List.filter_map, List.filter_map]
  congr 2 <;> exact List.filter_congr fun h here => by simp [agrees h here]

theorem isNear_of_refsOk (ok : RefsOk s g x u true refs) :
    ∀ h ∈ hitsFor s g x u refs, (isWindow s h.pa && h.late.isNone) = isWindow s h.pa := fun h here => by
  rw [ok.late h here]
  exact Bool.and_true _

end

/-! ### Operations at banks and packets (R257, R268, R269) -/

/-- The addresses of an update: each thread of the path gives one in two registers. -/
abbrev updateRefs (x : Group) (p : Path) (ra size : Nat) : List Ref :=
  (lanes p.mask).map fun l => { va := readBlock x l ra 2, len := size, lane := l }

/-- The operations of an update's references: those at windows act at the banks of the cluster, the others leave in packets that `mk` makes. -/
def updatesSent (s : State) (g : GRef) (x : Group) (p : Path) (w : W64) (op size : Nat) (rd : Option Nat) (record : Hit → CruRecord)
    (mk : Nat → Nat → Nat → List CruRecord → CruPacket) (reg : Nat) (hs : List Hit) : State :=
  let t := bankUpdates (cacheLeaves (setGroup s (gidOf g) (some (advance x))) g.cl hs) (gidOf g) op size rd
    ((hs.filter fun h => isWindow s h.pa).map fun h => (h, record h))
  sendPackets t (gidOf g) p.pc w (linePackets t ((hs.filter fun h => !isWindow s h.pa).map fun h => (h, record h)) mk reg)

/-- What an ATOM or a RED does with its references; `other` names the targets that refuse it. -/
def updateAct (s : State) (g : GRef) (x : Group) (p : Path) (w : W64) (precise : Bool) (other : Nat → Option Nat) (refs : List Ref) (op size : Nat)
    (rd : Option Nat) (record : Hit → CruRecord) (mk : Nat → Nat → Nat → List CruRecord → CruPacket) (reg : Nat) : State :=
  let l := updateHits s g.cl x precise other refs
  match refFault false l with
  | some (c, va, m) => parkAt s (gidOf g) p c va w m
  | none =>
    let hs := hitsOf l
    if !segsFree s (gidOf g) .update hs then notReady s (gidOf g)
    else
      let (near, far) := (hs.map fun h => (h, record h)).partition fun (h, _) => isWindow s h.pa && h.late.isNone
      let t := bankUpdates (cacheLeaves (retire s (gidOf g) x) g.cl hs) (gidOf g) op size rd near
      sendPackets t (gidOf g) p.pc w (linePackets t far mk reg)

section
variable {g : GRef} {w : W64} {s : State} {x : Group} {p : Path}

/-- References that are all translated, whose targets take the update, on free segments, are acted on. -/
theorem updateAct_sends {precise : Bool} {other : Nat → Option Nat} {refs : List Ref} (ok : RefsOk s g x .store true refs)
    (takes : ∀ h ∈ hitsFor s g x .store refs, other h.pa = none) (segs : segsFree s (gidOf g) .update (hitsFor s g x .store refs) = true)
    (op size : Nat) (rd : Option Nat) (record : Hit → CruRecord) (mk : Nat → Nat → Nat → List CruRecord → CruPacket) (reg : Nat) :
    updateAct s g x p w precise other refs op size rd record mk reg = updatesSent s g x p w op size rd record mk reg (hitsFor s g x .store refs) := by
  unfold updateAct
  dsimp only
  rw [updateHits_clean _ ok takes, refFault_none ok.unchecked]
  dsimp only
  rw [show hitsOf _ = hitsFor s g x .store refs from rfl, segs, partition_near (isNear_of_refsOk ok)]
  exact if_neg Bool.false_ne_true

theorem any_inGrant_eq_false {l : List (Nat × Nat)} (granted : ∀ e ∈ l, e.1 + e.2 ≤ x.regGrant) :
    (l.any fun e => !inGrant x e.1 e.2) = false :=
  List.any_eq_false.2 fun e here => by simpa [inGrant] using granted e here

theorem readyToUpdate {l : List (Nat × Nat)} (noRet : Prop) [Decidable noRet] (fence : x.fence = none) (free : BlocksFree s g l)
    (room : if noRet then writesOut s (gidOf g) < 64 else readsOut s (gidOf g) < 16) :
    (fenceFree x && (if noRet then canWrite s (gidOf g) else canRead s (gidOf g)) && blocksFree s (gidOf g) l) = true := by
  split_ifs at room ⊢
  · exact readyToWrite fence room free
  · exact readyToRead fence room free

/-! ### ATOM (R257 to R259) -/

/-- A word of ATOM that breaks no rule, of aligned addresses. -/
structure AtomUpdateOk (w : W64) (x : Group) (p : Path) : Prop where
  opcode : opcode w = 0x58
  reserved : reservedBits w atomFields = 0
  sized : bits w 10 8 ∈ [2, 3]
  operation : bits w 15 12 ≤ 9
  granted : ∀ e ∈ atomRegs w, e.1 + e.2 ≤ x.regGrant
  aligned : ∀ l ∈ lanes p.mask, readBlock x l (bits w 31 24) 2 % sizeOf w = 0

theorem atomFaults_none (word : AtomUpdateOk w x p) :
    ∀ e ∈ [(opcode w != 0x58, 0x21),
      (reservedBits w atomFields != 0 || (bits w 10 8 != 2 && bits w 10 8 != 3) || decide (9 < bits w 15 12), 0x22),
      ((atomRegs w).any fun e => !inGrant x e.1 e.2, 0x23),
      (misaligned (fun l => readBlock x l (bits w 31 24) 2) (sizeOf w) p.mask != 0, 0x26)], e.1 = false := by
  have sized : (bits w 10 8 != 2 && bits w 10 8 != 3) = false := by
    have either := word.sized
    simp only [List.mem_cons, List.mem_nil_iff, or_false] at either
    rcases either with two | three
    · rw [two]; rfl
    · rw [three]; rfl
  simp only [List.forall_mem_cons]
  refine ⟨bne_eq_false_iff_eq.2 word.opcode, ?_, any_inGrant_eq_false word.granted, ?_, List.forall_mem_nil _⟩
  · rw [word.reserved, sized, decide_eq_false (Nat.not_lt.2 word.operation)]
    rfl
  · rw [misaligned_eq_zero word.aligned]
    rfl

/-- The operation of ATOM at a reference, with its operand and for CAS its comparand (R258, R259). -/
def atomRecord (x : Group) (w : W64) (h : Hit) : CruRecord :=
  .rounded (h.pa % 128) (sizeOf w) (BitVec.ofNat 64 (readBlock x h.ref.lane (alignReg (sizeOf w) (bits w 39 32)) (regsOf (sizeOf w))))
    (if bits w 15 12 = 7 then BitVec.ofNat 64 (readBlock x h.ref.lane (alignReg (sizeOf w) (bits w 47 40)) (regsOf (sizeOf w))) else 0)

/-- The packet of ATOM for a line (R268, R269). -/
def atomPacket (x : Group) (w : W64) (ret : Bool) (line attr _va : Nat) (recs : List CruRecord) : CruPacket :=
  { line, fl := if bits w 10 8 = 2 then 0xA else 0xF, op := bits w 15 12, ret, task := x.task, attr, part := x.part, recs }

theorem exec_atom_next (h : MayIssue s g x p) (fence : x.fence = none) (word : AtomUpdateOk w x p) (free : BlocksFree s g (atomRegs w))
    (room : if bits w 48 48 = 1 then writesOut s (gidOf g) < 64 else readsOut s (gidOf g) < 16) :
    exec (.atom g w) s = .next (fetched s (gidOf g) x p (updateAct s g x p w (!decide (bits w 48 48 = 1))
      (fun pa => (updateTarget s pa).filter (· ≠ 0x65)) (updateRefs x p (bits w 31 24) (sizeOf w)) (bits w 15 12) (sizeOf w)
      (if bits w 48 48 = 1 then none else some (alignReg (sizeOf w) (bits w 23 16))) (atomRecord x w) (atomPacket x w (!decide (bits w 48 48 = 1)))
      (alignReg (sizeOf w) (bits w 23 16)))) :=
  (onUnit_next _ _ _).2 ⟨h.unit, issue_acts h (readyToUpdate _ fence free room) (firstFault_none (atomFaults_none word))⟩

theorem filter_updateTarget_atom {pa : Nat} (takes : updateTarget s pa = none ∨ updateTarget s pa = some 0x65) :
    (updateTarget s pa).filter (· ≠ 0x65) = none := by
  rcases takes with no | near
  · rw [no]; rfl
  · rw [near]; rfl

/-! ### RED (R257, R258, R260, R266) -/

/-- The format of the elements of a RED's line, and that of the values which its threads contribute (R258). -/
abbrev lineFormat (w : W64) : BitVec 4 := BitVec.ofNat 4 (bits w 11 8)
abbrev sourceFormat (w : W64) : BitVec 4 := BitVec.ofNat 4 (bits w 19 16)
/-- How it updates the line (R260). -/
abbrev formOfRed (w : W64) : RedForm := redForm (bits w 15 12) (sourceFormat w) (lineFormat w)
/-- Registers of a contribution: how many, and the first. -/
abbrev sourceRegs (w : W64) : Nat := Nat.max 1 (elemBits (sourceFormat w) / 32)
abbrev sourceReg (w : W64) : Nat := bits w 31 24 / sourceRegs w * sourceRegs w
/-- Does its packet carry a rounding block (R266)? -/
abbrev roundsAtRandom (w : W64) : Bool := decide (bits w 22 20 = 4) && redRounds (formOfRed w) (lineFormat w)
/-- The register blocks that it names. -/
def redBlocks (w : W64) : List (Nat × Nat) :=
  [(sourceReg w, sourceRegs w), (bits w 39 32, 2)] ++ (if roundsAtRandom w then [(bits w 47 40, 6)] else [])

/-- A word of RED that breaks no rule, of aligned addresses and formats that the partition may use. -/
structure RedUpdateOk (s : State) (w : W64) (x : Group) (p : Path) : Prop where
  opcode : opcode w = 0x59
  reserved : reservedBits w redFields = 0
  granted : ∀ e ∈ redBlocks w, e.1 + e.2 ≤ x.regGrant
  aligned : ∀ l ∈ lanes p.mask, readBlock x l (bits w 39 32) 2 % (elemBits (lineFormat w) / 8) = 0
  formats : FormatsOk s false [lineFormat w, sourceFormat w]
  mode : redRounds (formOfRed w) (lineFormat w) = true → bits w 22 20 < 5
  legal : formOfRed w ≠ .illegal

theorem redFaults_none (word : RedUpdateOk s w x p) :
    ∀ e ∈ [(opcode w != 0x59, 0x21), (reservedBits w redFields != 0, 0x22), ((redBlocks w).any fun e => !inGrant x e.1 e.2, 0x23),
        ((if elemBits (lineFormat w) / 8 = 0 then 0 else
          misaligned (fun l => readBlock x l (bits w 39 32) 2) (elemBits (lineFormat w) / 8) p.mask) != 0, 0x26)] ++
      formatFaults s [(lineFormat w, false), (sourceFormat w, false)] ++
      [(redRounds (formOfRed w) (lineFormat w) && badMode (bits w 22 20), 0x64), (formOfRed w == .illegal, 0x65)], e.1 = false := by
  refine List.forall_mem_append.2 ⟨List.forall_mem_append.2 ⟨?_, formatFaults_none word.formats⟩, ?_⟩
  · simp only [List.forall_mem_cons]
    refine ⟨bne_eq_false_iff_eq.2 word.opcode, bne_eq_false_iff_eq.2 word.reserved, any_inGrant_eq_false word.granted, ?_, List.forall_mem_nil _⟩
    rw [misaligned_eq_zero word.aligned, ite_self]
    rfl
  · simp only [List.forall_mem_cons]
    refine ⟨?_, beq_false_of_ne word.legal, List.forall_mem_nil _⟩
    cases rounds : redRounds (formOfRed w) (lineFormat w)
    · rfl
    · exact decide_eq_false (Nat.not_le.2 (word.mode rounds))

/-- The contribution of a reference's thread (R260, R269). -/
def redContribution (x : Group) (w : W64) (h : Hit) : CruRecord :=
  redRecord (formOfRed w) (sourceFormat w) (lineFormat w) (h.pa % 128) (readBlock x h.ref.lane (sourceReg w) (sourceRegs w) % 2 ^ elemBits (sourceFormat w))

/-- The packet of RED for a line (R266, R268, R269; log 18). -/
def redPacket (x : Group) (w : W64) (line attr va : Nat) (recs : List CruRecord) : CruPacket :=
  { line, fl := lineFormat w, op := bits w 15 12, rm := BitVec.ofNat 3 (bits w 22 20), sat := decide (bits w 23 23 = 1), ho := decide (bits w 48 48 = 1),
    rsr := if roundsAtRandom w then some ((rsrBlock x (bits w 47 40)).seed,
      (rsrBlock x (bits w 47 40)).base + BitVec.ofNat 64 (va / 128 * 128 / (elemBits (lineFormat w) / 8)), (rsrBlock x (bits w 47 40)).stream) else none,
    task := x.task, attr, part := x.part, recs }

theorem exec_red_next (h : MayIssue s g x p) (fence : x.fence = none) (word : RedUpdateOk s w x p) (free : BlocksFree s g (redBlocks w))
    (room : writesOut s (gidOf g) < 64) :
    exec (.red g w) s = .next (fetched s (gidOf g) x p (updateAct s g x p w false
      (fun pa => (updateTarget s pa).filter fun c => !(c == 0x65 && formOfRed w == .rounded && sourceFormat w == 0xA#4))
      (updateRefs x p (bits w 39 32) (elemBits (lineFormat w) / 8)) (bits w 15 12) (elemBits (lineFormat w) / 8) none (redContribution x w) (redPacket x w) 0)) :=
  (onUnit_next _ _ _).2 ⟨h.unit, issue_acts h (readyToWrite fence room free) (firstFault_none (redFaults_none word))⟩

/-- Cluster memory takes a RED of rounded form on INT32 (R257). -/
theorem filter_updateTarget_red {pa : Nat} {form : RedForm} {fs : BitVec 4}
    (takes : updateTarget s pa = none ∨ (updateTarget s pa = some 0x65 ∧ form = .rounded ∧ fs = 0xA)) :
    (updateTarget s pa).filter (fun c => !(c == 0x65 && form == .rounded && fs == 0xA#4)) = none := by
  rcases takes with no | ⟨near, rounded, int⟩
  · rw [no]; rfl
  · rw [near, rounded, int]; rfl

/-! ### CRU.CLOSE (R257, R258, R261) -/

/-- The closes of a CRU.CLOSE, one for each line (R261, R268). -/
def closesOf (x : Group) (far : List Hit) (code : List Hit → Nat) : List (Nat × CruPacket × List Piece × Nat) :=
  (linesOf far).map fun line =>
    (((far.filter fun h => h.pa / 128 == line).head?.map (·.ref.va)).getD 0, closePacket line x.task x.part true,
      (far.filter fun h => h.pa / 128 == line).map (fun h => hitPiece h 0), code (far.filter fun h => h.pa / 128 == line))

/-- The code of the first target among references that fails a check of R26. -/
def lateCode (hs : List Hit) : Nat := (hs.findSome? (·.late)).getD 0

theorem lateCode_eq_zero {hs : List Hit} (late : ∀ h ∈ hs, h.late = none) : lateCode hs = 0 := by
  rw [lateCode, List.findSome?_eq_none_iff.2 late]
  rfl

theorem closesOf_lateCode {far : List Hit} (late : ∀ h ∈ far, h.late = none) : closesOf x far lateCode = closesOf x far fun _ => 0 :=
  List.map_congr_left fun line _ => by rw [lateCode_eq_zero fun h here => late h (List.mem_of_mem_filter here)]

/-- What a CRU.CLOSE does with its references. -/
def closeAct (s : State) (g : GRef) (x : Group) (p : Path) (w : W64) (refs : List Ref) : State :=
  let l := updateHits s g.cl x false (fun pa => (updateTarget s pa).filter (· ≠ 0x65)) refs
  match refFault false l with
  | some (c, va, m) => parkAt s (gidOf g) p c va w m
  | none => sendPackets (cacheLeaves (retire s (gidOf g) x) g.cl (hitsOf l)) (gidOf g) p.pc w
      (closesOf x ((hitsOf l).filter fun h => !(isWindow s h.pa && h.late.isNone)) lateCode)

theorem closeAct_sends {refs : List Ref} (ok : RefsOk s g x .store true refs)
    (takes : ∀ h ∈ hitsFor s g x .store refs, updateTarget s h.pa = none ∨ updateTarget s h.pa = some 0x65) :
    closeAct s g x p w refs = sendPackets (cacheLeaves (setGroup s (gidOf g) (some (advance x))) g.cl (hitsFor s g x .store refs)) (gidOf g) p.pc w
      (closesOf x ((hitsFor s g x .store refs).filter fun h => !isWindow s h.pa) fun _ => 0) := by
  unfold closeAct
  dsimp only
  rw [updateHits_clean _ ok fun h here => filter_updateTarget_atom (takes h here), refFault_none ok.unchecked]
  dsimp only
  rw [show hitsOf _ = hitsFor s g x .store refs from rfl, closesOf_lateCode fun h here => ok.late h (List.mem_of_mem_filter here),
    List.filter_congr fun h here => congrArg Bool.not (isNear_of_refsOk ok h here)]
  rfl

theorem exec_cruClose_next (h : MayIssue s g x p) (fence : x.fence = none) (word : WordOk x w 0x5A [(39, 32)] [(bits w 39 32, 2)] none)
    (free : BlocksFree s g [(bits w 39 32, 2)]) (room : writesOut s (gidOf g) < 64) :
    exec (.cruClose g w) s = .next (fetched s (gidOf g) x p (closeAct s g x p w (updateRefs x p (bits w 39 32) 1))) :=
  (onUnit_next _ _ _).2 ⟨h.unit, issue_acts h (readyToWrite fence room free) (firstFault_none (wordFaults_none word))⟩

end

/-- Settles O24: an ATOM, a RED or a CRU.CLOSE that is ready and breaks no rule acts at the windows of its references, and sends the rest. -/
theorem updatesLeave : Obligations.UpdatesLeave := by
  unfold Obligations.UpdatesLeave
  intro g w s x p h fence
  refine ⟨?_, ?_, ?_⟩
  · rintro _ _ _ _ _ _ _ _ _ rfl sized rfl rfl operation rfl op reserved granted free aligned room rfl ok takes segs rfl rfl rfl rfl
    rw [exec_atom_next h fence ⟨op, reserved, sized, operation, granted, aligned⟩ free room,
      updateAct_sends (refs := updateRefs x p (bits w 31 24) (sizeOf w)) ok (fun h here => filter_updateTarget_atom (takes h here)) segs, ← decide_not]
    rfl
  · rintro _ _ _ _ _ _ _ _ _ _ _ _ _ _ _ rfl rfl rfl rfl rfl legal rfl rfl rfl rfl rfl op reserved granted free aligned formats mode room rfl ok takes segs
      rfl rfl rfl rfl
    rw [exec_red_next h fence ⟨op, reserved, granted, aligned, formats, mode, legal⟩ free room,
      updateAct_sends ok (fun h here => filter_updateTarget_red (takes h here)) segs]
    rfl
  · rintro _ _ word free room rfl ok takes - rfl
    rw [exec_cruClose_next h fence word free room, closeAct_sends ok takes]
    rfl

end Sys2Proof.Machine

/-! SUPPORT. A crusher whose table holds a line of a task twice. It refutes O50. -/

namespace Sys2Proof.Machine

/-- Line 0 as task 0 has it open, in FP32 ledgers. -/
def lineOfTask : OpenLine :=
  { line := 0, task := 0, part := 0, form := .ledger, fl := 1, rm := 0, sat := false, rsr := none, ho := false, attr := 0 }

/-- A task whose CLOSE-TASK has reached the crushers of slices 0 and 1. -/
def taskClosing : Task := { tag := 0, launch := 0, node := 0, part := 0, ctx := 0, kind := 0, st := .closing, closes := [0, 1] }

/-- A module in which slice 0 holds that line of the task both spilled and resident. -/
def twiceOpen : State :=
  setCrusher { State.reset with tasks := [taskClosing] } 0 { lines := [{ lineOfTask with spilled := true }, lineOfTask] }

theorem quiet_twiceOpen : Quiet twiceOpen 0 where
  waiting := by decide +kernel
  stalled := by decide +kernel
  draining := by decide +kernel

/-- The close of the resident one brings the spilled one back and closes it too, so that the crusher acknowledges. -/
theorem closeTask_of_twiceOpen : (match exec (.closeTask 0 0) twiceOpen with
    | .next t => (taskOf t 0).map (·.closes)
    | _ => none) = some [1] := by decide +kernel

/-- Refutes O50: a CLOSE_TASK is to wait while a line of its task is spilled; but where the crusher lists that line a second time, resident,
the close of the latter brings the line back (R274) and takes both out, and the task's close is acknowledged. No step of the module opens a
line that is open, but the statement asks it of every state. -/
theorem not_crusherClosesLines : ¬ Obligations.CrusherClosesLines := by
  unfold Obligations.CrusherClosesLines
  rintro ⟨⟨-, closing, -⟩, -⟩
  obtain ⟨-, -, waits⟩ := closing twiceOpen 0 taskClosing (by decide) (by decide +kernel) rfl
  obtain ⟨t, next, still, -⟩ := waits (by decide) quiet_twiceOpen ⟨{ lineOfTask with spilled := true }, by decide +kernel, rfl, rfl⟩
  have acknowledged := closeTask_of_twiceOpen
  rw [show exec (.closeTask 0 0) twiceOpen = .next t from next] at acknowledged
  simp [show taskOf t 0 = some taskClosing from still, taskClosing] at acknowledged

end Sys2Proof.Machine

/-! SUPPORT. A write-back at a home that may lack room for the line: the copy, or memory, has its bytes afterwards (R230, R231, R250). -/

namespace Sys2Proof.Machine

/-! ### Writing out other lines (R239) -/

theorem memLine_memPutLine_ne (m : List Host.Cell) {j l : Nat} (other : j ≠ l) (be : BitVec 128) (v : Line) :
    memLine (memPutLine m l be v) j = memLine m j :=
  line_ext fun i hi => by
    rw [getLsbD_memLine _ _ hi, getLsbD_memLine _ _ hi, readByte_memPutLine, if_neg (by omega)]

/-- A state of the module after which a slice has the same tags, and a line outside its spoil buffer the same bytes in memory. -/
structure LeavesLine (s t : State) (h line : Nat) : Prop where
  lines : (sliceOf t h).lines = (sliceOf s h).lines
  spoil : findSpoil (sliceOf t h) line = none
  mem : memLine t.mem line = memLine s.mem line

theorem LeavesLine.emit {s t : State} {h line : Nat} (leaves : LeavesLine s t h line) (o : Out) : LeavesLine s (emit t o) h line :=
  ⟨leaves.lines, leaves.spoil, leaves.mem⟩

section
variable {s : State} {h line : Nat} (away : findSpoil (sliceOf s h) line = none)
include away

theorem leavesLine_departs (e : Spoil) : LeavesLine s (departs s h e) h line where
  lines := by rw [departs, sliceOf_modSlice]
  spoil := by
    rw [departs, sliceOf_modSlice]
    exact find?_modWhere_eq_none (q := fun x : Spoil => x.line == line) (f := fun x => { x with departing := true }) (fun _ => rfl) away
  mem := rfl

theorem leavesLine_goes {e : Spoil} (other : e.line ≠ line) : LeavesLine s (goes s h e) h line where
  lines := by rw [goes, sliceOf_modSlice, memStoreLine, sliceOf_of_slices (memStore_slices ..)]
  spoil := by
    unfold findSpoil at away ⊢
    rw [List.find?_eq_none] at away
    rw [spoil_goes, List.find?_eq_none]
    exact fun x here => away x (List.mem_of_mem_erase here)
  mem := by
    have written : (goes s h e).mem = memPutLine s.mem e.line (sectorBe e.dirty) e.data :=
      memStore_mem s e.line (sectorBe e.dirty) e.dirty e.data e.poison
    rw [written, memLine_memPutLine_ne _ (Ne.symm other)]

theorem leavesLine_writeSpoilOut : LeavesLine s (writeSpoilOut s h) h line := by
  cases oldest : (sliceOf s h).spoil.find? fun e => !e.departing with
  | none =>
    simp only [writeSpoilOut, oldest]
    exact ⟨rfl, away, rfl⟩
  | some e =>
    have other : e.line ≠ line := fun same => by
      simpa [same] using List.find?_eq_none.1 away e (List.mem_of_find?_eq_some oldest)
    cases foreign : isForeignIn s h e.line with
    | true =>
      rw [writeSpoilOut_foreign oldest foreign]
      exact (leavesLine_departs away e).emit _
    | false =>
      rw [writeSpoilOut_own oldest foreign]
      exact (leavesLine_goes away other).emit _

theorem leavesLine_drainSpoil (k : Nat) : LeavesLine s (drainSpoil h k s) h line := by
  induction k generalizing s with
  | zero => exact ⟨rfl, away, rfl⟩
  | succ k ih =>
    rw [drainSpoil]
    split_ifs
    · exact ⟨rfl, away, rfl⟩
    · obtain ⟨lines, spoil, mem⟩ := leavesLine_writeSpoilOut away
      obtain ⟨lines', spoil', mem'⟩ := ih spoil
      exact ⟨lines'.trans lines, spoil', mem'.trans mem⟩

end

/-! ### A copy put in its place, or into memory -/

theorem Placed.value {s t : State} {h : Nat} {c x : CLine} (placed : Placed s t h c x) (away : findSpoil (sliceOf s h) c.line = none) :
    valueAt t h c.line = mergeLine (sectorBe c.valid) c.data (memLine s.mem c.line) := by
  rw [valueAt_eq, placed.view away, value_withMemory]

/-- Where nothing keeps the line's tags, a home copy is placed, or its dirty sectors go to memory. -/
theorem valueAt_putHome {s : State} {h line : Nat} {c : CLine} (named : c.line = line) (own : c.remote = none)
    (away : findSpoil (sliceOf s h) line = none)
    (free : ∀ x ∈ (sliceOf s h).lines, x.line = line → x.remote = none ∧ isKept x = false) :
    valueAt (putHome s h c) h line = mergeLine (sectorBe c.valid) c.data (memLine s.mem line) ∨
      valueAt (putHome s h c) h line = mergeLine (sectorBe c.dirty) c.data (memLine s.mem line) := by
  subst named
  have drained : LeavesLine s (if (sliceOf s h).enabled then drainSpoil h 64 s else s) h c.line := by
    split_ifs
    · exact leavesLine_drainSpoil away 64
    · exact ⟨rfl, away, rfl⟩
  unfold putHome
  dsimp only
  generalize (if (sliceOf s h).enabled then drainSpoil h 64 s else s) = room at drained ⊢
  obtain ⟨lines, spoil, mem⟩ := drained
  cases placed : placeLine s h c with
  | some t =>
    obtain ⟨x, here, -⟩ := placeLine_spec placed own fun x hx same => (free x hx same).1
    exact .inl (here.value away)
  | none =>
    cases placed' : placeLine room h c with
    | some t =>
      obtain ⟨x, here, -⟩ := placeLine_spec placed' own fun x hx same => (free x (lines ▸ hx) same).1
      exact .inl ((here.value spoil).trans (by rw [mem]))
    | none =>
      refine .inr ?_
      simp only [Option.orElse_none]
      generalize written : modSlice room h _ = w
      have slice : sliceOf w h = { sliceOf room h with lines := dropWhere (fun x => x.line == c.line && !isKept x) (sliceOf room h).lines } := by
        rw [← written, sliceOf_modSlice]
      have same : w.mem = room.mem := by rw [← written]; rfl
      have tagless : ∀ x, findLine (sliceOf w h) c.line = some x → x.valid = 0 := fun x found => by
        have named := line_of_findLine found
        have stays := mem_dropWhere.1 (by simpa only [slice] using List.mem_of_find?_eq_some found)
        simp [named, (free x (lines ▸ stays.1) named).2] at stays
      have kept : sliceOf (memStoreLine w c.line c.dirty c.data c.poison) h = sliceOf w h := sliceOf_of_slices (memStore_slices ..) h
      rw [valueAt_eq, homeView_memory (by rw [kept, slice]; exact spoil) (by rwa [kept]), memStoreLine]
      dsimp only
      rw [memLine_memStore, same, mem]

/-- A write-back at a home whose tag agrees with memory gives the home its bytes. -/
theorem valueAt_homeStore {s : State} {h line : Nat} {be : BitVec 128} {x : Line} {p : W32} (agrees : HomeAgrees s h line) :
    valueAt (homeStore s h line be x p 0) h line = mergeLine be x (valueAt s h line) := by
  have free : ∀ c ∈ (sliceOf s h).lines, c.line = line → c.remote = none ∧ isKept c = false := fun c hc named => by
    obtain ⟨own, pins, hold, -⟩ := agrees.2 c hc named
    exact ⟨own, by simp [isKept, pins, hold]⟩
  cases spoil : findSpoil (sliceOf s h) line with
  | some e => exact (homeStore_spoil spoil).2
  | none =>
    rcases hit_or_empty (sliceOf s h) line with ⟨c, found, valid⟩ | empty
    · have named := line_of_findLine found
      obtain ⟨own, -, -, clean⟩ := agrees.2 c (List.mem_of_find?_eq_some found) named
      have value : valueAt s h line = mergeLine (sectorBe c.valid) c.data (memLine s.mem line) := by
        rw [valueAt_eq, homeView_tag spoil found, value_withMemory]
      rw [homeStore_hit spoil found valid, value]
      refine (valueAt_putHome (c := storedCopy s line be x p 0 c) named own spoil free).elim (fun placed => placed.trans ?_) fun written => written.trans ?_
      · exact stored_in_copy be x c.data (memLine s.mem line) c.valid rfl (.inl rfl)
      · exact stored_by_writeback be x c.data (memLine s.mem line) c.valid c.dirty rfl clean
    · cases enabled : (sliceOf s h).enabled with
      | false => exact (homeStore_miss_memory spoil (oneTag_iff.2 ⟨agrees.1, fun c hc named => (free c hc named).1⟩) empty (by simp [enabled])).2
      | true =>
        rw [homeStore_miss spoil empty, if_pos (by simp [enabled]), valueAt_eq s, homeView_memory spoil empty]
        exact (or_self_iff.1 (valueAt_putHome (c := newCopy s line be x p) rfl rfl spoil free)).trans (stored_alone be x (memLine s.mem line))

theorem besideTags_homeStore (s : State) (h line : Nat) (be : BitVec 128) (x : Line) (p : W32) :
    besideTags h (homeStore s h line be x p 0) = besideTags h s := by
  cases spoil : findSpoil (sliceOf s h) line with
  | some e =>
    unfold homeStore
    dsimp only
    rw [spoil]
    exact besideTags_modSlice fun _ => rfl
  | none =>
    rcases hit_or_empty (sliceOf s h) line with ⟨c, found, valid⟩ | empty
    · rw [homeStore_hit spoil found valid]
      exact besideTags_putHome ..
    · rw [homeStore_miss spoil empty]
      split_ifs
      · exact besideTags_putHome ..
      · rw [besideTags, memStoreBytes, sliceOf_of_slices (memStore_slices ..), besideTags]

end Sys2Proof.Machine

/-! SUPPORT. What the answers and the notices of the proxies do at a line's home. It settles O47. -/

namespace Sys2Proof.Machine

/-! ### The holders that the filter lists (R288) -/

theorem getLsbD_bit8 : ∀ d < 8, (bit8 d).getLsbD d = true := by decide

/-- A mask without a die. -/
theorem getLsbD_without (m : BitVec 8) {d : Nat} (unit : computeDieOk d = true) : (m &&& ~~~bit8 d).getLsbD d = false := by
  rw [BitVec.getLsbD_and, BitVec.getLsbD_not, getLsbD_bit8 d (of_decide_eq_true unit), Bool.not_true, Bool.and_false, Bool.and_false]

/-- The entry of a line that is set holds what it was set to, or an empty one is gone. -/
theorem findFilter_setFilter (s : State) (h line : Nat) (mask : BitVec 8) (owner : Bool) :
    (findFilter (sliceOf (setFilter s h line mask owner) h) line = none ∧ mask = 0) ∨
      ∃ f, findFilter (sliceOf (setFilter s h line mask owner) h) line = some f ∧ f.mask = mask ∧ f.owner = owner := by
  rw [setFilter, sliceOf_modSlice]
  cases found : findFilter (sliceOf s h) line with
  | some f =>
    dsimp only
    split_ifs with freed
    · refine .inl ⟨List.find?_eq_none.2 fun x here => by simpa using (mem_dropWhere.1 here).2, ?_⟩
      simp only [Bool.and_eq_true, decide_eq_true_iff] at freed
      exact freed.1.1
    · refine .inr ⟨{ f with mask, owner }, ?_, rfl, rfl⟩
      exact (find?_modWhere (p := fun x : Filter => x.line == line) (f := fun x => { x with mask, owner }) (fun _ h => h) (sliceOf s h).filter).trans
        (congrArg (Option.map _) found)
  | none =>
    dsimp only
    split_ifs with empty
    · exact .inl ⟨found, empty⟩
    · refine .inr ⟨{ line, mask, owner, order := (sliceOf s h).allocated }, ?_, rfl, rfl⟩
      have absent : (sliceOf s h).filter.find? (fun x => x.line == line) = none := found
      simp [findFilter, List.find?_append, absent]

@[simp] theorem filterMask_of_setFilter (s : State) (h line : Nat) (mask : BitVec 8) (owner : Bool) :
    filterMask (sliceOf (setFilter s h line mask owner) h) line = mask := by
  rcases findFilter_setFilter s h line mask owner with ⟨gone, empty⟩ | ⟨f, found, held, -⟩
  · rw [filterMask, gone, empty]; rfl
  · rw [filterMask, found]; exact held

theorem filterOwned_setFilter (s : State) (h line : Nat) (mask : BitVec 8) :
    filterOwned (sliceOf (setFilter s h line mask false) h) line = false := by
  rcases findFilter_setFilter s h line mask false with ⟨gone, -⟩ | ⟨f, found, -, held⟩
  · rw [filterOwned, gone]; rfl
  · rw [filterOwned, found]; exact held

theorem filterMask_clearBit (s : State) (h line d : Nat) :
    filterMask (sliceOf (clearBit s h line d) h) line = filterMask (sliceOf s h) line &&& ~~~bit8 d := filterMask_of_setFilter ..

/-! ### Answers to snoops (R293 to R296, R299) -/

/-- A transaction that has heard die `d`, and whose data is then `b`. -/
def heard (x : Txn) (d : Nat) (b : Option (Line × BitVec 4 × W32)) : Txn :=
  { x with awaiting := x.awaiting &&& ~~~bit8 d, data := b, sent := none }

/-- The home's filter once a copy is in the state that an answer tells of. -/
def copyLeft (s : State) (h line d : Nat) : Leaves → State
  | .invalid => setFilter s h line (filterMask (sliceOf s h) line &&& ~~~bit8 d) false
  | .shared => setFilter s h line (filterMask (sliceOf s h) line) false
  | .same => s

/-- The entry of a transaction that goes on. -/
def keepsTxn (s : State) (h line : Nat) (x : Txn) : State :=
  modSlice s h fun sl => { sl with txns := modWhere (fun y => y.line == line) (fun _ => x) sl.txns }

section
variable {s : State} {h line d : Nat} {left : Leaves}

/-- Only the filter of the home tells of it. -/
theorem copyLeft_rest : (copyLeft s h line d left).out = s.out ∧ (copyLeft s h line d left).mem = s.mem ∧
    (copyLeft s h line d left).poison = s.poison ∧ offFilter (sliceOf (copyLeft s h line d left) h) = offFilter (sliceOf s h) := by
  cases left with
  | invalid => exact ⟨rfl, rfl, rfl, offFilter_setFilter ..⟩
  | shared => exact ⟨rfl, rfl, rfl, offFilter_setFilter ..⟩
  | same => exact ⟨rfl, rfl, rfl, rfl⟩

theorem filterMask_copyLeft : filterMask (sliceOf (copyLeft s h line d left) h) line =
    if left = .invalid then filterMask (sliceOf s h) line &&& ~~~bit8 d else filterMask (sliceOf s h) line := by
  cases left with
  | invalid => exact filterMask_of_setFilter ..
  | shared => exact filterMask_of_setFilter ..
  | same => rfl

theorem filterOwned_copyLeft (changed : left ≠ .same) : filterOwned (sliceOf (copyLeft s h line d left) h) line = false := by
  cases left with
  | invalid => exact filterOwned_setFilter ..
  | shared => exact filterOwned_setFilter ..
  | same => exact absurd rfl changed

theorem inputOf_of_offFilter {t : State} (same : offFilter (sliceOf t h) = offFilter (sliceOf s h)) : inputOf h t = inputOf h s :=
  congrArg (fun sl => (sl.waiting, sl.stalled, sl.draining)) same

theorem inputOf_keepsTxn (x : Txn) : inputOf h (keepsTxn s h line x) = inputOf h s := inputOf_modSlice h fun _ => rfl

theorem findTxn_line {sl : Slice} {x : Txn} (found : findTxn sl line = some x) : x.line = line :=
  beq_iff_eq.1 (List.find?_some (p := fun x : Txn => x.line == line) found)

theorem findTxn_modWhere {sl : Slice} {x : Txn} {f : Txn → Txn} (same : ∀ y, (f y).line = y.line ∨ (f y).line = line)
    (found : findTxn sl line = some x) : findTxn { sl with txns := modWhere (fun y => y.line == line) f sl.txns } line = some (f x) := by
  refine (find?_modWhere (p := fun y : Txn => y.line == line) (fun y named => ?_) sl.txns).trans (congrArg (Option.map f) found)
  rcases same y with kept | named'
  · simpa [kept] using named
  · simpa using named'

section
variable {data : Option (Line × BitVec 4 × W32)}

/-- An answer that nothing awaits changes nothing (R296). -/
theorem snoopAnswer_unawaited (unawaited : ∀ x, findTxn (sliceOf s h) line = some x → x.awaiting.getLsbD d = false) :
    snoopAnswer s h line d data left = s := by
  unfold snoopAnswer
  dsimp only
  cases found : findTxn (sliceOf s h) line with
  | none => rfl
  | some x => exact if_pos (by rw [unawaited x found]; rfl)

theorem snoopAnswer_awaited {x : Txn} {b : Option (Line × BitVec 4 × W32)} (found : findTxn (sliceOf s h) line = some x)
    (awaited : x.awaiting.getLsbD d = true) (brought : b = (x.data.orElse fun _ => if x.settled then none else data)) :
    snoopAnswer s h line d data left = if x.awaiting &&& ~~~bit8 d = 0 then endTxn (copyLeft s h line d left) h (heard x d b)
      else keepsTxn (copyLeft s h line d left) h line (heard x d b) := by
  subst brought
  unfold snoopAnswer
  dsimp only
  rw [found]
  dsimp only
  rw [if_neg (by simp [awaited])]
  cases x.data <;> cases left <;> rfl

end

/-! ### The end of a read without a copy (R295) -/

/-- The home with what an answer to SNP_R brought in memory (log 93). -/
def dataWritten (s : State) (line : Nat) : Option (Line × BitVec 4 × W32) → State
  | some (d, m, p) => memStoreLine s line m d p
  | none => s

theorem dataWritten_rest (b : Option (Line × BitVec 4 × W32)) :
    (dataWritten s line b).out = s.out ∧ sliceOf (dataWritten s line b) h = sliceOf s h := by
  rcases b with _ | ⟨v, m, p⟩
  · exact ⟨rfl, rfl⟩
  · exact ⟨activate_out .., sliceOf_of_slices (memStore_slices ..) h⟩

theorem finishReq_rdOnce {tag : Nat} {b : Option (Line × BitVec 4 × W32)} (miss : findMiss (sliceOf s h) line = none) :
    finishReq s h line (.rdOnce tag) b =
      emit (dataWritten s line b) (.cohData "DATA_ONCE" tag line (homeData s h line b).1 0xF (homeData s h line b).2.1 0) := by
  unfold finishReq
  dsimp only
  rw [miss, if_neg (by simp)]
  rcases b with _ | ⟨v, m, p⟩ <;> rfl

/-- The home without a transaction that ends. -/
def txnGone (s : State) (h line : Nat) : State := modSlice s h fun sl => { sl with txns := dropWhere (fun x => x.line == line) sl.txns }

theorem findTxn_txnGone : findTxn (sliceOf (txnGone s h line) h) line = none := by
  rw [txnGone, sliceOf_modSlice]
  exact List.find?_eq_none.2 fun x here => (mem_dropWhere.1 here).2

/-- Where no request waits at the home, none is served again. -/
theorem serveWaiting_quiet {u : State} (none : (sliceOf u h).waiting = []) : SameSlices u (serveWaiting u h) := by
  rw [serveWaiting, none]
  refine ⟨rfl, fun j => ?_⟩
  rw [List.foldl_nil, modSlice, sliceOf_setSlice]
  split_ifs with here
  · rw [here, ← none]
  · rfl

theorem SameSlices.inputOf {s t : State} (same : SameSlices s t) (i : Nat) : inputOf i t = inputOf i s := by
  rw [Machine.inputOf, same.slices i, Machine.inputOf]

/-- The last answer to a read without a copy: it is answered with what the home and the first data hold. -/
theorem endTxn_rdOnce {x : Txn} {tag : Nat} (req : x.req = .rdOnce tag) (waiting : (sliceOf s h).waiting = [])
    (miss : findMiss (sliceOf s h) x.line = none) : findTxn (sliceOf (endTxn s h x) h) x.line = none ∧ inputOf h (endTxn s h x) = inputOf h s ∧
      (endTxn s h x).out = s.out ++ [.cohData "DATA_ONCE" tag x.line (homeData s h x.line x.data).1 0xF (homeData s h x.line x.data).2.1 0] := by
  have slice : sliceOf (txnGone s h x.line) h = { sliceOf s h with txns := dropWhere (fun y => y.line == x.line) (sliceOf s h).txns } := by
    rw [txnGone, sliceOf_modSlice]
  have value : homeData (txnGone s h x.line) h x.line x.data = homeData s h x.line x.data := by
    unfold homeData
    rw [homeValue_of_slice (s := s) (t := txnGone s h x.line) (by rw [slice]) (by rw [slice]) rfl rfl]
  obtain ⟨out, kept⟩ := dataWritten_rest (s := txnGone s h x.line) (h := h) (line := x.line) x.data
  have finished := finishReq_rdOnce (s := txnGone s h x.line) (h := h) (line := x.line) (tag := tag) (b := x.data) (by rw [slice]; exact miss)
  have ended : endTxn s h x = serveWaiting (releaseHome (finishReq (txnGone s h x.line) h x.line (.rdOnce tag) x.data) h x.line) h := by
    rw [← req]; rfl
  rw [ended, finished, value]
  have rest := releaseHome_rest (emit (dataWritten (txnGone s h x.line) x.line x.data)
    (.cohData "DATA_ONCE" tag x.line (homeData s h x.line x.data).1 0xF (homeData s h x.line x.data).2.1 0)) h x.line
  have before := releaseHome_out (emit (dataWritten (txnGone s h x.line) x.line x.data)
    (.cohData "DATA_ONCE" tag x.line (homeData s h x.line x.data).1 0xF (homeData s h x.line x.data).2.1 0)) h x.line
  generalize releaseHome _ h x.line = u at rest before ⊢
  rw [besideTags, besideTags, sliceOf_emit, kept, slice] at rest
  have same := serveWaiting_quiet (u := u) ((congrArg (·.waiting) rest :).trans waiting)
  refine ⟨?_, (same.inputOf h).trans (congrArg (fun sl => (sl.waiting, sl.stalled, sl.draining)) rest :), ?_⟩
  · rw [same.slices]
    refine (congrArg (findTxn · x.line) rest :).trans ?_
    exact List.find?_eq_none.2 fun y here => (mem_dropWhere.1 here).2
  · rw [same.out, before]
    exact congrArg (· ++ _) out

/-- An answer to a snoop at the home. -/
theorem answerTaken {c : Instr} {data : Option (Line × BitVec 4 × W32)} (run : exec c s = .next (wake (snoopAnswer s h line d data left) h)) :
    AnswerTaken s d line h c data left := by
  intro quiet
  obtain ⟨out, mem, poison, rest⟩ := copyLeft_rest (s := s) (h := h) (line := line) (d := d) (left := left)
  have input := inputOf_of_offFilter rest
  refine ⟨_, run, fun unawaited => ?_, fun x b found awaited brought => ⟨fun others => ?_, fun last miss tag req => ?_⟩⟩
  · rw [snoopAnswer_unawaited unawaited]
    have same := wake_quiet quiet (u := s) rfl
    exact ⟨same.out, same.mem, same.slices h⟩
  · have named := findTxn_line found
    rw [snoopAnswer_awaited found awaited brought, if_neg others]
    have same := wake_quiet quiet ((inputOf_keepsTxn (s := copyLeft s h line d left) (line := line) (heard x d b)).trans input)
    rw [same.out, same.mem, same.slices, keepsTxn, sliceOf_modSlice]
    refine ⟨out, mem, ?_, filterMask_copyLeft, filterOwned_copyLeft⟩
    exact findTxn_modWhere (fun _ => .inr named) ((congrArg (findTxn · line) rest :).trans found)
  · have named := findTxn_line found
    rw [snoopAnswer_awaited found awaited brought, if_pos last]
    obtain ⟨gone, calm, sent⟩ := endTxn_rdOnce (s := copyLeft s h line d left) (h := h) (x := heard x d b) req
      ((congrArg (·.waiting) rest :).trans quiet.waiting) ((congrArg (findMiss · x.line) rest :).trans (named ▸ miss))
    have value : homeData (copyLeft s h line d left) h line b = homeData s h line b := by
      unfold homeData
      rw [homeValue_of_slice (s := s) (t := copyLeft s h line d left) (congrArg (·.lines) rest :) (congrArg (·.spoil) rest :) mem poison]
    have same := wake_quiet quiet (calm.trans input)
    rw [same.out, same.slices]
    rw [show (heard x d b).line = line from named, out, show (heard x d b).data = b from rfl, value] at sent
    exact ⟨(congrArg _ named.symm).trans gone, sent⟩

end

section
variable {s : State} {d line h : Nat} (unit : computeDieOk d = true) (home : homeSlice s.variant (128 * line) = some h)
include unit home

theorem answerAt_next (data : Option (Line × BitVec 4 × W32)) (left : Option Leaves) :
    onUnit (computeDieOk d) (answerAt s line d data left) = .next (wake (snoopAnswer s h line d data (left.getD (asked s h line))) h) :=
  (onUnit_next ..).2 ⟨unit, by rw [answerAt, home]⟩

/-! ### WB (R295, R296, R298) -/

/-- Is a write-back the first data of the line: no answer has brought any to the transaction in progress, if there is one? -/
def isFirst (s : State) (h line : Nat) : Bool := ((findTxn (sliceOf s h) line).map fun x => x.data.isNone).getD true

/-- The transaction of a line whose data a write-back has brought home. -/
def settles (x : Txn) : Txn := { x with sent := none, settled := true }

/-- The home with the sectors that a write-back brings. -/
def sectorsTaken (s : State) (h line : Nat) (data : Line) (dirty : BitVec 4) (poison : W32) : State :=
  modSlice (if isFirst s h line then homeStore s h line (sectorBe dirty) data poison 0 else s) h fun sl =>
    { sl with txns := modWhere (fun x => x.line == line) (fun x => if isFirst s h line then settles x else x) sl.txns }

theorem exec_wb (data : Line) (dirty : BitVec 4) (poison : W32) : exec (.wb d line data dirty poison) s =
    .next (emit (if (filterMask (sliceOf s h) line).getLsbD d then clearBit (sectorsTaken s h line data dirty poison) h line d else s)
      (.ack (.spoil (16 * d + h % 16) line) 0)) := by
  refine (onUnit_next ..).2 ⟨unit, ?_⟩
  rw [home]
  dsimp only
  cases listed : (filterMask (sliceOf s h) line).getLsbD d <;> rfl

end

section
variable {s : State} {h line : Nat} {data : Line} {dirty : BitVec 4} {poison : W32}

theorem valueAt_clearBit (s : State) (h line d : Nat) : valueAt (clearBit s h line d) h line = valueAt s h line := by
  have rest : offFilter (sliceOf (clearBit s h line d) h) = offFilter (sliceOf s h) := offFilter_setFilter ..
  exact valueAt_of_slice (congrArg (·.lines) rest :) (congrArg (·.spoil) rest :) rfl rfl

/-- The first data of the line is the home's then. -/
theorem valueAt_sectorsTaken (agrees : HomeAgrees s h line) (first : isFirst s h line = true) :
    valueAt (sectorsTaken s h line data dirty poison) h line = mergeLine (sectorBe dirty) data (valueAt s h line) := by
  rw [← valueAt_homeStore (p := poison) agrees, sectorsTaken, if_pos first]
  exact valueAt_of_slice (by rw [sliceOf_modSlice]) (by rw [sliceOf_modSlice]) rfl rfl

/-- A transaction in progress finds it there. -/
theorem findTxn_sectorsTaken {x : Txn} (found : findTxn (sliceOf s h) line = some x) (first : isFirst s h line = true) :
    findTxn (sliceOf (sectorsTaken s h line data dirty poison) h) line = some (settles x) := by
  have stored : findTxn (sliceOf (homeStore s h line (sectorBe dirty) data poison 0) h) line = some x :=
    (congrArg (findTxn · line) (besideTags_homeStore s h line (sectorBe dirty) data poison) :).trans found
  simp only [sectorsTaken, first, if_true, sliceOf_modSlice]
  exact findTxn_modWhere (fun _ => .inl rfl) stored

theorem findTxn_clearBit (s : State) (h line d : Nat) : findTxn (sliceOf (clearBit s h line d) h) line = findTxn (sliceOf s h) line :=
  (congrArg (findTxn · line) (offFilter_setFilter s h line (filterMask (sliceOf s h) line &&& ~~~bit8 d) _) :)

end

/-! ### DROP, REG and REG_ACK (R291, R295, R296) -/

theorem exec_drop {s : State} {d line h : Nat} (unit : computeDieOk d = true) (home : homeSlice s.variant (128 * line) = some h) :
    exec (.drop d line) s = .next (if (filterMask (sliceOf s h) line).getLsbD d then clearBit s h line d else s) :=
  (onUnit_next ..).2 ⟨unit, by rw [home]⟩

/-- A filter without a die: its bit is clear in every entry, and the entries that this leaves empty are free unless something keeps them. -/
def dieForgotten (d : Nat) (l : List Filter) : List Filter :=
  (l.map fun f => { f with mask := f.mask &&& ~~~bit8 d }).filter fun f => f.mask ≠ 0 || f.pinned || f.busy

theorem mask_of_dieForgotten {d : Nat} {l : List Filter} {f : Filter} (here : f ∈ dieForgotten d l) : f.mask &&& bit8 d = 0 := by
  obtain ⟨g, -, rfl⟩ := List.mem_map.1 (List.mem_filter.1 here).1
  change g.mask &&& ~~~bit8 d &&& bit8 d = 0
  rw [BitVec.and_assoc, BitVec.and_comm (~~~bit8 d), BitVec.and_not_self]
  exact BitVec.and_zero

theorem exec_reg {s : State} {sid home : Nat} (unit : sliceOk sid = true) (unit' : sliceOk home = true) (compute : sid < 128)
    (index : sid % 16 = home % 16) (other : sid / 16 ≠ home / 16) : exec (.reg sid home) s =
      .next (emit (modSlice s home fun sl => { sl with filter := dieForgotten (sid / 16) sl.filter }) (.coh "REG_ACK" sid home)) := by
  refine (onUnit_next ..).2 ⟨by rw [unit, unit']; rfl, if_neg ?_⟩
  simp [index, other, compute]

theorem exec_regAck {s : State} {sid home : Nat} (unit : sliceOk sid = true) (unit' : sliceOk home = true) :
    exec (.regAck sid home) s = .next (modSlice s sid fun sl => { sl with awaitReg := sl.awaitReg.filter (· ≠ home) }) :=
  (onUnit_next ..).2 ⟨by rw [unit, unit']; rfl, rfl⟩

/-- Settles O47: answers to snoops count at the home, a write-back's sectors are the home's, and notices leave its filter. -/
theorem homeTakesAnswers : Obligations.HomeTakesAnswers := by
  unfold Obligations.HomeTakesAnswers
  refine ⟨fun s d line h data dirty poison unit home => ⟨answerTaken (answerAt_next unit home none (some .invalid)),
      answerTaken (answerAt_next unit home none (some .shared)), answerTaken (answerAt_next unit home (some (data, dirty, poison)) none)⟩,
    fun s d line h data dirty poison unit home => ⟨_, exec_wb unit home data dirty poison, List.getLast?_concat, ?_, fun listed agrees => ?_⟩,
    fun s d line h unit home => ⟨fun unlisted => ?_, fun listed => ?_⟩,
    fun s sid home unit unit' => ⟨fun compute index other => ⟨_, exec_reg unit unit' compute index other, ?_, rfl⟩, _, exec_regAck unit unit', ?_⟩⟩
  · rw [sliceOf_emit]
    split_ifs with listed
    · rw [filterMask_clearBit, getLsbD_without _ unit]
    · exact Bool.eq_false_iff.2 listed
  · have taken : isFirst s h line = true → valueAt (emit (clearBit (sectorsTaken s h line data dirty poison) h line d)
        (.ack (.spoil (16 * d + h % 16) line) 0)) h line = mergeLine (sectorBe dirty) data (valueAt s h line) := fun first =>
      (valueAt_clearBit ..).trans (valueAt_sectorsTaken agrees first)
    rw [if_pos listed]
    refine ⟨fun idle => taken (by rw [isFirst, idle]; rfl), fun x found empty => ?_⟩
    have first : isFirst s h line = true := by rw [isFirst, found, Option.map_some, empty]; rfl
    exact ⟨taken first, (findTxn_clearBit ..).trans (findTxn_sectorsTaken found first)⟩
  · rw [exec_drop unit home, unlisted]
    rfl
  · rw [exec_drop unit home, if_pos listed]
    exact ⟨_, rfl, filterMask_clearBit .., rfl, rfl⟩
  · intro f here
    rw [sliceOf_emit, sliceOf_modSlice] at here
    exact mask_of_dieForgotten here
  · rw [sliceOf_modSlice]
    exact ⟨fun here => by simpa using (List.mem_filter.1 here).2, rfl, rfl⟩

end Sys2Proof.Machine

/-! SUPPORT. What frames, requests for a replay, retirements and training make of a link. It settles O52. -/

namespace Sys2Proof.Machine

/-! ### Links and their directions -/

theorem links_of_offEvents {s t : State} (h : offEvents t = offEvents s) : t.links = s.links :=
  (congrArg State.links h : (offEvents t).links = (offEvents s).links)

theorem link_of_links {s t : State} (h : t.links = s.links) (i : Nat) : link t i = link s i := congrArg (fun m => look ({} : Link) m i) h

@[simp] theorem link_modLink (s : State) (i : Nat) (f : Link → Link) : link (modLink s i f) i = f (link s i) := by
  rw [modLink, link_setLink, if_pos rfl]

@[simp] theorem link_emit (s : State) (o : Out) (i : Nat) : link (emit s o) i = link s i := rfl
@[simp] theorem link_raiseFatal (s : State) (cause : Nat) (dies : BitVec 9) (i : Nat) : link (raiseFatal s cause dies) i = link s i := rfl

@[simp] theorem linkDir_setDir (l : Link) (dir : Nat) (v : LinkDir) : linkDir (setDir l dir v) dir = v := by
  unfold linkDir setDir
  split_ifs <;> rfl

@[simp] theorem setDir_linkDir (l : Link) (dir : Nat) : setDir l dir (linkDir l dir) = l := by
  unfold linkDir setDir
  split_ifs <;> rfl

section
variable (l : Link) (dir : Nat) (v : LinkDir)

@[simp] theorem setDir_st : (setDir l dir v).st = l.st := by
  unfold setDir
  split_ifs <;> rfl

@[simp] theorem setDir_octIns : (setDir l dir v).octIns = l.octIns := by
  unfold setDir
  split_ifs <;> rfl

@[simp] theorem setDir_crcErr : (setDir l dir v).crcErr = l.crcErr := by
  unfold setDir
  split_ifs <;> rfl

end

@[simp] theorem link_modDir (s : State) (i dir : Nat) (f : LinkDir → LinkDir) :
    link (modDir s i dir f) i = setDir (link s i) dir (f (linkDir (link s i) dir)) :=
  link_modLink ..

@[simp] theorem modDir_restart (s : State) (i dir : Nat) (f : LinkDir → LinkDir) : (modDir s i dir f).restart = s.restart := rfl

theorem linkServes_of_st {l l' : Link} (same : l'.st = l.st) (serves : linkServes l = true) : linkServes l' = true := by
  rwa [linkServes, same]

/-! ### The loss of a link, and requests for a replay (R301, R310, R328) -/

section
variable {s : State} {i : Nat} (serves : linkServes (link s i) = true)
include serves

theorem loseLink_fatal : (link (loseLink s i) i).st = 5 ∧ (loseLink s i).restart.fatal = true := by
  rw [loseLink, if_neg (by simp [serves])]
  exact ⟨by simp, rfl⟩

theorem loseLink_suspects : (loseLink s i).restart.fatalDies = s.restart.fatalDies ||| endDies s.variant i := by
  rw [loseLink, if_neg (by simp [serves])]
  rfl

end

/-- A direction whose expected frame is asked for again, by the request that is outstanding or a new one. -/
def asking (d : LinkDir) : LinkDir := { d with nak := some (d.nak.getD (d.recvSeq, 1)) }

theorem link_requestReplay (s : State) (i dir : Nat) :
    link (requestReplay s i dir) i = setDir (link s i) dir (asking (linkDir (link s i) dir)) := by
  unfold requestReplay
  dsimp only
  cases outstanding : (linkDir (link s i) dir).nak with
  | some q =>
    have same : asking (linkDir (link s i) dir) = linkDir (link s i) dir := by
      rw [asking, outstanding, Option.getD_some, ← outstanding]
    rw [same, setDir_linkDir]
  | none =>
    rw [link_emit, link_modDir, asking, outstanding, Option.getD_none]

/-! ### Octets that leave service (R324 to R326) -/

/-- A link that goes on without octet `k`. -/
def withoutOctet (l : Link) (k : Nat) : Link :=
  { l with octIns := l.octIns &&& ~~~BitVec.ofNat 12 (2 ^ k), octRet := l.octRet ||| BitVec.ofNat 12 (2 ^ k), degrades := bump 0xFFFF l.degrades,
           st := 3, recalPass := l.recalPass.filter (· ≠ k), postponed := !(l.recalPass.filter (· ≠ k)).isEmpty }

section
variable {s : State} {i k : Nat} (serves : linkServes (link s i) = true) (used : inUse (link s i) k = true)
include serves used

/-- Above the least width the link goes on; both ends learn its octets, and reservations are admitted anew. -/
theorem retireOctet_above_least (more : linkMinOctets i < popc12 (link s i).octIns) (command : Bool) :
    link (retireOctet s i k command) i = withoutOctet (link s i) k ∧
      Out.linkWidth i (withoutOctet (link s i) k).octIns ∈ (retireOctet s i k command).out ∧
      (retireOctet s i k command).admission.passDue = true := by
  unfold retireOctet
  dsimp only
  rw [if_neg (by simp [serves, used]), if_neg (by omega)]
  refine ⟨?_, (kept_postEvent Kept.rfl).out.subset ?_, rfl⟩
  · refine (link_of_links (links_of_offEvents (offEvents_postEvent ..)) i).trans ?_
    rw [link_emit, link_setLink, if_pos rfl]
    rfl
  · exact List.mem_append_right _ (List.mem_singleton_self _)

theorem retireOctet_at_least (least : popc12 (link s i).octIns ≤ linkMinOctets i) (command : Bool) :
    retireOctet s i k command = if command then s else loseLink s i := by
  unfold retireOctet
  dsimp only
  rw [if_neg (by simp [serves, used]), if_pos least]

end

/-- Octet `o` leaves service by a command that first changes at most other parts of the link. -/
theorem octetRetired {s u : State} {i o : Nat} {l : Link} {c : Instr} {command : Bool} (run : exec c s = .next (retireOctet u i o command))
    (serves : linkServes (link u i) = true) (used : inUse (link u i) o = true) (more : linkMinOctets i < popc12 (link u i).octIns)
    (octets : (link u i).octIns = l.octIns ∧ (link u i).octRet = l.octRet ∧ (link u i).degrades = l.degrades) : OctetRetired s i o l c := by
  obtain ⟨on, told, due⟩ := retireOctet_above_least serves used more command
  obtain ⟨octIns, octRet, degrades⟩ := octets
  refine ⟨_, _, run, rfl, ?_, ?_, ?_, ?_, ?_, due⟩
  · rw [on, withoutOctet, octIns]
  · rw [on, withoutOctet, octRet]
  · rw [on, withoutOctet]
  · rw [on, withoutOctet, degrades]
  · rwa [withoutOctet, octIns] at told

/-! ### A width change (R324) -/

theorem getLsbD_bit12 {j k : Nat} (hj : j < 12) : (BitVec.ofNat 12 (2 ^ k)).getLsbD j = decide (k = j) := by
  rw [BitVec.getLsbD_ofNat, Nat.testBit_two_pow, decide_eq_true hj, Bool.true_and]

theorem inUse_withoutOctet (l : Link) {j k : Nat} (hj : j < 12) : inUse (withoutOctet l k) j = (inUse l j && !decide (k = j)) := by
  rw [inUse, withoutOctet, BitVec.getLsbD_and, BitVec.getLsbD_not, getLsbD_bit12 hj, decide_eq_true hj, Bool.true_and, inUse]

/-- A mask has fewer octets than one that holds all of it and another. -/
theorem popc12_and_lt {m g : BitVec 12} {k : Nat} (hk : k < 12) (here : m.getLsbD k = true) (gone : g.getLsbD k = false) :
    popc12 (m &&& g) < popc12 m := by
  have part : ((List.range 12).filter fun j => (m &&& g).getLsbD j).Sublist ((List.range 12).filter fun j => m.getLsbD j) :=
    List.monotone_filter_right _ fun j hj => by
      rw [BitVec.getLsbD_and, Bool.and_eq_true] at hj
      exact hj.1
  refine lt_of_le_of_ne part.length_le fun same => ?_
  have member : k ∈ (List.range 12).filter fun j => m.getLsbD j := List.mem_filter.2 ⟨List.mem_range.2 hk, here⟩
  rw [← part.eq_of_length same, List.mem_filter, BitVec.getLsbD_and, gone, Bool.and_false] at member
  exact Bool.noConfusion member.2

/-- Octets that a mask does not list leave service one after another, where enough of those that it lists stay. -/
theorem retired_in_turn (i : Nat) (g : BitVec 12) (gone : List Nat) (s : State) (once : gone.Nodup)
    (unlisted : ∀ k ∈ gone, k < 12 ∧ inUse (link s i) k = true ∧ g.getLsbD k = false) (serves : linkServes (link s i) = true)
    (enough : linkMinOctets i ≤ popc12 ((link s i).octIns &&& g)) {j : Nat} (hj : j < 12) :
    inUse (link (gone.foldl (fun s k => retireOctet s i k false) s) i) j = (inUse (link s i) j && !decide (j ∈ gone)) := by
  induction gone generalizing s with
  | nil => simp
  | cons k gone ih =>
    obtain ⟨first, once⟩ := List.nodup_cons.1 once
    obtain ⟨hk, used, left⟩ := unlisted k List.mem_cons_self
    have on := (retireOctet_above_least serves used (enough.trans_lt (popc12_and_lt hk used left)) false).1
    have same : (withoutOctet (link s i) k).octIns &&& g = (link s i).octIns &&& g := BitVec.eq_of_getLsbD_eq fun j hj => by
      have without := inUse_withoutOctet (link s i) (k := k) hj
      rw [inUse, inUse] at without
      rw [BitVec.getLsbD_and, BitVec.getLsbD_and, without]
      by_cases here : k = j
      · rw [← here, left, Bool.and_false, Bool.and_false]
      · rw [decide_eq_false here, Bool.not_false, Bool.and_true]
    rw [List.foldl_cons, ih _ once (fun n hn => ?_) (by rw [on]; rfl) (by rwa [on, same]), on, inUse_withoutOctet _ hj, Bool.and_assoc]
    · simp [Bool.not_or, Bool.decide_or, eq_comm]
    · obtain ⟨bound, used', left'⟩ := unlisted n (List.mem_cons_of_mem k hn)
      have other : k ≠ n := fun eq => first (eq ▸ hn)
      exact ⟨bound, by rw [on, inUse_withoutOctet _ bound, used', decide_eq_false other]; rfl, left'⟩

theorem linkOctets_le (i : Nat) : linkOctets i ≤ 12 := by
  unfold linkOctets
  split_ifs <;> decide

theorem takeWidth_spec {s : State} {i : Nat} {f : Frame} {g : BitVec 12} (words : 3 ≤ (frameWords f).length)
    (listed : g = BitVec.ofNat 12 (wordBits (frameWords f) 2 27 16)) (serves : linkServes (link s i) = true)
    (enough : linkMinOctets i ≤ popc12 ((link s i).octIns &&& g)) : (link (takeWidth s i f) i).postponed = false ∧
      ∀ k, k < linkOctets i → inUse (link (takeWidth s i f) i) k = (inUse (link s i) k && g.getLsbD k) := by
  unfold takeWidth
  dsimp only
  rw [if_neg (by omega), ← listed, link_modLink]
  refine ⟨rfl, fun k hk => ?_⟩
  have bound := linkOctets_le i
  have unlisted : ∀ n ∈ (List.range (linkOctets i)).filter (fun n => inUse (link s i) n && !g.getLsbD n),
      n < 12 ∧ inUse (link s i) n = true ∧ g.getLsbD n = false := fun n here => by
    obtain ⟨inside, left⟩ := List.mem_filter.1 here
    rw [Bool.and_eq_true, Bool.not_eq_true'] at left
    exact ⟨(List.mem_range.1 inside).trans_le bound, left⟩
  refine (retired_in_turn i g _ s (List.nodup_range.filter _) unlisted serves enough (hk.trans_le bound)).trans ?_
  cases used : inUse (link s i) k <;> cases kept : g.getLsbD k <;> simp [hk, used, kept]

/-! ### Frames (R307 to R312) -/

section
variable {s : State} {i dir o ty : Nat} {f : Frame} {k : State → State} (octet : octetExists s i o = true)
include octet

/-- A frame whose CRC is good does on an active link what its type does, once the sender of the other direction has its acknowledgement. -/
theorem takeFrame_good (serves : linkServes (link s i) = true) (used : inUse (link s i) o = true) (good : crcOk f = true) (type : fType f = ty)
    (known : ty < 6) : takeFrame s i dir o ty f k = k (takeAck s i dir f) := by
  unfold takeFrame
  dsimp only
  rw [if_neg (by simp [octet, serves, used]), if_neg (by simp [good]), if_neg (by simp [serves]), if_neg (by omega), if_neg (by simp [type])]

theorem takeFrame_bad (serves : linkServes (link s i) = true) (used : inUse (link s i) o = true) (bad : crcOk f = false) :
    takeFrame s i dir o ty f k = crcFailure s i dir o := by
  unfold takeFrame
  dsimp only
  rw [if_neg (by simp [octet, serves, used]), if_pos (by simp [bad])]

/-- A CAP frame while the link trains presents the sender's words (R314). -/
theorem takeFrame_training (trains : (link s i).st = 1) (good : crcOk f = true) (type : fType f = 2) :
    takeFrame s i dir o 2 f k = presentWords s i dir (frameWords f) := by
  have idle : linkServes (link s i) = false := by rw [linkServes, trains]; rfl
  unfold takeFrame
  dsimp only
  rw [if_neg (by simp [octet, trains, idle]), if_neg (by simp [good]), if_pos (by simp [idle]), if_pos (by simp [type])]

end

section
variable {s : State} {i dir o : Nat} (serves : linkServes (link s i) = true)
  (few : ((link s i).octCrc.filter fun e => e.1 == o && decide ((die s 8).time.toNat < e.2 + 10000)).length + 1 < 16)
include serves few

/-- Fewer than sixteen failures of the octet within 100 us: the frame is counted and asked for again. -/
theorem crcFailure_few : ∃ recent, crcFailure s i dir o =
    requestReplay (modLink s i fun l => { l with crcErr := bump 0xFFFF l.crcErr, octCrc := recent }) i dir := by
  refine ⟨((link s i).octCrc.filter fun (_, t) => decide ((die s 8).time.toNat < t + 10000)) ++ [(o, (die s 8).time.toNat)], ?_⟩
  unfold crcFailure
  dsimp only
  rw [link_modLink, if_neg (by rw [Bool.not_eq_true', Bool.not_eq_false]; exact serves), if_neg]
  rw [List.filter_append, List.length_append, List.filter_filter]
  simp only [List.filter_singleton, BEq.rfl, cond_true, List.length_singleton]
  omega

theorem frameLost {ty : Nat} {f : Frame} {k : State → State} {c : Instr} (run : exec c s = .next (takeFrame s i dir o ty f k))
    (octet : octetExists s i o = true) (used : inUse (link s i) o = true) (bad : crcOk f = false) : FrameLost s i dir (link s i) c := by
  obtain ⟨recent, failed⟩ := crcFailure_few (dir := dir) serves few
  have asked := link_requestReplay (modLink s i fun l => { l with crcErr := bump 0xFFFF l.crcErr, octCrc := recent }) i dir
  refine ⟨_, run, ?_⟩
  rw [takeFrame_bad octet serves used bad, failed, asked, link_modLink, setDir_crcErr, setDir_octIns, linkDir_setDir]
  exact ⟨rfl, rfl, rfl, rfl⟩

end

/-- What the acknowledgement in a frame leaves as it is. -/
theorem takeAck_rest (s : State) (i dir : Nat) (f : Frame) : (takeAck s i dir f).restart = s.restart ∧ (takeAck s i dir f).out = s.out ∧
    (link (takeAck s i dir f) i).st = (link s i).st ∧ (link (takeAck s i dir f) i).octIns = (link s i).octIns := by
  unfold takeAck
  dsimp only
  split_ifs
  · exact ⟨rfl, rfl, by simp, by simp⟩
  · exact ⟨rfl, rfl, by simp, by simp⟩

/-! ### DATA frames (R308, R310, R312) -/

theorem takeCell_keeps {d x : LinkDir} {v : Nat} {c : BitVec 128} (taken : takeCell d v c = .ok x) : x.recvSeq = d.recvSeq ∧ x.nak = d.nak := by
  unfold takeCell at taken
  dsimp only at taken
  split_ifs at taken <;> cases taken <;> exact ⟨rfl, rfl⟩

theorem takeCells_keeps {f : Frame} {ns : List Nat} {d x : LinkDir} (taken : takeCells f ns d = .ok x) : x.recvSeq = d.recvSeq ∧ x.nak = d.nak := by
  induction ns generalizing d with
  | nil => cases taken; exact ⟨rfl, rfl⟩
  | cons n ns ih =>
    rw [takeCells] at taken
    cases cell : takeCell d (fSlot f n) (f.cells.getD n 0) with
    | error c => rw [cell] at taken; cases taken
    | ok e =>
      obtain ⟨seq, nak⟩ := takeCell_keeps cell
      rw [cell] at taken
      exact ⟨(ih taken).1.trans seq, (ih taken).2.trans nak⟩

/-- How far a DATA frame is ahead of the one that its receiver expects. -/
def ahead (d : LinkDir) (f : Frame) : Nat := (BitVec.ofNat 12 (fSeq f) - d.recvSeq).toNat

/-- A direction whose sender has sent a DATA frame, new or again. -/
def sentFrame (d : LinkDir) (f : Frame) : LinkDir :=
  if ahead d f < 2048 && (BitVec.ofNat 12 (fSeq f) + 1 - d.sendSeq).toNat < 2048 then
    { d with sendSeq := BitVec.ofNat 12 (fSeq f) + 1, unacked := d.unacked + (BitVec.ofNat 12 (fSeq f) + 1 - d.sendSeq).toNat }
  else d

theorem sentFrame_receiver (d : LinkDir) (f : Frame) : (sentFrame d f).recvSeq = d.recvSeq ∧ (sentFrame d f).nak = d.nak ∧
    (sentFrame d f).freed = d.freed ∧ (sentFrame d f).openCells = d.openCells := by
  unfold sentFrame
  split_ifs <;> exact ⟨rfl, rfl, rfl, rfl⟩

/-- The direction as the cells of a frame in sequence find it. -/
def inSequence (d : LinkDir) (f : Frame) : LinkDir := { sentFrame d f with recvSeq := (sentFrame d f).recvSeq + 1, nak := none }

/-- What the cells of a frame in sequence make of the module: the direction goes on, the link is lost, or the domain ends (R527). -/
def cellsTaken (s : State) (i dir : Nat) : Except Nat LinkDir → State
  | .error c => if c = 4 then loseLink s i else raiseFatal s c 0
  | .ok d => modDir s i dir fun _ => d

/-- A DATA frame that its sender may send is delivered in sequence, asks for a replay ahead of it, and is dropped behind it. -/
theorem takeData_eq {s : State} {i dir : Nat} {f : Frame} {d : LinkDir} {u : State} (may : senderMay (link s i) dir f = true)
    (expects : d = linkDir (link s i) dir) (sent : u = modDir s i dir fun _ => sentFrame d f) : takeData s i dir f =
      if ahead d f = 0 then cellsTaken u i dir (takeCells f (List.range 16) (inSequence d f))
      else if ahead d f < 2048 then requestReplay u i dir else u := by
  subst expects sent
  unfold takeData
  rw [if_neg (by simp [may])]
  rfl

section
variable {s : State} {i dir : Nat} {f : Frame} {d : LinkDir} (expects : d = linkDir (link s i) dir) (may : senderMay (link s i) dir f = true)
include expects may

theorem takeData_delivers {x : LinkDir} (next : ahead d f = 0) (cells : takeCells f (List.range 16) (inSequence d f) = .ok x) :
    linkDir (link (takeData s i dir f) i) dir = x ∧ (takeData s i dir f).restart = s.restart := by
  rw [takeData_eq may expects rfl, if_pos next, cells, cellsTaken]
  exact ⟨by simp, rfl⟩

/-- A reserved descriptor or a payload cell without a packet loses the link (R308, R328). -/
theorem takeData_loses (serves : linkServes (link s i) = true) (next : ahead d f = 0)
    (cells : takeCells f (List.range 16) (inSequence d f) = .error 4) :
    (link (takeData s i dir f) i).st = 5 ∧ (takeData s i dir f).restart.fatal = true := by
  rw [takeData_eq may expects rfl, if_pos next, cells, cellsTaken, if_pos rfl]
  exact loseLink_fatal (linkServes_of_st (by simp) serves)

/-- A multicast on bulk VC0 or on the control mesh ends the domain (R185). -/
theorem takeData_ends (next : ahead d f = 0) (cells : takeCells f (List.range 16) (inSequence d f) = .error 6) :
    (takeData s i dir f).restart.fatal = true ∧ (s.restart.fatal = false → (takeData s i dir f).restart.fatalCause = 6) := by
  rw [takeData_eq may expects rfl, if_pos next, cells, cellsTaken, if_neg (by decide)]
  exact ⟨rfl, fun alive => by simp [raiseFatal, alive]⟩

theorem takeData_early (early : 0 < ahead d f) (near : ahead d f < 2048) : (linkDir (link (takeData s i dir f) i) dir).recvSeq = d.recvSeq ∧
    (linkDir (link (takeData s i dir f) i) dir).nak = some (d.nak.getD (d.recvSeq, 1)) := by
  obtain ⟨seq, nak, -, -⟩ := sentFrame_receiver d f
  rw [takeData_eq may expects rfl, if_neg (by omega), if_pos near, link_requestReplay, linkDir_setDir, link_modDir, linkDir_setDir, asking, seq, nak]
  exact ⟨rfl, rfl⟩

theorem takeData_again (far : 2048 ≤ ahead d f) : (linkDir (link (takeData s i dir f) i) dir).recvSeq = d.recvSeq ∧
    (linkDir (link (takeData s i dir f) i) dir).nak = d.nak ∧ (takeData s i dir f).out = s.out := by
  obtain ⟨seq, nak, -, -⟩ := sentFrame_receiver d f
  rw [takeData_eq may expects rfl, if_neg (by omega), if_neg (by omega), link_modDir, linkDir_setDir]
  exact ⟨seq, nak, rfl⟩

end

/-! ### Retry, recalibration and commands (R311, R324 to R327) -/

section
variable {s : State} {i o : Nat}

/-- The command for one octet retires that octet. -/
theorem retireMask_one (octet : o < 12) : retireMask s i (BitVec.ofNat 12 (2 ^ o)) = retireOctet s i o true := by
  have only : (List.range 12).filter (fun k => (BitVec.ofNat 12 (2 ^ o)).getLsbD k) = [o] := by
    revert o; decide
  rw [retireMask, only]
  rfl

theorem exec_octetRecalibration {ok : Bool} (link' : linkOk i = true) (octet : octetOk o = true) (serves : linkServes (link s i) = true)
    (used : inUse (link s i) o = true) (first : (link s i).postponed = false) (calm : s.restart.active = false) {u : State}
    (passed : u = modLink s i fun l => { l with recals := bump 0xFFFF l.recals, recalPass := l.recalPass.filter (· ≠ o) }) :
    exec (.octetRecalibration i o ok) s = .next (if ok then u else retireOctet u i o false) := by
  subst passed
  refine (onUnit_next ..).2 ⟨by rw [link', octet]; rfl, ?_⟩
  dsimp only
  rw [if_neg (by simp [serves, used, first, calm])]
  rfl

theorem startRecal_spec (serves : linkServes (link s i) = true) :
    (∀ k, k ∈ (link (startRecal s i) i).recalPass ↔ k < 12 ∧ inUse (link s i) k = true) ∧
      (link (startRecal s i) i).octIns = (link s i).octIns := by
  rw [startRecal, if_neg (by simp [serves]), link_modLink]
  exact ⟨fun k => by rw [List.mem_filter, List.mem_range], rfl⟩

end

/-- The request goes out again, and with the eighth the link is lost. -/
theorem nakRepeat_spec {s : State} {i dir k : Nat} {n : BitVec 12} (link' : linkOk i = true) (dir' : dirOk dir = true)
    (serves : linkServes (link s i) = true) (asked : (linkDir (link s i) dir).nak = some (n, k)) : ∃ t, exec (.nakRepeat i dir) s = .next t ∧
      (k + 1 < 8 → (linkDir (link t i) dir).nak = some (n, k + 1) ∧ t.out = s.out ++ [.linkNak i dir n.toNat] ∧ t.restart = s.restart) ∧
      (8 ≤ k + 1 → (link t i).st = 5 ∧ t.restart.fatal = true) := by
  refine ⟨_, (onUnit_next ..).2 ⟨by rw [link', dir']; rfl, rfl⟩, ?_⟩
  rw [if_neg (by simp [serves]), asked]
  dsimp only
  refine ⟨fun few => ?_, fun eighth => ?_⟩
  · rw [if_neg (by omega)]
    exact ⟨by simp, rfl, rfl⟩
  · rw [if_pos eighth]
    exact loseLink_fatal (linkServes_of_st (by simp) serves)

/-! ### Training (R313 to R321) -/

theorem look_credits (w : List W64) {c : Nat} (hc : c < 6) : (look 0 (credits w) c).toNat = 16 * wordBits w 3 (10 * c + 9) (10 * c) := by
  have small : wordBits w 3 (10 * c + 9) (10 * c) < 2 ^ 10 := by
    have width : 10 * c + 9 - 10 * c + 1 = 10 := by omega
    rw [wordBits, Num.field, width]
    exact Nat.mod_lt _ (by decide)
  rw [credits, look_foldl_put 0 (fun c _ => BitVec.ofNat 16 (16 * wordBits w 3 (10 * c + 9) (10 * c))), if_pos hc, BitVec.toNat_ofNat]
  exact Nat.mod_eq_of_lt (by omega)

theorem credits_of_creditsOk {ring : Bool} {w : List W64} (fine : creditsOk ring w = true) {c : Nat} (hc : c < 6) :
    (leastCredits ring).getD c 0 ≤ (look 0 (credits w) c).toNat := by
  rw [look_credits w hc]
  exact of_decide_eq_true (List.all_eq_true.1 fine c (List.mem_range.2 hc))

/-- A die is held out beside its links. -/
theorem holdByLink_spec (s : State) (d cause : Nat) :
    (holdByLink s d cause).links = s.links ∧ (d ≠ 8 → (die (holdByLink s d cause) d).state = .heldOut) := by
  unfold holdByLink
  split_ifs with stays
  · exact ⟨rfl, fun compute => by simpa [compute] using stays⟩
  · refine ⟨?_, fun _ => by rw [die_heldOut]⟩
    rw [setDieHeld, links_of_offEvents (offEvents_postEvents ..)]
    rfl

/-- The octets that both ends of a link find good. -/
def goodOctets (i : Nat) (l : Link) : BitVec 12 :=
  BitVec.ofNat 12 (wordBits l.cwA 2 27 16) &&& BitVec.ofNat 12 (wordBits l.cwB 2 27 16) &&& octetMask i &&& ~~~l.octRet

/-- A link as its words form it (R319). -/
def formed (i : Nat) (l : Link) : Link :=
  { l with octIns := goodOctets i l, octRet := octetMask i &&& ~~~goodOctets i l, rate := rateOf l.cwA l.cwB,
           st := if goodOctets i l = octetMask i then 2 else 3, cause := 0,
           fwd := freshDir l.cwB l.fwd.scramblerSeeded, bwd := freshDir l.cwA l.bwd.scramblerSeeded }

section
variable {s : State} {i a b : Nat} (ends : linkEnds s.variant i = some (a, b)) {l : Link} (is : l = link s i)
include ends is

/-- Words of end A that break a rule, or that advertise too few credits, hold its die out (R321; log 101). -/
theorem negotiate_refused (wrong : wordsOk false l.cwA = false ∨ creditsOk (decide (8 ≤ i)) l.cwA = false) :
    negotiate s i = holdByLink (linkHeld s i 1) a 3 := by
  subst is
  unfold negotiate
  rw [ends]
  dsimp only
  rw [if_pos]
  rcases wrong with wrong | wrong <;> simp [wrong]

theorem negotiate_forms {ring : Bool} (kind : ring = decide (8 ≤ i)) (wordsA : wordsOk false l.cwA = true) (creditsA : creditsOk ring l.cwA = true)
    (wordsB : wordsOk (!ring) l.cwB = true) (creditsB : creditsOk ring l.cwB = true)
    (numbered : ring = true → portWrong l.cwA a = false ∧ portWrong l.cwB b = false) (same : ring = false → wordsChanged s a l.cwA = false)
    (rate : rateOf l.cwA l.cwB ≠ 0) (enough : linkMinOctets i ≤ popc12 (goodOctets i l)) : negotiate s i = setLink s i (formed i l) := by
  subst is kind
  unfold goodOctets at enough
  have unchanged : (!decide (8 ≤ i) && wordsChanged s a (link s i).cwA) = false :=
    Bool.and_eq_false_imp.2 fun die => same (by simpa using die)
  have portA : (decide (8 ≤ i) && portWrong (link s i).cwA a) = false := Bool.and_eq_false_imp.2 fun ring => (numbered ring).1
  have portB : (decide (8 ≤ i) && portWrong (link s i).cwB b) = false := Bool.and_eq_false_imp.2 fun ring => (numbered ring).2
  unfold negotiate
  rw [ends]
  dsimp only
  rw [if_neg (by rw [wordsA, creditsA, unchanged]; decide), if_neg (by rw [wordsB, creditsB]; decide), if_neg (by rw [portA]; decide),
    if_neg (by rw [portB]; decide), if_neg rate, if_neg (by omega)]
  rfl

end

section
variable {s t : State} {i a b : Nat} (ends : linkEnds s.variant i = some (a, b)) {w : List W64} (given : w ≠ []) {l : Link} (is : l = link s i)
  (other : l.cwB ≠ []) (shown : t = presentWords s i 0 w)
include ends given is other shown

/-- The last words that a link awaits negotiate it. -/
theorem presentWords_last : ∃ u, t = negotiate u i ∧ linkEnds u.variant i = some (a, b) ∧ link u i = { l with cwA := w } ∧
    wordsChanged u a w = wordsChanged s a w := by
  subst is
  refine ⟨modLink s i fun l => { l with cwA := w }, ?_, ends, link_modLink .., rfl⟩
  rw [shown, presentWords]
  simp [given, other]

theorem presentWords_refused (wrong : wordsOk false w = false ∨ creditsOk (decide (8 ≤ i)) w = false) :
    (link t i).st = 4 ∧ (link t i).cause = 1 ∧ (link t i).octIns = 0 ∧ (a ≠ 8 → (die t a).state = .heldOut) := by
  obtain ⟨u, last, ends', presented, -⟩ := presentWords_last ends given is other shown
  obtain ⟨links, held⟩ := holdByLink_spec (linkHeld u i 1) a 3
  rw [last, negotiate_refused ends' presented.symm wrong, link_of_links links, linkHeld, link_modLink]
  exact ⟨rfl, rfl, rfl, held⟩

theorem presentWords_forms {ring : Bool} (kind : ring = decide (8 ≤ i)) (wordsA : wordsOk false w = true) (creditsA : creditsOk ring w = true)
    (wordsB : wordsOk (!ring) l.cwB = true) (creditsB : creditsOk ring l.cwB = true)
    (numbered : ring = true → portWrong w a = false ∧ portWrong l.cwB b = false) (same : ring = false → wordsChanged s a w = false)
    (rate : rateOf w l.cwB ≠ 0) (enough : linkMinOctets i ≤ popc12 (goodOctets i { l with cwA := w })) :
    link t i = formed i { l with cwA := w } := by
  obtain ⟨u, last, ends', presented, unchanged⟩ := presentWords_last ends given is other shown
  rw [last, negotiate_forms ends' presented.symm kind wordsA creditsA wordsB creditsB numbered (fun die => unchanged.trans (same die)) rate enough,
    link_setLink, if_pos rfl]

end

/-! ### The obligation -/

section
variable {s : State} {i dir o : Nat} {f : Frame} (unit : (linkOk i && dirOk dir && octetOk o) = true) (octet : octetExists s i o = true)
include unit octet

theorem frames_lost (serves : linkServes (link s i) = true) (used : inUse (link s i) o = true) (bad : crcOk f = false)
    (few : ((link s i).octCrc.filter fun e => e.1 == o && decide ((die s 8).time.toNat < e.2 + 10000)).length + 1 < 16) :
    FrameLost s i dir (link s i) (.dataFrame i dir o f) ∧ FrameLost s i dir (link s i) (.idleFrame i dir o f) ∧
    FrameLost s i dir (link s i) (.capFrame i dir o f) ∧ FrameLost s i dir (link s i) (.widthFrame i dir o f) ∧
    FrameLost s i dir (link s i) (.alignFrame i dir o f) ∧ FrameLost s i dir (link s i) (.recalFrame i dir o f) := by
  have lost {ty : Nat} {k : State → State} {c : Instr} (run : exec c s = onLink i dir o (takeFrame s i dir o ty f k)) :
      FrameLost s i dir (link s i) c := frameLost serves few (run.trans ((onUnit_next ..).2 ⟨unit, rfl⟩)) octet used bad
  exact ⟨lost rfl, lost rfl, lost rfl, lost rfl, lost rfl, lost rfl⟩

theorem frames_taken (serves : linkServes (link s i) = true) (used : inUse (link s i) o = true) (good : crcOk f = true) {u : State}
    (acked : u = takeAck s i dir f) :
    (fType f = 0 → exec (.dataFrame i dir o f) s = .next (takeData u i dir f)) ∧ (fType f = 1 → exec (.idleFrame i dir o f) s = .next u) ∧
    (fType f = 2 → exec (.capFrame i dir o f) s = .next (loseLink u i)) ∧
    (fType f = 3 → exec (.widthFrame i dir o f) s = .next (takeWidth u i f)) ∧
    (fType f = 4 → exec (.alignFrame i dir o f) s = .next (modDir u i dir fun d => { d with scramblerSeeded := true })) ∧
    (fType f = 5 → exec (.recalFrame i dir o f) s = .next u) := by
  subst acked
  have taken {ty : Nat} (k : State → State) {c : Instr} (run : exec c s = onLink i dir o (takeFrame s i dir o ty f k)) (known : ty < 6)
      (type : fType f = ty) : exec c s = .next (k (takeAck s i dir f)) :=
    run.trans ((onUnit_next ..).2 ⟨unit, takeFrame_good octet serves used good type known⟩)
  exact ⟨taken (takeData · i dir f) rfl (by decide), taken id rfl (by decide), taken (loseLink · i) rfl (by decide),
    taken (takeWidth · i f) rfl (by decide), taken (modDir · i dir fun d => { d with scramblerSeeded := true }) rfl (by decide),
    taken id rfl (by decide)⟩

end

/-- What a DATA frame with a good CRC does, by its place in the sequence. -/
theorem dataFrame_taken {s u t : State} {i dir : Nat} {f : Frame} (serves : linkServes (link u i) = true)
    (rest : u.restart = s.restart ∧ u.out = s.out) (may : senderMay (link u i) dir f = true) (ran : t = takeData u i dir f) {d : LinkDir} (expects : d = linkDir (link u i) dir) {a : Nat}
    (place : a = ahead d f) : ∃ e, e.freed = d.freed ∧ e.openCells = d.openCells ∧ e.recvSeq = d.recvSeq + 1 ∧ e.nak = none ∧
      (a = 0 → (∀ x, takeCells f (List.range 16) e = .ok x → (linkDir (link t i) dir).recvSeq = d.recvSeq + 1 ∧
          (linkDir (link t i) dir).nak = none ∧ (linkDir (link t i) dir).freed = x.freed ∧ t.restart = s.restart) ∧
        (takeCells f (List.range 16) e = .error 4 → (link t i).st = 5 ∧ t.restart.fatal = true) ∧
        (takeCells f (List.range 16) e = .error 6 → t.restart.fatal = true ∧ (s.restart.fatal = false → t.restart.fatalCause = 6))) ∧
      (0 < a → a < 2048 → (linkDir (link t i) dir).recvSeq = d.recvSeq ∧ (linkDir (link t i) dir).nak = some (d.nak.getD (d.recvSeq, 1))) ∧
      (2048 ≤ a → (linkDir (link t i) dir).recvSeq = d.recvSeq ∧ (linkDir (link t i) dir).nak = d.nak ∧ t.out = s.out) := by
  obtain ⟨seq, -, freed, cells⟩ := sentFrame_receiver d f
  obtain ⟨restart, out⟩ := rest
  have next : (inSequence d f).recvSeq = d.recvSeq + 1 := congrArg (· + 1) seq
  subst ran place
  rw [← restart, ← out]
  refine ⟨inSequence d f, freed, cells, next, rfl, fun here => ⟨fun x taken => ?_, takeData_loses expects may serves here,
    takeData_ends expects may here⟩, takeData_early expects may, takeData_again expects may⟩
  obtain ⟨delivered, kept⟩ := takeData_delivers expects may here taken
  obtain ⟨seq', nak⟩ := takeCells_keeps taken
  rw [delivered]
  exact ⟨seq'.trans next, nak, rfl, kept⟩

/-- Settles O52: a frame is lost, or does what its type and its place in the sequence say; octets leave a link down to its least width, below
which it is lost with its ends; and the words of both ends form it. -/
theorem jenolLinkWorks : Obligations.JenolLinkWorks := by
  unfold Obligations.JenolLinkWorks
  refine ⟨fun s i dir o f l unit octet is => ?_, fun s i dir o l link' dir' octet is serves => ?_,
    fun s t i a b w l ring m ends is given other kind shown good => ?_⟩
  · subst is
    refine ⟨fun serves used bad few => frames_lost unit octet serves used bad few, fun serves used fine u acked => ?_,
      fun trains fine type => (onUnit_next ..).2 ⟨unit, takeFrame_training octet trains fine type⟩⟩
    · obtain ⟨data, idle, cap, width, align, recal⟩ := frames_taken unit octet serves used fine acked
      obtain ⟨restart, out, st, octIns⟩ := takeAck_rest s i dir f
      rw [← acked] at restart out st octIns
      have serves' := linkServes_of_st st serves
      refine ⟨idle, recal, fun type barred => ?_, fun type may d a expects place => ?_, fun type => ⟨_, cap type, loseLink_fatal serves'⟩,
        fun type w g words long listed enough => ?_, fun type => ⟨_, align type, ?_⟩⟩
      · rw [data type, takeData, if_pos (by simp [barred])]
      · obtain ⟨e, spec⟩ := dataFrame_taken serves' ⟨restart, out⟩ may rfl expects place
        exact ⟨_, e, data type, spec⟩
      · subst words
        obtain ⟨done, left⟩ := takeWidth_spec (s := u) long listed serves' (by rwa [octIns])
        refine ⟨_, width type, done, fun k hk => ?_⟩
        rw [left k hk, inUse, octIns, inUse]
      · rw [link_modDir, linkDir_setDir, setDir_octIns]
        exact ⟨rfl, octIns⟩
  · subst is
    have bound : o < 12 := of_decide_eq_true octet
    have signal : exec (.lossOfSignal i o) s = .next (retireOctet s i o false) := (onUnit_next ..).2 ⟨by rw [link', octet]; rfl, rfl⟩
    have command : exec (.lnkCmdRetire i (BitVec.ofNat 12 (2 ^ o))) s = .next (retireOctet s i o true) :=
      (onUnit_next ..).2 ⟨link', retireMask_one bound⟩
    refine ⟨fun n k asked => nakRepeat_spec link' dir' serves asked, ⟨_, (onUnit_next ..).2 ⟨link', rfl⟩, ?_⟩,
      ⟨_, (onUnit_next ..).2 ⟨link', rfl⟩, startRecal_spec serves⟩, fun used first calm => ?_, fun used more => ?_, fun used least => ?_⟩
    · obtain ⟨lost, fatal⟩ := loseLink_fatal serves
      exact ⟨lost, fatal, loseLink_suspects serves⟩
    · refine ⟨_, exec_octetRecalibration link' octet serves used first calm rfl, ?_⟩
      rw [if_pos rfl, link_modLink]
      exact ⟨rfl, by simp, rfl⟩
    · refine ⟨octetRetired signal serves used more ⟨rfl, rfl, rfl⟩, octetRetired command serves used more ⟨rfl, rfl, rfl⟩, fun first calm => ?_⟩
      refine octetRetired (exec_octetRecalibration (ok := false) link' octet serves used first calm rfl) ?_ ?_ ?_ ?_ <;> rw [link_modLink]
      exacts [serves, used, more, ⟨rfl, rfl, rfl⟩]
    · rw [command, signal, retireOctet_at_least serves used least, retireOctet_at_least serves used least]
      exact ⟨rfl, _, rfl, loseLink_fatal serves⟩
  · subst good
    refine ⟨fun fine c hc => credits_of_creditsOk fine hc, fun wrong => presentWords_refused ends given is other shown (kind ▸ wrong),
      fun wordsA creditsA wordsB creditsB numbered same rate enough => ?_⟩
    rw [presentWords_forms ends given is other shown kind wordsA creditsA wordsB creditsB numbered same rate enough]
    exact ⟨rfl, rfl, rfl, rfl, rfl, rfl⟩

end Sys2Proof.Machine

/-! SUPPORT. A step runs the command at the front of the queue, or a tick; it keeps what manufacture fixes, and it ends early only at a
unit that no variant has. It settles O1, O3, O5 and O6. -/

namespace Sys2Proof.Machine

/-- A step without a command keeps what every operation keeps; one with a command does so from the state with the queue's rest. -/
theorem kept_step {s t : State} (e : step s = .next t) :
    s.pending = [] ∧ Kept s t ∨ ∃ c cs, s.pending = c :: cs ∧ Kept { s with pending := cs } t := by
  unfold step at e
  split at e
  next empty =>
    cases e
    exact .inl ⟨empty, kept_tick Kept.rfl⟩
  next c cs front => exact .inr ⟨c, cs, front, kept_exec e⟩

/-- Settles O5: what a step keeps, and the queue's rest that it leaves. -/
theorem stepKeepsIdentity : Obligations.StepKeepsIdentity := by
  unfold Obligations.StepKeepsIdentity
  intro s t e
  rcases kept_step e with ⟨empty, pending, variant, serial, baseMac, out⟩ | ⟨c, cs, front, pending, variant, serial, baseMac, out⟩
  · exact ⟨variant, serial, baseMac, out, by rw [pending, empty]; rfl⟩
  · exact ⟨variant, serial, baseMac, out, by rw [pending, front]; rfl⟩

/-- Settles O1: the two cases of a step. -/
theorem queueFrontRuns : Obligations.QueueFrontRuns := by
  unfold Obligations.QueueFrontRuns
  exact ⟨fun _ _ _ => rfl, fun s empty => by rw [step, empty]⟩

/-- Settles O3: each value is the one that the state after reset is written with. -/
theorem resetIsOff : Obligations.ResetIsOff := by
  unfold Obligations.ResetIsOff
  exact ⟨rfl, rfl, rfl, rfl, wf_nil, rfl, rfl, rfl, rfl, rfl, rfl, rfl, rfl, rfl, rfl, rfl, fun _ => rfl⟩

/-- Every row answers through the check of the units that it names (log 1): each meaning is an `onUnit` of the row's own check. -/
theorem exec_eq_onUnit (c : Instr) (s : State) : ∃ t, exec c s = onUnit c.wf t := by
  cases c <;> exact ⟨_, rfl⟩

/-- Settles O6: the check of the units decides alone whether the row answers a next state or the fault. -/
theorem onlyUnknownUnitsStop : Obligations.OnlyUnknownUnitsStop := by
  unfold Obligations.OnlyUnknownUnitsStop
  intro c s
  obtain ⟨t, ran⟩ := exec_eq_onUnit c s
  rw [ran]
  exact ⟨fun known => ⟨t, (onUnit_next ..).2 ⟨known, rfl⟩⟩, fun unknown => by rw [unknown]; rfl⟩

end Sys2Proof.Machine

/-! SUPPORT. Commands that the row itself may refuse, with the reset of a partition and the begin of a self-test among them. It settles O34
and O36. -/

namespace Sys2Proof.Machine

section
variable {s : State} {p q : Nat} {seq : W32} {c : Cmd}

/-- A command whose turn has come is refused with its row's own code, where that is not 0, or carried out. -/
theorem runCmd_refusal {op : Nat} (turn : HasTurn s p q seq op c) (extra : State → Cmd → Nat) (effect : State → Cmd → State) :
    onUnit (partOk p && slotOk q) (runCmd s p q seq op (fun _ => true) extra effect) =
      .next (if extra s c ≠ 0 then finishCmd s p q seq (extra s c) else effect s c) := by
  rw [runCmd_turn turn rfl, onUnit, if_pos turn.unit]

/-! ### RESET_PARTITION (R422) -/

theorem exec_resetPartition (turn : HasTurn s p q seq 0x8A c) : exec (.resetPartition p q seq) s = .next
    (if cw c 1 3 0 = 0 ∨ (partCfg s (cw c 1 3 0)).isDefined = false ∨ (part s (cw c 1 3 0)).resetting = true
      then finishCmd s p q seq 0x5D else finishCmd (resetPart s (cw c 1 3 0)) p q seq 0) := by
  refine (runCmd_refusal turn _ _).trans ?_
  rw [seq_of_findCmd turn.here]
  by_cases refused : cw c 1 3 0 = 0 ∨ (partCfg s (cw c 1 3 0)).isDefined = false ∨ (part s (cw c 1 3 0)).resetting = true
  · simp [refused, or_assoc]
  · simp [refused, or_assoc]

theorem allowedBits_resetPartition (op : cOp c = 0x8A) : allowedBits c = [ones 3 0] := by
  unfold allowedBits
  rw [op]
  rfl

/-- A word passes check 5 with the bits below `n` allowed if it lies below `2 ^ n`. -/
theorem and_ones_eq_iff {v n : Nat} : v &&& (2 ^ n - 1) = v ↔ v < 2 ^ n := by
  rw [Nat.and_two_pow_sub_one_eq_mod, Nat.mod_eq_iff_lt (by positivity)]

theorem reservedOk_word {i : Nat} (fine : reservedOk c = true) (hi : i < 7) :
    (c.words.getD (i + 1) 0).toNat &&& (allowedBits c).getD i 0 = (c.words.getD (i + 1) 0).toNat := by
  rw [reservedOk, Bool.and_eq_true, List.all_eq_true] at fine
  simpa using fine.2 i (List.mem_range.2 hi)

/-- Settles O34: bits above 3 of word 1 and words 2 to 7 are reserved, and the row's own check is the refusal of R422. -/
theorem resetPartitionRefused : Obligations.ResetPartitionRefused := by
  unfold Obligations.ResetPartitionRefused
  intro s p q seq c op
  have allowed := allowedBits_resetPartition op
  refine ⟨⟨allowed, fun fine => ⟨?_, fun i lo hi => ?_⟩⟩, fun turn k target => ?_⟩
  · have word := reservedOk_word fine (i := 0) (by decide)
    rw [allowed] at word
    exact (and_ones_eq_iff (n := 4)).1 word
  · obtain ⟨j, rfl⟩ := Nat.exists_eq_add_of_le' lo
    have word := reservedOk_word fine (i := j + 1) (by omega)
    rw [allowed] at word
    exact BitVec.eq_of_toNat_eq (by simpa using word.symm)
  · have field : cw c 1 3 0 = k := by simp [target, cw, Num.field]
    rw [exec_resetPartition turn, field]

/-! ### SELF_TEST (R544, R545) -/

/-- What SELF_TEST has done before the test may begin: the clusters are marked and vacated, the slices drained (R545). -/
def testPrepared (s : State) (scope d : Nat) (cs : List Nat) : State :=
  let s1 := if scope = 2 ∧ s.dev.st ≠ 4 then { s with dev := { s.dev with testPrev := s.dev.st, st := 4 } } else s
  let s2 := vacate (if scope = 2 then s1 else markTesting s1 cs true) cs
  (testSlices s2 scope d).foldl drainSlice s2

theorem exec_selfTest (turn : HasTurn s p q seq 0x89 c) {scope d cl : Nat} (hs : scope = cw c 1 1 0) (hd : d = cw c 1 7 4)
    (hc : cl = cw c 1 11 8) : exec (.selfTest p q seq) s = .next
      (if s.dev.testBusy = true ∨ (scope = 2 ∧ lcAdmitted s = true) then finishCmd s p q seq 0x59
       else if scope ≠ 2 ∧ notTested s d = true then finishCmd
         { s with dev := { s.dev with testScope := scope, testResult := 3, testFailCl := 0, testFailDie := 0 } } p q seq 0
       else if mayTest (testPrepared s scope d (testClusters s scope d cl)) scope d (testClusters s scope d cl) = true
         then beginTest (testPrepared s scope d (testClusters s scope d cl)) q seq scope d cl (scope = 2 || cw c 1 16 16 == 1)
           (testClusters s scope d cl)
       else testPrepared s scope d (testClusters s scope d cl)) := by
  subst hs hd hc
  refine (runCmd_refusal turn _ _).trans ?_
  rw [seq_of_findCmd turn.here]
  by_cases refused : s.dev.testBusy = true ∨ (cw c 1 1 0 = 2 ∧ lcAdmitted s = true)
  · simp [refused]
  · have calm := (not_or.1 refused).1
    by_cases out : cw c 1 1 0 ≠ 2 ∧ notTested s (cw c 1 7 4) = true
    · simp [calm, out]
    · simp only [refused, out, Bool.or_eq_true, Bool.and_eq_true, beq_iff_eq, if_false, decide_eq_true_eq, ne_eq, not_true_eq_false,
        testPrepared]

/-- What a step does for its own number and keeps from the others holds after a fold over every number of the list. -/
theorem foldl_of_mem {P : State → Prop} {f : State → Nat → State} {k : Nat} (own : ∀ s, P (f s k)) (keep : ∀ s c, P s → P (f s c))
    {cs : List Nat} (here : k ∈ cs) (s : State) : P (cs.foldl f s) := by
  induction cs generalizing s with
  | nil => cases here
  | cons c cs ih =>
    rcases List.mem_cons.1 here with rfl | later
    · exact List.foldlRecOn cs f (own s) fun t kept e _ => keep t e kept
    · exact ih later _

/-- The read-only caches of a cluster under test are off, and a test of a cluster or die has the whole of its local store. -/
def CachesOff (scope k : Nat) (s : State) : Prop :=
  (cluster s k).ro = [] ∧ (cluster s k).roEnabled = false ∧ (scope ≠ 2 → (cluster s k).ls = 6)

/-- The begin of a test at one of its clusters (R164, R250, R545). -/
def beginAtCluster (scope : Nat) (s : State) (c : Nat) : State :=
  modCluster (if scope = 2 then s else modCluster s c fun x => { x with ls := 6, lsByLaunch := true, lsTest := true }) c fun x =>
    { x with ro := [], roEnabled := false, roInvalid := false }

theorem cachesOff_own (scope k : Nat) (s : State) : CachesOff scope k (beginAtCluster scope s k) := by
  by_cases whole : scope = 2 <;> simp [CachesOff, beginAtCluster, modCluster, whole]

theorem cachesOff_keep {scope k : Nat} {s : State} (c : Nat) (off : CachesOff scope k s) : CachesOff scope k (beginAtCluster scope s c) := by
  by_cases same : k = c
  · rw [same]
    exact cachesOff_own scope c s
  · rw [CachesOff] at off ⊢
    rw [beginAtCluster]
    by_cases whole : scope = 2 <;> simpa [modCluster, whole, same] using off

theorem beginAtClusters_rest (scope : Nat) (s : State) (cs : List Nat) :
    (cs.foldl (beginAtCluster scope) s).dev = s.dev ∧ (cs.foldl (beginAtCluster scope) s).mem = s.mem := by
  refine List.foldlRecOn (motive := fun t : State => t.dev = s.dev ∧ t.mem = s.mem) cs _ ⟨rfl, rfl⟩ fun t same c _ => ?_
  rw [beginAtCluster]
  split <;> exact same

/-- A test of a whole die takes the die out of service. -/
def beginAtDie (scope d : Nat) (s : State) : State := if scope = 1 then modDie s d fun u => { u with state := .testing } else s

theorem beginAtDie_rest (scope d : Nat) (s : State) :
    (beginAtDie scope d s).dev = s.dev ∧ (beginAtDie scope d s).mem = s.mem ∧ (beginAtDie scope d s).clusters = s.clusters := by
  rw [beginAtDie]
  split <;> exact ⟨rfl, rfl, rfl⟩

/-- What the begin of a test leaves. -/
theorem beginTest_spec (s : State) (seq : W32) (scope d cl : Nat) (ledger : Bool) (cs : List Nat) {u : State}
    (begun : u = beginTest s q seq scope d cl ledger cs) :
    u.dev.testBusy = true ∧ u.dev.testCmd = some (q, seq) ∧ u.dev.testScope = scope ∧ u.dev.testDie = d ∧ u.dev.testResult = 0 ∧
      u.admission.passDue = true ∧ u.dev.st = s.dev.st ∧ u.mem = s.mem ∧ ∀ k ∈ cs, CachesOff scope k u := by
  obtain ⟨dev, mem⟩ := beginAtClusters_rest scope s cs
  obtain ⟨dev', mem', clusters⟩ := beginAtDie_rest scope d (cs.foldl (beginAtCluster scope) s)
  have st := congrArg Dev.st (dev'.trans dev)
  subst begun
  refine ⟨rfl, rfl, rfl, rfl, rfl, rfl, st, mem'.trans mem, fun k here => ?_⟩
  have same : cluster (beginTest s q seq scope d cl ledger cs) k = cluster (cs.foldl (beginAtCluster scope) s) k :=
    congrArg (fun m => look ({} : Cluster) m k) clusters
  rw [CachesOff, same]
  exact foldl_of_mem (P := CachesOff scope k) (cachesOff_own scope k) (fun _ c => cachesOff_keep c) here s

end

/-- Settles O36: the row's own check is the refusal beside another test; else the clusters are vacated and the slices drained, and the
test begins where it may. -/
theorem selfTestStarts : Obligations.SelfTestStarts := by
  unfold Obligations.SelfTestStarts
  intro s p q seq c scope d cs turn hs bound hd hcs
  have ran := exec_selfTest turn hs hd rfl
  rw [← hcs] at ran
  rw [ran]
  have small : scope < 2 ↔ scope ≠ 2 := by omega
  rw [small]
  refine ⟨fun refused => by rw [if_pos refused], fun calm part out => ?_, fun calm whole served s1 s2 t h1 h2 ht => ?_⟩
  · rw [if_neg (by simp [calm, part]), if_pos ⟨part, out⟩]
  · have first : ¬(s.dev.testBusy = true ∨ (scope = 2 ∧ lcAdmitted s = true)) := by
      rintro (busy | ⟨all, admitted⟩)
      · exact Bool.noConfusion (calm.symm.trans busy)
      · exact Bool.noConfusion ((whole all).symm.trans admitted)
    have second : ¬(scope ≠ 2 ∧ notTested s d = true) := fun h => Bool.noConfusion ((served h.1).symm.trans h.2)
    have prepared : testPrepared s scope d cs = t := by rw [ht, h2, h1]; rfl
    rw [if_neg first, if_neg second, prepared]
    refine ⟨fun early => by rw [if_neg (by simp [early])], fun may => ⟨_, by rw [if_pos may], beginTest_spec _ _ _ _ _ _ _ rfl⟩⟩

end Sys2Proof.Machine

/-! SUPPORT. What the front end's own reads and writes of memory leave: the queues, and of the device all but the crushers' counters. Records
that are enqueued. It settles O26. -/

namespace Sys2Proof.Machine

/-! ### Queues beside memory -/

theorem parts_of_offMemory {s t : State} (h : offMemory t = offMemory s) : t.parts = s.parts :=
  (congrArg State.parts h : (offMemory t).parts = (offMemory s).parts)

theorem queue_of_offMemory {s t : State} (h : offMemory t = offMemory s) (p q : Nat) : queue t p q = queue s p q :=
  queue_of_parts s p q (parts_of_offMemory h)

theorem queue_agentWrite (s : State) (p' pa : Nat) (bs : List Byte) (p q : Nat) : queue (agentWrite s p' pa bs) p q = queue s p q :=
  queue_of_offMemory (offMemory_agentWrite ..) p q

theorem queue_setQueue_same (s : State) (p q : Nat) (x : Queue) : queue (setQueue s p q x) p q = x := by
  rw [queue_setQueue, if_pos ⟨rfl, rfl⟩]

/-! ### ENQ (R387) -/

section
variable {s : State} {g : GRef} {x : Group} {p : Path} {w : W64} {rs rd : Nat}

/-- The access of an ENQ: the status comes to the result register of every lane. -/
def enqAccess (s : State) (g : GRef) (p : Path) (w : W64) (rd : Nat) : Access :=
  { tag := s.nextTag, instr := s.nextTag, gid := gidOf g, kind := .atomRet, line := 0, attr := 0, va := 0, pc := p.pc, word := w,
    pieces := (List.range 32).map fun l => { off := 0, len := 4, lane := l, reg := rd } }

theorem exec_enq (may : MayIssue s g x p) (hs : rs = bits w 15 8) (hd : rd = bits w 23 16)
    (word : WordOk x w 0x5E [(15, 8), (23, 16), (32, 24)] [(rs, 16), (rd, 1)] none) (aligned : rs % 16 = 0)
    (room : readsOut s (gidOf g) < 16) (free : BlocksFree s g [(rs, 16), (rd, 1)]) :
    exec (.enq g w) s = .next (fetched s (gidOf g) x p { setGroup s (gidOf g) (some (advance x)) with
      accs := s.accs ++ [enqAccess s g p w rd], nextTag := s.nextTag + 1,
      out := s.out ++ [.cohData "ENQ_REC" (bits w 32 24) s.nextTag (BitVec.ofNat 1024 (readBlock x 0 rs 16)) 0 0 0] }) := by
  subst hs hd
  have ready : (canRead s (gidOf g) && blocksFree s (gidOf g) [(bits w 15 8, 16), (bits w 23 16, 1)]) = true := by
    rw [Bool.and_eq_true, blocksFree_iff]
    exact ⟨decide_eq_true room, free⟩
  refine (onUnit_next ..).2 ⟨may.unit, ?_⟩
  refine (issue_acts may ready (firstFault_none fun e he => ?_)).trans rfl
  rcases List.mem_append.1 he with he | he
  · exact wordFaults_none word e he
  · rw [List.mem_singleton.1 he]
    simp [aligned]

end

/-! ### ENQ_REC (R387, R388) -/

section
variable {s : State} {p q tag : Nat} {words : List W64}

/-- The record that the device writes: its own sequence number in the upper half of word 0. -/
def enqCmd (x : Queue) (words : List W64) : Cmd :=
  { seq := enqSeq x, words := ((words.getD 0 0 &&& 0xFFFFFFFF#64) ||| ((enqSeq x).setWidth 64 <<< 32)) :: words.drop 1 }

/-- The record has been written at the tail. -/
def enqWritten (s : State) (p q : Nat) (words : List W64) : State :=
  setQueue (agentWrite s p (recordAddr (queue s p q) (queue s p q).tail) ((enqCmd (queue s p q) words).words.flatMap fun w => leBytes 8 w.toNat))
    p q { queue s p q with tail := (queue s p q).tail + 1 }

theorem exec_enqRec (unit : (partOk p && slotOk q) = true) (calm : s.restart.active = false) {st : Nat}
    (status : enqStatus s p q (enqCmd (queue s p q) words) = st) : exec (.enqRec p q tag words) s =
      .next (emit (if st ≠ 0 then s else enqWritten s p q words) (.ack (.access tag) st)) := by
  refine (onUnit_next ..).2 ⟨unit, ?_⟩
  rw [if_neg (by simp [calm])]
  change answerWrite (if enqStatus s p q (enqCmd (queue s p q) words) ≠ 0 then s else _) tag
    (enqStatus s p q (enqCmd (queue s p q) words)) = _
  rw [status, answerWrite, enqWritten, modQueue, queue_agentWrite]
  rfl

theorem enqStatus_inactive {c : Cmd} (off : enqActive (queue s p q) = false) : enqStatus s p q c = 2 := by
  simp [enqStatus, off]

theorem enqStatus_refused {c : Cmd} (on : enqActive (queue s p q) = true) (bad : enqRecordOk s p q c = false) : enqStatus s p q c = 3 := by
  simp [enqStatus, on, bad]

theorem enqStatus_full {c : Cmd} (on : enqActive (queue s p q) = true) (fine : enqRecordOk s p q c = true)
    (full : ringSize (queue s p q) ≤ ((queue s p q).tail - (queue s p q).head).toNat) : enqStatus s p q c = 1 := by
  unfold enqStatus
  dsimp only
  rw [on, fine, if_neg (by simp), if_neg (by simp), if_pos full]

theorem enqStatus_taken {c : Cmd} (on : enqActive (queue s p q) = true) (fine : enqRecordOk s p q c = true)
    (room : ((queue s p q).tail - (queue s p q).head).toNat < ringSize (queue s p q)) : enqStatus s p q c = 0 := by
  unfold enqStatus
  dsimp only
  rw [on, fine, if_neg (by simp), if_neg (by simp), if_neg (by omega)]

end

/-- Settles O26: an ENQ that breaks no rule sends its record; the record's status decides what the front end does. -/
theorem enqueuedRecords : Obligations.EnqueuedRecords := by
  unfold Obligations.EnqueuedRecords
  refine ⟨fun g w s x p rs rd may hs hd word aligned room free a access => ?_, fun s p q tag words x c unit calm hx hc => ?_⟩
  · rw [access]
    exact exec_enq may hs hd word aligned room free
  · subst hx hc
    refine ⟨fun off => ?_, fun on bad => ?_, fun on fine full => ?_, fun on fine room => ⟨enqWritten s p q words, ?_, ?_, rfl⟩⟩
    · exact exec_enqRec unit calm (enqStatus_inactive off)
    · exact exec_enqRec unit calm (enqStatus_refused on bad)
    · exact exec_enqRec unit calm (enqStatus_full on fine full)
    · exact exec_enqRec unit calm (enqStatus_taken on fine room)
    · exact queue_setQueue_same ..

end Sys2Proof.Machine

/-! SUPPORT. The commands of a queue through their acceptance, refusal and completion (R363, R364, R371, R473). It settles O29, and refutes
O28. -/

namespace Sys2Proof.Machine

/-! ### Commands of a queue, one by one -/

theorem look_map {α : Type} {d : α} (f : Nat → α → α) {k : Nat} (default : f k d = d) (m : SMap α) :
    look d (m.map fun e => (e.1, f e.1 e.2)) k = f k (look d m k) := by
  induction m with
  | nil => exact default.symm
  | cons e m ih =>
    rw [List.map_cons, look, look]
    split
    next here => rw [here]
    next => exact ih

theorem findCmd_map {x : Queue} {seq : W32} {f : Cmd → Cmd} (keep : ∀ c, (f c).seq = c.seq) :
    findCmd { x with cmds := x.cmds.map f } seq = (findCmd x seq).map f := by
  rw [findCmd, findCmd, List.find?_map]
  congr 2
  funext c
  rw [Function.comp_apply, keep]

/-- The account of a command: the time beside other launches (R473). -/
def sharedBy (s : State) (p q : Nat) (c : Cmd) : Cmd :=
  if (s.portTime - s.shareAt).toNat = 0 ∨ s.launches.filter (·.started) = [] then c
  else if (c.accepted && !c.done && ((s.launches.filter (·.started)).any fun l => !(l.part == p && l.q == q && l.seq == c.seq))) = true
    then { c with shared := c.shared + (s.portTime - s.shareAt).toNat } else c

theorem sharedBy_eq (s : State) (p q : Nat) (c : Cmd) : ∃ n, sharedBy s p q c = { c with shared := n } := by
  unfold sharedBy
  split
  · exact ⟨c.shared, rfl⟩
  · split
    · exact ⟨_, rfl⟩
    · exact ⟨c.shared, rfl⟩

/-- A queue with its commands' accounts. -/
def sharedQueue (s : State) (p q : Nat) (x : Queue) : Queue := { x with cmds := x.cmds.map (sharedBy s p q) }

/-- A partition with its commands' accounts. -/
def sharedPart (s : State) (p : Nat) (r : Part) : Part := { r with queues := r.queues.map fun e => (e.1, sharedQueue s p e.1 e.2) }

theorem sharedPart_idle {s : State} (idle : (s.portTime - s.shareAt).toNat = 0 ∨ s.launches.filter (·.started) = []) (p : Nat) (r : Part) :
    sharedPart s p r = r := by
  have same : ∀ q x, sharedQueue s p q x = x := by
    intro q x
    have still : sharedBy s p q = id := funext fun c => if_pos idle
    rw [sharedQueue, still, List.map_id]
  simp [sharedPart, same]

theorem accountShared_eq (s : State) :
    accountShared s = { s with shareAt := s.portTime, parts := s.parts.map fun e => (e.1, sharedPart s e.1 e.2) } := by
  unfold accountShared
  dsimp only
  by_cases idle : (s.portTime - s.shareAt).toNat = 0 ∨ s.launches.filter (·.started) = []
  · rw [if_pos (by simpa using idle)]
    simp [sharedPart_idle idle]
  · rw [if_neg (by simpa using idle)]
    have busy : ∀ p q, sharedBy s p q = fun c => if (c.accepted && !c.done && ((s.launches.filter (·.started)).any fun l =>
        !(l.part == p && l.q == q && l.seq == c.seq))) = true then { c with shared := c.shared + (s.portTime - s.shareAt).toNat } else c :=
      fun p q => funext fun c => if_neg idle
    simp only [sharedPart, sharedQueue, busy]

theorem part_accountShared (s : State) (p : Nat) : part (accountShared s) p = sharedPart s p (part s p) := by
  rw [accountShared_eq]
  exact look_map (sharedPart s) (by rfl) s.parts

theorem queue_accountShared (s : State) (p q : Nat) : queue (accountShared s) p q = sharedQueue s p q (queue s p q) := by
  rw [queue, part_accountShared]
  exact look_map (sharedQueue s p) (by rfl) _

/-! ### Commands that end (R363, R364) -/

theorem queue_modCmd (s : State) (p q : Nat) (seq : W32) (f : Cmd → Cmd) (p' q' : Nat) : queue (modCmd s p q seq f) p' q' =
    if p' = p ∧ q' = q then { queue s p q with cmds := modWhere (fun c => c.seq == seq) f (queue s p q).cmds } else queue s p' q' :=
  queue_modQueue ..

/-- A command as it is done. -/
def ended (s : State) (code : Nat) (c : Cmd) : Cmd :=
  if c.done then c else { c with done := true, code := BitVec.ofNat 8 code, doneAt := s.portTime, energyEnd := s.power.energy }

/-- What a `finishCmd` makes of the commands of the queue. -/
def finished (s : State) (p q : Nat) (seq : W32) (code : Nat) (c : Cmd) : Cmd :=
  if c.seq = seq then ended s code (sharedBy s p q c) else sharedBy s p q c

theorem modWhere_map_sharedBy (s : State) (p q : Nat) (seq : W32) (f : Cmd → Cmd) (l : List Cmd) :
    modWhere (fun c => c.seq == seq) f (l.map (sharedBy s p q)) =
      l.map fun c => if c.seq = seq then f (sharedBy s p q c) else sharedBy s p q c := by
  rw [modWhere, List.map_map]
  refine List.map_congr_left fun c _ => ?_
  obtain ⟨n, shared⟩ := sharedBy_eq s p q c
  simp [shared]

theorem queue_finishCmd (s : State) (p q : Nat) (seq : W32) (code : Nat) : queue (finishCmd s p q seq code) p q =
    { queue s p q with cmds := (queue s p q).cmds.map (finished s p q seq code) } := by
  unfold finishCmd
  dsimp only
  rw [queue_modCmd, if_pos ⟨rfl, rfl⟩, queue_accountShared, sharedQueue]
  dsimp only
  rw [modWhere_map_sharedBy, accountShared_eq]
  rfl

theorem queue_finishCmd_ne (s : State) {p q p' q' : Nat} (seq : W32) (code : Nat) (other : ¬(p' = p ∧ q' = q)) :
    queue (finishCmd s p q seq code) p' q' = sharedQueue s p' q' (queue s p' q') := by
  rw [finishCmd, queue_modCmd, if_neg other, queue_accountShared]

/-- What a `refuseCmd` makes of the commands of the queue. -/
def refused (s : State) (p q : Nat) (seq : W32) (code : Nat) (c : Cmd) : Cmd :=
  finished s p q seq code (if c.seq = seq then { c with acceptTime := s.portTime, energyAt := s.power.energy } else c)

theorem queue_refuseCmd (s : State) (p q : Nat) (seq : W32) (code : Nat) : queue (refuseCmd s p q seq code) p q =
    { queue s p q with cmds := (queue s p q).cmds.map (refused s p q seq code) } := by
  rw [refuseCmd, queue_finishCmd, queue_modCmd, if_pos ⟨rfl, rfl⟩]
  dsimp only
  rw [modWhere, List.map_map]
  congr 1
  refine List.map_congr_left fun c _ => ?_
  rw [Function.comp_apply, refused]
  by_cases here : c.seq = seq <;> simp [here] <;> rfl

/-- What a refusal leaves of a command: the one that is refused is done with the code, whatever else stays but the accounts. -/
theorem refused_spec (s : State) (p q : Nat) (seq : W32) (code : Nat) (c : Cmd) :
    (refused s p q seq code c).seq = c.seq ∧ (refused s p q seq code c).words = c.words ∧
      (refused s p q seq code c).accepted = c.accepted ∧ (c.seq ≠ seq → (refused s p q seq code c).done = c.done) ∧
      (c.seq = seq → c.done = false → (refused s p q seq code c).done = true ∧ (refused s p q seq code c).code = BitVec.ofNat 8 code) := by
  unfold refused finished
  by_cases here : c.seq = seq
  · obtain ⟨n, shared⟩ := sharedBy_eq s p q { c with acceptTime := s.portTime, energyAt := s.power.energy }
    rw [if_pos here, if_pos here, shared, ended]
    cases done : c.done <;> simp [here]
  · obtain ⟨n, shared⟩ := sharedBy_eq s p q c
    simp [here, shared]

theorem findCmd_refuseCmd {s : State} {p q : Nat} {seq : W32} {c : Cmd} (here : findCmd (queue s p q) seq = some c) (code : Nat) :
    findCmd (queue (refuseCmd s p q seq code) p q) seq = some (refused s p q seq code c) := by
  rw [queue_refuseCmd, findCmd_map fun c => (refused_spec s p q seq code c).1, here]
  rfl

/-! ### Checks and acceptance (R367, R371) -/

theorem storedOk_lt (s : State) (p : Nat) (c : Cmd) : storedOk s p c < 256 := by
  unfold storedOk
  split
  · dsimp only
    split_ifs <;> decide
  · dsimp only
    split
    · decide
    · split_ifs <;> decide
  · decide

theorem checkCmd_lt (s : State) (p q : Nat) (c : Cmd) : checkCmd s p q c < 256 := by
  unfold checkCmd
  dsimp only
  split_ifs
  iterate 9 decide
  exact storedOk_lt s p c

section
variable {s : State} {p q : Nat} {seq : W32} {c : Cmd}

/-- A command that the front end may accept as the next of its queue (R371). -/
structure MayBeAccepted (s : State) (p q : Nat) (seq : W32) (op : Nat) (mine : Cmd → Bool) (c : Cmd) : Prop where
  unit : (partOk p && slotOk q) = true
  here : findCmd (queue s p q) seq = some c
  opcode : cOp c = op
  row : mine c = true
  unfinished : c.done = false
  fresh : c.accepted = false
  idle : isTesting s p q c = false
  next : mayAccept s p q c = true

theorem runCmd_refuses {op : Nat} {mine : Cmd → Bool} (may : MayBeAccepted s p q seq op mine c) (bad : checkCmd s p q c ≠ 0)
    (extra : State → Cmd → Nat) (effect : State → Cmd → State) :
    runCmd s p q seq op mine extra effect = refuseCmd s p q seq (checkCmd s p q c) := by
  obtain ⟨-, here, opcode, row, unfinished, fresh, idle, next⟩ := may
  simp [runCmd, here, opcode, row, unfinished, fresh, idle, next, bad]

/-- Every row but LAUNCH runs its command by `runCmd`. -/
theorem exec_commandRow {r : (Nat → Nat → W32 → Instr) × Nat × (Cmd → Bool)} (hr : r ∈ commandRows) (p q : Nat) (seq : W32) :
    ∃ extra effect, ∀ s, exec (r.1 p q seq) s = onUnit (partOk p && slotOk q) (runCmd s p q seq r.2.1 r.2.2 extra effect) := by
  unfold commandRows at hr
  fin_cases hr <;>
    exact ⟨_, _, fun _ => rfl⟩

/-- A LAUNCH that is the next of its queue to be accepted. -/
theorem exec_launch (unit : (partOk p && slotOk q) = true) (here : findCmd (queue s p q) seq = some c) (op : cOp c = 0x01)
    (unfinished : c.done = false) (fresh : c.accepted = false) (next : mayAccept s p q c = true) : exec (.launch p q seq) s = .next
      (if checkCmd s p q c ≠ 0 then refuseCmd s p q seq (checkCmd s p q c)
       else if placeable s p (((graphOf s p (cw c 1 31 0)).bind fun g => descrOf s p (cw c 1 31 0) g.current).getD []) = false
         then refuseCmd s p q seq 0x5C
       else acceptLaunch (acceptCmd s p q seq) p q ((findCmd (queue (acceptCmd s p q seq) p q) seq).getD c)) := by
  refine (onUnit_next ..).2 ⟨unit, ?_⟩
  simp [here, op, unfinished, fresh, next]

theorem exec_refuses {r : (Nat → Nat → W32 → Instr) × Nat × (Cmd → Bool)} (hr : r ∈ (Instr.launch, 0x01, fun (_ : Cmd) => true) :: commandRows)
    (may : MayBeAccepted s p q seq r.2.1 r.2.2 c) (bad : checkCmd s p q c ≠ 0) :
    exec (r.1 p q seq) s = .next (refuseCmd s p q seq (checkCmd s p q c)) := by
  rcases List.mem_cons.1 hr with rfl | hr
  · obtain ⟨unit, here, opcode, -, unfinished, fresh, -, next⟩ := may
    rw [exec_launch unit here opcode unfinished fresh next, if_pos bad]
  · obtain ⟨extra, effect, runs⟩ := exec_commandRow hr p q seq
    rw [runs, runCmd_refuses may bad, onUnit, if_pos may.unit]

end

/-! ### QCMP (R363) -/

theorem qcmpSeq_qcmpAdvance (old : W64) (seq : W32) (code : Byte) (marks gen : Nat) : qcmpSeq (qcmpAdvance old seq code marks gen) = seq.toNat := by
  have hs := seq.isLt
  rw [qcmpSeq, qcmpAdvance, BitVec.toNat_ofNat]
  simp only [fld]
  omega

theorem qcmpCode_qcmpAdvance (old : W64) (seq : W32) (code : Byte) (marks gen : Nat) :
    qcmpCode (qcmpAdvance old seq code marks gen) = if code = 0 then qcmpCode old else code.toNat := by
  have hs := seq.isLt
  have hc : (if code = 0 then qcmpCode old else code.toNat) < 256 := by
    split
    · exact Nat.mod_lt _ (by decide)
    · exact code.isLt
  rw [qcmpCode, qcmpAdvance, BitVec.toNat_ofNat]
  generalize (if code = 0 then qcmpCode old else code.toNat) = n at hc ⊢
  have hm := (BitVec.ofNat 4 (qcmpSticky old) ||| BitVec.ofNat 4 marks).isLt
  simp only [fld]
  omega

/-! ### The oldest command leaves (R363, R364) -/

theorem queue_writeRecord (s : State) (p q : Nat) (c : Cmd) (p' q' : Nat) : queue (writeRecord s p q c) p' q' = queue s p' q' := by
  unfold writeRecord
  dsimp only
  split
  · rfl
  · exact queue_agentWrite ..

/-- The oldest command, done with a code, leaves its queue. -/
theorem exec_commandComplete_failed {u : State} {p q : Nat} {d : Cmd} {rest : List Cmd} (unit : (partOk p && slotOk q) = true)
    (cmds : (queue u p q).cmds = d :: rest) (done : d.done = true) (failed : d.code ≠ 0) (calm : u.restart.active = false) :
    ∃ gen, exec (.commandComplete p q d.seq) u = .next (setQueue (writeRecord u p q d) p q { queue u p q with
      qcmp := qcmpAdvance (queue u p q).qcmp d.seq d.code (cmdMarks d (queue u p q).revokeMark) gen, revokeMark := false,
      lastSeq := d.seq, cmds := rest }) := by
  refine ⟨(writeRecord u p q d).dev.gen.toNat, (onUnit_next ..).2 ⟨unit, ?_⟩⟩
  dsimp only
  rw [cmds]
  dsimp only
  rw [if_neg (by simp [done, calm]), if_neg (by simpa using fun _ _ => failed), modQueue, queue_writeRecord]

/-- Settles O29: a refusal changes the queue at its command alone, and QCMP takes the code of a failed command. -/
theorem refusedCommandCounts : Obligations.RefusedCommandCounts := by
  unfold Obligations.RefusedCommandCounts
  intro r hr s p q seq c code unit here opcode row unfinished fresh idle next hcode bad
  have may : MayBeAccepted s p q seq r.2.1 r.2.2 c := ⟨unit, here, opcode, row, unfinished, fresh, idle, next⟩
  have small : code < 256 := hcode ▸ checkCmd_lt s p q c
  subst hcode
  obtain ⟨-, words, accepted, -, done⟩ := refused_spec s p q seq (checkCmd s p q c) c
  obtain ⟨done, coded⟩ := done (seq_of_findCmd here) unfinished
  refine ⟨_, exec_refuses hr may bad, ⟨_, findCmd_refuseCmd here _, done, ?_, accepted.trans fresh, words⟩, ?_, ?_, fun e he other => ?_,
    fun u v d rest cmds ended hd hcode calm ran => ?_⟩
  · rw [coded, BitVec.toNat_ofNat, Nat.mod_eq_of_lt small]
  · rw [queue_refuseCmd]
  · rw [queue_refuseCmd, List.map_map]
    exact List.map_congr_left fun e _ => (refused_spec s p q seq _ e).1
  · obtain ⟨same, -, acc, left, -⟩ := refused_spec s p q seq (checkCmd s p q c) e
    refine ⟨refused s p q seq (checkCmd s p q c) e, ?_, same, left other, acc⟩
    rw [queue_refuseCmd]
    exact List.mem_map_of_mem he
  · have failed : d.code ≠ 0 := fun h => bad (by rw [← hcode, h]; rfl)
    obtain ⟨gen, complete⟩ := exec_commandComplete_failed unit cmds ended failed calm
    subst hd
    rw [complete] at ran
    cases ran
    rw [queue_setQueue_same, qcmpSeq_qcmpAdvance, qcmpCode_qcmpAdvance, if_neg failed]
    exact ⟨rfl, rfl, rfl, rfl, hcode⟩

/-! ### A kernel queue that is being destroyed (R365, R389) -/

/-- A DESTROY_QUEUE that is done, names slot 0, and asks for a completion record. -/
def destroyOwn : Cmd := { seq := 0, words := [0x4083], done := true }

/-- The kernel queue of PT1 is being destroyed itself, with that command as its oldest; it has a completion area. -/
def selfDestroying : State :=
  setQueue State.reset 1 0 { declared := true, bound := true, destroying := true, cmplBase := 64, cmds := [destroyOwn] }

/-- The end of the destroy takes the completion area from the queue first, so that nothing is sent. -/
theorem selfDestroying_silent {t : State} (ran : exec (.commandComplete 1 0 0) selfDestroying = .next t) : t.out = [] := by
  change execCommandComplete 1 0 0 selfDestroying = .next t at ran
  rw [execCommandComplete, onUnit_next] at ran
  rw [← ran.2]
  rfl

/-- Refutes O28: with a DESTROY_QUEUE that names its own slot 0, which is being destroyed, the slot is unbound before the record would be
written, and the record is lost although the queue had a completion area. -/
theorem not_commandsCheckedAndCompleted : ¬ Obligations.CommandsCheckedAndCompleted := by
  unfold Obligations.CommandsCheckedAndCompleted
  rintro ⟨-, complete⟩
  obtain ⟨-, -, leaves⟩ := complete selfDestroying 1 0 destroyOwn [] rfl rfl
  obtain ⟨t, ran, -, -, record⟩ := leaves rfl rfl
  have sent := record (by decide) (by decide)
  rw [selfDestroying_silent ran] at sent
  exact List.not_mem_nil sent

end Sys2Proof.Machine

/-! SUPPORT. What the acceptance of a command leaves, and how a LAUNCH that passes becomes a launch (R371, R383, R416). It settles O30. -/

namespace Sys2Proof.Machine

section
variable {s : State} {p q : Nat} {seq : W32} {c : Cmd}

/-! ### Acceptance (R371) -/

/-- A command as it is accepted. -/
def taken (s : State) (p q : Nat) (c : Cmd) : Cmd :=
  { sharedBy s p q c with accepted := true, order := (part s p).order, acceptTime := s.portTime, energyAt := s.power.energy }

theorem taken_eq (s : State) (p q : Nat) (c : Cmd) : ∃ n, taken s p q c =
    { c with accepted := true, order := (part s p).order, acceptTime := s.portTime, energyAt := s.power.energy, shared := n } := by
  obtain ⟨n, shared⟩ := sharedBy_eq s p q c
  exact ⟨n, by rw [taken, shared]⟩

theorem acceptCmd_eq (s : State) (p q : Nat) (seq : W32) : acceptCmd s p q seq =
    { s with shareAt := s.portTime, parts := (acceptCmd s p q seq).parts } := by
  unfold acceptCmd
  rw [accountShared_eq]
  rfl

theorem queue_acceptCmd (s : State) (p q : Nat) (seq : W32) : queue (acceptCmd s p q seq) p q = { queue s p q with
    cmds := (queue s p q).cmds.map fun c => if c.seq = seq then taken s p q c else sharedBy s p q c } := by
  have order : (part (accountShared s) p).order = (part s p).order := by rw [part_accountShared]; rfl
  have counted : queue (modPart (accountShared s) p fun r => { r with order := (part (accountShared s) p).order + 1 }) p q =
      sharedQueue s p q (queue s p q) := (queue_setPart _ p q (by rfl)).trans (queue_accountShared s p q)
  unfold acceptCmd
  dsimp only
  rw [queue_modCmd, if_pos ⟨rfl, rfl⟩, counted, sharedQueue]
  dsimp only
  rw [modWhere_map_sharedBy, order, accountShared_eq]
  rfl

theorem findCmd_acceptCmd (here : findCmd (queue s p q) seq = some c) :
    findCmd (queue (acceptCmd s p q seq) p q) seq = some (taken s p q c) := by
  rw [queue_acceptCmd, findCmd_map, here]
  · exact congrArg some (if_pos (seq_of_findCmd here))
  · intro e
    obtain ⟨n, shared⟩ := sharedBy_eq s p q e
    obtain ⟨m, accepted⟩ := taken_eq s p q e
    rw [shared, accepted]
    split <;> rfl

theorem order_acceptCmd (s : State) (p q : Nat) (seq : W32) : (part (acceptCmd s p q seq) p).order = (part s p).order + 1 := by
  unfold acceptCmd modCmd modQueue setQueue modPart
  dsimp only
  rw [part_setPart, if_pos rfl, part_setPart, if_pos rfl, part_accountShared]
  rfl

/-- A change of commands leaves the graphs. -/
theorem graphOf_modCmd (s : State) (p' q : Nat) (seq : W32) (f : Cmd → Cmd) (p h : Nat) : graphOf (modCmd s p' q seq f) p h = graphOf s p h := by
  unfold graphOf modCmd modQueue setQueue modPart
  rw [part_setPart]
  split
  next same => rw [same]
  next => rfl

theorem graphOf_acceptCmd (s : State) (p q : Nat) (seq : W32) (h : Nat) : graphOf (acceptCmd s p q seq) p h = graphOf s p h := by
  refine (graphOf_modCmd ..).trans ?_
  unfold graphOf modPart
  rw [part_setPart, if_pos rfl, part_accountShared]
  rfl

theorem acceptCmd_rest (s : State) (p q : Nat) (seq : W32) : (acceptCmd s p q seq).launches = s.launches ∧
    (acceptCmd s p q seq).nextLaunch = s.nextLaunch ∧ (acceptCmd s p q seq).tasks = s.tasks ∧ (acceptCmd s p q seq).mem = s.mem := by
  rw [acceptCmd_eq]
  exact ⟨rfl, rfl, rfl, rfl⟩

theorem findCmd_modCmd {f : Cmd → Cmd} (keep : ∀ c, (f c).seq = c.seq) (here : findCmd (queue s p q) seq = some c) :
    findCmd (queue (modCmd s p q seq f) p q) seq = some (f c) := by
  rw [queue_modCmd, if_pos ⟨rfl, rfl⟩]
  have found := find?_modWhere (p := fun c : Cmd => c.seq == seq) (f := f) (fun e he => by rw [keep]; exact he) (queue s p q).cmds
  exact found.trans (congrArg (Option.map f) here :)

theorem order_modCmd (s : State) (p q : Nat) (seq : W32) (f : Cmd → Cmd) : (part (modCmd s p q seq f) p).order = (part s p).order := by
  unfold modCmd modQueue setQueue modPart
  rw [part_setPart, if_pos rfl]

theorem cw_lt (c : Cmd) (i hi lo : Nat) : cw c i hi lo < 2 ^ (hi - lo + 1) := Nat.mod_lt _ (by positivity)

theorem cArgs_of_words {d : Cmd} (words : d.words = c.words) (n : Nat) : cArgs d n = cArgs c n := by rw [cArgs, words, cArgs]

/-! ### LAUNCH (R383, R416) -/

/-- The launch that an accepted LAUNCH becomes. -/
def newLaunch (s : State) (p q : Nat) (c : Cmd) (g : Graph) : Launch :=
  { id := s.nextLaunch, part := p, q, seq := c.seq, order := c.order, handle := cw c 1 31 0, version := g.current, ctx := g.ctx,
    step := BitVec.ofNat 32 (cw c 1 63 32), ls := cw c 2 18 16, args := cArgs c (cw c 2 9 0), acceptTime := (die s 8).time,
    area := launchArea s p (cw c 1 31 0) g.current }

/-- What an accepted LAUNCH adds: its launch, and the version that its command captures. -/
theorem acceptLaunch_spec {g : Graph} (named : graphOf s p (cw c 1 31 0) = some g) {t : State} (done : t = acceptLaunch s p q c) :
    t.launches = s.launches ++ [newLaunch s p q c g] ∧ t.nextLaunch = s.nextLaunch + 1 ∧ t.tasks = s.tasks ∧ t.mem = s.mem ∧
      t.parts = (modCmd s p q c.seq fun x => { x with version := g.current }).parts := by
  subst done
  unfold acceptLaunch
  dsimp only
  rw [named]
  exact ⟨rfl, rfl, rfl, rfl, rfl⟩

/-- Settles O30: the front end accepts a LAUNCH that passes, and its launch has what the command names; accounts and graphs stay. -/
theorem launchAccepted : Obligations.LaunchAccepted := by
  unfold Obligations.LaunchAccepted
  intro s p q seq c x unit here opcode unfinished fresh next
  have run := exec_launch unit here opcode unfinished fresh next
  refine ⟨fun bad => by rw [run, if_pos bad], fun fine named => ?_⟩
  rw [run, if_neg (not_not.2 fine), named, Option.bind_some]
  refine ⟨fun no => by rw [if_pos no], fun yes => ?_⟩
  rw [if_neg (by simp [yes]), findCmd_acceptCmd here, Option.getD_some]
  obtain ⟨n, accepted⟩ := taken_eq s p q c
  have words : (taken s p q c).words = c.words := by rw [accepted]
  have field : ∀ i hi lo, cw (taken s p q c) i hi lo = cw c i hi lo := fun i hi lo => by rw [cw, words, cw]
  have number : (taken s p q c).seq = seq := by
    have own := seq_of_findCmd here
    rw [accepted]
    exact own
  have graph : graphOf (acceptCmd s p q seq) p (cw (taken s p q c) 1 31 0) = some x := by rw [graphOf_acceptCmd, field, named]
  obtain ⟨launches, nextLaunch, tasks, mem⟩ := acceptCmd_rest s p q seq
  obtain ⟨added, counted, tasks', mem', parts⟩ := acceptLaunch_spec (q := q) graph rfl
  rw [number] at parts
  rw [launches] at added
  rw [nextLaunch] at counted
  refine ⟨_, newLaunch (acceptCmd s p q seq) p q (taken s p q c) x, { taken s p q c with version := x.current }, rfl, added, counted,
    tasks'.trans tasks, mem'.trans mem, nextLaunch, rfl, rfl, number, congrArg Cmd.order accepted, field .., rfl, rfl, ?_, field .., ?_,
    rfl, rfl, ?_, congrArg Cmd.accepted accepted, (congrArg Cmd.done accepted).trans unfinished, rfl, ?_⟩
  · exact (BitVec.toNat_ofNat ..).trans ((Nat.mod_eq_of_lt (cw_lt _ 1 63 32)).trans (field ..))
  · exact (cArgs_of_words words _).trans (congrArg (cArgs c) (field ..))
  · rw [queue_of_parts _ _ _ parts]
    exact findCmd_modCmd (fun _ => rfl) (findCmd_acceptCmd here)
  · rw [part, parts]
    exact (order_modCmd ..).trans (order_acceptCmd ..)

end
end Sys2Proof.Machine

/-! SUPPORT. What the front end's reads of memory leave, and how it takes commands from their rings (R357 to R360, R366). It settles O27. -/

namespace Sys2Proof.Machine

/-! ### Reads of memory by the front end (R274, R339) -/

/-- The device without the counts of spilled lines. -/
def offSpills (s : State) : Dev := { s.dev with cruSpills := [] }

theorem offSpills_spillFor (h need k : Nat) (s : State) : offSpills (spillFor h need k s) = offSpills s := by
  induction k generalizing s with
  | zero => rfl
  | succ k ih =>
    simp only [spillFor]
    split
    · rfl
    · split
      · rfl
      · exact ih _

theorem offSpills_backLine (s : State) (h line : Nat) : offSpills (backLine s h line) = offSpills s := by
  unfold backLine
  split
  · rfl
  · split
    · rfl
    · exact offSpills_spillFor ..

theorem offSpills_of_dev {s t : State} (h : t.dev = s.dev) : offSpills t = offSpills s := by rw [offSpills, h, offSpills]

theorem offSpills_closeOpen (s : State) (h line : Nat) : offSpills (closeOpen s h line) = offSpills s := by
  refine Eq.trans ?_ (offSpills_backLine s h line)
  unfold closeOpen
  dsimp only
  split
  · rfl
  · refine (offSpills_of_dev (homeStore_dev ..)).trans ?_
    split
    · exact offSpills_of_dev (memStoreLine_dev ..)
    · rfl

/-- A read of a line by the front end leaves all but memory, slices and crushers, and the counts of spilled lines. -/
structure Reads (s t : State) : Prop where
  memory : offMemory t = offMemory s
  dev : offSpills t = offSpills s

theorem Reads.rfl {s : State} : Reads s s := ⟨Eq.refl _, Eq.refl _⟩

theorem Reads.trans {s t u : State} (h : Reads s t) (k : Reads t u) : Reads s u := ⟨k.memory.trans h.memory, k.dev.trans h.dev⟩

theorem reads_foldl {β : Type} {f : State → β → State} (h : ∀ s b, Reads s (f s b)) (l : List β) (s : State) : Reads s (l.foldl f s) := by
  induction l generalizing s with
  | nil => exact .rfl
  | cons b l ih => exact (h s b).trans (ih _)

theorem reads_settle (s : State) (line : Nat) : Reads s (settle s line) := by
  unfold settle
  split
  · exact .rfl
  · exact ⟨offMemory_closeOpen .., offSpills_closeOpen ..⟩

theorem reads_touchMemory (s : State) (h line : Nat) : Reads s (touchMemory s h line) := by
  unfold touchMemory
  dsimp only
  split
  · exact .rfl
  · exact ⟨offMemory_activate .., offSpills_of_dev (activate_dev ..)⟩

theorem reads_placeLine (s : State) (i : Nat) (c : CLine) : Reads s ((placeLine s i c).getD s) := by
  cases placed : placeLine s i c with
  | none => exact .rfl
  | some t => exact ⟨offMemory_placeLine placed, offSpills_of_dev (placeLine_dev placed)⟩

theorem reads_agentRead (s : State) (line attr : Nat) (evict : Bool) : Reads s (agentRead s line attr evict) := by
  unfold agentRead
  split
  · exact .rfl
  · exact .rfl
  next h _ _ =>
    have touched := (reads_settle s line).trans (reads_touchMemory (settle s line) h line)
    dsimp only
    split
    · exact touched
    · split
      · exact touched.trans (reads_placeLine ..)
      · exact touched

theorem reads_agentReads (s : State) (pa n attr : Nat) (evict : Bool) : Reads s (agentReads s pa n attr evict) := by
  unfold agentReads
  split
  · exact .rfl
  · exact reads_foldl (fun t i => reads_agentRead ..) _ _

theorem Reads.queue {s t : State} (h : Reads s t) (p q : Nat) : queue t p q = queue s p q := queue_of_offMemory h.memory p q

theorem Reads.rowless {s t : State} (h : Reads s t) (c : Cmd) : rowless t c = rowless s c := by
  have recov : t.dev.recov = s.dev.recov := (congrArg Dev.recov h.dev : (offSpills t).recov = (offSpills s).recov)
  rw [Machine.rowless, opDefined, recov, Machine.rowless, opDefined]

/-! ### Stopped queues and doorbells (R358) -/

theorem queue_stopQueue (s : State) (p q cause : Nat) (seq : W32) (index : Nat) : queue (stopQueue s p q cause seq index) p q =
    { queue s p q with stopped := true, errCause := BitVec.ofNat 8 cause, errSeq := seq, errIndex := BitVec.ofNat 16 index } := by
  rw [stopQueue, queue_postEvent, queue_modQueue, if_pos ⟨rfl, rfl⟩]

section
variable {s : State} {p q : Nat} (unit : (partOk p && slotOk q) = true)
include unit

theorem exec_doorbell (v : W64) : exec (.doorbell p q v) s = .next
    (if ((partCfg s p).isDefined && (queue s p q).declared && (queue s p q).bound && !(queue s p q).devenq) = true then
      if ringSize (queue s p q) < (v.setWidth 32 - (queue s p q).head).toNat then stopQueue s p q 2 0 0
      else setQueue s p q { queue s p q with tail := v.setWidth 32 }
     else s) := by
  refine (onUnit_next ..).2 ⟨unit, ?_⟩
  unfold ringTail
  dsimp only
  split
  next undefined => rw [if_neg (by simp_all)]
  next defined' =>
    split
    next off => exact (if_neg (by simp_all [imp_iff_not_or, or_assoc])).symm
    next on => exact (if_pos (by simp_all)).symm

/-! ### COMMAND_FETCH (R359, R360, R366) -/

/-- The command `c` of `n` records has been taken from the ring. -/
def fetchedCmd (s : State) (p q n : Nat) (c : Cmd) : State :=
  setQueue ((List.range n).foldl (fun r i => agentReads r (recordAddr (queue s p q) ((queue s p q).head + BitVec.ofNat 32 i)) 64 0 true) s) p q
    { queue s p q with head := (queue s p q).head + BitVec.ofNat 32 n, expect := some (c.seq + 1), cmds := (queue s p q).cmds ++ [c] }

theorem exec_commandFetch_idle (idle : mayFetch s p (queue s p q) = false ∨ (queue s p q).tail = (queue s p q).head) :
    exec (.commandFetch p q) s = .next s := by
  refine (onUnit_next ..).2 ⟨unit, ?_⟩
  refine if_pos ?_
  rcases idle with off | empty
  · simp [off]
  · simp [empty]

omit unit in
theorem fetch_due (may : mayFetch s p (queue s p q) = true) (waits : (queue s p q).tail ≠ (queue s p q).head) :
    ¬(!mayFetch s p (queue s p q) || decide (((queue s p q).tail - (queue s p q).head).toNat = 0)) = true := by
  have ahead : (queue s p q).tail - (queue s p q).head ≠ 0 := fun h => waits (by simpa using BitVec.sub_eq_iff_eq_add.1 h)
  simp only [may, Bool.not_true, Bool.false_or, decide_eq_true_eq]
  exact fun h => ahead (BitVec.eq_of_toNat_eq h)

section
variable (may : mayFetch s p (queue s p q) = true) (waits : (queue s p q).tail ≠ (queue s p q).head)
include may waits

theorem exec_commandFetch_unreadable (unreadable : readRecord s p (recordAddr (queue s p q) (queue s p q).head) = none) :
    exec (.commandFetch p q) s = .next (stopQueue s p q 3 0 ((queue s p q).head.toNat % ringSize (queue s p q))) := by
  refine (onUnit_next ..).2 ⟨unit, ?_⟩
  unfold fetchCmd
  dsimp only
  rw [if_neg (fetch_due may waits), unreadable]

/-- The first record of a command as it lies in the ring. -/
def firstRecord (w : List W64) : Cmd := { seq := BitVec.ofNat 32 ((w.getD 0 0).toNat >>> 32), words := w }

section
variable {w ws : List W64} (first : readRecord s p (recordAddr (queue s p q) (queue s p q).head) = some w)
  (below : cRecords (firstRecord w) ≤ ((queue s p q).tail - (queue s p q).head).toNat)
  (all : readRecords s p (queue s p q) (cRecords (firstRecord w)) (queue s p q).head = some ws)
include first below all

theorem exec_commandFetch_unexpected (other : ∃ e, (queue s p q).expect = some e ∧ e ≠ (firstRecord w).seq) : exec (.commandFetch p q) s =
    .next (stopQueue s p q 1 (firstRecord w).seq ((queue s p q).head.toNat % ringSize (queue s p q))) := by
  obtain ⟨e, expects, other⟩ := other
  refine (onUnit_next ..).2 ⟨unit, ?_⟩
  unfold fetchCmd
  dsimp only
  rw [if_neg (fetch_due may waits), first]
  change (if _ < cRecords (firstRecord w) then s else match readRecords s p (queue s p q) (cRecords (firstRecord w)) _ with
    | none => _
    | some ws => _) = _
  rw [if_neg (by omega), all]
  exact if_pos (by rw [expects]; exact bne_iff_ne.2 other)

theorem exec_commandFetch_taken (expected : ∀ e ∈ (queue s p q).expect, e = (firstRecord w).seq) {c : Cmd}
    (cmd : c = { firstRecord w with words := ws }) {t : State} (done : t = fetchedCmd s p q (cRecords c) c) : exec (.commandFetch p q) s =
      .next (if rowless s c then refuseCmd t p q c.seq (checkCmd t p q c) else t) := by
  subst cmd done
  refine (onUnit_next ..).2 ⟨unit, ?_⟩
  unfold fetchCmd
  dsimp only
  rw [if_neg (fetch_due may waits), first]
  change (if _ < cRecords (firstRecord w) then s else match readRecords s p (queue s p q) (cRecords (firstRecord w)) _ with
    | none => _
    | some ws => _) = _
  rw [if_neg (by omega), all]
  have same : ¬(queue s p q).expect.any (· != (firstRecord w).seq) = true := by
    cases expects : (queue s p q).expect with
    | none => simp
    | some e => simpa using expected e (by rw [expects]; rfl)
  have read : ∀ n, Reads s ((List.range n).foldl (fun r i =>
      agentReads r (recordAddr (queue s p q) ((queue s p q).head + BitVec.ofNat 32 i)) 64 0 true) s) := fun n =>
    reads_foldl (fun r i => reads_agentReads ..) _ _
  refine (if_neg same).trans ?_
  rw [modQueue, (read _).queue, ← (read (cRecords { firstRecord w with words := ws })).rowless]
  rfl

end

end

end

/-- Settles O27: a doorbell sets the tail or stops the queue; a fetch stops it, or takes the command and leaves what its reads leave. -/
theorem queuesFetch : Obligations.QueuesFetch := by
  unfold Obligations.QueuesFetch
  refine ⟨fun s p q v x unit hx => ?_, fun s p q x unit hx => ⟨fun off => ?_, fun may empty => ?_, fun may waits => ⟨fun unreadable => ?_,
    fun w ws f c first hf hc below all => ⟨fun other => ?_, fun expected r t hr ht => ?_⟩⟩⟩⟩
  · subst hx
    dsimp only
    rw [exec_doorbell unit]
    refine ⟨fun can fits => ?_, fun can beyond => ⟨_, ?_, queue_stopQueue ..⟩, fun cannot => ?_⟩
    · rw [if_pos can, if_neg (by omega)]
    · rw [if_pos can, if_pos beyond]
    · rw [if_neg (by simp [cannot])]
  · subst hx
    exact exec_commandFetch_idle unit (.inl off)
  · subst hx
    exact exec_commandFetch_idle unit (.inr empty)
  · subst hx
    exact ⟨_, exec_commandFetch_unreadable unit may waits unreadable, queue_stopQueue ..⟩
  · subst hx hf
    exact ⟨_, exec_commandFetch_unexpected unit may waits first below all other, queue_stopQueue ..⟩
  · subst hx hf hc hr
    exact exec_commandFetch_taken unit may waits first below all expected rfl ht

end Sys2Proof.Machine

/-! SUPPORT. The journal of the flash, the keys of a die and the quote (R505 to R512, R530). It settles O60. -/

namespace Sys2Proof.Machine

/-! ### The journal's sectors (R505 to R507) -/

theorem self_mem_upsert {α : Type} (p : α → Bool) (a : α) (l : List α) : a ∈ upsert p a l := by
  induction l with
  | nil => exact List.mem_singleton_self a
  | cons b l ih =>
    unfold upsert
    split
    · exact List.mem_cons_self
    · exact List.mem_cons_of_mem _ ih

/-- A flash without its record of what each sector holds. -/
def offSectors (f : Flash) : Flash := { f with sectors := [], erases := [] }

theorem offSectors_appendKey (f : Flash) (k : Nat × List Nat) : offSectors (appendKey f k) = offSectors f := by
  unfold appendKey
  dsimp only
  split
  · split
    · rfl
    · split <;> rfl
  · split <;> rfl

theorem offSectors_appendKeys (ks : List (Nat × List Nat)) (f : Flash) : offSectors (ks.foldl appendKey f) = offSectors f := by
  induction ks generalizing f with
  | nil => rfl
  | cons k ks ih => exact (ih _).trans (offSectors_appendKey f k)

theorem offSectors_compact (f : Flash) : offSectors (compact f) = offSectors f := by
  unfold compact
  split
  · exact offSectors_appendKeys _ f
  · rfl

theorem offSectors_programRecord (f : Flash) (r : JRec) : offSectors (programRecord f r) =
    offSectors { f with journal := upsert (fun x => recKey x == recKey r) r f.journal } := by
  unfold programRecord
  dsimp only
  split
  · exact (offSectors_compact _).trans (offSectors_appendKey ..)
  · exact offSectors_appendKey ..

theorem programRecord_journal (f : Flash) (r : JRec) :
    (programRecord f r).journal = upsert (fun x => recKey x == recKey r) r f.journal :=
  congrArg Flash.journal (offSectors_programRecord f r)

theorem programRecord_waiting (f : Flash) (r : JRec) : (programRecord f r).waiting = f.waiting :=
  have parts := congrArg Flash.waiting (offSectors_programRecord f r)
  parts

theorem programRecord_bytes (f : Flash) (r : JRec) : (programRecord f r).bytes = f.bytes :=
  have parts := congrArg Flash.bytes (offSectors_programRecord f r)
  parts

/-! ### Keys, journal and quote -/

section
variable {s : State}

theorem exec_keyLoad {d : Nat} (there : d < dieCount s.variant) (unit : dieOk d = true) (on : s.power.stage = .cold ∨ s.power.stage = .running)
    (ok : Bool) : exec (.keyLoad d ok) s = .next (if (die s d).state = .heldOut then s
      else emit (modDie s d fun u => { u with keyed := ok }) (.ack (.key d) (if ok then 0 else 0xF))) := by
  refine (onUnit_next ..).2 ⟨unit, ?_⟩
  have present : ¬ dieCount s.variant ≤ d := by omega
  rcases on with stage | stage <;> simp [present, stage]

theorem exec_journalProgram {r : JRec} {rs : List JRec} (oldest : s.flash.waiting = r :: rs) : exec .journalProgram s = .next
    (if s.flash.suspended = true then s else { s with flash := programRecord { s.flash with waiting := rs } r }) := by
  refine (onUnit_next ..).2 ⟨rfl, ?_⟩
  rw [oldest]
  rfl

theorem exec_errorSnapshot (on : alive s = true) (calm : s.restart.active = false) (room : s.flash.waiting.length < 1024) :
    exec .errorSnapshot s = .next { s with flash := { s.flash with waiting := s.flash.waiting ++ [snapshotRecord s] } } := by
  refine (onUnit_next ..).2 ⟨rfl, ?_⟩
  rw [on, calm, addJournal, if_pos room]
  rfl

theorem exec_quoteComplete (on : alive s = true) (busy : s.sec.busy = true) (calm : s.restart.active = false) :
    exec .quoteComplete s = .next { s with sec := { s.sec with
      quote := quoteBody s ++ slice (Config.identitySign s.serial (quoteBody s)) 0 512, done := true, busy := false,
      count := s.sec.count + 1 } } := by
  refine (onUnit_next ..).2 ⟨rfl, ?_⟩
  rw [on, busy, calm]
  rfl

end

/-- Settles O60: each command is its own update; programming a record changes the journal and the sectors alone. -/
theorem keysJournalQuote : Obligations.KeysJournalQuote := by
  unfold Obligations.KeysJournalQuote
  refine ⟨fun s d ok there unit on => ⟨fun held => ?_, fun held => ?_⟩, fun s r rs oldest => ⟨fun held => ?_, fun free => ?_⟩,
    fun s on calm room => exec_errorSnapshot on calm room, fun s on busy calm => ?_⟩
  · rw [exec_keyLoad there unit on, if_neg held]
  · rw [exec_keyLoad there unit on, if_pos held]
  · rw [exec_journalProgram oldest, if_pos held]
  · refine ⟨_, (exec_journalProgram oldest).trans (by rw [if_neg (by simp [free])]), programRecord_waiting .., ?_, programRecord_bytes ..⟩
    exact programRecord_journal { s.flash with waiting := rs } r ▸ self_mem_upsert ..
  · exact ⟨_, exec_quoteComplete on busy calm, rfl, rfl, rfl, List.take_left, rfl, rfl⟩

end Sys2Proof.Machine

/-! SUPPORT. What accounting withheld issue and posting its events leave of the dies, and the limits of f, of supply and of temperature
(R451 to R475). It settles O57. -/

namespace Sys2Proof.Machine

/-! ### Accounting of withheld issue (R465) -/

theorem die_eq_of_dies {s t : State} (h : t.dies = s.dies) (d : Nat) : die t d = die s d := congrArg (fun m => look ({} : Die) m d) h

theorem power_of_offEvents {s t : State} (h : offEvents t = offEvents s) : t.power = s.power :=
  (congrArg State.power h : (offEvents t).power = (offEvents s).power)

/-- The state without its dies and without what posting an event changes. -/
def offDies (s : State) : State := { offEvents s with dies := [] }

/-- A die without the account of its limiting. -/
def offAccount (u : Die) : Die := { u with fSince := 0, fLow := 0, episodes := 0, fOver := [] }

/-- `t` is `s` after accounts of limiting and events of power: all else of the state and of each die stays. -/
structure Accounted (s t : State) : Prop where
  rest : offDies t = offDies s
  die : ∀ d, offAccount (die t d) = offAccount (die s d)

theorem Accounted.trans {s t u : State} (h : Accounted s t) (k : Accounted t u) : Accounted s u :=
  ⟨k.rest.trans h.rest, fun d => (k.die d).trans (h.die d)⟩

theorem accounted_of_offEvents {s t : State} (h : offEvents t = offEvents s) : Accounted s t :=
  ⟨by rw [offDies, h, offDies], fun d => by rw [die_eq_of_dies (dies_of_offEvents h)]⟩

theorem Accounted.rfl {s : State} : Accounted s s := accounted_of_offEvents (Eq.refl _)

theorem accounted_setDie {s : State} {d : Nat} {u : Die} (h : offAccount u = offAccount (Machine.die s d)) : Accounted s (setDie s d u) :=
  ⟨Eq.refl _, fun e => by rw [die_setDie]; split; next same => rw [h, same]
                          next => exact Eq.refl _⟩

theorem accounted_foldl {β : Type} {f : State → β → State} (h : ∀ s b, Accounted s (f s b)) (l : List β) (s : State) :
    Accounted s (l.foldl f s) := by
  induction l generalizing s with
  | nil => exact .rfl
  | cons b l ih => exact (h s b).trans (ih _)

namespace Accounted
variable {s t : State} (h : Accounted s t) (d : Nat)
include h

theorem power : t.power = s.power := (congrArg State.power h.rest : (offDies t).power = (offDies s).power)
theorem flash : t.flash = s.flash := (congrArg State.flash h.rest : (offDies t).flash = (offDies s).flash)
theorem image : t.image = s.image := (congrArg State.image h.rest : (offDies t).image = (offDies s).image)
theorem mem : t.mem = s.mem := (congrArg State.mem h.rest : (offDies t).mem = (offDies s).mem)
theorem clusters : t.clusters = s.clusters := (congrArg State.clusters h.rest : (offDies t).clusters = (offDies s).clusters)

theorem fLoop : (Machine.die t d).fLoop = (Machine.die s d).fLoop :=
  (congrArg Die.fLoop (h.die d) : (offAccount (Machine.die t d)).fLoop = (offAccount (Machine.die s d)).fLoop)

theorem fTherm : (Machine.die t d).fTherm = (Machine.die s d).fTherm :=
  (congrArg Die.fTherm (h.die d) : (offAccount (Machine.die t d)).fTherm = (offAccount (Machine.die s d)).fTherm)

theorem thermLimiting : (Machine.die t d).thermLimiting = (Machine.die s d).thermLimiting :=
  (congrArg Die.thermLimiting (h.die d) : (offAccount (Machine.die t d)).thermLimiting = (offAccount (Machine.die s d)).thermLimiting)

theorem temps : (Machine.die t d).temps = (Machine.die s d).temps :=
  (congrArg Die.temps (h.die d) : (offAccount (Machine.die t d)).temps = (offAccount (Machine.die s d)).temps)

theorem withholding : (Machine.die t d).withholding = (Machine.die s d).withholding :=
  (congrArg Die.withholding (h.die d) : (offAccount (Machine.die t d)).withholding = (offAccount (Machine.die s d)).withholding)

theorem capInForce : capInForce t = capInForce s := by rw [Machine.capInForce, h.image, h.power, Machine.capInForce]

end Accounted

section
variable (s : State)

theorem offEvents_postSummary (p : Nat) : offEvents (postSummary s p) = offEvents s := by
  unfold postSummary
  dsimp only
  split
  · rfl
  · exact offEvents_postEvent ..

theorem offEvents_addEpisode (p d code start low : Nat) : offEvents (addEpisode s p d code start low) = offEvents s := by
  unfold addEpisode
  dsimp only
  split
  · exact offEvents_postSummary s p
  · rfl

theorem offEvents_addEpisodes (d code start low : Nat) : offEvents (addEpisodes s d code start low) = offEvents s :=
  offEvents_foldl (fun _ _ => offEvents_addEpisode ..) _ s

theorem offEvents_powerEvent (ps : List Nat) (code state : Nat) (dies : BitVec 9) (measured : Nat) :
    offEvents (powerEvent s ps code state dies measured) = offEvents s := offEvents_postEvents ..

theorem accounted_powerEvent (ps : List Nat) (code state : Nat) (dies : BitVec 9) (measured : Nat) :
    Accounted s (powerEvent s ps code state dies measured) :=
  accounted_of_offEvents (offEvents_powerEvent ..)

theorem accounted_accountF (code d : Nat) : Accounted s (accountF s code d) := by
  unfold accountF
  dsimp only
  split
  · split
    · exact .rfl
    · exact accounted_setDie rfl
  · split
    · refine Accounted.trans (Accounted.trans ?_ (accounted_of_offEvents (offEvents_addEpisodes ..))) (accounted_setDie rfl)
      exact accounted_setDie rfl
    · exact accounted_setDie rfl

theorem accounted_limitDies (g : State → State) : Accounted (g s) (limitDies s g) := accounted_foldl (fun _ _ => accounted_accountF ..) _ _

theorem issueFraction_le_fLoop (d : Nat) : issueFraction s d ≤ (die s d).fLoop := (Nat.min_le_left ..).trans (Nat.min_le_left ..)

theorem issueFraction_le_of_hot (hot : s.power.hot = true) (d : Nat) : issueFraction s d ≤ 16 := by
  unfold issueFraction
  rw [if_pos hot]
  exact Nat.min_le_right ..

/-! ### What the loop holds (R458) -/

/-- A fold that applies `g` once to the loop's fraction of each die of a list. -/
theorem fLoop_foldl {step : State → Nat → State} {g : Nat → Nat}
    (h : ∀ t d e, (die (step t d) e).fLoop = if e = d then g (die t d).fLoop else (die t e).fLoop) {l : List Nat} (once : l.Nodup) (e : Nat) :
    (die (l.foldl step s) e).fLoop = if e ∈ l then g (die s e).fLoop else (die s e).fLoop := by
  induction l generalizing s with
  | nil => simp
  | cons d l ih =>
    obtain ⟨fresh, once⟩ := List.nodup_cons.1 once
    rw [List.foldl_cons, ih _ once, h]
    by_cases same : e = d
    · subst same; simp [fresh]
    · simp [same]

theorem fLoop_setLoop (g : Nat → Nat) {d : Nat} (hd : d < dieCount s.variant) : (die (setLoop s g) d).fLoop = g (die s d).fLoop := by
  rw [setLoop, fLoop_foldl s (g := g) (fun t d e => by rw [modDie, die_setDie]; split <;> rfl) List.nodup_range, if_pos (List.mem_range.2 hd)]

/-- The loop's step down: each die that R421 selects, with the partitions that draw above their share. -/
def lowerLoop (s : State) : State := (capDies s).foldl (fun s d => modDie s d fun u =>
  { u with fLoop := u.fLoop - 1, fOver := (u.fOver ++ (diePartitions s d).filter (overShare s)).eraseDups }) s

theorem fLoop_lowerLoop (d : Nat) : (die (lowerLoop s) d).fLoop = if d ∈ capDies s then (die s d).fLoop - 1 else (die s d).fLoop :=
  fLoop_foldl s (g := (· - 1)) (fun t d e => by rw [modDie, die_setDie]; split <;> rfl) ((List.nodup_range.filter _).filter _) d

theorem mem_capDies (d : Nat) : d ∈ capDies s ↔ (d < dieCount s.variant ∧ 4 < (die s d).fLoop) ∧
    ∀ e, e < dieCount s.variant → 4 < (die s e).fLoop → dieRank s d ≤ dieRank s e := by
  rw [capDies, List.mem_filter, List.mem_filter, List.all_eq_true, List.mem_range, decide_eq_true_iff]
  simp only [List.mem_filter, List.mem_range, decide_eq_true_iff, and_imp]

theorem activity_clearActivity (c : Nat) : (cluster (clearActivity s) c).activity = [] :=
  look_map_rel (R := fun x' _ => x'.activity = []) (f := fun (c, x) => (c, { x with activity := [] })) (fun _ => rfl) rfl (fun _ => rfl)
    s.clusters c

end

/-! ### The supply warning, samples and the cap (R451 to R459) -/

section
variable {s : State}

/-- The limits of a supply warning (R451). -/
def warn (s : State) : State :=
  setLoop { s with power := { s.power with warning := true, alertPin := true }, flash := { s.flash with suspended := true } } fun _ => 4

theorem setLoop_rest (s : State) (g : Nat → Nat) : offDies (setLoop s g) = offDies s := by
  unfold setLoop
  generalize List.range (dieCount s.variant) = l
  induction l generalizing s with
  | nil => rfl
  | cons d l ih => exact ih _

theorem exec_supplyWarning {mv : Nat} (on : s.power.stage ≠ .off) (calm : s.power.warning = false) (above : resetMv < mv) (low : mv ≤ warnMv) :
    ∃ t, exec (.supplyWarning mv) s = .next t ∧ Accounted (warn (emit (setInput s mv) (.pin "PWR_ALERT#" true))) t ∧
      Out.pin "PWR_ALERT#" true ∈ t.out := by
  have due : ¬ (s.power.stage = .off || s.power.warning || decide (warnMv < mv) || decide (mv ≤ resetMv)) = true := by
    simp [on, calm, above, low]
  refine ⟨_, (onUnit_next ..).2 ⟨rfl, if_neg due⟩, (accounted_limitDies _ warn).trans (accounted_powerEvent ..), ?_⟩
  refine (Kept.out (s := emit (setInput s mv) (.pin "PWR_ALERT#" true)) ?_).subset (List.mem_append_right _ (List.mem_singleton_self _))
  exact kept_powerEvent (kept_limitDies (fun x k => kept_setLoop (k.trans ⟨rfl, rfl, rfl, rfl, List.prefix_rfl, le_rfl, le_rfl, le_rfl, le_rfl, id⟩)) .rfl)

/-- The end of a supply warning before its events (R452). -/
def calmed (s : State) (mv : Nat) : State := { setInput s mv with
  power := { (setInput s mv).power with warning := false, alertPin := false }, flash := { s.flash with suspended := false } }

theorem exec_warningCleared {mv : Nat} (on : s.power.stage ≠ .off) (shown : s.power.warning = true) (high : clearMv ≤ mv) :
    ∃ t, exec (.warningCleared mv) s = .next t ∧ Out.pin "PWR_ALERT#" false ∈ t.out ∧ offEvents t = offEvents (calmed s mv) := by
  have due : ¬ (s.power.stage = .off || !s.power.warning || decide (mv < clearMv)) = true := by simp [on, shown, high]
  refine ⟨_, (onUnit_next ..).2 ⟨rfl, if_neg due⟩, ?_, offEvents_postEvents ..⟩
  refine (Kept.out (s := emit (setInput s mv) (.pin "PWR_ALERT#" false)) ?_).subset (List.mem_append_right _ (List.mem_singleton_self _))
  exact kept_powerEvent ⟨rfl, rfl, rfl, rfl, List.prefix_rfl, le_rfl, le_rfl, le_rfl, le_rfl, id⟩

/-- A sample of the input's current before the limit of 72 A (R458, R472). -/
def sampled (s : State) (mv ma : Nat) : State := { s with power := { s.power with
  inputMv := mv, inputMa := ma, energy := s.power.energy + (s.power.energyPj + mv * ma) / 1000000,
  energyPj := (s.power.energyPj + mv * ma) % 1000000, samples := (mv * ma :: s.power.samples).take 1000 } }

theorem exec_currentSample (on : powered s = true) (mv ma : Nat) : exec (.currentSample mv ma) s = .next
    (if 72000 < ma then limitDies (sampled s mv ma) fun s => setLoop s fun f => Nat.min f 16 else sampled s mv ma) := by
  refine (onUnit_next ..).2 ⟨rfl, ?_⟩
  rw [on]
  rfl

theorem exec_powerCapLoop (on : powered s = true) : exec .powerCapLoop s = .next (clearActivity
    (if capInForce s * 1000000 < loopMean s then limitDies s lowerLoop
     else if 100 * loopMean s < 95 * (capInForce s * 1000000) then limitDies s fun s => setLoop s fun f => Nat.min 64 (f + 1)
     else s)) := by
  refine (onUnit_next ..).2 ⟨rfl, ?_⟩
  rw [on]
  rfl

/-! ### Droop, ageing and the control complex (R461 to R471) -/

theorem exec_droopTrip {d n : Nat} (unit : dieOk d = true) (node : Sys2Proof.nodeOk n = true) (compute : d ≠ 8) (on : powered s = true)
    (there : present s d = true) : exec (.droopTrip d n) s = .next (modDie s d fun u =>
      if u.withholding then { u with trippedNodes := u.trippedNodes ||| bit16 n }
      else { u with withholding := true, withholdStart := s.portTime, trippedNodes := bit16 n, episodes := bump 0xFFFF u.episodes }) := by
  refine (onUnit_next ..).2 ⟨by rw [unit, node]; rfl, if_neg ?_⟩
  simp [compute, on, there]

theorem excludeTime_dies (s : State) (d ticks : Nat) : (excludeTime s d ticks).dies = s.dies := by
  unfold excludeTime
  dsimp only
  generalize (List.map _ _ : List Nat).eraseDups = ids
  induction ids generalizing s with
  | nil => rfl
  | cons i ids ih => exact ih _

/-- Withholding has ended on the die, whose account goes on. -/
theorem die_endDroop (s : State) (d : Nat) : die (endDroop s d) d = { die s d with withholding := false, trippedNodes := 0 } := by
  unfold endDroop
  rw [die_eq_of_dies ((dies_of_offEvents (offEvents_addEpisodes ..)).trans (excludeTime_dies ..)), die_setDie, if_pos rfl]

theorem exec_droopEnd {d : Nat} (unit : dieOk d = true) (withheld : (die s d).withholding = true) :
    exec (.droopEnd d) s = .next (endDroop s d) :=
  (onUnit_next ..).2 ⟨unit, if_pos withheld⟩

theorem exec_droopLimit {d : Nat} (unit : dieOk d = true) (withheld : (die s d).withholding = true) : exec (.droopLimit d) s = .next
    (limitDies (endDroop s d) fun s => modDie s d fun u => { u with fLoop := Nat.min u.fLoop 16 }) :=
  (onUnit_next ..).2 ⟨unit, if_pos withheld⟩

theorem part_of_parts {t : State} (h : t.parts = s.parts) (p : Nat) : part t p = part s p := congrArg (fun m => look ({} : Part) m p) h

theorem wCount_postEvent (s : State) (r : Nat) (e : List Byte) (p : Nat) : (part (postEvent s r e) p).wCount = (part s p).wCount := by
  have one : ∀ v : Part, v.wCount = (part s r).wCount → (part (setPart s r v) p).wCount = (part s p).wCount := fun v same => by
    rw [part_setPart]
    split
    next hp => rw [hp, same]
    next => rfl
  unfold postEvent
  dsimp only
  split_ifs
  · rfl
  · exact one _ (by dsimp only; split_ifs <;> rfl)
  · exact (congrArg Part.wCount (part_of_parts (postRequest_parts ..) p)).trans (one _ rfl)

theorem wCount_postSummary (s : State) (p : Nat) : (part (postSummary s p) p).wCount = 0 := by
  unfold postSummary
  dsimp only
  split
  next none => exact none
  next => rw [wCount_postEvent, modPart, part_setPart, if_pos rfl]

theorem exec_withholdSummary {p : Nat} (unit : partOk p = true) (on : alive s = true)
    (full : ∀ d, d < dieCount s.variant → (die s d).fSince = 0) : exec (.withholdSummary p) s = .next
      (if s.portTime.toNat < (part s p).wEnd.toNat + msUnits then s else postSummary s p) := by
  have ended : (List.range (dieCount s.variant)).filter (fun d => (die s d).fSince != 0 && (diePartitions s d).contains p) = [] :=
    List.filter_eq_nil_iff.2 fun d hd => by simp [full d (List.mem_range.1 hd)]
  refine (onUnit_next ..).2 ⟨unit, ?_⟩
  rw [on, ended]
  simp only [Bool.not_true, Bool.false_eq_true, if_false, List.isEmpty_nil, if_true, decide_eq_true_eq]

theorem exec_ageingMonitorRead {d : Nat} (unit : dieOk d = true) (on : alive s = true) (calm : s.restart.active = false)
    (there : present s d = true) : exec (.ageingMonitorRead d true) s = .next
      (if (die s d).voff < 20 then addJournal (setDie s d { die s d with voff := (die s d).voff + 5 })
         { type := 2, key := [d], payload := [(die s d).voff + 5] }
       else if ageRecorded s d = true then s
       else addJournal (powerEvent { s with power := { s.power with age := true } } [0] 0x87 0 (bit9 d) (die s d).voff)
         { type := 4, key := [d], payload := [2] }) := by
  refine (onUnit_next ..).2 ⟨unit, ?_⟩
  rw [on, calm, there]
  rfl

theorem exec_controlComplexStepChange {n : Nat} (hn : n < 5) (on : powered s = true) :
    exec (.controlComplexStepChange n) s = .next { s with power := { s.power with ccStep := n } } :=
  (onUnit_next ..).2 ⟨rfl, if_pos (by simp [on, hn])⟩

theorem die_addJournal (s : State) (r : JRec) (d : Nat) : die (addJournal s r) d = die s d := by
  unfold addJournal
  split <;> rfl

theorem waiting_addJournal (room : s.flash.waiting.length < 1024) (r : JRec) : (addJournal s r).flash.waiting = s.flash.waiting ++ [r] := by
  rw [addJournal, if_pos room]

theorem power_addJournal (s : State) (r : JRec) : (addJournal s r).power = s.power := by
  unfold addJournal
  split <;> rfl

/-! ### Temperature (R460, R466 to R468) -/

def offTraining (s : State) : State := { s with links := [] }

theorem offTraining_trainLinks (s : State) : offTraining (trainLinks s) = offTraining s := by
  unfold trainLinks
  split
  · rfl
  · clear * -
    generalize List.range 16 = l
    induction l generalizing s with
    | nil => rfl
    | cons i l ih =>
      rw [List.foldl_cons, ih]
      split <;> rfl

section
variable {s t : State} (h : offTraining t = offTraining s)
include h

theorem dies_of_offTraining : t.dies = s.dies := (congrArg State.dies h : (offTraining t).dies = (offTraining s).dies)
theorem mem_of_offTraining : t.mem = s.mem := (congrArg State.mem h : (offTraining t).mem = (offTraining s).mem)
theorem out_of_offTraining : t.out = s.out := (congrArg State.out h : (offTraining t).out = (offTraining s).out)
theorem flash_of_offTraining : t.flash = s.flash := (congrArg State.flash h : (offTraining t).flash = (offTraining s).flash)
theorem power_of_offTraining : t.power = s.power := (congrArg State.power h : (offTraining t).power = (offTraining s).power)

end

/-- The limit of the die by one step of temperature before its account (R460). -/
def thermalLimited (s : State) (d : Nat) : State := setDie s d { die s d with
  fTherm := Nat.max 4 ((die s d).fTherm - 1), thermLimiting := true, thermAt := (die s d).time.toNat + 1 }

theorem accounted_thermalStep_hot {d : Nat} (hot : ∃ t ∈ dieTemps s d, 1000 ≤ t)
    (due : (die s d).thermAt = 0 ∨ (die s d).thermAt + 999 ≤ (die s d).time.toNat) : Accounted (thermalLimited s d) (thermalStep s d) := by
  have hit : ((dieTemps s d).any (fun t => decide (1000 ≤ t)) &&
      ((die s d).thermAt = 0 || decide ((die s d).thermAt + 999 ≤ (die s d).time.toNat))) = true := by
    simpa using ⟨hot, due⟩
  unfold thermalStep
  dsimp only
  rw [if_pos hit]
  split
  · exact accounted_limitDies s fun s => _
  · exact (accounted_limitDies s fun s => _).trans (accounted_powerEvent ..)

/-- The limit above 105 C, its end and what it posts leave memory and the dies' own limits. -/
theorem accounted_endHot (s : State) : ∃ u : State, Accounted u (endHot s) ∧ u.mem = s.mem ∧ u.dies = s.dies := by
  unfold endHot
  split
  · exact ⟨s, .rfl, rfl, rfl⟩
  · exact ⟨_, (accounted_limitDies s fun s => { s with power := { s.power with hot := false } }).trans (accounted_powerEvent ..), rfl, rfl⟩

theorem accounted_thermalStep (s : State) (d : Nat) : ∃ u : State, Accounted u (thermalStep s d) ∧ u.mem = s.mem ∧
    ∀ e, (die u e).temps = (die s e).temps := by
  have kept : ∀ v : Die, v.temps = (die s d).temps → ∀ e, (die (setDie s d v) e).temps = (die s e).temps := fun v same e => by
    rw [die_setDie]
    split
    next here => rw [here, same]
    next => rfl
  unfold thermalStep
  dsimp only
  split
  · split
    · exact ⟨_, accounted_limitDies s fun s => setDie s d _, rfl, kept _ rfl⟩
    · exact ⟨_, (accounted_limitDies s fun s => setDie s d _).trans (accounted_powerEvent ..), rfl, kept _ rfl⟩
  · split
    · split
      · exact ⟨_, (accounted_limitDies s fun s => setDie s d _).trans (accounted_powerEvent ..), rfl, kept _ rfl⟩
      · exact ⟨_, accounted_limitDies s fun s => setDie s d _, rfl, kept _ rfl⟩
    · exact ⟨s, .rfl, rfl, fun _ => rfl⟩

/-- A sensor's reading before what it makes the device do. -/
def readSensor (s : State) (d n : Nat) (v : Int) : State := modDie s d fun u => { u with temps := put 250 u.temps n v }

theorem exec_sensorSample {d n : Nat} (unit : (dieOk d && sensorOk n) = true) (on : powered s = true) (there : present s d = true)
    (sensor : n < sensorCount d) (v : Int) : exec (.sensorSample d n v) s = .next
      (if 1150 ≤ v then thermalTrip (readSensor s d n v) d n
       else endHot (if d = 8 then trainLinks (readSensor s d n v) else thermalStep (trainLinks (readSensor s d n v)) d)) := by
  refine (onUnit_next ..).2 ⟨unit, if_neg ?_⟩
  simp [on, there, sensor]

theorem exec_hotSensorTimeout (on : powered s = true) (calm : s.power.hot = false) (hot : overHot s = true) :
    ∃ t, exec .hotSensorTimeout s = .next t ∧ Accounted { s with power := { s.power with hot := true } } t := by
  refine ⟨_, (onUnit_next ..).2 ⟨rfl, if_neg ?_⟩,
    (accounted_limitDies s fun s => { s with power := { s.power with hot := true } }).trans (accounted_powerEvent ..)⟩
  simp [on, calm, hot]

theorem exec_latchSensorRead {d n : Nat} (latch : s.power.latch = some (d, n)) (cold : s.power.stage = .cold) (v : Int) :
    exec (.latchSensorRead v) s = .next
      (if 900 ≤ v ∨ othersBelow s d n 900 = false then { s with power := { s.power with latchTemp := v } }
       else
         let u := addJournal { s with power := { s.power with latchTemp := v } } { type := 3, key := [d, n], payload := [tempBits v, s.portTime.toNat] }
         trainLinks { emit u (.pin "THERM_TRIP#" false) with power := { u.power with latch := none, tripPin := false, coldCause := 4 } }) := by
  have others : othersBelow { s with power := { s.power with latchTemp := v } } d n 900 = othersBelow s d n 900 := rfl
  refine (onUnit_next ..).2 ⟨rfl, ?_⟩
  rw [latch, cold]
  simp only [others]
  by_cases early : 900 ≤ v ∨ othersBelow s d n 900 = false
  · rw [if_neg (by simp), if_pos (by simpa using early), if_pos early]
  · rw [if_neg (by simp), if_neg (by simpa using early), if_neg early]
    rfl

/-! ### The limits that each command leaves -/

theorem limits_of_supplyWarning {t : State} {mv : Nat} (h : Accounted (warn (emit (setInput s mv) (.pin "PWR_ALERT#" true))) t) :
    t.power.warning = true ∧ t.power.alertPin = true ∧ t.flash.suspended = true ∧ capInForce t ≤ 1500 ∧
      ∀ d, d < dieCount s.variant → (die t d).fLoop = 4 ∧ issueFraction t d ≤ 4 := by
  have rest := h.rest.trans (setLoop_rest ..)
  have power := congrArg State.power rest
  have flash := congrArg State.flash rest
  have warning : t.power.warning = true := congrArg Power.warning power
  refine ⟨warning, congrArg Power.alertPin power, congrArg Flash.suspended flash, ?_, fun d hd => ?_⟩
  · unfold capInForce
    rw [if_pos warning]
    exact Nat.min_le_right ..
  · have four : (die t d).fLoop = 4 := (h.fLoop d).trans (fLoop_setLoop _ (fun _ => 4) hd)
    exact ⟨four, four ▸ issueFraction_le_fLoop t d⟩

theorem limits_of_currentSample (on : powered s = true) (mv ma : Nat) : ∃ t, exec (.currentSample mv ma) s = .next t ∧
    t.power = (sampled s mv ma).power ∧ (ma ≤ 72000 → t.dies = s.dies) ∧
    (72000 < ma → ∀ d, d < dieCount s.variant → (die t d).fLoop = Nat.min (die s d).fLoop 16) := by
  refine ⟨_, exec_currentSample on mv ma, ?_⟩
  by_cases high : 72000 < ma
  · rw [if_pos high]
    have h := accounted_limitDies (sampled s mv ma) fun s => setLoop s fun f => Nat.min f 16
    have power := congrArg State.power (h.rest.trans (setLoop_rest ..))
    exact ⟨power, fun low => absurd high (by omega),
      fun _ d hd => (h.fLoop d).trans (fLoop_setLoop _ (fun f => Nat.min f 16) hd)⟩
  · rw [if_neg high]
    exact ⟨rfl, fun _ => rfl, fun absurd => (high absurd).elim⟩

theorem limits_of_powerCapLoop (on : powered s = true) : ∃ t, exec .powerCapLoop s = .next t ∧ (∀ c, (cluster t c).activity = []) ∧
    (capInForce s * 1000000 < loopMean s → ∀ d, (die t d).fLoop = if d ∈ capDies s then (die s d).fLoop - 1 else (die s d).fLoop) ∧
    (loopMean s ≤ capInForce s * 1000000 → 95 * (capInForce s * 1000000) ≤ 100 * loopMean s → t = clearActivity s) ∧
    (100 * loopMean s < 95 * (capInForce s * 1000000) → ∀ d, d < dieCount s.variant → (die t d).fLoop = Nat.min 64 ((die s d).fLoop + 1)) := by
  refine ⟨_, exec_powerCapLoop on, activity_clearActivity _, fun above d => ?_, fun below most => ?_, fun below d hd => ?_⟩
  · rw [if_pos above]
    exact ((accounted_limitDies s lowerLoop).fLoop d).trans (fLoop_lowerLoop s d)
  · rw [if_neg (by omega), if_neg (by omega)]
  · rw [if_neg (by omega), if_pos below]
    exact ((accounted_limitDies s fun s => setLoop s fun f => Nat.min 64 (f + 1)).fLoop d).trans (fLoop_setLoop s (fun f => Nat.min 64 (f + 1)) hd)

theorem limits_of_droop {d : Nat} (unit : dieOk d = true) (withheld : (die s d).withholding = true) :
    (∃ t, exec (.droopEnd d) s = .next t ∧ (die t d).withholding = false ∧ (die t d).fLoop = (die s d).fLoop) ∧
    ∃ t, exec (.droopLimit d) s = .next t ∧ (die t d).withholding = false ∧ (die t d).fLoop = Nat.min (die s d).fLoop 16 := by
  refine ⟨⟨_, exec_droopEnd unit withheld, ?_⟩, _, exec_droopLimit unit withheld, ?_⟩
  · rw [die_endDroop]
    exact ⟨rfl, rfl⟩
  · have h := accounted_limitDies (endDroop s d) fun s => modDie s d fun u => { u with fLoop := Nat.min u.fLoop 16 }
    have limited : die (modDie (endDroop s d) d fun u => { u with fLoop := Nat.min u.fLoop 16 }) d =
        { die s d with withholding := false, trippedNodes := 0, fLoop := Nat.min (die s d).fLoop 16 } := by
      rw [modDie, die_setDie, if_pos rfl, die_endDroop]
    exact ⟨(h.withholding d).trans (by rw [limited]), (h.fLoop d).trans (by rw [limited])⟩

theorem voff_of_ageingMonitorRead {d : Nat} (unit : dieOk d = true) (on : alive s = true) (calm : s.restart.active = false)
    (there : present s d = true) : ∃ t, exec (.ageingMonitorRead d true) s = .next t ∧
      ((die s d).voff < 20 → (die t d).voff = (die s d).voff + 5 ∧ (s.flash.waiting.length < 1024 →
        t.flash.waiting = s.flash.waiting ++ [{ type := 2, key := [d], payload := [(die s d).voff + 5] }])) ∧
      (20 ≤ (die s d).voff → (die t d).voff = (die s d).voff ∧ (ageRecorded s d = false → t.power.age = true)) := by
  refine ⟨_, exec_ageingMonitorRead unit on calm there, fun low => ?_, fun high => ?_⟩
  · rw [if_pos low, die_addJournal, die_setDie, if_pos rfl]
    exact ⟨rfl, fun room => waiting_addJournal (s := setDie s d _) room _⟩
  · rw [if_neg (by omega)]
    split
    next known => exact ⟨rfl, fun fresh => absurd known (by simp [fresh])⟩
    next =>
      rw [die_addJournal, power_addJournal, die_eq_of_dies (dies_of_offEvents (offEvents_powerEvent ..)),
        power_of_offEvents (offEvents_powerEvent ..)]
      exact ⟨rfl, fun _ => rfl⟩

theorem dieTemps_readSensor {d n : Nat} (sensor : n < sensorCount d) (v : Int) : v ∈ dieTemps (readSensor s d n v) d := by
  refine List.mem_map.2 ⟨n, List.mem_range.2 sensor, ?_⟩
  rw [readSensor, modDie, die_setDie, if_pos rfl, look_put_same]

theorem limits_of_sensorSample {d n : Nat} (unit : (dieOk d && sensorOk n) = true) (on : powered s = true) (there : present s d = true)
    (sensor : n < sensorCount d) {v : Int} (cool : v < 1150) : ∃ t, exec (.sensorSample d n v) s = .next t ∧
      look 250 (die t d).temps n = v ∧ t.mem = s.mem ∧
      (1000 ≤ v → d ≠ 8 → (die s d).thermAt = 0 ∨ (die s d).thermAt + 999 ≤ (die s d).time.toNat →
        (die t d).fTherm = Nat.max 4 ((die s d).fTherm - 1) ∧ (die t d).thermLimiting = true) := by
  have trained := offTraining_trainLinks (readSensor s d n v)
  have shown : die (trainLinks (readSensor s d n v)) d = { die s d with temps := put 250 (die s d).temps n v } := by
    rw [die_eq_of_dies (dies_of_offTraining trained), readSensor, modDie, die_setDie, if_pos rfl]
  refine ⟨_, (exec_sensorSample unit on there sensor v).trans (by rw [if_neg (by omega)]), ?_⟩
  by_cases iod : d = 8
  · rw [if_pos iod]
    obtain ⟨u, h, mem, dies⟩ := accounted_endHot (trainLinks (readSensor s d n v))
    refine ⟨?_, ?_, fun _ compute => (compute iod).elim⟩
    · rw [h.temps, die_eq_of_dies dies, shown, look_put_same]
    · rw [h.mem, mem, mem_of_offTraining trained]
      rfl
  · rw [if_neg iod]
    obtain ⟨u, h, mem, dies⟩ := accounted_endHot (thermalStep (trainLinks (readSensor s d n v)) d)
    obtain ⟨w, k, mem', temps⟩ := accounted_thermalStep (trainLinks (readSensor s d n v)) d
    refine ⟨?_, ?_, fun hot _ due => ?_⟩
    · rw [h.temps, die_eq_of_dies dies, k.temps, temps, shown, look_put_same]
    · rw [h.mem, mem, k.mem, mem', mem_of_offTraining trained]
      rfl
    · have reads : v ∈ dieTemps (trainLinks (readSensor s d n v)) d := by
        rw [dieTemps, die_eq_of_dies (dies_of_offTraining trained)]
        exact dieTemps_readSensor sensor v
      have step := accounted_thermalStep_hot ⟨v, reads, hot⟩ (by rw [shown]; exact due)
      rw [h.fTherm, h.thermLimiting, die_eq_of_dies dies, step.fTherm, step.thermLimiting, thermalLimited, die_setDie, if_pos rfl, shown]
      exact ⟨rfl, rfl⟩

theorem latch_of_latchSensorRead {d n : Nat} (latch : s.power.latch = some (d, n)) (cold : s.power.stage = .cold) {v : Int} (cool : v < 900)
    (others : othersBelow s d n 900 = true) : ∃ t, exec (.latchSensorRead v) s = .next t ∧ t.power.latch = none ∧ t.power.tripPin = false ∧
      t.power.coldCause = 4 ∧ Out.pin "THERM_TRIP#" false ∈ t.out ∧ (s.flash.waiting.length < 1024 →
        ∃ r, t.flash.waiting = s.flash.waiting ++ [r] ∧ r.type = 3 ∧ r.key = [d, n]) := by
  refine ⟨_, (exec_latchSensorRead latch cold v).trans (by rw [if_neg (by simp [others, cool])]), ?_⟩
  dsimp only
  rw [power_of_offTraining (offTraining_trainLinks _), out_of_offTraining (offTraining_trainLinks _),
    flash_of_offTraining (offTraining_trainLinks _)]
  refine ⟨rfl, rfl, rfl, List.mem_append_right _ (List.mem_singleton_self _), fun room => ⟨_, waiting_addJournal (s := { s with power := { s.power with latchTemp := v } }) room _, rfl, rfl⟩⟩

end

/-- Settles O57: each command sets the limit of its rule on the dies; the account of withheld issue and the events that follow keep it. -/
theorem powerAndTemperature : Obligations.PowerAndTemperature := by
  unfold Obligations.PowerAndTemperature
  refine ⟨fun s mv ma => ⟨fun on calm above low => ?_, fun on shown high => ?_, fun on => ?_, fun on => ?_, fun d n unit node compute on there => ?_,
    fun d unit _ withheld => limits_of_droop unit withheld, fun p unit on full => ⟨fun early => ?_, fun late => ?_⟩,
    fun d unit on calm there => voff_of_ageingMonitorRead unit on calm there, fun n hn on => exec_controlComplexStepChange hn on⟩,
    fun s d n v unit on there sensor => ⟨fun trip => ?_, fun cool => limits_of_sensorSample unit on there sensor cool⟩,
    fun s on calm hot => ?_, fun s v d n latch cold => ⟨fun hot => ?_, fun others => ?_, fun cool others => latch_of_latchSensorRead latch cold cool others⟩⟩
  · obtain ⟨t, step, h, sent⟩ := exec_supplyWarning on calm above low
    obtain ⟨warning, pin, flash, cap, dies⟩ := limits_of_supplyWarning h
    exact ⟨t, step, warning, pin, flash, cap, sent, dies⟩
  · obtain ⟨t, step, sent, h⟩ := exec_warningCleared on shown high
    have power : t.power = (calmed s mv).power := power_of_offEvents h
    have flash : t.flash = (calmed s mv).flash := (congrArg State.flash h : (offEvents t).flash = (offEvents (calmed s mv)).flash)
    have image : t.image = (calmed s mv).image := (congrArg State.image h : (offEvents t).image = (offEvents (calmed s mv)).image)
    refine ⟨t, step, ?_, ?_, ?_, sent, ?_, ?_, (dies_of_offEvents h).trans rfl⟩
    · rw [power]; rfl
    · rw [power]; rfl
    · rw [flash]; rfl
    · rw [image]; rfl
    · rw [power]; rfl
  · obtain ⟨t, step, power, low, high⟩ := limits_of_currentSample on mv ma
    refine ⟨t, step, by rw [power]; rfl, by rw [power]; rfl, ?_, low, high⟩
    rw [power, sampled]
    dsimp only
    omega
  · obtain ⟨t, step, clear, above, within, below⟩ := limits_of_powerCapLoop on
    refine ⟨t, step, clear, fun high d hd => ⟨fun can first => ?_, fun other => ?_⟩, within, below⟩
    · rw [above high, if_pos ((mem_capDies s d).2 ⟨⟨hd, can⟩, first⟩)]
    · rw [above high, if_neg fun chosen => ?_]
      obtain ⟨⟨_, can⟩, first⟩ := (mem_capDies s d).1 chosen
      rcases other with low | ⟨e, he, lowers, before⟩
      · omega
      · exact absurd (first e he lowers) (by omega)
  · refine ⟨_, exec_droopTrip unit node compute on there, ?_⟩
    rw [modDie, die_setDie, if_pos rfl]
    cases held : (die s d).withholding <;> simp
  · rw [exec_withholdSummary unit on full, if_pos early]
  · exact ⟨_, (exec_withholdSummary unit on full).trans (by rw [if_neg (by omega)]), wCount_postSummary s p⟩
  · refine ⟨thermalTrip (readSensor s d n v) d n, (exec_sensorSample unit on there sensor v).trans (by rw [if_pos trip]), rfl, rfl, rfl, rfl, ?_, rfl, rfl⟩
    exact List.mem_append_right _ (List.mem_singleton_self _)
  · obtain ⟨t, step, h⟩ := exec_hotSensorTimeout on calm hot
    have limit : t.power.hot = true := congrArg Power.hot h.power
    exact ⟨t, step, limit, fun d _ => issueFraction_le_of_hot t limit d⟩
  · rw [exec_latchSensorRead latch cold, if_pos (.inl hot)]
  · rw [exec_latchSensorRead latch cold, if_pos (.inr others)]

end Sys2Proof.Machine

/-! SUPPORT. What sending on a queue pair and posting events leave of it, and how the device takes the answers to its own requests (R433 to
R449). It settles O54. -/

namespace Sys2Proof.Machine

/-! ### Sending on queue pairs (R433, R443) -/

/-- A queue pair without its requests and the PSN of the next one. -/
def offQueue (x : Qp) : Qp := { x with sendq := [], nextPsn := 0 }

/-- Requests have been added and sent on queue pairs, no more. -/
structure SamePairs (s t : State) : Prop where
  pair : ∀ q, offQueue (qp t q) = offQueue (qp s q)

theorem SamePairs.rfl {s : State} : SamePairs s s := ⟨fun _ => Eq.refl _⟩

theorem qp_of_qps {s t : State} (h : t.qps = s.qps) (q : Nat) : qp t q = qp s q := congrArg (fun m => look ({} : Qp) m q) h

theorem samePairs_of_qps {s t : State} (h : t.qps = s.qps) : SamePairs s t := ⟨fun q => by rw [qp_of_qps h]⟩

theorem SamePairs.trans {s t u : State} (h : SamePairs s t) (k : SamePairs t u) : SamePairs s u := ⟨fun q => (k.pair q).trans (h.pair q)⟩

theorem samePairs_foldl {β : Type} {f : State → β → State} (h : ∀ s b, SamePairs s (f s b)) (l : List β) (s : State) :
    SamePairs s (l.foldl f s) := by
  induction l generalizing s with
  | nil => exact .rfl
  | cons b l ih => exact (h s b).trans (ih _)

theorem samePairs_setQp {s : State} {q : Nat} {v : Qp} (h : offQueue v = offQueue (qp s q)) : SamePairs s (setQp s q v) := ⟨fun e => by
  rw [qp_setQp]
  split
  next here => rw [h, here]
  next => rfl⟩

section
variable {s t : State} (h : SamePairs s t) (q : Nat)
include h

theorem SamePairs.st : (qp t q).st = (qp s q).st := (congrArg Qp.st (h.pair q) : (offQueue (qp t q)).st = (offQueue (qp s q)).st)
theorem SamePairs.retries : (qp t q).retries = (qp s q).retries :=
  (congrArg Qp.retries (h.pair q) : (offQueue (qp t q)).retries = (offQueue (qp s q)).retries)
theorem SamePairs.expectPsn : (qp t q).expectPsn = (qp s q).expectPsn :=
  (congrArg Qp.expectPsn (h.pair q) : (offQueue (qp t q)).expectPsn = (offQueue (qp s q)).expectPsn)
theorem SamePairs.peerQpn : (qp t q).peerQpn = (qp s q).peerQpn :=
  (congrArg Qp.peerQpn (h.pair q) : (offQueue (qp t q)).peerQpn = (offQueue (qp s q)).peerQpn)
theorem SamePairs.mtu : (qp t q).mtu = (qp s q).mtu := (congrArg Qp.mtu (h.pair q) : (offQueue (qp t q)).mtu = (offQueue (qp s q)).mtu)
theorem SamePairs.depth : (qp t q).depth = (qp s q).depth := (congrArg Qp.depth (h.pair q) : (offQueue (qp t q)).depth = (offQueue (qp s q)).depth)

end

section
variable (s : State)

theorem samePairs_pumpQp (q : Nat) : SamePairs s (pumpQp s q) := by
  unfold pumpQp
  dsimp only
  split
  · exact .rfl
  · have sent : SamePairs s (setQp s q { qp s q with sendq := leaving (qp s q).depth (qp s q).sendq 0 }) := samePairs_setQp rfl
    exact sent.trans (samePairs_of_qps rfl)

theorem samePairs_postRequest (q : Nat) (r : QpReq) : SamePairs s (postRequest s q r) := by
  unfold postRequest
  refine SamePairs.trans ?_ (samePairs_pumpQp ..)
  exact samePairs_setQp rfl

theorem samePairs_deliverEvent (p : Nat) (e : List Byte) : SamePairs s (deliverEvent s p e) := by
  unfold deliverEvent
  dsimp only
  exact SamePairs.trans ((samePairs_of_qps (s := s) (t := setPart s p _) rfl).trans (samePairs_postRequest ..)) (samePairs_of_qps rfl)

theorem samePairs_postEvent (p : Nat) (e : List Byte) : SamePairs s (postEvent s p e) := by
  unfold postEvent
  dsimp only
  split
  · exact .rfl
  · split
    · exact samePairs_of_qps rfl
    · exact samePairs_deliverEvent ..

theorem samePairs_qpEvent (q state code : Nat) : SamePairs s (qpEvent s q state code) := by
  unfold qpEvent
  split
  · exact samePairs_postEvent ..
  · exact .rfl

/-- A queue pair with nothing to send sends nothing. -/
theorem pumpQp_idle {q : Nat} (idle : (qp s q).sendq = []) : (pumpQp s q).out = s.out ∧ (qp (pumpQp s q) q).sendq = [] := by
  unfold pumpQp
  dsimp only
  split
  · exact ⟨rfl, idle⟩
  · rw [idle]
    exact ⟨List.append_nil _, congrArg Qp.sendq ((qp_setQp ..).trans (if_pos rfl))⟩

/-- An event goes to no queue pair that is not ready. -/
theorem qp_postEvent_of_notReady {q : Nat} (st : (qp s q).st ≠ .ready) (p : Nat) (e : List Byte) : qp (postEvent s p e) q = qp s q := by
  unfold postEvent
  dsimp only
  split
  · rfl
  · split
    · rfl
    next open' =>
      have other : q ≠ (part s p).ringQp := fun same => open' (by simp [ringBlocked, ← same, st])
      have untouched : ∀ (u : State) v, qp (setQp u (part s p).ringQp v) q = qp u q := fun u v => by rw [qp_setQp, if_neg other]
      unfold deliverEvent postRequest pumpQp
      dsimp only
      split
      · exact untouched _ _
      · exact (untouched _ _).trans (untouched _ _)

theorem qp_qpEvent_of_notReady {q : Nat} (st : (qp s q).st ≠ .ready) (state code : Nat) : qp (qpEvent s q state code) q = qp s q := by
  unfold qpEvent
  split
  · exact qp_postEvent_of_notReady s st ..
  · rfl

end

/-! ### The front request of a queue pair (R433, R449) -/

section
variable {s : State} {q : Nat} {r : QpReq}

/-- A queue pair whose one request is no write acknowledges no write. -/
theorem ackBefore_of_read (one : (qp s q).sendq = [r]) (kind : r.kind ≠ 1) (psn : Nat) : ackBefore s q psn = s := by
  rw [ackBefore, one, List.length_singleton, ackWrites]
  simp [one, kind]

theorem completeFront_of_empty (none' : (qp s q).sendq = []) (psn : Nat) (is : Nat → Bool) (d : List Byte) :
    completeFront s q psn is d = s := by
  rw [completeFront, none']

/-- The queue pair after its one request has been answered. -/
def endedQp (s : State) (q : Nat) : State := setQp s q { qp s q with sendq := [], retries := 0 }

theorem completeFront_of_answered (one : (qp s q).sendq = [r]) (sent : r.sent = true) {is : Nat → Bool} (kind : is r.kind = true) (d : List Byte) :
    completeFront s q r.psn is d = completeRequest (endedQp s q) q r d := by
  rw [completeFront, one]
  simp [sent, kind, endedQp]

theorem qp_endedQp (s : State) (q : Nat) : qp (endedQp s q) q = { qp s q with sendq := [], retries := 0 } := (qp_setQp ..).trans (if_pos rfl)

theorem tagOpen_endedQp (tag : Nat) : tagOpen (endedQp s q) q tag = false := by
  rw [tagOpen, endedQp, qp_setQp, if_pos rfl]
  rfl

theorem exec_rdmaReadResponse (live : qpLive s q = true) (psn : Nat) (data : List Byte) : exec (.rdmaReadResponse q psn data) s =
    .next (pumpQp (completeFront (ackBefore s q psn) q psn (fun k => k == 0 || k == 4) data) q) :=
  (onUnit_next ..).2 ⟨rfl, if_neg (by simp [live])⟩

theorem exec_acknowledge (live : qpLive s q = true) (psn : Nat) (value : W64) : exec (.acknowledge q psn value) s =
    .next (pumpQp (completeFront (ackBefore s q psn) q psn (fun k => k == 2 || k == 3) (leBytes 8 value.toNat)) q) :=
  (onUnit_next ..).2 ⟨rfl, if_neg (by simp [live])⟩


theorem exec_nak (live : qpLive s q = true) (one : (qp s q).sendq = [r]) (kind : r.kind = 0) (psn syn : Nat) : exec (.nak q psn syn) s =
    .next (if syn = nakSequence then retryQp s q
      else match nakStatus syn with
        | some st => if r.sent = true ∧ r.psn = psn then pumpQp (failRequest s q r st) q else s
        | none => s) := by
  refine (onUnit_next ..).2 ⟨rfl, (if_neg (by simp [live])).trans ?_⟩
  dsimp only
  rw [ackBefore_of_read one (by rw [kind]; decide), one]
  by_cases seq : syn = nakSequence
  · rw [if_pos seq, if_pos seq]
  · rw [if_neg seq, if_neg seq]
    cases nakStatus syn <;> simp

theorem exec_ackTimeout (live : qpLive s q = true) (calm : s.restart.active = false) (one : (qp s q).sendq = [r]) (sent : r.sent = true) :
    exec (.ackTimeout q) s = .next (retryQp s q) :=
  (onUnit_next ..).2 ⟨rfl, if_neg (by simp [live, calm, one, sent])⟩

theorem exec_rnrNak (live : qpLive s q = true) (one : (qp s q).sendq = [r]) (kind : r.kind = 0) (psn timer : Nat) : exec (.rnrNak q psn timer) s =
    .next (modQp s q fun x => { x with rnrWait := !x.sendq.isEmpty, sendq := x.sendq.map fun r => { r with sent := false } }) := by
  refine (onUnit_next ..).2 ⟨rfl, (if_neg (by simp [live])).trans ?_⟩
  dsimp only
  rw [ackBefore_of_read one (by rw [kind]; decide)]

theorem exec_rnrTimerExpiry (live : qpLive s q = true) (waits : (qp s q).rnrWait = true) : exec (.rnrTimerExpiry q) s =
    .next (pumpQp (modQp s q fun x => { x with rnrWait := false }) q) :=
  (onUnit_next ..).2 ⟨rfl, if_neg (by simp [live, waits])⟩

/-! ### Answers, NAKs and timeouts -/

theorem accs_of_offEvents {s t : State} (h : offEvents t = offEvents s) : t.accs = s.accs :=
  (congrArg State.accs h : (offEvents t).accs = (offEvents s).accs)

/-- A read that has been answered is served from its buffer with the data (R443). -/
theorem completeRequest_read (kind : r.kind = 0) (alone : r.joined = []) (once : r.copy = false) (d : List Byte) :
    completeRequest (endedQp s q) q r d =
      sendRaw (endedQp s q) "DATA_ONCE" r.tag r.line (lineOf (putBytes r.data r.piece (slice d 0 r.len))) r.sectors 0 := by
  unfold completeRequest
  rw [kind, alone]
  dsimp only
  rw [tagOpen_endedQp, if_neg (by decide), if_neg (by simp [once])]
  rfl

/-- A write that has been acknowledged ends its access. -/
theorem completeRequest_write (kind : r.kind = 1) (served : s.image.windows.any (fun w => w.qp == q) = true) (d : List Byte) :
    completeRequest (endedQp s q) q r d = answerWrite (endedQp s q) r.tag 0 := by
  unfold completeRequest
  rw [kind]
  change (if ((s.image.windows.any fun w => w.qp == q) && !tagOpen (endedQp s q) q r.tag) = true then _ else _) = _
  rw [tagOpen_endedQp, served]
  rfl

/-- An ATOMRET that has been answered writes the old value to its registers and ends. -/
theorem completeRequest_atomRet {a : Access} {pc : Piece} (kind : r.kind = 2) (open' : accessOf s r.tag = some a) (ret : a.kind = .atomRet)
    (piece : a.pieces[r.piece]? = some pc) (d : List Byte) : completeRequest (endedQp s q) q r d =
      dropAccess (modGroup (endedQp s q) a.gid fun g => writeBlock g pc.lane pc.reg (pc.len / 4) (leNat (slice d 0 8))) r.tag := by
  have there : accessOf (endedQp s q) r.tag = some a := open'
  have open'' : tagOpen (modGroup (endedQp s q) a.gid fun g => writeBlock g pc.lane pc.reg (pc.len / 4) (leNat (slice d 0 8))) q r.tag = false :=
    tagOpen_endedQp r.tag
  unfold completeRequest
  rw [kind]
  dsimp only
  rw [there]
  dsimp only
  rw [piece]
  have kept : swapFailed r (leNat (slice d 0 8)) = false := by simp [swapFailed, kind]
  simp only [ret, kept, if_true, Bool.false_eq_true, if_false, open'']

/-- The write of one packet that the acknowledgement names is complete. -/
theorem ackBefore_of_write (one : (qp s q).sendq = [r]) (sent : r.sent = true) (kind : r.kind = 1) (packet : packets (qp s q).mtu r.len = 1)
    (psn : r.psn < psnSpace) : ackBefore s q r.psn = completeRequest (endedQp s q) q r [] := by
  have last : (r.psn + packets (qp s q).mtu r.len - 1) % psnSpace = r.psn := by rw [packet, Nat.add_sub_cancel, Nat.mod_eq_of_lt psn]
  have behind : psnAhead r.psn r.psn = 0 := by
    rw [psnAhead, Nat.mod_eq_of_lt psn, Nat.add_sub_cancel_left, Nat.mod_self]
  rw [ackBefore, one, List.length_singleton, ackWrites]
  simp only [one, last, behind, sent, kind, ackWrites, endedQp]
  rfl

/-- A request that fails leaves the queue pair; its reader or writer learns the status. -/
theorem samePairs_failRequest (s : State) (q : Nat) (r : QpReq) (status : Nat) : SamePairs s (failRequest s q r status) := by
  have withdrawn : SamePairs s (modQp s q fun x => { x with sendq := dropWhere (fun y => y.tag == r.tag) x.sendq }) := samePairs_setQp rfl
  unfold failRequest
  dsimp only
  split
  · split
    · exact withdrawn.trans (samePairs_foldl (f := fun s t => refuseRead s t status) (fun _ _ => samePairs_of_qps rfl) _ _)
    · exact withdrawn.trans (samePairs_of_qps rfl)
    · exact withdrawn.trans (samePairs_of_qps rfl)
    · exact withdrawn.trans (samePairs_of_qps rfl)
  · exact withdrawn

/-- A queue pair in error has nothing outstanding (R441, R444). -/
theorem qp_qpError (s : State) (q status : Nat) : (qp (qpError s q status) q).st = .error ∧ (qp (qpError s q status) q).sendq = [] := by
  unfold qpError
  extract_lets rs a b c
  have failed : SamePairs a b := samePairs_foldl (fun t r => by split; exact samePairs_failRequest ..; exact .rfl) rs a
  have cleared : qp c q = { qp b q with sendq := [], retries := 0, rnrWait := false } := (qp_setQp ..).trans (if_pos rfl)
  have error : (qp c q).st = .error := by
    rw [cleared]
    exact (failed.st q).trans (congrArg Qp.st ((qp_setQp ..).trans (if_pos rfl)))
  rw [qp_qpEvent_of_notReady c (by rw [error]; decide)]
  exact ⟨error, by rw [cleared]⟩

theorem failRequest_read (one : (qp s q).sendq = [r]) (kind : r.kind = 0) (alone : r.joined = [])
    (served : s.image.windows.any (fun w => w.qp == q) = true) (status : Nat) : failRequest s q r status =
      refuseRead (setQp s q { qp s q with sendq := [] }) r.tag status := by
  have none' : dropWhere (fun y : QpReq => y.tag == r.tag) (qp s q).sendq = [] := by rw [one]; simp [dropWhere]
  unfold failRequest
  rw [modQp, none', kind, alone]
  exact if_pos served

/-- Requests go out again until the eighth time (R433, R441). -/
theorem retryQp_eq (one : (qp s q).sendq = [r]) : retryQp s q = if (qp s q).retries = 7 then qpError s q 0xB
    else pumpQp (setQp s q { qp s q with retries := (qp s q).retries + 1, sendq := [{ r with sent := false }] }) q := by
  rw [retryQp, one]
  rfl

/-! ### Rate control (R439) -/

/-- 50 us have passed since the latest cut of the rate, if there was one. -/
def mayCut (now : W64) : Option W64 → Bool
  | none => true
  | some t => decide (t.toNat + cnpGap ≤ now.toNat)

theorem exec_cnp (live : qpLive s q = true) : exec (.cnp q) s = .next (setQp s q { qp s q with
    lastCnp := some s.portTime
    rate := if mayCut s.portTime (qp s q).lastCut then Nat.max 1000 ((qp s q).rate / 2) else (qp s q).rate
    lastCut := if mayCut s.portTime (qp s q).lastCut then some s.portTime else (qp s q).lastCut }) :=
  (onUnit_next ..).2 ⟨rfl, if_neg (by simp [live])⟩

/-- 55 us have passed since a time, if there was one. -/
def gapPast (now : W64) : Option W64 → Bool
  | none => true
  | some t => decide (t.toNat + 550000 ≤ now.toNat)

theorem gapPast_of_all {now : W64} {o : Option W64} (h : ∀ c, o = some c → c.toNat + 550000 ≤ now.toNat) : gapPast now o = true := by
  cases o with
  | none => rfl
  | some c => simpa [gapPast] using h c rfl

theorem exec_cnpRateIncrease (live : qpLive s q = true) : exec (.cnpRateIncrease q) s = .next
    (if (gapPast s.portTime (qp s q).lastCnp && gapPast s.portTime (qp s q).lastRaise) = true then
      setQp s q { qp s q with
        rate := Nat.min (portRate s (qp s q).port (qp s q).half) ((qp s q).rate + portRate s (qp s q).port (qp s q).half * 5 / 100),
        lastRaise := some s.portTime }
     else s) :=
  (onUnit_next ..).2 ⟨rfl, if_neg (by simp [live])⟩

end

/-- Settles O54: the one request of a queue pair is answered, fails or goes out again; each timer and rate is its own update. -/
theorem requesterHandlesAnswers : Obligations.RequesterHandlesAnswers := by
  unfold Obligations.RequesterHandlesAnswers
  rintro s q x r live rfl
  refine ⟨fun one sent alone served => ⟨?_, ?_, ?_, ?_⟩, fun one sent kind => ⟨?_, ?_⟩, ?_, ?_, ?_⟩
  · rintro data v kind once rfl
    have idle : (qp (sendRaw (endedQp s q) "DATA_ONCE" r.tag r.line (lineOf (putBytes r.data r.piece (slice data 0 r.len))) r.sectors 0) q).sendq = [] :=
      congrArg Qp.sendq (qp_endedQp s q)
    obtain ⟨out, none'⟩ := pumpQp_idle _ idle
    refine ⟨_, exec_rdmaReadResponse live r.psn data, ?_⟩
    rw [ackBefore_of_read one (by rw [kind]; decide), completeFront_of_answered one sent (by rw [kind]; rfl), completeRequest_read kind alone once]
    exact ⟨none', (samePairs_pumpQp _ q).retries q |>.trans (congrArg Qp.retries (qp_endedQp s q)), out⟩
  · intro value kind packet psn
    have idle : (qp (answerWrite (endedQp s q) r.tag 0) q).sendq = [] := congrArg Qp.sendq (qp_endedQp s q)
    obtain ⟨out, none'⟩ := pumpQp_idle _ idle
    refine ⟨_, exec_acknowledge live r.psn value, ?_⟩
    rw [ackBefore_of_write one sent kind packet psn, completeRequest_write kind served, completeFront_of_empty idle]
    exact ⟨none', out⟩
  · intro value a pc kind open' ret piece
    generalize hu : dropAccess (modGroup (endedQp s q) a.gid fun g => writeBlock g pc.lane pc.reg (pc.len / 4)
      (leNat (slice (leBytes 8 value.toNat) 0 8))) r.tag = u
    have idle : (qp u q).sendq = [] := hu ▸ congrArg Qp.sendq (qp_endedQp s q)
    have rest := offEvents_pumpQp u q
    refine ⟨_, exec_acknowledge live r.psn value, ?_⟩
    rw [ackBefore_of_read one (by rw [kind]; decide), completeFront_of_answered one sent (by rw [kind]; rfl),
      completeRequest_atomRet kind open' ret piece, hu]
    refine ⟨(pumpQp_idle _ idle).2, ?_, fun g there => ?_⟩
    · rw [accessOf, accs_of_offEvents rest, ← accessOf, ← hu]
      exact accessOf_dropAccess _ _
    · rw [group, groups_of_offEvents rest, ← hu]
      have old : leNat (slice (leBytes 8 value.toNat) 0 8) = value.toNat := leNat_leBytes_toNat (n := 8) value
      show look none (put none s.groups a.gid ((group s a.gid).map _)) a.gid = _
      rw [look_put_same, there, old]
      rfl
  · intro syn st known kind psn
    have idle : (qp (refuseRead (setQp s q { qp s q with sendq := [] }) r.tag st) q).sendq = [] :=
      congrArg Qp.sendq ((qp_setQp ..).trans (if_pos rfl))
    obtain ⟨out, none'⟩ := pumpQp_idle _ idle
    have other : syn ≠ nakSequence := fun seq => by simp [seq, nakStatus, nakSequence, nakInvalid, nakAccess, nakOperational] at known
    refine ⟨_, (exec_nak live one kind r.psn syn).trans ?_, none', out⟩
    rw [if_neg other, known]
    dsimp only
    rw [if_pos ⟨sent, rfl⟩, failRequest_read one kind alone served]
  · rintro calm u rfl
    rw [exec_nak live one kind, if_pos rfl, exec_ackTimeout live calm one sent, retryQp_eq one]
    refine ⟨fun few => ?_, fun last => ?_⟩
    · rw [if_neg (by omega)]
      exact ⟨rfl, rfl⟩
    · rw [if_pos last]
      have error := qp_qpError s q 0xB
      exact ⟨⟨_, rfl, error⟩, _, rfl, error⟩
  · intro timer
    refine ⟨_, exec_rnrNak live one kind r.psn timer, ?_⟩
    rw [modQp, one]
    exact ⟨congrArg Qp.rnrWait ((qp_setQp ..).trans (if_pos rfl)), congrArg Qp.sendq ((qp_setQp ..).trans (if_pos rfl)), rfl⟩
  · exact fun waits => exec_rnrTimerExpiry live waits
  · refine ⟨_, exec_cnp live, ?_⟩
    rw [qp_setQp, if_pos rfl]
    refine ⟨rfl, fun none' => ?_, fun c cut => ?_⟩
    · dsimp only
      rw [none']
      rfl
    · dsimp only
      rw [cut]
      by_cases free : c.toNat + 500000 ≤ s.portTime.toNat <;> simp [mayCut, cnpGap, free]
  · refine ⟨_, exec_cnpRateIncrease live, fun past => ?_, fun c known early => ?_⟩
    · rw [if_pos (by rw [gapPast_of_all fun c hc => past c (.inl hc), gapPast_of_all fun c hc => past c (.inr hc)]; rfl), qp_setQp, if_pos rfl]
    · have held : ¬ (gapPast s.portTime (qp s q).lastCnp && gapPast s.portTime (qp s q).lastRaise) = true := by
        rcases known with known | known <;> simp [known, gapPast, early]
      rw [if_neg held]

end Sys2Proof.Machine

/-! SUPPORT. Connection messages, address resolution, timestamps and the state of the ports (R428 to R432, R438, R441, R442, R448). It settles
O55. -/

namespace Sys2Proof.Machine

/-! ### Ports -/

theorem port_setPort (s : State) (n h : Nat) (v : Port) : port (setPort s n h v) n h = v := look_put_same ..

theorem port_of_offEvents {s t : State} (h : offEvents t = offEvents s) (n k : Nat) : port t n k = port s n k := by
  have ports : t.ports = s.ports := (congrArg State.ports h : (offEvents t).ports = (offEvents s).ports)
  rw [port, ports, port]

theorem offEvents_pumpQps (l : List Nat) (s : State) : offEvents (l.foldl pumpQp s) = offEvents s := offEvents_foldl offEvents_pumpQp l s

theorem portDrops_dropFrame (s : State) (n : Nat) : look 0 (dropFrame s n).dev.portDrops n =
    BitVec.ofNat 32 (bump 0xFFFFFFFF (look 0 s.dev.portDrops n).toNat) := look_put_same ..

section
variable {s : State} {n h : Nat} (unit : (portOk n && halfOk h) = true)
include unit

theorem exec_arp (takes : portTakes s n h = true) (vlan : Nat) (ip : W32) : exec (.arp n h vlan ip) s = .next
    (if (addrFor s n h vlan (mapped ip)).isSome then emit s (.net n h "ARP_REPLY" ip.toNat) else dropFrame s n) :=
  (onUnit_next ..).2 ⟨unit, if_neg (by simp [takes])⟩

theorem exec_neighborDiscovery (takes : portTakes s n h = true) (vlan : Nat) (ip : BitVec 128) : exec (.neighborDiscovery n h vlan ip) s = .next
    (if s.image.addrs.any (fun a => a.port == n && a.half == h && a.vlan == vlan && a.v6 == some ip) then
      emit s (.net n h "NEIGHBOR_ADVERTISEMENT" ip.toNat) else dropFrame s n) :=
  (onUnit_next ..).2 ⟨unit, if_neg (by simp [takes])⟩

theorem exec_unmatchedFrame (takes : portTakes s n h = true) : exec (.unmatchedFrame n h) s = .next (dropFrame s n) :=
  (onUnit_next ..).2 ⟨unit, if_pos takes⟩

theorem exec_fecUncorrectableFrame (takes : portTakes s n h = true) : exec (.fecUncorrectableFrame n h) s = .next { s with dev := { s.dev with
    portFec := put 0 s.dev.portFec n (BitVec.ofNat 32 (bump 0xFFFFFFFF (look 0 s.dev.portFec n).toNat)) } } :=
  (onUnit_next ..).2 ⟨unit, if_neg (by simp [takes])⟩

theorem exec_pfcFrame (takes : portTakes s n h = true) (pause resume : Byte) : ∃ t, exec (.pfcFrame n h pause resume) s = .next t ∧
    port t n h = { port s n h with paused := ((port s n h).paused ||| (pause &&& s.image.lossless)) &&& ~~~resume } :=
  ⟨_, (onUnit_next ..).2 ⟨unit, if_neg (by simp [takes])⟩, (port_of_offEvents (offEvents_pumpQps ..) n h).trans (port_setPort ..)⟩

/-! ### The state of a port (R428, R441) -/

omit unit in
theorem portChange_spec (s : State) (n h st : Nat) : port (portChange s n h st) n h = { port s n h with st := st, paused := 0 } ∧
    (portChange s n h st).admission.passDue = true := by
  refine ⟨?_, rfl⟩
  have posted := offEvents_postEvents (modPort s n h fun x => { x with st := st, paused := 0 })
    (portWatchers (modPort s n h fun x => { x with st := st, paused := 0 }) n h)
  unfold portChange
  exact (port_of_offEvents (posted _) n h).trans (port_setPort ..)

theorem exec_portUp (on : alive s = true) (named : portNamed s.image n h = true) (full : Bool) : exec (.portUp n h full) s = .next
    ((qpsOn (portChange s n h (if full || decide (h ≠ 0) then 1 else 2)) n h).foldl pumpQp (portChange s n h (if full || decide (h ≠ 0) then 1 else 2))) :=
  (onUnit_next ..).2 ⟨unit, if_neg (by simp [on, named])⟩

theorem exec_portDown (on : alive s = true) : exec (.portDown n h) s = .next (if (port s n h).st = 0 then s else portChange s n h 0) := by
  refine (onUnit_next ..).2 ⟨unit, ?_⟩
  by_cases down : (port s n h).st = 0 <;> simp [on, portUpNow, down]

end

/-! ### Timestamps (R448) -/

section
variable {s : State} {m : PtpMsg} (unit : m.ok = true) (takes : portTakes s m.port m.half = true)
include unit takes

theorem exec_delayReq : exec (.delayReq m) s = .next (sendStamp s m "DELAY_RESP") := (onUnit_next ..).2 ⟨unit, if_pos takes⟩

theorem exec_pdelayReq : exec (.pdelayReq m) s = .next (sendStamp (sendStamp s m "PDELAY_RESP") m "PDELAY_RESP_FOLLOW_UP") :=
  (onUnit_next ..).2 ⟨unit, if_pos takes⟩

end

/-! ### Connection messages (R432, R441, R442) -/

section
variable {s : State}

/-- A message within the rate of its port is taken; only the port's count of messages has changed before. -/
theorem takeMad_within {n : Nat} (calm : s.restart.active = false) (within : (port s n 0).mads < 10000) (f : State → State) :
    ∃ v, takeMad s n f = f (setPort s n 0 v) := by
  unfold takeMad
  dsimp only
  rw [if_neg (by simp [calm])]
  split
  · exact ⟨_, rfl⟩
  · rw [if_neg (by omega)]
    exact ⟨_, rfl⟩

theorem exec_req_unknown {m : CmReq} (unit : m.ok = true) (takes : portTakes s m.port m.half = true)
    (unknown : addrFor s m.port m.half m.vlan m.dstIp = none) : exec (.req m) s = .next (dropFrame s m.port) := by
  refine (onUnit_next ..).2 ⟨unit, (if_neg (by simp [takes])).trans ?_⟩
  rw [unknown]

theorem exec_req {m : CmReq} {a : AddrCfg} (unit : m.ok = true) (takes : portTakes s m.port m.half = true) (calm : s.restart.active = false)
    (within : (port s m.port 0).mads < 10000) (known : addrFor s m.port m.half m.vlan m.dstIp = some a) : ∃ v, exec (.req m) s = .next
      (match freeQp s a.part with
       | none => emit (setPort s m.port 0 v) (.cm m.port m.half "REJ" 0 1)
       | some q =>
         let u := setPort s m.port 0 v
         let x := { (freshQp u .repSent m.port m.half none).1 with
           peerIp := m.srcIp, peerQpn := m.peerQpn, expectPsn := m.peerPsn % psnSpace, mtu := settleMtu m.mtu, depth := settleDepth m.depth }
         emit (setQp (freeVal u).2 q x) (.cm m.port m.half "REP" q x.nextPsn)) := by
  obtain ⟨v, taken⟩ := takeMad_within calm within fun s => match freeQp s a.part with
    | none => emit s (.cm m.port m.half "REJ" 0 1)
    | some q =>
      let (x, s) := freshQp s .repSent m.port m.half none
      let x := { x with peerIp := m.srcIp, peerQpn := m.peerQpn, expectPsn := m.peerPsn % psnSpace, mtu := settleMtu m.mtu, depth := settleDepth m.depth }
      emit (setQp s q x) (.cm m.port m.half "REP" q x.nextPsn)
  refine ⟨v, (onUnit_next ..).2 ⟨unit, (if_neg (by simp [takes])).trans ?_⟩⟩
  rw [known]
  exact taken

theorem cmFor_taken {q : Nat} {is : QpState → Bool} (takes : portTakes s (qp s q).port (qp s q).half = true) (range : q < 65536)
    (calm : s.restart.active = false) (within : (port s (qp s q).port 0).mads < 10000) (st : is (qp s q).st = true) (f : State → State) :
    ∃ v, cmFor s q is f = f (setPort s (qp s q).port 0 v) := by
  obtain ⟨v, taken⟩ := takeMad_within calm within f
  exact ⟨v, (if_neg (by simp [takes, range, st])).trans taken⟩

theorem samePairs_releaseEvents (p k : Nat) (s : State) : SamePairs s (releaseEvents p k s) := by
  induction k generalizing s with
  | zero => exact .rfl
  | succ k ih =>
    unfold releaseEvents
    split
    · exact .rfl
    · split
      · exact .rfl
      · exact ((samePairs_of_qps (s := s) (t := modPart s p _) rfl).trans (samePairs_deliverEvent ..)).trans (ih _)

theorem samePairs_ringReady (s : State) (q : Nat) : SamePairs s (ringReady s q) := by
  unfold ringReady
  split
  · split
    · exact samePairs_releaseEvents ..
    · exact .rfl
  · exact .rfl

theorem qp_emit (s : State) (o : Out) (q : Nat) : qp (emit s o) q = qp s q := rfl

theorem qp_modQp (s : State) (q : Nat) (f : Qp → Qp) : qp (modQp s q f) q = f (qp s q) := (qp_setQp ..).trans (if_pos rfl)

section
variable {q : Nat} (takes : portTakes s (qp s q).port (qp s q).half = true) (range : q < 65536) (calm : s.restart.active = false)
  (within : (port s (qp s q).port 0).mads < 10000)
include takes range calm within

/-- RTU makes the queue pair ready, which keeps all but its requests (R432). -/
theorem exec_rtu (st : (qp s q).st = .repSent) : ∃ t, exec (.rtu q) s = .next t ∧
    offQueue (qp t q) = offQueue { qp s q with st := .ready } := by
  obtain ⟨v, taken⟩ := cmFor_taken (is := (· == .repSent)) takes range calm within (by rw [st]; rfl)
    fun s => qpEvent (ringReady (modQp s q fun x => { x with st := .ready }) q) q 0 0
  refine ⟨_, (onUnit_next ..).2 ⟨rfl, taken⟩, ?_⟩
  rw [((samePairs_ringReady ..).trans (samePairs_qpEvent ..)).pair, qp_modQp]
  rfl

/-- REP makes the window's queue pair ready, and RTU goes out (R442). -/
theorem exec_rep (st : (qp s q).st = .reqSent) (qpn psn mtu depth : Nat) : ∃ t, exec (.rep q qpn psn mtu depth) s = .next t ∧
    offQueue (qp t q) = offQueue { qp s q with st := .ready, peerQpn := qpn, expectPsn := psn % psnSpace, mtu := settleMtu mtu, depth := settleDepth depth } ∧
    Out.cm (qp s q).port (qp s q).half "RTU" q 0 ∈ t.out := by
  obtain ⟨v, taken⟩ := cmFor_taken (is := (· == .reqSent)) takes range calm within (by rw [st]; rfl) fun s =>
    let s := modQp s q fun x => { x with st := .ready, peerQpn := qpn, expectPsn := psn % psnSpace, mtu := settleMtu mtu, depth := settleDepth depth }
    qpEvent (emit s (.cm (qp s q).port (qp s q).half "RTU" q 0)) q 0 0
  refine ⟨_, (onUnit_next ..).2 ⟨rfl, taken⟩, ?_, ?_⟩
  · rw [(samePairs_qpEvent ..).pair, qp_emit, qp_modQp]
    rfl
  · dsimp only
    rw [qp_modQp]
    exact (kept_qpEvent .rfl).out.subset (List.mem_append_right _ (List.mem_singleton_self _))

/-- REJ frees the queue pair (R442). -/
theorem exec_rej (st : (qp s q).st = .reqSent) (reason : Nat) : ∃ t, exec (.rej q reason) s = .next t ∧
    qp t q = { qp s q with st := .free } ∧ t.out = s.out := by
  obtain ⟨v, taken⟩ := cmFor_taken (is := (· == .reqSent)) takes range calm within (by rw [st]; rfl) fun s => modQp s q fun x => { x with st := .free }
  exact ⟨_, (onUnit_next ..).2 ⟨rfl, taken⟩, qp_modQp .., rfl⟩

/-- DREQ puts the queue pair into the error state and is answered (R441). -/
theorem exec_dreq (st : (qp s q).st = .ready ∨ (qp s q).st = .repSent) : ∃ t, exec (.dreq q) s = .next t ∧ (qp t q).st = .error ∧
    (qp t q).sendq = [] ∧ Out.cm (qp s q).port (qp s q).half "DREP" q 0 ∈ t.out := by
  obtain ⟨v, taken⟩ := cmFor_taken (is := fun st => st == .ready || st == .repSent) takes range calm within
    (by rcases st with st | st <;> rw [st] <;> rfl) fun s => qpError (emit s (.cm (qp s q).port (qp s q).half "DREP" q 0)) q 0xC
  obtain ⟨error, none'⟩ := qp_qpError (emit (setPort s (qp s q).port 0 v) (.cm (qp s q).port (qp s q).half "DREP" q 0)) q 0xC
  refine ⟨_, (onUnit_next ..).2 ⟨rfl, taken⟩, error, none', ?_⟩
  exact (kept_qpError .rfl).out.subset (List.mem_append_right _ (List.mem_singleton_self _))

/-- DREP changes no queue pair (R432). -/
theorem exec_drep : ∃ t, exec (.drep q) s = .next t ∧ t.qps = s.qps ∧ t.out = s.out := by
  obtain ⟨v, taken⟩ := cmFor_taken (is := fun _ => true) takes range calm within rfl fun s => s
  exact ⟨_, (onUnit_next ..).2 ⟨rfl, taken⟩, rfl, rfl⟩

end

theorem exec_windowReqRetry {i : Nat} {w : WindowCfg} (window : s.image.windows[i]? = some w) (takes : portTakes s w.port w.half = true)
    (calm : s.restart.active = false) : exec (.windowReqRetry i) s = .next (if (qp s w.qp).st = .ready then s
      else emit (setQp (freeVal s).2 w.qp { (freshQp s .reqSent w.port w.half (some i)).1 with peerIp := w.peerIp })
        (.cm w.port w.half "REQ" w.qp (freshQp s .reqSent w.port w.half (some i)).1.nextPsn)) := by
  refine (onUnit_next ..).2 ⟨rfl, ?_⟩
  rw [window]
  by_cases ready : (qp s w.qp).st = .ready
  · rw [if_pos ready]
    exact if_pos (by simp [ready])
  · rw [if_neg ready]
    exact if_neg (by simp [takes, calm, ready])

end

/-! ### The obligation -/

theorem answers_req {s : State} {m : CmReq} {a : AddrCfg} (unit : m.ok = true) (takes : portTakes s m.port m.half = true)
    (calm : s.restart.active = false) (within : (port s m.port 0).mads < 10000) (known : addrFor s m.port m.half m.vlan m.dstIp = some a) :
    (freeQp s a.part = none → ∃ t, exec (.req m) s = .next t ∧ t.out = s.out ++ [.cm m.port m.half "REJ" 0 1] ∧ t.qps = s.qps) ∧
    ∀ q, freeQp s a.part = some q → ∃ t, exec (.req m) s = .next t ∧ (qp t q).st = .repSent ∧ (qp t q).port = m.port ∧
      (qp t q).half = m.half ∧ (qp t q).peerQpn = m.peerQpn ∧ (qp t q).expectPsn = m.peerPsn % psnSpace ∧
      (qp t q).mtu = Nat.min m.mtu 4096 ∧ (qp t q).depth = Nat.min m.depth 16 ∧ t.out = s.out ++ [.cm m.port m.half "REP" q (qp t q).nextPsn] := by
  obtain ⟨v, answer⟩ := exec_req unit takes calm within known
  refine ⟨fun full => ?_, fun q free => ?_⟩
  · rw [full] at answer
    exact ⟨_, answer, rfl, rfl⟩
  · rw [free] at answer
    refine ⟨_, answer, ?_⟩
    rw [qp_emit, qp_setQp, if_pos rfl]
    exact ⟨rfl, rfl, rfl, rfl, rfl, rfl, rfl, rfl⟩

theorem connectionMessages {s : State} {q : Nat} (qpn psn mtu depth reason : Nat) (takes : portTakes s (qp s q).port (qp s q).half = true)
    (range : q < 65536) (calm : s.restart.active = false) (within : (port s (qp s q).port 0).mads < 10000) :
    ((qp s q).st = .repSent → ∃ t, exec (.rtu q) s = .next t ∧ (qp t q).st = .ready ∧ (qp t q).expectPsn = (qp s q).expectPsn) ∧
    ((qp s q).st = .reqSent → (∃ t, exec (.rep q qpn psn mtu depth) s = .next t ∧
        (qp t q).st = .ready ∧ (qp t q).peerQpn = qpn ∧ (qp t q).expectPsn = psn % psnSpace ∧ (qp t q).mtu = Nat.min mtu 4096 ∧
        (qp t q).depth = Nat.min depth 16 ∧ Out.cm (qp s q).port (qp s q).half "RTU" q 0 ∈ t.out) ∧
      ∃ t, exec (.rej q reason) s = .next t ∧ qp t q = { qp s q with st := .free } ∧ t.out = s.out) := by
  refine ⟨fun st => ?_, fun st => ⟨?_, exec_rej takes range calm within st reason⟩⟩
  · obtain ⟨t, step, pair⟩ := exec_rtu takes range calm within st
    have ready := congrArg Qp.st pair
    have expect := congrArg Qp.expectPsn pair
    exact ⟨t, step, ready, expect⟩
  · obtain ⟨t, step, pair, sent⟩ := exec_rep takes range calm within st qpn psn mtu depth
    have ready := congrArg Qp.st pair
    have peer := congrArg Qp.peerQpn pair
    have expect := congrArg Qp.expectPsn pair
    have settled := congrArg Qp.mtu pair
    have outstanding := congrArg Qp.depth pair
    exact ⟨t, step, ready, peer, expect, settled, outstanding, sent⟩

/-- Settles O55: each connection message changes its queue pair alone, and each frame of a port its answer, its count or its state. -/
theorem connectionsAndPorts : Obligations.ConnectionsAndPorts := by
  unfold Obligations.ConnectionsAndPorts
  refine ⟨⟨fun s m a unit takes calm within known => answers_req unit takes calm within known,
    fun s m unit takes unknown => exec_req_unknown unit takes unknown, ?_, fun s i w window takes calm => ⟨fun ready => ?_, fun ready => ?_⟩⟩,
    fun s n h vlan ip4 ip6 unit takes => ⟨exec_arp unit takes vlan ip4, exec_neighborDiscovery unit takes vlan ip6, ?_, ?_, fun pause resume => ?_⟩,
    ?_, fun s n h unit on => ⟨fun named full => ?_, fun up => ?_, fun down => ?_⟩⟩
  · rintro s q qpn psn mtu depth reason x rfl takes range calm within
    obtain ⟨rtu, rep⟩ := connectionMessages qpn psn mtu depth reason takes range calm within
    exact ⟨rtu, rep, fun st => exec_dreq takes range calm within st, exec_drep takes range calm within⟩
  · rw [exec_windowReqRetry window takes calm, if_pos ready]
  · refine ⟨_, (exec_windowReqRetry window takes calm).trans (by rw [if_neg ready]), ?_⟩
    rw [qp_emit, qp_setQp, if_pos rfl]
    exact ⟨rfl, rfl, rfl⟩
  · exact ⟨_, exec_unmatchedFrame unit takes, portDrops_dropFrame s n, rfl⟩
  · exact ⟨_, exec_fecUncorrectableFrame unit takes, look_put_same .., rfl⟩
  · obtain ⟨t, step, paused⟩ := exec_pfcFrame unit takes pause resume
    exact ⟨t, step, by rw [paused]⟩
  · rintro s m k a b unit takes rfl rfl rfl
    exact ⟨exec_delayReq unit takes, exec_pdelayReq unit takes⟩
  · obtain ⟨state, due⟩ := portChange_spec s n h (if full || decide (h ≠ 0) then 1 else 2)
    have sent := offEvents_pumpQps (qpsOn (portChange s n h (if full || decide (h ≠ 0) then 1 else 2)) n h)
      (portChange s n h (if full || decide (h ≠ 0) then 1 else 2))
    refine ⟨_, exec_portUp unit on named full, ?_, ?_⟩
    · rw [port_of_offEvents sent, state]
      simp
    · rw [admission_of_offEvents sent, due]
  · obtain ⟨state, due⟩ := portChange_spec s n h 0
    exact ⟨_, (exec_portDown unit on).trans (by rw [if_neg up]), by rw [state], by rw [state], due⟩
  · rw [exec_portDown unit on, if_pos down]

end Sys2Proof.Machine

/-! SUPPORT. Requests of peers at a queue pair that serves (R431 to R440). It settles O53. -/

namespace Sys2Proof.Machine

/-! ### What a write of a peer leaves of the queue pairs (R36) -/

section
variable (s : State)

theorem samePairs_stopQueue (p q cause : Nat) (seq : W32) (index : Nat) : SamePairs s (stopQueue s p q cause seq index) := by
  unfold stopQueue
  exact SamePairs.trans (samePairs_of_qps (s := s) (t := modQueue s p q _) rfl) (samePairs_postEvent ..)

theorem samePairs_ringTail (p q : Nat) (tail : W32) : SamePairs s (ringTail s p q tail) := by
  unfold ringTail
  dsimp only
  split
  · exact .rfl
  · split
    · exact samePairs_stopQueue ..
    · exact samePairs_of_qps rfl

theorem samePairs_ctlResync (p q : Nat) : SamePairs s (ctlResync s p q) := by
  unfold ctlResync
  dsimp only
  split
  · exact .rfl
  · split
    · exact samePairs_of_qps rfl
    · split
      · exact samePairs_of_qps rfl
      · exact samePairs_stopQueue ..

theorem samePairs_writeEvTail (p : Nat) (v : W32) : SamePairs s (writeEvTail s p v) := by
  have tail : SamePairs s (modPart s p fun r => { r with evTail := v }) := samePairs_of_qps rfl
  unfold writeEvTail
  dsimp only
  split
  · exact tail
  · exact tail.trans (samePairs_releaseEvents ..)

theorem samePairs_retireOctet (i k : Nat) : SamePairs s (retireOctet s i k true) := by
  unfold retireOctet
  dsimp only
  split
  · exact .rfl
  · split
    · exact .rfl
    · exact SamePairs.trans (SamePairs.trans (samePairs_of_qps (s := s) (t := emit (setLink s i _) _) rfl) (samePairs_postEvent ..))
        (samePairs_of_qps rfl)

theorem samePairs_startRecal (i : Nat) : SamePairs s (startRecal s i) := by
  unfold startRecal
  split
  · exact .rfl
  · exact samePairs_of_qps rfl

theorem samePairs_quoteGo : SamePairs s (quoteGo s) := by
  unfold quoteGo
  split
  · exact .rfl
  · exact samePairs_of_qps rfl

/-- A write of a register posts events, no more, on the queue pairs. -/
theorem samePairs_regWrite (off : Nat) (v : W64) : SamePairs s (regWrite s off v) := by
  unfold regWrite
  split
  case h_1 p o _ =>
    split
    · dsimp only
      split
      · exact samePairs_ringTail ..
      · have discarded : SamePairs s (if v.getLsbD 1 = true then ctlDiscard s p ((o - 0x1000) / 0x40) else s) := by
          split
          · exact samePairs_of_qps rfl
          · exact .rfl
        split
        · exact discarded.trans (samePairs_ctlResync ..)
        · exact discarded
      · exact .rfl
    · split
      · exact samePairs_writeEvTail ..
      · exact .rfl
  case h_2 =>
    split
    · exact samePairs_of_qps rfl
    · exact .rfl
  case h_3 o _ =>
    split
    · have retired : SamePairs s (retireMask s (o / 0x100) (v.extractLsb' 16 12)) :=
        samePairs_foldl (fun t k => samePairs_retireOctet t _ k) _ s
      split
      · exact retired.trans (samePairs_startRecal ..)
      · exact retired
    · exact .rfl
  case h_4 =>
    split
    · exact samePairs_of_qps rfl
    · split
      · split
        · exact samePairs_quoteGo s
        · exact .rfl
      · exact .rfl
  case h_5 => exact .rfl

theorem qps_of_offMemory {s t : State} (h : offMemory t = offMemory s) : t.qps = s.qps :=
  (congrArg State.qps h : (offMemory t).qps = (offMemory s).qps)

theorem samePairs_writePhys (pa : Nat) (bs : List Byte) (attr : Nat) : SamePairs s (writePhys s pa bs attr) :=
  samePairs_of_qps (qps_of_offMemory (offMemory_writePhys ..))

theorem samePairs_writeAny (pa : Nat) (bs : List Byte) (attr : Nat) : SamePairs s (writeAny s pa bs attr) := by
  unfold writeAny
  split
  · exact samePairs_foldl (fun t i => samePairs_regWrite t _ _) _ s
  · exact samePairs_writePhys ..

end

/-! ### The eight bytes of an atomic operation (R434) -/

theorem leNat_lt (l : List Byte) : leNat l < 2 ^ (8 * l.length) := by
  induction l with
  | nil => exact Nat.one_pos
  | cons b l ih =>
    have byte := b.isLt
    rw [leNat, List.length_cons, Nat.mul_add, Nat.pow_add]
    omega

theorem length_readBytes (m : List Host.Cell) (a n : Nat) : (readBytes m a n).length = n := by
  induction n generalizing a with
  | zero => rfl
  | succ n ih => rw [readBytes, List.length_cons, ih]

theorem readPhysLE_lt (s : State) {a : Nat} (aligned : a % 8 = 0) : readPhysLE s a 8 < 2 ^ 64 := by
  have bounded : (readPhys s a 8).length ≤ 8 := by
    unfold readPhys
    split
    · exact (length_readBytes ..).le
    · have one : (a % 128 + 8 + 127) / 128 = 1 := by omega
      rw [one]
      simp only [List.range_one, List.foldl_cons, List.foldl_nil, List.nil_append, List.length_take]
      have upper := Nat.min_le_left (a + 8) ((a / 128 + 0) * 128 + 128)
      have lower := Nat.le_max_left a ((a / 128 + 0) * 128)
      exact (Nat.min_le_left ..).trans ((tsub_le_tsub upper lower).trans (Nat.add_sub_cancel_left ..).le)
  exact (leNat_lt _).trans_le (Nat.pow_le_pow_right (by decide) (by omega))

theorem intOp_add (old operand : Nat) : intOp 8 0 old operand 0 = (old + operand) % 2 ^ 64 := (Nat.add_mod ..).symm

theorem intOp_cas {old : Nat} (bounded : old < 2 ^ 64) (x y : W64) :
    intOp 8 7 old y.toNat x.toNat = if old = x.toNat then y.toNat else old := by
  have small : ∀ v : W64, v.toNat % 2 ^ (8 * 8) = v.toNat := fun v => Nat.mod_eq_of_lt v.isLt
  show (if old % 2 ^ (8 * 8) = x.toNat % 2 ^ (8 * 8) then y.toNat % 2 ^ (8 * 8) else old % 2 ^ (8 * 8)) = _
  rw [small, small, Nat.mod_eq_of_lt bounded]

/-! ### A request in, ahead of and behind its turn (R431, R436, R440) -/

theorem expectPsn_notifyCe (s : State) (q : Nat) (ce : Bool) : (qp (notifyCe s q ce) q).expectPsn = (qp s q).expectPsn := by
  unfold notifyCe
  extract_lets x free
  split
  · rw [qp_emit, qp_setQp, if_pos rfl]
  · rfl

section
variable {s : State} {k : RcPacket} {q p : Nat}

theorem takeRequest_arrives (h : Arrives s k q p) (serve again : State → Nat → Nat → State) : takeRequest s k serve again =
    if psnAhead k.psn (qp s q).expectPsn = 0 then serve (notifyCe s q k.ce) q p
    else if psnAhead k.psn (qp s q).expectPsn < psnSpace / 2 then sendNak (notifyCe s q k.ce) q k.psn nakSequence
    else again (notifyCe s q k.ce) q p := by
  have open' : ¬ ((qp s q).st ≠ .ready || (qp s q).window.isSome) = true := by simp [h.ready, h.own]
  unfold takeRequest
  rw [if_neg (by simp [h.takes]), h.found]
  dsimp only
  rw [if_neg open', if_neg (by simp [h.calm]), h.owner, Option.getD_some, expectPsn_notifyCe]

theorem takeRequest_unknown (takes : portTakes s k.port k.half = true) (none' : qpOf s k = none) (serve again : State → Nat → Nat → State) :
    takeRequest s k serve again = dropFrame s k.port := by
  unfold takeRequest
  rw [if_neg (by simp [takes]), none']

theorem takeRequest_restarting (takes : portTakes s k.port k.half = true) (found : qpOf s k = some q) (ready : (qp s q).st = .ready)
    (own : (qp s q).window = none) (restart : s.restart.active = true) (serve again : State → Nat → Nat → State) :
    takeRequest s k serve again = emit s (.rc q "RNR_NAK" k.psn [0]) := by
  unfold takeRequest
  rw [if_neg (by simp [takes]), found]
  dsimp only
  rw [if_neg (by simp [ready, own]), if_pos restart]

theorem psnAhead_self {a : Nat} (h : a < psnSpace) : psnAhead a a = 0 := by
  rw [psnAhead, Nat.mod_eq_of_lt h, Nat.add_sub_cancel_left, Nat.mod_self]

/-- Every request of a peer is taken by its own service. -/
theorem exec_request (unit : k.ok = true) (x y : W64) {r : Instr}
    (hr : r ∈ [Instr.rdmaWrite k, .rdmaReadRequest k, .fetchAdd k x, .cmpSwap k x y, .unsupportedOperation k]) :
    ∃ serve again, exec r s = .next (takeRequest s k serve again) := by
  simp only [List.mem_cons, List.not_mem_nil, or_false] at hr
  rcases hr with rfl | rfl | rfl | rfl | rfl
  all_goals exact ⟨_, _, (onUnit_next ..).2 ⟨unit, rfl⟩⟩

section
variable (h : Arrives s k q p) {u : State} (hu : u = notifyCe s q k.ce)
include h hu

theorem exec_unsupportedOperation : exec (.unsupportedOperation k) s = .next
    (if psnAhead k.psn (qp s q).expectPsn ≠ 0 ∧ psnAhead k.psn (qp s q).expectPsn < psnSpace / 2 then sendNak u q k.psn nakSequence
     else sendNak u q k.psn nakInvalid) := by
  refine (onUnit_next ..).2 ⟨h.unit, ?_⟩
  rw [takeRequest_arrives h, ← hu]
  by_cases turn : psnAhead k.psn (qp s q).expectPsn = 0
  · simp [turn]
  · simp [turn]

theorem exec_request_ahead (ahead : 0 < psnAhead k.psn (qp s q).expectPsn) (near : psnAhead k.psn (qp s q).expectPsn < psnSpace / 2) (x y : W64)
    {r : Instr} (hr : r ∈ [Instr.rdmaWrite k, .rdmaReadRequest k, .fetchAdd k x, .cmpSwap k x y]) :
    exec r s = .next (sendNak u q k.psn nakSequence) := by
  obtain ⟨serve, again, step⟩ := exec_request (s := s) h.unit x y (List.mem_append_left [.unsupportedOperation k] hr)
  rw [step, takeRequest_arrives h, if_neg (by omega), if_pos near, hu]

theorem exec_rdmaWrite_repeated (behind : psnSpace / 2 ≤ psnAhead k.psn (qp s q).expectPsn) :
    exec (.rdmaWrite k) s = .next (sendAck u q k.psn) := by
  have late : ¬ psnAhead k.psn (qp s q).expectPsn = 0 := fun zero => by simp [zero, psnSpace] at behind
  refine (onUnit_next ..).2 ⟨h.unit, ?_⟩
  rw [takeRequest_arrives h, if_neg late, if_neg (by omega), hu]

section
variable (turn : k.psn = (qp s q).expectPsn) (psn : k.psn < psnSpace)
include turn psn

omit hu in
theorem takeRequest_turn (serve again : State → Nat → Nat → State) : takeRequest s k serve again = serve (notifyCe s q k.ce) q p := by
  rw [takeRequest_arrives h, ← turn, if_pos (psnAhead_self psn)]

theorem exec_rdmaWrite : exec (.rdmaWrite k) s = .next (if requestFine u p k k.data.length true = true then
    (if k.last then sendAck else fun z _ _ => z) (passRequest (writeAny u k.va.toNat k.data 0) q 1 k.last) q k.psn
    else sendNak u q k.psn nakAccess) := by
  refine (onUnit_next ..).2 ⟨h.unit, ?_⟩
  rw [takeRequest_turn h turn psn, ← hu]
  by_cases fine : requestFine u p k k.data.length true = true
  · rw [if_pos fine, fine]
    cases k.last <;> rfl
  · rw [if_neg fine, Bool.eq_false_of_not_eq_true fine]
    rfl

theorem exec_rdmaReadRequest : exec (.rdmaReadRequest k) s = .next (if requestFine u p k k.len false = true then
      if poisonAny u k.va.toNat k.len = 0 then passRequest (answerReads u q k) q (packets (qp u q).mtu k.len) true else answerReads u q k
    else sendNak u q k.psn nakAccess) := by
  refine (onUnit_next ..).2 ⟨h.unit, ?_⟩
  rw [takeRequest_turn h turn psn, ← hu]
  by_cases fine : requestFine u p k k.len false = true
  · rw [if_pos fine]
    by_cases clean : poisonAny u k.va.toNat k.len = 0 <;> simp [fine, clean]
  · rw [if_neg fine]
    simp [fine]

theorem exec_fetchAdd (x : W64) : exec (.fetchAdd k x) s = .next (serveAtomic u q p k 0 x.toNat 0) :=
  (onUnit_next ..).2 ⟨h.unit, by rw [takeRequest_turn h turn psn, hu]⟩

theorem exec_cmpSwap (x y : W64) : exec (.cmpSwap k x y) s = .next (serveAtomic u q p k 7 y.toNat x.toNat) :=
  (onUnit_next ..).2 ⟨h.unit, by rw [takeRequest_turn h turn psn, hu]⟩

end
end
end

/-- An atomic operation at an address that fails the checks is refused. -/
theorem serveAtomic_refused {u : State} {k : RcPacket} {q p : Nat} (memory : isRegister u k.va.toNat = false) (aligned : k.va.toNat % 8 = 0)
    (refused : requestFine u p k 8 true = false) (op operand comparand : Nat) :
    serveAtomic u q p k op operand comparand = sendNak u q k.psn nakAccess := by
  simp [serveAtomic, memory, aligned, refused]

/-- An atomic operation that passes its checks acts once and answers the old value. -/
theorem serveAtomic_served {u : State} {k : RcPacket} {q p : Nat} (fine : requestFine u p k 8 true = true) (memory : isRegister u k.va.toNat = false)
    (aligned : k.va.toNat % 8 = 0) (clean : poisonAny u k.va.toNat 8 = 0) (op operand comparand : Nat) :
    (serveAtomic u q p k op operand comparand).out.getLast? = some (.rc q "ATOMIC_ACKNOWLEDGE" k.psn (beBytes 8 (readPhysLE u k.va.toNat 8))) ∧
    (qp (serveAtomic u q p k op operand comparand) q).expectPsn = ((qp u q).expectPsn + 1) % psnSpace ∧
    (serveAtomic u q p k op operand comparand).mem =
      (writePhys u k.va.toNat (leBytes 8 (intOp 8 op (readPhysLE u k.va.toNat 8) operand comparand)) 0).mem ∧
    (serveAtomic u q p k op operand comparand).slices =
      (writePhys u k.va.toNat (leBytes 8 (intOp 8 op (readPhysLE u k.va.toNat 8) operand comparand)) 0).slices := by
  have served : ∀ t : State, SamePairs u t → (qp (modQp (passRequest t q 1 true) q fun x =>
      { x with answers := ((k.psn, readPhysLE u k.va.toNat 8) :: x.answers).take 16 }) q).expectPsn = ((qp u q).expectPsn + 1) % psnSpace := fun t same => by
    rw [qp_modQp, passRequest, qp_modQp]
    dsimp only
    rw [same.expectPsn]
  have shape := served _ (samePairs_writePhys u k.va.toNat (leBytes 8 (intOp 8 op (readPhysLE u k.va.toNat 8) operand comparand)) 0)
  unfold serveAtomic
  dsimp only
  rw [if_neg (by simp [memory, aligned]), if_neg (by simp [fine]), if_neg (by simp [clean])]
  generalize writePhys u k.va.toNat (leBytes 8 (intOp 8 op (readPhysLE u k.va.toNat 8) operand comparand)) 0 = w at shape ⊢
  exact ⟨List.getLast?_concat .., shape, rfl, rfl⟩

/-- Settles O53: a request in its turn is served or refused by the checks, one ahead or behind is answered as such. -/
theorem responderServes : Obligations.ResponderServes := by
  unfold Obligations.ResponderServes
  refine ⟨fun s u k q p x y h hu => ⟨fun turn psn => ⟨?_, fun fine => ?_, fun fine clean => ?_, ?_, ?_⟩, exec_unsupportedOperation h hu,
    fun ahead near r hr => exec_request_ahead h hu ahead near x y hr, exec_rdmaWrite_repeated h hu⟩,
    fun s k x y unit takes r hr => ⟨fun none' => ?_, fun q found ready own restart => ?_⟩⟩
  · rintro n rfl
    refine ⟨fun refused => ?_, fun refused => ?_, fun memory aligned refused => ⟨?_, ?_⟩⟩
    · rw [exec_rdmaWrite h hu turn psn, if_neg (by simp [refused])]
    · rw [exec_rdmaReadRequest h hu turn psn, if_neg (by simp [refused])]
    · rw [exec_fetchAdd h hu turn psn, serveAtomic_refused memory aligned refused]
    · rw [exec_cmpSwap h hu turn psn, serveAtomic_refused memory aligned refused]
  · refine ⟨_, (exec_rdmaWrite h hu turn psn).trans (by rw [if_pos fine]), rfl, ?_⟩
    have passed : ∀ last, (qp (passRequest (writeAny u k.va.toNat k.data 0) q 1 last) q).expectPsn = (k.psn + 1) % psnSpace := fun last => by
      rw [passRequest, qp_modQp]
      dsimp only
      rw [(samePairs_writeAny ..).expectPsn, hu, expectPsn_notifyCe, turn]
    cases k.last
    · exact passed _
    · exact passed _
  · rw [exec_rdmaReadRequest h hu turn psn, if_pos fine, if_pos clean]
  · rintro fine memory aligned clean old w rfl rfl
    obtain ⟨out, expect, mem, slices⟩ := serveAtomic_served (q := q) fine memory aligned clean 0 x.toNat 0
    rw [intOp_add] at mem slices
    exact ⟨_, exec_fetchAdd h hu turn psn x, out, by rw [expect, turn, hu, expectPsn_notifyCe], mem, slices⟩
  · rintro fine memory aligned clean old w rfl rfl
    obtain ⟨out, expect, mem, slices⟩ := serveAtomic_served (q := q) fine memory aligned clean 7 y.toNat x.toNat
    rw [intOp_cas (readPhysLE_lt u aligned)] at mem slices
    exact ⟨_, exec_cmpSwap h hu turn psn x y, out, by rw [expect, turn, hu, expectPsn_notifyCe], mem, slices⟩
  · obtain ⟨serve, again, step⟩ := exec_request (s := s) unit x y hr
    rw [step, takeRequest_unknown takes none']
  · obtain ⟨serve, again, step⟩ := exec_request (s := s) unit x y hr
    rw [step, takeRequest_restarting takes found ready own restart]

end Sys2Proof.Machine

/-! SUPPORT. Waits on memory and peers, budgets, admission passes and time slices (R379, R402 to R413, R447). It settles O41. -/

namespace Sys2Proof.Machine

/-! ### Waits (R379, R447) -/

section
variable {s : State} {t : Task} {l : Launch} {n : List Byte} (here : taskOf s t.tag = some t) (launch : launchOf s t.launch = some l)
include here launch

section
variable (hn : n = launchNode s l t.node) (kind : t.kind = 3) (runs : t.st = .running) (calm : s.restart.active = false)
include hn kind runs calm

theorem exec_hostSyncPoll : exec (.hostSyncPoll t.tag) s = .next
    (match accessCheck s t.part (nBase n) (nMode n == 2) (regShape (nBase n) 8) with
     | some c => taskDone (failTask s t.tag c) t.tag
     | none =>
       if isRemote s (nBase n) then pollRemote s l t n
       else if nMode n == 2 then endSync (writeAny s (nBase n) (leBytes 8 (syncValue l n)) 0) l t
       else if poisonAny s (nBase n) 8 ≠ 0 then taskDone (failTask s t.tag (poisonAny s (nBase n) 8).toNat) t.tag
       else if syncMet n (leNat (readAny s (nBase n) 8)) (syncValue l n) then endSync (agentReads s (nBase n) 8 0 true) l t
       else agentReads s (nBase n) 8 0 true) := by
  subst hn
  refine (onUnit_next ..).2 ⟨rfl, ?_⟩
  rw [here]
  dsimp only
  rw [launch]
  exact if_neg (by simp [kind, runs, calm])

theorem exec_hostSyncPoll_refused {c : Nat} (refused : accessCheck s t.part (nBase n) (nMode n == 2) (regShape (nBase n) 8) = some c) :
    exec (.hostSyncPoll t.tag) s = .next (taskDone (failTask s t.tag c) t.tag) := by
  rw [exec_hostSyncPoll here launch hn kind runs calm, refused]

section
variable (passed : accessCheck s t.part (nBase n) (nMode n == 2) (regShape (nBase n) 8) = none) (near : isRemote s (nBase n) = false)
include passed near

theorem exec_hostSyncPoll_write (mode : nMode n = 2) :
    exec (.hostSyncPoll t.tag) s = .next (endSync (writeAny s (nBase n) (leBytes 8 (syncValue l n)) 0) l t) := by
  rw [exec_hostSyncPoll here launch hn kind runs calm, passed]
  dsimp only
  rw [if_neg (by simp [near]), if_pos (by simp [mode])]

theorem exec_hostSyncPoll_wait (mode : nMode n ≠ 2) (clean : poisonAny s (nBase n) 8 = 0) : exec (.hostSyncPoll t.tag) s = .next
    (if (if nMode n = 0 then syncValue l n ≤ leNat (readAny s (nBase n) 8) else leNat (readAny s (nBase n) 8) = syncValue l n)
     then endSync (agentReads s (nBase n) 8 0 true) l t else agentReads s (nBase n) 8 0 true) := by
  have met : syncMet n (leNat (readAny s (nBase n) 8)) (syncValue l n) = true ↔
      (if nMode n = 0 then syncValue l n ≤ leNat (readAny s (nBase n) 8) else leNat (readAny s (nBase n) 8) = syncValue l n) := by
    unfold syncMet
    split <;> simp
  rw [exec_hostSyncPoll here launch hn kind runs calm, passed]
  dsimp only
  rw [if_neg (by simp [near]), if_neg (by simp [mode]), if_neg (by simp [clean])]
  simp only [met]

end
end

theorem exec_controlSegmentPoll (kind : t.kind = 2) (scope : nScope (launchNode s l t.node) = 1) (runs : t.st = .running) (fine : t.fault = 0)
    (aborted arrived : Bool) : exec (.controlSegmentPoll t.tag aborted arrived) s = .next
      (if aborted then failTask s t.tag 0x9D else if arrived then emit s (.front "COLL_PROCEED" t.tag t.part) else s) := by
  refine (onUnit_next ..).2 ⟨rfl, ?_⟩
  rw [here]
  dsimp only
  rw [launch, if_neg (by simp [kind, scope, runs, fine])]

end

/-! ### Budgets and passes (R402, R408) -/

theorem launches_of_offEvents {s t : State} (h : offEvents t = offEvents s) : t.launches = s.launches :=
  (congrArg State.launches h : (offEvents t).launches = (offEvents s).launches)

theorem exec_budgetOverrun {s : State} {l : Launch} {i : Nat} {r : ResvCfg} (here : launchOf s l.id = some l) (resv : launchResv s l = some (i, r))
    (started : l.started = true) : exec (.budgetOverrun l.id) s = .next (if stepsPerTick * metered s l ≤ r.c + saveBound then s
      else postEvent (modLaunch s l.id fun l => { l with demoted := true }) l.part
        (event 9 0 l.q l.seq ([BitVec.ofNat 8 i, 0, 0, 0] ++ leBytes 4 l.seq.toNat ++ leBytes 8 (stepsPerTick * metered s l)))) := by
  refine (onUnit_next ..).2 ⟨rfl, ?_⟩
  rw [here]
  dsimp only
  rw [resv]
  by_cases within : stepsPerTick * metered s l ≤ r.c + saveBound
  · rw [if_pos within]
    exact if_pos (by simp [within])
  · rw [if_neg within]
    exact if_neg (by simp [started, within])

theorem exec_admissionPass (s : State) : exec .admissionPass s = .next (if s.dev.st = 2 && !s.restart.active then runPass s false else s) :=
  (onUnit_next ..).2 ⟨rfl, rfl⟩

/-! ### Time slices (R412, R413) -/

section
variable {s : State} {p ctx t0 rank : Nat} {ws : List Task} (unit : partOk p = true) (began : look 0 (part s p).slices ctx = t0 + 1)
  (hrank : rank = ((s.tasks.find? fun x => x.part == p && x.ctx == ctx && !x.placed.isEmpty).map (taskRank s)).getD 1000)
  (hws : ws = waitersFor s p ctx rank)
include unit began hrank hws

theorem exec_timeSliceEnd : exec (.timeSliceEnd p ctx) s = .next
    (if (!mayStart s || decide (iodNow s < t0 + sliceTicks s p ctx) || !((slicesOfRank s p rank).all fun (_, u) => decide (t0 + 1 ≤ u)) ||
        ws.isEmpty) = true then s
     else if (s.tasks.any fun x => x.part == p && x.ctx == ctx && !x.descBusy.isEmpty) = true then
       modPart s p fun r => if look 0 r.overrunSince ctx = 0 then { r with overrunSince := put 0 r.overrunSince ctx (iodNow s + 1) } else r
     else endSlice s p ctx ws) := by
  subst hrank hws
  refine (onUnit_next ..).2 ⟨unit, ?_⟩
  rw [began]

theorem exec_timeSliceEnd_early (early : iodNow s < t0 + sliceTicks s p ctx ∨ ws = []) : exec (.timeSliceEnd p ctx) s = .next s := by
  rw [exec_timeSliceEnd unit began hrank hws, if_pos]
  rcases early with early | none'
  · simp [early]
  · simp [none']

theorem exec_timeSliceEnd_due (may : mayStart s = true) (due : t0 + sliceTicks s p ctx ≤ iodNow s) (wait : ws ≠ [])
    (first : ∀ e ∈ slicesOfRank s p rank, t0 + 1 ≤ e.2) : exec (.timeSliceEnd p ctx) s = .next
    (if (s.tasks.any fun x => x.part == p && x.ctx == ctx && !x.descBusy.isEmpty) = true then
       modPart s p fun r => if look 0 r.overrunSince ctx = 0 then { r with overrunSince := put 0 r.overrunSince ctx (iodNow s + 1) } else r
     else endSlice s p ctx ws) := by
  have earliest : ((slicesOfRank s p rank).all fun (_, u) => decide (t0 + 1 ≤ u)) = true := by
    rw [List.all_eq_true]
    exact fun e he => decide_eq_true (first e he)
  rw [exec_timeSliceEnd unit began hrank hws, if_neg]
  rw [may, earliest, decide_eq_false (by omega), List.isEmpty_eq_false_iff.2 wait]
  decide

end

/-- Settles O41: each command's cases are told apart by its conditions; the pass and the overrun post events that leave tasks and launches. -/
theorem waitsAndScheduling : Obligations.WaitsAndScheduling := by
  unfold Obligations.WaitsAndScheduling
  refine ⟨⟨fun s t l n here launch hn kind runs calm => ⟨fun c refused => ?_, fun passed near => ⟨fun mode => ?_, fun mode clean => ?_⟩⟩,
    fun s t l here launch kind scope runs fine => ⟨fun a => ?_, ?_, ?_⟩⟩,
    ⟨fun s l i r here resv started => ⟨fun late => ?_, fun within => ?_⟩, fun s => ⟨fun early => ?_, fun full calm => ?_⟩⟩,
    fun s p ctx t0 rank ws unit began hrank hws => ⟨fun early => ?_, fun may due wait first => ⟨fun free => ?_, fun busy => ?_⟩⟩⟩
  · exact exec_hostSyncPoll_refused here launch hn kind runs calm refused
  · exact exec_hostSyncPoll_write here launch hn kind runs calm passed near mode
  · exact exec_hostSyncPoll_wait here launch hn kind runs calm passed near mode clean
  · exact exec_controlSegmentPoll here launch kind scope runs fine true a
  · exact exec_controlSegmentPoll here launch kind scope runs fine false true
  · exact exec_controlSegmentPoll here launch kind scope runs fine false false
  · refine ⟨_, { l with demoted := true }, (exec_budgetOverrun here resv started).trans (by rw [if_neg (by omega)]), ?_, rfl, rfl, rfl⟩
    rw [launchOf, launches_of_offEvents (offEvents_postEvent ..)]
    exact launchOf_modLaunch _ (fun _ => rfl) here
  · rw [exec_budgetOverrun here resv started, if_pos within]
  · rw [exec_admissionPass, if_neg (by simp [early])]
  · have pass := offEvents_runPass s false
    refine ⟨_, (exec_admissionPass s).trans (by rw [if_pos (by simp [full, calm])]), ?_, ?_, ?_, ?_⟩
    · rw [admission_of_offEvents pass]
    · rw [admission_of_offEvents pass]
    · exact (tasks_of_offEvents pass).trans rfl
    · exact (launches_of_offEvents pass).trans rfl
  · exact exec_timeSliceEnd_early unit began hrank hws early
  · rw [exec_timeSliceEnd_due unit began hrank hws may due wait first, if_neg (by simp [free])]
  · refine ⟨_, (exec_timeSliceEnd_due unit began hrank hws may due wait first).trans (congrArg _ (if_pos busy)), rfl, rfl, ?_⟩
    rw [modPart, part_setPart, if_pos rfl]
    split
    · rw [look_put_same]
      omega
    next noted => exact noted

end Sys2Proof.Machine

/-! SUPPORT. What the work of a slice, a crusher or a home agent, and the discard of a task, leave of the front end. -/

namespace Sys2Proof.Machine

/-! ### Stores, groups and slices -/

/-- The state without memory, slices, crushers, clusters, groups, accesses, partitions and queue pairs, and without the free values: the
front end's launches and tasks stand in it. -/
def offWork (s : State) : State := { offFaults s with free := 0 }

theorem offWork_of_offFaults {s t : State} (h : offFaults t = offFaults s) : offWork t = offWork s := by rw [offWork, h, offWork]

theorem offWork_of_offMemory {s t : State} (h : offMemory t = offMemory s) : offWork t = offWork s := offWork_of_offFaults (offFaults_of_offMemory h)

theorem offWork_of_offEvents {s t : State} (h : offEvents t = offEvents s) : offWork t = offWork s := offWork_of_offFaults (offFaults_of_offEvents h)

theorem offWork_foldl {β : Type} {f : State → β → State} (h : ∀ s b, offWork (f s b) = offWork s) (l : List β) (s : State) :
    offWork (l.foldl f s) = offWork s := by
  induction l generalizing s with
  | nil => rfl
  | cons b l ih => exact (ih _).trans (h s b)

theorem offWork_getD {z d : State} {o : Option State} (h : ∀ t, o = some t → offWork t = offWork z) (hd : offWork d = offWork z) :
    offWork (o.getD d) = offWork z := by
  cases o with
  | none => exact hd
  | some t => exact h t rfl

section
variable (s : State)

@[simp] theorem offWork_parkGroup (gid : Nat) (k : Park) : offWork (parkGroup s gid k) = offWork s := offWork_of_offFaults (offFaults_parkGroup ..)
@[simp] theorem offWork_failAccess (tag code : Nat) : offWork (failAccess s tag code) = offWork s := offWork_of_offFaults (offFaults_failAccess ..)
@[simp] theorem offWork_failMiss (i line code : Nat) : offWork (failMiss s i line code) = offWork s := offWork_of_offFaults (offFaults_failMiss ..)
@[simp] theorem offWork_emit (o : Out) : offWork (emit s o) = offWork s := rfl
@[simp] theorem offWork_setGroup (g : Nat) (v : Option Group) : offWork (setGroup s g v) = offWork s := rfl
@[simp] theorem offWork_modSlice (i : Nat) (f : Slice → Slice) : offWork (modSlice s i f) = offWork s := rfl
@[simp] theorem offWork_modCrusher (i : Nat) (f : Crusher → Crusher) : offWork (modCrusher s i f) = offWork s := rfl
@[simp] theorem offWork_modCluster (c : Nat) (f : Cluster → Cluster) : offWork (modCluster s c f) = offWork s := rfl
@[simp] theorem offWork_modGroup (g : Nat) (f : Group → Group) : offWork (modGroup s g f) = offWork s := rfl
@[simp] theorem offWork_modQueue (p q : Nat) (f : Queue → Queue) : offWork (modQueue s p q f) = offWork s := rfl
@[simp] theorem offWork_dropAccess (tag : Nat) : offWork (dropAccess s tag) = offWork s := rfl
@[simp] theorem offWork_memStoreLine (line : Nat) (mask : BitVec 4) (d : Line) (p : W32) : offWork (memStoreLine s line mask d p) = offWork s :=
  offWork_of_offMemory (offMemory_memStoreLine ..)
@[simp] theorem offWork_sendData (name : String) (dest line : Nat) (v : Line) (sectors : BitVec 4) (p : W32) :
    offWork (sendData s name dest line v sectors p) = offWork s := offWork_of_offMemory (offMemory_sendData ..)
@[simp] theorem offWork_evictLine (sid : Nat) (c : CLine) : offWork (evictLine s sid c) = offWork s := offWork_of_offMemory (offMemory_evictLine ..)
@[simp] theorem offWork_putHome (h : Nat) (c : CLine) : offWork (putHome s h c) = offWork s := offWork_of_offMemory (offMemory_putHome ..)
@[simp] theorem offWork_homeStore (h line : Nat) (be : BitVec 128) (d : Line) (p : W32) (attr : Nat) :
    offWork (homeStore s h line be d p attr) = offWork s := offWork_of_offMemory (offMemory_homeStore ..)
@[simp] theorem offWork_spillFor (h need k : Nat) : offWork (spillFor h need k s) = offWork s := offWork_of_offMemory (offMemory_spillFor ..)
@[simp] theorem offWork_activate (pa : Nat) : offWork (activate s pa) = offWork s := offWork_of_offMemory (offMemory_activate ..)
@[simp] theorem offWork_closeOpen (h line : Nat) : offWork (closeOpen s h line) = offWork s := offWork_of_offMemory (offMemory_closeOpen ..)
@[simp] theorem offWork_clearRecord (p : Nat) (c : Ctx) (n : Nat) : offWork (clearRecord s p c n) = offWork s :=
  offWork_of_offMemory (offMemory_clearRecord ..)
@[simp] theorem offWork_postEvent (p : Nat) (e : List Byte) : offWork (postEvent s p e) = offWork s := offWork_of_offEvents (offEvents_postEvent ..)

@[simp] theorem offWork_sendRaw (name : String) (dest line : Nat) (v : Line) (sectors : BitVec 4) (p : W32) :
    offWork (sendRaw s name dest line v sectors p) = offWork s := rfl
@[simp] theorem offWork_loseLine (sid line : Nat) : offWork (loseLine s sid line) = offWork s := rfl
@[simp] theorem offWork_setLine (sid : Nat) (c : CLine) : offWork (setLine s sid c) = offWork s := rfl
@[simp] theorem offWork_releaseLine (sid line : Nat) : offWork (releaseLine s sid line) = offWork s := rfl
@[simp] theorem offWork_freeHome (h line : Nat) : offWork (freeHome s h line) = offWork s := rfl
@[simp] theorem offWork_contribute (h : Nat) (k : CruPacket) : offWork (contribute s h k) = offWork s := rfl

@[simp] theorem offWork_touchMemory (h line : Nat) : offWork (touchMemory s h line) = offWork s := by
  unfold touchMemory
  dsimp only
  split_ifs <;> simp

@[simp] theorem offWork_openLine (h : Nat) (k : CruPacket) (form : AccForm) : offWork (openLine s h k form) = offWork s := by
  simp [openLine]

@[simp] theorem offWork_discardOpen (h line : Nat) : offWork (discardOpen s h line) = offWork s := by
  unfold discardOpen
  split
  · rfl
  · dsimp only
    split_ifs <;> simp

end

theorem offWork_of_placeLine {s t : State} {sid : Nat} {c : CLine} (h : placeLine s sid c = some t) : offWork t = offWork s :=
  offWork_of_offMemory (offMemory_placeLine h)

theorem offWork_of_holdLine {s t : State} {sid line : Nat} (h : holdLine s sid line = some t) : offWork t = offWork s := by
  unfold holdLine at h
  dsimp only at h
  split at h <;> split at h
  · cases h
  · exact offWork_of_placeLine h
  · cases h
  · exact offWork_of_placeLine h

/-! ### Loads that receive their lines (R332) -/

@[simp] theorem offWork_writePieces (s : State) (gid : Nat) (d : Line) (ps : List Piece) : offWork (writePieces s gid d ps) = offWork s := by
  induction ps generalizing s with
  | nil => rfl
  | cons p ps ih =>
    rw [writePieces, ih]
    split_ifs
    · rfl
    · split <;> rfl
    · split <;> rfl

@[simp] theorem offWork_writeOlds (s : State) (gid : Nat) (ps : List Piece) (os : List Nat) : offWork (writeOlds s gid ps os) = offWork s := by
  induction ps generalizing s os with
  | nil => rfl
  | cons p ps ih =>
    cases os with
    | nil => rfl
    | cons o os => exact ih _ os

section
variable (s : State)

@[simp] theorem offWork_finishLoad (a : Access) (d : Line) (poison : W32) : offWork (finishLoad s a d poison) = offWork s := by
  unfold finishLoad
  dsimp only
  split_ifs
  · simp
  · exact offWork_foldl (fun t x => by simp) _ _
  · rfl

@[simp] theorem offWork_deliver (a : Access) (d : Line) (p : W32) : offWork (deliver s a d p) = offWork s := by
  unfold deliver
  dsimp only
  split_ifs <;> simp [roFillBoth]

theorem offWork_answerCluster (cl line : Nat) (d : Line) (sectors : BitVec 4) (p : W32) {again : State → Nat → State}
    (h : ∀ t n, offWork (again t n) = offWork t) : offWork (answerCluster s cl line d sectors p again) = offWork s := by
  refine (offWork_foldl (fun t a => ?_) _ _).trans (offWork_modCluster ..)
  split_ifs
  · exact offWork_deliver ..
  · exact h ..

/-! ### Home agents (R288 to R296) -/

@[simp] theorem offWork_setFilter (h line : Nat) (mask : BitVec 8) (owner : Bool) : offWork (setFilter s h line mask owner) = offWork s := rfl
@[simp] theorem offWork_reserveFilter (h line : Nat) (grant : Bool) : offWork (reserveFilter s h line grant) = offWork s := rfl
@[simp] theorem offWork_freeFilter (h line : Nat) : offWork (freeFilter s h line) = offWork s := rfl
@[simp] theorem offWork_dropMiss (i line : Nat) : offWork (dropMiss s i line) = offWork s := rfl
@[simp] theorem offWork_joinHome (h line : Nat) (f : Miss → Miss) : offWork (joinHome s h line f) = offWork s := rfl
@[simp] theorem offWork_ackUpdate (k : CruPacket) (code : Nat) : offWork (ackUpdate s k code) = offWork s := rfl
@[simp] theorem offWork_wholeHome (h line : Nat) (v : Line) (q : W32) (dirty : BitVec 4) : offWork (wholeHome s h line v q dirty) = offWork s :=
  offWork_putHome ..

@[simp] theorem offWork_keepDirty (h line : Nat) (buf : Option (Line × BitVec 4 × W32)) : offWork (keepDirty s h line buf) = offWork s := by
  unfold keepDirty
  split
  · split_ifs <;> simp
  · rfl

@[simp] theorem offWork_keepWhole (h line : Nat) (buf : Option (Line × BitVec 4 × W32)) : offWork (keepWhole s h line buf) = offWork s := by
  unfold keepWhole
  dsimp only
  split_ifs <;> simp

@[simp] theorem offWork_releaseHome (h line : Nat) : offWork (releaseHome s h line) = offWork s := by
  unfold releaseHome
  dsimp only
  split_ifs <;> simp

@[simp] theorem offWork_sendFills (i : Nat) (m : Miss) (v : Line) (p : W32) : offWork (sendFills s i m v p) = offWork s := by
  refine (offWork_foldl (fun t n => offWork_sendRaw t "DATA_ONCE" n m.line v 0xF p) _ _).trans ?_
  split_ifs <;> rfl

@[simp] theorem offWork_homeFill (h line : Nat) (buf : Option (Line × BitVec 4 × W32)) : offWork (homeFill s h line buf) = offWork s := by
  unfold homeFill
  split
  · rfl
  · dsimp only
    split_ifs <;> simp

@[simp] theorem offWork_grantOwner (h line d : Nat) (buf : Option (Line × BitVec 4 × W32)) : offWork (grantOwner s h line d buf) = offWork s := by
  simp [grantOwner]

@[simp] theorem offWork_markReduced (task : Nat) : offWork (markReduced s task) = offWork s := by
  unfold markReduced
  split <;> simp

@[simp] theorem offWork_applyRounded (h : Nat) (k : CruPacket) : offWork (applyRounded s h k) = offWork s := by
  unfold applyRounded
  dsimp only
  split
  · split_ifs <;> simp
  · split_ifs <;> simp

@[simp] theorem offWork_applyAdd (h : Nat) (k : CruPacket) : offWork (applyAdd s h k) = offWork s := by
  unfold applyAdd
  dsimp only
  split_ifs <;> simp

@[simp] theorem offWork_applyUpdate (h : Nat) (k : CruPacket) : offWork (applyUpdate s h k) = offWork s := by
  unfold applyUpdate
  dsimp only
  split
  · split_ifs <;> simp
  · split_ifs <;> simp

@[simp] theorem offWork_finishReq (h line : Nat) (r : HomeReq) (buf : Option (Line × BitVec 4 × W32)) :
    offWork (finishReq s h line r buf) = offWork s := by
  unfold finishReq
  dsimp only
  cases r with
  | rdS d => split_ifs <;> simp
  | rdE d => simp
  | upg d =>
    dsimp only
    split <;> simp
  | rdOnce tag => cases buf <;> split_ifs <;> simp
  | wfwd d tag attr be data => simp
  | update k => simp
  | homeRead => simp
  | homeWrite tag => dsimp only; split <;> simp
  | evict l => simp

theorem offWork_of_startReq {t : State} {h line : Nat} {r : HomeReq} (e : startReq s h line r = some t) : offWork t = offWork s := by
  unfold startReq at e
  dsimp only at e
  rw [Option.ite_none_left_eq_some, Option.ite_none_left_eq_some] at e
  obtain ⟨-, -, e⟩ := e
  split at e
  · cases e
  next u held =>
    have hu : offWork u = offWork s := by
      split_ifs at held
      · exact offWork_of_holdLine held
      · exact congrArg offWork (Option.some.inj held).symm
    refine Eq.trans ?_ hu
    cases r with
    | homeRead =>
      dsimp only at e
      split_ifs at e <;> rw [← Option.some.inj e] <;> simp
    | _ =>
      dsimp only at e
      split at e <;> rw [← Option.some.inj e] <;> simp

end

/-! ### Requests at a home agent (R26, R27, R294) -/

section
variable (s : State)

@[simp] theorem offWork_makeEntry (h line : Nat) : offWork (makeEntry s h line) = offWork s := by
  unfold makeEntry
  split
  · rfl
  · split
    · rfl
    · exact offWork_getD (fun t e => offWork_of_startReq s e) rfl

@[simp] theorem offWork_homeTake (h line : Nat) (r : HomeReq) : offWork (homeTake s h line r) = offWork s := by
  unfold homeTake
  dsimp only
  split
  · rfl
  · split
    next e => exact offWork_of_startReq s e
    next => split <;> simp

@[simp] theorem offWork_serveWaiting (h : Nat) : offWork (serveWaiting s h) = offWork s :=
  (offWork_foldl (fun t (e : Nat × HomeReq) => offWork_homeTake t h e.1 e.2) (sliceOf s h).waiting _).trans rfl

@[simp] theorem offWork_refuseReq (h line : Nat) (r : HomeReq) (code : Nat) : offWork (refuseReq s h line r code) = offWork s := by
  cases r <;> simp [refuseReq]

@[simp] theorem offWork_homeArrive (h line : Nat) (r : HomeReq) : offWork (homeArrive s h line r) = offWork s := by
  unfold homeArrive
  split <;> simp

/-! ### Accesses at a slice (R231, R235, R295) -/

@[simp] theorem offWork_modMiss (i line : Nat) (f : Miss → Miss) : offWork (modMiss s i line f) = offWork s := rfl
@[simp] theorem offWork_stall (i tag : Nat) : offWork (stall s i tag) = offWork s := rfl
@[simp] theorem offWork_forwardWrite (a : Access) : offWork (forwardWrite s a) = offWork s := rfl
@[simp] theorem offWork_writeSpoil (i : Nat) (a : Access) : offWork (writeSpoil s i a) = offWork s := rfl

@[simp] theorem offWork_sendRequest (i line : Nat) : offWork (sendRequest s i line) = offWork s := by
  unfold sendRequest
  dsimp only
  split <;> rfl

theorem offWork_of_joinMiss {t : State} {i h line : Nat} {add : Miss → Miss} (e : joinMiss s i h line add = some t) :
    offWork t = offWork s := by
  unfold joinMiss at e
  dsimp only at e
  split at e
  · rw [← Option.some.inj e]; rfl
  · split_ifs at e
    · rw [← Option.some.inj e]; simp
    · obtain ⟨u, held, rfl⟩ := Option.map_eq_some_iff.1 e
      simp [offWork_of_holdLine held]

@[simp] theorem offWork_joinMiss_getD_stall (i h line tag : Nat) (add : Miss → Miss) :
    offWork ((joinMiss s i h line add).getD (stall s i tag)) = offWork s :=
  offWork_getD (fun _ e => offWork_of_joinMiss s e) rfl

@[simp] theorem offWork_loadAtSlice (a : Access) (i h : Nat) : offWork (loadAtSlice s a i h) = offWork s := by
  have answered : ∀ u d valid p, offWork (answerCluster u (gidCluster a.gid) a.line d valid p fun v t =>
      stall (modCluster v (gidCluster a.gid) fun x => { x with reads := x.reads ++ [(a.line, t)] }) i t) = offWork u :=
    fun u d valid p => offWork_answerCluster u _ _ d valid p fun _ _ => rfl
  unfold loadAtSlice
  dsimp only
  split
  · rfl
  split
  · rfl
  split
  · split
    · exact answered ..
    · rfl
  split
  · split
    · rfl
    · exact answered ..
  split
  · rfl
  · exact offWork_joinMiss_getD_stall ..

theorem offWork_of_mergeCopy {t : State} {i : Nat} {a : Access} {f : CLine → CLine} (e : mergeCopy s i a f = some t) :
    offWork t = offWork s := by
  unfold mergeCopy at e
  split at e
  · rw [← Option.some.inj e]
  · exact offWork_of_placeLine e

theorem offWork_of_writeCopy {t : State} {i : Nat} {a : Access} (e : writeCopy s i a = some t) : offWork t = offWork s :=
  offWork_of_mergeCopy s e

theorem offWork_mapCopy_getD_stall {o : Option State} {g : State → State} (i tag : Nat) (copied : ∀ t, o = some t → offWork t = offWork s)
    (kept : ∀ t, offWork (g t) = offWork t) : offWork ((o.map g).getD (stall s i tag)) = offWork s :=
  offWork_getD (fun t e => by
    obtain ⟨u, hu, rfl⟩ := Option.map_eq_some_iff.1 e
    exact (kept u).trans (copied u hu)) rfl

@[simp] theorem offWork_storeAtSlice (a : Access) (i h : Nat) : offWork (storeAtSlice s a i h) = offWork s := by
  have joined := fun add => offWork_joinMiss_getD_stall s i h a.line a.tag add
  have through : offWork (((mergeCopy s i a fun c => c).map fun s => forwardWrite s a).getD (stall s i a.tag)) = offWork s :=
    offWork_mapCopy_getD_stall s i a.tag (fun _ e => offWork_of_mergeCopy s e) fun _ => rfl
  have written : offWork (((writeCopy s i a).map fun s => dropAccess s a.tag).getD (stall s i a.tag)) = offWork s :=
    offWork_mapCopy_getD_stall s i a.tag (fun _ e => offWork_of_writeCopy s e) fun _ => rfl
  unfold storeAtSlice
  dsimp only
  split
  · exact offWork_homeArrive ..
  split
  · rfl
  split
  · rfl
  split
  · split <;> rfl
  split
  · split
    · split
      · exact through
      · exact joined _
    · split
      · exact through
      · exact written
  split
  · exact joined _
  split <;> rfl

@[simp] theorem offWork_retryAccess (i tag : Nat) : offWork (retryAccess s i tag) = offWork s := by
  unfold retryAccess
  split
  · rfl
  · split
    · rfl
    · split <;> simp

@[simp] theorem offWork_drainLine (i : Nat) (c : CLine) : offWork (drainLine i s c) = offWork s := by
  unfold drainLine
  split <;> simp

@[simp] theorem offWork_sendReg (sid : Nat) : offWork (sendReg s sid) = offWork s := rfl

@[simp] theorem offWork_drainStep (i : Nat) : offWork (drainStep s i) = offWork s := by
  have drained := fun l => offWork_foldl (fun t c => offWork_drainLine t i c) l s
  unfold drainStep
  dsimp only
  split
  · rfl
  · split <;> simp [drained]

@[simp] theorem offWork_wake (i : Nat) : offWork (wake s i) = offWork s := by
  refine (offWork_foldl (fun t n => offWork_retryAccess t i n) _ _).trans ?_
  simp

/-! ### What a task holds (R246, R271, R280, R386, R389) -/

@[simp] theorem offWork_dropUpdates (i : Nat) (sel : CruPacket → Bool) : offWork (dropUpdates s i sel) = offWork s := rfl

@[simp] theorem offWork_dropLines (sel : Nat → Bool) : offWork (dropLines s sel) = offWork s := by
  refine offWork_foldl (fun t i => ?_) _ _
  have discarded := fun l => offWork_foldl (fun u (x : OpenLine) => offWork_discardOpen u i x.line) l t
  dsimp only
  split <;> simp [discarded]

theorem offWork_of_syncFilter {t : State} {line : Nat} (e : syncFilter s line = some t) : offWork t = offWork s := by
  unfold syncFilter at e
  dsimp only at e
  split at e
  · rw [← Option.some.inj e]
  · split at e <;> split_ifs at e <;> rw [← Option.some.inj e] <;> rfl

@[simp] theorem offWork_unpinLine (line i : Nat) : offWork (unpinLine s line i) = offWork s := by
  unfold unpinLine
  have released : ∀ (u : State) (b : Prop) [Decidable b], offWork (if b then u else releaseLine u i line) = offWork u := by
    intro u b _
    split <;> rfl
  exact offWork_getD (fun t e => (offWork_of_syncFilter _ e).trans (released ..)) (released ..)

@[simp] theorem offWork_unpinAll (ps : List (Nat × Nat)) : offWork (unpinAll s ps) = offWork s := by
  refine offWork_foldl (fun t x => ?_) ps s
  exact offWork_unpinLine ..

@[simp] theorem offWork_dropRanges (tag : Nat) : offWork (dropRanges s tag) = offWork s := by
  refine offWork_foldl (fun t i => ?_) _ _
  split <;> rfl

@[simp] theorem offWork_releaseTask (t : Task) : offWork (releaseTask s t) = offWork s := by
  simp [releaseTask]

@[simp] theorem offWork_orphan (gid : Nat) : offWork (orphan s gid) = offWork s := rfl

@[simp] theorem offWork_dropGroup (gid : Nat) : offWork (dropGroup s gid) = offWork s := by
  unfold dropGroup
  split
  · rfl
  · dsimp only
    split <;> simp

@[simp] theorem offWork_returnL (cl : Nat) : offWork (returnL s cl) = offWork s := by
  unfold returnL
  dsimp only
  split <;> rfl

@[simp] theorem offWork_dropTeams (cl : Nat) (sel : Nat → Bool) : offWork (dropTeams s cl sel) = offWork s := by
  refine (offWork_returnL ..).trans ?_
  exact offWork_foldl (fun t x => offWork_foldl (fun u g => offWork_dropGroup u g) _ t) _ _

@[simp] theorem offWork_freeSnapRecords (x : Snapshot) : offWork (freeSnapRecords s x) = offWork s := by
  refine offWork_foldl (fun t g => ?_) _ _
  dsimp only
  split <;> simp

@[simp] theorem offWork_dropSnaps (sel : Nat → Bool) : offWork (dropSnaps s sel) = offWork s := by
  refine offWork_foldl (fun t c => offWork_foldl (fun u v => ?_) _ t) _ _
  dsimp only
  split
  · split <;> simp
  · rfl

end

end Sys2Proof.Machine

/-! SUPPORT. Contexts, queue slots, graphs and their versions, and what a discard leaves of launches (R370 to R391). It settles O33. -/

namespace Sys2Proof.Machine

/-! ### What the end of a command leaves (R364) -/

section
variable (s : State) (p q : Nat) (seq : W32) (code : Nat)

theorem offEvents_finishCmd : offEvents (finishCmd s p q seq code) = offEvents { s with shareAt := s.portTime } := by
  unfold finishCmd
  rw [accountShared_eq]
  rfl

theorem sameCtxs_finishCmd : SameCtxs s (finishCmd s p q seq code) := by
  unfold finishCmd modCmd
  exact (sameCtxs_accountShared s).trans (sameCtxs_modQueue ..)

theorem graphOf_finishCmd (p' h : Nat) : graphOf (finishCmd s p q seq code) p' h = graphOf s p' h := by
  unfold finishCmd
  rw [graphOf_modCmd, graphOf, part_accountShared]
  rfl

end

theorem mem_of_offEvents {s t : State} (h : offEvents t = offEvents s) : t.mem = s.mem :=
  (congrArg State.mem h : (offEvents t).mem = (offEvents s).mem)

/-! ### Contexts (R370, R374) -/

theorem ctxOf_setCtx_ne (s : State) (p : Nat) {c k : Nat} (v : Option Ctx) (other : k ≠ c) : ctxOf (setCtx s p c v) p k = ctxOf s p k := by
  rw [ctxOf, setCtx, modPart, part_setPart, if_pos rfl]
  exact look_put_ne _ _ _ other

/-- A cluster without its cached translations of a context (log 29). -/
def forgetCtx (p ctx : Nat) (x : Cluster) : Cluster :=
  { x with tlb := dropWhere (fun e => e.part == p && e.ctx == ctx) x.tlb, ptrs := dropWhere (fun e => e.part == p && e.ctx == ctx) x.ptrs }

section
variable {s : State} {p q : Nat} {seq : W32} {c : Cmd}

theorem exec_createContext (turn : HasTurn s p q seq 0x80 c) : exec (.createContext p q seq) s = .next
    (if (ctxOf s p (cw c 1 15 0)).isSome then finishCmd s p q seq 0x59 else finishCmd (setCtx s p (cw c 1 15 0) (some
      { root := cw c 2 49 12 * 4096, constBase := cw c 3 49 12 * 4096, constSlots := cw c 3 63 56, constVa := cw c 4 47 12 * 4096,
        parkBase := cw c 5 49 6 * 64, parkEntries := cw c 6 31 0 })) p q seq 0) := by
  refine (runCmd_refusal turn _ _).trans ?_
  rw [seq_of_findCmd turn.here]
  by_cases known : (ctxOf s p (cw c 1 15 0)).isSome = true <;> simp [known]

theorem exec_destroyContext (turn : HasTurn s p q seq 0x81 c) : exec (.destroyContext p q seq) s = .next
    (if ctxBusy s p (cw c 1 15 0) then finishCmd s p q seq 0x59 else finishCmd { setCtx s p (cw c 1 15 0) none with
      clusters := s.clusters.map fun e => (e.1, forgetCtx p (cw c 1 15 0) e.2) } p q seq 0) := by
  refine (runCmd_refusal turn _ _).trans ?_
  rw [seq_of_findCmd turn.here]
  by_cases busy : ctxBusy s p (cw c 1 15 0) = true
  · simp [busy]
  · simp only [busy]
    rfl

theorem contextGone (s : State) (p q : Nat) (seq : W32) (ctx : Nat) : ∃ t,
    t = finishCmd { setCtx s p ctx none with clusters := s.clusters.map fun e => (e.1, forgetCtx p ctx e.2) } p q seq 0 ∧
      ctxOf t p ctx = none ∧ (∀ k, k ≠ ctx → ctxOf t p k = ctxOf s p k) ∧ t.mem = s.mem ∧ t.groups = s.groups ∧
      ∀ k x, (k, x) ∈ t.clusters → (∀ e ∈ x.tlb, ¬(e.part = p ∧ e.ctx = ctx)) ∧ ∀ e ∈ x.ptrs, ¬(e.part = p ∧ e.ctx = ctx) := by
  have same := sameCtxs_finishCmd { setCtx s p ctx none with clusters := s.clusters.map fun e => (e.1, forgetCtx p ctx e.2) } p q seq 0
  have rest := offEvents_finishCmd { setCtx s p ctx none with clusters := s.clusters.map fun e => (e.1, forgetCtx p ctx e.2) } p q seq 0
  refine ⟨_, rfl, (same.ctxs p ctx).trans (ctxOf_setCtx s p ctx none), fun k other => (same.ctxs p k).trans (ctxOf_setCtx_ne s p none other),
    (mem_of_offEvents rest).trans rfl, (groups_of_offEvents rest).trans rfl, fun k x there => ?_⟩
  rw [clusters_of_offEvents rest] at there
  obtain ⟨⟨_, y⟩, -, same⟩ := List.mem_map.1 there
  obtain ⟨rfl, rfl⟩ := Prod.mk.inj same
  refine ⟨fun e he => ?_, fun e he => ?_⟩
  · simpa [imp_iff_not_or] using (List.mem_filter.1 he).2
  · simpa [imp_iff_not_or] using (List.mem_filter.1 he).2

/-! ### Queue slots (R359, R363) -/

theorem exec_createQueue (turn : HasTurn s p q seq 0x82 c) : exec (.createQueue p q seq) s = .next
    (if (queue s p (cw c 1 8 0)).bound then finishCmd s p q seq 0x59 else finishCmd (setQueue s p (cw c 1 8 0)
      { declared := (queue s p (cw c 1 8 0)).declared, devenq := (queue s p (cw c 1 8 0)).devenq, fpr := (queue s p (cw c 1 8 0)).fpr, bound := true,
        ctx := cw c 1 31 16, logsz := cw c 2 3 0, base := cw c 2 49 12 * 4096, cmplBase := cw c 3 49 6 * 64,
        expect := some (BitVec.ofNat 32 (cw c 1 63 32)), qcmp := qcmpFirst (BitVec.ofNat 32 (cw c 1 63 32)) s.dev.gen.toNat }) p q seq 0) := by
  refine (runCmd_refusal turn _ _).trans ?_
  rw [seq_of_findCmd turn.here]
  by_cases bound : (queue s p (cw c 1 8 0)).bound = true
  · simp [bound]
  · simp only [bound]
    rfl

theorem queue_finishCmd_empty {s : State} {p q n : Nat} (seq : W32) (code : Nat) (other : n ≠ q) (none' : (queue s p n).cmds = []) :
    queue (finishCmd s p q seq code) p n = queue s p n := by
  rw [queue_finishCmd_ne s seq code fun h => other h.2, sharedQueue, none', List.map_nil, ← none']

theorem qcmpSeq_qcmpFirst (first : W32) (gen : Nat) : qcmpSeq (qcmpFirst first gen) = (first.toNat + 2 ^ 32 - 1) % 2 ^ 32 := by
  have hf := first.isLt
  rw [qcmpSeq, qcmpFirst, BitVec.toNat_ofNat, BitVec.toNat_sub]
  simp only [fld]
  have one : (1 : W32).toNat = 1 := rfl
  rw [one]
  omega

theorem exec_destroyQueue (turn : HasTurn s p q seq 0x83 c) : exec (.destroyQueue p q seq) s = .next
    (if (queue s p (cw c 1 8 0)).destroying then finishCmd s p q seq 0x59
     else finishCmd (if (queue s p (cw c 1 8 0)).bound then destroyQueue s p (cw c 1 8 0) else s) p q seq 0) := by
  refine (runCmd_refusal turn _ _).trans ?_
  rw [seq_of_findCmd turn.here]
  by_cases going : (queue s p (cw c 1 8 0)).destroying = true <;> simp [going]

end

/-! ### What a discard leaves of launches (R389) -/

theorem launches_of_offWork {s t : State} (h : offWork t = offWork s) : t.launches = s.launches :=
  (congrArg State.launches h : (offWork t).launches = (offWork s).launches)

theorem launches_discardTasks (s : State) (sel : Task → Bool) : (discardTasks s sel).launches = s.launches := by
  unfold discardTasks
  dsimp only
  refine launches_of_offWork (s := s) ?_
  refine (offWork_foldl (fun t x => offWork_releaseTask t x) _ _).trans ?_
  refine (offWork_foldl (fun t x => ?_) _ _).trans ?_
  · split <;> rfl
  refine (offWork_dropLines ..).trans ((offWork_dropSnaps ..).trans (offWork_foldl (fun t c => ?_) _ _))
  split <;> simp

theorem launches_freeVersions (s : State) (p h : Nat) : (freeVersions s p h).launches = s.launches := by
  unfold freeVersions
  split <;> rfl

theorem launches_dropLaunch (s : State) (l : Launch) : (dropLaunch s l).launches = s.launches.filter fun x => x.id != l.id := by
  have slot : ∀ u : State, (accountShared (freeSlot u l)).launches = u.launches := fun u => by
    rw [(sameCtxs_accountShared _).launches]
    unfold freeSlot
    split <;> rfl
  unfold dropLaunch
  dsimp only
  rw [launches_freeVersions]
  dsimp only
  rw [slot, launches_discardTasks]

theorem launches_foldl_dropLaunch (ls : List Launch) (s : State) :
    ∀ x ∈ (ls.foldl dropLaunch s).launches, x ∈ s.launches ∧ ∀ l ∈ ls, x.id ≠ l.id := by
  induction ls generalizing s with
  | nil => exact fun x hx => ⟨hx, fun l hl => absurd hl List.not_mem_nil⟩
  | cons l ls ih =>
    intro x hx
    obtain ⟨there, others⟩ := ih (dropLaunch s l) x hx
    rw [launches_dropLaunch, List.mem_filter] at there
    exact ⟨there.1, List.forall_mem_cons.2 ⟨by simpa using there.2, others⟩⟩

theorem tasks_dropLaunches_subset (s : State) (sel : Launch → Bool) : (dropLaunches s sel).tasks ⊆ s.tasks :=
  tasks_foldl_subset s (fun t l => by rw [dropLaunch_tasks]; exact fun _ hk => List.mem_of_mem_filter hk) _

/-- Phases 1 to 4 of a destroy: the slot has no command, and its launches and their tasks are gone (R389). -/
theorem queueDestroyed (s : State) (p n : Nat) :
    (queue (destroyQueue s p n) p n).destroying = true ∧ (queue (destroyQueue s p n) p n).cmds = [] ∧
      (∀ l ∈ (destroyQueue s p n).launches, l ∈ s.launches ∧ ¬(l.part = p ∧ l.q = n)) ∧
      ∀ k ∈ (destroyQueue s p n).tasks, k ∈ s.tasks ∧ ∀ l, launchOf s k.launch = some l → ¬(l.part = p ∧ l.q = n) := by
  unfold destroyQueue
  dsimp only
  refine ⟨by simp [queue_modQueue], by simp [queue_modQueue], fun l hl => ?_, fun k hk => ?_⟩
  · obtain ⟨there, others⟩ := launches_foldl_dropLaunch _ _ l hl
    refine ⟨(launches_discardTasks s _) ▸ there, fun mine => others l (List.mem_filter.2 ⟨there, by simp [mine]⟩) rfl⟩
  · have kept := tasks_dropLaunches_subset _ _ hk
    rw [discardTasks_tasks, List.mem_filter] at kept
    refine ⟨kept.1, fun l of mine => ?_⟩
    simpa [of, mine] using kept.2

/-! ### Graphs and their versions (R381 to R385) -/

theorem graphOf_setGraph (s : State) (p h : Nat) (v : Option Graph) : graphOf (setGraph s p h v) p h = v := by
  rw [graphOf, setGraph, modPart, part_setPart, if_pos rfl]
  exact look_put_same (d := none) _ h v

theorem Reads.image {s t : State} (h : Reads s t) : t.image = s.image := (congrArg State.image h.memory : (offMemory t).image = (offMemory s).image)

theorem Reads.spillPlace {s t : State} (h : Reads s t) (p n : Nat) : spillPlace t p n = spillPlace s p n := by
  have same : part t p = part s p := by rw [part, parts_of_offMemory h.memory, part]
  rw [Machine.spillPlace, spillAreas, partCfg, same, h.image]
  rfl

/-- Does a launch hold a version of a graph (R383)? -/
def captured (s : State) (p h v : Nat) : Bool := s.launches.any fun l => l.part == p && l.handle == h && l.version == v

/-- A released graph keeps exactly the versions that a launch holds (R385). -/
theorem graphOf_freeVersions_released {s : State} {p h : Nat} {g : Graph} (known : graphOf s p h = some g) (released : g.released = true)
    {v n : Nat} {d : List Byte} (there : (v, d, n) ∈ g.versions) :
    captured s p h v = true ↔ ∃ x, graphOf (freeVersions s p h) p h = some x ∧ x.released = true ∧ (v, d, n) ∈ x.versions := by
  have live : graphOf (freeVersions s p h) p h = if (g.versions.filter fun e => captured s p h e.1).isEmpty then none
      else some { g with versions := g.versions.filter fun e => captured s p h e.1 } := by
    unfold freeVersions
    rw [known]
    dsimp only
    rw [graphOf_setGraph]
    simp only [released]
    rfl
  rw [live]
  constructor
  · intro held
    have stays : (v, d, n) ∈ g.versions.filter fun e => captured s p h e.1 := List.mem_filter.2 ⟨there, held⟩
    rw [if_neg (by simpa using List.ne_nil_of_mem stays)]
    exact ⟨_, rfl, released, stays⟩
  · rintro ⟨x, some_x, -, mem⟩
    split at some_x
    · exact absurd some_x nofun
    · cases some_x
      exact (List.mem_filter.1 mem).2

section
variable {s : State} {p q : Nat} {seq : W32} {c : Cmd}

/-- A command that its row does not refuse is carried out. -/
theorem runCmd_carried {op : Nat} {extra : State → Cmd → Nat} {effect : State → Cmd → State} {t : State} (turn : HasTurn s p q seq op c)
    (free : extra s c = 0) (result : effect s c = t) :
    onUnit (partOk p && slotOk q) (runCmd s p q seq op (fun _ => true) extra effect) = .next t :=
  (runCmd_refusal turn extra effect).trans (congrArg _ ((if_neg (not_not_intro free)).trans result))

theorem ite_refusal {a : Prop} [Decidable a] {x y : Nat} (f : Nat → State) (z : State) (hx : x ≠ 0) :
    (if (if a then x else y) ≠ 0 then f (if a then x else y) else z) = if a then f x else if y ≠ 0 then f y else z := by
  by_cases h : a
  · rw [if_pos h, if_pos h, if_pos hx]
  · rw [if_neg h, if_neg h]

/-- The descriptor that a REGISTER_GRAPH names (R381). -/
def namedDescr (s : State) (c : Cmd) : List Byte :=
  (readPhys s (cw c 2 49 6 * 64) (cw c 3 19 0)).take (gTotal (readPhys s (cw c 2 49 6 * 64) (cw c 3 19 0)))

/-- The first version of a graph (R381). -/
def firstVersion (s : State) (p ctx : Nat) (d : List Byte) : Graph :=
  { ctx, current := 1, released := false, versions := [(1, d, d.length)], spillAt := [(1, spillPlace s p (spillClaim d))] }

theorem exec_registerGraph (turn : HasTurn s p q seq 0x84 c) : exec (.registerGraph p q seq) s = .next
    (if (graphOf s p (cw c 1 31 0)).isSome then finishCmd s p q seq 0x59
     else if loaderCode s p (cw c 1 47 32) (namedDescr s c).length (namedDescr s c) ≠ 0
       then finishCmd s p q seq (loaderCode s p (cw c 1 47 32) (namedDescr s c).length (namedDescr s c))
     else finishCmd (setGraph (agentReads s (cw c 2 49 6 * 64) (cw c 3 19 0) 0 true) p (cw c 1 31 0)
       (some (firstVersion s p (cw c 1 47 32) (namedDescr s c)))) p q seq 0) := by
  refine (runCmd_refusal turn _ _).trans (congrArg _ ?_)
  rw [seq_of_findCmd turn.here]
  dsimp only
  rw [(reads_agentReads s (cw c 2 49 6 * 64) (cw c 3 19 0) 0 true).spillPlace]
  exact ite_refusal (finishCmd s p q seq) _ (by decide)

/-- The version that a PATCH_GRAPH adds, with its claim on the store (R384). -/
def patchedDescr (s : State) (c : Cmd) (d : List Byte) : List Byte := applyPatch s (cw c 2 49 7 * 128) d
def patchClaim (s : State) (c : Cmd) : Nat :=
  64 * ((List.range (patchCount s (cw c 2 49 7 * 128))).map fun i => fieldAt (patchEntry s (cw c 2 49 7 * 128) i) 0 2).eraseDups.length

/-- A graph with one version more, which is current (R384). -/
def nextVersion (s : State) (p n : Nat) (g : Graph) (d : List Byte) : Graph :=
  { g with current := g.current + 1, versions := g.versions ++ [(g.current + 1, d, n)],
           spillAt := put 0 g.spillAt (g.current + 1) (spillPlace s p (spillClaim d)) }

/-- Where no version is above the current one, the current one is the last. -/
theorem foldl_max_eq {l : List (Nat × List Byte × Nat)} {k : Nat} (low : ∀ e ∈ l, e.1 ≤ k) : l.foldl (fun m (v, _, _) => Nat.max m v) k = k := by
  induction l with
  | nil => rfl
  | cons e l ih =>
    obtain ⟨first, others⟩ := List.forall_mem_cons.1 low
    rw [List.foldl_cons]
    exact (congrArg (fun m => l.foldl _ m) (Nat.max_eq_left first)).trans (ih others)

theorem exec_patchGraph {g : Graph} {d : List Byte} (turn : HasTurn s p q seq 0x85 c) (known : graphOf s p (cw c 1 31 0) = some g)
    (current : descrOf s p (cw c 1 31 0) g.current = some d) (few : g.versions.length < 4) (low : ∀ e ∈ g.versions, e.1 ≤ g.current)
    (admitted : loaderCode s p g.ctx (patchClaim s c) (patchedDescr s c d) = 0) : exec (.patchGraph p q seq) s = .next
    (finishCmd (freeVersions (setGraph (agentReads s (cw c 2 49 7 * 128) (128 + 128 * patchCount s (cw c 2 49 7 * 128)) 0 true) p (cw c 1 31 0)
      (some (nextVersion s p (patchClaim s c) g (patchedDescr s c d)))) p (cw c 1 31 0)) p q seq 0) := by
  have few' : ¬4 ≤ g.versions.length := by omega
  have patched : ((graphOf s p (cw c 1 31 0)).bind fun g => (descrOf s p (cw c 1 31 0) g.current).map fun d =>
      (g, applyPatch s (cw c 2 49 7 * 128) d, 64 * ((List.range (patchCount s (cw c 2 49 7 * 128))).map fun i =>
        fieldAt (patchEntry s (cw c 2 49 7 * 128) i) 0 2).eraseDups.length)) = some (g, patchedDescr s c d, patchClaim s c) := by
    rw [known, Option.bind_some, current]
    rfl
  refine runCmd_carried turn ?_ ?_
  · dsimp only
    rw [patched]
    exact (if_neg few').trans admitted
  · dsimp only
    rw [patched, seq_of_findCmd turn.here]
    dsimp only
    rw [foldl_max_eq low, (reads_agentReads s (cw c 2 49 7 * 128) (128 + 128 * patchCount s (cw c 2 49 7 * 128)) 0 true).spillPlace]
    rfl

theorem exec_releaseGraph {g : Graph} (turn : HasTurn s p q seq 0x86 c) (known : graphOf s p (cw c 1 31 0) = some g) :
    exec (.releaseGraph p q seq) s = .next
      (finishCmd (freeVersions (setGraph s p (cw c 1 31 0) (some { g with released := true })) p (cw c 1 31 0)) p q seq 0) := by
  refine runCmd_carried turn rfl ?_
  rw [seq_of_findCmd turn.here]
  dsimp only
  rw [known]
  rfl

end

/-- Settles O33: each command is its row's refusal or its effect; a destroyed slot keeps no launch and no task, and a released graph exactly the
versions that launches hold. -/
theorem contextsQueuesGraphs : Obligations.ContextsQueuesGraphs := by
  unfold Obligations.ContextsQueuesGraphs
  refine ⟨fun s p q seq c => ⟨fun turn => ⟨fun known => ?_, fun unknown => ?_⟩, fun turn => ⟨fun busy => ?_, fun idle => ?_⟩,
      fun turn n slot other => ⟨fun bound => ?_, fun unbound => ?_⟩,
      fun turn n slot other => ⟨fun going => ?_, fun still unbound => ?_, fun still bound => ?_⟩⟩,
    fun s p q seq c h handle => ⟨fun turn d descr => ⟨fun known => ?_, fun unknown refused => ?_, fun unknown admitted => ?_⟩,
      fun turn g d b known current block few low n claim admitted => ?_, fun turn g known => ?_⟩⟩
  · rw [exec_createContext turn, if_pos (Option.isSome_iff_ne_none.2 known)]
  · rw [exec_createContext turn, unknown]
    rfl
  · rw [exec_destroyContext turn, if_pos busy]
  · rw [exec_destroyContext turn, if_neg (by simp [idle])]
    obtain ⟨t, is, rest⟩ := contextGone s p q seq (cw c 1 15 0)
    exact ⟨t, by rw [is], rest⟩
  · subst slot
    rw [exec_createQueue turn, if_pos bound]
  · subst slot
    rw [exec_createQueue turn, if_neg (by simp [unbound])]
    have here := fun v : Queue => (queue_setQueue s p (cw c 1 8 0) p (cw c 1 8 0) v).trans (if_pos ⟨rfl, rfl⟩)
    have first : (BitVec.ofNat 32 (cw c 1 63 32)).toNat = cw c 1 63 32 := by
      rw [BitVec.toNat_ofNat]
      exact Nat.mod_eq_of_lt (cw_lt c 1 63 32)
    refine ⟨_, rfl, ?_⟩
    rw [queue_finishCmd_empty seq 0 other (by rw [here]), here]
    refine ⟨rfl, rfl, rfl, rfl, ?_⟩
    dsimp only
    rw [qcmpSeq_qcmpFirst, first]
  · subst slot
    rw [exec_destroyQueue turn, if_pos going]
  · subst slot
    rw [exec_destroyQueue turn, if_neg (by simp [still]), if_neg (by simp [unbound])]
  · subst slot
    rw [exec_destroyQueue turn, if_neg (by simp [still]), if_pos bound]
    obtain ⟨destroying, empty, launches, tasks⟩ := queueDestroyed s p (cw c 1 8 0)
    refine ⟨_, rfl, ?_⟩
    rw [queue_finishCmd_empty seq 0 other empty, finishCmd_tasks, (sameCtxs_finishCmd ..).launches]
    exact ⟨destroying, empty, launches, tasks⟩
  · subst handle descr
    rw [exec_registerGraph turn, if_pos (Option.isSome_iff_ne_none.2 known)]
  · subst handle descr
    rw [exec_registerGraph turn, unknown, if_neg (by simp)]
    exact congrArg _ (if_pos refused)
  · subst handle descr
    rw [exec_registerGraph turn, unknown, if_neg (by simp)]
    exact congrArg _ (if_neg (not_not_intro admitted))
  · subst handle block claim
    exact exec_patchGraph turn known current few low admitted
  · subst handle
    refine ⟨_, exec_releaseGraph turn known, fun l hl => ?_, fun v d n there => ?_⟩
    · rw [(sameCtxs_finishCmd ..).launches, launches_freeVersions]
      exact hl
    · rw [graphOf_finishCmd]
      exact graphOf_freeVersions_released (graphOf_setGraph ..) rfl there

end Sys2Proof.Machine
